-- ==== Sys2Proof/Word.lean ====
section
/-! DEFINITION. The word types of the K16 and the error codes of R7. -/
namespace Sys2Proof

abbrev W64 := BitVec 64
abbrev W32 := BitVec 32
abbrev Byte := BitVec 8

/-- The result codes of R7 (00_scope.md), in ascending order of their numbers. -/
inductive Code where
  | ok | rsvdBit | range | state | align | priv | key | busy
  | order | full | absent | edition | integrity | taint | timeout | bound
deriving DecidableEq, Repr

/-- The number of a code in the table of R7. -/
def Code.num : Code → Nat
  | .ok => 0 | .rsvdBit => 1 | .range => 2 | .state => 3 | .align => 4 | .priv => 5 | .key => 6 | .busy => 7
  | .order => 8 | .full => 9 | .absent => 10 | .edition => 11 | .integrity => 12 | .taint => 13 | .timeout => 14
  | .bound => 15

/-- R7: of several refusal reasons the lowest-numbered is reported; none is OK. -/
def Code.lowest (cs : List Code) : Code :=
  cs.foldr (fun c r => if c = .ok then r else if r = .ok then c else if c.num ≤ r.num then c else r) .ok

/-- The code `c` as a list when the refusal condition holds. -/
def refuseIf (b : Bool) (c : Code) : List Code := if b then [c] else []

end Sys2Proof
end

