-- ==== Sys2Proof/Machine/Bits.lean ====
section
/-! DEFINITION. Bit fields, sign extension and byte order (R3: bit 0 least significant, little-endian). -/
namespace Sys2Proof.Machine

/-- `wd` bits of `x` from bit `lo` on. -/
def nbits (x lo wd : Nat) : Nat := x / 2 ^ lo % 2 ^ wd

/-- Bits `[lo + wd - 1 : lo]` of a word. -/
def bf {n : Nat} (w : BitVec n) (lo wd : Nat) : Nat := nbits w.toNat lo wd

/-- Bit `i` of a number. -/
def nbit (x i : Nat) : Bool := x / 2 ^ i % 2 == 1

/-- `x` with its `wd` bits from `lo` on replaced by `v`. -/
def setBits (x lo wd v : Nat) : Nat :=
  x % 2 ^ lo + (v % 2 ^ wd) * 2 ^ lo + x / 2 ^ (lo + wd) * 2 ^ (lo + wd)

/-- The two's complement value of the low `wd` bits. -/
def sextNat (wd x : Nat) : Int :=
  let m := x % 2 ^ wd
  if m < 2 ^ (wd - 1) then (m : Int) else (m : Int) - 2 ^ wd

/-- The low `wd` bits of an integer. -/
def wrapInt (wd : Nat) (x : Int) : Nat := (x % (2 ^ wd : Int)).toNat

/-- A word of 64 bits from an integer, modulo 2^64. -/
def i64 (x : Int) : W64 := BitVec.ofNat 64 (wrapInt 64 x)

def b2n (b : Bool) : Nat := if b then 1 else 0

/-- The low `n` bytes of a number, least significant first. -/
def leBytes : Nat → Nat → List Byte
  | 0, _ => []
  | n + 1, x => BitVec.ofNat 8 x :: leBytes n (x / 256)

/-- The number that bytes spell, least significant first. -/
def leNat : List Byte → Nat
  | [] => 0
  | b :: t => b.toNat + 256 * leNat t

/-- The number that bytes spell, most significant first. -/
def beNat (l : List Byte) : Nat := l.foldl (fun a b => a * 256 + b.toNat) 0

/-- The low `n` bytes of a number, most significant first. -/
def beBytes (n x : Nat) : List Byte := (leBytes n x).reverse

/-- A count that stays at its largest value of `wd` bits. -/
def satInc (wd x : Nat) : Nat := if x + 1 < 2 ^ wd then x + 1 else 2 ^ wd - 1

/-- A sum that stays at the largest value of `wd` bits. -/
def satAdd (wd x y : Nat) : Nat := if x + y < 2 ^ wd then x + y else 2 ^ wd - 1

def inRange (lo hi x : Nat) : Bool := decide (lo ≤ x) && decide (x ≤ hi)

/-- Two's complement less-or-equal of the difference of two A64 angles or T64 times: `a - b` as a signed 64-bit value. -/
def diff64 (a b : W64) : Int := (a - b).toInt

end Sys2Proof.Machine
end

