-- ==== Sys2Proof/Syntax.lean ====
section
/-! DEFINITION. The commands the block takes (Instr) and the operands they carry. -/
namespace Sys2Proof

/-- A thread: trio identity, core and thread number (R80, R130). -/
structure ThreadId where
  trio : Fin 13
  core : Fin 3
  thr  : Fin 8
deriving DecidableEq, Repr

/-- Who performs a register access: the ring it counts in (R474), whether it comes from a YCP session, and the
thread it comes from when it does not. -/
structure Writer where
  ring : Fin 4
  ycp  : Bool
  tid  : ThreadId
deriving DecidableEq, Repr

/-- Width of a page access (R468). -/
inductive AccWidth where | b1 | b2 | b4 | b8
deriving DecidableEq, Repr

/-- KIND of a late store error (R197). -/
inductive StoreErr where | parity | data | mismatch | outOfService | timeout
deriving DecidableEq, Repr

/-- What the fabric returns with an access (R183, R197, R198); `upper`: the failure meets the upper half of a line-crossing access. -/
inductive BusResult where | ok | corrected | parity | data | mismatch | outOfService | timeout | upper (e : StoreErr)
deriving DecidableEq, Repr

/-- What a fault of an AAU changes in the result of one pass: bits of its 96-bit value, IX, DZ and NO_ROOT (R292). -/
structure AauHit where
  bits   : BitVec 96 := 0
  ix     : Bool := false
  dz     : Bool := false
  nr     : Bool := false
deriving DecidableEq, Repr

/-- What faults of an AAU change in the three passes of one operation (R291, R293). -/
structure AauHits where
  p1 : AauHit := {}
  p2 : AauHit := {}
  p3 : AauHit := {}
deriving DecidableEq, Repr

/-- What faults of the AAUs change in the operations of a command, in their order; nothing in those beyond the list. -/
structure AauCheck where
  ops : List AauHits := []
deriving DecidableEq, Repr

/-- The three losses of R22. -/
inductive ClockLoss where | pllUnlock | crystal | tickMissing
deriving DecidableEq, Repr

/-- The two rails that an on-chip monitor watches (R25), and VDD_IO33, whose loss the safety balls show (R488). -/
inductive SupplyRail where | core | aon | io33
deriving DecidableEq, Repr

/-- A fabric transaction that waits for its response (R183). -/
inductive FabricTxn where | load (t : ThreadId) | store (t : ThreadId) | io (stream : Fin 21) (write : Bool) (addr : BitVec 40)
deriving DecidableEq, Repr

/-- The three input balls of an incremental encoder (R209). -/
inductive EncBall where | a | b | z
deriving DecidableEq, Repr

/-- The preloaded timer registers (R349). -/
inductive TimerReg where | top | cmpa | cmpb
deriving DecidableEq, Repr

/-- The Smiari program hosts (R134). -/
inductive ProgHost where | engine | sequencer | ring (r : Fin 16) | classifier
deriving DecidableEq, Repr

/-- Units that periodic BIST takes (R444). -/
inductive BistUnit where | core (t : Fin 13) (c : Fin 3) | lane (l : Fin 4)
deriving DecidableEq, Repr

/-- PTP messages the device originates (R373). -/
inductive PtpMsg where | sync | announce | delayReq | pdelayReq
deriving DecidableEq, Repr

/-- The TAP instructions of R497, and TRSTn low, which resets the TAP. -/
inductive TapInstr where | bypass | idcode | samplePreload | extest | clamp | trst
deriving DecidableEq, Repr

/-- A queue entry as its 16 bytes lie in memory (R251). -/
structure RawEntry where
  target : W64
  action : BitVec 16
  flags  : BitVec 16
  param  : W32
deriving DecidableEq, Repr

/-- The source of an append (R255): a core thread with its ring and partition, the sequencer or the host. -/
inductive Appender where | core (t : ThreadId) (ring : Fin 4) (part : Fin 16) | seq | host
deriving DecidableEq, Repr

/-- An UP frame as received (R310, R314): header fields and its two records of 12 bytes; `aau`: what faults change in the lane
operations of its reports (R266). -/
structure UpFrame where
  typ   : BitVec 4
  dir   : Bool
  dest  : BitVec 7
  src   : BitVec 7
  seq   : BitVec 16
  epoch : BitVec 16
  rsvd0 : Bool
  rec0  : BitVec 96
  rec1  : BitVec 96
  aau   : AauCheck := {}
deriving DecidableEq, Repr

/-- The header of a received YCP request (R382). `wellFormed`: MAGIC, VERSION, RESP and the datagram length pass
R383; `auth`: the GCM tag of R385 verifies; `len`: LEN fits the command (R388); `port`: the Ethernet port. -/
structure YcpHdr where
  session    : W32
  seq        : W32
  enc        : Bool
  wellFormed : Bool
  auth       : Bool
  lenFits    : Bool
deriving DecidableEq, Repr

/-- One fault source asserting in a collector cycle, with what R416 records of its transaction; `addrMismatch`: a
shared SRAM error whose check showed an address mismatch or decoder parity error (R417). -/
structure Assertion where
  src    : BitVec 9
  addr   : Option (BitVec 40)
  master : W32
  access : BitVec 4
  detail : W32
  addrMismatch : Bool
deriving DecidableEq, Repr

/-- A failing memory cell that MBIST meets: its array by INSTANCE, its row and its column (R451, R452). -/
structure ArrCell where
  inst : BitVec 16
  row  : BitVec 16
  col  : BitVec 16
deriving DecidableEq, Repr

/-- What a boot meets in the silicon (R35): the level of TESTEN (R488), whether the collector answers, fuse errors, comparators that failed
the start-up test (trios, and AAUs 0 to 12 of the trios, 13 to 16 of the lanes), units that fail the full test, and the memory cells that
fail (R452). -/
structure BootEnv where
  testEn      : Bool
  collectorOk : Bool
  fuseError   : Bool
  trioCmpFail : List (Fin 13)
  aauCmpFail  : List (Fin 17)
  unitFail    : List (Fin 107)
  cells       : List ArrCell
deriving DecidableEq, Repr

/-- What a Gauze phase finds (R448): the units and the memory cells that fail in it, which entries of the burn fail their read-back, by
their place in the burn, whether the remap's does, and the flash results. -/
structure GauzeEnv where
  unitFail  : List (Fin 107)
  cells     : List ArrCell
  burnBad   : List Nat
  remapOk   : Bool
  flash0Ok  : Bool
  flash1Ok  : Bool
deriving DecidableEq, Repr


/-- The commands of spec/opcode_table.json, one constructor per row, with the row's operands. -/
inductive Instr where
  /-- POWER_ON_RESET (R29): PORn goes low or the VDD_AON monitor trips, and everything except the fuses is reset. -/
  | powerOnReset
  /-- SYSTEM_RESET_PIN (R29): RSTn held low for at least 1 µs resets everything outside the AON domain, keeping the collector records. -/
  | systemResetPin
  /-- WARM_RESET_REQ (R29): RST.REQ with KIND 1 and KEY 0xC3 takes a warm reset with DRAM kept in self-refresh. -/
  | warmResetReq (w : Writer) (key : Byte)
  /-- SYSTEM_RESET_REQ (R29): RST.REQ with KIND 2 and KEY 0xC3 takes a system reset. -/
  | systemResetReq (w : Writer) (key : Byte)
  /-- BOOT_SEQUENCE (R35): On release of a reset the Canvas ROM runs the boot steps through to entry into Calico, or into Felt if no image starts. -/
  | bootSequence (e : BootEnv)
  /-- NET_BOOT_TIMEOUT (R33): No network upload has begun or completed within 30 s, so the network source reports TIMEOUT. -/
  | netBootTimeout
  /-- ROM_ANNOUNCE (R395): Every 1 s the ROM sends an IDENTIFY response with ANNOUNCE set. -/
  | romAnnounce
  /-- DRAM_INIT_COMPLETE (R36): Background DRAM initialisation finishes and sets BOOT_STAT.DRAM_INIT. -/
  | dramInitComplete
  /-- CORE_DIV_WRITE (R20): A write to CLK.CORE_DIV changes the core divider on all cores at the next core-cycle boundary, or is refused with BUSY or RANGE. -/
  | coreDivWrite (w : Writer) (v : W32)
  /-- ROOT_CLOCK_LOSS (R22): PLL unlock, crystal error or a missing tick is detected as a root clock loss at Safe stop. -/
  | rootClockLoss (c : ClockLoss)
  /-- RAIL_OUT_OF_RANGE (R25): VDD_CORE or VDD_AON leaves its operating range and the monitor reports it to the collector. -/
  | railOutOfRange (r : SupplyRail) (mv : Nat)
  /-- VELVET_SUPPLY_DIP (R26): In Velvet, VDD_CORE falls below 0.70 V and the retained content is marked lost. -/
  | velvetSupplyDip (mv : Nat)
  /-- AVS_READBACK (R27): Every 1 ms the device reads back the regulator voltage and status. -/
  | avsReadback (answer : Option Nat)
  /-- MODE_REQ (R38): A write of SYS.MODE_REQ requests a mode, which is refused, accepted at once or starts a transition. -/
  | modeReq (w : Writer) (v : W32)
  /-- MODE_TRANSITION_COMPLETE (R37): A transition in progress ends, and its result is written to SYS.MODE_RES. -/
  | modeTransitionComplete
  /-- VELVET_SCRUB (R43): Every 8 s the AON scrubber reads the retained SRAM and corrects or flags errors. -/
  | velvetScrub (uncorrectable : Bool)
  /-- WAKE_PIN (R44): A WAKE pin level held for 1 µs wakes the device from Velvet. -/
  | wakePin (level : Bool)
  /-- RETENTION_TIMER_EXPIRY (R44): The retention timer expires in Velvet and wakes the device. -/
  | retentionTimerExpiry
  /-- WAKE_PATH (R44): After power-up and the wake tests, the image digest is compared, and the device jumps to WAKE or takes the cold path. -/
  | wakePath (e : BootEnv)
  /-- VELVET_SAFE_STOP_EXIT (R45): After a Safe stop in Velvet the device leaves Velvet into Felt with the image handler or the ROM handler. -/
  | velvetSafeStopExit (e : BootEnv)
  /-- GAUZE_STEP_END (R448): A phase of the Gauze test sequence completes and the next phase begins. -/
  | gauzeStepEnd (e : GauzeEnv)
  /-- GAUZE_COMPLETE (R38): The Gauze test completes and ends by warm reset or is held, as GAUZE_CTL.END selects. -/
  | gauzeComplete
  /-- TRIO_CFG_WRITE (R48): A write to TRIO.CFG sets the configuration, interval and remap permission, and may start a hand-over. -/
  | trioCfgWrite (w : Writer) (n : Fin 13) (v : W32)
  /-- HANDOVER_COMPLETE (R72): A configuration hand-over of a trio completes. -/
  | handoverComplete (n : Fin 13)
  /-- CHECKPOINT (R56): The checkpoint interval expires, or an early trigger fires, and a pair takes a checkpoint and commits. -/
  | checkpoint (n : Fin 13)
  /-- VOTED_DISAGREEMENT (R52): A voted output disagrees, the odd core is removed and its resync starts. -/
  | votedDisagreement (n : Fin 13) (odd : Fin 3)
  /-- PAIR_MISMATCH (R62): A pair output or signature mismatch triggers the failover discard, undo, reload and voted replay. -/
  | pairMismatch (n : Fin 13) (signature bankBad : Bool)
  /-- FAILOVER_RETURN (R62): One replay interval passes without disagreement, and the trio checkpoints and returns to PAIR. -/
  | failoverReturn (n : Fin 13)
  /-- RESYNC_COMPLETE (R65): A resynced core finishes its self-check and copy, and joins the trio or becomes the standby. -/
  | resyncComplete (n : Fin 13) (pass : Bool)
  /-- SOFT_REMAP_SWITCH (R70): After the copy, the identity, window, routing and sources move to trio 12 in one fabric cycle. -/
  | softRemapSwitch
  /-- VOTER_COPY_DISAGREE (R68): The two voter copies of a trio disagree and the trio is declared failed. -/
  | voterCopyDisagree (n : Fin 13)
  /-- LOAD_DATA_ARRIVAL (R101): Data of a fabric load arrives at the core and the stalled thread resumes. -/
  | loadDataArrival (t : ThreadId) (e : BusResult)
  /-- STORE_PERFORMED (R196): A buffered store is performed in memory and frees its store buffer entry. -/
  | storePerformed (t : ThreadId) (e : BusResult)
  /-- ICACHE_FILL (R100): An instruction cache line fill completes and the missing thread resumes. -/
  | icacheFill (t : ThreadId) (e : BusResult)
  /-- COPROCESSOR_RESULT (R298): A CP0, CP1 or CP2 result arrives at the core and the waiting thread resumes. -/
  | coprocessorResult (t : ThreadId) (a : AauCheck)
  /-- BLOCK_CHUNK (R97): Data of a block instruction chunk arrives, is written, and the operands advance. -/
  | blockChunk (t : ThreadId) (e : BusResult)
  /-- INTERRUPT_ENTRY (R104): An eligible interrupt is taken at an instruction boundary, writing the frame and entering the handler. -/
  | interruptEntry (t : ThreadId)
  /-- STORE_ERROR_REPORT (R158): The fabric reports an error for a store that has already left the thread, and the error is held pending. -/
  | storeErrorReport (t : ThreadId) (addr : BitVec 40) (kind : StoreErr) (log2size : Fin 4)
  /-- ASYNC_STORE_ERROR_ENTRY (R158): A pending asynchronous store error is taken in ring 0 at the thread's next boundary. -/
  | asyncStoreErrorEntry (t : ThreadId)
  /-- ALU (R112): A register-register integer, logic or shift operation, optionally setting flags. -/
  | alu (t : ThreadId) (w : W32)
  /-- ADDI (R114): Add a signed immediate. -/
  | addi (t : ThreadId) (w : W32)
  /-- ANDI (R114): AND with a zero-extended immediate. -/
  | andi (t : ThreadId) (w : W32)
  /-- ORI (R114): OR with a zero-extended immediate. -/
  | ori (t : ThreadId) (w : W32)
  /-- XORI (R114): XOR with a zero-extended immediate. -/
  | xori (t : ThreadId) (w : W32)
  /-- SHI (R114): Shift or rotate by an immediate amount, optionally setting flags. -/
  | shi (t : ThreadId) (w : W32)
  /-- CMPI (R114): Compare with a signed immediate and set the flags. -/
  | cmpi (t : ThreadId) (w : W32)
  /-- MOVW (R115): Set or insert a 16-bit immediate at position k of a register. -/
  | movw (t : ThreadId) (w : W32)
  /-- MUL (R116): Form the signed 128-bit product into PL and PH. -/
  | mul (t : ThreadId) (w : W32)
  /-- MULU (R116): Form the unsigned 128-bit product into PL and PH. -/
  | mulu (t : ThreadId) (w : W32)
  /-- DIV (R116): Signed divide, truncated toward zero. -/
  | div (t : ThreadId) (w : W32)
  /-- DIVU (R116): Unsigned divide. -/
  | divu (t : ThreadId) (w : W32)
  /-- REM (R116): Signed remainder. -/
  | rem (t : ThreadId) (w : W32)
  /-- REMU (R116): Unsigned remainder. -/
  | remu (t : ThreadId) (w : W32)
  /-- MFS (R130): Read a special register. -/
  | mfs (t : ThreadId) (w : W32)
  /-- MTS (R130): Write a special register, including SR by field, segment loads and KRR. -/
  | mts (t : ThreadId) (w : W32)
  /-- CMPP (R117): Compare two registers into a predicate and its complement. -/
  | cmpp (t : ThreadId) (w : W32)
  /-- CMPPI (R117): Compare a register with imm7 into a predicate and its complement. -/
  | cmppi (t : ThreadId) (w : W32)
  /-- PLOGIC (R118): Combine two predicates into a third. -/
  | plogic (t : ThreadId) (w : W32)
  /-- BR (R119): Relative branch. -/
  | br (t : ThreadId) (w : W32)
  /-- CALL (R120): Push a checked call frame through seg1 and branch relative. -/
  | call (t : ThreadId) (w : W32)
  /-- JMP (R119): Branch to a register address. -/
  | jmp (t : ThreadId) (w : W32)
  /-- CALLR (R120): Push a call frame and branch to a register address. -/
  | callr (t : ThreadId) (w : W32)
  /-- RET (R120): Check the link, pop the call frame and return. -/
  | ret (t : ThreadId) (w : W32)
  /-- LOOP (R121): Arm the hardware loop with a register count. -/
  | loopReg (t : ThreadId) (w : W32)
  /-- LOOPI (R121): Arm the hardware loop with an immediate count. -/
  | loopi (t : ThreadId) (w : W32)
  /-- LDB (R122): Load a byte, sign-extended. -/
  | ldb (t : ThreadId) (w : W32)
  /-- LDBU (R122): Load a byte, zero-extended. -/
  | ldbu (t : ThreadId) (w : W32)
  /-- LDH (R122): Load a halfword, sign-extended. -/
  | ldh (t : ThreadId) (w : W32)
  /-- LDHU (R122): Load a halfword, zero-extended. -/
  | ldhu (t : ThreadId) (w : W32)
  /-- LDW (R122): Load a word, sign-extended. -/
  | ldw (t : ThreadId) (w : W32)
  /-- LDWU (R122): Load a word, zero-extended. -/
  | ldwu (t : ThreadId) (w : W32)
  /-- LDD (R122): Load a doubleword. -/
  | ldd (t : ThreadId) (w : W32)
  /-- LDX (R122): Indexed load, sign-extended. -/
  | ldx (t : ThreadId) (w : W32)
  /-- LDXU (R122): Indexed load, zero-extended. -/
  | ldxu (t : ThreadId) (w : W32)
  /-- STB (R122): Store a byte. -/
  | stb (t : ThreadId) (w : W32)
  /-- STH (R122): Store a halfword. -/
  | sth (t : ThreadId) (w : W32)
  /-- STW (R122): Store a word. -/
  | stw (t : ThreadId) (w : W32)
  /-- STD (R122): Store a doubleword. -/
  | std (t : ThreadId) (w : W32)
  /-- STX (R122): Indexed store. -/
  | stx (t : ThreadId) (w : W32)
  /-- ATOM_SWAP (R123): Atomic swap. -/
  | atomSwap (t : ThreadId) (w : W32)
  /-- ATOM_FADD (R123): Atomic fetch-and-add. -/
  | atomFadd (t : ThreadId) (w : W32)
  /-- ATOM_CAS (R123): Atomic compare-and-swap. -/
  | atomCas (t : ThreadId) (w : W32)
  /-- ATOM_FOR (R123): Atomic fetch-and-OR. -/
  | atomFor (t : ThreadId) (w : W32)
  /-- BLKCOPY (R93): Resumable block copy in 64-byte chunks, with the direction chosen at each issue. -/
  | blkcopy (t : ThreadId) (w : W32)
  /-- BLKFILL (R93): Resumable block fill with a 64-bit pattern. -/
  | blkfill (t : ThreadId) (w : W32)
  /-- CRCR_32 (R125): Resumable CRC-32 (IEEE 802.3) over a region. -/
  | crcr32 (t : ThreadId) (w : W32)
  /-- CRCR_32C (R125): Resumable CRC-32C over a region. -/
  | crcr32c (t : ThreadId) (w : W32)
  /-- CRCR_64 (R125): Resumable CRC-64 (ECMA-182) over a region. -/
  | crcr64 (t : ThreadId) (w : W32)
  /-- SYNC (R126): Wait until every earlier store and append of the thread has been performed. -/
  | sync (t : ThreadId) (w : W32)
  /-- SYNC_TLB (R126): Wait until every TLBI of the thread has completed. -/
  | syncTlb (t : ThreadId) (w : W32)
  /-- ICI (R126): Invalidate the trio's instruction cache. -/
  | ici (t : ThreadId) (w : W32)
  /-- TLBI_ALL1 (R188): Broadcast invalidation of the stage 1 entries of the current partition. -/
  | tlbiAll1 (t : ThreadId) (w : W32)
  /-- TLBI_VA1 (R188): Broadcast invalidation of the entries for one linear address. -/
  | tlbiVa1 (t : ThreadId) (w : W32)
  /-- TLBI_IPA2 (R188): Broadcast invalidation of the stage 2 entries for one intermediate address. -/
  | tlbiIpa2 (t : ThreadId) (w : W32)
  /-- TLBI_ALL (R188): Broadcast invalidation of every entry, I/O units included. -/
  | tlbiAll (t : ThreadId) (w : W32)
  /-- TLBI_COMPLETE (R189): A broadcast TLBI has completed at every receiver. -/
  | tlbiComplete (t : ThreadId)
  /-- WAIT (R128): Put the thread into Waiting until an interrupt routed to it is pending. -/
  | waitIntr (t : ThreadId) (w : W32)
  /-- TSTART (R129): Start a Stopped thread of the core in ring 0. -/
  | tstart (t : ThreadId) (w : W32)
  /-- TSTOP (R129): Stop a thread of the core at its next boundary. -/
  | tstop (t : ThreadId) (w : W32)
  /-- ERET (R147): Check and restore an exception frame and return. -/
  | eret (t : ThreadId) (w : W32)
  /-- GRET (R147): Check and restore a gate frame and return. -/
  | gret (t : ThreadId) (w : W32)
  /-- BRK (R127): Debug halt of the trio under an authenticated session, otherwise an illegal opcode. -/
  | brk (t : ThreadId) (w : W32)
  /-- END (R139): End a Smiari program run and hand its results to the host. -/
  | endProgram (t : ThreadId) (w : W32)
  /-- GATE (R151): Read and check a gate table entry and enter its target ring. -/
  | gate (t : ThreadId) (w : W32)
  /-- ADIFF (R287): AAU signed angle difference. -/
  | adiff (t : ThreadId) (w : W32)
  /-- AADD (R287): AAU angle plus difference. -/
  | aadd (t : ThreadId) (w : W32)
  /-- TADD (R287): AAU time plus difference, saturating. -/
  | tadd (t : ThreadId) (w : W32)
  /-- TDIFF (R287): AAU time difference, saturating. -/
  | tdiff (t : ThreadId) (w : W32)
  /-- TSUBL (R287): AAU time minus latency. -/
  | tsubl (t : ThreadId) (w : W32)
  /-- MULSH (R287): AAU signed product scaled and rounded. -/
  | mulsh (t : ThreadId) (w : W32)
  /-- MULUH (R287): AAU unsigned product scaled and rounded. -/
  | muluh (t : ThreadId) (w : W32)
  /-- DIVSH (R290): AAU signed scaled quotient. -/
  | divsh (t : ThreadId) (w : W32)
  /-- DIVUH (R290): AAU unsigned scaled quotient. -/
  | divuh (t : ThreadId) (w : W32)
  /-- PRED (R288): AAU predicted angle. -/
  | pred (t : ThreadId) (w : W32)
  /-- INVPRED (R289): AAU time to target, or NO_ROOT. -/
  | invpred (t : ThreadId) (w : W32)
  /-- LATM (R290): AAU temperature-dependent latency. -/
  | latm (t : ThreadId) (w : W32)
  /-- AGEUPD (R290): AAU clamped ageing-term update. -/
  | ageupd (t : ThreadId) (w : W32)
  /-- FLGRD (R295): Read the thread's AAU flag word. -/
  | flgrd (t : ThreadId) (w : W32)
  /-- FLGWR (R295): Write the thread's AAU flag word. -/
  | flgwr (t : ThreadId) (w : W32)
  /-- FLGCLR (R295): Clear the named sticky AAU flags. -/
  | flgclr (t : ThreadId) (w : W32)
  /-- CRC_32 (R132): CP1 CRC-32 step over 8 bytes. -/
  | crc32 (t : ThreadId) (w : W32)
  /-- CRC_32C (R132): CP1 CRC-32C step over 8 bytes. -/
  | crc32c (t : ThreadId) (w : W32)
  /-- CRC_64 (R132): CP1 CRC-64 step over 8 bytes. -/
  | crc64 (t : ThreadId) (w : W32)
  /-- SHA384_BLK (R132): CP1 SHA-384 compression in local SRAM. -/
  | sha384Blk (t : ThreadId) (w : W32)
  /-- AES256_ENC (R132): CP1 AES-256 block encryption in place. -/
  | aes256Enc (t : ThreadId) (w : W32)
  /-- GHASH_MUL (R132): CP1 GHASH multiplication of the accumulator by H. -/
  | ghashMul (t : ThreadId) (w : W32)
  /-- APPEND (R133): CP2 posted append of one entry to a queue. -/
  | append (t : ThreadId) (w : W32)
  /-- APPEND_S (R133): CP2 append that returns the result code. -/
  | appendS (t : ThreadId) (w : W32)
  /-- QSTAT (R133): CP2 read of a queue's state word. -/
  | qstat (t : ThreadId) (w : W32)
  /-- QSPACE (R133): CP2 read of a queue's free entries. -/
  | qspace (t : ThreadId) (w : W32)
  /-- ACK (R161): A write to INTD.ACK marks a source active for the requesting thread. -/
  | ack (w : Writer) (v : W32)
  /-- EOI (R161): A write to INTD.EOI ends the active state of a source. -/
  | eoi (w : Writer) (v : W32)
  /-- SWI_SET (R163): A write makes a software interrupt source pending. -/
  | swiSet (w : Writer) (v : W32)
  /-- SWI_CLR (R163): A write clears a software interrupt source. -/
  | swiClr (w : Writer) (v : W32)
  /-- TABLE_WALK_READ (R184): A table entry read of a walk returns, and the walk advances, faults or installs a TLB entry. -/
  | tableWalkRead (t : ThreadId) (e : BusResult)
  /-- IOT_INV (R194): A write to MMU.IOT_INV starts the removal of a stream's I/O translation entries. -/
  | iotInv (w : Writer) (v : W32)
  /-- IOT_INV_COMPLETE (R194): An I/O invalidation completes and clears BUSY. -/
  | iotInvComplete
  /-- FABRIC_TIMEOUT (R183): A transaction receives no response within 64 µs. -/
  | fabricTimeout (x : FabricTxn)
  /-- XSPI_PROGRAM (R202): An XSPI.CMD PROGRAM starts a flash page program. -/
  | xspiProgram (w : Writer) (port : Bool)
  /-- XSPI_ERASE_4K (R202): An XSPI.CMD ERASE_4K starts a 4 KiB erase. -/
  | xspiErase4k (w : Writer) (port : Bool)
  /-- XSPI_ERASE_64K (R202): An XSPI.CMD ERASE_64K starts a 64 KiB erase. -/
  | xspiErase64k (w : Writer) (port : Bool)
  /-- XSPI_CMD_COMPLETE (R202): A flash command completes, writes its code and raises the xSPI interrupt. -/
  | xspiCmdComplete (port ok : Bool)
  /-- PATROL_SCRUB (R200): Every HOURS hours the patrol scrubber reads and corrects all DRAM. -/
  | patrolScrub (d : Bool) (corrected : List (BitVec 40)) (uncorrectable : List (BitVec 40))
  /-- SHAFT_TICK (R224): Every 10 ns tick each shaft decodes, steps its observer, compares, forms steps and publishes a snapshot. -/
  | shaftTick (copyDiff : List (Fin 8))
  /-- ENCODER_TRANSITION (R210): An input transition passes the glitch filter and is time-stamped. -/
  | encoderTransition (n : Fin 8) (ball : EncBall) (level : Bool) (ts : W64)
  /-- SAFE_SPEED_DISCREPANCY (R236): A comparison failure persists for DISC_TIME and raises the discrepancy event. -/
  | safeSpeedDiscrepancy (p : Fin 4)
  /-- STANDSTILL (R225): No measurement arrives for STILL ms, and the observer sets the standstill state. -/
  | standstill (n : Fin 8)
  /-- SSI_FRAME_START (R215): Every SSI_PERIOD the SSI master starts a frame. -/
  | ssiFrameStart (n : Fin 8)
  /-- SSI_FRAME_COMPLETE (R216): A received SSI frame is checked and gives a measurement or an SSI error. -/
  | ssiFrameComplete (n : Fin 8) (dataHigh : Bool) (frame : BitVec 40) (ts : W64)
  /-- REF_NOW (R213): Shaft command that sets the count to CMD_ARG and references the shaft. -/
  | refNow (w : Writer) (n : Fin 8)
  /-- CLR_REF (R213): Shaft command that clears REFERENCED. -/
  | clrRef (w : Writer) (n : Fin 8)
  /-- ALIGN (R235): Shaft command that sets SAFE_OFS from the pair's angles. -/
  | shaftAlign (w : Writer) (n : Fin 8)
  /-- LEARN_START (R232): Shaft command that starts learning a correction table. -/
  | learnStart (w : Writer) (n : Fin 8)
  /-- LEARN_ABORT (R233): Shaft command that ends learning with STATE. -/
  | learnAbort (w : Writer) (n : Fin 8)
  /-- CT_APPLY (R231): A write of CT_CTL.MODE = APPLY computes the table CRC and applies the table, or is refused. -/
  | ctApply (w : Writer) (n : Fin 8) (v : W32)
  /-- CT_DATA_READ (R231): A read of CT_DATA returns an entry and increments CT_IDX. -/
  | ctDataRead (w : Writer) (n : Fin 8)
  /-- CT_DATA_WRITE (R231): A write of CT_DATA sets an entry and increments CT_IDX. -/
  | ctDataWrite (w : Writer) (n : Fin 8) (v : W32)
  /-- REV_SET (R240): A write sets the revolution field of the angle and of the decoder at the next tick. -/
  | revSet (w : Writer) (n : Fin 8) (v : W32)
  /-- SNAP_ALL (R245): A write takes the snapshot groups of the named shafts at the next tick. -/
  | snapAll (w : Writer) (v : W32)
  /-- QUEUE_ENABLE (R252): Setting QCTL.EN arms an IDLE queue on its block region. -/
  | queueEnable (w : Writer) (q : Fin 16384) (v : W32)
  /-- QUEUE_DISABLE (R254): Clearing QCTL.EN drains or cancels the queue to IDLE. -/
  | queueDisable (w : Writer) (q : Fin 16384) (v : W32)
  /-- QUEUE_START (R252): QCMD START moves an ARMED queue to RUNNING. -/
  | queueStart (w : Writer) (q : Fin 16384)
  /-- QUEUE_HALT (R252): QCMD HALT halts a RUNNING queue. -/
  | queueHalt (w : Writer) (q : Fin 16384)
  /-- QUEUE_RESUME (R252): QCMD RESUME restarts a HALTED queue and rechecks its head. -/
  | queueResume (w : Writer) (q : Fin 16384)
  /-- QUEUE_FLUSH (R252): QCMD FLUSH discards the undispatched entries. -/
  | queueFlush (w : Writer) (q : Fin 16384)
  /-- QUEUE_SKIP_HEAD (R252): QCMD SKIP_HEAD discards the first undispatched entry of a halted queue. -/
  | queueSkipHead (w : Writer) (q : Fin 16384)
  /-- GROUP_START (R252): A write of ENG.START starts every ARMED queue of the group. -/
  | groupStart (w : Writer) (g : Fin 16)
  /-- QUEUE_APPEND (R256): An append reaching the engine's append port is checked and added to the queue, or refused and recorded. -/
  | queueAppend (a : Appender) (q : BitVec 16) (e : RawEntry)
  /-- QUEUE_CHECK (R258): At its due time a lane checks a queue head, rechecking, parking, handling a late entry or dispatching. -/
  | queueCheck (q : Fin 16384) (a : AauCheck)
  /-- ENTRY_RETIRE (R261): The device time passes an entry's fire time, and it retires. -/
  | entryRetire (q : Fin 16384)
  /-- RETIME_UPDATE (R263): Every RETIME_PERIOD a lane updates each retime group and sends retimes. -/
  | retimeUpdate (a : AauCheck)
  /-- CANCEL_CMD (R264): A write of GO to ENG.CANCEL_CMD cancels a queue's entries from CANCEL_A onward. -/
  | cancelCmd (w : Writer)
  /-- CANCEL_COMPLETE (R264): Every in-flight entry of a cancel has retired, and CANCEL_RES reads OK. -/
  | cancelComplete
  /-- ENG_PROG_LOAD (R269): A write of ENG.PROG_LOAD starts the load of an engine program. -/
  | engProgLoad (w : Writer) (v : W32)
  /-- SEQ_PROG_LOAD (R282): A write of SEQ.PROG_LOAD starts the load of a sequencer program. -/
  | seqProgLoad (w : Writer) (v : W32)
  /-- RING_PROG_LOAD (R335): A write of RING.PROG_LOAD starts the load of a ring engine program. -/
  | ringProgLoad (w : Writer) (r : Fin 16) (v : W32)
  /-- NET_PROG_LOAD (R381): A write of NET.PROG_LOAD starts the load of a classifier program. -/
  | netProgLoad (w : Writer) (v : W32)
  /-- PROGRAM_LOAD_DONE (R138): A Smiari program load completes its check, and the program is installed or refused. -/
  | programLoadDone (h : ProgHost)
  /-- SEQ_LOAD (R273): Sequencer command LOAD starts checking a track. -/
  | seqLoad (w : Writer)
  /-- SEQ_LOAD_DONE (R273): The track check completes, writing its code and the new state. -/
  | seqLoadDone
  /-- SEQ_START (R276): Sequencer command START runs the track from row 0. -/
  | seqStart (w : Writer) (keep : Bool)
  /-- SEQ_PAUSE (R276): Sequencer command PAUSE pauses after the slice in progress. -/
  | seqPause (w : Writer)
  /-- SEQ_CONTINUE (R276): Sequencer command CONTINUE resumes a paused sequencer. -/
  | seqContinue (w : Writer)
  /-- SEQ_STOP (R276): Sequencer command STOP returns to LOADED after the slice in progress. -/
  | seqStop (w : Writer)
  /-- SEQ_ROW_TAKE (R274): The next row comes within AHEAD of the master shaft, and its slices are compared and appended. -/
  | seqRowTake
  /-- SEQ_APPEND_RETRY (R274): Every 1 µs the sequencer retries an append refused with FULL. -/
  | seqAppendRetry
  /-- MARK_INFO_READ (R280): The first read of MARK_INFO snapshots and removes the oldest mark. -/
  | markInfoRead (w : Writer)
  /-- RX_LOCK (R332): A ring receive lane locks in LINK, and the port enters IDLE and enumerates. -/
  | rxLock (r : Fin 16) (lane : Bool)
  /-- LINK_LOSS (R332): Both RX lanes are without lock for 1 µs, and the port enters LINK. -/
  | linkLoss (r : Fin 16)
  /-- LOCK_RETRY (R332): Every 10 ms an unsuccessful lock acquisition restarts. -/
  | lockRetry (r : Fin 16)
  /-- ENUMERATE (R316): Ring command that starts enumeration. -/
  | enumerate (w : Writer) (r : Fin 16)
  /-- ENUM_RETURN (R316): An ENUM frame returns to the port, giving the node count or a break. -/
  | enumReturn (r : Fin 16) (lane : Bool) (next : Byte)
  /-- ENUM_TIMEOUT (R316): No ENUM returns within 100 µs, and enumeration ends with TIMEOUT. -/
  | enumTimeout (r : Fin 16)
  /-- MEASURE (R318): Ring command that measures node delays. -/
  | measure (w : Writer) (r : Fin 16) (node : BitVec 7)
  /-- RING_ARM (R333): Ring command ARM that sends ARM to the nodes. -/
  | ringArm (w : Writer) (r : Fin 16) (node : BitVec 7)
  /-- RING_RELEASE (R333): Ring command RELEASE that returns SAFE nodes to ARMED. -/
  | ringRelease (w : Writer) (r : Fin 16)
  /-- DESC_READ (R340): Ring command that reads a node descriptor. -/
  | descRead (w : Writer) (r : Fin 16) (node : BitVec 7)
  /-- TIME_SEND (R320): Every TIME_PERIOD the port sends a TIME frame. -/
  | timeSend (r : Fin 16)
  /-- BG_MEASURE (R318): Every 1 ms the port measures the next node in rotation. -/
  | bgMeasure (r : Fin 16)
  /-- RING_SLOT (R326): Each 160 ns slot, the port sends the highest-priority pending downstream traffic. -/
  | ringSlot (r : Fin 16)
  /-- UP_FRAME (R311): An UP frame arrives, is accepted or discarded, and its records are handled. -/
  | upFrame (r : Fin 16) (lane : Bool) (good : Bool) (f : UpFrame) (ts : W64)
  /-- CANCEL_REPEAT (R328): An unacknowledged CANCEL is repeated after 20 µs. -/
  | cancelRepeat (r : Fin 16) (id : W32)
  /-- CANCEL_NOACK (R328): No ACK has arrived 100 µs after the fire time, so the entry retires as executed. -/
  | cancelNoack (r : Fin 16) (id : W32)
  /-- REPORT_WAIT_EXPIRY (R328): A report table entry is freed REPORT_WAIT ms after the fire time. -/
  | reportWaitExpiry (r : Fin 16) (id : W32)
  /-- NODE_LOST (R325): A node sends no STATUS for 3 × STATUS_MS and counts as lost. -/
  | nodeLost (r : Fin 16) (node : BitVec 7)
  /-- SAFE_PATTERN_REPEAT (R329): While the safe-stop line is asserted, the SAFE pattern is repeated every 256 characters. -/
  | safePatternRepeat (r : Fin 16)
  /-- RING_DISABLE_END (R334): 100 µs after a ring disable the port stops its lanes and sets QUIESCED. -/
  | ringDisableEnd (r : Fin 16)
  /-- TIMER_CH_ENABLE (R342): Writing CH_EN = 1 takes a channel from OFF to STOPPED. -/
  | timerChEnable (w : Writer) (ch : Fin 64) (v : W32)
  /-- TIMER_CH_DISABLE (R355): Writing CH_EN = 0 stops a channel and drives its ball to IDLE. -/
  | timerChDisable (w : Writer) (ch : Fin 64) (v : W32)
  /-- TIMER_START (R342): Timer CMD START runs a STOPPED channel. -/
  | timerStart (w : Writer) (ch : Fin 64)
  /-- TIMER_STOP (R342): Timer CMD STOP stops a RUNNING channel. -/
  | timerStop (w : Writer) (ch : Fin 64)
  /-- GSTART (R352): The GSTART pair starts the named channels in one cycle. -/
  | gstart (w : Writer) (lo hi : W32)
  /-- GSTOP (R352): The GSTOP pair stops the named channels in one cycle. -/
  | gstop (w : Writer) (lo hi : W32)
  /-- TIMER_BUS_STEP (R343): A prescaled bus-clock step counts the channel up or down. -/
  | timerBusStep (ch : Fin 64)
  /-- TIMER_ANGLE_STEP (R344): A tick's angle steps are applied to an angle-clocked channel. -/
  | timerAngleStep (ch : Fin 64)
  /-- TIMER_CAPTURE (R351): An accepted input edge captures the count into CAPR or CAPF. -/
  | timerCapture (ch : Fin 64) (rising : Bool)
  /-- TIMER_COUNT_READ (R354): A read of the even COUNT latches the odd half of a linked pair. -/
  | timerCountRead (w : Writer) (ch : Fin 64)
  /-- TIMER_PRELOAD_WRITE (R349): A write of TOP, CMPA or CMPB sets the preload, or the active value too under bypass. -/
  | timerPreloadWrite (w : Writer) (ch : Fin 64) (x : TimerReg) (v : W32)
  /-- LINK_CHANGE (R362): An Ethernet port link goes up or down. -/
  | linkChange (p : Fin 2) (up dupAddr : Bool)
  /-- TRAIN_TIMEOUT (R363): KR training has not completed in 500 ms, so TRAIN_FAIL is set. -/
  | trainTimeout (p : Fin 2)
  /-- TRAIN_RESTART (R363): Training restarts 1 s after a failure. -/
  | trainRestart (p : Fin 2)
  /-- ETH_FRAME_RX (R364): A received frame passes MAC, MACsec and PRP, and is dispatched to its service. -/
  | ethFrameRx (p : Fin 2) (lineOk : Bool) (frame : List Byte) (ts : W64)
  /-- PRP_SUPERVISION_TX (R370): Every LIFE ms a supervision frame is sent on both ports. -/
  | prpSupervisionTx
  /-- PRP_NODE_FORGET (R369): A node silent for 60 s is removed from the node table. -/
  | prpNodeForget (mac : BitVec 48)
  /-- ANNOUNCE_TIMEOUT (R374): No Announce arrives for 3 intervals, so the engine switches port or enters holdover. -/
  | announceTimeout (p : Fin 2)
  /-- SA_INSTALL (R367): SA_CMD INSTALL takes the staged key, salt, SSCI and PN into the selected SA. -/
  | saInstall (w : Writer) (p : Fin 2)
  /-- SA_ENABLE (R367): SA_CMD ENABLE enables the selected SA. -/
  | saEnable (w : Writer) (p : Fin 2)
  /-- SA_DISABLE (R367): SA_CMD DISABLE disables the selected SA. -/
  | saDisable (w : Writer) (p : Fin 2)
  /-- RAWTX_HEAD_WRITE (R381): Advancing RAWTX_HEAD hands slots to the device for sending. -/
  | rawtxHeadWrite (w : Writer) (v : W32)
  /-- IDENTIFY (R388): YCP command that returns the device identity. -/
  | ycpIdentify (h : YcpHdr)
  /-- OPEN (R385): YCP command that opens a pending session with a derived key. -/
  | ycpOpen (h : YcpHdr) (slot : Byte) (zeros : BitVec 24) (nonce : BitVec 128)
  /-- CLOSE (R388): YCP command that closes the session. -/
  | ycpClose (h : YcpHdr)
  /-- PING (R388): YCP command that returns the device time. -/
  | ycpPing (h : YcpHdr)
  /-- REG_READ (R388): YCP command that reads registers. -/
  | regRead (h : YcpHdr) (addr : W64) (count : W32)
  /-- REG_WRITE (R388): YCP command that writes a register. -/
  | regWrite (h : YcpHdr) (addr : W64) (v : W32)
  /-- MEM_READ (R388): YCP command that reads memory through stream 20. -/
  | memRead (h : YcpHdr) (addr : W64) (len : W32)
  /-- MEM_WRITE (R388): YCP command that writes memory through stream 20. -/
  | memWrite (h : YcpHdr) (addr : W64) (data : List Byte)
  /-- QAPPEND (R389): YCP command that appends entries to a host queue, all or none. -/
  | qappend (h : YcpHdr) (q : BitVec 16) (count : BitVec 16) (entries : List RawEntry)
  /-- PAT_WRITE (R388): YCP command that writes the pattern window. -/
  | patWrite (h : YcpHdr) (ofs : W32) (data : List Byte)
  /-- PAT_LOAD (R388): YCP command that sets SEQ.TRK and issues LOAD. -/
  | patLoad (h : YcpHdr) (ofs : W32)
  /-- YCP_MODE_REQ (R388): YCP command that requests a mode. -/
  | ycpModeReq (h : YcpHdr) (target : Byte)
  /-- IMAGE_BEGIN (R390): YCP command that starts an image upload. -/
  | imageBegin (h : YcpHdr) (target : Byte) (hdr : List Byte)
  /-- IMAGE_DATA (R390): YCP command that delivers image data in order. -/
  | imageData (h : YcpHdr) (ofs : W32) (data : List Byte)
  /-- IMAGE_END (R390): YCP command that checks the image and starts it or programs it to flash. -/
  | imageEnd (h : YcpHdr)
  /-- IMAGE_FLASH_COMPLETE (R390): Flash erase, program and read-back of an uploaded image complete, and IMAGE_END is answered. -/
  | imageFlashComplete (ok : Bool)
  /-- DEBUG_CHAL (R388): YCP command that returns a debug challenge. -/
  | debugChal (h : YcpHdr)
  /-- DEBUG_UNLOCK (R391): YCP command that verifies a signed challenge and unlocks debug. -/
  | debugUnlock (h : YcpHdr) (pubkey sig : List Byte)
  /-- DEBUG_HALT (R76): YCP command that halts a trio or core and taints it. -/
  | debugHalt (h : YcpHdr) (trio core : Byte)
  /-- DEBUG_RESUME (R388): YCP command that resumes a halted core. -/
  | debugResume (h : YcpHdr) (trio core : Byte)
  /-- DEBUG_STEP (R388): YCP command that steps a halted thread. -/
  | debugStep (h : YcpHdr) (trio core thr : Byte)
  /-- DEBUG_REG_READ (R388): YCP command that reads a register of a halted thread. -/
  | debugRegRead (h : YcpHdr) (trio core thr : Byte) (reg : BitVec 16)
  /-- DEBUG_REG_WRITE (R77): YCP command that writes a register of a halted thread and taints the trio. -/
  | debugRegWrite (h : YcpHdr) (trio core thr : Byte) (reg : BitVec 16) (v : W64)
  /-- SAFE (R393): YCP command that carries a host safety PDU for the black-channel checker. -/
  | ycpSafe (h : YcpHdr) (pdu : BitVec 128) (copiesAgree : Bool)
  /-- SAFE_WATCHDOG (R393): No good PDU arrives within WATCHDOG ms, so supervision failure is raised. -/
  | safeWatchdog
  /-- SESSION_PENDING_TIMEOUT (R385): A session still pending after 1 s is discarded. -/
  | sessionPendingTimeout (slot : Fin 8)
  /-- SESSION_IDLE_TIMEOUT (R385): A session closes after TIMEOUT ms without a valid request. -/
  | sessionIdleTimeout (slot : Fin 8)
  /-- HELD_REQUEST_TIMEOUT (R386): A held out-of-order request is discarded after 100 ms. -/
  | heldRequestTimeout (slot : Fin 8) (seq : W32)
  /-- DEBUG_LOCKOUT_END (R391): The 60 s debug challenge lockout ends. -/
  | debugLockoutEnd
  /-- FAULT_SOURCE_ASSERT (R413): A fault source asserts, and the collector sets its bit and reacts at its severity. -/
  | faultSourceAssert (a : List Assertion)
  /-- FELT_ENTRY (R420): The device enters Felt, halting queues, pausing the sequencer and stopping threads. -/
  | feltEntry
  /-- RECOVERY_ENTRY (R420): Thread 0 of trio 0 completes the hand-over and takes source 499 as the recovery handler. -/
  | recoveryEntry
  /-- SAFETY_INPUT_ACCEPT (R423): A safety channel level held for FILT samples is accepted and may change the input's demand. -/
  | safetyInputAccept (inp : Fin 16) (chB level : Bool) (rawA rawB : Bool)
  /-- SAFETY_DISCREPANCY (R425): Discrepant channels lasting 2^DISC ms raise the input fault. -/
  | safetyDiscrepancy (inp : Fin 16)
  /-- TEST_PULSE (R424): Every PERIOD ms a test pulse output goes low for WIDTH cycles. -/
  | testPulse (k : Fin 4)
  /-- TEST_PULSE_CHECK (R424): At the end of a pulse window a missed pulse raises the input fault. -/
  | testPulseCheck (inp : Fin 16) (seenA seenB : Bool)
  /-- STO_TEST_PULSE (R427): Every PERIOD × 10 ms the next pair in the run state is pulse-tested. -/
  | stoTestPulse (appeared : Bool)
  /-- STO_READBACK_MISMATCH (R427): An STO read-back differs for 2 cycles and raises the pair's source. -/
  | stoReadbackMismatch (n : Fin 8) (a b : Bool)
  /-- FAULT_READBACK_MISMATCH (R422): A FAULT ball read-back differs for 2 cycles and raises source 7. -/
  | faultReadbackMismatch
  /-- SS1_DELAY_END (R428): The SS1 delay ends, the pair stops, and in SS1-r source 460 may be raised. -/
  | ss1DelayEnd (n : Fin 8)
  /-- STO_ACK (R426): A write returns the named STO pairs to their run state. -/
  | stoAck (w : Writer) (v : W32)
  /-- SW_STOP (R433): A keyed write raises the software stop source. -/
  | swStop (w : Writer) (v : W32)
  /-- REC_CLOSE (R415): A write closes the first-error record. -/
  | recClose (w : Writer) (v : W32)
  /-- FSW_LIVE_CLEAR (R410): A W1C write clears live fault bits whose conditions no longer hold. -/
  | fswLiveClear (w : Writer) (k : Fin 16) (v : W32)
  /-- JUNCTION_OVERTEMP (R405): The junction stays above 125 °C for 1 ms. -/
  | junctionOvertemp
  /-- BIST_SLICE_START (R444): Every GAP ms a periodic logic BIST slice takes an eligible unit. -/
  | bistSliceStart (u : BistUnit)
  /-- BIST_SLICE_END (R446): A slice finishes, and its signature passes or condemns the unit. -/
  | bistSliceEnd (u : BistUnit) (pass : Bool)
  /-- MONITOR_MEASURE (R455): Every 1 ms the ageing monitors measure their slack. -/
  | monitorMeasure (a b : List (BitVec 16))
  /-- TEMP_SAMPLE (R456): Every second the junction temperature is binned. -/
  | tempSample (celsius : Int)
  /-- MARGIN_EVALUATE (R457): Every 1 ms the margin planner raises or lowers the voltage or steps the divider. -/
  | marginEvaluate
  /-- MARGIN_YEARS (R459): Every second the remaining margin in years is computed. -/
  | marginYears
  /-- VSET_REQ (R458): A write sets the core voltage target under manual control. -/
  | vsetReq (w : Writer) (v : W32)
  /-- MARGIN_LOAD_DATA (R460): A write stages the next ageing state word. -/
  | marginLoadData (w : Writer) (v : W32)
  /-- MARGIN_LOAD_GO (R460): LOAD_CMD GO checks and loads the saved ageing state. -/
  | marginLoadGo (w : Writer)
  /-- SEC_VER_CMD (R461): A keyed write starts burning a new minimum security version. -/
  | secVerCmd (w : Writer) (key : Byte)
  /-- SEC_VER_BURN_DONE (R461): The security version burn completes or fails. -/
  | secVerBurnDone (ok : Bool)
  /-- PG_EN_SET (R479): Setting PG_CTL.EN enables a page's block. -/
  | pgEnSet (w : Writer) (pg : BitVec 12) (quiesce : Bool)
  /-- PG_EN_CLEAR (R477): Clearing PG_CTL.EN drains and disables a block, or is refused. -/
  | pgEnClear (w : Writer) (pg : BitVec 12)
  /-- PG_QUIESCE_SET (R478): Setting QUIESCE holds the block's new work. -/
  | pgQuiesceSet (w : Writer) (pg : BitVec 12)
  /-- PG_QUIESCE_CLEAR (R479): Clearing QUIESCE returns the block to RUNNING. -/
  | pgQuiesceClear (w : Writer) (pg : BitVec 12)
  /-- DRAIN_COMPLETE (R477): The last accepted work completes, and the page becomes DISABLED or HELD. -/
  | drainComplete (pg : BitVec 12)
  /-- PG_PROT_WRITE (R474): A ring 0 write sets the page's read and write rings. -/
  | pgProtWrite (w : Writer) (pg : BitVec 12) (v : W32)
  /-- REGISTER_WRITE (R476): A write to a register without a row of its own is checked and applied or refused into PG_WSTAT. -/
  | registerWrite (w : Writer) (addr : BitVec 40) (width : AccWidth) (v : W64)
  /-- READ_CLEAR (R4): A read of an RC field returns its value and clears it. -/
  | readClear (w : Writer) (addr : BitVec 40)
  /-- SNAPSHOT_READ (R470): A read of an RS group takes or uses the shared snapshot and re-arms at its last register. -/
  | snapshotRead (w : Writer) (addr : BitVec 40)
  /-- PAGE_READ_REFUSED (R474): A read from a ring not admitted, or of the wrong width, returns 0 and is recorded in PG_ERR. -/
  | pageReadRefused (w : Writer) (addr : BitVec 40) (width : AccWidth)
  /-- RX_LANE_LOCK_LOST (R417): One receive lane of a ring port, RX0 or RX1, loses lock while the other stays locked, clearing its LOCK bit and making a ring break at the port take the ring end out of service. -/
  | rxLaneLockLost (r : Fin 16) (lane : Bool)
  /-- RX_LANE_LOCK_REGAINED (R340): A ring receive lane that had lost lock regains it outside line state LINK and sets its LOCK bit again. -/
  | rxLaneLockRegained (r : Fin 16) (lane : Bool)
  /-- DRAM_PLL_LOCK_LOSS (R22): The DRAM PLL loses lock, clearing CLK_STAT.DRAM_LOCK and incrementing CLK.LOSS_CNT. -/
  | dramPllLockLoss
  /-- CONDITION_CEASED (R405): The condition of a Condition-kind fault source, such as root clock loss, a rail out of range, the collector oscillator out of range or junction overtemperature, stops holding, so its live bit becomes clearable and the source can assert anew. -/
  | conditionCeased (src : BitVec 9)
  /-- PTP_MESSAGE_TX (R373): At its profile's message interval the PTP engine sends its own event and general messages (Sync, Announce, Delay_Req or Pdelay_Req) and time-stamps them. -/
  | ptpMessageTx (p : Fin 2) (k : PtpMsg)
  /-- ETH_DISABLE_TX_END (R396): 100 µs after a port page is disabled, frames still queued are discarded and counted in TX_DROP, and QUIESCED is set once the transmitter is idle and the link down. -/
  | ethDisableTxEnd (p : Fin 2)
  /-- TAP_OPERATION (R497): A boundary-scan operation clocked in on TCK, TMS, TDI and TRSTn executes a TAP instruction: BYPASS, IDCODE, SAMPLE/PRELOAD, EXTEST or CLAMP. -/
  | tapOperation (ir : TapInstr) (tdi balls : List Bool)
deriving DecidableEq, Repr

end Sys2Proof
end

