-- ==== Sys2Proof/Machine/Aau.lean ====
section
/-! DEFINITION. Angle arithmetic: the exact value of each AAU operation, its one rounding, band, range and flags, and the checked
recomputation in two or three passes (R284-R293). -/
namespace Sys2Proof.Machine

/-- A result of the AAU with the flags it raises (R286). -/
structure AauRes where
  val : W64
  ov  : Bool
  ix  : Bool
  dz  : Bool
deriving DecidableEq, Repr

/-- RNE or RTZ of the rational `n / d`, d > 0 (R285). -/
def rndRat (rtz : Bool) (n : Int) (d : Nat) : Int :=
  let m := n.natAbs
  let q := m / d
  let r := m % d
  let q' := if rtz then q else if 2 * r < d then q else if d < 2 * r then q + 1 else q + q % 2
  if n < 0 then -(q' : Int) else (q' : Int)

def inexact (n : Int) (d : Nat) : Bool := n.natAbs % d != 0

def clampInt (lo hi x : Int) : Int := if x < lo then lo else if hi < x then hi else x

def s64lo : Int := -(2 ^ 63)
def s64hi : Int := 2 ^ 63 - 1
def u64hi : Int := 2 ^ 64 - 1

/-! ### Operands (R284, R287) -/

/-- The operands of an operation as integers in the unit of their format, those from ra on and those from rb on. -/
structure AauArgs where
  a  : Int
  a1 : Int := 0
  b  : Int := 0
  b1 : Int := 0
  b2 : Int := 0
  b3 : Int := 0
deriving DecidableEq, Repr

/-- The operands that an operation reads: `a`, `a1` from ra on and `b`, `b1`, `b2` from rb on. -/
def aauArgs (op : Nat) (a a1 b b1 b2 : W64) : AauArgs :=
  match op with
  | 0x00 => { a := a.toNat, b := b.toNat }
  | 0x01 => { a := a.toNat, b := b.toInt }
  | 0x02 => { a := a.toNat, b := b.toInt }
  | 0x03 => { a := a.toNat, b := b.toNat }
  | 0x04 => { a := a.toNat, b := bf b 0 32 }
  | 0x08 => { a := a.toInt, a1 := bf a1 0 7, b := b.toInt }
  | 0x09 => { a := a.toNat, a1 := bf a1 0 7, b := b.toNat }
  | 0x0A => { a := a.toInt, a1 := bf a1 0 7, b := b.toInt }
  | 0x0B => { a := a.toNat, a1 := bf a1 0 7, b := b.toNat }
  | 0x10 => { a := a.toNat * 2 ^ 32 + bf a1 0 32, b := b.toInt, b1 := b1.toInt, b2 := b2.toInt }
  | 0x11 => { a := a.toInt * 2 ^ 32 - bf a1 0 32, b := b.toInt, b1 := b1.toInt }
  | 0x12 => { a := bf a 0 32, a1 := sextNat 32 (bf a1 0 32), b := b.toInt, b1 := b1.toInt,
              b2 := sextNat 16 (bf b2 0 16), b3 := sextNat 16 (bf b2 16 16) }
  | _ => { a := a.toInt, a1 := bf a1 0 32, b := bf b 0 32, b1 := bf b1 0 32, b2 := bf b2 0 4 }

/-- The operands multiplied by the factor of a transform, −1 or 2^k, as the table of R291 states; Δ of INVPRED takes its square. -/
def AauArgs.scale (op : Nat) (f : Int) (x : AauArgs) : AauArgs :=
  match op with
  | 0x00 | 0x01 | 0x02 | 0x03 | 0x04 => { x with a := f * x.a, b := f * x.b }
  | 0x08 | 0x09 | 0x0A | 0x0B => { x with a := f * x.a }
  | 0x10 => { x with a := f * x.a, b := f * x.b, b1 := f * x.b1 }
  | 0x11 => { x with a := f * f * x.a, b := f * x.b }
  | 0x12 => { x with a := f * x.a, a1 := f * x.a1 }
  | _ => { x with a := f * x.a, a1 := f.natAbs * x.a1, b := f * x.b, b1 := f * x.b1 }

/-! ### One pass (R285-R291) -/

/-- What a pass forms: the band-limited result, whether the clamp of AGEUPD changed it, IX, DZ and NO_ROOT. -/
structure AauPass where
  val : Int
  cl  : Bool := false
  ix  : Bool := false
  dz  : Bool := false
  nr  : Bool := false
deriving DecidableEq, Repr

/-- The band −2^(90+k) to +2^(90+k) of a pass shifted by k bits (R286). -/
def bandLimit (k : Nat) (x : Int) : Int := clampInt (-(2 ^ (90 + k))) (2 ^ (90 + k)) x

/-- The rational `n / d` rounded to a multiple of 2^k (R291). -/
def rndTo (rtz : Bool) (k : Nat) (n : Int) (d : Nat) : Int := rndRat rtz n (d * 2 ^ k) * 2 ^ k

/-- A result that wraps: modulo 2^(64+k) (R292). The band limit sets no flag of it (DEDUCED, log entry 10). -/
def wrapTo (k : Nat) (x : Int) : Int := bandLimit k x % 2 ^ (64 + k)

/-- Whether q × (A + √R) ≤ N. -/
def rootLe (n a r q : Nat) : Bool := decide (q * a ≤ n) && decide (q * q * r ≤ (n - q * a) * (n - q * a))

/-- Whether q × (A + √R) = N. -/
def rootEq (n a r q : Nat) : Bool := decide (q * a ≤ n) && (q * q * r == (n - q * a) * (n - q * a))

/-- The largest q of at most `k` bits with q × (A + √R) ≤ N, by its bits from the top. -/
def rootFloor (n a r : Nat) : Nat → Nat → Nat
  | 0, q => q
  | k + 1, q => if rootLe n a r (q + 2 ^ k) then rootFloor n a r k (q + 2 ^ k) else rootFloor n a r k q

/-- NO_ROOT (R289). -/
def noRoot : W64 := 0x8000000000000000

/-- DIVSH and DIVUH (R287): a × 2^s ÷ b; a divisor of 0 gives the band or 0 with DZ (R290). -/
def passDiv (rtz : Bool) (k : Nat) (a b : Int) (s : Nat) : AauPass :=
  if b = 0 then { val := if 0 < a then 2 ^ (90 + k) else if a < 0 then -(2 ^ (90 + k)) else 0, dz := true }
  else
    let n := if b < 0 then -(a * 2 ^ s) else a * 2 ^ s
    { val := bandLimit k (rndTo rtz k n b.natAbs), ix := inexact n (b.natAbs * 2 ^ k) }

/-- PRED (R288) with θ = `th` in units of 2^-64 turn. Over the denominator 2^98 × 5^18 the value θ_p × 2^32 has the numerator
θ × 2^66 × 5^18 + ω × H × 2^77 × 5^9 + a × H² × 2^63: with F = 2^13 × 5^9. -/
def passPred (rtz : Bool) (k : Nat) (th w a h : Int) : AauPass :=
  let den : Nat := 2 ^ 98 * 5 ^ 18
  let num : Int := th * (2 ^ 66 * 5 ^ 18) + w * h * (2 ^ 77 * 5 ^ 9) + a * h * h * 2 ^ 63
  { val := wrapTo k (rndTo rtz k num den), ix := inexact num (den * 2 ^ k) }

/-- INVPRED (R289). `d` is Δ in units of 2^-64 turn. The root of least magnitude is 2Δ ÷ (ω + sgn(ω) √(ω² + 2aΔ)); in T64
units its magnitude is 4 × 5^9 × |d| ÷ (2^12 |w| + √(2E)), E = 2^23 w² + a d, and its sign is that of Δ × ω. It is rounded to a
multiple of 2^k by rounding its 2^k-th part. -/
def passInvpred (rtz : Bool) (k : Nat) (d w a : Int) : AauPass :=
  if d = 0 then { val := 0 }
  else if w = 0 then { val := 0, nr := true }
  else
    let e := w * w * 2 ^ 23 + a * d
    if e < 0 then { val := 0, nr := true }
    else
      let n := 4 * 5 ^ 9 * d.natAbs
      let aa := w.natAbs * 2 ^ 12 * 2 ^ k
      let r := 2 * e.natAbs * 4 ^ k
      let q := rootFloor n aa r 120 0
      let ex := rootEq n aa r q
      let half := 2 * q + 1
      let q' := if rtz || ex then q
        else if rootEq (2 * n) aa r half then q + q % 2
        else if rootLe (2 * n) aa r half then q + 1 else q
      let v : Int := if (d < 0) != (w < 0) then -(q' : Int) else (q' : Int)
      { val := bandLimit k (v * 2 ^ k), ix := !ex }

/-- LATM (R290): temperatures in units of 2^-7 °C. -/
def passLatm (rtz : Bool) (k : Nat) (base age k1 k2 tn t0 : Int) : AauPass :=
  let dt := tn - t0
  let num : Int := base * (2 ^ 76 + k1 * dt * 2 ^ 7 + k2 * dt * dt)
  { val := bandLimit k (rndTo rtz k num (2 ^ 76) + age), ix := inexact num (2 ^ 76 * 2 ^ k) }

/-- AGEUPD with its clamp (R290). -/
def passAgeupd (rtz : Bool) (k : Nat) (age limit m l : Int) (s : Nat) : AauPass :=
  let x := age + rndTo rtz k (m - l) (2 ^ s)
  { val := bandLimit k (clampInt (-limit) limit x), cl := decide (clampInt (-limit) limit x ≠ x), ix := inexact (m - l) (2 ^ s * 2 ^ k) }

/-- A pass shifted by k bits. -/
def aauPass (op : Nat) (rtz : Bool) (k : Nat) (x : AauArgs) : AauPass :=
  match op with
  | 0x00 => { val := wrapTo k (x.a - x.b) }
  | 0x01 => { val := wrapTo k (x.a + x.b) }
  | 0x02 => { val := bandLimit k (x.a + x.b) }
  | 0x03 => { val := bandLimit k (x.a - x.b) }
  | 0x04 => { val := bandLimit k (x.a - x.b) }
  | 0x08 | 0x09 =>
    { val := bandLimit k (rndTo rtz k (x.a * x.b) (2 ^ x.a1.toNat)), ix := inexact (x.a * x.b) (2 ^ x.a1.toNat * 2 ^ k) }
  | 0x0A | 0x0B => passDiv rtz k x.a x.b x.a1.toNat
  | 0x10 => passPred rtz k x.a x.b x.b1 x.b2
  | 0x11 => passInvpred rtz k x.a x.b x.b1
  | 0x12 => passLatm rtz k x.a x.a1 x.b x.b1 x.b2 x.b3
  | _ => passAgeupd rtz k x.a x.a1 x.b x.b1 x.b2.toNat

/-- The range of the result of an operation that does not wrap (R287). -/
def aauRange (op : Nat) : Int × Int :=
  match op with
  | 0x02 | 0x04 | 0x09 | 0x0B => (0, u64hi)
  | 0x11 => (-(2 ^ 63 - 1), s64hi)
  | 0x12 => (0, 2 ^ 32 - 1)
  | _ => (s64lo, s64hi)

/-- The agreed value in the format of the result: wrapped or saturated, with OV (R286). -/
def AauPass.finish (op : Nat) (p : AauPass) : AauRes :=
  if op = 0x00 ∨ op = 0x01 ∨ op = 0x10 then ⟨i64 p.val, false, p.ix, p.dz⟩
  else if p.nr then ⟨noRoot, false, false, false⟩
  else
    let y := clampInt (aauRange op).1 (aauRange op).2 p.val
    ⟨i64 y, p.cl || decide (y ≠ p.val), p.ix, p.dz⟩

/-- The result of an operation of R287 on the registers it reads, as pass 1 alone forms it. -/
def aauOp (op : Nat) (rtz : Bool) (a a1 b b1 b2 : W64) : AauRes :=
  (aauPass op rtz 0 (aauArgs op a a1 b b1 b2)).finish op

/-- The latency L of R259 by LATM on the descriptor's own values. -/
def aauLatm (rtz : Bool) (base : Nat) (age k1 k2 tn t0 : Int) : AauRes := (passLatm rtz 0 base age k1 k2 tn t0).finish 0x12

/-- The new LAT_AGE of R266 by AGEUPD. -/
def aauAgeupd (rtz : Bool) (age : Int) (limit m l s : Nat) : AauRes := (passAgeupd rtz 0 age limit m l s).finish 0x13

/-- Flags raised, in the places of the flag word (R295). -/
def AauRes.flags (r : AauRes) : Nat := b2n r.ov + 2 * b2n r.ix + 4 * b2n r.dz

/-! ### Checked recomputation (R291-R293) -/

/-- A transform of R291: N, or Sk. -/
inductive AauXf where | neg | shift (k : Nat)
deriving DecidableEq, Repr

/-- The fixed rotation N, S1, N, S2, N, S3. -/
def aauRotation (rot : Fin 6) : AauXf :=
  match rot with
  | 0 | 2 | 4 => .neg
  | 1 => .shift 1
  | 3 => .shift 2
  | 5 => .shift 3

/-- The third pass takes another transform than the second (R293). -/
def AauXf.third : AauXf → AauXf
  | .neg => .shift 2
  | .shift _ => .neg

/-- A fault of the AAU changes the result of a pass. -/
def AauPass.hit (h : AauHit) (p : AauPass) : AauPass :=
  if h = {} then p
  else { p with
    val := (BitVec.ofInt 96 p.val ^^^ h.bits).toInt, ix := p.ix ^^ h.ix, dz := p.dz ^^ h.dz, nr := p.nr ^^ h.nr }

/-- The value of a pass as the comparison takes it: modulo 2^64 where the operation wraps. -/
def aauCut (op : Nat) (v : Int) : Int := if op = 0x00 ∨ op = 0x01 ∨ op = 0x10 then v % 2 ^ 64 else v

/-- A pass on transformed operands, transformed back (R292); none where low bits of a shifted result are not 0. -/
def aauBack (op : Nat) (rtz : Bool) (x : AauArgs) (t : AauXf) (h : AauHit) : Option AauPass :=
  match t with
  | .neg =>
    let p := (aauPass op rtz 0 (x.scale op (-1))).hit h
    some { p with val := aauCut op (-p.val) }
  | .shift k =>
    let p := (aauPass op rtz k (x.scale op (2 ^ k))).hit h
    if p.val % 2 ^ k = 0 then some { p with val := aauCut op (p.val / 2 ^ k) } else none

/-- The four things that the comparison covers. -/
def AauPass.same (p q : AauPass) : Bool := p.val == q.val && p.ix == q.ix && p.dz == q.dz && p.nr == q.nr

/-- The end of a checked operation: its result and whether the third pass resolved a mismatch, or no result. -/
inductive AauEnd where | ok (r : AauRes) (third : Bool) | failed
deriving DecidableEq, Repr

/-- An operation with its second pass, and its third on a mismatch (R291-R293); `h`: what faults of the AAU change in each pass. -/
def aauChecked (op : Nat) (rtz : Bool) (x : AauArgs) (rot : Fin 6) (h : AauHits) : AauEnd :=
  let p0 := (aauPass op rtz 0 x).hit h.p1
  let p1 := { p0 with val := aauCut op p0.val }
  let t := aauRotation rot
  let p2 := aauBack op rtz x t h.p2
  let agrees (p : AauPass) (o : Option AauPass) : Bool := match o with | some q => p.same q | none => false
  if agrees p1 p2 then .ok (p1.finish op) false
  else match aauBack op rtz x t.third h.p3 with
    | none => .failed
    | some p3 => if p3.same p1 then .ok (p1.finish op) true else if agrees p3 p2 then .ok (p3.finish op) true else .failed

/-- What faults change in the next operation of a command, and in those after it. -/
def aauNext (c : AauCheck) : AauHits × AauCheck :=
  match c.ops with
  | [] => ({}, c)
  | h :: t => (h, ⟨t⟩)

end Sys2Proof.Machine
end

