-- ==== Sys2Proof/Decode.lean ====
section
/-! DEFINITION. The command that a table word spells, and the decoder of core instruction words (R106-R133, R287). -/
namespace Sys2Proof

/-- The command a word spells by the table's bits. The table gives no row any bits (every row's field list is empty), so
no word spells a command. -/
def decodeTableWord (_nbits _w : Nat) : Option Instr := none

namespace Machine

/-- The rows of the table that a core instruction word can spell. -/
inductive CoreRow where
  | alu | addi | andi | ori | xori | shi | cmpi | movw | mul | mulu | div | divu | rem | remu | mfs | mts | cmpp | cmppi
  | plogic | br | call | jmp | callr | ret | loopReg | loopi | load | loadx | loadxu | store | storex | atom
  | blk | sync | syncTlb | ici | tlbi | wait | tstart | tstop | eret | gret | brk | endp | gate | aau | crc | crypto
  | append | appendS | qstat | qspace
deriving DecidableEq, Repr

/-- A decoded word: its row, registers, segment, log2 of the access size, function or number, immediate, and the S, W, keep,
rounding or sign bit. -/
structure Dec where
  row : CoreRow
  rd  : Nat
  ra  : Nat
  rb  : Nat
  seg : Nat
  sz  : Nat
  fn  : Nat
  imm : W64
  b   : Bool
deriving DecidableEq, Repr

/-- What a word decodes to: an illegal opcode, a coprocessor that is absent, or an instruction (R109, R131). -/
inductive DecRes where
  | illegal
  | absent
  | ok (d : Dec)
deriving DecidableEq, Repr

/-- Formats R, I, N and K: [21:17] rd, [16:12] ra, [11:7] rb, [6:0] function. -/
def fRd (w : W32) : Nat := bf w 17 5
def fRa (w : W32) : Nat := bf w 12 5
def fRb (w : W32) : Nat := bf w 7 5
def fFn (w : W32) : Nat := bf w 0 7

/-- A sign-extended field as a 64-bit value. -/
def sfield (w : W32) (lo wd : Nat) : W64 := i64 (sextNat wd (bf w lo wd))

def zfield (w : W32) (lo wd : Nat) : W64 := BitVec.ofNat 64 (bf w lo wd)

def okIf (c : Bool) (d : Dec) : DecRes := if c then .ok d else .illegal

/-- An R-format word with one row. -/
def decR (w : W32) (r : CoreRow) (b : Bool) : Dec := ⟨r, fRd w, fRa w, fRb w, 0, 0, fFn w, 0, b⟩

/-- ALU (R112): unary operations take rb = 0. -/
def decAlu (w : W32) : DecRes :=
  let f := bf w 0 6
  okIf (decide (f ≤ 0x17) && (decide (f < 0x10) || fRb w == 0)) { decR w .alu (nbit w.toNat 6) with fn := f }

/-- Immediate forms (R114). -/
def decImm (w : W32) (r : CoreRow) (signed : Bool) : DecRes :=
  .ok ⟨r, fRd w, fRa w, 0, 0, 0, 0, if signed then sfield w 0 12 else zfield w 0 12, false⟩

def decShi (w : W32) : DecRes :=
  okIf (decide (bf w 0 5 ≤ 3)) ⟨.shi, fRd w, fRa w, 0, 0, 0, 8 + bf w 0 5, zfield w 6 6, nbit w.toNat 5⟩

/-- MULDIV (R116). -/
def decMuldiv (w : W32) : DecRes :=
  match fFn w with
  | 0x00 => okIf (fRd w == 0) (decR w .mul false)
  | 0x01 => okIf (fRd w == 0) (decR w .mulu false)
  | 0x08 => .ok (decR w .div false)
  | 0x09 => .ok (decR w .divu false)
  | 0x0A => .ok (decR w .rem false)
  | 0x0B => .ok (decR w .remu false)
  | _ => .illegal

/-- The special register numbers of R130. -/
def srOk (n : Nat) : Bool :=
  decide (n ≤ 9) || inRange 0xC 0x11 n || inRange 0x14 0x17 n || inRange 0x20 0x27 n || n == 0x30 || n == 0x31

def decS (w : W32) : DecRes :=
  let n := bf w 0 8
  if nbit w.toNat 8 then okIf (bf w 9 3 == 0 && srOk n && decide (n < 0x30) && fRd w == 0) { decR w .mts true with rb := 0, fn := n }
  else okIf (bf w 9 3 == 0 && srOk n) { decR w .mfs false with rb := 0, fn := n }

/-- CMPP and CMPPI (R117): rd holds pt, sz holds pf. -/
def decCmpp (w : W32) : DecRes :=
  let pt := bf w 19 3
  let pf := bf w 16 3
  okIf (bf w 4 2 == 0 && decide (bf w 0 4 ≤ 0xB) && !(pt == pf && pt != 0))
    ⟨.cmpp, pt, bf w 11 5, bf w 6 5, 0, pf, bf w 0 4, 0, false⟩

def decCmppi (w : W32) : DecRes :=
  let pt := bf w 19 3
  let pf := bf w 16 3
  let rel := bf w 7 4
  okIf (decide (rel ≤ 0xB) && !(pt == pf && pt != 0) && (decide (rel < 0xA) || decide (bf w 0 7 ≤ 63)))
    ⟨.cmppi, pt, bf w 11 5, 0, 0, pf, rel, sfield w 0 7, false⟩

/-- PLOGIC (R118): rd pd, ra pa, rb pb. -/
def decPlogic (w : W32) : DecRes :=
  okIf (bf w 0 10 == 0 && decide (bf w 10 3 ≤ 4)) ⟨.plogic, bf w 19 3, bf w 16 3, bf w 13 3, 0, 0, bf w 10 3, 0, false⟩

/-- Format M (R110): `sz` the log2 size, `b` sign extension; the immediate is the displacement in bytes. -/
def decM (w : W32) (r : CoreRow) (sz : Nat) (sgn : Bool) : DecRes :=
  .ok ⟨r, bf w 17 5, bf w 9 5, 0, bf w 14 3, sz, 0, i64 (sextNat 9 (bf w 0 9) * 2 ^ sz), sgn⟩

/-- Format X (R110). The op field has meaning for ATOM alone and is 0 elsewhere (DEDUCED, log entry 9). -/
def decX (w : W32) (r : CoreRow) (sgn : Bool) : DecRes :=
  okIf (bf w 0 2 == 0) ⟨r, bf w 17 5, bf w 9 5, bf w 4 5, bf w 14 3, bf w 2 2, 0, 0, sgn⟩

def decAtom (w : W32) : DecRes :=
  okIf (decide (2 ≤ bf w 2 2)) ⟨.atom, bf w 17 5, bf w 9 5, bf w 4 5, bf w 14 3, bf w 2 2, bf w 0 2, 0, false⟩

/-- The JR group (R119). -/
def decJr (w : W32) : DecRes :=
  match fFn w with
  | 0 => .ok (decR w .jmp false)
  | 1 => .ok (decR w .callr false)
  | 2 => okIf (fRa w == 0 && fRb w == 0) (decR w .ret false)
  | _ => .illegal

/-- LOOP and LOOPI (R121): the immediate is the body length − 1, `fn` the immediate count. -/
def decLoop (w : W32) : DecRes := okIf (fRa w == 0) ⟨.loopReg, 0, bf w 17 5, 0, 0, 0, 0, zfield w 0 12, false⟩
def decLoopi (w : W32) : DecRes := .ok ⟨.loopi, 0, 0, 0, 0, 0, bf w 12 10, zfield w 0 12, false⟩

/-- BLK (R125). -/
def decBlk (w : W32) : DecRes :=
  let a := fRd w
  let b := fRa w
  let c := fRb w
  okIf (decide (fFn w ≤ 4) && a != 0 && b != 0 && c != 0 && a != b && a != c && b != c) (decR w .blk false)

/-- The SYNC group (R126). -/
def decSync (w : W32) : DecRes :=
  if fRd w == 0 && fRb w == 0 then
    match fFn w with
    | 0 => okIf (fRa w == 0) (decR w .sync false)
    | 1 => okIf (fRa w == 0) (decR w .syncTlb false)
    | 2 => okIf (fRa w == 0) (decR w .ici false)
    | 3 => okIf (fRa w == 0) (decR w .tlbi false)
    | 4 => .ok (decR w .tlbi false)
    | 5 => .ok (decR w .tlbi false)
    | 6 => okIf (fRa w == 0) (decR w .tlbi false)
    | _ => .illegal
  else .illegal

/-- SYS (R127). Operand fields that an operation of the R format does not use are not looked at, here and in the other codes that name no
value for them (DESIGN CHOICE, log entry 121). -/
def decSys (w : W32) : DecRes :=
  match fFn w with
  | 0 => .ok (decR w .wait false)
  | 1 => .ok (decR w .tstart false)
  | 2 => .ok (decR w .tstop false)
  | 3 => .ok (decR w .eret false)
  | 4 => .ok (decR w .gret false)
  | 5 => .ok (decR w .brk false)
  | 7 => .ok (decR w .endp false)
  | _ => .illegal

/-- How many registers from ra and from rb on an AAU operation reads, and whether it rounds (R287); none: not an operation. -/
def aauRegs : Nat → Option (Nat × Nat × Bool)
  | 0x00 => some (1, 1, false) | 0x01 => some (1, 1, false) | 0x02 => some (1, 1, false) | 0x03 => some (1, 1, false)
  | 0x04 => some (1, 1, false) | 0x08 => some (2, 1, true) | 0x09 => some (2, 1, true) | 0x0A => some (2, 1, true)
  | 0x0B => some (2, 1, true) | 0x10 => some (2, 3, true) | 0x11 => some (2, 2, true) | 0x12 => some (2, 3, true)
  | 0x13 => some (2, 3, true) | 0x3C => some (0, 0, false) | 0x3D => some (1, 0, false) | 0x3E => some (1, 0, false)
  | _ => none

def decAau (w : W32) : DecRes :=
  match aauRegs (bf w 0 6) with
  | none => .illegal
  | some (na, nb, r) =>
    okIf ((r || !nbit w.toNat 6) && (if na == 0 then fRa w == 0 else decide (fRa w + na ≤ 32))
        && (if nb == 0 then fRb w == 0 else decide (fRb w + nb ≤ 32)))
      { decR w .aau (nbit w.toNat 6) with fn := bf w 0 6 }

/-- CP1 (R132) and CP2 (R133). -/
def decCp1 (w : W32) : DecRes :=
  if fFn w ≤ 2 then .ok (decR w .crc false) else okIf (inRange 8 10 (fFn w)) (decR w .crypto false)

def decCp2 (w : W32) : DecRes :=
  match fFn w with
  | 0 => okIf (fRd w == 0 && fRb w != 31) (decR w .append false)
  | 1 => okIf (fRb w != 31) (decR w .appendS false)
  | 2 => .ok (decR w .qstat false)
  | 3 => .ok (decR w .qspace false)
  | _ => .illegal

/-- The major opcode map (R111). Code 0x8 in [31:28] is illegal in both encodings (R106). -/
def decodeOp (w : W32) : DecRes :=
  if bf w 28 4 = 8 then .illegal
  else match bf w 22 6 with
  | 0x01 => decAlu w
  | 0x02 => decImm w .addi true
  | 0x03 => decImm w .andi false
  | 0x04 => decImm w .ori false
  | 0x05 => decImm w .xori false
  | 0x06 => decShi w
  | 0x07 => if fRd w = 0 then decImm w .cmpi true else .illegal
  | 0x08 | 0x09 | 0x0A | 0x0B =>
    .ok ⟨.movw, fRd w, 0, 0, 0, 0, bf w 22 6 - 8, zfield w 0 16, nbit w.toNat 16⟩
  | 0x0C => decMuldiv w
  | 0x0D => decS w
  | 0x0E => decCmpp w
  | 0x0F => decCmppi w
  | 0x10 => decPlogic w
  | 0x12 => decM w .load 0 true
  | 0x13 => decM w .load 0 false
  | 0x14 => decM w .load 1 true
  | 0x15 => decM w .load 1 false
  | 0x16 => decM w .load 2 true
  | 0x17 => decM w .load 2 false
  | 0x18 => decM w .load 3 false
  | 0x19 => decM w .store 0 false
  | 0x1A => decM w .store 1 false
  | 0x1B => decM w .store 2 false
  | 0x1C => decM w .store 3 false
  | 0x1D => decX w .loadx true
  | 0x1E => decX w .loadxu false
  | 0x1F => decX w .storex false
  | 0x20 => .ok ⟨.br, 0, 0, 0, 0, 0, 0, i64 (sextNat 22 (bf w 0 22) * 4), false⟩
  | 0x21 => .ok ⟨.call, 0, 0, 0, 0, 0, 0, i64 (sextNat 22 (bf w 0 22) * 4), false⟩
  | 0x22 => decJr w
  | 0x23 => decLoop w
  | 0x24 => decLoopi w
  | 0x25 => decAtom w
  | 0x26 => decBlk w
  | 0x27 => decSync w
  | 0x28 => decSys w
  | 0x29 => okIf (bf w 16 6 == 0) ⟨.gate, 0, 0, 0, 0, 0, bf w 0 16, 0, false⟩
  | 0x38 => decAau w
  | 0x39 => decCp1 w
  | 0x3A => decCp2 w
  | 0x3B | 0x3C | 0x3D | 0x3E | 0x3F => .absent
  | _ => .illegal

/-! ### The encoder -/

/-- The low `wd` bits of an immediate. -/
def immBits (v : W64) (wd : Nat) : Nat := bf v 0 wd

/-- Formats R, I, N and K from their fields; `low` holds the 7 low bits. -/
def encR (d : Dec) (low : Nat) : Nat := d.rd * 2 ^ 17 + d.ra * 2 ^ 12 + d.rb * 2 ^ 7 + low

def encI (d : Dec) : Nat := d.rd * 2 ^ 17 + d.ra * 2 ^ 12 + immBits d.imm 12

/-- Format M: the displacement counts in units of the access size. -/
def encM (d : Dec) : Nat := d.rd * 2 ^ 17 + d.seg * 2 ^ 14 + d.ra * 2 ^ 9 + wrapInt 9 (d.imm.toInt / 2 ^ d.sz)

def encX (d : Dec) : Nat := d.rd * 2 ^ 17 + d.seg * 2 ^ 14 + d.ra * 2 ^ 9 + d.rb * 2 ^ 4 + d.sz * 2 ^ 2 + d.fn

/-- The major opcode and the bits [21:0] of a decoded word (R110, R111). -/
def encBody (d : Dec) : Nat × Nat :=
  match d.row with
  | .alu => (0x01, encR d (b2n d.b * 64 + d.fn))
  | .addi => (0x02, encI d)
  | .andi => (0x03, encI d)
  | .ori => (0x04, encI d)
  | .xori => (0x05, encI d)
  | .shi => (0x06, d.rd * 2 ^ 17 + d.ra * 2 ^ 12 + immBits d.imm 6 * 2 ^ 6 + b2n d.b * 32 + (d.fn - 8))
  | .cmpi => (0x07, encI d)
  | .movw => (8 + d.fn, d.rd * 2 ^ 17 + b2n d.b * 2 ^ 16 + immBits d.imm 16)
  | .mul | .mulu | .div | .divu | .rem | .remu => (0x0C, encR d d.fn)
  | .mfs => (0x0D, d.rd * 2 ^ 17 + d.ra * 2 ^ 12 + d.fn)
  | .mts => (0x0D, d.rd * 2 ^ 17 + d.ra * 2 ^ 12 + 2 ^ 8 + d.fn)
  | .cmpp => (0x0E, d.rd * 2 ^ 19 + d.sz * 2 ^ 16 + d.ra * 2 ^ 11 + d.rb * 2 ^ 6 + d.fn)
  | .cmppi => (0x0F, d.rd * 2 ^ 19 + d.sz * 2 ^ 16 + d.ra * 2 ^ 11 + d.fn * 2 ^ 7 + immBits d.imm 7)
  | .plogic => (0x10, d.rd * 2 ^ 19 + d.ra * 2 ^ 16 + d.rb * 2 ^ 13 + d.fn * 2 ^ 10)
  | .br => (0x20, wrapInt 22 (d.imm.toInt / 4))
  | .call => (0x21, wrapInt 22 (d.imm.toInt / 4))
  | .jmp | .callr | .ret => (0x22, encR d d.fn)
  | .loopReg => (0x23, d.ra * 2 ^ 17 + immBits d.imm 12)
  | .loopi => (0x24, d.fn * 2 ^ 12 + immBits d.imm 12)
  | .load => (0x12 + 2 * d.sz + (if d.b || d.sz == 3 then 0 else 1), encM d)
  | .store => (0x19 + d.sz, encM d)
  | .loadx => (0x1D, encX d)
  | .loadxu => (0x1E, encX d)
  | .storex => (0x1F, encX d)
  | .atom => (0x25, encX d)
  | .blk => (0x26, encR d d.fn)
  | .sync | .syncTlb | .ici | .tlbi => (0x27, encR d d.fn)
  | .wait | .tstart | .tstop | .eret | .gret | .brk | .endp => (0x28, encR d d.fn)
  | .gate => (0x29, d.fn)
  | .aau => (0x38, encR d (b2n d.b * 64 + d.fn))
  | .crc | .crypto => (0x39, encR d d.fn)
  | .append | .appendS | .qstat | .qspace => (0x3A, encR d d.fn)

/-- The word of a decoded instruction with guard field `g` in [31:28] (R106, R110, R111). -/
def encodeOp (g : Nat) (d : Dec) : W32 := BitVec.ofNat 32 (g * 2 ^ 28 + (encBody d).1 * 2 ^ 22 + (encBody d).2)

/-- A signed immediate of `wd` bits. -/
def immS (v : W64) (wd : Nat) : Bool := v == i64 (sextNat wd v.toNat)

/-- An unsigned immediate of `wd` bits. -/
def immU (v : W64) (wd : Nat) : Bool := decide (v.toNat < 2 ^ wd)

/-- Fields the row does not use hold 0. -/
def Dec.plain (d : Dec) (seg sz imm b : Bool) : Bool :=
  (seg || d.seg == 0) && (sz || d.sz == 0) && (imm || d.imm == 0) && (b || !d.b)

def Dec.regs5 (d : Dec) : Bool := decide (d.rd < 32) && decide (d.ra < 32) && decide (d.rb < 32)

/-- A displacement of format M or of a branch: `wd` bits in units of `u` bytes. -/
def immD (v : W64) (wd u : Nat) : Bool := v == i64 (sextNat wd (wrapInt wd (v.toInt / u)) * u)

def aauWf (d : Dec) : Bool :=
  match aauRegs d.fn with
  | none => false
  | some (na, nb, r) =>
    (r || !d.b) && (if na == 0 then d.ra == 0 else decide (d.ra + na ≤ 32)) && (if nb == 0 then d.rb == 0 else decide (d.rb + nb ≤ 32))

/-- The decoded words that have an encoding: every field in the range its format gives it, and the register rules of R112 to R133
and R287. -/
def Dec.wf (d : Dec) : Bool :=
  match d.row with
  | .alu => d.regs5 && d.plain false false false true && decide (d.fn ≤ 0x17) && (decide (d.fn < 0x10) || d.rb == 0)
  | .addi => d.regs5 && d.rb == 0 && d.fn == 0 && d.plain false false true false && immS d.imm 12
  | .andi | .ori | .xori => d.regs5 && d.rb == 0 && d.fn == 0 && d.plain false false true false && immU d.imm 12
  | .shi => d.regs5 && d.rb == 0 && inRange 8 11 d.fn && d.plain false false true true && immU d.imm 6
  | .cmpi => d.regs5 && d.rd == 0 && d.rb == 0 && d.fn == 0 && d.plain false false true false && immS d.imm 12
  | .movw => d.regs5 && d.ra == 0 && d.rb == 0 && decide (d.fn < 4) && d.plain false false true true && immU d.imm 16
  | .mul => d.regs5 && d.rd == 0 && d.fn == 0 && d.plain false false false false
  | .mulu => d.regs5 && d.rd == 0 && d.fn == 1 && d.plain false false false false
  | .div => d.regs5 && d.fn == 8 && d.plain false false false false
  | .divu => d.regs5 && d.fn == 9 && d.plain false false false false
  | .rem => d.regs5 && d.fn == 10 && d.plain false false false false
  | .remu => d.regs5 && d.fn == 11 && d.plain false false false false
  | .mfs => d.regs5 && d.rb == 0 && srOk d.fn && d.plain false false false false
  | .mts => d.regs5 && d.rd == 0 && d.rb == 0 && srOk d.fn && decide (d.fn < 0x30) && d.plain false false false true && d.b
  | .cmpp => d.regs5 && decide (d.rd < 8) && decide (d.sz < 8) && decide (d.fn ≤ 0xB) && !(d.rd == d.sz && d.rd != 0) && d.plain false true false false
  | .cmppi => d.regs5 && d.rb == 0 && decide (d.rd < 8) && decide (d.sz < 8) && decide (d.fn ≤ 0xB) && !(d.rd == d.sz && d.rd != 0)
      && d.plain false true true false && immS d.imm 7 && (decide (d.fn < 0xA) || immU d.imm 6)
  | .plogic => decide (d.rd < 8) && decide (d.ra < 8) && decide (d.rb < 8) && decide (d.fn ≤ 4) && d.plain false false false false
  | .br | .call => d.rd == 0 && d.ra == 0 && d.rb == 0 && d.fn == 0 && d.plain false false true false && immD d.imm 22 4
  | .jmp => d.regs5 && d.fn == 0 && d.plain false false false false
  | .callr => d.regs5 && d.fn == 1 && d.plain false false false false
  | .ret => d.regs5 && d.ra == 0 && d.rb == 0 && d.fn == 2 && d.plain false false false false
  | .loopReg => d.regs5 && d.rd == 0 && d.rb == 0 && d.fn == 0 && d.plain false false true false && immU d.imm 12
  | .loopi => d.rd == 0 && d.ra == 0 && d.rb == 0 && decide (d.fn < 1024) && d.plain false false true false && immU d.imm 12
  | .load => d.regs5 && d.rb == 0 && d.fn == 0 && decide (d.seg < 8) && decide (d.sz < 4) && (!d.b || decide (d.sz < 3)) && immD d.imm 9 (2 ^ d.sz)
  | .store => d.regs5 && d.rb == 0 && d.fn == 0 && decide (d.seg < 8) && decide (d.sz < 4) && !d.b && immD d.imm 9 (2 ^ d.sz)
  | .loadx => d.regs5 && d.fn == 0 && decide (d.seg < 8) && decide (d.sz < 4) && d.plain true true false true && d.b
  | .loadxu | .storex => d.regs5 && d.fn == 0 && decide (d.seg < 8) && decide (d.sz < 4) && d.plain true true false false
  | .atom => d.regs5 && decide (d.fn < 4) && decide (d.seg < 8) && inRange 2 3 d.sz && d.plain true true false false
  | .blk => d.regs5 && decide (d.fn ≤ 4) && d.rd != 0 && d.ra != 0 && d.rb != 0 && d.rd != d.ra && d.rd != d.rb && d.ra != d.rb
      && d.plain false false false false
  | .sync => d.rd == 0 && d.ra == 0 && d.rb == 0 && d.fn == 0 && d.plain false false false false
  | .syncTlb => d.rd == 0 && d.ra == 0 && d.rb == 0 && d.fn == 1 && d.plain false false false false
  | .ici => d.rd == 0 && d.ra == 0 && d.rb == 0 && d.fn == 2 && d.plain false false false false
  | .tlbi => d.regs5 && d.rd == 0 && d.rb == 0 && inRange 3 6 d.fn && (inRange 4 5 d.fn || d.ra == 0) && d.plain false false false false
  | .wait => d.regs5 && d.fn == 0 && d.plain false false false false
  | .tstart => d.regs5 && d.fn == 1 && d.plain false false false false
  | .tstop => d.regs5 && d.fn == 2 && d.plain false false false false
  | .eret => d.regs5 && d.fn == 3 && d.plain false false false false
  | .gret => d.regs5 && d.fn == 4 && d.plain false false false false
  | .brk => d.regs5 && d.fn == 5 && d.plain false false false false
  | .endp => d.regs5 && d.fn == 7 && d.plain false false false false
  | .gate => d.rd == 0 && d.ra == 0 && d.rb == 0 && decide (d.fn < 65536) && d.plain false false false false
  | .aau => d.regs5 && decide (d.fn < 64) && d.plain false false false true && aauWf d
  | .crc => d.regs5 && decide (d.fn ≤ 2) && d.plain false false false false
  | .crypto => d.regs5 && inRange 8 10 d.fn && d.plain false false false false
  | .append => d.regs5 && d.rd == 0 && d.rb != 31 && d.fn == 0 && d.plain false false false false
  | .appendS => d.regs5 && d.rb != 31 && d.fn == 1 && d.plain false false false false
  | .qstat => d.regs5 && d.fn == 2 && d.plain false false false false
  | .qspace => d.regs5 && d.fn == 3 && d.plain false false false false

end Machine
end Sys2Proof
end

