-- ==== Sys2Proof/Machine/Flags.lean ====
section
/-! DEFINITION. Integer results and flag computations shared by the cores and the Smiari programs (R107, R112-R118, R125). -/
namespace Sys2Proof.Machine

/-- The four flags of SR. -/
structure NZCV where
  n : Bool
  z : Bool
  c : Bool
  v : Bool
deriving DecidableEq, Repr

/-- Leading zeros of the low `k` bits, from bit k - 1 down. -/
def clzUpto (a : W64) : Nat → Nat
  | 0 => 0
  | k + 1 => if a.getLsbD k then 0 else clzUpto a k + 1

/-- Trailing zeros among the top `k` bits, from bit 64 - k up. -/
def ctzFrom (a : W64) : Nat → Nat
  | 0 => 0
  | k + 1 => if a.getLsbD (63 - k) then 0 else ctzFrom a k + 1

def popUpto (a : W64) : Nat → Nat
  | 0 => 0
  | k + 1 => popUpto a k + b2n (a.getLsbD k)

/-- Bytes in reverse order. -/
def bswap64 (a : W64) : W64 := BitVec.ofNat 64 (beNat (leBytes 8 a.toNat))

/-- Result of ALU operation `f` (R112); `c` is SR.C. -/
def aluRes (f : Nat) (a b : W64) (c : Bool) : W64 :=
  match f with
  | 0x00 => a + b
  | 0x01 => a - b
  | 0x02 => a + b + BitVec.ofNat 64 (b2n c)
  | 0x03 => a - b - BitVec.ofNat 64 (b2n (!c))
  | 0x04 => a &&& b
  | 0x05 => a ||| b
  | 0x06 => a ^^^ b
  | 0x07 => a &&& ~~~b
  | 0x08 => if 64 ≤ b.toNat then 0 else a <<< b.toNat
  | 0x09 => if 64 ≤ b.toNat then 0 else a >>> b.toNat
  | 0x0A => a.sshiftRight (min b.toNat 63)
  | 0x0B => a.rotateRight (b.toNat % 64)
  | 0x0C => if a.toInt ≤ b.toInt then a else b
  | 0x0D => if a.toInt ≤ b.toInt then b else a
  | 0x0E => if a.toNat ≤ b.toNat then a else b
  | 0x0F => if a.toNat ≤ b.toNat then b else a
  | 0x10 => BitVec.ofNat 64 (clzUpto a 64)
  | 0x11 => BitVec.ofNat 64 (ctzFrom a 64)
  | 0x12 => BitVec.ofNat 64 (popUpto a 64)
  | 0x13 => bswap64 a
  | 0x14 => (a.extractLsb' 0 8).signExtend 64
  | 0x15 => (a.extractLsb' 0 16).signExtend 64
  | 0x16 => (a.extractLsb' 0 32).signExtend 64
  | _ => (a.extractLsb' 0 32).setWidth 64

/-- Whether a signed integer fits 64 bits. -/
def fitsS64 (x : Int) : Bool := decide (-(2 ^ 63) ≤ x) && decide (x < 2 ^ 63)

/-- The last bit shifted out by a shift of `k ≥ 1` (R113). -/
def shiftOut (f : Nat) (a : W64) (k : Nat) : Bool :=
  match f with
  | 0x08 => decide (k ≤ 64) && a.getLsbD (64 - k)
  | 0x09 => decide (k ≤ 64) && a.getLsbD (k - 1)
  | 0x0A => a.getLsbD (min (k - 1) 63)
  | _ => a.getLsbD ((k - 1) % 64)

/-- The flags an ALU operation sets (R113): N and Z from the result, C and V by the operation. For ROR a shift amount of 0 is
an amount rb[5:0] of 0. -/
def aluFlags (f : Nat) (a b : W64) (o : NZCV) : NZCV :=
  let r := aluRes f a b o.c
  let cv : Bool × Bool :=
    match f with
    | 0x00 => (decide (2 ^ 64 ≤ a.toNat + b.toNat), !fitsS64 (a.toInt + b.toInt))
    | 0x01 => (decide (b.toNat ≤ a.toNat), !fitsS64 (a.toInt - b.toInt))
    | 0x02 => (decide (2 ^ 64 ≤ a.toNat + b.toNat + b2n o.c), !fitsS64 (a.toInt + b.toInt + b2n o.c))
    | 0x03 => (decide (b.toNat + b2n (!o.c) ≤ a.toNat), !fitsS64 (a.toInt - b.toInt - b2n (!o.c)))
    | 0x08 => (if b.toNat = 0 then o.c else shiftOut 0x08 a b.toNat, o.v)
    | 0x09 => (if b.toNat = 0 then o.c else shiftOut 0x09 a b.toNat, o.v)
    | 0x0A => (if b.toNat = 0 then o.c else shiftOut 0x0A a b.toNat, o.v)
    | 0x0B => (if b.toNat % 64 = 0 then o.c else r.getLsbD 63, o.v)
    | _ => (o.c, o.v)
  ⟨r.getLsbD 63, r == 0, cv.1, cv.2⟩

/-- The conditions of encoding C (R107): [30:28] a test, [31] inverts it. -/
def condHolds (code : Nat) (f : NZCV) : Bool :=
  let t := match code % 8 with
    | 0 => true
    | 1 => f.z
    | 2 => f.c
    | 3 => f.c && !f.z
    | 4 => f.n == f.v
    | 5 => !f.z && (f.n == f.v)
    | 6 => f.n
    | _ => f.v
  if code < 8 then t else !t

/-- The relations of R117. -/
def relation (r : Nat) (a b : W64) : Bool :=
  match r with
  | 0x0 => a == b
  | 0x1 => a != b
  | 0x2 => decide (a.toInt < b.toInt)
  | 0x3 => decide (b.toInt ≤ a.toInt)
  | 0x4 => decide (a.toNat < b.toNat)
  | 0x5 => decide (b.toNat ≤ a.toNat)
  | 0x6 => decide (b.toInt < a.toInt)
  | 0x7 => decide (a.toInt ≤ b.toInt)
  | 0x8 => decide (b.toNat < a.toNat)
  | 0x9 => decide (a.toNat ≤ b.toNat)
  | 0xA => !a.getLsbD (b.toNat % 64)
  | _ => a.getLsbD (b.toNat % 64)

/-- PLOGIC (R118). -/
def plogic (op : Nat) (a b : Bool) : Bool :=
  match op with
  | 0 => a && b
  | 1 => a || b
  | 2 => a != b
  | 3 => a && !b
  | _ => a || !b

/-- Quotient and remainder of R116, for a divisor other than 0. -/
def divRes (signed rem : Bool) (a b : W64) : W64 :=
  if signed then
    if rem then i64 (a.toInt.tmod b.toInt) else i64 (a.toInt.tdiv b.toInt)
  else
    if rem then BitVec.ofNat 64 (a.toNat % b.toNat) else BitVec.ofNat 64 (a.toNat / b.toNat)

/-- The 128-bit product of R116. -/
def mulRes (signed : Bool) (a b : W64) : BitVec 128 :=
  if signed then BitVec.ofInt 128 (a.toInt * b.toInt) else BitVec.ofNat 128 (a.toNat * b.toNat)

/-- MOVW (R115). -/
def movwRes (k : Nat) (keep : Bool) (imm old : W64) : W64 :=
  if keep then BitVec.ofNat 64 (setBits old.toNat (16 * k) 16 imm.toNat) else imm <<< (16 * k)

/-- One bit of a reflected CRC of `wd` bits. -/
def crcBit (poly c : Nat) : Nat := if c % 2 = 1 then (c / 2) ^^^ poly else c / 2

def crcByte (poly c : Nat) (b : Byte) : Nat :=
  let c0 := c ^^^ b.toNat
  crcBit poly (crcBit poly (crcBit poly (crcBit poly (crcBit poly (crcBit poly (crcBit poly (crcBit poly c0)))))))

/-- The reflected polynomials of R125, by form: .32, .32C, .64. -/
def crcPoly : Nat → Nat
  | 0 => 0xEDB88320
  | 1 => 0x82F63B78
  | _ => 0xC96C5795D7870F42

/-- CRCR over bytes in order (R125); the 32-bit forms use and leave the low 32 bits. -/
def crcBytes (form : Nat) (acc : W64) (l : List Byte) : W64 :=
  let c0 := if form < 2 then acc.toNat % 2 ^ 32 else acc.toNat
  BitVec.ofNat 64 (l.foldl (crcByte (crcPoly form)) c0)

/-- CRC-32C of a byte string with initial value and final XOR all ones (R125). -/
def crc32c (l : List Byte) : Nat :=
  (l.foldl (crcByte (crcPoly 1)) 0xFFFFFFFF) ^^^ 0xFFFFFFFF

/-- CRC-32 (IEEE 802.3) with initial value and final XOR all ones. -/
def crc32 (l : List Byte) : Nat :=
  (l.foldl (crcByte (crcPoly 0)) 0xFFFFFFFF) ^^^ 0xFFFFFFFF

end Sys2Proof.Machine
end

