-- ==== Sys2Proof/Config.lean ====
section
/-! DEFINITION. What an implementation fixes and what the spec leaves open: opaque constants, so that no proof sees a value. -/
namespace Sys2Proof

/-- The n-th free value: a value the spec does not give (a session number, a nonce, a challenge). UNVERIFIED, log entry 3. -/
opaque Config.freeWord : Nat → W64

/-- The Canvas ROM revision of SYS.ROM_REV, which the spec does not number. UNVERIFIED, log entry 4. -/
opaque Config.romRev : BitVec 16

/-- Bytes of the Canvas ROM, whose content the spec does not give. UNVERIFIED, log entry 4. -/
opaque Config.romByte : Nat → Byte

/-- Whether a P-384 signature `sig` over a SHA-384 digest verifies under a public key. PRESUMED (FIPS 186), log entry 5. -/
opaque Config.ecdsaVerify (key digest sig : List Byte) : Bool

/-- A further free number for values wider than a word, by counter and part. UNVERIFIED, log entry 3. -/
opaque Config.freeByte : Nat → Nat → Byte

/-- The fuse state as the bytes whose SHA-384 hash R34 and R450 name; the spec does not give their layout. UNVERIFIED, log entry 30. -/
opaque Config.fuseBytes : List (List Byte) → List Byte

/-- How many units of ADJ (2^-32 T64 unit a tick) the servo of R375 makes of a T64 unit of offset before its gains; the spec gives the gains
alone. UNVERIFIED, log entry 123. -/
opaque Config.servoScale : Int

end Sys2Proof
end

