-- ==== Sys2Proof/Machine/Tab.lean ====
section
/-! DEFINITION. A sparse table in one canonical form: keys strictly rising, no cell equal to what an unlisted key reads as. -/
namespace Sys2Proof.Machine

/-- A sparse table of values by number. What an unlisted key reads as is given where the table is read or written. -/
structure Tab (α : Type) where
  cells : List (Nat × α) := []
deriving DecidableEq, Repr

/-- The value listed for a key in a list of cells. -/
def cellFind {α : Type} (k : Nat) : List (Nat × α) → Option α
  | [] => none
  | (j, v) :: t => if j = k then some v else cellFind k t

/-- Removes a key. -/
def cellDel {α : Type} (k : Nat) : List (Nat × α) → List (Nat × α)
  | [] => []
  | (j, v) :: t => if j = k then cellDel k t else (j, v) :: cellDel k t

/-- Puts a value at a key in rising order, replacing what was listed. -/
def cellIns {α : Type} (k : Nat) (x : α) : List (Nat × α) → List (Nat × α)
  | [] => [(k, x)]
  | (j, v) :: t => if k < j then (k, x) :: (j, v) :: t else if k = j then (k, x) :: t else (j, v) :: cellIns k x t

/-- Keys strictly rising above a bound and no cell equal to its default. -/
def cellsWf {α : Type} [DecidableEq α] (d : Nat → α) : List (Nat × α) → Bool
  | [] => true
  | [(k, v)] => decide (v ≠ d k)
  | (k, v) :: (j, w) :: t => decide (v ≠ d k) && decide (k < j) && cellsWf d ((j, w) :: t)

/-- Reads a cell of a table whose unlisted keys read as `d`. -/
def cellGet {α : Type} (d : Nat → α) (l : List (Nat × α)) (k : Nat) : α :=
  match cellFind k l with
  | some v => v
  | none => d k

/-- Writes a cell and keeps the canonical form. -/
def cellSet {α : Type} [DecidableEq α] (d : Nat → α) (l : List (Nat × α)) (k : Nat) (x : α) : List (Nat × α) :=
  if x = d k then cellDel k l else cellIns k x l

def Tab.find {α : Type} (t : Tab α) (k : Nat) : Option α := cellFind k t.cells

def Tab.get {α : Type} (d : Nat → α) (t : Tab α) (k : Nat) : α := cellGet d t.cells k

def Tab.set {α : Type} [DecidableEq α] (d : Nat → α) (t : Tab α) (k : Nat) (x : α) : Tab α := ⟨cellSet d t.cells k x⟩

/-- Adds or replaces an entry of a table read only through `find`. -/
def Tab.ins {α : Type} (t : Tab α) (k : Nat) (x : α) : Tab α := ⟨cellIns k x t.cells⟩

def Tab.del {α : Type} (t : Tab α) (k : Nat) : Tab α := ⟨cellDel k t.cells⟩

def Tab.has {α : Type} (t : Tab α) (k : Nat) : Bool := (cellFind k t.cells).isSome

/-- The form every table keeps. -/
abbrev Tab.wf {α : Type} [DecidableEq α] (d : Nat → α) (t : Tab α) : Prop := cellsWf d t.cells = true

end Sys2Proof.Machine
end

