-- ==== Sys2Proof/Machine/Pages.lean ====
section
/-! DEFINITION. The register pages: fields, access codes, page kinds and every register of every map, by its offset,
count, access code, defined bits and reset value (R4, R466, R472, R473, R482 and the maps of the chapters). -/
namespace Sys2Proof.Machine

/-- A field of a register: byte offset from the base of its page or block, lowest bit and width. -/
structure Fld where
  off : Nat
  lo  : Nat
  wd  : Nat
deriving DecidableEq, Repr

/-- The field `n` registers of `stride` bytes further on. -/
def Fld.nth (f : Fld) (stride n : Nat) : Fld := ⟨f.off + stride * n, f.lo, f.wd⟩

/-- Access codes of R4; `rwh` is an RW low half held until its high half is written (R471). -/
inductive Acc where | ro | rw | rwh | wo | woh | w1c | rs | rc
deriving DecidableEq, Repr

/-- One row of a register map: `count` registers `stride` bytes apart; `mask` holds the defined bits (R5). -/
structure Row where
  off    : Nat
  stride : Nat
  count  : Nat
  acc    : Acc
  reset  : Nat
  mask   : Nat
deriving DecidableEq, Repr

/-- The layouts of R482. -/
inductive Kind where
  | sys | clk | rst | margin | coll | fsw | recd | sev | trio | intd | route | intt | walk | part | thrp | xlate | iot
  | shaft | angle | eng | lane | seq | timer | ring | eth | net | ycp | dram | xspi | bist | qd
deriving DecidableEq, Repr

/-- The layout of a page, and the first page and number of pages of its TYPE (R467, R473, R482). -/
def pageKind (p : Nat) : Option (Kind × Nat × Nat) :=
  if p < 0x100 then
    if p = 0 then some (.sys, 0, 1) else if p = 1 then some (.clk, 1, 1) else if p = 2 then some (.rst, 2, 1)
    else if p = 3 then some (.margin, 3, 1) else if p = 0x10 then some (.coll, 0x10, 1) else if p = 0x11 then some (.fsw, 0x11, 1)
    else if p = 0x12 then some (.recd, 0x12, 1) else if p = 0x13 then some (.sev, 0x13, 1) else none
  else if p < 0x200 then
    if p ≤ 0x10C then some (.trio, 0x100, 13) else if p = 0x110 then some (.intd, 0x110, 1)
    else if p = 0x111 ∨ p = 0x112 then some (.route, 0x111, 2) else if p = 0x113 then some (.intt, 0x113, 1)
    else if p = 0x120 then some (.walk, 0x120, 1) else if p = 0x121 then some (.part, 0x121, 1)
    else if p = 0x122 then some (.thrp, 0x122, 1) else if p = 0x128 then some (.iot, 0x128, 1)
    else if 0x123 ≤ p ∧ p ≤ 0x12F then some (.xlate, p, 1) else none
  else if p < 0x300 then
    if p ≤ 0x207 then some (.shaft, 0x200, 8) else if p = 0x208 then some (.angle, 0x208, 1)
    else if p = 0x210 then some (.eng, 0x210, 1) else if 0x211 ≤ p ∧ p ≤ 0x214 then some (.lane, 0x211, 4)
    else if p = 0x220 then some (.seq, 0x220, 1) else if 0x240 ≤ p ∧ p ≤ 0x247 then some (.timer, 0x240, 8) else none
  else if p < 0x400 then
    if p ≤ 0x30F then some (.ring, 0x300, 16) else if p = 0x320 ∨ p = 0x321 then some (.eth, 0x320, 2)
    else if p = 0x322 then some (.net, 0x322, 1) else if p = 0x323 then some (.ycp, 0x323, 1)
    else if p = 0x330 ∨ p = 0x331 then some (.dram, 0x330, 2) else if p = 0x332 then some (.xspi, 0x332, 1)
    else if p = 0x340 then some (.bist, 0x340, 1) else none
  else if p ≤ 0x4FF then some (.qd, 0x400, 256) else none

/-- Pages whose EN is fixed at 1 (R482). -/
def Kind.enFixed : Kind → Bool
  | .sys | .clk | .rst | .margin | .coll | .fsw | .recd | .sev | .intd | .route | .intt | .walk | .part | .thrp | .xlate
  | .iot | .angle | .dram | .xspi => true
  | .trio | .shaft | .eng | .lane | .seq | .timer | .ring | .eth | .net | .ycp | .bist | .qd => false

/-- PG_CAP.QCOMMON (R482): the shaft pages, the sequencer page and the BIST page. -/
def Kind.qcommon : Kind → Bool
  | .shaft | .seq | .bist => true
  | .sys | .clk | .rst | .margin | .coll | .fsw | .recd | .sev | .trio | .intd | .route | .intt | .walk | .part | .thrp
  | .xlate | .iot | .angle | .eng | .lane | .timer | .ring | .eth | .net | .ycp | .dram | .xspi | .qd => false

/-- PG_CAP.PERIODIC (R482): trio and lane pages. -/
def Kind.periodic : Kind → Bool
  | .trio | .lane => true
  | .sys | .clk | .rst | .margin | .coll | .fsw | .recd | .sev | .intd | .route | .intt | .walk | .part | .thrp | .xlate
  | .iot | .shaft | .angle | .eng | .seq | .timer | .ring | .eth | .net | .ycp | .dram | .xspi | .bist | .qd => false

/-- The common header of R472. -/
def rowsHeader : List Row := [⟨0x000, 0, 1, .ro, 0, 0x03FFF3FF⟩, ⟨0x004, 0, 1, .ro, 0, 0x0007FFFF⟩, ⟨0x008, 0, 1, .rw, 0, 0x3⟩,
  ⟨0x00C, 0, 1, .ro, 0, 0xF⟩, ⟨0x010, 0, 1, .ro, 0, 0xFF7FFFFF⟩, ⟨0x014, 0, 1, .ro, 0, 0x00FFFFFF⟩, ⟨0x018, 0, 1, .rw, 0, 0x303⟩]

def rowsSys : List Row := [
  ⟨0x040, 0, 1, .ro, 0x0, 0x3FF77⟩, ⟨0x044, 0, 1, .wo, 0x0, 0x7⟩, ⟨0x048, 0, 1, .ro, 0x0, 0xFFFF0FFF⟩,
  ⟨0x04C, 0, 1, .rw, 0x0, 0x7⟩, ⟨0x050, 0, 1, .rw, 0x0, 0xFFFFFFFF⟩, ⟨0x054, 0, 1, .rc, 0x0, 0x7⟩,
  ⟨0x058, 0, 1, .rw, 0x0, 0x3⟩, ⟨0x080, 0, 1, .ro, 0xC16, 0xFFFFFFFF⟩, ⟨0x084, 4, 3, .ro, 0x4B4C4143, 0xFFFFFFFF⟩,
  ⟨0x090, 0, 1, .ro, 0x3042, 0xFFFF⟩, ⟨0x094, 0, 1, .ro, 0x10001, 0xFFFFFFFF⟩, ⟨0x098, 0, 1, .ro, 0x0, 0xFFFF⟩,
  ⟨0x09C, 0, 1, .ro, 0x0, 0xFFFF⟩, ⟨0x0A0, 0, 1, .ro, 0x0, 0xFFFFFFFF⟩, ⟨0x0A4, 0, 1, .ro, 0x0, 0xFFFFFFFF⟩,
  ⟨0x0A8, 0, 1, .ro, 0x0, 0xFFFFFFFF⟩, ⟨0x0AC, 0, 1, .rw, 0x0, 0xFFFFFFFF⟩, ⟨0x0B0, 0, 1, .wo, 0x0, 0xFF⟩]

def rowsClk : List Row := [
  ⟨0x040, 0, 1, .ro, 0x800, 0xF07⟩, ⟨0x044, 0, 1, .rw, 0x8, 0xF⟩, ⟨0x048, 0, 1, .ro, 0x0, 0xFFFFFFFF⟩]

def rowsRst : List Row := [
  ⟨0x040, 0, 1, .ro, 0x1, 0x1F⟩, ⟨0x044, 0, 1, .wo, 0x0, 0xFF03⟩, ⟨0x048, 0, 1, .ro, 0x3, 0xFFFFFF0F⟩,
  ⟨0x04C, 0, 1, .ro, 0x0, 0xFFFFFFFF⟩, ⟨0x050, 0, 1, .ro, 0x0, 0xFFFFFFFF⟩]

def rowsMargin : List Row := [
  ⟨0x040, 0, 1, .rw, 0x7, 0x7⟩, ⟨0x044, 0, 1, .ro, 0x320, 0x3FF⟩, ⟨0x048, 0, 1, .rw, 0x320, 0x3FF⟩,
  ⟨0x04C, 0, 1, .rw, 0x3840320, 0x3FF03FF⟩, ⟨0x050, 0, 1, .rw, 0x3C14, 0xFFFF⟩, ⟨0x054, 0, 1, .ro, 0x0, 0xFFFFF⟩,
  ⟨0x058, 0, 1, .ro, 0xFFFF, 0xFFFF⟩, ⟨0x05C, 0, 1, .rw, 0x500, 0xFFFF⟩, ⟨0x060, 0, 1, .ro, 0x400, 0xFFFF⟩,
  ⟨0x064, 0, 1, .ro, 0x0, 0xFFFFFFFF⟩, ⟨0x068, 0, 1, .ro, 0x0, 0xFFFFFFFF⟩, ⟨0x06C, 0, 1, .ro, 0x0, 0x3⟩,
  ⟨0x080, 4, 9, .ro, 0x0, 0xFFFFFFFF⟩, ⟨0x100, 4, 16, .ro, 0x0, 0xFFFFFFFF⟩, ⟨0x140, 0, 1, .wo, 0x0, 0xFFFFFFFF⟩,
  ⟨0x144, 0, 1, .wo, 0x0, 0x1⟩]

def rowsColl : List Row := [
  ⟨0x040, 0, 1, .ro, 0x0, 0xFF0FFF0F⟩, ⟨0x044, 0, 1, .wo, 0x0, 0xFF⟩, ⟨0x048, 0, 1, .wo, 0x0, 0xFF⟩,
  ⟨0x04C, 0, 1, .ro, 0x0, 0xFFFFFFFF⟩, ⟨0x050, 0, 1, .rw, 0x0, 0xFFFFFFFF⟩, ⟨0x054, 0, 1, .rw, 0x6402, 0xFFFFF⟩,
  ⟨0x058, 0, 1, .rw, 0x10508, 0x1FFFF⟩, ⟨0x05C, 0, 1, .ro, 0x0, 0xFFFFFFFF⟩, ⟨0x060, 0, 1, .ro, 0x0, 0xFFFFFFFF⟩,
  ⟨0x080, 4, 16, .rw, 0x4, 0xFF3FFFFF⟩, ⟨0x0C0, 4, 8, .rw, 0x0, 0x3FFF0037⟩, ⟨0x0E0, 4, 8, .rw, 0x8000, 0xFFFFFFFF⟩,
  ⟨0x100, 8, 4, .rw, 0x10000, 0xFFFFFFFF⟩, ⟨0x104, 8, 4, .rw, 0x0, 0x3⟩]

def rowsFsw : List Row := [
  ⟨0x040, 4, 16, .rs, 0x0, 0xFFFFFFFF⟩, ⟨0x080, 4, 16, .w1c, 0x0, 0xFFFFFFFF⟩]

def rowsRec : List Row := [
  ⟨0x040, 0, 1, .rs, 0x0, 0x800FFDFF⟩, ⟨0x044, 0, 1, .rs, 0x0, 0x373FF⟩, ⟨0x048, 0, 1, .rs, 0x0, 0xFFFFFFFF⟩,
  ⟨0x04C, 0, 1, .rs, 0x0, 0xFF⟩, ⟨0x050, 0, 1, .rs, 0x0, 0xFFFFFFFF⟩, ⟨0x054, 0, 1, .rs, 0x0, 0xFFFFFFFF⟩,
  ⟨0x058, 0, 1, .rs, 0x0, 0xFFFFFFFF⟩, ⟨0x05C, 0, 1, .rs, 0x0, 0x1FFFFFF⟩, ⟨0x060, 0, 1, .wo, 0x0, 0x1⟩,
  ⟨0x064, 0, 1, .ro, 0x0, 0xFFFFFFFF⟩]

def rowsSev : List Row := [
  ⟨0x040, 4, 32, .rw, 0x0, 0xFFFFFFFF⟩, ⟨0x0C0, 4, 32, .ro, 0x0, 0xFFFFFFFF⟩]

def rowsTrio : List Row := [
  ⟨0x040, 0, 1, .rw, 0x10A00, 0x11F03⟩, ⟨0x044, 0, 1, .ro, 0x700, 0x7FF⟩, ⟨0x048, 0, 1, .ro, 0x210, 0x333⟩,
  ⟨0x04C, 0, 1, .rw, 0xE100003, 0xFFFF00FF⟩, ⟨0x050, 0, 1, .ro, 0x0, 0xFFFFFFFF⟩,
  ⟨0x054, 0, 1, .ro, 0x0, 0xFFFFFFFF⟩, ⟨0x058, 0, 1, .ro, 0x0, 0xFFFFFFFF⟩, ⟨0x05C, 0, 1, .ro, 0x0, 0xFFFFFFFF⟩,
  ⟨0x060, 0, 1, .rs, 0x0, 0xFFFFFFFF⟩, ⟨0x064, 0, 1, .rs, 0x0, 0xFFFFFFFF⟩, ⟨0x068, 0, 1, .rs, 0x0, 0x30F⟩,
  ⟨0x06C, 0, 1, .rc, 0x0, 0xFFFFFFFF⟩, ⟨0x070, 0, 1, .ro, 0x0, 0x3⟩, ⟨0x074, 0, 1, .ro, 0x0, 0x7⟩,
  ⟨0x078, 0, 1, .ro, 0x0, 0x3FF⟩, ⟨0x07C, 0, 1, .rc, 0x0, 0xFFF01FF⟩, ⟨0x080, 0, 1, .ro, 0x1, 0x3⟩,
  ⟨0x084, 0, 1, .ro, 0x0, 0xFFFFFFFF⟩, ⟨0x088, 0, 1, .ro, 0x0, 0xFFFFFFFF⟩, ⟨0x08C, 0, 1, .ro, 0x0, 0xFFFFFFFF⟩]

def rowsIntd : List Row := [
  ⟨0x040, 0, 1, .wo, 0x0, 0xFFFFFFFF⟩, ⟨0x044, 0, 1, .wo, 0x0, 0xFFFFFFFF⟩, ⟨0x048, 0, 1, .rwh, 0x0, 0xFFFFFFF0⟩,
  ⟨0x04C, 0, 1, .rw, 0x0, 0xFF⟩, ⟨0x050, 0, 1, .rw, 0x0, 0x1FFFF⟩, ⟨0x054, 0, 1, .rw, 0x0, 0x3FFFFFF⟩,
  ⟨0x058, 0, 1, .ro, 0x0, 0xFFFFFFFF⟩, ⟨0x05C, 0, 1, .ro, 0x0, 0xFFFFFFFF⟩, ⟨0x080, 4, 32, .ro, 0x0, 0xFFFFFFFF⟩,
  ⟨0x100, 4, 32, .ro, 0x0, 0xFFFFFFFF⟩]

def rowsRoute : List Row := [
  ⟨0x040, 4, 512, .rw, 0x0, 0xC0373FF3⟩]

def rowsIntt : List Row := [
  ⟨0x040, 0, 1, .wo, 0x0, 0xFFFFFFFF⟩, ⟨0x044, 0, 1, .wo, 0x0, 0xFFFFFFFF⟩, ⟨0x048, 0, 1, .ro, 0x0, 0x803F03FF⟩,
  ⟨0x04C, 0, 1, .ro, 0x10, 0x1F⟩]

def rowsWalk : List Row := [
  ⟨0x040, 0, 1, .ro, 0x0, 0xFFFFFFFF⟩, ⟨0x044, 0, 1, .ro, 0x0, 0xFFFFFFFF⟩, ⟨0x048, 0, 1, .ro, 0x0, 0xFFFFFFFF⟩,
  ⟨0x050, 0, 1, .rw, 0x100, 0x3FFF⟩, ⟨0x054, 0, 1, .rw, 0x200, 0x3FFF⟩, ⟨0x058, 0, 1, .rw, 0x200, 0x3FFF⟩,
  ⟨0x05C, 0, 1, .rw, 0x40, 0x3FFF⟩, ⟨0x060, 0, 1, .rw, 0x200, 0x3FFF⟩, ⟨0x064, 0, 1, .rw, 0x100, 0x3FFF⟩]

def rowsPart : List Row := [
  ⟨0x040, 32, 16, .rw, 0x0, 0x3⟩, ⟨0x044, 32, 16, .rwh, 0x0, 0xFFFFF000⟩, ⟨0x048, 32, 16, .rw, 0x0, 0xFF⟩,
  ⟨0x04C, 32, 16, .rwh, 0x0, 0xFFFFF000⟩, ⟨0x050, 32, 16, .rw, 0x0, 0xFF⟩, ⟨0x054, 32, 16, .rwh, 0x0, 0xFFFFFFF0⟩,
  ⟨0x058, 32, 16, .rw, 0x0, 0xFFFF⟩, ⟨0x05C, 32, 16, .rw, 0x0, 0xFFFF⟩]

def rowsThrp : List Row := [
  ⟨0x040, 4, 36, .rw, 0x0, 0xFFFFFFFF⟩]

def rowsIot : List Row := [
  ⟨0x040, 16, 64, .rw, 0x0, 0x3⟩, ⟨0x044, 16, 64, .rwh, 0x0, 0xFFFFF000⟩, ⟨0x048, 16, 64, .rw, 0x0, 0xFF⟩,
  ⟨0x440, 0, 1, .rw, 0x0, 0xFFFFF000⟩, ⟨0x444, 0, 1, .wo, 0x0, 0xFF013F⟩, ⟨0x448, 0, 1, .ro, 0x0, 0x1⟩,
  ⟨0x450, 16, 4, .rs, 0x0, 0x8000FD3F⟩, ⟨0x454, 16, 4, .rs, 0x0, 0xFFFFFFFF⟩, ⟨0x458, 16, 4, .rs, 0x0, 0xFF⟩,
  ⟨0x45C, 16, 4, .ro, 0x0, 0xFFFFFFFF⟩]

def rowsShaft : List Row := [
  ⟨0x040, 0, 1, .rw, 0x0, 0xF1F⟩, ⟨0x044, 0, 1, .rw, 0x10000, 0xFFFFFF⟩, ⟨0x048, 0, 1, .rw, 0x0, 0xFFFFFF⟩,
  ⟨0x04C, 0, 1, .rw, 0x0, 0xFFFF⟩, ⟨0x050, 0, 1, .rw, 0x1402, 0xFF07⟩, ⟨0x054, 0, 1, .rw, 0x190019, 0x11F3F3F⟩,
  ⟨0x058, 0, 1, .rw, 0x14000F, 0xFF03FF⟩, ⟨0x05C, 0, 1, .rw, 0x32, 0xFFFF⟩, ⟨0x060, 0, 1, .rw, 0x0, 0xFFFFFFFF⟩,
  ⟨0x064, 0, 1, .wo, 0x0, 0xF⟩, ⟨0x068, 0, 1, .rw, 0x0, 0xFFFFFF⟩, ⟨0x06C, 0, 1, .ro, 0x0, 0x7FF⟩,
  ⟨0x070, 0, 1, .rw, 0xA64, 0xFF7⟩, ⟨0x074, 0, 1, .rw, 0x0, 0xFFF⟩, ⟨0x078, 0, 1, .rw, 0x0, 0xFFFFFFFF⟩,
  ⟨0x07C, 0, 1, .ro, 0x0, 0xFFFFFFFF⟩, ⟨0x080, 0, 1, .rw, 0x0, 0xFFFFFFFF⟩, ⟨0x084, 0, 1, .ro, 0x0, 0xFFFF00FF⟩,
  ⟨0x088, 0, 1, .rs, 0x0, 0xFFFFFFFF⟩, ⟨0x08C, 0, 1, .rs, 0x0, 0xFFFFFFFF⟩, ⟨0x090, 0, 1, .rs, 0x0, 0xFFFFFFFF⟩,
  ⟨0x094, 0, 1, .rs, 0x0, 0xFFFFFFFF⟩, ⟨0x098, 0, 1, .rs, 0x0, 0xFFFFFFFF⟩, ⟨0x09C, 0, 1, .rs, 0x0, 0xFFFFFFFF⟩,
  ⟨0x0A0, 0, 1, .rs, 0x0, 0xFFFFFFFF⟩, ⟨0x0A4, 0, 1, .rs, 0x0, 0xFFFFFFFF⟩, ⟨0x0A8, 0, 1, .rs, 0x0, 0xFFFFFFFF⟩,
  ⟨0x0AC, 0, 1, .rs, 0x0, 0x7FF⟩, ⟨0x0B0, 0, 1, .ro, 0x0, 0xFFFFFF⟩, ⟨0x0B4, 0, 1, .ro, 0x0, 0xFFFFFFFF⟩,
  ⟨0x0B8, 0, 1, .ro, 0x0, 0xFFFFFFFF⟩, ⟨0x0BC, 0, 1, .rw, 0x0, 0x1F01⟩, ⟨0x0C0, 0, 1, .wo, 0x0, 0xFFFFFFFF⟩,
  ⟨0x0C4, 0, 1, .rw, 0x640000, 0xFFFF0001⟩, ⟨0x0C8, 0, 1, .rw, 0x100000, 0xFFFFFFFF⟩,
  ⟨0x0CC, 0, 1, .rw, 0x10000, 0xFFFFFFFF⟩, ⟨0x0D0, 0, 1, .rwh, 0x0, 0xFFFFFFFF⟩, ⟨0x0D4, 0, 1, .rw, 0x0, 0xFFFFFFFF⟩,
  ⟨0x0D8, 0, 1, .ro, 0x0, 0xFFFFFFFF⟩]

def rowsAngle : List Row := [
  ⟨0x040, 0, 1, .rw, 0x0, 0x7⟩, ⟨0x044, 0, 1, .ro, 0x0, 0xFFFFFFFF⟩, ⟨0x048, 0, 1, .wo, 0x0, 0xFF⟩]

def rowsEng : List Row := [
  ⟨0x040, 0, 1, .rw, 0x6, 0xF⟩, ⟨0x044, 0, 1, .rw, 0x64, 0xFFFF⟩, ⟨0x048, 0, 1, .rw, 0x640, 0xFFFFFFFF⟩,
  ⟨0x04C, 0, 1, .rw, 0x28F, 0xFFFFFFFF⟩, ⟨0x050, 0, 1, .rw, 0x186A00, 0xFFFFFFFF⟩, ⟨0x054, 0, 1, .rw, 0x64, 0x3FF⟩,
  ⟨0x058, 0, 1, .wo, 0x0, 0xF⟩, ⟨0x05C, 0, 1, .rw, 0x0, 0x3FFF⟩, ⟨0x060, 0, 1, .rwh, 0x0, 0xFFFFFFFF⟩,
  ⟨0x064, 0, 1, .rw, 0x0, 0xFFFFFFFF⟩, ⟨0x068, 0, 1, .wo, 0x0, 0x1⟩, ⟨0x06C, 0, 1, .ro, 0x0, 0xFFFF00FF⟩,
  ⟨0x070, 0, 1, .rs, 0x0, 0x8FFF3FFF⟩, ⟨0x074, 0, 1, .rs, 0x0, 0x7F⟩, ⟨0x078, 0, 1, .rc, 0x0, 0xFFFFFFFF⟩,
  ⟨0x07C, 0, 1, .ro, 0x0, 0xFFFFFFFF⟩, ⟨0x080, 0, 1, .ro, 0x0, 0xFFFFFFFF⟩, ⟨0x084, 0, 1, .ro, 0x0, 0xFFFFFFFF⟩,
  ⟨0x088, 0, 1, .ro, 0x0, 0xFFFFFFFF⟩, ⟨0x08C, 0, 1, .ro, 0x0, 0xFFFFFFFF⟩, ⟨0x090, 0, 1, .ro, 0x0, 0xFFFFFFFF⟩,
  ⟨0x094, 0, 1, .rw, 0x0, 0xFFFFFFFF⟩, ⟨0x098, 0, 1, .wo, 0x0, 0x3F00FF⟩, ⟨0x09C, 0, 1, .ro, 0x0, 0x803F00FF⟩,
  ⟨0x0A0, 0, 1, .rs, 0x0, 0x80003FFF⟩, ⟨0x0A4, 0, 1, .rs, 0x0, 0xFFFFFFFF⟩, ⟨0x0A8, 0, 1, .rs, 0x0, 0xFFFFFFFF⟩,
  ⟨0x0AC, 0, 1, .rs, 0x0, 0xFFFFFFFF⟩, ⟨0x0B0, 0, 1, .rc, 0x0, 0xFFFFFFFF⟩, ⟨0x800, 8, 256, .rc, 0x0, 0xFFFFFFFF⟩,
  ⟨0x804, 8, 256, .rc, 0x0, 0xFFFFFFFF⟩]

def rowsLane : List Row := [
  ⟨0x040, 0, 1, .ro, 0x0, 0xF07⟩, ⟨0x044, 0, 1, .ro, 0x0, 0xFFFFFFFF⟩, ⟨0x048, 0, 1, .ro, 0x0, 0xFFFFFFFF⟩,
  ⟨0x04C, 0, 1, .ro, 0x0, 0xFFFFFFFF⟩, ⟨0x050, 0, 1, .rc, 0x0, 0xFFFFFFFF⟩]

def rowsSeq : List Row := [
  ⟨0x040, 0, 1, .rw, 0x0, 0xFFFFFFFF⟩, ⟨0x044, 0, 1, .rw, 0x0, 0xFF⟩, ⟨0x048, 0, 1, .rw, 0x1000000, 0xFFFFFFFF⟩,
  ⟨0x04C, 0, 1, .rwh, 0x0, 0xFFFFFFFF⟩, ⟨0x050, 0, 1, .rw, 0x0, 0xFFFFFFFF⟩, ⟨0x054, 0, 1, .wo, 0x0, 0x10F⟩,
  ⟨0x058, 0, 1, .ro, 0x0, 0xFF07⟩, ⟨0x05C, 0, 1, .ro, 0x0, 0xFFFFFF⟩, ⟨0x060, 0, 1, .ro, 0x0, 0xFFFFFFFF⟩,
  ⟨0x064, 0, 1, .ro, 0x0, 0xFFFFFFFF⟩, ⟨0x068, 0, 1, .ro, 0x0, 0xFFFFFFFF⟩, ⟨0x06C, 0, 1, .ro, 0x0, 0xFFFFFFFF⟩,
  ⟨0x070, 0, 1, .ro, 0x0, 0xFFFFFFFF⟩, ⟨0x074, 0, 1, .rw, 0x0, 0xFFFFFFFF⟩, ⟨0x078, 0, 1, .wo, 0x0, 0xF00FF⟩,
  ⟨0x07C, 0, 1, .ro, 0x0, 0x800F00FF⟩]

def rowsGtmr : List Row := [
  ⟨0x040, 0, 1, .woh, 0x0, 0xFFFFFFFF⟩, ⟨0x044, 0, 1, .wo, 0x0, 0xFFFFFFFF⟩, ⟨0x048, 0, 1, .woh, 0x0, 0xFFFFFFFF⟩,
  ⟨0x04C, 0, 1, .wo, 0x0, 0xFFFFFFFF⟩, ⟨0x050, 0, 1, .ro, 0x0, 0xFFFFFFFF⟩, ⟨0x054, 0, 1, .ro, 0x0, 0xFFFFFFFF⟩]

def rowsTimer : List Row := [
  ⟨0x100, 128, 8, .rw, 0x30200000, 0x3F3FF7F1⟩, ⟨0x104, 128, 8, .rw, 0x0, 0x77F3⟩, ⟨0x108, 128, 8, .wo, 0x0, 0x3⟩,
  ⟨0x10C, 128, 8, .ro, 0x0, 0x3F⟩, ⟨0x110, 128, 8, .rw, 0x0, 0xFFFFFFFF⟩,
  ⟨0x114, 128, 8, .rw, 0xFFFFFFFF, 0xFFFFFFFF⟩, ⟨0x118, 128, 8, .rw, 0x0, 0xFFFFFFFF⟩,
  ⟨0x11C, 128, 8, .rw, 0x0, 0xFFFFFFFF⟩, ⟨0x120, 128, 8, .rw, 0x0, 0xFFFFFFFF⟩,
  ⟨0x124, 128, 8, .rw, 0x0, 0xFFFFFFFF⟩, ⟨0x128, 128, 8, .ro, 0xFFFFFFFF, 0xFFFFFFFF⟩,
  ⟨0x12C, 128, 8, .ro, 0x0, 0xFFFFFFFF⟩, ⟨0x130, 128, 8, .ro, 0x0, 0xFFFFFFFF⟩,
  ⟨0x134, 128, 8, .ro, 0x0, 0xFFFFFFFF⟩, ⟨0x138, 128, 8, .rs, 0x0, 0xFFFFFFFF⟩,
  ⟨0x13C, 128, 8, .rs, 0x0, 0xFFFFFFFF⟩, ⟨0x140, 128, 8, .rs, 0x0, 0x1F⟩, ⟨0x144, 128, 8, .w1c, 0x0, 0x7F⟩,
  ⟨0x148, 128, 8, .rw, 0x0, 0x7F⟩]

def rowsRing : List Row := [
  ⟨0x040, 0, 1, .rw, 0x10A0100, 0x7FF037F⟩, ⟨0x044, 0, 1, .rw, 0x640A, 0xFFFF⟩, ⟨0x048, 0, 1, .wo, 0x0, 0x7F0F⟩,
  ⟨0x04C, 0, 1, .ro, 0x0, 0x80007FFF⟩, ⟨0x050, 0, 1, .ro, 0x7F0000, 0xFF7F7F3F⟩, ⟨0x054, 0, 1, .ro, 0x0, 0xFFFF⟩,
  ⟨0x058, 0, 1, .rc, 0x0, 0xFFFFFFFF⟩, ⟨0x05C, 0, 1, .ro, 0x0, 0xFFFFFFFF⟩, ⟨0x060, 0, 1, .ro, 0x0, 0xFFFFFFFF⟩,
  ⟨0x064, 0, 1, .ro, 0x0, 0xFFFFFFFF⟩, ⟨0x068, 0, 1, .ro, 0x0, 0xFFFFFFFF⟩, ⟨0x06C, 0, 1, .ro, 0x0, 0xFFFFFFFF⟩,
  ⟨0x070, 0, 1, .rwh, 0x0, 0xFFFFFFE0⟩, ⟨0x074, 0, 1, .rw, 0x0, 0xFF⟩, ⟨0x078, 0, 1, .rw, 0x4, 0x1F⟩,
  ⟨0x07C, 0, 1, .ro, 0x0, 0xFFFF⟩, ⟨0x080, 0, 1, .rw, 0x0, 0xFFFF⟩, ⟨0x084, 0, 1, .rc, 0x0, 0xFFFFFFFF⟩,
  ⟨0x088, 0, 1, .rwh, 0x0, 0xFFFFFFFF⟩, ⟨0x08C, 0, 1, .wo, 0x0, 0xFF⟩, ⟨0x090, 0, 1, .ro, 0x0, 0x800000FF⟩,
  ⟨0x108, 8, 126, .ro, 0xFFFFFFFF, 0xFFFFFFFF⟩, ⟨0x10C, 8, 126, .ro, 0xFFFFFFFF, 0xFFFFFFFF⟩,
  ⟨0x504, 4, 126, .ro, 0x70000, 0x3FFFFF⟩, ⟨0x700, 4, 16, .ro, 0x0, 0xFFFFFFFF⟩]

def rowsEth : List Row := [
  ⟨0x040, 0, 1, .rw, 0x0, 0x7⟩, ⟨0x044, 0, 1, .ro, 0x0, 0x3F⟩, ⟨0x048, 0, 1, .ro, 0x0, 0x3F3F3F⟩,
  ⟨0x04C, 0, 1, .rw, 0x0, 0xFFFFFFFF⟩, ⟨0x050, 0, 1, .ro, 0x0, 0xFFFFFFFF⟩, ⟨0x054, 0, 1, .ro, 0x0, 0xFFFFFFFF⟩,
  ⟨0x058, 0, 1, .ro, 0x0, 0xFFFFFFFF⟩, ⟨0x05C, 0, 1, .ro, 0x0, 0xFFFFFFFF⟩, ⟨0x060, 0, 1, .ro, 0x0, 0xFFFFFFFF⟩,
  ⟨0x064, 0, 1, .ro, 0x0, 0xFFFFFFFF⟩, ⟨0x068, 0, 1, .rw, 0x0, 0x1F⟩, ⟨0x06C, 0, 1, .rw, 0x0, 0xFFFFFFFF⟩,
  ⟨0x070, 0, 1, .rw, 0x0, 0x1F⟩, ⟨0x074, 0, 1, .wo, 0x0, 0x3⟩, ⟨0x078, 0, 1, .rw, 0x1, 0xFFFFFFFF⟩,
  ⟨0x07C, 0, 1, .rw, 0x0, 0xFFFFFFFF⟩, ⟨0x080, 0, 1, .rw, 0x0, 0xFFFFFFFF⟩, ⟨0x084, 0, 1, .rw, 0x0, 0xFFFFFFFF⟩,
  ⟨0x088, 0, 1, .wo, 0x0, 0xFFFFFFFF⟩, ⟨0x08C, 4, 3, .wo, 0x0, 0xFFFFFFFF⟩, ⟨0x0A0, 4, 8, .wo, 0x0, 0xFFFFFFFF⟩,
  ⟨0x0C0, 0, 1, .ro, 0x0, 0xFFFFFFFF⟩, ⟨0x0C4, 0, 1, .ro, 0x0, 0xFFFFFFFF⟩, ⟨0x0C8, 0, 1, .ro, 0x0, 0xFFFFFFFF⟩]

def rowsNet : List Row := [
  ⟨0x040, 0, 1, .rw, 0x1907D01, 0xFFFFFFF1⟩, ⟨0x044, 0, 1, .ro, 0x0, 0xFFFFFFFF⟩,
  ⟨0x048, 0, 1, .ro, 0x0, 0xFFFFFFFF⟩, ⟨0x04C, 0, 1, .ro, 0x0, 0xFFFFFFFF⟩, ⟨0x050, 0, 1, .ro, 0x0, 0x1FF⟩,
  ⟨0x054, 0, 1, .rw, 0x0, 0x17FFF⟩, ⟨0x058, 0, 1, .rw, 0x0, 0xFFFFFFFF⟩, ⟨0x05C, 4, 4, .rw, 0x0, 0xFFFFFFFF⟩,
  ⟨0x070, 0, 1, .rw, 0x80800000, 0xFFFFFF3F⟩, ⟨0x074, 0, 1, .rw, 0xA04, 0x11F1F⟩,
  ⟨0x078, 0, 1, .rw, 0xF4240, 0xFFFFFFFF⟩, ⟨0x07C, 0, 1, .rw, 0x3E8, 0xFFFFFFFF⟩, ⟨0x080, 0, 1, .ro, 0x0, 0x1F⟩,
  ⟨0x084, 0, 1, .ro, 0x0, 0xFFFFFFFF⟩, ⟨0x088, 0, 1, .ro, 0x0, 0xFFFFFFFF⟩, ⟨0x08C, 0, 1, .rwh, 0x0, 0xFFFFFFFF⟩,
  ⟨0x090, 0, 1, .rw, 0x0, 0xFFFF⟩, ⟨0x094, 0, 1, .rwh, 0x0, 0xFFFFFFFF⟩, ⟨0x098, 0, 1, .wo, 0x0, 0xFF⟩,
  ⟨0x09C, 0, 1, .ro, 0x0, 0x800000FF⟩, ⟨0x0A0, 0, 1, .rwh, 0x0, 0xFFFFF800⟩, ⟨0x0A4, 0, 1, .rw, 0x0, 0xFF⟩,
  ⟨0x0A8, 0, 1, .rw, 0x4, 0xF⟩, ⟨0x0AC, 0, 1, .ro, 0x0, 0xFFF⟩, ⟨0x0B0, 0, 1, .rw, 0x0, 0xFFF⟩,
  ⟨0x0B4, 0, 1, .rc, 0x0, 0xFFFFFFFF⟩, ⟨0x0B8, 0, 1, .rwh, 0x0, 0xFFFFF800⟩, ⟨0x0BC, 0, 1, .rw, 0x0, 0xFF⟩,
  ⟨0x0C0, 0, 1, .rw, 0x4, 0xF⟩, ⟨0x0C4, 0, 1, .rw, 0x0, 0xFFF⟩, ⟨0x0C8, 0, 1, .ro, 0x0, 0xFFF⟩]

def rowsYcp : List Row := [
  ⟨0x040, 0, 1, .rw, 0x3535C, 0x3FFFF⟩, ⟨0x044, 0, 1, .rw, 0x1388, 0xFFFF⟩, ⟨0x048, 0, 1, .ro, 0x0, 0xFFFF⟩,
  ⟨0x04C, 0, 1, .ro, 0x0, 0xFFFFFFFF⟩, ⟨0x050, 0, 1, .ro, 0x0, 0xFFFFFFFF⟩, ⟨0x054, 0, 1, .rw, 0x0, 0x7⟩,
  ⟨0x058, 0, 1, .rw, 0x0, 0x1FF07⟩, ⟨0x060, 4, 8, .wo, 0x0, 0xFFFFFFFF⟩, ⟨0x080, 0, 1, .rw, 0x640000, 0xFFFF0001⟩,
  ⟨0x084, 0, 1, .rw, 0x0, 0xFFFFFFFF⟩, ⟨0x088, 0, 1, .ro, 0x0, 0xF⟩, ⟨0x08C, 0, 1, .ro, 0x0, 0xFFFFFFFF⟩,
  ⟨0x090, 0, 1, .ro, 0x0, 0xFFFFFFFF⟩, ⟨0x094, 0, 1, .rwh, 0x0, 0xFFFFFFFF⟩, ⟨0x098, 0, 1, .rw, 0x0, 0xFF⟩,
  ⟨0x09C, 0, 1, .rw, 0x0, 0xFFFFFFFF⟩, ⟨0x0A0, 0, 1, .rwh, 0x0, 0xFFFFFFFF⟩, ⟨0x0A4, 0, 1, .rw, 0x0, 0xFF⟩,
  ⟨0x0A8, 0, 1, .rw, 0x0, 0xFFFFFFFF⟩, ⟨0x0AC, 0, 1, .ro, 0x0, 0xFF07⟩, ⟨0x0B0, 0, 1, .ro, 0x0, 0xFF01⟩]

def rowsDram : List Row := [
  ⟨0x040, 0, 1, .ro, 0x0, 0x13F⟩, ⟨0x044, 0, 1, .rw, 0x18, 0xFFFF⟩, ⟨0x048, 0, 1, .ro, 0x0, 0xFFFFFFFF⟩,
  ⟨0x04C, 0, 1, .ro, 0x0, 0xFFFFFFFF⟩, ⟨0x050, 0, 1, .rs, 0x0, 0xFFFFFFFF⟩, ⟨0x054, 0, 1, .rs, 0x0, 0xFF⟩]

def rowsXspi : List Row := [
  ⟨0x040, 0, 1, .wo, 0x0, 0xF⟩, ⟨0x044, 0, 1, .rw, 0x0, 0xFFFFFFFF⟩, ⟨0x048, 0, 1, .rw, 0x0, 0x1FF⟩,
  ⟨0x04C, 0, 1, .ro, 0x0, 0xFF03⟩, ⟨0x100, 4, 64, .rw, 0x0, 0xFFFFFFFF⟩]

def rowsBist : List Row := [
  ⟨0x040, 0, 1, .rw, 0xA0E, 0xFF0E⟩, ⟨0x044, 0, 1, .ro, 0x0, 0x3⟩, ⟨0x048, 0, 1, .ro, 0x0, 0xFFFFFFFF⟩,
  ⟨0x04C, 0, 1, .ro, 0x0, 0xFFFFFFFF⟩, ⟨0x050, 0, 1, .rs, 0x0, 0x80003F7F⟩, ⟨0x054, 0, 1, .rs, 0x0, 0xFFFFFFFF⟩,
  ⟨0x058, 0, 1, .rs, 0x0, 0xFFFFFFFF⟩, ⟨0x05C, 0, 1, .ro, 0x0, 0xFFFF01FF⟩, ⟨0x060, 0, 1, .ro, 0x3000000, 0x3FFFFFF⟩,
  ⟨0x064, 0, 1, .ro, 0x0, 0x1⟩, ⟨0x100, 4, 43, .ro, 0x0, 0xFFFF3F07⟩]

def rowsQd : List Row := [
  ⟨0x000, 0, 1, .rw, 0x1400002, 0x1FFFFFF⟩, ⟨0x004, 0, 1, .rw, 0x0, 0x1FFFFFFF⟩, ⟨0x008, 0, 1, .rw, 0x0, 0x7FFFF⟩,
  ⟨0x00C, 0, 1, .rw, 0x1E84800, 0xFFFFFFFF⟩, ⟨0x010, 0, 1, .rw, 0x61A800, 0xFFFFFFFF⟩,
  ⟨0x014, 0, 1, .rw, 0x0, 0xFFFFFFFF⟩, ⟨0x018, 0, 1, .rw, 0x1400, 0xFFFF⟩, ⟨0x01C, 0, 1, .rwh, 0x0, 0xFFFFFFFF⟩,
  ⟨0x020, 0, 1, .rw, 0x0, 0xFFFFFFFF⟩, ⟨0x024, 0, 1, .rwh, 0x0, 0xFFFFFFFF⟩, ⟨0x028, 0, 1, .rw, 0x0, 0xFFFFFFFF⟩,
  ⟨0x02C, 0, 1, .rw, 0x0, 0xFFFFFFFF⟩, ⟨0x030, 0, 1, .ro, 0x0, 0xFFFF0FF7⟩, ⟨0x034, 0, 1, .ro, 0x0, 0xFFFFFFFF⟩,
  ⟨0x038, 0, 1, .ro, 0x0, 0xFFFFFFFF⟩, ⟨0x03C, 0, 1, .wo, 0x0, 0xF⟩]

/-- The block registers of a page kind (offsets on the page; for a queue descriptor, within its 64 bytes). -/
def Kind.rows : Kind → List Row
  | .sys => rowsSys
  | .clk => rowsClk
  | .rst => rowsRst
  | .margin => rowsMargin
  | .coll => rowsColl
  | .fsw => rowsFsw
  | .recd => rowsRec
  | .sev => rowsSev
  | .trio => rowsTrio
  | .intd => rowsIntd
  | .route => rowsRoute
  | .intt => rowsIntt
  | .walk => rowsWalk
  | .part => rowsPart
  | .thrp => rowsThrp
  | .iot => rowsIot
  | .shaft => rowsShaft
  | .angle => rowsAngle
  | .eng => rowsEng
  | .lane => rowsLane
  | .seq => rowsSeq
  | .timer => rowsTimer
  | .ring => rowsRing
  | .eth => rowsEth
  | .net => rowsNet
  | .ycp => rowsYcp
  | .dram => rowsDram
  | .xspi => rowsXspi
  | .bist => rowsBist
  | .qd => rowsQd
  | .xlate => []

/-! Register and field names, as `PAGE.REGISTER` and `PAGE.REGISTER_FIELD`; offsets within the page, or within the block of a
timer channel, a queue descriptor or a partition. -/

def PG.ID : Fld := ⟨0x000, 0, 32⟩
def PG.CAP : Fld := ⟨0x004, 0, 32⟩
def PG.CTL : Fld := ⟨0x008, 0, 32⟩
def PG.STAT : Fld := ⟨0x00C, 0, 32⟩
def PG.WSTAT : Fld := ⟨0x010, 0, 32⟩
def PG.ERR : Fld := ⟨0x014, 0, 32⟩
def PG.PROT : Fld := ⟨0x018, 0, 32⟩
def PG.CTL_EN : Fld := ⟨0x008, 0, 1⟩
def PG.CTL_QUIESCE : Fld := ⟨0x008, 1, 1⟩
def PG.STAT_ENABLED : Fld := ⟨0x00C, 0, 1⟩
def PG.STAT_QUIESCED : Fld := ⟨0x00C, 1, 1⟩
def PG.STAT_IN_TEST : Fld := ⟨0x00C, 2, 1⟩
def PG.STAT_FAULTED : Fld := ⟨0x00C, 3, 1⟩
def PG.WSTAT_CODE : Fld := ⟨0x010, 0, 8⟩
def PG.WSTAT_OFFSET : Fld := ⟨0x010, 8, 12⟩
def PG.WSTAT_RING : Fld := ⟨0x010, 20, 2⟩
def PG.WSTAT_YCP : Fld := ⟨0x010, 22, 1⟩
def PG.WSTAT_COUNT : Fld := ⟨0x010, 24, 8⟩
def PG.ERR_COUNT : Fld := ⟨0x014, 0, 8⟩
def PG.ERR_OFFSET : Fld := ⟨0x014, 8, 12⟩
def PG.ERR_RING : Fld := ⟨0x014, 20, 2⟩
def PG.ERR_KIND : Fld := ⟨0x014, 22, 2⟩
def PG.PROT_RD_RING : Fld := ⟨0x018, 0, 2⟩
def PG.PROT_WR_RING : Fld := ⟨0x018, 8, 2⟩
def SYS.MODE : Fld := ⟨0x040, 0, 32⟩
def SYS.MODE_CUR : Fld := ⟨0x040, 0, 3⟩
def SYS.MODE_PREV : Fld := ⟨0x040, 4, 3⟩
def SYS.MODE_CAUSE : Fld := ⟨0x040, 8, 8⟩
def SYS.MODE_BUSY : Fld := ⟨0x040, 16, 1⟩
def SYS.MODE_HELD : Fld := ⟨0x040, 17, 1⟩
def SYS.MODE_REQ : Fld := ⟨0x044, 0, 32⟩
def SYS.MODE_REQ_TARGET : Fld := ⟨0x044, 0, 3⟩
def SYS.MODE_RES : Fld := ⟨0x048, 0, 32⟩
def SYS.MODE_RES_CODE : Fld := ⟨0x048, 0, 8⟩
def SYS.MODE_RES_TARGET : Fld := ⟨0x048, 8, 3⟩
def SYS.MODE_RES_ABANDONED : Fld := ⟨0x048, 11, 1⟩
def SYS.MODE_RES_SEQ : Fld := ⟨0x048, 16, 16⟩
def SYS.WAKE_CTL : Fld := ⟨0x04C, 0, 32⟩
def SYS.WAKE_CTL_PIN_EN : Fld := ⟨0x04C, 0, 1⟩
def SYS.WAKE_CTL_PIN_LEVEL : Fld := ⟨0x04C, 1, 1⟩
def SYS.WAKE_CTL_TIMER_EN : Fld := ⟨0x04C, 2, 1⟩
def SYS.WAKE_TIMER : Fld := ⟨0x050, 0, 32⟩
def SYS.WAKE_CAUSE : Fld := ⟨0x054, 0, 32⟩
def SYS.WAKE_CAUSE_PIN : Fld := ⟨0x054, 0, 1⟩
def SYS.WAKE_CAUSE_TIMER : Fld := ⟨0x054, 1, 1⟩
def SYS.WAKE_CAUSE_RETAIN_LOST : Fld := ⟨0x054, 2, 1⟩
def SYS.GAUZE_CTL : Fld := ⟨0x058, 0, 32⟩
def SYS.GAUZE_CTL_END : Fld := ⟨0x058, 0, 1⟩
def SYS.GAUZE_CTL_BURN : Fld := ⟨0x058, 1, 1⟩
def SYS.ID_DEVICE : Fld := ⟨0x080, 0, 32⟩
def SYS.ORDER : Fld := ⟨0x084, 0, 32⟩
def SYS.ID_STEP : Fld := ⟨0x090, 0, 32⟩
def SYS.ID_EDITION : Fld := ⟨0x094, 0, 32⟩
def SYS.ACTIVE_ED : Fld := ⟨0x098, 0, 32⟩
def SYS.ROM_REV : Fld := ⟨0x09C, 0, 32⟩
def SYS.SERIAL_LO : Fld := ⟨0x0A0, 0, 32⟩
def SYS.SERIAL_HI : Fld := ⟨0x0A4, 0, 32⟩
def SYS.MIN_SEC_VER : Fld := ⟨0x0A8, 0, 32⟩
def SYS.SEC_VER_SET : Fld := ⟨0x0AC, 0, 32⟩
def SYS.SEC_VER_CMD : Fld := ⟨0x0B0, 0, 32⟩
def SYS.SEC_VER_CMD_KEY : Fld := ⟨0x0B0, 0, 8⟩
def CLK.CLK_STAT : Fld := ⟨0x040, 0, 32⟩
def CLK.CLK_STAT_ROOT_LOCK : Fld := ⟨0x040, 0, 1⟩
def CLK.CLK_STAT_DRAM_LOCK : Fld := ⟨0x040, 1, 1⟩
def CLK.CLK_STAT_XTAL_OK : Fld := ⟨0x040, 2, 1⟩
def CLK.CLK_STAT_DIV_NOW : Fld := ⟨0x040, 8, 4⟩
def CLK.CORE_DIV : Fld := ⟨0x044, 0, 32⟩
def CLK.CORE_DIV_DIV : Fld := ⟨0x044, 0, 4⟩
def CLK.LOSS_CNT : Fld := ⟨0x048, 0, 32⟩
def RST.CAUSE : Fld := ⟨0x040, 0, 32⟩
def RST.CAUSE_POR : Fld := ⟨0x040, 0, 1⟩
def RST.CAUSE_PIN : Fld := ⟨0x040, 1, 1⟩
def RST.CAUSE_SYSTEM : Fld := ⟨0x040, 2, 1⟩
def RST.CAUSE_WARM : Fld := ⟨0x040, 3, 1⟩
def RST.CAUSE_GAUZE : Fld := ⟨0x040, 4, 1⟩
def RST.REQ : Fld := ⟨0x044, 0, 32⟩
def RST.REQ_KIND : Fld := ⟨0x044, 0, 2⟩
def RST.REQ_KEY : Fld := ⟨0x044, 8, 8⟩
def RST.BOOT_STAT : Fld := ⟨0x048, 0, 32⟩
def RST.BOOT_STAT_SOURCE : Fld := ⟨0x048, 0, 2⟩
def RST.BOOT_STAT_RECORD : Fld := ⟨0x048, 2, 1⟩
def RST.BOOT_STAT_DRAM_INIT : Fld := ⟨0x048, 3, 1⟩
def RST.BOOT_STAT_CODE_A : Fld := ⟨0x048, 8, 8⟩
def RST.BOOT_STAT_CODE_B : Fld := ⟨0x048, 16, 8⟩
def RST.BOOT_STAT_CODE_NET : Fld := ⟨0x048, 24, 8⟩
def RST.BOOT_TIME : Fld := ⟨0x04C, 0, 32⟩
def RST.WARM_CNT : Fld := ⟨0x050, 0, 32⟩
def MARGIN.CTL : Fld := ⟨0x040, 0, 32⟩
def MARGIN.CTL_AUTO : Fld := ⟨0x040, 0, 1⟩
def MARGIN.CTL_VOLT_EN : Fld := ⟨0x040, 1, 1⟩
def MARGIN.CTL_DIV_EN : Fld := ⟨0x040, 2, 1⟩
def MARGIN.VSET : Fld := ⟨0x044, 0, 32⟩
def MARGIN.VSET_REQ : Fld := ⟨0x048, 0, 32⟩
def MARGIN.VLIM : Fld := ⟨0x04C, 0, 32⟩
def MARGIN.VLIM_VMIN : Fld := ⟨0x04C, 0, 10⟩
def MARGIN.VLIM_VMAX : Fld := ⟨0x04C, 16, 10⟩
def MARGIN.THRESH : Fld := ⟨0x050, 0, 32⟩
def MARGIN.THRESH_RAISE_PS : Fld := ⟨0x050, 0, 8⟩
def MARGIN.THRESH_LOWER_PS : Fld := ⟨0x050, 8, 8⟩
def MARGIN.SLACK : Fld := ⟨0x054, 0, 32⟩
def MARGIN.SLACK_S : Fld := ⟨0x054, 0, 16⟩
def MARGIN.SLACK_MON : Fld := ⟨0x054, 16, 4⟩
def MARGIN.YEARS : Fld := ⟨0x058, 0, 32⟩
def MARGIN.YEARS_LIM : Fld := ⟨0x05C, 0, 32⟩
def MARGIN.ALOSS : Fld := ⟨0x060, 0, 32⟩
def MARGIN.EQ_HOURS : Fld := ⟨0x064, 0, 32⟩
def MARGIN.POW_HOURS : Fld := ⟨0x068, 0, 32⟩
def MARGIN.STAT : Fld := ⟨0x06C, 0, 32⟩
def MARGIN.STAT_LOADED : Fld := ⟨0x06C, 0, 1⟩
def MARGIN.STAT_AT_CEILING : Fld := ⟨0x06C, 1, 1⟩
def MARGIN.BIN : Fld := ⟨0x080, 0, 32⟩
def MARGIN.STATE : Fld := ⟨0x100, 0, 32⟩
def MARGIN.LOAD_DATA : Fld := ⟨0x140, 0, 32⟩
def MARGIN.LOAD_CMD : Fld := ⟨0x144, 0, 32⟩
def MARGIN.LOAD_CMD_GO : Fld := ⟨0x144, 0, 1⟩
def COLL.STAT : Fld := ⟨0x040, 0, 32⟩
def COLL.STAT_SS_LATCHED : Fld := ⟨0x040, 0, 1⟩
def COLL.STAT_DEGRADED : Fld := ⟨0x040, 1, 1⟩
def COLL.STAT_FAULT_RUN : Fld := ⟨0x040, 2, 1⟩
def COLL.STAT_ROOT_LOST : Fld := ⟨0x040, 3, 1⟩
def COLL.STAT_STO_RUN : Fld := ⟨0x040, 8, 8⟩
def COLL.STAT_SLS_ACTIVE : Fld := ⟨0x040, 16, 4⟩
def COLL.STAT_SS1_RUN : Fld := ⟨0x040, 24, 8⟩
def COLL.SW_STOP : Fld := ⟨0x044, 0, 32⟩
def COLL.SW_STOP_KEY : Fld := ⟨0x044, 0, 8⟩
def COLL.STO_ACK : Fld := ⟨0x048, 0, 32⟩
def COLL.SAFE_CRC : Fld := ⟨0x04C, 0, 32⟩
def COLL.SAFE_CRC_EXP : Fld := ⟨0x050, 0, 32⟩
def COLL.SI_TP : Fld := ⟨0x054, 0, 32⟩
def COLL.SI_TP_WIDTH : Fld := ⟨0x054, 0, 8⟩
def COLL.SI_TP_PERIOD : Fld := ⟨0x054, 8, 8⟩
def COLL.SI_TP_EN : Fld := ⟨0x054, 16, 4⟩
def COLL.STO_TP : Fld := ⟨0x058, 0, 32⟩
def COLL.STO_TP_WIDTH : Fld := ⟨0x058, 0, 8⟩
def COLL.STO_TP_PERIOD : Fld := ⟨0x058, 8, 8⟩
def COLL.STO_TP_EN : Fld := ⟨0x058, 16, 1⟩
def COLL.SI_STAT : Fld := ⟨0x05C, 0, 32⟩
def COLL.SI_STAT_DEMAND : Fld := ⟨0x05C, 0, 16⟩
def COLL.SI_STAT_FAULT : Fld := ⟨0x05C, 16, 16⟩
def COLL.LOG_CNT : Fld := ⟨0x060, 0, 32⟩
def COLL.SI_CFG : Fld := ⟨0x080, 0, 32⟩
def COLL.SI_CFG_FILT : Fld := ⟨0x080, 0, 8⟩
def COLL.SI_CFG_FUNC : Fld := ⟨0x080, 8, 2⟩
def COLL.SI_CFG_ANTIVALENT : Fld := ⟨0x080, 10, 1⟩
def COLL.SI_CFG_TP_EN : Fld := ⟨0x080, 11, 1⟩
def COLL.SI_CFG_TPO_A : Fld := ⟨0x080, 12, 2⟩
def COLL.SI_CFG_TPO_B : Fld := ⟨0x080, 14, 2⟩
def COLL.SI_CFG_SLS_PAIR : Fld := ⟨0x080, 16, 2⟩
def COLL.SI_CFG_DISC : Fld := ⟨0x080, 18, 4⟩
def COLL.SI_CFG_PAIRS : Fld := ⟨0x080, 24, 8⟩
def COLL.STO_CFG : Fld := ⟨0x0C0, 0, 32⟩
def COLL.STO_CFG_MODE : Fld := ⟨0x0C0, 0, 2⟩
def COLL.STO_CFG_RUN_EN : Fld := ⟨0x0C0, 2, 1⟩
def COLL.STO_CFG_SPEED_PAIR : Fld := ⟨0x0C0, 4, 2⟩
def COLL.STO_CFG_DELAY : Fld := ⟨0x0C0, 16, 14⟩
def COLL.STO_SPD : Fld := ⟨0x0E0, 0, 32⟩
def COLL.SLS_LIM : Fld := ⟨0x100, 0, 32⟩
def COLL.SLS_CTL : Fld := ⟨0x104, 0, 32⟩
def COLL.SLS_CTL_ALWAYS : Fld := ⟨0x104, 0, 1⟩
def COLL.SLS_CTL_BY_INPUT : Fld := ⟨0x104, 1, 1⟩
def FSW.FSW : Fld := ⟨0x040, 0, 32⟩
def FSW.LIVE : Fld := ⟨0x080, 0, 32⟩
def REC.REC_INFO : Fld := ⟨0x040, 0, 32⟩
def REC.REC_INFO_SOURCE : Fld := ⟨0x040, 0, 9⟩
def REC.REC_INFO_SEV : Fld := ⟨0x040, 10, 2⟩
def REC.REC_INFO_SEV_MAX : Fld := ⟨0x040, 12, 2⟩
def REC.REC_INFO_ROOT_LOST : Fld := ⟨0x040, 14, 1⟩
def REC.REC_INFO_ADDR_VALID : Fld := ⟨0x040, 15, 1⟩
def REC.REC_INFO_ACCESS : Fld := ⟨0x040, 16, 4⟩
def REC.REC_INFO_VALID : Fld := ⟨0x040, 31, 1⟩
def REC.REC_MASTER : Fld := ⟨0x044, 0, 32⟩
def REC.REC_MASTER_CLASS : Fld := ⟨0x044, 0, 4⟩
def REC.REC_MASTER_UNIT : Fld := ⟨0x044, 4, 4⟩
def REC.REC_MASTER_CORE : Fld := ⟨0x044, 8, 2⟩
def REC.REC_MASTER_THREAD : Fld := ⟨0x044, 12, 3⟩
def REC.REC_MASTER_RING : Fld := ⟨0x044, 16, 2⟩
def REC.REC_ADDR_LO : Fld := ⟨0x048, 0, 32⟩
def REC.REC_ADDR_HI : Fld := ⟨0x04C, 0, 32⟩
def REC.REC_T_LO : Fld := ⟨0x050, 0, 32⟩
def REC.REC_T_HI : Fld := ⟨0x054, 0, 32⟩
def REC.REC_DETAIL : Fld := ⟨0x058, 0, 32⟩
def REC.REC_MERGE : Fld := ⟨0x05C, 0, 32⟩
def REC.REC_MERGE_COUNT : Fld := ⟨0x05C, 0, 16⟩
def REC.REC_MERGE_LAST : Fld := ⟨0x05C, 16, 9⟩
def REC.REC_CLOSE : Fld := ⟨0x060, 0, 32⟩
def REC.REC_CLOSE_CLOSE : Fld := ⟨0x060, 0, 1⟩
def REC.REC_CNT : Fld := ⟨0x064, 0, 32⟩
def SEV.SEV : Fld := ⟨0x040, 0, 32⟩
def SEV.MIN : Fld := ⟨0x0C0, 0, 32⟩
def TRIO.CFG : Fld := ⟨0x040, 0, 32⟩
def TRIO.CFG_CONF : Fld := ⟨0x040, 0, 2⟩
def TRIO.CFG_INTERVAL : Fld := ⟨0x040, 8, 5⟩
def TRIO.CFG_AUTO_REMAP : Fld := ⟨0x040, 16, 1⟩
def TRIO.STAT : Fld := ⟨0x044, 0, 32⟩
def TRIO.STAT_CONF_NOW : Fld := ⟨0x044, 0, 2⟩
def TRIO.STAT_CHANGING : Fld := ⟨0x044, 2, 1⟩
def TRIO.STAT_RESYNC : Fld := ⟨0x044, 3, 1⟩
def TRIO.STAT_DEGRADED : Fld := ⟨0x044, 4, 1⟩
def TRIO.STAT_TAINT : Fld := ⟨0x044, 5, 1⟩
def TRIO.STAT_REMAPPED : Fld := ⟨0x044, 6, 1⟩
def TRIO.STAT_REPLAY : Fld := ⟨0x044, 7, 1⟩
def TRIO.STAT_IN_SVC : Fld := ⟨0x044, 8, 3⟩
def TRIO.ROLES : Fld := ⟨0x048, 0, 32⟩
def TRIO.ROLES_LEAD : Fld := ⟨0x048, 0, 2⟩
def TRIO.ROLES_SHADOW : Fld := ⟨0x048, 4, 2⟩
def TRIO.ROLES_THIRD : Fld := ⟨0x048, 8, 2⟩
def TRIO.PERM_CTL : Fld := ⟨0x04C, 0, 32⟩
def TRIO.PERM_CTL_LIMIT : Fld := ⟨0x04C, 0, 8⟩
def TRIO.PERM_CTL_WINDOW : Fld := ⟨0x04C, 16, 16⟩
def TRIO.CKPT_CNT : Fld := ⟨0x050, 0, 32⟩
def TRIO.EARLY_CNT : Fld := ⟨0x054, 0, 32⟩
def TRIO.FAILOVER_CNT : Fld := ⟨0x058, 0, 32⟩
def TRIO.MISMATCH : Fld := ⟨0x05C, 0, 32⟩
def TRIO.MISMATCH_CORE0 : Fld := ⟨0x05C, 0, 8⟩
def TRIO.MISMATCH_CORE1 : Fld := ⟨0x05C, 8, 8⟩
def TRIO.MISMATCH_CORE2 : Fld := ⟨0x05C, 16, 8⟩
def TRIO.MISMATCH_PAIR : Fld := ⟨0x05C, 24, 8⟩
def TRIO.LAST_EVT_LO : Fld := ⟨0x060, 0, 32⟩
def TRIO.LAST_EVT_HI : Fld := ⟨0x064, 0, 32⟩
def TRIO.LAST_EVT_INFO : Fld := ⟨0x068, 0, 32⟩
def TRIO.LAST_EVT_INFO_KIND : Fld := ⟨0x068, 0, 4⟩
def TRIO.LAST_EVT_INFO_CORE : Fld := ⟨0x068, 8, 2⟩
def TRIO.WORST_OUT : Fld := ⟨0x06C, 0, 32⟩
def TRIO.SELF : Fld := ⟨0x070, 0, 32⟩
def TRIO.SELF_CORE : Fld := ⟨0x070, 0, 2⟩
def TRIO.TAINT_CAUSE : Fld := ⟨0x074, 0, 32⟩
def TRIO.TAINT_CAUSE_DEBUG_HALT : Fld := ⟨0x074, 0, 1⟩
def TRIO.TAINT_CAUSE_DEBUG_WRITE : Fld := ⟨0x074, 1, 1⟩
def TRIO.TAINT_CAUSE_DEGRADED : Fld := ⟨0x074, 2, 1⟩
def TRIO.SPARE : Fld := ⟨0x078, 0, 32⟩
def TRIO.SPARE_PHYS : Fld := ⟨0x078, 0, 4⟩
def TRIO.SPARE_SERVES : Fld := ⟨0x078, 4, 4⟩
def TRIO.SPARE_STATE : Fld := ⟨0x078, 8, 2⟩
def TRIO.HWM : Fld := ⟨0x07C, 0, 32⟩
def TRIO.HWM_COMMIT : Fld := ⟨0x07C, 0, 9⟩
def TRIO.HWM_UNDO : Fld := ⟨0x07C, 16, 12⟩
def TRIO.AAU_STAT : Fld := ⟨0x080, 0, 32⟩
def TRIO.AAU_STAT_IN_SVC : Fld := ⟨0x080, 0, 1⟩
def TRIO.AAU_STAT_FAILED : Fld := ⟨0x080, 1, 1⟩
def TRIO.AAU_MISMATCH : Fld := ⟨0x084, 0, 32⟩
def TRIO.AAU_THIRD : Fld := ⟨0x088, 0, 32⟩
def TRIO.AAU_OPS : Fld := ⟨0x08C, 0, 32⟩
def INTD.SWI_SET : Fld := ⟨0x040, 0, 32⟩
def INTD.SWI_CLR : Fld := ⟨0x044, 0, 32⟩
def INTD.GATE_BASE_LO : Fld := ⟨0x048, 0, 32⟩
def INTD.GATE_BASE_HI : Fld := ⟨0x04C, 0, 32⟩
def INTD.GATE_LIMIT : Fld := ⟨0x050, 0, 32⟩
def INTD.GATE_LIMIT_N : Fld := ⟨0x050, 0, 17⟩
def INTD.EXC_DELEG : Fld := ⟨0x054, 0, 32⟩
def INTD.EXC_DELEG_ILL : Fld := ⟨0x054, 0, 2⟩
def INTD.EXC_DELEG_PRIV : Fld := ⟨0x054, 2, 2⟩
def INTD.EXC_DELEG_SEGLIM : Fld := ⟨0x054, 4, 2⟩
def INTD.EXC_DELEG_SEGRT : Fld := ⟨0x054, 6, 2⟩
def INTD.EXC_DELEG_ALIGN : Fld := ⟨0x054, 8, 2⟩
def INTD.EXC_DELEG_S1 : Fld := ⟨0x054, 10, 2⟩
def INTD.EXC_DELEG_KEY : Fld := ⟨0x054, 14, 2⟩
def INTD.EXC_DELEG_GATEV : Fld := ⟨0x054, 16, 2⟩
def INTD.EXC_DELEG_CPABS : Fld := ⟨0x054, 18, 2⟩
def INTD.EXC_DELEG_AAU : Fld := ⟨0x054, 20, 2⟩
def INTD.EXC_DELEG_DIVZ : Fld := ⟨0x054, 22, 2⟩
def INTD.EXC_DELEG_STACK : Fld := ⟨0x054, 24, 2⟩
def INTD.ESC_CNT : Fld := ⟨0x058, 0, 32⟩
def INTD.DESC_CNT : Fld := ⟨0x05C, 0, 32⟩
def INTD.PEND : Fld := ⟨0x080, 0, 32⟩
def INTD.ACTIVE : Fld := ⟨0x100, 0, 32⟩
def ROUTE.ROUTE : Fld := ⟨0x040, 0, 32⟩
def ROUTE.ROUTE_EN : Fld := ⟨0x040, 0, 1⟩
def ROUTE.ROUTE_EDGE : Fld := ⟨0x040, 1, 1⟩
def ROUTE.ROUTE_PRIO : Fld := ⟨0x040, 4, 4⟩
def ROUTE.ROUTE_TRIO : Fld := ⟨0x040, 8, 4⟩
def ROUTE.ROUTE_CORE : Fld := ⟨0x040, 12, 2⟩
def ROUTE.ROUTE_THREAD : Fld := ⟨0x040, 16, 3⟩
def ROUTE.ROUTE_RING : Fld := ⟨0x040, 20, 2⟩
def ROUTE.ROUTE_ACTIVE : Fld := ⟨0x040, 30, 1⟩
def ROUTE.ROUTE_PEND : Fld := ⟨0x040, 31, 1⟩
def INTT.ACK : Fld := ⟨0x040, 0, 32⟩
def INTT.EOI : Fld := ⟨0x044, 0, 32⟩
def INTT.TOP : Fld := ⟨0x048, 0, 32⟩
def INTT.TOP_SRC : Fld := ⟨0x048, 0, 10⟩
def INTT.TOP_PRIO : Fld := ⟨0x048, 16, 4⟩
def INTT.TOP_RING : Fld := ⟨0x048, 20, 2⟩
def INTT.TOP_VALID : Fld := ⟨0x048, 31, 1⟩
def INTT.RUNPRIO : Fld := ⟨0x04C, 0, 32⟩
def INTT.RUNPRIO_PRIO : Fld := ⟨0x04C, 0, 4⟩
def INTT.RUNPRIO_NONE : Fld := ⟨0x04C, 4, 1⟩
def WALK.TLBI_CNT : Fld := ⟨0x040, 0, 32⟩
def WALK.WALK_CNT : Fld := ⟨0x044, 0, 32⟩
def WALK.WFAULT_CNT : Fld := ⟨0x048, 0, 32⟩
def WALK.QUOTA_TRIO : Fld := ⟨0x050, 0, 32⟩
def WALK.QUOTA_LANE : Fld := ⟨0x054, 0, 32⟩
def WALK.QUOTA_SEQ : Fld := ⟨0x058, 0, 32⟩
def WALK.QUOTA_RING : Fld := ⟨0x05C, 0, 32⟩
def WALK.QUOTA_ETH : Fld := ⟨0x060, 0, 32⟩
def WALK.QUOTA_MAINT : Fld := ⟨0x064, 0, 32⟩
def PART.P_CTL : Fld := ⟨0x000, 0, 32⟩
def PART.P_CTL_S1_EN : Fld := ⟨0x000, 0, 1⟩
def PART.P_CTL_S2_EN : Fld := ⟨0x000, 1, 1⟩
def PART.S1_ROOT_LO : Fld := ⟨0x004, 0, 32⟩
def PART.S1_ROOT_HI : Fld := ⟨0x008, 0, 32⟩
def PART.S2_ROOT_LO : Fld := ⟨0x00C, 0, 32⟩
def PART.S2_ROOT_HI : Fld := ⟨0x010, 0, 32⟩
def PART.SDT_BASE_LO : Fld := ⟨0x014, 0, 32⟩
def PART.SDT_BASE_HI : Fld := ⟨0x018, 0, 32⟩
def PART.SDT_LIMIT : Fld := ⟨0x01C, 0, 32⟩
def THRP.THR_PART : Fld := ⟨0x040, 0, 32⟩
def IOT.IOCTX_CTL : Fld := ⟨0x040, 0, 32⟩
def IOT.IOCTX_CTL_EN : Fld := ⟨0x040, 0, 1⟩
def IOT.IOCTX_CTL_BYPASS : Fld := ⟨0x040, 1, 1⟩
def IOT.IOCTX_ROOT_LO : Fld := ⟨0x044, 0, 32⟩
def IOT.IOCTX_ROOT_HI : Fld := ⟨0x048, 0, 32⟩
def IOT.IOT_INV_LO : Fld := ⟨0x440, 0, 32⟩
def IOT.IOT_INV : Fld := ⟨0x444, 0, 32⟩
def IOT.IOT_INV_STREAM : Fld := ⟨0x444, 0, 6⟩
def IOT.IOT_INV_WHOLE : Fld := ⟨0x444, 8, 1⟩
def IOT.IOT_INV_ADDR_HI : Fld := ⟨0x444, 16, 8⟩
def IOT.IOT_INV_STAT : Fld := ⟨0x448, 0, 32⟩
def IOT.IOT_INV_STAT_BUSY : Fld := ⟨0x448, 0, 1⟩
def IOT.IOF_INFO : Fld := ⟨0x450, 0, 32⟩
def IOT.IOF_INFO_STREAM : Fld := ⟨0x450, 0, 6⟩
def IOT.IOF_INFO_WRITE : Fld := ⟨0x450, 8, 1⟩
def IOT.IOF_INFO_LEVEL : Fld := ⟨0x450, 10, 2⟩
def IOT.IOF_INFO_REASON : Fld := ⟨0x450, 12, 4⟩
def IOT.IOF_INFO_VALID : Fld := ⟨0x450, 31, 1⟩
def IOT.IOF_ADDR_LO : Fld := ⟨0x454, 0, 32⟩
def IOT.IOF_ADDR_HI : Fld := ⟨0x458, 0, 32⟩
def IOT.IOF_CNT : Fld := ⟨0x45C, 0, 32⟩
def SHAFT.CFG : Fld := ⟨0x040, 0, 32⟩
def SHAFT.CFG_TYPE : Fld := ⟨0x040, 0, 2⟩
def SHAFT.CFG_DIR : Fld := ⟨0x040, 2, 1⟩
def SHAFT.CFG_INDEX_EN : Fld := ⟨0x040, 3, 1⟩
def SHAFT.CFG_Z_POL : Fld := ⟨0x040, 4, 1⟩
def SHAFT.CFG_FILT : Fld := ⟨0x040, 8, 4⟩
def SHAFT.CPR : Fld := ⟨0x044, 0, 32⟩
def SHAFT.CPR_VALUE : Fld := ⟨0x044, 0, 24⟩
def SHAFT.INDEX_CNT : Fld := ⟨0x048, 0, 32⟩
def SHAFT.INDEX_CNT_VALUE : Fld := ⟨0x048, 0, 24⟩
def SHAFT.IN_DLY : Fld := ⟨0x04C, 0, 32⟩
def SHAFT.OBS_CTL : Fld := ⟨0x050, 0, 32⟩
def SHAFT.OBS_CTL_BW : Fld := ⟨0x050, 0, 3⟩
def SHAFT.OBS_CTL_STILL : Fld := ⟨0x050, 8, 8⟩
def SHAFT.SSI_CFG : Fld := ⟨0x054, 0, 32⟩
def SHAFT.SSI_CFG_BITS : Fld := ⟨0x054, 0, 6⟩
def SHAFT.SSI_CFG_ST_LSB : Fld := ⟨0x054, 8, 6⟩
def SHAFT.SSI_CFG_ST_BITS : Fld := ⟨0x054, 16, 5⟩
def SHAFT.SSI_CFG_GRAY : Fld := ⟨0x054, 24, 1⟩
def SHAFT.SSI_TIME : Fld := ⟨0x058, 0, 32⟩
def SHAFT.SSI_TIME_DIV : Fld := ⟨0x058, 0, 10⟩
def SHAFT.SSI_TIME_PAUSE : Fld := ⟨0x058, 16, 8⟩
def SHAFT.SSI_PERIOD : Fld := ⟨0x05C, 0, 32⟩
def SHAFT.SSI_LATCH : Fld := ⟨0x060, 0, 32⟩
def SHAFT.CMD : Fld := ⟨0x064, 0, 32⟩
def SHAFT.CMD_OP : Fld := ⟨0x064, 0, 4⟩
def SHAFT.CMD_ARG : Fld := ⟨0x068, 0, 32⟩
def SHAFT.STAT : Fld := ⟨0x06C, 0, 32⟩
def SHAFT.STAT_REFERENCED : Fld := ⟨0x06C, 0, 1⟩
def SHAFT.STAT_SETTLED : Fld := ⟨0x06C, 1, 1⟩
def SHAFT.STAT_STILL : Fld := ⟨0x06C, 2, 1⟩
def SHAFT.STAT_SPARSE : Fld := ⟨0x06C, 3, 2⟩
def SHAFT.STAT_REVERSE : Fld := ⟨0x06C, 5, 1⟩
def SHAFT.STAT_CT_ACTIVE : Fld := ⟨0x06C, 6, 1⟩
def SHAFT.STAT_CT_SUSPENDED : Fld := ⟨0x06C, 7, 1⟩
def SHAFT.STAT_LEARNING : Fld := ⟨0x06C, 8, 1⟩
def SHAFT.STAT_VALID : Fld := ⟨0x06C, 9, 1⟩
def SHAFT.STAT_PAIR_OK : Fld := ⟨0x06C, 10, 1⟩
def SHAFT.CT_CTL : Fld := ⟨0x070, 0, 32⟩
def SHAFT.CT_CTL_MODE : Fld := ⟨0x070, 0, 2⟩
def SHAFT.CT_CTL_AUTO_APPLY : Fld := ⟨0x070, 2, 1⟩
def SHAFT.CT_CTL_LTURNS : Fld := ⟨0x070, 4, 4⟩
def SHAFT.CT_CTL_TOL : Fld := ⟨0x070, 8, 4⟩
def SHAFT.CT_IDX : Fld := ⟨0x074, 0, 32⟩
def SHAFT.CT_DATA : Fld := ⟨0x078, 0, 32⟩
def SHAFT.CT_CRC : Fld := ⟨0x07C, 0, 32⟩
def SHAFT.CT_CRC_EXP : Fld := ⟨0x080, 0, 32⟩
def SHAFT.CT_RES : Fld := ⟨0x084, 0, 32⟩
def SHAFT.CT_RES_CODE : Fld := ⟨0x084, 0, 8⟩
def SHAFT.CT_RES_TURNS : Fld := ⟨0x084, 16, 16⟩
def SHAFT.SNAP_T_LO : Fld := ⟨0x088, 0, 32⟩
def SHAFT.SNAP_T_HI : Fld := ⟨0x08C, 0, 32⟩
def SHAFT.SNAP_A_EXT : Fld := ⟨0x090, 0, 32⟩
def SHAFT.SNAP_A_LO : Fld := ⟨0x094, 0, 32⟩
def SHAFT.SNAP_A_HI : Fld := ⟨0x098, 0, 32⟩
def SHAFT.SNAP_V_LO : Fld := ⟨0x09C, 0, 32⟩
def SHAFT.SNAP_V_HI : Fld := ⟨0x0A0, 0, 32⟩
def SHAFT.SNAP_C_LO : Fld := ⟨0x0A4, 0, 32⟩
def SHAFT.SNAP_C_HI : Fld := ⟨0x0A8, 0, 32⟩
def SHAFT.SNAP_FLAGS : Fld := ⟨0x0AC, 0, 32⟩
def SHAFT.COUNT : Fld := ⟨0x0B0, 0, 32⟩
def SHAFT.EDGE_CNT : Fld := ⟨0x0B4, 0, 32⟩
def SHAFT.QERR_CNT : Fld := ⟨0x0B8, 0, 32⟩
def SHAFT.STEP_CTL : Fld := ⟨0x0BC, 0, 32⟩
def SHAFT.STEP_CTL_SRC : Fld := ⟨0x0BC, 0, 1⟩
def SHAFT.STEP_CTL_SHIFT : Fld := ⟨0x0BC, 8, 5⟩
def SHAFT.REV_SET : Fld := ⟨0x0C0, 0, 32⟩
def SHAFT.SAFE_CTL : Fld := ⟨0x0C4, 0, 32⟩
def SHAFT.SAFE_CTL_PAIR_EN : Fld := ⟨0x0C4, 0, 1⟩
def SHAFT.SAFE_CTL_DISC_TIME : Fld := ⟨0x0C4, 16, 16⟩
def SHAFT.SAFE_ANG_TOL : Fld := ⟨0x0C8, 0, 32⟩
def SHAFT.SAFE_SPD_TOL : Fld := ⟨0x0CC, 0, 32⟩
def SHAFT.SAFE_OFS_LO : Fld := ⟨0x0D0, 0, 32⟩
def SHAFT.SAFE_OFS_HI : Fld := ⟨0x0D4, 0, 32⟩
def SHAFT.SAFE_SPEED : Fld := ⟨0x0D8, 0, 32⟩
def ANGLE.MASTER : Fld := ⟨0x040, 0, 32⟩
def ANGLE.DUP_CNT : Fld := ⟨0x044, 0, 32⟩
def ANGLE.SNAP_ALL : Fld := ⟨0x048, 0, 32⟩
def ENG.CFG : Fld := ⟨0x040, 0, 32⟩
def ENG.CFG_AGE_SHIFT : Fld := ⟨0x040, 0, 4⟩
def ENG.RETIME_PERIOD : Fld := ⟨0x044, 0, 32⟩
def ENG.RETIME_TOL : Fld := ⟨0x048, 0, 32⟩
def ENG.MIN_SPEED : Fld := ⟨0x04C, 0, 32⟩
def ENG.AGE_LIMIT : Fld := ⟨0x050, 0, 32⟩
def ENG.JOG_RATE : Fld := ⟨0x054, 0, 32⟩
def ENG.START : Fld := ⟨0x058, 0, 32⟩
def ENG.CANCEL_Q : Fld := ⟨0x05C, 0, 32⟩
def ENG.CANCEL_A_LO : Fld := ⟨0x060, 0, 32⟩
def ENG.CANCEL_A_HI : Fld := ⟨0x064, 0, 32⟩
def ENG.CANCEL_CMD : Fld := ⟨0x068, 0, 32⟩
def ENG.CANCEL_CMD_GO : Fld := ⟨0x068, 0, 1⟩
def ENG.CANCEL_RES : Fld := ⟨0x06C, 0, 32⟩
def ENG.CANCEL_RES_CODE : Fld := ⟨0x06C, 0, 8⟩
def ENG.CANCEL_RES_COUNT : Fld := ⟨0x06C, 16, 16⟩
def ENG.REJ_INFO : Fld := ⟨0x070, 0, 32⟩
def ENG.REJ_INFO_Q : Fld := ⟨0x070, 0, 14⟩
def ENG.REJ_INFO_CODE : Fld := ⟨0x070, 16, 8⟩
def ENG.REJ_INFO_SRC : Fld := ⟨0x070, 24, 4⟩
def ENG.REJ_INFO_VALID : Fld := ⟨0x070, 31, 1⟩
def ENG.REJ_SRC : Fld := ⟨0x074, 0, 32⟩
def ENG.REJ_SRC_TRIO : Fld := ⟨0x074, 0, 4⟩
def ENG.REJ_SRC_THR : Fld := ⟨0x074, 4, 3⟩
def ENG.BACKLOG_MAX : Fld := ⟨0x078, 0, 32⟩
def ENG.CONV_CNT : Fld := ⟨0x07C, 0, 32⟩
def ENG.DISP_CNT : Fld := ⟨0x080, 0, 32⟩
def ENG.LATE_CNT : Fld := ⟨0x084, 0, 32⟩
def ENG.RETIME_CNT : Fld := ⟨0x088, 0, 32⟩
def ENG.CANCEL_LATE_CNT : Fld := ⟨0x08C, 0, 32⟩
def ENG.NOGRP_CNT : Fld := ⟨0x090, 0, 32⟩
def ENG.PROG_LOAD_LO : Fld := ⟨0x094, 0, 32⟩
def ENG.PROG_LOAD : Fld := ⟨0x098, 0, 32⟩
def ENG.PROG_LOAD_SLOT : Fld := ⟨0x098, 16, 6⟩
def ENG.PROG_RES : Fld := ⟨0x09C, 0, 32⟩
def ENG.PROG_RES_CODE : Fld := ⟨0x09C, 0, 8⟩
def ENG.PROG_RES_SLOT : Fld := ⟨0x09C, 16, 6⟩
def ENG.PROG_RES_BUSY : Fld := ⟨0x09C, 31, 1⟩
def ENG.MARK_INFO : Fld := ⟨0x0A0, 0, 32⟩
def ENG.MARK_INFO_Q : Fld := ⟨0x0A0, 0, 14⟩
def ENG.MARK_INFO_VALID : Fld := ⟨0x0A0, 31, 1⟩
def ENG.MARK_PARAM : Fld := ⟨0x0A4, 0, 32⟩
def ENG.MARK_T_LO : Fld := ⟨0x0A8, 0, 32⟩
def ENG.MARK_T_HI : Fld := ⟨0x0AC, 0, 32⟩
def ENG.MARK_LOST : Fld := ⟨0x0B0, 0, 32⟩
def ENG.NOTIFY_LO : Fld := ⟨0x800, 0, 32⟩
def ENG.NOTIFY_HI : Fld := ⟨0x804, 0, 32⟩
def LANE.LSTAT : Fld := ⟨0x040, 0, 32⟩
def LANE.LSTAT_IN_SVC : Fld := ⟨0x040, 0, 1⟩
def LANE.LSTAT_IN_TEST : Fld := ⟨0x040, 1, 1⟩
def LANE.LSTAT_FAULTED : Fld := ⟨0x040, 2, 1⟩
def LANE.LSTAT_BANKS : Fld := ⟨0x040, 8, 4⟩
def LANE.CONV : Fld := ⟨0x044, 0, 32⟩
def LANE.MISMATCH : Fld := ⟨0x048, 0, 32⟩
def LANE.THIRD : Fld := ⟨0x04C, 0, 32⟩
def LANE.PEAK : Fld := ⟨0x050, 0, 32⟩
def SEQ.TRK_LO : Fld := ⟨0x040, 0, 32⟩
def SEQ.TRK_HI : Fld := ⟨0x044, 0, 32⟩
def SEQ.AHEAD : Fld := ⟨0x048, 0, 32⟩
def SEQ.BASE_LO : Fld := ⟨0x04C, 0, 32⟩
def SEQ.BASE_HI : Fld := ⟨0x050, 0, 32⟩
def SEQ.CMD : Fld := ⟨0x054, 0, 32⟩
def SEQ.CMD_OP : Fld := ⟨0x054, 0, 4⟩
def SEQ.CMD_KEEP_STATE : Fld := ⟨0x054, 8, 1⟩
def SEQ.STAT : Fld := ⟨0x058, 0, 32⟩
def SEQ.STAT_STATE : Fld := ⟨0x058, 0, 3⟩
def SEQ.STAT_CODE : Fld := ⟨0x058, 8, 8⟩
def SEQ.ROW : Fld := ⟨0x05C, 0, 32⟩
def SEQ.PASS : Fld := ⟨0x060, 0, 32⟩
def SEQ.ROW_SUM : Fld := ⟨0x064, 0, 32⟩
def SEQ.HIT_CNT : Fld := ⟨0x068, 0, 32⟩
def SEQ.EMIT_CNT : Fld := ⟨0x06C, 0, 32⟩
def SEQ.WAIT_CNT : Fld := ⟨0x070, 0, 32⟩
def SEQ.PROG_LOAD_LO : Fld := ⟨0x074, 0, 32⟩
def SEQ.PROG_LOAD : Fld := ⟨0x078, 0, 32⟩
def SEQ.PROG_LOAD_SLOT : Fld := ⟨0x078, 16, 4⟩
def SEQ.PROG_RES : Fld := ⟨0x07C, 0, 32⟩
def SEQ.PROG_RES_CODE : Fld := ⟨0x07C, 0, 8⟩
def SEQ.PROG_RES_SLOT : Fld := ⟨0x07C, 16, 4⟩
def SEQ.PROG_RES_BUSY : Fld := ⟨0x07C, 31, 1⟩
def GTMR.GSTART_LO : Fld := ⟨0x040, 0, 32⟩
def GTMR.GSTART_HI : Fld := ⟨0x044, 0, 32⟩
def GTMR.GSTOP_LO : Fld := ⟨0x048, 0, 32⟩
def GTMR.GSTOP_HI : Fld := ⟨0x04C, 0, 32⟩
def GTMR.RUN_LO : Fld := ⟨0x050, 0, 32⟩
def GTMR.RUN_HI : Fld := ⟨0x054, 0, 32⟩
def TIMER.CFG : Fld := ⟨0x000, 0, 32⟩
def TIMER.CFG_MODE : Fld := ⟨0x000, 0, 1⟩
def TIMER.CFG_PRESC : Fld := ⟨0x000, 4, 4⟩
def TIMER.CFG_SHAFT : Fld := ⟨0x000, 8, 3⟩
def TIMER.CFG_FILT : Fld := ⟨0x000, 12, 4⟩
def TIMER.CFG_WIDTH : Fld := ⟨0x000, 16, 6⟩
def TIMER.CFG_LINK : Fld := ⟨0x000, 24, 1⟩
def TIMER.CFG_LOAD_AT : Fld := ⟨0x000, 25, 1⟩
def TIMER.CFG_PIN_OUT : Fld := ⟨0x000, 26, 1⟩
def TIMER.CFG_IDLE : Fld := ⟨0x000, 27, 1⟩
def TIMER.CFG_ACT : Fld := ⟨0x000, 28, 1⟩
def TIMER.CFG_SAFE_STOP : Fld := ⟨0x000, 29, 1⟩
def TIMER.CTL : Fld := ⟨0x004, 0, 32⟩
def TIMER.CTL_CH_EN : Fld := ⟨0x004, 0, 1⟩
def TIMER.CTL_BYPASS : Fld := ⟨0x004, 1, 1⟩
def TIMER.CTL_DIRQ_A : Fld := ⟨0x004, 4, 2⟩
def TIMER.CTL_DIRQ_B : Fld := ⟨0x004, 6, 2⟩
def TIMER.CTL_ACT_A : Fld := ⟨0x004, 8, 3⟩
def TIMER.CTL_ACT_B : Fld := ⟨0x004, 12, 3⟩
def TIMER.CMD : Fld := ⟨0x008, 0, 32⟩
def TIMER.CMD_OP : Fld := ⟨0x008, 0, 2⟩
def TIMER.STAT : Fld := ⟨0x00C, 0, 32⟩
def TIMER.STAT_STATE : Fld := ⟨0x00C, 0, 2⟩
def TIMER.STAT_DIR : Fld := ⟨0x00C, 2, 1⟩
def TIMER.STAT_PIN : Fld := ⟨0x00C, 3, 1⟩
def TIMER.STAT_INHIBITED : Fld := ⟨0x00C, 4, 1⟩
def TIMER.STAT_LINKED : Fld := ⟨0x00C, 5, 1⟩
def TIMER.COUNT : Fld := ⟨0x010, 0, 32⟩
def TIMER.TOP : Fld := ⟨0x014, 0, 32⟩
def TIMER.CMPA : Fld := ⟨0x018, 0, 32⟩
def TIMER.CMPB : Fld := ⟨0x01C, 0, 32⟩
def TIMER.INTA : Fld := ⟨0x020, 0, 32⟩
def TIMER.INTB : Fld := ⟨0x024, 0, 32⟩
def TIMER.TOP_ACT : Fld := ⟨0x028, 0, 32⟩
def TIMER.CMPA_ACT : Fld := ⟨0x02C, 0, 32⟩
def TIMER.CMPB_ACT : Fld := ⟨0x030, 0, 32⟩
def TIMER.UCOUNT : Fld := ⟨0x034, 0, 32⟩
def TIMER.CAPR : Fld := ⟨0x038, 0, 32⟩
def TIMER.CAPF : Fld := ⟨0x03C, 0, 32⟩
def TIMER.CAP_STAT : Fld := ⟨0x040, 0, 32⟩
def TIMER.CAP_STAT_R_NEW : Fld := ⟨0x040, 0, 1⟩
def TIMER.CAP_STAT_F_NEW : Fld := ⟨0x040, 1, 1⟩
def TIMER.CAP_STAT_R_OVR : Fld := ⟨0x040, 2, 1⟩
def TIMER.CAP_STAT_F_OVR : Fld := ⟨0x040, 3, 1⟩
def TIMER.CAP_STAT_ORDER : Fld := ⟨0x040, 4, 1⟩
def TIMER.IRQ_STAT : Fld := ⟨0x044, 0, 32⟩
def TIMER.IRQ_EN : Fld := ⟨0x048, 0, 32⟩
def RING.CFG : Fld := ⟨0x040, 0, 32⟩
def RING.CFG_NODES : Fld := ⟨0x040, 0, 7⟩
def RING.CFG_UP_SHARE : Fld := ⟨0x040, 8, 2⟩
def RING.CFG_TIME_PERIOD : Fld := ⟨0x040, 16, 8⟩
def RING.CFG_BG_MEAS : Fld := ⟨0x040, 24, 1⟩
def RING.CFG_LOG_STATUS : Fld := ⟨0x040, 25, 1⟩
def RING.CFG_LOG_REPORT : Fld := ⟨0x040, 26, 1⟩
def RING.CFG2 : Fld := ⟨0x044, 0, 32⟩
def RING.CFG2_STATUS_MS : Fld := ⟨0x044, 0, 8⟩
def RING.CFG2_REPORT_WAIT : Fld := ⟨0x044, 8, 8⟩
def RING.CMD : Fld := ⟨0x048, 0, 32⟩
def RING.CMD_OP : Fld := ⟨0x048, 0, 4⟩
def RING.CMD_NODE : Fld := ⟨0x048, 8, 7⟩
def RING.CMD_RES : Fld := ⟨0x04C, 0, 32⟩
def RING.CMD_RES_CODE : Fld := ⟨0x04C, 0, 8⟩
def RING.CMD_RES_NODE : Fld := ⟨0x04C, 8, 7⟩
def RING.CMD_RES_BUSY : Fld := ⟨0x04C, 31, 1⟩
def RING.STAT : Fld := ⟨0x050, 0, 32⟩
def RING.STAT_LINE : Fld := ⟨0x050, 0, 3⟩
def RING.STAT_LOCK0 : Fld := ⟨0x050, 3, 1⟩
def RING.STAT_LOCK1 : Fld := ⟨0x050, 4, 1⟩
def RING.STAT_WRAPPED : Fld := ⟨0x050, 5, 1⟩
def RING.STAT_NODES : Fld := ⟨0x050, 8, 7⟩
def RING.STAT_BREAK_AFTER : Fld := ⟨0x050, 16, 7⟩
def RING.STAT_EPOCH : Fld := ⟨0x050, 24, 8⟩
def RING.HOP_MAX : Fld := ⟨0x054, 0, 32⟩
def RING.TXQ_MAX : Fld := ⟨0x058, 0, 32⟩
def RING.FRAME_CNT : Fld := ⟨0x05C, 0, 32⟩
def RING.CRC_ERR_CNT : Fld := ⟨0x060, 0, 32⟩
def RING.UNDELIV_CNT : Fld := ⟨0x064, 0, 32⟩
def RING.CANCEL_NOACK_CNT : Fld := ⟨0x068, 0, 32⟩
def RING.REPORT_DROP_CNT : Fld := ⟨0x06C, 0, 32⟩
def RING.LOG_BASE_LO : Fld := ⟨0x070, 0, 32⟩
def RING.LOG_BASE_HI : Fld := ⟨0x074, 0, 32⟩
def RING.LOG_SIZE : Fld := ⟨0x078, 0, 32⟩
def RING.LOG_HEAD : Fld := ⟨0x07C, 0, 32⟩
def RING.LOG_TAIL : Fld := ⟨0x080, 0, 32⟩
def RING.LOG_LOST : Fld := ⟨0x084, 0, 32⟩
def RING.PROG_LOAD_LO : Fld := ⟨0x088, 0, 32⟩
def RING.PROG_LOAD : Fld := ⟨0x08C, 0, 32⟩
def RING.PROG_RES : Fld := ⟨0x090, 0, 32⟩
def RING.PROG_RES_CODE : Fld := ⟨0x090, 0, 8⟩
def RING.PROG_RES_BUSY : Fld := ⟨0x090, 31, 1⟩
def RING.DLY0 : Fld := ⟨0x100, 0, 32⟩
def RING.DLY1 : Fld := ⟨0x104, 0, 32⟩
def RING.NSTAT : Fld := ⟨0x500, 0, 32⟩
def RING.NSTAT_TEMP : Fld := ⟨0x500, 0, 16⟩
def RING.NSTAT_STATE : Fld := ⟨0x500, 16, 3⟩
def RING.NSTAT_LOST_RX0 : Fld := ⟨0x500, 19, 1⟩
def RING.NSTAT_LOST_RX1 : Fld := ⟨0x500, 20, 1⟩
def RING.NSTAT_DESC_OK : Fld := ⟨0x500, 21, 1⟩
def RING.DESC : Fld := ⟨0x700, 0, 32⟩
def ETH.CFG : Fld := ⟨0x040, 0, 32⟩
def ETH.CFG_MEDIA : Fld := ⟨0x040, 0, 1⟩
def ETH.CFG_FEC : Fld := ⟨0x040, 1, 1⟩
def ETH.CFG_TRAIN : Fld := ⟨0x040, 2, 1⟩
def ETH.STAT : Fld := ⟨0x044, 0, 32⟩
def ETH.STAT_BLOCK_LOCK : Fld := ⟨0x044, 0, 1⟩
def ETH.STAT_HI_BER : Fld := ⟨0x044, 1, 1⟩
def ETH.STAT_LINK : Fld := ⟨0x044, 2, 1⟩
def ETH.STAT_TRAINED : Fld := ⟨0x044, 3, 1⟩
def ETH.STAT_TRAIN_FAIL : Fld := ⟨0x044, 4, 1⟩
def ETH.STAT_FEC_LOCK : Fld := ⟨0x044, 5, 1⟩
def ETH.TX_COEF : Fld := ⟨0x048, 0, 32⟩
def ETH.TS_ADJ : Fld := ⟨0x04C, 0, 32⟩
def ETH.TS_ADJ_RX : Fld := ⟨0x04C, 0, 16⟩
def ETH.TS_ADJ_TX : Fld := ⟨0x04C, 16, 16⟩
def ETH.RX_OK : Fld := ⟨0x050, 0, 32⟩
def ETH.RX_ERR : Fld := ⟨0x054, 0, 32⟩
def ETH.TX_OK : Fld := ⟨0x058, 0, 32⟩
def ETH.TX_DROP : Fld := ⟨0x05C, 0, 32⟩
def ETH.FEC_CORR : Fld := ⟨0x060, 0, 32⟩
def ETH.FEC_UNCORR : Fld := ⟨0x064, 0, 32⟩
def ETH.SEC_CTL : Fld := ⟨0x068, 0, 32⟩
def ETH.SEC_CTL_EN : Fld := ⟨0x068, 0, 1⟩
def ETH.SEC_CTL_XPN : Fld := ⟨0x068, 1, 1⟩
def ETH.SEC_CTL_CONF : Fld := ⟨0x068, 2, 1⟩
def ETH.SEC_CTL_TX_AN : Fld := ⟨0x068, 3, 1⟩
def ETH.SEC_CTL_ALLOW_PLAIN : Fld := ⟨0x068, 4, 1⟩
def ETH.SEC_WIN : Fld := ⟨0x06C, 0, 32⟩
def ETH.SA_SEL : Fld := ⟨0x070, 0, 32⟩
def ETH.SA_SEL_DIR : Fld := ⟨0x070, 0, 1⟩
def ETH.SA_SEL_SC : Fld := ⟨0x070, 1, 3⟩
def ETH.SA_SEL_AN : Fld := ⟨0x070, 4, 1⟩
def ETH.SA_CMD : Fld := ⟨0x074, 0, 32⟩
def ETH.SA_CMD_OP : Fld := ⟨0x074, 0, 2⟩
def ETH.SA_PN_LO : Fld := ⟨0x078, 0, 32⟩
def ETH.SA_PN_HI : Fld := ⟨0x07C, 0, 32⟩
def ETH.SC_SCI_LO : Fld := ⟨0x080, 0, 32⟩
def ETH.SC_SCI_HI : Fld := ⟨0x084, 0, 32⟩
def ETH.SA_SSCI : Fld := ⟨0x088, 0, 32⟩
def ETH.SA_SALT : Fld := ⟨0x08C, 0, 32⟩
def ETH.SA_KEY : Fld := ⟨0x0A0, 0, 32⟩
def ETH.SEC_ICV_ERR : Fld := ⟨0x0C0, 0, 32⟩
def ETH.SEC_REPLAY : Fld := ⟨0x0C4, 0, 32⟩
def ETH.SEC_NOSA : Fld := ⟨0x0C8, 0, 32⟩
def NET.PRP_CTL : Fld := ⟨0x040, 0, 32⟩
def NET.PRP_CTL_EN : Fld := ⟨0x040, 0, 1⟩
def NET.PRP_CTL_LIFE : Fld := ⟨0x040, 4, 12⟩
def NET.PRP_CTL_FORGET : Fld := ⟨0x040, 16, 16⟩
def NET.DUP_A : Fld := ⟨0x044, 0, 32⟩
def NET.DUP_B : Fld := ⟨0x048, 0, 32⟩
def NET.WRONG_LAN : Fld := ⟨0x04C, 0, 32⟩
def NET.NODES : Fld := ⟨0x050, 0, 32⟩
def NET.VLAN : Fld := ⟨0x054, 0, 32⟩
def NET.VLAN_VID : Fld := ⟨0x054, 0, 12⟩
def NET.VLAN_PCP : Fld := ⟨0x054, 12, 3⟩
def NET.VLAN_EN : Fld := ⟨0x054, 16, 1⟩
def NET.IP4_ADDR : Fld := ⟨0x058, 0, 32⟩
def NET.IP6_ADDR : Fld := ⟨0x05C, 0, 32⟩
def NET.PTP_CTL : Fld := ⟨0x070, 0, 32⟩
def NET.PTP_CTL_EN : Fld := ⟨0x070, 0, 1⟩
def NET.PTP_CTL_PROFILE : Fld := ⟨0x070, 1, 2⟩
def NET.PTP_CTL_GM_CAPABLE : Fld := ⟨0x070, 3, 1⟩
def NET.PTP_CTL_ONE_STEP : Fld := ⟨0x070, 4, 1⟩
def NET.PTP_CTL_UDP : Fld := ⟨0x070, 5, 1⟩
def NET.PTP_CTL_DOMAIN : Fld := ⟨0x070, 8, 8⟩
def NET.PTP_CTL_PRIO1 : Fld := ⟨0x070, 16, 8⟩
def NET.PTP_CTL_PRIO2 : Fld := ⟨0x070, 24, 8⟩
def NET.PTP_SERVO : Fld := ⟨0x074, 0, 32⟩
def NET.PTP_SERVO_PSHIFT : Fld := ⟨0x074, 0, 5⟩
def NET.PTP_SERVO_ISHIFT : Fld := ⟨0x074, 8, 5⟩
def NET.PTP_SERVO_STEP_EN : Fld := ⟨0x074, 16, 1⟩
def NET.PTP_STEP_TH : Fld := ⟨0x078, 0, 32⟩
def NET.PTP_OFS_LIM : Fld := ⟨0x07C, 0, 32⟩
def NET.PTP_STAT : Fld := ⟨0x080, 0, 32⟩
def NET.PTP_STAT_STATE : Fld := ⟨0x080, 0, 3⟩
def NET.PTP_STAT_PORT : Fld := ⟨0x080, 3, 1⟩
def NET.PTP_STAT_LOCKED : Fld := ⟨0x080, 4, 1⟩
def NET.PTP_OFS : Fld := ⟨0x084, 0, 32⟩
def NET.PTP_ADJ : Fld := ⟨0x088, 0, 32⟩
def NET.EPOCH_LO : Fld := ⟨0x08C, 0, 32⟩
def NET.EPOCH_HI : Fld := ⟨0x090, 0, 32⟩
def NET.PROG_LOAD_LO : Fld := ⟨0x094, 0, 32⟩
def NET.PROG_LOAD : Fld := ⟨0x098, 0, 32⟩
def NET.PROG_RES : Fld := ⟨0x09C, 0, 32⟩
def NET.PROG_RES_CODE : Fld := ⟨0x09C, 0, 8⟩
def NET.PROG_RES_BUSY : Fld := ⟨0x09C, 31, 1⟩
def NET.RAWRX_BASE_LO : Fld := ⟨0x0A0, 0, 32⟩
def NET.RAWRX_BASE_HI : Fld := ⟨0x0A4, 0, 32⟩
def NET.RAWRX_CFG : Fld := ⟨0x0A8, 0, 32⟩
def NET.RAWRX_CFG_SLOTS : Fld := ⟨0x0A8, 0, 4⟩
def NET.RAWRX_HEAD : Fld := ⟨0x0AC, 0, 32⟩
def NET.RAWRX_TAIL : Fld := ⟨0x0B0, 0, 32⟩
def NET.RAWRX_LOST : Fld := ⟨0x0B4, 0, 32⟩
def NET.RAWTX_BASE_LO : Fld := ⟨0x0B8, 0, 32⟩
def NET.RAWTX_BASE_HI : Fld := ⟨0x0BC, 0, 32⟩
def NET.RAWTX_CFG : Fld := ⟨0x0C0, 0, 32⟩
def NET.RAWTX_CFG_SLOTS : Fld := ⟨0x0C0, 0, 4⟩
def NET.RAWTX_HEAD : Fld := ⟨0x0C4, 0, 32⟩
def NET.RAWTX_TAIL : Fld := ⟨0x0C8, 0, 32⟩
def YCP.CTL : Fld := ⟨0x040, 0, 32⟩
def YCP.CTL_PORT : Fld := ⟨0x040, 0, 16⟩
def YCP.CTL_EN_IP4 : Fld := ⟨0x040, 16, 1⟩
def YCP.CTL_EN_IP6 : Fld := ⟨0x040, 17, 1⟩
def YCP.TIMEOUT : Fld := ⟨0x044, 0, 32⟩
def YCP.SESS : Fld := ⟨0x048, 0, 32⟩
def YCP.SESS_OPEN : Fld := ⟨0x048, 0, 8⟩
def YCP.SESS_PENDING : Fld := ⟨0x048, 8, 8⟩
def YCP.DISCARD : Fld := ⟨0x04C, 0, 32⟩
def YCP.AUTH_FAIL : Fld := ⟨0x050, 0, 32⟩
def YCP.KEY_SEL : Fld := ⟨0x054, 0, 32⟩
def YCP.KEY_CTL : Fld := ⟨0x058, 0, 32⟩
def YCP.KEY_CTL_VALID : Fld := ⟨0x058, 0, 1⟩
def YCP.KEY_CTL_RING : Fld := ⟨0x058, 1, 2⟩
def YCP.KEY_CTL_RIGHTS : Fld := ⟨0x058, 8, 9⟩
def YCP.KEY : Fld := ⟨0x060, 0, 32⟩
def YCP.SAFE_CTL : Fld := ⟨0x080, 0, 32⟩
def YCP.SAFE_CTL_EN : Fld := ⟨0x080, 0, 1⟩
def YCP.SAFE_CTL_WATCHDOG : Fld := ⟨0x080, 16, 16⟩
def YCP.SAFE_CONN : Fld := ⟨0x084, 0, 32⟩
def YCP.SAFE_STAT : Fld := ⟨0x088, 0, 32⟩
def YCP.SAFE_STAT_ARMED : Fld := ⟨0x088, 0, 1⟩
def YCP.SAFE_STAT_STOP : Fld := ⟨0x088, 1, 1⟩
def YCP.SAFE_STAT_FAIL : Fld := ⟨0x088, 2, 2⟩
def YCP.SAFE_CNT : Fld := ⟨0x08C, 0, 32⟩
def YCP.SAFE_FAIL : Fld := ⟨0x090, 0, 32⟩
def YCP.PAT_BASE_LO : Fld := ⟨0x094, 0, 32⟩
def YCP.PAT_BASE_HI : Fld := ⟨0x098, 0, 32⟩
def YCP.PAT_SIZE : Fld := ⟨0x09C, 0, 32⟩
def YCP.IMG_BUF_LO : Fld := ⟨0x0A0, 0, 32⟩
def YCP.IMG_BUF_HI : Fld := ⟨0x0A4, 0, 32⟩
def YCP.IMG_BUF_SIZE : Fld := ⟨0x0A8, 0, 32⟩
def YCP.IMG_STAT : Fld := ⟨0x0AC, 0, 32⟩
def YCP.IMG_STAT_TARGET : Fld := ⟨0x0AC, 0, 2⟩
def YCP.IMG_STAT_BUSY : Fld := ⟨0x0AC, 2, 1⟩
def YCP.IMG_STAT_CODE : Fld := ⟨0x0AC, 8, 8⟩
def YCP.DEBUG_STAT : Fld := ⟨0x0B0, 0, 32⟩
def YCP.DEBUG_STAT_AVAILABLE : Fld := ⟨0x0B0, 0, 1⟩
def YCP.DEBUG_STAT_UNLOCKED : Fld := ⟨0x0B0, 8, 8⟩
def DRAM.DRAM_CFG : Fld := ⟨0x040, 0, 32⟩
def DRAM.DRAM_CFG_GIB : Fld := ⟨0x040, 0, 4⟩
def DRAM.DRAM_CFG_RANKS : Fld := ⟨0x040, 4, 2⟩
def DRAM.DRAM_CFG_TRAINED : Fld := ⟨0x040, 8, 1⟩
def DRAM.SCRUB_CTL : Fld := ⟨0x044, 0, 32⟩
def DRAM.SCRUB_CTL_HOURS : Fld := ⟨0x044, 0, 16⟩
def DRAM.CE_CNT : Fld := ⟨0x048, 0, 32⟩
def DRAM.UE_CNT : Fld := ⟨0x04C, 0, 32⟩
def DRAM.UE_ADDR_LO : Fld := ⟨0x050, 0, 32⟩
def DRAM.UE_ADDR_HI : Fld := ⟨0x054, 0, 32⟩
def XSPI.CMD : Fld := ⟨0x040, 0, 32⟩
def XSPI.CMD_PORT : Fld := ⟨0x040, 0, 1⟩
def XSPI.CMD_OP : Fld := ⟨0x040, 1, 3⟩
def XSPI.ADDR : Fld := ⟨0x044, 0, 32⟩
def XSPI.LEN : Fld := ⟨0x048, 0, 32⟩
def XSPI.STAT : Fld := ⟨0x04C, 0, 32⟩
def XSPI.STAT_BUSY0 : Fld := ⟨0x04C, 0, 1⟩
def XSPI.STAT_BUSY1 : Fld := ⟨0x04C, 1, 1⟩
def XSPI.STAT_CODE : Fld := ⟨0x04C, 8, 8⟩
def XSPI.BUF : Fld := ⟨0x100, 0, 32⟩
def BIST.PER_CTL : Fld := ⟨0x040, 0, 32⟩
def BIST.PER_CTL_CORES : Fld := ⟨0x040, 1, 1⟩
def BIST.PER_CTL_LANES : Fld := ⟨0x040, 2, 1⟩
def BIST.PER_CTL_SPARE : Fld := ⟨0x040, 3, 1⟩
def BIST.PER_CTL_GAP : Fld := ⟨0x040, 8, 8⟩
def BIST.PER_STAT : Fld := ⟨0x044, 0, 32⟩
def BIST.PER_STAT_ACTIVE : Fld := ⟨0x044, 0, 1⟩
def BIST.PER_STAT_LANES_SUSPENDED : Fld := ⟨0x044, 1, 1⟩
def BIST.SLICE_CNT : Fld := ⟨0x048, 0, 32⟩
def BIST.FAIL_CNT : Fld := ⟨0x04C, 0, 32⟩
def BIST.LAST_FAIL : Fld := ⟨0x050, 0, 32⟩
def BIST.LAST_FAIL_UNIT : Fld := ⟨0x050, 0, 7⟩
def BIST.LAST_FAIL_SLICE : Fld := ⟨0x050, 8, 6⟩
def BIST.LAST_FAIL_VALID : Fld := ⟨0x050, 31, 1⟩
def BIST.LAST_FAIL_T_LO : Fld := ⟨0x054, 0, 32⟩
def BIST.LAST_FAIL_T_HI : Fld := ⟨0x058, 0, 32⟩
def BIST.REC_STAT : Fld := ⟨0x05C, 0, 32⟩
def BIST.REC_STAT_CODE : Fld := ⟨0x05C, 0, 8⟩
def BIST.REC_STAT_QUICK : Fld := ⟨0x05C, 8, 1⟩
def BIST.REC_STAT_USE : Fld := ⟨0x05C, 16, 8⟩
def BIST.REC_STAT_SEQ : Fld := ⟨0x05C, 24, 8⟩
def BIST.REPAIR : Fld := ⟨0x060, 0, 32⟩
def BIST.REPAIR_SOFT : Fld := ⟨0x060, 0, 16⟩
def BIST.REPAIR_FREE : Fld := ⟨0x060, 16, 10⟩
def BIST.SPARE_STAT : Fld := ⟨0x064, 0, 32⟩
def BIST.SPARE_STAT_FAILED : Fld := ⟨0x064, 0, 1⟩
def BIST.UNIT : Fld := ⟨0x100, 0, 32⟩
def BIST.UNIT_PASSED : Fld := ⟨0x100, 0, 1⟩
def BIST.UNIT_FAILED : Fld := ⟨0x100, 1, 1⟩
def BIST.UNIT_IN_TEST : Fld := ⟨0x100, 2, 1⟩
def BIST.UNIT_NEXT : Fld := ⟨0x100, 8, 6⟩
def BIST.UNIT_PASSES : Fld := ⟨0x100, 16, 16⟩
def QD.QCTL : Fld := ⟨0x000, 0, 32⟩
def QD.QCTL_EN : Fld := ⟨0x000, 0, 1⟩
def QD.QCTL_KEEP : Fld := ⟨0x000, 1, 1⟩
def QD.QCTL_LATE : Fld := ⟨0x000, 2, 2⟩
def QD.QCTL_SRC : Fld := ⟨0x000, 4, 2⟩
def QD.QCTL_APP_RING : Fld := ⟨0x000, 6, 2⟩
def QD.QCTL_PART : Fld := ⟨0x000, 8, 4⟩
def QD.QCTL_ANY_PART : Fld := ⟨0x000, 12, 1⟩
def QD.QCTL_SHAFT : Fld := ⟨0x000, 13, 3⟩
def QD.QCTL_GROUP : Fld := ⟨0x000, 16, 4⟩
def QD.QCTL_MAX_INFLIGHT : Fld := ⟨0x000, 20, 3⟩
def QD.QCTL_NOTIFY_EN : Fld := ⟨0x000, 23, 1⟩
def QD.QCTL_RETIME_EN : Fld := ⟨0x000, 24, 1⟩
def QD.QREGION : Fld := ⟨0x004, 0, 32⟩
def QD.QREGION_BASE_BLK : Fld := ⟨0x004, 0, 16⟩
def QD.QREGION_NBLK : Fld := ⟨0x004, 16, 13⟩
def QD.QDEST : Fld := ⟨0x008, 0, 32⟩
def QD.QDEST_RING : Fld := ⟨0x008, 0, 4⟩
def QD.QDEST_NODE : Fld := ⟨0x008, 4, 7⟩
def QD.QDEST_CHAN : Fld := ⟨0x008, 11, 8⟩
def QD.HORIZON : Fld := ⟨0x00C, 0, 32⟩
def QD.LEAD : Fld := ⟨0x010, 0, 32⟩
def QD.LAT_BASE : Fld := ⟨0x014, 0, 32⟩
def QD.LAT_T0 : Fld := ⟨0x018, 0, 32⟩
def QD.LAT_K1_LO : Fld := ⟨0x01C, 0, 32⟩
def QD.LAT_K1_HI : Fld := ⟨0x020, 0, 32⟩
def QD.LAT_K2_LO : Fld := ⟨0x024, 0, 32⟩
def QD.LAT_K2_HI : Fld := ⟨0x028, 0, 32⟩
def QD.LAT_AGE : Fld := ⟨0x02C, 0, 32⟩
def QD.QSTATE : Fld := ⟨0x030, 0, 32⟩
def QD.QSTATE_STATE : Fld := ⟨0x030, 0, 3⟩
def QD.QSTATE_CAUSE : Fld := ⟨0x030, 4, 4⟩
def QD.QSTATE_INFLIGHT : Fld := ⟨0x030, 8, 3⟩
def QD.QSTATE_PARKED : Fld := ⟨0x030, 11, 1⟩
def QD.QSTATE_COUNT : Fld := ⟨0x030, 16, 16⟩
def QD.QREJ : Fld := ⟨0x034, 0, 32⟩
def QD.QREJ_CODE : Fld := ⟨0x034, 0, 8⟩
def QD.QREJ_COUNT : Fld := ⟨0x034, 8, 24⟩
def QD.QLATE : Fld := ⟨0x038, 0, 32⟩
def QD.QLATE_LATE : Fld := ⟨0x038, 0, 16⟩
def QD.QLATE_CANCEL_LATE : Fld := ⟨0x038, 16, 16⟩
def QD.QCMD : Fld := ⟨0x03C, 0, 32⟩
def QD.QCMD_OP : Fld := ⟨0x03C, 0, 4⟩

end Sys2Proof.Machine
end

