-- ==== Sys2Proof/Machine/Sources.lean ====
section
/-! DEFINITION. The fault sources: which numbers are used, their kind, default severity and fixed minimum (R404-R408,
R78, R241, R279, R305, R337, R398). Severities: 0 Log, 1 Notify, 2 Degrade, 3 Safe stop (R413). -/
namespace Sys2Proof.Machine

/-- Default and minimum of event `k` of a trio identity (R78, R305, R404). -/
def sevTrio : Nat → Nat × Nat
  | 0 => (1, 0) | 1 => (1, 0) | 2 => (2, 1) | 3 => (2, 2) | 4 => (1, 0) | 5 => (2, 2) | 6 => (3, 3) | 7 => (0, 0)
  | 8 => (2, 2) | 9 => (0, 0) | 10 => (2, 1) | _ => (0, 0)

/-- Default and minimum of event `k` of a shaft (R241). -/
def sevShaft : Nat → Nat × Nat
  | 0 => (2, 1) | 1 => (2, 1) | 2 => (2, 1) | 3 => (3, 2) | 4 => (3, 3) | _ => (2, 2)

/-- Default and minimum of sources 220 to 229 (R279). -/
def sevEngine : Nat → Nat × Nat
  | 0 => (2, 2) | 1 => (2, 1) | 2 => (0, 0) | 3 => (1, 0) | 4 => (0, 0) | 5 => (0, 0) | 6 => (1, 0) | 7 => (1, 0)
  | 8 => (2, 1) | _ => (3, 2)

/-- Default and minimum of sources 236 to 249 (R406). -/
def sevMemory : Nat → Nat × Nat
  | 0 => (0, 0) | 1 => (2, 2) | 2 => (0, 0) | 3 => (0, 0) | 4 => (2, 1) | 5 => (0, 0) | 6 => (2, 1) | 7 => (1, 0)
  | 8 => (2, 2) | 9 => (2, 1) | _ => (1, 0)

/-- Default and minimum of event `k` of a ring port (R337). -/
def sevRing : Nat → Nat × Nat
  | 0 => (1, 0) | 1 => (3, 2) | 2 => (2, 1) | 3 => (2, 1) | 4 => (1, 0) | 5 => (1, 0) | 6 => (0, 0) | 7 => (1, 0)
  | _ => (1, 0)

/-- Default and minimum of sources 400 to 411 (R398). -/
def sevEth : Nat → Nat × Nat
  | 0 => (1, 0) | 1 => (1, 0) | 2 => (1, 0) | 3 => (2, 1) | 4 => (1, 0) | 5 => (1, 0) | 6 => (0, 0) | 7 => (2, 2)
  | 8 => (1, 0) | 9 => (3, 1) | 10 => (3, 3) | _ => (3, 2)

/-- Default and minimum of sources 0 to 12 (R405). -/
def sevBase : Nat → Nat × Nat
  | 3 => (2, 1) | 4 => (1, 0) | 6 => (3, 2) | 10 => (1, 0) | 11 => (3, 2) | _ => (3, 3)

/-- Default and minimum of sources 416 to 461 (R407). -/
def sevSafety (n : Nat) : Nat × Nat :=
  if n < 432 then (3, 1) else if n < 448 then (3, 2) else (3, 3)

/-- Default and minimum of sources 464 to 471 (R408). -/
def sevSelf : Nat → Nat × Nat
  | 0 => (2, 2) | 1 => (1, 0) | 2 => (2, 1) | 3 => (0, 0) | 4 => (1, 0) | 5 => (2, 1) | 6 => (2, 1) | _ => (1, 0)

/-- The default and fixed minimum severity of a source; none for a reserved number (R404). -/
def sevOf (n : Nat) : Option (Nat × Nat) :=
  if n ≤ 12 then some (sevBase n)
  else if n < 16 then none
  else if n < 172 then some (sevTrio ((n - 16) % 12))
  else if n < 220 then
    if (n - 172) % 6 = 4 ∧ (n - 172) / 6 % 2 = 1 then none else some (sevShaft ((n - 172) % 6))
  else if n < 230 then some (sevEngine (n - 220))
  else if n < 236 then none
  else if n < 250 then some (sevMemory (n - 236))
  else if n < 256 then none
  else if n < 400 then some (sevRing ((n - 256) % 9))
  else if n < 412 then some (sevEth (n - 400))
  else if n < 416 then none
  else if n < 462 then some (sevSafety n)
  else if n < 464 then none
  else if n < 472 then some (sevSelf (n - 464))
  else none

/-- Sources of kind Condition (R405, R407). -/
def srcIsCond (n : Nat) : Bool :=
  decide (n < 3) || n == 8 || n == 10 || n == 11 || inRange 416 459 n

/-- The word of 16 two-bit fields that `f` fills for sources 16k to 16k + 15 (R441). -/
def sevWord (f : Nat × Nat → Nat) (k : Nat) : Nat → Nat
  | 0 => 0
  | j + 1 => sevWord f k j + (match sevOf (16 * k + j) with | some p => f p | none => 0) * 4 ^ j

end Sys2Proof.Machine
end

