-- ==== Sys2Proof/Machine/Regs.lean ====
section
/-! DEFINITION. Reset values and masks of the page registers, and which interrupt sources exist (R4, R5, R159, R473, R482). -/
namespace Sys2Proof.Machine

/-- The key of offset 0 of a page in the register table. -/
def page (p : Nat) : Nat := p * 4096

def Row.hit (r : Row) (o : Nat) : Bool :=
  if r.count = 1 then o == r.off
  else decide (r.off ≤ o) && decide ((o - r.off) % r.stride = 0) && decide ((o - r.off) / r.stride < r.count)

/-- The row of a map that holds an offset. -/
def rowIn : List Row → Nat → Option Row
  | [], _ => none
  | r :: t, o => if r.hit o then some r else rowIn t o

/-- The register at offset `o` of page `p`: its row, if header or map define one (R467, R472). -/
def regRow (p o : Nat) : Option Row :=
  match pageKind p with
  | none => none
  | some (.qd, _, _) => rowIn rowsQd (o % 64)
  | some (.timer, _, _) =>
    if o < 0x40 then rowIn rowsHeader o
    else match rowIn rowsTimer o with
      | some r => some r
      | none => if p = 0x240 then rowIn rowsGtmr o else none
  | some (k, _, _) => if o < 0x40 then rowIn rowsHeader o else rowIn k.rows o

/-- Interrupt numbers that no chapter assigns (R159, R242, R278, R338, R399, R432). -/
def irqReserved (n : Nat) : Bool :=
  inRange 116 127 n || (inRange 128 191 n && (n - 128) / 8 % 2 == 1 && (n - 128) % 8 == 6)
  || inRange 201 207 n || inRange 215 255 n || inRange 462 479 n
  || inRange 483 495 n || inRange 502 511 n || inRange 535 543 n || decide (800 ≤ n)

/-- Level interrupt sources; every other one is an edge source (R159 and the chapters). -/
def irqIsLevel (n : Nat) : Bool :=
  n == 194 || (inRange 256 383 n && (n - 256) % 8 == 3) || inRange 384 447 n || n == 456 || inRange 544 799 n

/-- PG_CAP.TOP: the highest offset of the map, shifted right by 4 (R473). -/
def rowsTop (rs : List Row) : Nat := rs.foldl (fun a r => max a (r.off + r.stride * (r.count - 1))) 0

def kindTop (k : Kind) : Nat := rowsTop k.rows / 16

/-- Reset values of the common header (R472, R473, R482). -/
def headerReset (p o : Nat) (k : Kind) (ty n : Nat) : Nat :=
  let en := k.enFixed || p == 0x100
  if o = 0 then p + 4096 + ty * 65536
  else if o = 4 then n + kindTop k * 256 + b2n k.enFixed * 65536 + b2n k.qcommon * 131072 + b2n k.periodic * 262144
  else if o = 8 then b2n en
  else if o = 12 then (if en then 1 else 2)
  else 0

/-- Reset values that depend on which instance the register belongs to; the others stand in the row. -/
def specialReset (k : Kind) (p o : Nat) (r : Row) : Nat :=
  match k with
  | .sys => if o = 0x088 then 0x472D3631 else if o = 0x08C then 0x00353031
            else if o = SYS.ROM_REV.off then Config.romRev.toNat else r.reset
  | .trio => if o = TRIO.SPARE.off then p - 0x100 + b2n (p == 0x10C) * 0xF0 else r.reset
  | .sev => if o < 0xC0 then sevWord (·.1) ((o - 0x40) / 4) 16 else sevWord (·.2) ((o - 0xC0) / 4) 16
  | .route => b2n (!irqIsLevel ((p - 0x111) * 512 + (o - 0x40) / 4)) * 2
  | .margin => if o = 0x124 then 0x400 else r.reset
  | _ => r.reset

/-- The reset value of every page register, by key (R4, R481). -/
def regReset (key : Nat) : W32 :=
  let p := key / 4096
  let o := key % 4096
  match pageKind p, regRow p o with
  | some (k, ty, n), some r =>
    if o < 0x40 ∧ k ≠ .qd then BitVec.ofNat 32 (headerReset p o k ty n) else BitVec.ofNat 32 (specialReset k p o r)
  | _, _ => 0

end Sys2Proof.Machine
end

