-- ==== Sys2Proof/Machine/State.lean ====
section
/-! DEFINITION. The state of the K16 as plain data, its reset, and the reasons a command can stop. -/
namespace Sys2Proof.Machine

/-- Reasons the machine stops with a fault. -/
inductive Fault where
  /-- Raised by no meaning of this model: every command of the table has an effect the spec states. Safe. -/
  | noEffectStated
deriving DecidableEq, Repr

/-- Reasons a command is turned away without a meaning. -/
inductive Refusal where
  /-- Raised by the dispatcher for a command that has no meaning yet, named by its mnemonic. Safe. -/
  | notModelled (mnemonic : String)
deriving DecidableEq, Repr

/-- A segment register: selector and cached descriptor (R170, R171); selector 0 is the null segment. -/
structure Seg where
  sel   : BitVec 16
  base  : BitVec 48
  limit : BitVec 48
  r     : Bool
  w     : Bool
  x     : Bool
  ring  : Fin 4
deriving DecidableEq, Repr

/-- The flat segment of selector 0xFFFF, which every segment register holds at reset (R171). -/
def Seg.flat : Seg := ⟨0xFFFF, 0, 0xFFFFFFFFFFFF, true, true, true, 0⟩

/-- What a thread sends out: a store with its linear address and its pieces, one for each line it touches, a CP2 append or a TLBI
broadcast (R58, R99, R133, R189). -/
inductive OutWhat where
  | store (la : Nat) (pieces : List (Nat × List Byte))
  | append (q : BitVec 16) (e : RawEntry)
  | tlbi (kind : Nat) (part : Nat) (addr : W64)
deriving DecidableEq, Repr

/-- An output of a thread in a store buffer or commit buffer, with the ring it was made in and its partition; `held`: its
target trio holds it until a commit (R60). -/
structure OutEnt where
  tid  : ThreadId
  ring : Fin 4
  part : Nat
  held : Bool
  what : OutWhat
deriving DecidableEq, Repr

/-- What a stalled thread waits for (R82, R126): the data of a load whose physical pieces are known (with the linear address
and the FINFO of an error), a table entry with the entries read so far (none: the read failed), an instruction cache line,
store buffer space, its own earlier stores, a TLBI, a coprocessor result, or the block unit, whose source read a trio may hold (R60). The
word is kept to complete. -/
inductive Wait where
  | load (w : W32) (pieces : List (Nat × Nat)) (la fin : W64) (data : Option (List Byte))
  | walk (w : W32) (next : Nat) (got : List (Nat × Option W64))
  | fill (w : W32) (line : Nat)
  | space (w : W32)
  | drain (w : W32)
  | sync (w : W32)
  | syncTlb (w : W32)
  | cop (w : W32)
  | blk (w : W32) (src : Option Nat)
deriving DecidableEq, Repr

/-- The states of R82; Halted is the flag `halted` of Thread, so that a resume finds the state it left. -/
inductive TState where
  | stopped
  | running
  | waiting
  | stalled (w : Wait)
deriving DecidableEq, Repr

/-- A product under way (R87). -/
abbrev Product := BitVec 128

/-- A pending asynchronous store error (R158): physical address, FINFO[15:0], further errors. -/
structure AsyncErr where
  addr : BitVec 40
  info : BitVec 16
  more : BitVec 16
deriving DecidableEq, Repr

/-- The state of one thread (R82, R86, R99, R158, R189, R295). `part`: while it is stalled, the partition in which its instruction issued
(R174). -/
structure Thread where
  st      : TState := .stopped
  halted  : Bool := false
  stopReq : Bool := false
  pc      : W64 := 0
  g       : Tab W64 := {}
  g30     : Tab W64 := {}
  p       : BitVec 8 := 1
  sr      : W64 := 8
  pl      : W64 := 0
  ph      : W64 := 0
  near    : Option Product := none
  far     : Option Product := none
  lc      : W64 := 0
  ls      : W64 := 0
  le      : W64 := 0
  krr     : W64 := 0xFFFFFFFFFFFFFFFF
  cause   : W64 := 0
  faddr   : W64 := 0
  finfo   : W64 := 0
  vbr     : Tab W64 := {}
  esp     : W64 := 0
  seg     : Tab Seg := {}
  buf     : List OutEnt := []
  tlbis   : Nat := 0
  err     : Option AsyncErr := none
  part    : Option Nat := none
  aauFlags : W64 := 0
deriving DecidableEq, Repr

/-- A TLB entry (R186): partition, page, and the rights of both stages. -/
structure TlbEnt where
  part : Nat
  base : Nat
  lg   : Nat
  pa   : Nat
  s1   : Nat
  ring : Nat
  key  : Nat
  s2   : Nat
  ipa  : Nat
deriving DecidableEq, Repr

/-- A walk-cache entry: a table entry of stage 1 or 2 read for the input addresses of one slot (R186). -/
structure WcEnt where
  part  : Nat
  stage : Nat
  level : Nat
  slot  : Nat
  val   : W64
deriving DecidableEq, Repr

/-- A stage 2 TLB entry for stage 1 table reads (R186). -/
structure S2Ent where
  part : Nat
  base : Nat
  lg   : Nat
  pa   : Nat
  rd   : Bool
deriving DecidableEq, Repr

/-- The translation caches of one core, oldest entry last. -/
structure Tlbs where
  ents : List TlbEnt := []
  wc   : List WcEnt := []
  s2   : List S2Ent := []
deriving DecidableEq, Repr

/-- An access of another initiator held at a trio in PAIR (R60): bytes to write, the load, walk or block read of a thread elsewhere, the
read of a raw transmit slot (the pieces left and the bytes read so far), or the memory read of a YCP request: its session's place, SEQ and
command, then the same. -/
inductive HeldAcc where
  | write (tid : Option ThreadId) (pieces : List (Nat × List Byte))
  | read (tid : ThreadId)
  | rawTx (left : List (Nat × Nat)) (got : List Byte)
  | ycp (place seq cmd : Nat) (left : List (Nat × Nat)) (got : List Byte)
deriving DecidableEq, Repr

/-- Trio state beyond the registers of its page (R46, R55-R72, R291): commit buffer, undo log newest first, the active and the inactive
copy of the checkpoint bank (thread key and state), how many entries at the head of the commit buffer are committed, hand-over target, times of each core's disagreements, permanently failed
cores, core in resync, held accesses, cached instruction lines, AAU rotation position, time of the last checkpoint. -/
structure Trio where
  commit  : List OutEnt := []
  closed  : Nat := 0
  undo    : List (Nat × List Byte) := []
  bank    : List (Nat × Thread) := []
  bank2   : List (Nat × Thread) := []
  target  : Option Nat := none
  odd     : List (Fin 3 × W64) := []
  failed  : BitVec 3 := 0
  lost    : Bool := false
  resync  : Option (Fin 3) := none
  held    : List HeldAcc := []
  lines   : List Nat := []
  rot     : Fin 6 := 0
  ckptAt  : W64 := 0
deriving DecidableEq, Repr

/-- A TLBI under way (R189). -/
structure TlbiOp where
  tid  : ThreadId
  kind : Nat
  part : Nat
  addr : W64
deriving DecidableEq, Repr

/-- An entry of an I/O translation unit (R191, R193). -/
structure IoEnt where
  stream : Nat
  base   : Nat
  lg     : Nat
  pa     : Nat
  r      : Bool
  w      : Bool
deriving DecidableEq, Repr

/-- A command running on an xSPI port (R202): flash byte address, the bytes to program (none: an erase) and how many bytes it covers. -/
structure FlashCmd where
  addr : Nat
  data : Option (List Byte)
  len  : Nat
deriving DecidableEq, Repr

/-- Translation, fabric and flash state outside the register pages. `ioInv`: I/O invalidations under way (stream, whole, address);
`badBanks`: shared SRAM banks out of service (R417); `badQueue`: queue memory arrays of 512 blocks out of service (R452); `flash0`, `flash1`: the command running on each xSPI port. -/
structure Fabric where
  tlbs     : Tab Tlbs := {}
  tlbi     : List TlbiOp := []
  io       : List IoEnt := []
  ioInv    : List (Nat × Bool × Nat) := []
  badBanks : BitVec 16 := 0
  badQueue : BitVec 128 := 0
  flash0   : Option FlashCmd := none
  flash1   : Option FlashCmd := none
deriving DecidableEq, Repr

/-- A repair entry (R451): its array, whether it replaces a column (else a row), the spare, and the address it replaces. -/
structure RepEnt where
  inst  : BitVec 16
  col   : Bool
  spare : BitVec 3
  addr  : BitVec 16
deriving DecidableEq, Repr

/-- The fuses of the part (R31-R34, R71, R384, R391, R449, R461). A key slot is the SHA-384 hash of a key and its
revocation bit; `remap` is the trio whose identity trio 12 serves for good;
`repairs` holds the burnt repair entries, at most 768; `burnFailed`: the last repair burn failed its read-back; `devKey` is the public half of the
device's own key and `debugKey` the hash of the debug key. -/
structure Fuses where
  keys      : List (List Byte × Bool) := []
  minSecVer : W32 := 0
  bootOrder : List (Fin 3) := [0, 1, 2]
  netOff    : Bool := false
  serial    : W64 := 0
  mac       : BitVec 48 := 0
  ip4       : W32 := 0
  debugOff  : Bool := false
  remap     : Option (Fin 12) := none
  repairs   : List RepEnt := []
  burnFailed : Bool := false
  devKey    : List Byte := []
  debugKey  : List Byte := []
deriving DecidableEq, Repr

/-- What the board fits: GiB of DRAM on each controller (R200), ranks, bytes of flash on each port (R201). -/
structure Board where
  dramGiB : Nat := 2
  ranks   : Nat := 1
  flash0  : Nat := 0x8000000
  flash1  : Nat := 0x8000000
deriving DecidableEq, Repr

/-- The retained copy of the running image: its 256-byte header and the digest of step 8 of R35. -/
structure Image where
  header : List Byte
  digest : List Byte
deriving DecidableEq, Repr

/-- What the device in Muslin or leaving Velvet does next (R29, R33, R44, R45). -/
inductive Phase where
  | boot | netWait | running | wake | felt | stuck
deriving DecidableEq, Repr

/-- A mode transition in progress (R37): its target and, for a YCP request, the session place and request number. -/
structure Transition where
  target : Nat
  ycp    : Option (Nat × W32)
deriving DecidableEq, Repr

/-- Device state outside the pages: boot, clocks, supplies, Velvet, Gauze and the planner (R19-R45, R448, R455-R461). `bootLeft`:
boot sources not yet tried; `conds`: condition sources whose condition holds; `lost`: retained content lost; `wakeAt`: time of the
wake; `avsFails`, `avsBad`: unanswered and off-target AVSBus transactions in a row; `avsStop`: the AVSBus fault was raised;
`gauze`: step of R448; `tested`, `failed`: test units of the Gauze run; `repairs`: soft repairs; `recSeq`: SEQ of the last record;
`cells`: the cells that failed in the Gauze run; `burnt`: it burnt a repair; `superv`: the trio that supervises it; `recTime`, `recAge`: the
time and the ageing state that its record holds;
`porLow`: PORn is still low; `aonOk`, `ioOk`: VDD_AON and VDD_IO33 were last in range; `perCtl`: a BIST.PER_CTL that waits for the running
slices; `quiet`: the planner's n; `s0`: S0 of R459; `low`: YEARS lies below its limit; `ageLoad`: words staged for LOAD_CMD; `burning`: the security
version under way; `laneNext`: the lane that the next slice takes; `remapOn`: the fused remap that the last fuse load applied; `resets`: the resets taken, the
model's own count. -/
structure Dev where
  phase      : Phase := .boot
  trans      : Option Transition := none
  fuses      : Fuses := {}
  board      : Board := {}
  image      : Option Image := none
  bootLeft   : List (Fin 3) := []
  conds      : List Nat := []
  lost       : Bool := false
  wakeAt     : W64 := 0
  rootLost   : Bool := false
  avsFails   : Nat := 0
  avsBad     : Nat := 0
  avsStop    : Bool := false
  gauze      : Nat := 0
  tested     : List Nat := []
  failed     : List Nat := []
  repairs    : List RepEnt := []
  cells      : List ArrCell := []
  burnt      : Bool := false
  superv     : Nat := 0
  recTime    : W64 := 0
  recAge     : List Byte := []
  recSeq     : W32 := 0
  porLow     : Bool := true
  aonOk      : Bool := false
  ioOk       : Bool := false
  perCtl     : Option W32 := none
  quiet      : Nat := 0
  s0         : Option Int := none
  low        : Bool := false
  ageLoad    : List W32 := []
  burning    : Option W32 := none
  laneNext   : Nat := 0
  remapOn    : Option (Fin 12) := none
  resets     : Nat := 0
deriving DecidableEq, Repr

/-- The TAP (R497): the instruction in effect and the boundary register of 192 cells. -/
structure Tap where
  ir    : TapInstr := .idcode
  cells : List Bool := List.replicate 192 false
deriving DecidableEq, Repr
/-- A safety input beyond its registers (R423-R425): accepted and raw levels of its channels (true: high), whether each channel has
yet to show the pulse of an open window, and, since a fault began, whether both channels showed no demand together and whether each
then passed a test pulse. -/
structure SafeIn where
  lvA   : Bool := false
  lvB   : Bool := false
  rawA  : Bool := false
  rawB  : Bool := false
  waitA : Bool := false
  waitB : Bool := false
  clear : Bool := false
  okA   : Bool := false
  okB   : Bool := false
deriving DecidableEq, Repr

/-- Collector state beyond its registers. `started`: the waves were started (R35, R421); `ssHold`, `gauzeHold`: FAULT_A and
FAULT_B are held in the fault polarity after a Safe stop and in Gauze (R422); `stoNext`: the pair that the next STO test pulse
tries first; `missed`: pairs whose source 448 + n holds for a missed pulse (R427); `stop`: a Safe stop has been decided and Felt not yet
entered; `recover`: thread 0 of trio 0 has still to take source 499 (R420). -/
structure Coll where
  ins       : Tab SafeIn := {}
  started   : Bool := false
  ssHold    : Bool := false
  gauzeHold : Bool := false
  stoNext   : Nat := 0
  missed    : BitVec 8 := 0
  stop      : Bool := false
  recover   : Bool := false
deriving DecidableEq, Repr

/-- A command that a shaft takes at its next tick (R213, R224, R235, R240). -/
inductive ShaftCmd where
  | refNow (arg : Nat)
  | clrRef
  | align
  | rev (v : Nat)
deriving DecidableEq, Repr

/-- Correction learning under way (R232): time of the last crossing of the reference line, the period of the turn before, the
samples of the turn (point, fraction, time), its last measured line, whether it was spoilt, the sums of errors as a fraction per point, the accepted
turns and the turns passed. -/
structure Learn where
  tk      : Option W64 := none
  prev    : Option Nat := none
  bank    : List (Nat × Nat × W64) := []
  last    : Option (Nat × W64) := none
  spoilt  : Bool := false
  sums    : Tab (Int × Nat) := {}
  taken   : Nat := 0
  turns   : Nat := 0
deriving DecidableEq, Repr

/-- A shaft beyond its registers (R211, R213, R216, R220-R226, R232, R236, R237, R239): observer state (angle in 2^-64 turn,
velocity and acceleration in 2^-72), revolution and count, line of the last measurement, ball levels, transitions waiting for
the tick (oldest first), the last A or B transition and the direction of the latest counted one, the last SSI position and its waiting measurement (line, time, backward),
commands, times and number of measurements, comparison state, ticks without a safe speed, learning, correction table and the
step counts of the last tick and of the last SSI frame. -/
structure Shaft where
  theta  : BitVec 96 := 0
  omega  : Int := 0
  acc    : Int := 0
  tp     : W64 := 0
  rev    : W32 := 0
  k      : Nat := 0
  line   : Nat := 0
  lvA    : Bool := false
  lvB    : Bool := false
  lvZ    : Bool := false
  trans  : List (EncBall × Bool × W64) := []
  lastAB : Option W64 := none
  lastFwd : Option Bool := none
  ssi    : Option Nat := none
  meas   : Option (Nat × W64 × Bool) := none
  cmds   : List ShaftCmd := []
  tMeas  : W64 := 0
  tStart : W64 := 0
  nMeas  : Nat := 0
  failing : Bool := false
  raised : Bool := false
  okAt   : Option W64 := none
  absent : Nat := 2
  learn  : Option Learn := none
  ct     : Tab W32 := {}
  step   : Int := 0
  ssiStep : Int := 0
deriving DecidableEq, Repr

/-- An entry of the mark FIFO (R277). -/
structure Mark where
  q     : Nat
  param : W32
  t     : W64
deriving DecidableEq, Repr

/-- A dispatched command: its fire time, its due time less LEAD, the latency it was dispatched with, its identifier (none for a
MARK), its group tag, whether a cancel was sent, what was sent (action, PARAM) and whether a report was asked (R261-R264). -/
structure Flight where
  fire   : W64
  lead   : W64
  lat    : W32
  id     : Option W32
  tag    : Option Nat
  cancel : Bool
  act    : Nat
  param  : W32
deriving DecidableEq, Repr

/-- An entry that a queue holds: the slot of its region, the entry, its flight when dispatched. -/
structure QEnt where
  slot : Nat
  e    : RawEntry
  fly  : Option Flight
deriving DecidableEq, Repr

/-- A queue beyond its descriptor (R252-R262): entries oldest first, next slot, last dispatch, due time of its check, whether
its head was already counted late, and whether it drains by CANCEL. -/
structure Queue where
  ents    : List QEnt := []
  tail    : Nat := 0
  last    : Option W64 := none
  due     : W64 := 0
  counted : Bool := false
  cancel  : Bool := false
deriving DecidableEq, Repr

/-- An open retime group (R263): shaft, target, T, F, D and the rings of its members. -/
structure Group where
  shaft  : Nat
  target : W64
  t      : W64
  f      : W64
  d      : W64
  rings  : BitVec 16
deriving DecidableEq, Repr

/-- A Smiari load under way: slot and address of the image (R138). -/
structure ProgLoad where
  slot : Nat
  addr : Nat
deriving DecidableEq, Repr

/-- A CANCEL_CMD under way (R264): its queue, its count and the identifiers of the cancels that it sent. -/
structure CancelRun where
  q   : Nat
  n   : Nat
  ids : List W32
deriving DecidableEq, Repr

/-- Event engine state outside the registers. `few`: fewer than two lanes with work running was already reported; `rots`: the position
of each lane's AAU in the rotation of R291. -/
structure Engine where
  marks  : List Mark := []
  queues : Tab Queue := {}
  groups : Tab Group := {}
  progs  : Tab (List W32) := {}
  load   : Option ProgLoad := none
  cancel : Option CancelRun := none
  few    : Bool := false
  rots   : Tab (Fin 6) := {}
deriving DecidableEq, Repr

/-- The header of the checked track as the sequencer keeps it (R271): its address, rows, width, bytes per row, first queue,
program slot, revolutions per cycle, cycles, actions, flags and PARAMs. -/
structure Track where
  addr  : Nat
  loop  : Bool
  rows  : Nat
  width : Nat
  rowB  : Nat
  firstQ : Nat
  prog  : Nat
  revs  : Nat
  cycles : Nat
  onAct : Nat
  offAct : Nat
  flags : BitVec 16
  onP   : W32
  offP  : W32
deriving DecidableEq, Repr

/-- A row being emitted (R274, R275): bitmap, CYCLE_NO, OFFSET, target, whether it appends for every bit, slice number, the
output slice (empty before the slice begins), the appends left (queue and entry), whether a program run did not complete, and
whether the row is the first of a cycle. -/
structure SeqRow where
  bytes  : List Byte
  cycle  : Nat
  ofs    : W64
  target : W64
  full   : Bool
  slice  : Nat
  out    : List Byte
  left   : List (Nat × RawEntry)
  bad    : Bool
  first  : Bool
deriving DecidableEq, Repr

/-- Sequencer state outside its registers (R273-R276): the address of a LOAD under way, the track, the state vector
by queue, the row in emission, a requested PAUSE (false) or STOP (true), whether the next row appends for every bit, the last
emitted cycle and pass, the last emitted place of the track, the programs, a program load, whether the wait on FULL was reported. -/
structure Seq where
  loading : Option Nat := none
  track   : Option Track := none
  vec     : Tab Bool := {}
  cur     : Option SeqRow := none
  req     : Option Bool := none
  fresh   : Bool := true
  lastCyc : Option (Nat × Nat) := none
  lastPos : Option (Nat × Nat) := none
  progs   : Tab (List W32) := {}
  load    : Option ProgLoad := none
  waited  : Bool := false
deriving DecidableEq, Repr

/-- A command record waiting at a port (R313): identifier, fire time, PARAM, node, channel, action, tag, report flag, queue,
and when it entered the transmit queue. -/
structure TxCmd where
  id    : W32
  fire  : W64
  param : W32
  node  : Nat
  chan  : Nat
  act   : Nat
  tag   : Option Nat
  rep   : Bool
  q     : Nat
  since : W64
deriving DecidableEq, Repr

/-- A downstream frame waiting at a port: type, destination, payload, and whether it leaves in one direction only. -/
structure TxFrame where
  typ  : Nat
  dest : Nat
  pay  : List Byte
  dir  : Option Bool
deriving DecidableEq, Repr

/-- What a port's command or enumeration does (R316-R318): waits for the ENUM of direction 0, or of direction 1 with the node
before the break; reads descriptors; measures nodes; reads one descriptor; sends its last frames. `enum`: it is an enumeration;
`code`: the code so far. -/
inductive RingJob where
  | enum0
  | enum1 (k : Nat)
  | descs (node : Nat) (code : Code)
  | meas (enum : Bool) (code : Code)
  | desc (node : Nat)
  | fin (enum : Bool) (code : Code)
deriving DecidableEq, Repr

/-- A delay measurement under way (R318): node, direction, request number, departure, exchanges done and their sum. -/
structure RingMeas where
  node : Nat
  dir  : Bool
  req  : BitVec 16
  tx   : Option W64
  n    : Nat
  sum  : Int
deriving DecidableEq, Repr

/-- What a port keeps of a node: descriptor bytes and the eight parts received, newest SEQ accepted and the record of the 256
numbers up to it, whether it counts as lost or reports a wrap, its last temperature report (R259), the delays last sent. -/
structure RingNode where
  desc : List Byte := []
  got  : BitVec 8 := 0
  seq  : Option (BitVec 16) := none
  seen : List (BitVec 16) := []
  lost : Bool := false
  wrap : Bool := false
  temp : Option (BitVec 16) := none
  dset : Option (W32 × W32) := none
deriving DecidableEq, Repr

/-- A ring port beyond its registers (R309-R336): epoch, next SEQ, CMD_ID and request number, the transmit queue, waiting cancels
and retimes, waiting maintenance frames, OPEN rotation, slot count, job, measurement and the node directions still to measure,
the nodes that a break asks to measure again, when the last frame began, the background rotation, nodes, report table (identifier, queue, fire time), cancels awaiting an ACK (identifier, queue, node and
channel), safe-stop line, whether the enumeration of the last link ended, the transmit lane taken out, when the last discards
of R309 came, the descriptor that a DESC_READ gathers, discarded reserved records, program, load and scratch area, log stop, and a disable that still
receives. -/
structure Ring where
  epoch   : BitVec 16 := 0
  seq     : BitVec 16 := 0
  nextId  : W32 := 0
  req     : BitVec 16 := 0
  txq     : List TxCmd := []
  ctl     : List TxFrame := []
  mnt     : List TxFrame := []
  openN   : Nat := 0
  slot    : Nat := 0
  job     : Option RingJob := none
  meas    : Option RingMeas := none
  todo    : List (Nat × Bool) := []
  redo    : List Nat := []
  air     : Option W64 := none
  bg      : Nat := 0
  nodes   : Tab RingNode := {}
  reports : List (W32 × Nat × W64) := []
  cancels : List (W32 × Nat × Nat) := []
  safe    : Bool := false
  enumDone : Bool := false
  endOut  : Option Bool := none
  bads    : List W64 := []
  descRd  : List Byte := []
  rsvdN   : Nat := 0
  prog    : List W32 := []
  load    : Option ProgLoad := none
  scratch : List Byte := []
  logStop : Bool := false
  rxUntil : Bool := false
deriving DecidableEq, Repr

/-- Timer state beyond the channel registers: latched high counts by pair (R354), and which channels captured a rising edge that no
falling capture followed (R351). -/
structure Timers where
  latch : Tab W32 := {}
  rose  : BitVec 64 := 0
deriving DecidableEq, Repr
/-- A secure association of MACsec (R367): key, salt, SSCI, next packet number and, for reception, the lowest acceptable one. -/
structure Sa where
  key  : List Byte := []
  salt : List Byte := []
  ssci : W32 := 0
  pn   : Nat := 1
  low  : Nat := 1
  installed : Bool := false
  enabled   : Bool := false
deriving DecidableEq, Repr

/-- An Ethernet port beyond its registers: its SAs by DIR, SC and AN as SA_SEL numbers them, the SCI of each receive SC, whether
training runs, the echo replies and ICV failures counted since a time (R363, R366, R367, R380, R398), frames queued and whether the disabled port
still sends (R396). -/
structure EthPort where
  sas    : Tab Sa := {}
  scis   : Tab W64 := {}
  train  : Bool := false
  echoAt : W64 := 0
  echoN  : Nat := 0
  icvAt  : W64 := 0
  icvN   : Nat := 0
  txq    : List (List Byte) := []
  txUntil : Bool := false
deriving DecidableEq, Repr

/-- An entry of the PRP node table (R369): MAC address, sequence numbers accepted with their times, and the last frame. -/
structure PrpNode where
  mac  : Nat
  seqs : List (Nat × W64)
  last : W64
deriving DecidableEq, Repr

/-- What the PTP engine keeps of a port (R373, R374): its master's rank (lower is better) and port identity; the Sync that awaits its
Follow_Up (sequence number, receipt less correction); t1 and t2 of the last Sync; the delay request under way (sequence number,
departure); the mean path delay; its next sequence number; the peer delay under way (sequence number, t1, t2, and t4 once
answered). Times are T64 units of device time. -/
structure PtpPort where
  master : Option (Nat × List Byte) := none
  sync   : Option (Nat × Int) := none
  t1     : Int := 0
  t2     : Int := 0
  req    : Option (Nat × Int) := none
  delay  : Int := 0
  txSeq  : BitVec 16 := 0
  pd     : Option (Nat × Int × Int × Option Int) := none
deriving DecidableEq, Repr

/-- State of page 0x322 beyond its registers: PRP and supervision sequence numbers, the node table, ports and PTP ports, whether the
link-local address is in conflict, the classifier program and its load, the IPv6 global address in effect, and the sum of the offsets that the
servo integrates. -/
structure Net where
  prpSeq  : BitVec 16 := 0
  supSeq  : BitVec 16 := 0
  nodes   : List PrpNode := []
  ports   : Tab EthPort := {}
  ptp     : Tab PtpPort := {}
  dup     : Bool := false
  prog    : List W32 := []
  load    : Option ProgLoad := none
  ip6     : List Byte := []
  integ   : Int := 0
deriving DecidableEq, Repr

/-- A YCP command with its payload (R388). -/
inductive YCmd where
  | identify
  | openS (slot : Byte) (zeros : BitVec 24) (nonce : BitVec 128)
  | closeS
  | ping
  | regRead (addr : W64) (count : W32)
  | regWrite (addr : W64) (v : W32)
  | memRead (addr : W64) (len : W32)
  | memWrite (addr : W64) (data : List Byte)
  | qappend (q count : BitVec 16) (entries : List RawEntry)
  | patWrite (ofs : W32) (data : List Byte)
  | patLoad (ofs : W32)
  | modeReq (target : Byte)
  | imageBegin (target : Byte) (hdr : List Byte)
  | imageData (ofs : W32) (data : List Byte)
  | imageEnd
  | debugChal
  | debugUnlock (pubkey sig : List Byte)
  | debugHalt (trio core : Byte)
  | debugResume (trio core : Byte)
  | debugStep (trio core thr : Byte)
  | debugRegRead (trio core thr : Byte) (reg : BitVec 16)
  | debugRegWrite (trio core thr : Byte) (reg : BitVec 16) (v : W64)
  | safe (pdu : BitVec 128) (copiesAgree : Bool)
  | unknown (cmd : Nat)
deriving DecidableEq, Repr

/-- Where a request came from, when it came in a frame (R380): Ethernet port, source MAC and IP address, own IP address, source UDP
port. -/
structure YPeer where
  port : Nat
  mac  : List Byte
  ip   : List Byte
  own  : List Byte
  udp  : Nat
deriving DecidableEq, Repr

/-- A request that executes or is held for its turn (R386): SEQ, command, whether LEN fits, ENC, and where it came from. -/
structure YReq where
  seq  : Nat
  cmd  : YCmd
  fits : Bool
  enc  : Bool
  src  : Option YPeer
deriving DecidableEq, Repr

/-- A stored response (R386): SEQ and the packet. -/
structure YResp where
  seq    : Nat
  packet : List Byte
deriving DecidableEq, Repr

/-- A session (R384-R386, R391): number, pending, ring and rights, key, E, stored responses, the request still executing, held
requests, the challenge and whether debug is unlocked. The Canvas ROM's context is the session of number 0 at place 8 (R395). -/
structure Session where
  num     : W32
  pending : Bool := false
  ring    : Fin 4 := 0
  rights  : Nat := 0
  key     : List Byte := []
  next    : Nat := 1
  resps   : List YResp := []
  exec    : Option YReq := none
  held    : List YReq := []
  chal    : Option (List Byte) := none
  unlocked : Bool := false
deriving DecidableEq, Repr

/-- A key slot (R384): KEY_CTL and the key. -/
structure KeySlot where
  ctl : W32 := 0
  key : List Byte := []
deriving DecidableEq, Repr

/-- An upload (R390): the place of its session (9: a session since closed), target, header, bytes received, whether programming
runs, and the payload that it programs. -/
structure Upload where
  owner  : Nat
  target : Nat
  header : List Byte
  got    : Nat := 0
  burn   : Bool := false
  data   : List Byte := []
deriving DecidableEq, Repr

/-- YCP state outside the registers: sessions by place 0 to 7 and the ROM's context at place 8, key slots, the upload, failed
unlock attempts and the lockout, the safety checker's last good CNT and its own next one, whether it awaits the first PDU, and whether a PAT_LOAD
of a session since closed executes. -/
structure Ycp where
  sess    : Tab Session := {}
  slots   : Tab KeySlot := {}
  upload  : Option Upload := none
  tries   : Nat := 0
  lockout : Bool := false
  cnt     : W32 := 0
  ownCnt  : W32 := 0
  first   : Bool := true
  patLate : Bool := false
deriving DecidableEq, Repr


/-- What leaves the device: a write to a regulator (AVSBus target in mV), an Ethernet frame on a port, on a ring port a frame of
one direction, and on the lanes in service an OPEN to a node, a SAFE pattern or the cut of the frame in progress, SSI clocks of a shaft, a level of its SHs_CK ball, a test pulse of a TPO ball of a width in collector
cycles, one of an STO pair, the value of a register read, the bits that leave on TDO, and a sealed
YCP packet that answers a request that came in no frame. -/
inductive Output where
  | avs (mv : Nat)
  | eth (port : Fin 2) (frame : List Byte)
  | ring (port : Nat) (dir : Bool) (frame : List Byte)
  | ringOpen (port node : Nat) (lanes : List Bool)
  | ringSafe (port : Nat) (lanes : List Bool)
  | ringCut (port : Nat) (lanes : List Bool)
  | ssiClock (shaft clocks : Nat)
  | shaftCk (shaft : Nat) (high : Bool)
  | tpo (k width : Nat)
  | stoPulse (pair width : Nat)
  | read (addr : Nat) (v : W64)
  | tdo (bits : List Bool)
  | ycp (packet : List Byte)
deriving DecidableEq, Repr

/-- A source line that has asserted and that the collector takes in its next cycle, with the T64 time at which it did (R403, R416). -/
structure Raised extends Assertion where
  time : W64
deriving DecidableEq, Repr

/-- The whole state. `pending` is the queue of waiting commands; `freeCtr` numbers the free values taken; `sent` holds
what has left the device, newest first. `coll` and `coll2` are the two copies of the collector (R403). `regs` holds every page register at page × 4096 + offset, `heldLo` the held low
halves (R471), `bad` the 8-byte words that hold an uncorrectable error, by address ÷ 8 (R198), `snaps` the taken snapshots of RS groups by register (R470), `trios` and `threads` by identity. -/
structure State where
  pending : List Instr := []
  freeCtr : Nat := 0
  sent    : List Output := []
  now     : W64 := 0
  tickFrac : W32 := 0
  regs    : Tab W32 := {}
  heldLo  : Tab W32 := {}
  snaps   : Tab W32 := {}
  mem     : List Host.Cell := []
  bad     : List Nat := []
  raised  : List Raised := []
  dev     : Dev := {}
  threads : Tab Thread := {}
  trios   : Tab Trio := {}
  fab     : Fabric := {}
  coll    : Coll := {}
  coll2   : Coll := {}
  shafts  : Tab Shaft := {}
  snapAll : BitVec 8 := 0
  eng     : Engine := {}
  seq     : Seq := {}
  rings   : Tab Ring := {}
  timers  : Timers := {}
  net     : Net := {}
  ycp     : Ycp := {}
  tap     : Tap := {}
deriving DecidableEq, Repr

/-- The machine right after power-on reset (R29, R83, R86): every register at its reset value, thread 0 of trio 0 at the first
word of the Canvas ROM, every other thread stopped, nothing written in memory, no command waiting. -/
def State.reset : State := { threads := ⟨[(0, { st := .running })]⟩ }

end Sys2Proof.Machine
end

