-- ==== Sys2Proof/Machine/Ops.lean ====
section
/-! DEFINITION. The named operations over registers, memory, interrupts, fault sources and outputs. -/
namespace Sys2Proof.Machine

/-! ### Page registers -/

/-- The stored register at a key; an unlisted register holds its reset value. -/
def State.rd (s : State) (key : Nat) : W32 := s.regs.get regReset key

def State.wr (s : State) (key : Nat) (v : W32) : State := { s with regs := s.regs.set regReset key v }

/-- A field of the block at `base`. -/
def State.fld (s : State) (base : Nat) (f : Fld) : Nat := bf (s.rd (base + f.off)) f.lo f.wd

def State.flag (s : State) (base : Nat) (f : Fld) : Bool := s.fld base f != 0

def State.setFld (s : State) (base : Nat) (f : Fld) (v : Nat) : State :=
  s.wr (base + f.off) (BitVec.ofNat 32 (setBits (s.rd (base + f.off)).toNat f.lo f.wd v))

/-- The 64-bit value of a LO register and the HI register after it. -/
def State.rd64 (s : State) (key : Nat) : W64 := s.rd (key + 4) ++ s.rd key

def State.wr64 (s : State) (key : Nat) (v : W64) : State :=
  (s.wr key (v.extractLsb' 0 32)).wr (key + 4) (v.extractLsb' 32 32)

/-- Adds one to a counter field that stays at its largest value. -/
def State.incSat (s : State) (base : Nat) (f : Fld) : State := s.setFld base f (satInc f.wd (s.fld base f))

/-- Adds one to a counter field that wraps. -/
def State.incWrap (s : State) (base : Nat) (f : Fld) : State := s.setFld base f (s.fld base f + 1)

/-! ### Bases of blocks -/

def B.sys : Nat := page 0x000
def B.clk : Nat := page 0x001
def B.rst : Nat := page 0x002
def B.margin : Nat := page 0x003
def B.coll : Nat := page 0x010
def B.fsw : Nat := page 0x011
def B.recd : Nat := page 0x012
def B.sev : Nat := page 0x013
def B.trio (n : Nat) : Nat := page (0x100 + n)
def B.intd : Nat := page 0x110
def B.intt : Nat := page 0x113
def B.walk : Nat := page 0x120
def B.part (p : Nat) : Nat := page 0x121 + 0x40 + 32 * p
def B.thrp : Nat := page 0x122
def B.iot : Nat := page 0x128
def B.shaft (n : Nat) : Nat := page (0x200 + n)
def B.angle : Nat := page 0x208
def B.eng : Nat := page 0x210
def B.lane (l : Nat) : Nat := page (0x211 + l)
def B.seq : Nat := page 0x220
def B.gtmr : Nat := page 0x240
def B.timer (c : Nat) : Nat := page (0x240 + c / 8) + 0x100 + 0x80 * (c % 8)
def B.ring (r : Nat) : Nat := page (0x300 + r)
def B.eth (p : Nat) : Nat := page (0x320 + p)
def B.net : Nat := page 0x322
def B.ycp : Nat := page 0x323
def B.dram (c : Nat) : Nat := page (0x330 + c)
def B.xspi : Nat := page 0x332
def B.bist : Nat := page 0x340
def B.qd (q : Nat) : Nat := page 0x400 + 64 * q

/-- PG_STAT.ENABLED of a page (R473). -/
def State.pgEnabled (s : State) (p : Nat) : Bool := s.flag (page p) PG.STAT_ENABLED

/-- PG_CTL.EN of a page. -/
def State.pgEn (s : State) (p : Nat) : Bool := s.flag (page p) PG.CTL_EN

/-- Running: EN 1 and QUIESCE 0 (R479). -/
def State.pgRunning (s : State) (p : Nat) : Bool := s.pgEn p && !s.flag (page p) PG.CTL_QUIESCE

/-! ### Modes -/

/-- The codes of the eight modes. -/
def mMuslin : Nat := 0
def mGauze : Nat := 1
def mCalico : Nat := 2
def mTwill : Nat := 3
def mDamask : Nat := 4
def mJersey : Nat := 5
def mVelvet : Nat := 6
def mFelt : Nat := 7

def State.mode (s : State) : Nat := s.fld B.sys SYS.MODE_CUR

/-- The run modes: Twill, Damask and Jersey. -/
def State.runMode (s : State) : Bool := inRange mTwill mJersey s.mode

/-- The blocks are power-gated in Velvet (R42), and stopped in a Gauze that is held (R40). -/
def State.gated (s : State) : Bool := s.mode == mVelvet || s.flag B.sys SYS.MODE_HELD

/-- What a block does on its own, unless the blocks stand. -/
def State.unlessGated (s : State) (r : State) : State := if s.gated then s else r

/-- ENABLED and QUIESCED of a page (R473). -/
def setStat (p enabled quiesced : Nat) (s : State) : State :=
  (s.setFld (page p) PG.STAT_ENABLED enabled).setFld (page p) PG.STAT_QUIESCED quiesced

/-! ### Queue descriptors in use -/

/-- The queues whose state word is not 0, so every queue that is not IDLE (R252). -/
def State.qnums (s : State) : List Nat :=
  s.regs.cells.filterMap (fun c =>
    if 0x400000 ≤ c.1 ∧ c.1 < 0x500000 ∧ c.1 % 64 = QD.QSTATE.off then some (c.1 % 0x400000 / 64) else none)

/-- The state of a queue (R249). -/
def State.qst (s : State) (q : Nat) : Nat := s.fld (B.qd q) QD.QSTATE_STATE

/-! ### Interrupt sources, fault sources, outputs and free values -/

/-- An event on an edge interrupt source makes it pending (R159, R161). -/
def State.irq (s : State) (n : Nat) : State :=
  if irqReserved n then s else s.setFld B.intd ⟨0x080 + 4 * (n / 32), n % 32, 1⟩ 1

/-- A fault source of kind Event asserts; the collector takes it in its next cycle (R403, R405). -/
def State.raiseA (s : State) (a : Assertion) : State := { s with raised := s.raised ++ [⟨a, s.now⟩] }

def State.raise (s : State) (n : Nat) : State :=
  s.raiseA ⟨BitVec.ofNat 9 n, none, 0, 0, 0, false⟩

/-- The same with the unit and class of the master (R440). -/
def State.raiseUnit (s : State) (n cls unit : Nat) : State :=
  s.raiseA ⟨BitVec.ofNat 9 n, none, BitVec.ofNat 32 (cls + 16 * unit), 0, 0, false⟩

/-- The same with an address (R440). -/
def State.raiseAt (s : State) (n a : Nat) : State := s.raiseA ⟨BitVec.ofNat 9 n, some (BitVec.ofNat 40 a), 0, 0, 0, false⟩

/-- A condition begins: its source asserts once, and not again while the condition holds (R405). -/
def State.raiseCond (s : State) (n : Nat) (detail : W32) : State :=
  if s.dev.conds.contains n then s
  else { s with dev := { s.dev with conds := n :: s.dev.conds } }.raiseA ⟨BitVec.ofNat 9 n, none, 0, 0, detail, false⟩

/-- A condition ceases (R405). -/
def State.endCond (s : State) (n : Nat) : State :=
  { s with dev := { s.dev with conds := s.dev.conds.filter (· != n) } }

/-- Sends something out of the device; `sent` holds the newest first. -/
def State.emit (s : State) (o : Output) : State := { s with sent := o :: s.sent }

def State.emits (s : State) (os : List Output) : State := { s with sent := os.reverse ++ s.sent }

/-- The next free value (log entry 3), and the state with the counter advanced. -/
def State.free (s : State) : W64 × State := (Config.freeWord s.freeCtr, { s with freeCtr := s.freeCtr + 1 })

/-- A byte string of free values. -/
def freeBytes (ctr : Nat) : Nat → List Byte
  | 0 => []
  | n + 1 => freeBytes ctr n ++ [Config.freeByte ctr n]

def State.freeList (s : State) (n : Nat) : List Byte × State := (freeBytes s.freeCtr n, { s with freeCtr := s.freeCtr + 1 })

/-! ### Memory -/

/-- What a byte of memory that nothing has written reads as: 0 (DESIGN CHOICE, log entry 2). -/
def memDefault (_ : Nat) : Byte := 0

def memRead (m : List Host.Cell) (a : Nat) : Byte := cellGet memDefault m a

def memWrite (m : List Host.Cell) (a : Nat) (b : Byte) : List Host.Cell := cellSet memDefault m a b

/-- The canonical form of memory. -/
abbrev Memory.wf (m : List Host.Cell) : Prop := cellsWf memDefault m = true

def memReadN (m : List Host.Cell) (a : Nat) : Nat → List Byte
  | 0 => []
  | n + 1 => memRead m a :: memReadN m (a + 1) n

def memWriteL (m : List Host.Cell) (a : Nat) : List Byte → List Host.Cell
  | [] => m
  | b :: t => memWriteL (memWrite m a b) (a + 1) t

def State.peek (s : State) (a n : Nat) : List Byte := memReadN s.mem a n

/-- A write of bytes. An 8-byte word that is written whole no longer holds an uncorrectable error (R198). -/
def State.poke (s : State) (a : Nat) (l : List Byte) : State :=
  { s with
    mem := memWriteL s.mem a l
    bad := s.bad.filter (fun w => !(decide (a ≤ 8 * w) && decide (8 * w + 8 ≤ a + l.length))) }

/-- Whether a word that holds an uncorrectable error lies among `n` bytes from `a` on (R198). -/
def State.badIn (s : State) (a n : Nat) : Bool := s.bad.any (fun w => decide (8 * w < a + n) && decide (a < 8 * w + 8))

/-- The lowest of the words. -/
def lowestWord (l : List Nat) : Option Nat := l.foldl (fun o w => match o with | some v => some (min v w) | none => some w) none

/-- The lowest such byte (R181). -/
def State.badAddr (s : State) (a n : Nat) : Option Nat :=
  (lowestWord (s.bad.filter (fun w => decide (8 * w < a + n) && decide (a < 8 * w + 8)))).map (fun w => max a (8 * w))

/-- The word at an address keeps an uncorrectable error until it is written whole. -/
def State.markBad (s : State) (a : Nat) : State := if s.bad.contains (a / 8) then s else { s with bad := a / 8 :: s.bad }

/-- A little-endian doubleword of memory. -/
def State.peek64 (s : State) (a : Nat) : W64 := BitVec.ofNat 64 (leNat (s.peek a 8))

/-! ### Threads and trios -/

/-- The key of a thread of a core that holds its own state (R47). -/
def threadKey (n c t : Nat) : Nat := n * 32 + c * 8 + t

def State.trio (s : State) (n : Nat) : Trio := s.trios.get (fun _ => {}) n

def State.setTrio (s : State) (n : Nat) (t : Trio) : State := { s with trios := s.trios.set (fun _ => {}) n t }

/-- The configuration in effect: 0 VOTED, 1 PAIR, 2 SPLIT (R47). -/
def State.conf (s : State) (n : Nat) : Nat := s.fld (B.trio n) TRIO.STAT_CONF_NOW

/-- The key under which a thread's state stands: outside SPLIT the trio runs one program, held as core 0's. -/
def State.tkey (s : State) (t : ThreadId) : Nat :=
  threadKey t.trio.val (if s.conf t.trio.val = 2 then t.core.val else 0) t.thr.val

def State.thread (s : State) (k : Nat) : Thread := s.threads.get (fun _ => {}) k

def State.setThread (s : State) (k : Nat) (t : Thread) : State := { s with threads := s.threads.set (fun _ => {}) k t }

/-- A thread that stops at its next instruction boundary: at once, unless a load or coprocessor result is awaited (R129). -/
def Thread.stopAtBoundary (th : Thread) : Thread :=
  match th.st with
  | .stalled (.load ..) => { th with stopReq := true }
  | .stalled (.cop ..) => { th with stopReq := true }
  | _ => { th with st := .stopped, stopReq := false }

end Sys2Proof.Machine
end

