-- ==== Sys2Proof/Machine/Phys.lean ====
section
/-! DEFINITION. The physical map and what each region allows (R166, R167, R200, R201, R417). -/
namespace Sys2Proof.Machine

/-- Regions of R166; a local half carries its trio identity, a flash window its port. -/
inductive Region where
  | rom | sram | queue | flash (port : Nat) | regs | locI (n : Nat) | locD (n : Nat) | dram | reserved
deriving DecidableEq, Repr

/-- Usable DRAM: 7/8 of the capacity fitted on the two controllers (R200). -/
def State.usableDram (s : State) : Nat := 7 * (2 * s.dev.board.dramGiB) * 2 ^ 30 / 8

def State.flashSize (s : State) (p : Nat) : Nat := if p = 0 then s.dev.board.flash0 else s.dev.board.flash1

/-- The region that holds a physical address; unallocated page numbers count as reserved (R467). -/
def State.region (s : State) (a : Nat) : Region :=
  if a < 0x40000 then .rom
  else if 0x10000000 ≤ a ∧ a < 0x11000000 then .sram
  else if 0x20000000 ≤ a ∧ a < 0x20800000 then .queue
  else if 0x30000000 ≤ a ∧ a < 0x40000000 then
    let p := a / 0x8000000 % 2
    if a % 0x8000000 < s.flashSize p then .flash p else .reserved
  else if 0x40000000 ≤ a ∧ a < 0x40500000 then
    if (pageKind (a / 4096 % 0x40000)).isSome then .regs else .reserved
  else if 0x80000000 ≤ a ∧ a < 0x8D000000 then
    let n := a / 0x1000000 % 128
    let o := a % 0x1000000
    if o < 0x40000 then .locI n else if o < 0x80000 then .locD n else .reserved
  else if 0x1000000000 ≤ a ∧ a < 0x1000000000 + s.usableDram then .dram
  else .reserved

/-- Regions of type NORMAL (R166). -/
def Region.isNormal : Region → Bool
  | .rom | .sram | .flash _ | .dram => true
  | .queue | .regs | .locI _ | .locD _ | .reserved => false

def Region.isLocal : Region → Bool
  | .locI _ | .locD _ => true
  | .rom | .sram | .flash _ | .dram | .queue | .regs | .reserved => false

/-- The trio identity whose window a region lies in. -/
def Region.trio? : Region → Option Nat
  | .locI n => some n
  | .locD n => some n
  | .rom | .sram | .flash _ | .dram | .queue | .regs | .reserved => none

/-- Access classes of R166. -/
inductive AccK where | read | write | fetch | atomic
deriving DecidableEq, Repr

/-- What the table of R166 allows; `own` is the accessing trio. Atomics on device memory are decided by R123. -/
def Region.allows (r : Region) (k : AccK) (own : Nat) : Bool :=
  match k with
  | .read => decide (r ≠ .reserved)
  | .write => match r with
    | .sram | .regs | .locI _ | .locD _ | .dram => true
    | .rom | .queue | .flash _ | .reserved => false
  | .fetch => match r with
    | .rom | .sram | .flash _ | .dram => true
    | .locI n => n == own
    | .queue | .regs | .locD _ | .reserved => false
  | .atomic => match r with
    | .sram | .locI _ | .locD _ | .dram => true
    | .rom | .queue | .flash _ | .regs | .reserved => false

/-- An image upload programs a port (R390). -/
def State.burning (s : State) (p : Nat) : Bool := match s.ycp.upload with | some u => u.burn && u.target == p + 1 | none => false

/-- Targets that answer OUT_OF_SERVICE: a shared SRAM bank taken out (R417), a flash port whose command runs or that an image is programmed
into (R201, R390). -/
def State.outOfService (s : State) (a : Nat) : Bool :=
  match s.region a with
  | .sram => s.fab.badBanks.getLsbD (a / 0x100000 % 256)
  | .flash p => (if p = 0 then s.fab.flash0.isSome else s.fab.flash1.isSome) || s.burning p
  | .rom | .queue | .regs | .locI _ | .locD _ | .dram | .reserved => false

/-- A byte as a read of memory gives it: the Canvas ROM holds its own bytes. -/
def State.byteAt (s : State) (a : Nat) : Byte := if a < 0x40000 then Config.romByte a else memRead s.mem a

def bytesFrom (f : Nat → Byte) (a : Nat) : Nat → List Byte
  | 0 => []
  | n + 1 => f a :: bytesFrom f (a + 1) n

def State.readMem (s : State) (a n : Nat) : List Byte := bytesFrom s.byteAt a n

/-- The base of the local window of a trio identity. -/
def windowBase (n : Nat) : Nat := 0x80000000 + n * 0x1000000

/-- Splits `n` bytes at `a` at 64-byte lines (R168, R169). -/
def splitLines : Nat → Nat → Nat → List (Nat × Nat)
  | 0, _, _ => []
  | k + 1, a, n =>
    if n = 0 then []
    else
      let m := min n (64 - a % 64)
      (a, m) :: splitLines k (a + m) (n - m)

end Sys2Proof.Machine
end

