-- ==== Sys2Proof/Machine/BusErr.lean ====
section
/-! DEFINITION. What a failed or corrected access reports, the words that keep a bad code, and the records of refused page accesses (R158,
R183, R197, R198, R406, R473). -/
namespace Sys2Proof.Machine

/-- REC_MASTER of a core access (R440). -/
def masterOf (t : ThreadId) (ring : Nat) : W32 :=
  BitVec.ofNat 32 (1 + 16 * t.trio.val + 256 * t.core.val + 4096 * t.thr.val + 65536 * ring)

/-- The DRAM controller of an address (R200). -/
def dramCtl (pa : Nat) : Nat := pa / 256 % 2

/-- The fault source of a corrected (`unc` false) or uncorrectable error in a region (R404, R406, R279). -/
def errSource (r : Region) (pa : Nat) (unc : Bool) : Option Nat :=
  match r with
  | .sram => some (236 + b2n unc)
  | .queue => some (if unc then 220 else 238)
  | .dram => some (239 + 2 * dramCtl pa + b2n unc)
  | .locI n => some (16 + 12 * n + 9 + b2n unc)
  | .locD n => some (16 + 12 * n + 9 + b2n unc)
  | .flash _ => if unc then some 243 else none
  | .rom | .regs | .reserved => none

/-- The error counts of a DRAM controller (R207). -/
def dramErr (s : State) (pa : Nat) (unc : Bool) : State :=
  let b := B.dram (dramCtl pa)
  if unc then
    (((s.incSat b DRAM.UE_CNT).setFld b DRAM.UE_ADDR_LO pa).setFld b DRAM.UE_ADDR_HI (pa / 2 ^ 32)).irq (480 + dramCtl pa)
  else s.incSat b DRAM.CE_CNT

/-- The result of the half that fails. -/
def StoreErr.bus : StoreErr → BusResult
  | .parity => .parity
  | .data => .data
  | .mismatch => .mismatch
  | .outOfService => .outOfService
  | .timeout => .timeout

/-- Memory whose words keep a bad code (R198). -/
def Region.keepsBad : Region → Bool
  | .sram | .queue | .dram | .locI _ | .locD _ => true
  | .rom | .flash _ | .regs | .reserved => false

/-- An uncorrectable error at an address: reported, and the word keeps it (R198, R406). -/
def State.dataErr (s : State) (pa : Nat) (rep : Nat → State → State) : State :=
  let s1 := if (s.region pa).keepsBad then s.markBad pa else s
  match errSource (s.region pa) pa true with
  | some n => if s.region pa = .dram then dramErr (rep n s1) pa true else rep n s1
  | none => s1

/-- REC_INFO.ACCESS (R440) of a thread's access, from its ACCESS of FINFO (R182); the read of a call frame by RET is a load, as are a block
read and the read of a descriptor (DEDUCED, log entry 110). -/
def recAccess (access : Nat) : Nat :=
  match access with
  | 1 => 2
  | 2 => 3
  | 3 => 4
  | 5 => 2
  | _ => 1

/-- Access types of R440 that no ACCESS of FINFO stands for. -/
def recWalk : Nat := 5
def recDmaRead : Nat := 6
def recDmaWrite : Nat := 7
def recScrub : Nat := 8

/-- What an access that returned `e` at an address reports to the collector (R198, R406); `access` as R440 numbers it. A check that showed
an address mismatch says so (R417). -/
def State.busErr (s : State) (pa : Nat) (master : W32) (access : Nat) (e : BusResult) : State :=
  let rep (m : Bool) (n : Nat) (a : State) : State := a.raiseA ⟨BitVec.ofNat 9 n, some (BitVec.ofNat 40 pa), master, BitVec.ofNat 4 access, 0, m⟩
  match e with
  | .ok => s
  | .corrected =>
    match errSource (s.region pa) pa false with
    | some n => if s.region pa = .dram then dramErr (rep false n s) pa false else rep false n s
    | none => s
  | .data => s.dataErr pa (rep false)
  | .mismatch => s.dataErr pa (rep true)
  | .parity => rep false 244 s
  | .timeout => rep false 245 s
  | .outOfService => s
  | .upper .data => s.dataErr pa (rep false)
  | .upper .mismatch => s.dataErr pa (rep true)
  | .upper .parity => rep false 244 s
  | .upper .timeout => rep false 245 s
  | .upper .outOfService => s

/-- REASON of R183 for an access error. -/
def busReason : BusResult → Nat
  | .ok => 0 | .corrected => 0 | .data => 9 | .mismatch => 9 | .parity => 10 | .outOfService => 11 | .timeout => 12
  | .upper .data => 9 | .upper .mismatch => 9 | .upper .parity => 10 | .upper .outOfService => 11 | .upper .timeout => 12

/-- KIND of R197. -/
def storeKind : BusResult → Nat
  | .ok => 0 | .corrected => 0 | .parity => 1 | .data => 2 | .mismatch => 2 | .outOfService => 3 | .timeout => 4
  | .upper .parity => 1 | .upper .data => 2 | .upper .mismatch => 2 | .upper .outOfService => 3 | .upper .timeout => 4

def busFails : BusResult → Bool
  | .ok => false | .corrected => false | .data => true | .mismatch => true | .parity => true | .outOfService => true | .timeout => true | .upper _ => true

def busUpper : BusResult → Bool
  | .upper _ => true
  | .ok | .corrected | .data | .mismatch | .parity | .outOfService | .timeout => false

/-! ### Refused accesses of register pages (R473) -/

/-- The page whose header stands for a page: descriptor pages take that of 0x210 (R248). -/
def headPage (p : Nat) : Nat := if 0x400 ≤ p then 0x210 else p

/-- Records a refused write (R473). -/
def wstat (wr : Writer) (p o : Nat) (c : Code) (s : State) : State :=
  let k := page (headPage p) + PG.WSTAT.off
  let n := satInc 8 (bf (s.rd k) 24 8)
  s.wr k (BitVec.ofNat 32 (c.num + o * 256 + wr.ring.val * 2 ^ 20 + b2n wr.ycp * 2 ^ 22 + n * 2 ^ 24))

/-- Records a refused read (R473); `width`: by its width. -/
def rerr (wr : Writer) (p o : Nat) (width : Bool) (s : State) : State :=
  let k := page (headPage p) + PG.ERR.off
  let n := satInc 8 (bf (s.rd k) 0 8)
  s.wr k (BitVec.ofNat 32 (n + o * 256 + wr.ring.val * 2 ^ 20 + b2n width * 2 ^ 22))

end Sys2Proof.Machine
end

