-- ==== Sys2Proof/Machine/Xlate.lean ====
section
/-! DEFINITION. Translation: table entries, walks, the translation caches and the checks of an access (R174-R186). -/
namespace Sys2Proof.Machine

/-- Why a translation does not end in an address: a table read it still needs, or a fault with the fields of FINFO. -/
inductive XStop where
  | need (pa : Nat)
  | flt (cause level reason : Nat) (s1w phys : Bool) (key addr2 : Nat)
deriving DecidableEq, Repr

/-- What an access needs from translation: partition, ring, linear address, ACCESS code of R182, rights needed (R 1, W 2, X 4),
atomic, segment number, and the KRR where keys apply. -/
structure XReq where
  part   : Nat
  ring   : Nat
  la     : Nat
  access : Nat
  need   : Nat
  atom   : Bool
  seg    : Nat
  keys   : Option W64
deriving DecidableEq, Repr

/-- FINFO of a memory fault (R182). -/
def XReq.finfo (q : XReq) (level : Nat) (s1w phys : Bool) (reason key addr2 : Nat) : W64 :=
  BitVec.ofNat 64 (q.access + q.seg * 16 + level * 256 + b2n s1w * 1024 + b2n phys * 2048 + reason * 4096 + key * 65536
    + q.ring * 1048576 + addr2 * 16777216)

/-- A table entry as the walk uses it (R176, R177). -/
inductive EntKind where
  | invalid
  | malformed
  | table (next : Nat)
  | leaf (lg addr rights ring key : Nat)
deriving DecidableEq, Repr

/-- SIZE values a level admits (R177). -/
def sizeOk (level size : Nat) : Bool :=
  match level with
  | 3 => decide (size ≤ 8)
  | 2 => inRange 9 17 size
  | 1 => inRange 18 26 size
  | _ => inRange 27 28 size

/-- Reads an entry of stage 1 (`st = 1`), stage 2 (`st = 2`) or an I/O table (`st = 3`, where X must be 0). -/
def entKind (st level : Nat) (e : W64) : EntKind :=
  let addr := bf e 12 28 * 4096
  let rights := bf e 2 3
  let ring := bf e 5 2
  let key := bf e 48 4
  let size := bf e 52 5
  if bf e 0 1 = 0 then .invalid
  else if bf e 7 5 ≠ 0 ∨ bf e 40 8 ≠ 0 ∨ bf e 58 2 ≠ 0 then .malformed
  else if bf e 1 1 = 1 then
    if level = 3 ∨ rights ≠ 0 ∨ ring ≠ 0 ∨ key ≠ 0 ∨ size ≠ 0 then .malformed else .table addr
  else if ¬ sizeOk level size ∨ addr % 2 ^ (12 + size) ≠ 0 then .malformed
  else if st ≠ 1 ∧ (ring ≠ 0 ∨ key ≠ 0) then .malformed
  else if st = 3 ∧ rights / 4 ≠ 0 then .malformed
  else .leaf (12 + size) addr rights ring key

/-- A leaf found by a walk: log2 of its page, page base, rights, ring and key. -/
structure Leaf where
  lg     : Nat
  addr   : Nat
  rights : Nat
  ring   : Nat
  key    : Nat
deriving DecidableEq, Repr

/-- What a walk consults: the walk cache by level and slot, where an entry at a node address is read (which may stop), and the
value read at a physical address (none: not read yet; some none: the read failed). `flt` builds its faults. -/
structure WalkEnv where
  st   : Nat
  look : Nat → Nat → Option W64
  loc  : Nat → Nat → Except XStop Nat
  rd   : Nat → Option (Option W64)
  flt  : Nat → Nat → XStop

/-- The entry of a level: from the walk cache or from memory. -/
def WalkEnv.entry (v : WalkEnv) (level node input : Nat) : Except XStop (W64 × Bool) :=
  let slot := input / 2 ^ (39 - 9 * level)
  match v.look level slot with
  | some e => .ok (e, true)
  | none =>
    match v.loc level (node + 8 * (slot % 512)) with
    | .error x => .error x
    | .ok pa =>
      match v.rd pa with
      | none => .error (.need pa)
      | some none => .error (v.flt level 7)
      | some (some e) => .ok (e, false)

/-- What a walk read from memory: table entries (level, slot, value) and the addresses of every entry read. -/
structure WalkLog where
  ents  : List (Nat × Nat × W64) := []
  nodes : List Nat := []
deriving DecidableEq, Repr

/-- Walks from a level down; answers the leaf and what it read from memory. -/
def WalkEnv.walk (v : WalkEnv) (input : Nat) : Nat → Nat → Nat → WalkLog → Except XStop (Leaf × WalkLog)
  | 0, level, _, _ => .error (v.flt level 2)
  | k + 1, level, node, acc =>
    match v.entry level node input with
    | .error x => .error x
    | .ok (e, cached) =>
      let slot := input / 2 ^ (39 - 9 * level)
      let acc1 : WalkLog := if cached then acc else { acc with nodes := (node + 8 * (slot % 512)) :: acc.nodes }
      match entKind v.st level e with
      | .invalid => .error (v.flt level 1)
      | .malformed => .error (v.flt level 2)
      | .table next =>
        v.walk input k (level + 1) next (if cached then acc1 else { acc1 with ents := (level, slot, e) :: acc1.ents })
      | .leaf lg addr rights ring key => .ok (⟨lg, addr, rights, ring, key⟩, acc1)

/-- The page of a leaf that holds an input address, as an output address. -/
def Leaf.out (l : Leaf) (input : Nat) : Nat := l.addr + input % 2 ^ l.lg

def wcLook (tl : Tlbs) (part stage level slot : Nat) : Option W64 :=
  (tl.wc.find? (fun w => w.part == part && w.stage == stage && w.level == level && w.slot == slot)).map (·.val)

def lookupGot (got : List (Nat × Option W64)) (pa : Nat) : Option (Option W64) := (got.find? (·.1 == pa)).map (·.2)

/-- A stage 2 walk of an intermediate address; `s1w`: for a stage 1 table read (R175, R184). -/
def s2walk (s : State) (tl : Tlbs) (part ipa : Nat) (s1w : Bool) (rd : Nat → Option (Option W64)) :
    Except XStop (Leaf × WalkLog) :=
  let b := B.part part
  let root := s.fld b PART.S2_ROOT_LO / 4096 * 4096 + s.fld b PART.S2_ROOT_HI * 2 ^ 32
  let v : WalkEnv :=
    { st := 2
      look := wcLook tl part 2
      loc := fun lv a => if (s.region a).isNormal then .ok a else .error (.flt 7 lv 6 s1w false 0 ipa)
      rd := rd
      flt := fun lv r => .flt 7 lv r s1w false 0 ipa }
  v.walk ipa 4 0 root {}

/-- What a successful walk leaves behind, and what it used: the walks (stage and input address) and the stage 1 table reads. -/
structure XIns where
  tlb : List TlbEnt
  wc  : List WcEnt
  s2  : List S2Ent
  walks : List (Nat × Nat) := []
  nodes : List Nat := []
deriving DecidableEq, Repr

def wcEnts (part stage : Nat) (l : List (Nat × Nat × W64)) : List WcEnt := l.map (fun x => ⟨part, stage, x.1, x.2.1, x.2.2⟩)

/-- Where a stage 1 table entry at an intermediate address lies: through the stage 2 TLB or a stage 2 walk that must grant R. -/
def s1loc (s : State) (tl : Tlbs) (part : Nat) (s2on : Bool) (rd : Nat → Option (Option W64)) (lv ipa : Nat) : Except XStop Nat :=
  let fin : Nat → Except XStop Nat := fun pa =>
    if (s.region pa).isNormal then .ok pa else .error (.flt 6 lv 6 false false 0 0)
  if s2on then
    match tl.s2.find? (fun e => e.part == part && e.base == ipa / 2 ^ e.lg) with
    | some e => if e.rd then fin (e.pa + ipa % 2 ^ e.lg) else .error (.flt 7 0 3 true false 0 ipa)
    | none =>
      match s2walk s tl part ipa true rd with
      | .error x => .error x
      | .ok (l, _) => if l.rights % 2 = 1 then fin (l.out ipa) else .error (.flt 7 0 3 true false 0 ipa)
  else fin ipa

/-- The walk-cache entries and stage 2 TLB entries that the table reads of a stage 1 walk formed, each once. -/
def s1side (s : State) (tl : Tlbs) (part : Nat) (rd : Nat → Option (Option W64)) (nodes : List Nat) : List WcEnt × List S2Ent :=
  nodes.foldl (fun acc ipa =>
    if (tl.s2 ++ acc.2).any (fun e => e.part == part && e.base == ipa / 2 ^ e.lg) then acc
    else match s2walk s tl part ipa true rd with
      | .ok (l, es) =>
        ((wcEnts part 2 es.ents).filter (fun w => !acc.1.contains w) ++ acc.1, ⟨part, ipa / 2 ^ l.lg, l.lg, l.addr, l.rights % 2 == 1⟩ :: acc.2)
      | .error _ => acc) ([], [])

/-- Rights of KRR for a key, by the rights that an access needs (R179, R180). -/
def keyOk (krr : W64) (key need : Nat) (atom : Bool) : Bool :=
  let b := bf krr (4 * key) 4
  if atom then b % 2 == 1 && nbit b 1 && nbit b 3 else (b &&& need) == need

/-- Whether rights `have_` grant the rights `need`. -/
def grants (have_ need : Nat) : Bool := (have_ &&& need) == need

/-- The checks of R179 on the rights of an access, in the order of R181: stage 1 right, ring, key, stage 2 right. -/
def leafCheck (q : XReq) (s1 ring key s2 ipa : Nat) : Option XStop :=
  if ¬ grants s1 q.need then some (.flt 6 0 3 false false 0 0)
  else if q.ring > ring then some (.flt 6 0 4 false false 0 0)
  else if (match q.keys with | some k => !keyOk k key q.need q.atom | none => false) then some (.flt 8 0 1 false false key 0)
  else if ¬ grants s2 q.need then some (.flt 7 0 3 false false 0 ipa)
  else none

/-- The checks of stage 1 alone, made before stage 2 is walked. -/
def leafCheck1 (q : XReq) (s1 ring key : Nat) : Option XStop := leafCheck q s1 ring key 7 0

/-- Translation of one linear address (R174-R179, R186): the physical address, what to install, and whether a walk was made. -/
def xlate (s : State) (tl : Tlbs) (q : XReq) (got : List (Nat × Option W64)) : Except XStop (Nat × XIns × Bool) :=
  let b := B.part q.part
  let s1on := s.flag b PART.P_CTL_S1_EN
  let s2on := s.flag b PART.P_CTL_S2_EN
  let rd := lookupGot got
  match tl.ents.find? (fun e => e.part == q.part && e.base == q.la / 2 ^ e.lg) with
  | some e =>
    match leafCheck q e.s1 e.ring e.key e.s2 (e.ipa + q.la % 2 ^ e.lg) with
    | some x => .error x
    | none => .ok (e.pa + q.la % 2 ^ e.lg, { tlb := [], wc := [], s2 := [] }, false)
  | none =>
    let root := s.fld b PART.S1_ROOT_LO / 4096 * 4096 + s.fld b PART.S1_ROOT_HI * 2 ^ 32
    let st1 : Except XStop (Leaf × WalkLog) :=
      if s1on then
        let v : WalkEnv :=
          { st := 1
            look := wcLook tl q.part 1
            loc := s1loc s tl q.part s2on rd
            rd := rd
            flt := fun lv r => .flt 6 lv r false false 0 0 }
        v.walk q.la 4 0 root {}
      else if q.la / 2 ^ 40 ≠ 0 then .error (.flt 6 0 5 false false 0 0)
      else .ok (⟨40, 0, 7, 3, 0⟩, {})
    match st1 with
    | .error x => .error x
    | .ok (l1, es1) =>
      let ipa := l1.out q.la % 2 ^ 40
      match leafCheck1 q l1.rights l1.ring l1.key with
      | some x => .error x
      | none =>
        let st2 : Except XStop (Leaf × WalkLog) :=
          if s2on then s2walk s tl q.part ipa false rd else .ok (⟨40, 0, 7, 0, 0⟩, {})
        match st2 with
        | .error x => .error x
        | .ok (l2, es2) =>
          match leafCheck q l1.rights l1.ring l1.key l2.rights ipa with
          | some x => .error x
          | none =>
            let pa := l2.out ipa
            let lg := min l1.lg l2.lg
            let side := if s1on && s2on then s1side s tl q.part rd es1.nodes else ([], [])
            let own := wcEnts q.part 1 es1.ents ++ wcEnts q.part 2 es2.ents
            let ents := if s1on || s2on then
                [⟨q.part, q.la / 2 ^ lg, lg, pa / 2 ^ lg * 2 ^ lg, l1.rights, l1.ring, l1.key, l2.rights, ipa / 2 ^ lg * 2 ^ lg⟩] else []
            .ok (pa, { tlb := ents, wc := own ++ side.1.filter (fun w => !own.contains w), s2 := side.2
                       walks := (1, q.la) :: (2, ipa) :: es1.nodes.map (fun n => (2, n)), nodes := es1.nodes }, s1on || s2on)

/-- The entries that satisfy `p` become the newest of a list. -/
def useFirst {α : Type} (p : α → Bool) (l : List α) : List α := l.filter p ++ l.filter (fun x => !p x)

/-- Installs entries, and what the walk used becomes the newest; the least recently used entry leaves when a cache is full (DESIGN CHOICE
for the pseudo-LRU of R186, log entry 11). -/
def Tlbs.install (t : Tlbs) (part : Nat) (i : XIns) : Tlbs :=
  let wc := useFirst (fun w => w.part == part && i.walks.any (fun x => w.stage == x.1 && w.slot == x.2 / 2 ^ (39 - 9 * w.level))) t.wc
  let s2 := useFirst (fun e => e.part == part && i.nodes.any (fun n => e.base == n / 2 ^ e.lg)) t.s2
  ⟨(i.tlb ++ t.ents).take 64, (i.wc ++ wc).take 32, (i.s2 ++ s2).take 16⟩

/-- A hit makes its entry the newest. -/
def Tlbs.touch (t : Tlbs) (part la : Nat) : Tlbs :=
  match t.ents.find? (fun e => e.part == part && e.base == la / 2 ^ e.lg) with
  | some e => { t with ents := e :: t.ents.erase e }
  | none => t

/-- The translation caches of a core; the cores of a locked trio hold the same (R186). -/
def tlbKey (s : State) (t : ThreadId) : Nat := 3 * t.trio.val + (if s.conf t.trio.val = 2 then t.core.val else 0)

def State.tlbs (s : State) (k : Nat) : Tlbs := s.fab.tlbs.get (fun _ => {}) k

def State.setTlbs (s : State) (k : Nat) (t : Tlbs) : State :=
  { s with fab := { s.fab with tlbs := s.fab.tlbs.set (fun _ => {}) k t } }

/-- The partition of a thread in a ring (R174). Page 0x122 has no register for trio identity 12. -/
def State.partOf (s : State) (t : ThreadId) (ring : Nat) : Nat :=
  if ring = 0 ∨ t.trio.val = 12 then 0
  else nbits (s.rd (B.thrp + 0x40 + 4 * (3 * t.trio.val + (if s.conf t.trio.val = 2 then t.core.val else 0)))).toNat (4 * t.thr.val) 4

/-- Whether the caches hold a linear address. -/
def Tlbs.hit (t : Tlbs) (part la : Nat) : Bool := t.ents.any (fun e => e.part == part && e.base == la / 2 ^ e.lg)

/-- Whether a request that misses the TLB is walked: stage 1 is on, or stage 2 is and the address is an intermediate one. -/
def State.walks (s : State) (part la : Nat) : Bool :=
  s.flag (B.part part) PART.P_CTL_S1_EN || (s.flag (B.part part) PART.P_CTL_S2_EN && decide (la / 2 ^ 40 = 0))

/-- A translation of a thread with its counts (R203): on success the caches take what it found or used. A key failure with stage 1 off comes
before any walk (R181). -/
def State.xl (s : State) (t : ThreadId) (q : XReq) (got : List (Nat × Option W64)) : Except (XStop × State) (Nat × State) :=
  let k := tlbKey s t
  let hit := (s.tlbs k).hit q.part q.la
  let walked1 (x : XStop) : Bool := s.flag (B.part q.part) PART.P_CTL_S1_EN || (match x with | .flt 8 _ _ _ _ _ _ => false | _ => true)
  match xlate s (s.tlbs k) q got with
  | .ok (pa, ins, walked) =>
    let s1 := if walked then (s.setTlbs k ((s.tlbs k).install q.part ins)).incWrap B.walk WALK.WALK_CNT
      else if hit then s.setTlbs k ((s.tlbs k).touch q.part q.la) else s
    .ok (pa, s1)
  | .error (.need pa) => .error (.need pa, s)
  | .error x => .error (x, if !hit && s.walks q.part q.la && walked1 x then s.incSat B.walk WALK.WFAULT_CNT else s)

/-- A table entry read at once: none where its target is out of service or the word holds an uncorrectable error, which is reported. -/
def State.tableRead (s : State) (t : ThreadId) (ring pa : Nat) : Option W64 × State :=
  if s.outOfService pa then (none, s)
  else match s.badAddr pa 8 with
    | some b => (none, s.busErr b (masterOf t ring) recWalk .data)
    | none => (some (BitVec.ofNat 64 (leNat (s.readMem pa 8))), s)

/-! ### Quotas (R199) -/

/-- The addresses that a fabric read of a stalled thread goes to. -/
def Wait.reads : Wait → List Nat
  | .load _ ps _ _ none => ps.map (·.1)
  | .load _ _ _ _ (some _) => []
  | .walk _ next _ => [next]
  | .fill _ line => [64 * line]
  | .blk _ (some a) => [a]
  | .blk _ none => []
  | .space _ | .drain _ | .sync _ | .syncTlb _ | .cop _ => []

/-- A transaction of a thread on the fabric: the read that it waits for, or a store that its target holds. -/
def Thread.outstanding (th : Thread) : Nat :=
  b2n (match th.st with
    | .stalled w => !(Wait.reads w).isEmpty
    | .running | .waiting | .stopped => false) + (th.buf.filter (·.held)).length

/-- Whether a trio is at its quota but for the transactions of thread `k`: those of its threads, and a committed store that its target
holds (R199). -/
def State.atQuota (s : State) (n k : Nat) : Bool :=
  decide (s.fld B.walk ⟨0x050, 0, 14⟩ ≤
    (((List.range 24).map (fun i => threadKey n (i / 8) (i % 8))).filter (· != k)).foldl (fun a x => a + (s.thread x).outstanding)
      ((s.trio n).commit.filter (·.held)).length)

/-- A translation with its table reads made at once, for entries that cannot stall: frames, block chunks. At its quota a trio makes none: the
read is still needed. -/
def State.xlNow (s : State) (t : ThreadId) (q : XReq) : Nat → List (Nat × Option W64) → Except (XStop × State) (Nat × State)
  | 0, _ => .error (.flt 7 0 7 false false 0 0, s)
  | k + 1, got =>
    match s.xl t q got with
    | .error (.need pa, s1) =>
      if s1.atQuota t.trio.val (s1.tkey t) then .error (.need pa, s1)
      else
      let (v, s2) := s1.tableRead t q.ring pa
      s2.xlNow t q k (got ++ [(pa, v)])
    | r => r

/-- A walk reads at most 24 entries (R185). -/
def walkFuel : Nat := 25

/-! ### Invalidation (R188) -/

def tlbHits (e : TlbEnt) (part la : Nat) : Bool := e.part == part && e.base == la / 2 ^ e.lg

/-- TLBI.ALL1. -/
def Tlbs.all1 (t : Tlbs) (p : Nat) : Tlbs :=
  { t with ents := t.ents.filter (·.part != p), wc := t.wc.filter (fun w => !(w.part == p && w.stage == 1)) }

/-- TLBI.VA1: the entries of the page and the stage 1 walk-cache entries on its path. -/
def Tlbs.va1 (t : Tlbs) (p la : Nat) : Tlbs :=
  { t with
    ents := t.ents.filter (fun e => !tlbHits e p la)
    wc := t.wc.filter (fun w => !(w.part == p && w.stage == 1 && w.slot == la / 2 ^ (39 - 9 * w.level))) }

/-- TLBI.IPA2. -/
def Tlbs.ipa2 (t : Tlbs) (p ipa : Nat) : Tlbs :=
  { ents := t.ents.filter (·.part != p)
    wc := t.wc.filter (fun w => !(w.part == p && w.stage == 2 && w.slot == ipa / 2 ^ (39 - 9 * w.level)))
    s2 := t.s2.filter (fun e => !(e.part == p && e.base == ipa / 2 ^ e.lg)) }

/-- What a TLBI removes from one core, by the function of R126: 3 ALL1, 4 VA1, 5 IPA2, 6 ALL. -/
def Tlbs.inval (t : Tlbs) (kind part : Nat) (addr : W64) : Tlbs :=
  match kind with
  | 3 => t.all1 part
  | 4 => t.va1 part (bf addr 0 48)
  | 5 => t.ipa2 (bf addr 60 4) (bf addr 0 40)
  | _ => {}

end Sys2Proof.Machine
end

