-- ==== Sys2Proof/Machine/Operands.lean ====
section
/-! DEFINITION. Registers of a thread as operands: general, special, predicate and segment registers, and the segment checks of
an access (R86, R106-R110, R130, R141, R142, R171-R173). -/
namespace Sys2Proof.Machine

def zero64 (_ : Nat) : W64 := 0
def flatSeg (_ : Nat) : Seg := Seg.flat

/-- SR.RING. -/
def Thread.ring (th : Thread) : Nat := bf th.sr 1 2

def Thread.setSr (th : Thread) (lo wd v : Nat) : Thread := { th with sr := BitVec.ofNat 64 (setBits th.sr.toNat lo wd v) }

/-- A general register; g0 reads 0 and g30 is the copy of the ring in SR.RING (R86). -/
def Thread.reg (th : Thread) (n : Nat) : W64 :=
  if n = 0 then 0 else if n = 30 then th.g30.get zero64 th.ring else th.g.get zero64 n

/-- A write of a general register; a write of g0 is discarded. -/
def Thread.setReg (th : Thread) (n : Nat) (v : W64) : Thread :=
  if n = 0 then th
  else if n = 30 then { th with g30 := th.g30.set zero64 th.ring v }
  else { th with g := th.g.set zero64 n v }

def Thread.g30of (th : Thread) (r : Nat) : W64 := th.g30.get zero64 r

def Thread.setG30 (th : Thread) (r : Nat) (v : W64) : Thread := { th with g30 := th.g30.set zero64 r v }

def Thread.flags (th : Thread) : NZCV := ⟨th.sr.getLsbD 4, th.sr.getLsbD 5, th.sr.getLsbD 6, th.sr.getLsbD 7⟩

def Thread.setFlags (th : Thread) (f : NZCV) : Thread :=
  th.setSr 4 4 (b2n f.n + 2 * b2n f.z + 4 * b2n f.c + 8 * b2n f.v)

def Thread.ie (th : Thread) : Bool := th.sr.getLsbD 0
def Thread.ce (th : Thread) : Bool := th.sr.getLsbD 3
def Thread.la (th : Thread) : Bool := th.sr.getLsbD 8

/-- A predicate; p0 reads 1 (R86). -/
def Thread.pred (th : Thread) (n : Nat) : Bool := n == 0 || th.p.getLsbD n

def Thread.setPred (th : Thread) (n : Nat) (v : Bool) : Thread :=
  if n = 0 then th else { th with p := BitVec.ofNat 8 (setBits th.p.toNat n 1 (b2n v)) }

def Thread.segReg (th : Thread) (n : Nat) : Seg := th.seg.get flatSeg n

def Thread.vbrOf (th : Thread) (r : Nat) : W64 := th.vbr.get zero64 r

/-- Whether the instruction executes (R106, R107). -/
def Thread.executes (th : Thread) (w : W32) : Bool :=
  if th.ce then condHolds (bf w 28 4) th.flags else th.pred (bf w 28 3) != w.getLsbD 31

/-- Muslin, Gauze and Felt hold SR.CE at 1 (R108). -/
def State.ceHeld (s : State) : Bool := s.mode == mMuslin || s.mode == mGauze || s.mode == mFelt

def State.holdCe (s : State) (th : Thread) : Thread := if s.ceHeld then th.setSr 3 1 1 else th

/-- The least privileged ring that may read (`wr` false) or write a special register (R130); 3 where others decide. -/
def srRing (wr : Bool) (n : Nat) : Nat :=
  if n = 6 then (if wr then 1 else 3)
  else if inRange 7 9 n then 2
  else if inRange 0xC 0x10 n then 0
  else if inRange 0x14 0x17 n then n - 0x14
  else if n = 0x20 ∧ wr then 2
  else 3

/-- The value MFS reads. -/
def Thread.sreg (th : Thread) (t : ThreadId) (now : W64) (n : Nat) : W64 :=
  match n with
  | 0x00 => th.sr
  | 0x01 => th.pl
  | 0x02 => th.ph
  | 0x03 => th.lc
  | 0x04 => th.ls
  | 0x05 => th.le
  | 0x06 => th.krr
  | 0x07 => th.cause
  | 0x08 => th.faddr
  | 0x09 => th.finfo
  | 0x10 => th.esp
  | 0x11 => BitVec.ofNat 64 (setBits th.p.toNat 0 1 1)
  | 0x30 => now
  | 0x31 => BitVec.ofNat 64 (t.thr.val + 16 * t.trio.val)
  | _ =>
    if inRange 0xC 0xF n then th.vbrOf (n - 0xC)
    else if inRange 0x14 0x17 n then th.g30of (n - 0x14)
    else BitVec.ofNat 64 (th.segReg (n - 0x20)).sel.toNat

/-- Whether a write of SR by MTS is refused (R141). -/
def srWriteRefused (old v : W64) : Bool :=
  let r := bf old 1 2
  if r = 0 then false
  else if r = 3 then bf v 1 2 != 3 || v.getLsbD 0 != old.getLsbD 0
  else decide (bf v 1 2 < r)

/-- A write by MTS of a register other than SR and the segment registers. -/
def Thread.setSreg (th : Thread) (n : Nat) (v : W64) : Thread :=
  match n with
  | 0x01 => { th with pl := v }
  | 0x02 => { th with ph := v }
  | 0x03 => { th with lc := v }
  | 0x04 => { th with ls := v }
  | 0x05 => { th with le := v }
  | 0x06 => { th with krr := v }
  | 0x07 => { th with cause := BitVec.ofNat 64 (bf v 0 8) }
  | 0x08 => { th with faddr := v }
  | 0x09 => { th with finfo := v }
  | 0x10 => { th with esp := v }
  | 0x11 => { th with p := BitVec.ofNat 8 (setBits v.toNat 0 1 1) }
  | _ =>
    if inRange 0xC 0xF n then { th with vbr := th.vbr.set zero64 (n - 0xC) v }
    else if inRange 0x14 0x17 n then th.setG30 (n - 0x14) v
    else th

/-! ### Segments -/

/-- An exception of an instruction: cause, FADDR, FINFO. -/
structure Exc where
  cause : Nat
  faddr : W64
  finfo : W64
deriving DecidableEq, Repr

/-- FINFO of a segment or alignment exception (R182). -/
def segFinfo (access seg reason ring : Nat) : W64 := BitVec.ofNat 64 (access + seg * 16 + reason * 4096 + ring * 1048576)

/-- Checks an access of `n` bytes at an offset through a segment, in the order of R173; `need` as in XReq. `low`: a limit failure reports the
lowest failing byte (R95, R157), else the offset (R182). -/
def segCheck (sg : Seg) (segNo ring access need off n : Nat) (low : Bool) : Option Exc :=
  let badAt (cause reason a : Nat) : Option Exc := some ⟨cause, BitVec.ofNat 64 a, segFinfo access segNo reason ring⟩
  let bad (cause reason : Nat) : Option Exc := badAt cause reason off
  let have_ := b2n sg.r + 2 * b2n sg.w + 4 * b2n sg.x
  if sg.sel = 0 then bad 0x04 1
  else if ¬ grants have_ need then bad 0x04 2
  else if ring > sg.ring.val then bad 0x04 3
  else if off > sg.limit.toNat ∨ off + n - 1 > sg.limit.toNat then badAt 0x03 1 (if low then max off (sg.limit.toNat + 1) else off)
  else if sg.base.toNat + off + n - 1 ≥ 2 ^ 48 then badAt 0x03 2 (if low then max off (2 ^ 48 - sg.base.toNat) else off)
  else none

/-- The segment a descriptor of 16 bytes gives (R170), or the reason it is refused: 4 NOT_VALID, 5 MALFORMED, 3 RING. -/
def segOfDescr (sel : BitVec 16) (lo hi : W64) (ring : Nat) : Except Nat Seg :=
  if bf lo 48 16 ≠ 0 ∨ bf hi 54 10 ≠ 0 then .error 5
  else if hi.getLsbD 48 = false then .error 4
  else if ring > bf hi 52 2 then .error 3
  else .ok ⟨sel, lo.extractLsb' 0 48, hi.extractLsb' 0 48, hi.getLsbD 49, hi.getLsbD 50, hi.getLsbD 51,
    ⟨bf hi 52 2 % 4, Nat.mod_lt _ (by decide)⟩⟩

/-! ### Products -/

/-- What the completion of an instruction does to the products under way (R87): NEAR lands, FAR moves up, `new` enters. -/
def Thread.shiftProducts (th : Thread) (new : Option Product) : Thread :=
  let th1 := match th.near with
    | some p => { th with pl := p.extractLsb' 0 64, ph := p.extractLsb' 64 64 }
    | none => th
  { th1 with near := th.far, far := new }

end Sys2Proof.Machine
end

