-- ==== Sys2Proof/Machine/Intd.lean ====
section
/-! DEFINITION. The interrupt distributor: lines, routes, priorities, ACK, EOI and software sources (R159-R163, R165). -/
namespace Sys2Proof.Machine

/-- The register of a source's route. -/
def routeKey (n : Nat) : Nat := page 0x111 + (if n < 512 then 0x40 + 4 * n else 4096 + 0x40 + 4 * (n - 512))

def State.route (s : State) (n : Nat) : W32 := s.rd (routeKey n)

/-- A bit of the pending (0x080) or active (0x100) words. -/
def irqBit (base n : Nat) : Fld := ⟨base + 4 * (n / 32), n % 32, 1⟩

def State.irqActive (s : State) (n : Nat) : Bool := s.flag B.intd (irqBit 0x100 n)

/-- The line of a level source (R159 and the chapters that own them): mark FIFO (R277), ring log (R338), timer flags (R357), raw
receive ring (R399), queue notification groups (R277). -/
def State.irqLine (s : State) (n : Nat) : Bool :=
  if n = 194 then !s.eng.marks.isEmpty
  else if n < 384 then
    let b := B.ring ((n - 256) / 8)
    s.rd (b + RING.LOG_HEAD.off) != s.rd (b + RING.LOG_TAIL.off)
  else if n < 448 then
    let b := B.timer (n - 384)
    !(n % 2 == 1 && s.flag (B.timer (n - 385)) TIMER.CFG_LINK) && (s.rd (b + TIMER.IRQ_STAT.off) &&& s.rd (b + TIMER.IRQ_EN.off)) != 0
  else if n = 456 then s.rd (B.net + NET.RAWRX_HEAD.off) != s.rd (B.net + NET.RAWRX_TAIL.off)
  else s.rd64 (B.eng + ENG.NOTIFY_LO.off + 8 * (n - 544)) != 0

/-- Pending: an edge latched, or a level line asserted (R161). -/
def State.irqPending (s : State) (n : Nat) : Bool :=
  if irqReserved n then false else if irqIsLevel n then s.irqLine n else s.flag B.intd (irqBit 0x080 n)

/-- The priority of a route. -/
def routePrio (r : W32) : Nat := bf r 4 4
def routeRing (r : W32) : Nat := bf r 20 2

/-- Whether a route leads to a thread; the core counts only in SPLIT (R160). -/
def State.routesTo (s : State) (r : W32) (t : ThreadId) : Bool :=
  bf r 8 4 == t.trio.val && bf r 16 3 == t.thr.val && (s.conf t.trio.val != 2 || bf r 12 2 == t.core.val)

/-- The sources. -/
def irqNumbers : List Nat := List.range 800

/-- The running priority of a thread: its highest active priority; none when no source is active (R160). -/
def State.runPrio (s : State) (t : ThreadId) : Option Nat :=
  irqNumbers.foldl (fun acc n =>
    if s.irqActive n && s.routesTo (s.route n) t then
      match acc with
      | some p => some (max p (routePrio (s.route n)))
      | none => some (routePrio (s.route n))
    else acc) none

/-- Whether a source is presented to a thread (R160, R161). -/
def State.presents (s : State) (t : ThreadId) (run : Option Nat) (n : Nat) : Bool :=
  let r := s.route n
  r.getLsbD 0 && s.routesTo r t && !s.irqActive n && s.irqPending n
    && (match run with | some p => decide (p < routePrio r) | none => true)

/-- Whether source `a` goes before `b`: higher priority, then more privileged ring, then lower number. -/
def irqBefore (s : State) (a b : Nat) : Bool :=
  let ra := s.route a
  let rb := s.route b
  decide (routePrio rb < routePrio ra) || (routePrio ra == routePrio rb &&
    (decide (routeRing ra < routeRing rb) || (routeRing ra == routeRing rb && decide (a < b))))

/-- The best presented source whose route's ring is at most `ring`. -/
def State.topIrq (s : State) (t : ThreadId) (ring : Nat) : Option Nat :=
  let run := s.runPrio t
  irqNumbers.foldl (fun acc n =>
    if s.presents t run n && decide (routeRing (s.route n) ≤ ring) then
      match acc with
      | some m => if irqBefore s n m then some n else some m
      | none => some n
    else acc) none

/-- The eligible source a thread takes at a boundary (R160). -/
def State.eligibleIrq (s : State) (t : ThreadId) (th : Thread) : Option Nat :=
  if th.ie then s.topIrq t th.ring else none

/-- Whether an enabled interrupt routed to the thread is pending (R128; DEDUCED, log entry 13). -/
def State.irqForThread (s : State) (t : ThreadId) : Bool :=
  irqNumbers.any (fun n => s.irqPending n && (s.route n).getLsbD 0 && s.routesTo (s.route n) t)

/-- The thread of a key. -/
def tidOf (k : Nat) : ThreadId :=
  ⟨⟨k / 32 % 13, Nat.mod_lt _ (by decide)⟩, ⟨k % 32 / 8 % 3, Nat.mod_lt _ (by decide)⟩, ⟨k % 8, Nat.mod_lt _ (by decide)⟩⟩

/-- An interrupt that is pending and routed to a Waiting thread has ended its wait, whatever a page access now does to the source (R82,
R128). -/
def wakeWaiting (s : State) : State :=
  s.threads.cells.foldl (fun a c =>
    if c.2.st = .waiting ∧ a.irqForThread (tidOf c.1) then a.setThread c.1 { a.thread c.1 with st := .running } else a) s

/-- Codes that refuse ACK (R161). A reserved source is never pending either, so STATE goes before ABSENT (R7). -/
def ackCodes (wr : Writer) (v : Nat) (s : State) : List Code :=
  let r := s.route v
  refuseIf (decide (1023 < v)) .range ++ (if 1023 < v then [] else
    refuseIf (irqReserved v) .absent
    ++ refuseIf (wr.ycp || !s.routesTo r wr.tid || !s.irqPending v || s.irqActive v) .state
    ++ refuseIf (decide (routeRing r < wr.ring.val)) .priv)

def ackDo (v : Nat) (s : State) : State :=
  let s1 := s.setFld B.intd (irqBit 0x100 v) 1
  if irqIsLevel v then s1 else s1.setFld B.intd (irqBit 0x080 v) 0

/-- Codes that refuse EOI (R161). A reserved source is never active either. -/
def eoiCodes (wr : Writer) (v : Nat) (s : State) : List Code :=
  let r := s.route v
  refuseIf (decide (1023 < v)) .range ++ (if 1023 < v then [] else
    refuseIf (irqReserved v) .absent
    ++ refuseIf (wr.ycp || !s.routesTo r wr.tid || !s.irqActive v) .state
    ++ refuseIf (decide (routeRing r < wr.ring.val)) .priv)

def eoiDo (v : Nat) (s : State) : State := s.setFld B.intd (irqBit 0x100 v) 0

/-- Refusals of a register write of page 0x110 (R163, R165); `v` the written value, the held low half of GATE_BASE in place. -/
def intdCodes (o v : Nat) (s : State) : List Code :=
  let base := s.fld B.intd INTD.GATE_BASE_LO + s.fld B.intd INTD.GATE_BASE_HI * 2 ^ 32
  let fits (b n : Nat) : Bool := n == 0 || (decide (0x10000000 ≤ b) && decide (b + 16 * n ≤ 0x11000000))
    || (decide (0x1000000000 ≤ b) && decide (b + 16 * n ≤ 0x1000000000 + s.usableDram))
  match o with
  | 0x040 => refuseIf (decide (63 < v)) .range
  | 0x044 => refuseIf (decide (63 < v)) .range
  | 0x04C => refuseIf (!fits (base % 2 ^ 32 + v * 2 ^ 32) (s.fld B.intd INTD.GATE_LIMIT)) .range
  | 0x050 => refuseIf (decide (65536 < v) || !fits base v) .range
  | 0x054 => refuseIf (nbits v 2 2 == 3 || decide (1 < nbits v 10 2) || decide (1 < nbits v 14 2) || decide (1 < nbits v 16 2)) .range
  | _ => []

def intdDo (o v : Nat) (s : State) : State :=
  match o with
  | 0x040 => s.setFld B.intd (irqBit 0x080 v) 1
  | 0x044 => s.setFld B.intd (irqBit 0x080 v) 0
  | 0x054 => s.wr (B.intd + o) (BitVec.ofNat 32 (setBits v 12 2 0))
  | _ => s.wr (B.intd + o) (BitVec.ofNat 32 v)

/-- Refusals of a route write (R165). -/
def routeCodes (n v : Nat) (s : State) : List Code :=
  refuseIf (decide (12 ≤ nbits v 8 4) || nbits v 12 2 == 3) .range ++ refuseIf (irqReserved n) .absent ++ refuseIf (s.irqActive n) .busy

/-- A route keeps its EDGE bit; ACTIVE and PEND are views. -/
def routeDo (n v : Nat) (s : State) : State :=
  s.wr (routeKey n) (BitVec.ofNat 32 ((v &&& 0x00373FF1) + 2 * b2n (!irqIsLevel n)))

/-- What TOP and RUNPRIO read for the requesting thread (R165). -/
def topView (s : State) (t : ThreadId) : W32 :=
  match s.topIrq t 3 with
  | some n => BitVec.ofNat 32 (n + routePrio (s.route n) * 65536 + routeRing (s.route n) * 1048576 + 2 ^ 31)
  | none => 0

def runPrioView (s : State) (t : ThreadId) : W32 :=
  match s.runPrio t with
  | some p => BitVec.ofNat 32 p
  | none => 0x10

/-- A route as it reads. -/
def routeView (s : State) (n : Nat) : W32 :=
  s.route n ||| BitVec.ofNat 32 (b2n (s.irqActive n) * 2 ^ 30 + b2n (s.irqPending n) * 2 ^ 31)

/-- A pending word as it reads: 32 sources from 32k on. -/
def pendView (s : State) (k : Nat) : W32 :=
  BitVec.ofNat 32 ((List.range 32).foldl (fun a i => a + b2n (s.irqPending (32 * k + i)) * 2 ^ i) 0)

end Sys2Proof.Machine
end

