-- ==== Sys2Proof/Machine/Io.lean ====
section
/-! DEFINITION. I/O translation and the accesses of engines and Ethernet through it (R191-R194, R60). -/
namespace Sys2Proof.Machine

/-- The unit of a stream (R191). -/
def ioUnit (stream : Nat) : Nat := if stream < 2 then 0 else if stream < 10 then 1 else if stream < 18 then 2 else 3

/-- REC_MASTER of a stream's accesses (R191, R440). -/
def ioMaster (stream : Nat) : W32 :=
  if stream = 0 then 3 else if stream = 1 then 3 else if stream < 18 then BitVec.ofNat 32 (4 + 16 * (stream - 2)) else 5

/-- Records a refused access and raises the unit's source (R192, R206, R440). -/
def State.ioRefuse (s : State) (stream addr : Nat) (write : Bool) (level reason : Nat) : State :=
  let b := B.iot + 16 * ioUnit stream
  let s1 := s.wr (b + 0x450) (BitVec.ofNat 32 (stream + b2n write * 256 + level * 1024 + reason * 4096 + 2 ^ 31))
  let s2 := (s1.wr (b + 0x454) (BitVec.ofNat 32 addr)).wr (b + 0x458) (BitVec.ofNat 32 (addr / 2 ^ 32 % 256))
  (s2.incSat b ⟨0x45C, 0, 32⟩).raiseA ⟨BitVec.ofNat 9 (246 + ioUnit stream), some (BitVec.ofNat 40 addr), ioMaster stream,
    BitVec.ofNat 4 (if write then recDmaWrite else recDmaRead), 0, false⟩

def ioSlot (a : Nat) (l : Leaf) : Nat := a / 2 ^ l.lg

/-- A byte of memory as another initiator sees it: of a trio in PAIR, the content at its last commit (R60; DESIGN CHOICE, log
entry 12). -/
def State.committedByte (s : State) (a : Nat) : Byte :=
  match (s.region a).trio? with
  | some n =>
    match ((s.trio n).undo.filter (fun u => u.1 == a / 8 * 8)).getLast? with
    | some u => u.2.getD (a % 8) 0
    | none => s.byteAt a
  | none => s.byteAt a

/-- The entry that holds the 16 neighbours of a leaf whose table entry lies at `node`, where R193 lets one hold them: one aligned group of
CONT leaves of their slot's size with consecutive addresses and the same rights, of which no word holds an uncorrectable error (DESIGN
CHOICE, log entry 110). -/
def State.contGroup (s : State) (stream addr : Nat) (l : Leaf) (node : Nat) : Option IoEnt :=
  let first := node / 128 * 128
  let base := l.addr - addr / 2 ^ l.lg % 16 * 2 ^ l.lg
  let ok (i : Nat) : Bool :=
    let e := leNat (bytesFrom s.committedByte (first + 8 * i) 8)
    nbit e 57 && (match entKind 3 ((39 - l.lg) / 9) (BitVec.ofNat 64 e) with
      | .leaf lg a r _ _ => lg == l.lg && a == base + i * 2 ^ l.lg && r == l.rights
      | .invalid | .malformed | .table _ => false)
  if (l.lg = 12 ∨ l.lg = 21 ∨ l.lg = 30 ∨ l.lg = 39) ∧ addr / 2 ^ l.lg % 16 * 2 ^ l.lg ≤ l.addr ∧ ¬ s.badIn first 128 ∧ (List.range 16).all ok then
    some ⟨stream, addr / 2 ^ (l.lg + 4), l.lg + 4, base, l.rights % 2 == 1, nbit l.rights 1⟩
  else none

/-- A table entry of an I/O unit: none where its target is out of service or the word holds an uncorrectable error, which is reported. -/
def State.ioTable (s : State) (stream pa : Nat) : Option W64 × State :=
  if s.outOfService pa then (none, s)
  else match s.badAddr pa 8 with
    | some b => (none, s.busErr b (ioMaster stream) recWalk .data)
    | none => (some (BitVec.ofNat 64 (leNat (bytesFrom s.committedByte pa 8))), s)

/-- The root node of a stream's I/O table (R206). -/
def State.ioRoot (s : State) (stream : Nat) : Nat :=
  let b := B.iot + 0x40 + 16 * stream
  bf (s.rd (b + 4)) 12 20 * 4096 + bf (s.rd (b + 8)) 0 8 * 2 ^ 32

/-- An I/O table walk with the entries read so far. -/
def State.ioEnv (s : State) (got : List (Nat × Option W64)) : WalkEnv :=
  { st := 3
    look := fun _ _ => none
    loc := fun lv a => if (s.region a).isNormal then .ok a else .error (.flt 7 lv 6 false false 0 0)
    rd := lookupGot got
    flt := fun lv r => .flt 7 lv r false false 0 0 }

/-- Walks an I/O table, given the entries read so far, and answers the leaf, or the level and reason of the refusal; `look` is one attempt with
the entries that have been read. -/
def State.ioWalk (s : State) (stream : Nat) (look : State → List (Nat × Option W64) → Except XStop (Leaf × WalkLog)) :
    Nat → List (Nat × Option W64) → Except (Nat × Nat) (Leaf × WalkLog) × State
  | 0, _ => (.error (0, 7), s)
  | k + 1, got =>
    match look s got with
    | .error (.need pa) =>
      let (e, s1) := s.ioTable stream pa
      s1.ioWalk stream look k (got ++ [(pa, e)])
    | .error (.flt _ lv r _ _ _ _) => (.error (lv, r), s)
    | .ok x => (.ok x, s)

/-- The entry that serves an address (R191). -/
def State.ioHit (s : State) (stream addr : Nat) : Option IoEnt :=
  s.fab.io.find? (fun e => e.stream == stream && e.base == addr / 2 ^ e.lg)

def IoEnt.allows (e : IoEnt) (write : Bool) : Bool := if write then e.w else e.r

/-- Puts the entry of a walk, or the contiguous group's, into the stream's unit: the oldest of 256 leaves (R191, R193). -/
def State.ioFill (s : State) (stream addr : Nat) (l : Leaf) (g : WalkLog) : State :=
  let one : IoEnt := ⟨stream, addr / 2 ^ l.lg, l.lg, l.addr, l.rights % 2 == 1, nbit l.rights 1⟩
  let e := ((g.nodes.head?).bind (s.contGroup stream addr l)).getD one
  let mine := s.fab.io.filter (fun x => ioUnit x.stream == ioUnit stream)
  let rest := s.fab.io.filter (fun x => ioUnit x.stream != ioUnit stream)
  { s with fab := { s.fab with io := (e :: mine).take 256 ++ rest } }

/-- What a walk gives one address: the physical address and the state with the unit's entry, or the level, the reason and the state. -/
def ioLeaf (stream addr : Nat) (write : Bool) : Except (Nat × Nat) (Leaf × WalkLog) × State → Except (Nat × Nat × State) (Nat × State)
  | (.error (lv, r), s) => .error (lv, r, s)
  | (.ok (l, g), s) =>
    if grants l.rights (if write then 2 else 1) then .ok (l.out addr, s.ioFill stream addr l g) else .error (0, 3, s)

/-- Translates one I/O address: the physical address and the state with the unit's entry, or the level, the reason and the state. A walk reads
at most four entries. -/
def State.ioXlate (s : State) (stream addr : Nat) (write : Bool) : Except (Nat × Nat × State) (Nat × State) :=
  let b := B.iot + 0x40 + 16 * stream
  if bf (s.rd b) 0 1 = 0 then .error (0, 13, s)
  else if bf (s.rd b) 1 1 = 1 then .ok (addr, s)
  else
    match s.ioHit stream addr with
    | some e => if e.allows write then .ok (e.pa + addr % 2 ^ e.lg, s) else .error (0, 3, s)
    | none =>
      ioLeaf stream addr write (s.ioWalk stream (fun x got => (x.ioEnv got).walk addr 4 0 (x.ioRoot stream) {}) 5 [])

/-- The trio in PAIR, other than `own`, that holds an access of another initiator to an address. -/
def State.holder (s : State) (own : Option Nat) (a : Nat) : Option Nat :=
  match (s.region a).trio? with
  | some m => if s.conf m = 1 ∧ own ≠ some m then some m else none
  | none => none

/-- Checks and translates an I/O access, line by line; answers the physical pieces, or the address, level and reason of a refusal with the
state that the table reads left. -/
def State.ioPieces (s : State) (stream : Nat) (write : Bool) : List (Nat × Nat) → Except (Nat × Nat × Nat × State) (List (Nat × Nat) × State)
  | [] => .ok ([], s)
  | (a, n) :: t =>
    match s.ioXlate stream a write with
    | .error (lv, r, s1) => .error (a, lv, r, s1)
    | .ok (pa, s1) =>
      if ¬ (s1.region pa).allows (if write then .write else .read) 99 ∨ 2 ^ 40 < a + n then .error (a, 0, 8, s1)
      else if s1.outOfService pa then .error (a, 0, 11, s1)
      else match s1.ioPieces stream write t with
        | .error x => .error x
        | .ok (ps, s2) => .ok ((pa, n) :: ps, s2)

/-- How many 64-byte lines an access touches, with one to spare. -/
def lineCount (n : Nat) : Nat := n / 64 + 2

/-- The accesses of engines to register pages are those of ring 3 (R474). -/
def ioWriter : Writer := ⟨3, false, ⟨0, 0, 0⟩⟩

/-- Whether a piece of an engine's access is an access of 4 or 8 bytes that a register page takes (R468). -/
def pageAccess (a n : Nat) : Bool := (n == 4 && a % 4 == 0) || (n == 8 && a % 8 == 0)

/-- Reads one piece of an engine's access of memory: none on an uncorrectable error, which is reported (R198). A register page answers 0
and records the read (R468, R473). -/
def State.ioPiece (s : State) (stream : Nat) (p : Nat × Nat) : Option (List Byte) × State :=
  if s.region p.1 = .regs then (some (List.replicate p.2 0), rerr ioWriter (p.1 / 4096 % 0x40000) (p.1 % 4096) true s)
  else match s.badAddr p.1 p.2 with
    | some b => (none, s.busErr b (ioMaster stream) recDmaRead .data)
    | none => (some (s.readMem p.1 p.2), s)

/-- Reads pieces in order, up to one that fails. -/
def State.ioBytes (s : State) (stream : Nat) : List (Nat × Nat) → Option (List Byte) × State
  | [] => (some [], s)
  | p :: t =>
    match s.ioPiece stream p with
    | (none, s1) => (none, s1)
    | (some d, s1) =>
      match s1.ioBytes stream t with
      | (none, s2) => (none, s2)
      | (some e, s2) => (some (d ++ e), s2)

/-- Writes bytes to a physical address on behalf of an initiator other than the trio: a trio in PAIR holds the write until its
next commit (R60). -/
def State.pokeExt (s : State) (tid : Option ThreadId) (a : Nat) (d : List Byte) : State :=
  match (s.region a).trio? with
  | some n =>
    if s.conf n = 1 then
      let t := s.trio n
      s.setTrio n { t with held := t.held ++ [.write tid [(a, d)]] }
    else s.poke a d
  | none => s.poke a d

/-- Writes the pieces of an engine's access in order; `reg` is what a register page does with its piece. -/
def State.pokePieces (s : State) (reg : Nat → List Byte → State → State) : List (Nat × Nat) → List Byte → State
  | [], _ => s
  | (a, n) :: t, d =>
    (if s.region a = .regs then reg a (d.take n) s else s.pokeExt none a (d.take n)).pokePieces reg t (d.drop n)

/-- A register page refuses a piece that is no access of 4 or 8 bytes (R468). -/
def pageRefuses (a : Nat) (_ : List Byte) (s : State) : State := wstat ioWriter (a / 4096 % 0x40000) (a % 4096) .align s

/-- The first address of an uncorrectable error in the words that a write replaces only in part (R198). -/
def State.badPart (s : State) (p : Nat × Nat) : Option Nat :=
  let e := p.1 + p.2
  match if p.1 % 8 = 0 then none else s.badAddr p.1 (min p.2 (8 - p.1 % 8)) with
  | some b => some b
  | none => if e % 8 = 0 then none else s.badAddr (max p.1 (e / 8 * 8)) (e - max p.1 (e / 8 * 8))

/-- An I/O write in pieces of a line; none on success, else the reason of the refusal. -/
def State.ioWrite (s : State) (stream addr : Nat) (d : List Byte) (reg : Nat → List Byte → State → State) : Option Nat × State :=
  match s.ioPieces stream true (splitLines (lineCount d.length) addr d.length) with
  | .error (a, lv, r, s1) => (some r, s1.ioRefuse stream a true lv r)
  | .ok (ps, s1) => (none, s1.pokePieces reg ps d)

/-- Removes entries of a stream, wholly or for one address (R194). -/
def State.ioInval (s : State) (stream : Nat) (whole : Bool) (addr : Nat) : State :=
  { s with fab := { s.fab with io := s.fab.io.filter (fun e => !(e.stream == stream && (whole || e.base == addr / 2 ^ e.lg))) } }

end Sys2Proof.Machine
end

