-- ==== Sys2Proof/Machine/MemRegs.lean ====
section
/-! DEFINITION. Registers of translation, DRAM and xSPI, flash commands and the patrol scrubber (R194, R199-R208). -/
namespace Sys2Proof.Machine

/-! ### Quotas (R199, R203) -/

/-- The quota registers with the number of initiators that each counts for. -/
def quotaUsers : List (Nat × Nat) := [(0x050, 13), (0x054, 4), (0x058, 1), (0x05C, 16), (0x060, 1), (0x064, 1)]

/-- The sum of all quotas with `v` in register `o`. -/
def State.quotaSum (s : State) (o v : Nat) : Nat :=
  quotaUsers.foldl (fun a x => a + x.2 * (if x.1 = o then v else (s.rd (B.walk + x.1)).toNat)) 0

def walkCodes (o v : Nat) (s : State) : List Code :=
  if inRange 0x050 0x064 o then refuseIf (!inRange 8 8192 v) .range ++ refuseIf (decide (8192 < s.quotaSum o v)) .full else []

/-! ### Partitions (R204, R205) -/

/-- A ring 1 writer of its own partition, which may write stage 1, the descriptor table and S1_EN. -/
def State.ownsPart (s : State) (wr : Writer) (p : Nat) : Bool :=
  wr.ring == 1 && !wr.ycp && p != 0 && s.partOf wr.tid 1 == p

def partCodes (wr : Writer) (o v : Nat) (s : State) : List Code :=
  let p := (o - 0x040) / 32
  let r := (o - 0x040) % 32
  let ring1 := s.ownsPart wr p && (if r = 0 then nbit v 1 == nbit (s.rd (page 0x121 + o)).toNat 1 else !inRange 0x0C 0x10 r)
  refuseIf (wr.ring != 0 && !ring1) .priv

def thrpCodes (wr : Writer) : List Code := refuseIf (wr.ring != 0) .priv

/-! ### I/O translation (R194, R206) -/

def iotCodes (o v : Nat) : List Code := if o = 0x444 then refuseIf (decide (20 < nbits v 0 6)) .absent else []

def iotDo (o v : Nat) (s : State) : State :=
  if o = 0x444 then
    let a := (s.rd (B.iot + 0x440)).toNat + nbits v 16 8 * 2 ^ 32
    { s with fab := { s.fab with ioInv := s.fab.ioInv ++ [(nbits v 0 6, nbit v 8, a)] } }.setFld B.iot ⟨0x448, 0, 1⟩ 1
  else s.wr (B.iot + o) (BitVec.ofNat 32 v)

/-- An access of another initiator than a thread. -/
def HeldAcc.streams : HeldAcc → Bool
  | .read _ => false
  | .write tid _ => tid.isNone
  | .rawTx _ _ => true
  | .ycp _ _ _ _ _ => true

/-- The oldest invalidation under way completes, once no access that an I/O unit translated waits at a trio in PAIR (the third condition of
R189). -/
def ioInvDone (s : State) : State :=
  match s.fab.ioInv with
  | [] => s
  | (st, whole, a) :: rest =>
    if (List.range 13).any (fun m => (s.trio m).held.any HeldAcc.streams) then s
    else ({ s with fab := { s.fab with ioInv := rest } }.ioInval st whole a).setFld B.iot ⟨0x448, 0, 1⟩ (b2n (!rest.isEmpty))

/-! ### DRAM (R200, R207) -/

def dramCodes (o v : Nat) : List Code := if o = 0x044 then refuseIf (v == 0) .range else []

/-! ### Flash (R201, R202, R208) -/

def State.flashCmd (s : State) (p : Nat) : Option FlashCmd := if p = 0 then s.fab.flash0 else s.fab.flash1

def State.setFlashCmd (s : State) (p : Nat) (c : Option FlashCmd) : State :=
  { s with fab := (if p = 0 then { s.fab with flash0 := c } else { s.fab with flash1 := c }) }

def xspiCodes (o v : Nat) (s : State) : List Code :=
  if o = 0x040 then
    let op := nbits v 1 3
    let n := s.fld B.xspi XSPI.LEN
    let a := (s.rd (B.xspi + XSPI.ADDR.off)).toNat
    refuseIf (op == 0 || decide (3 < op) || n == 0 || decide (256 < n)) .range
      ++ refuseIf ((op == 2 && a % 4096 != 0) || (op == 3 && a % 65536 != 0) || (op == 1 && decide (256 < a % 256 + n))) .align
      ++ refuseIf ((s.flashCmd (nbits v 0 1)).isSome || s.burning (nbits v 0 1)) .busy
  else []

def busyFld (p : Nat) : Fld := ⟨XSPI.STAT.off, p, 1⟩

/-- Starts a flash command on a port. -/
def flashStart (p : Nat) (c : FlashCmd) (s : State) : State := (s.setFlashCmd p (some c)).setFld B.xspi (busyFld p) 1

def xspiDo (o v : Nat) (s : State) : State :=
  if o = 0x040 then
    let n := s.fld B.xspi XSPI.LEN
    let a := (s.rd (B.xspi + XSPI.ADDR.off)).toNat
    let buf := ((List.range 64).flatMap (fun i => leBytes 4 (s.rd (B.xspi + 0x100 + 4 * i)).toNat)).take n
    match nbits v 1 3 with
    | 1 => flashStart (nbits v 0 1) ⟨a, some buf, n⟩ s
    | 2 => flashStart (nbits v 0 1) ⟨a, none, 4096⟩ s
    | _ => flashStart (nbits v 0 1) ⟨a, none, 65536⟩ s
  else s.wr (B.xspi + o) (BitVec.ofNat 32 v)

/-- Writes bytes to a flash device; only those that its window shows are kept. -/
def flashPut (p a : Nat) (d : List Byte) (s : State) : State :=
  s.poke (0x30000000 + p * 0x8000000 + a) (d.take (min (s.flashSize p) 0x8000000 - a))

/-- A flash command completes (R202). Programming clears bits and an erase sets them (PRESUMED, log entry 41); a failed command leaves its
bytes and a code other than 0 that the spec does not state: free values (log entry 3). Its failure raises source 243 (R406). -/
def flashDone (p : Nat) (ok : Bool) (s : State) : State :=
  match s.flashCmd p with
  | none => s
  | some c =>
    let s1 := (s.setFlashCmd p none).setFld B.xspi (busyFld p) (b2n (s.burning p))
    let old := s1.peek (0x30000000 + p * 0x8000000 + c.addr) c.len
    let new := match c.data with
      | some d => (old.zip d).map (fun x => x.1 &&& x.2)
      | none => List.replicate c.len 0xFF
    if ok then ((flashPut p c.addr new s1).setFld B.xspi XSPI.STAT_CODE 0).irq 482
    else
      let (bytes, s2) := s1.freeList c.len
      let (v, s3) := (flashPut p c.addr bytes s2).free
      ((s3.setFld B.xspi XSPI.STAT_CODE (v.toNat % 15 + 1)).irq 482).raise 243

end Sys2Proof.Machine
end

