-- ==== Sys2Proof/Machine/RingPort.lean ====
section
/-! DEFINITION. What the engine hands to a ring port: commands, retimes and cancels (R261-R264, R312, R313, R326). -/
namespace Sys2Proof.Machine

def State.ring (s : State) (r : Nat) : Ring := s.rings.get (fun _ => {}) r

def State.setRing (s : State) (r : Nat) (x : Ring) : State := { s with rings := s.rings.set (fun _ => {}) r x }

def lnOff : Nat := 0
def lnLink : Nat := 1
def lnIdle : Nat := 2
def lnRun : Nat := 3
def lnSafe : Nat := 4

def State.line (s : State) (r : Nat) : Nat := s.fld (B.ring r) RING.STAT_LINE

/-- A fault event and an interrupt of a port (R337, R338). -/
def ringEvent (r k : Nat) (s : State) : State := s.raiseUnit (256 + 9 * r + k) 4 r
def ringIrq (r k : Nat) (s : State) : State := s.irq (256 + 8 * r + k)

/-- A command that cannot be sent is counted and reported (R327). -/
def undelivered (r : Nat) (s : State) : State := ringEvent r 4 (s.incSat (B.ring r) RING.UNDELIV_CNT)

/-- Entries of the transmit queue (R326). -/
def txqSize : Nat := 512

/-- A payload of 24 bytes; the unused ones are 0 (R310). -/
def pad24 (l : List Byte) : List Byte := l ++ List.replicate (24 - l.length) 0

/-- The port takes a command and gives it the next identifier (R313). In OFF and LINK nothing leaves, and the command is undelivered at
once (R327, R332). -/
def ringCommand (r : Nat) (c : TxCmd) (s : State) : W32 × State :=
  let x := s.ring r
  (x.nextId, if s.line r < lnIdle then undelivered r (s.setRing r { x with nextId := x.nextId + 1 })
    else s.setRing r { x with nextId := x.nextId + 1, txq := x.txq ++ [{ c with id := x.nextId }] })

/-- The commands that wait at a port which leaves its line are undelivered (R327). -/
def ringFlush (r : Nat) (s : State) : State :=
  (s.ring r).txq.foldl (fun a _ => undelivered r a) (s.setRing r { s.ring r with txq := [] })

/-- A RETIME to every node, applied at once to the commands of its tag that still wait (R312, R326). -/
def ringRetime (r tag : Nat) (d : W64) (s : State) : State :=
  let x := s.ring r
  s.setRing r { x with
    txq := x.txq.map (fun c => if c.tag = some tag then { c with fire := c.fire + d } else c)
    ctl := x.ctl ++ [⟨0x3, 127, pad24 (leBytes 8 (tag % 4096) ++ leBytes 8 d.toNat), none⟩] }

/-- The CANCEL of a command (R312). -/
def cancelFrame (id : W32) (node chan : Nat) : TxFrame := ⟨0x4, node, pad24 (leBytes 4 id.toNat ++ leBytes 1 chan), none⟩

/-- Cancels a command. One that still waits is removed and counts as acknowledged CANCELLED (true); else a CANCEL goes out and an
ACK is awaited (R326, R328). -/
def ringCancel (r : Nat) (id : W32) (node chan q : Nat) (s : State) : Bool × State :=
  let x := s.ring r
  if x.txq.any (fun c => c.id == id) then (true, s.setRing r { x with txq := x.txq.filter (fun c => c.id != id) })
  else (false, s.setRing r { x with
    ctl := x.ctl ++ [cancelFrame id node chan]
    cancels := x.cancels ++ [(id, q, node * 256 + chan)] })

/-- On a safe stop that ends in Felt, or when the nodes lose ring time, nothing that waits for them is sent any more (R253). -/
def ringDrop (r : Nat) (s : State) : State := s.setRing r { s.ring r with txq := [], ctl := [], cancels := [] }

end Sys2Proof.Machine
end

