-- ==== Sys2Proof/Machine/Shaft.lean ====
section
/-! DEFINITION. Shafts: decoding, referencing, the observer, correction table and learning, the safe-speed comparison, angle steps
and the tick (R209-R245). -/
namespace Sys2Proof.Machine

def State.shaft (s : State) (n : Nat) : Shaft := s.shafts.get (fun _ => {}) n

def State.setShaft (s : State) (n : Nat) (x : Shaft) : State := { s with shafts := s.shafts.set (fun _ => {}) n x }

/-- The shaft's fault sources and interrupts (R241, R242). -/
def State.shaftFault (s : State) (n k : Nat) : State := s.raise (172 + 6 * n + k)
def State.shaftIrq (s : State) (n k : Nat) : State := s.irq (128 + 8 * n + k)

/-! ### Fixed-point rounding -/

/-- RNE of `n / d`. -/
def rne (n : Int) (d : Nat) : Int := rndRat false n d

/-- T64 units in a second. -/
def t64hz : Nat := 16000000000

/-- The signed value of a difference modulo 2^96. -/
def sgn96 (x : Int) : Int :=
  let y := x % 2 ^ 96
  if y < 2 ^ 95 then y else y - 2 ^ 96

def theta96 (x : Int) : BitVec 96 := BitVec.ofInt 96 x

/-- Saturation of a signed Q24.72 value (R221). -/
def satQ72 (x : Int) : Int := clampInt (-(2 ^ 95)) (2 ^ 95 - 1) x

/-! ### Counts and lines -/

def State.shaftSsi (s : State) (n : Nat) : Bool := s.fld (B.shaft n) SHAFT.CFG_TYPE == 1

/-- Counts per turn (R211, R215). -/
def State.cpr (s : State) (n : Nat) : Nat :=
  if s.shaftSsi n then 2 ^ s.fld (B.shaft n) SHAFT.SSI_CFG_ST_BITS else max 1 (s.fld (B.shaft n) SHAFT.CPR_VALUE)

/-- The unwrapped count: revolution × CPR + k. -/
def Shaft.pos (x : Shaft) (cpr : Nat) : Nat := x.rev.toNat * cpr + x.k % cpr

def Shaft.setPos (x : Shaft) (cpr p : Nat) : Shaft := { x with rev := BitVec.ofNat 32 (p / cpr), k := p % cpr }

/-- The raw angle of an unwrapped line (R217). -/
def rawAngle (cpr line : Nat) : Int := (line / cpr : Int) * 2 ^ 64 + rne ((line % cpr : Int) * 2 ^ 64) cpr

/-- corr of R230, in units of 2^-64 turn: the whole sum is rounded once, to the table's unit of 2^-40 turn (DEDUCED, log entry 19). -/
def ctCorr (ct : Tab W32) (m : Int) : Int :=
  let phi := (m % 2 ^ 64).toNat
  let i := phi / 2 ^ 52
  let t (j : Nat) : Int := (ct.get (fun _ => 0) (j % 4096)).toInt
  rne (t i * 2 ^ 52 + (t (i + 1) - t i) * ((phi % 2 ^ 52 : Nat) : Int)) (2 ^ 52) * 2 ^ 24

/-- Whether the table applies (R230, R233). -/
def State.ctActive (s : State) (n : Nat) : Bool :=
  let b := B.shaft n
  s.fld b SHAFT.CT_CTL_MODE == 1 && s.flag b SHAFT.STAT_REFERENCED && (s.shaft n).learn.isNone

/-- The angle of a line as a measurement uses it. -/
def State.lineAngle (s : State) (n line : Nat) : Int :=
  let m := rawAngle (s.cpr n) line
  if s.ctActive n then m - ctCorr (s.shaft n).ct m else m

/-! ### Observer -/

/-- The constants of a bandwidth code (R223): k1 with 48, k2 with 32 and k3 with 16 fraction bits, Δmax with 96, and in T64 units
the largest interval with x ≤ 0.05 and the least time of 10/ω_b. -/
structure ObsGain where
  k1 : Nat
  k2 : Nat
  k3 : Nat
  dmax : Nat
  x05 : Nat
  settle : Nat
deriving DecidableEq, Repr

def obsGain : Nat → ObsGain
  | 0 => ⟨132641957850533255, 317922210953523, 254003418565, 126095536962331759332332559, 5092958, 1018591636⟩
  | 1 => ⟨265283915701066510, 1271688843814094, 2032027348520, 63047768481165879666166280, 2546479, 509295818⟩
  | 2 => ⟨530567831402133021, 5086755375256375, 16256218788161, 31523884240582939833083140, 1273239, 254647909⟩
  | 3 => ⟨1061135662804266041, 20347021501025502, 130049750305288, 15761942120291469916541570, 636619, 127323955⟩
  | 4 => ⟨2122271325608532083, 81388086004102007, 1040398002442306, 7880971060145734958270785, 318309, 63661978⟩
  | 5 => ⟨4244542651217064165, 325552344016408028, 8323184019538448, 3940485530072867479135392, 159154, 31830989⟩
  | 6 => ⟨8489085302434128331, 1302209376065632114, 66585472156307588, 1970242765036433739567696, 79577, 15915495⟩
  | _ => ⟨16978170604868256662, 5208837504262528456, 532683777250460701, 985121382518216869783848, 39788, 7957748⟩

/-- The tick length τ with 96 fraction bits, for an increment of 160 + adj × 2^-32 T64 units (R221). -/
def tickTau (adj : Int) : Int := rne ((160 * 2 ^ 32 + adj) * 2 ^ 64) t64hz

/-- The tick step (R221). -/
def Shaft.tick (x : Shaft) (tau : Int) : Shaft :=
  { x with
    theta := theta96 (x.theta.toNat + rne (x.omega * tau) (2 ^ 104) + rne (x.acc * tau * tau) (2 ^ 201))
    omega := satQ72 (x.omega + rne (x.acc * tau) (2 ^ 96)) }

/-- A correction by a measurement (R222) at device time `t`. -/
def Shaft.correct (x : Shaft) (bw : Nat) (m : Int) (te t : W64) : Shaft :=
  let g := obsGain bw
  let f : Int := t64hz
  let dd := diff64 t te
  let thE : Int := x.theta.toNat - rne (x.omega * dd) (t64hz * 2 ^ 8) + rne (x.acc * dd * dd) (t64hz * t64hz * 2 ^ 9)
  let r := sgn96 (m - thE)
  let iv := diff64 te x.tp
  let clamped := decide ((g.dmax : Int) * f < iv * 2 ^ 96)
  let num : Int := if clamped then g.dmax else iv
  let den : Nat := if clamped then 2 ^ 96 else t64hz
  let g1 := rne (g.k1 * num * 2 ^ 14) den
  let g2 := rne (g.k2 * num) den
  let g3 := rne (g.k3 * num * 2 ^ 16) den
  { x with
    theta := theta96 (x.theta.toNat + rne (g1 * r) (2 ^ 62))
    omega := satQ72 (x.omega + rne (g2 * r) (2 ^ 24))
    acc := satQ72 (x.acc + rne (g3 * r) (2 ^ 24))
    tp := te }

/-- SPARSE (R226). -/
def sparseOf (bw : Nat) (iv : Int) : Nat :=
  let g := obsGain bw
  if (g.dmax : Int) * t64hz < iv * 2 ^ 96 then 2 else if g.x05 < iv then 1 else 0

/-! ### Learning (R232, R233) -/

/-- Ends learning with a code; the table and MODE stay. -/
def learnEnd (n : Nat) (code : Code) (taken : Nat) (s : State) : State :=
  let b := B.shaft n
  let s1 := s.setShaft n { s.shaft n with learn := none }
  (((s1.setFld b SHAFT.STAT_LEARNING 0).setFld b SHAFT.CT_RES_CODE code.num).setFld b SHAFT.CT_RES_TURNS taken).shaftIrq n 5

/-- Ends learning with STATE where it runs: loss of reference, LEARN_ABORT or a disable (R233). -/
def learnStop (n : Nat) (s : State) : State :=
  match (s.shaft n).learn with
  | some l => learnEnd n .state l.taken s
  | none => s

/-- Clears REFERENCED. -/
def loseRef (n : Nat) (s : State) : State := learnStop n (s.setFld (B.shaft n) SHAFT.STAT_REFERENCED 0)

def gcdNorm (x : Int × Nat) : Int × Nat :=
  let g := Nat.gcd x.1.natAbs x.2
  if g ≤ 1 then x else (x.1 / (g : Int), x.2 / g)

def fracAdd (x y : Int × Nat) : Int × Nat := gcdNorm (x.1 * y.2 + y.1 * x.2, x.2 * y.2)

def fracOne (_ : Nat) : Int × Nat := (0, 1)

/-- The bytes of a correction table, entries 0 to 4095. -/
def ctBytes (ct : Tab W32) : List Byte := (List.range 4096).flatMap (fun i => leBytes 4 (ct.get (fun _ => 0) i).toNat)

def ctCrc (ct : Tab W32) : W32 := BitVec.ofNat 32 (crc32c (ctBytes ct))

/-- The error of a sample: frac(m) − (t_e − t_k)/P, taken signed within half a turn. -/
def sampleErr (fr : Nat) (te tk : W64) (p : Nat) : Int × Nat :=
  let num : Int := (fr : Int) * p - diff64 te tk * 2 ^ 64
  let d : Int := (p : Int) * 2 ^ 64
  let m := num % d
  ((if 2 * m < d then m else m - d), p * 2 ^ 64)

/-- The new table: each point's mean less the mean over all points, in units of 2^-40 turn. A value outside 32 bits has no
result stated and is a free value (log entry 3). -/
def learnTable (l : Learn) (ctr : Nat) : Tab W32 :=
  let sum (i : Nat) : Int × Nat := l.sums.get fracOne i
  let tot := (List.range 4096).foldl (fun a i => fracAdd a (sum i)) (0, 1)
  (List.range 4096).foldl (fun t i =>
    let x := fracAdd (sum i) (-tot.1, tot.2 * 4096)
    let v := rne (x.1 * 2 ^ 40) (x.2 * l.taken)
    let w : W32 := if -(2 ^ 31) ≤ v ∧ v < 2 ^ 31 then BitVec.ofInt 32 v else BitVec.ofNat 32 (leNat ((List.range 4).map (fun j => Config.freeByte ctr (4 * i + j))))
    t.set (fun _ => 0) i w) {}

/-- Learning succeeds: the table, its CRC, CT_RES and MODE. -/
def learnDone (n : Nat) (l : Learn) (s : State) : State :=
  let b := B.shaft n
  let ct := learnTable l s.freeCtr
  let s1 := { s with freeCtr := s.freeCtr + 1 }.setShaft n { s.shaft n with ct := ct }
  let s2 := s1.wr (b + SHAFT.CT_CRC.off) (ctCrc ct)
  let s3 := if s2.flag b SHAFT.CT_CTL_AUTO_APPLY then s2.setFld b SHAFT.CT_CTL_MODE 1 else s2
  learnEnd n .ok l.taken s3

/-- The samples of the points from a measured line of a turn up to the next measured one: each takes the nearer of the two, at a tie the lower
(R232). -/
def samplesOf (cpr : Nat) (lo hi : Nat × W64) : List (Nat × Nat × W64) :=
  let fr (line : Nat) : Nat := (rawAngle cpr (line % cpr)).toNat % 2 ^ 64
  let first := (lo.1 * 4096 + cpr - 1) / cpr
  (List.range ((hi.1 * 4096 + cpr - 1) / cpr - first)).map (fun j =>
    let i := first + j
    let x := if i * cpr - lo.1 * 4096 ≤ hi.1 * 4096 - i * cpr then lo else hi
    (i, fr x.1, x.2))

/-- A measurement seen by learning: `line` unwrapped, time `te`, backward or not. A turn that opens or goes on with a backward measurement has
a reversal (R232). -/
def learnMeas (n line : Nat) (te : W64) (back : Bool) (s : State) : State :=
  match (s.shaft n).learn with
  | none => s
  | some l =>
    let b := B.shaft n
    let cpr := s.cpr n
    let put (l : Learn) (s : State) : State := s.setShaft n { s.shaft n with learn := some l }
    let here := if line % cpr = 0 ∧ l.tk.isSome ∧ ¬ back then cpr else line % cpr
    let l1 : Learn :=
      { l with
        spoilt := l.spoilt || back
        bank := (match l.last with | some lo => if lo.1 < here then samplesOf cpr lo (here, te) else [] | none => []) ++ l.bank
        last := some (line % cpr, te) }
    if line % cpr = 0 then
      match l1.tk with
      | none => put { l1 with tk := some te, bank := [], spoilt := back } s
      | some tk =>
        let p := (diff64 te tk).toNat
        let ok := match l1.prev with
          | some q => !l1.spoilt && decide (((p : Int) - q).natAbs * 2 ^ s.fld b SHAFT.CT_CTL_TOL ≤ q) && decide (0 < p)
          | none => false
        let sums := if ok then l1.bank.foldl (fun t x => t.set fracOne x.1 (fracAdd (t.get fracOne x.1) (sampleErr x.2.1 x.2.2 tk p))) l1.sums
          else l1.sums
        let l2 : Learn :=
          { l1 with
            tk := some te, prev := some p, bank := [], spoilt := back, sums := sums
            taken := l1.taken + b2n ok, turns := l1.turns + 1 }
        let need := 2 ^ s.fld b SHAFT.CT_CTL_LTURNS
        if need ≤ l2.taken then learnDone n l2 s
        else if 4 * need ≤ l2.turns then learnEnd n .timeout l2.taken s
        else put l2 s
    else put (if l1.tk.isSome then l1 else { l1 with bank := [] }) s

/-! ### Decoding (R211-R214) -/

/-- Sets k and moves θ̂, the line and a waiting measurement by the same counts; the shift of smallest magnitude (R213). -/
def setCount (n newk : Nat) (s : State) : State :=
  let x := s.shaft n
  let cpr := s.cpr n
  let up := (newk + cpr - x.k % cpr) % cpr
  let delta : Int := if cpr / 2 < up then (up : Int) - cpr else up
  let mod : Int := (cpr : Int) * 2 ^ 32
  let move (p : Nat) : Nat := (((p : Int) + delta) % mod).toNat
  let old := x.pos cpr
  let x1 := x.setPos cpr (move old)
  let s1 := s.setShaft n { x1 with
    theta := theta96 (x.theta.toNat + rawAngle cpr (move old) - rawAngle cpr old)
    line := move x.line
    meas := x.meas.map (fun m => (move m.1, m.2))
    step := x.step + delta }
  (s1.setFld (B.shaft n) SHAFT.STAT_REFERENCED 1).shaftIrq n 0

/-- The index event (R213, R214); `after`: the counts of the tick that followed it, which step 2 has made before (R224). -/
def indexEvent (n : Nat) (after : Int) (s : State) : State :=
  let b := B.shaft n
  let ic := s.fld b SHAFT.INDEX_CNT_VALUE
  let cpr := s.cpr n
  if ¬ s.flag b SHAFT.STAT_REFERENCED then setCount n (((ic : Int) + after) % cpr).toNat s
  else
    let k := (((s.shaft n).k - after) % cpr).toNat
    let d := (k + cpr - ic % cpr) % cpr
    if 1 < min d (cpr - d) then ((loseRef n s).shaftFault n 1).shaftIrq n 1 else s

/-- A quadrature error (R212). -/
def quadError (n : Nat) (s : State) : State :=
  (((loseRef n s).incSat (B.shaft n) SHAFT.QERR_CNT).shaftFault n 0).shaftIrq n 2

/-- The least spacing of A and B transitions: 40 ns in T64 units (R212). -/
def quadGap : Int := 640

/-- A counted transition of A or B: the new count and the measurement at the line crossed (R211). -/
def countStep (n : Nat) (fwd : Bool) (te : W64) (s : State) : State :=
  let x := s.shaft n
  let cpr := s.cpr n
  let mod := cpr * 2 ^ 32
  let old := x.pos cpr
  let new := if fwd then (old + 1) % mod else (old + mod - 1) % mod
  let line := if fwd then (old + 1) % mod else old
  (s.setShaft n { x.setPos cpr new with
    meas := some (line, te, !fwd), step := x.step + (if fwd then 1 else -1), lastFwd := some fwd })

/-- Takes back the count of the latest counted transition, which a later one shows to be in error (R212). A measurement that an
earlier tick has applied stays: R222 has it reach the observer before 40 ns have passed (DEDUCED, log entry 21). -/
def uncount (n : Nat) (s : State) : State :=
  let x := s.shaft n
  let cpr := s.cpr n
  let mod := cpr * 2 ^ 32
  match x.lastFwd with
  | none => s
  | some fwd =>
    let old := x.pos cpr
    let new := if fwd then (old + mod - 1) % mod else (old + 1) % mod
    s.setShaft n { x.setPos cpr new with step := x.step - (if fwd then 1 else -1), lastFwd := none }

/-- A level that a ball has taken. -/
def Shaft.level (x : Shaft) (ball : EncBall) (lvl : Bool) : Shaft :=
  match ball with
  | .a => { x with lvA := lvl }
  | .b => { x with lvB := lvl }
  | .z => { x with lvZ := lvl }

/-- The net counts since the last tick's steps, by which an index event knows the counts that follow it. -/
def State.counted (s : State) (n : Nat) : Int := (s.shaft n).step

/-- One A (`isA`) or B transition. Every accepted one counts in EDGE_CNT (R243). Two less than 40 ns apart are an error and neither is counted:
an earlier one that still waits is left out, and the count of one that an earlier tick decoded is taken back (R212). -/
def quadStep (n : Nat) (isA lvl : Bool) (ts te : W64) (rest : List (EncBall × Bool × W64)) (s : State) : State :=
  let x := s.shaft n
  let s1 := (s.setShaft n { x.level (if isA then .a else .b) lvl with lastAB := some ts }).incWrap (B.shaft n) SHAFT.EDGE_CNT
  let near (o : Option W64) : Bool := match o with | some t => decide (diff64 ts t < quadGap) | none => false
  let nextAB := (rest.find? (fun r => r.1 != EncBall.z)).map (fun r => r.2.2)
  let closeNext := match nextAB with | some t => decide (diff64 t ts < quadGap) | none => false
  if lvl = (if isA then x.lvA else x.lvB) then s
  else if near x.lastAB then quadError n (uncount n s1)
  else if closeNext then s1.setShaft n { s1.shaft n with lastFwd := none }
  else
    let fwd := if isA then lvl != x.lvB else lvl == x.lvA
    countStep n (fwd != s.flag (B.shaft n) SHAFT.CFG_DIR) te s1

/-- Step 2: decodes the waiting transitions in the order of their time stamps. Each index event that it passes, with the transition before it
and the counts made by then, is answered for step 3; a count taken back after it of a transition before it was none (R211-R213). -/
def decodeTrans (n : Nat) : List (EncBall × Bool × W64) → List (Option W64 × Int) → State → List (Option W64 × Int) × State
  | [], idx, s => (idx, s)
  | (ball, lvl, ts) :: rest, idx, s =>
    let b := B.shaft n
    let x := s.shaft n
    let te := ts - BitVec.ofNat 64 (s.fld b SHAFT.IN_DLY % 65536)
    let quad (isA : Bool) : List (Option W64 × Int) × State :=
      let s1 := quadStep n isA lvl ts te rest s
      let back := x.lastFwd.isSome ∧ (s1.shaft n).lastFwd.isNone ∧ (s1.shaft n).step ≠ x.step
      (if back then idx.map (fun e => if e.1 = x.lastAB then (e.1, e.2 + ((s1.shaft n).step - x.step)) else e) else idx, s1)
    match ball with
    | .z =>
      let s1 := s.setShaft n { x with lvZ := lvl }
      let hit := s.flag b SHAFT.CFG_INDEX_EN ∧ lvl = !s.flag b SHAFT.CFG_Z_POL ∧ lvl ≠ x.lvZ
      decodeTrans n rest (if hit then idx ++ [(x.lastAB, s.counted n)] else idx) s1
    | .a => decodeTrans n rest (quad true).1 (quad true).2
    | .b => decodeTrans n rest (quad false).1 (quad false).2

/-- Steps 2 and 3 (R224). -/
def decode (n : Nat) (l : List (EncBall × Bool × W64)) (s : State) : State :=
  let (idx, s1) := decodeTrans n l [] s
  let total := s1.counted n
  idx.foldl (fun a e => indexEvent n (total - e.2) a) s1

/-- Inserts a transition in the order of its time stamp. -/
def insTrans (x : EncBall × Bool × W64) : List (EncBall × Bool × W64) → List (EncBall × Bool × W64)
  | [] => [x]
  | y :: t => if diff64 x.2.2 y.2.2 < 0 then x :: y :: t else y :: insTrans x t

/-! ### One tick of one shaft (R224) -/

/-- Step 1: commands. ALIGN is taken at step 7 of the same tick (DEDUCED, log entry 20). -/
def shaftCmd (n : Nat) (c : ShaftCmd) (s : State) : State :=
  match c with
  | .refNow arg => setCount n arg s
  | .clrRef => loseRef n s
  | .align => s
  | .rev v =>
    let x := s.shaft n
    let cpr := s.cpr n
    let d : Int := ((v : Int) - x.rev.toNat) * cpr
    let mod : Int := (cpr : Int) * 2 ^ 32
    s.setShaft n { x with
      theta := theta96 ((v : Int) * 2 ^ 64 + x.theta.toNat % 2 ^ 64)
      rev := BitVec.ofNat 32 v
      line := (((x.line : Int) + d) % mod).toNat
      meas := x.meas.map (fun m => ((((m.1 : Int) + d) % mod).toNat, m.2)) }

/-- The first measurement (R225, R226). -/
def obsStart (n line : Nat) (te : W64) (s : State) : State :=
  let b := B.shaft n
  let x := s.shaft n
  let s1 := s.setShaft n { x with
    theta := theta96 (s.lineAngle n line), omega := 0, acc := 0, tp := te, tStart := te, nMeas := 1 }
  (((s1.setFld b SHAFT.STAT_VALID 1).setFld b SHAFT.STAT_STILL 0).setFld b SHAFT.STAT_SETTLED 0).setFld b SHAFT.STAT_SPARSE 0

/-- The boundary clamp (R225). -/
def obsClamp (n : Nat) (t : W64) (s : State) : State :=
  let x := s.shaft n
  let mod := s.cpr n * 2 ^ 32
  let bw := s.fld (B.shaft n) SHAFT.OBS_CTL_BW
  let ml := s.lineAngle n x.line
  let hi := s.lineAngle n ((x.line + 1) % mod)
  let lo := s.lineAngle n ((x.line + mod - 1) % mod)
  let d := sgn96 (x.theta.toNat - ml)
  if sgn96 (hi - ml) < d then s.setShaft n (x.correct bw hi t t)
  else if d < -(sgn96 (ml - lo)) then s.setShaft n (x.correct bw lo t t)
  else s

/-- Steps 4 and 5. -/
def observe (n : Nat) (tau : Int) (t : W64) (s : State) : State :=
  let b := B.shaft n
  let bw := s.fld b SHAFT.OBS_CTL_BW
  let run := s.flag b SHAFT.STAT_VALID && !s.flag b SHAFT.STAT_STILL
  let s1 := if run then s.setShaft n ((s.shaft n).tick tau) else s
  let x := s1.shaft n
  let s2 := match x.meas with
    | some (line, te, back) =>
      let s3 := if run then
          (s1.setShaft n { x.correct bw (s1.lineAngle n line) te t with nMeas := x.nMeas + 1 }).setFld b SHAFT.STAT_SPARSE
            (sparseOf bw (diff64 te x.tMeas))
        else obsStart n line te s1
      let s4 := s3.setShaft n { s3.shaft n with line := line, tMeas := te, meas := none }
      learnMeas n line te back (s4.setFld b SHAFT.STAT_REVERSE (b2n back))
    | none => if run then obsClamp n t s1 else s1
  let y := s2.shaft n
  if ¬ s2.flag b SHAFT.STAT_SETTLED ∧ 16 ≤ y.nMeas ∧ ((obsGain bw).settle : Int) ≤ diff64 t y.tStart then
    (s2.setFld b SHAFT.STAT_SETTLED 1).shaftIrq n 4
  else s2

/-- Step 6: the copies differ (R220). -/
def copiesDiffer (n : Nat) (s : State) : State :=
  let s1 := (s.shaftFault n 3).setFld (B.shaft n) SHAFT.STAT_VALID 0
  (s1.setShaft n { s1.shaft n with theta := 0, omega := 0, acc := 0, tp := 0, nMeas := 0 }).incSat B.angle ANGLE.DUP_CNT

/-- CT_ACTIVE and CT_SUSPENDED. -/
def ctFlags (n : Nat) (s : State) : State :=
  let b := B.shaft n
  let app := s.fld b SHAFT.CT_CTL_MODE == 1
  (s.setFld b SHAFT.STAT_CT_ACTIVE (b2n (s.ctActive n))).setFld b SHAFT.STAT_CT_SUSPENDED (b2n (app && !s.flag b SHAFT.STAT_REFERENCED))

/-- A shaft of which only the levels of its balls are left, those of waiting transitions among them. -/
def Shaft.balls (x : Shaft) : Shaft :=
  let y := x.trans.foldl (fun y e => y.level e.1 e.2.1) x
  { lvA := y.lvA, lvB := y.lvB, lvZ := y.lvZ }

/-- The levels of the balls outlast a reset, which does not move them. -/
def State.keptBalls (s : State) : Tab Shaft := (List.range 8).foldl (fun t n => t.set (fun _ => {}) n (s.shaft n).balls) {}

/-- A command that moves the angle of a running shaft; REV_SET is a register write. -/
def ShaftCmd.isWrite : ShaftCmd → Bool
  | .rev _ => true
  | .refNow _ | .clrRef | .align => false

/-- A disabled shaft captures no more, what waited leaves only its levels, and commands that no tick has taken are over (R240). -/
def shaftDisable (n : Nat) (s : State) : State :=
  let b := B.shaft n
  let s1 := (learnStop n s).setFld b SHAFT.STAT_VALID 0
  let s2 := s1.setFld b SHAFT.STAT_REFERENCED 0
  let x := s2.shaft n
  let y := x.balls
  s2.setShaft n { x with lvA := y.lvA, lvB := y.lvB, lvZ := y.lvZ, cmds := x.cmds.filter (·.isWrite), trans := [], meas := none, lastAB := none, lastFwd := none, ssi := none, ssiStep := 0, nMeas := 0 }

/-- The filter time in T64 units: FILT × 2.5 ns (R210). -/
def State.filtTime (s : State) (n : Nat) : Nat := 40 * s.fld (B.shaft n) SHAFT.CFG_FILT

/-- Steps 1 to 6 of one shaft: the transitions that the filter has accepted by then are decoded. Capture stops at the first tick after EN is cleared (R240). -/
def shaftFront (n : Nat) (tau : Int) (t : W64) (dup : Bool) (s : State) : State :=
  let x := s.shaft n
  let s1 := x.cmds.foldl (fun a c => shaftCmd n c a)
    (s.setShaft n { x with step := x.ssiStep, ssiStep := 0, cmds := x.cmds.filter (· == .align) })
  let en := s1.pgEnabled (0x200 + n) && s1.pgEn (0x200 + n)
  let y := s1.shaft n
  let ripe := fun (e : EncBall × Bool × W64) => decide ((s1.filtTime n : Int) ≤ diff64 t e.2.2)
  let s2 := s1.setShaft n { y with trans := y.trans.filter (fun e => !ripe e) }
  let s3 := if en then observe n tau t (if s2.shaftSsi n then s2 else decode n (y.trans.filter ripe) s2)
    else if s1.pgEnabled (0x200 + n) then shaftDisable n s1 else s1
  ctFlags n (if dup ∧ en then copiesDiffer n s3 else s3)

/-- A velocity in units of 2^-16 turn/s, rounded up (R237). -/
def speedUp (w : Int) : Nat := (w.natAbs + (2 ^ 56 - 1)) / 2 ^ 56

/-- The A64 difference of a pair. -/
def State.pairDiff (s : State) (p : Nat) : W64 :=
  BitVec.ofNat 64 ((s.shaft (2 * p)).theta.toNat / 2 ^ 32) - BitVec.ofNat 64 ((s.shaft (2 * p + 1)).theta.toNat / 2 ^ 32)

/-- Step 7 of pair `p`: ALIGN, the comparison and the safe speed (R235-R237). A primary whose page is disabled sends no safe speed
(R428), and its comparison fails since its VALID is 0. -/
def pairStep (p : Nat) (t : W64) (s : State) : State :=
  let n := 2 * p
  let b := B.shaft n
  let x := s.shaft n
  let s1 := if x.cmds.contains .align then
      (s.setShaft n { x with cmds := [] }).wr64 (b + SHAFT.SAFE_OFS_LO.off) (s.pairDiff p)
    else s
  let y := s1.shaft n
  if ¬ s1.flag b SHAFT.SAFE_CTL_PAIR_EN then
    s1.setShaft n { y with absent := min 2 (y.absent + 1), failing := false, raised := false, okAt := none }
  else
    let z := s1.shaft (n + 1)
    let spd := min (max (speedUp y.omega) (speedUp z.omega)) (2 ^ 32 - 1)
    let dth := (s1.pairDiff p - s1.rd64 (b + SHAFT.SAFE_OFS_LO.off)).toInt
    let fail := !s1.flag b SHAFT.STAT_VALID || !s1.flag (B.shaft (n + 1)) SHAFT.STAT_VALID
      || decide (s1.fld b SHAFT.SAFE_ANG_TOL < dth.natAbs)
      || decide (s1.fld b SHAFT.SAFE_SPD_TOL * 2 ^ 56 < (y.omega - z.omega).natAbs)
    let en := s1.pgEnabled (0x200 + n)
    let gone := if en then 0 else min 2 (y.absent + 1)
    let s2 := if en then s1.setFld b SHAFT.SAFE_SPEED spd else s1
    if fail then s2.setShaft n { y with absent := gone, failing := true, okAt := none }
    else
      let since := y.okAt.getD t
      let s3 := s2.setShaft n { y with absent := gone, failing := false, raised := false, okAt := some since }
      if (s3.fld b SHAFT.SAFE_CTL_DISC_TIME * 16000 : Int) ≤ diff64 t since then s3.setFld b SHAFT.STAT_PAIR_OK 1 else s3

/-- The latest published safe speed of a pair; none when absent for 2 ticks (R428), as it is once the root clock, and with it every tick, is
lost (DEDUCED, log entry 113). -/
def State.safeSpeed (s : State) (p : Nat) : Option Nat :=
  if s.dev.rootLost ∨ 2 ≤ (s.shaft (2 * p)).absent then none else some (s.fld (B.shaft (2 * p)) SHAFT.SAFE_SPEED)

/-- θ̂ as the last snapshot published it. -/
def State.published (s : State) (n : Nat) : BitVec 96 :=
  s.rd64 (B.shaft n + SHAFT.SNAP_A_LO.off) ++ s.rd (B.shaft n + SHAFT.SNAP_A_EXT.off)

/-- Step 8: the angle steps of the tick (R239): every change of θ̂ since the last snapshot counts. -/
def angleSteps (n : Nat) (s : State) : State :=
  let b := B.shaft n
  let x := s.shaft n
  let old := s.published n
  let sh := s.fld b SHAFT.STEP_CTL_SHIFT
  let est : Int := sgn96 (((x.theta.toNat / 2 ^ (32 + sh) : Nat) - (old.toNat / 2 ^ (32 + sh) : Nat) : Int) * 2 ^ (32 + sh)) / 2 ^ (32 + sh)
  let c := if s.flag b SHAFT.STEP_CTL_SRC then est else x.step
  let s1 := s.setShaft n { x with step := clampInt (-15) 15 c }
  if c < -15 ∨ 15 < c then (s1.shaftFault n 0).shaftIrq n 2 else s1

/-- The keys of a snapshot group. -/
def snapKeys (n : Nat) : List Nat := (List.range 10).map (fun i => B.shaft n + 0x088 + 4 * i)

/-- Takes a snapshot of RS registers whose values stand in the register store (R470). -/
def State.takeSnap (s : State) (keys : List Nat) : State :=
  { s with snaps := keys.foldl (fun t k => t.ins k (s.rd k)) s.snaps }

/-- Step 9: the snapshot (R227). -/
def publish (n : Nat) (t : W64) (s : State) : State :=
  let b := B.shaft n
  let x := s.shaft n
  let v := clampInt s64lo s64hi (rne x.omega (2 ^ 32))
  let c := clampInt s64lo s64hi (rne x.acc (2 ^ 32))
  let s1 := (s.wr64 (b + SHAFT.SNAP_T_LO.off) t).wr (b + SHAFT.SNAP_A_EXT.off) (x.theta.extractLsb' 0 32)
  let s2 := (s1.wr64 (b + SHAFT.SNAP_A_LO.off) (x.theta.extractLsb' 32 64)).wr64 (b + SHAFT.SNAP_V_LO.off) (i64 v)
  let s3 := (s2.wr64 (b + SHAFT.SNAP_C_LO.off) (i64 c)).setFld b SHAFT.SNAP_FLAGS (bf (s.rd (b + SHAFT.STAT.off)) 0 11)
  (s3.setFld b SHAFT.COUNT (x.k % s.cpr n))

/-- One tick: device time advances and every shaft takes the steps of R224 (R19, R375). -/
def shaftTick (dup : List (Fin 8)) (s : State) : State :=
  let adj : Int := (s.rd (B.net + NET.PTP_ADJ.off)).toInt
  let sum : Int := (s.tickFrac.toNat : Int) + adj
  let t := s.now + BitVec.ofInt 64 (160 + sum / 2 ^ 32)
  let tau := tickTau adj
  let s0 := { s with now := t, tickFrac := BitVec.ofInt 32 sum }
  let ns := List.range 8
  let s1 := ns.foldl (fun a n => shaftFront n tau t (dup.any (·.val == n)) a) s0
  let s2 := (List.range 4).foldl (fun a p => pairStep p t a) s1
  let s3 := ns.foldl (fun a n => if a.pgEnabled (0x200 + n) then angleSteps n a else a) s2
  let s4 := ns.foldl (fun a n => publish n t a) s3
  let s5 := ns.foldl (fun a n => if s4.snapAll.getLsbD n then a.takeSnap (snapKeys n) else a) s4
  { s5 with snapAll := 0 }

/-! ### Events from the balls -/

/-- The latest transition of a ball that waits at its shaft. -/
def Shaft.waiting (x : Shaft) (ball : EncBall) : Option W64 := ((x.trans.filter (fun y => y.1 == ball)).getLast?).map (fun y => y.2.2)

/-- Whether the ball leaves a level before the filter has accepted it (R210). -/
def State.glitch (s : State) (n : Nat) (ball : EncBall) (ts : W64) : Bool :=
  match (s.shaft n).waiting ball with
  | some t => decide (diff64 ts t < s.filtTime n)
  | none => false

/-- A transition at a ball waits for the tick in which the filter has accepted it (R210, R224). One that comes within the filter time of
the ball's last waiting one ends a glitch: neither is accepted. On a shaft that captures nothing, gated ones among them, only the level is followed. -/
def encTransition (n : Nat) (ball : EncBall) (lvl : Bool) (ts : W64) (s : State) : State :=
  let x := s.shaft n
  if s.gated ∨ ¬ s.pgEnabled (0x200 + n) ∨ s.shaftSsi n then s.setShaft n (x.level ball lvl)
  else if s.glitch n ball ts then
    s.setShaft n { x with trans := x.trans.filter (fun y => !(y.1 == ball && some y.2.2 == x.waiting ball)) }
  else s.setShaft n { x with trans := insTrans (ball, lvl, ts) x.trans }

/-- Standstill (R225). -/
def standstill (n : Nat) (s : State) : State :=
  let b := B.shaft n
  if s.pgEnabled (0x200 + n) ∧ s.flag b SHAFT.STAT_VALID ∧ ¬ s.flag b SHAFT.STAT_STILL then
    let x := s.shaft n
    ((s.setShaft n { x with theta := theta96 (s.lineAngle n x.line), omega := 0, acc := 0 }).setFld b SHAFT.STAT_STILL 1).shaftIrq n 3
  else s

/-- A failure has lasted DISC_TIME (R236). -/
def safeSpeedDisc (p : Nat) (s : State) : State :=
  let n := 2 * p
  let x := s.shaft n
  if x.failing ∧ ¬ x.raised then
    (((s.setShaft n { x with raised := true }).setFld (B.shaft n) SHAFT.STAT_PAIR_OK 0).shaftFault n 4).shaftIrq n 6
  else s

/-- The Gray-coded value of `k` bits. -/
def grayDecode : Nat → Nat → Nat
  | 0, x => x
  | k + 1, x => grayDecode k (x ^^^ (x / 2 ^ (2 ^ k)))

/-- A received SSI frame (R215-R217): `ts` is the first falling clock edge. -/
def ssiFrame (n : Nat) (dataHigh : Bool) (frame : BitVec 40) (ts : W64) (s : State) : State :=
  let b := B.shaft n
  if ¬ s.pgEnabled (0x200 + n) ∨ ¬ s.pgEn (0x200 + n) ∨ ¬ s.shaftSsi n then s
  else if ¬ dataHigh then (s.shaftFault n 2).shaftIrq n 7
  else
    let x := s.shaft n
    let cpr := s.cpr n
    let raw := nbits (bf frame 0 (s.fld b SHAFT.SSI_CFG_BITS)) (s.fld b SHAFT.SSI_CFG_ST_LSB) (s.fld b SHAFT.SSI_CFG_ST_BITS)
    let p := if s.flag b SHAFT.SSI_CFG_GRAY then grayDecode 5 raw else raw
    let up := match x.ssi with | some q => (p + cpr - q) % cpr | none => 0
    let d : Int := if cpr / 2 < up then (up : Int) - cpr else up
    let y := { x with ssi := some p }
    if cpr < 4 * d.natAbs then ((s.setShaft n y).shaftFault n 2).shaftIrq n 7
    else
      let te := ts + BitVec.ofNat 64 (s.rd (b + SHAFT.SSI_LATCH.off)).toNat
      let wrap : Int := match x.ssi with
        | some q => if 0 ≤ d ∧ p < q then 1 else if d < 0 ∧ q < p then -1 else 0
        | none => 0
      let rev := BitVec.ofInt 32 ((x.rev.toNat : Int) + wrap)
      let z := { y with rev := rev, k := p, ssiStep := y.ssiStep + d, meas := some (rev.toNat * cpr + p, te, decide (d < 0)) }
      ((s.setShaft n z).incWrap b SHAFT.EDGE_CNT).setFld b SHAFT.STAT_REFERENCED 1

/-! ### Register writes (R231, R233, R235, R238, R240, R243, R244) -/

/-- Whether a queue is ARMED, RUNNING or DRAINING (R238). -/
def State.queueActive (s : State) : Bool :=
  s.qnums.any (fun q => inRange 1 3 (s.qst q))

/-- R238's BUSY conditions. -/
def State.masterInUse (s : State) : Bool := s.pgEnabled 0x220 || s.queueActive

def State.masterBusy (s : State) (n : Nat) : Bool := s.fld B.angle ANGLE.MASTER % 8 == n && s.masterInUse

/-- HOLDING or HELD (R479). -/
def State.holding (s : State) (p : Nat) : Bool := s.pgEn p && s.flag (page p) PG.CTL_QUIESCE

/-- DRAINING (R479): EN is 0 and accepted work still runs. -/
def State.draining (s : State) (p : Nat) : Bool := !s.pgEn p && s.pgEnabled p

/-- The page takes no new work: it holds, is held, or drains (R477, R478). -/
def State.shut (s : State) (p : Nat) : Bool := s.holding p || s.draining p

def outside (lo hi v : Nat) : List Code := refuseIf (!inRange lo hi v) .range

/-- SSI PERIOD covers (BITS + 1) clock periods and PAUSE (R244). -/
def ssiFits (bits div pause period : Nat) : Bool := decide ((bits + 1) * (div + 1) * 128 + pause * 10000 ≤ period * 10000)

def shaftCmdCodes (n op : Nat) (s : State) : List Code :=
  let b := B.shaft n
  let busy := refuseIf (s.shut (0x200 + n)) .busy
  match op with
  | 1 => busy ++ refuseIf (decide (s.cpr n ≤ s.fld b SHAFT.CMD_ARG % 2 ^ 24)) .range ++ refuseIf (s.shaftSsi n) .state
      ++ refuseIf (s.masterBusy n) .busy
  | 2 => busy ++ refuseIf (s.masterBusy n) .busy
  | 3 =>
    let ready (m : Nat) : Bool :=
      s.flag (B.shaft m) SHAFT.STAT_VALID && s.flag (B.shaft m) SHAFT.STAT_SETTLED && s.flag (B.shaft m) SHAFT.STAT_REFERENCED
    busy ++ (if n % 2 = 1 then [.absent] else refuseIf (s.mode != mCalico || !ready n || !ready (n + 1)) .state)
  | 4 => busy ++ refuseIf (decide (s.cpr n < 4096)) .range ++ refuseIf (!s.flag b SHAFT.STAT_REFERENCED) .state
      ++ refuseIf (s.shaft n).learn.isSome .busy
  | 5 => busy
  | _ => .range :: busy

def shaftCmdDo (n op : Nat) (s : State) : State :=
  let b := B.shaft n
  let x := s.shaft n
  match op with
  | 1 => s.setShaft n { x with cmds := x.cmds ++ [.refNow (s.fld b SHAFT.CMD_ARG % 2 ^ 24)] }
  | 2 => s.setShaft n { x with cmds := x.cmds ++ [.clrRef] }
  | 3 => s.setShaft n { x with cmds := x.cmds ++ [.align] }
  | 4 => (s.setShaft n { x with learn := some {} }).setFld b SHAFT.STAT_LEARNING 1
  | _ => learnStop n s

/-- Refusals of a write of a shaft page at offset `o`. -/
def shaftCodes (n o v : Nat) (s : State) : List Code :=
  let b := B.shaft n
  let en := refuseIf (s.pgEnabled (0x200 + n)) .state
  let odd := n % 2 == 1
  let safe (r : List Code) : List Code := if odd then [.absent] else refuseIf (s.mode != mCalico) .state ++ r
  match o with
  | 0x040 => en ++ refuseIf (decide (2 ≤ nbits v 0 2)) .range
  | 0x044 => en ++ refuseIf (decide (v < 16)) .range
  | 0x048 => en ++ refuseIf (decide (s.fld b SHAFT.CPR_VALUE ≤ v)) .range
  | 0x050 => refuseIf (nbits v 8 8 == 0) .range
  | 0x054 =>
    let bits := nbits v 0 6
    let st := nbits v 16 5
    en ++ outside 8 40 bits ++ outside 8 28 st ++ refuseIf (decide (bits < nbits v 8 6 + st)) .range
      ++ refuseIf (!ssiFits bits (s.fld b SHAFT.SSI_TIME_DIV) (s.fld b SHAFT.SSI_TIME_PAUSE) (s.fld b SHAFT.SSI_PERIOD)) .range
  | 0x058 =>
    en ++ outside 7 780 (nbits v 0 10) ++ refuseIf (nbits v 16 8 == 0) .range
      ++ refuseIf (!ssiFits (s.fld b SHAFT.SSI_CFG_BITS) (nbits v 0 10) (nbits v 16 8) (s.fld b SHAFT.SSI_PERIOD)) .range
  | 0x05C => en ++ refuseIf (!ssiFits (s.fld b SHAFT.SSI_CFG_BITS) (s.fld b SHAFT.SSI_TIME_DIV) (s.fld b SHAFT.SSI_TIME_PAUSE) v) .range
  | 0x060 => en
  | 0x064 => shaftCmdCodes n (nbits v 0 4) s
  | 0x070 =>
    let other := refuseIf (decide (2 ≤ nbits v 0 2)) .range ++ outside 4 12 (nbits v 4 4) ++ outside 6 15 (nbits v 8 4)
      ++ refuseIf (s.shaft n).learn.isSome .busy
    other ++ (if other.isEmpty ∧ nbits v 0 2 = 1 then
      refuseIf (ctCrc (s.shaft n).ct != s.rd (b + SHAFT.CT_CRC_EXP.off)) .integrity else [])
  | 0x078 => refuseIf (s.fld b SHAFT.CT_CTL_MODE == 1 || (s.shaft n).learn.isSome) .state
  | 0x0C0 => refuseIf (s.shut (0x200 + n) || s.masterBusy n) .busy
  | 0x0C4 => safe (refuseIf (nbits v 16 16 == 0) .range)
  | 0x0C8 => safe (outside 1 0x80000000 v)
  | 0x0CC => safe (refuseIf (v == 0) .range)
  | 0x0D0 => safe []
  | 0x0D4 => safe []
  | 0x0D8 => if odd then [.absent] else []
  | _ => []

/-- The level of SHs_CK between frames: it idles high in SSI and is driven low in quadrature (R209, R215). -/
def State.shaftCk (s : State) (n : Nat) : Bool := s.shaftSsi n

/-- A change of SHs_CK's level leaves the device. -/
def ckMoves (n : Nat) (was : Bool) (s : State) : State := if s.shaftCk n = was then s else s.emit (.shaftCk n (s.shaftCk n))

/-- The effect of an admitted write of a shaft page. -/
def shaftDo (n o v : Nat) (s : State) : State :=
  let b := B.shaft n
  let x := s.shaft n
  let w : W32 := BitVec.ofNat 32 v
  match o with
  | 0x040 => ckMoves n (s.shaftCk n) (s.wr (b + o) w)
  | 0x064 => shaftCmdDo n (nbits v 0 4) s
  | 0x070 =>
    let s1 := if nbits v 0 2 = 1 then s.wr (b + SHAFT.CT_CRC.off) (ctCrc x.ct) else s
    ctFlags n (s1.wr (b + o) w)
  | 0x078 =>
    let i := s.fld b SHAFT.CT_IDX % 4096
    (s.setShaft n { x with ct := x.ct.set (fun _ => 0) i w }).setFld b SHAFT.CT_IDX ((i + 1) % 4096)
  | 0x0C0 => s.setShaft n { x with cmds := x.cmds ++ [.rev v] }
  | _ => s.wr (b + o) w

/-- What a refused APPLY still leaves: the computed CRC (R231). -/
def shaftRefused (n o v : Nat) (code : Code) (s : State) : State :=
  if o = 0x070 ∧ nbits v 0 2 = 1 ∧ code = .integrity then s.wr (B.shaft n + SHAFT.CT_CRC.off) (ctCrc (s.shaft n).ct) else s

/-- A read of CT_DATA: the entry, then the index moves on (R231). -/
def ctDataRead (n : Nat) (s : State) : W32 × State :=
  let b := B.shaft n
  let i := s.fld b SHAFT.CT_IDX % 4096
  ((s.shaft n).ct.get (fun _ => 0) i, s.setFld b SHAFT.CT_IDX ((i + 1) % 4096))

/-- Page 0x208. -/
def angleCodes (o v : Nat) (s : State) : List Code :=
  match o with
  | 0x040 => refuseIf (!s.pgEnabled (0x200 + v % 8)) .state ++ refuseIf s.masterInUse .busy
  | 0x048 => refuseIf ((List.range 8).any (fun n => nbit v n && !s.pgEnabled (0x200 + n))) .absent
  | _ => []

def angleDo (o v : Nat) (s : State) : State :=
  match o with
  | 0x048 => { s with snapAll := s.snapAll ||| BitVec.ofNat 8 v }
  | _ => s.wr (B.angle + o) (BitVec.ofNat 32 v)

end Sys2Proof.Machine
end

