-- ==== Sys2Proof/Machine/Smiari.lean ====
section
/-! DEFINITION. Smiari programs: the load check with its worst-case cost, and a run (R134-R139). -/
namespace Sys2Proof.Machine

/-- A host: its HOST number, cycle budget, and whether it defines segment 3 (read only) and segment 4 (read and write). -/
structure SmHost where
  num    : Nat
  budget : Nat
  seg3   : Bool
  seg4   : Bool
deriving DecidableEq, Repr

/-- The four hosts (R269, R275, R335, R381). -/
def smEngine : SmHost := ⟨1, 32, false, false⟩
def smSeq : SmHost := ⟨2, 64, true, true⟩
def smRing : SmHost := ⟨3, 24, true, true⟩
def smNet : SmHost := ⟨4, 48, true, false⟩

/-- Whether a field that must be 0 is set in a word (R110, R112, R114, R116-R119, R121, R126, R130, R133, R287). Bit [6] of an exact CP0
operation, which R285 requires to be 0, makes the word an excluded one, RANGE, as it makes it an illegal opcode of a core (DEDUCED, log entry 122). -/
def smReserved (w : W32) : Bool :=
  match bf w 22 6 with
  | 0x01 => decide (0x10 ≤ bf w 0 6) && decide (bf w 0 6 ≤ 0x17) && fRb w != 0
  | 0x07 => fRd w != 0
  | 0x0C => decide (fFn w ≤ 1) && fRd w != 0
  | 0x0D => bf w 9 3 != 0 || (nbit w.toNat 8 && fRd w != 0)
  | 0x0E => bf w 4 2 != 0
  | 0x10 => bf w 0 10 != 0
  | 0x1D => bf w 0 2 != 0
  | 0x1E => bf w 0 2 != 0
  | 0x1F => bf w 0 2 != 0
  | 0x22 => fFn w == 2 && (fRa w != 0 || fRb w != 0)
  | 0x23 => fRa w != 0
  | 0x27 => decide (fFn w ≤ 6) && (fRd w != 0 || fRb w != 0 || (fFn w != 4 && fFn w != 5 && fRa w != 0))
  | 0x29 => bf w 16 6 != 0
  | 0x38 => match aauRegs (bf w 0 6) with
    | some (na, nb, _) => (na == 0 && fRa w != 0) || (nb == 0 && fRb w != 0)
    | none => false
  | 0x3A => fFn w == 0 && fRd w != 0
  | _ => false

def SmHost.segOk (h : SmHost) (seg : Nat) : Bool := (seg == 3 && h.seg3) || (seg == 4 && h.seg4)

/-- The cost of an instruction that a program may contain (R135); none: excluded. -/
def smCost (h : SmHost) (d : Dec) : Option Nat :=
  match d.row with
  | .alu | .addi | .andi | .ori | .xori | .shi | .cmpi | .movw | .cmpp | .cmppi | .plogic | .mul | .mulu | .br | .loopi
  | .crc | .endp => some 1
  | .mfs | .mts => if d.fn = 1 ∨ d.fn = 2 ∨ d.fn = 0x11 then some 1 else none
  | .div | .divu | .rem | .remu => some 5
  | .load | .loadx | .loadxu => if h.segOk d.seg then some 2 else none
  | .store | .storex => if h.segOk d.seg then some 1 else none
  | .call | .jmp | .callr | .ret | .loopReg | .atom | .blk | .sync | .syncTlb | .ici | .tlbi | .wait | .tstart | .tstop
  | .eret | .gret | .brk | .gate | .aau | .crypto | .append | .appendS | .qstat | .qspace => none

/-- A program as its words decode. -/
def smDecode : List W32 → Option (List Dec)
  | [] => some []
  | w :: t =>
    match decodeOp w, smDecode t with
    | .ok d, some l => some (d :: l)
    | _, _ => none

/-- The bodies of the LOOPIs: the first and the last word of each. -/
def smBodies (p : List Dec) : List (Nat × Nat) :=
  (p.zipIdx).filterMap (fun x => if x.1.row = .loopi then some (x.2 + 1, x.2 + 1 + x.1.imm.toNat) else none)

def inBody (b : Nat × Nat) (i : Nat) : Bool := decide (b.1 ≤ i) && decide (i ≤ b.2)

/-- The target word of a BR at word `i`. -/
def brTarget (d : Dec) (i : Nat) : Int := (i : Int) + d.imm.toInt / 4

/-- The structural rules of R136. -/
def smStructure (p : List Dec) : Bool :=
  let n := p.length
  let bs := smBodies p
  let last := match p.getLast? with | some d => d.row == .endp | none => false
  last && bs.all (fun b => decide (b.2 + 1 < n)) &&
  p.zipIdx.all (fun x =>
    let d := x.1
    let i := x.2
    match d.row with
    | .br =>
      let t := brTarget d i
      decide ((i : Int) < t) && decide (t < n) &&
        (match bs.find? (fun b => inBody b i) with
         | some b => inBody b t.toNat || t.toNat == b.2 + 1
         | none => !bs.any (fun b => inBody b t.toNat))
    | .loopi => !bs.any (fun b => inBody b i)
    | _ => true)

/-- The tables w and b of R137, from the last word back, as lists for the words from `i` on. -/
def smCosts (h : SmHost) (bs : List (Nat × Nat)) : List Dec → Nat → List Nat × List Nat
  | [], _ => ([], [])
  | d :: t, i =>
    let (w, b) := smCosts h bs t (i + 1)
    let at_ (l : List Nat) (j : Nat) : Nat := l.getD (j - (i + 1)) 0
    let c := (smCost h d).getD 0
    match bs.find? (fun x => inBody x i) with
    | some x =>
      let nxt := if i = x.2 then 0 else at_ b (i + 1)
      let v := if d.row = .br then
          let tg := (brTarget d i).toNat
          max (2 + (if tg = x.2 + 1 then 0 else at_ b tg)) (1 + nxt)
        else c + nxt
      (0 :: w, v :: b)
    | none =>
      let v := match d.row with
        | .endp => 1
        | .loopi => 1 + d.fn * at_ b (i + 1) + at_ w (i + 1 + d.imm.toNat + 1)
        | .br => max (2 + at_ w (brTarget d i).toNat) (1 + at_ w (i + 1))
        | _ => c + at_ w (i + 1)
      (v :: w, 0 :: b)

/-- W of R137. -/
def smWorst (h : SmHost) (p : List Dec) : Nat := (smCosts h (smBodies p) p 0).1.headD 0

/-- The words of a program image of `n` words. -/
def wordsOf (l : List Byte) : Nat → List W32
  | 0 => []
  | n + 1 => BitVec.ofNat 32 (leNat (l.take 4)) :: wordsOf (l.drop 4) n

/-- The check of R138 on the 16-byte header and the words, for the edition the device implements. -/
def smCheck (h : SmHost) (edition : Nat) (hdr : List Byte) (words : List W32) : Code :=
  let f (o n : Nat) : Nat := leNat ((hdr.drop o).take n)
  let rsvd := f 12 4 != 0 || words.any smReserved
  match smDecode words with
  | none => Code.lowest (refuseIf rsvd .rsvdBit ++ [.range] ++ refuseIf (f 4 2 != edition) .edition)
  | some p =>
    let range := f 0 4 != 0x5A4D5301 || f 6 2 != h.num || f 8 2 == 0 || decide (1024 < f 8 2)
      || p.any (fun d => (smCost h d).isNone) || !smStructure p
    Code.lowest (refuseIf rsvd .rsvdBit ++ refuseIf range .range ++ refuseIf (f 4 2 != edition) .edition
      ++ (if range then [] else refuseIf (f 10 2 != smWorst h p) .integrity ++ refuseIf (decide (h.budget < smWorst h p)) .bound))

/-- How many words the header of an image names, at most 1,024. -/
def smWords (hdr : List Byte) : Nat := min (leNat ((hdr.drop 8).take 2)) 1024

/-- A run: the registers as a thread's, the two windows. -/
structure SmRun where
  th   : Thread
  win3 : List Byte
  win4 : List Byte
deriving DecidableEq, Repr

def SmRun.window (r : SmRun) (seg : Nat) : List Byte := if seg = 3 then r.win3 else r.win4

/-- A register file at the start of a run (R139): encoding P, inputs in g1 to g7, every other register 0. -/
def smStart (inputs : List (Nat × W64)) (win3 win4 : List Byte) : SmRun :=
  ⟨inputs.foldl (fun t x => t.setReg x.1 x.2) { sr := 0 }, win3, win4⟩

/-- The offset of a load or store. -/
def smOff (th : Thread) (d : Dec) (x : Bool) : Nat :=
  if x then (th.reg d.ra + (th.reg d.rb <<< d.sz)).toNat else (th.reg d.ra + d.imm).toNat

/-- One executed instruction other than BR, LOOPI and END: none when the run does not complete (R139). -/
def smExec (r : SmRun) (d : Dec) : Option (SmRun × Option Product) :=
  let th := r.th
  let a := th.reg d.ra
  let b := th.reg d.rb
  let put (v : W64) : Option (SmRun × Option Product) := some ({ r with th := th.setReg d.rd v }, none)
  let alu (f : Nat) (y : W64) (fl : Bool) : Option (SmRun × Option Product) :=
    let t1 := th.setReg d.rd (aluRes f a y th.flags.c)
    some ({ r with th := if fl then t1.setFlags (aluFlags f a y th.flags) else t1 }, none)
  let div (s m : Bool) : Option (SmRun × Option Product) := if b = 0 then none else put (divRes s m a b)
  let cmp (y : W64) : Option (SmRun × Option Product) :=
    let v := relation d.fn a y
    some ({ r with th := (th.setPred d.rd v).setPred d.sz (!v) }, none)
  let ld (x sgn : Bool) : Option (SmRun × Option Product) :=
    let w := r.window d.seg
    let o := smOff th d x
    let n := 2 ^ d.sz
    if o + n ≤ w.length then
      let v := leNat ((w.drop o).take n)
      put (if sgn then i64 (sextNat (8 * n) v) else BitVec.ofNat 64 v)
    else none
  let st (x : Bool) : Option (SmRun × Option Product) :=
    let o := smOff th d x
    let n := 2 ^ d.sz
    if d.seg = 4 ∧ o + n ≤ r.win4.length then
      some ({ r with win4 := r.win4.take o ++ leBytes n (th.reg d.rd).toNat ++ r.win4.drop (o + n) }, none)
    else none
  match d.row with
  | .alu => alu d.fn b d.b
  | .addi => alu 0x00 d.imm false
  | .andi => alu 0x04 d.imm false
  | .ori => alu 0x05 d.imm false
  | .xori => alu 0x06 d.imm false
  | .shi => alu d.fn d.imm d.b
  | .cmpi => some ({ r with th := th.setFlags (aluFlags 0x01 a d.imm th.flags) }, none)
  | .movw => put (movwRes d.fn d.b d.imm (th.reg d.rd))
  | .mul => some (r, some (mulRes true a b))
  | .mulu => some (r, some (mulRes false a b))
  | .div => div true false
  | .divu => div false false
  | .rem => div true true
  | .remu => div false true
  | .mfs => put (if d.fn = 1 then th.pl else if d.fn = 2 then th.ph else BitVec.ofNat 64 (setBits th.p.toNat 0 1 1))
  | .mts => some ({ r with th := th.setSreg d.fn a }, none)
  | .cmpp => cmp b
  | .cmppi => cmp d.imm
  | .plogic => some ({ r with th := th.setPred d.rd (plogic d.fn (th.pred d.ra) (th.pred d.rb)) }, none)
  | .load => ld false d.b
  | .loadx => ld true true
  | .loadxu => ld true false
  | .store => st false
  | .storex => st true
  | .crc => put (crcBytes d.fn (th.reg d.rd) (leBytes 8 a.toNat))
  | _ => none

/-- The loop step after a word that no taken branch left: the pc is a word index. -/
def smNext (r : SmRun) (pc : Nat) : SmRun × Nat :=
  if r.th.la ∧ pc = r.th.le.toNat then
    if 1 < r.th.lc.toNat then ({ r with th := { r.th with lc := r.th.lc - 1 } }, r.th.ls.toNat)
    else ({ r with th := { (r.th.setSr 8 1 0) with lc := 0 } }, pc + 1)
  else (r, pc + 1)

/-- Runs a program: some run at END, none when it does not complete. The check bounds the run by the budget. -/
def smRun (p : List W32) : Nat → Nat → SmRun → Option SmRun
  | 0, _, _ => none
  | k + 1, pc, r =>
    match p[pc]? with
    | none => none
    | some w =>
      match decodeOp w with
      | .illegal => none
      | .absent => none
      | .ok d =>
        let skip : Option SmRun :=
          let (r1, pc1) := smNext { r with th := r.th.shiftProducts none } pc
          smRun p k pc1 r1
        if ¬ r.th.executes w then skip
        else match d.row with
          | .endp => some r
          | .br => smRun p k (brTarget d pc).toNat { r with th := r.th.shiftProducts none }
          | .loopi =>
            let ls := pc + 1
            let le := ls + d.imm.toNat
            let th := { (r.th.shiftProducts none) with
              ls := BitVec.ofNat 64 ls, le := BitVec.ofNat 64 le, lc := BitVec.ofNat 64 d.fn }
            if d.fn = 0 then smRun p k (le + 1) { r with th := th.setSr 8 1 0 }
            else smRun p k ls { r with th := th.setSr 8 1 1 }
          | _ =>
            match smExec r d with
            | none => none
            | some (r1, prod) =>
              let (r2, pc1) := smNext { r1 with th := r1.th.shiftProducts prod } pc
              smRun p k pc1 r2

/-- Steps that no run of a checked program exceeds: each costs at least one cycle of its budget, but for the words of a body behind a
LOOPI that does not execute, which run once (R135-R137). -/
def smFuel (p : List W32) : Nat := 80 + p.length

def smGo (p : List W32) (r : SmRun) : Option SmRun := smRun p (smFuel p) 0 r

end Sys2Proof.Machine
end

