-- ==== Sys2Proof/Machine/Trio.lean ====
section
/-! DEFINITION. Lockstep trios: events, disagreement, failover, resync, permanent failure, soft remap, configuration and page
(R46-R79). -/
namespace Sys2Proof.Machine

def cVoted : Nat := 0
def cPair : Nat := 1
def cSplit : Nat := 2

/-! ### Slices of periodic BIST (R445) -/

def unitFld (u : Nat) (f : Fld) : Fld := f.nth 4 u

def State.inTest (s : State) (u : Nat) : Bool := s.flag B.bist (unitFld u BIST.UNIT_IN_TEST)

/-- Periodic lane slices are suspended while a lane is out of service for another reason than a slice (R444). -/
def State.lanesHeld (s : State) : Bool :=
  s.pgEn 0x340 && s.flag B.bist BIST.PER_CTL_LANES
    && !(List.range 4).all (fun l => s.pgEn (0x211 + l) && !s.flag (B.lane l) LANE.LSTAT_FAULTED)

/-- PER_STAT.LANES_SUSPENDED after a change of PER_CTL or of the page's EN; source 529 belongs to a lane that leaves or returns. -/
def lanesShow (s : State) : State := s.setFld B.bist BIST.PER_STAT_LANES_SUSPENDED (b2n s.lanesHeld)

/-- PER_STAT.ACTIVE: a slice runs. When none does, a PER_CTL written meanwhile takes effect, also as the register reads (R464; DESIGN
CHOICE, log entry 112). -/
def activeRefresh (s : State) : State :=
  let run := (List.range 43).any s.inTest
  let s1 := s.setFld B.bist BIST.PER_STAT_ACTIVE (b2n run)
  match s1.dev.perCtl with
  | none => s1
  | some v => if run then s1 else lanesShow ({ s1 with dev := { s1.dev with perCtl := none } }.wr (B.bist + BIST.PER_CTL.off) v)

/-- A slice is aborted (R445). -/
def sliceAbort (u : Nat) (s : State) : State :=
  if s.inTest u then activeRefresh (s.setFld B.bist (unitFld u BIST.UNIT_IN_TEST) 0) else s

/-- Every slice ends as an abort, on cores and lanes. -/
def abortAll (s : State) : State := (List.range 43).foldl (fun a u => sliceAbort u a) s

def abortCores (n : Nat) (s : State) : State := (List.range 3).foldl (fun a c => sliceAbort (3 * n + c) a) s

/-! ### Events (R78) -/

/-- Records an event of a trio and reports it; core 3 for none. -/
def trioEvt (n kind core src : Nat) (s : State) : State :=
  let b := B.trio n
  let s1 := (s.wr64 (b + TRIO.LAST_EVT_LO.off) s.now).wr (b + TRIO.LAST_EVT_INFO.off) (BitVec.ofNat 32 (kind + 256 * core))
  s1.raiseUnit (16 + 12 * n + src) 1 n

def spareFree : Nat := 0
def spareCopying : Nat := 1
def spareInUse : Nat := 2
def spareFused : Nat := 3

def State.spare (s : State) : Nat := s.fld (B.trio 12) TRIO.SPARE_STATE

/-- Whether trio 12 copies a trio now (R70). -/
def State.copying (s : State) (n : Nat) : Bool := s.spare == spareCopying && s.fld (B.trio 12) TRIO.SPARE_SERVES == n

/-- Unrecoverable lockstep loss: the trio releases nothing more, and a remap of it is abandoned (R53, R64, R70). -/
def trioLoses (n : Nat) (s : State) : State :=
  let s1 := s.setTrio n { s.trio n with lost := true }
  let s2 := if s.copying n then (s1.setFld (B.trio 12) TRIO.SPARE_STATE spareFree).setFld (B.trio 12) TRIO.SPARE_SERVES 0xF else s1
  trioEvt n 9 3 6 s2

/-- A failed trio that cannot be taken over (R69). -/
def trioDegrades (n : Nat) (s : State) : State :=
  let b := B.trio n
  trioEvt n 8 3 5 (((s.setFld b TRIO.STAT_DEGRADED 1).setFld b TRIO.STAT_TAINT 1).setFld b TRIO.TAINT_CAUSE_DEGRADED 1)

/-- Whether trio 12 may take over a trio (R68, R446). -/
def State.spareReady (s : State) : Bool := s.spare == spareFree && !s.flag B.bist BIST.SPARE_STAT_FAILED

/-- A trio is declared failed: trio 12 begins to take it over, or it is degraded (R68-R70). -/
def trioFails (n : Nat) (s : State) : State :=
  if s.copying n ∨ s.flag (B.trio n) TRIO.STAT_DEGRADED then s
  else if s.flag (B.trio n) TRIO.CFG_AUTO_REMAP ∧ s.spareReady ∧ n < 12 then
    abortCores 12 ((s.setFld (B.trio 12) TRIO.SPARE_STATE spareCopying).setFld (B.trio 12) TRIO.SPARE_SERVES n)
  else trioDegrades n s

def inSvcFld (c : Nat) : Fld := ⟨0x044, 8 + c, 1⟩

/-- A core leaves the vote. -/
def coreOut (n c : Nat) (s : State) : State := s.setFld (B.trio n) (inSvcFld c) 0

/-- A core is declared permanently failed (R67, R68, R446); `kind`: 4 after its resync, else 5. -/
def coreFails (n c kind : Nat) (s : State) : State :=
  let t := s.trio n
  let s1 := s.setTrio n { t with failed := t.failed ||| BitVec.ofNat 3 (2 ^ c), resync := none }
  trioFails n (trioEvt n kind c 2 (coreOut n c (s1.setFld (B.trio n) TRIO.STAT_RESYNC 0)))

def misFld (c : Nat) : Fld := ⟨0x05C, 8 * c, 8⟩

/-- Times a core was odd within PERM_CTL.WINDOW (R68). -/
def State.oddCount (s : State) (n c : Nat) : Nat :=
  ((s.trio n).odd.filter (fun x => x.1.val == c
    && decide (diff64 s.now x.2 ≤ (s.fld (B.trio n) TRIO.PERM_CTL_WINDOW * 16000000000 : Int)))).length

/-- A voted output disagrees (R52, R53); in a degraded trio that is the loss (R69). No core makes an output in Velvet or in a held Gauze
(R40, R42). -/
def votedOdd (n : Nat) (c : Fin 3) (s : State) : State :=
  let b := B.trio n
  if s.gated ∨ ¬ s.pgEnabled (0x100 + n) ∨ s.conf n ≠ cVoted ∨ (s.trio n).lost ∨ ¬ s.flag b (inSvcFld c.val) then s
  else if s.fld b TRIO.STAT_IN_SVC ≠ 7 ∨ s.flag b TRIO.STAT_DEGRADED then trioLoses n s
  else
    let t := s.trio n
    let s1 := trioEvt n 1 c.val 0 ((s.setTrio n { t with odd := (c, s.now) :: t.odd }).incSat b (misFld c.val))
    if s.fld b TRIO.PERM_CTL_LIMIT ≤ s1.oddCount n c.val then coreFails n c.val 5 s1
    else coreOut n c.val ((s1.setTrio n { s1.trio n with resync := some c }).setFld b TRIO.STAT_RESYNC 1)

/-- A core becomes the third, so that the two others are lead and shadow (R62, R65, R69). -/
def rolesThird (n c : Nat) (s : State) : State :=
  let k := B.trio n + TRIO.ROLES.off
  let r := s.rd k
  let roles (lead shadow third : Nat) : W32 := BitVec.ofNat 32 (lead + 16 * shadow + 256 * third)
  let l := bf r 0 2
  let h := bf r 4 2
  let t := bf r 8 2
  if l = c then s.wr k (roles h t c) else if h = c then s.wr k (roles l t c) else s

/-- Where one core has left agreement, it becomes the standby of a pair (R69, R72). -/
def oddThird (n : Nat) (s : State) : State :=
  match (List.range 3).filter (fun c => !s.flag (B.trio n) (inSvcFld c)) with
  | [c] => rolesThird n c s
  | _ => s

/-- The configuration that a trio keeps to: PAIR also through a voted replay (R48, R62). -/
def State.confEff (s : State) (n : Nat) : Nat := if s.flag (B.trio n) TRIO.STAT_REPLAY then cPair else s.conf n

/-- The translation caches of a trio are empty. -/
def State.clearTlbs (s : State) (n : Nat) : State :=
  [0, 1, 2].foldl (fun a c => { a with fab := { a.fab with tlbs := a.fab.tlbs.set (fun _ => {}) (3 * n + c) {} } }) s

/-- The two voter copies disagree (R68). -/
def voterSplit (n : Nat) (s : State) : State :=
  if s.gated ∨ ¬ s.pgEnabled (0x100 + n) ∨ s.conf n = cSplit ∨ (s.trio n).lost then s else trioFails n (trioEvt n 6 3 3 s)

/-! ### Failover (R62, R64) -/

/-- Applies undo entries, newest first. -/
def undoAll (s : State) (l : List (Nat × List Byte)) : State := l.foldl (fun a u => a.poke u.1 u.2) s

/-- TLBIs of a thread under way. -/
def State.tlbiCount (s : State) (k : Nat) : Nat := (s.fab.tlbi.filter (fun o => s.tkey o.tid == k)).length

/-- The records of a locked trio's threads as they now stand (R57). -/
def State.bankOf (s : State) (n : Nat) : List (Nat × Thread) :=
  (List.range 8).map (fun i => (threadKey n 0 i, { s.thread (threadKey n 0 i) with buf := [] }))

/-- A thread is loaded from its record. A rollback never undoes an invalidation (R189), and a store error not yet taken and a halt stay. -/
def reload (s : State) (x : Nat × Thread) : State :=
  let cur := s.thread x.1
  s.setThread x.1 { x.2 with tlbis := s.tlbiCount x.1, halted := cur.halted, err := cur.err <|> x.2.err }

/-- A pair mismatch (R62, R64): the outputs of the open interval are discarded, but those of a committed one still leave. A failover, or the loss where the active copy of the bank is bad, no standby is left or the trio is being
copied (R70). A signature mismatch leaves the new snapshot in the inactive copy (R56). The interruption is not fixed beyond its bound of
25 µs (R63): a free value (log entry 29). -/
def pairFails (n : Nat) (signature bankBad : Bool) (s : State) : State :=
  let b := B.trio n
  if s.gated ∨ ¬ s.pgEnabled (0x100 + n) ∨ s.conf n ≠ cPair ∨ (s.trio n).lost then s
  else
    let s0 := abortCores n (s.incSat b TRIO.MISMATCH_PAIR)
    let s1 := if signature then s0.setTrio n { s0.trio n with bank2 := s0.bankOf n } else s0
    if bankBad ∨ s.flag b TRIO.STAT_DEGRADED ∨ s.copying n then trioLoses n s1
    else
      let t := s1.trio n
      let s2 := undoAll ((trioEvt n (if signature then 3 else 2) 3 1 s1).setTrio n { t with commit := t.commit.take t.closed, undo := [], lines := [] }) t.undo
      let s4 := (t.bank.foldl reload s2).clearTlbs n
      let r := s4.rd (b + TRIO.ROLES.off)
      let s5 := s4.wr (b + TRIO.ROLES.off) (BitVec.ofNat 32 (bf r 8 2 + 16 * bf r 0 2 + 256 * bf r 4 2))
      let (v, s6) := ((s5.setFld b TRIO.STAT_REPLAY 1).setFld b TRIO.STAT_CONF_NOW cVoted).free
      let s7 := s6.incSat b TRIO.FAILOVER_CNT
      s7.wr (b + TRIO.WORST_OUT.off) (BitVec.ofNat 32 (max (s7.rd (b + TRIO.WORST_OUT.off)).toNat (v.toNat % 25001)))

/-! ### Configuration (R48, R49, R72, R73) -/

/-- The configuration that a mode gives a trio; none where its own CFG decides (R48, R49, R448). `split`: it is split or about to be. -/
def modeConf (mode n : Nat) (split : Bool) : Option Nat :=
  if mode = mTwill then some cPair
  else if mode = mDamask then some cVoted
  else if (mode = mFelt ∨ mode = mGauze) ∧ n = 0 then some cVoted
  else if mode = mCalico ∧ split then some cVoted
  else none

/-- Whether a trio takes part in hand-overs: released and not lost. -/
def State.trioIn (s : State) (n : Nat) : Bool := s.pgEnabled (0x100 + n) && !(s.trio n).lost

/-- Starts a hand-over to a configuration (R72). Where that is in effect, none is needed, and one to another configuration is given up. -/
def handTo (n conf : Nat) (s : State) : State :=
  if s.confEff n = conf then
    if (s.trio n).target = none then s else (s.setTrio n { s.trio n with target := none }).setFld (B.trio n) TRIO.STAT_CHANGING 0
  else abortCores n ((s.setTrio n { s.trio n with target := some conf }).setFld (B.trio n) TRIO.STAT_CHANGING 1)

/-- The identities of the 12 trios that run software, and of trio 12. -/
def trioNums : List Nat := List.range 13

/-- The hand-overs that a transition to a mode starts (R48, R49, R73). -/
def handAll (mode : Nat) (s : State) : State :=
  trioNums.foldl (fun a n =>
    if a.trioIn n then
      match modeConf mode n (a.conf n == cSplit || (a.trio n).target == some cSplit) with
      | some c => handTo n c (a.setFld (B.trio n) TRIO.CFG_CONF c)
      | none => a
    else a) s

/-- A hand-over is in progress somewhere (R73). -/
def State.handing (s : State) : Bool := trioNums.any (fun n => s.trioIn n && s.flag (B.trio n) TRIO.STAT_CHANGING)

/-- A trio in service has its taint flag set (R38, R77). -/
def State.tainted (s : State) : Bool := trioNums.any (fun n => s.trioIn n && s.flag (B.trio n) TRIO.STAT_TAINT)

/-- CFG.CONF values that R48 allows in a mode. -/
def confAllowed (mode n conf now : Nat) : Bool :=
  if mode = mCalico then conf == cVoted || conf == cPair
  else if mode = mTwill then conf == cPair
  else if mode = mDamask then conf == cVoted
  else if mode = mJersey then conf ≤ cSplit
  else if mode = mFelt then (if n = 0 then conf == cVoted else conf == now)
  else conf == now

/-- Refusals of a write of a trio page. -/
def trioCodes (n o v : Nat) (s : State) : List Code :=
  let b := B.trio n
  let used := refuseIf (n == 12 && s.spare == spareInUse) .state
  match o with
  | 0x040 =>
    used ++ refuseIf (nbits v 0 2 == 3) .range ++ refuseIf (!inRange 5 20 (nbits v 8 5)) .range
      ++ refuseIf (!confAllowed s.mode n (nbits v 0 2) (s.fld b TRIO.CFG_CONF)) .state
      ++ refuseIf (s.flag b TRIO.STAT_CHANGING) .busy
      ++ (if n = 12 then (if s.spare = spareFused then [.absent] else [.state]) else [])
  | 0x04C => used ++ refuseIf (nbits v 0 8 == 0) .range ++ refuseIf (nbits v 16 16 == 0) .range
  | _ => used

/-- The effect of an admitted write of a trio page (R48, R72). -/
def trioDo (n o v : Nat) (s : State) : State :=
  let s1 := s.wr (B.trio n + o) (BitVec.ofNat 32 v)
  if o = 0x040 ∧ s.trioIn n ∧ s.mode ≠ mTwill ∧ s.mode ≠ mDamask ∧ s.confEff n ≠ nbits v 0 2 then handTo n (nbits v 0 2) s1 else s1

/-! ### Release and stop (R79, R83) -/

/-- The keys of every thread of a trio. -/
def trioKeys (n : Nat) : List Nat := (List.range 24).map (fun i => threadKey n (i / 8) (i % 8))

/-- What the reset of a trio clears: buffers, caches, resync, replay, hand-over and a slice of a core; every core that is not declared failed is in service. -/
def trioReset (n : Nat) (s : State) : State :=
  let t := s.trio n
  let s1 := ((abortCores n s).setTrio n { t with commit := [], closed := 0, undo := [], target := none, lines := [], resync := none }).clearTlbs n
  ((((s1.setFld (B.trio n) TRIO.STAT_CHANGING 0).setFld (B.trio n) TRIO.STAT_REPLAY 0).setFld (B.trio n) TRIO.STAT_RESYNC 0).setFld
    (B.trio n) TRIO.STAT_IN_SVC (7 - t.failed.toNat))

/-- A trio is released in the configuration that the mode gives it: a CFG.CONF of another mode is replaced (R48). Thread 0 of each core starts
at the first word of its local instruction SRAM (R79, R83). -/
def trioOn (n : Nat) (s : State) : State :=
  let cfg := s.fld (B.trio n) TRIO.CFG_CONF
  let conf := (modeConf s.mode n (cfg == cSplit)).getD cfg
  let th : Thread := { st := .running, pc := BitVec.ofNat 64 (windowBase n) }
  let s1 := (trioKeys n).foldl (fun a k => a.setThread k {}) s
  let s2 := (if conf = cSplit then [0, 1, 2] else [0]).foldl (fun a c => a.setThread (threadKey n c 0) th) s1
  let s3 := s2.setTrio n { s2.trio n with bank := s2.bankOf n, ckptAt := s2.now }
  trioReset n ((s3.setFld (B.trio n) TRIO.STAT_CONF_NOW conf).setFld (B.trio n) TRIO.CFG_CONF conf)

/-- A trio's threads stop issuing at their next boundaries (R79). -/
def trioStops (n : Nat) (s : State) : State := (trioKeys n).foldl (fun a k => a.setThread k (a.thread k).stopAtBoundary) s

end Sys2Proof.Machine
end

