-- ==== Sys2Proof/Machine/Queue.lean ====
section
/-! DEFINITION. Queues, dispatch lanes, retime groups, cancels, marks and notifications (R246-R270, R277-R281, R300, R301). -/
namespace Sys2Proof.Machine

def qIdle : Nat := 0
def qArmed : Nat := 1
def qRunning : Nat := 2
def qDraining : Nat := 3
def qHalted : Nat := 4
def qFault : Nat := 5

def State.queue (s : State) (q : Nat) : Queue := s.eng.queues.get (fun _ => {}) q

def State.setQueue (s : State) (q : Nat) (x : Queue) : State :=
  { s with eng := { s.eng with queues := s.eng.queues.set (fun _ => {}) q x } }

/-- Keeps COUNT and INFLIGHT with the entries. -/
def State.putQueue (s : State) (q : Nat) (x : Queue) : State :=
  ((s.setQueue q x).setFld (B.qd q) QD.QSTATE_COUNT x.ents.length).setFld (B.qd q) QD.QSTATE_INFLIGHT
    (x.ents.countP (fun e => e.fly.isSome))

/-- The first undispatched entry. -/
def Queue.head (x : Queue) : Option QEnt := x.ents.find? (fun e => e.fly.isNone)

/-- The entries of a queue replaced. The pending check belongs to the first undispatched entry (R258): where that entry changes, a new
check is due at once, and the entry has not been counted late. -/
def State.putEnts (s : State) (q : Nat) (ents : List QEnt) : State :=
  let x := s.queue q
  let y := { x with ents := ents }
  if y.head.map (·.slot) = x.head.map (·.slot) then s.putQueue q y
  else (s.putQueue q { y with counted := false, due := s.now }).setFld (B.qd q) QD.QSTATE_PARKED 0

/-- Entries that the region holds. -/
def State.qCap (s : State) (q : Nat) : Nat := 8 * s.fld (B.qd q) QD.QREGION_NBLK

def State.qShaft (s : State) (q : Nat) : Nat := s.fld (B.qd q) QD.QCTL_SHAFT

/-- RUNNING or DRAINING. -/
def State.qLive (s : State) (q : Nat) : Bool := s.qst q == qRunning || s.qst q == qDraining

/-- NOTICE and CHECK_MIN, in T64 units (R258). -/
def notice : Int := 160000
def checkMin : Int := 16000

/-- The fields of ACTION and FLAGS (R251). -/
def entAct (e : RawEntry) : Nat := bf e.action 0 4
def entSlot (e : RawEntry) : Nat := bf e.action 8 6
def entNoRetime (e : RawEntry) : Bool := e.flags.getLsbD 1
def actCall : Nat := 4
def actMark : Nat := 5

/-! ### Lanes (R267, R268, R281) -/

def State.laneIn (s : State) (l : Nat) : Bool := s.flag (B.lane l) LANE.LSTAT_IN_SVC

/-- The lane that serves a bank. -/
def State.serving (s : State) (b : Nat) : Option Nat := ([b, b + 1, b + 2, b + 3].map (· % 4)).find? s.laneIn

/-- A queue RUNNING or DRAINING, or the sequencer RUNNING. -/
def State.engineWork (s : State) : Bool := s.qnums.any s.qLive || s.fld B.seq SEQ.STAT_STATE == 2

/-- Fewer than two lanes in service with work running raises its event once (R268). -/
def fewCheck (s : State) : State :=
  let bad := decide (((List.range 4).filter s.laneIn).length < 2) && s.engineWork
  let s1 := { s with eng := { s.eng with few := bad } }
  if bad ∧ ¬ s.eng.few then s1.raise 229 else s1

/-- Lane slices are suspended or resumed as a lane leaves service or returns (R444). -/
def lanesTestRefresh (s : State) : State :=
  if s.lanesHeld = s.flag B.bist BIST.PER_STAT_LANES_SUSPENDED then s else (lanesShow s).irq 529

/-- Recomputes which lanes are in service and the banks they serve, with the events of a change (R278, R279). -/
def lanesRefresh (s : State) : State :=
  let up (l : Nat) : Bool :=
    s.pgEn (0x211 + l) && !s.flag (B.lane l) LANE.LSTAT_IN_TEST && !s.flag (B.lane l) LANE.LSTAT_FAULTED
  let s1 := (List.range 4).foldl (fun a l =>
    if up l = s.laneIn l then a
    else
      let b := (a.setFld (B.lane l) LANE.LSTAT_IN_SVC (b2n (up l))).irq 196
      if up l then b else b.raiseUnit 222 2 l) s
  let s2 := (List.range 4).foldl (fun a l =>
    a.setFld (B.lane l) LANE.LSTAT_BANKS
      ((List.range 4).foldl (fun m b => m + b2n (s1.serving b == some l) * 2 ^ b) 0)) s1
  fewCheck (lanesTestRefresh s2)

/-- A lane leaves service until the next reset (R301, R446). -/
def laneFails (l src : Nat) (s : State) : State :=
  lanesRefresh (((s.setFld (B.lane l) LANE.LSTAT_FAULTED 1).setFld (B.lane l) PG.STAT_FAULTED 1).raiseUnit src 2 l)

/-- A conversion of lane `l` completes. Its duration is timing that the spec bounds only: a free value (log entry 3). PEAK keeps the
longest since it was read. -/
def laneCount (l : Nat) (s : State) : State :=
  let (v, s0) := s.free
  let s1 := (s0.incWrap B.eng ENG.CONV_CNT).incWrap (B.lane l) LANE.CONV
  s1.wr (B.lane l + LANE.PEAK.off) (BitVec.ofNat 32 (max (s1.fld (B.lane l) LANE.PEAK) (v.toNat % 2 ^ 32)))

/-- The position of a lane's AAU in the rotation of R291; 0 from reset (DESIGN CHOICE, log entry 93). -/
def State.laneRot (s : State) (l : Nat) : Fin 6 := s.eng.rots.get (fun _ => 0) l

/-- One checked operation of lane `l` (R291-R293, R301): its result, none where its check fails, and the faults of those after it. -/
def laneOp (l op : Nat) (x : AauArgs) (c : AauCheck) (s : State) : Option AauRes × AauCheck × State :=
  let s0 := { s with eng := { s.eng with rots := s.eng.rots.set (fun _ => 0) l (s.laneRot l + 1) } }
  match aauChecked op false x (s.laneRot l) (aauNext c).1 with
  | .failed => (none, (aauNext c).2, s0.incSat (B.lane l) LANE.MISMATCH)
  | .ok r third =>
    (some r, (aauNext c).2, if third then (s0.incSat (B.lane l) LANE.MISMATCH).incSat (B.lane l) LANE.THIRD else s0)

/-- A conversion: the operations of a lane's AAU, one after the other. None where one of them fails its check. -/
abbrev Conv (α : Type) := Nat → AauCheck → State → Option α × AauCheck × State

/-- A conversion for a bank, by at most `k` lanes in turn: one whose AAU fails a check leaves service, and the lane that then serves the
bank repeats the conversion from its start (R267, R301). None where no lane serves it. -/
def laneTry {α : Type} (bank : Nat) (conv : Conv α) : Nat → Conv α
  | 0, _, c, s => (none, c, s)
  | k + 1, _, c, s =>
    match s.serving bank with
    | none => (none, c, s)
    | some l =>
      match conv l c s with
      | (some r, c1, s1) => (some r, c1, laneCount l s1)
      | (none, c1, s1) => laneTry bank conv k l c1 (laneFails l 221 s1)
termination_by structural k => k

/-- A conversion for a bank. -/
def laneConvert {α : Type} (bank : Nat) (conv : Conv α) (c : AauCheck) (s : State) : Option α × AauCheck × State :=
  laneTry bank conv 4 bank c s

/-! ### State changes and notifications (R252, R277) -/

/-- Sets the queue's bit in its notification group. -/
def qNotify (q : Nat) (s : State) : State :=
  if s.flag (B.qd q) QD.QCTL_NOTIFY_EN then s.setFld B.eng ⟨0x800 + 8 * (q / 64) + 4 * (q % 64 / 32), q % 32, 1⟩ 1 else s

/-- Moves a queue to a state with a cause. A pending check, and the wait of a parked head, go on from RUNNING to DRAINING (R258). -/
def qGo (q st cause : Nat) (s : State) : State :=
  let b := B.qd q
  let old := s.qst q
  let s1 := (s.setFld b QD.QSTATE_STATE st).setFld b QD.QSTATE_CAUSE cause
  let s2 := if old = qRunning ∧ st = qDraining then s1
    else (s1.setQueue q { s1.queue q with due := s.now }).setFld b QD.QSTATE_PARKED 0
  fewCheck (if st ≠ old ∧ (st = qHalted ∨ st = qFault ∨ (st = qIdle ∧ old = qDraining)) then qNotify q s2 else s2)

/-- A DRAINING queue whose last entry has gone becomes IDLE (R254). -/
def drainCheck (q : Nat) (s : State) : State :=
  if s.qst q = qDraining ∧ (s.queue q).ents.isEmpty then
    let cause := if (s.queue q).cancel then 6 else 5
    qGo q qIdle cause (s.setQueue q { s.queue q with cancel := false })
  else s

/-- Places a mark in the FIFO of 256 (R277). -/
def pushMark (m : Mark) (s : State) : State :=
  if s.eng.marks.length < 256 then { s with eng := { s.eng with marks := s.eng.marks ++ [m] } }
  else (s.incSat B.eng ENG.MARK_LOST).irq 195

/-! ### Retime groups (R262, R263) -/

/-- The flights of a group. -/
def State.members (s : State) (tag : Nat) : List (Nat × Flight) :=
  s.eng.queues.cells.flatMap (fun c => c.2.ents.filterMap (fun e =>
    match e.fly with
    | some f => if f.tag = some tag then some (c.1, f) else none
    | none => none))

/-- The earlier of two times. -/
def minTime (a b : W64) : W64 := if diff64 b a < 0 then b else a

def State.setGroups (s : State) (g : Tab Group) : State := { s with eng := { s.eng with groups := g } }

/-- Recomputes the earliest fire time, the least lead time and the rings of a group; one without members closes. -/
def groupSync (tag : Nat) (s : State) : State :=
  match s.eng.groups.find tag with
  | none => s
  | some g =>
    match s.members tag with
    | [] => s.setGroups (s.eng.groups.del tag)
    | m :: ms =>
      s.setGroups (s.eng.groups.ins tag { g with
        f := ms.foldl (fun a x => minTime a x.2.fire) m.2.fire
        d := ms.foldl (fun a x => minTime a x.2.lead) m.2.lead
        rings := (m :: ms).foldl (fun a x => a ||| BitVec.ofNat 16 (2 ^ s.fld (B.qd x.1) QD.QDEST_RING)) 0 })

/-- Changes every flight. -/
def State.mapFlights (s : State) (f : Flight → Flight) : State :=
  { s with eng := { s.eng with queues := ⟨s.eng.queues.cells.map (fun c =>
      (c.1, { c.2 with ents := c.2.ents.map (fun e => { e with fly := e.fly.map f }) }))⟩ } }

/-- Whether R263 allows a retime of a group by `d`. -/
def State.mayRetime (s : State) (g : Group) (d : W64) : Bool :=
  decide (diff64 s.now g.d ≤ 0) && decide (notice ≤ diff64 (g.f + d) s.now)

/-- Retimes a group by `d` to the target time `t`, or counts the miss (R263). -/
def groupRetime (tag : Nat) (g : Group) (d t : W64) (s : State) : State :=
  if s.mayRetime g d then
    let s1 := (List.range 16).foldl (fun a r => if g.rings.getLsbD r then ringRetime r tag d a else a) s
    let s2 := s1.mapFlights (fun f => if f.tag = some tag then { f with fire := f.fire + d, lead := f.lead + d } else f)
    (s2.setGroups (s2.eng.groups.ins tag { g with t := t, f := g.f + d, d := g.d + d })).incWrap B.eng ENG.RETIME_CNT
  else (s.irq 197).raise 224

/-- Whether an entry may join a group. -/
def State.joinable (s : State) (q : Nat) (e : RawEntry) : Bool :=
  entAct e != actMark && !entNoRetime e && s.flag (B.qd q) QD.QCTL_RETIME_EN

def State.groupOf (s : State) (shaft : Nat) (target : W64) : Option (Nat × Group) :=
  s.eng.groups.cells.find? (fun c => c.2.shaft == shaft && c.2.target == target)

/-- The lowest number without an open group. -/
def freeTag (g : Tab Group) : Nat → Nat → Option Nat
  | 0, _ => none
  | k + 1, i => if g.has i then freeTag g k (i + 1) else some i

/-! ### Retirement and cancels (R261, R264) -/

/-- Removes an entry of the queue; `fired`: it reached its fire time or executed. -/
def retireEnt (q : Nat) (e : QEnt) (fired : Bool) (s : State) : State :=
  let x := s.queue q
  let s1 := s.putEnts q (x.ents.filter (fun y => y.slot != e.slot))
  let s2 := match e.fly with
    | some f =>
      let s3 := match f.tag with | some t => groupSync t s1 | none => s1
      if fired ∧ f.act = actMark then qNotify q (pushMark ⟨q, f.param, f.fire⟩ s3) else s3
    | none => s1
  drainCheck q (if fired ∧ e.e.flags.getLsbD 0 then qNotify q s2 else s2)

/-- The flight of a slot replaced. -/
def setFly (q slot : Nat) (f : Option Flight) (s : State) : State :=
  let x := s.queue q
  s.putEnts q (x.ents.map (fun e => if e.slot = slot then { e with fly := f } else e))

/-- Sends a cancel for a flight that leaves its group; `back`: the entry becomes undispatched again (R265), else it retires when
the node acknowledges. -/
def cancelFlight (q : Nat) (e : QEnt) (f : Flight) (id : W32) (back : Bool) (s : State) : State :=
  let b := B.qd q
  let s1 := setFly q e.slot (if back then none else some { f with tag := none, cancel := true }) s
  let s2 := match f.tag with | some t => groupSync t s1 | none => s1
  let (acked, s3) := ringCancel (s2.fld b QD.QDEST_RING) id (s2.fld b QD.QDEST_NODE) (s2.fld b QD.QDEST_CHAN) q s2
  if acked ∧ ¬ back then retireEnt q { e with fly := some { f with tag := none } } false s3 else s3

/-- Cancels the flights that `p` covers, that are at least NOTICE ahead and not already cancelled; the identifiers of the cancels sent.
A MARK is at no node, so none is sent for it. -/
def cancelFlights (q : Nat) (p : QEnt → Bool) (back : Bool) (s : State) : List W32 × State :=
  (s.queue q).ents.foldl (fun a e =>
    match e.fly with
    | some f =>
      match f.id with
      | some id =>
        if p e ∧ ¬ f.cancel ∧ notice ≤ diff64 f.fire s.now then (id :: a.1, cancelFlight q e f id back a.2) else a
      | none => a
    | none => a) ([], s)

/-- Discards the undispatched entries that `p` covers; their number. -/
def discard (q : Nat) (p : QEnt → Bool) (s : State) : Nat × State :=
  let x := s.queue q
  let keep := x.ents.filter (fun e => e.fly.isSome || !p e)
  if keep.length = x.ents.length then (0, s) else (x.ents.length - keep.length, s.putEnts q keep)

/-- Discards the first undispatched entry. -/
def discardHead (q : Nat) (s : State) : State :=
  match (s.queue q).head with
  | some h => (discard q (fun e => e.slot == h.slot) s).2
  | none => s

/-- The flight that reaches its fire time first; a cancelled one waits for its acknowledgement. -/
def firstFlight (x : Queue) : Option (QEnt × Flight) :=
  x.ents.foldl (fun a e =>
    match e.fly with
    | some f =>
      if f.cancel then a
      else match a with
        | some (_, g) => if diff64 f.fire g.fire < 0 then some (e, f) else a
        | none => some (e, f)
    | none => a) none

def entryRetires (q : Nat) (s : State) : State :=
  match firstFlight (s.queue q) with
  | some (e, _) => retireEnt q e true s
  | none => s

/-- EN written 0 (R252, R254). -/
def qDisable (q : Nat) (keep : Bool) (s : State) : State :=
  let st := s.qst q
  if st = qIdle ∨ st = qDraining then s
  else if st = qRunning ∧ keep then
    drainCheck q (qGo q qDraining 1 (s.setQueue q { s.queue q with cancel := false }))
  else
    let s1 := (discard q (fun _ => true) s).2
    let s2 := s1.setQueue q { s1.queue q with cancel := true }
    if st = qRunning ∨ ¬ (s2.queue q).ents.isEmpty then
      drainCheck q (cancelFlights q (fun _ => true) false (qGo q qDraining 1 s2)).2
    else qGo q qIdle 6 (s2.setQueue q { s2.queue q with cancel := false })

/-- Every flight becomes undispatched again (R253); groups close. -/
def returnFlights (s : State) : State :=
  let s1 := s.eng.queues.cells.foldl (fun a c =>
    a.putEnts c.1 ((a.queue c.1).ents.map (fun e => { e with fly := none }))) s
  (List.range 16).foldl (fun a r => ringDrop r a) (s1.setGroups {})

/-- Entry into Felt (R252, R253). -/
def queuesFelt (s : State) : State :=
  s.qnums.foldl (fun a q => if s.qLive q then qGo q qHalted 3 a else a) (returnFlights s)

/-- An uncorrectable error on an entry read (R252). -/
def qDataError (q : Nat) (s : State) : State := if s.qLive q then qGo q qFault 4 s else s

/-! ### The check of a queue (R258-R262) -/

/-- The published snapshot of a shaft (R227). -/
def State.snapT (s : State) (n : Nat) : W64 := s.rd64 (B.shaft n + SHAFT.SNAP_T_LO.off)
def State.snapV (s : State) (n : Nat) : W64 := s.rd64 (B.shaft n + SHAFT.SNAP_V_LO.off)
def State.snapValid (s : State) (n : Nat) : Bool := bf (s.rd (B.shaft n + SHAFT.SNAP_FLAGS.off)) 9 1 == 1
def State.snapOk (s : State) (n : Nat) : Bool :=
  s.snapValid n && bf (s.rd (B.shaft n + SHAFT.SNAP_FLAGS.off)) 1 1 == 1

/-- VALID, SETTLED and at least MIN_SPEED (2^-16 turn/s against 2^-40). -/
def State.snapFit (s : State) (n : Nat) : Bool :=
  s.snapOk n && decide ((s.fld B.eng ENG.MIN_SPEED : Int) * 2 ^ 24 ≤ (s.snapV n).toInt)

/-- The time at which the shaft reaches a target; none for NO_ROOT. -/
def State.predict (s : State) (n : Nat) (target : W64) : Option W64 :=
  let b := B.shaft n
  let d := (aauOp 0x00 false target 0 (s.rd64 (b + SHAFT.SNAP_A_LO.off)) 0 0).val
  let h := (aauOp 0x11 false d ((s.rd (b + SHAFT.SNAP_A_EXT.off)).setWidth 64) (s.snapV n)
    (s.rd64 (b + SHAFT.SNAP_C_LO.off)) 0).val
  if h = noRoot then none else some (aauOp 0x02 false (s.snapT n) 0 h 0 0).val

/-- T_n of R259: the node's last report, or LAT_T0. -/
def State.nodeTemp (s : State) (q : Nat) : BitVec 16 :=
  let b := B.qd q
  let x := (s.ring (s.fld b QD.QDEST_RING)).nodes.get (fun _ => {}) (s.fld b QD.QDEST_NODE)
  x.temp.getD (BitVec.ofNat 16 (s.fld b QD.LAT_T0))

/-- The operands of LATM for a queue (R259). -/
def State.latArgs (s : State) (q : Nat) : AauArgs :=
  let b := B.qd q
  { a := (s.rd (b + QD.LAT_BASE.off)).toNat, a1 := (s.rd (b + QD.LAT_AGE.off)).toInt, b := (s.rd64 (b + QD.LAT_K1_LO.off)).toInt,
    b1 := (s.rd64 (b + QD.LAT_K2_LO.off)).toInt, b2 := (s.nodeTemp q).toInt, b3 := sextNat 16 (s.fld b QD.LAT_T0) }

/-- The latency of a queue (R259). -/
def State.latency (s : State) (q : Nat) : W32 :=
  ((aauPass 0x12 false 0 (s.latArgs q)).finish 0x12).val.extractLsb' 0 32

/-- The first three operations of a check or a group update (R300): the time at which the shaft reaches a target; none for NO_ROOT. -/
def convPredict (n : Nat) (target : W64) : Conv (Option W64) := fun l c s =>
  let b := B.shaft n
  match laneOp l 0x00 (aauArgs 0x00 target 0 (s.rd64 (b + SHAFT.SNAP_A_LO.off)) 0 0) c s with
  | (none, c1, s1) => (none, c1, s1)
  | (some d, c1, s1) =>
    match laneOp l 0x11 (aauArgs 0x11 d.val ((s.rd (b + SHAFT.SNAP_A_EXT.off)).setWidth 64) (s.snapV n)
      (s.rd64 (b + SHAFT.SNAP_C_LO.off)) 0) c1 s1 with
    | (none, c2, s2) => (none, c2, s2)
    | (some h, c2, s2) =>
      if h.val = noRoot then (some none, c2, s2)
      else
        let (r, c3, s3) := laneOp l 0x02 (aauArgs 0x02 (s.snapT n) 0 h.val 0 0) c2 s2
        (r.map (fun t => some t.val), c3, s3)

/-- R262: the time of the group of shaft and target, or the fresh prediction. -/
def groupTime (q : Nat) (e : RawEntry) (fresh : W64) (s : State) : W64 × State :=
  if ¬ s.joinable q e then (fresh, s)
  else match s.groupOf (s.qShaft q) e.target with
    | none => (fresh, s)
    | some (tag, g) =>
      if (diff64 fresh g.t).natAbs ≤ s.fld B.eng ENG.RETIME_TOL then (g.t, s)
      else
        let d := (aauOp 0x03 false fresh 0 g.t 0 0).val
        let s1 := groupRetime tag g d (aauOp 0x02 false g.t 0 d 0 0).val s
        (((s1.eng.groups.find tag).getD g).t, s1)

/-- The least spacing of two dispatches of a queue: 1 µs, in Jersey 1 s ÷ JOG_RATE rounded up to a T64 unit (R261). -/
def State.gap (s : State) : Nat :=
  let r := max 1 (s.fld B.eng ENG.JOG_RATE)
  if s.mode = mJersey then max 16000 ((t64hz + r - 1) / r) else 16000

/-- Whether that spacing has passed since the last dispatch. -/
def State.spaced (s : State) (q : Nat) : Bool :=
  match (s.queue q).last with
  | none => true
  | some t => decide ((s.gap : Int) ≤ diff64 s.now t)

def State.canDispatch (s : State) (q : Nat) : Bool :=
  decide ((s.queue q).ents.countP (fun e => e.fly.isSome) < s.fld (B.qd q) QD.QCTL_MAX_INFLIGHT) && s.spaced q

/-- What a CALL program makes of an entry (R269): the action and PARAM, or none and whether the run did not complete. -/
def callResult (q : Nat) (e : RawEntry) (tf : W64) (s : State) : Except Bool (Nat × W32) :=
  let inputs : List (Nat × W64) :=
    [(1, e.param.setWidth 64), (2, BitVec.ofNat 64 q), (3, e.target), (4, tf), (5, (s.nodeTemp q).signExtend 64),
     (6, (s.rd (B.qd q + QD.LAT_AGE.off)).signExtend 64)]
  match smGo ((s.eng.progs.find (entSlot e)).getD []) (smStart inputs [] []) with
  | none => .error true
  | some r =>
    let act := bf (r.th.reg 1) 0 8
    let param : W32 := (r.th.reg 2).extractLsb' 0 32
    if act = actCall ∨ actMark < act ∨ (act = 2 ∧ param = 0) then .error false else .ok (act, param)

/-- The group tag of a command: the open group of its shaft and target, a new one, or none (R263). -/
def takeTag (q : Nat) (e : RawEntry) (tt : W64) (s : State) : Option Nat × State :=
  match s.groupOf (s.qShaft q) e.target with
  | some (tag, _) => (some tag, s)
  | none =>
    match freeTag s.eng.groups 4096 0 with
    | some tag => (some tag, s.setGroups (s.eng.groups.ins tag ⟨s.qShaft q, e.target, tt, 0, 0, 0⟩))
    | none => (none, s.incSat B.eng ENG.NOGRP_CNT)

/-- Hands the command of an entry to its port, or a MARK to nobody; the entry is in flight (R261). A full transmit queue makes the
lane wait (R326). -/
def dispatchAs (q : Nat) (h : QEnt) (tf tt : W64) (lat : W32) (grouped : Bool) (act : Nat) (param : W32) (s : State) : State :=
  let b := B.qd q
  let r := s.fld b QD.QDEST_RING
  if act ≠ actMark ∧ txqSize ≤ (s.ring r).txq.length then s
  else
    let (tag, s1) := if grouped ∧ act ≠ actMark ∧ s.joinable q h.e then takeTag q h.e tt s else (none, s)
    let lead := if act = actMark then tf else tf - BitVec.ofNat 64 (s.fld b QD.LEAD)
    let (id, s2) : Option W32 × State :=
      if act = actMark then (none, s1)
      else
        let (i, s3) := ringCommand r ⟨0, tf, param, s.fld b QD.QDEST_NODE, s.fld b QD.QDEST_CHAN, act, tag,
          h.e.flags.getLsbD 2, q, s.now⟩ s1
        (some i, s3)
    let s4 := setFly q h.slot (some ⟨tf, lead, lat, id, tag, false, act, param⟩) s2
    let s5 := match tag with | some t => groupSync t s4 | none => s4
    (s5.setQueue q { s5.queue q with last := some s.now }).incWrap B.eng ENG.DISP_CNT

/-- Dispatch with the CALL program run first; a run without a usable result discards the entry (R269). -/
def dispatch (q : Nat) (h : QEnt) (tf tt : W64) (lat : W32) (grouped : Bool) (s : State) : State :=
  if entAct h.e = actCall then
    match callResult q h.e tf s with
    | .ok (act, param) => dispatchAs q h tf tt lat grouped act param s
    | .error bad => drainCheck q (discardHead q (if bad then s.raise 226 else s))
  else dispatchAs q h tf tt lat grouped (entAct h.e) h.e.param s

/-- Counts a late entry, once while it stays held (R260). -/
def countLate (q : Nat) (s : State) : State :=
  if (s.queue q).counted then s
  else ((((s.incSat (B.qd q) QD.QLATE_LATE).incSat B.eng ENG.LATE_CNT).irq 193).raise 223).setQueue q
    { s.queue q with counted := true }

def recheck (q : Nat) (t : W64) (s : State) : State := s.setQueue q { s.queue q with due := t }

/-- When MAX_INFLIGHT and the spacing of dispatches have cleared: the next retirement, the end of the spacing. -/
def State.holdTime (s : State) (q : Nat) : W64 :=
  let x := s.queue q
  let a := match x.last with | some t => t + BitVec.ofNat 64 s.gap | none => s.now
  if x.ents.countP (fun e => e.fly.isSome) < s.fld (B.qd q) QD.QCTL_MAX_INFLIGHT then a
  else match firstFlight x with
    | some (_, f) => if diff64 a f.fire < 0 then f.fire else a
    | none => a

/-- The LATE policy (R260). -/
def lateEntry (q : Nat) (h : QEnt) (lat : W32) (s0 : State) : State :=
  let s := countLate q s0
  match s.fld (B.qd q) QD.QCTL_LATE with
  | 0 => drainCheck q (discardHead q s)
  | 1 => if s.canDispatch q then dispatch q h (s.now + 160000) s.now lat false s else recheck q (s.holdTime q) s
  | _ => qGo q qHalted 2 (s.setQueue q { s.queue q with counted := false })

/-- The wait of a check past its due time (R270, R278). -/
def backlog (q : Nat) (s : State) : State :=
  let w := diff64 s.now (s.queue q).due
  if w ≤ 0 ∨ s.flag (B.qd q) QD.QSTATE_PARKED then s
  else
    let ns := (w / 16).toNat
    let s1 := if s.fld B.eng ENG.BACKLOG_MAX < ns then s.setFld B.eng ENG.BACKLOG_MAX (min ns (2 ^ 32 - 1)) else s
    if 32000 < w then (s1.irq 200).raise 227 else s1

def park (q : Nat) (s : State) : State := s.setFld (B.qd q) QD.QSTATE_PARKED 1

/-- The operations of a check (R258, R300): the target time, the fire time and the latency; none for NO_ROOT. A MARK has no latency. -/
def convCheck (q : Nat) (h : QEnt) : Conv (Option (W64 × W64 × W32)) := fun l c s =>
  match convPredict (s.qShaft q) h.e.target l c s with
  | (none, c1, s1) => (none, c1, s1)
  | (some none, c1, s1) => (some none, c1, s1)
  | (some (some fresh), c1, s1) =>
    let (tt, s2) := groupTime q h.e fresh s1
    let (lat, c2, s3) : Option W32 × AauCheck × State :=
      if entAct h.e = actMark then (some 0, c1, s2)
      else
        let (r, c2, s3) := laneOp l 0x12 (s2.latArgs q) c1 s2
        (r.map (fun x => x.val.extractLsb' 0 32), c2, s3)
    match lat with
    | none => (none, c2, s3)
    | some lat =>
      let (r, c3, s4) := laneOp l 0x04 (aauArgs 0x04 tt 0 (lat.setWidth 64) 0 0) c2 s3
      (r.map (fun x => some (tt, x.val, lat)), c3, s4)

/-- Procedure check of R258 for an entry `h` of queue `q` with target time `tt`, fire time `tf` and latency `lat`. -/
def checkEntry (q : Nat) (h : QEnt) (tt tf : W64) (lat : W32) (s : State) : State :=
  let b := B.qd q
  let x := diff64 tf s.now
  let lead : Int := if entAct h.e = actMark then 0 else s.fld b QD.LEAD
  let hor : Int := s.fld b QD.HORIZON
  if hor < x then recheck q (s.now + BitVec.ofInt 64 (max checkMin ((x - hor) / 2))) s
  else if x < lead then lateEntry q h lat s
  else if s.canDispatch q then dispatch q h tf tt lat true s
  else recheck q (s.holdTime q) s

/-- The address of an entry in queue memory (R247). -/
def State.entAddr (s : State) (q slot : Nat) : Nat := 0x20000000 + 128 * s.fld (B.qd q) QD.QREGION_BASE_BLK + 16 * slot

/-- A due check of a queue by its lane (R258). An entry that reads with an uncorrectable error stops the queue (R252, R279). -/
def queueCheck (q : Nat) (a : AauCheck) (s : State) : State :=
  match s.qLive q, (s.queue q).head with
  | true, some h =>
    if (s.serving (q / 4096)).isNone then s
    else if s.badIn (s.entAddr q h.slot) 16 then qDataError q (s.raiseAt 220 (s.entAddr q h.slot))
    else
      let s1 := backlog q s
      if ¬ s1.snapFit (s.qShaft q) then park q s1
      else
        match laneConvert (q / 4096) (convCheck q h) a (s1.setFld (B.qd q) QD.QSTATE_PARKED 0) with
        | (none, _, s2) => s2
        | (some none, _, s2) => park q s2
        | (some (some (tt, tf, lat)), _, s2) => checkEntry q h tt tf lat s2
  | _, _ => s

/-! ### Group updates, reports and shaft loss (R263, R265, R266) -/

/-- The operations of a group update (R263, R300): the shift, and the new target time where a retime is sent; none for NO_ROOT. -/
def convGroup (g : Group) : Conv (Option (W64 × W64)) := fun l c s =>
  match convPredict g.shaft g.target l c s with
  | (none, c1, s1) => (none, c1, s1)
  | (some none, c1, s1) => (some none, c1, s1)
  | (some (some t), c1, s1) =>
    match laneOp l 0x03 (aauArgs 0x03 t 0 g.t 0 0) c1 s1 with
    | (none, c2, s2) => (none, c2, s2)
    | (some d, c2, s2) =>
      if s2.fld B.eng ENG.RETIME_TOL ≤ d.val.toInt.natAbs ∧ s2.mayRetime g d.val then
        let (r, c3, s3) := laneOp l 0x02 (aauArgs 0x02 g.t 0 d.val 0 0) c2 s2
        (r.map (fun x => some (d.val, x.val)), c3, s3)
      else (some (some (d.val, g.t)), c2, s2)

/-- The update of one open group. -/
def groupUpdate (tag : Nat) (c : AauCheck) (s : State) : AauCheck × State :=
  match s.eng.groups.find tag with
  | none => (c, s)
  | some g =>
    if ¬ s.snapFit g.shaft then (c, s)
    else match laneConvert 0 (convGroup g) c s with
      | (none, c1, s1) => (c1, s1)
      | (some none, c1, s1) => (c1, s1)
      | (some (some (d, t)), c1, s1) =>
        (c1, if s1.fld B.eng ENG.RETIME_TOL ≤ d.toInt.natAbs then groupRetime tag g d t s1 else s1)

/-- A lane updates every open group: the lane of bank 0, since the spec names none (DESIGN CHOICE, log entry 93). -/
def retimeUpdate (a : AauCheck) (s : State) : State :=
  (s.eng.groups.cells.foldl (fun (acc : AauCheck × State) g => groupUpdate g.1 acc.1 acc.2) (a, s)).2

/-- The operations of a report (R266, R300): the new ageing term. -/
def convReport (q : Nat) (m : W32) : Conv W64 := fun l c s =>
  let b := B.qd q
  match laneOp l 0x12 (s.latArgs q) c s with
  | (none, c1, s1) => (none, c1, s1)
  | (some lat, c1, s1) =>
    let (r, c2, s2) := laneOp l 0x13
      { a := (s.rd (b + QD.LAT_AGE.off)).toInt, a1 := s.fld B.eng ENG.AGE_LIMIT, b := m.toNat, b1 := lat.val.toNat
        b2 := s.fld B.eng ENG.CFG_AGE_SHIFT } c1 s1
    (r.map (·.val), c2, s2)

/-- A matched REPORT updates the ageing term (R266). -/
def ageReport (q : Nat) (m : W32) (c : AauCheck) (s : State) : AauCheck × State :=
  match laneConvert (q / 4096) (convReport q m) c s with
  | (none, c1, s1) => (c1, s1)
  | (some v, c1, s1) => (c1, s1.wr (B.qd q + QD.LAT_AGE.off) (v.extractLsb' 0 32))

/-- The shaft of a queue lost VALID: its flights at least NOTICE ahead are cancelled and undispatched again, and the queue parks. -/
def shaftLoss (s : State) : State :=
  s.qnums.foldl (fun a q =>
    if s.snapValid (s.qShaft q) ∨ s.qst q = qIdle then a
    else
      let a1 := (cancelFlights q (fun _ => true) true a).2
      if a1.qLive q ∧ (a1.queue q).head.isSome then park q a1 else a1) s

/-- An ACK of a cancel: result 0 CANCELLED, 1 EXECUTED, 2 UNKNOWN, 3 none came in time (R264, R265, R328). -/
def cancelAck (q : Nat) (id : W32) (result : Nat) (s : State) : State :=
  let s1 := if result = 1 then
      (((s.incSat (B.qd q) QD.QLATE_CANCEL_LATE).incSat B.eng ENG.CANCEL_LATE_CNT)).raise 225
    else s
  match (s.queue q).ents.find? (fun e => match e.fly with | some f => f.cancel && f.id == some id | none => false) with
  | some e => retireEnt q e (result == 1 || result == 3) s1
  | none => s1

/-! ### Appends (R255-R257) -/

/-- The refusals of R256. -/
def appendCodes (a : Appender) (q : Nat) (e : RawEntry) (s : State) : List Code :=
  let b := B.qd q
  let act := entAct e
  let rsvd := bf e.action 4 4 != 0 || bf e.action 14 2 != 0 || bf e.flags 3 13 != 0 || (act != actCall && entSlot e != 0)
  let range := decide (actMark < act) || (act == 2 && e.param == 0)
  let first := refuseIf rsvd .rsvdBit ++ refuseIf (range || decide (16383 < q)) .range
  if 16383 < q then first
  else
    let st := s.qst q
    let src := s.fld b QD.QCTL_SRC
    let priv := match a with
      | .core _ ring part =>
        src != 0 || decide (s.fld b QD.QCTL_APP_RING < ring.val)
          || (!s.flag b QD.QCTL_ANY_PART && (if ring.val = 0 then 0 else part.val) != s.fld b QD.QCTL_PART)
      | .seq => src != 1
      | .host => src != 2
    let order := match (s.queue q).ents.getLast? with
      | some l => decide (diff64 e.target l.e.target < 0)
      | none => false
    first ++ refuseIf (act != actMark && s.fld b QD.QDEST_NODE == 0) .range
      ++ refuseIf (st == qIdle || st == qDraining || st == qFault) .state ++ refuseIf priv .priv ++ refuseIf order .order
      ++ refuseIf (decide (s.qCap q ≤ (s.queue q).ents.length)) .full
      ++ refuseIf (act == actCall && !s.eng.progs.has (entSlot e)) .absent

/-- The first slot from `i` on, in a region of `cap`, that no entry holds. -/
def freeSlot (ents : List QEnt) (cap : Nat) : Nat → Nat → Nat
  | 0, i => i
  | k + 1, i => if ents.any (fun e => e.slot == i) then freeSlot ents cap k ((i + 1) % cap) else i

/-- The 16 bytes of an entry. -/
def entBytes (e : RawEntry) : List Byte :=
  leBytes 8 e.target.toNat ++ leBytes 2 e.action.toNat ++ leBytes 2 e.flags.toNat ++ leBytes 4 e.param.toNat

def entOfBytes (l : List Byte) : RawEntry :=
  ⟨BitVec.ofNat 64 (leNat (l.take 8)), BitVec.ofNat 16 (leNat ((l.drop 8).take 2)), BitVec.ofNat 16 (leNat ((l.drop 10).take 2)),
   BitVec.ofNat 32 (leNat ((l.drop 12).take 4))⟩

/-- Adds an accepted entry, in the queue and in queue memory (R247). -/
def appendDo (q : Nat) (e : RawEntry) (s : State) : State :=
  let x := s.queue q
  let cap := s.qCap q
  let slot := freeSlot x.ents cap x.ents.length x.tail
  let fresh := x.head.isNone
  let s1 := s.putQueue q { x with
    ents := x.ents ++ [⟨slot, e, none⟩], tail := (slot + 1) % cap, due := if fresh then s.now else x.due }
  s1.poke (s.entAddr q slot) (entBytes e)

/-- The source code of an appender in REJ_INFO. -/
def appenderNum : Appender → Nat
  | .core _ _ _ => 0
  | .seq => 1
  | .host => 2

/-- Records a refused append (R257). -/
def appendReject (a : Appender) (q : Nat) (c : Code) (s : State) : State :=
  let s1 := if q ≤ 16383 then (s.setFld (B.qd q) QD.QREJ_CODE c.num).incSat (B.qd q) QD.QREJ_COUNT else s
  let src : Nat := match a with | .core t _ _ => t.trio.val + 16 * t.thr.val | .seq => 0 | .host => 0
  let s2 := (s1.wr (B.eng + ENG.REJ_INFO.off) (BitVec.ofNat 32 (q % 16384 + c.num * 65536 + appenderNum a * 2 ^ 24 + 2 ^ 31))).wr
    (B.eng + ENG.REJ_SRC.off) (BitVec.ofNat 32 src)
  s2.irq 192

/-- An append at the port (R255-R257): the state and the code. -/
def queueAppend (a : Appender) (q : BitVec 16) (e : RawEntry) (s : State) : State × Code :=
  match Code.lowest (appendCodes a q.toNat e s) with
  | .ok => (appendDo q.toNat e s, .ok)
  | c => (appendReject a q.toNat c s, c)

/-- QSTAT and QSPACE of CP2 (R133, R249). A number above 16,383 has no result stated: a free value (log entry 3). -/
def queueStat (q : Nat) (s : State) : W64 × State :=
  if q ≤ 16383 then ((s.rd (B.qd q + QD.QSTATE.off)).setWidth 64, s) else s.free

def queueSpace (q : Nat) (s : State) : W64 × State :=
  if q ≤ 16383 then (BitVec.ofNat 64 (s.qCap q - s.fld (B.qd q) QD.QSTATE_COUNT), s) else s.free

/-! ### Register writes (R247, R250, R252, R264, R280) -/

/-- The block regions of two queues meet. -/
def State.qOverlap (s : State) (q p : Nat) : Bool :=
  let lo (n : Nat) : Nat := s.fld (B.qd n) QD.QREGION_BASE_BLK
  let hi (n : Nat) : Nat := lo n + s.fld (B.qd n) QD.QREGION_NBLK
  decide (lo q < hi p) && decide (lo p < hi q)

/-- The region of a queue includes a block of an array that the boot took out, whose owner never becomes IDLE (R247, R452). -/
def State.qBadBlocks (s : State) (q : Nat) : Bool :=
  let b := s.fld (B.qd q) QD.QREGION_BASE_BLK
  let n := s.fld (B.qd q) QD.QREGION_NBLK
  (List.range 128).any (fun i => s.fab.badQueue.getLsbD i && decide (512 * i < b + n) && decide (b < 512 * i + 512))

def qcmdCodes (q op : Nat) (s : State) : List Code :=
  let st := s.qst q
  match op with
  | 1 => refuseIf (st != qArmed || !s.runMode || !s.pgRunning 0x210) .state
  | 2 => refuseIf (st != qRunning) .state
  | 3 => refuseIf (st != qHalted || !s.runMode) .state
  | 4 => refuseIf (!(st == qArmed || st == qHalted || st == qFault)) .state
  | 5 => refuseIf (st != qHalted || (s.queue q).head.isNone) .state
  | _ => [.range]

def qcmdDo (q op : Nat) (s : State) : State :=
  match op with
  | 1 => qGo q qRunning 1 s
  | 2 => qGo q qHalted 1 s
  | 3 => qGo q qRunning 1 s
  | 4 => qGo q qArmed 1 (discard q (fun _ => true) s).2
  | _ => discardHead q s

/-- Fields of QCTL that change only in IDLE. -/
def qctlFixed : W32 := 0x007FFFF0

/-- Refusals of a descriptor write at offset `o` of its 64 bytes. -/
def qdCodes (q o v : Nat) (s : State) : List Code :=
  let b := B.qd q
  let st := s.qst q
  let w : W32 := BitVec.ofNat 32 v
  let idle := refuseIf (st != qIdle && w != s.rd (b + o)) .state
  match o with
  | 0x00 =>
    let old := s.rd b
    let nb := s.fld b QD.QREGION_NBLK
    let setEn := nbit v 0 && !s.flag b QD.QCTL_EN
    refuseIf (nbits v 2 2 == 3 || nbits v 4 2 == 3 || nbits v 20 3 == 0) .range
      ++ refuseIf (st != qIdle && ((w ^^^ old) &&& qctlFixed) != 0) .state
      ++ (if setEn then
            refuseIf (nb == 0 || decide (65536 < s.fld b QD.QREGION_BASE_BLK + nb)) .range ++ refuseIf (st != qIdle) .state
            ++ refuseIf (s.qnums.any (fun p => p != q && s.qst p != qIdle && s.qOverlap q p) || s.qBadBlocks q) .busy
          else [])
  | 0x04 => refuseIf (!inRange 1 4096 (nbits v 16 13)) .range ++ idle
  | 0x08 => refuseIf (nbits v 4 7 == 127) .range ++ idle
  | 0x0C => refuseIf (decide (v ≤ s.fld b QD.LEAD)) .range
  | 0x10 => refuseIf (decide (v < 160000) || decide (s.fld b QD.HORIZON ≤ v)) .range
  | 0x2C => refuseIf (decide (s.fld B.eng ENG.AGE_LIMIT < w.toInt.natAbs)) .range
  | 0x3C => qcmdCodes q (nbits v 0 4) s
  | _ => []

def qdDo (q o v : Nat) (s : State) : State :=
  let b := B.qd q
  let w : W32 := BitVec.ofNat 32 v
  match o with
  | 0x00 =>
    let s1 := s.wr b w
    if nbit v 0 then
      if s.flag b QD.QCTL_EN then s1
      else qGo q qArmed 1 (s1.putQueue q { last := (s1.queue q).last })
    else qDisable q (nbit v 1) s1
  | 0x3C => qcmdDo q (nbits v 0 4) s
  | _ => s.wr (b + o) w

/-- The address that a PROG_LOAD pair names. -/
def progAddr (s : State) (base : Nat) (lo : Fld) (v : Nat) : Nat := s.fld base lo + nbits v 0 8 * 2 ^ 32

/-- A program lies in shared SRAM at a 4-byte boundary (R280). -/
def progCodes (a : Nat) (busy : Bool) : List Code :=
  refuseIf (!inRange 0x10000000 0x10FFFFFF a) .range ++ refuseIf (a % 4 != 0) .align ++ refuseIf busy .busy

/-- A cancel of CANCEL_Q from CANCEL_A on (R264). -/
def cancelStart (s : State) : State :=
  let q := s.fld B.eng ENG.CANCEL_Q
  let a := s.rd64 (B.eng + ENG.CANCEL_A_LO.off)
  let cov (e : QEnt) : Bool := decide (0 ≤ diff64 e.e.target a)
  let (n, s1) := discard q cov s
  let (m, s2) := cancelFlights q cov false s1
  drainCheck q { s2 with eng := { s2.eng with cancel := some ⟨q, n + m.length, m⟩ } }

/-- Every entry that the cancel covered has retired. -/
def cancelDone (s : State) : State :=
  match s.eng.cancel with
  | some c =>
    if (s.queue c.q).ents.any (fun e => match e.fly with
      | some f => f.cancel && (match f.id with | some i => c.ids.contains i | none => false)
      | none => false) then s
    else
      let s1 := { s with eng := { s.eng with cancel := none } }
      (s1.wr (B.eng + ENG.CANCEL_RES.off) (BitVec.ofNat 32 (min c.n 65535 * 65536))).irq 198
  | none => s

/-- Refusals of a write of page 0x210. -/
def engCodes (o v : Nat) (s : State) : List Code :=
  match o with
  | 0x044 => outside 20 1000 (nbits v 0 16)
  | 0x048 => outside 1 160000 v
  | 0x04C => refuseIf (v == 0) .range
  | 0x054 => outside 1 1000 (nbits v 0 10)
  | 0x058 => refuseIf (!s.runMode || !s.pgRunning 0x210) .state
  | 0x068 => if nbit v 0 then
      refuseIf (s.qst (s.fld B.eng ENG.CANCEL_Q) == qIdle) .state ++ refuseIf s.eng.cancel.isSome .busy
    else []
  | 0x094 => refuseIf (v % 4 != 0) .align
  | 0x098 => progCodes (progAddr s B.eng ENG.PROG_LOAD_LO v) s.eng.load.isSome
  | _ => []

def engDo (o v : Nat) (s : State) : State :=
  match o with
  | 0x058 =>
    s.qnums.foldl (fun a q =>
      if s.qst q = qArmed ∧ s.fld (B.qd q) QD.QCTL_GROUP = nbits v 0 4 then qGo q qRunning 1 a else a) s
  | 0x068 => if nbit v 0 then cancelStart s else s
  | 0x098 =>
    let slot := nbits v 16 6
    { s with eng := { s.eng with load := some ⟨slot, progAddr s B.eng ENG.PROG_LOAD_LO v⟩ } }.wr (B.eng + ENG.PROG_RES.off)
      (BitVec.ofNat 32 (slot * 65536 + 2 ^ 31))
  | _ => s.wr (B.eng + o) (BitVec.ofNat 32 v)

/-- Reads a program from shared SRAM and checks it (R138); an image that leaves shared SRAM is out of range. -/
def progRead (h : SmHost) (a : Nat) (s : State) : Code × List W32 :=
  let hdr := s.peek a 16
  let n := smWords hdr
  let ws := wordsOf (s.peek (a + 16) (4 * n)) n
  if 0x11000000 < a + 16 + 4 * n then (Code.lowest [Code.range, smCheck h 1 hdr ws], ws) else (smCheck h 1 hdr ws, ws)

/-- An engine program load ends (R138, R280). -/
def engLoadDone (s : State) : State :=
  match s.eng.load with
  | none => s
  | some l =>
    let (c, ws) := progRead smEngine l.addr s
    let e := s.eng
    let s1 := { s with eng := { e with load := none, progs := if c = Code.ok then e.progs.ins l.slot ws else e.progs } }
    (s1.wr (B.eng + ENG.PROG_RES.off) (BitVec.ofNat 32 (c.num + l.slot * 65536))).irq 199

/-- The first read of MARK_INFO: the group holds the oldest mark, which leaves the FIFO; VALID 0 when there is none. -/
def markRead (s : State) : State :=
  let b := B.eng
  match s.eng.marks with
  | [] => (((s.wr (b + 0x0A0) 0).wr (b + 0x0A4) 0).wr (b + 0x0A8) 0).wr (b + 0x0AC) 0
  | m :: rest =>
    let s1 := { s with eng := { s.eng with marks := rest } }
    ((s1.wr (b + 0x0A0) (BitVec.ofNat 32 (m.q + 2 ^ 31))).wr (b + 0x0A4) m.param).wr64 (b + 0x0A8) m.t

end Sys2Proof.Machine
end

