-- ==== Sys2Proof/Machine/Ring.lean ====
section
/-! DEFINITION. Trotrister ring ports: frames, slots, enumeration, measurement, upstream records, line states and the log
(R306-R340). Nodes are outside the device. -/
namespace Sys2Proof.Machine

def State.ringNodes (s : State) (r : Nat) : Nat := s.fld (B.ring r) RING.STAT_NODES

def State.node (s : State) (r n : Nat) : RingNode := (s.ring r).nodes.get (fun _ => {}) n
def State.setNode (s : State) (r n : Nat) (x : RingNode) : State :=
  s.setRing r { s.ring r with nodes := (s.ring r).nodes.set (fun _ => {}) n x }

/-- A field of NSTAT_n, and the DLYd_n registers. -/
def nstat (f : Fld) (n : Nat) : Fld := f.nth 4 n
def dlyFld (n : Nat) (d : Bool) : Fld := ⟨0x100 + 8 * n + 4 * b2n d, 0, 32⟩

/-- A delay that is not valid (R318, R321). -/
def noDelay : Nat := 0xFFFFFFFF

/-! ### Frames (R309-R312, R326) -/

/-- SOF to EOF without the framing characters: header, payload and CRC (R310). -/
def ringFrame (typ : Nat) (d : Bool) (dest : Nat) (seq epoch : BitVec 16) (pay : List Byte) : List Byte :=
  let body := leBytes 1 (typ + 16 * b2n d) ++ leBytes 3 dest ++ leBytes 2 seq.toNat ++ leBytes 2 epoch.toNat ++ pad24 pay
  body ++ leBytes 4 (crc32 body)

/-- The transmit lanes in service (R417). -/
def Ring.lanes (x : Ring) : List Bool := [false, true].filter (fun d => x.endOut != some d)

/-- Sends a frame in both directions or one, but on no lane taken out of service (R309, R417). `air` keeps when it began. -/
def ringSend (r typ dest : Nat) (pay : List Byte) (only : Option Bool) (s : State) : State :=
  let x := s.ring r
  let dirs := x.lanes.filter (fun d => match only with | some o => d == o | none => true)
  ((s.emits (dirs.map (fun d => Output.ring r d (ringFrame typ d dest x.seq x.epoch pay)))).setRing r { x with seq := x.seq + 1, air := some s.now }).incWrap
    (B.ring r) RING.FRAME_CNT

/-- INCR of R312: the T64 increment of a tick over 2.5 characters, Q8.24; its rounding is RNE (DEDUCED, log entry 22). -/
def incrOf (s : State) : Nat := (rne ((160 * 2 ^ 32 + (s.rd (B.net + NET.PTP_ADJ.off)).toInt) * 2) (5 * 2 ^ 8)).toNat

/-- The TIME frame (R312, R320); RUN is line state RUN (DEDUCED, log entry 22). -/
def sendTime (r : Nat) (s : State) : State :=
  ringSend r 0x1 127 (leBytes 8 s.now.toNat ++ leBytes 4 (incrOf s) ++ leBytes 1 (s.fld (B.ring r) RING.CFG_TIME_PERIOD)
    ++ leBytes 1 (b2n (s.ring r).safe + 2 * b2n (s.line r == lnRun))) none s

/-- R320: TIME in every line state except OFF and LINK. -/
def timeSends (r : Nat) (s : State) : State := if lnIdle ≤ s.line r then sendTime r s else s

/-- The command record of R313. -/
def cmdRecord (c : TxCmd) (rep : Bool) : List Byte :=
  leBytes 4 c.id.toNat ++ leBytes 8 c.fire.toNat ++ leBytes 4 c.param.toNat ++ leBytes 1 c.chan ++ leBytes 1 c.act
    ++ leBytes 2 (match c.tag with | some t => t % 4096 + 32768 | none => 0) ++ leBytes 1 (b2n rep)

/-- A little-endian field of a descriptor (R315). -/
def descAt (l : List Byte) (o n : Nat) : Nat := leNat ((l.drop o).take n)

/-- Whether a command may be sent (R327). -/
def State.deliverable (s : State) (r : Nat) (c : TxCmd) : Bool :=
  let d := (s.node r c.node).desc
  let caps := descAt d 0x0B 1
  s.line r == lnRun && s.fld (B.ring r) (nstat RING.NSTAT_STATE c.node) == 2 && decide (c.chan < descAt d 8 2)
    && (c.act != 2 || nbit caps 2) && (c.act != 3 || nbit caps 3)

/-- Sends a command with its report table entry (R328). -/
def sendCmd (r : Nat) (c : TxCmd) (s : State) : State :=
  let want := c.rep && nbit (descAt (s.node r c.node).desc 0x0B 1) 0
  let full := decide (4096 ≤ (s.ring r).reports.length)
  let s1 := if want ∧ full then s.incSat (B.ring r) RING.REPORT_DROP_CNT
    else if want then s.setRing r { s.ring r with reports := (s.ring r).reports ++ [(c.id, c.q, c.fire)] }
    else s
  let w := ((diff64 s.now c.since) / 16).toNat
  let s2 := if s1.fld (B.ring r) RING.TXQ_MAX < w then s1.setFld (B.ring r) RING.TXQ_MAX (min w (2 ^ 32 - 1)) else s1
  ringSend r 0x2 c.node (cmdRecord c (want && !full)) none s2

/-- The next command that can be sent; those before it are undelivered (R327). -/
def sendNext (r : Nat) : List TxCmd → State → Bool × State
  | [], s => (false, s.setRing r { s.ring r with txq := [] })
  | c :: t, s =>
    if s.deliverable r c then (true, sendCmd r c (s.setRing r { s.ring r with txq := t }))
    else sendNext r t (undelivered r s)

/-! ### Line states (R332) -/

/-- The line state that locked lanes, the safe-stop line and the mode give. -/
def lineRefresh (r : Nat) (s : State) : State :=
  if s.line r < lnIdle then s
  else s.setFld (B.ring r) RING.STAT_LINE
    (if (s.ring r).safe then lnSafe else if s.runMode ∧ (s.ring r).enumDone then lnRun else lnIdle)

/-- The SAFE pattern (R329); with the root clock dead the ring line clock stands still and none is sent (R418). -/
def safePattern (r : Nat) (s : State) : State :=
  if lnIdle ≤ s.line r ∧ (s.ring r).safe ∧ ¬ s.dev.rootLost then s.emit (.ringSafe r (s.ring r).lanes) else s

/-- Every port follows a change of mode. -/
def ringsMode (s : State) : State := (List.range 16).foldl (fun a r => lineRefresh r a) s

/-! ### Enumeration and measurement (R316-R319) -/

/-- Writes the result of a command or enumeration. -/
def ringFinish (r : Nat) (enum : Bool) (code : Code) (s : State) : State :=
  let b := B.ring r
  let x := s.ring r
  let s1 := s.setRing r { x with job := none, meas := none, todo := [], enumDone := x.enumDone || enum }
  let s2 := ringIrq r 0 ((s1.setFld b RING.CMD_RES_CODE code.num).setFld b RING.CMD_RES_BUSY 0)
  lineRefresh r (if enum ∧ code ≠ .ok then ringEvent r 3 s2 else s2)

/-- ARM and RELEASE. -/
def TxFrame.arms (f : TxFrame) : Bool := f.typ == 0x9 || f.typ == 0xA

/-- The time that a slot takes: 40 characters, 160 ns (R309). -/
def slotTime : Int := 2560

/-- The safe-stop line asserts at a port: a frame in progress is cut, neither completed nor sent again, and no ARM or RELEASE that waits
leaves any more (R309, R316, R329, R332). An enumeration then ends without them; a command that waited to send one ends with STATE
(DESIGN CHOICE, log entry 23). -/
def safeAsserts (r : Nat) (s : State) : State :=
  let x := s.ring r
  let cut : Bool := match x.air with | some t => decide (diff64 s.now t < slotTime) | none => false
  let rest := x.mnt.filter (fun f => !f.arms)
  let job := match x.job with
    | some (.fin false code) => some (RingJob.fin false (if rest.length < x.mnt.length then .state else code))
    | j => j
  let s1 := (if cut ∧ lnIdle ≤ s.line r ∧ ¬ s.dev.rootLost then s.emit (.ringCut r x.lanes) else s).setRing r { x with safe := true, air := none, mnt := rest, job := job }
  match rest, job with
  | [], some (.fin enum code) => ringFinish r enum code s1
  | _, _ => s1

/-- The collector drives the safe-stop lines (R329, R419). -/
def safeLines (on : Bool) (s : State) : State :=
  (List.range 16).foldl (fun a r =>
    if (a.ring r).safe = on then a
    else if on then safePattern r (lineRefresh r (safeAsserts r a))
    else lineRefresh r (a.setRing r { a.ring r with safe := false })) s

/-- Queues the last frames; the job ends when they have left. -/
def ringLast (r : Nat) (enum : Bool) (code : Code) (fs : List TxFrame) (s : State) : State :=
  let x := s.ring r
  if fs.isEmpty ∧ x.mnt.isEmpty then ringFinish r enum code s
  else s.setRing r { x with job := some (.fin enum code), mnt := x.mnt ++ fs }

def State.pushMnt (s : State) (r : Nat) (f : TxFrame) : State := s.setRing r { s.ring r with mnt := (s.ring r).mnt ++ [f] }

/-- The ENUM of a direction (R312). -/
def enumFrame (d : Bool) (next : Nat) : TxFrame := ⟨0x5, 127, leBytes 1 next ++ leBytes 1 (if d then 0xFF else 1), some d⟩

/-- Step 1 of R316. -/
def enumStart (r : Nat) (s : State) : State :=
  let b := B.ring r
  let x := s.ring r
  let e := x.epoch + 1
  let s1 := s.setRing r { x with
    epoch := e, job := some .enum0, meas := none, todo := [], redo := [], mnt := [enumFrame false 1] }
  ((s1.setFld b RING.STAT_EPOCH e.toNat).setFld b RING.CMD_RES_BUSY 1).setFld b RING.CMD_RES_NODE 0

/-- Whether a direction still reaches a node (R318, R331). -/
def State.reaches (s : State) (r n : Nat) (d : Bool) : Bool :=
  let k := s.fld (B.ring r) RING.STAT_BREAK_AFTER
  k == 127 || (if d then decide (k < n) else decide (n ≤ k))

/-- The DLY_SET of a node, with the delays it carries. -/
def pushDlySet (r n : Nat) (s : State) : State :=
  let d0 := s.fld (B.ring r) (dlyFld n false)
  let d1 := s.fld (B.ring r) (dlyFld n true)
  (s.setNode r n { s.node r n with dset := some (BitVec.ofNat 32 d0, BitVec.ofNat 32 d1) }).pushMnt r
    ⟨0x7, n, leBytes 4 d0 ++ leBytes 4 d1, none⟩

/-- HOP_MAX and its event (R319). -/
def hopMax (r : Nat) (s : State) : State :=
  let n := s.ringNodes r
  let get (i : Nat) (d : Bool) : Nat := s.fld (B.ring r) (dlyFld i d)
  let gap (a c : Nat) : Nat := if a = noDelay ∨ c = noDelay then 0 else a - c
  let one (i : Nat) : Nat :=
    max (gap (get i false) (if i = 1 then 0 else get (i - 1) false)) (gap (get i true) (if i = n then 0 else get (i + 1) true))
  let m := ((List.range n).map (fun i => one (i + 1))).foldl max 0
  let s1 := s.setFld (B.ring r) RING.HOP_MAX (min m 65535)
  if 640 < m then ringEvent r 2 s1 else s1

/-- The ARM of a node or all (R312). -/
def armFrame (s : State) (r dest : Nat) : TxFrame := ⟨0x9, dest, leBytes 1 (s.fld (B.ring r) RING.CFG2_STATUS_MS), none⟩

/-- After the measurements of a job: HOP_MAX, and for an enumeration DLY_SET, one TIME and ARM to the nodes that passed. -/
def measEnd (r : Nat) (enum : Bool) (code : Code) (s : State) : State :=
  let s1 := hopMax r s
  if ¬ enum then ringLast r false code [] s1
  else
    let ok := ((List.range (s1.ringNodes r)).map (· + 1)).filter (fun n => s1.flag (B.ring r) (nstat RING.NSTAT_DESC_OK n))
    let s2 := ok.foldl (fun a n => pushDlySet r n a) s1
    let arm := if (s2.ring r).safe then [] else ok.map (armFrame s2 r)
    ringLast r true code (⟨0x1, 127, [], none⟩ :: arm) s2

/-- Sends a DLY_REQ with the next request number. -/
def measSend (r : Nat) (m : RingMeas) (s : State) : State :=
  let x := s.ring r
  (s.setRing r { x with req := x.req + 1, meas := some { m with req := x.req, tx := none } }).pushMnt r
    ⟨0x6, m.node, leBytes 2 x.req.toNat, some m.dir⟩

/-- The next measurement waiting, or the end of the job that measures. -/
def measNext (r : Nat) (s : State) : State :=
  let x := s.ring r
  match x.todo with
  | (n, d) :: t => measSend r ⟨n, d, 0, none, 0, 0⟩ (s.setRing r { x with todo := t })
  | [] =>
    let s1 := s.setRing r { x with meas := none }
    match x.job with
    | some (.meas enum code) => measEnd r enum code s1
    | _ => hopMax r s1

/-- Sets what to measure of nodes: reachable directions, the others reading as no delay. -/
def measNodes (r : Nat) (ns : List Nat) (s : State) : State :=
  let all := ns.flatMap (fun n => [(n, false), (n, true)])
  let s1 := all.foldl (fun a p => if a.reaches r p.1 p.2 then a else a.setFld (B.ring r) (dlyFld p.1 p.2) noDelay) s
  s1.setRing r { s1.ring r with todo := all.filter (fun p => s.reaches r p.1 p.2) }

/-- The next descriptor of an enumeration, or the measurements (step 6). -/
def descNext (r n : Nat) (code : Code) (s : State) : State :=
  if s.ringNodes r < n then
    let s1 := measNodes r ((List.range (s.ringNodes r)).map (· + 1)) s
    measNext r (s1.setRing r { s1.ring r with job := some (.meas true code) })
  else
    let s1 := (s.setNode r n { s.node r n with desc := [], got := 0 }).setFld (B.ring r) (nstat RING.NSTAT_DESC_OK n) 0
    (s1.setRing r { s1.ring r with job := some (.descs n code) }).pushMnt r ⟨0x8, n, [], none⟩

/-- The count is known: N, the break, and the code so far. -/
def enumCount (r n brk : Nat) (code : Code) (s : State) : State :=
  let b := B.ring r
  let s1 := (s.setFld b RING.STAT_NODES n).setFld b RING.STAT_BREAK_AFTER brk
  let wrapped := brk != 127
  let s2 := if wrapped = s1.flag b RING.STAT_WRAPPED then s1
    else
      let s3 := ringIrq r 1 (s1.setFld b RING.STAT_WRAPPED (b2n wrapped))
      if wrapped then ringEvent r 0 s3 else s3
  descNext r 1 code s2

/-- An ENUM returns on RX0 (`lane` false) or RX1 (R316). -/
def enumReturns (r : Nat) (lane : Bool) (next : Nat) (s : State) : State :=
  let want := s.fld (B.ring r) RING.CFG_NODES
  match (s.ring r).job with
  | some .enum0 =>
    if ¬ lane then
      let n := next - 1
      if 126 < n then ringFinish r true .range s
      else enumCount r n 127 (if want ≠ 0 ∧ n ≠ want then .range else .ok) s
    else if want = 0 then ringFinish r true .state s
    else
      let x := s.ring r
      s.setRing r { x with job := some (.enum1 (next - 1)), mnt := x.mnt ++ [enumFrame true want] }
  | some (.enum1 k) => if ¬ lane ∧ next = k then enumCount r want k .ok s else ringFinish r true .range s
  | _ => s

/-- Step 5 of R316. -/
def enumTimesOut (r : Nat) (s : State) : State :=
  match (s.ring r).job with
  | some .enum0 => ringFinish r true .timeout s
  | some (.enum1 _) => ringFinish r true .timeout s
  | _ => s

/-- Checks a descriptor (R315, R316). -/
def descCode (d : List Byte) : Code :=
  let f := descAt d
  Code.lowest (refuseIf (f 6 1 != 1 || !inRange 1 256 (f 8 2) || decide (f 0x0A 1 < 8) || decide (100 < f 0x0C 2)
    || decide (24 < f 0x0E 2)) .range ++ refuseIf (crc32c (d.take 0x3C) != f 0x3C 4) .integrity)

/-- Whether no direction of a node is left to measure. -/
def lastOf (todo : List (Nat × Bool)) (n : Nat) : Bool := match todo with | p :: _ => p.1 != n | [] => true

/-- A delay of a node in a direction is measured (R318). -/
def measDone (r : Nat) (m : RingMeas) (s : State) : State :=
  let b := B.ring r
  let v := min (rne m.sum 8).toNat (noDelay - 1)
  let old := s.fld b (dlyFld m.node m.dir)
  let s1 := s.setFld b (dlyFld m.node m.dir) v
  let s2 := if old ≠ v ∧ old ≠ noDelay then ringIrq r 5 s1 else s1
  let last := lastOf (s2.ring r).todo m.node
  let moved : Bool := match (s2.node r m.node).dset with
    | some (d0, d1) =>
      let far (a : W32) (d : Bool) : Bool := decide (32 < ((s2.fld b (dlyFld m.node d) : Int) - a.toNat).natAbs)
      far d0 false || far d1 true
    | none => true
  let s3 := match (s2.ring r).job with
    | some (.meas true _) => s2
    | some _ => if last then pushDlySet r m.node s2 else s2
    | none => if last ∧ moved then pushDlySet r m.node s2 else s2
  let s4 := if (s3.ring r).job.isNone ∧ last then s3.setRing r { s3.ring r with redo := (s3.ring r).redo.filter (fun n => n != m.node) } else s3
  measNext r s4

/-- The background measurement of the next node, or of one that a break asks for (R318, R331). A reply that has not come by the next
period is not awaited any more: a measurement in the background is given up, that of a command asks again (DESIGN CHOICE, log entry 95). A node
that a break asks for keeps its place until its directions are measured or given up. -/
def bgMeasures (r : Nat) (s0 : State) : State :=
  let x0 := s0.ring r
  if ¬ (s0.line r = lnIdle ∨ s0.line r = lnRun) then s0
  else match x0.job, x0.meas with
    | some (.meas _ _), some m => if m.tx.isSome then measSend r m s0 else s0
    | some _, _ => s0
    | none, _ =>
      let redo := match x0.meas with | some m => if lastOf x0.todo m.node then x0.redo.filter (fun n => n != m.node) else x0.redo | none => x0.redo
      let s := s0.setRing r { x0 with meas := none, redo := redo, mnt := x0.mnt.filter (fun f => f.typ != 0x6) }
      let x := s.ring r
      if ¬ x.todo.isEmpty then measNext r s
      else match x.redo with
        | n :: _ => measNext r (measNodes r [n] s)
        | [] =>
          if s.flag (B.ring r) RING.CFG_BG_MEAS ∧ 0 < s.ringNodes r then
            let n := x.bg % s.ringNodes r + 1
            measNext r (measNodes r [n] (s.setRing r { x with bg := n }))
          else s

/-! ### Slots (R309, R326, R330) -/

/-- Sends the oldest maintenance frame. -/
def sendMnt (r : Nat) (s : State) : State :=
  let x := s.ring r
  match x.mnt with
  | [] => s
  | f :: t =>
    let s1 := s.setRing r { x with mnt := t }
    let s2 := if f.typ = 0x1 then sendTime r s1 else ringSend r f.typ f.dest f.pay f.dir s1
    let y := s2.ring r
    let s3 := if f.typ = 0x6 then s2.setRing r { y with meas := y.meas.map (fun m => { m with tx := some s.now }) } else s2
    match t, y.job with
    | [], some (.fin enum code) => ringFinish r enum code s3
    | _, _ => s3

/-- Whether a job belongs to an enumeration. -/
def RingJob.isEnum : RingJob → Bool
  | .enum0 => true
  | .enum1 _ => true
  | .descs _ _ => true
  | .meas enum _ => enum
  | .desc _ => false
  | .fin enum _ => enum

/-- One slot. In line state SAFE only OPEN and the frames of a running enumeration leave, which R316 lets end there (DEDUCED, log
entry 23). -/
def ringSlots (r : Nat) (s0 : State) : State :=
  if s0.line r < lnIdle then s0
  else
    let x := s0.ring r
    let s := s0.setRing r { x with slot := x.slot + 1 }
    let n := s.ringNodes r
    if x.slot % 2 ^ (s.fld (B.ring r) RING.CFG_UP_SHARE + 1) = 0 ∧ n ≠ 0 then
      let a := x.openN % n + 1
      (s.setRing r { s.ring r with openN := a }).emit (.ringOpen r a x.lanes)
    else
      match s.line r == lnRun, x.ctl with
      | true, f :: t => ringSend r f.typ f.dest f.pay f.dir (s.setRing r { s.ring r with ctl := t })
      | _, _ =>
        let (sent, s1) := sendNext r x.txq s
        if sent then s1
        else if s.line r ≠ lnSafe ∨ (x.job.map RingJob.isEnum).getD false then sendMnt r s1
        else s1

/-! ### The log (R336) -/

/-- Writes a log entry of a record; its unnamed bytes are 0, and the buffer is full when one entry is free (DESIGN CHOICE, log entry 24). -/
def ringLog (r node : Nat) (d : Bool) (rec : List Byte) (ts : W64) (s : State) : State :=
  let b := B.ring r
  if (s.ring r).logStop then s
  else
    let cap := 2 ^ s.fld b RING.LOG_SIZE
    let head := s.fld b RING.LOG_HEAD % cap
    let next := (head + 1) % cap
    if next = s.fld b RING.LOG_TAIL % cap then ringIrq r 4 (s.incSat b RING.LOG_LOST)
    else
      let e := rec ++ leBytes 1 node ++ leBytes 3 (b2n d) ++ leBytes 8 ts.toNat ++ List.replicate 8 0
      let base := s.fld b RING.LOG_BASE_LO + s.fld b RING.LOG_BASE_HI % 256 * 2 ^ 32
      match s.ioWrite (2 + r) (base + 32 * head) e pageRefuses with
      | (none, s1) => s1.setFld b RING.LOG_HEAD next
      | (some _, s1) => ringEvent r 7 (s1.setRing r { s1.ring r with logStop := true })

/-! ### Upstream records (R311, R314, R325, R328, R335) -/

/-- Accepts a SEQ of a node once (R311): the node's record after it. -/
def seqAccept (x : RingNode) (q : BitVec 16) : Option RingNode :=
  match x.seq with
  | none => some { x with seq := some q, seen := [q] }
  | some n =>
    if inRange 1 32767 (q - n).toNat then some { x with seq := some q, seen := q :: x.seen.filter (fun p => decide ((q - p).toNat ≤ 255)) }
    else if (n - q).toNat ≤ 255 ∧ ¬ x.seen.contains q then some { x with seen := q :: x.seen }
    else none

/-- A frame discarded by R309; one that makes them more than 16 in the last millisecond raises their event (R337). -/
def badFrame (r : Nat) (s : State) : State :=
  let x := s.ring r
  let l := (s.now :: x.bads.filter (fun t => decide (diff64 s.now t < 16000000))).take 17
  let s1 := (s.setRing r { x with bads := l }).incSat (B.ring r) RING.CRC_ERR_CNT
  if l.length = 17 then ringEvent r 6 s1 else s1

/-- What is still to be measured loses the directions that a break cut; a measurement under way in one of them is over. -/
def measCut (r : Nat) (s : State) : State :=
  let x := s.ring r
  let s1 := s.setRing r { x with todo := x.todo.filter (fun p => s.reaches r p.1 p.2) }
  match x.meas with
  | none => s1
  | some m =>
    if s.reaches r m.node m.dir then s1
    else measNext r (s1.setRing r { s1.ring r with meas := none, mnt := x.mnt.filter (fun f => f.typ != 0x6) })

/-- Follows the nodes' wrap and lane reports (R331). The delays are measured again when no command runs any more. -/
def wrapRefresh (r : Nat) (s : State) : State :=
  let b := B.ring r
  let ns := (List.range (s.ringNodes r)).map (· + 1)
  let wrapped := ns.any (fun n => (s.node r n).wrap)
  let was := s.flag b RING.STAT_WRAPPED
  let after := match ns.find? (fun n => s.flag b (nstat RING.NSTAT_LOST_RX1 n)) with
    | some n => n
    | none => match ns.find? (fun n => s.flag b (nstat RING.NSTAT_LOST_RX0 n)) with
      | some n => n - 1
      | none => s.fld b RING.STAT_BREAK_AFTER
  let s1 := (s.setFld b RING.STAT_WRAPPED (b2n wrapped)).setFld b RING.STAT_BREAK_AFTER (if wrapped then after else 127)
  if wrapped = was then s1
  else
    let s2 := ringIrq r 1 s1
    if ¬ wrapped then s2
    else
      let s3 := ringEvent r 0 s2
      let cutOff := ns.filter (fun n => !(s3.reaches r n false && s3.reaches r n true))
      let s4 := cutOff.foldl (fun a n =>
        let a1 := if a.reaches r n false then a else a.setFld b (dlyFld n false) noDelay
        if a1.reaches r n true then a1 else a1.setFld b (dlyFld n true) noDelay) s3
      let s5 := measCut r (s4.setRing r { s4.ring r with redo := ns })
      if (s5.ring r).job.isSome then s5 else cutOff.foldl (fun a n => pushDlySet r n a) s5

/-- A STATUS record (R314, R325). -/
def recStatus (r n : Nat) (b : Nat → Nat) (s : State) : State :=
  let p := B.ring r
  let t := b 2 + 256 * b 3
  let s1 := (((s.setFld p (nstat RING.NSTAT_TEMP n) t).setFld p (nstat RING.NSTAT_STATE n) (b 1)).setFld p
    (nstat RING.NSTAT_LOST_RX0 n) (b 4)).setFld p (nstat RING.NSTAT_LOST_RX1 n) (b 4 / 2)
  let x := s1.node r n
  wrapRefresh r (s1.setNode r n { x with
    lost := false, wrap := nbit (b 4) 2, temp := if t = 0x8000 then x.temp else some (BitVec.ofNat 16 t) })

/-- A REPORT record (R266, R328). -/
def recReport (r : Nat) (b : Nat → Nat) (id m : W32) (c : AauCheck) (s : State) : AauCheck × State :=
  let x := s.ring r
  match x.reports.find? (fun e => e.1 == id) with
  | none => (c, s.incSat (B.ring r) RING.REPORT_DROP_CNT)
  | some e =>
    let s1 := s.setRing r { x with reports := x.reports.filter (fun y => y.1 != id) }
    if b 2 % 4 = 0 then ageReport e.2.1 m c s1 else (c, s1)

/-- An ACK record (R328). -/
def recAck (r : Nat) (b : Nat → Nat) (id : W32) (s : State) : State :=
  let x := s.ring r
  match x.cancels.find? (fun e => e.1 == id) with
  | none => s
  | some e =>
    cancelAck e.2.1 id (min (b 2) 2) (s.setRing r { x with
      cancels := x.cancels.filter (fun y => y.1 != id)
      ctl := x.ctl.filter (fun f => f != cancelFrame id (e.2.2 / 256) (e.2.2 % 256)) })

/-- A DLY_REPLY record arriving at `ts` (R318). -/
def recReply (r n : Nat) (b : Nat → Nat) (res : W32) (ts : W64) (s : State) : State :=
  match (s.ring r).meas with
  | some m =>
    match m.tx with
    | some tx =>
      if m.node = n ∧ m.req.toNat = b 2 + 256 * b 3 then
        let m1 := { m with n := m.n + 1, sum := m.sum + diff64 ts tx - res.toNat, tx := none }
        if m1.n < 4 then measSend r m1 s else measDone r m1 s
      else s
    | none => s
  | none => s

/-- A DESC record: eight bytes at OFFSET (R314, R316, R340). A DESC_READ fills the DESC registers and leaves the enumerated descriptor, by
which commands are sent, as it is. -/
def recDesc (r n : Nat) (b : Nat → Nat) (l : List Byte) (s : State) : State :=
  let x := s.node r n
  let o := b 1
  let mine : Bool := match (s.ring r).job with | some (.descs m _) => m == n | some (.desc m) => m == n | _ => false
  if ¬ mine ∨ o % 8 ≠ 0 ∨ 56 < o then s
  else
    let reads : Bool := match (s.ring r).job with | some (.desc _) => true | _ => false
    let old := if reads then (s.ring r).descRd else x.desc
    let d := if old.length = 64 then old else List.replicate 64 0
    let d1 := d.take o ++ l ++ d.drop (o + 8)
    let got := x.got ||| BitVec.ofNat 8 (2 ^ (o / 8))
    let s0 := s.setNode r n { x with desc := if reads then x.desc else d1, got := got }
    let s1 := if reads then s0.setRing r { s0.ring r with descRd := d1 } else s0
    if got ≠ 0xFF then s1
    else match (s1.ring r).job with
      | some (.descs _ code) =>
        let c := descCode d1
        descNext r (n + 1) (Code.lowest [code, c]) (s1.setFld (B.ring r) (nstat RING.NSTAT_DESC_OK n) (b2n (c == .ok)))
      | some (.desc _) =>
        ringFinish r false .ok ((List.range 16).foldl (fun a i =>
          a.wr (B.ring r + RING.DESC.off + 4 * i) (BitVec.ofNat 32 (descAt d1 (4 * i) 4))) s1)
      | _ => s1

/-- A VENDOR record through the ring engine program (R335); without a program it is dropped (DESIGN CHOICE, log entry 24). -/
def recVendor (r n : Nat) (d : Bool) (rec : List Byte) (rtype : Nat) (ts : W64) (s : State) : State :=
  let x := s.ring r
  if x.prog.isEmpty then s
  else
    let scratch := if x.scratch.length = 256 then x.scratch else List.replicate 256 0
    match smGo x.prog (smStart [(1, BitVec.ofNat 64 n), (2, BitVec.ofNat 64 rtype), (3, ts)] rec scratch) with
    | none => ringIrq r 7 (ringEvent r 8 (ringLog r n d rec ts s))
    | some out =>
      let s1 := s.setRing r { x with scratch := out.win4 }
      match bf (out.th.reg 1) 0 2 with
      | 1 => ringLog r n d rec ts s1
      | 2 => ringIrq r 7 (ringLog r n d rec ts s1)
      | _ => s1

/-- Whether the bytes and bits of a record that its layout leaves unused are 0 (R310, R314); a reserved record has no layout. -/
def recClean (v : BitVec 96) : Bool :=
  let none_ (lo n : Nat) : Bool := bf v lo n == 0
  match bf v 0 8 with
  | 0 => none_ 8 88
  | 1 => none_ 18 14
  | 2 => none_ 24 8 && none_ 64 32
  | 3 => none_ 36 4 && none_ 56 8
  | 4 => none_ 8 8 && none_ 64 32
  | 5 => none_ 16 16
  | 6 => none_ 16 80
  | _ => true

/-- One record of an accepted frame, and what faults change in the lane operations that are left. -/
def upRecord (r n : Nat) (d : Bool) (v : BitVec 96) (ts : W64) (c : AauCheck) (s : State) : AauCheck × State :=
  let rec_ := leBytes 12 v.toNat
  let b (i : Nat) : Nat := bf v (8 * i) 8
  let w (i : Nat) : W32 := BitVec.ofNat 32 (bf v (8 * i) 32)
  let log (f : Fld) (s : State) : State := if s.flag (B.ring r) f then ringLog r n d rec_ ts s else s
  match b 0 with
  | 0 => (c, s)
  | 1 => recReport r b (w 4) (w 8) c (log RING.CFG_LOG_REPORT s)
  | 2 => (c, recAck r b (w 4) s)
  | 3 => (c, recStatus r n b (log RING.CFG_LOG_STATUS s))
  | 4 => (c, recReply r n b (w 4) ts s)
  | 5 => (c, recDesc r n b (leBytes 8 (bf v 32 64)) s)
  | 6 => (c, ringLog r n d rec_ ts s)
  | k =>
    (c, if 8 ≤ k ∧ k ≤ 15 then recVendor r n d rec_ k ts s
      else ringLog r n d rec_ ts (s.setRing r { s.ring r with rsvdN := (s.ring r).rsvdN + 1 }))

/-- An UP frame arrives on a lane, which is its direction of arrival, with its receiver's verdict of R309 and the time of its SOF. A frame that
R310 discards counts nowhere. -/
def upFrames (r : Nat) (lane good : Bool) (f : UpFrame) (ts : W64) (s : State) : State :=
  if s.line r = lnOff ∧ ¬ (s.ring r).rxUntil then s
  else if ¬ good then badFrame r s
  else if f.rsvd0 ∨ ¬ (recClean f.rec0 ∧ recClean f.rec1) then s
  else
    let n := f.src.toNat
    if f.typ ≠ 0xC ∨ f.dest ≠ 0 ∨ n = 0 ∨ 126 < n then s
    else match seqAccept (s.node r n) f.seq with
      | none => s
      | some x =>
        let (c, s1) := upRecord r n lane f.rec0 ts f.aau (s.setNode r n x)
        (upRecord r n lane f.rec1 ts c s1).2

/-- A node counts as lost (R325, R337). -/
def nodeLoses (r n : Nat) (s : State) : State :=
  if s.line r < lnIdle ∨ n = 0 ∨ s.ringNodes r < n ∨ (s.node r n).lost then s
  else ringIrq r 2 (ringEvent r 1 (s.setNode r n { s.node r n with lost := true }))

/-- A CANCEL without an ACK is sent again (R328). -/
def cancelAgain (r : Nat) (id : W32) (s : State) : State :=
  let x := s.ring r
  match x.cancels.find? (fun e => e.1 == id) with
  | some e => s.setRing r { x with ctl := x.ctl ++ [cancelFrame id (e.2.2 / 256) (e.2.2 % 256)] }
  | none => s

/-- No ACK came within 100 µs of the fire time (R328). -/
def cancelGivesUp (r : Nat) (id : W32) (s : State) : State :=
  let x := s.ring r
  match x.cancels.find? (fun e => e.1 == id) with
  | some e =>
    let s1 := s.setRing r { x with cancels := x.cancels.filter (fun y => y.1 != id) }
    cancelAck e.2.1 id 3 (ringIrq r 6 (ringEvent r 5 (s1.incSat (B.ring r) RING.CANCEL_NOACK_CNT)))
  | none => s

/-! ### Locks, enable and disable (R332, R334, R340, R417) -/

def lockFld (lane : Bool) : Fld := if lane then RING.STAT_LOCK1 else RING.STAT_LOCK0

/-- A lane locks in LINK: the port leaves it and enumerates. -/
def rxLocks (r : Nat) (lane : Bool) (s : State) : State :=
  if s.line r ≠ lnLink then s
  else
    let s1 := ((s.setFld (B.ring r) (lockFld lane) 1).setRing r { s.ring r with enumDone := false }).setFld (B.ring r) RING.STAT_LINE lnIdle
    lineRefresh r (enumStart r s1)

/-- Both lanes without lock for 1 µs. -/
def linkLost (r : Nat) (s : State) : State :=
  if s.line r = lnOff then s
  else
    let b := B.ring r
    ((ringFlush r (s.setFld b RING.STAT_LINE lnLink)).setFld b RING.STAT_LOCK0 0).setFld b RING.STAT_LOCK1 0

/-- One lane loses or regains lock outside LINK. -/
def laneLock (r : Nat) (lane on : Bool) (s : State) : State :=
  if s.line r < lnIdle then s else s.setFld (B.ring r) (lockFld lane) (b2n on)

/-- EN set: LINK, with the port's working state new. -/
def ringOn (r : Nat) (s : State) : State :=
  let b := B.ring r
  let x := s.ring r
  let y : Ring := { epoch := x.epoch, seq := x.seq, nextId := x.nextId, req := x.req, safe := x.safe, prog := x.prog, load := x.load }
  ((((s.setRing r y).setFld b RING.STAT_LINE lnLink).setFld b RING.STAT_WRAPPED 0).setFld b RING.STAT_NODES 0).setFld b
    RING.STAT_BREAK_AFTER 127

/-- EN cleared: nothing more is sent, frames in flight are still received (R334); a command that still waits is undelivered. -/
def ringOffStart (r : Nat) (s : State) : State :=
  let s1 := ringDrop r (ringFlush r s)
  (s1.setFld (B.ring r) RING.STAT_LINE lnOff).setRing r
    { s1.ring r with mnt := [], job := none, meas := none, todo := [], redo := [], rxUntil := true }

/-- 100 µs later the lanes stop. -/
def ringOffEnd (r : Nat) (s : State) : State :=
  let b := B.ring r
  (((s.setRing r { s.ring r with rxUntil := false }).setFld b RING.STAT_LOCK0 0).setFld b RING.STAT_LOCK1 0).setFld b RING.CMD_RES_BUSY 0

/-- The Degrade reaction to a ring break (R417): with one of the port's own lanes without lock, the transmit lane that feeds the
broken segment stops (DEDUCED, log entry 25). -/
def ringEndOut (r : Nat) (s : State) : State :=
  let b := B.ring r
  if s.line r < lnIdle ∨ (s.ring r).endOut.isSome then s
  else if ¬ s.flag b RING.STAT_LOCK0 then s.setRing r { s.ring r with endOut := some true }
  else if ¬ s.flag b RING.STAT_LOCK1 then s.setRing r { s.ring r with endOut := some false }
  else s

/-! ### Registers (R317, R333, R340) -/

/-- A queue that names the port runs, drains or has commands in flight (R317, R334). -/
def State.ringUsed (s : State) (r : Nat) : Bool :=
  s.qnums.any (fun q => s.fld (B.qd q) QD.QDEST_RING == r && (s.qLive q || s.fld (B.qd q) QD.QSTATE_INFLIGHT != 0))

def ringCmdCodes (r op n : Nat) (s : State) : List Code :=
  let b := B.ring r
  let busy := refuseIf (s.flag b RING.CMD_RES_BUSY) .busy
  let line := refuseIf (decide (s.line r < lnIdle)) .state
  let nodes := s.ringNodes r
  let all := refuseIf (decide (nodes < n)) .range
  let safe := refuseIf (s.ring r).safe .state
  match op with
  | 1 => busy ++ line ++ refuseIf (s.ringUsed r) .busy
  | 2 => busy ++ line ++ all
  | 3 => busy ++ line ++ all ++ safe
  | 4 => busy ++ line ++ safe ++ refuseIf (s.mode != mCalico) .state
  | 5 => busy ++ line ++ all ++ refuseIf (n == 0) .range
  | _ => [.range] ++ busy

def ringCmdDo (r op n : Nat) (s0 : State) : State :=
  let b := B.ring r
  let s := (s0.setFld b RING.CMD_RES_BUSY 1).setFld b RING.CMD_RES_NODE (if op = 4 then 0 else n)
  match op with
  | 1 => enumStart r s
  | 2 =>
    let s1 := measNodes r (if n = 0 then (List.range (s.ringNodes r)).map (· + 1) else [n]) (s.setRing r { s.ring r with meas := none })
    measNext r (s1.setRing r { s1.ring r with job := some (.meas false .ok) })
  | 3 => ringLast r false .ok [armFrame s r (if n = 0 then 127 else n)] s
  | 4 => ringLast r false .ok [⟨0xA, 127, [], none⟩] s
  | _ =>
    let s1 := s.setNode r n { s.node r n with got := 0 }
    (s1.setRing r { s1.ring r with job := some (.desc n), descRd := [] }).pushMnt r ⟨0x8, n, [], none⟩

/-- Refusals of a write of page 0x300 + r. -/
def ringCodes (r o v : Nat) (s : State) : List Code :=
  let b := B.ring r
  match o with
  | 0x040 =>
    let held := 0x00FF037F
    refuseIf (nbits v 0 7 == 127) .range ++ outside 1 100 (nbits v 16 8)
      ++ refuseIf (s.pgEnabled (0x300 + r) && (v &&& held) != ((s.rd (b + o)).toNat &&& held)) .state
  | 0x044 => outside 1 255 (nbits v 0 8) ++ outside 1 255 (nbits v 8 8)
  | 0x048 => ringCmdCodes r (nbits v 0 4) (nbits v 8 7) s
  | 0x078 => outside 4 16 (nbits v 0 5)
  | 0x08C => progCodes (progAddr s b RING.PROG_LOAD_LO v) (s.ring r).load.isSome
  | _ => []

def ringDo (r o v : Nat) (s : State) : State :=
  let b := B.ring r
  match o with
  | 0x048 => ringCmdDo r (nbits v 0 4) (nbits v 8 7) s
  | 0x08C =>
    (s.setRing r { s.ring r with load := some ⟨0, progAddr s b RING.PROG_LOAD_LO v⟩ }).wr (b + RING.PROG_RES.off) (BitVec.ofNat 32 (2 ^ 31))
  | _ => s.wr (b + o) (BitVec.ofNat 32 v)

/-- A ring engine program load ends (R138, R335). -/
def ringProgDone (r : Nat) (s : State) : State :=
  match (s.ring r).load with
  | none => s
  | some l =>
    let (c, ws) := progRead smRing l.addr s
    let x := s.ring r
    (s.setRing r { x with load := none, prog := if c = .ok then ws else x.prog }).wr (B.ring r + RING.PROG_RES.off)
      (BitVec.ofNat 32 c.num)

end Sys2Proof.Machine
end

