-- ==== Sys2Proof/Machine/Coll.lean ====
section
/-! DEFINITION. The fault collector: fault word, record, reactions, safety inputs, STO pairs, SS1 and SLS (R403-R441). -/
namespace Sys2Proof.Machine

/-- Both copies of the collector take the same step (R403). -/
def State.modColl (s : State) (f : Coll → Coll) : State := { s with coll := f s.coll, coll2 := f s.coll2 }

/-- What both copies command (R403). -/
def State.bothColl (s : State) (f : Coll → Bool) : Bool := f s.coll && f s.coll2

def State.safeIn (s : State) (i : Nat) : SafeIn := s.coll.ins.get (fun _ => {}) i

def State.setSafeIn (s : State) (i : Nat) (x : SafeIn) : State :=
  s.modColl (fun c => { c with ins := c.ins.set (fun _ => {}) i x })

/-! ### Live bits, severities and the derived flags -/

def liveFld (n : Nat) : Fld := ⟨0x080 + 4 * (n / 32), n % 32, 1⟩

def State.live (s : State) (n : Nat) : Bool := s.flag B.fsw (liveFld n)

/-- The effective severity of a source (R412). -/
def State.sev (s : State) (n : Nat) : Nat := s.fld B.sev ⟨0x040 + 4 * (n / 16), 2 * (n % 16), 2⟩

/-- Whether a live bit of a source of a severity is set (R411). -/
def State.anyLive (s : State) (sev : Nat) : Bool :=
  (List.range 16).any (fun k => s.rd (B.fsw + FSW.LIVE.off + 4 * k) != 0
    && (List.range 32).any (fun b => s.live (32 * k + b) && s.sev (32 * k + b) == sev))

def State.ssLatched (s : State) : Bool := s.flag B.coll COLL.STAT_SS_LATCHED

/-- FAULT_A and FAULT_B: the waves run while both copies of the collector command them (R403, R421, R422). -/
def faultBalls (s : State) : State :=
  let s1 := s.modColl (fun c => { c with ssHold := s.ssLatched || (c.ssHold && s.mode == mFelt) })
  s1.setFld B.coll COLL.STAT_FAULT_RUN (b2n (s1.bothColl (fun c => c.started && !c.ssHold && !c.gauzeHold)))

/-- SS_LATCHED, DEGRADED and ROOT_LOST of COLL.STAT, the safe-stop lines and the FAULT balls follow the live bits (R411, R419). -/
def collRefresh (s : State) : State :=
  let was := s.ssLatched
  let now := s.anyLive 3
  let s1 := ((s.setFld B.coll COLL.STAT_SS_LATCHED (b2n now)).setFld B.coll COLL.STAT_DEGRADED (b2n (s.anyLive 2))).setFld B.coll
    COLL.STAT_ROOT_LOST (b2n (s.live 0))
  faultBalls (if was ∧ ¬ now then safeLines false s1 else s1)

/-! ### STO pairs and stop functions (R426, R428) -/

def State.stoCfg (s : State) (n : Nat) (f : Fld) : Nat := s.fld B.coll (f.nth 4 n)

def State.stoRun (s : State) (n : Nat) : Bool := nbit (s.fld B.coll COLL.STAT_STO_RUN) n
def State.ss1Run (s : State) (n : Nat) : Bool := nbit (s.fld B.coll COLL.STAT_SS1_RUN) n

def runFld (n : Nat) : Fld := ⟨0x040, 8 + n, 1⟩
def ss1Fld (n : Nat) : Fld := ⟨0x040, 24 + n, 1⟩

/-- A pair enters its stop state; its stop function is over. -/
def pairStop (n : Nat) (s : State) : State :=
  let s1 := s.setFld B.coll (ss1Fld n) 0
  if s.stoRun n then (s1.setFld B.coll (runFld n) 0).irq 501 else s1

/-- A pair enters its run state. -/
def pairRun (n : Nat) (s : State) : State := if s.stoRun n then s else (s.setFld B.coll (runFld n) 1).irq 501

/-- A pair's stop function begins (R428). -/
def pairBegin (n : Nat) (s : State) : State :=
  if ¬ s.stoRun n ∨ s.ss1Run n then s
  else if s.stoCfg n COLL.STO_CFG_MODE = 0 then pairStop n s
  else s.setFld B.coll (ss1Fld n) 1

def pairsBegin (mask : Nat) (s : State) : State :=
  (List.range 8).foldl (fun a n => if nbit mask n then pairBegin n a else a) s

/-- The safe speed of a pair's SS1-r is at or below its stop speed (R428). -/
def State.ss1Slow (s : State) (n : Nat) : Bool :=
  match s.safeSpeed (s.stoCfg n COLL.STO_CFG_SPEED_PAIR) with
  | some v => decide (v ≤ (s.rd (B.coll + COLL.STO_SPD.off + 4 * n)).toNat)
  | none => false

/-- Pairs whose SS1-r finds its speed reached enter their stop state (R428). -/
def ss1Check (s : State) : State :=
  (List.range 8).foldl (fun a n =>
    if a.ss1Run n ∧ a.stoCfg n COLL.STO_CFG_MODE = 2 ∧ a.ss1Slow n then pairStop n a else a) s

/-- What a record says of the safe speed (R416). -/
def speedWord : Option Nat → W32
  | some v => BitVec.ofNat 32 v
  | none => 0xFFFFFFFF

/-! ### Safety inputs and SLS (R423, R425, R429) -/

def State.siCfg (s : State) (i : Nat) (f : Fld) : Nat := s.fld B.coll (f.nth 4 i)

/-- Whether channel A and channel B show a demand (R423). -/
def State.siShow (s : State) (i : Nat) : Bool × Bool :=
  let x := s.safeIn i
  (!x.lvA, if s.siCfg i COLL.SI_CFG_ANTIVALENT = 1 then x.lvB else !x.lvB)

def State.siDemand (s : State) (i : Nat) : Bool := nbit (s.fld B.coll COLL.SI_STAT_DEMAND) i
def State.siFault (s : State) (i : Nat) : Bool := nbit (s.fld B.coll COLL.SI_STAT_FAULT) i

/-- The detail word of sources 416 to 447 (R416). -/
def siDetail (s : State) (i : Nat) : W32 :=
  let x := s.safeIn i
  BitVec.ofNat 32 (b2n x.lvA + 2 * b2n x.lvB + 4 * b2n x.rawA + 8 * b2n x.rawB)

/-- The pairs that an active STOP demand names (R426). -/
def State.siStops (s : State) : Nat :=
  (List.range 16).foldl (fun m i =>
    if s.siDemand i ∧ s.siCfg i COLL.SI_CFG_FUNC = 1 then m ||| s.siCfg i COLL.SI_CFG_PAIRS else m) 0

/-- Whether SLS of a pair is active (R429). -/
def State.slsOn (s : State) (p : Nat) : Bool :=
  let c := COLL.SLS_CTL_ALWAYS.nth 8 p
  s.flag B.coll c || (s.flag B.coll (COLL.SLS_CTL_BY_INPUT.nth 8 p)
    && (List.range 16).any (fun i => s.siDemand i && s.siCfg i COLL.SI_CFG_FUNC == 2 && s.siCfg i COLL.SI_CFG_SLS_PAIR == p))

/-- SLS of one pair: its active state and the condition of source 456 + p (R429). -/
def slsPair (p : Nat) (s : State) : State :=
  let on := s.slsOn p
  let f : Fld := ⟨0x040, 16 + p, 1⟩
  let s1 := if s.flag B.coll f = on then s else (s.setFld B.coll f (b2n on)).irq 500
  let fast : Bool := match s1.safeSpeed p with
    | some v => decide ((s1.rd (B.coll + COLL.SLS_LIM.off + 8 * p)).toNat < v)
    | none => true
  if on ∧ fast then s1.raiseCond (456 + p) (speedWord (s1.safeSpeed p)) else s1.endCond (456 + p)

def slsAll (s : State) : State := (List.range 4).foldl (fun a p => slsPair p a) s

/-- The demand of an input follows its channels and its configuration (R423). -/
def siDemandRefresh (i : Nat) (s : State) : State :=
  let d := s.siCfg i COLL.SI_CFG_FUNC != 0 && ((s.siShow i).1 || (s.siShow i).2)
  if d = s.siDemand i then s
  else
    let s1 := (s.setFld B.coll ⟨0x05C, i, 1⟩ (b2n d)).irq (512 + i)
    if ¬ d then s1.endCond (416 + i)
    else
      let s2 := s1.raiseCond (416 + i) (siDetail s1 i)
      if s.siCfg i COLL.SI_CFG_FUNC = 1 then pairsBegin (s.siCfg i COLL.SI_CFG_PAIRS) s2 else s2

/-- A fault of an input begins (R424, R425). -/
def siFaultBegin (i : Nat) (s : State) : State :=
  if s.siFault i then s
  else
    let s1 := s.setSafeIn i { s.safeIn i with clear := !(s.siShow i).1 && !(s.siShow i).2, okA := false, okB := false }
    ((s1.setFld B.coll ⟨0x05C, 16 + i, 1⟩ 1).irq (512 + i)).raiseCond (432 + i) (siDetail s i)

/-- A fault of an input ends once both channels showed no demand together and passed a pulse each where pulses test them (R425). -/
def siFaultRefresh (i : Nat) (s : State) : State :=
  if ¬ s.siFault i then s
  else
    let clear := (s.safeIn i).clear || (!(s.siShow i).1 && !(s.siShow i).2)
    let x := { s.safeIn i with clear := clear }
    let s1 := s.setSafeIn i x
    if clear ∧ (s.siCfg i COLL.SI_CFG_TP_EN = 0 ∨ (x.okA ∧ x.okB)) then
      ((s1.setFld B.coll ⟨0x05C, 16 + i, 1⟩ 0).irq (512 + i)).endCond (432 + i)
    else s1

/-- Every input, every SLS state and every SS1-r after a change of what they depend on. -/
def inputsRefresh (s : State) : State :=
  slsAll ((List.range 16).foldl (fun a i => siFaultRefresh i (siDemandRefresh i a)) s)

/-! ### The reactions (R413-R418) -/

/-- The unit that a Degrade reaction takes out of service here (R417); the other units' blocks do it themselves. -/
def degradeUnit (a : Assertion) (s : State) : State :=
  let n := a.src.toNat
  if n = 237 then
    match a.addr, a.addrMismatch with
    | some x, true =>
      if inRange 0x10000000 0x10FFFFFF x.toNat then
        { s with fab := { s.fab with badBanks := s.fab.badBanks ||| BitVec.ofNat 16 (2 ^ (x.toNat / 0x100000 % 256)) } }
      else s
    | _, _ => s
  else if 256 ≤ n ∧ n < 400 ∧ (n - 256) % 9 = 0 then ringEndOut ((n - 256) / 9) s
  else s

/-- Steps 1 to 3 of a Safe stop (R418). -/
def safeStop (s : State) : State :=
  let s1 := s.setFld B.coll COLL.STAT_SS_LATCHED 1
  safeLines true (pairsBegin 0xFF (s1.modColl (fun c => { c with stop := true })))

/-- Opens the record for a source (R415, R416). After a root clock loss the time is the last device time and 50 ns for each cycle of the
collector's oscillator since; how many there were is a free value (log entry 3). -/
def recOpen (a : Raised) (s : State) : State :=
  let n := a.src.toNat
  let info := n + s.sev n * 1024 + s.sev n * 4096 + b2n s.dev.rootLost * 2 ^ 14 + b2n a.addr.isSome * 2 ^ 15
    + (if a.addr.isSome then a.access.toNat else 0) * 2 ^ 16 + 2 ^ 31
  let s1 := s.wr (B.recd + REC.REC_INFO.off) (BitVec.ofNat 32 info)
  let s2 := s1.wr (B.recd + REC.REC_MASTER.off) (if a.addr.isSome then a.master else 0)
  let s3 := s2.wr64 (B.recd + REC.REC_ADDR_LO.off) (BitVec.ofNat 64 (a.addr.getD 0).toNat)
  let (t, s4) := if s.dev.rootLost then (s.now + 800 * s3.free.1, s3.free.2) else (a.time, s3)
  let s5 := (s4.wr64 (B.recd + REC.REC_T_LO.off) t).wr (B.recd + REC.REC_DETAIL.off) a.detail
  ((s5.wr (B.recd + REC.REC_MERGE.off) 0).incSat B.recd REC.REC_CNT).irq 496

/-- Merges a source into the open record (R415). -/
def recMerge (n : Nat) (s : State) : State :=
  let s1 := (s.incSat B.recd REC.REC_MERGE_COUNT).setFld B.recd REC.REC_MERGE_LAST n
  (s1.setFld B.recd REC.REC_INFO_SEV_MAX (max (s.fld B.recd REC.REC_INFO_SEV_MAX) (s.sev n))).irq 497

/-- The reaction to one source (R413). `opener`: the source that opens the record in this cycle. -/
def react (a : Assertion) (s : State) : State :=
  let n := a.src.toNat
  let s1 := s.setFld B.fsw (liveFld n) 1
  let s2 := if 2 ≤ s.sev n then (degradeUnit a s1).irq 498 else s1
  if s.sev n = 3 then safeStop s2 else s2

/-- A receive lane of a port loses lock; while the port's break is a Degrade that asserts, the ring end goes out of service with it (R417). -/
def laneLost (r : Nat) (lane : Bool) (s : State) : State :=
  let s1 := laneLock r lane false s
  if s.flag B.fsw (liveFld (256 + 9 * r)) ∧ 2 ≤ s.sev (256 + 9 * r) then ringEndOut r s1 else s1

/-- Puts a source before the first of a higher number: the ascending order in which one cycle takes its sources (DESIGN CHOICE, log
entry 27). -/
def insSource (a : Raised) : List Raised → List Raised
  | [] => [a]
  | b :: t => if a.src.toNat ≤ b.src.toNat then a :: b :: t else b :: insSource a t

/-- The source that opens the record: the highest severity, and of those the lowest number (R415). -/
def openerOf (s : State) (as : List Raised) : Option Raised :=
  as.foldl (fun o a =>
    if s.sev a.src.toNat = 0 then o
    else match o with
      | some b => if s.sev b.src.toNat < s.sev a.src.toNat then some a else o
      | none => some a) none

/-- The record's part of a cycle: the opener opens it, every other source merges, or is counted where none opens (R413, R415). -/
def recordAll (s : State) (as : List Raised) : State :=
  if s.flag B.recd REC.REC_INFO_VALID then as.foldl (fun c a => recMerge a.src.toNat c) s
  else match openerOf s as with
    | some o => (as.erase o).foldl (fun c a => recMerge a.src.toNat c) (recOpen o s)
    | none => as.foldl (fun c _ => c.incWrap B.coll COLL.LOG_CNT) s

/-- A source line that asserts from outside: a condition already held asserts nothing (R405). -/
def offer (a : Assertion) (s : State) : State :=
  if srcIsCond a.src.toNat then
    if s.dev.conds.contains a.src.toNat then s
    else { s with dev := { s.dev with conds := a.src.toNat :: s.dev.conds } }.raiseA a
  else s.raiseA a

/-- A collector cycle that takes every waiting source (R403, R413, R414); a reserved number never becomes set (R404). Source 5 is among them
where the two copies differ. -/
def collCycle (s0 : State) : State :=
  let s := if s0.coll = s0.coll2 then s0 else s0.raise 5
  let as := (s.raised.filter (fun a => (sevOf a.src.toNat).isSome)).foldr insSource []
  let s1 := ss1Check { s with raised := [] }
  collRefresh (as.foldl (fun c a => react a.toAssertion c) (recordAll s1 as))

/-! ### Modes (R422, R426) -/

/-- The device leaves one mode and has entered another: STO pairs and FAULT balls. `wasRun`: it was a run mode. -/
def collMode (wasRun : Bool) (s : State) : State :=
  let s1 :=
    if wasRun = s.runMode then s
    else if wasRun then (List.range 8).foldl (fun a n => if a.ss1Run n then a else pairStop n a) s
    else
      let stops := s.siStops
      (List.range 8).foldl (fun a n =>
        if a.stoCfg n COLL.STO_CFG_RUN_EN = 1 ∧ ¬ a.ss1Run n ∧ ¬ nbit stops n then pairRun n a else a) s
  faultBalls s1

/-! ### Events of the inputs and outputs -/

/-- A channel's level has held for FILT samples (R423). -/
def siAccept (i : Nat) (chB lvl rawA rawB : Bool) (s : State) : State :=
  let x := { s.safeIn i with rawA := rawA, rawB := rawB }
  let y := if chB then { x with lvB := lvl } else { x with lvA := lvl }
  collCycle (inputsRefresh (s.setSafeIn i y))

/-- Discrepant filtered levels have lasted 2^DISC ms (R425). -/
def siDiscrepant (i : Nat) (s : State) : State :=
  let sh := s.siShow i
  if s.siCfg i COLL.SI_CFG_FUNC ≠ 0 ∧ sh.1 ≠ sh.2 then collCycle (siFaultBegin i s) else s

/-- TPOk goes low (R424): inputs out of demand that it feeds must show the pulse. -/
def tpPulse (k : Nat) (s : State) : State :=
  if ¬ nbit (s.fld B.coll COLL.SI_TP_EN) k then s
  else (List.range 16).foldl (fun a i =>
    if a.siCfg i COLL.SI_CFG_FUNC ≠ 0 ∧ a.siCfg i COLL.SI_CFG_TP_EN = 1 ∧ ¬ a.siDemand i then
      let x := a.safeIn i
      a.setSafeIn i { x with waitA := x.waitA || a.siCfg i COLL.SI_CFG_TPO_A == k, waitB := x.waitB || a.siCfg i COLL.SI_CFG_TPO_B == k }
    else a) (s.emit (.tpo k (s.fld B.coll COLL.SI_TP_WIDTH)))

/-- The end of a pulse's window at an input (R424). -/
def tpCheck (i : Nat) (seenA seenB : Bool) (s : State) : State :=
  let x := s.safeIn i
  let y := { x with waitA := false, waitB := false }
  if s.siDemand i then s.setSafeIn i y
  else if (x.waitA ∧ ¬ seenA) ∨ (x.waitB ∧ ¬ seenB) then collCycle (siFaultBegin i (s.setSafeIn i y))
  else
    let z := if x.clear then { y with okA := x.okA || x.waitA, okB := x.okB || x.waitB } else y
    collCycle (siFaultRefresh i (s.setSafeIn i z))

/-- The detail word of sources 448 to 455 (R416). -/
def stoDetail (s : State) (n : Nat) (back : Nat) : W32 :=
  BitVec.ofNat 32 ((if s.stoRun n then 1 else 2) + 4 * (back % 4))

/-- The next pair in the run state, in ascending order from the one after the last tested (R427). -/
def State.stoNextPair (s : State) : Option Nat :=
  ((List.range 8).map (fun k => (s.coll.stoNext + k) % 8)).find? (fun n => s.stoRun n)

/-- An STO test pulse (R427). The read-back levels of a missed pulse are not given: a free value (log entry 28). -/
def stoPulse (appeared : Bool) (s : State) : State :=
  if ¬ s.flag B.coll COLL.STO_TP_EN then s
  else match s.stoNextPair with
    | none => s
    | some n =>
      let s1 := (s.modColl (fun c => { c with stoNext := (n + 1) % 8 })).emit (.stoPulse n (s.fld B.coll COLL.STO_TP_WIDTH))
      if appeared then s1
      else
        let (v, s2) := s1.free
        let s3 := s2.modColl (fun c => { c with missed := c.missed ||| BitVec.ofNat 8 (2 ^ n) })
        collCycle (s3.raiseCond (448 + n) (BitVec.ofNat 32 (2 + 4 * (v.toNat % 4))))

/-- An STO read-back differs from the command for 2 cycles (R427). -/
def stoMismatch (n : Nat) (a b : Bool) (s : State) : State :=
  if a = s.stoRun n ∧ b = !s.stoRun n then s
  else collCycle (s.raiseCond (448 + n) (stoDetail s n (b2n a + 2 * b2n b)))

/-- The delay of a pair's SS1 ends (R428). -/
def ss1End (n : Nat) (s : State) : State :=
  if ¬ s.ss1Run n then s
  else
    let s1 := pairStop n s
    if s.stoCfg n COLL.STO_CFG_MODE = 2 ∧ ¬ s.ss1Slow n then
      collCycle (s1.raiseA ⟨460, none, 0, 0, speedWord (s.safeSpeed (s.stoCfg n COLL.STO_CFG_SPEED_PAIR)), false⟩)
    else s1

/-- A condition ceases (R405). The collector itself knows those of the inputs, the SLS limits and missed STO pulses of a pair
outside its stop state (R425, R427, R429). -/
def condCeases (n : Nat) (s : State) : State :=
  if inRange 416 447 n ∨ inRange 456 459 n then s
  else if inRange 448 455 n then
    if nbit s.coll.missed.toNat (n - 448) ∧ s.stoRun (n - 448) then s
    else (s.modColl (fun c => { c with missed := c.missed &&& ~~~ BitVec.ofNat 8 (2 ^ (n - 448)) })).endCond n
  else s.endCond n

/-! ### Registers (R410, R412, R415, R426, R433-R435) -/

/-- The registers of R434 on page 0x010, in order. -/
def safeOffsets : List Nat :=
  [0x054, 0x058] ++ (List.range 16).map (fun i => 0x080 + 4 * i) ++ (List.range 8).map (fun i => 0x0C0 + 4 * i)
    ++ (List.range 8).map (fun i => 0x0E0 + 4 * i) ++ (List.range 4).map (fun i => 0x100 + 8 * i)
    ++ (List.range 4).map (fun i => 0x104 + 8 * i)

/-- The keys of the safety configuration, in order (R434). -/
def safeKeys : List Nat :=
  safeOffsets.map (B.coll + ·) ++ (List.range 32).map (fun k => B.sev + 0x040 + 4 * k)
    ++ [0, 2, 4, 6].flatMap (fun n => [B.shaft n + SHAFT.SAFE_CTL.off, B.shaft n + SHAFT.SAFE_ANG_TOL.off,
      B.shaft n + SHAFT.SAFE_SPD_TOL.off])

/-- COLL.SAFE_CRC (R434). -/
def State.safeCrc (s : State) : W32 := BitVec.ofNat 32 (crc32c (safeKeys.flatMap (fun k => leBytes 4 (s.rd k).toNat)))

/-- Whether an input with a configuration word lies below its outputs' WIDTH + 2 (R424). -/
def tpShort (cfg width : Nat) : Bool := nbit cfg 11 && decide (cfg % 256 < width + 2)

/-- Refusals of a write of page 0x010. -/
def collCodes (o v : Nat) (s : State) : List Code :=
  let cfg (r : List Code) : List Code := refuseIf (s.mode != mCalico) .state ++ r
  if o = 0x044 then refuseIf (v != 0xA5) .key
  else if o = 0x048 then
    refuseIf (!s.runMode || (List.range 8).any (fun n => nbit v n
      && (s.stoCfg n COLL.STO_CFG_RUN_EN == 0 || s.ss1Run n || nbit s.siStops n))) .state
  else if o = 0x050 then cfg []
  else if o = 0x054 then
    cfg (outside 1 253 (nbits v 0 8) ++ refuseIf (nbits v 8 8 == 0) .range
      ++ refuseIf ((List.range 16).any (fun i => tpShort (s.rd (B.coll + 0x080 + 4 * i)).toNat (nbits v 0 8))) .range)
  else if o = 0x058 then cfg (outside 2 20 (nbits v 0 8) ++ outside 1 100 (nbits v 8 8))
  else if inRange 0x080 0x0BF o then
    cfg (refuseIf (decide (nbits v 0 8 < 4)) .range ++ refuseIf (nbits v 8 2 == 3) .range ++ refuseIf (decide (10 < nbits v 18 4)) .range
      ++ refuseIf (tpShort v (s.fld B.coll COLL.SI_TP_WIDTH)) .range)
  else if inRange 0x0C0 0x0DF o then
    cfg (refuseIf (nbits v 0 2 == 3) .range ++ refuseIf (decide (10000 < nbits v 16 14)) .range
      ++ refuseIf (inRange 1 2 (nbits v 0 2) && nbits v 16 14 == 0) .range)
  else if inRange 0x0E0 0x0FF o ∨ (inRange 0x100 0x11F o ∧ o % 8 = 0) then cfg (refuseIf (v == 0) .range)
  else cfg []

/-- The effect of an admitted write of page 0x010. -/
def collDo (o v : Nat) (s : State) : State :=
  if o = 0x044 then collCycle (s.raise 9)
  else if o = 0x048 then (List.range 8).foldl (fun a n => if nbit v n then pairRun n a else a) s
  else collCycle (inputsRefresh (s.wr (B.coll + o) (BitVec.ofNat 32 v)))

/-- FSW_LIVE: ones clear the bits whose condition does not hold (R410). -/
def fswDo (o v : Nat) (s : State) : State :=
  let k := (o - 0x080) / 4
  collRefresh ((List.range 32).foldl (fun a b =>
    if nbit v b ∧ ¬ a.dev.conds.contains (32 * k + b) then a.setFld B.fsw (liveFld (32 * k + b)) 0 else a) s)

/-- REC_CLOSE (R415). -/
def recCodes (v : Nat) (s : State) : List Code := refuseIf (nbit v 0 && !s.flag B.recd REC.REC_INFO_VALID) .state

def recDo (v : Nat) (s : State) : State := if nbit v 0 then s.setFld B.recd REC.REC_INFO_VALID 0 else s

/-- Severities (R412). -/
def sevCodes (o v : Nat) (s : State) : List Code :=
  let k := (o - 0x040) / 4
  refuseIf (s.mode != mCalico) .state
    ++ refuseIf ((List.range 16).any (fun j =>
      match sevOf (16 * k + j) with | some p => decide (nbits v (2 * j) 2 < p.2) | none => false)) .range
    ++ refuseIf ((List.range 16).any (fun j => (sevOf (16 * k + j)).isNone && nbits v (2 * j) 2 != 0)) .rsvdBit

def sevDo (o v : Nat) (s : State) : State := collRefresh (s.wr (B.sev + o) (BitVec.ofNat 32 v))

end Sys2Proof.Machine
end

