-- ==== Sys2Proof/Machine/Sequencer.lean ====
section
/-! DEFINITION. The pattern sequencer: the track check, rows, slices, appends and states (R271-R276, R282). -/
namespace Sys2Proof.Machine

def seqIdle : Nat := 0
def seqLoaded : Nat := 1
def seqRunning : Nat := 2
def seqPaused : Nat := 3
def seqError : Nat := 4
def seqDone : Nat := 5

def State.seqSt (s : State) : Nat := s.fld B.seq SEQ.STAT_STATE

def State.setSeq (s : State) (x : Seq) : State := { s with seq := x }

/-- Enters a state; the lane-count event looks at it (R268). -/
def seqGo (st : Nat) (s : State) : State := fewCheck (s.setFld B.seq SEQ.STAT_STATE st)

/-! ### Reading and checking a track (R271-R273) -/

/-- Reads track bytes through stream 1. None where the I/O unit refuses, the bytes are not in fitted DRAM, or one of them holds an
uncorrectable error. -/
def seqRead (a n : Nat) (s : State) : Option (List Byte) × State :=
  match s.ioPieces 1 false (splitLines (lineCount n) a n) with
  | .error (x, lv, r, s1) => (none, s1.ioRefuse 1 x false lv r)
  | .ok (ps, s1) =>
    if ps.all (fun p => s1.region p.1 == .dram && s1.region (p.1 + p.2 - 1) == .dram) then
      s1.ioBytes 1 ps
    else (none, s1)

/-- A little-endian field of a record. -/
def fieldAt (l : List Byte) (o n : Nat) : Nat := leNat ((l.drop o).take n)

/-- Bytes of a bitmap of a width. -/
def bitmapBytes (width : Nat) : Nat := (width + 255) / 256 * 32

/-- The header's meaning. -/
def trackOf (a : Nat) (h : List Byte) : Track :=
  { addr := a, loop := nbit (fieldAt h 0x06 2) 0, rows := fieldAt h 0x08 4, width := fieldAt h 0x0C 2, rowB := fieldAt h 0x0E 2
    firstQ := fieldAt h 0x10 2, prog := fieldAt h 0x12 1, revs := fieldAt h 0x13 1, cycles := fieldAt h 0x14 4
    onAct := fieldAt h 0x18 1, offAct := fieldAt h 0x19 1, flags := BitVec.ofNat 16 (fieldAt h 0x1A 2)
    onP := BitVec.ofNat 32 (fieldAt h 0x1C 4), offP := BitVec.ofNat 32 (fieldAt h 0x20 4) }

/-- The header's refusals, but for ROWS_CRC. -/
def headerCodes (h : List Byte) (t : Track) (s : State) : List Code :=
  refuseIf (decide (1 < fieldAt h 0x06 2) || fieldAt h 0x28 20 != 0 || bf t.flags 3 13 != 0) .rsvdBit
  ++ refuseIf (fieldAt h 0 4 != 0x4B525450 || fieldAt h 4 2 != 1 || !inRange 1 16777216 t.rows || !inRange 1 16384 t.width
      || t.rowB != 16 + bitmapBytes t.width || decide (16384 < t.firstQ + t.width) || !(t.prog == 0xFF || decide (t.prog < 16))
      || t.revs == 0 || !(t.onAct == 0 || t.onAct == 2 || t.onAct == 3) || !inRange 1 3 t.offAct
      || (t.onAct == 2 && t.onP == 0) || (t.offAct == 2 && t.offP == 0) || t.addr % 64 != 0) .range
  ++ refuseIf (fieldAt h 0x3C 4 != crc32c (h.take 0x3C)) .integrity
  ++ refuseIf (t.prog != 0xFF && !s.seq.progs.has t.prog) .absent

/-- A row's refusals, given the place of the row before. -/
def rowCodes (t : Track) (prev : Option (Nat × Nat)) (r : List Byte) : List Code :=
  let cyc := fieldAt r 0 4
  let ofs := fieldAt r 8 8
  let bits := leNat (r.drop 16)
  let before := match prev with | some p => decide (cyc < p.1) || (cyc == p.1 && decide (ofs ≤ p.2)) | none => false
  refuseIf (decide (1 < fieldAt r 4 4) || bits / 2 ^ t.width != 0) .rsvdBit
  ++ refuseIf (decide (t.cycles ≤ cyc) || decide (t.revs * 2 ^ 32 ≤ ofs)) .range ++ refuseIf before .order

/-- Checks `k` rows from row `i` on; `crc` is the running CRC-32C. -/
def rowsCheck (t : Track) : Nat → Nat → Option (Nat × Nat) → Nat → List Code → State → List Code × Nat × State
  | 0, _, _, crc, cs, s => (cs, crc, s)
  | k + 1, i, prev, crc, cs, s =>
    match seqRead (t.addr + 64 + i * t.rowB) t.rowB s with
    | (none, s1) => (.range :: cs, crc, s1)
    | (some r, s1) =>
      rowsCheck t k (i + 1) (some (fieldAt r 0 4, fieldAt r 8 8)) (r.foldl (crcByte (crcPoly 1)) crc)
        [Code.lowest (rowCodes t prev r ++ cs)] s1

/-- Whether the header says where the rows lie: its MAGIC and VERSION, and ROWS, WIDTH and ROW_BYTES (R271). -/
def rowsLie (h : List Byte) (t : Track) : Bool :=
  fieldAt h 0 4 == 0x4B525450 && fieldAt h 4 2 == 1 && inRange 1 16777216 t.rows && inRange 1 16384 t.width
    && t.rowB == 16 + bitmapBytes t.width

/-- The whole check of R273: the code, the track and the state after the reads. Under a header that does not say where its rows lie no
row is read (DEDUCED, log entry 102). -/
def trackCheck (a : Nat) (s : State) : Code × Track × State :=
  match seqRead a 64 s with
  | (none, s1) => (.range, trackOf a [], s1)
  | (some h, s1) =>
    let t := trackOf a h
    let hc := headerCodes h t s1
    if !rowsLie h t then (Code.lowest hc, t, s1)
    else
      let (rc, crc, s2) := rowsCheck t t.rows 0 none 0xFFFFFFFF [] s1
      (Code.lowest (hc ++ rc ++ refuseIf (crc ^^^ 0xFFFFFFFF != fieldAt h 0x24 4) .integrity), t, s2)

/-- The end of a LOAD (R273). -/
def seqLoadDone (s : State) : State :=
  match s.seq.loading with
  | none => s
  | some a =>
    let (c, t, s1) := trackCheck a s
    let s2 := (s1.setSeq { s1.seq with loading := none }).setFld B.seq SEQ.STAT_CODE c.num
    (if c = .ok then seqGo seqLoaded (s2.setSeq { s2.seq with track := some t, cur := none, req := none }) else s2).irq 208

/-! ### Rows (R272, R274, R275) -/

/-- The target of a row. -/
def rowTarget (t : Track) (base pass : W64) (cyc : Nat) (ofs : W64) : W64 :=
  base + (pass * BitVec.ofNat 64 t.cycles + BitVec.ofNat 64 cyc) * BitVec.ofNat 64 (t.revs * 2 ^ 32) + ofs

/-- Stops in ERROR; `ev`: the error event is still to be raised. -/
def seqFail (c : Option Code) (ev : Bool) (s : State) : State :=
  let s1 := match c with | some c => s.setFld B.seq SEQ.STAT_CODE c.num | none => s
  let s2 := (seqGo seqError (s1.setSeq { s1.seq with cur := none, req := none })).irq 210
  if ev then s2.raiseUnit 228 3 0 else s2

/-- Takes a requested PAUSE or STOP. -/
def seqTakeReq (s : State) : State :=
  match s.seq.req with
  | none => s
  | some true => seqGo seqLoaded (s.setSeq { s.seq with req := none, cur := none })
  | some false => seqGo seqPaused (s.setSeq { s.seq with req := none })

/-- Begins a slice: the program, then the appends it needs. -/
def sliceBegin (t : Track) (c : SeqRow) (s : State) : State :=
  let inp := (c.bytes.drop (32 * c.slice)).take 32
  let (out, bad, s1) : List Byte × Bool × State :=
    if t.prog = 0xFF then (inp, false, s)
    else
      let ins : List (Nat × W64) := [(3, BitVec.ofNat 64 (32 * c.slice)), (5, BitVec.ofNat 64 c.cycle),
        (6, BitVec.ofNat 64 (c.ofs.toNat % 2 ^ 32)), (7, BitVec.ofNat 64 c.slice)]
      match smGo ((s.seq.progs.find t.prog).getD []) (smStart ins c.bytes inp) with
      | none => (inp, true, s.raiseUnit 228 3 0)
      | some r =>
        let s2 := s.setFld B.seq SEQ.ROW_SUM (s.fld B.seq SEQ.ROW_SUM + (r.th.reg 1).toNat)
        (r.win4, false, if r.th.reg 4 = 0 then s2 else (s2.incWrap B.seq SEQ.HIT_CNT).irq 214)
  let bits := leNat out
  let left := (List.range 256).filterMap (fun i =>
    let n := 256 * c.slice + i
    let q := t.firstQ + n
    let v := nbit bits i
    if n < t.width ∧ (c.full ∨ v ≠ s1.seq.vec.get (fun _ => false) q) then
      some (q, (⟨c.target, BitVec.ofNat 16 (if v then t.onAct else t.offAct), t.flags, if v then t.onP else t.offP⟩ : RawEntry))
    else none)
  s1.setSeq { s1.seq with cur := some { c with out := out, left := left, bad := bad } }

/-- The row after the last slice (R276, R278). -/
def rowEnd (t : Track) (c : SeqRow) (s : State) : State :=
  let s1 := s.setSeq { s.seq with cur := none }
  let s2 := if c.first then s1.irq 209 else s1
  let next := s2.fld B.seq SEQ.ROW + 1
  if next < t.rows then s2.setFld B.seq SEQ.ROW next
  else
    let s3 := (s2.incWrap B.seq SEQ.PASS).setFld B.seq SEQ.ROW (if t.loop then 0 else next)
    if t.loop then s3.setSeq { s3.seq with lastPos := none }
    else (seqGo seqDone (s3.setSeq { s3.seq with req := none })).irq 211

/-- Ends a slice: the state vector, the next slice or row, then what was requested. -/
def sliceEnd (t : Track) (c : SeqRow) (s : State) : State :=
  let bits := leNat c.out
  let vec := (List.range 256).foldl (fun v i =>
    let n := 256 * c.slice + i
    if n < t.width then v.set (fun _ => false) (t.firstQ + n) (nbit bits i) else v) s.seq.vec
  let s1 := s.setSeq { s.seq with vec := vec, cur := some { c with slice := c.slice + 1, out := [], left := [] } }
  if c.bad then seqFail none false s1
  else seqTakeReq (if t.width ≤ 256 * (c.slice + 1) then rowEnd t c s1 else s1)

/-- One append of the slice. -/
def sliceAppend (c : SeqRow) (q : Nat) (e : RawEntry) (rest : List (Nat × RawEntry)) (s : State) : State × Bool :=
  match queueAppend .seq (BitVec.ofNat 16 q) e s with
  | (s1, .ok) =>
    ((s1.setSeq { s1.seq with cur := some { c with left := rest }, waited := false }).incWrap B.seq SEQ.EMIT_CNT, true)
  | (s1, .full) =>
    let s2 := s1.incSat B.seq SEQ.WAIT_CNT
    (if s2.seq.waited then s2 else (s2.setSeq { s2.seq with waited := true }).irq 212, false)
  | (s1, code) => (seqFail (some code) true s1, false)

/-- Emits until the row ends, an append waits on FULL, or the sequencer leaves RUNNING. -/
def seqEmit : Nat → State → State
  | 0, s => s
  | k + 1, s =>
    match s.seqSt == seqRunning, s.seq.track, s.seq.cur with
    | true, some t, some c =>
      match c.out, c.left with
      | [], _ => if s.pgRunning 0x220 then seqEmit k (sliceBegin t c s) else s
      | _, [] => seqEmit k (sliceEnd t c s)
      | _, (q, e) :: rest =>
        let (s1, go) := sliceAppend c q e rest s
        if go then seqEmit k s1 else s1
    | _, _, _ => s

/-- Steps that no row exceeds: 64 slices, each with 256 appends, a beginning and an end. -/
def seqFuel : Nat := 64 * 258 + 1

/-- Takes the next row when it comes within AHEAD of the master shaft; a row begun before a PAUSE goes on first. -/
def seqTake (s : State) : State :=
  match s.seqSt == seqRunning && s.pgRunning 0x220, s.seq.track, s.seq.cur with
  | true, some t, none =>
    let n := s.fld B.angle ANGLE.MASTER
    if ¬ s.snapOk n then s
    else match seqRead (t.addr + 64 + s.fld B.seq SEQ.ROW * t.rowB) t.rowB s with
      | (none, s1) => seqFail (some .range) true s1
      | (some r, s1) =>
        let cyc := fieldAt r 0 4
        let ofs := BitVec.ofNat 64 (fieldAt r 8 8)
        let pass := s1.fld B.seq SEQ.PASS
        let target := rowTarget t (s1.rd64 (B.seq + SEQ.BASE_LO.off)) (BitVec.ofNat 64 pass) cyc ofs
        let late := match s1.seq.lastPos with
          | some p => decide (cyc < p.1) || (cyc == p.1 && decide (ofs.toNat ≤ p.2))
          | none => false
        if (s1.fld B.seq SEQ.AHEAD : Int) * 256 < diff64 target (s1.rd64 (B.shaft n + SHAFT.SNAP_A_LO.off)) then s1
        else if late then seqFail (some .order) true s1
        else
          let q := s1.seq
          let row : SeqRow := ⟨r.drop 16, cyc, ofs, target, nbit (fieldAt r 4 4) 0 || q.fresh, 0, [], [], false,
            q.lastCyc != some (cyc, pass)⟩
          seqEmit seqFuel ((s1.setSeq { q with
            cur := some row, fresh := false, lastCyc := some (cyc, pass), lastPos := some (cyc, ofs.toNat) }).setFld
            B.seq SEQ.ROW_SUM 0)
  | true, some _, some c => if c.out.isEmpty then seqEmit seqFuel s else s
  | _, _, _ => s

/-- A retry of the append that waits on FULL (R274). -/
def seqRetry (s : State) : State :=
  match s.seq.cur with
  | some c => if c.left.isEmpty then s else seqEmit seqFuel s
  | none => s

/-! ### Commands and registers (R276, R282) -/

/-- A slice is in progress: begun and not ended. -/
def State.inSlice (s : State) : Bool := match s.seq.cur with | some c => !c.out.isEmpty | none => false

/-- PAUSE (false) or STOP (true): at once between slices, else at the end of the slice. -/
def seqRequest (stop : Bool) (s : State) : State :=
  let s1 := s.setSeq { s.seq with req := some stop }
  if s.inSlice then s1 else seqTakeReq s1

/-- Entry into Felt: PAUSED after the slice, a requested STOP first. -/
def seqFelt (s : State) : State :=
  if s.seqSt = seqRunning then (if s.inSlice ∧ s.seq.req = some true then s else seqRequest false s) else s

/-- The page is disabled: IDLE. -/
def seqOff (s : State) : State := seqGo seqIdle (s.setSeq { s.seq with cur := none, req := none })

/-- Refusals of SEQ.CMD. While a LOAD runs, a request that the state does not list has BUSY, which R273 states for every command then, and not the
STATE of R276 (DEDUCED, log entry 119). -/
def seqCmdCodes (op : Nat) (s : State) : List Code :=
  let st := s.seqSt
  let page := if s.pgRunning 0x220 then [] else if s.pgEnabled 0x220 then [Code.busy] else [Code.state]
  let busy := refuseIf s.seq.loading.isSome .busy
  let ok := match op with
    | 1 => st == seqIdle || st == seqLoaded || st == seqDone || st == seqError
    | 2 => (st == seqLoaded || st == seqDone) && (s.mode == mCalico || s.runMode)
    | 3 => st == seqRunning
    | 4 => st == seqPaused
    | _ => st == seqRunning || st == seqPaused || st == seqError
  refuseIf (!inRange 1 5 op) .range ++ page ++ (if s.seq.loading.isSome then busy else refuseIf (!ok) .state)

def seqCmdDo (op : Nat) (keep : Bool) (s : State) : State :=
  match op with
  | 1 => s.setSeq { s.seq with loading := some (s.fld B.seq SEQ.TRK_LO + s.fld B.seq SEQ.TRK_HI * 2 ^ 32) }
  | 2 =>
    let x := s.seq
    seqGo seqRunning (((s.setSeq { x with
      vec := if keep then x.vec else {}, fresh := !keep, lastCyc := none, lastPos := none, cur := none, req := none }).setFld
      B.seq SEQ.ROW 0).setFld B.seq SEQ.PASS 0)
  | 3 => seqRequest false s
  | 4 => seqGo seqRunning s
  | _ => if s.seqSt = seqRunning then seqRequest true s else seqGo seqLoaded (s.setSeq { s.seq with cur := none, req := none })

/-- Refusals of a write of page 0x220. -/
def seqCodes (o v : Nat) (s : State) : List Code :=
  let run := refuseIf (s.seqSt == seqRunning || s.seqSt == seqPaused) .state
  match o with
  | 0x048 => run ++ refuseIf (v == 0) .range
  | 0x054 => seqCmdCodes (nbits v 0 4) s
  | 0x074 => run ++ refuseIf (v % 4 != 0) .align
  | 0x078 => run ++ progCodes (progAddr s B.seq SEQ.PROG_LOAD_LO v) s.seq.load.isSome
  | _ => run

def seqDo (o v : Nat) (s : State) : State :=
  match o with
  | 0x054 => seqCmdDo (nbits v 0 4) (nbit v 8) s
  | 0x078 =>
    let slot := nbits v 16 4
    (s.setSeq { s.seq with load := some ⟨slot, progAddr s B.seq SEQ.PROG_LOAD_LO v⟩ }).wr (B.seq + SEQ.PROG_RES.off)
      (BitVec.ofNat 32 (slot * 65536 + 2 ^ 31))
  | _ => s.wr (B.seq + o) (BitVec.ofNat 32 v)

/-- A sequencer program load ends (R138, R282). -/
def seqProgDone (s : State) : State :=
  match s.seq.load with
  | none => s
  | some l =>
    let (c, ws) := progRead smSeq l.addr s
    let x := s.seq
    ((s.setSeq { x with load := none, progs := if c = .ok then x.progs.ins l.slot ws else x.progs }).wr
      (B.seq + SEQ.PROG_RES.off) (BitVec.ofNat 32 (c.num + l.slot * 65536))).irq 213

end Sys2Proof.Machine
end

