-- ==== Sys2Proof/Machine/Timer.lean ====
section
/-! DEFINITION. Timer channels: states, bus and angle counting, matches, preloads, captures and linked pairs (R341-R360). -/
namespace Sys2Proof.Machine

def tmOff : Nat := 0
def tmStopped : Nat := 1
def tmRunning : Nat := 2

def tmPage (n : Nat) : Nat := 0x240 + n / 8

def State.tmSt (s : State) (n : Nat) : Nat := s.fld (B.timer n) TIMER.STAT_STATE

/-- An even channel that is linked with the next (R353). -/
def State.tmLinked (s : State) (n : Nat) : Bool := n % 2 == 0 && s.flag (B.timer n) TIMER.CFG_LINK

/-- The odd channel of a linked pair. -/
def State.tmHigh (s : State) (n : Nat) : Bool := n % 2 == 1 && s.tmLinked (n - 1)

def State.tmAngle (s : State) (n : Nat) : Bool := s.flag (B.timer n) TIMER.CFG_MODE

/-- A count register of a channel, both halves for a linked pair. -/
def State.tmGet (s : State) (n : Nat) (f : Fld) : Nat :=
  s.fld (B.timer n) f + (if s.tmLinked n then s.fld (B.timer (n + 1)) f * 2 ^ 32 else 0)

def State.tmSet (s : State) (n : Nat) (f : Fld) (v : Nat) : State :=
  let s1 := s.setFld (B.timer n) f v
  if s.tmLinked n then s1.setFld (B.timer (n + 1)) f (v / 2 ^ 32) else s1

/-- Bits of the count (R344, R348, R353). -/
def State.tmWidth (s : State) (n : Nat) : Nat :=
  if s.tmLinked n then 64 else if s.tmAngle n then s.fld (B.timer n) TIMER.CFG_WIDTH else 32

/-- Bits of the registers: 32, or 64 for a linked pair. -/
def State.tmBits (s : State) (n : Nat) : Nat := if s.tmLinked n then 64 else 32

/-- Moves a channel to a state, seen in STAT and in RUN_LO or RUN_HI. -/
def tmGo (n st : Nat) (s : State) : State :=
  (s.setFld (B.timer n) TIMER.STAT_STATE st).setFld B.gtmr ⟨0x050 + 4 * (n / 32), n % 32, 1⟩ (b2n (st == tmRunning))

/-- The ball of an output at its IDLE level. -/
def tmIdle (n : Nat) (s : State) : State :=
  if s.flag (B.timer n) TIMER.CFG_PIN_OUT then s.setFld (B.timer n) TIMER.STAT_PIN (s.fld (B.timer n) TIMER.CFG_IDLE) else s

/-- Loads the active values from the preloads (R342, R349). -/
def tmLoad (n : Nat) (s : State) : State :=
  ((s.tmSet n TIMER.TOP_ACT (s.tmGet n TIMER.TOP)).tmSet n TIMER.CMPA_ACT (s.tmGet n TIMER.CMPA)).tmSet n TIMER.CMPB_ACT
    (s.tmGet n TIMER.CMPB)

def State.setRose (s : State) (n : Nat) (v : Bool) : State :=
  { s with timers := { s.timers with rose := BitVec.ofNat 64 (setBits s.timers.rose.toNat n 1 (b2n v)) } }

/-- OFF to STOPPED. An output starts at its IDLE level (DEDUCED, log entry 26). -/
def tmEnable (n : Nat) (s : State) : State :=
  let s1 := ((s.tmSet n TIMER.COUNT 0).tmSet n TIMER.UCOUNT 0).setFld (B.timer n) TIMER.STAT_DIR 0
  (tmGo n tmStopped (tmIdle n (tmLoad n s1))).setRose n false

/-- To OFF (R355). -/
def tmDisable (n : Nat) (s : State) : State := if s.tmSt n = tmOff then s else tmGo n tmOff (tmIdle n s)

/-- The page's EN is cleared (R355). -/
def tmPageOff (p : Nat) (s : State) : State := (List.range 8).foldl (fun a i => tmDisable (8 * (p - 0x240) + i) a) s

/-- Entry into Felt (R342). -/
def timersFelt (s : State) : State :=
  (List.range 64).foldl (fun a n =>
    if a.tmSt n = tmRunning ∧ a.flag (B.timer n) TIMER.CFG_SAFE_STOP then tmGo n tmStopped (tmIdle n a) else a) s

/-- Sets a bit of IRQ_STAT (R357). -/
def tmIrq (n k : Nat) (s : State) : State := s.setFld (B.timer n) ⟨0x044, k, 1⟩ 1

/-- Whether DIRQ admits a step. -/
def dirOk (q : Nat) (up : Bool) : Bool := q == 0 || (q == 1 && up) || (q == 2 && !up)

/-- The action of a match (R348); `isA` names the compare register. -/
def tmMatch (n : Nat) (isA : Bool) (s : State) : State :=
  let b := B.timer n
  let act := if isA then TIMER.CMPA_ACT else TIMER.CMPB_ACT
  let s1 := tmIrq n (if isA then 0 else 1) s
  let pin (v : Nat) : State := if s1.flag b TIMER.CFG_PIN_OUT then s1.setFld b TIMER.STAT_PIN v else s1
  match s.fld b (if isA then TIMER.CTL_ACT_A else TIMER.CTL_ACT_B) with
  | 1 => pin 1
  | 2 => pin 0
  | 3 => pin (1 - s.fld b TIMER.STAT_PIN)
  | 4 => s1.tmSet n act ((s.tmGet n act + s.tmGet n (if isA then TIMER.INTA else TIMER.INTB)) % 2 ^ s.tmWidth n)
  | _ => s1

/-- Whether a step onto `c` matches. -/
def State.tmHits (s : State) (n : Nat) (isA : Bool) (c : Nat) (up : Bool) : Bool :=
  s.tmGet n (if isA then TIMER.CMPA_ACT else TIMER.CMPB_ACT) == c
    && dirOk (s.fld (B.timer n) (if isA then TIMER.CTL_DIRQ_A else TIMER.CTL_DIRQ_B)) up

/-- The matches of A and then B. -/
def tmMatches (n : Nat) (a b : Bool) (s : State) : State :=
  let s1 := if a then tmMatch n true s else s
  if b then tmMatch n false s1 else s1

/-- Procedure bus_step (R343). -/
def tmBusStep (n : Nat) (s : State) : State :=
  if s.tmSt n ≠ tmRunning ∨ s.tmAngle n then s
  else
    let m := 2 ^ s.tmBits n
    let c := s.tmGet n TIMER.COUNT
    let top := s.tmGet n TIMER.TOP_ACT
    let up := !s.flag (B.timer n) TIMER.STAT_DIR && decide (c < top)
    let c1 := if up then (c + 1) % m else (c + m - 1) % m
    let s1 := ((s.tmSet n TIMER.COUNT c1).tmSet n TIMER.UCOUNT ((s.tmGet n TIMER.UCOUNT + 1) % m)).setFld (B.timer n)
      TIMER.STAT_DIR (b2n !up)
    let s2 := tmMatches n (s.tmHits n true c1 up) (s.tmHits n false c1 up) s1
    if up ∧ c1 = top then
      let s3 := tmIrq n 2 (s2.setFld (B.timer n) TIMER.STAT_DIR 1)
      if s3.flag (B.timer n) TIMER.CFG_LOAD_AT then tmLoad n s3 else s3
    else if ¬ up ∧ c1 = 0 then tmLoad n (tmIrq n 3 (s2.setFld (B.timer n) TIMER.STAT_DIR 0))
    else s2

/-- The counts that `k` unit steps visit from `c`, and whether one wraps (R344). -/
def angleVisits (m : Nat) (up : Bool) : Nat → Nat → List Nat × Bool
  | 0, _ => ([], false)
  | k + 1, c =>
    let c1 := if up then (c + 1) % m else (c + m - 1) % m
    let w := if up then c1 == 0 else c == 0
    let (l, w1) := angleVisits m up k c1
    (c1 :: l, w || w1)

/-- A tick's angle steps (R344, R346). -/
def tmAngleStep (n : Nat) (s : State) : State :=
  let sh := s.fld (B.timer n) TIMER.CFG_SHAFT
  let k := (s.shaft sh).step
  if s.tmSt n ≠ tmRunning ∨ ¬ s.tmAngle n ∨ ¬ s.pgEnabled (0x200 + sh) ∨ k = 0 then s
  else
    let up := decide (0 < k)
    let c := s.tmGet n TIMER.COUNT
    let (l, wrap) := angleVisits (2 ^ s.tmWidth n) up k.natAbs c
    let c1 := l.getLastD c
    let s1 := ((s.tmSet n TIMER.COUNT c1).tmSet n TIMER.UCOUNT c1).setFld (B.timer n) TIMER.STAT_DIR (b2n !up)
    let s2 := tmMatches n (l.any (fun x => s.tmHits n true x up)) (l.any (fun x => s.tmHits n false x up)) s1
    if wrap then tmLoad n (tmIrq n 3 s2) else s2

/-- An accepted input edge (R351): STAT.PIN follows it (R360), and a channel that is not OFF captures it. -/
def tmCapture (n : Nat) (rising : Bool) (s : State) : State :=
  let b := B.timer n
  if s.flag b TIMER.CFG_PIN_OUT ∧ ¬ s.tmHigh n then s
  else if s.tmSt n = tmOff ∨ s.tmHigh n then s.setFld b TIMER.STAT_PIN (b2n rising)
  else
    let newF := if rising then TIMER.CAP_STAT_R_NEW else TIMER.CAP_STAT_F_NEW
    let ovrF := if rising then TIMER.CAP_STAT_R_OVR else TIMER.CAP_STAT_F_OVR
    let full := s.flag b newF
    let s1 := (s.tmSet n (if rising then TIMER.CAPR else TIMER.CAPF) (s.tmGet n TIMER.UCOUNT)).setFld b TIMER.STAT_PIN (b2n rising)
    let s2 := if full then tmIrq n 6 (s1.setFld b ovrF 1) else s1.setFld b newF 1
    let order := if rising then 0 else b2n (s.timers.rose.getLsbD n)
    (tmIrq n (if rising then 4 else 5) (s2.setFld b TIMER.CAP_STAT_ORDER order)).setRose n rising

/-- What a snapshot of the captures leaves: NEW and OVR cleared. -/
def tmCapTaken (n : Nat) (s : State) : State := s.setFld (B.timer n) ⟨0x040, 0, 4⟩ 0

/-- STAT as it reads: the IDLE level of an output that is OFF, the output held by R356, and the pair. -/
def tmStatView (s : State) (n : Nat) : W32 :=
  let b := B.timer n
  let out := s.flag b TIMER.CFG_PIN_OUT && !s.tmHigh n
  let pin := s.fld b (if out && s.tmSt n == tmOff then TIMER.CFG_IDLE else TIMER.STAT_PIN)
  let inh := out && s.flag b TIMER.CFG_ACT && !s.runMode && s.mode != mVelvet
  BitVec.ofNat 32 (bf (s.rd (b + 0x00C)) 0 3 + 8 * pin + 16 * b2n inh + 32 * b2n (s.tmLinked n || s.tmHigh n))

/-- The level on ball TMRn: none when the device does not drive it (R341, R353, R355, R356). -/
def State.tmBall (s : State) (n : Nat) : Option Bool :=
  let b := B.timer n
  if s.mode = mVelvet ∨ ¬ s.flag b TIMER.CFG_PIN_OUT ∨ s.tmHigh n then none
  else if (tmStatView s n).getLsbD 4 ∨ s.tmSt n = tmOff then some (s.flag b TIMER.CFG_IDLE)
  else some (s.flag b TIMER.STAT_PIN)

/-- A read of COUNT: a linked even channel latches the high half, a latched odd one releases it (R354). -/
def tmCountRead (n : Nat) (s : State) : W32 × State :=
  let v := s.rd (B.timer n + 0x010)
  let t := s.timers
  if s.tmLinked n then (v, { s with timers := { t with latch := t.latch.ins (n / 2) (s.rd (B.timer (n + 1) + 0x010)) } })
  else if s.tmHigh n then
    match t.latch.find (n / 2) with
    | some x => (x, { s with timers := { t with latch := t.latch.del (n / 2) } })
    | none => (v, s)
  else (v, s)

/-! ### Register writes -/

/-- START refused (R342). -/
def State.tmNoStart (s : State) (n : Nat) : Bool :=
  s.tmSt n != tmStopped || s.tmHigh n || (s.mode == mFelt && s.flag (B.timer n) TIMER.CFG_SAFE_STOP)

def State.tmNoStop (s : State) (n : Nat) : Bool := s.tmSt n != tmRunning || s.tmHigh n

/-- Registers whose low half is held on the even channel of a linked pair (R353). -/
def tmPaired (o : Nat) : Bool := inRange 0x010 0x024 o

/-- Refusals of a write of offset `o` of channel `n`; for a linked pair's count registers `v` is the 64-bit value and `n` even. -/
def tmCodes (n o v : Nat) (s : State) : List Code :=
  let ang := refuseIf (s.tmAngle n && !s.tmLinked n && decide (2 ^ s.tmWidth n ≤ v)) .range
  match o with
  | 0x000 =>
    refuseIf (!inRange 8 32 (nbits v 16 6) || (n % 2 == 1 && nbit v 24)) .range ++ refuseIf (s.tmSt n != tmOff) .state
      ++ refuseIf (n % 2 == 0 && nbit v 24 && s.tmSt (n + 1) != tmOff) .state
  | 0x004 =>
    refuseIf (nbits v 4 2 == 3 || nbits v 6 2 == 3 || decide (4 < nbits v 8 3) || decide (4 < nbits v 12 3)) .range
      ++ refuseIf (nbit v 0 && s.tmSt n == tmOff && (!s.pgEn (tmPage n) || s.tmHigh n)) .state
  | 0x008 => match nbits v 0 2 with
    | 1 => refuseIf (s.tmNoStart n) .state
    | 2 => refuseIf (s.tmNoStop n) .state
    | _ => [.range]
  | 0x010 =>
    refuseIf (s.tmSt n != tmStopped) .state ++ ang
      ++ refuseIf (!s.tmAngle n && decide (s.tmGet n TIMER.TOP_ACT < v)) .range
  | 0x014 => refuseIf (v == 0) .range
  | 0x018 => ang
  | 0x01C => ang
  | 0x020 => ang
  | 0x024 => ang
  | _ => []

/-- The preload and, under BYPASS, the active value (R349). -/
def tmPreload (n : Nat) (pre act : Fld) (v : Nat) (s : State) : State :=
  let s1 := s.tmSet n pre v
  if s.flag (B.timer n) TIMER.CTL_BYPASS then s1.tmSet n act v else s1

def tmDo (n o v : Nat) (s : State) : State :=
  let b := B.timer n
  match o with
  | 0x004 =>
    let s1 := s.wr (b + 4) (BitVec.ofNat 32 v)
    if nbit v 0 then (if s.tmSt n = tmOff then tmEnable n s1 else s1) else tmDisable n s1
  | 0x008 => if nbits v 0 2 = 1 then tmGo n tmRunning s else tmGo n tmStopped s
  | 0x010 =>
    let s1 := s.tmSet n TIMER.COUNT v
    if s.tmAngle n then s1.tmSet n TIMER.UCOUNT v else s1
  | 0x014 => tmPreload n TIMER.TOP TIMER.TOP_ACT v s
  | 0x018 => tmPreload n TIMER.CMPA TIMER.CMPA_ACT v s
  | 0x01C => tmPreload n TIMER.CMPB TIMER.CMPB_ACT v s
  | 0x020 => s.tmSet n TIMER.INTA v
  | 0x024 => s.tmSet n TIMER.INTB v
  | 0x044 => s.wr (b + 0x044) (s.rd (b + 0x044) &&& ~~~(BitVec.ofNat 32 v))
  | _ => s.wr (b + o) (BitVec.ofNat 32 v)

/-- The channels that a global mask names. -/
def maskChans (v : Nat) : List Nat := (List.range 64).filter (nbit v)

/-- GSTART and GSTOP with both halves (R352). -/
def gtmrCodes (start : Bool) (v : Nat) (s : State) : List Code :=
  refuseIf ((maskChans v).any (fun n => if start then s.tmNoStart n else s.tmNoStop n)) .state

def gtmrDo (start : Bool) (v : Nat) (s : State) : State :=
  (maskChans v).foldl (fun a n => tmGo n (if start then tmRunning else tmStopped) a) s

end Sys2Proof.Machine
end

