-- ==== Sys2Proof/Machine/Crypto.lean ====
section
/-! DEFINITION. SHA-384, HMAC-SHA-384, AES-256 and GHASH (PRESUMED from FIPS 180-4, FIPS 198, FIPS 197 and SP 800-38D, which the
spec names without their text; log entry 6). -/
namespace Sys2Proof.Machine

/-- The 80 round constants of SHA-384, constant i at bits [64i + 63:64i]. -/
def shaK : Nat := 0x6c44198c4a4758175fcb6fab3ad6faec597f299cfc657e2a4cc5d4becb3e42b6431d67c49c100d4c3c9ebe0a15c9bebc32caab7b40c7249328db77f523047d841b710b35131c471b113f9804bef90dae0a637dc5a2c898a606f067aa72176fbaf57d4f7fee6ed178eada7dd6cde0eb1ed186b8c721c0c207ca273eceea26619cc67178f2e372532bbef9a3f7b2c67915a4506cebde82bde990befffa23631e288cc702081a6439ec84c87814a1f0ab7278a5636f43172f60748f82ee5defb2fc682e6ff3d6b2b8a35b9cca4f7763e3734ed8aa4ae3418acb391c0cb3c5c95a6334b0bcb5e19b48a82748774cdf8eeb991e376c085141ab5319a4c116b8d2d0c8106aa07032bbd1b8f40e35855771202ad69906245565a910d192e819d6ef5218c76c51a30654be30c24b8b70d0f89791a81a664bbc423001a2bfe8a14cf1036492722c851482353b81c2c92e47edaee6766a0abb3c77b2a8650a73548baf63de53380d139d95b3df4d2c6dfc5ac42aed2e1b21385c26c92627b70a8546d22ffc142929670a0e6e7006ca6351e003826fd5a79147930aa725c6e00bf33da88fc2bf597fc7beef0ee4b00327c898fb213fa831c66d2db43210983e5152ee66dfab76f988da831153b55cb0a9dcbd41fbd44a7484aa6ea6e4832de92c6f592b0275240ca1cc77ac9c650fc19dc68b8cd5b5efbe4786384f25e3e49b69c19ef14ad2c19bf174cf6926949bdc06a725c7123580deb1fe3b1696b172be5d74f27b896f550c7dc3d5ffb4e2243185be4ee4b28c12835b0145706fbed807aa98a3030242ab1c5ed5da6d8118923f82a4af194f9b59f111f1b605d0193956c25bf348b538e9b5dba58189dbbcb5c0fbcfec4d3b2f7137449123ef65cd428a2f98d728ae22

/-- The initial hash value of SHA-384, H0 lowest. -/
def shaIv : Nat := 0x47b5481dbefa4fa4db0c2e0d64f98fa78eb44a876858151167332667ffc00b31152fecd8f70e59399159015a3070dd17629a292a367cd507cbbb9d5dc1059ed8

def word64 (x i : Nat) : W64 := BitVec.ofNat 64 (x / 2 ^ (64 * i))

/-- The next word of the message schedule from the last 16, newest first. -/
def shaNextW (w : List W64) : W64 :=
  match w with
  | _ :: w2 :: _ :: _ :: _ :: _ :: w7 :: _ :: _ :: _ :: _ :: _ :: _ :: _ :: w15 :: w16 :: _ =>
    let s0 := w15.rotateRight 1 ^^^ w15.rotateRight 8 ^^^ (w15 >>> 7)
    let s1 := w2.rotateRight 19 ^^^ w2.rotateRight 61 ^^^ (w2 >>> 6)
    s1 + w7 + s0 + w16
  | _ => 0

/-- Working variables of a compression. -/
structure ShaVars where
  a : W64
  b : W64
  c : W64
  d : W64
  e : W64
  f : W64
  g : W64
  h : W64

def shaRound (k w : W64) (v : ShaVars) : ShaVars :=
  let s1 := v.e.rotateRight 14 ^^^ v.e.rotateRight 18 ^^^ v.e.rotateRight 41
  let ch := (v.e &&& v.f) ^^^ (~~~v.e &&& v.g)
  let t1 := v.h + s1 + ch + k + w
  let s0 := v.a.rotateRight 28 ^^^ v.a.rotateRight 34 ^^^ v.a.rotateRight 39
  let mj := (v.a &&& v.b) ^^^ (v.a &&& v.c) ^^^ (v.b &&& v.c)
  ⟨t1 + (s0 + mj), v.a, v.b, v.c, v.d + t1, v.e, v.f, v.g⟩

/-- Rounds 16 on, with the last 16 schedule words newest first. -/
def shaLate : Nat → Nat → List W64 → ShaVars → ShaVars
  | 0, _, _, v => v
  | n + 1, i, ws, v =>
    let w := shaNextW ws
    shaLate n (i + 1) (w :: ws.take 15) (shaRound (word64 shaK i) w v)

/-- Rounds 0 to 15, the message words in order. -/
def shaEarly : Nat → List W64 → ShaVars → ShaVars
  | _, [], v => v
  | i, w :: t, v => shaEarly (i + 1) t (shaRound (word64 shaK i) w v)

/-- One SHA-384 compression of H0 to H7 with a block of 128 bytes in memory byte order. -/
def shaBlock (h : List W64) (m : List Byte) : List W64 :=
  let ws := (List.range 16).map (fun i => BitVec.ofNat 64 (beNat ((m.drop (8 * i)).take 8)))
  match h with
  | [a, b, c, d, e, f, g, k] =>
    let v := shaLate 64 16 ws.reverse (shaEarly 0 ws ⟨a, b, c, d, e, f, g, k⟩)
    [a + v.a, b + v.b, c + v.c, d + v.d, e + v.e, f + v.f, g + v.g, k + v.h]
  | l => l

def shaBlocks : Nat → List W64 → List Byte → List W64
  | 0, h, _ => h
  | n + 1, h, m => shaBlocks n (shaBlock h (m.take 128)) (m.drop 128)

/-- SHA-384 of a byte string, 48 bytes. -/
def sha384 (m : List Byte) : List Byte :=
  let pad := (128 - (m.length + 17) % 128) % 128
  let p := m ++ [0x80] ++ List.replicate pad 0 ++ beBytes 16 (8 * m.length)
  let h := shaBlocks (p.length / 128) ((List.range 8).map (word64 shaIv)) p
  (h.flatMap (fun w => beBytes 8 w.toNat)).take 48

/-- HMAC-SHA-384. -/
def hmac384 (key m : List Byte) : List Byte :=
  let k0 := if key.length ≤ 128 then key else sha384 key
  let k := k0 ++ List.replicate (128 - k0.length) 0
  sha384 (k.map (· ^^^ 0x5C) ++ sha384 (k.map (· ^^^ 0x36) ++ m))

/-- The AES S-box, entry i at bits [8i + 7:8i]. -/
def aesSbox : Nat := 0x16bb54b00f2d99416842e6bf0d89a18cdf2855cee9871e9b948ed9691198f8e19e1dc186b95735610ef6034866b53e708a8bbd4b1f74dde8c6b4a61c2e2578ba08ae7a65eaf4566ca94ed58d6d37c8e779e4959162acd3c25c2406490a3a32e0db0b5ede14b8ee4688902a22dc4f816073195d643d7ea7c41744975fec130ccdd2f3ff1021dab6bcf5389d928f40a351a89f3c507f02f94585334d43fbaaefd0cf584c4a39becb6a5bb1fc20ed00d153842fe329b3d63b52a05a6e1b1a2c830975b227ebe28012079a059618c323c7041531d871f1e5a534ccf73f362693fdb7c072a49cafa2d4adf04759fa7dc982ca76abd7fe2b670130c56f6bf27b777c63

def subByte (b : Byte) : Byte := BitVec.ofNat 8 (aesSbox / 2 ^ (8 * b.toNat))

def xtime (b : Byte) : Byte := (b <<< 1) ^^^ (if b.getLsbD 7 then 0x1B else 0)

def xorBytes : List Byte → List Byte → List Byte
  | a :: s, b :: t => (a ^^^ b) :: xorBytes s t
  | _, _ => []

/-- MixColumns on the 16 bytes of a state, column by column. -/
def mixCols : Nat → List Byte → List Byte
  | n + 1, a :: b :: c :: d :: t =>
    let x := a ^^^ b ^^^ c ^^^ d
    (a ^^^ x ^^^ xtime (a ^^^ b)) :: (b ^^^ x ^^^ xtime (b ^^^ c)) :: (c ^^^ x ^^^ xtime (c ^^^ d))
      :: (d ^^^ x ^^^ xtime (d ^^^ a)) :: mixCols n t
  | _, l => l

/-- SubBytes and ShiftRows. -/
def subShift (l : List Byte) : List Byte :=
  (List.range 16).map (fun i => subByte ((l.drop ((i + 4 * (i % 4)) % 16)).headD 0))

def aesRounds : Nat → List Byte → List Byte → List Byte
  | 0, s, k => xorBytes (subShift s) (k.take 16)
  | n + 1, s, k => aesRounds n (xorBytes (mixCols 4 (subShift s)) (k.take 16)) (k.drop 16)

/-- AES-256 with the expanded key of 240 bytes. -/
def aes256 (block ek : List Byte) : List Byte := aesRounds 13 (xorBytes block (ek.take 16)) (ek.drop 16)

/-- The next word of the AES-256 key schedule: word i from words i - 1 and i - 8. -/
def aesKeyWord (i : Nat) (prev old : List Byte) (rcon : Byte) : List Byte :=
  let t := if i % 8 = 0 then
      match prev with
      | a :: r => xorBytes ((r ++ [a]).map subByte) [rcon, 0, 0, 0]
      | l => l
    else if i % 8 = 4 then prev.map subByte else prev
  xorBytes t old

/-- Words of the schedule, newest first. -/
def aesExpand : Nat → Nat → Byte → List (List Byte) → List (List Byte)
  | 0, _, _, ws => ws
  | n + 1, i, rcon, ws =>
    let w := aesKeyWord i (ws.headD []) ((ws.drop 7).headD []) rcon
    aesExpand n (i + 1) (if i % 8 = 0 then xtime rcon else rcon) (w :: ws)

/-- The 240 bytes of the expanded key. -/
def aesKey (k : List Byte) : List Byte :=
  let w0 := (List.range 8).map (fun i => (k.drop (4 * i)).take 4)
  (aesExpand 52 8 1 w0.reverse).reverse.flatMap id

/-- Multiplication in GF(2^128) of GCM: bits taken from the most significant of the big-endian block. -/
def gfMul : Nat → Nat → Nat → Nat → Nat
  | 0, _, _, z => z
  | n + 1, x, v, z =>
    gfMul n x (if v % 2 = 1 then (v / 2) ^^^ (0xE1 * 2 ^ 120) else v / 2) (if nbit x n then z ^^^ v else z)

def ghashMul (a h : List Byte) : List Byte := beBytes 16 (gfMul 128 (beNat a) (beNat h) 0)

/-- GHASH over blocks of 16 bytes, the last one padded with zeros. -/
def ghash : Nat → List Byte → List Byte → List Byte → List Byte
  | 0, _, y, _ => y
  | n + 1, h, y, m =>
    let b := m.take 16
    ghash n h (ghashMul (xorBytes y (b ++ List.replicate (16 - b.length) 0)) h) (m.drop 16)

/-- AES-256 in counter mode from a 16-byte counter block on. -/
def aesCtr : Nat → List Byte → Nat → List Byte → List Byte
  | 0, _, _, _ => []
  | n + 1, ek, c, m =>
    xorBytes (m.take 16) (aes256 (beBytes 16 c) ek) ++ aesCtr n ek (c / 2 ^ 32 * 2 ^ 32 + (c + 1) % 2 ^ 32) (m.drop 16)

/-- AES-256-GCM with a 12-byte nonce: the counter-mode text of `m` and the tag over `aad` and the ciphertext `c`. -/
def gcmCtr (key nonce m : List Byte) : List Byte :=
  aesCtr (m.length / 16 + 1) (aesKey key) (beNat nonce * 2 ^ 32 + 2) m

def gcmTag (key nonce aad c : List Byte) : List Byte :=
  let ek := aesKey key
  let h := aes256 (List.replicate 16 0) ek
  let z := List.replicate 16 (0 : Byte)
  let y1 := ghash ((aad.length + 15) / 16) h z aad
  let y2 := ghash ((c.length + 15) / 16) h y1 c
  let y3 := ghash 1 h y2 (beBytes 8 (8 * aad.length) ++ beBytes 8 (8 * c.length))
  xorBytes y3 (aes256 (beBytes 16 (beNat nonce * 2 ^ 32 + 1)) ek)

end Sys2Proof.Machine
end

