-- ==== Sys2Proof/Machine/Eth.lean ====
section
/-! DEFINITION. Sending on the Ethernet ports: VLAN tag, PRP trailer, MACsec and MAC, and IPv4 and IPv6 packets (R361, R364-R371, R380,
R396). Frames run from the destination address up to, not including, the FCS. -/
namespace Sys2Proof.Machine

def State.ethp (s : State) (p : Nat) : EthPort := s.net.ports.get (fun _ => {}) p

def State.setEthp (s : State) (p : Nat) (x : EthPort) : State := { s with net := { s.net with ports := (s.net.ports.set (fun _ => {}) p x) } }

/-- The fused MAC address as it stands in a frame, first byte first. -/
def State.macBytes (s : State) : List Byte := beBytes 6 s.dev.fuses.mac.toNat

def zeros (n : Nat) : List Byte := List.replicate n 0

/-- A 16-bit field in network order. -/
def be16 (l : List Byte) (o : Nat) : Nat := beNat ((l.drop o).take 2)

def etEapol : Nat := 0x888E
def etMacsec : Nat := 0x88E5
def etPtp : Nat := 0x88F7

/-- EtherType of a frame, behind a VLAN tag if there is one, and where it stands. -/
def etherAt (f : List Byte) : Nat × Nat := if be16 f 12 = 0x8100 then (be16 f 16, 16) else (be16 f 12, 12)

def isEapol (f : List Byte) : Bool := (etherAt f).1 == etEapol

/-! ### MACsec (R365-R367) -/

def State.linkUp (s : State) (p : Nat) : Bool := s.flag (B.eth p) ETH.STAT_LINK

/-- The selected SA by number: transmit AN 0 and 1, then 16 + 2·SC + AN. -/
def saNum (dir : Bool) (sc an : Nat) : Nat := if dir then 16 + 2 * sc + an else an

def State.saSel (s : State) (p : Nat) : Nat :=
  let w := s.rd (B.eth p + ETH.SA_SEL.off)
  saNum (w.getLsbD 0) (bf w 1 3) (bf w 4 1)

def EthPort.sa (x : EthPort) (i : Nat) : Sa := x.sas.get (fun _ => {}) i

def EthPort.setSa (x : EthPort) (i : Nat) (a : Sa) : EthPort := { x with sas := x.sas.set (fun _ => {}) i a }

def State.xpn (s : State) (p : Nat) : Bool := s.flag (B.eth p) ETH.SEC_CTL_XPN

/-- The SCI of the device's own transmit SC (R365). -/
def State.ownSci (s : State) (p : Nat) : List Byte := s.macBytes ++ beBytes 2 (p + 1)

/-- The nonce of a protected frame (IEEE 802.1AE, PRESUMED, log entry 6). -/
def secNonce (xpn : Bool) (a : Sa) (sci : List Byte) (pn : Nat) : List Byte :=
  if xpn then xorBytes a.salt (beBytes 4 a.ssci.toNat ++ beBytes 8 pn) else sci ++ beBytes 4 pn

/-- The transmit SA in use: the one TX_AN names, once installed (R367). -/
def State.txSa (s : State) (p : Nat) : Option Sa :=
  let a := (s.ethp p).sa (s.fld (B.eth p) ETH.SEC_CTL_TX_AN)
  if a.installed then some a else none

/-- Protects a frame; none when the SA can send no more (R367). -/
def secProtect (p : Nat) (f : List Byte) (s : State) : Option (List Byte) × State :=
  let b := B.eth p
  let an := s.fld b ETH.SEC_CTL_TX_AN
  let last := if s.xpn p then 2 ^ 64 - 1 else 2 ^ 32 - 1
  match s.txSa p with
  | none => (none, s.incSat b ETH.SEC_NOSA)
  | some a =>
    if last ≤ a.pn then (none, s.incSat b ETH.SEC_NOSA)
    else
      let conf := s.flag b ETH.SEC_CTL_CONF
      let data := f.drop 12
      let sci := s.ownSci p
      let tag := beBytes 2 etMacsec ++ leBytes 1 (0x20 + (if conf then 12 else 0) + an)
        ++ leBytes 1 (if data.length < 48 then data.length else 0) ++ beBytes 4 a.pn ++ sci
      let nonce := secNonce (s.xpn p) a sci a.pn
      let head := f.take 12 ++ tag
      let body := if conf then gcmCtr a.key nonce data else data
      let icv := if conf then gcmTag a.key nonce head body else gcmTag a.key nonce (head ++ data) []
      let x := s.ethp p
      (some (head ++ body ++ icv), s.setEthp p (x.setSa an { a with pn := a.pn + 1 }))

/-! ### MAC -/

/-- Sends the frames that wait at a port whose link is up. -/
def ethFlush (p : Nat) (s : State) : State :=
  if s.linkUp p then
    let x := s.ethp p
    x.txq.foldl (fun a f => (a.emit (.eth (if p = 0 then 0 else 1) f)).incWrap (B.eth p) ETH.TX_OK) (s.setEthp p { x with txq := [] })
  else s

/-- Hands a frame to a port: VLAN tag unless it takes none, MACsec, padding. A disabled port takes no frame; with the link down the
frame waits (DESIGN CHOICE, log entry 36). -/
def portSend (p : Nat) (f : List Byte) (s : State) : State :=
  if ¬ s.pgEn (0x320 + p) then s
  else
    let (g, s1) := if s.flag (B.eth p) ETH.SEC_CTL_EN ∧ ¬ isEapol f then secProtect p f s else (some f, s)
    match g with
    | none => s1
    | some g =>
      let x := s1.ethp p
      ethFlush p (s1.setEthp p { x with txq := x.txq ++ [g ++ zeros (60 - g.length)] })

/-- The VLAN tag of a frame the device sends (R364). -/
def State.vlanTag (s : State) : List Byte :=
  if s.flag B.net NET.VLAN_EN then beBytes 2 0x8100 ++ beBytes 2 (s.fld B.net NET.VLAN_PCP * 8192 + s.fld B.net NET.VLAN_VID) else []

def withTag (tag f : List Byte) : List Byte := f.take 12 ++ tag ++ f.drop 12

def State.prpOn (s : State) : Bool := s.flag B.net NET.PRP_CTL_EN

/-- The redundancy control trailer behind a padded frame (R368); the LSDU size counts from behind the EtherType (PRESUMED, log entry
37). -/
def prpFrame (f : List Byte) (seq p : Nat) : List Byte :=
  let g := f ++ zeros (54 - f.length)
  g ++ beBytes 2 seq ++ beBytes 2 ((0xA + p) * 4096 + (g.length + 6 - ((etherAt g).2 + 2)) % 4096) ++ beBytes 2 0x88FB

/-- Sends a frame through PRP on both ports; without PRP on port `p`. -/
def netSend (p : Nat) (f : List Byte) (tagged : Bool) (s : State) : State :=
  let g := if tagged then withTag s.vlanTag f else f
  if s.prpOn then
    let q := s.net.prpSeq.toNat
    let s1 := { s with net := { s.net with prpSeq := s.net.prpSeq + 1 } }
    portSend 1 (prpFrame g q 1) (portSend 0 (prpFrame g q 0) s1)
  else portSend p g s

/-- A frame that skips PRP, on one port (R361). -/
def plainSend (p : Nat) (f : List Byte) (tagged : Bool) (s : State) : State :=
  portSend p (if tagged then withTag s.vlanTag f else f) s

/-! ### IP (R379, R380) -/

/-- The one's complement sum of 16-bit words in network order. -/
def sum16 : Nat → List Byte → Nat
  | 0, _ => 0
  | n + 1, l =>
    match l with
    | [] => 0
    | [a] => a.toNat * 256
    | a :: b :: t => a.toNat * 256 + b.toNat + sum16 n t

def csum (l : List Byte) : Nat :=
  let t := sum16 (l.length + 1) l
  let u := t % 65536 + t / 65536
  65535 - (u % 65536 + u / 65536) % 65536

/-- Whether a sum over data that includes its checksum is right. -/
def sumOk (l : List Byte) : Bool := csum l == 0

/-- The link-local address formed from the fused MAC address by EUI-64. -/
def State.linkLocal (s : State) : List Byte :=
  let m := s.macBytes
  [0xFE, 0x80] ++ zeros 6 ++ [(m.headD 0) ^^^ 2] ++ (m.drop 1).take 2 ++ [0xFF, 0xFE] ++ m.drop 3

/-- The IPv6 addresses in use (R379). -/
def State.own6 (s : State) : List (List Byte) := (if s.net.dup then [] else [s.linkLocal]) ++ (if s.net.ip6.isEmpty then [] else [s.net.ip6])

def State.own4 (s : State) : List Byte := beBytes 4 (s.rd (B.net + NET.IP4_ADDR.off)).toNat

def State.has4 (s : State) : Bool := s.rd (B.net + NET.IP4_ADDR.off) != 0

/-- An IPv4 packet without options. -/
def ip4Packet (src dst : List Byte) (proto ttl : Nat) (pay : List Byte) : List Byte :=
  let h (c : Nat) : List Byte := [0x45, 0] ++ beBytes 2 (20 + pay.length) ++ [0, 0, 0x40, 0] ++ leBytes 1 ttl ++ leBytes 1 proto ++ beBytes 2 c ++ src ++ dst
  h (csum (h 0)) ++ pay

def ip6Packet (src dst : List Byte) (next hop : Nat) (pay : List Byte) : List Byte :=
  [0x60, 0, 0, 0] ++ beBytes 2 pay.length ++ leBytes 1 next ++ leBytes 1 hop ++ src ++ dst ++ pay

/-- The pseudo header that UDP and ICMPv6 checksums cover. -/
def pseudo (src dst : List Byte) (proto n : Nat) : List Byte :=
  if src.length = 4 then src ++ dst ++ [0] ++ leBytes 1 proto ++ beBytes 2 n else src ++ dst ++ beBytes 4 n ++ [0, 0, 0] ++ leBytes 1 proto

/-- A UDP datagram in an IP packet of the address family of its addresses, with its EtherType. -/
def udpPacket (src dst : List Byte) (sport dport : Nat) (pay : List Byte) : List Byte :=
  let u (c : Nat) : List Byte := beBytes 2 sport ++ beBytes 2 dport ++ beBytes 2 (8 + pay.length) ++ beBytes 2 c ++ pay
  let c := csum (pseudo src dst 17 (8 + pay.length) ++ u 0)
  let d := u (if c = 0 then 65535 else c)
  if src.length = 4 then beBytes 2 0x0800 ++ ip4Packet src dst 17 64 d else beBytes 2 0x86DD ++ ip6Packet src dst 17 255 d

/-! ### The raw transmit ring (R381) -/

def ringBase (s : State) (lo hi : Fld) : Nat := (s.rd (B.net + lo.off)).toNat + s.fld B.net hi * 2 ^ 32

end Sys2Proof.Machine
end

