-- ==== Sys2Proof/Machine/YcpReply.lean ====
section
/-! DEFINITION. YCP packets and responses: layout, sealing, sending and the stored copy (R382, R385, R386). -/
namespace Sys2Proof.Machine

/-- CMD of a command (R388). -/
def YCmd.num : YCmd → Nat
  | .identify => 0x01
  | .openS .. => 0x02
  | .closeS => 0x03
  | .ping => 0x04
  | .regRead .. => 0x10
  | .regWrite .. => 0x11
  | .memRead .. => 0x12
  | .memWrite .. => 0x13
  | .qappend .. => 0x20
  | .patWrite .. => 0x30
  | .patLoad .. => 0x31
  | .modeReq .. => 0x40
  | .imageBegin .. => 0x50
  | .imageData .. => 0x51
  | .imageEnd => 0x52
  | .debugChal => 0x60
  | .debugUnlock .. => 0x61
  | .debugHalt .. => 0x62
  | .debugResume .. => 0x63
  | .debugStep .. => 0x64
  | .debugRegRead .. => 0x65
  | .debugRegWrite .. => 0x66
  | .safe .. => 0x70
  | .unknown n => n

/-- The right a command needs, as a bit above KEY_CTL[8] (R384, R388). -/
def YCmd.right : YCmd → Option Nat
  | .identify => none
  | .openS .. => none
  | .closeS => none
  | .ping => none
  | .regRead .. => some 0
  | .regWrite .. => some 1
  | .memRead .. => some 2
  | .memWrite .. => some 2
  | .qappend .. => some 3
  | .patWrite .. => some 4
  | .patLoad .. => some 4
  | .modeReq .. => some 5
  | .imageBegin .. => some 6
  | .imageData .. => some 6
  | .imageEnd => some 6
  | .debugChal => some 7
  | .debugUnlock .. => some 7
  | .debugHalt .. => some 7
  | .debugResume .. => some 7
  | .debugStep .. => some 7
  | .debugRegRead .. => some 7
  | .debugRegWrite .. => some 7
  | .safe .. => some 8
  | .unknown _ => none

/-- Commands that a locked debug session may not give (R388). -/
def YCmd.needsUnlock : YCmd → Bool
  | .debugHalt .. => true
  | .debugResume .. => true
  | .debugStep .. => true
  | .debugRegRead .. => true
  | .debugRegWrite .. => true
  | .identify | .openS .. | .closeS | .ping | .regRead .. | .regWrite .. | .memRead .. | .memWrite .. | .qappend .. | .patWrite ..
  | .patLoad .. | .modeReq .. | .imageBegin .. | .imageData .. | .imageEnd | .debugChal | .debugUnlock .. | .safe .. | .unknown _ => false

/-- The 16-byte header (R382). -/
def ycpHead (flags : Nat) (session : W32) (seq cmd status len : Nat) : List Byte :=
  leBytes 2 0x5943 ++ [1] ++ leBytes 1 flags ++ leBytes 4 session.toNat ++ leBytes 4 seq ++ leBytes 1 cmd ++ leBytes 1 status ++ leBytes 2 len

/-- The nonce of a packet of a session; `dev`: from the device (R385). -/
def ycpNonce (num : W32) (seq : Nat) (dev : Bool) : List Byte := leBytes 4 num.toNat ++ leBytes 4 seq ++ leBytes 1 (b2n dev) ++ zeros 3

/-- Header and payload sealed under a key (R385). -/
def ycpSeal (key nonce : List Byte) (enc : Bool) (head data : List Byte) : List Byte :=
  if enc then
    let body := gcmCtr key nonce data
    head ++ body ++ gcmTag key nonce head body
  else head ++ data ++ gcmTag key nonce (head ++ data) []

/-- The response of a session to a request (R382, R385); the ROM's context has no tag. -/
def ycpPacket (x : Session) (r : YReq) (code : Code) (data : List Byte) : List Byte :=
  let head := ycpHead (1 + 2 * b2n r.enc) x.num r.seq r.cmd.num code.num data.length
  if x.num = 0 then head ++ data else ycpSeal x.key (ycpNonce x.num r.seq true) r.enc head data

/-- Sends a packet where its request came from (R380). -/
def ycpSend (src : Option YPeer) (packet : List Byte) (s : State) : State :=
  match src with
  | none => s.emit (.ycp packet)
  | some p => netSend p.port (p.mac ++ s.macBytes ++ udpPacket p.own p.ip (s.fld B.ycp YCP.CTL_PORT) p.udp packet) true s

def State.putSess (s : State) (place : Nat) (x : Session) : State := { s with ycp := { s.ycp with sess := s.ycp.sess.ins place x } }

/-- Answers the executing request of a session and keeps the response for a repeat (R386); a closed session's response is dropped. -/
def ycpAnswer (place seq cmd : Nat) (code : Code) (data : List Byte) (s : State) : State :=
  match s.ycp.sess.find place with
  | none => s
  | some x =>
    match x.exec with
    | none => s
    | some r =>
      if r.seq = seq ∧ r.cmd.num = cmd then
        let k := ycpPacket x r code data
        ycpSend r.src k (s.putSess place { x with resps := (⟨seq, k⟩ :: x.resps).take 16, exec := none })
      else s

end Sys2Proof.Machine
end

