-- ==== Sys2Proof/Machine/Modes.lean ====
section
/-! DEFINITION. Modes, mode requests, resets, clocks, supplies, Velvet entry and the SYS, CLK and RST pages (R19-R45, R420, R461). -/
namespace Sys2Proof.Machine

def State.setDev (s : State) (d : Dev) : State := { s with dev := d }

/-! ### Mode requests (R37, R38, R41, R434) -/

/-- Writes the one result of a request (R37); a YCP request is answered with it. -/
def modeResult (code : Code) (target : Nat) (abandoned : Bool) (ycp : Option (Nat × W32)) (s : State) : State :=
  let n := (s.fld B.sys SYS.MODE_RES_SEQ + 1) % 65536
  let w : W32 := BitVec.ofNat 32 (code.num + target * 256 + b2n abandoned * 2048 + n * 65536)
  let s1 := s.wr (B.sys + SYS.MODE_RES.off) w
  match ycp with
  | some (p, seq) => ycpAnswer p seq.toNat 0x40 code (leBytes 4 w.toNat) s1
  | none => s1

/-- A safety input pair reports a discrepancy: a bit of 432 to 447 is set (R38, R420). -/
def State.siBad (s : State) : Bool := (List.range 16).any (fun i => s.live (432 + i))

/-- A page whose block Velvet needs disabled is enabled (R38). -/
def State.velvetBusy (s : State) : Bool :=
  ((List.range 16).map (0x300 + ·) ++ [0x320, 0x321, 0x211, 0x212, 0x213, 0x214, 0x220]).any s.pgEnabled

/-- The wake sources give Velvet no way out (R41). -/
def State.noWake (s : State) : Bool :=
  (!s.flag B.sys SYS.WAKE_CTL_PIN_EN && !s.flag B.sys SYS.WAKE_CTL_TIMER_EN)
    || (s.flag B.sys SYS.WAKE_CTL_TIMER_EN && s.rd (B.sys + SYS.WAKE_TIMER.off) == 0)

/-- The refusals of R38's table. -/
def modeTable (cur t : Nat) (s : State) : List Code :=
  let bad := s.ssLatched || s.siBad
  if cur = mCalico then
    if t = mTwill ∨ t = mDamask then refuseIf bad .state ++ refuseIf s.tainted .taint
    else if t = mJersey then refuseIf bad .state
    else if t = mVelvet then refuseIf s.noWake .range ++ refuseIf s.velvetBusy .busy
    else if t = mGauze ∨ t = mFelt then []
    else [.state]
  else if cur = mTwill ∨ cur = mDamask ∨ cur = mJersey then
    if t = mCalico then refuseIf s.queueActive .busy
    else if t = mFelt ∨ (cur = mDamask ∧ t = mTwill) then []
    else if cur = mTwill ∧ t = mDamask then refuseIf s.tainted .taint
    else [.state]
  else if cur = mFelt then
    if t = mCalico then refuseIf bad .state else if t = mGauze then [] else [.state]
  else [.state]

/-- Every refusal of a request (R37, R38). -/
def modeCodes (t : Nat) (s : State) : List Code :=
  let cur := s.mode
  if cur = mMuslin then [.state]
  else if cur = mGauze then [if s.flag B.sys SYS.MODE_HELD then .state else .busy]
  else refuseIf s.dev.trans.isSome .busy ++ (if t = cur then [] else modeTable cur t s)

/-- A mode request from a register (`ycp` none) or a session (R37, R38, R434). -/
def modeRequest (t : Nat) (ycp : Option (Nat × W32)) (s : State) : State :=
  let code := Code.lowest (modeCodes t s)
  if code ≠ .ok ∨ t = s.mode then modeResult code t false ycp s
  else
    let s1 := (s.setDev { s.dev with trans := some ⟨t, ycp⟩ }).setFld B.sys SYS.MODE_BUSY 1
    if inRange mTwill mJersey t ∧ s1.safeCrc ≠ s1.rd (B.coll + COLL.SAFE_CRC_EXP.off) then collCycle (s1.raise 461)
    else handAll t s1

/-! ### Entering a mode -/

/-- SR.CE reads 1 in every thread from its next instruction on (R108); a thread in an instruction that waits takes it when that ends. -/
def setCe (s : State) : State :=
  s.threads.cells.foldl (fun a c =>
    match (a.thread c.1).st with
    | .stalled _ => a
    | .running => a.setThread c.1 ((a.thread c.1).setSr 3 1 1)
    | .waiting => a.setThread c.1 ((a.thread c.1).setSr 3 1 1)
    | .stopped => a.setThread c.1 ((a.thread c.1).setSr 3 1 1)) s

/-- Periodic slices do not go on outside Calico, Twill, Damask and Jersey: one that runs ends as an abort does (R444; DEDUCED, log entry
112). -/
def slicesEnd (s : State) : State :=
  let s1 := abortAll s
  lanesRefresh ((List.range 4).foldl (fun a l => a.setFld (B.lane l) LANE.LSTAT_IN_TEST 0) s1)

/-- The device is in another mode: SYS.MODE, STO pairs, FAULT balls, ring ports, slices and SR.CE follow. -/
def enterMode (m cause : Nat) (s : State) : State :=
  let w := m + s.mode * 16 + cause * 256
  let s0 := if m = mGauze then s else s.modColl (fun c => { c with gauzeHold := false })
  let s1 := ringsMode (collMode s.runMode (s0.wr (B.sys + SYS.MODE.off) (BitVec.ofNat 32 w)))
  let s2 := if inRange mCalico mJersey m then s1 else slicesEnd s1
  if m = mMuslin ∨ m = mGauze ∨ m = mFelt then setCe s2 else s2

/-- The link of a port that goes off drops, which its interrupt tells (R399). -/
def linkGone (p : Nat) (s : State) : State :=
  let s1 := s.wr (B.eth p + ETH.STAT.off) 0
  if s.flag (B.eth p) ETH.STAT_LINK then s1.irq (448 + p) else s1

/-- An Ethernet port goes OFF. -/
def ethOff (p : Nat) (s : State) : State :=
  let s1 := linkGone p (setStat (0x320 + p) 0 1 (s.setFld (page (0x320 + p)) PG.CTL_EN 0))
  s1.setEthp p { s1.ethp p with train := false, txq := [], txUntil := false }

/-- The Canvas ROM enables the Ethernet pages to serve YCP over the network (R33, R395). -/
def romUp (s : State) : State :=
  if s.dev.fuses.netOff then s
  else [0x320, 0x321, 0x322, 0x323].foldl (fun a p =>
    if a.flag (page p) PG.STAT_FAULTED then a else setStat p 1 0 (a.setFld (page p) PG.CTL_EN 1)) s

/-- The ROM clears the EN of every page it enabled, and its upload context ends, before an image starts (R481, R395). -/
def romDown (s : State) : State :=
  let s1 := [0x322, 0x323].foldl (fun a p => setStat p 0 1 (a.setFld (page p) PG.CTL_EN 0)) (ethOff 1 (ethOff 0 s))
  { s1 with ycp := { s1.ycp with sess := s1.ycp.sess.del 8, upload := none } }

/-- Step 4 of R418 and R420: queues, sequencer, timers and threads on entry into Felt. A Felt entered from Muslin or Gauze, where no image
runs, has the Canvas ROM as its recovery handler, as one that no image started (R33; DEDUCED, log entry 114). -/
def enterFelt (cause : Nat) (s : State) : State :=
  let image := s.dev.phase == .running
  let s1 := timersFelt (seqFelt (queuesFelt (enterMode mFelt cause s)))
  let s2 := trioNums.foldl (fun a n =>
    if a.trioIn n then
      (trioKeys n).foldl (fun b k => if k = 0 then b else b.setThread k (b.thread k).stopAtBoundary) a
    else a) (handAll mFelt s1)
  let s3 := setCe s2
  if image then (s3.modColl (fun c => { c with recover := true })).irq 499 else romUp (s3.setDev { s3.dev with phase := .felt })

/-- Abandons a transition (R39). -/
def abandon (s : State) : State :=
  match s.dev.trans with
  | none => s
  | some t => modeResult .state t.target true t.ycp ((s.setDev { s.dev with trans := none }).setFld B.sys SYS.MODE_BUSY 0)

/-- A ring port goes OFF at once. -/
def portOff (r : Nat) (s : State) : State :=
  setStat (0x300 + r) 0 1 (ringOffEnd r
    (if s.pgEn (0x300 + r) then ringOffStart r (s.setFld (page (0x300 + r)) PG.CTL_EN 0) else s))

/-- Step 1 of R448, in Gauze: every STO pair stops, one with a running SS1 too, the ports go OFF, trio 0 supervises with the ROM's Gauze code on
its thread 0, and the running image is abandoned with every other thread at its next boundary. -/
def gauzeBegin (s : State) : State :=
  let s1 := (List.range 8).foldl (fun a n => pairStop n a) s
  let s2 := [0, 1].foldl (fun a p => ethOff p a) ((List.range 16).foldl (fun a r => portOff r a) s1)
  let s3 := trioNums.foldl (fun a n =>
    if a.trioIn n then (trioKeys n).foldl (fun b k => b.setThread k (b.thread k).stopAtBoundary) a else a) s2
  let s4 := s3.setThread 0 { st := .running }
  (s4.setDev { s4.dev with gauze := 1, phase := .felt, image := none, tested := [], failed := [], repairs := [], cells := [], burnt := false, superv := 0 }).wr
    (B.sys + SYS.ACTIVE_ED.off) 0

/-- Sets the VDD_CORE target (R27); after the AVSBus fault the device makes no further voltage change (R28). -/
def setVolt (mv : Nat) (s : State) : State :=
  if s.dev.avsStop then s else (s.wr (B.margin + MARGIN.VSET.off) (BitVec.ofNat 32 mv)).emit (.avs mv)

/-- Entry into Velvet (R42): the ring ports take the steps of a disable (R334), cores lose their state, the PLLs stop and VDD_CORE falls. -/
def enterVelvet (cause : Nat) (s : State) : State :=
  let s1 := (List.range 16).foldl (fun a r => if a.pgEn (0x300 + r) then ringOffStart r a else a) (enterMode mVelvet cause s)
  let s2 := { s1 with threads := {}, trios := {}, fab := { s1.fab with tlbs := {}, tlbi := [], io := [] } }
  let s3 := (s2.setFld B.clk CLK.CLK_STAT_ROOT_LOCK 0).setFld B.clk CLK.CLK_STAT_DRAM_LOCK 0
  setVolt 720 (s3.setDev { s3.dev with lost := false })

/-- Both copies of the collector have decided a Safe stop (R403, R418). -/
def State.stopDue (s : State) : Bool := s.bothColl (·.stop)

/-- A transition ends once no hand-over is in progress (R37, R73), those included that a CFG write asked for since the request and that the
new mode's configurations replace (R48, R49). Gauze is entered, and the result sent, before its ports go OFF. -/
def transitionEnds (s0 : State) : State :=
  match s0.dev.trans with
  | none => s0
  | some t =>
    let s := handAll t.target s0
    if s0.stopDue ∨ s0.handing then s0
    else if s.handing then s
    else
      let s1 := s.setDev { s.dev with trans := none }
      let cause := if t.ycp.isSome then 2 else 1
      let result (x : State) : State := modeResult .ok t.target false t.ycp x
      if t.target = mGauze then gauzeBegin (result (enterMode mGauze cause s1))
      else result (if t.target = mFelt then enterFelt cause s1
        else if t.target = mVelvet then enterVelvet cause s1
        else enterMode t.target cause s1)

/-- The device enters Felt by a decided Safe stop or a request (R38, R39, R418). -/
def feltEntry (s : State) : State :=
  if s.stopDue ∧ s.mode ≠ mVelvet then
    let s1 := abandon (s.modColl (fun c => { c with stop := false }))
    if s.mode = mFelt then s1 else enterFelt 5 s1
  else
    match s.dev.trans with
    | some t => if t.target = mFelt then transitionEnds s else s
    | none => s

/-! ### Reset (R29, R481) -/

inductive ResetKind where | powerOn | pin | system | warm | gauze
deriving DecidableEq, Repr

def ResetKind.bit : ResetKind → Nat
  | .powerOn => 1 | .pin => 2 | .system => 4 | .warm => 8 | .gauze => 16

/-- Registers that every reset but power-on keeps (R29, R435, R456, R460; CLK.LOSS_CNT, WARM_CNT and REC_CNT count from power-on). -/
def keptReg (k : Nat) : Bool :=
  let o := k % 4096
  let p := k / 4096
  (p == 0x011 && inRange 0x080 0x0BF o) || (p == 0x012 && inRange 0x040 0x067 o) || k == B.coll + COLL.LOG_CNT.off
    || k == B.sys + SYS.WAKE_CTL.off || k == B.sys + SYS.WAKE_TIMER.off || k == B.clk + CLK.LOSS_CNT.off
    || k == B.rst + RST.WARM_CNT.off || k == B.rst + RST.CAUSE.off
    || (p == 0x003 && inRange 0x080 0x0A3 o) || k == B.margin + MARGIN.STAT.off

/-- Memory that a reset keeps: flash always, DRAM through a warm reset (R29). -/
def keepsMem (s : State) (warm : Bool) (a : Nat) : Bool :=
  match s.region a with
  | .flash _ => true
  | .dram => warm
  | .rom | .sram | .queue | .regs | .locI _ | .locD _ | .reserved => false

/-- Conditions that a reset does not end: clocks, supplies, temperature and STO read-back. -/
def keptCond (n : Nat) : Bool := inRange 0 2 n || n == 8 || n == 10 || n == 11 || inRange 448 455 n

/-- Registers that show fuses: the IPv4 address, and the fused remap that the last fuse load applied (R71, R379). -/
def fuseRegs (s : State) : State :=
  let s1 := s.wr (B.net + NET.IP4_ADDR.off) s.dev.fuses.ip4
  let s2 := s1.wr (B.bist + BIST.REPAIR.off) (BitVec.ofNat 32 ((768 - s.dev.fuses.repairs.length) * 65536))
  match s.dev.remapOn with
  | none => s2
  | some n =>
    let s3 := (s2.setFld (B.trio 12) TRIO.SPARE_STATE spareFused).setFld (B.trio 12) TRIO.SPARE_SERVES n.val
    (s3.setFld (B.trio n.val) TRIO.SPARE_PHYS 12).setFld (B.trio n.val) TRIO.STAT_REMAPPED 1

/-- The state after a reset in which registers `regs` and memory `mem` stand: everything else as at reset, but for fuses, board and
the collector's records and inputs; a latched Safe stop still holds the lines and balls (R29, R411, R419, R422). -/
def restart (regs : Tab W32) (mem : List Host.Cell) (s : State) : State :=
  let d : Dev := { fuses := s.dev.fuses, board := s.dev.board, conds := s.dev.conds.filter keptCond, rootLost := s.dev.rootLost, s0 := s.dev.s0, recSeq := s.dev.recSeq, porLow := s.dev.porLow, aonOk := s.dev.aonOk, ioOk := s.dev.ioOk, remapOn := s.dev.remapOn, resets := s.dev.resets + 1 }
  let s1 := { State.reset with
    pending := s.pending
    freeCtr := s.freeCtr
    sent := s.sent
    shafts := s.keptBalls
    regs := regs
    mem := mem
    raised := s.raised
    tap := s.tap
    dev := d
    coll := { ins := s.coll.ins, missed := s.coll.missed }
    coll2 := { ins := s.coll2.ins, missed := s.coll2.missed } }
  let s2 := collRefresh (fuseRegs s1)
  if s2.ssLatched then safeLines true s2 else s2

/-- Fuses are loaded, among them a fused remap (R29, R44, R71). -/
def fuseLoad (s : State) : State := s.setDev { s.dev with remapOn := s.dev.fuses.remap }

/-- The regulator goes back to 0.80 V, the target at reset (R27). A reset ends the stop of R28; a wake does not (DESIGN CHOICE, log
entry 96). -/
def voltBack (old s : State) : State := if old.fld B.margin MARGIN.VSET = 800 then s else s.emit (.avs 800)

/-- A reset of a kind (R29). -/
def deviceReset (k : ResetKind) (s : State) : State :=
  if k = .powerOn then
    fuseRegs { State.reset with
      pending := s.pending
      freeCtr := s.freeCtr
      sent := s.sent
      shafts := s.keptBalls
      mem := s.mem.filter (fun c => keepsMem s false c.1)
      bad := s.bad.filter (fun w => keepsMem s false (8 * w))
      dev := { fuses := s.dev.fuses, board := s.dev.board, aonOk := s.dev.aonOk, ioOk := s.dev.ioOk, remapOn := s.dev.fuses.remap, resets := s.dev.resets + 1 } }
  else
    let warm := k == .warm || k == .gauze
    let regs : Tab W32 := ⟨s.regs.cells.filter (fun c => keptReg c.1)⟩
    let s0 := if warm then s else fuseLoad s
    let r := restart regs (s.mem.filter (fun c => keepsMem s warm c.1)) s0
    let s1 := voltBack s { r with bad := s.bad.filter (fun w => keepsMem s warm (8 * w)) }
    let s2 := s1.wr (B.rst + RST.CAUSE.off) (BitVec.ofNat 32 k.bit)
    let s4 := if warm then (s2.incWrap B.rst RST.WARM_CNT).setFld B.clk CLK.CLK_STAT_ROOT_LOCK 1 else s2
    if k = .gauze then s4.wr (B.sys + SYS.MODE.off) (BitVec.ofNat 32 (mGauze * 16 + 7 * 256)) else s4

/-- The queues over a wake: the times of the device before it, last dispatch and due time of the check, are over (R42, R261). -/
def State.awokenQueues (s : State) : Tab Queue :=
  s.eng.queues.cells.foldl (fun t c => t.set (fun _ => {}) c.1 { c.2 with last := none, due := 0 }) {}

/-- The header pages as a wake leaves them; descriptors, entries and memory stay, also on a cold path, whose step 6 clears the bytes of
queue memory (DESIGN CHOICE, log entry 97), and flights return (R44, R253, R481). The voltage target goes back to 0.80 V unless the
AVSBus fault stopped it (R28). -/
def wakePages (s : State) : State :=
  let s0 := fuseLoad (returnFlights s)
  let regs : Tab W32 := ⟨s0.regs.cells.filter (fun c => keptReg c.1 || decide (0x400 ≤ c.1 / 4096))⟩
  let s1 := restart regs s0.mem s0
  let s2 := { s1 with
    bad := s0.bad
    eng := { s1.eng with queues := s0.awokenQueues }
    fab := { s1.fab with badBanks := s0.fab.badBanks, badQueue := s0.fab.badQueue } }
  let s3 := s2.setDev { s2.dev with image := s.dev.image, lost := s.dev.lost, avsStop := s.dev.avsStop }
  if s.dev.avsStop then s3.wr (B.margin + MARGIN.VSET.off) (s.rd (B.margin + MARGIN.VSET.off)) else voltBack s s3

/-- A wake source fires in Velvet; a second one in the same tick adds its bit (R44). -/
def wakes (bit : Fld) (s : State) : State :=
  if s.mode = mVelvet ∧ ¬ s.stopDue then
    let s1 := (wakePages s).setFld B.sys bit 1
    let s2 := s1.wr (B.sys + SYS.MODE.off) (BitVec.ofNat 32 (mVelvet * 16 + 6 * 256))
    s2.setDev { s2.dev with phase := .wake, wakeAt := s2.now }
  else if s.dev.phase = .wake ∧ s.now = s.dev.wakeAt then s.setFld B.sys bit 1
  else s

/-! ### Clocks and supplies (R22, R25-R28) -/

/-- Whether a clock failure is one: a PLL that is not locked loses no lock, and in Velvet no tick is due (R22, R42; DEDUCED, log
entry 101). -/
def State.clockFails (s : State) : ClockLoss → Bool
  | .pllUnlock => s.flag B.clk CLK.CLK_STAT_ROOT_LOCK
  | .crystal => true
  | .tickMissing => s.mode != mVelvet

/-- A root clock loss (R22). -/
def rootLoss (c : ClockLoss) (s : State) : State :=
  if !s.clockFails c then s
  else
  let s1 :=
    match c with
    | .pllUnlock => (s.setFld B.clk CLK.CLK_STAT_ROOT_LOCK 0).incSat B.clk CLK.LOSS_CNT
    | .crystal => s.setFld B.clk CLK.CLK_STAT_XTAL_OK 0
    | .tickMissing => s
  collCycle ((s1.setDev { s1.dev with rootLost := true }).raiseCond 0 0)

/-- The clocks are back: source 0's condition has ceased. -/
def rootBack (s : State) : State :=
  ((s.setDev { s.dev with rootLost := false }).setFld B.clk CLK.CLK_STAT_ROOT_LOCK 1).setFld B.clk CLK.CLK_STAT_XTAL_OK 1

/-- Whether a rail's voltage lies outside its operating range (R24, R26). Of VDD_IO33, which no monitor watches, the collector sees what the
balls read back (R488). -/
def State.railBad (s : State) (r : SupplyRail) (mv : Nat) : Bool :=
  match r with
  | .aon => !inRange 760 840 mv
  | .io33 => !inRange 3135 3465 mv
  | .core =>
    let set := s.fld B.margin MARGIN.VSET
    if s.mode = mVelvet then decide (900 < mv)
    else !inRange 720 900 mv || decide (3 * set < 100 * (mv - set)) || decide (3 * set < 100 * (set - mv))

/-- VDD_IO33 is lost: the balls fall to their pull levels, which differ from running waves and from the run state of an STO pair (R422, R427,
R488). -/
def io33Lost (s : State) : State :=
  let s1 := if s.flag B.coll COLL.STAT_FAULT_RUN then s.raise 7 else s
  collCycle ((List.range 8).foldl (fun a n => if a.stoRun n then a.raiseCond (448 + n) (BitVec.ofNat 32 (1 + 8)) else a) s1)

/-- A rail's level: what the balls of the safety outputs follow (R488), and, while PORn is high, a monitor's report (R25); in Velvet a core
rail below 0.70 V costs the retained content instead (R26). A lost VDD_AON stops the driver of FAULT_A and FAULT_B. -/
def railOut (r : SupplyRail) (mv : Nat) (s : State) : State :=
  let bad := s.railBad r mv
  match r with
  | .io33 =>
    let s1 := s.setDev { s.dev with ioOk := !bad }
    if bad ∧ s.dev.ioOk ∧ ¬ s.dev.porLow then io33Lost s1 else s1
  | .aon =>
    let s1 := s.setDev { s.dev with aonOk := !bad }
    if bad ∧ ¬ s.dev.porLow then collCycle (s1.raiseCond 2 0) else s1
  | .core =>
    if s.dev.porLow then s
    else
      let s1 := if s.mode = mVelvet ∧ mv < 700 then s.setDev { s.dev with lost := true } else s
      if bad then collCycle (s1.raiseCond 1 0) else s1

/-- An AVSBus transaction's outcome, each ms (R27, R28). Ten off-target read-backs in a row are the 10 ms, and an unanswered transaction
between them does not end the count (DESIGN CHOICE, log entry 96). -/
def avsRead (answer : Option Nat) (s : State) : State :=
  let d := s.dev
  let fault (s' : State) : State := (s'.setDev { s'.dev with avsFails := 0, avsBad := 0, avsStop := true }).raise 3
  match answer with
  | none => if 3 ≤ d.avsFails + 1 then fault s else s.setDev { d with avsFails := d.avsFails + 1 }
  | some mv =>
    let set := s.fld B.margin MARGIN.VSET
    let off := decide (15 < mv - set) || decide (15 < set - mv)
    if off ∧ 10 ≤ d.avsBad + 1 then fault s
    else s.setDev { d with avsFails := 0, avsBad := if off then d.avsBad + 1 else 0 }

/-! ### Registers of pages 0x000 to 0x002 (R20, R23, R29, R41, R461) -/

/-- SEC_VER of the running image; 0 while none runs. -/
def State.imgField (s : State) (o n : Nat) : Nat :=
  match s.dev.image with
  | some i => fieldAt i.header o n
  | none => 0

def sysCodes (o v : Nat) (s : State) : List Code :=
  match o with
  | 0x0B0 =>
    let new := (s.rd (B.sys + SYS.SEC_VER_SET.off)).toNat
    refuseIf (decide (new ≤ s.dev.fuses.minSecVer.toNat) || decide (s.imgField 0x00C 4 < new)) .range
      ++ refuseIf (s.mode != mCalico) .state ++ refuseIf (v != 0x5A) .key ++ refuseIf s.dev.burning.isSome .busy
  | _ => []

def sysDo (o v : Nat) (s : State) : State :=
  match o with
  | 0x044 => modeRequest (v % 8) none s
  | 0x0B0 => s.setDev { s.dev with burning := some (s.rd (B.sys + SYS.SEC_VER_SET.off)) }
  | _ => s.wr (B.sys + o) (BitVec.ofNat 32 v)

/-- The end of a security version burn (R461). -/
def secVerDone (ok : Bool) (s : State) : State :=
  match s.dev.burning with
  | none => s
  | some v =>
    let s1 := s.setDev { s.dev with burning := none, fuses := if ok then { s.dev.fuses with minSecVer := v } else s.dev.fuses }
    (if ok then s1 else s1.raise 471).irq 534

def clkCodes (o v : Nat) (s : State) : List Code :=
  match o with
  | 0x044 => refuseIf (!inRange 8 10 v) .range ++ refuseIf (s.flag B.margin MARGIN.CTL_AUTO) .busy
  | _ => []

/-- The divider takes effect (R20). -/
def setDiv (d : Nat) (s : State) : State := (s.setFld B.clk CLK.CORE_DIV_DIV d).setFld B.clk CLK.CLK_STAT_DIV_NOW d

def clkDo (o v : Nat) (s : State) : State := if o = 0x044 then setDiv v s else s.wr (B.clk + o) (BitVec.ofNat 32 v)

def rstCodes (o v : Nat) : List Code :=
  match o with
  | 0x044 => refuseIf (nbits v 0 2 == 0 || nbits v 0 2 == 3) .range ++ refuseIf (nbits v 8 8 != 0xC3) .key
  | _ => []

def rstDo (o v : Nat) (s : State) : State :=
  if o = 0x044 then deviceReset (if nbits v 0 2 = 1 then .warm else .system) s else s.wr (B.rst + o) (BitVec.ofNat 32 v)

end Sys2Proof.Machine
end

