-- ==== Sys2Proof/Machine/NetRegs.lean ====
section
/-! DEFINITION. Registers, enable and disable of the Ethernet ports, of page 0x322 and of YCP (R367, R372, R378, R384, R393, R396,
R397, R400-R402). -/
namespace Sys2Proof.Machine

/-! ### Ports (R367, R400) -/

/-- Whether INSTALL would hit an SA in use for transmission or enabled for reception. -/
def State.saBusy (s : State) (p : Nat) : Bool :=
  let i := s.saSel p
  let a := (s.ethp p).sa i
  if i < 2 then i == s.fld (B.eth p) ETH.SEC_CTL_TX_AN && a.installed else a.enabled

/-- SA_PN and SC_SCI read as the selected SA's packet number, the next one to send or the lowest acceptable, and its SC's SCI; until an SA is
installed as what is staged for it (R400; DEDUCED, log entry 35). -/
def saView (p o : Nat) (w : W32) (s : State) : W32 :=
  let i := s.saSel p
  let x := s.ethp p
  let a := x.sa i
  let pn := if i < 16 then a.pn else a.low
  let sci := x.scis.get (fun _ => 0) (i / 2 - 8)
  if ¬ a.installed then w
  else if o = 0x078 then BitVec.ofNat 32 pn
  else if o = 0x07C then BitVec.ofNat 32 (pn / 2 ^ 32)
  else if o = 0x080 ∧ 16 ≤ i then sci.setWidth 32
  else if o = 0x084 ∧ 16 ≤ i then sci.extractLsb' 32 32
  else w

def ethCodes (p o v : Nat) (s : State) : List Code :=
  match o with
  | 0x040 => refuseIf (nbit v 1 && !nbit v 0) .range ++ refuseIf (s.pgEnabled (0x320 + p)) .state
  | 0x074 => refuseIf (nbits v 0 2 == 0) .range ++ refuseIf (nbits v 0 2 == 1 && s.saBusy p) .busy
  | _ => []

/-- The bytes that `n` registers spell, each least significant byte first. -/
def State.regBytes (s : State) (key n : Nat) : List Byte := (List.range n).flatMap (fun i => leBytes 4 (s.rd (key + 4 * i)).toNat)

/-- INSTALL: the SA takes the staged values (R367). -/
def saInstall (p : Nat) (s : State) : State :=
  let b := B.eth p
  let i := s.saSel p
  let x := s.ethp p
  let pn := (s.rd (b + ETH.SA_PN_LO.off)).toNat + (if s.xpn p then (s.rd (b + ETH.SA_PN_HI.off)).toNat * 2 ^ 32 else 0)
  let a : Sa := { key := s.regBytes (b + ETH.SA_KEY.off) 8, salt := s.regBytes (b + ETH.SA_SALT.off) 3, ssci := s.rd (b + ETH.SA_SSCI.off), pn := pn, low := pn, installed := true, enabled := (x.sa i).enabled }
  let y := x.setSa i a
  s.setEthp p (if i < 16 then y else { y with scis := y.scis.set (fun _ => 0) (i / 2 - 8) (s.rd64 (b + ETH.SC_SCI_LO.off)) })

def saEnable (p : Nat) (on : Bool) (s : State) : State :=
  let i := s.saSel p
  let x := s.ethp p
  s.setEthp p (x.setSa i { x.sa i with enabled := on })

def ethDo (p o v : Nat) (s : State) : State :=
  match o with
  | 0x074 =>
    match nbits v 0 2 with
    | 1 => saInstall p s
    | 2 => saEnable p true s
    | _ => saEnable p false s
  | _ => s.wr (B.eth p + o) (BitVec.ofNat 32 v)

/-- EN set: a KR port with TRAIN begins to train (R363). -/
def ethOn (p : Nat) (s : State) : State :=
  s.setEthp p { s.ethp p with train := s.flag (B.eth p) ETH.CFG_MEDIA && s.flag (B.eth p) ETH.CFG_TRAIN }

/-- EN cleared: what is queued is still sent for 100 µs (R396). -/
def ethOffStart (p : Nat) (s : State) : State := s.setEthp p { s.ethp p with txUntil := true, train := false }

/-- The end of the transmission of a disabled port. -/
def ethOffEnd (p : Nat) (s : State) : State :=
  let x := s.ethp p
  if ¬ x.txUntil then s
  else
    let k := page (0x320 + p)
    let b := B.eth p
    let s1 := s.setFld b ETH.TX_DROP (satAdd 32 (s.fld b ETH.TX_DROP) x.txq.length)
    let s2 := linkGone p ((s1.setEthp p { x with txq := [], txUntil := false }))
    (s2.setFld k PG.STAT_ENABLED 0).setFld k PG.STAT_QUIESCED 1

/-! ### Page 0x322 (R373, R377, R378, R401) -/

def netCodes (o v : Nat) (s : State) : List Code :=
  let en := refuseIf (s.pgEnabled 0x322) .state
  match o with
  | 0x040 => refuseIf (!inRange 100 4095 (nbits v 4 12)) .range ++ refuseIf (!inRange 20 10000 (nbits v 16 16)) .range
  | 0x054 => refuseIf (nbit v 16 && !inRange 1 4094 (nbits v 0 12)) .range
  | 0x070 =>
    let old := (s.rd (B.net + o)).toNat
    refuseIf (decide (2 ≤ nbits v 1 2)) .range ++ refuseIf (nbit v 5 && nbits v 1 2 != 0) .range
      ++ refuseIf (nbit old 0 && v / 2 != old / 2) .state
  | 0x090 => refuseIf (s.mode != mCalico) .state
  | 0x098 => progCodes (progAddr s B.net NET.PROG_LOAD_LO v) s.net.load.isSome
  | 0x0A4 => en
  | 0x0BC => en
  | 0x0A8 => refuseIf (!inRange 4 12 (nbits v 0 4)) .range ++ en
  | 0x0C0 => refuseIf (!inRange 4 12 (nbits v 0 4)) .range ++ en
  | _ => []

def ptpDisabled : Nat := 0
def ptpListening : Nat := 1
def ptpSlave : Nat := 2
def ptpMaster : Nat := 3
def ptpHoldover : Nat := 4
def ptpPassive : Nat := 5

/-- The PTP engine changes state; source 404 reports the entry into holdover (R398). -/
def ptpGo (st : Nat) (s : State) : State :=
  let old := s.fld B.net NET.PTP_STAT_STATE
  if old = st then s
  else
    let s1 := ((s.setFld B.net NET.PTP_STAT_STATE st).setFld B.net NET.PTP_STAT_LOCKED 0).irq 450
    if st = ptpHoldover then s1.raise 404 else s1

/-- PTP starts or stops with EN. -/
def ptpSwitch (on : Bool) (s : State) : State :=
  ptpGo (if on then ptpListening else ptpDisabled) { s with net := { s.net with ptp := {} } }

def netDo (o v : Nat) (s : State) : State :=
  let s1 := s.wr (B.net + o) (BitVec.ofNat 32 v)
  match o with
  | 0x068 =>
    let a := s1.regBytes (B.net + NET.IP6_ADDR.off) 4
    { s1 with net := { s1.net with ip6 := if a = zeros 16 then [] else a } }
  | 0x070 => if nbit v 0 = s.flag B.net NET.PTP_CTL_EN ∨ ¬ s.pgEn 0x322 then s1 else ptpSwitch (nbit v 0) s1
  | 0x098 =>
    { s with net := { s.net with load := some ⟨0, progAddr s B.net NET.PROG_LOAD_LO v⟩ } }.wr (B.net + NET.PROG_RES.off) (BitVec.ofNat 32 (2 ^ 31))
  | _ => s1

/-- A classifier program load ends (R138, R381). -/
def netProgDone (s : State) : State :=
  match s.net.load with
  | none => s
  | some l =>
    let (c, ws) := progRead smNet l.addr s
    let s1 := { s with net := { s.net with load := none, prog := if c = Code.ok then ws else s.net.prog } }
    (s1.wr (B.net + NET.PROG_RES.off) (BitVec.ofNat 32 c.num)).irq 461

/-- EN of page 0x322 set: PTP starts if it is enabled. -/
def netOn (s : State) : State := if s.flag B.net NET.PTP_CTL_EN then ptpSwitch true s else s

/-- EN cleared: PTP enters holdover and keeps ADJ (R377, R397). -/
def netOff (s : State) : State := if s.flag B.net NET.PTP_CTL_EN then ptpGo ptpHoldover s else s

/-! ### YCP (R384, R390, R393, R397, R402) -/

def State.setYcp (s : State) (y : Ycp) : State := { s with ycp := y }

def State.keySlot (s : State) (i : Nat) : KeySlot := s.ycp.slots.get (fun _ => {}) i

def State.setKeySlot (s : State) (i : Nat) (k : KeySlot) : State := s.setYcp { s.ycp with slots := s.ycp.slots.set (fun _ => {}) i k }

/-- A session's PAT_LOAD executes. -/
def Session.loads (x : Session) : Bool := match x.exec with | some e => e.cmd.num == 0x31 | none => false

/-- A command that uses the pattern window executes, be its session closed since; an upload that uses the staging buffer runs (R397, R402). -/
def State.patUsed (s : State) : Bool := s.ycp.patLate || s.ycp.sess.cells.any (fun c => c.2.loads)
def State.imgUsed (s : State) : Bool := match s.ycp.upload with | some u => u.target != 0 | none => false

def ycpCodes (wr : Writer) (o v : Nat) (s : State) : List Code :=
  let pat := refuseIf s.patUsed .busy
  let img := refuseIf s.imgUsed .busy
  match o with
  | 0x040 => refuseIf (nbits v 0 16 == 0) .range
  | 0x044 => refuseIf (v == 0) .range
  | 0x058 => refuseIf (nbits v 1 2 == 0 && nbits v 9 8 != 0 && wr.ring != 0) .range
  | 0x080 => refuseIf (!inRange 5 1000 (nbits v 16 16)) .range
  | 0x084 => refuseIf (s.flag B.ycp YCP.SAFE_CTL_EN) .state
  | 0x098 => refuseIf ((s.rd (B.ycp + YCP.PAT_BASE_LO.off)).toNat % 64 != 0) .align ++ pat
  | 0x09C => refuseIf (v % 64 != 0) .align ++ pat
  | 0x0A4 => refuseIf ((s.rd (B.ycp + YCP.IMG_BUF_LO.off)).toNat % 64 != 0) .align ++ img
  | 0x0A8 => img
  | _ => []

def ycpDo (o v : Nat) (s : State) : State :=
  let i := s.fld B.ycp YCP.KEY_SEL
  let k := s.keySlot i
  let w : W32 := BitVec.ofNat 32 v
  match o with
  | 0x058 => s.setKeySlot i { k with ctl := w }
  | 0x080 =>
    let s1 := s.wr (B.ycp + o) w
    if nbit v 0 ∧ ¬ s.flag B.ycp YCP.SAFE_CTL_EN then
      (s1.setYcp { s1.ycp with first := true, ownCnt := 0 }).setFld B.ycp YCP.SAFE_STAT_ARMED 0
    else s1
  | _ =>
    if inRange 0x060 0x07C o then
      let n := o - 0x060
      let old := k.key ++ zeros (32 - k.key.length)
      s.setKeySlot i { k with key := old.take n ++ leBytes 4 v ++ old.drop (n + 4) }
    else s.wr (B.ycp + o) w

/-- The bits of the session places for which `f` holds. -/
def State.sessBits (s : State) (f : Session → Bool) : Nat :=
  (List.range 8).foldl (fun a p => match s.ycp.sess.find p with | some x => if f x then a + 2 ^ p else a | none => a) 0

def sessView (s : State) : W32 := BitVec.ofNat 32 (s.sessBits (fun x => !x.pending) + 256 * s.sessBits (·.pending))

/-- DEBUG_STAT. AVAILABLE is 1 on a part whose debug is not fused off, from reset on, as its meaning says; the map's Reset column gives 0
(DEDUCED, log entry 120). -/
def debugView (s : State) : W32 := BitVec.ofNat 32 (b2n (!s.dev.fuses.debugOff) + 256 * s.sessBits (·.unlocked))

/-- The image of a flash port is left invalid: its header is erased (R397; DESIGN CHOICE, log entry 39). -/
def flashSpoil (port : Nat) (s : State) : State := s.poke (0x30000000 + port * 0x8000000) (List.replicate 256 0xFF)

/-- The upload ends, which interrupt 458 tells; IMG_STAT keeps its target and the code of the last IMAGE_END (R399). -/
def uploadDrop (s : State) : State :=
  if s.ycp.upload.isSome then ((s.setYcp { s.ycp with upload := none }).setFld B.ycp YCP.IMG_STAT_BUSY 0).irq 458 else s

/-- Shows a port busy, or free once neither a command nor an upload programs it. -/
def flashShow (p : Nat) (s : State) : State :=
  s.setFld B.xspi (busyFld p) (b2n ((s.flashCmd p).isSome || s.burning p))

/-- An upload is given up; one whose programming had begun leaves its port invalid. -/
def uploadAbandon (s : State) : State :=
  match s.ycp.upload with
  | none => s
  | some u => if u.burn then flashShow (u.target - 1) (flashSpoil (u.target - 1) (uploadDrop s)) else uploadDrop s

/-- A session closes; its upload is given up unless programming runs (DEDUCED, log entry 40), and its PAT_LOAD goes on (R397). -/
def sessClose (place : Nat) (s : State) : State :=
  match s.ycp.sess.find place with
  | none => s
  | some x =>
    let s1 := s.setYcp { s.ycp with sess := s.ycp.sess.del place, patLate := s.ycp.patLate || x.loads }
    let s2 := match s1.ycp.upload with
      | some u =>
        if u.owner ≠ place then s1
        else if u.burn then s1.setYcp { s1.ycp with upload := some { u with owner := 9 } } else uploadDrop s1
      | none => s1
    if x.pending then s2 else s2.irq 454

/-- EN of page 0x323 cleared: every session closes at once (R397). -/
def ycpOff (s : State) : State := uploadAbandon ((List.range 8).foldl (fun a p => sessClose p a) s)

end Sys2Proof.Machine
end

