-- ==== Sys2Proof/Machine/Boot.lean ====
section
/-! DEFINITION. Boot, images, wake, Gauze and the test record (R31-R36, R44, R45, R71, R448-R454). -/
namespace Sys2Proof.Machine

/-! ### Images (R31, R32) -/

/-- Whether a region of memory lies whole in shared SRAM or in fitted DRAM. -/
def State.loadable (s : State) (a n : Nat) : Bool :=
  let r := s.region a
  (r == .sram || r == .dram) && s.region (a + n - 1) == r

/-- Refusals that the header's range fields give (R32, R395). -/
def headerRange (h : List Byte) (s : State) : List Code :=
  let f := fieldAt h
  let len := f 0x008 4
  let load := f 0x010 8
  let inside (x : Nat) : Bool := decide (load ≤ x) && decide (x < load + len)
  refuseIf (f 0x004 2 != 1 || f 0x028 24 != 0 || !inRange 64 0x4000000 len || !s.loadable load len || !inside (f 0x018 8)
      || !(f 0x020 8 == 0 || inside (f 0x020 8))) .range
    ++ refuseIf (decide (f 0x00C 4 < s.dev.fuses.minSecVer.toNat)) .range
    ++ refuseIf (load % 64 != 0 || len % 64 != 0) .align

/-- The digest that the signature covers. -/
def imageDigest (h payload : List Byte) : List Byte := sha384 (h.take 0xA0 ++ payload)

/-- The key, edition and signature checks (R32). -/
def headerTrust (h digest : List Byte) (s : State) : List Code :=
  let key := (h.drop 0x040).take 96
  refuseIf (!s.dev.fuses.keys.any (fun k => k.1 == sha384 key && !k.2)) .key
    ++ refuseIf (fieldAt h 0x006 2 != 1) .edition
    ++ refuseIf (!Config.ecdsaVerify key digest ((h.drop 0x0A0).take 96)) .integrity

def imageMagic : Nat := 0x36314B43

/-- The code of R32 for an image. -/
def imageCode (h payload : List Byte) (s : State) : Code :=
  if fieldAt h 0 4 ≠ imageMagic then .absent
  else Code.lowest (headerRange h s ++ headerTrust h (imageDigest h payload) s)

/-! ### Memory repair (R451, R452) -/

/-- Bytes 0 to 7 of a repair entry. -/
def RepEnt.word (e : RepEnt) : W64 :=
  BitVec.ofNat 64 (e.inst.toNat + b2n e.col * 2 ^ 16 + e.spare.toNat * 2 ^ 17 + e.addr.toNat * 2 ^ 32)

/-- The repair entry that 8 bytes spell. -/
def RepEnt.ofWord (w : W64) : RepEnt := ⟨w.extractLsb' 0 16, w.getLsbD 16, w.extractLsb' 17 3, w.extractLsb' 32 16⟩

/-- Spare rows and columns of an array; none for a number that names no array (R451). -/
def arraySpares (i : Nat) : Option (Nat × Nat) :=
  if i < 0x340 then (if i % 0x40 < 0x20 then some (4, 2) else some (2, 1))
  else if inRange 0x400 0x57F i then some (8, 2)
  else if inRange 0x600 0x6FF i then some (2, 1)
  else none

/-- Whether a repair entry replaces the row or column of a cell. -/
def RepEnt.covers (e : RepEnt) (x : ArrCell) : Bool := e.inst == x.inst && e.addr == (if e.col then x.col else x.row)

/-- The fewest rows (false) and columns (true) that cover every cell, a row before a column where both cover equally; none where `r` rows
and `c` columns cannot (R452). The number first given bounds the spares. -/
def coverCells : Nat → Nat → Nat → List ArrCell → Option (List (Bool × BitVec 16))
  | _, _, _, [] => some []
  | 0, _, _, _ :: _ => none
  | k + 1, r, c, x :: t =>
    let byRow := if r = 0 then none else (coverCells k (r - 1) c (t.filter (fun y => y.row != x.row))).map ((false, x.row) :: ·)
    let byCol := if c = 0 then none else (coverCells k r (c - 1) (t.filter (fun y => y.col != x.col))).map ((true, x.col) :: ·)
    match byRow, byCol with
    | some a, some b => if b.length < a.length then some b else some a
    | some a, none => some a
    | none, some b => some b
    | none, none => none

/-- The spares of an array that entries leave free, in order. -/
def freeSpares (held : List RepEnt) (i n : Nat) (col : Bool) : List Nat :=
  (List.range n).filter (fun k => !held.any (fun e => e.inst.toNat == i && e.col == col && e.spare.toNat == k))

/-- The entries that cover lines with spares, the lowest free spare first. -/
def spareEnts (i : Nat) (col : Bool) (lines : List (BitVec 16)) (spares : List Nat) : List RepEnt :=
  (lines.zip spares).map (fun x => ⟨BitVec.ofNat 16 i, col, BitVec.ofNat 3 x.2, x.1⟩)

/-- MBIST of one array: the repairs of its cells that the entries in effect do not cover; none where the free spares do not reach. -/
def arrayRepairs (held : List RepEnt) (cells : List ArrCell) (i : Nat) : Option (List RepEnt) :=
  let left := cells.filter (fun x => x.inst.toNat == i && !held.any (·.covers x))
  match arraySpares i with
  | none => some []
  | some (r, c) =>
    let fr := freeSpares held i r false
    let fc := freeSpares held i c true
    (coverCells (fr.length + fc.length) fr.length fc.length left).map (fun l =>
      spareEnts i false ((l.filter (fun x => !x.1)).map (·.2)) fr ++ spareEnts i true ((l.filter (·.1)).map (·.2)) fc)

/-- Puts a number into an ascending list without repeats. -/
def insNat (a : Nat) : List Nat → List Nat
  | [] => [a]
  | b :: t => if a < b then a :: b :: t else if a = b then b :: t else b :: insNat a t

/-- The arrays of failing cells, in instance order. -/
def cellArrays (cells : List ArrCell) : List Nat := cells.foldl (fun l x => insNat x.inst.toNat l) []

/-- The repairs of every array, in instance order. -/
def mbistRepairs (held : List RepEnt) (cells : List ArrCell) : List RepEnt :=
  (cellArrays cells).flatMap (fun i => (arrayRepairs held cells i).getD [])

/-- The arrays that cannot be repaired, in instance order. -/
def mbistFails (held : List RepEnt) (cells : List ArrCell) : List Nat :=
  (cellArrays cells).filter (fun i => (arrayRepairs held cells i).isNone)

/-- Steps 8 and 9 of R35 for an image whose payload stands at LOAD: the header copy, the jump to ENTRY, Calico (R38, R462). The copy and
the digest are held beside memory, since no rule places them (DESIGN CHOICE, log entry 99). -/
def imageStarts (src : Nat) (h payload : List Byte) (s0 : State) : State :=
  let s := if s0.dev.phase = .netWait ∨ s0.dev.phase = .felt then romDown s0 else s0
  let s1 := s.setDev { s.dev with image := some ⟨h.take 256, imageDigest h payload⟩, phase := .running, bootLeft := [] }
  let s2 := (s1.setFld B.rst RST.BOOT_STAT_SOURCE src).wr (B.sys + SYS.ACTIVE_ED.off) (BitVec.ofNat 32 (fieldAt h 0x006 2))
  let (t, s3) := s2.free
  let s4 := s3.wr (B.rst + RST.BOOT_TIME.off) (t.extractLsb' 0 32)
  enterMode mCalico 3 (s4.setThread 0 { s4.thread 0 with st := .running, pc := BitVec.ofNat 64 (fieldAt h 0x018 8), sr := 8 })

/-! ### Boot sources (R33) -/

/-- The flash window of a port (R166). -/
def flashBase (p : Nat) : Nat := 0x30000000 + p * 0x8000000

/-- No source started an image: Felt with the Canvas ROM as recovery handler (R33). -/
def noImage (s : State) : State :=
  enterMode mFelt 4 (romUp (s.setDev { s.dev with phase := .felt, bootLeft := [] }))

/-- Tries the sources in order; the network waits for an upload or its time-out. -/
def trySources : List (Fin 3) → State → State
  | [], s => noImage s
  | x :: rest, s =>
    if x = 2 then
      if s.dev.fuses.netOff then trySources rest s else romUp (s.setDev { s.dev with phase := .netWait, bootLeft := rest })
    else
      let h := s.readMem (flashBase x.val) 256
      let payload := if fieldAt h 0 4 = imageMagic then s.readMem (flashBase x.val + 256) (min (fieldAt h 0x008 4) 0x4000000) else []
      let c := imageCode h payload s
      let s1 := s.setFld B.rst ⟨0x048, 8 + 8 * x.val, 8⟩ c.num
      if c = .ok then imageStarts x.val h payload (s1.poke (fieldAt h 0x010 8) payload) else trySources rest s1

/-- The network source reports TIMEOUT, over the code of an upload that failed its check (DESIGN CHOICE, log entry 99), and the sources
after it are tried (R33). -/
def netTimeout (s : State) : State :=
  if s.dev.phase = .netWait then
    let s1 := uploadDrop s
    trySources s.dev.bootLeft ({ s1 with ycp := { s1.ycp with sess := s1.ycp.sess.del 8 } }.setFld B.rst RST.BOOT_STAT_CODE_NET Code.timeout.num)
  else s

/-! ### Units out of service (R35, R442) -/

/-- A trio's identity leaves service, with no trio left to run it (R35). The source that records it is that of a permanently failed core
(DESIGN CHOICE, log entry 31). -/
def identityLost (n : Nat) (s : State) : State :=
  if (s.trio n).lost then s
  else trioEvt n 5 3 2 ((s.setTrio n { s.trio n with lost := true }).setFld (B.trio n) TRIO.STAT_IN_SVC 0)

/-- A physical trio fails at boot: trio 12 takes its identity over where it can, else the identity leaves service (R35, R71). Trio 12's own
failure takes out the identity that it serves; a trio whose identity trio 12 serves runs nothing that could fail. -/
def bootTrioFails (n : Nat) (spareOk : Bool) (s : State) : State :=
  if n = 12 then
    let s1 := s.setFld B.bist BIST.SPARE_STAT_FAILED 1
    if s.spare = spareInUse ∨ s.spare = spareFused then identityLost (s.fld (B.trio 12) TRIO.SPARE_SERVES) s1 else s1
  else if s.flag (B.trio n) TRIO.STAT_REMAPPED then s
  else if spareOk ∧ s.spareReady then
    trioEvt n 7 3 4 ((((s.setFld (B.trio n) TRIO.STAT_REMAPPED 1).setFld (B.trio n) TRIO.SPARE_PHYS 12).setFld (B.trio 12) TRIO.SPARE_STATE
      spareInUse).setFld (B.trio 12) TRIO.SPARE_SERVES n)
  else identityLost n s

/-- An AAU fails at boot: a lane's takes its lane out of service, a trio's takes the trio out (R303). The AAU of an identity that stays on
its trio shows the failure. -/
def bootAauFails (u : Nat) (spareOk : Bool) (s : State) : State :=
  if u < 13 then
    let s1 := bootTrioFails u spareOk (s.raiseUnit (16 + 12 * u + 8) 1 u)
    if s1.flag (B.trio u) TRIO.STAT_REMAPPED then s1 else (s1.setFld (B.trio u) TRIO.AAU_STAT_IN_SVC 0).setFld (B.trio u) TRIO.AAU_STAT_FAILED 1
  else laneFails (u - 13) 221 s

/-- The page that serves a unit other than a trio, a lane or a memory (R442, R482). -/
def unitPage (u : Nat) : Option Nat :=
  if inRange 56 71 u then some (0x300 + (u - 56))
  else if inRange 72 73 u then some (0x320 + (u - 72))
  else if inRange 74 81 u then some (0x200 + (u - 74))
  else if inRange 82 89 u then some (0x240 + (u - 82))
  else if u = 90 then some 0x220
  else if u = 91 then some 0x210
  else if u = 93 then some 0x110
  else if inRange 96 97 u then some (0x330 + (u - 96))
  else if u = 98 then some 0x332
  else if inRange 99 102 u then some 0x128
  else if u = 105 then some 0x323
  else if u = 106 then some 0x003
  else none

/-- A test unit fails at boot and leaves service (R35, R442). Of a unit other than a trio, a lane or a collector copy the page shows
FAULTED, and its EN cannot be set (R473, R479); how an EN_FIXED block acts then no rule says: it goes on. The collector records
the failure as source 464, since no rule gives it a source (DESIGN CHOICE, log entry 31). -/
def bootUnitFails (spareOk : Bool) (u : Nat) (s : State) : State :=
  let s1 := if u < 43 then s.setFld B.bist ⟨0x100 + 4 * u, 1, 1⟩ 1 else s
  if u < 39 then bootTrioFails (u / 3) spareOk s1
  else if u < 43 then laneFails (u - 39) 221 s1
  else if u < 56 then bootAauFails (u - 43) spareOk s1
  else
    let s2 := s1.raise 464
    match unitPage u with
    | some p => s2.setFld (page p) PG.STAT_FAULTED 1
    | none => s2

/-- An array that its spares cannot repair takes out the unit that holds it (R451, R452): a trio, a bank of shared SRAM, the 512 blocks of
an array of queue memory. -/
def arrayFails (spareOk : Bool) (i : Nat) (s0 : State) : State :=
  let s := s0.raise 466
  if i < 0x340 then bootTrioFails (i / 0x40) spareOk s
  else if inRange 0x400 0x4FF i then { s with fab := { s.fab with badBanks := s.fab.badBanks ||| BitVec.ofNat 16 (2 ^ ((i - 0x400) / 16)) } }
  else if inRange 0x500 0x57F i then { s with fab := { s.fab with badQueue := s.fab.badQueue ||| BitVec.ofNat 128 (2 ^ (i - 0x500)) } }
  else s

/-- Whether an array is of none of the kinds that R452 takes out alone: the device then stays in Muslin. -/
def arrayStops (i : Nat) : Bool := !(decide (i < 0x340) || inRange 0x400 0x57F i)

/-- The test unit that holds an array (R442). Of the arrays of a trio it is core 0's; of the others that R451 does not tell apart it is
the event engine, whose failure in a record therefore keeps the device in Muslin as R452 asks of such an array (DESIGN CHOICE, log entry
31). -/
def arrayUnit (i : Nat) : Nat :=
  if i < 0x340 then 3 * (i / 0x40) else if inRange 0x400 0x4FF i then 103 else if inRange 0x500 0x57F i then 104 else 91

/-- Whether a failing unit is one of trio 12's. -/
def spareUnit (u : Nat) : Bool := inRange 36 38 u || u == 55

/-- Failures of one step in the order of R35: those of trio 0 come first, so that trio 12 takes over trio 0 before another. -/
def zeroFirst (zero : Nat → Bool) (l : List Nat) : List Nat := l.filter zero ++ l.filter (fun x => !zero x)

/-- The units that fail one test, and the arrays that cannot be repaired: trio 12's first, then trio 0's. -/
def bootUnits (spareOk : Bool) (units arrays : List Nat) (s : State) : State :=
  let ok := spareOk && !units.any spareUnit && !arrays.any (fun i => i / 0x40 == 12)
  let s1 := (zeroFirst (fun u => decide (u < 3) || u == 43) units).foldl (fun b u => bootUnitFails ok u b) s
  (zeroFirst (fun i => decide (i < 0x40)) arrays).foldl (fun b i => arrayFails ok i b) s1

/-! ### The test record (R34, R450) -/

/-- The record area of a port: the last 64 KiB of its flash. -/
def State.recBase (s : State) (p : Nat) : Nat := flashBase p + s.flashSize p - 0x10000

/-- The fuse state as the bytes that its hash covers; its layout is not given (log entry 30). -/
def State.fuseHash (s : State) : List Byte :=
  let f := s.dev.fuses
  sha384 (Config.fuseBytes (f.keys.flatMap (fun k => [k.1, leBytes 1 (b2n k.2)]) ++ [leBytes 4 f.minSecVer.toNat,
    f.bootOrder.flatMap (fun x => leBytes 1 x.val), leBytes 1 (b2n f.netOff + 2 * b2n f.debugOff), leBytes 8 f.serial.toNat,
    leBytes 6 f.mac.toNat, leBytes 4 f.ip4.toNat, leBytes 1 (match f.remap with | some n => n.val + 1 | none => 0),
    f.repairs.flatMap (fun r => leBytes 8 r.word.toNat), f.devKey, f.debugKey]))

/-- Times a record was used: the 0x00 bytes of its use counter. -/
def recUses (s : State) (a : Nat) : Nat := ((s.readMem (a + 0x2000) 64).filter (· == 0)).length

/-- Why a port's record is not valid (R34); none when it is. The codes other than ABSENT and INTEGRITY are not given (DESIGN CHOICE,
log entry 32). -/
def recCode (s : State) (p : Nat) : Code :=
  let a := s.recBase p
  let r := s.readMem a 0x2000
  if s.flashSize p < 0x10000 ∨ fieldAt r 0 4 ≠ 0x54524543 then .absent
  else Code.lowest (refuseIf (!Config.ecdsaVerify s.dev.fuses.devKey (sha384 (r.take 0x1FA0)) (r.drop 0x1FA0)) .integrity
    ++ refuseIf (fieldAt r 0x10 8 != s.dev.fuses.serial.toNat) .key ++ refuseIf ((r.drop 0x20).take 48 != s.fuseHash) .state
    ++ refuseIf (fieldAt r 6 2 != Config.romRev.toNat) .edition ++ refuseIf (decide (64 ≤ recUses s a)) .range)

/-- The valid record with the higher SEQ (R450). -/
def State.bestRec (s : State) : Option Nat :=
  let q (p : Nat) : Nat := fieldAt (s.readMem (s.recBase p) 16) 8 4
  match recCode s 0, recCode s 1 with
  | .ok, .ok => if q 0 < q 1 then some 1 else some 0
  | .ok, _ => some 0
  | _, .ok => some 1
  | _, _ => none

/-- The use counter's next byte is programmed. -/
def recUse (a : Nat) (s : State) : State :=
  match (List.range 64).find? (fun i => s.byteAt (a + 0x2000 + i) != 0) with
  | some i => s.poke (a + 0x2000 + i) [0]
  | none => s

/-! ### The boot sequence (R35) -/

/-- The units that a port's record marks as tested and failed (R450). -/
def recFailed (p : Nat) (s : State) : List Nat :=
  let r := s.readMem (s.recBase p) 0x70
  (List.range 107).filter (fun u => nbit (fieldAt r 0x50 16) u && !nbit (fieldAt r 0x60 16) u)

/-- The cells that the MBIST of the quick path meets: local SRAM of trio 0, shared SRAM, queue memory (R35, R451). -/
def quickCells (e : BootEnv) : List ArrCell := e.cells.filter (fun x => decide (x.inst.toNat < 0x20) || inRange 0x400 0x57F x.inst.toNat)

/-- Whether a port's record marks the cores of trio 0 as tested; one that does not asks for the full path (R449). -/
def recTested (p : Nat) (s : State) : Bool := fieldAt (s.readMem (s.recBase p) 0x70) 0x50 16 % 8 == 7

/-- Step 6 on the quick path: soft repairs and failed units of the record, and the MBIST of the arrays that it still runs. A cell that no
repair of fuse or record covers fails its array, for no repair is computed on this path (R452; DESIGN CHOICE, log entry 31). -/
def bootQuick (p : Nat) (e : BootEnv) (spareOk : Bool) (s : State) : State :=
  let a := s.recBase p
  let r := s.readMem a 0x2000
  let s1 := recUse a s
  let nrep := fieldAt r 0xB0 2
  let s2 := (s1.setFld B.rst RST.BOOT_STAT_RECORD 1).wr (B.bist + BIST.REC_STAT.off)
    (BitVec.ofNat 32 (256 + 65536 * recUses s1 a + 2 ^ 24 * (fieldAt r 8 4 % 256)))
  let s3 := s2.setFld B.bist BIST.REPAIR_SOFT nrep
  let reps := (List.range nrep).map (fun i => RepEnt.ofWord (BitVec.ofNat 64 (fieldAt r (0x100 + 8 * i) 8)))
  let s4 := s3.setDev { s3.dev with repairs := reps }
  let held := s.dev.fuses.repairs ++ reps
  bootUnits spareOk (recFailed p s) (cellArrays ((quickCells e).filter (fun x => !held.any (·.covers x)))) s4

/-- Step 6 on the full path; source 465 where no valid record was found (R449), not where a valid one marks trio 0 untested. -/
def bootFull (e : BootEnv) (spareOk : Bool) (s : State) : State :=
  let held := s.dev.fuses.repairs
  let reps := mbistRepairs held e.cells
  let s0 := s.wr (B.bist + BIST.REC_STAT.off) (BitVec.ofNat 32 (Code.lowest [recCode s 0, recCode s 1]).num)
  let s1 := if s.bestRec.isNone then s0.raise 465 else s0
  let s2 := (s1.setFld B.bist BIST.REPAIR_SOFT reps.length).setDev { s1.dev with repairs := reps }
  bootUnits spareOk (e.unitFail.map (·.val)) (mbistFails held e.cells) s2

/-- The DRAM PLL is locked, and both controllers are trained and show what the board fits (R36, R207). -/
def dramUp (s : State) : State :=
  let w : W32 := BitVec.ofNat 32 (s.dev.board.dramGiB % 16 + s.dev.board.ranks % 4 * 16 + 256)
  ((s.setFld B.clk CLK.CLK_STAT_DRAM_LOCK 1).wr (B.dram 0 + DRAM.DRAM_CFG.off) w).wr (B.dram 1 + DRAM.DRAM_CFG.off) w

/-- Clears all on-chip SRAM (R35). -/
def clearSram (s : State) : State :=
  { s with mem := s.mem.filter (fun c => keepsMem s true c.1), bad := s.bad.filter (fun w => keepsMem s true (8 * w)) }

/-- SEQ of the records that the flash ports hold, the higher one, valid or not (R450; DEDUCED, log entry 100). -/
def State.seqFound (s : State) : W32 :=
  let q (p : Nat) : Nat :=
    let r := s.readMem (s.recBase p) 16
    if s.flashSize p < 0x10000 ∨ fieldAt r 0 4 ≠ 0x54524543 then 0 else fieldAt r 8 4
  BitVec.ofNat 32 (max (q 0) (q 1))

/-- The device stays in Muslin, with the STO pairs in their stop state and FAULT_A and FAULT_B stopped (R35, R488). -/
def bootStops (s : State) : State := faultBalls ((s.modColl (fun c => { c with started := false })).setDev { s.dev with phase := .stuck })

/-- Steps 1 to 4 of R35: clocks, fuses, collector, comparators; false when the device stays in Muslin, as it does with TESTEN high (R488),
when the collector fails, and when trio 0's identity has no trio left (DESIGN CHOICE for trio 0, log entry 99). -/
def bootStart (e : BootEnv) (s : State) : Bool × State :=
  let s1 := (s.setFld B.clk CLK.CLK_STAT_ROOT_LOCK 1).setFld B.clk CLK.CLK_STAT_XTAL_OK 1
  let s2 := if e.fuseError then s1.raise 12 else s1
  let s3 := if s2.dev.fuses.burnFailed then (s2.setDev { s2.dev with fuses := { s2.dev.fuses with burnFailed := false } }).raise 471 else s2
  if e.testEn ∨ ¬ e.collectorOk then (false, bootStops s3)
  else
    let s4 := faultBalls (s3.modColl (fun c => { c with started := true }))
    let ok := !e.trioCmpFail.contains 12 && !e.aauCmpFail.contains 12
    let s5 := (zeroFirst (· == 0) (e.trioCmpFail.map (·.val))).foldl (fun a n => bootTrioFails n ok a) s4
    let s6 := (zeroFirst (· == 0) (e.aauCmpFail.map (·.val))).foldl (fun a u => bootAauFails u ok a) s5
    if (s6.trio 0).lost then (false, bootStops s6) else (true, s6)

/-- The record that the quick path runs on (R34, R449). -/
def State.quickRec (s : State) : Option Nat := s.bestRec.filter (fun p => recTested p s)

/-- The tests of the boot: those of the record where one stands, else all. -/
def bootTests (e : BootEnv) (spareOk : Bool) (s0 : State) : State :=
  let s := s0.setDev { s0.dev with recSeq := s0.seqFound }
  match s.quickRec with
  | some p => bootQuick p e spareOk s
  | none => bootFull e spareOk s

/-- What keeps the device in Muslin at step 6: trio 0's identity lost, a collector copy failed, or an array of another kind, which a record
shows as unit 91 (R35, R452). -/
def bootStuck (e : BootEnv) (best : Option Nat) (s : State) : Bool :=
  (s.trio 0).lost ||
    (match best with
     | some p => (recFailed p s).any (fun u => inRange 94 95 u || u == 91)
     | none => e.unitFail.any (fun u => inRange 94 95 u.val) || (mbistFails s.dev.fuses.repairs e.cells).any arrayStops)

/-- The boot sequence from step 1, or from step 2 on a cold wake (R35, R44). -/
def boots (e : BootEnv) (s : State) : State :=
  let (ok, s1) := bootStart e s
  if ok then
    let s2 := bootTests e (!e.trioCmpFail.contains 12 && !e.aauCmpFail.contains 12) s1
    if bootStuck e s1.quickRec s2 then bootStops s2
    else
      let s3 := dramUp (clearSram s2)
      trySources s3.dev.fuses.bootOrder s3
  else s1

/-- PORn is high, and so the rails have been in range (R25); the boot sequence runs. -/
def bootSequence (e : BootEnv) (s : State) : State :=
  if s.dev.phase = .boot ∧ s.mode = mMuslin then boots e (s.setDev { s.dev with porLow := false, aonOk := true, ioOk := true }) else s

/-- The background initialisation of DRAM ends (R36). What it leaves in DRAM outside the load region no rule states: after a power-on no
byte stands there, and content that self-refresh kept through Velvet stays (DESIGN CHOICE, log entry 115). -/
def dramInit (s : State) : State := if s.dev.phase = .running then s.setFld B.rst RST.BOOT_STAT_DRAM_INIT 1 else s

/-! ### Wake (R44, R45) -/

/-- The wake path's conditions: content intact, a WAKE entry, the stored digest. -/
def State.wakeGood (s : State) : Bool :=
  match s.dev.image with
  | none => false
  | some i =>
    !s.dev.lost && fieldAt i.header 0x020 8 != 0
      && sha384 (i.header.take 0xA0 ++ s.readMem (fieldAt i.header 0x010 8) (fieldAt i.header 0x008 4)) == i.digest

/-- Trio 0 jumps to WAKE (R44). -/
def jumpWake (s : State) : State :=
  let s1 := (s.setDev { s.dev with phase := .running }).wr (B.sys + SYS.ACTIVE_ED.off) (BitVec.ofNat 32 (s.imgField 0x006 2))
  s1.setThread 0 { s1.thread 0 with st := .running, pc := BitVec.ofNat 64 (s1.imgField 0x020 8), sr := 8 }

/-- WAKE_PATH: the digest is compared, then WAKE in Calico or the cold path. -/
def wakePath (e : BootEnv) (s : State) : State :=
  if s.dev.phase ≠ .wake then s
  else if s.wakeGood then
    let (ok, s1) := bootStart e s
    if ok then enterMode mCalico 3 (jumpWake (dramUp s1)) else s1
  else boots e ((s.setFld B.sys SYS.WAKE_CAUSE_RETAIN_LOST 1).setDev { s.dev with phase := .boot, image := none })

/-- VELVET_SAFE_STOP_EXIT (R45). -/
def velvetExit (e : BootEnv) (s : State) : State :=
  if s.mode = mVelvet ∧ s.stopDue then
    let good := s.wakeGood
    let w := wakePages s
    let w1 := (w.modColl (fun c => { c with stop := false })).wr (B.sys + SYS.MODE.off) (BitVec.ofNat 32 mVelvet)
    let (ok, s1) := bootStart e w1
    if ¬ ok then s1
    else
      let s2 := enterMode mFelt 5 (dramUp s1)
      if good then jumpWake s2
      else (romUp (s2.setDev { s2.dev with phase := .felt, image := none })).setFld B.sys SYS.WAKE_CAUSE_RETAIN_LOST 1
  else s

/-! ### Gauze (R448-R454) -/

/-- The test units of a trio: its cores and its AAU (R442). -/
def trioUnits (t : Nat) : List Nat := [3 * t, 3 * t + 1, 3 * t + 2, 43 + t]

/-- STATE words of R460 as the test record holds them. -/
def State.ageWord (s : State) (i : Nat) : W32 :=
  if i < 9 then s.rd (B.margin + MARGIN.BIN.off + 4 * i)
  else if i = 9 then s.rd (B.margin + MARGIN.ALOSS.off)
  else if i = 10 then BitVec.ofInt 32 (s.dev.s0.getD 0)
  else 0

def State.ageBytes (s : State) : List Byte := (List.range 15).flatMap (fun i => leBytes 4 (s.ageWord i).toNat)

/-- MARGIN.STATE0 to STATE15 (R460). -/
def State.ageState (s : State) (i : Nat) : W32 := if i = 15 then BitVec.ofNat 32 (crc32c s.ageBytes) else s.ageWord i

def maskOf (l : List Nat) : Nat := l.foldl (fun m u => m ||| 2 ^ u) 0

/-- The test record (R450); its signature is the device's own, a free value (log entry 3). -/
def State.record (s : State) : List Byte × State :=
  let d := s.dev
  let head := leBytes 4 0x54524543 ++ leBytes 2 1 ++ leBytes 2 Config.romRev.toNat ++ leBytes 4 (d.recSeq.toNat + 1)
    ++ leBytes 4 (b2n d.failed.isEmpty + 2 * b2n d.burnt + 4 * b2n d.fuses.remap.isSome) ++ leBytes 8 d.fuses.serial.toNat
    ++ leBytes 8 d.recTime.toNat ++ s.fuseHash
  let units := leBytes 16 (maskOf d.tested) ++ leBytes 16 (maskOf (d.tested.filter (fun u => !d.failed.contains u)))
  let body := head ++ units ++ d.recAge ++ leBytes 2 d.repairs.length ++ List.replicate 78 0
  let reps := d.repairs.flatMap (fun r => leBytes 8 r.word.toNat)
  let all := (body ++ reps ++ List.replicate 0x1FA0 0).take 0x1FA0
  let (sig, s1) := s.freeList 96
  (all ++ sig, s1)

/-- Writes the record on a port: read back right, or an area of unknown content (R449). -/
def writeRecord (p : Nat) (ok : Bool) (r : List Byte) (s : State) : State :=
  if s.flashSize p < 0x10000 then s
  else if ok then s.poke (s.recBase p) (r ++ List.replicate 64 0xFF)
  else
    let (x, s1) := s.freeList 0x2040
    s1.poke (s.recBase p) x

/-- The entries of a burn whose read-back is right, and the others. -/
def burnSplit (bad : List Nat) : Nat → List RepEnt → List RepEnt × List RepEnt
  | _, [] => ([], [])
  | i, e :: t =>
    let (a, b) := burnSplit bad (i + 1) t
    if bad.contains i then (a, e :: b) else (e :: a, b)

/-- Burns the soft repairs that fit, in instance order, and a soft remap (R453, R454, R71). What is burnt is no soft repair any more; an
entry whose read-back fails stays one, and the remap whose read-back fails stays soft. -/
def burn (e : GauzeEnv) (s : State) : State :=
  let f := s.dev.fuses
  let n := 768 - f.repairs.length
  let (good, bad) := burnSplit e.burnBad 0 (s.dev.repairs.take n)
  let wants := s.spare == spareInUse && f.remap.isNone
  let remap := if wants ∧ e.remapOk then some (⟨s.fld (B.trio 12) TRIO.SPARE_SERVES % 12, Nat.mod_lt _ (by decide)⟩ : Fin 12) else f.remap
  let g := { f with repairs := f.repairs ++ good, remap := remap, burnFailed := f.burnFailed || !bad.isEmpty || (wants && !e.remapOk) }
  (s.setDev { s.dev with fuses := g, repairs := bad ++ s.dev.repairs.drop n, burnt := !good.isEmpty }).setFld B.bist BIST.REPAIR_FREE
    (768 - g.repairs.length)

/-- What a test phase finds: units failed, and cells; each array that cannot be repaired raises source 466 and fails the unit that holds
it (R449, R452). -/
def gauzeFinds (units : List Nat) (cells : List ArrCell) (tested : List Nat) (s : State) : State :=
  let arrays := mbistFails s.dev.fuses.repairs cells
  let d := s.dev
  let fails := units ++ arrays.map arrayUnit
  (arrays.foldl (fun a _ => a.raise 466) s).setDev { d with tested := d.tested ++ tested, failed := d.failed ++ fails, cells := d.cells ++ cells }

/-- The lowest-numbered trio other than trio 0 that passed phase A (R448). -/
def passedTrio (d : Dev) : Option Nat :=
  (List.range 13).find? (fun t => t != 0 && (trioUnits t).all (fun u => !d.failed.contains u))

/-- A phase of R448 ends and the next begins. -/
def gauzeStep (e : GauzeEnv) (s : State) : State :=
  let d := s.dev
  if s.mode ≠ mGauze ∨ d.gauze = 0 ∨ 7 ≤ d.gauze then s
  else
    let units := e.unitFail.map (·.val)
    let zero := trioUnits 0
    let s1 := s.setDev { d with gauze := d.gauze + 1 }
    match d.gauze with
    | 1 => faultBalls (s1.modColl (fun c => { c with gauzeHold := true }))
    | 2 =>
      let s2 := gauzeFinds (units.filter (fun u => !zero.contains u)) (e.cells.filter (fun x => decide (0x40 ≤ x.inst.toNat)))
        ((List.range 107).filter (fun u => !zero.contains u)) s1
      match passedTrio s2.dev with
      | some n =>
        let s3 := if s2.trioIn n then handTo n cVoted s2 else s2
        s3.setDev { s3.dev with superv := n }
      | none => s2
    | 3 =>
      if (passedTrio d).isSome then
        gauzeFinds (units.filter zero.contains) (e.cells.filter (fun x => decide (x.inst.toNat < 0x40))) zero s1
      else s1
    | 4 =>
      let reps := (mbistRepairs d.fuses.repairs d.cells).take 980
      (s1.setDev { s1.dev with repairs := reps, recTime := s1.now, recAge := s1.ageBytes ++ leBytes 4 (s1.ageState 15).toNat }).setFld B.bist
        BIST.REPAIR_SOFT reps.length
    | 5 => if s1.flag B.sys SYS.GAUZE_CTL_BURN then burn e s1 else s1
    | _ =>
      let (r, s2) := s1.record
      let s3 := writeRecord 1 e.flash1Ok r (writeRecord 0 e.flash0Ok r s2)
      s3.setDev { s3.dev with recSeq := d.recSeq + 1 }

/-- Gauze completes: warm reset, or held with the waves back (R38, R448). -/
def gauzeDone (s : State) : State :=
  if s.mode ≠ mGauze ∨ s.dev.gauze ≠ 7 then s
  else if s.flag B.sys SYS.GAUZE_CTL_END then
    faultBalls ((s.modColl (fun c => { c with gauzeHold := false })).setFld B.sys SYS.MODE_HELD 1)
  else deviceReset .gauze s

end Sys2Proof.Machine
end

