-- ==== Sys2Proof/Machine/SelfTest.lean ====
section
/-! DEFINITION. Periodic logic BIST and the margin planner, pages 0x340 and 0x003 (R443-R446, R455-R460, R463-R465). -/
namespace Sys2Proof.Machine

/-! ### Periodic logic BIST (R443-R446) -/

/-- The test unit number of what a slice takes (R442). -/
def bistNum : BistUnit → Nat
  | .core t c => 3 * t.val + c.val
  | .lane l => 39 + l.val

/-- Whether a slice may take a unit now (R444). -/
def State.sliceOk (s : State) : BistUnit → Bool
  | .core t c =>
    let n := t.val
    let idle := !(List.range 3).any (fun k => s.inTest (3 * n + k))
    if n = 12 then idle && s.flag B.bist BIST.PER_CTL_SPARE && s.spareReady
    else
      idle && s.flag B.bist BIST.PER_CTL_CORES && s.trioIn n && s.conf n == cPair && s.fld (B.trio n) TRIO.ROLES_THIRD == c.val
        && !s.flag (B.trio n) TRIO.STAT_CHANGING
        && s.flag (B.trio n) (inSvcFld c.val) && !s.flag (B.trio n) TRIO.STAT_REMAPPED
  | .lane l =>
    s.flag B.bist BIST.PER_CTL_LANES && (List.range 4).all s.laneIn && l.val == s.dev.laneNext
      && !(List.range 4).any (fun k => s.flag (B.lane k) LANE.LSTAT_FAULTED || s.inTest (39 + k))

/-- BIST_SLICE_START. -/
def sliceStart (u : BistUnit) (s : State) : State :=
  if s.pgRunning 0x340 ∧ inRange mCalico mJersey s.mode ∧ s.sliceOk u then
    let s1 := activeRefresh (s.setFld B.bist (unitFld (bistNum u) BIST.UNIT_IN_TEST) 1)
    match u with
    | .core _ _ => s1
    | .lane l => lanesRefresh ((s1.setDev { s1.dev with laneNext := (l.val + 1) % 4 }).setFld (B.lane l.val) LANE.LSTAT_IN_TEST 1)
  else s

/-- Slices in a pass (R443). -/
def passLen : BistUnit → Nat
  | .core _ _ => 64
  | .lane _ => 32

/-- The index moves on; a whole pass is counted. -/
def sliceCount (u : BistUnit) (s : State) : State :=
  let n := bistNum u
  let i := (s.fld B.bist (unitFld n BIST.UNIT_NEXT) + 1) % passLen u
  let s1 := s.setFld B.bist (unitFld n BIST.UNIT_NEXT) i
  if i = 0 then (s1.setFld B.bist (unitFld n BIST.UNIT_PASSED) 1).incSat B.bist (unitFld n BIST.UNIT_PASSES) else s1

/-- A slice's signature differs (R446). -/
def sliceFails (u : BistUnit) (s : State) : State :=
  let n := bistNum u
  let i := s.fld B.bist (unitFld n BIST.UNIT_NEXT)
  let s1 := (s.incSat B.bist BIST.FAIL_CNT).wr (B.bist + BIST.LAST_FAIL.off) (BitVec.ofNat 32 (n + 256 * i + 2 ^ 31))
  let s2 := (s1.wr64 (B.bist + BIST.LAST_FAIL_T_LO.off) s.now).setFld B.bist (unitFld n BIST.UNIT_FAILED) 1
  let s3 := s2.irq 528
  match u with
  | .core t c => if t.val = 12 then (s3.raise 464).setFld B.bist BIST.SPARE_STAT_FAILED 1 else coreFails t.val c.val 5 (s3.raise 464)
  | .lane l => laneFails l.val 464 s3

/-- BIST_SLICE_END. -/
def bistEnd (u : BistUnit) (pass : Bool) (s : State) : State :=
  if ¬ s.inTest (bistNum u) then s
  else
    let s1 := (sliceAbort (bistNum u) s).incWrap B.bist BIST.SLICE_CNT
    let s2 := match u with
      | .core _ _ => s1
      | .lane l => lanesRefresh (s1.setFld (B.lane l.val) LANE.LSTAT_IN_TEST 0)
    if pass then sliceCount u s2 else sliceFails u s2

def bistCodes (o v : Nat) : List Code := if o = 0x040 then refuseIf (nbits v 8 8 == 0) .range else []

/-- A write of PER_CTL while a slice runs waits for it (R464). -/
def bistDo (o v : Nat) (s : State) : State :=
  if o = BIST.PER_CTL.off then
    if s.flag B.bist BIST.PER_STAT_ACTIVE then s.setDev { s.dev with perCtl := some (BitVec.ofNat 32 v) }
    else lanesShow (s.wr (B.bist + o) (BitVec.ofNat 32 v))
  else s.wr (B.bist + o) (BitVec.ofNat 32 v)

/-! ### Ageing monitors and temperature (R455, R456) -/

/-- The smallest slack with its monitor, the lowest of equals; and how many pairs differ by more than 8 ps. -/
def slackOf : Nat → List (BitVec 16) → List (BitVec 16) → Option (Int × Nat) × Nat
  | i, x :: xs, y :: ys =>
    let v := min x.toInt y.toInt
    let (r, d) := slackOf (i + 1) xs ys
    let d1 := d + b2n (decide (8 < (x.toInt - y.toInt).natAbs))
    match r with
    | some (w, j) => if w < v then (some (w, j), d1) else (some (v, i), d1)
    | none => (some (v, i), d1)
  | _, _, _ => (none, 0)

/-- MONITOR_MEASURE. -/
def monitors (a b : List (BitVec 16)) (s : State) : State :=
  let (r, d) := slackOf 0 (a.take 16) (b.take 16)
  let s1 := match r with
    | some (v, i) => s.wr (B.margin + MARGIN.SLACK.off) (BitVec.ofNat 32 (wrapInt 16 v + 65536 * i))
    | none => s
  (List.range d).foldl (fun c _ => (c.raise 470).irq 533) s1

/-- The bin of a junction temperature. -/
def tempBin (c : Int) : Nat := if c < 50 then 0 else if 120 ≤ c then 8 else ((c - 50) / 10).toNat + 1

/-- TEMP_SAMPLE, with the condition of source 10. -/
def tempSample (c : Int) (s : State) : State :=
  let s1 := s.incWrap B.margin (MARGIN.BIN.nth 4 (tempBin c))
  if 115 < c then collCycle (s1.raiseCond 10 0) else s1.endCond 10

/-! ### The planner (R457-R459) -/

def State.slack (s : State) : Int := sextNat 16 (s.fld B.margin MARGIN.SLACK_S)
def State.volt (s : State) : Nat := s.fld B.margin MARGIN.VSET
def State.divNow (s : State) : Nat := s.fld B.clk CLK.CLK_STAT_DIV_NOW
def State.vMin (s : State) : Nat := s.fld B.margin MARGIN.VLIM_VMIN
def State.vMax (s : State) : Nat := s.fld B.margin MARGIN.VLIM_VMAX

/-- S_ref of R459. -/
def State.slackRef (s : State) : Int := s.slack - 8 * ((s.volt : Int) - 800) / 5 - 200 * ((s.divNow : Int) - 8)

def setQuiet (n : Nat) (s : State) : State := s.setDev { s.dev with quiet := n }

/-- One evaluation of R457. -/
def planStep (s : State) : State :=
  let volts := s.flag B.margin MARGIN.CTL_VOLT_EN && !s.dev.avsStop
  let v := s.volt
  if s.slack < s.fld B.margin MARGIN.THRESH_RAISE_PS then
    let s1 := setQuiet 0 s
    if volts ∧ v < s.vMax then ((setVolt (v + 5) s1).raise 467).irq 530
    else if s.flag B.margin MARGIN.CTL_DIV_EN ∧ s.divNow < 10 then ((setDiv (s.divNow + 1) s1).raise 468).irq 531
    else s1
  else if s.fld B.margin MARGIN.THRESH_LOWER_PS < s.slack ∧ volts ∧ s.vMin < v then
    if s.dev.quiet + 1 = 1000 then setVolt (v - 5) (setQuiet 0 s) else setQuiet (s.dev.quiet + 1) s
  else setQuiet 0 s

/-- STAT.AT_CEILING, as it reads at any time (R465). -/
def State.atCeiling (s : State) : Bool := s.divNow == 10 && decide (s.vMax ≤ s.volt)

/-- MARGIN_EVALUATE: S0 is taken at the device's first evaluation; the planner acts outside Velvet with AUTO = 1 (R457-R459). -/
def planEval (s : State) : State :=
  if s.mode = mVelvet then s
  else
    let s1 := if s.dev.s0.isNone then s.setDev { s.dev with s0 := some s.slackRef } else s
    if s1.flag B.margin MARGIN.CTL_AUTO then planStep s1 else s1

/-- 57,600 × E: the equivalent hours (R456). -/
def State.eq16 (s : State) : Nat := (List.range 9).foldl (fun a b => a + (s.rd (B.margin + MARGIN.BIN.off + 4 * b)).toNat * 2 ^ b) 0

/-- Powered seconds. -/
def State.powSec (s : State) : Nat := (List.range 9).foldl (fun a b => a + (s.rd (B.margin + MARGIN.BIN.off + 4 * b)).toNat) 0

/-- Stores Y and raises the event of a crossing of YEARS_LIM (R459). -/
def setYears (y : Nat) (s : State) : State :=
  let s1 := s.wr (B.margin + MARGIN.YEARS.off) (BitVec.ofNat 32 y)
  let low := decide (y < s.fld B.margin MARGIN.YEARS_LIM)
  let s2 := s1.setDev { s1.dev with low := low }
  if low ∧ ¬ s.dev.low then (s2.raise 469).irq 532 else s2

/-- The minimum of two fractions with positive denominators. -/
def minRat (a b : Int × Nat) : Int × Nat := if a.1 * b.2 ≤ b.1 * a.2 then a else b

/-- The loss rate a of R459 in ps per equivalent year, as a fraction: 4 until E reaches 1,000 h. -/
def State.lossRate (s : State) : Int × Nat :=
  let e := s.eq16
  if e < 1000 * 57600 then (4, 1) else ((s.dev.s0.getD s.slackRef - s.slackRef) * 8760 * 57600, e)

/-- MARGIN_YEARS (R459): hours, loss rate and Y. Where the formulas have no value (no time yet, no loss, a result below 0) Y or its slack
part is a free value (log entry 33). -/
def planYears (s : State) : State :=
  if s.mode = mVelvet then s
  else
    let e := s.eq16
    let h := s.powSec
    let s1 := (s.wr (B.margin + MARGIN.EQ_HOURS.off) (BitVec.ofNat 32 (e / 57600))).wr (B.margin + MARGIN.POW_HOURS.off) (BitVec.ofNat 32 (h / 3600))
    let (f, s2) := s1.free
    let any : Int × Nat := ((f.toNat % 65536 : Nat), 256)
    let loss := s.lossRate
    let aloss := rndRat false (loss.1 * 256) loss.2
    let s3 := s2.wr (B.margin + MARGIN.ALOSS.off)
      (if 0 ≤ aloss ∧ aloss < 65536 then BitVec.ofInt 32 aloss else BitVec.ofNat 32 (f.toNat / 65536 % 65536))
    if s.divNow = 10 ∧ s.volt = s.vMax ∧ s.slack < s.fld B.margin MARGIN.THRESH_RAISE_PS then setYears 0 s3
    else if e = 0 then setYears (f.toNat % 65536) s3
    else
      -- ρ = e / (16 h); E = e / 57600
      let stress : Int × Nat := ((262800 * 57600 - (e : Int)) * 16 * h, 57600 * 8760 * e)
      -- five times the headroom, since VMAX need be no multiple of 5
      let head5 : Int := 5 * s.slack + 8 * ((s.vMax : Int) - s.volt) + 1000 * (10 - (s.divNow : Int))
      let slackY : Int × Nat := if loss.1 ≤ 0 then any else (head5 * loss.2 * 16 * h, (5 * loss.1 * e).toNat)
      let y := minRat stress slackY
      let q := rndRat false (y.1 * 256) y.2
      setYears (if q < 0 then f.toNat % 65536 else if 65535 < q then 65535 else q.toNat) s3

/-! ### Registers of page 0x003 (R458, R460, R465) -/

def voltBad (v : Nat) : Bool := !inRange 720 900 v

def marginCodes (o v : Nat) (s : State) : List Code :=
  match o with
  | 0x048 => refuseIf (voltBad v || v % 5 != 0) .range ++ refuseIf (s.flag B.margin MARGIN.CTL_AUTO) .busy
  | 0x04C => refuseIf (voltBad (nbits v 0 10) || voltBad (nbits v 16 10) || decide (nbits v 16 10 < nbits v 0 10)) .range
  | 0x050 => refuseIf (decide (nbits v 8 8 ≤ nbits v 0 8)) .range
  | 0x144 =>
    if v % 2 = 0 then []
    else
      let l := s.dev.ageLoad
      refuseIf (s.flag B.margin MARGIN.STAT_LOADED || decide (l.length < 16)) .state
        ++ refuseIf (decide (16 ≤ l.length) && crc32c ((l.take 15).flatMap (fun w => leBytes 4 w.toNat)) != (l.getD 15 0).toNat) .integrity
  | _ => []

/-- GO: the saved bins add, ALOSS and S0 are taken (R460). -/
def ageGo (s : State) : State :=
  let l := s.dev.ageLoad
  let s1 := (List.range 9).foldl (fun a b =>
    let k := B.margin + MARGIN.BIN.off + 4 * b
    a.wr k (a.rd k + l.getD b 0)) s
  let s2 := s1.wr (B.margin + MARGIN.ALOSS.off) (l.getD 9 0 &&& 0xFFFF)
  (s2.setDev { s2.dev with ageLoad := [], s0 := some (l.getD 10 0).toInt }).setFld B.margin MARGIN.STAT_LOADED 1

/-- The effect of an admitted write. Of more than 16 words the last 16 count (DESIGN CHOICE, log entry 34). After the AVSBus fault a write
of VSET_REQ is stored and changes no voltage (DESIGN CHOICE, log entry 96). -/
def marginDo (o v : Nat) (s : State) : State :=
  match o with
  | 0x048 => setVolt v (s.wr (B.margin + o) (BitVec.ofNat 32 v))
  | 0x140 =>
    let l := s.dev.ageLoad ++ [BitVec.ofNat 32 v]
    s.setDev { s.dev with ageLoad := l.drop (l.length - 16) }
  | 0x144 => if v % 2 = 0 then s else ageGo s
  | _ => s.wr (B.margin + o) (BitVec.ofNat 32 v)

end Sys2Proof.Machine
end

