-- ==== Sys2Proof/Machine/PgState.lean ====
section
/-! DEFINITION. Enable and quiesce of the pages: PG_CTL, its refusals, and what each block does (R79, R477-R480, R482). -/
namespace Sys2Proof.Machine

def isTrioPage (p : Nat) : Bool := inRange 0x100 0x10C p
def isShaftPage (p : Nat) : Bool := inRange 0x200 0x207 p
def isLanePage (p : Nat) : Bool := inRange 0x211 0x214 p
def isTimerPage (p : Nat) : Bool := inRange 0x240 0x247 p
def isRingPage (p : Nat) : Bool := inRange 0x300 0x30F p
def isEthPage (p : Nat) : Bool := p == 0x320 || p == 0x321

/-- The page's unit is out of service until the next reset; of a trio identity, it or one of the cores that serve it, and trio 12 also when
a slice failed on it while spare (R446, R473, R479). -/
def State.pgFaulted (s : State) (p : Nat) : Bool :=
  s.flag (page p) PG.STAT_FAULTED || (isTrioPage p && ((s.trio (p - 0x100)).lost || (s.trio (p - 0x100)).failed != 0))
    || (p == 0x10C && s.flag B.bist BIST.SPARE_STAT_FAILED)

/-- The conditions of a block that refuse the clearing of its EN. -/
def leaveCodes (p : Nat) (s : State) : List Code :=
  if isTrioPage p then refuseIf (p == 0x100 || s.mode != mCalico) .state
  else if isShaftPage p then refuseIf (s.masterBusy (p - 0x200)) .busy
  else if p = 0x210 then refuseIf (s.qnums.any (fun q => s.qst q != qIdle && s.qst q != qFault)) .busy
  else if isLanePage p then
    refuseIf (s.engineWork && (List.range 4).all (fun l => l == p - 0x211 || !s.laneIn l)) .busy
  else if isRingPage p then refuseIf (s.ringUsed (p - 0x300)) .busy
  else if p = 0x323 then refuseIf (s.flag B.ycp YCP.SAFE_CTL_EN) .busy
  else []

/-- Refusals of a PG_CTL write (R478, R479, R482). -/
def ctlCodes (k : Kind) (p v : Nat) (s : State) : List Code :=
  let en := nbit v 0
  let qu := nbit v 1
  refuseIf (!en && qu) .range
    ++ refuseIf (k.enFixed && !en) .state
    ++ refuseIf (p == 0x10C) .state
    ++ refuseIf (qu && !k.qcommon) .absent
    ++ refuseIf (en && !s.pgEn p && s.pgFaulted p) .state
    ++ refuseIf (en && !s.pgEn p && s.pgEnabled p) .busy
    ++ (if !en && s.pgEn p && !k.enFixed then leaveCodes p s else [])

/-- What a block does when its EN is set. -/
def pgEnter (p : Nat) (s : State) : State :=
  if isTrioPage p then trioOn (p - 0x100) s
  else if isLanePage p then lanesRefresh s
  else if isRingPage p then lineRefresh (p - 0x300) (ringOn (p - 0x300) s)
  else if isEthPage p then ethOn (p - 0x320) s
  else if p = 0x322 then netOn s
  else if p = 0x340 then lanesShow s
  else s

/-- What a block does when its EN is cleared, before its accepted work ends. -/
def pgLeave (p : Nat) (s : State) : State :=
  if isTrioPage p then trioStops (p - 0x100) s
  else if isShaftPage p then learnStop (p - 0x200) s
  else if isLanePage p then lanesRefresh s
  else if isTimerPage p then setStat p 0 1 (tmPageOff p s)
  else if isRingPage p then ringOffStart (p - 0x300) s
  else if isEthPage p then ethOffStart (p - 0x320) s
  else if p = 0x322 then netOff s
  else if p = 0x323 then ycpOff s
  else if p = 0x340 then lanesShow s
  else s

/-- What a block does when its last accepted work has ended after a disable (R240, R276). -/
def pgEnd (p : Nat) (s : State) : State :=
  if isShaftPage p then shaftDisable (p - 0x200) s else if p = 0x220 then seqOff s else s

/-- An admitted PG_CTL write (R477-R479). -/
def ctlDo (p v : Nat) (s : State) : State :=
  let en := nbit v 0
  let qu := nbit v 1
  let was := s.pgEn p
  let held := s.pgEn p && s.flag (page p) PG.CTL_QUIESCE && s.flag (page p) PG.STAT_QUIESCED
  let s1 := s.wr (page p + PG.CTL.off) (BitVec.ofNat 32 v)
  if en then
    if was then (if qu then s1 else setStat p 1 0 s1)
    else pgEnter p (setStat p 1 (b2n qu) s1)
  else if was then (if held then setStat p 0 1 (pgEnd p (pgLeave p s1)) else pgLeave p (setStat p 1 0 s1))
  else s1

/-- The last accepted work of a page completes (R477, R478); a trio's, a ring port's and an Ethernet port's end by their own rules. -/
def pgDrained (p : Nat) (s : State) : State :=
  if ¬ s.pgEnabled p ∨ isTrioPage p ∨ isRingPage p ∨ isEthPage p then s
  else if ¬ s.pgEn p then
    if p = 0x220 ∧ (s.inSlice ∨ s.seq.loading.isSome) then s
    else if p = 0x340 ∧ s.flag B.bist BIST.PER_STAT_ACTIVE then s
    else setStat p 0 1 (pgEnd p s)
  else if s.flag (page p) PG.CTL_QUIESCE then
    if (p = 0x220 ∧ (s.inSlice ∨ s.seq.loading.isSome)) ∨ (p = 0x340 ∧ s.flag B.bist BIST.PER_STAT_ACTIVE) then s
    else s.setFld (page p) PG.STAT_QUIESCED 1
  else s

end Sys2Proof.Machine
end

