-- ==== Sys2Proof/Machine/RegRead.lean ====
section
/-! DEFINITION. Register reads: views, read effects and snapshots (R4, R468-R474), and the raw transmit ring, whose slots are read through
an I/O stream (R381). -/
namespace Sys2Proof.Machine

def regsBase : Nat := 0x40000000

def State.rdRing (s : State) (p : Nat) : Nat := s.fld (page (headPage p)) PG.PROT_RD_RING
def State.wrRing (s : State) (p : Nat) : Nat := s.fld (page (headPage p)) PG.PROT_WR_RING

def qdNum (p o : Nat) : Nat := 64 * (p - 0x400) + o / 64
def tmNum (p o : Nat) : Nat := 8 * (p - 0x240) + (o - 0x100) / 128

/-! ### Reads (R4, R470, R474) -/

/-- PG_STAT: IN_TEST and FAULTED follow the unit that the page serves (R473). -/
def pgStatView (k : Kind) (p : Nat) (s : State) : W32 :=
  let inTest : Bool := match k with
    | .trio => (List.range 3).any (fun c => s.inTest (3 * (p - 0x100) + c))
    | .lane => s.flag (page p) LANE.LSTAT_IN_TEST
    | _ => false
  s.rd (page p + PG.STAT.off) ||| BitVec.ofNat 32 (4 * b2n inTest + 8 * b2n (s.pgFaulted p))

/-- What a register reads as, without the effect of the read. SAFE_CRC is first computed when the boot starts the collector, and TRIO.SELF
is 0 for a YCP access, which no core makes (DESIGN CHOICE, log entry 98). Page 0x10C shows trio 12's AAU, which page n shows too while trio 12
serves identity n (R304). -/
def regView (wr : Writer) (k : Kind) (p o : Nat) (s : State) : W32 :=
  let w := s.rd (page p + o)
  if o < 0x40 ∧ k ≠ .qd then (if o = PG.STAT.off then pgStatView k p s else w)
  else match k with
  | .sys =>
    if o = 0x0A0 then s.dev.fuses.serial.setWidth 32
    else if o = 0x0A4 then s.dev.fuses.serial.extractLsb' 32 32
    else if o = 0x0A8 then s.dev.fuses.minSecVer else w
  | .coll => if o = 0x04C ∧ s.bothColl (·.started) then s.safeCrc else w
  | .fsw => if o < 0x080 then s.rd (page p + o + 0x040) else w
  | .trio => if o = 0x070 then (if s.conf wr.tid.trio.val = 2 ∧ ¬ wr.ycp then BitVec.ofNat 32 wr.tid.core.val else 0)
    else if p = 0x10C ∧ inRange 0x080 0x08C o ∧ spareInUse ≤ s.spare then s.rd (B.trio (s.fld (B.trio 12) TRIO.SPARE_SERVES) + o) else w
  | .intd => if inRange 0x080 0x0FF o then pendView s ((o - 0x080) / 4) else w
  | .route => routeView s ((p - 0x111) * 512 + (o - 0x40) / 4)
  | .intt =>
    if o = 0x048 then (if wr.ycp then 0 else topView s wr.tid)
    else if o = 0x04C then (if wr.ycp then 0x10 else runPrioView s wr.tid) else w
  | .margin =>
    if inRange 0x100 0x13F o then s.ageState ((o - 0x100) / 4)
    else if o = 0x06C then (w &&& 1) ||| BitVec.ofNat 32 (2 * b2n s.atCeiling) else w
  | .shaft => if p % 2 = 1 ∧ 0x0C4 ≤ o then 0 else w
  | .timer => if 0x100 ≤ o ∧ (o - 0x100) % 128 = 0x00C then tmStatView s (tmNum p o) else w
  | .ycp =>
    if o = 0x048 then sessView s else if o = 0x058 then (s.keySlot (s.fld B.ycp YCP.KEY_SEL)).ctl
    else if o = 0x0B0 then debugView s else w
  | .eth => saView (p - 0x320) o w s
  | .dram | .clk | .rst | .recd | .sev | .walk | .part | .thrp | .xlate | .iot | .angle | .eng | .lane | .seq | .ring | .net | .xspi
  | .bist | .qd => w

/-- The capture registers that one snapshot takes together (R351). Those of a linked pair hold both halves; CAP_STAT of the even channel, which
keeps the pair's bits, ends the group (R353, R354; DEDUCED, log entry 116). -/
def capGroup (n o : Nat) (s : State) : List Nat :=
  let b := 0x100 + 128 * (n % 8)
  if s.tmLinked n then [b + 0x038, b + 0x0B8, b + 0x03C, b + 0x0BC, b + 0x040]
  else if s.tmHigh n then (if o = b + 0x040 then [o] else [b - 0x048, b + 0x038, b - 0x044, b + 0x03C, b - 0x040])
  else [b + 0x038, b + 0x03C, b + 0x040]

/-- The offsets of the RS group that a register belongs to, in order (R470). -/
def rsGroup (k : Kind) (p o : Nat) (s : State) : List Nat :=
  match k with
  | .fsw => (List.range 16).map (fun i => 0x040 + 4 * i)
  | .recd => (List.range 8).map (fun i => 0x040 + 4 * i)
  | .trio => [0x060, 0x064, 0x068]
  | .shaft => (List.range 10).map (fun i => 0x088 + 4 * i)
  | .eng => if o < 0x0A0 then [0x070, 0x074] else [0x0A0, 0x0A4, 0x0A8, 0x0AC]
  | .timer => capGroup (tmNum p o) o s
  | .iot => let b := (o - 0x450) / 16 * 16 + 0x450; [b, b + 4, b + 8]
  | .dram => [0x050, 0x054]
  | .bist => [0x050, 0x054, 0x058]
  | .sys | .clk | .rst | .margin | .coll | .sev | .intd | .route | .intt | .walk | .part | .thrp | .xlate | .angle | .lane | .seq
  | .ring | .eth | .net | .ycp | .xspi | .qd => [o]

/-- A read of an RS register (R470): the first takes the snapshot, that of the last register re-arms the group. -/
def snapRead (wr : Writer) (k : Kind) (p o : Nat) (s : State) : W32 × State :=
  let g := rsGroup k p o s
  let s1 :=
    match s.snaps.find (page p + o) with
    | some _ => s
    | none =>
      let s2 := if k = .eng ∧ 0x0A0 ≤ o then markRead s else s
      let s3 := { s2 with snaps := g.foldl (fun t x => t.ins (page p + x) (regView wr k p x s2)) s2.snaps }
      if k = .timer then tmCapTaken (tmNum p (g.getLastD o)) s3 else s3
  let v := (s1.snaps.find (page p + o)).getD 0
  (v, if g.getLast? = some o then { s1 with snaps := g.foldl (fun t x => t.del (page p + x)) s1.snaps } else s1)

/-- A 4-byte read that the page admits. -/
def regGet (wr : Writer) (p o : Nat) (s : State) : W32 × State :=
  match pageKind p, regRow p o with
  | some (k, _, _), some r =>
    match r.acc with
    | .wo => (0, s)
    | .woh => (0, s)
    | .rs => snapRead wr k p o s
    | .rc => (regView wr k p o s, s.wr (page p + o) 0)
    | .ro | .rw | .rwh | .w1c =>
      if k = .shaft ∧ o = 0x078 then ctDataRead (p - 0x200) s
      else if k = .timer ∧ 0x100 ≤ o ∧ (o - 0x100) % 128 = 0x010 then tmCountRead (tmNum p o) s
      else (regView wr k p o s, s)
  | _, _ => (0, s)

/-- Whether a page admits a read of an offset from a ring; PG_ID, PG_CAP and PG_STAT may always be read (R474). -/
def readAdmits (wr : Writer) (p o : Nat) (s : State) : Bool :=
  (decide (p < 0x400) && (o == 0x000 || o == 0x004 || o == 0x00C)) || decide (wr.ring.val ≤ s.rdRing p)

/-- A read of a register page at a physical address: the value, 0 where it is refused, and the state (R468, R474). -/
def pageRead (wr : Writer) (a : Nat) (wd : AccWidth) (s0 : State) : W64 × State :=
  let p := a / 4096 % 0x40000
  let o := a % 4096
  let one (x : Nat) (s : State) : W32 × State := if readAdmits wr p x s then regGet wr p x s else (0, s)
  if (pageKind p).isNone ∨ a / regsBase ≠ 1 then (0, s0)
  else
    let s := wakeWaiting s0
    match wd with
    | .b1 => (0, rerr wr p o true s)
    | .b2 => (0, rerr wr p o true s)
    | .b4 =>
      if o % 4 ≠ 0 then (0, rerr wr p o true s)
      else if readAdmits wr p o s then let (v, s1) := regGet wr p o s; (v.setWidth 64, s1)
      else (0, rerr wr p o false s)
    | .b8 =>
      if o % 8 ≠ 0 then (0, rerr wr p o true s)
      else
        let (lo, s1) := one o s
        let (hi, s2) := one (o + 4) s1
        let s3 := if readAdmits wr p o s ∧ readAdmits wr p (o + 4) s then s2
          else rerr wr p (if readAdmits wr p o s then o + 4 else o) false s2
        (hi ++ lo, s3)

/-! ### The raw transmit ring (R381) -/

/-- The width of a page access of `n` bytes. -/
def widthOf (n : Nat) : AccWidth := if n = 1 then .b1 else if n = 2 then .b2 else if n = 4 then .b4 else .b8

/-- Sends one raw frame: EAPOL on its port without PRP, any other as PRP says (DEDUCED, log entry 38). -/
def rawSend (p : Nat) (f : List Byte) (s : State) : State := if isEapol f then plainSend p f true s else netSend p f true s

/-- Slots of the ring. -/
def State.rawCap (s : State) : Nat := 2 ^ s.fld B.net NET.RAWTX_CFG_SLOTS

/-- The I/O address of the next slot. -/
def State.rawSlot (s : State) : Nat :=
  ringBase s NET.RAWTX_BASE_LO NET.RAWTX_BASE_HI + 2048 * (s.fld B.net NET.RAWTX_TAIL % s.rawCap)

/-- The device is done with a slot. -/
def rawNext (s : State) : State := s.setFld B.net NET.RAWTX_TAIL ((s.fld B.net NET.RAWTX_TAIL + 1) % s.rawCap)

/-- How the read of a slot goes on: held at a trio in PAIR, failed, or its bytes. -/
inductive RawEnd where
  | held (s : State)
  | failed (s : State)
  | done (d : List Byte) (s : State)

/-- Reads pieces of a slot in order; a trio in PAIR holds the read until its next commit (R60). A piece of 4 or 8 aligned bytes of a register
page is a page access of ring 3 (R468, R474). `own`: the trio whose held accesses are performed. -/
def rawRead (own : Option Nat) : List (Nat × Nat) → List Byte → State → RawEnd
  | [], got, s => .done got s
  | (a, n) :: t, got, s =>
    match s.holder own a with
    | some m => .held (s.setTrio m { s.trio m with held := (s.trio m).held ++ [.rawTx ((a, n) :: t) got] })
    | none =>
      if s.region a = .regs ∧ pageAccess a n then
        let (v, s1) := pageRead ioWriter a (widthOf n) s
        rawRead own t (got ++ leBytes n v.toNat) s1
      else match s.ioPiece 19 (a, n) with
        | (none, s1) => .failed s1
        | (some d, s1) => rawRead own t (got ++ d) s1

/-- Reads the 16 bytes that begin a slot, then its frame, and sends it; a slot whose read is refused is passed over (DESIGN CHOICE, log
entry 38). Answers whether a trio holds the read. -/
def rawGo (own : Option Nat) : Nat → List (Nat × Nat) → List Byte → State → Bool × State
  | 0, _, _, s => (false, s)
  | k + 1, left, got, s =>
    match rawRead own left got s with
    | .held s1 => (true, s1)
    | .failed s1 => (false, rawNext s1)
    | .done d s1 =>
      let n := min (leNat (d.take 4)) 2032
      if 16 + n ≤ d.length then (false, rawSend (leNat ((d.drop 4).take 1) % 2) (d.drop 16) (rawNext s1))
      else match s1.ioPieces 19 false (splitLines (lineCount n) (s1.rawSlot + 16) n) with
        | .error (a, lv, r, s2) => (false, rawNext (s2.ioRefuse 19 a false lv r))
        | .ok (ps, s2) => rawGo own k ps d s2

def HeldAcc.isRaw : HeldAcc → Bool
  | .rawTx _ _ => true
  | .write _ _ => false
  | .read _ => false
  | .ycp _ _ _ _ _ => false

/-- A trio holds the read of the next slot. -/
def State.rawWaits (s : State) : Bool := (List.range 13).any (fun m => (s.trio m).held.any HeldAcc.isRaw)

/-- Every slot handed over that waits, in order. -/
def rawTx : Nat → State → State
  | 0, s => s
  | k + 1, s =>
    if ¬ s.pgRunning 0x322 ∨ s.rawWaits ∨ s.fld B.net NET.RAWTX_TAIL % s.rawCap = s.fld B.net NET.RAWTX_HEAD % s.rawCap then s
    else match s.ioPieces 19 false (splitLines 2 s.rawSlot 16) with
      | .error (a, lv, r, s1) => rawTx k (rawNext (s1.ioRefuse 19 a false lv r))
      | .ok (ps, s1) =>
        let (held, s2) := rawGo none 2 ps [] s1
        if held then s2 else rawTx k s2

def rawTxAll (s : State) : State := rawTx 4096 s

/-- The held read of a slot goes on at the commit of trio `m`, and the slots after it. -/
def rawResume (m : Nat) (left : List (Nat × Nat)) (got : List Byte) (s : State) : State :=
  if ¬ s.pgEnabled 0x322 then s
  else
    let (held, s1) := rawGo (some m) 2 left got s
    if held then s1 else rawTxAll s1

end Sys2Proof.Machine
end

