-- ==== Sys2Proof/Machine/RegWrite.lean ====
section
/-! DEFINITION. Register writes: checks, held low halves and refusals (R4-R7, R466-R476). -/
namespace Sys2Proof.Machine

/-! ### Blocks -/

/-- The refusals that the header and the block's map state for a value of a register. For the high half of a pair of a timer page
`v` is the value of both halves. -/
def blockCodes (wr : Writer) (k : Kind) (p o v : Nat) (s : State) : List Code :=
  if o < 0x40 ∧ k ≠ .qd then
    if o = 0x008 then ctlCodes k p v s
    else if o = 0x018 then refuseIf (decide (nbits v 0 2 < nbits v 8 2)) .range ++ refuseIf (wr.ring != 0) .priv
    else []
  else match k with
  | .sys => sysCodes o v s
  | .clk => clkCodes o v s
  | .rst => rstCodes o v
  | .margin => marginCodes o v s
  | .coll => collCodes o v s
  | .fsw => []
  | .recd => if o = 0x060 then recCodes v s else []
  | .sev => sevCodes o v s
  | .trio => trioCodes (p - 0x100) o v s
  | .intd => intdCodes o v s
  | .route => routeCodes ((p - 0x111) * 512 + (o - 0x40) / 4) v s
  | .intt => if o = 0x040 then ackCodes wr v s else if o = 0x044 then eoiCodes wr v s else []
  | .walk => walkCodes o v s
  | .part => partCodes wr o v s
  | .thrp => thrpCodes wr
  | .xlate => []
  | .iot => iotCodes o v
  | .shaft => shaftCodes (p - 0x200) o v s
  | .angle => angleCodes o v s
  | .eng => engCodes o v s
  | .lane => []
  | .seq => seqCodes o v s
  | .timer =>
    if o < 0x100 then (if o = 0x044 then gtmrCodes true v s else if o = 0x04C then gtmrCodes false v s else [])
    else tmCodes (if s.tmHigh (tmNum p o) ∧ tmPaired ((o - 0x100) % 128) then tmNum p o - 1 else tmNum p o) ((o - 0x100) % 128) v s
  | .ring => ringCodes (p - 0x300) o v s
  | .eth => ethCodes (p - 0x320) o v s
  | .net => netCodes o v s
  | .ycp => ycpCodes wr o v s
  | .dram => dramCodes o v
  | .xspi => xspiCodes o v s
  | .bist => bistCodes o v
  | .qd => qdCodes (qdNum p o) (o % 64) v s

/-- What PG_CTL lets go on: the raw ring sends when its page runs. -/
def ctlEnds (p : Nat) (s : State) : State := if p = 0x322 then rawTxAll s else s

/-- The effect of an admitted write. -/
def blockDo (k : Kind) (p o v : Nat) (s : State) : State :=
  let plain := s.wr (page p + o) (BitVec.ofNat 32 v)
  if o < 0x40 ∧ k ≠ .qd then (if o = 0x008 then ctlEnds p (ctlDo p v s) else plain)
  else match k with
  | .sys => sysDo o v s
  | .clk => clkDo o v s
  | .rst => rstDo o v s
  | .margin => marginDo o v s
  | .coll => collDo o v s
  | .fsw => fswDo o v s
  | .recd => recDo v s
  | .sev => sevDo o v s
  | .trio => trioDo (p - 0x100) o v s
  | .intd => intdDo o v s
  | .route => routeDo ((p - 0x111) * 512 + (o - 0x40) / 4) v s
  | .intt => if o = 0x040 then ackDo v s else eoiDo v s
  | .walk => plain
  | .part => plain
  | .thrp => plain
  | .xlate => plain
  | .iot => iotDo o v s
  | .shaft => shaftDo (p - 0x200) o v s
  | .angle => angleDo o v s
  | .eng => engDo o v s
  | .lane => plain
  | .seq => seqDo o v s
  | .timer =>
    if o < 0x100 then (if o = 0x044 then gtmrDo true v s else gtmrDo false v s)
    else tmDo (if s.tmHigh (tmNum p o) ∧ tmPaired ((o - 0x100) % 128) then tmNum p o - 1 else tmNum p o) ((o - 0x100) % 128) v s
  | .ring => ringDo (p - 0x300) o v s
  | .eth => ethDo (p - 0x320) o v s
  | .net => if o = 0x0C4 then rawTxAll plain else netDo o v s
  | .ycp => ycpDo o v s
  | .dram => plain
  | .xspi => xspiDo o v s
  | .bist => bistDo o v s
  | .qd => qdDo (qdNum p o) (o % 64) v s

/-- What a refused write still leaves: the CRC that a refused APPLY computed (R231). -/
def blockRefused (k : Kind) (p o v : Nat) (c : Code) (s : State) : State :=
  if k = .shaft then shaftRefused (p - 0x200) o v c s else s

/-! ### Held halves (R353, R471) -/

/-- Whether a write of a register is held: a LO register of the maps, or a count register of the even channel of a linked pair. -/
def State.isHeld (s : State) (k : Kind) (p o : Nat) (r : Row) : Bool :=
  r.acc == .rwh || r.acc == .woh
    || (k == .timer && decide (0x100 ≤ o) && s.tmLinked (tmNum p o) && tmPaired ((o - 0x100) % 128))

/-- The key of the LO register that a register completes. -/
def State.loOf (s : State) (k : Kind) (p o : Nat) : Option (Nat × Bool) :=
  if k = .timer ∧ 0x100 ≤ o then
    if s.tmHigh (tmNum p o) ∧ tmPaired ((o - 0x100) % 128) then some (page p + o - 128, true) else none
  else if o < 4 then none
  else match regRow p (o - 4) with
    | some r => if r.acc = .rwh then some (page p + o - 4, false) else if r.acc = .woh then some (page p + o - 4, true) else none
    | none => none

/-- The low half in effect: the held one, else what the register holds. -/
def State.loVal (s : State) (key : Nat) : W32 := (s.heldLo.find key).getD (s.rd key)

/-! ### One register -/

/-- The refusals that a page's chapter states for every write of some offsets, registers that a write does not change among them:
those of an odd shaft (R243), of the sequencer RUNNING or PAUSED (R282) and of the spare's page in use (R79). -/
def pageCodes (k : Kind) (p o : Nat) (s : State) : List Code :=
  refuseIf (k == .shaft && p % 2 == 1 && inRange 0x0C4 0x0DB o) .absent
    ++ refuseIf (k == .seq && decide (0x40 ≤ o) && o != SEQ.CMD.off && (s.seqSt == seqRunning || s.seqSt == seqPaused)) .state
    ++ refuseIf (k == .trio && p == 0x10C && s.spare == spareInUse) .state

/-- The same by the page's number. -/
def State.pageRefuses (s : State) (p o : Nat) : List Code :=
  match pageKind p with
  | some (k, _, _) => pageCodes k p o s
  | none => []

/-- The refusals of a held LO write (R471): that the register is absent, and those that R243 states for SAFE_OFS_LO itself. -/
def heldCodes (wr : Writer) (k : Kind) (p o v : Nat) (s : State) : List Code :=
  (blockCodes wr k p o v s).filter (fun c => c == .absent || k == .shaft)

/-- Every code that refuses a 4-byte write of `v` at offset `o` of an allocated page. -/
def regCodes (wr : Writer) (p o : Nat) (v : W32) (s : State) : List Code :=
  let priv := refuseIf (decide (s.wrRing p < wr.ring.val)) .priv
  match pageKind p, regRow p o with
  | some (k, _, _), some r =>
    if s.isHeld k p o r then priv ++ heldCodes wr k p o v.toNat s
    else
      let rsvd := refuseIf (v &&& ~~~(BitVec.ofNat 32 r.mask) != 0) .rsvdBit ++ pageCodes k p o s
      match r.acc with
      | .ro => rsvd ++ priv
      | .rs => rsvd ++ priv
      | .rc => rsvd ++ priv
      | .rw | .rwh | .wo | .woh | .w1c =>
        match s.loOf k p o with
        | none => rsvd ++ priv ++ blockCodes wr k p o v.toNat s
        | some (lo, wide) =>
          let x := s.loVal lo
          let lomask := match regRow p (if k = .timer ∧ 0x100 ≤ o then o - 128 else o - 4) with | some q => q.mask | none => 0
          rsvd ++ refuseIf (x &&& ~~~(BitVec.ofNat 32 lomask) != 0) .rsvdBit ++ priv
            ++ (if wide then blockCodes wr k p o (x.toNat + v.toNat * 2 ^ 32) s else blockCodes wr k p o v.toNat (s.wr lo x))
  | _, _ => .absent :: (s.pageRefuses p o ++ priv)

/-- A 4-byte write that no code refuses. -/
def regApply (p o : Nat) (v : W32) (s : State) : State :=
  match pageKind p, regRow p o with
  | some (k, _, _), some r =>
    if s.isHeld k p o r then { s with heldLo := s.heldLo.ins (page p + o) v }
    else
      match r.acc with
      | .ro => s
      | .rs => s
      | .rc => s
      | .rw | .rwh | .wo | .woh | .w1c =>
        match s.loOf k p o with
        | none => blockDo k p o v.toNat s
        | some (lo, wide) =>
          let x := s.loVal lo
          let s1 := { s with heldLo := s.heldLo.del lo }
          if wide then blockDo k p o (x.toNat + v.toNat * 2 ^ 32) s1 else blockDo k p o v.toNat (s1.wr lo x)
  | _, _ => s

/-- What a refused write of one register leaves: a held low half that it would complete is discarded. -/
def regRefuse (wr : Writer) (p o : Nat) (v : W32) (c : Code) (s : State) : State :=
  match pageKind p with
  | none => s
  | some (k, _, _) =>
    let s1 := match s.loOf k p o with
      | some (lo, _) => { s with heldLo := s.heldLo.del lo }
      | none => s
    wstat wr p o c (blockRefused k p o v.toNat c s1)

/-- An 8-byte write: both halves are checked before either takes effect; a held low half counts for its high half (R468). -/
def pairWrite (wr : Writer) (p o : Nat) (lo hi : W32) (s : State) : State × Code :=
  let c1 := Code.lowest (regCodes wr p o lo s)
  let held := match pageKind p, regRow p o with
    | some (k, _, _), some r => s.isHeld k p o r
    | _, _ => false
  let s1 := if held then { s with heldLo := s.heldLo.ins (page p + o) lo } else s
  let c2 := Code.lowest (regCodes wr p (o + 4) hi s1)
  let c := Code.lowest [c1, c2]
  if c = .ok then (regApply p (o + 4) hi (regApply p o lo s), .ok)
  else
    let at_ := if c1 = c then o else o + 4
    let s2 := if held then { s with heldLo := s.heldLo.del (page p + o) } else s
    (regRefuse wr p at_ (if c1 = c then lo else hi) c s2, c)

/-- A write of a register page at a physical address: the state and the code that the page reports (R468, R476). A write whose width or
alignment the page does not take is refused with ALIGN, or with STATE where the page refuses every write (R7; DEDUCED, log entry 64). -/
def pageWrite (wr : Writer) (a : Nat) (wd : AccWidth) (v : W64) (s0 : State) : State × Code :=
  let p := a / 4096 % 0x40000
  let o := a % 4096
  let narrow (s : State) : State × Code :=
    let c := Code.lowest (.align :: s.pageRefuses p o)
    (wstat wr p o c s, c)
  if (pageKind p).isNone ∨ a / regsBase ≠ 1 then (s0, .absent)
  else
    let s := wakeWaiting s0
    match wd with
    | .b1 => narrow s
    | .b2 => narrow s
    | .b4 =>
      let w := v.setWidth 32
      if o % 4 ≠ 0 then narrow s
      else
        let c := Code.lowest (regCodes wr p o w s)
        if c = .ok then (regApply p o w s, .ok) else (regRefuse wr p o w c s, c)
    | .b8 => if o % 8 ≠ 0 then narrow s else pairWrite wr p o (v.setWidth 32) (v.extractLsb' 32 32) s

end Sys2Proof.Machine
end

