-- ==== Sys2Proof/Machine/Out.lean ====
section
/-! DEFINITION. Performing what threads send out: stores, appends and TLBI broadcasts, the undo log, and the checkpoint with its
commit (R56-R61, R99, R189, R196-R198). -/
namespace Sys2Proof.Machine

/-- Holds an asynchronous store error at a thread; while one is pending further ones are counted (R158). The error ends Waiting. -/
def Thread.storeError (th : Thread) (pa kind lg : Nat) : Thread :=
  match th.err with
  | some e => { th with err := some { e with more := BitVec.ofNat 16 (satInc 16 e.more.toNat) } }
  | none =>
    { th with
      err := some ⟨BitVec.ofNat 40 pa, BitVec.ofNat 16 (kind + 16 * lg), 0⟩
      st := if th.st = .waiting then .running else th.st }

/-- log2 of a store size. -/
def log2size (n : Nat) : Nat := if n ≤ 1 then 0 else if n ≤ 2 then 1 else if n ≤ 4 then 2 else if n ≤ 8 then 3 else if n ≤ 16 then 4
  else if n ≤ 32 then 5 else 6

/-- Records the old content of every doubleword a local store touches, newest first (R58). -/
def undoOf (s : State) (a n : Nat) : List (Nat × List Byte) :=
  let lo := a / 8
  let cnt := (a + n - 1) / 8 - lo + 1
  ((List.range cnt).map (fun i => (8 * (lo + i), s.peek (8 * (lo + i)) 8))).reverse

/-- Adds undo entries and keeps the high-water mark (R58). -/
def State.pushUndo (s : State) (n a len : Nat) : State :=
  let t := s.trio n
  let u := undoOf s a len ++ t.undo
  let s1 := s.setTrio n { t with undo := u }
  if s1.fld (B.trio n) TRIO.HWM_UNDO < u.length then s1.setFld (B.trio n) TRIO.HWM_UNDO (min u.length 2048) else s1

/-- A write of local SRAM by the trio itself; in PAIR it is recorded in the undo log (R58). -/
def State.pokeLocal (s : State) (n a : Nat) (d : List Byte) : State :=
  (if s.conf n = 1 then s.pushUndo n a d.length else s).poke a d

/-- Whether an output is a store that lies whole in the trio's own local window. -/
def OutEnt.isLocal (s : State) (o : OutEnt) : Bool :=
  match o.what with
  | .store _ ps => ps.all (fun x => (s.region x.1).trio? == some o.tid.trio.val)
  | .append _ _ => false
  | .tlbi _ _ _ => false

/-- Performs a piece of a store: own local SRAM, a register page, or memory elsewhere. -/
def performPiece (o : OutEnt) (s : State) (x : Nat × List Byte) : State :=
  if (s.region x.1).trio? = some o.tid.trio.val then s.pokeLocal o.tid.trio.val x.1 x.2
  else if s.region x.1 = .regs then
    (pageWrite ⟨o.ring, false, o.tid⟩ x.1 (widthOf x.2.length) (BitVec.ofNat 64 (leNat x.2)) s).1
  else s.pokeExt none x.1 x.2

/-- Performs one output (R196), the lower piece of a store first. -/
def performOut (s : State) (o : OutEnt) : State :=
  match o.what with
  | .store _ ps => ps.foldl (performPiece o) s
  | .append q e => (queueAppend (.core o.tid o.ring ⟨o.part % 16, Nat.mod_lt _ (by decide)⟩) q e s).1
  | .tlbi k p a =>
    ({ s with fab := { s.fab with tlbi := s.fab.tlbi ++ [TlbiOp.mk o.tid k p a] } }).incWrap B.walk WALK.TLBI_CNT

/-- The pieces of a store; none for an append or a TLBI. -/
def OutWhat.pieces : OutWhat → List (Nat × List Byte)
  | .store _ ps => ps
  | .append _ _ => []
  | .tlbi _ _ _ => []

/-- The trio in PAIR, other than the thread's own, that holds a store. -/
def holdingTrio (s : State) (t : ThreadId) (o : OutEnt) : Option Nat := o.what.pieces.findSome? (fun x => s.holder (some t.trio.val) x.1)

/-- A store goes to the trio that holds it until its commit (R60). -/
def holdAt (m : Nat) (t : ThreadId) (o : OutEnt) (s : State) : State :=
  s.setTrio m { s.trio m with held := (s.trio m).held ++ [HeldAcc.write (some t) o.what.pieces] }

/-- Releases the committed entries of the commit buffer in order. A store that another trio holds keeps the later ones back (R72, R196), and
so does the trio's quota (R199). A page write may reset the device; the buffer is then empty. -/
def releaseCommit : Nat → Nat → State → State
  | 0, _, s => s
  | k + 1, n, s =>
    match (s.trio n).commit with
    | [] => s
    | o :: rest =>
      if (s.trio n).closed = 0 ∨ o.held ∨ (s.trio n).lost ∨ s.atQuota n 9999 then s
      else match holdingTrio s o.tid o with
        | some m => holdAt m o.tid o (s.setTrio n { s.trio n with commit := { o with held := true } :: rest })
        | none => releaseCommit k n (performOut (s.setTrio n { s.trio n with commit := rest, closed := (s.trio n).closed - 1 }) o)

/-- Sends what a thread's share of the store buffer holds, in order, up to a store that another trio or the quota holds back. -/
def sendBuf (k : Nat) : Nat → State → State
  | 0, s => s
  | i + 1, s =>
    let th := s.thread k
    match th.buf with
    | [] => s
    | o :: rest =>
      if o.held ∨ s.atQuota o.tid.trio.val 9999 then s
      else match holdingTrio s o.tid o with
        | some m => holdAt m o.tid o (s.setThread k { th with buf := { o with held := true } :: rest })
        | none => sendBuf k i (performOut (s.setThread k { th with buf := rest }) o)

/-- Puts an output of a thread into the commit buffer, with the high-water mark. -/
def State.pushCommit (s : State) (n : Nat) (o : OutEnt) : State :=
  let t := s.trio n
  let c := t.commit ++ [o]
  let s1 := s.setTrio n { t with commit := c }
  if s1.fld (B.trio n) TRIO.HWM_COMMIT < c.length then s1.setFld (B.trio n) TRIO.HWM_COMMIT c.length else s1

/-- Where an output of a trio in PAIR goes: the pieces in local SRAM are performed, anything else is held (R58). -/
def pairOut (s : State) (n : Nat) (o : OutEnt) : State :=
  match o.what with
  | .store la ps =>
    let s1 := (ps.filter (fun x => (s.region x.1).trio? == some n)).foldl (fun a x => a.pokeLocal n x.1 x.2) s
    let rest := ps.filter (fun x => (s.region x.1).trio? != some n)
    if rest.isEmpty then s1 else s1.pushCommit n { o with what := .store la rest }
  | .append _ _ => s.pushCommit n o
  | .tlbi _ _ _ => s.pushCommit n o

/-- Drains the store buffer of a thread of a trio in PAIR (step 1 of R56). A store of before the pair that another trio holds goes first in the
commit buffer, as one that is on its way. -/
def drainThread (s : State) (n k : Nat) : State :=
  let th := s.thread k
  th.buf.foldl (fun a o => if o.held then a.pushCommit n o else pairOut a n o) (s.setThread k { th with buf := [] })

/-- The keys of the 8 threads of a locked trio. -/
def lockedKeys (n : Nat) : List Nat := (List.range 8).map (threadKey n 0)

/-- A thread as a checkpoint record holds it: a stalled thread stands at the boundary before its instruction (R57, R297). -/
def Thread.record (th : Thread) : Thread :=
  match th.st with
  | .stalled _ => { th with st := .running, buf := [], part := none }
  | _ => { th with buf := [] }

/-- A fabric read that a stalled thread makes: the bytes of its pieces as memory now stands. -/
def readPieces (s : State) (ps : List (Nat × Nat)) : List Byte := ps.flatMap (fun p => bytesFrom s.byteAt p.1 p.2)

/-- What an atomic leaves in memory (R123): SWAP, FADD, CAS, FOR on `8n` bits. -/
def atomNew (op n : Nat) (old rt rb : W64) : W64 :=
  let m := 2 ^ (8 * n)
  match op with
  | 0 => rb
  | 1 => old + rb
  | 2 => if old.toNat % m = rt.toNat % m then rb else old
  | _ => old ||| rb

/-- The first address of a word among the pieces that holds an uncorrectable error. -/
def State.badOf (s : State) (ps : List (Nat × Nat)) : Option Nat := ps.findSome? (fun p => s.badAddr p.1 p.2)

/-- Performs the fabric access of a stalled thread: the read and, for an atomic, the write with it (R123). A word that holds an uncorrectable
error is not written. -/
def performLoad (s : State) (th : Thread) (w : W32) (ps : List (Nat × Nat)) : List Byte × State :=
  let d := readPieces s ps
  match decodeOp w with
  | .ok x =>
    if x.row = .atom ∧ (s.badOf ps).isNone then
      let n := 2 ^ x.sz
      let new := atomNew x.fn n (BitVec.ofNat 64 (leNat d)) (th.reg x.rd) (th.reg x.rb)
      (d, s.poke ((ps.headD (0, 0)).1) (leBytes n new.toNat))
    else (d, s)
  | _ => (d, s)

/-! ### Accesses held at a trio in PAIR (R60) -/

def ycpWriter (ring : Fin 4) : Writer := ⟨ring, true, ⟨0, 0, 0⟩⟩

/-- The reads of a piece in a register page: 4 bytes where aligned, else a byte. -/
def regPieceRead (w : Writer) : Nat → Nat → Nat → State → List Byte × State
  | 0, _, _, s => ([], s)
  | k + 1, a, n, s =>
    if n = 0 then ([], s)
    else
      let wide := a % 4 = 0 ∧ 4 ≤ n
      let m := if wide then 4 else 1
      let (v, s1) := pageRead w a (if wide then .b4 else .b1) s
      let (d, s2) := regPieceRead w k (a + m) (n - m) s1
      (leBytes m v.toNat ++ d, s2)

/-- The upload of a place, while its data may still come. -/
def State.ownUpload (s : State) (place : Nat) : Option Upload :=
  match s.ycp.upload with
  | some u => if u.owner = place ∧ ¬ u.burn then some u else none
  | none => none

/-- An upload ends: IMG_STAT takes the code, and interrupt 458 tells it. -/
def imageOver (c : Code) (s : State) : State := (uploadDrop s).setFld B.ycp YCP.IMG_STAT_CODE c.num

/-- A staged image has been read: it is checked by R32, and programmed if it passes (R390). -/
def imageRead (place seq : Nat) (d : List Byte) (s : State) : State :=
  match s.ownUpload place with
  | none => ycpAnswer place seq 0x52 .state [] s
  | some u =>
    let c := imageCode u.header d s
    if c = .ok then flashShow (u.target - 1) (s.setYcp { s.ycp with upload := some { u with burn := true, data := d } })
    else ycpAnswer place seq 0x52 c (leBytes 1 c.num) (imageOver c s)

/-- Reads the pieces of a YCP memory read in order, up to one that a trio holds, and answers the request at the end, or checks the staged image
that an IMAGE_END reads; an uncorrectable error answers INTEGRITY (R387). `own`: the trio whose held accesses are performed. -/
def ycpReads (own : Option Nat) (place seq cmd : Nat) : List (Nat × Nat) → List Byte → State → State
  | [], got, s => if cmd = 0x52 then imageRead place seq got s else ycpAnswer place seq cmd .ok got s
  | (a, n) :: t, got, s =>
    if s.region a = .regs then
      let (d, s1) := regPieceRead (ycpWriter 3) n a n s
      ycpReads own place seq cmd t (got ++ d) s1
    else match s.holder own a with
      | some m => s.setTrio m { s.trio m with held := (s.trio m).held ++ [.ycp place seq cmd ((a, n) :: t) got] }
      | none =>
        match s.badAddr a n with
        | some b => ycpAnswer place seq cmd .integrity [] (s.busErr b 5 recDmaRead .data)
        | none => ycpReads own place seq cmd t (got ++ bytesFrom s.byteAt a n) s

/-- Performs the pieces of a store held at trio `m`, in order; one that another trio holds waits there with the rest. Answers whether all
are performed. -/
def heldPieces (m : Nat) (tid : Option ThreadId) : List (Nat × List Byte) → State → Bool × State
  | [], s => (true, s)
  | (a, d) :: t, s =>
    match s.holder (some m) a with
    | some x => (false, s.setTrio x { s.trio x with held := (s.trio x).held ++ [.write tid ((a, d) :: t)] })
    | none => heldPieces m tid t (s.poke a d)

/-- A store of a thread has been performed by the trio that held it: its entry leaves the store buffer, or the commit buffer, whose later
entries then leave. -/
def heldDone (t : ThreadId) (s : State) : State :=
  let n := t.trio.val
  let k := s.tkey t
  let c := (s.trio n).commit
  match c.find? (fun o => o.held && o.tid == t) with
  | some o => releaseCommit c.length n (s.setTrio n { s.trio n with commit := c.erase o, closed := (s.trio n).closed - 1 })
  | none =>
    match (s.thread k).buf.find? (·.held) with
    | some o => s.setThread k { s.thread k with buf := (s.thread k).buf.erase o }
    | none => s

/-- Performs one access held at trio `m`: a write, whose buffer entry then frees, the load of a stalled thread (its walks and block reads
go on from here), or the read of a raw transmit slot or of a YCP request. -/
def performHeld (m : Nat) (s : State) (h : HeldAcc) : State :=
  match h with
  | .write tid ps =>
    let (all, s1) := heldPieces m tid ps s
    match tid with
    | some t => if all then heldDone t s1 else s1
    | none => s1
  | .read t =>
    let k := s.tkey t
    let th := s.thread k
    match th.st with
    | .stalled (.load w ps la fin none) =>
      let (d, s1) := performLoad s th w ps
      s1.setThread k { th with st := .stalled (.load w ps la fin (some d)) }
    | _ => s
  | .rawTx left got => rawResume m left got s
  | .ycp place seq cmd left got => ycpReads (some m) place seq cmd left got s

/-- Performs the accesses that a trio holds: the first 64, for the fabric keeps further ones at their initiators (R60). -/
def performHelds (m k : Nat) (s : State) : State :=
  let held := (s.trio m).held
  (held.take k).foldl (performHeld m) (s.setTrio m { s.trio m with held := held.drop k })

/-! ### The checkpoint (R56) -/

/-- A checkpoint of a trio in PAIR with its commit (R56): the store buffers drain, thread 0's first (DESIGN CHOICE, log entry 103), the
outputs leave in order, the undo log empties, the written copy of the bank becomes the active one, and the accesses held for the trio are
performed, also where a store that another trio holds keeps outputs back (DESIGN CHOICE, log entry 111). A trio in unrecoverable loss
releases nothing (R53, R64). -/
def checkpoint (n : Nat) (early : Bool) (s : State) : State :=
  if (s.trio n).lost then s
  else
    let s1 := (lockedKeys n).foldl (fun a k => drainThread a n k) s
    let bank := (lockedKeys n).map (fun k => (k, (s1.thread k).record))
    let s3 := s1.setTrio n { s1.trio n with closed := (s1.trio n).commit.length, undo := [], bank := bank, bank2 := (s1.trio n).bank, ckptAt := s1.now }
    let s4 := s3.incWrap (B.trio n) TRIO.CKPT_CNT
    let s5 := if early then s4.incWrap (B.trio n) TRIO.EARLY_CNT else s4
    performHelds n 64 (releaseCommit (s5.trio n).commit.length n s5)

/-- An early checkpoint where the trio runs in PAIR (R59). -/
def earlyCheckpoint (n : Nat) (s : State) : State := if s.conf n = 1 then checkpoint n true s else s

/-- The undo log entry and commit buffer limits that force a checkpoint before the next output (R59). -/
def limitCheckpoint (n : Nat) (s : State) : State :=
  if s.conf n = 1 ∧ (192 ≤ (s.trio n).commit.length ∨ 1536 ≤ (s.trio n).undo.length) then checkpoint n true s else s

/-- No reset came between two states of one step; a released output may ask for one. -/
def State.sameRun (old s : State) : Bool := s.dev.resets == old.dev.resets

end Sys2Proof.Machine
end

