-- ==== Sys2Proof/Machine/Entry.lean ====
section
/-! DEFINITION. Putting an output into a thread's share of the store buffer, and taking an exception, interrupt or gate: the frame, the
entry, escalation and double escalation (R99, R104, R142-R149, R153-R155). -/
namespace Sys2Proof.Machine

/-! ### The store buffer share of a thread -/

def OutWhat.isTlbi : OutWhat → Bool
  | .tlbi _ _ _ => true
  | .store _ _ => false
  | .append _ _ => false

/-- Puts an output into the share of a thread (R99); a TLBI counts until it has completed (R189). -/
def State.pushBuf (s : State) (k : Nat) (o : OutEnt) : State :=
  let th := s.thread k
  s.setThread k { th with buf := th.buf ++ [o], tlbis := th.tlbis + b2n o.what.isTlbi }

def overlaps (a n b m : Nat) : Bool := decide (a < b + m) && decide (b < a + n)

/-- Whether a store of these pieces touches any of the pieces `ps`. -/
def touches (st : List (Nat × List Byte)) (ps : List (Nat × Nat)) : Bool :=
  st.any (fun x => ps.any (fun p => overlaps p.1 p.2 x.1 x.2.length))

/-- The data of stores cut to the pieces of an access. -/
def cutData : List (Nat × Nat) → List Byte → List (Nat × List Byte)
  | [], _ => []
  | (a, n) :: t, d => (a, d.take n) :: cutData t (d.drop n)

def fin4 (n : Nat) : Fin 4 := ⟨n % 4, Nat.mod_lt _ (by decide)⟩

/-- A thread as an operation leaves it, with what the rest of the machine has done to it meanwhile: its share of the store buffer, its
TLBIs, store errors and halt. A stop that was asked for takes place at this boundary (R129). -/
def Thread.land (th cur : Thread) : Thread :=
  { th with
    buf := cur.buf, tlbis := cur.tlbis, err := cur.err, halted := cur.halted, part := none, stopReq := false
    st := if th.stopReq || cur.stopReq || cur.st == .stopped then .stopped else th.st }

/-! ### Entries -/

/-- An entry: target ring, cause, FADDR, FINFO, return address, frame KIND 1 for a gate, and whether SR.IE is kept. -/
structure EntryReq where
  ring   : Nat
  cause  : Nat
  faddr  : W64
  finfo  : W64
  ret    : W64
  gate   : Bool
  keepIe : Bool
deriving DecidableEq, Repr

/-- A pending product slot in the frame. -/
def prodBytes : Option Product → List Byte
  | some p => leBytes 16 p.toNat
  | none => leBytes 16 0

/-- The saved SR image (R144). -/
def srImage (th : Thread) (gate : Bool) : Nat :=
  bf th.sr 0 9 + b2n gate * 65536 + b2n th.near.isSome * 131072 + b2n th.far.isSome * 262144

/-- The 64 bytes of the frame (R144). -/
def frameBytes (th : Thread) (r : EntryReq) : List Byte :=
  leBytes 8 r.ret.toNat ++ leBytes 8 (srImage th r.gate) ++ leBytes 8 th.pl.toNat ++ leBytes 8 th.ph.toNat
    ++ prodBytes th.near ++ prodBytes th.far

/-- Where the pieces of a frame lie; one that faults answers its linear address (R144, R153), one whose table read waits for the trio's quota
none (R199). -/
def framePieces (t : ThreadId) (ring : Nat) (th : Thread) : List (Nat × Nat) → State → Except (Option Nat × State) (List (Nat × Nat) × State)
  | [], s => .ok ([], s)
  | (la, n) :: rest, s =>
    match s.xlNow t ⟨s.partOf t ring, ring, la, 1, 2, false, 0, some th.krr⟩ walkFuel [] with
    | .error (.need _, s1) => .error (none, s1)
    | .error (.flt .., s1) => .error (some la, s1)
    | .ok (pa, s1) =>
      if ¬ (s1.region pa).allows .write t.trio.val ∨ s1.region pa = .regs ∨ s1.outOfService pa then .error (some la, s1)
      else match framePieces t ring th rest s1 with
        | .error e => .error e
        | .ok (ps, s2) => .ok ((pa, n) :: ps, s2)

/-- Writes a frame: into the own data half at once, else as one entry of the store buffer (R104); behind a buffered store that it touches
too (R196). A full undo log forces a checkpoint first (R59). -/
def framePut (t : ThreadId) (k ring la : Nat) (ps : List (Nat × Nat)) (d : List Byte) (s : State) : State :=
  let n := t.trio.val
  if ps.all (fun p => s.region p.1 == .locD n) ∧ ¬ (s.thread k).buf.any (fun o => touches o.what.pieces ps) then
    let s1 := limitCheckpoint n s
    if s1.sameRun s then (cutData ps d).foldl (fun a x => a.pokeLocal n x.1 x.2) s1 else s1
  else s.pushBuf k ⟨t, fin4 ring, s.partOf t ring, false, .store la (cutData ps d)⟩

/-- VBR bits that must be 0 at entry (R143). -/
def vbrBad (v : W64) : Bool := v.getLsbD 1 || bf v 48 16 != 0

/-- The thread after an entry into a ring (R145); the entry for a store error takes the error (R158). -/
def enterThread (s : State) (k : Nat) (th : Thread) (r : EntryReq) (vbr : W64) : Thread :=
  let th1 := (th.setSr 1 2 r.ring).setSr 3 1 (b2n (vbr.getLsbD 0))
  let th2 := if r.keepIe then th1 else th1.setSr 0 1 0
  let th3 := s.holdCe ({ th2 with
    st := .running, pc := BitVec.ofNat 64 (bf vbr 2 46 * 4), near := none, far := none
    cause := BitVec.ofNat 64 r.cause, faddr := r.faddr, finfo := r.finfo }.land (s.thread k))
  if r.cause = 0x10 then { th3 with err := none } else th3

/-- A double escalation (R154). -/
def doubleEscalation (s : State) (t : ThreadId) (k : Nat) (th : Thread) : State :=
  ((s.setThread k { th.land (s.thread k) with st := .stopped }).irq (64 + 4 * t.trio.val)).incSat B.intd INTD.DESC_CNT

/-- Escalation into ring 0 on the ESP stack (R153), or double escalation (R154). -/
def escalate (s : State) (t : ThreadId) (k : Nat) (th : Thread) (r : EntryReq) (reason : Nat) (addr : W64) : State :=
  let r0 : EntryReq :=
    { r with ring := 0, cause := 0xFF, faddr := addr, gate := false, keepIe := false
             finfo := BitVec.ofNat 64 (r.cause % 256 + reason * 256 + r.ring * 65536) }
  let sp := th.esp - 64
  let vbr := th.vbrOf 0
  if th.esp.toNat % 16 ≠ 0 ∨ vbrBad vbr then doubleEscalation s t k th
  else match framePieces t 0 th (splitLines 3 (bf sp 0 48) 64) s with
    | .error (none, s1) => s1
    | .error (some _, s1) => doubleEscalation s1 t k th
    | .ok (ps, s1) =>
      let s2 := framePut t k 0 (bf sp 0 48) ps (frameBytes th r0) s1
      if s2.sameRun s then
        let th1 := enterThread s2 k th r0 vbr
        (s2.setThread k { th1 with esp := sp, err := if r.cause = 0x10 then none else th1.err }).incSat B.intd INTD.ESC_CNT
      else s2

/-- The entry of R145. The conditions of R153 are taken in the order of their reasons (DEDUCED, log entry 14). A frame whose table read waits
for the trio's quota leaves the thread as it stands, and the entry is tried again. -/
def enterRing (s : State) (t : ThreadId) (k : Nat) (th : Thread) (r : EntryReq) : State :=
  let sp := th.g30of r.ring - 64
  let vbr := th.vbrOf r.ring
  match framePieces t r.ring th (splitLines 3 (bf sp 0 48) 64) s with
  | .error (none, s1) => s1
  | .error (some la, s1) => escalate s1 t k th r 1 (BitVec.ofNat 64 la)
  | .ok (ps, s1) =>
    if sp.toNat % 16 ≠ 0 then escalate s1 t k th r 2 sp
    else if vbrBad vbr then escalate s1 t k th r 3 vbr
    else
      let s2 := framePut t k r.ring (bf sp 0 48) ps (frameBytes th r) s1
      if s2.sameRun s then s2.setThread k ((enterThread s2 k th r vbr).setG30 r.ring sp) else s2

/-- The least privileged target ring of a synchronous cause (R148): its delegation field. -/
def delegRing (s : State) (cause : Nat) : Nat := nbits (s.rd (B.intd + INTD.EXC_DELEG.off)).toNat (2 * (cause - 1)) 2

/-- Takes a synchronous exception of the instruction at pc (R148, R149). -/
def takeExc (s : State) (t : ThreadId) (k : Nat) (th : Thread) (e : Exc) : State :=
  enterRing s t k th ⟨min th.ring (delegRing s e.cause), e.cause, e.faddr, e.finfo, th.pc, false, false⟩

/-- Takes an eligible interrupt (R148, R160). -/
def takeIrq (s : State) (t : ThreadId) (k : Nat) (th : Thread) (n : Nat) : State :=
  let r := s.route n
  enterRing s t k th ⟨routeRing r, 0x80, 0, BitVec.ofNat 64 (n + routePrio r * 65536), th.pc, false, false⟩

end Sys2Proof.Machine
end

