-- ==== Sys2Proof/Machine/Access.lean ====
section
/-! DEFINITION. An instruction in hand and its memory accesses: checks in the order of R181, forwarding, local and fabric loads,
stores, and what a stall leaves (R60, R122-R124, R157, R167-R169, R173, R181-R183, R195, R196, R198, R199). -/
namespace Sys2Proof.Machine

/-- An instruction being executed: its thread, word and decoding, the table entries its walk has read, the data of its load. -/
structure Cx where
  t   : ThreadId
  k   : Nat
  th  : Thread
  w   : W32
  d   : Dec
  got : List (Nat × Option W64)
  ld  : Option (List Byte)

/-- How an instruction goes on: it completes (with a product, and a branch target), completes as a write of LC or SR.LA that the loop
step leaves alone, completes at the pc that it set, leaves the thread as the state holds it, raises an exception, stalls, or enters a
ring through a gate. -/
inductive OpEnd where
  | done (s : State) (th : Thread) (prod : Option Product) (tgt : Option W64)
  | wrote (s : State) (th : Thread) (lc la : Bool)
  | goto (s : State) (th : Thread)
  | keep (s : State)
  | exc (s : State) (e : Exc)
  | wait (s : State) (w : Wait)
  | enter (s : State) (th : Thread) (r : EntryReq)

/-- An access: through a segment at an offset, or at a linear address with no segment. -/
structure MAcc where
  seg    : Option Nat
  off    : Nat
  n      : Nat
  access : Nat
  need   : Nat
  atom   : Bool
  keys   : Bool
  ring   : Nat
  kind   : AccK
  callf  : Option (W64 × Nat)

/-- An access of an instruction in its own ring. -/
def Cx.acc (c : Cx) (seg off n access need : Nat) (kind : AccK) : MAcc :=
  ⟨some seg, off, n, access, need, false, true, c.th.ring, kind, none⟩

/-- The partition of an access: that in which the instruction issued (R174). -/
def Cx.part (c : Cx) (s : State) (ring : Nat) : Nat := if ring = 0 then 0 else c.th.part.getD (s.partOf c.t ring)

/-- The linear address of the first byte. -/
def MAcc.la (a : MAcc) (th : Thread) : Nat :=
  match a.seg with
  | some g => (th.segReg g).base.toNat + a.off
  | none => a.off % 2 ^ 48

def MAcc.segNo (a : MAcc) : Nat := a.seg.getD 0

/-- The translation request of a piece. -/
def MAcc.req (a : MAcc) (s : State) (c : Cx) (la : Nat) : XReq :=
  ⟨c.part s a.ring, a.ring, la, a.access, a.need, a.atom, a.segNo, if a.keys then some c.th.krr else none⟩

/-- FADDR of a translation fault: the linear address, or for a ring 3 fetch the offset in seg0 (R142, R182). -/
def MAcc.faddr (a : MAcc) (th : Thread) (la : Nat) : W64 :=
  if a.access = 2 ∧ a.seg.isSome then BitVec.ofNat 64 (a.off + (la - a.la th)) else BitVec.ofNat 64 la

/-- FADDR of an alignment exception: the offset through a segment, else the linear address (R182). -/
def MAcc.alignExc (a : MAcc) (th : Thread) (la reason : Nat) : Exc :=
  ⟨0x05, BitVec.ofNat 64 (a.off + (la - a.la th)), segFinfo a.access a.segNo reason a.ring⟩

/-- The right of a segment that an access needs: a call frame needs W, RET's too (R173). -/
def MAcc.segNeed (a : MAcc) : Nat := if a.access = 6 then 2 else a.need

/-- Whether a limit failure reports the lowest failing byte: an access that crosses a line (R157), and a block chunk (R95). -/
def MAcc.lowest (a : MAcc) (th : Thread) : Bool := a.access == 4 || a.access == 5 || decide (64 < a.la th % 64 + a.n)

/-- The segment check of a piece; a call frame outside seg1 raises stack limit (R173). -/
def MAcc.segExc (a : MAcc) (th : Thread) (la n : Nat) : Option Exc :=
  match a.seg with
  | none => none
  | some g =>
    match segCheck (th.segReg g) g a.ring a.access a.segNeed (a.off + (la - a.la th)) n (a.lowest th) with
    | none => none
    | some e =>
      match a.callf with
      | some (g30, code) => if e.cause = 0x03 then some ⟨0x0D, g30, BitVec.ofNat 64 code⟩ else some e
      | none => some e

/-- Checks one piece: segment, translation, region, device alignment of the whole access, target in service; answers its physical
address. -/
def MAcc.piece (a : MAcc) (c : Cx) (s : State) (la n : Nat) : Except OpEnd (Nat × State) :=
  match a.segExc c.th la n with
  | some e => .error (.exc s e)
  | none =>
    let q := a.req s c la
    match s.xl c.t q c.got with
    | .error (.need pa, s1) => .error (.wait s1 (.walk c.w pa c.got))
    | .error (.flt cause lv r s1w phys key a2, s1) =>
      .error (.exc s1 ⟨cause, a.faddr c.th la, q.finfo lv s1w phys r key a2⟩)
    | .ok (pa, s1) =>
      let rg := s1.region pa
      if a.kind = .atomic ∧ rg = .regs then .error (.exc s1 (a.alignExc c.th la 2))
      else if ¬ rg.allows a.kind c.t.trio.val then .error (.exc s1 ⟨0x07, a.faddr c.th la, q.finfo 0 false true 8 0 pa⟩)
      else if rg = .regs ∧ (a.n > 8 ∨ a.la c.th % a.n ≠ 0 ∨ a.access = 4 ∨ a.access = 5) then .error (.exc s1 (a.alignExc c.th la 1))
      else if a.kind ≠ .write ∧ s1.outOfService pa then .error (.exc s1 ⟨0x07, a.faddr c.th la, q.finfo 0 false true 11 0 pa⟩)
      else .ok (pa, s1)

/-- Checks every piece of an access, the lower line first. -/
def MAcc.pieces (a : MAcc) (c : Cx) : List (Nat × Nat) → State → Except OpEnd (List (Nat × Nat) × State)
  | [], s => .ok ([], s)
  | (la, n) :: t, s =>
    match a.piece c s la n with
    | .error f => .error f
    | .ok (pa, s1) =>
      match a.pieces c t s1 with
      | .error f => .error f
      | .ok (ps, s2) => .ok ((pa, n) :: ps, s2)

def MAcc.check (a : MAcc) (c : Cx) (s : State) : Except OpEnd (List (Nat × Nat) × State) :=
  a.pieces c (splitLines (a.n / 64 + 2) (a.la c.th) a.n) s

/-- Checks an access with its table reads made at once. At its quota a trio makes none: the access still waits for the read (R199). -/
def MAcc.checkNow (a : MAcc) : Nat → Cx → State → Except OpEnd (List (Nat × Nat) × State)
  | 0, c, s => a.check c s
  | k + 1, c, s =>
    match a.check c s with
    | .error (.wait s1 (.walk w pa got)) =>
      if s1.atQuota c.t.trio.val c.k then .error (.wait s1 (.walk w pa got))
      else
      let (v, s2) := s1.tableRead c.t a.ring pa
      a.checkNow k { c with got := got ++ [(pa, v)] } s2
    | r => r

/-- At most six pieces of at most 24 table reads each. -/
def blkFuel : Nat := 150

/-! ### Data errors (R181, R183, R198) -/

/-- How far a physical address lies from the first byte of an access. -/
def offsetIn : List (Nat × Nat) → Nat → Nat
  | [], _ => 0
  | (a, n) :: t, pa => if a ≤ pa ∧ pa < a + n then pa - a else n + offsetIn t pa

/-- FADDR and FINFO of an error at a physical address of an access, from those of its first byte. -/
def errAt (la fin : W64) (ps : List (Nat × Nat)) (pa : Nat) : W64 × W64 :=
  (la + BitVec.ofNat 64 (offsetIn ps pa), BitVec.ofNat 64 (bf fin 0 24 + pa * 2 ^ 24))

/-- FADDR and FINFO of a failed bus access. -/
def busExc (la fin : W64) (e : BusResult) : Exc := ⟨0x07, la, fin + BitVec.ofNat 64 (busReason e * 4096)⟩

/-- FADDR of the first byte of an access, and the FINFO of an error there. -/
def MAcc.errBase (a : MAcc) (c : Cx) (s : State) (ps : List (Nat × Nat)) : W64 × W64 :=
  let la := a.la c.th
  (a.faddr c.th la, (a.req s c la).finfo 0 false true 0 0 (ps.headD (0, 0)).1)

/-- An uncorrectable error at `pa` of an access that is made at once. -/
def MAcc.dataExc (a : MAcc) (c : Cx) (s : State) (ps : List (Nat × Nat)) (pa : Nat) : OpEnd :=
  let (la, fin) := a.errBase c s ps
  let (la1, fin1) := errAt la fin ps pa
  .exc (s.busErr pa (masterOf c.t a.ring) (recAccess a.access) .data) (busExc la1 fin1 .data)

/-- Reads pieces at once, or reports the error they hold. -/
def MAcc.readNow (a : MAcc) (c : Cx) (s : State) (ps : List (Nat × Nat)) : Except OpEnd (List Byte × State) :=
  match s.badOf ps with
  | some pa => .error (a.dataExc c s ps pa)
  | none => .ok (readPieces s ps, s)

/-! ### Forwarding (R195) -/

/-- Stores of a thread that are not yet performed, oldest first: those held for commit, then those in its buffer. -/
def pendingStores (s : State) (t : ThreadId) (k : Nat) : List OutEnt :=
  (s.trio t.trio.val).commit.filter (fun o => o.tid.thr == t.thr) ++ (s.thread k).buf

/-- What a load meets: no store, a store that contains it, or stores that it overlaps otherwise. -/
inductive Fwd where
  | none | bytes (d : List Byte) | partialOverlap
deriving DecidableEq, Repr

/-- The bytes of a piece in a store that contains it. -/
def pieceFrom (st : List (Nat × List Byte)) (p : Nat × Nat) : Option (List Byte) :=
  (st.find? (fun x => decide (x.1 ≤ p.1) && decide (p.1 + p.2 ≤ x.1 + x.2.length))).map (fun x => (x.2.drop (p.1 - x.1)).take p.2)

/-- The bytes of a load in a store that contains every byte of it. -/
def gather (st : List (Nat × List Byte)) : List (Nat × Nat) → Option (List Byte)
  | [] => some []
  | p :: t => match pieceFrom st p, gather st t with
    | some d, some e => some (d ++ e)
    | _, _ => Option.none

def forward (l : List OutEnt) (ps : List (Nat × Nat)) : Fwd :=
  match (l.filter (fun o => touches o.what.pieces ps)).getLast? with
  | Option.none => .none
  | some o => match gather o.what.pieces ps with
    | some d => .bytes d
    | Option.none => .partialOverlap

/-- Whether every piece lies in the trio's own window. -/
def ownLocal (s : State) (t : ThreadId) (ps : List (Nat × Nat)) : Bool :=
  ps.all (fun p => (s.region p.1).trio? == some t.trio.val)

/-- The stall of a fabric load. -/
def fabricWait (c : Cx) (a : MAcc) (s : State) (ps : List (Nat × Nat)) : OpEnd :=
  let (la, fin) := a.errBase c s ps
  .wait s (.load c.w ps la fin none)

/-- Reads own local SRAM, or waits for the fabric. -/
def readLoad (c : Cx) (a : MAcc) (s : State) (ps : List (Nat × Nat)) : Except OpEnd (List Byte × State) :=
  if ownLocal s c.t ps then a.readNow c s ps else .error (fabricWait c a s ps)

/-- The bytes an instruction loads: already arrived, forwarded, read from own local SRAM, or awaited from the fabric. A load
from device memory waits for every earlier store; in PAIR a checkpoint is taken before it, and before a load that overlaps a held store in
part (R59, R195, R196). -/
def loadAcc (c : Cx) (a : MAcc) (s : State) : Except OpEnd (List Byte × State) :=
  match c.ld with
  | some d => .ok (d, s)
  | none =>
    match a.check c s with
    | .error f => .error f
    | .ok (ps, s1) =>
      let n := c.t.trio.val
      if ps.any (fun p => s1.region p.1 == .regs) then
        if s1.conf n = 1 then
          let s2 := checkpoint n true s1
          if s2.sameRun s1 then .error (fabricWait c a s2 ps) else .error (.keep s2)
        else if (s1.thread c.k).buf.isEmpty then .error (fabricWait c a s1 ps)
        else .error (.wait s1 (.drain c.w))
      else match forward (pendingStores s1 c.t c.k) ps with
        | .bytes d => .ok (d, s1)
        | .none => readLoad c a s1 ps
        | .partialOverlap =>
          if s1.conf n = 1 ∧ (pendingStores s1 c.t c.k).any (fun o => touches o.what.pieces ps && !o.isLocal s1) then
            let s2 := checkpoint n true s1
            if s2.sameRun s1 then readLoad c a s2 ps else .error (.keep s2)
          else .error (.wait s1 (.drain c.w))

/-- Puts a store into the thread's share of the store buffer, or stalls for space (R99). -/
def storeAcc (c : Cx) (a : MAcc) (d : List Byte) (s : State) : Except OpEnd State :=
  match a.check c s with
  | .error f => .error f
  | .ok (ps, s1) =>
    if 4 ≤ (s1.thread c.k).buf.length then .error (.wait s1 (.space c.w))
    else .ok (s1.pushBuf c.k ⟨c.t, fin4 a.ring, c.part s1 a.ring, false, .store (a.la c.th) (cutData ps d)⟩)

/-! ### Stalls -/

/-- The instruction of a thread stalls. A read that a trio in PAIR holds waits there (R60); a trio at its quota issues no new read, and its
thread stays as it was (R199). -/
def stall (c : Cx) (s : State) (w : Wait) : State :=
  if ¬ (Wait.reads w).isEmpty ∧ s.atQuota c.t.trio.val c.k then s
  else
    let s1 := match (Wait.reads w).findSome? (s.holder (some c.t.trio.val)) with
      | some m => s.setTrio m { s.trio m with held := (s.trio m).held ++ [HeldAcc.read c.t] }
      | none => s
    let cur := s1.thread c.k
    let th := { c.th.land cur with st := .stalled w, part := some (c.part s c.th.ring) }
    s1.setThread c.k (if (c.th.land cur).st = TState.stopped then th.stopAtBoundary else th)

end Sys2Proof.Machine
end

