-- ==== Sys2Proof/Machine/Barrel.lean ====
section
/-! DEFINITION. What each core instruction does, its completion with the loop step, and its issue (R80-R133, R140-R152). -/
namespace Sys2Proof.Machine

def Cx.a (c : Cx) : W64 := c.th.reg c.d.ra
def Cx.b (c : Cx) : W64 := c.th.reg c.d.rb

/-- Completes with a value in rd. -/
def Cx.put (c : Cx) (s : State) (v : W64) : OpEnd := .done s (c.th.setReg c.d.rd v) none none

/-- An exception whose FADDR is the instruction address and FINFO the word (R148). -/
def Cx.wordExc (c : Cx) (s : State) (cause : Nat) : OpEnd := .exc s ⟨cause, c.th.pc, BitVec.ofNat 64 c.w.toNat⟩

/-! ### Integer, multiply, divide, predicates -/

/-- ALU (R112, R113). -/
def opAlu (c : Cx) (s : State) : OpEnd :=
  let f := c.th.flags
  let th := c.th.setReg c.d.rd (aluRes c.d.fn c.a c.b f.c)
  .done s (if c.d.b then th.setFlags (aluFlags c.d.fn c.a c.b f) else th) none none

/-- ADDI, ANDI, ORI, XORI (R114): the ALU operation with the immediate, no flags. -/
def opImm (f : Nat) (c : Cx) (s : State) : OpEnd := c.put s (aluRes f c.a c.d.imm false)

/-- SHI (R114). -/
def opShi (c : Cx) (s : State) : OpEnd :=
  let f := c.th.flags
  let th := c.th.setReg c.d.rd (aluRes c.d.fn c.a c.d.imm f.c)
  .done s (if c.d.b then th.setFlags (aluFlags c.d.fn c.a c.d.imm f) else th) none none

/-- CMPI (R114). -/
def opCmpi (c : Cx) (s : State) : OpEnd := .done s (c.th.setFlags (aluFlags 0x01 c.a c.d.imm c.th.flags)) none none

/-- MOVW (R115). -/
def opMovw (c : Cx) (s : State) : OpEnd := c.put s (movwRes c.d.fn c.d.b c.d.imm (c.th.reg c.d.rd))

/-- MUL, MULU (R116, R87). -/
def opMul (signed : Bool) (c : Cx) (s : State) : OpEnd := .done s c.th (some (mulRes signed c.a c.b)) none

/-- DIV, DIVU, REM, REMU (R116, R89). -/
def opDiv (signed rem : Bool) (c : Cx) (s : State) : OpEnd :=
  if c.b = 0 then .exc s ⟨0x0C, c.th.pc, 0⟩ else c.put s (divRes signed rem c.a c.b)

/-- CMPP, CMPPI (R117). -/
def opCmp (b : W64) (c : Cx) (s : State) : OpEnd :=
  let r := relation c.d.fn c.a b
  .done s ((c.th.setPred c.d.rd r).setPred c.d.sz (!r)) none none

/-- PLOGIC (R118). -/
def opPlogic (c : Cx) (s : State) : OpEnd :=
  .done s (c.th.setPred c.d.rd (plogic c.d.fn (c.th.pred c.d.ra) (c.th.pred c.d.rb))) none none

/-! ### Special registers and segments -/

/-- MFS (R130). -/
def opMfs (c : Cx) (s : State) : OpEnd := c.put s (c.th.sreg c.t s.now c.d.fn)

/-- A segment load of MTS (R172). FADDR is the selector for INDEX and for a selector with no descriptor, else the linear address of the
descriptor (R182). -/
def opSegLoad (c : Cx) (s : State) : OpEnd :=
  let g := c.d.fn - 0x20
  let sel : BitVec 16 := c.a.extractLsb' 0 16
  let ring := c.th.ring
  let part := c.part s ring
  let put (x : Seg) (s' : State) : OpEnd := .done s' { c.th with seg := c.th.seg.set flatSeg g x } none none
  let bad (cause reason a : Nat) (s' : State) : OpEnd := .exc s' ⟨cause, BitVec.ofNat 64 a, segFinfo 7 g reason ring⟩
  if sel = 0 then put ⟨0, 0, 0, false, false, false, 0⟩ s
  else if sel = 0xFFFF then (if ring = 0 then put Seg.flat s else bad 0x04 3 sel.toNat s)
  else if s.fld (B.part part) PART.SDT_LIMIT ≤ sel.toNat then bad 0x03 3 sel.toNat s
  else
    let at_ := s.fld (B.part part) PART.SDT_BASE_LO + s.fld (B.part part) PART.SDT_BASE_HI * 2 ^ 32 + 16 * sel.toNat
    let acc : MAcc := ⟨none, at_, 16, 7, 1, false, false, if part = 0 then 0 else 1, .read, none⟩
    match loadAcc c acc s with
    | .error f => f
    | .ok (d, s1) =>
      match segOfDescr sel (BitVec.ofNat 64 (leNat (d.take 8))) (BitVec.ofNat 64 (leNat (d.drop 8))) ring with
      | .error r => bad 0x04 r (acc.la c.th) s1
      | .ok x => put x s1

/-- MTS (R130, R141). -/
def opMts (c : Cx) (s : State) : OpEnd :=
  if c.d.fn = 0 then
    if srWriteRefused c.th.sr c.a then c.wordExc s 0x02
    else .wrote s (s.holdCe { c.th with sr := BitVec.ofNat 64 (bf c.a 0 9) }) false true
  else if 0x20 ≤ c.d.fn then opSegLoad c s
  else if c.d.fn = 0x03 then .wrote s (c.th.setSreg c.d.fn c.a) true false
  else .done s (c.th.setSreg c.d.fn c.a) none none

/-! ### Branches, calls, loops -/

/-- An alignment exception of a register branch target (R119). -/
def targetExc (c : Cx) (a : W64) (s : State) : OpEnd := .exc s ⟨0x05, a, segFinfo 2 0 4 c.th.ring⟩

def opBr (c : Cx) (s : State) : OpEnd := .done s c.th none (some (c.th.pc + c.d.imm))

def opJmp (c : Cx) (s : State) : OpEnd :=
  if bf c.a 0 2 ≠ 0 then targetExc c c.a s else .done s c.th none (some c.a)

/-- CALL and CALLR (R120): pushes the return address and the link, then branches. -/
def opCall (tgt : W64) (c : Cx) (s : State) : OpEnd :=
  let g30 := c.th.reg 30
  let off := (g30 - 16).toNat
  if bf g30 0 4 ≠ 0 then .exc s ⟨0x05, BitVec.ofNat 64 off, segFinfo 6 1 3 c.th.ring⟩
  else if bf tgt 0 2 ≠ 0 then targetExc c tgt s
  else
    let acc : MAcc := ⟨some 1, off, 16, 6, 2, false, true, c.th.ring, .write, some (g30, 0)⟩
    match storeAcc c acc (leBytes 8 (c.th.pc + 4).toNat ++ leBytes 8 g30.toNat) s with
    | .error f => f
    | .ok s1 => .done s1 (c.th.setReg 30 (g30 - 16)) none (some tgt)

/-- RET (R120): checks the link, pops the frame and branches. The frame read needs W of the segment (R173) and R in the leaves and in KRR
(DEDUCED, log entry 15). A frame outside seg1 raises the stack limit with FINFO 1, as RET's failed link does (DESIGN CHOICE, log entry 118). -/
def opRet (c : Cx) (s : State) : OpEnd :=
  let g30 := c.th.reg 30
  let acc : MAcc := ⟨some 1, g30.toNat, 16, 6, 1, false, true, c.th.ring, .read, some (g30, 1)⟩
  match loadAcc c acc s with
  | .error f => f
  | .ok (d, s1) =>
    let ret := BitVec.ofNat 64 (leNat (d.take 8))
    if BitVec.ofNat 64 (leNat (d.drop 8)) ≠ g30 + 16 then .exc s1 ⟨0x0D, g30, 1⟩
    else if bf ret 0 2 ≠ 0 then targetExc c ret s1
    else .done s1 (c.th.setReg 30 (g30 + 16)) none (some ret)

/-- LOOP and LOOPI (R90, R121). -/
def opLoop (cnt : W64) (c : Cx) (s : State) : OpEnd :=
  let ls := c.th.pc + 4
  let le := ls + 4 * c.d.imm
  let th := { c.th with ls := ls, le := le, lc := cnt }
  if cnt = 0 then .done s (th.setSr 8 1 0) none (some (le + 4)) else .done s (th.setSr 8 1 1) none (some ls)

/-! ### Loads, stores, atomics -/

def extLoad (sgn : Bool) (n : Nat) (d : List Byte) : W64 :=
  if sgn then i64 (sextNat (8 * n) (leNat d)) else BitVec.ofNat 64 (leNat d)

/-- Offset of format M or X (R122). -/
def Cx.off (c : Cx) (x : Bool) : Nat := if x then (c.a + (c.b <<< c.d.sz)).toNat else (c.a + c.d.imm).toNat

/-- Loads (R122). -/
def opLoad (x : Bool) (c : Cx) (s : State) : OpEnd :=
  let n := 2 ^ c.d.sz
  match loadAcc c (c.acc c.d.seg (c.off x) n 0 1 .read) s with
  | .error f => f
  | .ok (d, s1) => c.put s1 (extLoad c.d.b n d)

/-- Stores (R122): the low bytes of rt. -/
def opStore (x : Bool) (c : Cx) (s : State) : OpEnd :=
  let n := 2 ^ c.d.sz
  match storeAcc c (c.acc c.d.seg (c.off x) n 1 2 .write) (leBytes n (c.th.reg c.d.rd).toNat) s with
  | .error f => f
  | .ok s1 => .done s1 c.th none none

/-- ATOM (R123, R124): local at once, elsewhere over the fabric with the checkpoint before it in PAIR. -/
def opAtom (c : Cx) (s : State) : OpEnd :=
  let n := 2 ^ c.d.sz
  let off := c.a.toNat
  let acc : MAcc := ⟨some c.d.seg, off, n, 3, 3, true, true, c.th.ring, .atomic, none⟩
  match c.ld with
  | some d => c.put s (BitVec.ofNat 64 (leNat d))
  | none =>
    if off % n ≠ 0 then .exc s ⟨0x05, BitVec.ofNat 64 off, segFinfo 3 c.d.seg 2 c.th.ring⟩
    else match acc.check c s with
      | .error f => f
      | .ok (ps, s1) =>
        if ownLocal s1 c.t ps then
          if (s1.thread c.k).buf.isEmpty then
            let s2 := limitCheckpoint c.t.trio.val s1
            if ¬ s2.sameRun s1 then .keep s2
            else match acc.readNow c s2 ps with
              | .error f => f
              | .ok (d, s3) =>
                let new := atomNew c.d.fn n (BitVec.ofNat 64 (leNat d)) (c.th.reg c.d.rd) c.b
                c.put (s3.pokeLocal c.t.trio.val (ps.headD (0, 0)).1 (leBytes n new.toNat)) (BitVec.ofNat 64 (leNat d))
          else .wait s1 (.drain c.w)
        else if s1.conf c.t.trio.val = 1 then
          let s2 := checkpoint c.t.trio.val true s1
          if s2.sameRun s1 then fabricWait c acc s2 ps else .keep s2
        else if (pendingStores s1 c.t c.k).any (fun o => touches o.what.pieces ps) then .wait s1 (.drain c.w)
        else fabricWait c acc s1 ps

/-! ### System instructions -/

/-- SYNC (R126, R59): waits until every earlier store of the thread is performed; in PAIR a checkpoint sends them out first. One that has
waited completes. -/
def opSync (c : Cx) (s : State) : OpEnd :=
  let s1 := if c.ld.isSome then s else earlyCheckpoint c.t.trio.val s
  if ¬ s1.sameRun s then .keep s1
  else if (pendingStores s1 c.t c.k).isEmpty then .done s1 c.th none none
  else .wait s1 (.sync c.w)

/-- SYNC.TLB (R126, R189). One that has waited completes. -/
def opSyncTlb (c : Cx) (s : State) : OpEnd :=
  let s1 := if c.ld.isSome then s else earlyCheckpoint c.t.trio.val s
  if ¬ s1.sameRun s then .keep s1
  else if (s1.thread c.k).tlbis = 0 then .done s1 c.th none none
  else .wait s1 (.syncTlb c.w)

/-- ICI (R100, R126). -/
def opIci (c : Cx) (s : State) : OpEnd :=
  .done (s.setTrio c.t.trio.val { s.trio c.t.trio.val with lines := [] }) c.th none none

/-- An output of the instruction's own ring. -/
def Cx.out (c : Cx) (s : State) (w : OutWhat) : OutEnt := ⟨c.t, fin4 c.th.ring, c.part s c.th.ring, false, w⟩

/-- TLBI (R126, R188, R189): goes out in order behind the thread's stores, through an entry of the store buffer share (DESIGN CHOICE, log entry
118). -/
def opTlbi (c : Cx) (s : State) : OpEnd :=
  if 4 ≤ (s.thread c.k).buf.length then .wait s (.space c.w)
  else .done (s.pushBuf c.k (c.out s (.tlbi c.d.fn (c.part s c.th.ring) c.a))) c.th none none

/-- WAIT (R128). -/
def opWait (c : Cx) (s : State) : OpEnd :=
  .done s { c.th with st := if s.irqForThread c.t || c.th.err.isSome then .running else .waiting } none none

/-- The thread that TSTART or TSTOP names: a thread of the issuing core. -/
def peerKey (s : State) (t : ThreadId) (n : Nat) : Nat :=
  threadKey t.trio.val (if s.conf t.trio.val = 2 then t.core.val else 0) n

/-- TSTART (R129): the lowest code of the conditions that hold. -/
def opTstart (c : Cx) (s : State) : OpEnd :=
  let n := c.a.toNat
  let k := peerKey s c.t n
  let code : Code :=
    if 7 < n then .range
    else if (s.thread k).st ≠ .stopped then .state
    else if bf c.b 0 2 ≠ 0 then .align else .ok
  let s1 := if code = .ok then s.setThread k { s.thread k with st := .running, pc := c.b, sr := 8, stopReq := false } else s
  c.put s1 (BitVec.ofNat 64 code.num)

/-- TSTOP (R129). -/
def opTstop (c : Cx) (s : State) : OpEnd :=
  let n := c.a.toNat
  if 7 < n then c.put s (BitVec.ofNat 64 Code.range.num)
  else if n = 0 then c.put s (BitVec.ofNat 64 Code.state.num)
  else if n = c.t.thr.val then .done s { c.th.setReg c.d.rd 0 with st := .stopped } none none
  else
    let k := peerKey s c.t n
    c.put (s.setThread k (s.thread k).stopAtBoundary) 0

/-- ERET and GRET (R147). Each check that fails leaves frame and g30 unchanged. One that stands at LE with the loop armed takes no loop step
(DESIGN CHOICE, log entry 118). -/
def opReturn (gate : Bool) (c : Cx) (s : State) : OpEnd :=
  let ring := c.th.ring
  let sp := c.th.g30of ring
  let acc : MAcc := ⟨none, sp.toNat, 64, 0, 1, false, true, ring, .read, none⟩
  match loadAcc c acc s with
  | .error f => f
  | .ok (d, s1) =>
    let q (i : Nat) : Nat := leNat ((d.drop (8 * i)).take 8)
    let img := q 1
    let bad (r : Nat) : OpEnd := .exc s1 ⟨0x09, sp, BitVec.ofNat 64 r⟩
    if nbit img 16 ≠ gate then bad 8
    else if nbits img 1 2 < ring then bad 9
    else if nbits img 9 7 ≠ 0 ∨ nbits img 19 45 ≠ 0 ∨ q 0 % 4 ≠ 0 then bad 10
    else
      let th0 := c.th.setG30 ring (sp + 64)
      let sr := setBits (nbits img 0 9) 8 1 (b2n c.th.la)
      let th := s1.holdCe { th0 with
        sr := BitVec.ofNat 64 sr, pl := BitVec.ofNat 64 (q 2), ph := BitVec.ofNat 64 (q 3)
        near := if nbit img 17 then some (BitVec.ofNat 128 (q 4 + q 5 * 2 ^ 64)) else none
        far := if nbit img 18 then some (BitVec.ofNat 128 (q 6 + q 7 * 2 ^ 64)) else none
        pc := BitVec.ofNat 64 (q 0) }
      .goto s1 th

/-- Halts the threads of a trio, or of one core in SPLIT, and taints the trio (R76, R77). -/
def haltCore (s : State) (n core : Nat) : State :=
  let keys := (List.range 8).map (threadKey n (if s.conf n = 2 then core else 0))
  let s1 := keys.foldl (fun a k => a.setThread k { a.thread k with halted := true }) s
  (s1.setFld (B.trio n) TRIO.STAT_TAINT 1).setFld (B.trio n) TRIO.TAINT_CAUSE_DEBUG_HALT 1

/-- Whether an authenticated debug session is unlocked (R127, R391). -/
def State.haltRight (s : State) : Bool := s.ycp.sess.cells.any (fun c => !c.2.pending && c.2.unlocked)

/-- BRK (R127, R76): halts after the BRK, or is an illegal opcode. One whose predicate is false is a no-op even without the right to halt
(DESIGN CHOICE, log entry 118). -/
def opBrk (c : Cx) (s : State) : OpEnd :=
  let n := c.t.trio.val
  if s.haltRight ∧ (s.mode = mCalico ∨ s.mode = mJersey) then
    .done (haltCore s n c.t.core.val) c.th none none
  else c.wordExc s 0x01

/-- GATE (R150-R152). At LE with the loop armed it takes no loop step (DESIGN CHOICE, log entry 105). -/
def opGate (c : Cx) (s : State) : OpEnd :=
  let i := c.d.fn
  let r := c.th.ring
  let bad (s' : State) (x : Nat) : OpEnd := .exc s' ⟨0x09, BitVec.ofNat 64 i, BitVec.ofNat 64 x⟩
  if s.fld B.intd INTD.GATE_LIMIT_N ≤ i then bad s 1
  else
    let pa := s.fld B.intd INTD.GATE_BASE_LO + s.fld B.intd INTD.GATE_BASE_HI * 2 ^ 32 + 16 * i
    match c.ld with
    | none => .wait s (.load c.w [(pa, 16)] 0 0 none)
    | some d =>
      let hi := leNat (d.drop 8)
      let target := nbits hi 1 2
      if nbits hi 6 58 ≠ 0 then bad s 3
      else if ¬ nbit hi 0 then bad s 4
      else if r > nbits hi 3 2 ∨ r ≤ target then bad s 5
      else .enter s (c.th.shiftProducts none)
        ⟨target, 0x40, BitVec.ofNat 64 (leNat (d.take 8)), BitVec.ofNat 64 (i + r * 65536), c.th.pc + 4, true, nbit hi 5⟩

/-! ### Coprocessors -/

/-- CRC steps of CP1 (R132). -/
def opCrc (c : Cx) (s : State) : OpEnd := c.put s (crcBytes c.d.fn (c.th.reg c.d.rd) (leBytes 8 c.a.toNat))

/-- An operand of the cryptographic operations: a linear address in the trio's local data half (R132; DEDUCED, log entry 16). -/
def Cx.cryptoAcc (c : Cx) (a : W64) (len : Nat) (wr : Bool) : MAcc :=
  ⟨none, a.toNat, len, if wr then 1 else 0, if wr then 3 else 1, false, true, c.th.ring, if wr then .write else .read, none⟩

/-- Lengths and alignments of the operands of R132: (rd length, ra length, alignment). -/
def cryptoShape : Nat → Nat × Nat × Nat
  | 8 => (64, 128, 64)
  | 9 => (16, 240, 16)
  | _ => (16, 16, 16)

def cryptoResult (fn : Nat) (x y : List Byte) : List Byte :=
  match fn with
  | 8 => (shaBlock ((List.range 8).map (fun i => BitVec.ofNat 64 (leNat ((x.drop (8 * i)).take 8)))) y).flatMap (fun w => leBytes 8 w.toNat)
  | 9 => aes256 x y
  | _ => ghashMul x y

/-- Checks an operand: its alignment, every piece by `check`, and that it lies in the data half. -/
def cryptoAt (c : Cx) (acc : MAcc) (al : Nat) (check : State → Except OpEnd (List (Nat × Nat) × State)) (s : State) :
    Except OpEnd (List (Nat × Nat) × State) :=
  let bad (s' : State) : OpEnd := .exc s' ⟨0x05, BitVec.ofNat 64 acc.off, segFinfo acc.access 0 1 c.th.ring⟩
  if acc.off % al ≠ 0 then .error (bad s)
  else match check s with
    | .error f => .error f
    | .ok (ps, s1) => if ps.all (fun p => s1.region p.1 == .locD c.t.trio.val) then .ok (ps, s1) else .error (bad s1)

/-- The pieces of both operands, the one that is replaced first. `now`: with the table reads made at once. -/
def cryptoOps (c : Cx) (now : Bool) (s : State) : Except OpEnd (List (Nat × Nat) × List (Nat × Nat) × State) :=
  let (n, m, al) := cryptoShape c.d.fn
  let x := c.cryptoAcc (c.th.reg c.d.rd) n true
  let y := c.cryptoAcc c.a m false
  match cryptoAt c x al (if now then x.checkNow blkFuel c else x.check c) s with
  | .error f => .error f
  | .ok (ps, s1) =>
    match cryptoAt c y al (if now then y.checkNow blkFuel c else y.check c) s1 with
    | .error f => .error f
    | .ok (qs, s2) => .ok (ps, qs, s2)

/-- Issue of a cryptographic operation: behind the thread's stores, with both operands checked. -/
def opCryptoIssue (c : Cx) (s : State) : OpEnd :=
  if ¬ (s.thread c.k).buf.isEmpty then .wait s (.drain c.w)
  else match cryptoOps c false s with
    | .error f => f
    | .ok (_, _, s1) => .wait s1 (.cop c.w)

/-- The result of a cryptographic operation, in place in local data SRAM; a full undo log forces a checkpoint first (R59). -/
def opCryptoResult (c : Cx) (s : State) : OpEnd :=
  let (n, m, _) := cryptoShape c.d.fn
  match cryptoOps c true s with
  | .error f => f
  | .ok (ps, qs, s1) =>
    let s2 := limitCheckpoint c.t.trio.val s1
    if ¬ s2.sameRun s1 then .keep s2
    else match (c.cryptoAcc (c.th.reg c.d.rd) n true).readNow c s2 ps with
      | .error f => f
      | .ok (x, s3) =>
        match (c.cryptoAcc c.a m false).readNow c s3 qs with
        | .error f => f
        | .ok (y, s4) =>
          .done ((cutData ps (cryptoResult c.d.fn x y)).foldl (fun a p => a.pokeLocal c.t.trio.val p.1 p.2) s4) c.th none none

/-- Flag words (R295): what FLGRD, FLGWR and FLGCLR leave; none for a reserved bit. -/
def flgNew (op : Nat) (old a : W64) : Option W64 :=
  match op with
  | 0x3C => some old
  | 0x3D => if bf a 3 5 ≠ 0 ∨ bf a 11 53 ≠ 0 then none else some a
  | _ => some (BitVec.ofNat 64 (setBits old.toNat 0 3 (bf old 0 3 - (bf old 0 3 &&& bf a 0 3))))

/-- AAU trap (R296). -/
def aauTrap (c : Cx) (s : State) (flags : Nat) (check flagword : Bool) : OpEnd :=
  .exc s ⟨0x0B, c.th.pc, BitVec.ofNat 64 (flags + 8 * b2n check + 16 * b2n flagword + 256 * c.d.fn + 16384 * b2n c.d.b)⟩

/-- The operands of a CP0 operation. -/
def Cx.aauArgs (c : Cx) : AauArgs :=
  Sys2Proof.Machine.aauArgs c.d.fn c.a (c.th.reg (c.d.ra + 1)) c.b (c.th.reg (c.d.rb + 1)) (c.th.reg (c.d.rb + 2))

/-- The trio's AAU checks an operation; its rotation moves on (R291). -/
def trioAau (n : Nat) (s : State) : State := s.setTrio n { s.trio n with rot := (s.trio n).rot + 1 }

/-- A CP0 operation completes (R295, R304): it counts, writes rd and leaves the flag word. -/
def aauDone (c : Cx) (s : State) (v fw : W64) : OpEnd :=
  .done (s.incWrap (B.trio c.t.trio.val) TRIO.AAU_OPS) { c.th.setReg c.d.rd v with aauFlags := fw } none none

/-- A CP0 result (R293-R299); `k`: what faults of the AAU change in its passes. -/
def opAauResult (k : AauCheck) (c : Cx) (s : State) : OpEnd :=
  let n := c.t.trio.val
  let b := B.trio n
  let fw := c.th.aauFlags
  if 0x3C ≤ c.d.fn then
    match flgNew c.d.fn fw c.a with
    | none => aauTrap c s 0 false true
    | some v => aauDone c s fw v
  else if s.flag b TRIO.AAU_STAT_FAILED then aauTrap c s 0 true false
  else
    let s0 := trioAau n s
    match aauChecked c.d.fn c.d.b c.aauArgs (s.trio n).rot (aauNext k).1 with
    | .failed =>
      let s1 := ((s0.incSat b TRIO.AAU_MISMATCH).setFld b TRIO.AAU_STAT_FAILED 1).setFld b TRIO.AAU_STAT_IN_SVC 0
      aauTrap c (s1.raiseUnit (16 + 12 * n + 8) 1 n) 0 true false
    | .ok r third =>
      let s1 := if third then ((s0.incSat b TRIO.AAU_MISMATCH).incSat b TRIO.AAU_THIRD).raiseUnit (16 + 12 * n + 7) 1 n else s0
      if (r.flags &&& bf fw 8 3) ≠ 0 then aauTrap c s1 r.flags false false
      else aauDone c s1 r.val (fw ||| BitVec.ofNat 64 r.flags)

/-- The queue that CP2 names; a number past 16 bits names none. -/
def Cx.queue (c : Cx) : BitVec 16 := BitVec.ofNat 16 (min c.a.toNat 65535)

/-- The entry of an append (R133, R251). -/
def Cx.entry (c : Cx) : RawEntry :=
  let x := c.th.reg (c.d.rb + 1)
  ⟨c.b, x.extractLsb' 0 16, x.extractLsb' 16 16, x.extractLsb' 32 32⟩

/-- APPEND (R133): posted through the store buffer. -/
def opAppend (c : Cx) (s : State) : OpEnd :=
  if 4 ≤ (s.thread c.k).buf.length then .wait s (.space c.w)
  else .done (s.pushBuf c.k (c.out s (.append c.queue c.entry))) c.th none none

/-- Issue of a CP2 operation that returns a value: behind the thread's stores; in PAIR after a checkpoint (R59, R133). -/
def opCp2Issue (c : Cx) (s : State) : OpEnd :=
  if s.conf c.t.trio.val = 1 then
    let s1 := checkpoint c.t.trio.val true s
    if s1.sameRun s then .wait s1 (.cop c.w) else .keep s1
  else if (s.thread c.k).buf.isEmpty then .wait s (.cop c.w)
  else .wait s (.drain c.w)

/-- Its result. -/
def opCp2Result (c : Cx) (s : State) : OpEnd :=
  let ring := c.th.ring
  let part := c.part s ring
  match c.d.row with
  | .appendS =>
    let (s1, code) := queueAppend (.core c.t ⟨ring % 4, Nat.mod_lt _ (by decide)⟩ ⟨part % 16, Nat.mod_lt _ (by decide)⟩) c.queue c.entry s
    c.put s1 (BitVec.ofNat 64 code.num)
  | .qstat =>
    let (v, s1) := queueStat c.a.toNat s
    c.put s1 v
  | _ =>
    let (v, s1) := queueSpace c.a.toNat s
    c.put s1 v

/-! ### Issue and completion -/

/-- The operation of a decoded instruction. -/
def opExec (c : Cx) (s : State) : OpEnd :=
  match c.d.row with
  | .alu => opAlu c s
  | .addi => opImm 0x00 c s
  | .andi => opImm 0x04 c s
  | .ori => opImm 0x05 c s
  | .xori => opImm 0x06 c s
  | .shi => opShi c s
  | .cmpi => opCmpi c s
  | .movw => opMovw c s
  | .mul => opMul true c s
  | .mulu => opMul false c s
  | .div => opDiv true false c s
  | .divu => opDiv false false c s
  | .rem => opDiv true true c s
  | .remu => opDiv false true c s
  | .mfs => opMfs c s
  | .mts => opMts c s
  | .cmpp => opCmp c.b c s
  | .cmppi => opCmp c.d.imm c s
  | .plogic => opPlogic c s
  | .br => opBr c s
  | .call => opCall (c.th.pc + c.d.imm) c s
  | .jmp => opJmp c s
  | .callr => opCall c.a c s
  | .ret => opRet c s
  | .loopReg => opLoop c.a c s
  | .loopi => opLoop (BitVec.ofNat 64 c.d.fn) c s
  | .load => opLoad false c s
  | .loadx => opLoad true c s
  | .loadxu => opLoad true c s
  | .store => opStore false c s
  | .storex => opStore true c s
  | .atom => opAtom c s
  | .blk => if c.b = 0 then .done s c.th none none else .wait s (.blk c.w none)
  | .sync => opSync c s
  | .syncTlb => opSyncTlb c s
  | .ici => opIci c s
  | .tlbi => opTlbi c s
  | .wait => opWait c s
  | .tstart => opTstart c s
  | .tstop => opTstop c s
  | .eret => opReturn false c s
  | .gret => opReturn true c s
  | .brk => opBrk c s
  | .endp => c.wordExc s 0x01
  | .gate => opGate c s
  | .aau => .wait s (.cop c.w)
  | .crc => opCrc c s
  | .crypto => opCryptoIssue c s
  | .append => opAppend c s
  | .appendS => opCp2Issue c s
  | .qstat => opCp2Issue c s
  | .qspace => opCp2Issue c s

/-- The ring at most of an instruction (R126, R127, R130). -/
def Dec.ringMax (d : Dec) : Nat :=
  match d.row with
  | .ici => 0
  | .tlbi => if d.fn ≤ 4 then 1 else 0
  | .tstart => 0
  | .tstop => 0
  | .mfs => srRing false d.fn
  | .mts => srRing true d.fn
  | _ => 3

/-- The loop step at the completion of the instruction at LE (R90, R91): the thread and the next address. `lc`, `la`: the instruction
wrote LC, or SR.LA; what it wrote holds from the next instruction on. With LC = 0 and the loop armed no rule gives an action: none is taken
(DESIGN CHOICE, log entry 105). -/
def loopStep (old new : Thread) (lc la : Bool) : Thread × W64 :=
  if old.la ∧ old.pc = old.le then
    if 1 < old.lc.toNat then (if lc then new else { new with lc := old.lc - 1 }, old.ls)
    else if old.lc = 1 then
      let th := if lc then new else { new with lc := 0 }
      (if la then th else th.setSr 8 1 0, old.pc + 4)
    else (new, old.pc + 4)
  else (new, old.pc + 4)

/-- The thread goes on at its pc, or stops there where that was asked for. -/
def goOn (s : State) (k : Nat) (th : Thread) : State := s.setThread k (th.land (s.thread k))

/-- Completion of an instruction: products move, the loop steps unless a branch was taken, the pc goes on. -/
def complete (s : State) (k : Nat) (old th : Thread) (prod : Option Product) (tgt : Option W64) : State :=
  let th1 := th.shiftProducts prod
  match tgt with
  | some a => goOn s k { th1 with pc := a }
  | none => let (th2, pc) := loopStep old th1 false false; goOn s k { th2 with pc := pc }

/-- Completion of a write of LC or SR. -/
def completeWrite (s : State) (k : Nat) (old th : Thread) (lc la : Bool) : State :=
  let (th1, pc) := loopStep old (th.shiftProducts none) lc la
  goOn s k { th1 with pc := pc }

/-- Applies the outcome of an instruction to the thread. -/
def settle (c : Cx) : OpEnd → State
  | .done s th prod tgt => complete s c.k c.th th prod tgt
  | .wrote s th lc la => completeWrite s c.k c.th th lc la
  | .goto s th => goOn s c.k th
  | .keep s => s
  | .exc s e => takeExc s c.t c.k c.th e
  | .wait s w => stall c s w
  | .enter s th r => enterRing s c.t c.k th r

/-- An entry that goes before the instruction of a thread: a pending store error or an eligible interrupt (R149, R158). -/
def State.entryFirst (s : State) (t : ThreadId) (th : Thread) : Bool := th.err.isSome || (s.eligibleIrq t th).isSome

/-- The outcome of an instruction that has stalled: an exception goes behind an entry that became pending meanwhile, and the thread stands
before the instruction. -/
def settleLate (c : Cx) (f : OpEnd) : State :=
  match f with
  | .exc s _ => if s.entryFirst c.t c.th then goOn s c.k c.th else settle c f
  | _ => settle c f

/-- A line into its set of four ways (R100): 256 sets; it becomes the newest, and the least recently used line of a full set leaves (DESIGN
CHOICE for the pseudo-LRU, log entry 11). -/
def fillLine (l : List Nat) (line : Nat) : List Nat :=
  let same := l.filter (fun x => x % 256 == line % 256 && x != line)
  let other := l.filter (fun x => x % 256 != line % 256)
  line :: (same.take 3 ++ other)

def State.setLines (s : State) (n : Nat) (l : List Nat) : State := s.setTrio n { s.trio n with lines := l }

/-- The lines that threads of a trio miss. -/
def State.misses (s : State) (n : Nat) : List Nat :=
  ((List.range 24).filterMap (fun i => match (s.thread (threadKey n (i / 8) (i % 8))).st with
    | .stalled (.fill _ line) => some line
    | .stalled _ | .running | .waiting | .stopped => none)).eraseDups

/-- The fetch of an instruction: an offset in seg0 in ring 3, else a linear address (R142). -/
def fetchAcc (th : Thread) : MAcc := ⟨if th.ring = 3 then some 0 else none, th.pc.toNat, 4, 2, 4, false, true, th.ring, .fetch, none⟩

/-- The fetch of the next instruction (R85, R100, R142, R166, R181): none when it may issue. A trio has four misses outstanding; a fifth
waits for one of them. -/
def fetchStop (c : Cx) (s : State) : Except OpEnd State :=
  let acc := fetchAcc c.th
  let n := c.t.trio.val
  if bf c.th.pc 0 2 ≠ 0 then .error (.exc s ⟨0x05, c.th.pc, segFinfo 2 0 4 c.th.ring⟩)
  else match acc.piece c s (acc.la c.th) 4 with
    | .error f => .error f
    | .ok (pa, s1) =>
      let line := pa / 64
      if (s1.region pa).isLocal then
        match s1.badAddr pa 4 with
        | some b => .error (acc.dataExc c s1 [(pa, 4)] b)
        | none => .ok s1
      else if (s1.trio n).lines.contains line then
        .ok (if (s1.trio n).lines.head? = some line then s1 else s1.setLines n (fillLine (s1.trio n).lines line))
      else if ¬ (s1.misses n).contains line ∧ 4 ≤ (s1.misses n).length then .error (.keep s1)
      else .error (.wait s1 (.fill c.w line))

/-- Runs an instruction word of a running thread: fetch, then the order of R109. -/
def coreRun (s : State) (t : ThreadId) (k : Nat) (th : Thread) (w : W32) (got : List (Nat × Option W64))
    (ld : Option (List Byte)) : State :=
  let c0 : Cx := ⟨t, k, th, w, ⟨.endp, 0, 0, 0, 0, 0, 0, 0, false⟩, got, ld⟩
  let f : OpEnd :=
    match (if ld.isSome then .ok s else fetchStop c0 s) with
    | .error f => f
    | .ok s1 =>
      match decodeOp w with
      | .illegal => c0.wordExc s1 0x01
      | .absent => if th.executes w then c0.wordExc s1 0x0A else .done s1 th none none
      | .ok d =>
        let c := { c0 with d := d }
        if d.row = .endp then c.wordExc s1 0x01
        else if ¬ th.executes w then .done s1 th none none
        else if d.ringMax < th.ring then c.wordExc s1 0x02
        else opExec c s1
  if ld.isSome then settleLate c0 f else settle c0 f

/-- Whether software of a trio may issue: its page enabled, the trio not lost or held in test, and a mode that runs software. -/
def State.trioRuns (s : State) (n : Nat) : Bool :=
  s.pgEnabled (0x100 + n) && !(s.trio n).lost && s.mode != mGauze && s.mode != mVelvet

/-- The thread as it may issue now: Running, or Waiting with an interrupt routed to it pending (R80, R82, R128). A pending store error and an
eligible interrupt go first (R149), and a frame that the store buffer has not yet taken (R104). -/
def State.issuing (s : State) (t : ThreadId) : Option Thread :=
  let th := s.thread (s.tkey t)
  if ¬ s.trioRuns t.trio.val ∨ th.halted ∨ th.err.isSome ∨ (s.eligibleIrq t th).isSome ∨ 4 < th.buf.length then none
  else match th.st with
    | .running => some th
    | .waiting => if s.irqForThread t then some { th with st := .running } else none
    | .stopped => none
    | .stalled _ => none

/-- A core instruction row: the thread issues word `w`, which must spell the row (log entry 17). -/
def coreRow (p : Dec → Bool) (t : ThreadId) (w : W32) (s : State) : State :=
  match s.issuing t with
  | none => s
  | some th =>
    match decodeOp w with
    | .ok d => if p d then coreRun s t (s.tkey t) th w [] none else s
    | .illegal => coreRun s t (s.tkey t) th w [] none
    | .absent => coreRun s t (s.tkey t) th w [] none

end Sys2Proof.Machine
end

