-- ==== Sys2Proof/Machine/CoreRows.lean ====
section
/-! DEFINITION. The core instruction rows: a thread issues a word that spells the row. What the word does is `opExec` (Barrel.lean). -/
namespace Sys2Proof.Machine

/-- The outcome of a command of this model: every one leaves a next state. -/
abbrev Res := Host.Outcome State Fault Refusal

def execAlu (t : ThreadId) (w : W32) (s : State) : Res := .next (coreRow (fun d => d.row == .alu) t w s)
def execAddi (t : ThreadId) (w : W32) (s : State) : Res := .next (coreRow (fun d => d.row == .addi) t w s)
def execAndi (t : ThreadId) (w : W32) (s : State) : Res := .next (coreRow (fun d => d.row == .andi) t w s)
def execOri (t : ThreadId) (w : W32) (s : State) : Res := .next (coreRow (fun d => d.row == .ori) t w s)
def execXori (t : ThreadId) (w : W32) (s : State) : Res := .next (coreRow (fun d => d.row == .xori) t w s)
def execShi (t : ThreadId) (w : W32) (s : State) : Res := .next (coreRow (fun d => d.row == .shi) t w s)
def execCmpi (t : ThreadId) (w : W32) (s : State) : Res := .next (coreRow (fun d => d.row == .cmpi) t w s)
def execMovw (t : ThreadId) (w : W32) (s : State) : Res := .next (coreRow (fun d => d.row == .movw) t w s)
def execMul (t : ThreadId) (w : W32) (s : State) : Res := .next (coreRow (fun d => d.row == .mul) t w s)
def execMulu (t : ThreadId) (w : W32) (s : State) : Res := .next (coreRow (fun d => d.row == .mulu) t w s)
def execDiv (t : ThreadId) (w : W32) (s : State) : Res := .next (coreRow (fun d => d.row == .div) t w s)
def execDivu (t : ThreadId) (w : W32) (s : State) : Res := .next (coreRow (fun d => d.row == .divu) t w s)
def execRem (t : ThreadId) (w : W32) (s : State) : Res := .next (coreRow (fun d => d.row == .rem) t w s)
def execRemu (t : ThreadId) (w : W32) (s : State) : Res := .next (coreRow (fun d => d.row == .remu) t w s)
def execMfs (t : ThreadId) (w : W32) (s : State) : Res := .next (coreRow (fun d => d.row == .mfs) t w s)
def execMts (t : ThreadId) (w : W32) (s : State) : Res := .next (coreRow (fun d => d.row == .mts) t w s)
def execCmpp (t : ThreadId) (w : W32) (s : State) : Res := .next (coreRow (fun d => d.row == .cmpp) t w s)
def execCmppi (t : ThreadId) (w : W32) (s : State) : Res := .next (coreRow (fun d => d.row == .cmppi) t w s)
def execPlogic (t : ThreadId) (w : W32) (s : State) : Res := .next (coreRow (fun d => d.row == .plogic) t w s)
def execBr (t : ThreadId) (w : W32) (s : State) : Res := .next (coreRow (fun d => d.row == .br) t w s)
def execCall (t : ThreadId) (w : W32) (s : State) : Res := .next (coreRow (fun d => d.row == .call) t w s)
def execJmp (t : ThreadId) (w : W32) (s : State) : Res := .next (coreRow (fun d => d.row == .jmp) t w s)
def execCallr (t : ThreadId) (w : W32) (s : State) : Res := .next (coreRow (fun d => d.row == .callr) t w s)
def execRet (t : ThreadId) (w : W32) (s : State) : Res := .next (coreRow (fun d => d.row == .ret) t w s)
def execLoopReg (t : ThreadId) (w : W32) (s : State) : Res := .next (coreRow (fun d => d.row == .loopReg) t w s)
def execLoopi (t : ThreadId) (w : W32) (s : State) : Res := .next (coreRow (fun d => d.row == .loopi) t w s)
def execLdb (t : ThreadId) (w : W32) (s : State) : Res := .next (coreRow (fun d => d.row == .load && d.sz == 0 && d.b) t w s)
def execLdbu (t : ThreadId) (w : W32) (s : State) : Res := .next (coreRow (fun d => d.row == .load && d.sz == 0 && !d.b) t w s)
def execLdh (t : ThreadId) (w : W32) (s : State) : Res := .next (coreRow (fun d => d.row == .load && d.sz == 1 && d.b) t w s)
def execLdhu (t : ThreadId) (w : W32) (s : State) : Res := .next (coreRow (fun d => d.row == .load && d.sz == 1 && !d.b) t w s)
def execLdw (t : ThreadId) (w : W32) (s : State) : Res := .next (coreRow (fun d => d.row == .load && d.sz == 2 && d.b) t w s)
def execLdwu (t : ThreadId) (w : W32) (s : State) : Res := .next (coreRow (fun d => d.row == .load && d.sz == 2 && !d.b) t w s)
def execLdd (t : ThreadId) (w : W32) (s : State) : Res := .next (coreRow (fun d => d.row == .load && d.sz == 3) t w s)
def execLdx (t : ThreadId) (w : W32) (s : State) : Res := .next (coreRow (fun d => d.row == .loadx) t w s)
def execLdxu (t : ThreadId) (w : W32) (s : State) : Res := .next (coreRow (fun d => d.row == .loadxu) t w s)
def execStb (t : ThreadId) (w : W32) (s : State) : Res := .next (coreRow (fun d => d.row == .store && d.sz == 0) t w s)
def execSth (t : ThreadId) (w : W32) (s : State) : Res := .next (coreRow (fun d => d.row == .store && d.sz == 1) t w s)
def execStw (t : ThreadId) (w : W32) (s : State) : Res := .next (coreRow (fun d => d.row == .store && d.sz == 2) t w s)
def execStd (t : ThreadId) (w : W32) (s : State) : Res := .next (coreRow (fun d => d.row == .store && d.sz == 3) t w s)
def execStx (t : ThreadId) (w : W32) (s : State) : Res := .next (coreRow (fun d => d.row == .storex) t w s)
def execAtomSwap (t : ThreadId) (w : W32) (s : State) : Res := .next (coreRow (fun d => d.row == .atom && d.fn == 0) t w s)
def execAtomFadd (t : ThreadId) (w : W32) (s : State) : Res := .next (coreRow (fun d => d.row == .atom && d.fn == 1) t w s)
def execAtomCas (t : ThreadId) (w : W32) (s : State) : Res := .next (coreRow (fun d => d.row == .atom && d.fn == 2) t w s)
def execAtomFor (t : ThreadId) (w : W32) (s : State) : Res := .next (coreRow (fun d => d.row == .atom && d.fn == 3) t w s)
def execBlkcopy (t : ThreadId) (w : W32) (s : State) : Res := .next (coreRow (fun d => d.row == .blk && d.fn == 0) t w s)
def execBlkfill (t : ThreadId) (w : W32) (s : State) : Res := .next (coreRow (fun d => d.row == .blk && d.fn == 1) t w s)
def execCrcr32 (t : ThreadId) (w : W32) (s : State) : Res := .next (coreRow (fun d => d.row == .blk && d.fn == 2) t w s)
def execCrcr32c (t : ThreadId) (w : W32) (s : State) : Res := .next (coreRow (fun d => d.row == .blk && d.fn == 3) t w s)
def execCrcr64 (t : ThreadId) (w : W32) (s : State) : Res := .next (coreRow (fun d => d.row == .blk && d.fn == 4) t w s)
def execSync (t : ThreadId) (w : W32) (s : State) : Res := .next (coreRow (fun d => d.row == .sync) t w s)
def execSyncTlb (t : ThreadId) (w : W32) (s : State) : Res := .next (coreRow (fun d => d.row == .syncTlb) t w s)
def execIci (t : ThreadId) (w : W32) (s : State) : Res := .next (coreRow (fun d => d.row == .ici) t w s)
def execTlbiAll1 (t : ThreadId) (w : W32) (s : State) : Res := .next (coreRow (fun d => d.row == .tlbi && d.fn == 3) t w s)
def execTlbiVa1 (t : ThreadId) (w : W32) (s : State) : Res := .next (coreRow (fun d => d.row == .tlbi && d.fn == 4) t w s)
def execTlbiIpa2 (t : ThreadId) (w : W32) (s : State) : Res := .next (coreRow (fun d => d.row == .tlbi && d.fn == 5) t w s)
def execTlbiAll (t : ThreadId) (w : W32) (s : State) : Res := .next (coreRow (fun d => d.row == .tlbi && d.fn == 6) t w s)
def execWaitIntr (t : ThreadId) (w : W32) (s : State) : Res := .next (coreRow (fun d => d.row == .wait) t w s)
def execTstart (t : ThreadId) (w : W32) (s : State) : Res := .next (coreRow (fun d => d.row == .tstart) t w s)
def execTstop (t : ThreadId) (w : W32) (s : State) : Res := .next (coreRow (fun d => d.row == .tstop) t w s)
def execEret (t : ThreadId) (w : W32) (s : State) : Res := .next (coreRow (fun d => d.row == .eret) t w s)
def execGret (t : ThreadId) (w : W32) (s : State) : Res := .next (coreRow (fun d => d.row == .gret) t w s)
def execBrk (t : ThreadId) (w : W32) (s : State) : Res := .next (coreRow (fun d => d.row == .brk) t w s)
def execEndProgram (t : ThreadId) (w : W32) (s : State) : Res := .next (coreRow (fun d => d.row == .endp) t w s)
def execGate (t : ThreadId) (w : W32) (s : State) : Res := .next (coreRow (fun d => d.row == .gate) t w s)
def execAdiff (t : ThreadId) (w : W32) (s : State) : Res := .next (coreRow (fun d => d.row == .aau && d.fn == 0x00) t w s)
def execAadd (t : ThreadId) (w : W32) (s : State) : Res := .next (coreRow (fun d => d.row == .aau && d.fn == 0x01) t w s)
def execTadd (t : ThreadId) (w : W32) (s : State) : Res := .next (coreRow (fun d => d.row == .aau && d.fn == 0x02) t w s)
def execTdiff (t : ThreadId) (w : W32) (s : State) : Res := .next (coreRow (fun d => d.row == .aau && d.fn == 0x03) t w s)
def execTsubl (t : ThreadId) (w : W32) (s : State) : Res := .next (coreRow (fun d => d.row == .aau && d.fn == 0x04) t w s)
def execMulsh (t : ThreadId) (w : W32) (s : State) : Res := .next (coreRow (fun d => d.row == .aau && d.fn == 0x08) t w s)
def execMuluh (t : ThreadId) (w : W32) (s : State) : Res := .next (coreRow (fun d => d.row == .aau && d.fn == 0x09) t w s)
def execDivsh (t : ThreadId) (w : W32) (s : State) : Res := .next (coreRow (fun d => d.row == .aau && d.fn == 0x0A) t w s)
def execDivuh (t : ThreadId) (w : W32) (s : State) : Res := .next (coreRow (fun d => d.row == .aau && d.fn == 0x0B) t w s)
def execPred (t : ThreadId) (w : W32) (s : State) : Res := .next (coreRow (fun d => d.row == .aau && d.fn == 0x10) t w s)
def execInvpred (t : ThreadId) (w : W32) (s : State) : Res := .next (coreRow (fun d => d.row == .aau && d.fn == 0x11) t w s)
def execLatm (t : ThreadId) (w : W32) (s : State) : Res := .next (coreRow (fun d => d.row == .aau && d.fn == 0x12) t w s)
def execAgeupd (t : ThreadId) (w : W32) (s : State) : Res := .next (coreRow (fun d => d.row == .aau && d.fn == 0x13) t w s)
def execFlgrd (t : ThreadId) (w : W32) (s : State) : Res := .next (coreRow (fun d => d.row == .aau && d.fn == 0x3C) t w s)
def execFlgwr (t : ThreadId) (w : W32) (s : State) : Res := .next (coreRow (fun d => d.row == .aau && d.fn == 0x3D) t w s)
def execFlgclr (t : ThreadId) (w : W32) (s : State) : Res := .next (coreRow (fun d => d.row == .aau && d.fn == 0x3E) t w s)
def execCrc32 (t : ThreadId) (w : W32) (s : State) : Res := .next (coreRow (fun d => d.row == .crc && d.fn == 0) t w s)
def execCrc32c (t : ThreadId) (w : W32) (s : State) : Res := .next (coreRow (fun d => d.row == .crc && d.fn == 1) t w s)
def execCrc64 (t : ThreadId) (w : W32) (s : State) : Res := .next (coreRow (fun d => d.row == .crc && d.fn == 2) t w s)
def execSha384Blk (t : ThreadId) (w : W32) (s : State) : Res := .next (coreRow (fun d => d.row == .crypto && d.fn == 8) t w s)
def execAes256Enc (t : ThreadId) (w : W32) (s : State) : Res := .next (coreRow (fun d => d.row == .crypto && d.fn == 9) t w s)
def execGhashMul (t : ThreadId) (w : W32) (s : State) : Res := .next (coreRow (fun d => d.row == .crypto && d.fn == 10) t w s)
def execAppend (t : ThreadId) (w : W32) (s : State) : Res := .next (coreRow (fun d => d.row == .append) t w s)
def execAppendS (t : ThreadId) (w : W32) (s : State) : Res := .next (coreRow (fun d => d.row == .appendS) t w s)
def execQstat (t : ThreadId) (w : W32) (s : State) : Res := .next (coreRow (fun d => d.row == .qstat) t w s)
def execQspace (t : ThreadId) (w : W32) (s : State) : Res := .next (coreRow (fun d => d.row == .qspace) t w s)

end Sys2Proof.Machine
end

