-- ==== Sys2Proof/Machine/CoreEvents.lean ====
section
/-! DEFINITION. What reaches a core from outside its instruction stream: load data, performed stores, fills, table reads, block
chunks, coprocessor results, interrupts, store errors, TLBI completion and time-outs (R93-R97, R100-R104, R158, R184, R189). -/
namespace Sys2Proof.Machine

/-- The thread of an event, running again. -/
def Thread.awake (th : Thread) : Thread := { th with st := .running }

/-- Modes that hold SR.CE at 1 take effect on a stalled thread once its instruction has ended (R108). -/
def ceEnd (k : Nat) (s : State) : State :=
  let th := s.thread k
  match th.st with
  | .stalled _ => s
  | .running | .waiting | .stopped => s.setThread k (s.holdCe th)

/-- The instruction of a stalled thread issues again; `ld`: it completes. A halted thread stands before it, and one with an entry to take takes
that first (R82, R103, R149). -/
def reIssue (t : ThreadId) (w : W32) (got : List (Nat × Option W64)) (ld : Option (List Byte)) (s : State) : State :=
  let k := s.tkey t
  let th := (s.thread k).awake
  ceEnd k (if th.halted ∨ s.entryFirst t th then goOn s k th else coreRun s t k th w got ld)

def reRun (t : ThreadId) (w : W32) (got : List (Nat × Option W64)) (s : State) : State := reIssue t w got none s

/-- The exception that ends a stall; a pending entry goes first (R149, R158). -/
def stallExc (t : ThreadId) (e : Exc) (s : State) : State :=
  let k := s.tkey t
  let th := (s.thread k).awake
  ceEnd k (if s.entryFirst t th then goOn s k th else takeExc s t k th e)

/-! ### Loads -/

/-- An access held for the read of a thread, by its key. -/
def HeldAcc.readOf (s : State) (p : Nat → Bool) : HeldAcc → Bool
  | .read t => p (s.tkey t)
  | .write _ _ => false
  | .rawTx _ _ => false
  | .ycp _ _ _ _ _ => false

/-- A trio in PAIR holds the access until its next commit (R60). -/
def heldRead (s : State) (t : ThreadId) : Bool := (List.range 13).any (fun m => (s.trio m).held.any (HeldAcc.readOf s (· == s.tkey t)))

/-- Trios hold the reads of some threads no more. -/
def dropReads (p : Nat → Bool) (s : State) : State :=
  (List.range 13).foldl (fun a m =>
    if (a.trio m).held.any (HeldAcc.readOf s p) then a.setTrio m { a.trio m with held := (a.trio m).held.filter (fun h => !h.readOf s p) } else a) s

def unhold (t : ThreadId) (s : State) : State := dropReads (· == s.tkey t) s

/-- Whether a word makes a checkpoint pair in PAIR: a device load or an atomic outside the trio's own SRAM (R59, R124). -/
def wantsCheckpoint (s : State) (t : ThreadId) (w : W32) (pa : Nat) : Bool :=
  s.region pa == .regs ||
    (match decodeOp w with
     | .ok d => d.row == .atom && (s.region pa).trio? != some t.trio.val
     | .illegal => false
     | .absent => false)

/-- The exception of a failed access: an error on a gate table read is reason 2 of GATE (R151). -/
def loadFails (w : W32) (la fin : W64) (e : BusResult) : Exc :=
  match decodeOp w with
  | .ok d => if d.row = .gate then ⟨0x09, BitVec.ofNat 64 d.fn, 2⟩ else busExc la fin e
  | .illegal => busExc la fin e
  | .absent => busExc la fin e

/-- The data of an access of a stalled thread: the data a commit already performed, a register read, or memory (R101). -/
def loadData (s : State) (t : ThreadId) (th : Thread) (w : W32) (ps : List (Nat × Nat)) (data : Option (List Byte)) : List Byte × State :=
  match data with
  | some d => (d, s)
  | none =>
    let p := ps.headD (0, 0)
    if s.region p.1 = .regs then
      let ring : Fin 4 := ⟨th.ring % 4, Nat.mod_lt _ (by decide)⟩
      let (v, s1) := pageRead ⟨ring, false, t⟩ p.1 (widthOf p.2) s
      (leBytes p.2 v.toNat, s1)
    else performLoad s th w ps

/-- Where an access fails: in its second piece or its first, there at the lowest word that holds an uncorrectable error, or else its first
byte. -/
def failAddr (s : State) (ps : List (Nat × Nat)) (e : BusResult) : Nat :=
  match e with
  | .upper .data | .upper .mismatch => (s.badOf (ps.drop 1)).getD (ps.getLastD (0, 0)).1
  | .upper _ => (ps.getLastD (0, 0)).1
  | .data | .mismatch => (s.badOf (ps.take 1)).getD (ps.headD (0, 0)).1
  | .ok | .corrected | .parity | .outOfService | .timeout => (ps.headD (0, 0)).1

/-- The result of a read: a word that holds an uncorrectable error makes its half fail, and the lower half that fails is reported (R181,
R198). -/
def withBad (s : State) (ps : List (Nat × Nat)) (e : BusResult) : BusResult :=
  if busFails e ∧ ¬ busUpper e then e
  else if (s.badOf (ps.take 1)).isSome then .data
  else if busUpper e then e
  else if (s.badOf (ps.drop 1)).isSome then .upper .data
  else e

/-- Whether a fabric access of a thread still waits for an earlier store of it: one that it overlaps, and every one where it is a device load
or an atomic (R59, R195, R196). -/
def storesAhead (s : State) (t : ThreadId) (w : W32) (ps : List (Nat × Nat)) : Bool :=
  let own := pendingStores s t (s.tkey t)
  own.any (fun o => touches o.what.pieces ps) || (wantsCheckpoint s t w (ps.headD (0, 0)).1 && !own.isEmpty)

def loadArrives (t : ThreadId) (e0 : BusResult) (s : State) : State :=
  let k := s.tkey t
  let th := s.thread k
  match th.st with
  | .stalled (.load w ps la fin data) =>
    if (s.trio t.trio.val).lost ∨ (data.isNone ∧ ((heldRead s t ∧ e0 ≠ .timeout) ∨ storesAhead s t w ps)) then s
    else
      let e := withBad s ps e0
      let pa := failAddr s ps e
      let s1 := s.busErr pa (masterOf t th.ring) (recAccess (bf fin 0 3)) e
      if busFails e then
        let (la1, fin1) := errAt la fin ps pa
        stallExc t (loadFails w la1 fin1 e) (unhold t s1)
      else
        let (d, s2) := loadData s1 t th w ps data
        let s3 := ceEnd k (coreRun s2 t k th.awake w [] (some d))
        if wantsCheckpoint s t w (ps.headD (0, 0)).1 then earlyCheckpoint t.trio.val s3 else s3
  | .stalled _ => s
  | .running => s
  | .waiting => s
  | .stopped => s

def execLoadDataArrival (t : ThreadId) (e : BusResult) (s : State) : Res := .next (loadArrives t e s)

/-! ### Stores -/

/-- Lets a thread go on that waits for buffer space, for its stores, or in SYNC. -/
def wakeStores (t : ThreadId) (s : State) : State :=
  let th := s.thread (s.tkey t)
  match th.st with
  | .stalled (.space w) => if th.buf.length < 4 then reRun t w [] s else s
  | .stalled (.drain w) => if (pendingStores s t (s.tkey t)).isEmpty then reRun t w [] s else s
  | .stalled (.sync w) => if (pendingStores s t (s.tkey t)).isEmpty then reIssue t w [] (some []) s else s
  | .stalled _ => s
  | .running => s
  | .waiting => s
  | .stopped => s

/-- A store fails: its upper half alone (the lower one is performed), or as a whole (DESIGN CHOICE for a failing lower half, log entry 106).
The error is held at the thread (R158, R197). -/
def storeFails (t : ThreadId) (o : OutEnt) (e : BusResult) (s : State) : State :=
  let ps := o.what.pieces
  let up := busUpper e
  let pa := ((if up then ps.getLastD (0, []) else ps.headD (0, []))).1
  let s1 := s.busErr pa (masterOf t o.ring.val) 2 e
  let s2 := if up then (ps.take (ps.length - 1)).foldl (performPiece o) s1 else s1
  let k := s2.tkey t
  s2.setThread k ((s2.thread k).storeError pa (storeKind e) (log2size (ps.foldl (fun n x => n + x.2.length) 0)))

/-- Performs the oldest output of a thread, or passes it on in PAIR (R58, R60, R99, R196, R199). Committed outputs that had to wait go first, and
what a trio made since it left PAIR goes behind them (R72). -/
def storePerforms (t : ThreadId) (e : BusResult) (s0 : State) : State :=
  let n := t.trio.val
  let s := limitCheckpoint n (releaseCommit (s0.trio n).commit.length n s0)
  let k := s.tkey t
  let th := s.thread k
  if (s0.trio n).lost ∨ ¬ s.sameRun s0 then s
  else if s.conf n ≠ 1 ∧ ¬ (s.trio n).commit.isEmpty then wakeStores t s
  else match th.buf with
  | [] => wakeStores t s
  | o :: rest =>
    let s1 := s.setThread k { th with buf := rest }
    if s.conf n = 1 ∧ ¬ o.isLocal s then wakeStores t (pairOut s1 n o)
    else match holdingTrio s t o with
      | some m =>
        if o.held ∨ s.atQuota n 9999 then s
        else holdAt m t o (s.setThread k { th with buf := { o with held := true } :: rest })
      | none =>
        if ¬ o.isLocal s ∧ s.atQuota n 9999 then s
        else if busFails e then wakeStores t (storeFails t o e s1)
        else wakeStores t (performOut (s1.busErr (o.what.pieces.headD (0, [])).1 (masterOf t o.ring.val) 2 e) o)

def execStorePerformed (t : ThreadId) (e : BusResult) (s : State) : Res := .next (storePerforms t e s)

/-- R158. -/
def execStoreErrorReport (t : ThreadId) (addr : BitVec 40) (kind : StoreErr) (log2size : Fin 4) (s : State) : Res :=
  let k := s.tkey t
  let s1 := s.busErr addr.toNat (masterOf t (s.thread k).ring) 2 (StoreErr.bus kind)
  .next (if (s.trio t.trio.val).lost ∨ s.gated then s
    else s1.setThread k ((s1.thread k).storeError addr.toNat (storeKind (StoreErr.bus kind)) log2size.val))

/-! ### Boundaries: interrupts and asynchronous store errors -/

/-- Whether the thread stands at an instruction boundary where an asynchronous entry can be taken (R103), with room for its frame (R104). -/
def State.atBoundary (s : State) (t : ThreadId) (th : Thread) : Bool :=
  s.trioRuns t.trio.val && !th.halted && decide (th.buf.length ≤ 4) &&
    (match th.st with
     | .running => true
     | .waiting => true
     | .stopped => false
     | .stalled w => match w with
       | .load .. => false
       | .cop .. => false
       | .walk .. => true
       | .fill .. => true
       | .space .. => true
       | .drain .. => true
       | .sync .. => true
       | .syncTlb .. => true
       | .blk .. => true)

/-- R104, R160: the eligible interrupt is taken; a pending asynchronous store error goes first (R149). -/
def execInterruptEntry (t : ThreadId) (s : State) : Res :=
  let k := s.tkey t
  let th := s.thread k
  .next (match s.eligibleIrq t th with
    | some n => if s.atBoundary t th && th.err.isNone then takeIrq s t k th.awake n else s
    | none => s)

/-- R158: ring 0, cause 0x10, the next instruction as return address. -/
def execAsyncStoreErrorEntry (t : ThreadId) (s : State) : Res :=
  let k := s.tkey t
  let th := s.thread k
  .next (match th.err with
    | some e =>
      if s.atBoundary t th then
        enterRing s t k th.awake
          ⟨0, 0x10, BitVec.ofNat 64 e.addr.toNat, BitVec.ofNat 64 (e.info.toNat + e.more.toNat * 65536), th.pc, false, false⟩
      else s
    | none => s)

/-! ### Instruction cache and table walks -/

/-- FINFO of a fetch that met a bus error. -/
def fetchFin (th : Thread) (pa : Nat) : W64 := BitVec.ofNat 64 (2 + 2048 + th.ring * 1048576 + pa * 16777216)

/-- A line arrives. A word of it that holds an uncorrectable error fails the fetch, whichever word it is (DESIGN CHOICE, log entry 118). -/
def icacheFills (t : ThreadId) (e0 : BusResult) (s : State) : State :=
  let k := s.tkey t
  let th := s.thread k
  let n := t.trio.val
  match th.st with
  | .stalled (.fill w line) =>
    let e := withBad s [(line * 64, 64)] e0
    let pa := line * 64 + bf th.pc 0 6
    if (s.trio n).lost then s
    else
      let s1 := s.busErr (match e with | .data | .mismatch => (s.badOf [(line * 64, 64)]).getD pa | _ => pa) (masterOf t th.ring) 3 e
      if busFails e then stallExc t (busExc th.pc (fetchFin th pa) e) s1
      else reRun t w [] (s1.setLines n (fillLine (s1.trio n).lines line))
  | .stalled _ => s
  | .running => s
  | .waiting => s
  | .stopped => s

def execIcacheFill (t : ThreadId) (e : BusResult) (s : State) : Res := .next (icacheFills t e s)

def walkReads (t : ThreadId) (e0 : BusResult) (s : State) : State :=
  let k := s.tkey t
  let th := s.thread k
  match th.st with
  | .stalled (.walk w next got) =>
    let e := withBad s [(next, 8)] e0
    if (s.trio t.trio.val).lost then s
    else
      let s1 := s.busErr next (masterOf t th.ring) recWalk e
      reRun t w (got ++ [(next, if busFails e || s.outOfService next then none else some (BitVec.ofNat 64 (leNat (s.readMem next 8))))]) s1
  | .stalled _ => s
  | .running => s
  | .waiting => s
  | .stopped => s

def execTableWalkRead (t : ThreadId) (e : BusResult) (s : State) : Res := .next (walkReads t e s)

/-! ### Coprocessor results -/

/-- A coprocessor answers. A CP2 operation acts behind the thread's earlier outputs (R133). -/
def copResult (t : ThreadId) (a : AauCheck) (s : State) : State :=
  let k := s.tkey t
  let th := s.thread k
  match th.st with
  | .stalled (.cop w) =>
    match decodeOp w with
    | .ok d =>
      let c : Cx := ⟨t, k, th.awake, w, d, [], none⟩
      if (s.trio t.trio.val).lost then s
      else match d.row with
        | .aau => ceEnd k (settleLate c (opAauResult a c s))
        | .crypto => ceEnd k (settleLate c (opCryptoResult c s))
        | _ =>
          if (pendingStores s t k).isEmpty then earlyCheckpoint t.trio.val (ceEnd k (settle c (opCp2Result c s))) else s
    | .illegal => s
    | .absent => s
  | .stalled _ => s
  | .running => s
  | .waiting => s
  | .stopped => s

def execCoprocessorResult (t : ThreadId) (a : AauCheck) (s : State) : Res := .next (copResult t a s)

/-! ### Block instructions -/

/-- A byte as the thread's own stores leave it. -/
def overlay (l : List (Nat × List Byte)) (f : Nat → Byte) (a : Nat) : Byte :=
  match (l.filter (fun x => overlaps a 1 x.1 x.2.length)).getLast? with
  | some (b, d) => d.getD (a - b) 0
  | none => f a

/-- The bytes a block unit reads: own local SRAM and stores as they stand, another trio's window as it committed (R60). -/
def blkBytes (s : State) (t : ThreadId) (k : Nat) (ps : List (Nat × Nat)) : List Byte :=
  let f (a : Nat) : Byte := if (s.region a).trio? = some t.trio.val then s.byteAt a else s.committedByte a
  ps.flatMap (fun p => bytesFrom (overlay ((pendingStores s t k).flatMap (·.what.pieces)) f) p.1 p.2)

/-- The bytes from an offset to the next 64-byte boundary, at most `n`. -/
def upTo64 (a n : Nat) : Nat := min n (64 - a % 64)

/-- The chunk of R93: offset of the destination or source start, and length, for an ascending or descending run. -/
def chunkDown (gd gn : Nat) : Nat × Nat :=
  let e := gd + gn
  let b := max gd ((e - 1) / 64 * 64)
  (b, e - b)

/-- The fill pattern: byte (a mod 8) of gv at each address. -/
def fillBytes (v : W64) (a n : Nat) : List Byte := bytesFrom (fun x => BitVec.ofNat 8 (bf v (8 * (x % 8)) 8)) a n

/-- The thread with its operands advanced by a chunk of `n` bytes. -/
def blkAdvance (c : Cx) (moved down : Bool) (n : Nat) : Thread :=
  let x : W64 := BitVec.ofNat 64 n
  let th1 := c.th.setReg c.d.rb (c.b - x)
  if down then th1
  else
    let th2 := th1.setReg c.d.rd (c.th.reg c.d.rd + (if c.d.fn ≤ 1 then x else 0))
    if moved then th2.setReg c.d.ra (c.a + x) else th2

/-- Segment of a block instruction's accesses: seg2, the data segment (DEDUCED, log entry 18). -/
def blkSeg : Nat := 2

/-- A source read, checked; an error ends it as a load's does (R95, R97). A read that a trio in PAIR holds waits for its commit once
(`waited`; R60). -/
def blkRead (c : Cx) (off n : Nat) (e0 : BusResult) (waited : Bool) (s : State) : Except OpEnd (List Byte × State) :=
  let acc := c.acc blkSeg off n 4 1 .read
  match acc.checkNow blkFuel c s with
  | .error f => .error f
  | .ok (ps, s1) =>
    match (if waited then none else ps.find? (fun p => (s1.holder (some c.t.trio.val) p.1).isSome)) with
    | some p => .error (.wait s1 (.blk c.w (some p.1)))
    | none =>
      let e := withBad s1 ps e0
      let pa := failAddr s1 ps e
      let s2 := s1.busErr pa (masterOf c.t c.th.ring) (recAccess 4) e
      if ¬ ownLocal s1 c.t ps ∧ s1.atQuota c.t.trio.val c.k then .error (.keep s1)
      else if busFails e then
        let (la, fin) := acc.errBase c s2 ps
        let (la1, fin1) := errAt la fin ps pa
        .error (.exc s2 (busExc la1 fin1 e))
      else .ok (blkBytes s2 c.t c.k ps, s2)

/-- A checked write through the store buffer; a full share leaves the chunk for later (R94, R99). -/
def blkWrite (c : Cx) (off : Nat) (d : List Byte) (s : State) : Except OpEnd State :=
  let acc := c.acc blkSeg off d.length 5 2 .write
  match acc.checkNow blkFuel c s with
  | .error f => .error f
  | .ok (ps, s1) =>
    if 4 ≤ (s1.thread c.k).buf.length then .error (.wait s1 (.blk c.w none))
    else .ok (s1.pushBuf c.k (c.out s1 (.store (acc.la c.th) (cutData ps d))))

/-- The end of a chunk: the instruction completes when gn reaches 0, else the block unit goes on with the next one. -/
def blkEnd (c : Cx) (th : Thread) (s : State) : OpEnd :=
  if th.reg c.d.rb = 0 then .done s th none none
  else .keep (s.setThread c.k { th.land (s.thread c.k) with st := .stalled (.blk c.w none), part := c.th.part })

/-- One chunk (R93-R96). The source is checked and read before the destination is checked (DESIGN CHOICE, log entry 105). -/
def opChunk (e : BusResult) (waited : Bool) (c : Cx) (s : State) : OpEnd :=
  let gd := (c.th.reg c.d.rd).toNat
  let gs := c.a.toNat
  let gn := c.b.toNat
  match c.d.fn with
  | 0 =>
    let down := decide (gs < gd) && decide (gd < gs + gn)
    let (b, n) := if down then chunkDown gd gn else (gd, upTo64 gd gn)
    match blkRead c (gs + (b - gd)) n e waited s with
    | .error f => f
    | .ok (d, s1) =>
      match blkWrite c b d s1 with
      | .error f => f
      | .ok s2 => blkEnd c (blkAdvance c true down n) s2
  | 1 =>
    let n := upTo64 gd gn
    match blkWrite c gd (fillBytes c.a gd n) s with
    | .error f => f
    | .ok s1 => blkEnd c (blkAdvance c false false n) s1
  | _ =>
    let n := upTo64 gs gn
    match blkRead c gs n e waited s with
    | .error f => f
    | .ok (d, s1) =>
      blkEnd c ((blkAdvance c true false n).setReg c.d.rd (crcBytes (c.d.fn - 2) (c.th.reg c.d.rd) d)) s1

/-- A chunk of a block instruction. A pending entry makes it yield first (R94): the thread then stands before the instruction. Of a thread that
is halted meanwhile the instruction goes on to its end (DESIGN CHOICE, log entry 118). -/
def blockChunk (t : ThreadId) (e : BusResult) (s : State) : State :=
  let k := s.tkey t
  let th := s.thread k
  match th.st with
  | .stalled (.blk w src) =>
    match decodeOp w with
    | .ok d =>
      if (s.trio t.trio.val).lost ∨ (src.isSome ∧ heldRead s t) then s
      else if s.entryFirst t th.awake then ceEnd k (goOn s k th.awake)
      else
        let c : Cx := ⟨t, k, th.awake, w, d, [], none⟩
        ceEnd k (settle c (opChunk e src.isSome c s))
    | .illegal => s
    | .absent => s
  | .stalled _ => s
  | .running => s
  | .waiting => s
  | .stopped => s

def execBlockChunk (t : ThreadId) (e : BusResult) (s : State) : Res := .next (blockChunk t e s)

/-! ### TLBI and time-outs -/

/-- A walk that began before a TLBI restarts (R189). -/
def Thread.restartWalk (th : Thread) : Thread :=
  match th.st with
  | .stalled (.walk w next _) => { th with st := .stalled (.walk w next []) }
  | .stalled _ => th
  | .running => th
  | .waiting => th
  | .stopped => th

/-- The keys of every thread. -/
def allKeys : List Nat := List.range 416

/-- Removes what a TLBI covers everywhere (R188, R189). -/
def tlbiEverywhere (o : TlbiOp) (s : State) : State :=
  let s1 := (List.range 39).foldl (fun a k => a.setTlbs k ((a.tlbs k).inval o.kind o.part o.addr)) s
  let s2 := if o.kind = 6 then { s1 with fab := { s1.fab with io := [] } } else s1
  allKeys.foldl (fun a k => if (a.thread k) = (a.thread k).restartWalk then a else a.setThread k (a.thread k).restartWalk) s2

/-- The accesses of a thread that are translated and not yet performed: partition and linear address. -/
def Thread.accesses (th : Thread) : List (Nat × Nat) :=
  (match th.st with
   | .stalled (.load _ _ la _ _) => [(th.part.getD 0, la.toNat)]
   | .stalled _ | .running | .waiting | .stopped => []) ++ storesOf th.buf
where
  storesOf (l : List OutEnt) : List (Nat × Nat) := l.filterMap (fun o => match o.what with
    | .store la _ => some (o.part, la)
    | .append _ _ => none
    | .tlbi _ _ _ => none)

/-- Whether a TLBI removes the entry that translated an access of a core. -/
def TlbiOp.covers (o : TlbiOp) (tl : Tlbs) (x : Nat × Nat) : Bool :=
  match o.kind with
  | 3 => x.1 == o.part
  | 4 => x.1 == o.part && tl.ents.any (fun e => tlbHits e o.part (bf o.addr 0 48) && tlbHits e o.part x.2)
  | 5 => x.1 == bf o.addr 60 4
  | _ => true

/-- Every access translated by an entry that the TLBI removes has been performed (R189). -/
def State.tlbiClear (s : State) (o : TlbiOp) : Bool :=
  (List.range 416).all (fun k => (s.thread k).accesses.all (fun x => !o.covers (s.tlbs (3 * (k / 32) + k % 32 / 8)) x))
    && (List.range 13).all (fun n => (Thread.accesses.storesOf (s.trio n).commit).all (fun x => !o.covers (s.tlbs (3 * n)) x))

/-- The oldest TLBI under way of a thread completes, once the accesses it covers are performed (R189). -/
def tlbiCompletes (t : ThreadId) (s : State) : State :=
  let k := s.tkey t
  match s.fab.tlbi.find? (fun o => s.tkey o.tid == k) with
  | none => s
  | some o =>
    if ¬ s.tlbiClear o then s
    else
      let s1 := tlbiEverywhere o { s with fab := { s.fab with tlbi := s.fab.tlbi.erase o } }
      let th := { s1.thread k with tlbis := (s1.thread k).tlbis - 1 }
      let s2 := s1.setThread k th
      match th.st with
      | .stalled (.syncTlb w) => if th.tlbis = 0 ∧ ¬ (s.trio t.trio.val).lost then reIssue t w [] (some []) s2 else s2
      | .stalled _ => s2
      | .running => s2
      | .waiting => s2
      | .stopped => s2

def execTlbiComplete (t : ThreadId) (s : State) : Res := .next (tlbiCompletes t s)

/-- R183: a transaction without a response within 64 µs, reported as source 245 and to its initiator with reason TIMEOUT; of an I/O access with
its address (R206). -/
def execFabricTimeout (x : FabricTxn) (s : State) : Res :=
  .next (s.unlessGated (match x with
    | .load t =>
      match (s.thread (s.tkey t)).st with
      | .stalled (.load ..) => loadArrives t .timeout s
      | .stalled (.fill ..) => icacheFills t .timeout s
      | .stalled (.walk ..) => walkReads t .timeout s
      | .stalled (.blk ..) => blockChunk t .timeout s
      | .stalled _ => s
      | .running => s
      | .waiting => s
      | .stopped => s
    | .store t => if (s.thread (s.tkey t)).buf.isEmpty then s else storePerforms t .timeout s
    | .io stream write a =>
      (s.busErr a.toNat (ioMaster stream.val) (if write then recDmaWrite else recDmaRead) .timeout).ioRefuse stream.val a.toNat write 0 12))

end Sys2Proof.Machine
end

