-- ==== Sys2Proof/Machine/TrioRows.lean ====
section
/-! DEFINITION. Hand-overs, the return from a failover, the stop of a trio and the rows of the lockstep trios (R52-R79). -/
namespace Sys2Proof.Machine

/-- Sends what the threads of given keys still hold, each in order. -/
def sendAll (keys : List Nat) (s : State) : State := keys.foldl (fun a k => sendBuf k (a.thread k).buf.length a) s

/-- The threads of cores 1 and 2. -/
def otherKeys (n : Nat) : List Nat := (List.range 16).map (fun i => threadKey n (1 + i / 8) (i % 8))

/-- Whether a thread stands at an instruction boundary with every output performed: no load or coprocessor operation under way, nothing in its
share of the store buffer, no TLBI (R72). -/
def Thread.atRest (th : Thread) : Bool :=
  th.buf.isEmpty && th.tlbis == 0 &&
    (match th.st with
     | .stalled w => match w with
       | .load .. => false
       | .cop .. => false
       | .walk .. | .fill .. | .space .. | .drain .. | .sync .. | .syncTlb .. | .blk .. => true
     | .running | .waiting | .stopped => true)

/-- Whether the threads of given keys are at rest and nothing committed still waits to leave. -/
def State.atRest (s : State) (n : Nat) (keys : List Nat) : Bool := keys.all (fun k => (s.thread k).atRest) && (s.trio n).commit.isEmpty

/-- Cores 1 and 2 stop: their state is discarded (R72). -/
def joinCores (n : Nat) (s : State) : State :=
  (otherKeys n).foldl (fun a k => a.setThread k {}) (dropReads (fun k => (otherKeys n).contains k) s)

/-- Each core runs on from the state of core 0 at its boundary, TLBs and all (R66, R72); a store error that core 0's thread has yet to take
stays its own. -/
def splitCores (n : Nat) (s : State) : State :=
  let s0 := dropReads (fun k => (lockedKeys n).contains k) s
  let s1 := (lockedKeys n).foldl (fun a k => a.setThread k (a.thread k).record) s0
  let s2 := (List.range 16).foldl (fun a i =>
    a.setThread (threadKey n (1 + i / 8) (i % 8)) { a.thread (threadKey n 0 (i % 8)) with err := none }) s1
  (s2.setTlbs (3 * n + 1) (s2.tlbs (3 * n))).setTlbs (3 * n + 2) (s2.tlbs (3 * n))

/-- The accesses that a trio still holds are performed, for it runs in PAIR no more (R60). -/
def releaseHeld (n : Nat) (s : State) : State := performHelds n (s.trio n).held.length s

/-- Goes on unless a released output has reset the device. -/
def State.thenDo (s1 s : State) (f : State → State) : State := if s1.sameRun s then f s1 else s1

/-- The end of a hand-over. -/
def handDone (n : Nat) (s : State) : State :=
  (((s.setTrio n { s.trio n with target := none }).setFld (B.trio n) TRIO.STAT_CHANGING 0).setFld (B.trio n) TRIO.STAT_REPLAY 0).irq
    (64 + 4 * n + 2)

/-- A hand-over completes: the configuration in effect changes as R72 states, with the early checkpoints of R59. One to or from SPLIT waits
until the threads concerned are at an instruction boundary and their outputs are performed. -/
def handOver (n : Nat) (s : State) : State :=
  match (s.trio n).target with
  | none => s
  | some c =>
    let old := s.conf n
    let set (a : State) : State := a.setFld (B.trio n) TRIO.STAT_CONF_NOW c
    let pair (a : State) : State := checkpoint n true (set (oddThird n a))
    if ¬ s.trioIn n then s
    else if old = cSplit then
      (sendAll (otherKeys n) s).thenDo s (fun x =>
        if ¬ x.atRest n (otherKeys n) then x
        else ((if c = cPair then pair (joinCores n x) else set (joinCores n x)).thenDo x (handDone n)))
    else if c = cSplit then
      (if old = cPair then checkpoint n true s else sendAll (lockedKeys n) s).thenDo s (fun x =>
        if ¬ x.atRest n (lockedKeys n) then x else handDone n (releaseHeld n (splitCores n (set x))))
    else if c = cPair then (pair s).thenDo s (handDone n)
    else if old = cPair then (checkpoint n true s).thenDo s (fun x => handDone n (releaseHeld n (set x)))
    else handDone n (releaseHeld n (set s))

/-- An interval passed in replay without disagreement: a checkpoint and the return to PAIR (R62). A core that left agreement meanwhile is the
standby (R69). -/
def failoverBack (n : Nat) (s : State) : State :=
  let b := B.trio n
  let t := s.trio n
  if ¬ s.flag b TRIO.STAT_REPLAY ∨ t.resync.isSome ∨ t.target.isSome ∨ t.lost then s
  else checkpoint n false (((oddThird n s).setFld b TRIO.STAT_CONF_NOW cPair).setFld b TRIO.STAT_REPLAY 0)

/-- A resync ends (R65, R67). In a replay the core becomes the standby, and the trio returns to PAIR, for its other two cores have agreed
through more than an interval by then (R62; DEDUCED, log entry 107). -/
def resyncEnds (n : Nat) (pass : Bool) (s : State) : State :=
  match (s.trio n).resync with
  | none => s
  | some c =>
    if (s.trio n).lost then s
    else if pass then
      let s1 := ((s.setTrio n { s.trio n with resync := none }).setFld (B.trio n) TRIO.STAT_RESYNC 0).setFld (B.trio n) (inSvcFld c.val) 1
      let s2 := if s.flag (B.trio n) TRIO.STAT_REPLAY then failoverBack n (rolesThird n c.val s1) else s1
      s2.thenDo s (fun x => x.irq (64 + 4 * n + 1))
    else coreFails n c.val 4 s

/-- The registers of a page that show the AAU of the physical trio that serves the identity (R299, R304). -/
def aauPage (n m : Nat) (s : State) : State :=
  [TRIO.AAU_STAT, TRIO.AAU_MISMATCH, TRIO.AAU_THIRD, TRIO.AAU_OPS].foldl (fun a f => a.wr (B.trio n + f.off) (a.rd (B.trio m + f.off))) s

/-- The switch of a soft remap (R70), in PAIR at a commit: the identity is served by trio 12's cores and AAU, which have disagreed in
nothing yet. -/
def remapSwitch (s : State) : State :=
  if s.spare ≠ spareCopying then s
  else
    let n := s.fld (B.trio 12) TRIO.SPARE_SERVES
    let b := B.trio n
    (if s.conf n = cPair then checkpoint n false s else s).thenDo s (fun x =>
      let s1 := x.setTrio n { x.trio n with failed := 0, resync := none, lines := [], odd := [], rot := (x.trio 12).rot }
      let s2 := (((aauPage n 12 s1).setFld b TRIO.STAT_REMAPPED 1).setFld b TRIO.SPARE_PHYS 12).setFld b TRIO.STAT_IN_SVC 7
      (trioEvt n 7 3 4 ((s2.setFld b TRIO.STAT_RESYNC 0).setFld (B.trio 12) TRIO.SPARE_STATE spareInUse)).irq (64 + 4 * n + 3))

/-- The checkpoint interval of a pair expires (R56). -/
def intervalEnds (n : Nat) (s : State) : State := if s.trioIn n ∧ s.conf n = cPair then checkpoint n false s else s

/-- A trio whose EN is cleared stops: once every thread is at a boundary its held stores are performed, in order, and it is held in reset with
its local SRAM kept (R79). A trio in unrecoverable loss performs nothing more, and its threads reach no boundary (R53, R64). -/
def trioStopped (n : Nat) (s : State) : State :=
  let p := 0x100 + n
  let lost := (s.trio n).lost
  let waits := !lost && (trioKeys n).any (fun k => (s.thread k).stopReq)
  if s.pgEn p ∨ ¬ s.pgEnabled p ∨ waits then s
  else
    (if lost then s
     else if s.conf n = cPair then checkpoint n false s
     else
       let x := releaseCommit (s.trio n).commit.length n s
       if (x.trio n).commit.isEmpty then sendAll (trioKeys n) x else x).thenDo s (fun x =>
      if ¬ lost ∧ ¬ ((x.trio n).commit.isEmpty ∧ (trioKeys n).all (fun k => (x.thread k).buf.isEmpty)) then x
      else
        let s2 := (trioKeys n).foldl (fun a k => a.setThread k {}) (releaseHeld n (x.setFld (B.trio n) TRIO.STAT_CONF_NOW cVoted))
        setStat p 0 1 (trioReset n (s2.setTrio n { s2.trio n with bank := [], bank2 := [] })))

def execTrioCfgWrite (w : Writer) (n : Fin 13) (v : W32) (s : State) : Res :=
  .next (pageWrite w (regsBase + B.trio n.val + TRIO.CFG.off) .b4 (v.setWidth 64) s).1
def execVotedDisagreement (n : Fin 13) (odd : Fin 3) (s : State) : Res := .next (votedOdd n.val odd s)
def execPairMismatch (n : Fin 13) (signature bankBad : Bool) (s : State) : Res :=
  .next (pairFails n.val signature bankBad s)
def execVoterCopyDisagree (n : Fin 13) (s : State) : Res := .next (voterSplit n.val s)

end Sys2Proof.Machine
end

