-- ==== Sys2Proof/Machine/RegRows.lean ====
section
/-! DEFINITION. The rows that are one register access: each writes or reads its register as R468 to R476 state. -/
namespace Sys2Proof.Machine

/-- A 4-byte write of a register by its key. -/
def regPut (w : Writer) (key : Nat) (v : Nat) (s : State) : State := (pageWrite w (regsBase + key) .b4 (BitVec.ofNat 64 v) s).1

/-- A read whose value leaves on the bus. -/
def regOut (w : Writer) (a : Nat) (wd : AccWidth) (s : State) : State :=
  let (v, s1) := pageRead w a wd s
  s1.emit (.read a v)

/-- A value with bit 0 set as told. -/
def bit0 (v : W32) (b : Bool) : Nat := setBits v.toNat 0 1 (b2n b)

/-! ### Modes, clocks, reset, planner -/

def execWarmResetReq (w : Writer) (key : Byte) (s : State) : Res := .next (regPut w (B.rst + RST.REQ.off) (1 + 256 * key.toNat) s)
def execSystemResetReq (w : Writer) (key : Byte) (s : State) : Res := .next (regPut w (B.rst + RST.REQ.off) (2 + 256 * key.toNat) s)
def execCoreDivWrite (w : Writer) (v : W32) (s : State) : Res := .next (regPut w (B.clk + CLK.CORE_DIV.off) v.toNat s)
def execModeReq (w : Writer) (v : W32) (s : State) : Res := .next (regPut w (B.sys + SYS.MODE_REQ.off) v.toNat s)
def execSecVerCmd (w : Writer) (key : Byte) (s : State) : Res := .next (regPut w (B.sys + SYS.SEC_VER_CMD.off) key.toNat s)
def execVsetReq (w : Writer) (v : W32) (s : State) : Res := .next (regPut w (B.margin + MARGIN.VSET_REQ.off) v.toNat s)
def execMarginLoadData (w : Writer) (v : W32) (s : State) : Res := .next (regPut w (B.margin + MARGIN.LOAD_DATA.off) v.toNat s)
def execMarginLoadGo (w : Writer) (s : State) : Res := .next (regPut w (B.margin + MARGIN.LOAD_CMD.off) 1 s)

/-! ### Interrupts and I/O translation -/

def execAck (w : Writer) (v : W32) (s : State) : Res := .next (regPut w (B.intt + 0x040) v.toNat s)
def execEoi (w : Writer) (v : W32) (s : State) : Res := .next (regPut w (B.intt + 0x044) v.toNat s)
def execSwiSet (w : Writer) (v : W32) (s : State) : Res := .next (regPut w (B.intd + 0x040) v.toNat s)
def execSwiClr (w : Writer) (v : W32) (s : State) : Res := .next (regPut w (B.intd + 0x044) v.toNat s)
def execIotInv (w : Writer) (v : W32) (s : State) : Res := .next (regPut w (B.iot + 0x444) v.toNat s)

/-! ### Flash -/

def execXspiProgram (w : Writer) (port : Bool) (s : State) : Res := .next (regPut w (B.xspi + XSPI.CMD.off) (b2n port + 2) s)
def execXspiErase4k (w : Writer) (port : Bool) (s : State) : Res := .next (regPut w (B.xspi + XSPI.CMD.off) (b2n port + 4) s)
def execXspiErase64k (w : Writer) (port : Bool) (s : State) : Res := .next (regPut w (B.xspi + XSPI.CMD.off) (b2n port + 6) s)

/-! ### Shafts -/

def execRefNow (w : Writer) (n : Fin 8) (s : State) : Res := .next (regPut w (B.shaft n.val + SHAFT.CMD.off) 1 s)
def execClrRef (w : Writer) (n : Fin 8) (s : State) : Res := .next (regPut w (B.shaft n.val + SHAFT.CMD.off) 2 s)
def execShaftAlign (w : Writer) (n : Fin 8) (s : State) : Res := .next (regPut w (B.shaft n.val + SHAFT.CMD.off) 3 s)
def execLearnStart (w : Writer) (n : Fin 8) (s : State) : Res := .next (regPut w (B.shaft n.val + SHAFT.CMD.off) 4 s)
def execLearnAbort (w : Writer) (n : Fin 8) (s : State) : Res := .next (regPut w (B.shaft n.val + SHAFT.CMD.off) 5 s)
/-- The row writes MODE = APPLY. -/
def execCtApply (w : Writer) (n : Fin 8) (v : W32) (s : State) : Res :=
  .next (regPut w (B.shaft n.val + SHAFT.CT_CTL.off) (setBits v.toNat 0 2 1) s)
def execCtDataRead (w : Writer) (n : Fin 8) (s : State) : Res := .next (regOut w (regsBase + B.shaft n.val + SHAFT.CT_DATA.off) .b4 s)
def execCtDataWrite (w : Writer) (n : Fin 8) (v : W32) (s : State) : Res := .next (regPut w (B.shaft n.val + SHAFT.CT_DATA.off) v.toNat s)
def execRevSet (w : Writer) (n : Fin 8) (v : W32) (s : State) : Res := .next (regPut w (B.shaft n.val + SHAFT.REV_SET.off) v.toNat s)
def execSnapAll (w : Writer) (v : W32) (s : State) : Res := .next (regPut w (B.angle + ANGLE.SNAP_ALL.off) v.toNat s)

/-! ### Queues and programs -/

/-- The row sets EN in the value. -/
def execQueueEnable (w : Writer) (q : Fin 16384) (v : W32) (s : State) : Res := .next (regPut w (B.qd q.val + QD.QCTL.off) (bit0 v true) s)
/-- The row clears EN in the value. -/
def execQueueDisable (w : Writer) (q : Fin 16384) (v : W32) (s : State) : Res := .next (regPut w (B.qd q.val + QD.QCTL.off) (bit0 v false) s)
def execQueueStart (w : Writer) (q : Fin 16384) (s : State) : Res := .next (regPut w (B.qd q.val + QD.QCMD.off) 1 s)
def execQueueHalt (w : Writer) (q : Fin 16384) (s : State) : Res := .next (regPut w (B.qd q.val + QD.QCMD.off) 2 s)
def execQueueResume (w : Writer) (q : Fin 16384) (s : State) : Res := .next (regPut w (B.qd q.val + QD.QCMD.off) 3 s)
def execQueueFlush (w : Writer) (q : Fin 16384) (s : State) : Res := .next (regPut w (B.qd q.val + QD.QCMD.off) 4 s)
def execQueueSkipHead (w : Writer) (q : Fin 16384) (s : State) : Res := .next (regPut w (B.qd q.val + QD.QCMD.off) 5 s)
def execGroupStart (w : Writer) (g : Fin 16) (s : State) : Res := .next (regPut w (B.eng + ENG.START.off) g.val s)
def execCancelCmd (w : Writer) (s : State) : Res := .next (regPut w (B.eng + ENG.CANCEL_CMD.off) 1 s)
def execEngProgLoad (w : Writer) (v : W32) (s : State) : Res := .next (regPut w (B.eng + ENG.PROG_LOAD.off) v.toNat s)
def execSeqProgLoad (w : Writer) (v : W32) (s : State) : Res := .next (regPut w (B.seq + SEQ.PROG_LOAD.off) v.toNat s)
def execRingProgLoad (w : Writer) (r : Fin 16) (v : W32) (s : State) : Res := .next (regPut w (B.ring r.val + RING.PROG_LOAD.off) v.toNat s)
def execNetProgLoad (w : Writer) (v : W32) (s : State) : Res := .next (regPut w (B.net + NET.PROG_LOAD.off) v.toNat s)
def execSeqLoad (w : Writer) (s : State) : Res := .next (regPut w (B.seq + SEQ.CMD.off) 1 s)
def execSeqStart (w : Writer) (keep : Bool) (s : State) : Res := .next (regPut w (B.seq + SEQ.CMD.off) (2 + 256 * b2n keep) s)
def execSeqPause (w : Writer) (s : State) : Res := .next (regPut w (B.seq + SEQ.CMD.off) 3 s)
def execSeqContinue (w : Writer) (s : State) : Res := .next (regPut w (B.seq + SEQ.CMD.off) 4 s)
def execSeqStop (w : Writer) (s : State) : Res := .next (regPut w (B.seq + SEQ.CMD.off) 5 s)
def execMarkInfoRead (w : Writer) (s : State) : Res := .next (regOut w (regsBase + B.eng + 0x0A0) .b4 s)

/-! ### Rings -/

def execEnumerate (w : Writer) (r : Fin 16) (s : State) : Res := .next (regPut w (B.ring r.val + RING.CMD.off) 1 s)
def execMeasure (w : Writer) (r : Fin 16) (node : BitVec 7) (s : State) : Res :=
  .next (regPut w (B.ring r.val + RING.CMD.off) (2 + 256 * node.toNat) s)
def execRingArm (w : Writer) (r : Fin 16) (node : BitVec 7) (s : State) : Res :=
  .next (regPut w (B.ring r.val + RING.CMD.off) (3 + 256 * node.toNat) s)
def execRingRelease (w : Writer) (r : Fin 16) (s : State) : Res := .next (regPut w (B.ring r.val + RING.CMD.off) 4 s)
def execDescRead (w : Writer) (r : Fin 16) (node : BitVec 7) (s : State) : Res :=
  .next (regPut w (B.ring r.val + RING.CMD.off) (5 + 256 * node.toNat) s)

/-! ### Timers -/

/-- The row sets CH_EN in the value. -/
def execTimerChEnable (w : Writer) (ch : Fin 64) (v : W32) (s : State) : Res := .next (regPut w (B.timer ch.val + TIMER.CTL.off) (bit0 v true) s)
/-- The row clears CH_EN in the value. -/
def execTimerChDisable (w : Writer) (ch : Fin 64) (v : W32) (s : State) : Res := .next (regPut w (B.timer ch.val + TIMER.CTL.off) (bit0 v false) s)
def execTimerStart (w : Writer) (ch : Fin 64) (s : State) : Res := .next (regPut w (B.timer ch.val + TIMER.CMD.off) 1 s)
def execTimerStop (w : Writer) (ch : Fin 64) (s : State) : Res := .next (regPut w (B.timer ch.val + TIMER.CMD.off) 2 s)
def execGstart (w : Writer) (lo hi : W32) (s : State) : Res := .next (pageWrite w (regsBase + B.gtmr + GTMR.GSTART_LO.off) .b8 (hi ++ lo) s).1
def execGstop (w : Writer) (lo hi : W32) (s : State) : Res := .next (pageWrite w (regsBase + B.gtmr + GTMR.GSTOP_LO.off) .b8 (hi ++ lo) s).1
def execTimerCountRead (w : Writer) (ch : Fin 64) (s : State) : Res := .next (regOut w (regsBase + B.timer ch.val + TIMER.COUNT.off) .b4 s)

def timerRegOff : TimerReg → Nat
  | .top => TIMER.TOP.off
  | .cmpa => TIMER.CMPA.off
  | .cmpb => TIMER.CMPB.off

def execTimerPreloadWrite (w : Writer) (ch : Fin 64) (x : TimerReg) (v : W32) (s : State) : Res :=
  .next (regPut w (B.timer ch.val + timerRegOff x) v.toNat s)

/-! ### Ethernet -/

def execSaInstall (w : Writer) (p : Fin 2) (s : State) : Res := .next (regPut w (B.eth p.val + ETH.SA_CMD.off) 1 s)
def execSaEnable (w : Writer) (p : Fin 2) (s : State) : Res := .next (regPut w (B.eth p.val + ETH.SA_CMD.off) 2 s)
def execSaDisable (w : Writer) (p : Fin 2) (s : State) : Res := .next (regPut w (B.eth p.val + ETH.SA_CMD.off) 3 s)
def execRawtxHeadWrite (w : Writer) (v : W32) (s : State) : Res := .next (regPut w (B.net + NET.RAWTX_HEAD.off) v.toNat s)

/-! ### Collector -/

def execStoAck (w : Writer) (v : W32) (s : State) : Res := .next (regPut w (B.coll + 0x048) v.toNat s)
def execSwStop (w : Writer) (v : W32) (s : State) : Res := .next (regPut w (B.coll + 0x044) v.toNat s)
def execRecClose (w : Writer) (v : W32) (s : State) : Res := .next (regPut w (B.recd + 0x060) v.toNat s)
def execFswLiveClear (w : Writer) (k : Fin 16) (v : W32) (s : State) : Res := .next (regPut w (B.fsw + 0x080 + 4 * k.val) v.toNat s)

/-! ### Pages -/

/-- A write of the header of a page; descriptor pages carry none (R248). -/
def pgPut (w : Writer) (pg : BitVec 12) (o v : Nat) (s : State) : State := if pg.toNat < 0x400 then regPut w (page pg.toNat + o) v s else s

def execPgEnSet (w : Writer) (pg : BitVec 12) (quiesce : Bool) (s : State) : Res :=
  .next (pgPut w pg PG.CTL.off (1 + 2 * b2n quiesce) s)
def execPgEnClear (w : Writer) (pg : BitVec 12) (s : State) : Res := .next (pgPut w pg PG.CTL.off 0 s)
/-- EN as it stands, with QUIESCE set. -/
def execPgQuiesceSet (w : Writer) (pg : BitVec 12) (s : State) : Res :=
  .next (pgPut w pg PG.CTL.off (2 + b2n (s.pgEn pg.toNat)) s)
/-- EN as it stands, with QUIESCE cleared. -/
def execPgQuiesceClear (w : Writer) (pg : BitVec 12) (s : State) : Res :=
  .next (pgPut w pg PG.CTL.off (b2n (s.pgEn pg.toNat)) s)
def execDrainComplete (pg : BitVec 12) (s : State) : Res :=
  .next (if isTrioPage pg.toNat then trioStopped (pg.toNat - 0x100) s else pgDrained pg.toNat s)
def execPgProtWrite (w : Writer) (pg : BitVec 12) (v : W32) (s : State) : Res := .next (pgPut w pg PG.PROT.off v.toNat s)
def execRegisterWrite (w : Writer) (addr : BitVec 40) (width : AccWidth) (v : W64) (s : State) : Res :=
  .next (pageWrite w addr.toNat width v s).1
def execReadClear (w : Writer) (addr : BitVec 40) (s : State) : Res := .next (regOut w addr.toNat .b4 s)
def execSnapshotRead (w : Writer) (addr : BitVec 40) (s : State) : Res := .next (regOut w addr.toNat .b4 s)
def execPageReadRefused (w : Writer) (addr : BitVec 40) (width : AccWidth) (s : State) : Res := .next (regOut w addr.toNat width s)

end Sys2Proof.Machine
end

