-- ==== Sys2Proof/Machine/DevRows.lean ====
section
/-! DEFINITION. The rows of reset, boot, supplies, modes, Velvet and Gauze, memory, the collector and self-test (R19-R45, R200,
R202, R403-R435, R444-R461). -/
namespace Sys2Proof.Machine

def execPowerOnReset (s : State) : Res := .next (deviceReset .powerOn s)
def execSystemResetPin (s : State) : Res := .next (deviceReset .pin s)
def execBootSequence (e : BootEnv) (s : State) : Res := .next (bootSequence e s)
def execNetBootTimeout (s : State) : Res := .next (netTimeout s)
def execDramInitComplete (s : State) : Res := .next (dramInit s)
def execRootClockLoss (c : ClockLoss) (s : State) : Res := .next (rootLoss c s)
def execRailOutOfRange (r : SupplyRail) (mv : Nat) (s : State) : Res := .next (railOut r mv s)

/-- R26: below 0.70 V in Velvet the retained content is lost. -/
def execVelvetSupplyDip (mv : Nat) (s : State) : Res :=
  .next (if s.mode = mVelvet ∧ mv < 700 then s.setDev { s.dev with lost := true } else s)

def execAvsReadback (answer : Option Nat) (s : State) : Res := .next (avsRead answer s)

/-- R43: the scrubber corrects, or raises its source and marks the content lost. -/
def execVelvetScrub (uncorrectable : Bool) (s : State) : Res :=
  .next (if s.mode = mVelvet ∧ uncorrectable then (s.setDev { s.dev with lost := true }).raise 4 else s)

/-- R44: the active level held for 1 µs. -/
def execWakePin (level : Bool) (s : State) : Res :=
  .next (if s.flag B.sys SYS.WAKE_CTL_PIN_EN ∧ s.flag B.sys SYS.WAKE_CTL_PIN_LEVEL = level then wakes SYS.WAKE_CAUSE_PIN s else s)

def execRetentionTimerExpiry (s : State) : Res :=
  .next (if s.flag B.sys SYS.WAKE_CTL_TIMER_EN then wakes SYS.WAKE_CAUSE_TIMER s else s)

def execWakePath (e : BootEnv) (s : State) : Res := .next (wakePath e s)
def execVelvetSafeStopExit (e : BootEnv) (s : State) : Res := .next (velvetExit e s)
def execGauzeStepEnd (e : GauzeEnv) (s : State) : Res := .next (gauzeStep e s)
def execGauzeComplete (s : State) : Res := .next (gauzeDone s)

/-! ### Memory -/

def execIotInvComplete (s : State) : Res := .next (s.unlessGated (ioInvDone s))
def execXspiCmdComplete (port ok : Bool) (s : State) : Res := .next (s.unlessGated (flashDone (b2n port) ok s))

/-- What the patrol scrubber meets at one address (R198, R200, R406, R207). -/
def patrolHit (d : Bool) (unc : Bool) (a : BitVec 40) (s : State) : State :=
  let c := b2n d
  let s1 := s.raiseA ⟨BitVec.ofNat 9 (239 + 2 * c + b2n unc), some a, BitVec.ofNat 32 (6 + 16 * c), BitVec.ofNat 4 recScrub, 0, false⟩
  if unc then
    (((((s1.markBad a.toNat).incSat (B.dram c) DRAM.UE_CNT).setFld (B.dram c) DRAM.UE_ADDR_LO a.toNat).setFld (B.dram c) DRAM.UE_ADDR_HI (a.toNat / 2 ^ 32))).irq (480 + c)
  else s1.incSat (B.dram c) DRAM.CE_CNT

/-- R200: all DRAM of a controller is read; corrected words are rewritten with what they hold. -/
def execPatrolScrub (d : Bool) (corrected : List (BitVec 40)) (uncorrectable : List (BitVec 40)) (s : State) : Res :=
  .next (s.unlessGated (uncorrectable.foldl (fun a x => patrolHit d true x a) (corrected.foldl (fun a x => patrolHit d false x a) s)))

/-- R22: the DRAM PLL loses lock. -/
def execDramPllLockLoss (s : State) : Res :=
  .next (if s.flag B.clk CLK.CLK_STAT_DRAM_LOCK then (s.setFld B.clk CLK.CLK_STAT_DRAM_LOCK 0).incSat B.clk CLK.LOSS_CNT else s)

/-! ### Collector -/

/-- What the source of an array says of the array (R100, R198, R404, R406): a word with an uncorrectable error keeps its bad code; a line of an
instruction cache with a parity error counts as missing, and where the assertion names no address so does every line (DESIGN CHOICE, log entry 11). -/
def arrayHit (x : Assertion) (s : State) : State :=
  let n := x.src.toNat
  let t := (n - 16) / 12
  match x.addr with
  | some a =>
    if inRange 16 171 n ∧ (n - 16) % 12 = 11 then s.setLines t ((s.trio t).lines.filter (· != a.toNat / 64))
    else if (s.region a.toNat).keepsBad ∧ errSource (s.region a.toNat) a.toNat true = some n then s.markBad a.toNat
    else s
  | none => if inRange 16 171 n ∧ (n - 16) % 12 = 11 then s.setLines t [] else s

/-- R403, R413: the sources assert, and the collector takes every source that waits. -/
def execFaultSourceAssert (a : List Assertion) (s : State) : Res := .next (collCycle (a.foldl (fun b x => offer x (arrayHit x b)) s))

/-- R420: thread 0 of trio 0 takes source 499 at its next boundary, once its hand-over is complete. -/
def recovery (s : State) : State :=
  let t : ThreadId := ⟨0, 0, 0⟩
  let k := s.tkey t
  let th := s.thread k
  if s.bothColl (·.recover) ∧ s.mode = mFelt ∧ ¬ s.flag (B.trio 0) TRIO.STAT_CHANGING ∧ (th.st = .stopped ∨ s.atBoundary t th) then
    let s1 := (s.modColl (fun c => { c with recover := false })).setThread k th.awake
    enterRing s1 t k th.awake ⟨0, 0x80, 0, 499, th.pc, false, false⟩
  else s

def execRecoveryEntry (s : State) : Res := .next (recovery s)
def execSafetyInputAccept (i : Fin 16) (chB level : Bool) (rawA rawB : Bool) (s : State) : Res :=
  .next (siAccept i.val chB level rawA rawB s)
def execSafetyDiscrepancy (i : Fin 16) (s : State) : Res := .next (siDiscrepant i.val s)
def execTestPulse (k : Fin 4) (s : State) : Res := .next (tpPulse k.val s)
def execTestPulseCheck (i : Fin 16) (seenA seenB : Bool) (s : State) : Res := .next (tpCheck i.val seenA seenB s)
def execStoTestPulse (appeared : Bool) (s : State) : Res := .next (stoPulse appeared s)
def execStoReadbackMismatch (n : Fin 8) (a b : Bool) (s : State) : Res := .next (stoMismatch n.val a b s)
def execFaultReadbackMismatch (s : State) : Res := .next (collCycle (s.raise 7))
def execSs1DelayEnd (n : Fin 8) (s : State) : Res := .next (ss1End n.val s)
def execJunctionOvertemp (s : State) : Res := .next (collCycle (s.raiseCond 11 0))

/-- R405: a condition no longer holds. -/
def execConditionCeased (src : BitVec 9) (s : State) : Res :=
  .next (let s1 := condCeases src.toNat s; if src = 0 then rootBack s1 else s1)

/-! ### Self-test and planner -/

def execBistSliceStart (u : BistUnit) (s : State) : Res := .next (sliceStart u s)
def execBistSliceEnd (u : BistUnit) (pass : Bool) (s : State) : Res := .next (bistEnd u pass s)
def execMonitorMeasure (a b : List (BitVec 16)) (s : State) : Res := .next (s.unlessGated (monitors a b s))
def execTempSample (celsius : Int) (s : State) : Res := .next (tempSample celsius s)
def execMarginEvaluate (s : State) : Res := .next (planEval s)
def execMarginYears (s : State) : Res := .next (planYears s)
def execSecVerBurnDone (ok : Bool) (s : State) : Res := .next (secVerDone ok s)

end Sys2Proof.Machine
end

