-- ==== Sys2Proof/Machine/BlockRows.lean ====
section
/-! DEFINITION. The rows in which shafts, engine, sequencer, rings and timers act on their own (chapters 08, 09, 11 and 12). -/
namespace Sys2Proof.Machine

/-- R224: a tick, then what the engine and the collector take from the new snapshots (R227, R236, R428). -/
def execShaftTick (copyDiff : List (Fin 8)) (s : State) : Res :=
  .next (s.unlessGated (slsAll (ss1Check (shaftLoss (shaftTick copyDiff s)))))

def execEncoderTransition (n : Fin 8) (ball : EncBall) (level : Bool) (ts : W64) (s : State) : Res :=
  .next (encTransition n.val ball level ts s)
def execSafeSpeedDiscrepancy (p : Fin 4) (s : State) : Res := .next (s.unlessGated (safeSpeedDisc p.val s))
def execStandstill (n : Fin 8) (s : State) : Res := .next (s.unlessGated (standstill n.val s))

/-- R215: a frame of the SSI master starts with its clock burst. -/
def execSsiFrameStart (n : Fin 8) (s : State) : Res :=
  .next (s.unlessGated (if s.pgEnabled (0x200 + n.val) ∧ s.shaftSsi n.val then s.emit (.ssiClock n.val (s.fld (B.shaft n.val) SHAFT.SSI_CFG_BITS + 1)) else s))

def execSsiFrameComplete (n : Fin 8) (dataHigh : Bool) (frame : BitVec 40) (ts : W64) (s : State) : Res :=
  .next (s.unlessGated (ssiFrame n.val dataHigh frame ts s))

/-! ### Queues -/

def execQueueAppend (a : Appender) (q : BitVec 16) (e : RawEntry) (s : State) : Res := .next (s.unlessGated (queueAppend a q e s).1)
def execQueueCheck (q : Fin 16384) (a : AauCheck) (s : State) : Res := .next (s.unlessGated (queueCheck q.val a s))
def execEntryRetire (q : Fin 16384) (s : State) : Res := .next (s.unlessGated (entryRetires q.val s))
def execRetimeUpdate (a : AauCheck) (s : State) : Res := .next (s.unlessGated (retimeUpdate a s))
def execCancelComplete (s : State) : Res := .next (s.unlessGated (cancelDone s))

/-- R138: a program load ends at its host. -/
def execProgramLoadDone (h : ProgHost) (s : State) : Res :=
  .next (s.unlessGated (match h with
    | .engine => engLoadDone s
    | .sequencer => seqProgDone s
    | .ring r => ringProgDone r.val s
    | .classifier => netProgDone s))

def execSeqRowTake (s : State) : Res := .next (s.unlessGated (seqTake s))
def execSeqAppendRetry (s : State) : Res := .next (s.unlessGated (seqRetry s))

/-! ### Rings -/

def execRxLock (r : Fin 16) (lane : Bool) (s : State) : Res := .next (s.unlessGated (rxLocks r.val lane s))
def execLinkLoss (r : Fin 16) (s : State) : Res := .next (s.unlessGated (linkLost r.val s))
/-- R332: the acquisition starts again; nothing that software sees changes. -/
def execLockRetry (_r : Fin 16) (s : State) : Res := .next s
def execEnumReturn (r : Fin 16) (lane : Bool) (next : Byte) (s : State) : Res := .next (s.unlessGated (enumReturns r.val lane next.toNat s))
def execEnumTimeout (r : Fin 16) (s : State) : Res := .next (s.unlessGated (enumTimesOut r.val s))
def execTimeSend (r : Fin 16) (s : State) : Res := .next (s.unlessGated (timeSends r.val s))
def execBgMeasure (r : Fin 16) (s : State) : Res := .next (s.unlessGated (bgMeasures r.val s))
def execRingSlot (r : Fin 16) (s : State) : Res := .next (s.unlessGated (ringSlots r.val s))
/-- What a port does in the 100 µs after its disable goes on in Velvet too (R334). -/
def unlessPortGated (r : Nat) (s t : State) : State := if s.gated ∧ ¬ (s.ring r).rxUntil then s else t

def execUpFrame (r : Fin 16) (lane : Bool) (good : Bool) (f : UpFrame) (ts : W64) (s : State) : Res :=
  .next (unlessPortGated r.val s (if s.flag (B.ring r.val) (lockFld lane) then upFrames r.val lane good f ts s else s))
def execCancelRepeat (r : Fin 16) (id : W32) (s : State) : Res := .next (s.unlessGated (cancelAgain r.val id s))
def execCancelNoack (r : Fin 16) (id : W32) (s : State) : Res := .next (s.unlessGated (cancelGivesUp r.val id s))

/-- R328: a report table entry is freed. -/
def execReportWaitExpiry (r : Fin 16) (id : W32) (s : State) : Res :=
  .next (s.unlessGated (s.setRing r.val { s.ring r.val with reports := (s.ring r.val).reports.filter (fun e => e.1 != id) }))

def execNodeLost (r : Fin 16) (node : BitVec 7) (s : State) : Res := .next (s.unlessGated (nodeLoses r.val node.toNat s))
def execSafePatternRepeat (r : Fin 16) (s : State) : Res := .next (s.unlessGated (safePattern r.val s))

/-- R334: 100 µs after the disable. -/
def execRingDisableEnd (r : Fin 16) (s : State) : Res :=
  .next (unlessPortGated r.val s (if (s.ring r.val).rxUntil then setStat (0x300 + r.val) 0 1 (ringOffEnd r.val s) else s))

def execRxLaneLockLost (r : Fin 16) (lane : Bool) (s : State) : Res := .next (s.unlessGated (laneLost r.val lane s))
def execRxLaneLockRegained (r : Fin 16) (lane : Bool) (s : State) : Res := .next (s.unlessGated (laneLock r.val lane true s))

/-! ### Timers -/

def execTimerBusStep (ch : Fin 64) (s : State) : Res := .next (s.unlessGated (tmBusStep ch.val s))
def execTimerAngleStep (ch : Fin 64) (s : State) : Res := .next (s.unlessGated (tmAngleStep ch.val s))
def execTimerCapture (ch : Fin 64) (rising : Bool) (s : State) : Res := .next (s.unlessGated (tmCapture ch.val rising s))

end Sys2Proof.Machine
end

