-- ==== Sys2Proof/Machine/Ptp.lean ====
section
/-! DEFINITION. The PTP engine: messages sent and received, master selection, the servo (R372-R378). Message layouts, default data set values
and intervals are PRESUMED from IEEE 1588-2019 and IEEE 802.1AS-2020, which the spec names (log entry 47). -/
namespace Sys2Proof.Machine

def State.ptp (s : State) (p : Nat) : PtpPort := s.net.ptp.get (fun _ => {}) p
def State.setPtp (s : State) (p : Nat) (x : PtpPort) : State := { s with net := { s.net with ptp := s.net.ptp.set (fun _ => {}) p x } }

def State.ptpState (s : State) : Nat := s.fld B.net NET.PTP_STAT_STATE
def State.ptpPort (s : State) : Nat := s.fld B.net NET.PTP_STAT_PORT
def State.gptp (s : State) : Bool := s.fld B.net NET.PTP_CTL_PROFILE == 1

/-- The domain: 0 in the profile of IEEE 802.1AS (R373). -/
def State.ptpDomain (s : State) : Nat := if s.gptp then 0 else s.fld B.net NET.PTP_CTL_DOMAIN

/-- The engine runs; without PRP it is a clock on port 0 (DEDUCED from R371 and R374, log entry 47). -/
def State.ptpOn (s : State) (p : Nat) : Bool :=
  s.pgRunning 0x322 && s.flag B.net NET.PTP_CTL_EN && (s.prpOn || p == 0)

/-- The clock identity: EUI-64 of the fused MAC address. -/
def State.clockId (s : State) : List Byte := s.macBytes.take 3 ++ [0xFF, 0xFE] ++ s.macBytes.drop 3

def State.portId (s : State) (p : Nat) : List Byte := s.clockId ++ beBytes 2 (p + 1)

/-- The seconds of EPOCH (R378). -/
def State.epoch (s : State) : Nat := (s.rd (B.net + NET.EPOCH_LO.off)).toNat + s.fld B.net ⟨0x090, 0, 16⟩ * 2 ^ 32

/-- A PTP timestamp of 10 bytes as device time in T64 units, 16 to the ns. -/
def ptpTime (l : List Byte) (s : State) : Int := ((beNat (l.take 6) : Int) - s.epoch) * 16000000000 + 16 * beNat ((l.drop 6).take 4)

/-- Device time as a PTP timestamp. -/
def ptpStamp (t : Int) (s : State) : List Byte :=
  beBytes 6 ((t / 16000000000 + s.epoch).toNat) ++ beBytes 4 ((t % 16000000000) / 16).toNat

/-- A correction field, ns × 2^16, in T64 units. -/
def ptpCorr (l : List Byte) : Int := (BitVec.ofNat 64 (beNat (l.take 8))).toInt / 4096

/-! ### Sending -/

/-- Departure and arrival times of event messages, corrected by TS_ADJ (R372). -/
def State.txTime (s : State) (p : Nat) : Int := s.now.toNat + s.fld (B.eth p) ETH.TS_ADJ_TX
def State.rxTime (s : State) (p : Nat) (ts : W64) : Int := (ts.toNat : Int) - s.fld (B.eth p) ETH.TS_ADJ_RX

/-- A message with its common header. -/
def ptpMsg (p typ : Nat) (twoStep : Bool) (corr : Int) (seq : Nat) (body : List Byte) (s : State) : List Byte :=
  let g := s.gptp
  let ctl : Nat := match typ with | 0 => 0 | 1 => 1 | 8 => 2 | 9 => 3 | _ => 5
  let log : Nat := match typ with | 0 => (if g then 0xFD else 0) | 0xB => (if g then 0 else 1) | 8 => (if g then 0xFD else 0) | _ => 0x7F
  leBytes 1 ((if g then 16 else 0) + typ) ++ [0x12] ++ beBytes 2 (34 + body.length) ++ leBytes 1 s.ptpDomain ++ [0]
    ++ leBytes 1 (if twoStep then 2 else 0) ++ [0] ++ beBytes 8 (BitVec.ofInt 64 (corr * 4096)).toNat ++ zeros 4 ++ s.portId p
    ++ beBytes 2 seq ++ leBytes 1 ctl ++ leBytes 1 log ++ body

/-- Peer delay messages. -/
def ptpIsPeer (typ : Nat) : Bool := typ == 2 || typ == 3 || typ == 0xA

/-- Sends a message on a port, without PRP (R361, R373, R374); peer delay messages take no VLAN tag (R364). Over IPv6 it comes from an address in
use, and from none while the link-local one is in conflict and no other is set (R379). -/
def ptpSend (p typ : Nat) (m : List Byte) (s : State) : State :=
  let peer := ptpIsPeer typ
  if s.flag B.net NET.PTP_CTL_UDP then
    let port := if typ < 8 then 319 else 320
    if s.has4 then
      let d : List Byte := if peer then [224, 0, 0, 107] else [224, 0, 1, 129]
      plainSend p ([0x01, 0, 0x5E] ++ d.drop 1 ++ s.macBytes ++ udpPacket s.own4 d port port m) (!peer) s
    else
      let d : List Byte := if peer then [0xFF, 0x02] ++ zeros 13 ++ [0x6B] else [0xFF, 0x0E] ++ zeros 12 ++ [0x01, 0x81]
      match s.own6 with
      | [] => s
      | a :: _ => plainSend p ([0x33, 0x33] ++ d.drop 12 ++ s.macBytes ++ udpPacket a d port port m) (!peer) s
  else
    let d : List Byte := if peer || s.gptp then [0x01, 0x80, 0xC2, 0, 0, 0x0E] else [0x01, 0x1B, 0x19, 0, 0, 0]
    plainSend p (d ++ s.macBytes ++ beBytes 2 etPtp ++ m) (!peer) s

/-- Takes the next sequence number of a port. -/
def ptpSeq (p : Nat) (s : State) : Nat × State := ((s.ptp p).txSeq.toNat, s.setPtp p { s.ptp p with txSeq := (s.ptp p).txSeq + 1 })

/-- The body of an Announce as grandmaster: priorities, class 248, accuracy 0xFE, variance 0xFFFF, identity. -/
def announceBody (s : State) : List Byte :=
  zeros 13 ++ leBytes 1 (s.fld B.net NET.PTP_CTL_PRIO1) ++ [248, 0xFE, 0xFF, 0xFF] ++ leBytes 1 (s.fld B.net NET.PTP_CTL_PRIO2) ++ s.clockId ++ [0, 0, 0xA0]

/-- The path trace TLV of an Announce of IEEE 802.1AS: the own identity alone. -/
def pathTrace (s : State) : List Byte := if s.gptp then beBytes 2 8 ++ beBytes 2 8 ++ s.clockId else []

/-- The Follow_Up information TLV of IEEE 802.1AS: no rate offset, time base 0 and no phase or frequency change. -/
def followUpInfo (s : State) : List Byte :=
  if s.gptp then beBytes 2 3 ++ beBytes 2 28 ++ [0, 0x80, 0xC2, 0, 0, 1] ++ zeros 22 else []

/-- A message that the engine originates at its interval (R373). On a port without a link none is made, so that every time stamp is that of a
message which leaves at once (R372). -/
def ptpOriginate (p : Nat) (k : PtpMsg) (s : State) : State :=
  if ¬ s.ptpOn p ∨ ¬ s.linkUp p then s
  else
    let one := s.flag B.net NET.PTP_CTL_ONE_STEP
    let t := s.txTime p
    match k with
    | .sync =>
      if s.ptpState ≠ ptpMaster then s
      else
        let (n, s1) := ptpSeq p s
        let s2 := ptpSend p 0 (ptpMsg p 0 (!one) 0 n (if one then ptpStamp t s1 ++ followUpInfo s1 else zeros 10) s1) s1
        if one then s2 else ptpSend p 8 (ptpMsg p 8 false 0 n (ptpStamp t s2 ++ followUpInfo s2) s2) s2
    | .announce =>
      if s.ptpState ≠ ptpMaster then s
      else
        let (n, s1) := ptpSeq p s
        ptpSend p 0xB (ptpMsg p 0xB false 0 n (announceBody s1 ++ pathTrace s1) s1) s1
    | .delayReq =>
      if s.gptp ∨ (s.ptp p).master.isNone ∨ s.ptpState = ptpMaster then s
      else
        let (n, s1) := ptpSeq p s
        ptpSend p 1 (ptpMsg p 1 false 0 n (zeros 10) s1) (s1.setPtp p { s1.ptp p with req := some (n, t) })
    | .pdelayReq =>
      if ¬ s.gptp then s
      else
        let (n, s1) := ptpSeq p s
        ptpSend p 2 (ptpMsg p 2 false 0 n (zeros 20) s1) (s1.setPtp p { s1.ptp p with pd := some (n, t, 0, none) })

/-! ### Master selection (R373, R374, R377) -/

/-- The rank of a data set: priority1, class, accuracy, variance, priority2, identity, steps removed, sender. -/
def ptpRank (gm : List Byte) (steps : Nat) (sender : List Byte) : Nat := (beNat gm * 2 ^ 16 + steps) * 2 ^ 80 + beNat sender

/-- The own data set as a rank. -/
def State.ownRank (s : State) : Nat := ptpRank ((announceBody s).drop 13 |>.take 14) 0 (s.portId 0)

/-- The state and port that the best master algorithm decides. -/
def ptpDecide (s : State) : State :=
  let r (p : Nat) : Option Nat := if s.ptpOn p then (s.ptp p).master.map (·.1) else none
  let best : Option (Nat × Nat) := match r 0, r 1 with
    | some a, some b => some (if b < a then (b, 1) else (a, 0))
    | some a, none => some (a, 0)
    | none, some b => some (b, 1)
    | none, none => none
  let gm := s.flag B.net NET.PTP_CTL_GM_CAPABLE
  match best with
  | some (a, p) =>
    if gm ∧ s.ownRank < a then ptpGo ptpMaster s
    else
      let s1 := if s.ptpPort = p then s else (s.setFld B.net NET.PTP_STAT_PORT p).irq 450
      ptpGo ptpSlave s1
  | none =>
    if s.ptpState = ptpSlave then ptpGo ptpHoldover s
    else if s.ptpState = ptpListening ∧ gm then ptpGo ptpMaster s
    else s

/-- No Announce for 3 intervals. -/
def announceTimeout (p : Nat) (s : State) : State :=
  if s.ptpOn p then ptpDecide (s.setPtp p { s.ptp p with master := none, sync := none, req := none }) else s

/-! ### The servo (R375-R377) -/

/-- The largest ADJ. -/
def adjMax : Nat := 137438953

/-- Device time steps by an offset, and every enabled shaft starts anew (R376). -/
def timeStep (o : Int) (s : State) : State :=
  let s1 := { s with now := s.now - BitVec.ofInt 64 o }
  (List.range 8).foldl (fun a n =>
    if a.pgEnabled (0x200 + n) then
      let b := a.setFld (B.shaft n) SHAFT.STAT_VALID 0
      b.setShaft n { b.shaft n with theta := 0, omega := 0, acc := 0, tp := 0 }
    else a) s1

/-- Whether the servo may step (R376). -/
def State.mayStep (s : State) (o : Int) : Bool :=
  decide (16 * s.fld B.net NET.PTP_STEP_TH < o.natAbs) && s.flag B.net NET.PTP_SERVO_STEP_EN && s.mode == mCalico && !s.queueActive
    && !(List.range 16).any (fun r => s.line r == lnRun)

/-- The proportional-integral servo (R375): ADJ slows a device that is ahead. Its unit of offset is open (Config.servoScale); both terms are
rounded by RNE and the limit holds ADJ, not the sum (DESIGN CHOICE, log entry 123). -/
def servo (o : Int) (s : State) : State :=
  let e := o * Config.servoScale
  let i := s.net.integ + e
  let adj := clampInt (-adjMax) adjMax
    (-(rne e (2 ^ s.fld B.net NET.PTP_SERVO_PSHIFT) + rne i (2 ^ s.fld B.net NET.PTP_SERVO_ISHIFT)))
  { s with net := { s.net with integ := i } }.wr (B.net + NET.PTP_ADJ.off) (BitVec.ofInt 32 adj)

/-- The offset of a Sync is complete: it is reported, and on the selected port the servo steps or sets ADJ. When LOCKED is set is not stated: a
free value (log entry 3). -/
def ptpOffset (p : Nat) (s : State) : State :=
  let x := s.ptp p
  let o := x.t2 - x.t1 - x.delay
  let s1 := if 16 * s.fld B.net NET.PTP_OFS_LIM < o.natAbs then (s.raise 403).irq 451 else s
  if s.ptpState ≠ ptpSlave ∨ s.ptpPort ≠ p then s1
  else
    let s2 := s1.wr (B.net + NET.PTP_OFS.off) (BitVec.ofInt 32 (clampInt (-(2 ^ 31)) (2 ^ 31 - 1) (rne o 16)))
    let (v, s3) := s2.free
    let s4 := s3.setFld B.net NET.PTP_STAT_LOCKED (v.toNat % 2)
    if s4.mayStep o then timeStep o s4 else servo o s4

/-! ### Received messages -/

/-- The sender of a message is the port's master. -/
def fromMaster (p : Nat) (m : List Byte) (s : State) : Bool :=
  match (s.ptp p).master with
  | some a => a.2 == (m.drop 20).take 10
  | none => false

/-- A path trace TLV at the head of what follows an Announce names a clock, whose own message it then is (IEEE 802.1AS). -/
def inPath (id l : List Byte) : Bool :=
  be16 l 0 == 8 && (List.range (be16 l 2 / 8)).any (fun i => ((l.drop (4 + 8 * i)).take 8) == id)

/-- A PTP message at a port (R373-R377); `ts`: its arrival for an event message. -/
def ptpReceive (p : Nat) (ts : W64) (m : List Byte) (s : State) : State :=
  let b0 := leNat (m.take 1)
  let typ := b0 % 16
  let seq := be16 m 30
  let body := m.drop 34
  let x := s.ptp p
  let rx := s.rxTime p ts
  let corr := ptpCorr (m.drop 8)
  if ¬ s.ptpOn p ∨ m.length < 44 ∨ b0 / 16 ≠ (if s.gptp then 1 else 0) ∨ leNat ((m.drop 1).take 1) % 16 ≠ 2
      ∨ leNat ((m.drop 4).take 1) ≠ s.ptpDomain ∨ (m.drop 20).take 8 = s.clockId then s
  else match typ with
    | 0 =>
      if ¬ fromMaster p m s then s
      else if nbit (leNat ((m.drop 6).take 1)) 1 then s.setPtp p { x with sync := some (seq, rx - corr) }
      else ptpOffset p (s.setPtp p { x with t1 := ptpTime body s, t2 := rx - corr, sync := none })
    | 1 =>
      if s.gptp ∨ s.ptpState ≠ ptpMaster then s
      else ptpSend p 9 (ptpMsg p 9 false corr seq (ptpStamp rx s ++ (m.drop 20).take 10) s) s
    | 2 =>
      if ¬ s.gptp then s
      else
        let who := (m.drop 20).take 10
        let t3 := s.txTime p
        if s.flag B.net NET.PTP_CTL_ONE_STEP then ptpSend p 3 (ptpMsg p 3 false (corr + (t3 - rx)) seq (zeros 10 ++ who) s) s
        else
          let s1 := ptpSend p 3 (ptpMsg p 3 true 0 seq (ptpStamp rx s ++ who) s) s
          ptpSend p 0xA (ptpMsg p 0xA false corr seq (ptpStamp t3 s1 ++ who) s1) s1
    | 3 =>
      match x.pd with
      | none => s
      | some (n, t1, _, _) =>
        if n ≠ seq ∨ (body.drop 10).take 10 ≠ s.portId p then s
        else if nbit (leNat ((m.drop 6).take 1)) 1 then s.setPtp p { x with pd := some (n, t1, ptpTime body s + corr, some rx) }
        else s.setPtp p { x with pd := none, delay := (rx - t1 - corr) / 2 }
    | 8 =>
      match x.sync with
      | none => s
      | some (n, t2) =>
        if n ≠ seq ∨ ¬ fromMaster p m s then s
        else ptpOffset p (s.setPtp p { x with t1 := ptpTime body s + corr, t2 := t2, sync := none })
    | 9 =>
      match x.req with
      | none => s
      | some (n, t3) =>
        if n ≠ seq ∨ (body.drop 10).take 10 ≠ s.portId p ∨ ¬ fromMaster p m s then s
        else s.setPtp p { x with req := none, delay := ((x.t2 - x.t1) + (ptpTime body s - corr - t3)) / 2 }
    | 0xA =>
      match x.pd with
      | some (n, t1, t2, some t4) =>
        if n ≠ seq ∨ (body.drop 10).take 10 ≠ s.portId p then s
        else s.setPtp p { x with pd := none, delay := ((t4 - t1) - (ptpTime body s + corr - t2)) / 2 }
      | _ => s
    | 0xB =>
      if m.length < 64 ∨ 255 ≤ be16 body 27 ∨ (s.gptp ∧ inPath s.clockId (m.drop 64)) then s
      else
        let who := (m.drop 20).take 10
        let rank := ptpRank ((body.drop 13).take 14) (be16 body 27) who
        let take := match x.master with | some a => a.2 == who || decide (rank < a.1) | none => true
        if take then ptpDecide (s.setPtp p { x with master := some (rank, who) }) else s
    | _ => s

end Sys2Proof.Machine
end

