-- ==== Sys2Proof/Machine/YcpMem.lean ====
section
/-! DEFINITION. What YCP commands do on registers, memory, queues, images and halted threads (R76, R77, R387-R391). -/
namespace Sys2Proof.Machine

/-- How a command ends: a code with the response's payload, or an answer that follows when it completes (R387). -/
inductive YEnd where
  | done (code : Code) (data : List Byte) (s : State)
  | wait (s : State)

/-- A refused command changes nothing (R7). -/
def YEnd.refuse (c : Code) (s : State) : YEnd := .done c [] s

/-! ### Registers -/

/-- Every 4-byte register from an address on, `n` of them. -/
def regAddrs (a : Nat) : Nat → List Nat
  | 0 => []
  | n + 1 => a :: regAddrs (a + 4) n

def yRegPage (a : Nat) : Nat := a / 4096 % 0x40000

/-- An address of the register pages, allocated or not (R166, R467). -/
def inRegs (a : Nat) : Bool := decide (0x40000000 ≤ a) && decide (a < 0x40500000)

/-- Refusals of REG_READ. -/
def regReadCodes (w : Writer) (a n : Nat) (s : State) : List Code :=
  let l := regAddrs a (if n ≤ 256 then n else 0)
  refuseIf (n == 0 || decide (256 < n) || l.any (fun x => !inRegs x)) .range ++ refuseIf (a % 4 != 0) .align
    ++ refuseIf (l.any (fun x => inRegs x && (pageKind (yRegPage x)).isNone)) .absent
    ++ refuseIf (l.any (fun x => s.region x == .regs && !readAdmits w (yRegPage x) (x % 4096) s)) .priv

/-- Reads registers in ascending order. -/
def regReads (w : Writer) : List Nat → State → List Byte × State
  | [], s => ([], s)
  | a :: t, s =>
    let (v, s1) := pageRead w a .b4 s
    let (d, s2) := regReads w t s1
    (leBytes 4 v.toNat ++ d, s2)

def yRegRead (w : Writer) (a n : Nat) (cs : List Code) (s : State) : YEnd :=
  match Code.lowest (cs ++ regReadCodes w a n s) with
  | .ok => let (d, s1) := regReads w (regAddrs a n) s; .done .ok d s1
  | c => .refuse c s

/-- REG_WRITE: a request without the right changes no page, and is refused with the lowest of its codes and the page's (R7, R388); the
page's own refusal is recorded in PG_WSTAT. -/
def yRegWrite (w : Writer) (a : Nat) (v : W32) (cs : List Code) (s : State) : YEnd :=
  match Code.lowest (cs ++ refuseIf (!inRegs a) .range) with
  | .ok =>
    let (s1, c) := pageWrite w a .b4 (v.setWidth 64) s
    .done c (if (pageKind (yRegPage a)).isNone then [] else leBytes 4 (s1.rd (page (headPage (yRegPage a)) + PG.WSTAT.off)).toNat) s1
  | c => .refuse (Code.lowest [c, (pageWrite w a .b4 (v.setWidth 64) s).2]) s

/-! ### Memory through stream 20 -/

def regPieceWrite (w : Writer) : Nat → Nat → List Byte → State → State
  | 0, _, _, s => s
  | k + 1, a, d, s =>
    if d.isEmpty then s
    else
      let wide := a % 4 = 0 ∧ 4 ≤ d.length
      let m := if wide then 4 else 1
      regPieceWrite w k (a + m) (d.drop m) (pageWrite w a (if wide then .b4 else .b1) (BitVec.ofNat 64 (leNat (d.take m))) s).1

def yPiecesWrite (w : Writer) : List (Nat × Nat) → List Byte → State → State
  | [], _, s => s
  | (a, n) :: t, d, s =>
    yPiecesWrite w t (d.drop n) (if s.region a = .regs then regPieceWrite w n a (d.take n) s else s.pokeExt none a (d.take n))

/-- Any thread of a trio is halted. -/
def State.trioHalted (s : State) (n : Nat) : Bool := (trioKeys n).any (fun k => (s.thread k).halted)

/-- A debug write taints a trio (R77). -/
def debugTaint (n : Nat) (s : State) : State :=
  (s.setFld (B.trio n) TRIO.STAT_TAINT 1).setFld (B.trio n) TRIO.TAINT_CAUSE_DEBUG_WRITE 1

/-- A write into the local SRAM of a halted trio is a debug write (R76, R77; DEDUCED, log entry 42). -/
def taintHalted (ps : List (Nat × Nat)) (s : State) : State :=
  ps.foldl (fun a p => match (a.region p.1).trio? with | some n => if a.trioHalted n then debugTaint n a else a | none => a) s

/-- A write through stream 20 by a command with the refusals `cs` and those of its pieces. The translation unit refuses it with PRIV, and an
uncorrectable error in a word that it replaces only in part with INTEGRITY; a refused write changes nothing beyond the record of the refusal
that is reported (R7, R198, R387). -/
def yStreamWrite (a : Nat) (d : List Byte) (cs : List Code) (more : List (Nat × Nat) → State → List Code) (s : State) :
    Code × List (Nat × Nat) × State :=
  match s.ioPieces 20 true (splitLines (lineCount d.length) a d.length) with
  | .error (x, lv, r, s1) =>
    match Code.lowest cs with
    | .ok => (.priv, [], s1.ioRefuse 20 x true lv r)
    | c => if c.num < Code.priv.num ∨ c = .priv then (c, [], s) else (.priv, [], s1.ioRefuse 20 x true lv r)
  | .ok (ps, s1) =>
    let bad := ps.findSome? s1.badPart
    match Code.lowest (cs ++ more ps s1 ++ refuseIf bad.isSome .integrity) with
    | .ok => (.ok, ps, yPiecesWrite (ycpWriter 3) ps d s1)
    | .integrity => (.integrity, [], s1.busErr (bad.getD 0) 5 recDmaWrite .data)
    | c => (c, [], s)

/-- MEM_READ: answered once every piece is read, which a trio in PAIR holds until its next commit (R60, R387). -/
def yMemRead (place seq a n : Nat) (cs : List Code) (s : State) : YEnd :=
  match Code.lowest (cs ++ refuseIf (!inRange 1 1024 n) .range) with
  | .ok =>
    match s.ioPieces 20 false (splitLines (lineCount n) a n) with
    | .error (x, lv, r, s1) => .refuse .priv (s1.ioRefuse 20 x false lv r)
    | .ok (ps, s1) => .wait (ycpReads none place seq 0x12 ps [] s1)
  | c => .refuse c s

/-- A MEM_WRITE that is a debug write is allowed where debug writes are (R76). -/
def yMemCodes (ps : List (Nat × Nat)) (s : State) : List Code :=
  refuseIf (ps.any (fun p => match (s.region p.1).trio? with | some m => s.trioHalted m | none => false)
    && !(s.mode == mCalico || s.mode == mJersey)) .state

/-- MEM_WRITE, by which a debugger writes the local SRAM of a halted trio (R76, R77; DEDUCED, log entry 42). -/
def yMemWrite (a : Nat) (d : List Byte) (cs : List Code) (s : State) : YEnd :=
  let (c, ps, s1) := yStreamWrite a d (cs ++ refuseIf (!inRange 1 1024 d.length) .range) yMemCodes s
  .done c [] (taintHalted ps s1)

/-! ### Queues (R389) -/

/-- Appends the entries in turn; the first refused one's index and code. -/
def yAppends (q : Nat) : Nat → List RawEntry → State → Except (Nat × Code) State
  | _, [], s => .ok s
  | i, e :: t, s =>
    match Code.lowest (appendCodes .host q e s) with
    | .ok => yAppends q (i + 1) t (appendDo q e s)
    | c => .error (i, c)

def yAppend (q n : Nat) (l : List RawEntry) (cs : List Code) (s : State) : YEnd :=
  match Code.lowest (cs ++ refuseIf (!inRange 1 64 n || n != l.length) .range) with
  | .ok => match yAppends q 0 l s with
    | .ok s1 => .done .ok (leBytes 2 0xFFFF) s1
    | .error (i, c) => .done c (leBytes 2 i) (appendReject .host q c s)
  | c => match yAppends q 0 l s with
    | .ok _ => .refuse c s
    | .error (_, d) => .refuse (Code.lowest [c, d]) s

/-! ### Pattern window -/

def State.patBase (s : State) : Nat := s.fld B.ycp YCP.PAT_BASE_LO + s.fld B.ycp YCP.PAT_BASE_HI * 2 ^ 32
def State.patSize (s : State) : Nat := s.fld B.ycp YCP.PAT_SIZE

/-- The sequencer runs a track that lies in the window. -/
def State.patRuns (s : State) : Bool :=
  s.seqSt == seqRunning && (match s.seq.track with
    | some t => overlaps t.addr (64 + t.rows * t.rowB) s.patBase s.patSize
    | none => false)

def yPatWrite (o : Nat) (d : List Byte) (cs : List Code) (s : State) : YEnd :=
  let own := cs ++ refuseIf (!inRange 1 1024 d.length || decide (s.patSize < o + d.length)) .range ++ refuseIf s.patRuns .busy
  let (c, _, s1) := yStreamWrite (s.patBase + o) d own (fun _ _ => []) s
  .done c [] s1

/-- PAT_LOAD writes SEQ.TRK and issues LOAD with the session's ring; it is answered when the check ends. -/
def yPatLoad (w : Writer) (o : Nat) (cs : List Code) (s : State) : YEnd :=
  let a := s.patBase + o
  let put (r v : Nat) (x : State) : List Code × State := (regCodes w 0x220 r (BitVec.ofNat 32 v) x, regApply 0x220 r (BitVec.ofNat 32 v) x)
  let (c1, s1) := put SEQ.TRK_LO.off (a % 2 ^ 32) s
  let (c2, s2) := put SEQ.TRK_HI.off (a / 2 ^ 32) s1
  let (c3, s3) := put SEQ.CMD.off 1 s2
  match Code.lowest (cs ++ refuseIf (decide (s.patSize ≤ o)) .range ++ c1 ++ c2 ++ c3) with
  | .ok => .wait s3
  | c => .done c (leBytes 4 (s.rd (B.seq + SEQ.STAT.off)).toNat) s

/-! ### Images (R390, R395) -/

def State.imgBuf (s : State) : Nat := s.fld B.ycp YCP.IMG_BUF_LO + s.fld B.ycp YCP.IMG_BUF_HI * 2 ^ 32

def setUpload (u : Upload) (s : State) : State :=
  let s1 := s.setYcp { s.ycp with upload := some u }
  (s1.setFld B.ycp YCP.IMG_STAT_TARGET u.target).setFld B.ycp YCP.IMG_STAT_BUSY 1

/-- The source that the running image started from. -/
def State.runsFrom (s : State) (target : Nat) : Bool := s.dev.image.isSome && s.fld B.rst RST.BOOT_STAT_SOURCE + 1 == target

def imgBeginCodes (rom : Bool) (target : Nat) (h : List Byte) (s : State) : List Code :=
  refuseIf (decide (2 < target)) .range ++ refuseIf s.ycp.upload.isSome .busy
    ++ (if rom then refuseIf (target != 0) .state ++ headerRange h s
        else refuseIf (target == 0 || s.mode != mCalico || s.runsFrom target) .state
          ++ refuseIf (decide (s.fld B.ycp YCP.IMG_BUF_SIZE < fieldAt h 8 4)) .range)

def yImageBegin (place target : Nat) (h : List Byte) (cs : List Code) (s : State) : YEnd :=
  match Code.lowest (cs ++ refuseIf (h.length != 256) .range ++ imgBeginCodes (place == 8) target h s) with
  | .ok => .done .ok [] (setUpload ⟨place, target, h, 0, false, []⟩ s)
  | c => .refuse c s

def yImageData (place o : Nat) (d : List Byte) (cs : List Code) (s : State) : YEnd :=
  match s.ownUpload place with
  | none => .refuse (Code.lowest (cs ++ refuseIf (!inRange 1 1024 d.length) .range ++ [.state])) s
  | some u =>
    let own := cs ++ refuseIf (!inRange 1 1024 d.length || decide (fieldAt u.header 8 4 < o + d.length)) .range ++ refuseIf (o != u.got) .order
    let u1 := { u with got := u.got + d.length }
    if u.target = 0 then
      match Code.lowest own with
      | .ok => .done .ok [] ((s.poke (fieldAt u.header 0x010 8 + o) d).setYcp { s.ycp with upload := some u1 })
      | c => .refuse c s
    else
      let (c, _, s1) := yStreamWrite (s.imgBuf + o) d own (fun _ _ => []) s
      .done c [] (if c = .ok then s1.setYcp { s1.ycp with upload := some u1 } else s1)

/-- IMAGE_END outside the ROM: the staged image is read, as MEM_READ reads, and then checked. -/
def yImageEnd (place seq : Nat) (cs : List Code) (s : State) : YEnd :=
  match s.ownUpload place with
  | none => .refuse (Code.lowest (cs ++ [.state])) s
  | some u =>
    let len := fieldAt u.header 8 4
    match Code.lowest (cs ++ refuseIf (decide (u.got < len)) .state) with
    | .ok =>
      match s.ioPieces 20 false (splitLines (lineCount len) s.imgBuf len) with
      | .error (x, lv, r, s1) => .refuse .priv (s1.ioRefuse 20 x false lv r)
      | .ok (ps, s1) => .wait (ycpReads none place seq 0x52 ps [] s1)
    | c => .refuse c s

/-- What programming an image leaves in flash: whole 4 KiB sectors are erased first (PRESUMED, log entry 39); a failed one leaves bytes that are
not stated (log entry 3) and raises source 243 (R406). -/
def imageBurn (u : Upload) (ok : Bool) (s : State) : State :=
  let img := u.header ++ u.data
  let n := (img.length + 4095) / 4096 * 4096
  if ok then flashPut (u.target - 1) 0 (img ++ List.replicate (n - img.length) 0xFF) s
  else
    let (b, s1) := s.freeList n
    (flashPut (u.target - 1) 0 b s1).raise 243

/-- IMAGE_END in the ROM: RAM holds the payload; whether it starts, and with what code (R33, R395). -/
def romImageEnd (cs : List Code) (s : State) : YEnd × Option (List Byte × List Byte) :=
  match s.ownUpload 8 with
  | none => (.refuse (Code.lowest (cs ++ [.state])) s, none)
  | some u =>
    let len := fieldAt u.header 8 4
    match Code.lowest (cs ++ refuseIf (decide (u.got < len) || (s.ssLatched && s.mode == mFelt)) .state) with
    | .ok =>
      let d := s.readMem (fieldAt u.header 0x010 8) len
      let c := imageCode u.header d s
      let s1 := imageOver c (if s.dev.phase = .netWait then s.setFld B.rst RST.BOOT_STAT_CODE_NET c.num else s)
      (.done c (leBytes 1 c.num) s1, if c = .ok then some (u.header, d) else none)
    | c => (.refuse c s, none)

/-! ### Debug (R76, R77, R388, R391) -/

def yChal (place : Nat) (x : Session) (cs : List Code) (s : State) : YEnd :=
  match Code.lowest (cs ++ refuseIf s.dev.fuses.debugOff .absent ++ refuseIf s.ycp.lockout .busy) with
  | .ok =>
    let (c, s1) := s.freeList 48
    .done .ok c (s1.putSess place { x with chal := some c })
  | c => .refuse c s

/-- DEBUG_UNLOCK: a challenge serves one attempt; the fourth failure starts the lockout. -/
def yUnlock (place : Nat) (x : Session) (key sig : List Byte) (cs : List Code) (s : State) : YEnd :=
  match Code.lowest (cs ++ refuseIf (key.length != 96 || sig.length != 96) .range ++ refuseIf s.dev.fuses.debugOff .absent
      ++ refuseIf x.chal.isNone .state) with
  | .ok =>
    let ch := x.chal.getD []
    let c := Code.lowest (refuseIf (sha384 key != s.dev.fuses.debugKey) .key ++ refuseIf (!Config.ecdsaVerify key (sha384 ch) sig) .integrity)
    let s1 := s.putSess place { x with chal := none, unlocked := x.unlocked || c == .ok }
    if c = .ok then .done .ok [] (s1.irq 459)
    else
      let n := s1.ycp.tries + 1
      .refuse c (s1.setYcp { s1.ycp with tries := n, lockout := s1.ycp.lockout || decide (4 ≤ n) })
  | c => .refuse c s

/-- The thread of a debug command with its key. -/
def dbgThread (n core thr : Nat) : ThreadId := ⟨Fin.ofNat 13 n, Fin.ofNat 3 core, Fin.ofNat 8 thr⟩

def dbgKeys (n core : Nat) (s : State) : List Nat := (List.range 8).map (threadKey n (if s.conf n = 2 then core else 0))

def State.coreHalted (s : State) (n core : Nat) : Bool := (dbgKeys n core s).any (fun k => (s.thread k).halted)

def dbgModes (s : State) : List Code := refuseIf (!(s.mode == mCalico || s.mode == mJersey)) .state

def yHalt (n core : Nat) (cs : List Code) (s : State) : YEnd :=
  match Code.lowest (cs ++ refuseIf (decide (12 < n) || decide (2 < core)) .range ++ dbgModes s ++ refuseIf (!s.trioIn n) .absent) with
  | .ok => .done .ok [] (haltCore s n core)
  | c => .refuse c s

def yResume (n core : Nat) (cs : List Code) (s : State) : YEnd :=
  match Code.lowest (cs ++ refuseIf (decide (12 < n) || decide (2 < core)) .range ++ refuseIf (!s.coreHalted n core) .state) with
  | .ok => .done .ok [] ((dbgKeys n core s).foldl (fun a k => a.setThread k { a.thread k with halted := false }) s)
  | c => .refuse c s

def dbgCodes (n core thr : Nat) (s : State) : List Code :=
  refuseIf (decide (12 < n) || decide (2 < core) || decide (7 < thr)) .range ++ refuseIf (!s.coreHalted n core) .state

/-- The word that a thread is about to issue; 0 where its fetch fails, which the run reports. -/
def dbgWord (t : ThreadId) (k : Nat) (th : Thread) (s : State) : W32 :=
  match (fetchAcc th).checkNow blkFuel ⟨t, k, th, 0, ⟨.endp, 0, 0, 0, 0, 0, 0, 0, false⟩, [], none⟩ s with
  | .ok (ps, s1) => BitVec.ofNat 32 (leNat (s1.readMem (ps.headD (0, 0)).1 4))
  | .error _ => 0

/-- Lets what a stepped instruction waits for arrive without error. -/
def dbgSettle (t : ThreadId) : Nat → State → State
  | 0, s => s
  | n + 1, s =>
    match (s.thread (s.tkey t)).st with
    | .stalled (.load ..) => dbgSettle t n (loadArrives t .ok s)
    | .stalled (.cop _) => dbgSettle t n (copResult t {} s)
    | .stalled (.walk ..) => dbgSettle t n (walkReads t .ok s)
    | .stalled (.fill ..) => dbgSettle t n (icacheFills t .ok s)
    | .stalled (.space _) => dbgSettle t n (storePerforms t .ok s)
    | .stalled (.drain _) => dbgSettle t n (storePerforms t .ok s)
    | .stalled (.sync _) => dbgSettle t n (storePerforms t .ok s)
    | .stalled (.syncTlb _) => dbgSettle t n (tlbiCompletes t s)
    | .stalled (.blk ..) => dbgSettle t n (blockChunk t .ok s)
    | .running => s
    | .waiting => s
    | .stopped => s

/-- DEBUG_STEP runs the halted thread's next instruction to its end (DEDUCED, log entry 43). -/
def yStep (n core thr : Nat) (cs : List Code) (s : State) : YEnd :=
  match Code.lowest (cs ++ dbgCodes n core thr s) with
  | .ok =>
    let t := dbgThread n core thr
    let k := s.tkey t
    let th := s.thread k
    let go (h : Bool) (x : State) : State := x.setThread k { x.thread k with halted := h }
    let s1 := if th.st = .running then coreRun (go false s) t k { th with halted := false } (dbgWord t k th s) [] none else go false s
    let s2 := go true (dbgSettle t 1024 s1)
    .done .ok (leBytes 8 (s2.thread k).pc.toNat) s2
  | c => .refuse c s

def dbgRegRange (reg : Nat) : List Code := refuseIf (!(decide (reg < 32) || (decide (0x40 ≤ reg) && srOk (reg - 0x40)))) .range

def yDbgRead (n core thr reg : Nat) (cs : List Code) (s : State) : YEnd :=
  match Code.lowest (cs ++ dbgCodes n core thr s ++ dbgRegRange reg) with
  | .ok =>
    let t := dbgThread n core thr
    let th := s.thread (s.tkey t)
    .done .ok (leBytes 8 (if reg < 32 then th.reg reg else th.sreg t s.now (reg - 0x40)).toNat) s
  | c => .refuse c s

/-- A segment register takes a selector as MTS loads it (R172), its table reads made at once; none where that raises an exception. -/
def dbgSeg (t : ThreadId) (k g : Nat) (v : W64) (th : Thread) (s : State) : Option (Seg × State) :=
  let sel : BitVec 16 := v.extractLsb' 0 16
  if sel = 0 then some (⟨0, 0, 0, false, false, false, 0⟩, s)
  else if sel = 0xFFFF then (if th.ring = 0 then some (Seg.flat, s) else none)
  else
    let part := s.partOf t th.ring
    let b := B.part part
    if s.fld b PART.SDT_LIMIT ≤ sel.toNat then none
    else
      let base := s.fld b PART.SDT_BASE_LO + s.fld b PART.SDT_BASE_HI * 2 ^ 32
      let acc : MAcc := ⟨none, base + 16 * sel.toNat, 16, 7, 1, false, false, if part = 0 then 0 else 1, .read, none⟩
      match acc.checkNow blkFuel ⟨t, k, th, 0, ⟨.mts, g, 0, 0, 0, 0, 0, 0, false⟩, [], none⟩ s with
      | .error _ => none
      | .ok (ps, s1) =>
        let d := blkBytes s1 t k ps
        if (s1.badOf ps).isSome then none
        else match segOfDescr sel (BitVec.ofNat 64 (leNat (d.take 8))) (BitVec.ofNat 64 (leNat (d.drop 8))) th.ring with
        | .ok x => some (x, s1)
        | .error _ => none

/-- DEBUG_REG_WRITE; a register without a write ring and a selector that MTS would refuse are out of range (DESIGN CHOICE, log entry 44). -/
def yDbgWrite (n core thr reg : Nat) (v : W64) (cs : List Code) (s : State) : YEnd :=
  let t := dbgThread n core thr
  let k := s.tkey t
  let th := s.thread k
  let sr := reg - 0x40
  let seg := decide (0x60 ≤ reg) && decide (reg < 0x70)
  match Code.lowest (cs ++ dbgCodes n core thr s ++ dbgRegRange reg ++ dbgModes s
      ++ refuseIf (decide (0x70 ≤ reg) || (seg && (dbgSeg t k (sr - 0x20) v th s).isNone)) .range) with
  | .ok =>
    if reg < 32 then .done .ok [] (debugTaint n (s.setThread k (th.setReg reg v)))
    else if sr = 0 then .done .ok [] (debugTaint n (s.setThread k (s.holdCe { th with sr := BitVec.ofNat 64 (bf v 0 9) })))
    else if 0x20 ≤ sr then
      match dbgSeg t k (sr - 0x20) v th s with
      | some (x, s1) => .done .ok [] (debugTaint n (s1.setThread k { th with seg := th.seg.set flatSeg (sr - 0x20) x }))
      | none => .refuse .range s
    else .done .ok [] (debugTaint n (s.setThread k (th.setSreg sr v)))
  | c => .refuse c s

end Sys2Proof.Machine
end

