-- ==== Sys2Proof/Machine/Ycp.lean ====
section
/-! DEFINITION. Sessions, the window of requests, the commands and the safety layer of YCP, and its rows (R382-R397). -/
namespace Sys2Proof.Machine

/-! ### Identity and sessions -/

/-- The IDENTIFY payload (R388, R461). Widths of 1 byte for stepping letter and mode and 2 for each edition are PRESUMED (log entry 45). -/
def identity (s : State) : List Byte :=
  let w (f : Fld) : Nat := (s.rd (B.sys + f.off)).toNat
  leBytes 4 (w SYS.ORDER) ++ leBytes 4 (s.rd (B.sys + SYS.ORDER.off + 4)).toNat ++ leBytes 1 (w SYS.ID_STEP) ++ leBytes 2 (w SYS.ID_EDITION)
    ++ leBytes 2 (w SYS.ID_EDITION / 65536) ++ leBytes 8 s.dev.fuses.serial.toNat ++ s.macBytes ++ leBytes 1 s.mode
    ++ leBytes 4 (s.rd (B.rst + RST.BOOT_STAT.off)).toNat

/-- The sessions by place. -/
def State.sessList (s : State) : List (Nat × Session) := s.ycp.sess.cells.filter (fun c => decide (c.1 < 8))

def State.pendingCount (s : State) : Nat := (s.sessList.filter (·.2.pending)).length

/-- The first free place of a session. -/
def State.freePlace (s : State) : Option Nat := (List.range 8).find? (fun p => !s.ycp.sess.has p)

/-- A session number from a free value: not 0 and unlike every other one (log entry 3). -/
def pickNum (used : List W32) : Nat → W32 → W32
  | 0, x => x
  | n + 1, x => if x = 0 ∨ used.contains x then pickNum used n (x + 1) else x

/-- OPEN (R385): the code and, for a session opened, its place. -/
def openCodes (slot : Nat) (zs : BitVec 24) (fits : Bool) (s : State) : List Code :=
  refuseIf (!fits || decide (7 < slot) || zs != 0) .range ++ refuseIf ((s.keySlot slot).ctl.getLsbD 0 == false) .absent
    ++ refuseIf (s.freePlace.isNone || decide (4 ≤ s.pendingCount)) .full

/-- Answers OPEN: the tag of a session opened stands under its own key, with SEQ 0 (R382, R385). -/
def openSession (r : YReq) (slot : Nat) (zs : BitVec 24) (nh : BitVec 128) (s : State) : State :=
  let plain (c : Code) : State := ycpSend r.src (ycpHead (1 + 2 * b2n r.enc) 0 r.seq 2 c.num 0) s
  match Code.lowest (openCodes slot zs r.fits s), s.freePlace with
  | .ok, some place =>
    let k := s.keySlot slot
    let (x, s1) := s.free
    let num := pickNum (s.sessList.map (·.2.num)) 9 (x.extractLsb' 0 32)
    let (nd, s2) := s1.freeList 16
    let key := (hmac384 k.key ([0x59, 0x43, 0x50, 0x31] ++ leBytes 4 num.toNat ++ leBytes 16 nh.toNat ++ nd)).take 32
    let y : Session := { num := num, pending := true, ring := Fin.ofNat 4 (bf k.ctl 1 2), rights := bf k.ctl 8 9, key := key }
    let head := ycpHead (1 + 2 * b2n r.enc) 0 r.seq 2 0 20
    ycpSend r.src (ycpSeal key (ycpNonce num 0 true) r.enc head (leBytes 4 num.toNat ++ nd)) (s2.putSess place y)
  | .ok, none => plain .full
  | c, _ => plain c

/-! ### The safety layer (R392, R393) -/

/-- The device's safety PDU (R392). -/
def devicePdu (echo : Nat) (s : State) : List Byte :=
  let st := s.mode + 8 * b2n (s.fld B.coll COLL.STAT_STO_RUN != 255) + 16 * b2n s.ssLatched + 32 * b2n (s.flag B.ycp YCP.SAFE_STAT_STOP)
  let body := leBytes 4 (s.rd (B.ycp + YCP.SAFE_CONN.off)).toNat ++ leBytes 4 s.ycp.ownCnt.toNat ++ leBytes 4 echo ++ leBytes 2 st ++ [0, 0]
  body ++ leBytes 4 (crc32c body)

/-- A supervision failure: 1 CRC or CONN, 2 counter, 3 watchdog. -/
def safeFail (why : Nat) (s : State) : State :=
  (((s.setFld B.ycp YCP.SAFE_STAT_FAIL why).incSat B.ycp YCP.SAFE_FAIL).raise 409).irq 460

/-- The checker takes a host PDU (R393). -/
def safeCheck (pdu : BitVec 128) (copiesAgree : Bool) (s : State) : State :=
  let b := leBytes 16 pdu.toNat
  let cnt : W32 := pdu.extractLsb' 32 32
  let stop := pdu.getLsbD 64
  let s0 := if copiesAgree then s else (s.raise 411).irq 460
  if fieldAt b 12 4 ≠ crc32c (b.take 12) ∨ pdu.extractLsb' 0 32 ≠ s.rd (B.ycp + YCP.SAFE_CONN.off) ∨ bf pdu 65 31 ≠ 0 then safeFail 1 s0
  else
    let s1 := s0.setFld B.ycp YCP.SAFE_STAT_STOP (b2n stop)
    let s2 := if stop then (s1.raise 410).irq 460 else s1
    if s.ycp.first ∨ cnt = s.ycp.cnt + 1 then
      ((s2.setYcp { s2.ycp with first := false, cnt := cnt }).setFld B.ycp YCP.SAFE_STAT_ARMED 1).wr (B.ycp + YCP.SAFE_CNT.off) cnt
    else if cnt = s.ycp.cnt then s2
    else safeFail 2 s2

def ySafe (pdu : BitVec 128) (copiesAgree : Bool) (cs : List Code) (s : State) : YEnd :=
  match Code.lowest (cs ++ refuseIf (!s.flag B.ycp YCP.SAFE_CTL_EN) .state) with
  | .ok =>
    let s1 := safeCheck pdu copiesAgree s
    .done .ok (devicePdu (pdu.extractLsb' 32 32).toNat s1) (s1.setYcp { s1.ycp with ownCnt := s1.ycp.ownCnt + 1 })
  | c => .refuse c s

/-! ### Execution (R387, R388) -/

/-- The refusals every command has: LEN that does not fit, an unknown CMD, a missing right. -/
def yCodes (x : Session) (r : YReq) : List Code :=
  let unknown := match r.cmd with | .unknown _ => true | _ => false
  let may := match r.cmd.right with | some n => nbit x.rights n && (!r.cmd.needsUnlock || x.unlocked) | none => true
  refuseIf (!r.fits || unknown) .range ++ refuseIf (!may) .priv

/-- Runs the request of a session at a place outside the ROM. -/
def ycpRun (place : Nat) (x : Session) (r : YReq) (s : State) : YEnd :=
  let cs := yCodes x r
  let w := ycpWriter x.ring
  match r.cmd with
  | .identify => .done (Code.lowest cs) (if cs.isEmpty then identity s else []) s
  | .openS .. => .refuse .range s
  | .closeS => .refuse (Code.lowest cs) s
  | .ping => .done (Code.lowest cs) (if cs.isEmpty then leBytes 8 s.now.toNat else []) s
  | .regRead a n => yRegRead w a.toNat n.toNat cs s
  | .regWrite a v => yRegWrite w a.toNat v cs s
  | .memRead a n => yMemRead place r.seq a.toNat n.toNat cs s
  | .memWrite a d => yMemWrite a.toNat d cs s
  | .qappend q n l => yAppend q.toNat n.toNat l cs s
  | .patWrite o d => yPatWrite o.toNat d cs s
  | .patLoad o => yPatLoad w o.toNat cs s
  | .modeReq t =>
    match Code.lowest (cs ++ refuseIf (decide (7 < t.toNat)) .range) with
    | .ok => .wait (modeRequest t.toNat (some (place, BitVec.ofNat 32 r.seq)) s)
    | c => .refuse (Code.lowest (c :: modeCodes t.toNat s)) s
  | .imageBegin t h => yImageBegin place t.toNat h cs s
  | .imageData o d => yImageData place o.toNat d cs s
  | .imageEnd => yImageEnd place r.seq cs s
  | .debugChal => yChal place x cs s
  | .debugUnlock k g => yUnlock place x k g cs s
  | .debugHalt n c => yHalt n.toNat c.toNat cs s
  | .debugResume n c => yResume n.toNat c.toNat cs s
  | .debugStep n c t => yStep n.toNat c.toNat t.toNat cs s
  | .debugRegRead n c t g => yDbgRead n.toNat c.toNat t.toNat g.toNat cs s
  | .debugRegWrite n c t g v => yDbgWrite n.toNat c.toNat t.toNat g.toNat v cs s
  | .safe p ok => ySafe p ok cs s
  | .unknown _ => .refuse .range s

/-- Starts a session's next request: E moves on, and the answer goes out when it is done. -/
def ycpStart (place : Nat) (x : Session) (r : YReq) (s : State) : State :=
  let x1 := { x with next := r.seq + 1, exec := some r }
  let s1 := s.putSess place x1
  match ycpRun place x1 r s1 with
  | .wait s2 => s2
  | .done c d s2 =>
    let s3 := ycpAnswer place r.seq r.cmd.num c d s2
    if r.cmd.num = 3 ∧ c = Code.ok then sessClose place s3 else s3

/-- The engine executes a request, whose session may have closed: no other starts (R387). -/
def State.ycpBusy (s : State) : Bool :=
  s.ycp.sess.cells.any (fun c => c.2.exec.isSome) || s.ycp.patLate || (match s.ycp.upload with | some u => u.burn | none => false)
    || (match s.dev.trans with | some t => t.ycp.isSome | none => false)

/-- Starts the held requests that now follow, once the engine is free; a session whose next SEQ would exceed 0xFFFF_FFFF closes (R385-R387). -/
def ycpDrain (place : Nat) : Nat → State → State
  | 0, s => s
  | n + 1, s =>
    match s.ycp.sess.find place with
    | none => s
    | some x =>
      if s.ycpBusy then s
      else if 2 ^ 32 ≤ x.next then sessClose place s
      else match x.held.find? (fun r => r.seq == x.next) with
        | none => s
        | some r => ycpDrain place n (ycpStart place { x with held := x.held.filter (fun q => q.seq != r.seq) } r s)

/-- At most 15 requests are held. -/
def drainFuel : Nat := 17

def ycpDrainAll (s : State) : State := (List.range 8).foldl (fun a p => ycpDrain p drainFuel a) s

/-- R383: a packet discarded and counted. -/
def ycpDiscard (s : State) : State := s.incSat B.ycp YCP.DISCARD

/-- The window of R386 for a request that its session may take; it waits with the held ones while the engine executes another (R387;
DEDUCED, log entry 60). -/
def ycpWindow (place : Nat) (x : Session) (r : YReq) (s : State) : State :=
  let e := x.next
  if r.seq = e then
    if s.ycpBusy then s.putSess place { x with held := if x.held.any (fun q => q.seq == r.seq) then x.held else x.held ++ [r] }
    else ycpDrain place drainFuel (ycpStart place x r s)
  else if e < r.seq ∧ r.seq ≤ e + 15 then
    (if x.held.any (fun q => q.seq == r.seq) then s else s.putSess place { x with held := x.held ++ [r] })
  else if e ≤ r.seq + 16 ∧ r.seq < e then
    match x.resps.find? (fun y => y.seq == r.seq) with
    | some y => ycpSend r.src y.packet s
    | none => if (match x.exec with | some q => q.seq == r.seq | none => false) then s else ycpDiscard s
  else ycpDiscard s

/-! ### The ROM's service (R395) -/

/-- The Canvas ROM serves YCP. -/
def romServes (s : State) : Bool :=
  (s.dev.phase == .netWait || (s.mode == mFelt && s.dev.phase == .felt)) && !s.dev.fuses.netOff

def romRun (r : YReq) (s : State) : YEnd × Option (List Byte × List Byte) :=
  let cs := refuseIf (!r.fits) .range
  match r.cmd with
  | .imageBegin t h => (yImageBegin 8 t.toNat h cs s, none)
  | .imageData o d => (yImageData 8 o.toNat d cs s, none)
  | .imageEnd => romImageEnd cs s
  | _ => (.refuse .state s, none)

/-- Runs a request of the ROM's context; a good image starts once its response is out. -/
def romStart (x : Session) (r : YReq) (s : State) : State :=
  let s1 := s.putSess 8 { x with next := r.seq + 1, exec := some r }
  match romRun r s1 with
  | (.done c d s2, go) =>
    let s3 := ycpAnswer 8 r.seq r.cmd.num c d s2
    match go with
    | some (h, p) => imageStarts 2 h p s3
    | none => s3
  | (.wait s2, _) => s2

def romDrain : Nat → State → State
  | 0, s => s
  | n + 1, s =>
    match s.ycp.sess.find 8 with
    | none => s
    | some x => match x.held.find? (fun r => r.seq == x.next) with
      | none => s
      | some r => romDrain n (romStart { x with held := x.held.filter (fun q => q.seq != r.seq) } r s)

/-- Requests with SESSION 0 to the ROM: IDENTIFY outside the SEQ rules, IMAGE_BEGIN that resets E, the rest by R386; any other command
is refused with STATE (DEDUCED, log entry 46). -/
def romPacket (r : YReq) (s : State) : State :=
  let answer (c : Code) (d : List Byte) (s : State) : State :=
    ycpSend r.src (ycpHead (1 + 2 * b2n r.enc) 0 r.seq r.cmd.num c.num d.length ++ d) s
  let unknown := match r.cmd with | .unknown _ => true | _ => false
  let x := (s.ycp.sess.find 8).getD { num := 0 }
  match r.cmd with
  | .identify => if r.fits then answer .ok (identity s) s else answer .range [] s
  | .imageBegin .. =>
    match x.resps.find? (fun y => y.seq == r.seq) with
    | some y => ycpSend r.src y.packet s
    | none => romDrain drainFuel (romStart { x with resps := [], held := [] } r s)
  | .imageData .. =>
    if r.seq = x.next then romDrain drainFuel (romStart x r s) else ycpWindow 8 x r s
  | .imageEnd =>
    if r.seq = x.next then romDrain drainFuel (romStart x r s) else ycpWindow 8 x r s
  | _ => answer (Code.lowest (.state :: refuseIf (!r.fits || unknown) .range)) [] s

/-! ### Packets (R383) -/

/-- Page 0x323 takes requests: enabled, and not in Gauze or Velvet. -/
def State.ycpOn (s : State) : Bool := s.pgEn 0x323 && s.mode != mGauze && s.mode != mVelvet

/-- A request as received (R383, R385, R386, R395). -/
def ycpRequest (src : Option YPeer) (h : YcpHdr) (c : YCmd) (s : State) : State :=
  let r : YReq := ⟨h.seq.toNat, c, h.lenFits, h.enc, src⟩
  if ¬ romServes s ∧ ¬ s.ycpOn then s
  else if ¬ h.wellFormed then ycpDiscard s
  else if romServes s then (if h.session = 0 then romPacket r s else ycpDiscard s)
  else if h.session = 0 then
    match c with
    | .identify =>
      let d := if h.lenFits then identity s else []
      ycpSend src (ycpHead (1 + 2 * b2n h.enc) 0 h.seq.toNat 1 (if h.lenFits then Code.ok else Code.range).num d.length ++ d) s
    | .openS slot z n => openSession r slot.toNat z n s
    | _ => ycpDiscard s
  else match s.sessList.find? (fun p => p.2.num == h.session) with
    | none => ycpDiscard s
    | some (place, x) =>
      if ¬ h.auth then ((ycpDiscard s).incSat B.ycp YCP.AUTH_FAIL).irq 455
      else if x.pending then
        if r.seq = 1 then ycpWindow place { x with pending := false } r ((s.putSess place { x with pending := false }).irq 453)
        else ycpDiscard s
      else ycpWindow place x r s

/-! ### Rows -/

def execYcpIdentify (h : YcpHdr) (s : State) : Res := .next (ycpRequest none h .identify s)
def execYcpOpen (h : YcpHdr) (slot : Byte) (zeros : BitVec 24) (nonce : BitVec 128) (s : State) : Res :=
  .next (ycpRequest none h (.openS slot zeros nonce) s)
def execYcpClose (h : YcpHdr) (s : State) : Res := .next (ycpRequest none h .closeS s)
def execYcpPing (h : YcpHdr) (s : State) : Res := .next (ycpRequest none h .ping s)
def execRegRead (h : YcpHdr) (addr : W64) (count : W32) (s : State) : Res := .next (ycpRequest none h (.regRead addr count) s)
def execRegWrite (h : YcpHdr) (addr : W64) (v : W32) (s : State) : Res := .next (ycpRequest none h (.regWrite addr v) s)
def execMemRead (h : YcpHdr) (addr : W64) (len : W32) (s : State) : Res := .next (ycpRequest none h (.memRead addr len) s)
def execMemWrite (h : YcpHdr) (addr : W64) (data : List Byte) (s : State) : Res := .next (ycpRequest none h (.memWrite addr data) s)
def execQappend (h : YcpHdr) (q : BitVec 16) (count : BitVec 16) (entries : List RawEntry) (s : State) : Res :=
  .next (ycpRequest none h (.qappend q count entries) s)
def execPatWrite (h : YcpHdr) (ofs : W32) (data : List Byte) (s : State) : Res := .next (ycpRequest none h (.patWrite ofs data) s)
def execPatLoad (h : YcpHdr) (ofs : W32) (s : State) : Res := .next (ycpRequest none h (.patLoad ofs) s)
def execYcpModeReq (h : YcpHdr) (target : Byte) (s : State) : Res := .next (ycpRequest none h (.modeReq target) s)
def execImageBegin (h : YcpHdr) (target : Byte) (hdr : List Byte) (s : State) : Res := .next (ycpRequest none h (.imageBegin target hdr) s)
def execImageData (h : YcpHdr) (ofs : W32) (data : List Byte) (s : State) : Res := .next (ycpRequest none h (.imageData ofs data) s)
def execImageEnd (h : YcpHdr) (s : State) : Res := .next (ycpRequest none h .imageEnd s)
def execDebugChal (h : YcpHdr) (s : State) : Res := .next (ycpRequest none h .debugChal s)
def execDebugUnlock (h : YcpHdr) (pubkey sig : List Byte) (s : State) : Res := .next (ycpRequest none h (.debugUnlock pubkey sig) s)
def execDebugHalt (h : YcpHdr) (trio core : Byte) (s : State) : Res := .next (ycpRequest none h (.debugHalt trio core) s)
def execDebugResume (h : YcpHdr) (trio core : Byte) (s : State) : Res := .next (ycpRequest none h (.debugResume trio core) s)
def execDebugStep (h : YcpHdr) (trio core thr : Byte) (s : State) : Res := .next (ycpRequest none h (.debugStep trio core thr) s)
def execDebugRegRead (h : YcpHdr) (trio core thr : Byte) (reg : BitVec 16) (s : State) : Res :=
  .next (ycpRequest none h (.debugRegRead trio core thr reg) s)
def execDebugRegWrite (h : YcpHdr) (trio core thr : Byte) (reg : BitVec 16) (v : W64) (s : State) : Res :=
  .next (ycpRequest none h (.debugRegWrite trio core thr reg v) s)
def execYcpSafe (h : YcpHdr) (pdu : BitVec 128) (copiesAgree : Bool) (s : State) : Res := .next (ycpRequest none h (.safe pdu copiesAgree) s)

/-- R393: no good PDU within WATCHDOG. -/
def execSafeWatchdog (s : State) : Res := .next (s.unlessGated (if s.flag B.ycp YCP.SAFE_CTL_EN then safeFail 3 s else s))

/-- R385: a session still pending after 1 s. -/
def execSessionPendingTimeout (slot : Fin 8) (s : State) : Res :=
  .next (s.unlessGated (match s.ycp.sess.find slot.val with
    | some x => if x.pending then sessClose slot.val s else s
    | none => s))

def execSessionIdleTimeout (slot : Fin 8) (s : State) : Res :=
  .next (s.unlessGated (match s.ycp.sess.find slot.val with
    | some x => if x.pending then s else ycpDrainAll (sessClose slot.val s)
    | none => s))

/-- R386: a request held for 100 ms; while the ROM serves, one of its single context (R395). -/
def execHeldRequestTimeout (slot : Fin 8) (seq : W32) (s : State) : Res :=
  let p := if romServes s then 8 else slot.val
  .next (s.unlessGated (match s.ycp.sess.find p with
    | some x => if x.held.any (fun r => r.seq == seq.toNat) then s.putSess p { x with held := x.held.filter (fun r => r.seq != seq.toNat) } else s
    | none => s))

def execDebugLockoutEnd (s : State) : Res :=
  .next (if s.ycp.lockout then s.setYcp { s.ycp with lockout := false, tries := 0 } else s)

/-- R390: programming and read-back of an image end, and IMAGE_END is answered. -/
def execImageFlashComplete (ok : Bool) (s : State) : Res :=
  .next (s.unlessGated (match s.ycp.upload with
    | none => s
    | some u =>
      if ¬ u.burn then s
      else
        let c := if ok then Code.ok else Code.integrity
        let s1 := flashShow (u.target - 1) (imageOver c (imageBurn u ok s))
        let s2 := match s1.ycp.sess.find u.owner with
          | some x => ycpAnswer u.owner (match x.exec with | some r => r.seq | none => 0) 0x52 c (leBytes 1 c.num) s1
          | none => s1
        ycpDrainAll s2))

/-- R273: the track check ends; a PAT_LOAD that waited for it is answered. -/
def execSeqLoadDone (s : State) : Res :=
  .next (s.unlessGated (match s.seq.loading with
    | none => s
    | some a =>
      let c := (trackCheck a s).1
      let s0 := seqLoadDone s
      let s1 := s0.setYcp { s0.ycp with patLate := false }
      let stat := leBytes 4 (s1.rd (B.seq + SEQ.STAT.off)).toNat
      ycpDrainAll (s1.sessList.foldl (fun b p => match p.2.exec with
        | some r => ycpAnswer p.1 r.seq 0x31 c stat b
        | none => b) s1)))

/-! Commits perform the memory reads of YCP requests that a trio held (R60), so that requests behind them may start. -/

def execHandoverComplete (n : Fin 13) (s : State) : Res := .next (s.unlessGated (ycpDrainAll (handOver n.val s)))
def execCheckpoint (n : Fin 13) (s : State) : Res := .next (s.unlessGated (ycpDrainAll (intervalEnds n.val s)))
def execFailoverReturn (n : Fin 13) (s : State) : Res := .next (s.unlessGated (ycpDrainAll (failoverBack n.val s)))
def execResyncComplete (n : Fin 13) (pass : Bool) (s : State) : Res := .next (s.unlessGated (ycpDrainAll (resyncEnds n.val pass s)))
def execSoftRemapSwitch (s : State) : Res := .next (s.unlessGated (ycpDrainAll (remapSwitch s)))

/-- R37: a transition ends. -/
def execModeTransitionComplete (s : State) : Res := .next (ycpDrainAll (transitionEnds s))

/-- R39, R418, R420. -/
def execFeltEntry (s : State) : Res := .next (ycpDrainAll (feltEntry s))

/-- The ROM's announcement: IDENTIFY response with ANNOUNCE, SEQ 0, to ff02::1 and the IPv4 broadcast address (R395). -/
def announce (s : State) : State :=
  let d := identity s
  let p := ycpHead 5 0 0 1 0 d.length ++ d
  let port := s.fld B.ycp YCP.CTL_PORT
  let six := [0x33, 0x33, 0, 0, 0, 1] ++ s.macBytes ++ udpPacket s.linkLocal ([0xFF, 0x02] ++ zeros 13 ++ [1]) port 21340 p
  let four := List.replicate 6 0xFF ++ s.macBytes ++ udpPacket s.own4 (List.replicate 4 0xFF) port 21340 p
  let s1 := if s.net.dup then s else netSend 0 six true s
  if s.has4 then netSend 0 four true s1 else s1

def execRomAnnounce (s : State) : Res := .next (if romServes s then announce s else s)

end Sys2Proof.Machine
end

