-- ==== Sys2Proof/Machine/EthRx.lean ====
section
/-! DEFINITION. Reception on the Ethernet ports: MAC, MACsec, PRP, VLAN, the IP services, YCP, PTP and the classifier; links; and the rows
of the Ethernet chapter (R362-R371, R379-R383, R396). -/
namespace Sys2Proof.Machine

/-- One second of device time. -/
def oneSec : Nat := 16000000000

/-- The time since a stamp, in T64 units. -/
def State.since (s : State) (t : W64) : Nat := (s.now - t).toNat

/-! ### MAC (R364) -/

/-- The MAC group of the solicited-node address of an IPv6 address. -/
def solicitedMac (a : List Byte) : List Byte := [0x33, 0x33, 0xFF] ++ a.drop 13

/-- Destinations the MAC accepts. -/
def State.macAccepts (s : State) (d : List Byte) : Bool :=
  d == s.macBytes || d == List.replicate 6 0xFF || d == [0x33, 0x33, 0, 0, 0, 1] || (s.own6.map solicitedMac).contains d
    || d == [0x01, 0x1B, 0x19, 0, 0, 0] || d == [0x01, 0x80, 0xC2, 0, 0, 0x0E] || d == [0x01, 0x15, 0x4E, 0, 1, 0]
    || d == [0x01, 0x80, 0xC2, 0, 0, 3]

/-- Length, line and FCS checks on a frame that includes its FCS. -/
def frameGood (lineOk : Bool) (f : List Byte) : Bool :=
  lineOk && inRange 64 1600 f.length && leNat (f.drop (f.length - 4)) == crc32 (f.take (f.length - 4))

/-! ### MACsec reception (R366; tag and nonce PRESUMED from IEEE 802.1AE, log entry 6) -/

/-- The full packet number that a received one stands for. -/
def fullPn (xpn : Bool) (low pn : Nat) : Nat :=
  if xpn then (if pn < 2 ^ 31 ∧ 2 ^ 31 ≤ low % 2 ^ 32 then low / 2 ^ 32 + 1 else low / 2 ^ 32) * 2 ^ 32 + pn else pn

/-- Counts an ICV failure; more than 16 within 1 s raise source 406 (R398). -/
def icvFails (p : Nat) (s : State) : State :=
  let x := s.ethp p
  let s1 := s.incSat (B.eth p) ETH.SEC_ICV_ERR
  let y := if x.icvN = 0 ∨ oneSec ≤ s.since x.icvAt then { x with icvAt := s.now, icvN := 1 } else { x with icvN := x.icvN + 1 }
  let s2 := s1.setEthp p y
  if y.icvN = 17 then s2.raise 406 else s2

/-- The SCI of a protected frame: carried, or implied by the source address. -/
def frameSci (f : List Byte) : List Byte := if nbit (leNat ((f.drop 14).take 1)) 5 then (f.drop 20).take 8 else (f.drop 6).take 6 ++ [0, 1]

/-- The installed and enabled receive SA of a frame, by SA number. -/
def rxSa (p : Nat) (f : List Byte) (s : State) : Option Nat :=
  let x := s.ethp p
  let an := leNat ((f.drop 14).take 1) % 4
  let sci := beNat (frameSci f)
  if 2 ≤ an then none
  else match (List.range 8).find? (fun c => (x.scis.get (fun _ => 0) c).toNat == sci && (x.sa (saNum true c an)).installed && (x.sa (saNum true c an)).enabled) with
    | some c => some (saNum true c an)
    | none => none

/-- Checks and opens a protected frame with its SA. -/
def secOpen (p i : Nat) (f : List Byte) (s : State) : Option (List Byte) × State :=
  let b := B.eth p
  let x := s.ethp p
  let a := x.sa i
  let tci := leNat ((f.drop 14).take 1)
  let sl := leNat ((f.drop 15).take 1) % 64
  let hl := if nbit tci 5 then 28 else 20
  let all := f.drop hl
  let n := if 0 < sl ∧ sl < 48 then sl else all.length - 16
  let body := all.take n
  let icv := (all.drop n).take 16
  let pn := fullPn (s.xpn p) a.low (beNat ((f.drop 16).take 4))
  let nonce := secNonce (s.xpn p) a (frameSci f) pn
  let conf := nbit tci 3
  let good := if conf then gcmTag a.key nonce (f.take hl) body == icv else gcmTag a.key nonce (f.take hl ++ body) [] == icv
  if pn < a.low then (none, s.incSat b ETH.SEC_REPLAY)
  else if ¬ good then (none, icvFails p s)
  else
    let low := max a.low (pn + 1 - (s.rd (b + ETH.SEC_WIN.off)).toNat)
    (some (f.take 12 ++ (if conf then gcmCtr a.key nonce body else body)), s.setEthp p (x.setSa i { a with low := low }))

/-- What a port with MACsec passes up of a frame (R366). -/
def secReceive (p : Nat) (f : List Byte) (s : State) : Option (List Byte) × State :=
  let b := B.eth p
  let plain := s.flag b ETH.SEC_CTL_ALLOW_PLAIN || isEapol f
  if ¬ s.flag b ETH.SEC_CTL_EN then (some f, s)
  else match (if be16 f 12 = etMacsec then rxSa p f s else none) with
    | some i => secOpen p i f s
    | none => if plain then (some f, s) else (none, s.incSat b ETH.SEC_NOSA)

/-! ### PRP reception (R369, R370) -/

/-- The node table with its count; a full table loses the node that is silent longest. -/
def nodePut (x : PrpNode) (s : State) : State :=
  let rest := s.net.nodes.filter (fun n => n.mac != x.mac)
  let fresh := rest.length == s.net.nodes.length
  let full := fresh && decide (256 ≤ rest.length)
  let old := rest.foldl (fun a n => if s.since a < s.since n.last then n.last else a) s.now
  let kept := if full then (match rest.find? (fun n => n.last == old) with | some o => rest.erase o | none => rest) else rest
  let s1 := ({ s with net := { s.net with nodes := x :: kept } }).setFld B.net NET.NODES (kept.length + 1)
  if full then s1.irq 452 else s1

def State.prpNode (s : State) (mac : Nat) : PrpNode := (s.net.nodes.find? (fun n => n.mac == mac)).getD ⟨mac, [], s.now⟩

/-- The redundancy control trailer of a frame: sequence number and LAN, 0 for A. -/
def prpTrailer (f : List Byte) : Option (Nat × Nat) :=
  let n := f.length
  let w := be16 f (n - 4)
  let lan := w / 4096
  if be16 f (n - 2) = 0x88FB ∧ (lan = 0xA ∨ lan = 0xB) ∧ w % 4096 = (n - ((etherAt f).2 + 2)) % 4096 then some (be16 f (n - 6), lan - 0xA) else none

/-- The PRP layer: the frame passed up, if any. A frame of the other LAN is passed up, and its number counts for the copy of the right one
(R369). -/
def prpReceive (p : Nat) (f : List Byte) (s : State) : Option (List Byte) × State :=
  let mac := beNat ((f.drop 6).take 6)
  if ¬ s.prpOn then (some f, s)
  else if (etherAt f).1 = 0x88FB then (none, nodePut { s.prpNode mac with last := s.now } s)
  else match prpTrailer f with
    | none => (some f, s)
    | some (seq, lan) =>
      let g := f.take (f.length - 6)
      let x := s.prpNode mac
      let life := s.fld B.net NET.PRP_CTL_FORGET * 16000000
      let seen := x.seqs.any (fun q => q.1 == seq && decide (s.since q.2 < life))
      let y : PrpNode :=
        { x with seqs := if seen then x.seqs else ((seq, s.now) :: x.seqs.filter (fun q => q.1 != seq)).take 32, last := s.now }
      if lan ≠ p then (some g, (nodePut y s).incSat B.net NET.WRONG_LAN)
      else if seen then (none, (nodePut y s).incWrap B.net (if p = 0 then NET.DUP_A else NET.DUP_B))
      else (some g, nodePut y s)

/-! ### The classifier and the raw receive ring (R381) -/

/-- A page access of the raw receive ring: 4 or 8 aligned bytes write their register (R468). -/
def rawPage (a : Nat) (d : List Byte) (s : State) : State :=
  if pageAccess a d.length then (pageWrite ioWriter a (widthOf d.length) (BitVec.ofNat 64 (leNat d)) s).1 else pageRefuses a d s

def rawReceive (p : Nat) (f : List Byte) (s : State) : State :=
  let cap := 2 ^ s.fld B.net NET.RAWRX_CFG_SLOTS
  let head := s.fld B.net NET.RAWRX_HEAD % cap
  let lost (s : State) : State := (s.incSat B.net NET.RAWRX_LOST).irq 457
  if (head + 1) % cap = s.fld B.net NET.RAWRX_TAIL % cap then lost s
  else
    let slot := leBytes 4 f.length ++ leBytes 1 p ++ zeros 11 ++ f
    match s.ioWrite 18 (ringBase s NET.RAWRX_BASE_LO NET.RAWRX_BASE_HI + 2048 * head) slot rawPage with
    | (none, s1) => s1.setFld B.net NET.RAWRX_HEAD ((head + 1) % cap)
    | (some _, s1) => lost s1

/-- A frame that no service took. -/
def classify (p : Nat) (f : List Byte) (s : State) : State :=
  let e := isEapol f
  if s.net.prog.isEmpty then (if e then rawReceive p f s else s)
  else
    let inp : List (Nat × W64) := [(1, BitVec.ofNat 64 f.length), (2, BitVec.ofNat 64 p), (3, BitVec.ofNat 64 (b2n e))]
    match smGo s.net.prog (smStart inp (f.take 128) []) with
    | none => s.raise 408
    | some r => if (r.th.reg 1).getLsbD 0 then rawReceive p f s else s

/-! ### YCP in a datagram (R382, R383, R388) -/

/-- A field of a payload. -/
def bvAt (n : Nat) (l : List Byte) (o k : Nat) : BitVec n := BitVec.ofNat n (fieldAt l o k)

/-- The command a payload spells, and whether its length fits; widths that R388 leaves open are PRESUMED (log entry 45). -/
def ycpParse (cmd : Nat) (d : List Byte) : YCmd × Bool :=
  let n := d.length
  match cmd with
  | 0x01 => (.identify, n == 0)
  | 0x02 => (.openS (bvAt 8 d 0 1) (bvAt 24 d 1 3) (bvAt 128 d 4 16), n == 20)
  | 0x03 => (.closeS, n == 0)
  | 0x04 => (.ping, n == 0)
  | 0x10 => (.regRead (bvAt 64 d 0 8) (bvAt 32 d 8 4), n == 12)
  | 0x11 => (.regWrite (bvAt 64 d 0 8) (bvAt 32 d 8 4), n == 12)
  | 0x12 => (.memRead (bvAt 64 d 0 8) (bvAt 32 d 8 4), n == 12)
  | 0x13 => (.memWrite (bvAt 64 d 0 8) (d.drop 8), decide (8 < n))
  | 0x20 =>
    let k := fieldAt d 2 2
    (.qappend (bvAt 16 d 0 2) (BitVec.ofNat 16 k) ((List.range (min k 64)).map (fun i => entOfBytes ((d.drop (4 + 16 * i)).take 16))), n == 4 + 16 * k)
  | 0x30 => (.patWrite (bvAt 32 d 0 4) (d.drop 4), decide (4 < n))
  | 0x31 => (.patLoad (bvAt 32 d 0 4), n == 4)
  | 0x40 => (.modeReq (bvAt 8 d 0 1), n == 1)
  | 0x50 => (.imageBegin (bvAt 8 d 0 1) (d.drop 1), n == 257)
  | 0x51 => (.imageData (bvAt 32 d 0 4) (d.drop 4), decide (4 < n))
  | 0x52 => (.imageEnd, n == 0)
  | 0x60 => (.debugChal, n == 0)
  | 0x61 => (.debugUnlock (d.take 96) (d.drop 96), n == 192)
  | 0x62 => (.debugHalt (bvAt 8 d 0 1) (bvAt 8 d 1 1), n == 2)
  | 0x63 => (.debugResume (bvAt 8 d 0 1) (bvAt 8 d 1 1), n == 2)
  | 0x64 => (.debugStep (bvAt 8 d 0 1) (bvAt 8 d 1 1) (bvAt 8 d 2 1), n == 3)
  | 0x65 => (.debugRegRead (bvAt 8 d 0 1) (bvAt 8 d 1 1) (bvAt 8 d 2 1) (bvAt 16 d 3 2), n == 5)
  | 0x66 => (.debugRegWrite (bvAt 8 d 0 1) (bvAt 8 d 1 1) (bvAt 8 d 2 1) (bvAt 16 d 3 2) (bvAt 64 d 5 8), n == 13)
  | 0x70 => (.safe (bvAt 128 d 0 16) true, n == 16)
  | c => (.unknown c, true)

/-- The datagram's request: header, tag check under the session's key, opened payload. -/
def ycpDatagram (src : YPeer) (d : List Byte) (s : State) : State :=
  let flags := fieldAt d 3 1
  let num : W32 := bvAt 32 d 4 4
  let seq := fieldAt d 8 4
  let len := fieldAt d 0x0E 2
  let enc := nbit flags 1
  let ok := decide (16 ≤ d.length) && fieldAt d 0 2 == 0x5943 && fieldAt d 2 1 == 1 && !nbit flags 0
    && d.length == 16 + len + (if num = 0 then 0 else 16)
  let body := (d.drop 16).take len
  let tag := d.drop (16 + len)
  let (auth, data) : Bool × List Byte :=
    match s.sessList.find? (fun p => p.2.num == num) with
    | none => (true, body)
    | some (_, x) =>
      let nonce := ycpNonce num seq false
      if enc then (gcmTag x.key nonce (d.take 16) body == tag, gcmCtr x.key nonce body)
      else (gcmTag x.key nonce (d.take 16 ++ body) [] == tag, body)
  let (c, fits) := ycpParse (fieldAt d 0x0C 1) data
  ycpRequest (some src) ⟨num, BitVec.ofNat 32 seq, enc, ok, auth, fits && decide (len ≤ 1408)⟩ c s

/-! ### IP services (R379, R380) -/

/-- An echo request may be answered: at most 100 in a second at a port. -/
def echoTake (p : Nat) (s : State) : Bool × State :=
  let x := s.ethp p
  let y := if x.echoN = 0 ∨ oneSec ≤ s.since x.echoAt then { x with echoAt := s.now, echoN := 1 } else { x with echoN := x.echoN + 1 }
  (decide (y.echoN ≤ 100), s.setEthp p y)

def echoReply (p : Nat) (frame : List Byte) (s : State) : State :=
  let (ok, s1) := echoTake p s
  if ok then netSend p frame true s1 else s1

/-- An ICMP message with its checksum over a pseudo header (empty for IPv4). -/
def icmpSum (ps m : List Byte) : List Byte := let z := m.take 2 ++ [0, 0] ++ m.drop 4; m.take 2 ++ beBytes 2 (csum (ps ++ z)) ++ m.drop 4

/-- UDP: YCP at an own address, PTP, or none of them (R380). `f` is the frame, `u` the datagram. -/
def udpReceive (p : Nat) (ts : W64) (mine : Bool) (f raw src dst u : List Byte) (s : State) : State :=
  let n := be16 u 4
  let sum := be16 u 6
  let d := (u.take n).drop 8
  let dport := be16 u 2
  let four := src.length == 4
  if n < 8 ∨ u.length < n ∨ (sum = 0 ∧ ¬ four) ∨ (sum ≠ 0 ∧ ¬ sumOk (pseudo src dst 17 n ++ u.take n)) then s
  else if mine ∧ dport = s.fld B.ycp YCP.CTL_PORT ∧ s.flag B.ycp (if four then YCP.CTL_EN_IP4 else YCP.CTL_EN_IP6) then
    ycpDatagram ⟨p, (f.drop 6).take 6, src, dst, be16 u 0⟩ d s
  else if (dport = 319 ∨ dport = 320) ∧ s.flag B.net NET.PTP_CTL_UDP ∧ s.flag B.net NET.PTP_CTL_EN then ptpReceive p ts d s
  else if s.pgRunning 0x322 then classify p raw s else s

/-- IPv4, a frame behind its VLAN tag; `raw` is the frame as it came. -/
def ip4Receive (p : Nat) (ts : W64) (f raw : List Byte) (s : State) : State :=
  let d := f.drop 14
  let src := (d.drop 12).take 4
  let dst := (d.drop 16).take 4
  let pay := (d.take (be16 d 2)).drop 20
  let on := s.pgRunning 0x322
  if d.headD 0 ≠ 0x45 ∨ d.length < 20 ∨ be16 d 2 < 20 ∨ be16 d 6 % 0x4000 ≠ 0 ∨ ¬ sumOk (d.take 20) then s
  else if (d.drop 9).headD 0 = 17 then udpReceive p ts (s.has4 && dst == s.own4) f raw src dst pay s
  else if dst ≠ s.own4 ∨ ¬ s.has4 then (if on then classify p raw s else s)
  else match ((d.drop 9).headD 0).toNat with
    | 1 =>
      if ¬ on then s
      else if be16 pay 0 = 0x0800 ∧ 8 ≤ pay.length ∧ pay.length ≤ 1480 then
        if sumOk pay then
          echoReply p ((f.drop 6).take 6 ++ s.macBytes ++ beBytes 2 0x0800 ++ ip4Packet dst src 1 64 (icmpSum [] ([0, 0] ++ pay.drop 2))) s
        else s
      else classify p raw s
    | _ => if on then classify p raw s else s

/-- Extension headers of IPv6. -/
def isExtHeader (n : Nat) : Bool := [0, 43, 44, 50, 51, 60, 135, 139, 140].contains n

/-- IPv6. -/
def ip6Receive (p : Nat) (ts : W64) (f raw : List Byte) (s : State) : State :=
  let d := f.drop 14
  let n := be16 d 4
  let src := (d.drop 8).take 16
  let dst := (d.drop 24).take 16
  let pay := (d.drop 40).take n
  let next := ((d.drop 6).headD 0).toNat
  let mine := s.own6.contains dst
  let on := s.pgRunning 0x322
  let cls (s : State) : State := if on then classify p raw s else s
  if ((d.headD 0).toNat / 16 ≠ 6 ∨ d.length < 40 + n) ∨ isExtHeader next then s
  else if next = 17 then udpReceive p ts mine f raw src dst pay s
  else if next = 58 ∧ on then
    let target := (pay.drop 8).take 16
    let back := (f.drop 6).take 6
    if be16 pay 0 = 0x8700 ∧ 24 ≤ pay.length ∧ s.own6.contains target then
      if (d.drop 7).headD 0 = 255 ∧ sumOk (pseudo src dst 58 n ++ pay) then
        let dad := src = zeros 16
        let dest := if dad then [0xFF, 0x02] ++ zeros 13 ++ [1] else src
        let m := [136, 0, 0, 0, if dad then 0x20 else 0x60, 0, 0, 0] ++ target ++ [2, 1] ++ s.macBytes
        netSend p ((if dad then [0x33, 0x33, 0, 0, 0, 1] else back) ++ s.macBytes ++ beBytes 2 0x86DD
          ++ ip6Packet target dest 58 255 (icmpSum (pseudo target dest 58 m.length) m)) true s
      else s
    else if be16 pay 0 = 0x8000 ∧ mine ∧ 8 ≤ pay.length ∧ pay.length ≤ 1480 then
      if sumOk (pseudo src dst 58 n ++ pay) then
        let m := [129, 0] ++ pay.drop 2
        echoReply p (back ++ s.macBytes ++ beBytes 2 0x86DD ++ ip6Packet dst src 58 64 (icmpSum (pseudo dst src 58 m.length) m)) s
      else s
    else cls s
  else cls s

/-- ARP. -/
def arpReceive (p : Nat) (f raw : List Byte) (s : State) : State :=
  let d := f.drop 14
  if ¬ s.pgRunning 0x322 then s
  else if d.take 8 = [0, 1, 8, 0, 6, 4, 0, 1] ∧ (d.drop 24).take 4 = s.own4 ∧ s.has4 then
    netSend p ((f.drop 6).take 6 ++ s.macBytes ++ beBytes 2 0x0806 ++ [0, 1, 8, 0, 6, 4, 0, 2] ++ s.macBytes ++ s.own4 ++ (d.drop 8).take 10) true s
  else classify p raw s

/-- A frame with another tag than the device's own, which it discards (R364). -/
def State.otherTag (s : State) (f : List Byte) : Bool :=
  be16 f 12 == 0x8100 && s.flag B.net NET.VLAN_EN && be16 f 14 % 4096 != s.fld B.net NET.VLAN_VID

/-- Dispatch of a frame above PRP (R380); what no service takes goes to the classifier. -/
def netReceive (p : Nat) (ts : W64) (f : List Byte) (s : State) : State :=
  let g := if be16 f 12 == 0x8100 && s.flag B.net NET.VLAN_EN then f.take 12 ++ f.drop 16 else f
  match be16 g 12 with
    | 0x0800 => ip4Receive p ts g f s
    | 0x86DD => ip6Receive p ts g f s
    | 0x0806 => arpReceive p g f s
    | 0x88F7 => if ¬ s.flag B.net NET.PTP_CTL_UDP ∧ s.flag B.net NET.PTP_CTL_EN then ptpReceive p ts (g.drop 14) s else if s.pgRunning 0x322 then classify p f s else s
    | _ => if s.pgRunning 0x322 then classify p f s else s

/-- The FEC blocks that carried a frame: how many were corrected, and in a frame with a line error how many could not be, is not stated: free
values (R362, R400; log entry 90). -/
def fecCount (p : Nat) (lineOk : Bool) (s : State) : State :=
  let b := B.eth p
  if ¬ s.flag b ETH.STAT_FEC_LOCK then s
  else
    let (v, s1) := s.free
    let s2 := s1.setFld b ETH.FEC_CORR (satAdd 32 (s1.fld b ETH.FEC_CORR) (v.toNat % 65536))
    if lineOk then s2 else s2.setFld b ETH.FEC_UNCORR (satAdd 32 (s2.fld b ETH.FEC_UNCORR) (v.toNat / 65536 % 65536))

/-- ETH_FRAME_RX: a frame with its FCS passes the layers in order (R361, R364). -/
def ethReceive (p : Nat) (lineOk : Bool) (frame : List Byte) (ts : W64) (s0 : State) : State :=
  let s := if ¬ s0.pgEn (0x320 + p) ∨ ¬ s0.linkUp p then s0 else fecCount p lineOk s0
  if ¬ s.pgEn (0x320 + p) ∨ ¬ s.linkUp p then s
  else if ¬ frameGood lineOk frame then s.incSat (B.eth p) ETH.RX_ERR
  else
    let f := frame.take (frame.length - 4)
    if be16 f 12 = 0x8808 ∨ ¬ s.macAccepts (f.take 6) then s
    else
      let s1 := s.incWrap (B.eth p) ETH.RX_OK
      match secReceive p f s1 with
      | (none, s2) => s2
      | (some g, s2) =>
        if s2.otherTag g then s2
        else if isEapol g then (if s2.pgRunning 0x322 then classify p g s2 else s2)
        else match prpReceive p g s2 with
          | (none, s3) => s3
          | (some k, s3) => netReceive p ts k s3

/-! ### Links (R362, R363, R379, R398) -/

/-- A KR port that trains. -/
def State.kr (s : State) (p : Nat) : Bool := s.flag (B.eth p) ETH.CFG_MEDIA && s.flag (B.eth p) ETH.CFG_TRAIN

/-- The neighbour solicitation of duplicate address detection, which the device originates (R371, R379). -/
def dadFrame (s : State) : List Byte :=
  let a := s.linkLocal
  let dest := [0xFF, 0x02] ++ zeros 9 ++ [1, 0xFF] ++ a.drop 13
  let m := [135, 0, 0, 0, 0, 0, 0, 0] ++ a
  solicitedMac a ++ s.macBytes ++ beBytes 2 0x86DD ++ ip6Packet (zeros 16) dest 58 255 (icmpSum (pseudo (zeros 16) dest 58 24) m)

def linkGoesUp (p : Nat) (dupAddr : Bool) (s : State) : State :=
  let b := B.eth p
  let kr := s.kr p
  let (c, s1) := if kr then s.free else (0, s)
  let coef := if kr then c.toNat &&& 0x3F3F3F else (s1.rd (b + ETH.TX_COEF.off)).toNat
  let st := 1 + 4 + 8 * b2n kr + 32 * b2n (s1.flag b ETH.CFG_FEC)
  let s2 := ((s1.wr (b + ETH.STAT.off) (BitVec.ofNat 32 st)).wr (b + ETH.TX_COEF.off) (BitVec.ofNat 32 coef)).setEthp p { s1.ethp p with train := false }
  let s3 := ethFlush p (s2.irq (448 + p))
  if s3.pgRunning 0x322 then
    let s4 := netSend 0 (dadFrame s3) true s3
    let s5 := { s4 with net := { s4.net with dup := dupAddr } }
    if dupAddr then s5.raise 405 else s5
  else s3

/-- The link goes down: block lock is lost, or the BER monitor saw a high error ratio; which is not stated: a free value (R362; log entry 90). -/
def linkGoesDown (p : Nat) (s0 : State) : State :=
  let (v, s) := s0.free
  let st := if v.getLsbD 0 then 3 + 32 * b2n (s.flag (B.eth p) ETH.CFG_FEC) else 0
  let s1 := (s.wr (B.eth p + ETH.STAT.off) (BitVec.ofNat 32 st)).setEthp p { s.ethp p with train := s.kr p }
  (s1.irq (448 + p)).raise (if s1.linkUp (1 - p) then 400 else 401)

/-- The link of an enabled port changes; that of a port whose training has failed stays down until it trains again (R363). -/
def linkChange (p : Nat) (up dupAddr : Bool) (s : State) : State :=
  if ¬ s.pgEn (0x320 + p) ∨ s.linkUp p = up ∨ (up ∧ s.kr p ∧ ¬ (s.ethp p).train) then s else if up then linkGoesUp p dupAddr s else linkGoesDown p s

/-- Training has not completed 500 ms after it started (R363). -/
def trainFails (p : Nat) (s : State) : State :=
  if s.pgEn (0x320 + p) ∧ (s.ethp p).train then
    ((s.setFld (B.eth p) ETH.STAT_TRAIN_FAIL 1).setEthp p { s.ethp p with train := false }).raise 402
  else s

def trainAgain (p : Nat) (s : State) : State :=
  if s.pgEn (0x320 + p) ∧ s.kr p ∧ ¬ s.linkUp p then s.setEthp p { s.ethp p with train := true } else s

/-- The supervision frame of IEC 62439-3 (R370; layout PRESUMED, log entry 37). -/
def supervision (s : State) : State :=
  if s.pgRunning 0x322 ∧ s.prpOn then
    let f := [0x01, 0x15, 0x4E, 0, 1, 0] ++ s.macBytes ++ beBytes 2 0x88FB ++ [0, 1] ++ beBytes 2 s.net.supSeq.toNat ++ [20, 6] ++ s.macBytes ++ [0, 0]
    netSend 0 f false { s with net := { s.net with supSeq := s.net.supSeq + 1 } }
  else s

def nodeForget (mac : BitVec 48) (s : State) : State :=
  let l := s.net.nodes.filter (fun n => n.mac != mac.toNat)
  if l.length = s.net.nodes.length then s else ({ s with net := { s.net with nodes := l } }).setFld B.net NET.NODES l.length

/-! ### Rows -/

def execLinkChange (p : Fin 2) (up dupAddr : Bool) (s : State) : Res := .next (s.unlessGated (linkChange p.val up dupAddr s))
def execTrainTimeout (p : Fin 2) (s : State) : Res := .next (s.unlessGated (trainFails p.val s))
def execTrainRestart (p : Fin 2) (s : State) : Res := .next (s.unlessGated (trainAgain p.val s))
def execEthFrameRx (p : Fin 2) (lineOk : Bool) (frame : List Byte) (ts : W64) (s : State) : Res := .next (s.unlessGated (ethReceive p.val lineOk frame ts s))
def execPrpSupervisionTx (s : State) : Res := .next (s.unlessGated (supervision s))
def execPrpNodeForget (mac : BitVec 48) (s : State) : Res := .next (s.unlessGated (nodeForget mac s))
def execAnnounceTimeout (p : Fin 2) (s : State) : Res := .next (s.unlessGated (announceTimeout p.val s))
def execPtpMessageTx (p : Fin 2) (k : PtpMsg) (s : State) : Res := .next (s.unlessGated (ptpOriginate p.val k s))
def execEthDisableTxEnd (p : Fin 2) (s : State) : Res := .next (s.unlessGated (ethOffEnd p.val s))

end Sys2Proof.Machine
end

