-- ==== Sys2Proof/Machine/Balls.lean ====
section
/-! DEFINITION. The balls: where each signal and rail lies, and the levels that the device drives on the safety balls (R421, R426,
R485-R488, R497). A ball is its row and its column. -/
namespace Sys2Proof.Machine

/-! ### Signals (R486) -/

/-- The signals of the 3.3 V machine bank. -/
inductive IoSignal where
  | shA (s : Fin 8) | shB (s : Fin 8) | shZ (s : Fin 8) | shCk (s : Fin 8)
  | tmr (n : Fin 64)
  | siA (i : Fin 16) | siB (i : Fin 16)
  | tpo (k : Fin 4)
  | stoA (n : Fin 8) | stoB (n : Fin 8)
  | faultA | faultB
deriving DecidableEq, Repr

/-- A signal's index in its bank's order. -/
def ioIndex : IoSignal → Nat
  | .shA s => 4 * s.val
  | .shB s => 4 * s.val + 1
  | .shZ s => 4 * s.val + 2
  | .shCk s => 4 * s.val + 3
  | .tmr n => 32 + n.val
  | .siA i => 96 + 2 * i.val
  | .siB i => 97 + 2 * i.val
  | .tpo k => 128 + k.val
  | .stoA n => 132 + 2 * n.val
  | .stoB n => 133 + 2 * n.val
  | .faultA => 148
  | .faultB => 149

def ioBall (x : IoSignal) : Nat × Nat := (5 + ioIndex x / 20, 8 + ioIndex x % 20)

/-- Ball `i` of a ring port's TX0_P, TX0_N, TX1_P, TX1_N or of its RX pairs. -/
def ringBall (r : Fin 16) (rx : Bool) (i : Fin 4) : Nat × Nat :=
  (if r.val < 8 then (if rx then 2 else 1) else (if rx then 32 else 33), 2 + 4 * (r.val % 8) + i.val)

/-- ETHe_TXP and TXN, or RXP and RXN. -/
def ethBall (e : Fin 2) (rx : Bool) (i : Fin 2) : Nat × Nat := (6 + 4 * e.val + i.val, if rx then 2 else 1)

/-- ETHe_TXDIS, MODABS and LOS. -/
def ethModBall (e : Fin 2) (i : Fin 3) : Nat × Nat := (6 + 4 * e.val + i.val, 4)

/-- Signal `n` of channel `k` of DRAM controller `d`. -/
def dramBall (d k : Fin 2) (n : Fin 35) : Nat × Nat := (14 + 7 * k.val + n.val / 5, (if d.val = 0 then 1 else 29) + n.val % 5)

/-- Signal `n` of an xSPI port. -/
def xspiBall (p : Fin 2) (n : Fin 12) : Nat × Nat := (29 + n.val / 6, (if p.val = 0 then 1 else 28) + n.val % 6)

/-- The 1.8 V system signals, XTAL_IN to TESTEN. -/
def sysBall (n : Fin 14) : Nat × Nat := (28, 8 + n.val)

/-- Every ball that carries a signal. -/
def signalBalls : List (Nat × Nat) :=
  (List.range 150).map (fun n => (5 + n / 20, 8 + n % 20))
    ++ (List.finRange 16).flatMap (fun r => (List.finRange 4).flatMap (fun i => [ringBall r false i, ringBall r true i]))
    ++ (List.finRange 2).flatMap (fun e => (List.finRange 2).flatMap (fun i => [ethBall e false i, ethBall e true i])
      ++ (List.finRange 3).map (ethModBall e))
    ++ (List.finRange 2).flatMap (fun d => (List.finRange 2).flatMap (fun k => (List.finRange 35).map (dramBall d k)))
    ++ (List.finRange 2).flatMap (fun p => (List.finRange 12).map (xspiBall p)) ++ (List.finRange 14).map sysBall

/-- The balls that the boundary register covers, in its order: every 3.3 V and 1.8 V signal but XTAL_IN and XTAL_OUT (R497). The order is that of
R486 (DESIGN CHOICE, log entry 117). -/
def scanBalls : List (Nat × Nat) :=
  (List.range 150).map (fun n => (5 + n / 20, 8 + n % 20))
    ++ (List.finRange 2).flatMap (fun e => (List.finRange 3).map (ethModBall e))
    ++ (List.finRange 2).flatMap (fun p => (List.finRange 12).map (xspiBall p))
    ++ ((List.finRange 14).drop 2).map sysBall

/-- Whether a cell of the boundary register stands at a ball that the device can drive and that is none of STO, FAULT and TPO: SHs_CK, TMR,
ETHe_TXDIS, the xSPI balls, AVS_CLK and AVS_MDATA (DEDUCED from the signals' names, log entry 117). -/
def scanOutput (i : Nat) : Bool :=
  (decide (i < 32) && i % 4 == 3) || inRange 32 95 i || i == 150 || i == 153 || inRange 156 179 i || inRange 183 184 i

/-! ### Supplies (R487) -/

inductive Rail where | core | aon | sd09 | sd18 | io18 | vdd2 | vddq | io33 | vss
deriving DecidableEq, Repr

/-- The rail of a ball that carries no signal. -/
def railBall (row col : Nat) : Rail :=
  if inRange 13 27 row ∧ inRange 8 27 col ∧ (row + col) % 2 = 0 then .core
  else if inRange 4 5 row ∧ (col = 1 ∨ col = 33) then .aon
  else if (row = 3 ∨ row = 31) ∧ inRange 10 21 col then .sd09
  else if (row = 3 ∨ row = 31) ∧ inRange 22 25 col then .sd18
  else if row = 28 ∧ (inRange 1 4 col ∨ inRange 22 27 col) then .io18
  else if inRange 14 25 row ∧ (col = 6 ∨ col = 28) then .vdd2
  else if (row = 13 ∧ (inRange 1 5 col ∨ inRange 29 33 col)) ∨ (row = 28 ∧ (inRange 5 7 col ∨ inRange 28 30 col)) then .vddq
  else if (row = 12 ∧ inRange 18 27 col) ∨ (row = 4 ∧ inRange 12 17 col) then .io33
  else .vss

/-! ### Levels of the safety balls (R421, R426, R488) -/

/-- What a safety ball does: nothing, so that the board's pull decides, the waves of R421, or a level. -/
inductive BallOut where | highZ | wave | level (high : Bool)
deriving DecidableEq, Repr

/-- The safety balls are high-impedance unless VDD_AON and VDD_IO33 are both within range (R488). -/
def State.ballsDrive (s : State) (b : BallOut) : BallOut := if s.dev.aonOk ∧ s.dev.ioOk then b else .highZ

/-- STOn_A and STOn_B outside a test pulse. -/
def State.stoBalls (s : State) (n : Fin 8) : BallOut × BallOut :=
  (s.ballsDrive (.level (s.stoRun n.val)), s.ballsDrive (.level (!s.stoRun n.val)))

/-- FAULT_A and FAULT_B: the complementary waves, or the fault polarity. -/
def State.faultLevels (s : State) : BallOut × BallOut :=
  if s.flag B.coll COLL.STAT_FAULT_RUN then (s.ballsDrive .wave, s.ballsDrive .wave)
  else (s.ballsDrive (.level false), s.ballsDrive (.level true))

/-- A TPO ball outside its test pulse. -/
def State.tpoBall (s : State) : BallOut := s.ballsDrive (.level true)

end Sys2Proof.Machine
end

