-- ==== Sys2Proof/Machine/TapRow.lean ====
section
/-! DEFINITION. Boundary scan (R497). -/
namespace Sys2Proof.Machine

def idcode : Nat := 0x1C1605D3

/-- EXTEST and CLAMP act only while PORn is low; else they are BYPASS. -/
def State.tapActs (s : State) (ir : TapInstr) : TapInstr :=
  match ir with
  | .extest => if s.dev.porLow then .extest else .bypass
  | .clamp => if s.dev.porLow then .clamp else .bypass
  | .bypass => .bypass
  | .idcode => .idcode
  | .samplePreload => .samplePreload
  | .trst => .trst

/-- Whether the boundary register drives the balls, all but STO, FAULT and TPO. -/
def State.tapDrives (s : State) : Bool := s.tapActs s.tap.ir == .extest || s.tapActs s.tap.ir == .clamp

/-- The level that boundary scan gives the ball of a cell; none where it drives nothing there. -/
def State.scanLevel (s : State) (i : Nat) : Option Bool :=
  if s.tapDrives ∧ scanOutput i then s.tap.cells[i]? else none

/-- What a shift of `tdi` through a register sends on TDO, and what it leaves. -/
def tapShift (r tdi : List Bool) : List Bool × List Bool := ((r ++ tdi).take tdi.length, (r ++ tdi).drop tdi.length)

/-- The 192 levels that the boundary register captures: those at the covered balls, in its order. -/
def scanCapture (balls : List Bool) : List Bool := (List.range 192).map (fun i => balls.getD i false)

/-- One operation: the instruction, the bits shifted in and the levels at the covered balls, in the order of the boundary register. TRSTn low
resets the TAP, which then holds IDCODE as IEEE 1149.1 has it (PRESUMED, log entry 117). -/
def tapOp (ir : TapInstr) (tdi balls : List Bool) (s : State) : State :=
  let s1 := { s with tap := { s.tap with ir := ir } }
  let r := tapShift (scanCapture balls) tdi
  let scan : State := { s1 with tap := ⟨ir, r.2⟩ }.emit (.tdo r.1)
  match s.tapActs ir with
  | .bypass => s1.emit (.tdo (tapShift [false] tdi).1)
  | .clamp => s1.emit (.tdo (tapShift [false] tdi).1)
  | .idcode => s1.emit (.tdo (tapShift ((List.range 32).map (nbit idcode)) tdi).1)
  | .samplePreload => scan
  | .extest => scan
  | .trst => { s with tap := { s.tap with ir := .idcode } }

def execTapOperation (ir : TapInstr) (tdi balls : List Bool) (s : State) : Res := .next (tapOp ir tdi balls s)

end Sys2Proof.Machine
end

