-- ==== Sys2Proof/Machine/Dispatch.lean ====
section
/-! DEFINITION. The dispatcher: one arm per command of the table. -/
namespace Sys2Proof.Machine

def exec (i : Instr) (s : State) : Host.Outcome State Fault Refusal :=
  match i with
  | .powerOnReset => Sys2Proof.Machine.execPowerOnReset s
  | .systemResetPin => Sys2Proof.Machine.execSystemResetPin s
  | .warmResetReq w key => Sys2Proof.Machine.execWarmResetReq w key s
  | .systemResetReq w key => Sys2Proof.Machine.execSystemResetReq w key s
  | .bootSequence e => Sys2Proof.Machine.execBootSequence e s
  | .netBootTimeout => Sys2Proof.Machine.execNetBootTimeout s
  | .romAnnounce => Sys2Proof.Machine.execRomAnnounce s
  | .dramInitComplete => Sys2Proof.Machine.execDramInitComplete s
  | .coreDivWrite w v => Sys2Proof.Machine.execCoreDivWrite w v s
  | .rootClockLoss c => Sys2Proof.Machine.execRootClockLoss c s
  | .railOutOfRange r mv => Sys2Proof.Machine.execRailOutOfRange r mv s
  | .velvetSupplyDip mv => Sys2Proof.Machine.execVelvetSupplyDip mv s
  | .avsReadback answer => Sys2Proof.Machine.execAvsReadback answer s
  | .modeReq w v => Sys2Proof.Machine.execModeReq w v s
  | .modeTransitionComplete => Sys2Proof.Machine.execModeTransitionComplete s
  | .velvetScrub uncorrectable => Sys2Proof.Machine.execVelvetScrub uncorrectable s
  | .wakePin level => Sys2Proof.Machine.execWakePin level s
  | .retentionTimerExpiry => Sys2Proof.Machine.execRetentionTimerExpiry s
  | .wakePath e => Sys2Proof.Machine.execWakePath e s
  | .velvetSafeStopExit e => Sys2Proof.Machine.execVelvetSafeStopExit e s
  | .gauzeStepEnd e => Sys2Proof.Machine.execGauzeStepEnd e s
  | .gauzeComplete => Sys2Proof.Machine.execGauzeComplete s
  | .trioCfgWrite w n v => Sys2Proof.Machine.execTrioCfgWrite w n v s
  | .handoverComplete n => Sys2Proof.Machine.execHandoverComplete n s
  | .checkpoint n => Sys2Proof.Machine.execCheckpoint n s
  | .votedDisagreement n odd => Sys2Proof.Machine.execVotedDisagreement n odd s
  | .pairMismatch n signature bankBad => Sys2Proof.Machine.execPairMismatch n signature bankBad s
  | .failoverReturn n => Sys2Proof.Machine.execFailoverReturn n s
  | .resyncComplete n pass => Sys2Proof.Machine.execResyncComplete n pass s
  | .softRemapSwitch => Sys2Proof.Machine.execSoftRemapSwitch s
  | .voterCopyDisagree n => Sys2Proof.Machine.execVoterCopyDisagree n s
  | .loadDataArrival t e => Sys2Proof.Machine.execLoadDataArrival t e s
  | .storePerformed t e => Sys2Proof.Machine.execStorePerformed t e s
  | .icacheFill t e => Sys2Proof.Machine.execIcacheFill t e s
  | .coprocessorResult t a => Sys2Proof.Machine.execCoprocessorResult t a s
  | .blockChunk t e => Sys2Proof.Machine.execBlockChunk t e s
  | .interruptEntry t => Sys2Proof.Machine.execInterruptEntry t s
  | .storeErrorReport t addr kind log2size => Sys2Proof.Machine.execStoreErrorReport t addr kind log2size s
  | .asyncStoreErrorEntry t => Sys2Proof.Machine.execAsyncStoreErrorEntry t s
  | .alu t w => Sys2Proof.Machine.execAlu t w s
  | .addi t w => Sys2Proof.Machine.execAddi t w s
  | .andi t w => Sys2Proof.Machine.execAndi t w s
  | .ori t w => Sys2Proof.Machine.execOri t w s
  | .xori t w => Sys2Proof.Machine.execXori t w s
  | .shi t w => Sys2Proof.Machine.execShi t w s
  | .cmpi t w => Sys2Proof.Machine.execCmpi t w s
  | .movw t w => Sys2Proof.Machine.execMovw t w s
  | .mul t w => Sys2Proof.Machine.execMul t w s
  | .mulu t w => Sys2Proof.Machine.execMulu t w s
  | .div t w => Sys2Proof.Machine.execDiv t w s
  | .divu t w => Sys2Proof.Machine.execDivu t w s
  | .rem t w => Sys2Proof.Machine.execRem t w s
  | .remu t w => Sys2Proof.Machine.execRemu t w s
  | .mfs t w => Sys2Proof.Machine.execMfs t w s
  | .mts t w => Sys2Proof.Machine.execMts t w s
  | .cmpp t w => Sys2Proof.Machine.execCmpp t w s
  | .cmppi t w => Sys2Proof.Machine.execCmppi t w s
  | .plogic t w => Sys2Proof.Machine.execPlogic t w s
  | .br t w => Sys2Proof.Machine.execBr t w s
  | .call t w => Sys2Proof.Machine.execCall t w s
  | .jmp t w => Sys2Proof.Machine.execJmp t w s
  | .callr t w => Sys2Proof.Machine.execCallr t w s
  | .ret t w => Sys2Proof.Machine.execRet t w s
  | .loopReg t w => Sys2Proof.Machine.execLoopReg t w s
  | .loopi t w => Sys2Proof.Machine.execLoopi t w s
  | .ldb t w => Sys2Proof.Machine.execLdb t w s
  | .ldbu t w => Sys2Proof.Machine.execLdbu t w s
  | .ldh t w => Sys2Proof.Machine.execLdh t w s
  | .ldhu t w => Sys2Proof.Machine.execLdhu t w s
  | .ldw t w => Sys2Proof.Machine.execLdw t w s
  | .ldwu t w => Sys2Proof.Machine.execLdwu t w s
  | .ldd t w => Sys2Proof.Machine.execLdd t w s
  | .ldx t w => Sys2Proof.Machine.execLdx t w s
  | .ldxu t w => Sys2Proof.Machine.execLdxu t w s
  | .stb t w => Sys2Proof.Machine.execStb t w s
  | .sth t w => Sys2Proof.Machine.execSth t w s
  | .stw t w => Sys2Proof.Machine.execStw t w s
  | .std t w => Sys2Proof.Machine.execStd t w s
  | .stx t w => Sys2Proof.Machine.execStx t w s
  | .atomSwap t w => Sys2Proof.Machine.execAtomSwap t w s
  | .atomFadd t w => Sys2Proof.Machine.execAtomFadd t w s
  | .atomCas t w => Sys2Proof.Machine.execAtomCas t w s
  | .atomFor t w => Sys2Proof.Machine.execAtomFor t w s
  | .blkcopy t w => Sys2Proof.Machine.execBlkcopy t w s
  | .blkfill t w => Sys2Proof.Machine.execBlkfill t w s
  | .crcr32 t w => Sys2Proof.Machine.execCrcr32 t w s
  | .crcr32c t w => Sys2Proof.Machine.execCrcr32c t w s
  | .crcr64 t w => Sys2Proof.Machine.execCrcr64 t w s
  | .sync t w => Sys2Proof.Machine.execSync t w s
  | .syncTlb t w => Sys2Proof.Machine.execSyncTlb t w s
  | .ici t w => Sys2Proof.Machine.execIci t w s
  | .tlbiAll1 t w => Sys2Proof.Machine.execTlbiAll1 t w s
  | .tlbiVa1 t w => Sys2Proof.Machine.execTlbiVa1 t w s
  | .tlbiIpa2 t w => Sys2Proof.Machine.execTlbiIpa2 t w s
  | .tlbiAll t w => Sys2Proof.Machine.execTlbiAll t w s
  | .tlbiComplete t => Sys2Proof.Machine.execTlbiComplete t s
  | .waitIntr t w => Sys2Proof.Machine.execWaitIntr t w s
  | .tstart t w => Sys2Proof.Machine.execTstart t w s
  | .tstop t w => Sys2Proof.Machine.execTstop t w s
  | .eret t w => Sys2Proof.Machine.execEret t w s
  | .gret t w => Sys2Proof.Machine.execGret t w s
  | .brk t w => Sys2Proof.Machine.execBrk t w s
  | .endProgram t w => Sys2Proof.Machine.execEndProgram t w s
  | .gate t w => Sys2Proof.Machine.execGate t w s
  | .adiff t w => Sys2Proof.Machine.execAdiff t w s
  | .aadd t w => Sys2Proof.Machine.execAadd t w s
  | .tadd t w => Sys2Proof.Machine.execTadd t w s
  | .tdiff t w => Sys2Proof.Machine.execTdiff t w s
  | .tsubl t w => Sys2Proof.Machine.execTsubl t w s
  | .mulsh t w => Sys2Proof.Machine.execMulsh t w s
  | .muluh t w => Sys2Proof.Machine.execMuluh t w s
  | .divsh t w => Sys2Proof.Machine.execDivsh t w s
  | .divuh t w => Sys2Proof.Machine.execDivuh t w s
  | .pred t w => Sys2Proof.Machine.execPred t w s
  | .invpred t w => Sys2Proof.Machine.execInvpred t w s
  | .latm t w => Sys2Proof.Machine.execLatm t w s
  | .ageupd t w => Sys2Proof.Machine.execAgeupd t w s
  | .flgrd t w => Sys2Proof.Machine.execFlgrd t w s
  | .flgwr t w => Sys2Proof.Machine.execFlgwr t w s
  | .flgclr t w => Sys2Proof.Machine.execFlgclr t w s
  | .crc32 t w => Sys2Proof.Machine.execCrc32 t w s
  | .crc32c t w => Sys2Proof.Machine.execCrc32c t w s
  | .crc64 t w => Sys2Proof.Machine.execCrc64 t w s
  | .sha384Blk t w => Sys2Proof.Machine.execSha384Blk t w s
  | .aes256Enc t w => Sys2Proof.Machine.execAes256Enc t w s
  | .ghashMul t w => Sys2Proof.Machine.execGhashMul t w s
  | .append t w => Sys2Proof.Machine.execAppend t w s
  | .appendS t w => Sys2Proof.Machine.execAppendS t w s
  | .qstat t w => Sys2Proof.Machine.execQstat t w s
  | .qspace t w => Sys2Proof.Machine.execQspace t w s
  | .ack w v => Sys2Proof.Machine.execAck w v s
  | .eoi w v => Sys2Proof.Machine.execEoi w v s
  | .swiSet w v => Sys2Proof.Machine.execSwiSet w v s
  | .swiClr w v => Sys2Proof.Machine.execSwiClr w v s
  | .tableWalkRead t e => Sys2Proof.Machine.execTableWalkRead t e s
  | .iotInv w v => Sys2Proof.Machine.execIotInv w v s
  | .iotInvComplete => Sys2Proof.Machine.execIotInvComplete s
  | .fabricTimeout x => Sys2Proof.Machine.execFabricTimeout x s
  | .xspiProgram w port => Sys2Proof.Machine.execXspiProgram w port s
  | .xspiErase4k w port => Sys2Proof.Machine.execXspiErase4k w port s
  | .xspiErase64k w port => Sys2Proof.Machine.execXspiErase64k w port s
  | .xspiCmdComplete port ok => Sys2Proof.Machine.execXspiCmdComplete port ok s
  | .patrolScrub d corrected uncorrectable => Sys2Proof.Machine.execPatrolScrub d corrected uncorrectable s
  | .shaftTick copyDiff => Sys2Proof.Machine.execShaftTick copyDiff s
  | .encoderTransition n ball level ts => Sys2Proof.Machine.execEncoderTransition n ball level ts s
  | .safeSpeedDiscrepancy p => Sys2Proof.Machine.execSafeSpeedDiscrepancy p s
  | .standstill n => Sys2Proof.Machine.execStandstill n s
  | .ssiFrameStart n => Sys2Proof.Machine.execSsiFrameStart n s
  | .ssiFrameComplete n dataHigh frame ts => Sys2Proof.Machine.execSsiFrameComplete n dataHigh frame ts s
  | .refNow w n => Sys2Proof.Machine.execRefNow w n s
  | .clrRef w n => Sys2Proof.Machine.execClrRef w n s
  | .shaftAlign w n => Sys2Proof.Machine.execShaftAlign w n s
  | .learnStart w n => Sys2Proof.Machine.execLearnStart w n s
  | .learnAbort w n => Sys2Proof.Machine.execLearnAbort w n s
  | .ctApply w n v => Sys2Proof.Machine.execCtApply w n v s
  | .ctDataRead w n => Sys2Proof.Machine.execCtDataRead w n s
  | .ctDataWrite w n v => Sys2Proof.Machine.execCtDataWrite w n v s
  | .revSet w n v => Sys2Proof.Machine.execRevSet w n v s
  | .snapAll w v => Sys2Proof.Machine.execSnapAll w v s
  | .queueEnable w q v => Sys2Proof.Machine.execQueueEnable w q v s
  | .queueDisable w q v => Sys2Proof.Machine.execQueueDisable w q v s
  | .queueStart w q => Sys2Proof.Machine.execQueueStart w q s
  | .queueHalt w q => Sys2Proof.Machine.execQueueHalt w q s
  | .queueResume w q => Sys2Proof.Machine.execQueueResume w q s
  | .queueFlush w q => Sys2Proof.Machine.execQueueFlush w q s
  | .queueSkipHead w q => Sys2Proof.Machine.execQueueSkipHead w q s
  | .groupStart w g => Sys2Proof.Machine.execGroupStart w g s
  | .queueAppend a q e => Sys2Proof.Machine.execQueueAppend a q e s
  | .queueCheck q a => Sys2Proof.Machine.execQueueCheck q a s
  | .entryRetire q => Sys2Proof.Machine.execEntryRetire q s
  | .retimeUpdate a => Sys2Proof.Machine.execRetimeUpdate a s
  | .cancelCmd w => Sys2Proof.Machine.execCancelCmd w s
  | .cancelComplete => Sys2Proof.Machine.execCancelComplete s
  | .engProgLoad w v => Sys2Proof.Machine.execEngProgLoad w v s
  | .seqProgLoad w v => Sys2Proof.Machine.execSeqProgLoad w v s
  | .ringProgLoad w r v => Sys2Proof.Machine.execRingProgLoad w r v s
  | .netProgLoad w v => Sys2Proof.Machine.execNetProgLoad w v s
  | .programLoadDone h => Sys2Proof.Machine.execProgramLoadDone h s
  | .seqLoad w => Sys2Proof.Machine.execSeqLoad w s
  | .seqLoadDone => Sys2Proof.Machine.execSeqLoadDone s
  | .seqStart w keep => Sys2Proof.Machine.execSeqStart w keep s
  | .seqPause w => Sys2Proof.Machine.execSeqPause w s
  | .seqContinue w => Sys2Proof.Machine.execSeqContinue w s
  | .seqStop w => Sys2Proof.Machine.execSeqStop w s
  | .seqRowTake => Sys2Proof.Machine.execSeqRowTake s
  | .seqAppendRetry => Sys2Proof.Machine.execSeqAppendRetry s
  | .markInfoRead w => Sys2Proof.Machine.execMarkInfoRead w s
  | .rxLock r lane => Sys2Proof.Machine.execRxLock r lane s
  | .linkLoss r => Sys2Proof.Machine.execLinkLoss r s
  | .lockRetry r => Sys2Proof.Machine.execLockRetry r s
  | .enumerate w r => Sys2Proof.Machine.execEnumerate w r s
  | .enumReturn r lane next => Sys2Proof.Machine.execEnumReturn r lane next s
  | .enumTimeout r => Sys2Proof.Machine.execEnumTimeout r s
  | .measure w r node => Sys2Proof.Machine.execMeasure w r node s
  | .ringArm w r node => Sys2Proof.Machine.execRingArm w r node s
  | .ringRelease w r => Sys2Proof.Machine.execRingRelease w r s
  | .descRead w r node => Sys2Proof.Machine.execDescRead w r node s
  | .timeSend r => Sys2Proof.Machine.execTimeSend r s
  | .bgMeasure r => Sys2Proof.Machine.execBgMeasure r s
  | .ringSlot r => Sys2Proof.Machine.execRingSlot r s
  | .upFrame r lane good f ts => Sys2Proof.Machine.execUpFrame r lane good f ts s
  | .cancelRepeat r id => Sys2Proof.Machine.execCancelRepeat r id s
  | .cancelNoack r id => Sys2Proof.Machine.execCancelNoack r id s
  | .reportWaitExpiry r id => Sys2Proof.Machine.execReportWaitExpiry r id s
  | .nodeLost r node => Sys2Proof.Machine.execNodeLost r node s
  | .safePatternRepeat r => Sys2Proof.Machine.execSafePatternRepeat r s
  | .ringDisableEnd r => Sys2Proof.Machine.execRingDisableEnd r s
  | .timerChEnable w ch v => Sys2Proof.Machine.execTimerChEnable w ch v s
  | .timerChDisable w ch v => Sys2Proof.Machine.execTimerChDisable w ch v s
  | .timerStart w ch => Sys2Proof.Machine.execTimerStart w ch s
  | .timerStop w ch => Sys2Proof.Machine.execTimerStop w ch s
  | .gstart w lo hi => Sys2Proof.Machine.execGstart w lo hi s
  | .gstop w lo hi => Sys2Proof.Machine.execGstop w lo hi s
  | .timerBusStep ch => Sys2Proof.Machine.execTimerBusStep ch s
  | .timerAngleStep ch => Sys2Proof.Machine.execTimerAngleStep ch s
  | .timerCapture ch rising => Sys2Proof.Machine.execTimerCapture ch rising s
  | .timerCountRead w ch => Sys2Proof.Machine.execTimerCountRead w ch s
  | .timerPreloadWrite w ch x v => Sys2Proof.Machine.execTimerPreloadWrite w ch x v s
  | .linkChange p up dupAddr => Sys2Proof.Machine.execLinkChange p up dupAddr s
  | .trainTimeout p => Sys2Proof.Machine.execTrainTimeout p s
  | .trainRestart p => Sys2Proof.Machine.execTrainRestart p s
  | .ethFrameRx p lineOk frame ts => Sys2Proof.Machine.execEthFrameRx p lineOk frame ts s
  | .prpSupervisionTx => Sys2Proof.Machine.execPrpSupervisionTx s
  | .prpNodeForget mac => Sys2Proof.Machine.execPrpNodeForget mac s
  | .announceTimeout p => Sys2Proof.Machine.execAnnounceTimeout p s
  | .saInstall w p => Sys2Proof.Machine.execSaInstall w p s
  | .saEnable w p => Sys2Proof.Machine.execSaEnable w p s
  | .saDisable w p => Sys2Proof.Machine.execSaDisable w p s
  | .rawtxHeadWrite w v => Sys2Proof.Machine.execRawtxHeadWrite w v s
  | .ycpIdentify h => Sys2Proof.Machine.execYcpIdentify h s
  | .ycpOpen h slot zeros nonce => Sys2Proof.Machine.execYcpOpen h slot zeros nonce s
  | .ycpClose h => Sys2Proof.Machine.execYcpClose h s
  | .ycpPing h => Sys2Proof.Machine.execYcpPing h s
  | .regRead h addr count => Sys2Proof.Machine.execRegRead h addr count s
  | .regWrite h addr v => Sys2Proof.Machine.execRegWrite h addr v s
  | .memRead h addr len => Sys2Proof.Machine.execMemRead h addr len s
  | .memWrite h addr data => Sys2Proof.Machine.execMemWrite h addr data s
  | .qappend h q count entries => Sys2Proof.Machine.execQappend h q count entries s
  | .patWrite h ofs data => Sys2Proof.Machine.execPatWrite h ofs data s
  | .patLoad h ofs => Sys2Proof.Machine.execPatLoad h ofs s
  | .ycpModeReq h target => Sys2Proof.Machine.execYcpModeReq h target s
  | .imageBegin h target hdr => Sys2Proof.Machine.execImageBegin h target hdr s
  | .imageData h ofs data => Sys2Proof.Machine.execImageData h ofs data s
  | .imageEnd h => Sys2Proof.Machine.execImageEnd h s
  | .imageFlashComplete ok => Sys2Proof.Machine.execImageFlashComplete ok s
  | .debugChal h => Sys2Proof.Machine.execDebugChal h s
  | .debugUnlock h pubkey sig => Sys2Proof.Machine.execDebugUnlock h pubkey sig s
  | .debugHalt h trio core => Sys2Proof.Machine.execDebugHalt h trio core s
  | .debugResume h trio core => Sys2Proof.Machine.execDebugResume h trio core s
  | .debugStep h trio core thr => Sys2Proof.Machine.execDebugStep h trio core thr s
  | .debugRegRead h trio core thr reg => Sys2Proof.Machine.execDebugRegRead h trio core thr reg s
  | .debugRegWrite h trio core thr reg v => Sys2Proof.Machine.execDebugRegWrite h trio core thr reg v s
  | .ycpSafe h pdu copiesAgree => Sys2Proof.Machine.execYcpSafe h pdu copiesAgree s
  | .safeWatchdog => Sys2Proof.Machine.execSafeWatchdog s
  | .sessionPendingTimeout slot => Sys2Proof.Machine.execSessionPendingTimeout slot s
  | .sessionIdleTimeout slot => Sys2Proof.Machine.execSessionIdleTimeout slot s
  | .heldRequestTimeout slot seq => Sys2Proof.Machine.execHeldRequestTimeout slot seq s
  | .debugLockoutEnd => Sys2Proof.Machine.execDebugLockoutEnd s
  | .faultSourceAssert a => Sys2Proof.Machine.execFaultSourceAssert a s
  | .feltEntry => Sys2Proof.Machine.execFeltEntry s
  | .recoveryEntry => Sys2Proof.Machine.execRecoveryEntry s
  | .safetyInputAccept inp chB level rawA rawB => Sys2Proof.Machine.execSafetyInputAccept inp chB level rawA rawB s
  | .safetyDiscrepancy inp => Sys2Proof.Machine.execSafetyDiscrepancy inp s
  | .testPulse k => Sys2Proof.Machine.execTestPulse k s
  | .testPulseCheck inp seenA seenB => Sys2Proof.Machine.execTestPulseCheck inp seenA seenB s
  | .stoTestPulse appeared => Sys2Proof.Machine.execStoTestPulse appeared s
  | .stoReadbackMismatch n a b => Sys2Proof.Machine.execStoReadbackMismatch n a b s
  | .faultReadbackMismatch => Sys2Proof.Machine.execFaultReadbackMismatch s
  | .ss1DelayEnd n => Sys2Proof.Machine.execSs1DelayEnd n s
  | .stoAck w v => Sys2Proof.Machine.execStoAck w v s
  | .swStop w v => Sys2Proof.Machine.execSwStop w v s
  | .recClose w v => Sys2Proof.Machine.execRecClose w v s
  | .fswLiveClear w k v => Sys2Proof.Machine.execFswLiveClear w k v s
  | .junctionOvertemp => Sys2Proof.Machine.execJunctionOvertemp s
  | .bistSliceStart u => Sys2Proof.Machine.execBistSliceStart u s
  | .bistSliceEnd u pass => Sys2Proof.Machine.execBistSliceEnd u pass s
  | .monitorMeasure a b => Sys2Proof.Machine.execMonitorMeasure a b s
  | .tempSample celsius => Sys2Proof.Machine.execTempSample celsius s
  | .marginEvaluate => Sys2Proof.Machine.execMarginEvaluate s
  | .marginYears => Sys2Proof.Machine.execMarginYears s
  | .vsetReq w v => Sys2Proof.Machine.execVsetReq w v s
  | .marginLoadData w v => Sys2Proof.Machine.execMarginLoadData w v s
  | .marginLoadGo w => Sys2Proof.Machine.execMarginLoadGo w s
  | .secVerCmd w key => Sys2Proof.Machine.execSecVerCmd w key s
  | .secVerBurnDone ok => Sys2Proof.Machine.execSecVerBurnDone ok s
  | .pgEnSet w pg quiesce => Sys2Proof.Machine.execPgEnSet w pg quiesce s
  | .pgEnClear w pg => Sys2Proof.Machine.execPgEnClear w pg s
  | .pgQuiesceSet w pg => Sys2Proof.Machine.execPgQuiesceSet w pg s
  | .pgQuiesceClear w pg => Sys2Proof.Machine.execPgQuiesceClear w pg s
  | .drainComplete pg => Sys2Proof.Machine.execDrainComplete pg s
  | .pgProtWrite w pg v => Sys2Proof.Machine.execPgProtWrite w pg v s
  | .registerWrite w addr width v => Sys2Proof.Machine.execRegisterWrite w addr width v s
  | .readClear w addr => Sys2Proof.Machine.execReadClear w addr s
  | .snapshotRead w addr => Sys2Proof.Machine.execSnapshotRead w addr s
  | .pageReadRefused w addr width => Sys2Proof.Machine.execPageReadRefused w addr width s
  | .rxLaneLockLost r lane => Sys2Proof.Machine.execRxLaneLockLost r lane s
  | .rxLaneLockRegained r lane => Sys2Proof.Machine.execRxLaneLockRegained r lane s
  | .dramPllLockLoss => Sys2Proof.Machine.execDramPllLockLoss s
  | .conditionCeased src => Sys2Proof.Machine.execConditionCeased src s
  | .ptpMessageTx p k => Sys2Proof.Machine.execPtpMessageTx p k s
  | .ethDisableTxEnd p => Sys2Proof.Machine.execEthDisableTxEnd p s
  | .tapOperation ir tdi balls => Sys2Proof.Machine.execTapOperation ir tdi balls s

end Sys2Proof.Machine
end

