-- ==== Sys2Proof/Safety.lean ====
section
/-! DEFINITION. The terms that claims about the K16 are stated in: when a command meets the conditions under which the spec gives it
its effect. -/
namespace Sys2Proof.Machine

/-! ### Resets -/

/-- What a reset of a kind leaves of a state (R29, R38, R435). -/
def afterReset (k : ResetKind) (s t : State) : Prop :=
  let warm := k = .warm ∨ k = .gauze
  t.mode = mMuslin ∧ t.rd (B.rst + RST.CAUSE.off) = BitVec.ofNat 32 k.bit ∧ t.threads = State.reset.threads ∧
  t.dev.fuses = s.dev.fuses ∧ t.dev.board = s.dev.board ∧
  (∀ a n, s.region a = .flash n → memRead t.mem a = memRead s.mem a) ∧
  (warm → ∀ a, s.region a = .dram → memRead t.mem a = memRead s.mem a) ∧
  (k ≠ .powerOn → ∀ key, key / 4096 = 0x012 → 0x040 ≤ key % 4096 → key % 4096 ≤ 0x067 → t.rd key = s.rd key) ∧
  (k ≠ .powerOn → ∀ key, key / 4096 = 0x011 → 0x080 ≤ key % 4096 → key % 4096 ≤ 0x0BF → t.rd key = s.rd key) ∧
  (k ≠ .powerOn → t.rd (B.rst + RST.WARM_CNT.off) =
    if k = .warm ∨ k = .gauze then s.rd (B.rst + RST.WARM_CNT.off) + 1 else s.rd (B.rst + RST.WARM_CNT.off))


/-! ### Fault collector -/

/-- The collector's copies agree, nothing waits at it, and no pair's SS1-r would reach its speed in this cycle. -/
abbrev collCalm (s : State) : Prop := s.coll = s.coll2 ∧ s.raised = [] ∧ ∀ n, n < 8 → s.ss1Run n = false

/-- Source `n` is in the fault word of `t` and, of the numbers below 512, it alone is new (R410). -/
def onlyLive (s t : State) (n : Nat) : Prop := ∀ m, m < 512 → t.live m = (s.live m || m == n)

/-! ### Core instructions -/

/-- The instruction in hand of a thread before its word is decoded. -/
def fetchCx (s : State) (t : ThreadId) (th : Thread) (w : W32) : Cx :=
  ⟨t, s.tkey t, th, w, ⟨.endp, 0, 0, 0, 0, 0, 0, 0, false⟩, [], none⟩

/-- Thread `t` issues word `w` (R82), its fetch succeeds (R85), the word decodes, it is not annulled (R106, R107) and the ring may
run it (R126, R127, R130): the thread, the decoded word, and the state after the fetch. -/
def issued (s : State) (t : ThreadId) (w : W32) : Option (Thread × Dec × State) :=
  match s.issuing t, decodeOp w with
  | some th, .ok d =>
    match fetchStop (fetchCx s t th w) s with
    | .ok s1 => if th.executes w && decide (th.ring ≤ d.ringMax) then some (th, d, s1) else none
    | .error _ => none
  | _, _ => none

/-- The thread with what the rest of the machine did to it while its instruction ran, stalled in `w`; the instruction keeps the partition
in which it issued (R82, R174). -/
def stalledThread (c : Cx) (s : State) (w : Wait) : Thread :=
  let cur := s.thread c.k
  { c.th with
    st := .stalled w, buf := cur.buf, tlbis := cur.tlbis, err := cur.err, halted := cur.halted, stopReq := false
    part := some (c.part s c.th.ring) }

/-- Nobody has asked the thread to stop. -/
abbrev unasked (th : Thread) : Prop := th.stopReq = false ∧ th.st ≠ .stopped

/-- Nothing is to be taken before a stalled thread's instruction goes on (R103, R149), and its trio runs (R53). -/
abbrev goesOn (s : State) (t : ThreadId) : Prop :=
  (s.trio t.trio.val).lost = false ∧ (s.thread (s.tkey t)).err = none ∧ s.eligibleIrq t (s.thread (s.tkey t)).awake = none

/-- The instruction in hand once issued. -/
def runCx (s : State) (t : ThreadId) (th : Thread) (w : W32) (d : Dec) : Cx := ⟨t, s.tkey t, th, w, d, [], none⟩

/-- The access of a load or store row in format M or X (R122). -/
def rowAcc (th : Thread) (d : Dec) (x : Bool) (wr : Bool) : MAcc :=
  ⟨some d.seg, (if x then th.reg d.ra + (th.reg d.rb <<< d.sz) else th.reg d.ra + d.imm).toNat, 2 ^ d.sz, b2n wr, 1 + b2n wr, false, true,
    th.ring, if wr then .write else .read, none⟩


/-! ### Ethernet -/

/-- Port `p` is enabled with its link up and nothing waiting, and adds neither MACsec nor a VLAN tag. -/
abbrev plainPort (p : Nat) (s : State) : Prop :=
  s.pgEn (0x320 + p) = true ∧ s.linkUp p = true ∧ (s.ethp p).txq = [] ∧ s.flag (B.eth p) ETH.SEC_CTL_EN = false ∧
    s.flag B.net NET.VLAN_EN = false

/-- A frame, without its FCS, of a length and destination that the MAC takes, and no PAUSE frame (R364). -/
abbrev macTakes (f : List Byte) (s : State) : Prop :=
  60 ≤ f.length ∧ f.length ≤ 1596 ∧ s.macAccepts (f.take 6) = true ∧ be16 f 12 ≠ 0x8808

/-- A frame with the FCS that belongs to it. -/
def withFcs (f : List Byte) : List Byte := f ++ leBytes 4 (crc32 f)

/-- A PTP frame over Ethernet: destination, type and sequence number of its message. -/
def ptpFrame (peer : Bool) (typ seq : Nat) (f : List Byte) : Prop :=
  f.take 6 = (if peer then [0x01, 0x80, 0xC2, 0, 0, 0x0E] else [0x01, 0x1B, 0x19, 0, 0, 0]) ∧ be16 f 12 = 0x88F7 ∧
    ((f.drop 14).headD 0).toNat % 16 = typ ∧ be16 f 44 = seq

/-! ### Register pages -/

/-- A ring that the page admits for writes (R474). -/
abbrev mayWrite (w : Writer) (p : Nat) (s : State) : Prop := w.ring.val ≤ s.wrRing p

/-- A ring that the page admits for reads (R474). -/
abbrev mayRead (w : Writer) (p : Nat) (s : State) : Prop := w.ring.val ≤ s.rdRing p

/-- No check of the page, its block or the register refuses a 4-byte write of `v` at `key` (R468, R474, R476); the access ends the wait of a
thread whose interrupt is pending (R82). -/
abbrev admits (w : Writer) (key v : Nat) (s : State) : Prop :=
  Code.lowest (regCodes w (key / 4096) (key % 4096) (BitVec.ofNat 32 v) (wakeWaiting s)) = .ok


/-! ### Timers -/

/-- The preload that a TIMER_PRELOAD_WRITE names, and its active register. -/
def preloadFld : TimerReg → Fld
  | .top => TIMER.TOP
  | .cmpa => TIMER.CMPA
  | .cmpb => TIMER.CMPB

def activeFld : TimerReg → Fld
  | .top => TIMER.TOP_ACT
  | .cmpa => TIMER.CMPA_ACT
  | .cmpb => TIMER.CMPB_ACT

/-- A flag of IRQ_STAT of a channel (R357). -/
def tmFlag (t : State) (n k : Nat) : Bool := t.flag (B.timer n) ⟨0x044, k, 1⟩


/-! ### Trios and modes -/

/-- No YCP request waits that could go on once a trio or the mode has changed (R386, R387). -/
def ycpCalm (s : State) : Bool :=
  (List.range 8).all (fun p => (s.ycp.sess.find p).all (fun x =>
    x.exec.isSome || (decide (x.next < 2 ^ 32) && (x.held.find? (fun r => r.seq == x.next)).isNone)))

/-- Nothing that trio `n` has buffered or holds has yet to be performed (R56, R60, R195). -/
abbrev quiet (n : Nat) (s : State) : Prop :=
  (∀ k, k ∈ trioKeys n → (s.thread k).buf = []) ∧ (s.trio n).commit = [] ∧ (s.trio n).held = [] ∧ ycpCalm s = true

/-- TESTEN is low, and the boot or wake finds no fault in what it tests (R35, R43, R488). -/
abbrev allGood (e : BootEnv) : Prop := e.testEn = false ∧ e.collectorOk = true ∧ e.trioCmpFail = [] ∧ e.aauCmpFail = []

/-! ### YCP -/

/-- A request of a session as the device takes it. -/
def ycpReq (h : YcpHdr) (c : YCmd) : YReq := ⟨h.seq.toNat, c, h.lenFits, h.enc, none⟩

/-- The session `x` at `place` has the header's number and takes the request now: well formed, authentic, the next in order, with
nothing executing in any session and nothing held (R383, R385-R387); `right`: the right its command needs (R384). -/
abbrev takesNow (h : YcpHdr) (place : Nat) (x : Session) (right : Option Nat) (s : State) : Prop :=
  s.ycpOn = true ∧ romServes s = false ∧ h.wellFormed = true ∧ h.auth = true ∧ h.lenFits = true ∧ h.session = x.num ∧ x.num ≠ 0 ∧
    s.sessList.find? (fun p => p.2.num == h.session) = some (place, x) ∧ s.ycp.sess.find place = some x ∧ x.pending = false ∧
    x.exec = none ∧ s.ycpBusy = false ∧ x.held = [] ∧ h.seq.toNat = x.next ∧ x.next < 2 ^ 32 - 1 ∧
    right.all (fun n => nbit x.rights n) = true

/-- The session once request `c` has been taken and not yet answered. -/
def taken (h : YcpHdr) (x : Session) (c : YCmd) : Session := { x with next := x.next + 1, exec := some (ycpReq h c) }

/-- Request `c` of session `x` was answered with a code and a payload: the packet left, and the session, `y` but for this, keeps it
for a repeat (R386). -/
def answered (h : YcpHdr) (place : Nat) (x y : Session) (c : YCmd) (code : Code) (data : List Byte) (t : State) : Prop :=
  let k := ycpPacket x (ycpReq h c) code data
  t.sent.head? = some (.ycp k) ∧
    t.ycp.sess.find place = some { y with next := x.next + 1, resps := (⟨h.seq.toNat, k⟩ :: x.resps).take 16, exec := none }

/-- Stream 20 bypasses translation, and `n` bytes from `a` lie within one line of DRAM (R191, R387). -/
abbrev plainDram (a n : Nat) (s : State) : Prop :=
  bf (s.rd (B.iot + 0x40 + 16 * 20)) 0 2 = 3 ∧ 1 ≤ n ∧ a % 64 + n ≤ 64 ∧ ∀ i, i < n → s.region (a + i) = .dram

end Sys2Proof.Machine
end

