-- ==== Sys2Proof/Certificates/Slice0/Obligations.lean ====
section
/-! DEFINITION. The statements for the provers, one definition per statement. -/
open Sys2Proof Sys2Proof.Machine

/-! ### The machine as a whole -/

/-- A step runs the command at the front of the queue on the state with the queue's rest; on an empty queue the block idles (the
model's choice, log entry 1). -/
def Obligations.StepRunsFrontCommand : Prop :=
  (∀ (s : State) (c : Instr) (rest : List Instr), s.pending = c :: rest → step s = exec c { s with pending := rest }) ∧
  (∀ s : State, s.pending = [] → step s = .next s)

/-- Every command of the table completes in every state, and none touches the queue of those that wait (the model's form). -/
def Obligations.EveryCommandCompletes : Prop :=
  ∀ (c : Instr) (s : State), ∃ t, exec c s = .next t ∧ t.pending = s.pending

/-- Memory and the register table keep their canonical form through every step. -/
def Obligations.CanonicalFormKept : Prop :=
  ∀ (s t : State), Memory.wf s.mem → s.regs.wf regReset → step s = .next t → Memory.wf t.mem ∧ t.regs.wf regReset

/-- The state after reset has the canonical form. -/
def Obligations.CanonicalFormAtReset : Prop := Memory.wf State.reset.mem ∧ State.reset.regs.wf regReset

/-- R4, R29, R83, R473, R482 and the maps: what reset leaves: Muslin, cause power-on, thread 0 of trio 0 at the first word of the
Canvas ROM and every other thread stopped, each register at the reset value of its map, page identities and enables, nothing in
transit. -/
def Obligations.ResetLeaves : Prop :=
  let s := State.reset
  s.mode = 0 ∧ s.rd (B.rst + RST.CAUSE.off) = 1 ∧
  ((s.thread 0).st = .running ∧ (s.thread 0).pc = 0 ∧ (s.thread 0).ring = 0) ∧
  (∀ k, k ≠ 0 → (s.thread k).st = .stopped) ∧
  (∀ p o k ty n r, pageKind p = some (k, ty, n) → regRow p o = some r → o < 4096 → (0x40 ≤ o ∨ k = .qd) →
    k ∈ [Kind.clk, .rst, .coll, .fsw, .recd, .intd, .walk, .part, .thrp, .xlate, .iot, .shaft, .angle, .eng, .lane, .seq, .ring, .eth,
      .net, .ycp, .dram, .xspi, .bist, .qd] →
    s.rd (page p + o) = BitVec.ofNat 32 r.reset) ∧
  (∀ p k ty n, pageKind p = some (k, ty, n) → k ≠ .qd →
    (s.rd (page p)).toNat = p + 4096 + ty * 65536 ∧ (s.pgEn p = (k.enFixed || p == 0x100)) ∧ (s.pgEnabled p = s.pgEn p)) ∧
  s.mem = [] ∧ s.pending = [] ∧ s.sent = [] ∧ s.raised = [] ∧ s.snaps = {} ∧ s.heldLo = {} ∧ s.now = 0


/-! ### Integer results and flags -/

/-- R112: what each ALU function computes, over the integers and bit by bit. -/
def Obligations.AluResults : Prop :=
  ∀ (a b : W64) (c : Bool),
    (aluRes 0x00 a b c).toInt = (a.toInt + b.toInt).bmod (2 ^ 64) ∧
    (aluRes 0x01 a b c).toInt = (a.toInt - b.toInt).bmod (2 ^ 64) ∧
    (aluRes 0x02 a b c).toInt = (a.toInt + b.toInt + (b2n c : Int)).bmod (2 ^ 64) ∧
    (aluRes 0x03 a b c).toInt = (a.toInt - b.toInt - (1 - (b2n c : Int))).bmod (2 ^ 64) ∧
    (∀ i, i < 64 →
      (aluRes 0x04 a b c).getLsbD i = (a.getLsbD i && b.getLsbD i) ∧
      (aluRes 0x05 a b c).getLsbD i = (a.getLsbD i || b.getLsbD i) ∧
      (aluRes 0x06 a b c).getLsbD i = (a.getLsbD i != b.getLsbD i) ∧
      (aluRes 0x07 a b c).getLsbD i = (a.getLsbD i && !b.getLsbD i) ∧
      (aluRes 0x08 a b c).getLsbD i = (decide (b.toNat ≤ i) && a.getLsbD (i - b.toNat)) ∧
      (aluRes 0x09 a b c).getLsbD i = (decide (i + b.toNat < 64) && a.getLsbD (i + b.toNat)) ∧
      (aluRes 0x0A a b c).getLsbD i = a.getLsbD (min (i + b.toNat) 63) ∧
      (aluRes 0x0B a b c).getLsbD i = a.getLsbD ((i + b.toNat) % 64)) ∧
    (aluRes 0x0C a b c).toInt = min a.toInt b.toInt ∧
    (aluRes 0x0D a b c).toInt = max a.toInt b.toInt ∧
    (aluRes 0x0E a b c).toNat = min a.toNat b.toNat ∧
    (aluRes 0x0F a b c).toNat = max a.toNat b.toNat ∧
    (if a = 0 then (aluRes 0x10 a b c).toNat = 64
      else a.getLsbD (63 - (aluRes 0x10 a b c).toNat) = true ∧ (aluRes 0x10 a b c).toNat < 64 ∧
        ∀ i, 63 - (aluRes 0x10 a b c).toNat < i → a.getLsbD i = false) ∧
    (if a = 0 then (aluRes 0x11 a b c).toNat = 64
      else a.getLsbD (aluRes 0x11 a b c).toNat = true ∧ ∀ i, i < (aluRes 0x11 a b c).toNat → a.getLsbD i = false) ∧
    (aluRes 0x12 a b c).toNat = (List.range 64).countP (fun i => a.getLsbD i) ∧
    (∀ i, i < 8 → (aluRes 0x13 a b c).extractLsb' (8 * i) 8 = a.extractLsb' (8 * (7 - i)) 8) ∧
    (aluRes 0x14 a b c).toInt = (a.toNat : Int).bmod (2 ^ 8) ∧
    (aluRes 0x15 a b c).toInt = (a.toNat : Int).bmod (2 ^ 16) ∧
    (aluRes 0x16 a b c).toInt = (a.toNat : Int).bmod (2 ^ 32) ∧
    (aluRes 0x17 a b c).toNat = a.toNat % 2 ^ 32

/-- R113: N and Z from the result; C and V of additions and subtractions from the exact sums; the last bit shifted out; a shift of 0 and
every other operation leave C, and only additions and subtractions change V. R107: the eight conditions and their inverses, and
that code 8 is illegal, and R117: the twelve relations. -/
def Obligations.FlagsAndConditions : Prop :=
  (∀ (f : Nat) (a b : W64) (o : NZCV), f ≤ 0x17 →
     let r := aluRes f a b o.c
     let n := aluFlags f a b o
     n.n = r.getLsbD 63 ∧ n.z = decide (r = 0) ∧
     (f = 0x00 → n.c = decide (2 ^ 64 ≤ a.toNat + b.toNat) ∧ n.v = decide (r.toInt ≠ a.toInt + b.toInt)) ∧
     (f = 0x01 → n.c = decide (b.toNat ≤ a.toNat) ∧ n.v = decide (r.toInt ≠ a.toInt - b.toInt)) ∧
     (f = 0x02 → n.c = decide (2 ^ 64 ≤ a.toNat + b.toNat + b2n o.c) ∧ n.v = decide (r.toInt ≠ a.toInt + b.toInt + (b2n o.c : Int))) ∧
     (f = 0x03 → n.c = decide (b.toNat + (1 - b2n o.c) ≤ a.toNat) ∧ n.v = decide (r.toInt ≠ a.toInt - b.toInt - (1 - (b2n o.c : Int)))) ∧
     (f = 0x08 → n.v = o.v ∧ (b.toNat = 0 → n.c = o.c) ∧ (1 ≤ b.toNat → b.toNat ≤ 64 → n.c = a.getLsbD (64 - b.toNat))) ∧
     (f = 0x09 → n.v = o.v ∧ (b.toNat = 0 → n.c = o.c) ∧ (1 ≤ b.toNat → b.toNat ≤ 64 → n.c = a.getLsbD (b.toNat - 1))) ∧
     (f = 0x0A → n.v = o.v ∧ (b.toNat = 0 → n.c = o.c) ∧ (1 ≤ b.toNat → b.toNat ≤ 64 → n.c = a.getLsbD (b.toNat - 1))) ∧
     (f = 0x0B → n.v = o.v ∧ (b.toNat % 64 = 0 → n.c = o.c) ∧ (b.toNat % 64 ≠ 0 → n.c = r.getLsbD 63)) ∧
     (4 ≤ f → (f < 8 ∨ 0xB < f) → n.c = o.c ∧ n.v = o.v)) ∧
  ((∀ (f : NZCV),
     condHolds 0 f = true ∧ condHolds 1 f = f.z ∧ condHolds 2 f = f.c ∧ condHolds 3 f = (f.c && !f.z) ∧
     condHolds 4 f = (f.n == f.v) ∧ condHolds 5 f = (!f.z && f.n == f.v) ∧ condHolds 6 f = f.n ∧ condHolds 7 f = f.v ∧
     ∀ k, k < 8 → condHolds (k + 8) f = !condHolds k f) ∧
   (∀ w : W32, bf w 28 4 = 8 → decodeOp w = .illegal) ∧
   (∀ (a b : W64),
     (relation 0x0 a b = true ↔ a = b) ∧ (relation 0x1 a b = true ↔ a ≠ b) ∧
     (relation 0x2 a b = true ↔ a.toInt < b.toInt) ∧ (relation 0x3 a b = true ↔ b.toInt ≤ a.toInt) ∧
     (relation 0x4 a b = true ↔ a.toNat < b.toNat) ∧ (relation 0x5 a b = true ↔ b.toNat ≤ a.toNat) ∧
     (relation 0x6 a b = true ↔ b.toInt < a.toInt) ∧ (relation 0x7 a b = true ↔ a.toInt ≤ b.toInt) ∧
     (relation 0x8 a b = true ↔ b.toNat < a.toNat) ∧ (relation 0x9 a b = true ↔ a.toNat ≤ b.toNat) ∧
     (relation 0xA a b = true ↔ a.getLsbD (b.toNat % 64) = false) ∧ (relation 0xB a b = true ↔ a.getLsbD (b.toNat % 64) = true)))

/-! ### Register rows -/

/-- R112 to R115, R117, R118, R121, R130, R119: rows of a running thread that write only its own registers complete with exactly
these; `complete` adds the pc, the loop step and the products. -/
def Obligations.RegisterRowsComplete : Prop :=
  ∀ (s s1 : State) (t : ThreadId) (w : W32) (th : Thread) (d : Dec), issued s t w = some (th, d, s1) →
    let k := s.tkey t
    let a := th.reg d.ra
    let b := th.reg d.rb
    let fl := th.flags
    let done (th' : Thread) : Res := .next (complete s1 k th th' none none)
    (d.row = .alu → d.b = false → exec (.alu t w) s = done (th.setReg d.rd (aluRes d.fn a b fl.c))) ∧
    (d.row = .alu → d.b = true → exec (.alu t w) s = done ((th.setReg d.rd (aluRes d.fn a b fl.c)).setFlags (aluFlags d.fn a b fl))) ∧
    (d.row = .addi → exec (.addi t w) s = done (th.setReg (bf w 17 5) (a + (w.extractLsb' 0 12).signExtend 64))) ∧
    (d.row = .andi → exec (.andi t w) s = done (th.setReg (bf w 17 5) (a &&& (w.extractLsb' 0 12).setWidth 64))) ∧
    (d.row = .ori → exec (.ori t w) s = done (th.setReg (bf w 17 5) (a ||| (w.extractLsb' 0 12).setWidth 64))) ∧
    (d.row = .xori → exec (.xori t w) s = done (th.setReg (bf w 17 5) (a ^^^ (w.extractLsb' 0 12).setWidth 64))) ∧
    (d.row = .shi → d.rd = bf w 17 5 ∧ d.imm.toNat = bf w 6 6 ∧ d.b = w.getLsbD 5 ∧ d.fn = 8 + bf w 0 5 ∧ bf w 0 5 ≤ 3) ∧
    (d.row = .shi → d.b = false → exec (.shi t w) s = done (th.setReg d.rd (aluRes d.fn a d.imm fl.c))) ∧
    (d.row = .shi → d.b = true → exec (.shi t w) s = done ((th.setReg d.rd (aluRes d.fn a d.imm fl.c)).setFlags (aluFlags d.fn a d.imm fl))) ∧
    (d.row = .cmpi → bf w 17 5 = 0 ∧ exec (.cmpi t w) s = done (th.setFlags (aluFlags 0x01 a ((w.extractLsb' 0 12).signExtend 64) fl))) ∧
    (d.row = .movw → let m := 16 * (bf w 22 6 - 0x08)
      d.rd = bf w 17 5 ∧ m ≤ 48 ∧
      (w.getLsbD 16 = false → exec (.movw t w) s = done (th.setReg d.rd ((w.extractLsb' 0 16).setWidth 64 <<< m))) ∧
      (w.getLsbD 16 = true → ∃ v, exec (.movw t w) s = done (th.setReg d.rd v) ∧
        ∀ i, i < 64 → v.getLsbD i = if m ≤ i ∧ i < m + 16 then w.getLsbD (i - m) else (th.reg d.rd).getLsbD i)) ∧
    (d.row = .cmpp → exec (.cmpp t w) s = done ((th.setPred d.rd (relation d.fn a b)).setPred d.sz (!relation d.fn a b))) ∧
    (d.row = .cmppi → exec (.cmppi t w) s = done ((th.setPred d.rd (relation d.fn a d.imm)).setPred d.sz (!relation d.fn a d.imm))) ∧
    (d.row = .plogic → let x := th.pred (bf w 16 3)
      let y := th.pred (bf w 13 3)
      ∃ v, exec (.plogic t w) s = done (th.setPred (bf w 19 3) v) ∧
        (bf w 10 3, v) ∈ [(0, x && y), (1, x || y), (2, x != y), (3, x && !y), (4, x || !y)]) ∧
    (d.row = .mfs → exec (.mfs t w) s = done (th.setReg d.rd (th.sreg t s1.now d.fn))) ∧
    (d.row = .crc → d.fn = 0 → exec (.crc32 t w) s = done (th.setReg d.rd (crcBytes 0 (th.reg d.rd) (leBytes 8 a.toNat)))) ∧
    (d.row = .crc → d.fn = 1 → exec (.crc32c t w) s = done (th.setReg d.rd (crcBytes 1 (th.reg d.rd) (leBytes 8 a.toNat)))) ∧
    (d.row = .crc → d.fn = 2 → exec (.crc64 t w) s = done (th.setReg d.rd (crcBytes 2 (th.reg d.rd) (leBytes 8 a.toNat)))) ∧
    (d.row = .br → exec (.br t w) s = .next (complete s1 k th th none (some (th.pc + d.imm)))) ∧
    (d.row = .jmp → bf a 0 2 = 0 → exec (.jmp t w) s = .next (complete s1 k th th none (some a))) ∧
    (d.row = .jmp → bf a 0 2 ≠ 0 →
      exec (.jmp t w) s = .next (takeExc s1 t k th ⟨0x05, a, segFinfo 2 0 4 th.ring⟩))

/-- R116, R87, R89: MUL and MULU send the exact product of 128 bits on its way to PH:PL; the divides and remainders write rd with the
truncated quotient or the remainder, and a divisor of 0 raises divide by zero (0x0C) and writes nothing. R87: a product lands in PL and
PH in time for the third instruction after the multiply; the first two read what stood there. -/
def Obligations.MulDivRows : Prop :=
  (∀ (s s1 : State) (t : ThreadId) (w : W32) (th : Thread) (d : Dec), issued s t w = some (th, d, s1) →
     let k := s.tkey t
     let a := th.reg d.ra
     let b := th.reg d.rb
     (d.row = .mul → exec (.mul t w) s = .next (complete s1 k th th (some (BitVec.ofInt 128 (a.toInt * b.toInt))) none)) ∧
     (d.row = .mulu → exec (.mulu t w) s = .next (complete s1 k th th (some (BitVec.ofNat 128 (a.toNat * b.toNat))) none)) ∧
     (d.row = .div → b ≠ 0 → ∃ q, exec (.div t w) s = .next (complete s1 k th (th.setReg d.rd q) none none) ∧
       q.toInt = (a.toInt.tdiv b.toInt).bmod (2 ^ 64)) ∧
     (d.row = .divu → b ≠ 0 → ∃ q, exec (.divu t w) s = .next (complete s1 k th (th.setReg d.rd q) none none) ∧
       q.toNat = a.toNat / b.toNat) ∧
     (d.row = .rem → b ≠ 0 → ∃ r, exec (.rem t w) s = .next (complete s1 k th (th.setReg d.rd r) none none) ∧
       r.toInt = a.toInt - a.toInt.tdiv b.toInt * b.toInt) ∧
     (d.row = .remu → b ≠ 0 → ∃ r, exec (.remu t w) s = .next (complete s1 k th (th.setReg d.rd r) none none) ∧
       r.toNat = a.toNat - a.toNat / b.toNat * b.toNat) ∧
     (d.row = .div → b = 0 → exec (.div t w) s = .next (takeExc s1 t k th ⟨0x0C, th.pc, 0⟩)) ∧
     (d.row = .divu → b = 0 → exec (.divu t w) s = .next (takeExc s1 t k th ⟨0x0C, th.pc, 0⟩)) ∧
     (d.row = .rem → b = 0 → exec (.rem t w) s = .next (takeExc s1 t k th ⟨0x0C, th.pc, 0⟩)) ∧
     (d.row = .remu → b = 0 → exec (.remu t w) s = .next (takeExc s1 t k th ⟨0x0C, th.pc, 0⟩))) ∧
  (∀ (w : W32) (d : Dec), bf w 22 6 = 0x0C → decodeOp w = .ok d →
     d.rd = bf w 17 5 ∧ d.ra = bf w 12 5 ∧ d.rb = bf w 7 5 ∧ (bf w 0 7 ≤ 0x01 → bf w 17 5 = 0) ∧
     (bf w 0 7, d.row) ∈ [(0x00, CoreRow.mul), (0x01, .mulu), (0x08, .div), (0x09, .divu), (0x0A, .rem), (0x0B, .remu)]) ∧
  (∀ (th : Thread) (p : Product) (q1 q2 : Option Product),
     let t0 := th.shiftProducts (some p)
     let t1 := t0.shiftProducts q1
     let t2 := t1.shiftProducts q2
     (t0.pl = (th.shiftProducts none).pl ∧ t0.ph = (th.shiftProducts none).ph) ∧
     (t1.pl = ((th.shiftProducts none).shiftProducts q1).pl ∧ t1.ph = ((th.shiftProducts none).shiftProducts q1).ph) ∧
     t2.ph ++ t2.pl = p)

/-- R86, R87, R90, R91, R129: what completing an instruction does to its thread, and that it does nothing else: the pc goes to the
target, to LS at the end of a loop with passes left, or 4 on; LC and SR.LA follow the loop; a requested stop takes place. R130: what a
write of LC or SR left there holds from the next instruction on, at the end of a loop too. R82: an instruction that waits for no read of
the fabric stalls its thread and changes nothing else. -/
def Obligations.CompletionEffect : Prop :=
  (∀ (s : State) (k : Nat) (old th : Thread) (prod : Option Product) (tgt : Option W64),
    let t := complete s k old th prod tgt
    let n := t.thread k
    let cur := s.thread k
    let atEnd := old.la = true ∧ old.pc = old.le
    (n.g = th.g ∧ n.g30 = th.g30 ∧ n.p = th.p ∧ n.seg = th.seg ∧ n.vbr = th.vbr ∧ n.esp = th.esp ∧ n.krr = th.krr ∧
      n.ls = th.ls ∧ n.le = th.le ∧ n.cause = th.cause ∧ n.faddr = th.faddr ∧ n.finfo = th.finfo ∧ n.aauFlags = th.aauFlags) ∧
    (n.buf = cur.buf ∧ n.tlbis = cur.tlbis ∧ n.err = cur.err ∧ n.halted = cur.halted) ∧
    (n.far = prod ∧ n.near = th.far) ∧
    (∀ p, th.near = some p → n.ph ++ n.pl = p) ∧
    (th.near = none → n.pl = th.pl ∧ n.ph = th.ph) ∧
    (∀ a, tgt = some a → n.pc = a ∧ n.lc = th.lc ∧ n.sr = th.sr) ∧
    (tgt = none → ¬ atEnd → n.pc = old.pc + 4 ∧ n.lc = th.lc ∧ n.sr = th.sr) ∧
    (tgt = none → atEnd → 1 < old.lc.toNat → n.pc = old.ls ∧ n.lc = old.lc - 1 ∧ n.sr = th.sr) ∧
    (tgt = none → atEnd → old.lc = 1 → n.pc = old.pc + 4 ∧ n.lc = 0 ∧ n.la = false) ∧
    (n.st = if th.stopReq ∨ cur.stopReq ∨ cur.st = .stopped then .stopped else th.st) ∧ n.stopReq = false ∧
    (∀ j, j ≠ k → t.thread j = s.thread j) ∧ t.mem = s.mem ∧ t.regs = s.regs ∧ t.trios = s.trios ∧ t.fab = s.fab ∧
    t.sent = s.sent ∧ t.raised = s.raised ∧ t.pending = s.pending) ∧
  (∀ (s : State) (k : Nat) (old th : Thread) (lc la : Bool),
    let t := completeWrite s k old th lc la
    let n := t.thread k
    let atEnd := old.la = true ∧ old.pc = old.le
    (n.g = th.g ∧ n.g30 = th.g30 ∧ n.p = th.p ∧ n.seg = th.seg ∧ n.ls = th.ls ∧ n.le = th.le) ∧
    (n.pc = if atEnd ∧ 1 < old.lc.toNat then old.ls else old.pc + 4) ∧
    (lc = true → n.lc = th.lc) ∧ (la = true → n.sr = th.sr) ∧ (¬ atEnd → n.lc = th.lc ∧ n.sr = th.sr) ∧
    (lc = false → atEnd → 1 < old.lc.toNat → n.lc = old.lc - 1) ∧ (lc = false → atEnd → old.lc = 1 → n.lc = 0) ∧
    (la = false → atEnd → old.lc = 1 → n.la = false) ∧
    (∀ j, j ≠ k → t.thread j = s.thread j) ∧ t.mem = s.mem ∧ t.regs = s.regs ∧ t.trios = s.trios) ∧
  (∀ (c : Cx) (s : State) (w : Wait), Wait.reads w = [] → unasked c.th → unasked (s.thread c.k) →
    stall c s w = s.setThread c.k (stalledThread c s w))

/-- R85, R100, R109: the fetch before an instruction changes only the translation caches, the walk counter and the order in which the trio
holds its instruction lines: so the register rows above leave memory, every other thread, every trio but for that order and every page
register but WALK_CNT as they were. -/
def Obligations.RegisterRowsFrame : Prop :=
  ∀ (s s1 s' : State) (t : ThreadId) (w : W32) (th : Thread) (d : Dec) (i : Instr), issued s t w = some (th, d, s1) →
    (d.row = .alu ∧ i = .alu t w ∨ d.row = .addi ∧ i = .addi t w ∨ d.row = .andi ∧ i = .andi t w ∨ d.row = .ori ∧ i = .ori t w ∨
      d.row = .xori ∧ i = .xori t w ∨ d.row = .shi ∧ i = .shi t w ∨ d.row = .cmpi ∧ i = .cmpi t w ∨ d.row = .movw ∧ i = .movw t w ∨
      d.row = .mul ∧ i = .mul t w ∨ d.row = .mulu ∧ i = .mulu t w ∨ d.row = .cmpp ∧ i = .cmpp t w ∨ d.row = .cmppi ∧ i = .cmppi t w ∨
      d.row = .plogic ∧ i = .plogic t w ∨ d.row = .mfs ∧ i = .mfs t w ∨ d.row = .br ∧ i = .br t w ∨ d.row = .loopReg ∧ i = .loopReg t w ∨
      d.row = .loopi ∧ i = .loopi t w) →
    exec i s = .next s' →
    (∀ a, memRead s'.mem a = memRead s.mem a) ∧
    (∀ j, j ≠ s.tkey t → s'.thread j = s.thread j) ∧
    (∀ key, key ≠ B.walk + WALK.WALK_CNT.off → s'.rd key = s.rd key) ∧
    (∀ m, s'.trio m = { s.trio m with lines := (s'.trio m).lines }) ∧ s'.sent = s.sent ∧ s'.raised = s.raised ∧ s'.pending = s.pending ∧
    (∀ r, r ≠ d.rd → (s'.thread (s.tkey t)).reg r = th.reg r) ∧
    ((s'.thread (s.tkey t)).reg 0 = 0) ∧
    (d.row ≠ .alu → d.row ≠ .shi → d.row ≠ .cmpi → (s'.thread (s.tkey t)).flags = th.flags) ∧
    (d.row ≠ .cmpp → d.row ≠ .cmppi → d.row ≠ .plogic → (s'.thread (s.tkey t)).p = th.p) ∧
    (s'.thread (s.tkey t)).seg = th.seg ∧ (s'.thread (s.tkey t)).buf = th.buf ∧ (s'.thread (s.tkey t)).krr = th.krr ∧
    (s'.thread (s.tkey t)).vbr = th.vbr ∧ (s'.thread (s.tkey t)).esp = th.esp ∧ (s'.thread (s.tkey t)).cause = th.cause

/-! ### Loops, special registers, calls -/

/-- R90, R121: LOOP and LOOPI set LS and LE; a count of 0 clears LC and SR.LA and goes on at LE + 4, any other arms the loop. R120: CALL
and CALLR push the return address and the link below g30 and branch; a stack or target off its alignment raises alignment. RET checks the
link, pops the frame and branches; a wrong link raises stack limit with FINFO 1. The rights of the frame's read (log entry 15) and the
target in FADDR where a returned address is misaligned (log entry 61) are the model's reading. -/
def Obligations.LoopAndCallRows : Prop :=
  (∀ (s s1 : State) (t : ThreadId) (w : W32) (th : Thread) (d : Dec), issued s t w = some (th, d, s1) →
     let k := s.tkey t
     let ls := th.pc + 4
     let le := th.pc + 4 + 4 * d.imm
     let armed (c : W64) : Thread := { th with ls := ls, le := le, lc := c }
     let done (c : W64) : Res :=
       if c = 0 then .next (complete s1 k th ((armed 0).setSr 8 1 0) none (some (le + 4)))
       else .next (complete s1 k th ((armed c).setSr 8 1 1) none (some ls))
     (d.row = .loopReg → exec (.loopReg t w) s = done (th.reg d.ra)) ∧
     (d.row = .loopi → exec (.loopi t w) s = done (BitVec.ofNat 64 d.fn))) ∧
  (∀ (s s1 : State) (t : ThreadId) (w : W32) (th : Thread) (d : Dec), issued s t w = some (th, d, s1) →
     let k := s.tkey t
     let c := runCx s t th w d
     let sp := th.reg 30
     let push : MAcc := ⟨some 1, (sp - 16).toNat, 16, 6, 2, false, true, th.ring, .write, some (sp, 0)⟩
     let pop : MAcc := ⟨some 1, sp.toNat, 16, 6, 1, false, true, th.ring, .read, some (sp, 1)⟩
     let frame := leBytes 8 (th.pc + 4).toNat ++ leBytes 8 sp.toNat
     (∀ (i : Instr) (tgt : W64), (d.row = .call ∧ i = .call t w ∧ tgt = th.pc + d.imm) ∨ (d.row = .callr ∧ i = .callr t w ∧ tgt = th.reg d.ra) →
       (bf sp 0 4 = 0 → bf tgt 0 2 = 0 → ∀ ps s2, push.check c s1 = .ok (ps, s2) → th.buf.length < 4 →
         ∃ o : OutEnt, o.tid = t ∧ o.ring.val = th.ring ∧ o.what = .store (push.la th) (cutData ps frame) ∧
           exec i s = .next (complete (s2.pushBuf k o) k th (th.setReg 30 (sp - 16)) none (some tgt))) ∧
       (bf sp 0 4 ≠ 0 → exec i s = .next (takeExc s1 t k th ⟨0x05, sp - 16, segFinfo 6 1 3 th.ring⟩)) ∧
       (bf sp 0 4 = 0 → bf tgt 0 2 ≠ 0 → exec i s = .next (takeExc s1 t k th ⟨0x05, tgt, segFinfo 2 0 4 th.ring⟩))) ∧
     (d.row = .ret → ∀ (d1 d2 : List Byte) (s2 : State), d1.length = 8 → loadAcc c pop s1 = .ok (d1 ++ d2, s2) →
       let back := BitVec.ofNat 64 (leNat d1)
       let link := BitVec.ofNat 64 (leNat d2)
       (link = sp + 16 → bf back 0 2 = 0 → exec (.ret t w) s = .next (complete s2 k th (th.setReg 30 (sp + 16)) none (some back))) ∧
       (link = sp + 16 → bf back 0 2 ≠ 0 → exec (.ret t w) s = .next (takeExc s2 t k th ⟨0x05, back, segFinfo 2 0 4 th.ring⟩)) ∧
       (link ≠ sp + 16 → exec (.ret t w) s = .next (takeExc s2 t k th ⟨0x0D, sp, 1⟩))))

/-- R130, R141, R172: MTS writes its register; a write of SR is refused as a whole where R141 refuses a field of it, and then
raises privileged instruction; the null selector loads the null segment and 0xFFFF, in ring 0 alone, the flat one; what MTS wrote
to a plain register MFS reads back. FADDR = 0xFFFF where that selector is refused is the model's reading (log entry 61). -/
def Obligations.MtsRow : Prop :=
  (∀ (s s1 : State) (t : ThreadId) (w : W32) (th : Thread) (d : Dec), issued s t w = some (th, d, s1) → d.row = .mts →
    let k := s.tkey t
    let a := th.reg d.ra
    let r := th.ring
    let refused := (r = 3 ∧ (bf a 1 2 ≠ 3 ∨ a.getLsbD 0 ≠ th.ie)) ∨ ((r = 1 ∨ r = 2) ∧ bf a 1 2 < r)
    (d.fn = 0 → refused → exec (.mts t w) s = .next (takeExc s1 t k th ⟨0x02, th.pc, BitVec.ofNat 64 w.toNat⟩)) ∧
    (d.fn = 0 → ¬ refused → s1.ceHeld = false →
      exec (.mts t w) s = .next (completeWrite s1 k th { th with sr := BitVec.ofNat 64 (a.toNat % 512) } false true)) ∧
    (d.fn = 0 → ¬ refused → s1.ceHeld = true →
      exec (.mts t w) s = .next (completeWrite s1 k th { th with sr := BitVec.ofNat 64 (setBits (a.toNat % 512) 3 1 1) } false true)) ∧
    (d.fn = 0x03 → exec (.mts t w) s = .next (completeWrite s1 k th (th.setSreg 0x03 a) true false)) ∧
    (0 < d.fn → d.fn < 0x20 → d.fn ≠ 0x03 → exec (.mts t w) s = .next (complete s1 k th (th.setSreg d.fn a) none none)) ∧
    (0x20 ≤ d.fn → a.extractLsb' 0 16 = 0 →
      exec (.mts t w) s =
        .next (complete s1 k th { th with seg := th.seg.set flatSeg (d.fn - 0x20) ⟨0, 0, 0, false, false, false, 0⟩ } none none)) ∧
    (0x20 ≤ d.fn → a.extractLsb' 0 16 = 0xFFFF → r = 0 →
      exec (.mts t w) s = .next (complete s1 k th { th with seg := th.seg.set flatSeg (d.fn - 0x20) Seg.flat } none none)) ∧
    (0x20 ≤ d.fn → a.extractLsb' 0 16 = 0xFFFF → r ≠ 0 →
      exec (.mts t w) s = .next (takeExc s1 t k th ⟨0x04, 0xFFFF, segFinfo 7 (d.fn - 0x20) 3 r⟩))) ∧
  (∀ (th : Thread) (t : ThreadId) (now v : W64) (n : Nat), n ∈ [1, 2, 3, 4, 5, 6, 8, 9, 0xC, 0xD, 0xE, 0xF, 0x10, 0x14, 0x15, 0x16, 0x17] →
    (th.setSreg n v).sreg t now n = v)

/-! ### Loads, stores, atomics -/

/-- R122: once its bytes are there, a load writes rd with them, sign- or zero-extended by its row. R195, R196: a load from the trio's own
SRAM reads the bytes of memory where it meets no store of the thread that waits, in the store buffer or, in PAIR, for its commit; the
bytes of the newest such store where that store holds all of the access; where it holds them in part the load waits for the stores, or in
PAIR for the checkpoint that commits them (R59), which a load from a register page takes too. -/
def Obligations.LoadRows : Prop :=
  (∀ (s s1 : State) (t : ThreadId) (w : W32) (th : Thread) (d : Dec), issued s t w = some (th, d, s1) →
     let k := s.tkey t
     let c := runCx s t th w d
     ∀ (x : Bool) (bytes : List Byte) (s2 : State), loadAcc c (rowAcc th d x false) s1 = .ok (bytes, s2) →
       let signed (n : Nat) : Res := .next (complete s2 k th (th.setReg d.rd (BitVec.ofInt 64 ((leNat bytes : Int).bmod (2 ^ n)))) none none)
       let plain : Res := .next (complete s2 k th (th.setReg d.rd (BitVec.ofNat 64 (leNat bytes))) none none)
       (x = false → d.row = .load → d.sz = 0 → d.b = true → exec (.ldb t w) s = signed 8) ∧
       (x = false → d.row = .load → d.sz = 0 → d.b = false → exec (.ldbu t w) s = plain) ∧
       (x = false → d.row = .load → d.sz = 1 → d.b = true → exec (.ldh t w) s = signed 16) ∧
       (x = false → d.row = .load → d.sz = 1 → d.b = false → exec (.ldhu t w) s = plain) ∧
       (x = false → d.row = .load → d.sz = 2 → d.b = true → exec (.ldw t w) s = signed 32) ∧
       (x = false → d.row = .load → d.sz = 2 → d.b = false → exec (.ldwu t w) s = plain) ∧
       (x = false → d.row = .load → d.sz = 3 → exec (.ldd t w) s = plain) ∧
       (x = true → d.row = .loadx → exec (.ldx t w) s = signed (8 * 2 ^ d.sz)) ∧
       (x = true → d.row = .loadxu → exec (.ldxu t w) s = plain)) ∧
  (∀ (c : Cx) (a : MAcc) (s s1 : State) (pa n : Nat), c.ld = none → a.check c s = .ok ([(pa, n)], s1) →
     let m := c.t.trio.val
     let own := pendingStores s1 c.t c.k
     let meets (o : OutEnt) : Bool := touches o.what.pieces [(pa, n)]
     let ckpt := checkpoint m true s1
     ((s1.region pa).trio? = some m →
       ((∀ o, o ∈ own → meets o = false) → s1.badAddr pa n = none → loadAcc c a s = .ok (bytesFrom s1.byteAt pa n, s1)) ∧
       (∀ (front : List OutEnt) (o : OutEnt) (la p : Nat) (data : List Byte), own = front ++ [o] →
         o.what = .store la [(p, data)] → p ≤ pa → pa + n ≤ p + data.length → 0 < n →
         loadAcc c a s = .ok ((data.drop (pa - p)).take n, s1))) ∧
     (s1.region pa ≠ .regs → forward own [(pa, n)] = .partialOverlap →
       ((s1.conf m ≠ 1 ∨ ∀ o, o ∈ own → meets o = true → o.isLocal s1 = true) → loadAcc c a s = .error (.wait s1 (.drain c.w))) ∧
       (s1.conf m = 1 → (∃ o, o ∈ own ∧ meets o = true ∧ o.isLocal s1 = false) → ckpt.sameRun s1 = true →
         loadAcc c a s = readLoad c a ckpt [(pa, n)])) ∧
     (s1.region pa = .regs →
       (s1.conf m = 1 → ckpt.sameRun s1 = true → loadAcc c a s = .error (fabricWait c a ckpt [(pa, n)])) ∧
       (s1.conf m ≠ 1 → (s1.thread c.k).buf = [] → loadAcc c a s = .error (fabricWait c a s1 [(pa, n)])) ∧
       (s1.conf m ≠ 1 → (s1.thread c.k).buf ≠ [] → loadAcc c a s = .error (.wait s1 (.drain c.w)))))

/-- R122, R99: a store whose access passes its checks puts its bytes, one entry with a piece for each line, into the thread's share of the
store buffer and completes; with four entries there it waits for space; it changes no byte of memory. -/
def Obligations.StoreRows : Prop :=
  ∀ (s s1 : State) (t : ThreadId) (w : W32) (th : Thread) (d : Dec), issued s t w = some (th, d, s1) →
    let k := s.tkey t
    let c := runCx s t th w d
    ∀ (x : Bool) (ps : List (Nat × Nat)) (s2 : State), (rowAcc th d x true).check c s1 = .ok (ps, s2) →
      ∃ o : OutEnt, o.tid = t ∧ o.ring.val = th.ring ∧ o.held = false ∧
        o.what = .store ((rowAcc th d x true).la th) (cutData ps (leBytes (2 ^ d.sz) (th.reg d.rd).toNat)) ∧
        ((s2.pushBuf k o).thread k).buf = th.buf ++ [o] ∧
        (let done : Res := if th.buf.length < 4 then .next (complete (s2.pushBuf k o) k th th none none)
          else .next (stall (fetchCx s t th w) s2 (.space w));
          (x = false → d.row = .store → d.sz = 0 → exec (.stb t w) s = done) ∧
          (x = false → d.row = .store → d.sz = 1 → exec (.sth t w) s = done) ∧
          (x = false → d.row = .store → d.sz = 2 → exec (.stw t w) s = done) ∧
          (x = false → d.row = .store → d.sz = 3 → exec (.std t w) s = done) ∧
          (x = true → d.row = .storex → exec (.stx t w) s = done)) ∧
        ∀ a, memRead s2.mem a = memRead s.mem a

/-- R196: outside PAIR, performing the oldest store of a running thread to its trio's own SRAM writes the store's bytes and no other byte
of memory, and frees the entry; a committed output that another trio still holds goes first (R72). R58: in PAIR such a store leaves the
old doublewords in the undo log too, and a store to anywhere else, an append or an invalidation goes to the commit buffer and changes no
memory. -/
def Obligations.StorePerformedWritesItsBytes : Prop :=
  ∀ (s : State) (t : ThreadId) (o : OutEnt) (rest : List OutEnt) (la pa : Nat) (data : List Byte),
    (s.thread (s.tkey t)).st = .running → (s.thread (s.tkey t)).buf = o :: rest → o.tid = t → (s.trio t.trio.val).lost = false →
    let n := t.trio.val
    let x := s.trio n
    let store := o.what = .store la [(pa, data)]
    let writes (s' : State) : Prop :=
      (∀ a, memRead s'.mem a = if pa ≤ a ∧ a < pa + data.length then data.getD (a - pa) 0 else memRead s.mem a) ∧
      s'.thread (s.tkey t) = { s.thread (s.tkey t) with buf := rest } ∧
      (∀ j, j ≠ s.tkey t → s'.thread j = s.thread j) ∧ s'.raised = s.raised
    let pair := s.conf n = 1 ∧ x.closed = 0 ∧ x.commit.length < 192 ∧ x.undo.length < 1536
    (store → (s.region pa).trio? = some n → s.conf n ≠ 1 → x.commit = [] →
      ∃ s', exec (.storePerformed t .ok) s = .next s' ∧ writes s' ∧ s'.regs = s.regs ∧ s'.trios = s.trios) ∧
    (∀ y r, s.conf n ≠ 1 → x.commit = y :: r → y.held = true → exec (.storePerformed t .ok) s = .next s) ∧
    (store → (s.region pa).trio? = some n → pair →
      ∃ s', exec (.storePerformed t .ok) s = .next s' ∧ writes s' ∧ s'.trio n = { x with undo := undoOf s pa data.length ++ x.undo } ∧
        ∀ key, key ≠ B.trio n + TRIO.HWM_UNDO.off → s'.rd key = s.rd key) ∧
    (store → (s.region pa).trio? ≠ some n → pair →
      ∃ s', exec (.storePerformed t .ok) s = .next s' ∧ s'.mem = s.mem ∧ s'.trio n = { x with commit := x.commit ++ [o] } ∧
        s'.thread (s.tkey t) = { s.thread (s.tkey t) with buf := rest } ∧
        ∀ key, key ≠ B.trio n + TRIO.HWM_COMMIT.off → s'.rd key = s.rd key) ∧
    (o.isLocal s = false → o.what.pieces = [] → pair →
      ∃ s', exec (.storePerformed t .ok) s = .next s' ∧ s'.mem = s.mem ∧ s'.fab = s.fab ∧ s'.eng = s.eng ∧
        s'.trio n = { x with commit := x.commit ++ [o] })

/-- R123: an atomic in the trio's own SRAM, with no store of the thread waiting, reads the old value into rd and leaves in memory what its
row says, in PAIR with the old doubleword in the undo log (R58); with a store waiting it waits for it; off its size it raises alignment
with reason 2. R124: elsewhere it is a read of the fabric, in PAIR behind a checkpoint. -/
def Obligations.AtomicRows : Prop :=
  ∀ (s s1 : State) (t : ThreadId) (w : W32) (th : Thread) (d : Dec), issued s t w = some (th, d, s1) → d.row = .atom →
    let k := s.tkey t
    let c := runCx s t th w d
    let off := (th.reg d.ra).toNat
    let n := 2 ^ d.sz
    let acc : MAcc := ⟨some d.seg, off, n, 3, 3, true, true, th.ring, .atomic, none⟩
    let rb := th.reg d.rb
    (off % n = 0 → ∀ (pa m : Nat) (s2 : State), acc.check c s1 = .ok ([(pa, m)], s2) → (s2.region pa).trio? = some t.trio.val →
      limitCheckpoint t.trio.val s2 = s2 → th.buf = [] → s2.badAddr pa m = none →
      let old := BitVec.ofNat 64 (leNat (bytesFrom s2.byteAt pa m))
      let put (new : W64) : State := s2.pokeLocal t.trio.val pa (leBytes n new.toNat)
      let done (new : W64) : Res := .next (complete (put new) k th (th.setReg d.rd old) none none)
      (∀ new, (s2.conf t.trio.val ≠ 1 → put new = s2.poke pa (leBytes n new.toNat)) ∧ (put new).mem = (s2.poke pa (leBytes n new.toNat)).mem ∧
        (s2.conf t.trio.val = 1 → ((put new).trio t.trio.val).undo = undoOf s2 pa n ++ (s2.trio t.trio.val).undo)) ∧
      (d.fn = 0 → exec (.atomSwap t w) s = done rb) ∧
      (d.fn = 1 → exec (.atomFadd t w) s = done (old + rb)) ∧
      (d.fn = 2 → exec (.atomCas t w) s =
        done (if old.toNat % 2 ^ (8 * n) = (th.reg d.rd).toNat % 2 ^ (8 * n) then rb else old)) ∧
      (d.fn = 3 → exec (.atomFor t w) s = done (old ||| rb))) ∧
    (∀ (i : Instr), (d.fn = 0 ∧ i = .atomSwap t w ∨ d.fn = 1 ∧ i = .atomFadd t w ∨ d.fn = 2 ∧ i = .atomCas t w ∨
        d.fn = 3 ∧ i = .atomFor t w) →
      (∀ (pa m : Nat) (s2 : State), off % n = 0 → acc.check c s1 = .ok ([(pa, m)], s2) → (s2.region pa).trio? = some t.trio.val →
        th.buf ≠ [] → exec i s = .next (stall (fetchCx s t th w) s2 (.drain w))) ∧
      (∀ (pa m : Nat) (s2 : State), off % n = 0 → acc.check c s1 = .ok ([(pa, m)], s2) → (s2.region pa).trio? ≠ some t.trio.val →
        let ckpt := checkpoint t.trio.val true s2
        let wait (s3 : State) : Res := .next (settle (fetchCx s t th w) (fabricWait c acc s3 [(pa, m)]))
        (s2.conf t.trio.val = 1 → ckpt.sameRun s2 = true → exec i s = wait ckpt) ∧
        (s2.conf t.trio.val ≠ 1 → (∀ o, o ∈ pendingStores s2 t k → touches o.what.pieces [(pa, m)] = false) → exec i s = wait s2)) ∧
      (off % n ≠ 0 → exec i s = .next (takeExc s1 t k th ⟨0x05, th.reg d.ra, segFinfo 3 d.seg 2 th.ring⟩)))

/-- R93, R97: a block instruction with nothing left completes; otherwise it waits for the block unit. R93: a chunk runs to the next 64-byte
boundary of its destination or source, or down to the last one for a copy that overlaps upwards; the operands advance by what was done,
and the instruction completes when the count reaches 0. -/
def Obligations.BlockRows : Prop :=
  (∀ (s s1 : State) (t : ThreadId) (w : W32) (th : Thread) (d : Dec) (i : Instr), issued s t w = some (th, d, s1) → d.row = .blk →
     (d.fn = 0 ∧ i = .blkcopy t w ∨ d.fn = 1 ∧ i = .blkfill t w ∨ d.fn = 2 ∧ i = .crcr32 t w ∨ d.fn = 3 ∧ i = .crcr32c t w ∨
       d.fn = 4 ∧ i = .crcr64 t w) →
     let k := s.tkey t
     (th.reg d.rb = 0 → exec i s = .next (complete s1 k th th none none)) ∧
     (th.reg d.rb ≠ 0 → exec i s = .next (stall (fetchCx s t th w) s1 (.blk w none)))) ∧
  (∀ (s s1 s2 : State) (t : ThreadId) (w : W32) (d : Dec) (e : BusResult) (data : List Byte),
     let k := s.tkey t
     let th := (s.thread k).awake
     let c : Cx := ⟨t, k, th, w, d, [], none⟩
     let gd := (th.reg d.rd).toNat
     let gs := (th.reg d.ra).toNat
     let gn := (th.reg d.rb).toNat
     let after (x : Thread) (s' : State) : Res :=
       if x.reg d.rb = 0 then .next (ceEnd k (complete s' k th x none none))
       else .next (ceEnd k (s'.setThread k { x.land (s'.thread k) with st := .stalled (.blk w none), part := th.part }))
     (s.thread k).st = .stalled (.blk w none) → decodeOp w = .ok d → d.row = .blk → goesOn s t →
     (d.fn = 1 → let n := min gn (64 - gd % 64);
       blkWrite c gd (fillBytes (th.reg d.ra) gd n) s = .ok s2 →
       exec (.blockChunk t e) s =
         after ((th.setReg d.rb (th.reg d.rb - BitVec.ofNat 64 n)).setReg d.rd (th.reg d.rd + BitVec.ofNat 64 n)) s2) ∧
     (d.fn = 0 → ¬ (gs < gd ∧ gd < gs + gn) → let n := min gn (64 - gd % 64);
       blkRead c gs n e false s = .ok (data, s1) → blkWrite c gd data s1 = .ok s2 →
       exec (.blockChunk t e) s =
         after (((th.setReg d.rb (th.reg d.rb - BitVec.ofNat 64 n)).setReg d.rd (th.reg d.rd + BitVec.ofNat 64 n)).setReg d.ra
           (th.reg d.ra + BitVec.ofNat 64 n)) s2) ∧
     (d.fn = 0 → gs < gd → gd < gs + gn → let b := max gd ((gd + gn - 1) / 64 * 64);
       blkRead c (gs + (b - gd)) (gd + gn - b) e false s = .ok (data, s1) → blkWrite c b data s1 = .ok s2 →
       exec (.blockChunk t e) s = after (th.setReg d.rb (th.reg d.rb - BitVec.ofNat 64 (gd + gn - b))) s2) ∧
     (2 ≤ d.fn → d.fn ≤ 4 → let n := min gn (64 - gs % 64);
       blkRead c gs n e false s = .ok (data, s1) →
       exec (.blockChunk t e) s =
         after ((((th.setReg d.rb (th.reg d.rb - BitVec.ofNat 64 n)).setReg d.rd (th.reg d.rd)).setReg d.ra
           (th.reg d.ra + BitVec.ofNat 64 n)).setReg d.rd (crcBytes (d.fn - 2) (th.reg d.rd) data)) s1))


/-! ### Ordering, invalidation, threads -/

/-- R126, R100, R189: SYNC completes when the thread's stores are performed and SYNC.TLB when its invalidations are, and each waits
otherwise, in PAIR behind a checkpoint (R59); ICI empties the trio's instruction cache; a TLBI joins the thread's outputs behind its
stores (that a TLBI takes an entry of the store buffer share is the model's choice, log entry 118). R188, R189: the oldest invalidation of
a thread completes once the accesses translated by what it removes are performed: it leaves the broadcast, every core's translation caches
lose what its kind covers, and the thread has one invalidation fewer under way. -/
def Obligations.SyncAndTlbiRows : Prop :=
  (∀ (s s1 : State) (t : ThreadId) (w : W32) (th : Thread) (d : Dec), issued s t w = some (th, d, s1) →
     let k := s.tkey t
     let n := t.trio.val
     (∀ s2, (s1.conf n ≠ 1 ∧ s2 = s1) ∨ (s1.conf n = 1 ∧ s2 = checkpoint n true s1 ∧ s2.sameRun s1 = true) →
       (d.row = .sync → pendingStores s2 t k = [] → exec (.sync t w) s = .next (complete s2 k th th none none)) ∧
       (d.row = .sync → pendingStores s2 t k ≠ [] → exec (.sync t w) s = .next (stall (fetchCx s t th w) s2 (.sync w))) ∧
       (d.row = .syncTlb → (s2.thread k).tlbis = 0 → exec (.syncTlb t w) s = .next (complete s2 k th th none none)) ∧
       (d.row = .syncTlb → (s2.thread k).tlbis ≠ 0 → exec (.syncTlb t w) s = .next (stall (fetchCx s t th w) s2 (.syncTlb w)))) ∧
     (d.row = .ici → exec (.ici t w) s = .next (complete (s1.setTrio n { s1.trio n with lines := [] }) k th th none none)) ∧
     (∀ i, (d.fn = 3 ∧ i = .tlbiAll1 t w ∨ d.fn = 4 ∧ i = .tlbiVa1 t w ∨ d.fn = 5 ∧ i = .tlbiIpa2 t w ∨ d.fn = 6 ∧ i = .tlbiAll t w) →
       d.row = .tlbi →
       (th.buf.length < 4 → ∃ o : OutEnt, o.tid = t ∧ o.what = .tlbi d.fn ((runCx s t th w d).part s1 th.ring) (th.reg d.ra) ∧
         ((s1.pushBuf k o).thread k).buf = th.buf ++ [o] ∧ ((s1.pushBuf k o).thread k).tlbis = th.tlbis + 1 ∧
         exec i s = .next (complete (s1.pushBuf k o) k th th none none)) ∧
       (4 ≤ th.buf.length → exec i s = .next (stall (fetchCx s t th w) s1 (.space w))))) ∧
  (∀ (s : State) (t : ThreadId) (o : TlbiOp) (rest : List TlbiOp), s.fab.tlbi = o :: rest → o.tid = t → s.tlbiClear o = true →
     (s.thread (s.tkey t)).st = .running →
     ∃ s', exec (.tlbiComplete t) s = .next s' ∧ s'.fab.tlbi = rest ∧
       (∀ c, c < 39 → s'.tlbs c = (s.tlbs c).inval o.kind o.part o.addr) ∧
       (s'.thread (s.tkey t)).tlbis = (s.thread (s.tkey t)).tlbis - 1 ∧
       (o.kind = 6 → s'.fab.io = []) ∧ s'.regs = s.regs ∧ (∀ a, memRead s'.mem a = memRead s.mem a))

/-- R127 to R129: WAIT goes to Waiting unless an interrupt or a store error is there; TSTART starts a stopped thread of the core at rb
with SR at its reset value and answers the code of what is wrong otherwise; TSTOP stops a thread other than 0. -/
def Obligations.ThreadRows : Prop :=
  ∀ (s s1 : State) (t : ThreadId) (w : W32) (th : Thread) (d : Dec), issued s t w = some (th, d, s1) →
    let k := s.tkey t
    let n := (th.reg d.ra).toNat
    let peer := s1.thread (peerKey s1 t n)
    let rb := th.reg d.rb
    let answers (i : Instr) (c : Code) (s2 : State) : Prop :=
      exec i s = .next (complete s2 k th (th.setReg d.rd (BitVec.ofNat 64 c.num)) none none)
    (d.row = .wait → s1.irqForThread t = false → th.err = none →
      exec (.waitIntr t w) s = .next (complete s1 k th { th with st := .waiting } none none)) ∧
    (d.row = .wait → (s1.irqForThread t = true ∨ th.err ≠ none) →
      exec (.waitIntr t w) s = .next (complete s1 k th { th with st := .running } none none)) ∧
    (d.row = .tstart → 7 < n → answers (.tstart t w) .range s1) ∧
    (d.row = .tstart → n ≤ 7 → peer.st ≠ .stopped → answers (.tstart t w) .state s1) ∧
    (d.row = .tstart → n ≤ 7 → peer.st = .stopped → bf rb 0 2 ≠ 0 → answers (.tstart t w) .align s1) ∧
    (d.row = .tstart → n ≤ 7 → peer.st = .stopped → bf rb 0 2 = 0 →
      answers (.tstart t w) .ok (s1.setThread (peerKey s1 t n) { peer with st := .running, pc := rb, sr := 8, stopReq := false })) ∧
    (d.row = .tstop → 7 < n → answers (.tstop t w) .range s1) ∧
    (d.row = .tstop → n = 0 → answers (.tstop t w) .state s1) ∧
    (d.row = .tstop → n = t.thr.val → n ≠ 0 →
      exec (.tstop t w) s = .next (complete s1 k th { th.setReg d.rd 0 with st := .stopped } none none)) ∧
    (d.row = .tstop → n ≠ t.thr.val → n ≠ 0 → n ≤ 7 → answers (.tstop t w) .ok (s1.setThread (peerKey s1 t n) peer.stopAtBoundary))

/-! ### Exceptions, gates, returns -/

/-- R109: what a word does that does not run: an illegal word and END PROGRAM raise illegal opcode, an absent coprocessor raises
coprocessor absent, a ring that may not run the word raises privileged instruction, and a word annulled by its guard only
completes. FADDR holds the instruction address and FINFO the word. -/
def Obligations.WordsThatDoNotRun : Prop :=
  ∀ (s s1 : State) (t : ThreadId) (w : W32) (th : Thread), s.issuing t = some th → fetchStop (fetchCx s t th w) s = .ok s1 →
    let k := s.tkey t
    let exc (cause : Nat) : Res := .next (takeExc s1 t k th ⟨cause, th.pc, BitVec.ofNat 64 w.toNat⟩)
    (decodeOp w = .illegal → exec (.alu t w) s = exc 0x01 ∧ exec (.endProgram t w) s = exc 0x01) ∧
    (decodeOp w = .absent → th.executes w = true → exec (.alu t w) s = exc 0x0A) ∧
    (decodeOp w = .absent → th.executes w = false → exec (.alu t w) s = .next (complete s1 k th th none none)) ∧
    (∀ d, decodeOp w = .ok d → d.row = .endp → exec (.endProgram t w) s = exc 0x01) ∧
    (∀ d, decodeOp w = .ok d → d.row = .alu → th.executes w = false → exec (.alu t w) s = .next (complete s1 k th th none none)) ∧
    (∀ d, decodeOp w = .ok d → d.row = .store → d.sz = 3 → th.executes w = false →
      exec (.std t w) s = .next (complete s1 k th th none none)) ∧
    (∀ d, decodeOp w = .ok d → d.row = .ici → th.executes w = true → 0 < th.ring → exec (.ici t w) s = exc 0x02) ∧
    (∀ d, decodeOp w = .ok d → d.row = .mts → th.executes w = true → srRing true d.fn < th.ring → exec (.mts t w) s = exc 0x02)

/-- R143 to R145, R148: an entry whose frame is written and whose stack and VBR are well formed: the ring, SR, pc, CAUSE, FADDR, FINFO,
the stack copy of the ring entered and the products; nothing else of the thread changes. R104, R144: a frame within the trio's own data
half that no buffered store of the thread touches is written at once, in PAIR with the old doublewords in the undo log (R58); any other
frame is one entry of the store buffer, one that a buffered store touches so that it stays behind that store (the model's reading, log
entry 94). -/
def Obligations.EntryEffect : Prop :=
  ∀ (s s1 : State) (t : ThreadId) (k : Nat) (th : Thread) (r : EntryReq) (ps : List (Nat × Nat)), r.ring < 4 →
    let sp := th.g30of r.ring - 64
    let vbr := th.vbrOf r.ring
    let own := ∀ q, q ∈ ps → s1.region q.1 = .locD t.trio.val
    let s2 := framePut t k r.ring (bf sp 0 48) ps (frameBytes th r) s1
    framePieces t r.ring th (splitLines 3 (bf sp 0 48) 64) s = .ok (ps, s1) →
    let behind := ∃ o, o ∈ (s1.thread k).buf ∧ touches o.what.pieces ps = true
    let put := (cutData ps (frameBytes th r)).foldl (fun a x => a.pokeLocal t.trio.val x.1 x.2) s1
    (own → ¬ behind → limitCheckpoint t.trio.val s1 = s1 → s2 = put) ∧
    (put.mem = ((cutData ps (frameBytes th r)).foldl (fun a x => a.poke x.1 x.2) s1).mem) ∧
    (s1.conf t.trio.val ≠ 1 → put = (cutData ps (frameBytes th r)).foldl (fun a x => a.poke x.1 x.2) s1) ∧
    (¬ own ∨ behind → ∃ o : OutEnt, s2 = s1.pushBuf k o ∧ o.tid = t ∧ o.ring.val = r.ring ∧
      o.what = .store (bf sp 0 48) (cutData ps (frameBytes th r))) ∧
    (sp.toNat % 16 = 0 → vbrBad vbr = false → s2.ceHeld = false → s2.sameRun s = true →
    ∃ n : Thread, enterRing s t k th r = s2.setThread k n ∧
      n.ring = r.ring ∧ n.ce = vbr.getLsbD 0 ∧ n.ie = (r.keepIe && th.ie) ∧ n.flags = th.flags ∧ n.la = th.la ∧
      n.pc = BitVec.ofNat 64 (bf vbr 2 46 * 4) ∧ n.g30of r.ring = sp ∧ (∀ q, q ≠ r.ring → n.g30of q = th.g30of q) ∧
      n.cause = BitVec.ofNat 64 r.cause ∧ n.faddr = r.faddr ∧ n.finfo = r.finfo ∧ n.near = none ∧ n.far = none ∧
      n.pl = th.pl ∧ n.ph = th.ph ∧ n.g = th.g ∧ n.p = th.p ∧ n.seg = th.seg ∧ n.krr = th.krr ∧ n.lc = th.lc ∧ n.ls = th.ls ∧
      n.le = th.le ∧ n.esp = th.esp ∧ n.vbr = th.vbr ∧ n.buf = (s2.thread k).buf ∧
      (th.stopReq = false → (s2.thread k).stopReq = false → (s2.thread k).st ≠ .stopped → n.st = .running))

/-- R148: a synchronous exception of ring r enters the more privileged of r and its delegation field, with the instruction's own address as
return address (R149). R153, R154: an entry that cannot take place escalates into ring 0 on ESP with cause 0xFF; with ESP or VBR0
malformed too, or with a frame that cannot be written there either, the thread stops with its registers kept, the trio's double-escalation
source becomes pending and DESC_CNT counts. That the conditions of R153 are taken in the order frame, stack alignment, vector base is the
model's reading (log entry 14); a frame whose table read waits for the trio's quota leaves the thread to try again (log entry 108). -/
def Obligations.EntryTargetAndEscalation : Prop :=
  (∀ (s : State) (t : ThreadId) (k : Nat) (th : Thread) (e : Exc),
     ∃ r : EntryReq, takeExc s t k th e = enterRing s t k th r ∧
       r.ring = min th.ring (nbits (s.rd (B.intd + INTD.EXC_DELEG.off)).toNat (2 * (e.cause - 1)) 2) ∧
       r.cause = e.cause ∧ r.faddr = e.faddr ∧ r.finfo = e.finfo ∧ r.ret = th.pc ∧ r.gate = false ∧ r.keepIe = false) ∧
  (∀ (s : State) (t : ThreadId) (k : Nat) (th : Thread) (r : EntryReq),
     let sp := th.g30of r.ring - 64
     let vbr := th.vbrOf r.ring
     (∀ ps s1, framePieces t r.ring th (splitLines 3 (bf sp 0 48) 64) s = .ok (ps, s1) →
       (sp.toNat % 16 ≠ 0 → enterRing s t k th r = escalate s1 t k th r 2 sp) ∧
       (sp.toNat % 16 = 0 → vbrBad vbr = true → enterRing s t k th r = escalate s1 t k th r 3 vbr)) ∧
     (∀ la s1, framePieces t r.ring th (splitLines 3 (bf sp 0 48) 64) s = .error (some la, s1) →
       enterRing s t k th r = escalate s1 t k th r 1 (BitVec.ofNat 64 la)) ∧
     (∀ s1, framePieces t r.ring th (splitLines 3 (bf sp 0 48) 64) s = .error (none, s1) → enterRing s t k th r = s1) ∧
     (∀ reason addr ps s1, th.esp.toNat % 16 = 0 → vbrBad (th.vbrOf 0) = false →
       let r0 : EntryReq := ⟨0, 0xFF, addr, BitVec.ofNat 64 (r.cause % 256 + reason * 256 + r.ring * 65536), r.ret, false, false⟩
       let s2 := framePut t k 0 (bf (th.esp - 64) 0 48) ps (frameBytes th r0) s1
       framePieces t 0 th (splitLines 3 (bf (th.esp - 64) 0 48) 64) s = .ok (ps, s1) → s2.sameRun s = true →
       let s' := escalate s t k th r reason addr
       let n := s'.thread k
       n.ring = 0 ∧ n.cause = 0xFF ∧ n.faddr = addr ∧ n.finfo = r0.finfo ∧ n.esp = th.esp - 64 ∧ n.ie = false ∧
       n.pc = BitVec.ofNat 64 (bf (th.vbrOf 0) 2 46 * 4) ∧ (∀ q, n.g30of q = th.g30of q) ∧
       s'.fld B.intd INTD.ESC_CNT = satInc INTD.ESC_CNT.wd (s2.fld B.intd INTD.ESC_CNT)) ∧
     (∀ reason addr s1, let malformed := th.esp.toNat % 16 ≠ 0 ∨ vbrBad (th.vbrOf 0) = true
       (malformed ∧ s1 = s) ∨
         (¬ malformed ∧ ∃ la, framePieces t 0 th (splitLines 3 (bf (th.esp - 64) 0 48) 64) s = .error (some la, s1)) →
       let s' := escalate s t k th r reason addr
       s'.thread k = { th.land (s1.thread k) with st := .stopped } ∧ (∀ j, j ≠ k → s'.thread j = s1.thread j) ∧
       s'.irqPending (64 + 4 * t.trio.val) = true ∧
       s'.fld B.intd INTD.DESC_CNT = satInc INTD.DESC_CNT.wd (s1.fld B.intd INTD.DESC_CNT) ∧ s'.mem = s1.mem))

/-- R88, R105, R144, R146, R147: ERET and GRET on a frame that an entry of their kind wrote restore the return address, PL, PH, both
products in flight and SR but for LA; the stack copy of the ring they leave rises by 64. -/
def Obligations.ReturnRestoresFrame : Prop :=
  ∀ (s s1 s2 : State) (t : ThreadId) (w : W32) (th old : Thread) (d : Dec) (r : EntryReq),
    issued s t w = some (th, d, s1) → s2.ceHeld = false →
    loadAcc (runCx s t th w d)
      ⟨none, (th.g30of th.ring).toNat, 64, 0, 1, false, true, th.ring, .read, none⟩ s1 = .ok (frameBytes old r, s2) →
    bf r.ret 0 2 = 0 → th.ring ≤ old.ring →
    ∃ n : Thread,
      (d.row = .eret → r.gate = false → exec (.eret t w) s = .next (goOn s2 (s.tkey t) n)) ∧
      (d.row = .gret → r.gate = true → exec (.gret t w) s = .next (goOn s2 (s.tkey t) n)) ∧
      n.pc = r.ret ∧ n.pl = old.pl ∧ n.ph = old.ph ∧ n.near = old.near ∧ n.far = old.far ∧
      n.ring = old.ring ∧ n.ie = old.ie ∧ n.ce = old.ce ∧ n.flags = old.flags ∧ n.la = th.la ∧
      n.g30of th.ring = th.g30of th.ring + 64 ∧ (∀ q, q ≠ th.ring → n.g30of q = th.g30of q) ∧
      n.g = th.g ∧ n.p = th.p ∧ n.seg = th.seg ∧ n.krr = th.krr ∧ n.lc = th.lc ∧ n.st = .running

/-- R147, R151, R152: returns refused by kind, ring or image, and GATE refused by its index, raise gate violation (0x09) with their
reason; a GATE with a valid index reads its entry, and a valid entry enters its ring with cause 0x40. R76: BRK halts its core where
software holds the right to halt, in Calico and Jersey, and is an illegal opcode otherwise; that it halts once it has completed is the
model's reading (log entry 62). -/
def Obligations.GateRows : Prop :=
  (∀ (s s1 : State) (t : ThreadId) (w : W32) (th : Thread) (d : Dec), issued s t w = some (th, d, s1) →
    let k := s.tkey t
    (d.row = .gate → s1.fld B.intd INTD.GATE_LIMIT_N ≤ d.fn →
      exec (.gate t w) s = .next (takeExc s1 t k th ⟨0x09, BitVec.ofNat 64 d.fn, 1⟩)) ∧
    (d.row = .gate → d.fn < s1.fld B.intd INTD.GATE_LIMIT_N →
      exec (.gate t w) s = .next (stall (fetchCx s t th w) s1
        (.load w [(s1.fld B.intd INTD.GATE_BASE_LO + s1.fld B.intd INTD.GATE_BASE_HI * 2 ^ 32 + 16 * d.fn, 16)] 0 0 none))) ∧
    (d.row = .brk → ¬ (s1.haltRight = true ∧ (s1.mode = mCalico ∨ s1.mode = mJersey)) →
      exec (.brk t w) s = .next (takeExc s1 t k th ⟨0x01, th.pc, BitVec.ofNat 64 w.toNat⟩)) ∧
    (d.row = .brk → s1.haltRight = true → (s1.mode = mCalico ∨ s1.mode = mJersey) →
      exec (.brk t w) s = .next (complete (haltCore s1 t.trio.val t.core.val) k th th none none) ∧
      ((haltCore s1 t.trio.val t.core.val).thread k).halted = true) ∧
    (∀ (q0 q1 : W64) (rest : List Byte) (s2 : State) (i : Instr) (gate : Bool),
      (d.row = .eret ∧ i = .eret t w ∧ gate = false ∨ d.row = .gret ∧ i = .gret t w ∧ gate = true) →
      loadAcc (runCx s t th w d)
        ⟨none, (th.g30of th.ring).toNat, 64, 0, 1, false, true, th.ring, .read, none⟩ s1
          = .ok (leBytes 8 q0.toNat ++ leBytes 8 q1.toNat ++ rest, s2) →
      let exc (reason : Nat) : Res :=
        .next (takeExc s2 t k th ⟨0x09, th.g30of th.ring, BitVec.ofNat 64 reason⟩)
      (q1.getLsbD 16 ≠ gate → exec i s = exc 8) ∧
      (q1.getLsbD 16 = gate → bf q1 1 2 < th.ring → exec i s = exc 9) ∧
      (q1.getLsbD 16 = gate → th.ring ≤ bf q1 1 2 → (bf q1 9 7 ≠ 0 ∨ bf q1 19 45 ≠ 0 ∨ bf q0 0 2 ≠ 0) → exec i s = exc 10))) ∧
  (∀ (s : State) (t : ThreadId) (w : W32) (d : Dec) (pa : Nat) (la fin arg hi : W64),
    let k := s.tkey t
    let th := (s.thread k).awake
    (s.thread k).st = .stalled (.load w [(pa, 16)] la fin none) → decodeOp w = .ok d → d.row = .gate → th.executes w = true →
    d.fn < s.fld B.intd INTD.GATE_LIMIT_N → (s.region pa).isNormal = true → (s.trio t.trio.val).lost = false →
    heldRead s t = false → storesAhead s t w [(pa, 16)] = false → s.badAddr pa 16 = none →
    bytesFrom s.byteAt pa 16 = leBytes 8 arg.toNat ++ leBytes 8 hi.toNat →
    bf hi 6 58 = 0 → hi.getLsbD 0 = true → th.ring ≤ bf hi 3 2 → bf hi 1 2 < th.ring →
    exec (.loadDataArrival t .ok) s = .next (ceEnd k (enterRing s t k (th.shiftProducts none)
      ⟨bf hi 1 2, 0x40, arg, BitVec.ofNat 64 (d.fn + th.ring * 65536), th.pc + 4, true, hi.getLsbD 5⟩)))

/-! ### Events at a core -/

/-- R149, R158, R160: at a boundary a pending store error is taken first, in ring 0 with cause 0x10; otherwise the eligible interrupt is
taken in the ring its route names with cause 0x80, the source and its priority in FINFO; while either is there to take the thread issues
no instruction. A late store error waits at the thread with its address, kind and size, or counts while another waits; none comes while
the fabric is stopped or without power (R40, R42; log entry 101). -/
def Obligations.InterruptsAndStoreErrors : Prop :=
  ∀ (s : State) (t : ThreadId),
    let k := s.tkey t
    let th := s.thread k
    (∀ n, s.eligibleIrq t th = some n → s.atBoundary t th = true → th.err = none →
      ∃ r : EntryReq, exec (.interruptEntry t) s = .next (enterRing s t k { th with st := .running } r) ∧
        r.ring = routeRing (s.route n) ∧ r.cause = 0x80 ∧ r.finfo = BitVec.ofNat 64 (n + routePrio (s.route n) * 65536) ∧
        r.ret = th.pc ∧ r.gate = false ∧ r.keepIe = false) ∧
    (∀ e, th.err = some e → s.atBoundary t th = true →
      (∃ r : EntryReq, exec (.asyncStoreErrorEntry t) s = .next (enterRing s t k { th with st := .running } r) ∧
        r.ring = 0 ∧ r.cause = 0x10 ∧ r.faddr = BitVec.ofNat 64 e.addr.toNat ∧
        r.finfo = BitVec.ofNat 64 (e.info.toNat + e.more.toNat * 65536) ∧ r.ret = th.pc) ∧
      exec (.interruptEntry t) s = .next s) ∧
    ((∃ n, s.eligibleIrq t th = some n) ∨ th.err ≠ none → s.issuing t = none) ∧
    (s.gated = true → ∀ (a : BitVec 40) (x : StoreErr) (lg : Fin 4), exec (.storeErrorReport t a x lg) s = .next s) ∧
    (∀ (a : BitVec 40) (x : StoreErr) (lg : Fin 4), s.gated = false → (s.trio t.trio.val).lost = false → ∃ s', exec (.storeErrorReport t a x lg) s = .next s' ∧
      (th.err = none → (s'.thread k).err = some ⟨a, BitVec.ofNat 16 (storeKind (StoreErr.bus x) + 16 * lg.val), 0⟩) ∧
      (∀ e, th.err = some e → (s'.thread k).err = some { e with more := BitVec.ofNat 16 (satInc 16 e.more.toNat) }) ∧
      (th.st = .waiting → th.err = none → (s'.thread k).st = .running) ∧
      (∀ j, j ≠ k → s'.thread j = s.thread j) ∧ (∀ b, memRead s'.mem b = memRead s.mem b))

/-- R101, R122: the data of a fabric load from normal memory arrives: the load completes with the bytes memory holds, extended by its row;
before that it waits for an earlier store of the thread that it overlaps (R195, R196). An access the fabric fails raises memory error
(0x07) with its reason at the byte that failed, unless an interrupt or a store error is there to take first (R149). R100, R101, R183 to
R185: an instruction line that arrives joins the cache and the thread goes on, or stands before the instruction where it is halted (R82);
a table entry that arrives is handed to the walk; a transaction without answer ends as a failed one with reason TIMEOUT; none does while
the fabric is stopped or without power (R40, R42; log entry 101). -/
def Obligations.FabricAnswers : Prop :=
  (∀ (s : State) (t : ThreadId) (w : W32) (d : Dec) (pa n : Nat) (la fin : W64),
     let k := s.tkey t
     let th := (s.thread k).awake
     (s.thread k).st = .stalled (.load w [(pa, n)] la fin none) → decodeOp w = .ok d → d.row = .load → n = 2 ^ d.sz →
     (s.region pa).isNormal = true → (s.trio t.trio.val).lost = false → heldRead s t = false → storesAhead s t w [(pa, n)] = false →
     s.badAddr pa n = none →
     (th.executes w = true → ∃ v : W64,
       exec (.loadDataArrival t .ok) s = .next (ceEnd k (complete s k th (th.setReg d.rd v) none none)) ∧
       (d.b = false → v.toNat = leNat (bytesFrom s.byteAt pa n) % 2 ^ 64) ∧
       (d.b = true → v.toInt = (leNat (bytesFrom s.byteAt pa n) : Int).bmod (2 ^ (8 * n)))) ∧
     (∀ e, busFails e = true →
       ∃ s1 : State, s1.mem = s.mem ∧ s1.threads = s.threads ∧
         exec (.loadDataArrival t e) s = .next (ceEnd k (if s1.entryFirst t th then goOn s1 k th else takeExc s1 t k th
           ⟨0x07, la, BitVec.ofNat 64 (bf fin 0 24 + pa * 2 ^ 24) + BitVec.ofNat 64 (busReason e * 4096)⟩)))) ∧
  (∀ (s : State) (t : ThreadId) (w : W32) (ps : List (Nat × Nat)) (la fin : W64),
     (s.thread (s.tkey t)).st = .stalled (.load w ps la fin none) → storesAhead s t w ps = true → exec (.loadDataArrival t .ok) s = .next s) ∧
  (∀ (s : State) (t : ThreadId) (w : W32),
     let k := s.tkey t
     let th := (s.thread k).awake
     let n := t.trio.val
     (goesOn s t → th.halted = false → ∀ line, (s.thread k).st = .stalled (.fill w line) → s.badAddr (line * 64) 64 = none →
       exec (.icacheFill t .ok) s =
         .next (ceEnd k (coreRun (s.setTrio n { s.trio n with lines := fillLine (s.trio n).lines line }) t k th w [] none)) ∧
       line ∈ fillLine (s.trio n).lines line) ∧
     ((s.trio n).lost = false → th.halted = true → ∀ line, (s.thread k).st = .stalled (.fill w line) → s.badAddr (line * 64) 64 = none →
       exec (.icacheFill t .ok) s = .next (ceEnd k (goOn (s.setTrio n { s.trio n with lines := fillLine (s.trio n).lines line }) k th))) ∧
     (s.gated = true → ∀ x, exec (.fabricTimeout x) s = .next s) ∧
     (s.gated = false → ∀ line, (s.thread k).st = .stalled (.fill w line) → exec (.fabricTimeout (.load t)) s = exec (.icacheFill t .timeout) s) ∧
     (goesOn s t → th.halted = false → ∀ pa got, (s.thread k).st = .stalled (.walk w pa got) → s.outOfService pa = false → s.badAddr pa 8 = none →
       exec (.tableWalkRead t .ok) s =
         .next (ceEnd k (coreRun s t k th w (got ++ [(pa, some (BitVec.ofNat 64 (leNat (s.readMem pa 8))))]) none))) ∧
     (s.gated = false → ∀ pa got, (s.thread k).st = .stalled (.walk w pa got) →
       exec (.fabricTimeout (.load t)) s = exec (.tableWalkRead t .timeout) s) ∧
     (s.gated = false → ∀ ps la fin data, (s.thread k).st = .stalled (.load w ps la fin data) →
       exec (.fabricTimeout (.load t)) s = exec (.loadDataArrival t .timeout) s) ∧
     (s.gated = false → (s.thread k).buf ≠ [] → exec (.fabricTimeout (.store t)) s = exec (.storePerformed t .timeout) s))


/-! ### Coprocessors -/

/-- R131 to R133, R294, R298: an operation of CP0, and one of CP1 on memory or of CP2 with a result once the thread's stores are
performed, in PAIR after a checkpoint (R59), leaves its thread waiting for the result, CP1's with its operands checked; APPEND joins the
thread's outputs. -/
def Obligations.CoprocessorRowsIssue : Prop :=
  ∀ (s s1 : State) (t : ThreadId) (w : W32) (th : Thread) (d : Dec), issued s t w = some (th, d, s1) →
    let k := s.tkey t
    let waits (i : Instr) : Prop := exec i s = .next (stall (fetchCx s t th w) s1 (.cop w))
    let drains (i : Instr) : Prop := exec i s = .next (stall (fetchCx s t th w) s1 (.drain w))
    (d.row = .aau →
      (d.fn = 0x00 → waits (.adiff t w)) ∧ (d.fn = 0x01 → waits (.aadd t w)) ∧ (d.fn = 0x02 → waits (.tadd t w)) ∧
      (d.fn = 0x03 → waits (.tdiff t w)) ∧ (d.fn = 0x04 → waits (.tsubl t w)) ∧ (d.fn = 0x08 → waits (.mulsh t w)) ∧
      (d.fn = 0x09 → waits (.muluh t w)) ∧ (d.fn = 0x0A → waits (.divsh t w)) ∧ (d.fn = 0x0B → waits (.divuh t w)) ∧
      (d.fn = 0x10 → waits (.pred t w)) ∧ (d.fn = 0x11 → waits (.invpred t w)) ∧ (d.fn = 0x12 → waits (.latm t w)) ∧
      (d.fn = 0x13 → waits (.ageupd t w)) ∧ (d.fn = 0x3C → waits (.flgrd t w)) ∧ (d.fn = 0x3D → waits (.flgwr t w)) ∧
      (d.fn = 0x3E → waits (.flgclr t w))) ∧
    (d.row = .crypto → th.buf = [] → ∀ ps qs s2, cryptoOps (runCx s t th w d) false s1 = .ok (ps, qs, s2) →
      let waits2 (i : Instr) : Prop := exec i s = .next (stall (fetchCx s t th w) s2 (.cop w))
      (d.fn = 8 → waits2 (.sha384Blk t w)) ∧ (d.fn = 9 → waits2 (.aes256Enc t w)) ∧ (d.fn = 10 → waits2 (.ghashMul t w))) ∧
    (d.row = .crypto → th.buf ≠ [] → d.fn = 8 → drains (.sha384Blk t w)) ∧
    (s1.conf t.trio.val ≠ 1 → th.buf = [] →
      (d.row = .appendS → waits (.appendS t w)) ∧ (d.row = .qstat → waits (.qstat t w)) ∧ (d.row = .qspace → waits (.qspace t w))) ∧
    (s1.conf t.trio.val ≠ 1 → th.buf ≠ [] →
      (d.row = .appendS → drains (.appendS t w)) ∧ (d.row = .qstat → drains (.qstat t w)) ∧ (d.row = .qspace → drains (.qspace t w))) ∧
    (s1.conf t.trio.val = 1 → let ckpt := checkpoint t.trio.val true s1
      ckpt.sameRun s1 = true →
      let waits2 (i : Instr) : Prop := exec i s = .next (stall (fetchCx s t th w) ckpt (.cop w))
      (d.row = .appendS → waits2 (.appendS t w)) ∧ (d.row = .qstat → waits2 (.qstat t w)) ∧ (d.row = .qspace → waits2 (.qspace t w))) ∧
    (d.row = .append → th.buf.length < 4 → ∃ o : OutEnt, o.tid = t ∧ o.ring.val = th.ring ∧
      o.what = .append (BitVec.ofNat 16 (min (th.reg d.ra).toNat 65535))
        ⟨th.reg d.rb, (th.reg (d.rb + 1)).extractLsb' 0 16, (th.reg (d.rb + 1)).extractLsb' 16 16, (th.reg (d.rb + 1)).extractLsb' 32 32⟩ ∧
      ((s1.pushBuf k o).thread k).buf = th.buf ++ [o] ∧ exec (.append t w) s = .next (complete (s1.pushBuf k o) k th th none none))

/-- R286, R291 to R299, R304: the result of a CP0 operation writes rd, ORs its flags into the thread's flag word and counts; a flag whose
trap is enabled raises AAU trap (0x0B) instead; FLGRD, FLGWR and FLGCLR write rd with the old word and leave the new one; an AAU out of
service, or a check that its third pass does not settle, raises AAU trap with CHECK; one that it settles counts and completes. A trap waits
behind an interrupt or a store error that is there to take (R149). Without a fault in the AAU (`{}`) the passes agree. -/
def Obligations.AauResult : Prop :=
  ∀ (s : State) (t : ThreadId) (w : W32) (d : Dec) (a : AauCheck),
    let k := s.tkey t
    let th := (s.thread k).awake
    let n := t.trio.val
    let b := B.trio n
    let x := th.reg d.ra
    let r := aauOp d.fn d.b x (th.reg (d.ra + 1)) (th.reg d.rb) (th.reg (d.rb + 1)) (th.reg (d.rb + 2))
    let checked := aauChecked d.fn d.b (aauArgs d.fn x (th.reg (d.ra + 1)) (th.reg d.rb) (th.reg (d.rb + 1)) (th.reg (d.rb + 2)))
      (s.trio n).rot (aauNext a).1
    let fw := th.aauFlags
    let turned := s.setTrio n { s.trio n with rot := (s.trio n).rot + 1 }
    let done (s' : State) (v f : W64) : Res := .next (ceEnd k (complete (s'.incWrap b TRIO.AAU_OPS) k th
      { th.setReg d.rd v with aauFlags := f } none none))
    let trap (s' : State) (fl : Nat) (chk fwd : Bool) : Res := .next (ceEnd k (if s'.entryFirst t th then goOn s' k th else takeExc s' t k th
      ⟨0x0B, th.pc, BitVec.ofNat 64 (fl + 8 * b2n chk + 16 * b2n fwd + 256 * d.fn + 16384 * b2n d.b)⟩))
    (s.thread k).st = .stalled (.cop w) → decodeOp w = .ok d → d.row = .aau → (s.trio n).lost = false →
    (d.fn < 0x3C → s.flag b TRIO.AAU_STAT_FAILED = false →
      (r.flags &&& bf fw 8 3 = 0 → exec (.coprocessorResult t {}) s = done turned r.val (fw ||| BitVec.ofNat 64 r.flags)) ∧
      (r.flags &&& bf fw 8 3 ≠ 0 → exec (.coprocessorResult t {}) s = trap turned r.flags false false) ∧
      (∀ q, checked = .ok q true → q.flags &&& bf fw 8 3 = 0 →
        ∃ s', exec (.coprocessorResult t a) s = done s' q.val (fw ||| BitVec.ofNat 64 q.flags) ∧
          s'.fld b TRIO.AAU_MISMATCH = satInc TRIO.AAU_MISMATCH.wd (s.fld b TRIO.AAU_MISMATCH) ∧
          s'.fld b TRIO.AAU_THIRD = satInc TRIO.AAU_THIRD.wd (s.fld b TRIO.AAU_THIRD) ∧ s'.mem = s.mem ∧ s'.threads = s.threads) ∧
      (checked = .failed →
        ∃ s', exec (.coprocessorResult t a) s = trap s' 0 true false ∧ s'.flag b TRIO.AAU_STAT_FAILED = true ∧
          s'.flag b TRIO.AAU_STAT_IN_SVC = false ∧ s'.mem = s.mem ∧ s'.threads = s.threads)) ∧
    (d.fn < 0x3C → s.flag b TRIO.AAU_STAT_FAILED = true → exec (.coprocessorResult t a) s = trap s 0 true false) ∧
    (d.fn = 0x3C → exec (.coprocessorResult t a) s = done s fw fw) ∧
    (d.fn = 0x3D → bf x 3 5 = 0 → bf x 11 53 = 0 → exec (.coprocessorResult t a) s = done s fw x) ∧
    (d.fn = 0x3D → (bf x 3 5 ≠ 0 ∨ bf x 11 53 ≠ 0) → exec (.coprocessorResult t a) s = trap s 0 false true) ∧
    (d.fn = 0x3E → ∃ v, exec (.coprocessorResult t a) s = done s fw v ∧
      ∀ i, i < 64 → v.getLsbD i = if i < 3 then fw.getLsbD i && !x.getLsbD i else fw.getLsbD i)

/-- R132, R133, R249, R255: the results of CP1 and CP2: a cryptographic step leaves its result in place in the trio's own data SRAM;
APPEND.S answers the code of the append, QSTAT the queue's state word, QSPACE its free slots, in PAIR with a checkpoint after them (R59)
and none before the thread's stores are performed. R58: in PAIR a write of the trio's own SRAM leaves the old doublewords in the undo log.
R132 and R125: a CRC over two byte strings one after the other is the CRC over their concatenation, in every form. -/
def Obligations.Cp1Cp2Results : Prop :=
  (∀ (s : State) (t : ThreadId) (w : W32) (d : Dec) (a : AauCheck),
     let k := s.tkey t
     let th := (s.thread k).awake
     let c : Cx := ⟨t, k, th, w, d, [], none⟩
     let q := (th.reg d.ra).toNat
     let put (s1 : State) (v : W64) : Res := .next (earlyCheckpoint t.trio.val (ceEnd k (complete s1 k th (th.setReg d.rd v) none none)))
     (s.thread k).st = .stalled (.cop w) → decodeOp w = .ok d → (s.trio t.trio.val).lost = false →
     (d.row = .crypto → ∀ (ps qs : List (Nat × Nat)) (s1 : State), cryptoOps c true s = .ok (ps, qs, s1) →
       limitCheckpoint t.trio.val s1 = s1 → s1.badOf ps = none → s1.badOf qs = none →
       exec (.coprocessorResult t a) s =
         .next (ceEnd k (complete ((cutData ps (cryptoResult d.fn (readPieces s1 ps) (readPieces s1 qs))).foldl
           (fun m x => m.pokeLocal t.trio.val x.1 x.2) s1) k th th none none))) ∧
     (d.row = .appendS ∨ d.row = .qstat ∨ d.row = .qspace → pendingStores s t k ≠ [] → exec (.coprocessorResult t a) s = .next s) ∧
     (pendingStores s t k = [] →
       (d.row = .qstat → q ≤ 16383 → exec (.coprocessorResult t a) s = put s ((s.rd (B.qd q + QD.QSTATE.off)).setWidth 64)) ∧
       (d.row = .qspace → q ≤ 16383 →
         exec (.coprocessorResult t a) s = put s (BitVec.ofNat 64 (s.qCap q - s.fld (B.qd q) QD.QSTATE_COUNT))) ∧
       (d.row = .appendS → q < 65536 → ∃ (s1 : State) (code : Code) (ap : Appender) (e : RawEntry),
         queueAppend ap (BitVec.ofNat 16 q) e s = (s1, code) ∧ e.target = th.reg d.rb ∧
         exec (.coprocessorResult t a) s = put s1 (BitVec.ofNat 64 code.num)))) ∧
  (∀ (s : State) (n a : Nat) (d : List Byte), (s.pokeLocal n a d).mem = (s.poke a d).mem ∧ (s.conf n ≠ 1 → s.pokeLocal n a d = s.poke a d) ∧
     (s.conf n = 1 → n < 13 → ((s.pokeLocal n a d).trio n).undo = undoOf s a d.length ++ (s.trio n).undo)) ∧
  (∀ (form : Nat) (acc : W64) (x y : List Byte), crcBytes form acc (x ++ y) = crcBytes form (crcBytes form acc x) y)

/-- R285: rounding to nearest takes the nearest integer, an even one at a tie; rounding towards zero never passes the exact value. R287:
what the exact operations of the AAU compute, and that the rounding ones saturate to their range with OV exactly when they leave it. -/
def Obligations.AauArithmetic : Prop :=
  (∀ (n : Int) (d : Nat), 0 < d →
     (let q := rndRat false n d; 2 * (q * d - n).natAbs ≤ d ∧ (2 * (q * d - n).natAbs = d → q % 2 = 0)) ∧
     (let q := rndRat true n d; (q * d - n).natAbs < d ∧ (q * d).natAbs ≤ n.natAbs ∧ (0 ≤ n → 0 ≤ q) ∧ (n ≤ 0 → q ≤ 0)) ∧
     (inexact n d = true ↔ ¬ ((d : Int) ∣ n))) ∧
  (∀ (rtz : Bool) (a a1 b b1 b2 : W64),
     let op (f : Nat) : AauRes := aauOp f rtz a a1 b b1 b2
     let s := a1.toNat % 128
     ((op 0x00).val = a - b ∧ (op 0x00).flags = 0) ∧
     ((op 0x01).val = a + b ∧ (op 0x01).flags = 0) ∧
     ((op 0x02).val.toNat = (max 0 (min (2 ^ 64 - 1) ((a.toNat : Int) + b.toInt))).toNat ∧
       ((op 0x02).ov = true ↔ ((a.toNat : Int) + b.toInt < 0 ∨ 2 ^ 64 ≤ (a.toNat : Int) + b.toInt))) ∧
     ((op 0x03).val.toInt = max (-(2 ^ 63)) (min (2 ^ 63 - 1) ((a.toNat : Int) - b.toNat)) ∧
       ((op 0x03).ov = true ↔ ((a.toNat : Int) - b.toNat < -(2 ^ 63) ∨ 2 ^ 63 ≤ (a.toNat : Int) - b.toNat))) ∧
     ((op 0x04).val.toNat = a.toNat - b.toNat % 2 ^ 32 ∧ ((op 0x04).ov = true ↔ a.toNat < b.toNat % 2 ^ 32)) ∧
     ((op 0x08).val.toInt = max (-(2 ^ 63)) (min (2 ^ 63 - 1) (rndRat rtz (a.toInt * b.toInt) (2 ^ s))) ∧
       ((op 0x08).ix = true ↔ ¬ ((2 ^ s : Int) ∣ a.toInt * b.toInt)) ∧ (op 0x08).dz = false) ∧
     ((op 0x09).val.toNat = (min (2 ^ 64 - 1) (rndRat rtz ((a.toNat : Int) * b.toNat) (2 ^ s))).toNat ∧ (op 0x09).dz = false) ∧
     (b ≠ 0 → (op 0x0B).val.toNat = (min (2 ^ 64 - 1) (rndRat rtz ((a.toNat : Int) * 2 ^ s) b.toNat)).toNat ∧ (op 0x0B).dz = false) ∧
     (b = 0 → (op 0x0A).dz = true ∧ (op 0x0B).dz = true ∧ ((op 0x0A).ov = true ↔ a ≠ 0) ∧ ((op 0x0B).ov = true ↔ a ≠ 0) ∧
       (op 0x0A).val.toInt = (if 0 < a.toInt then 2 ^ 63 - 1 else if a.toInt < 0 then -(2 ^ 63) else 0)) ∧
     ((op 0x11).val = 0x8000000000000000 ↔
       a.toInt * 2 ^ 32 - a1.toNat % 2 ^ 32 ≠ 0 ∧
         (b.toInt = 0 ∨ b.toInt * b.toInt * 2 ^ 23 + b1.toInt * (a.toInt * 2 ^ 32 - a1.toNat % 2 ^ 32) < 0)))

/-! ### Encoding -/

/-- R106, R110, R111 and the rules of each row: decoding and encoding agree both ways on every core instruction word: a decoded word
that has an encoding decodes from it with its guard, and a word that decodes is the encoding of what it decodes to. -/
def Obligations.DecodeEncodeAgree : Prop :=
  (∀ (g : Nat) (d : Dec), g < 16 → g ≠ 8 → d.wf = true → decodeOp (encodeOp g d) = .ok d ∧ bf (encodeOp g d) 28 4 = g) ∧
  (∀ (w : W32) (d : Dec), decodeOp w = .ok d → d.wf = true ∧ encodeOp (bf w 28 4) d = w)

/-- R106, R110 to R133: some words written out from the encodings decode to the instructions they stand for. -/
def Obligations.WordsDecode : Prop :=
  decodeOp 0b0000_000001_00001_00010_00011_1_000001#32 = .ok ⟨.alu, 1, 2, 3, 0, 0, 1, 0, true⟩ ∧
  decodeOp 0b0000_000010_00001_00010_111111111111#32 = .ok ⟨.addi, 1, 2, 0, 0, 0, 0, 0xFFFFFFFFFFFFFFFF, false⟩ ∧
  decodeOp 0b0000_001010_00101_1_0001001000110100#32 = .ok ⟨.movw, 5, 0, 0, 0, 0, 2, 0x1234, true⟩ ∧
  decodeOp 0b0000_011000_00100_011_00101_000000001#32 = .ok ⟨.load, 4, 5, 0, 3, 3, 0, 8, false⟩ ∧
  decodeOp 0b0000_100000_1111111111111111111111#32 = .ok ⟨.br, 0, 0, 0, 0, 0, 0, 0xFFFFFFFFFFFFFFFC, false⟩ ∧
  decodeOp 0b0000_100101_00001_010_00010_00011_10_10#32 = .ok ⟨.atom, 1, 2, 3, 2, 2, 2, 0, false⟩ ∧
  decodeOp 0b1000_000001_00001_00010_00011_0_000000#32 = .illegal ∧
  decodeOp 0b0000_111011_0000000000000000000000#32 = .absent

/-! ### Register accesses -/

/-- R468, R471, R473, R474, R476: a 4-byte write that no check refuses takes effect; a refused one changes nothing but PG_WSTAT, which
takes the lowest of the codes, the offset, the writer and one more in its count, and the held low half that it would have completed, which
is discarded. An aligned 8-byte write takes effect in both halves, or in neither where a check refuses one, with the lowest code of both.
A write of another width or alignment is refused with ALIGN, whatever its value is, or with the code with which the page refuses every
write there: the model's reading (log entry 64). (On a shaft page a refused APPLY also leaves the CRC that it computed, R231.) A page
access also ends the wait of a thread whose interrupt is pending (R82): `s0`. -/
def Obligations.RegisterWriteRow : Prop :=
  ∀ (s : State) (w : Writer) (addr : BitVec 40) (v : W64) (k : Kind) (ty n : Nat),
    let s0 := wakeWaiting s
    let p := (addr.toNat - 0x40000000) / 4096
    let o := addr.toNat % 4096
    let st := page (headPage p) + PG.WSTAT.off
    let x := v.setWidth 32
    let y := v.extractLsb' 32 32
    let c := Code.lowest (regCodes w p o x s0)
    let marks (t : State) (o : Nat) (c : Code) : Prop :=
      (t.rd st).toNat = c.num + o * 2 ^ 8 + w.ring.val * 2 ^ 20 + b2n w.ycp * 2 ^ 22 + min 255 (bf (s.rd st) 24 8 + 1) * 2 ^ 24 ∧
      (∀ j, j ≠ st → t.rd j = s.rd j) ∧ t.mem = s.mem ∧ t.threads = s0.threads ∧ t.sent = s.sent ∧ t.raised = s.raised
    let holds (o : Nat) : Prop := ∃ r, regRow p o = some r ∧ s.isHeld k p o r = true
    0x40000000 ≤ addr.toNat → pageKind p = some (k, ty, n) →
    (o % 4 = 0 → c = .ok → exec (.registerWrite w addr .b4 v) s = .next (regApply p o x s0)) ∧
    (o % 4 = 0 → c ≠ .ok → k ≠ .shaft → ∃ t, exec (.registerWrite w addr .b4 v) s = .next t ∧ marks t o c ∧
      (∀ lo wide, s.loOf k p o = some (lo, wide) → t.heldLo.find lo = none) ∧ (s.loOf k p o = none → t.heldLo = s.heldLo)) ∧
    (∀ wd, (wd = .b1 ∨ wd = .b2 ∨ (wd = .b4 ∧ o % 4 ≠ 0) ∨ (wd = .b8 ∧ o % 8 ≠ 0)) →
      ∃ t, exec (.registerWrite w addr wd v) s = .next t ∧ marks t o (Code.lowest (.align :: s0.pageRefuses p o)) ∧ t.heldLo = s.heldLo) ∧
    (∀ s1, o % 8 = 0 → (holds o → s1 = { s0 with heldLo := s0.heldLo.ins (page p + o) x }) → (¬ holds o → s1 = s0) →
      let d := Code.lowest (regCodes w p (o + 4) y s1)
      (c = .ok → d = .ok → exec (.registerWrite w addr .b8 v) s = .next (regApply p (o + 4) y (regApply p o x s0))) ∧
      (k ≠ .shaft → (c ≠ .ok ∨ d ≠ .ok) → ∃ t, exec (.registerWrite w addr .b8 v) s = .next t ∧
        marks t (if c = Code.lowest [c, d] then o else o + 4) (Code.lowest [c, d]) ∧ (holds o → t.heldLo.find (page p + o) = none))) ∧
    (∀ r, o % 4 = 0 → k ∈ [Kind.walk, .part, .thrp, .xlate, .lane, .dram] → 0x40 ≤ o → regRow p o = some r → r.acc = .rw →
      s.loOf k p o = none → s.isHeld k p o r = false → c = .ok →
      ∃ t, exec (.registerWrite w addr .b4 v) s = .next t ∧ t.rd (page p + o) = x ∧ ∀ j, j ≠ page p + o → t.rd j = s.rd j) ∧
    (o % 4 = 0 → holds o → c = .ok →
      ∃ t, exec (.registerWrite w addr .b4 v) s = .next t ∧ t.heldLo.find (page p + o) = some x ∧ t.regs = s.regs)

/-- R4, R468, R470, R473, R474: a read that clears answers the value and leaves 0; a read of a snapshot register that has no snapshot yet
answers what the register shows and takes the whole group, the engine's mark record off its FIFO first and a channel's capture flags with
it; an 8-byte read answers both halves; a read that the page does not admit, or of a wrong width or alignment, answers 0 and leaves only
PG_ERR: a count, the offset, the reader's ring and whether the width was the reason. That a misaligned read of 4 or 8 bytes counts as one
of a wrong width is the model's reading (log entry 64). -/
def Obligations.RegisterReadRows : Prop :=
  ∀ (s : State) (w : Writer) (addr : BitVec 40) (k : Kind) (ty n : Nat),
    let s0 := wakeWaiting s
    let p := (addr.toNat - 0x40000000) / 4096
    let o := addr.toNat % 4096
    let st := page (headPage p) + PG.ERR.off
    let s1 := if k = .eng ∧ 0x0A0 ≤ o then markRead s0 else s0
    let g := rsGroup k p o s0
    let answers (t : State) (v : W64) : Prop := t.sent = .read addr.toNat v :: s.sent
    let marks (t : State) (width : Nat) : Prop :=
      (t.rd st).toNat = min 255 (bf (s.rd st) 0 8 + 1) + o * 2 ^ 8 + w.ring.val * 2 ^ 20 + width * 2 ^ 22 ∧
      (∀ j, j ≠ st → t.rd j = s.rd j) ∧ t.mem = s.mem ∧ t.snaps = s.snaps
    0x40000000 ≤ addr.toNat → pageKind p = some (k, ty, n) →
    (∀ r, o % 4 = 0 → mayRead w p s → regRow p o = some r → r.acc = .rc →
      ∃ t, exec (.readClear w addr) s = .next t ∧ answers t ((regView w k p o s0).setWidth 64) ∧ t.rd (page p + o) = 0 ∧
        ∀ j, j ≠ page p + o → t.rd j = s.rd j) ∧
    (∀ r, o % 4 = 0 → mayRead w p s → regRow p o = some r → r.acc = .rs → s.snaps.find (page p + o) = none → o ∈ g → g.Nodup →
      ∃ t, exec (.snapshotRead w addr) s = .next t ∧ answers t ((regView w k p o s1).setWidth 64) ∧
        (g.getLast? ≠ some o → ∀ x, x ∈ g → t.snaps.find (page p + x) = some (regView w k p x s1)) ∧
        (g.getLast? = some o → ∀ x, x ∈ g → t.snaps.find (page p + x) = none) ∧ t.eng = s1.eng ∧
        (k ≠ .timer → t.regs = s1.regs) ∧
        (k = .timer → let cap := B.timer (tmNum p (g.getLastD o)) + TIMER.CAP_STAT.off
          (∀ j, j ≠ cap → t.rd j = s.rd j) ∧ (t.rd cap).toNat = setBits (s.rd cap).toNat 0 4 0)) ∧
    (∀ r v, o % 4 = 0 → mayRead w p s → regRow p o = some r → r.acc = .rs → s.snaps.find (page p + o) = some v →
      ∃ t, exec (.snapshotRead w addr) s = .next t ∧ answers t (v.setWidth 64) ∧ t.regs = s.regs) ∧
    (∀ r q, o % 8 = 0 → mayRead w p s → regRow p o = some r → regRow p (o + 4) = some q → r.acc ∈ [.ro, .rw, .rwh, .w1c] →
      q.acc ∈ [.ro, .rw, .rwh, .w1c] → k ∉ [Kind.shaft, .timer] →
      ∃ t, exec (.pageReadRefused w addr .b8) s = .next t ∧ answers t (regView w k p (o + 4) s0 ++ regView w k p o s0) ∧ t.regs = s.regs) ∧
    (o % 4 = 0 → ¬ mayRead w p s → (0x400 ≤ p ∨ (o ≠ 0x000 ∧ o ≠ 0x004 ∧ o ≠ 0x00C)) →
      ∃ t, exec (.pageReadRefused w addr .b4) s = .next t ∧ answers t 0 ∧ marks t 0) ∧
    (∀ wd, (wd = .b1 ∨ wd = .b2 ∨ (wd = .b4 ∧ o % 4 ≠ 0) ∨ (wd = .b8 ∧ o % 8 ≠ 0)) →
      ∃ t, exec (.pageReadRefused w addr wd) s = .next t ∧ answers t 0 ∧ marks t 1)


/-! ### Resets, boot, clocks, supplies and modes -/

/-- R29, R38, R435: each kind of reset ends in Muslin with its bit in RST.CAUSE and thread 0 of trio 0 alone running; fuses and flash
stay, DRAM stays through a warm reset, and every reset but power-on keeps the collector's record and the Fault Status Word. -/
def Obligations.ResetRows : Prop :=
  ∀ (s : State) (w : Writer),
    (∃ t, exec .powerOnReset s = .next t ∧ afterReset .powerOn s t) ∧
    (∃ t, exec .systemResetPin s = .next t ∧ afterReset .pin s t) ∧
    (mayWrite w 0x002 s → ∃ t, exec (.warmResetReq w 0xC3) s = .next t ∧ afterReset .warm s t) ∧
    (mayWrite w 0x002 s → ∃ t, exec (.systemResetReq w 0xC3) s = .next t ∧ afterReset .system s t) ∧
    (∀ key, mayWrite w 0x002 s → key ≠ 0xC3 → ∃ t, exec (.warmResetReq w key) s = .next t ∧
      t.fld (page 0x002) PG.WSTAT_CODE = Code.key.num ∧ t.mode = s.mode ∧ t.threads = (wakeWaiting s).threads ∧ t.mem = s.mem) ∧
    (s.mode = mGauze → s.dev.gauze = 7 → s.flag B.sys SYS.GAUZE_CTL_END = false →
      ∃ t, exec .gauzeComplete s = .next t ∧ afterReset .gauze s t) ∧
    (s.mode = mGauze → s.dev.gauze = 7 → s.flag B.sys SYS.GAUZE_CTL_END = true →
      ∃ t, exec .gauzeComplete s = .next t ∧ t.fld B.sys SYS.MODE_HELD = 1 ∧ t.mode = mGauze ∧ t.dev = s.dev)

/-- R32 to R36, R395, R488: the boot sequence with all units good and no valid test record raises source 465 (at every boot without one:
the model's reading, log entry 59), clears the on-chip SRAM, trains the DRAM and tries the sources; on the quick path of a valid record it
takes the record's soft repairs and raises nothing. With TESTEN high, without the collector, or where the record marks a copy of the
collector failed, the device stays in Muslin with the fault waves stopped. A source whose image passes R32 starts it: its payload at LOAD,
trio 0 at ENTRY in ring 0, Calico; one that fails a check leaves its code and the next is tried; with none left the device is in Felt. The
network source has the code TIMEOUT after 30 s, also where an upload failed its check before (the model's choice, log entry 99). The ROM
announces itself while it serves. -/
def Obligations.BootRows : Prop :=
  ∀ (s : State) (e : BootEnv),
    let stays (r : Res) : Prop := ∃ t, r = .next t ∧ t.dev.phase = .stuck ∧ t.mode = mMuslin ∧ t.fld B.coll COLL.STAT_FAULT_RUN = 0
    (s.dev.phase = .boot → s.mode = mMuslin → (e.collectorOk = false ∨ e.testEn = true) → stays (exec (.bootSequence e) s)) ∧
    (∀ p, s.dev.phase = .boot → s.mode = mMuslin → allGood e → s.quickRec = some p → (94 ∈ recFailed p s ∨ 95 ∈ recFailed p s) →
      stays (exec (.bootSequence e) s)) ∧
    (∀ p, s.dev.phase = .boot → s.mode = mMuslin → allGood e → e.fuseError = false → s.dev.fuses.burnFailed = false →
      (s.trio 0).lost = false → s.quickRec = some p → recFailed p s = [] → e.cells = [] →
      ∃ s3, exec (.bootSequence e) s = .next (trySources s.dev.fuses.bootOrder s3) ∧ s3.raised = s.raised ∧
        s3.flag B.rst RST.BOOT_STAT_RECORD = true ∧ s3.dev.repairs.length = fieldAt (s.readMem (s.recBase p) 0x2000) 0xB0 2 ∧
        (∀ i, i < s3.dev.repairs.length →
          s3.dev.repairs[i]? = some (RepEnt.ofWord (BitVec.ofNat 64 (fieldAt (s.readMem (s.recBase p) 0x2000) (0x100 + 8 * i) 8)))) ∧
        (∀ a, s.region a = .sram → memRead s3.mem a = 0)) ∧
    (s.dev.phase = .boot → s.mode = mMuslin → allGood e → e.unitFail = [] → e.cells = [] →
      (s.trio 0).lost = false → s.bestRec = none → ∃ s3, exec (.bootSequence e) s = .next (trySources s.dev.fuses.bootOrder s3) ∧
        (∃ a, a ∈ s3.raised ∧ a.src = 465) ∧ (∀ a, s.region a = .sram → memRead s3.mem a = 0) ∧
        (∀ a n, s.region a = .flash n → memRead s3.mem a = memRead s.mem a) ∧
        s3.fld B.clk CLK.CLK_STAT_DRAM_LOCK = 1 ∧ s3.fld (B.dram 0) DRAM.DRAM_CFG_TRAINED = 1 ∧
        s3.fld (B.dram 1) DRAM.DRAM_CFG_TRAINED = 1 ∧ s3.dev.fuses.bootOrder = s.dev.fuses.bootOrder) ∧
    (∀ (x : Fin 3) (rest : List (Fin 3)), x ≠ 2 →
      let h := s.readMem (flashBase x.val) 256
      let payload := s.readMem (flashBase x.val + 256) (min (fieldAt h 0x008 4) 0x4000000)
      let tried (c : Code) : Prop := ∃ s1, trySources (x :: rest) s = trySources rest s1 ∧ s1.mem = s.mem ∧ s1.dev = s.dev ∧
        s1.fld B.rst ⟨0x048, 8 + 8 * x.val, 8⟩ = c.num
      (fieldAt h 0 4 = 0x36314B43 → imageCode h payload s = .ok →
        let t := trySources (x :: rest) s
        t.mode = mCalico ∧ t.dev.phase = .running ∧ t.fld B.rst RST.BOOT_STAT_SOURCE = x.val ∧
        (t.thread 0).st = .running ∧ (t.thread 0).pc = BitVec.ofNat 64 (fieldAt h 0x018 8) ∧ (t.thread 0).ring = 0 ∧
        ∀ i, i < payload.length → memRead t.mem (fieldAt h 0x010 8 + i) = payload.getD i 0) ∧
      (fieldAt h 0 4 ≠ 0x36314B43 → tried .absent) ∧
      (fieldAt h 0 4 = 0x36314B43 → imageCode h payload s ≠ .ok → tried (imageCode h payload s)) ∧
      (fieldAt h 0 4 = 0x36314B43 → fieldAt h 0x00C 4 < s.dev.fuses.minSecVer.toNat → tried .range) ∧
      (fieldAt h 0 4 = 0x36314B43 → headerRange h s = [] → (∀ k, k ∈ s.dev.fuses.keys → k.1 = sha384 ((h.drop 0x040).take 96) → k.2 = true) →
        tried .key) ∧
      (fieldAt h 0 4 = 0x36314B43 → headerRange h s = [] → (∃ k, k ∈ s.dev.fuses.keys ∧ k.1 = sha384 ((h.drop 0x040).take 96) ∧ k.2 = false) →
        fieldAt h 0x006 2 = 1 → Config.ecdsaVerify ((h.drop 0x040).take 96) (sha384 (h.take 0xA0 ++ payload)) ((h.drop 0x0A0).take 96) = false →
        tried .integrity)) ∧
    (s.dev.phase = .netWait → s.dev.bootLeft = [] → ∃ t, exec .netBootTimeout s = .next t ∧ t.mode = mFelt ∧ t.dev.phase = .felt ∧
      t.fld B.rst RST.BOOT_STAT_CODE_NET = Code.timeout.num) ∧
    (s.dev.phase = .running → ∃ t, exec .dramInitComplete s = .next t ∧ t.fld B.rst RST.BOOT_STAT_DRAM_INIT = 1) ∧
    (s.dev.phase = .netWait → s.dev.fuses.netOff = false → s.net.dup = false → s.has4 = false →
      exec .romAnnounce s = .next (let d := identity s
        netSend 0 ([0x33, 0x33, 0, 0, 0, 1] ++ s.macBytes ++ udpPacket s.linkLocal ([0xFF, 0x02] ++ zeros 13 ++ [1])
          (s.fld B.ycp YCP.CTL_PORT) 21340 (ycpHead 5 0 0 1 0 d.length ++ d)) true s))

/-- R20, R22, R24 to R28, R488: a divider of 8 to 10 takes effect at once; a loss of the root clock, a rail out of its range while PORn is
high, an AVSBus that fails three times over and a DRAM PLL out of lock are reported; without VDD_IO33 the fault balls and the STO pairs in
the run state read back wrong. The loss of a lock that the PLL does not have, and that ten read-backs in a row stand for 10 ms, are the
model's choices (log entries 101, 96). -/
def Obligations.ClockAndSupplyRows : Prop :=
  ∀ (s : State) (w : Writer),
    (∀ v : W32, mayWrite w 0x001 s → 8 ≤ v.toNat → v.toNat ≤ 10 → s.flag B.margin MARGIN.CTL_AUTO = false →
      ∃ t, exec (.coreDivWrite w v) s = .next t ∧ t.fld B.clk CLK.CORE_DIV_DIV = v.toNat ∧ t.fld B.clk CLK.CLK_STAT_DIV_NOW = v.toNat ∧
        t.mem = s.mem ∧ t.threads = (wakeWaiting s).threads) ∧
    (∀ v : W32, mayWrite w 0x001 s → v.toNat < 16 → (v.toNat < 8 ∨ 10 < v.toNat) → s.flag B.margin MARGIN.CTL_AUTO = false →
      ∃ t, exec (.coreDivWrite w v) s = .next t ∧
      t.fld (page 0x001) PG.WSTAT_CODE = Code.range.num ∧ t.rd (B.clk + CLK.CORE_DIV.off) = s.rd (B.clk + CLK.CORE_DIV.off)) ∧
    (s.flag B.clk CLK.CLK_STAT_ROOT_LOCK = true →
      ∃ t, exec (.rootClockLoss .pllUnlock) s = .next t ∧ t.fld B.clk CLK.CLK_STAT_ROOT_LOCK = 0 ∧ t.dev.rootLost = true ∧
        0 ∈ t.dev.conds ∧ (0 ∉ s.dev.conds → t.live 0 = true) ∧
        t.fld B.clk CLK.LOSS_CNT = min (2 ^ 32 - 1) (s.fld B.clk CLK.LOSS_CNT + 1)) ∧
    (s.flag B.clk CLK.CLK_STAT_ROOT_LOCK = false → exec (.rootClockLoss .pllUnlock) s = .next s) ∧
    (∃ t, exec (.rootClockLoss .crystal) s = .next t ∧ t.fld B.clk CLK.CLK_STAT_XTAL_OK = 0 ∧ t.dev.rootLost = true) ∧
    (∀ mv, s.dev.porLow = true → exec (.railOutOfRange .core mv) s = .next s ∧
      exec (.railOutOfRange .aon mv) s = .next { s with dev := { s.dev with aonOk := inRange 760 840 mv } } ∧
      exec (.railOutOfRange .io33 mv) s = .next { s with dev := { s.dev with ioOk := inRange 3135 3465 mv } }) ∧
    (∀ mv, s.dev.porLow = false → (mv < 3135 ∨ 3465 < mv) → s.dev.ioOk = true → ∃ t, exec (.railOutOfRange .io33 mv) s = .next t ∧
      t.dev.ioOk = false ∧ (s.flag B.coll COLL.STAT_FAULT_RUN = true → t.live 7 = true) ∧
      ∀ n, n < 8 → s.stoRun n = true → 448 + n ∉ s.dev.conds → t.live (448 + n) = true ∧ 448 + n ∈ t.dev.conds) ∧
    (∀ mv, s.dev.porLow = false → 3135 ≤ mv → mv ≤ 3465 → exec (.railOutOfRange .io33 mv) s = .next { s with dev := { s.dev with ioOk := true } }) ∧
    (∀ mv, s.dev.porLow = false → (mv < 760 ∨ 840 < mv) → 2 ∉ s.dev.conds → ∃ t, exec (.railOutOfRange .aon mv) s = .next t ∧ t.live 2 = true ∧
      2 ∈ t.dev.conds ∧ t.dev.aonOk = false) ∧
    (∀ mv, s.dev.porLow = false → (mv < 720 ∨ 900 < mv) → s.mode ≠ mVelvet → 1 ∉ s.dev.conds →
      ∃ t, exec (.railOutOfRange .core mv) s = .next t ∧ t.live 1 = true ∧ 1 ∈ t.dev.conds) ∧
    (∀ mv, s.mode = mVelvet → mv < 700 → ∃ t, exec (.velvetSupplyDip mv) s = .next t ∧ t.dev.lost = true ∧ t.regs = s.regs ∧ t.mem = s.mem) ∧
    (s.dev.avsFails < 2 → ∃ t, exec (.avsReadback none) s = .next t ∧ t.dev.avsFails = s.dev.avsFails + 1 ∧ t.raised = s.raised) ∧
    (2 ≤ s.dev.avsFails → ∃ t a, exec (.avsReadback none) s = .next t ∧ t.raised = s.raised ++ [a] ∧ a.src = 3 ∧ t.dev.avsStop = true) ∧
    (∀ mv, let set := s.fld B.margin MARGIN.VSET; mv ≤ set + 15 → set ≤ mv + 15 →
      ∃ t, exec (.avsReadback (some mv)) s = .next t ∧ t.dev.avsFails = 0 ∧ t.dev.avsBad = 0 ∧ t.raised = s.raised) ∧
    (∀ mv, let set := s.fld B.margin MARGIN.VSET; (set + 15 < mv ∨ mv + 15 < set) → 9 ≤ s.dev.avsBad →
      ∃ t a, exec (.avsReadback (some mv)) s = .next t ∧ t.raised = s.raised ++ [a] ∧ a.src = 3) ∧
    (s.flag B.clk CLK.CLK_STAT_DRAM_LOCK = true → ∃ t, exec .dramPllLockLoss s = .next t ∧ t.fld B.clk CLK.CLK_STAT_DRAM_LOCK = 0 ∧
      t.fld B.clk CLK.LOSS_CNT = min (2 ^ 32 - 1) (s.fld B.clk CLK.LOSS_CNT + 1) ∧ t.mem = s.mem)

/-- R37, R38: a refused mode request, or one that names the current mode, has its result at once; one that starts a transition has it when
the transition ends, in the requested mode, after every trio's hand-over (R73), those among them that the mode asks for only then (R48,
R49). R434: a request for Twill, Damask or Jersey while the safety configuration fails its check raises source 461, at its severity of
reset a Safe stop. -/
def Obligations.ModeRows : Prop :=
  ∀ (s : State) (w : Writer) (v : W32),
    let c := Code.lowest (modeCodes v.toNat s)
    let checked : Prop := mTwill ≤ v.toNat ∧ v.toNat ≤ mJersey
    let result (t : State) (code : Code) (target : Nat) : Prop :=
      t.fld B.sys SYS.MODE_RES_CODE = code.num ∧ t.fld B.sys SYS.MODE_RES_TARGET = target ∧ t.fld B.sys SYS.MODE_RES_ABANDONED = 0 ∧
      t.fld B.sys SYS.MODE_RES_SEQ = (s.fld B.sys SYS.MODE_RES_SEQ + 1) % 65536
    (mayWrite w 0x000 s → v.toNat < 8 → (c ≠ .ok ∨ v.toNat = s.mode) →
      ∃ t, exec (.modeReq w v) s = .next t ∧ result t c v.toNat ∧ t.mode = s.mode ∧ t.dev = s.dev) ∧
    (mayWrite w 0x000 s → v.toNat < 8 → c = .ok → v.toNat ≠ s.mode → (checked → s.safeCrc = s.rd (B.coll + COLL.SAFE_CRC_EXP.off)) →
      ∃ t, exec (.modeReq w v) s = .next t ∧ t.dev.trans = some ⟨v.toNat, none⟩ ∧ t.fld B.sys SYS.MODE_BUSY = 1 ∧ t.mode = s.mode ∧
        t.rd (B.sys + SYS.MODE_RES.off) = s.rd (B.sys + SYS.MODE_RES.off)) ∧
    (mayWrite w 0x000 s → v.toNat < 8 → c = .ok → v.toNat ≠ s.mode → checked → s.safeCrc ≠ s.rd (B.coll + COLL.SAFE_CRC_EXP.off) →
      s.sev 461 = 3 → ∃ t, exec (.modeReq w v) s = .next t ∧ t.live 461 = true ∧ t.stopDue = true) ∧
    (∀ tg, s.dev.trans = some ⟨tg, none⟩ → s.stopDue = false → s.handing = false → (handAll tg s).handing = true → ycpCalm s = true →
      exec .modeTransitionComplete s = .next (handAll tg s)) ∧
    (∀ tg, 2 ≤ tg → tg ≤ 5 → s.dev.trans = some ⟨tg, none⟩ → s.stopDue = false → s.handing = false → (handAll tg s).handing = false →
      s.ycp.sess = {} → ∃ t, exec .modeTransitionComplete s = .next t ∧ t.mode = tg ∧ t.fld B.sys SYS.MODE_PREV = s.mode ∧
        t.fld B.sys SYS.MODE_BUSY = 0 ∧ t.dev.trans = none ∧ result t .ok tg) ∧
    (s.mode = mMuslin → c = .state) ∧
    (s.mode = mCalico → s.dev.trans = none → v.toNat = mJersey → (c = .ok ↔ s.ssLatched = false ∧ s.siBad = false)) ∧
    (s.mode = mCalico → s.dev.trans = none → (v.toNat = mGauze ∨ v.toNat = mFelt) → c = .ok) ∧
    ((s.mode = mTwill ∨ s.mode = mDamask ∨ s.mode = mJersey) → s.dev.trans = none → v.toNat = mCalico →
      c = if s.queueActive then .busy else .ok) ∧
    (s.mode = mTwill → s.dev.trans = none → v.toNat = mDamask → c = if s.tainted then .taint else .ok) ∧
    (s.mode ≠ mMuslin → s.mode ≠ mGauze → s.dev.trans.isSome = true → v.toNat = s.mode → c = .busy)

/-- R42 to R45, R448, R452, R453: Velvet's scrubber and wake sources, the wake path and the exit of a Safe stop, and the phases of Gauze: what
is tested and failed, the repairs computed and burnt, the record written. -/
def Obligations.VelvetAndGauzeRows : Prop :=
  ∀ (s : State) (e : BootEnv) (g : GauzeEnv),
    let wakeAt (t : State) (m : Nat) : Prop := t.mode = m ∧ t.dev.phase = .running ∧ (t.thread 0).st = .running ∧
      (t.thread 0).pc = BitVec.ofNat 64 (s.imgField 0x020 8) ∧ (t.thread 0).ring = 0
    (s.mode = mVelvet → ∃ t a, exec (.velvetScrub true) s = .next t ∧ t.dev.lost = true ∧ t.raised = s.raised ++ [a] ∧ a.src = 4) ∧
    (exec (.velvetScrub false) s = .next s) ∧
    (∀ level, s.mode = mVelvet → s.stopDue = false → s.flag B.sys SYS.WAKE_CTL_PIN_EN = true →
      s.flag B.sys SYS.WAKE_CTL_PIN_LEVEL = level → ∃ t, exec (.wakePin level) s = .next t ∧ t.mode = mMuslin ∧
        t.fld B.sys SYS.MODE_PREV = mVelvet ∧ t.fld B.sys SYS.WAKE_CAUSE_PIN = 1 ∧ t.dev.phase = .wake ∧ t.mem = s.mem ∧
        (s.dev.avsStop = true → t.dev.avsStop = true ∧ ∀ mv, .avs mv ∈ t.sent → .avs mv ∈ s.sent)) ∧
    (s.mode = mVelvet → s.stopDue = false → s.flag B.sys SYS.WAKE_CTL_TIMER_EN = true →
      ∃ t, exec .retentionTimerExpiry s = .next t ∧ t.mode = mMuslin ∧ t.fld B.sys SYS.WAKE_CAUSE_TIMER = 1 ∧ t.dev.phase = .wake) ∧
    (s.dev.phase = .wake → e.collectorOk = false → ∃ t, exec (.wakePath e) s = .next t ∧ t.dev.phase = .stuck) ∧
    (s.dev.phase = .wake → allGood e → (s.trio 0).lost = false → s.wakeGood = true → ∃ t, exec (.wakePath e) s = .next t ∧ wakeAt t mCalico ∧ t.mem = s.mem) ∧
    (s.mode = mVelvet → s.stopDue = true → allGood e →
      ∃ t, exec (.velvetSafeStopExit e) s = .next t ∧ t.mode = mFelt ∧
        (s.wakeGood = true → wakeAt t mFelt) ∧ (s.wakeGood = false → t.dev.phase = .felt ∧ t.fld B.sys SYS.WAKE_CAUSE_RETAIN_LOST = 1)) ∧
    (s.mode = mGauze → 1 ≤ s.dev.gauze → s.dev.gauze ≤ 6 → ∃ t, exec (.gauzeStepEnd g) s = .next t ∧ t.dev.gauze = s.dev.gauze + 1 ∧
      t.mode = mGauze ∧
      (s.dev.gauze = 2 → s.dev.tested = [] → ∀ u, u ∈ t.dev.tested ↔ (u < 107 ∧ u ∉ [0, 1, 2, 43])) ∧
      (s.dev.gauze = 2 → ∀ u : Fin 107, u ∈ g.unitFail → u.val ∉ [0, 1, 2, 43] → u.val ∈ t.dev.failed) ∧
      (s.dev.gauze = 4 → t.dev.repairs = (mbistRepairs s.dev.fuses.repairs s.dev.cells).take 980 ∧ t.dev.recTime = s.now) ∧
      (s.dev.gauze = 5 → s.flag B.sys SYS.GAUZE_CTL_BURN = false → t.dev.fuses = s.dev.fuses ∧ t.dev.repairs = s.dev.repairs) ∧
      (s.dev.gauze = 5 → s.flag B.sys SYS.GAUZE_CTL_BURN = true → g.burnBad = [] →
        t.dev.fuses.repairs = s.dev.fuses.repairs ++ s.dev.repairs.take (768 - s.dev.fuses.repairs.length) ∧
        t.dev.repairs = s.dev.repairs.drop (768 - s.dev.fuses.repairs.length)) ∧
      (s.dev.gauze = 6 → t.dev.recSeq = s.dev.recSeq + 1))


/-! ### Lockstep trios -/

/-- R48, R52, R56, R62, R64, R65, R67 to R70, R72, R78: configuration writes, hand-overs, checkpoints, disagreements, failover and its
return, resync, remap and voter copies. A hand-over to or from SPLIT waits until the threads concerned are at rest; a failover discards
the outputs of the open interval, not those of a committed one that have yet to leave. That the end of a resync in a replay returns the
trio to PAIR at once is the model's reading (log entry 107), and so is that none of this goes on in Velvet or a held Gauze (R40, R42; log
entry 101). -/
def Obligations.TrioRows : Prop :=
  ∀ (s : State) (w : Writer) (n : Fin 13),
    let b := B.trio n.val
    let reports (t : State) (e : Nat) : Prop := ∃ a, a ∈ t.raised ∧ a.src.toNat = 16 + 12 * n.val + e
    let pends (t : State) (e : Nat) : Prop := t.irqPending (64 + 4 * n.val + e) = true
    (∀ v : W32, admits w (b + TRIO.CFG.off) v.toNat s → ∃ t, exec (.trioCfgWrite w n v) s = .next t ∧ t.rd (b + TRIO.CFG.off) = v ∧
      t.conf n.val = s.conf n.val ∧
      (s.trioIn n.val = true → s.mode ≠ mTwill → s.mode ≠ mDamask → s.confEff n.val ≠ nbits v.toNat 0 2 →
        (t.trio n.val).target = some (nbits v.toNat 0 2) ∧ t.flag b TRIO.STAT_CHANGING = true) ∧
      (s.confEff n.val = nbits v.toNat 0 2 → t.trios = s.trios)) ∧
    (s.gated = true → ∀ c q r, exec (.handoverComplete n) s = .next s ∧ exec (.checkpoint n) s = .next s ∧ exec (.votedDisagreement n c) s = .next s ∧
      exec (.pairMismatch n q r) s = .next s ∧ exec (.failoverReturn n) s = .next s ∧ exec (.resyncComplete n q) s = .next s ∧
      exec .softRemapSwitch s = .next s ∧ exec (.voterCopyDisagree n) s = .next s) ∧
    (∀ c keys, c ≤ 2 → s.gated = false → (s.trio n.val).target = some c → s.trioIn n.val = true → quiet n.val s →
      (s.conf n.val = 2 ∧ keys = otherKeys n.val ∨ s.conf n.val ≠ 2 ∧ s.conf n.val ≠ 1 ∧ c = 2 ∧ keys = lockedKeys n.val) → s.atRest n.val keys = false →
      exec (.handoverComplete n) s = .next s) ∧
    (∀ c, c ≤ 2 → s.gated = false → (s.trio n.val).target = some c → s.trioIn n.val = true → quiet n.val s →
      (s.conf n.val = 2 → s.atRest n.val (otherKeys n.val) = true) → (c = 2 → s.atRest n.val (lockedKeys n.val) = true) → ∃ t, exec (.handoverComplete n) s = .next t ∧
      t.conf n.val = c ∧ t.flag b TRIO.STAT_CHANGING = false ∧ (t.trio n.val).target = none ∧ pends t 2 ∧ t.mem = s.mem ∧
      (s.conf n.val = 2 → c ≠ 2 → ∀ i, i < 16 → t.thread (threadKey n.val (1 + i / 8) (i % 8)) = {}) ∧
      (s.conf n.val ≠ 2 → c = 2 → ∀ i, i < 16 → t.thread (threadKey n.val (1 + i / 8) (i % 8)) =
        { (s.thread (threadKey n.val 0 (i % 8))).record with err := none }) ∧
      (s.conf n.val ≠ 2 → c = 2 → ∀ i, i < 8 → t.thread (threadKey n.val 0 i) = (s.thread (threadKey n.val 0 i)).record) ∧
      (s.conf n.val ≠ 2 → c = 2 → t.tlbs (3 * n.val + 1) = s.tlbs (3 * n.val) ∧ t.tlbs (3 * n.val + 2) = s.tlbs (3 * n.val)) ∧
      (s.conf n.val = 2 ∨ c ≠ 2 → ∀ i, i < 8 → t.thread (threadKey n.val 0 i) = s.thread (threadKey n.val 0 i))) ∧
    (s.gated = false → s.trioIn n.val = true → s.conf n.val = 1 → quiet n.val s → ∃ t, exec (.checkpoint n) s = .next t ∧ (t.trio n.val).undo = [] ∧
      (t.trio n.val).bank = (lockedKeys n.val).map (fun k => (k, (s.thread k).record)) ∧ (t.trio n.val).bank2 = (s.trio n.val).bank ∧
      t.rd (b + TRIO.CKPT_CNT.off) = s.rd (b + TRIO.CKPT_CNT.off) + 1 ∧ t.mem = s.mem) ∧
    (∀ (o : OutEnt) (la pa : Nat) (data : List Byte), s.gated = false → s.trioIn n.val = true → s.conf n.val = 1 →
      (∀ k, k ∈ trioKeys n.val → (s.thread k).buf = []) → (s.trio n.val).held = [] → ycpCalm s = true → (s.trio n.val).commit = [o] →
      o.held = false → s.atQuota n.val 9999 = false → o.what = .store la [(pa, data)] → s.region pa = .sram → ∃ t, exec (.checkpoint n) s = .next t ∧ (t.trio n.val).commit = [] ∧
        ∀ a, memRead t.mem a = if pa ≤ a ∧ a < pa + data.length then data.getD (a - pa) 0 else memRead s.mem a) ∧
    (s.gated = false → s.pgEnabled (0x100 + n.val) = true → s.conf n.val = 0 → (s.trio n.val).lost = false → ∀ c : Fin 3,
      let seen := (s.setTrio n.val { s.trio n.val with odd := (c, s.now) :: (s.trio n.val).odd }).oddCount n.val c.val
      (s.fld b TRIO.STAT_IN_SVC = 7 → s.flag b TRIO.STAT_DEGRADED = false → ∃ t, exec (.votedDisagreement n c) s = .next t ∧ reports t 0 ∧
        t.fld b (misFld c.val) = min 255 (s.fld b (misFld c.val) + 1) ∧ t.flag b (inSvcFld c.val) = false ∧
        (seen < s.fld b TRIO.PERM_CTL_LIMIT → (t.trio n.val).resync = some c ∧ t.flag b TRIO.STAT_RESYNC = true) ∧
        (s.fld b TRIO.PERM_CTL_LIMIT ≤ seen → reports t 2 ∧ (t.trio n.val).failed.getLsbD c.val = true ∧ (t.trio n.val).resync = none)) ∧
      (s.flag b (inSvcFld c.val) = true → (s.fld b TRIO.STAT_IN_SVC ≠ 7 ∨ s.flag b TRIO.STAT_DEGRADED = true) → ∃ t, exec (.votedDisagreement n c) s = .next t ∧ reports t 6 ∧
        (t.trio n.val).lost = true)) ∧
    (s.gated = false → s.pgEnabled (0x100 + n.val) = true → s.conf n.val = 1 → (s.trio n.val).lost = false → ∀ sig : Bool,
      (s.flag b TRIO.STAT_DEGRADED = false → s.copying n.val = false → ((s.trio n.val).bank.map (·.1)).Nodup →
        ∃ t, exec (.pairMismatch n sig false) s = .next t ∧ reports t 1 ∧ t.flag b TRIO.STAT_REPLAY = true ∧ t.conf n.val = 0 ∧
          (t.trio n.val).commit = (s.trio n.val).commit.take (s.trio n.val).closed ∧ (t.trio n.val).undo = [] ∧
          (∀ x, x ∈ (s.trio n.val).bank → t.thread x.1 = { x.2 with
            tlbis := s.tlbiCount x.1, halted := (s.thread x.1).halted, err := (s.thread x.1).err <|> x.2.err }) ∧
          (sig = true → (t.trio n.val).bank2 = s.bankOf n.val) ∧
          t.mem = (s.trio n.val).undo.foldl (fun m u => memWriteL m u.1 u.2) s.mem) ∧
      (∀ bad, (bad = true ∨ s.flag b TRIO.STAT_DEGRADED = true ∨ s.copying n.val = true) →
        ∃ t, exec (.pairMismatch n sig bad) s = .next t ∧ reports t 6 ∧ (t.trio n.val).lost = true ∧ t.mem = s.mem ∧
          ∀ a, a ∈ t.raised → a ∈ s.raised ∨ a.src.toNat = 16 + 12 * n.val + 6)) ∧
    (s.gated = false → s.flag b TRIO.STAT_REPLAY = true → (s.trio n.val).resync = none → (s.trio n.val).target = none → (s.trio n.val).lost = false →
      quiet n.val s → ∃ t, exec (.failoverReturn n) s = .next t ∧ t.conf n.val = 1 ∧ t.flag b TRIO.STAT_REPLAY = false ∧
        (t.trio n.val).bank = (lockedKeys n.val).map (fun k => (k, (s.thread k).record)) ∧ t.mem = s.mem) ∧
    (∀ c, s.gated = false → (s.trio n.val).resync = some c → (s.trio n.val).lost = false →
      (quiet n.val s → (∀ j : Fin 3, j ≠ c → s.flag b (inSvcFld j.val) = true) → ∃ t, exec (.resyncComplete n true) s = .next t ∧ (t.trio n.val).resync = none ∧ t.flag b TRIO.STAT_RESYNC = false ∧
        t.flag b (inSvcFld c.val) = true ∧ pends t 1 ∧
        (s.flag b TRIO.STAT_REPLAY = true → (s.trio n.val).target = none → t.conf n.val = 1 ∧ t.flag b TRIO.STAT_REPLAY = false ∧
          (s.fld b TRIO.ROLES_LEAD = c.val → t.fld b TRIO.ROLES_THIRD = c.val ∧ t.fld b TRIO.ROLES_LEAD = s.fld b TRIO.ROLES_SHADOW))) ∧
      (∃ t, exec (.resyncComplete n false) s = .next t ∧ (t.trio n.val).resync = none ∧ t.flag b (inSvcFld c.val) = false ∧
        (t.trio n.val).failed.getLsbD c.val = true ∧ reports t 2)) ∧
    (s.gated = false → s.spare = spareCopying → s.fld (B.trio 12) TRIO.SPARE_SERVES = n.val → n.val < 12 → quiet n.val s → ∃ t, exec .softRemapSwitch s = .next t ∧
      t.spare = spareInUse ∧ t.flag b TRIO.STAT_REMAPPED = true ∧ t.fld b TRIO.SPARE_PHYS = 12 ∧ t.fld b TRIO.STAT_IN_SVC = 7 ∧
      (t.trio n.val).odd = [] ∧ (t.trio n.val).failed = 0 ∧
      t.rd (b + TRIO.AAU_STAT.off) = s.rd (B.trio 12 + TRIO.AAU_STAT.off) ∧ reports t 4 ∧ pends t 3) ∧
    (s.gated = false → s.pgEnabled (0x100 + n.val) = true → s.conf n.val ≠ 2 → (s.trio n.val).lost = false → ∃ t, exec (.voterCopyDisagree n) s = .next t ∧ reports t 3 ∧
      (s.copying n.val = false → s.flag b TRIO.STAT_DEGRADED = false →
        (s.flag b TRIO.CFG_AUTO_REMAP = true → s.spareReady = true → n.val < 12 →
          t.spare = spareCopying ∧ t.fld (B.trio 12) TRIO.SPARE_SERVES = n.val) ∧
        (s.flag b TRIO.CFG_AUTO_REMAP = false → t.flag b TRIO.STAT_DEGRADED = true ∧ t.flag b TRIO.STAT_TAINT = true ∧ reports t 5)))


/-! ### Interrupt distributor, I/O translation, flash and DRAM -/

/-- R161, R163: SWI_SET and SWI_CLR pend and clear a software source; ACK makes a pending source that routes to the writer active and
clears an edge; EOI ends it; an ACK or EOI of a source that is not so is refused with STATE. -/
def Obligations.InterruptRows : Prop :=
  ∀ (s : State) (w : Writer) (v : W32),
    let n := v.toNat
    let refused (t : State) : Prop := t.fld (page 0x113) PG.WSTAT_CODE = Code.state.num ∧ t.irqActive n = s.irqActive n
    (mayWrite w 0x110 s → n ≤ 63 →
      (∃ t, exec (.swiSet w v) s = .next t ∧ t.irqPending n = true ∧ ∀ m, m ≠ n → m < 512 → t.flag B.intd (irqBit 0x080 m) = s.flag B.intd (irqBit 0x080 m)) ∧
      (∃ t, exec (.swiClr w v) s = .next t ∧ t.irqPending n = false ∧ t.irqActive n = s.irqActive n)) ∧
    (mayWrite w 0x113 s → n < 800 → irqReserved n = false →
      (w.ycp = false → s.routesTo (s.route n) w.tid = true → s.irqPending n = true → s.irqActive n = false →
        w.ring.val ≤ routeRing (s.route n) → ∃ t, exec (.ack w v) s = .next t ∧ t.irqActive n = true ∧
          (irqIsLevel n = false → t.irqPending n = false) ∧ t.mem = s.mem ∧ t.threads = (wakeWaiting s).threads) ∧
      (w.ycp = false → s.routesTo (s.route n) w.tid = true → s.irqActive n = true → w.ring.val ≤ routeRing (s.route n) →
        ∃ t, exec (.eoi w v) s = .next t ∧ t.irqActive n = false ∧ t.mem = s.mem ∧ t.threads = (wakeWaiting s).threads) ∧
      ((w.ycp = true ∨ s.routesTo (s.route n) w.tid = false ∨ s.irqPending n = false ∨ s.irqActive n = true) →
        ∃ t, exec (.ack w v) s = .next t ∧ refused t) ∧
      ((w.ycp = true ∨ s.routesTo (s.route n) w.tid = false ∨ s.irqActive n = false) → ∃ t, exec (.eoi w v) s = .next t ∧ refused t))

/-- R183, R194, R202, R206, R207: an I/O invalidation is accepted and ends with the stream's entries gone, once no access of an engine
waits at a trio; an I/O access without a response is reported and recorded with its address; a flash command needs a fitting length and
alignment and an idle port, and programs or erases the bytes it names; the patrol scrubber counts and reports, and a word it finds
uncorrectable keeps its error (R198). The model's choices: programming as AND and erasing to 0xFF (the family's: log entry 41), LEN within
its bounds for an erase too (log entry 67), which of interrupts 480 and 481 a controller raises (log entry 69), and that none of this goes
on without power or while stopped (R40, R42; log entry 101). -/
def Obligations.MemorySystemRows : Prop :=
  ∀ (s : State) (w : Writer) (port : Bool) (d : Bool) (x : BitVec 40),
    let p := b2n port
    let a := (s.rd (B.xspi + XSPI.ADDR.off)).toNat
    let n := s.fld B.xspi XSPI.LEN
    let idle := mayWrite w 0x332 s ∧ 1 ≤ n ∧ n ≤ 256 ∧ s.flashCmd p = none ∧ s.burning p = false
    let starts (r : Res) (c : FlashCmd) : Prop := ∃ t, r = .next t ∧ t.flashCmd p = some c ∧ t.flag B.xspi (busyFld p) = true ∧ t.mem = s.mem
    let b := B.dram (b2n d)
    (∀ v : W32, admits w (B.iot + 0x444) v.toNat s → ∃ t, exec (.iotInv w v) s = .next t ∧
      t.fab.ioInv = s.fab.ioInv ++ [(nbits v.toNat 0 6, nbit v.toNat 8, (s.rd (B.iot + 0x440)).toNat + nbits v.toNat 16 8 * 2 ^ 32)] ∧
      t.flag B.iot ⟨0x448, 0, 1⟩ = true) ∧
    (s.gated = false → (∃ m, m < 13 ∧ (s.trio m).held.any HeldAcc.streams = true) → exec .iotInvComplete s = .next s) ∧
    (∀ (st : Nat) (whole : Bool) (ad : Nat) (rest : List (Nat × Bool × Nat)), s.gated = false →
      (∀ m, m < 13 → (s.trio m).held.any HeldAcc.streams = false) → s.fab.ioInv = (st, whole, ad) :: rest →
      ∃ t, exec .iotInvComplete s = .next t ∧ t.fab.ioInv = rest ∧
        (∀ e, e ∈ t.fab.io ↔ e ∈ s.fab.io ∧ ¬ (e.stream = st ∧ (whole = true ∨ e.base = ad / 2 ^ e.lg))) ∧
        (t.flag B.iot ⟨0x448, 0, 1⟩ = true ↔ rest ≠ [])) ∧
    (∀ (st : Fin 21) (write : Bool), s.gated = false → let u := B.iot + 16 * ioUnit st.val
      ∃ t q r, exec (.fabricTimeout (.io st write x)) s = .next t ∧ t.raised = s.raised ++ [q, r] ∧ q.src.toNat = 245 ∧ q.addr = some x ∧
        r.src.toNat = 246 + ioUnit st.val ∧ r.addr = some x ∧ (t.rd (u + 0x454)).toNat + (t.rd (u + 0x458)).toNat * 2 ^ 32 = x.toNat ∧
        nbits (t.rd (u + 0x450)).toNat 12 4 = 12 ∧ t.mem = s.mem) ∧
    (idle → a % 256 + n ≤ 256 → starts (exec (.xspiProgram w port) s)
      ⟨a, some (((List.range 64).flatMap (fun i => leBytes 4 (s.rd (B.xspi + 0x100 + 4 * i)).toNat)).take n), n⟩) ∧
    (idle → a % 4096 = 0 → starts (exec (.xspiErase4k w port) s) ⟨a, none, 4096⟩) ∧
    (idle → a % 65536 = 0 → starts (exec (.xspiErase64k w port) s) ⟨a, none, 65536⟩) ∧
    (mayWrite w 0x332 s → 1 ≤ n → n ≤ 256 → a % 4096 ≠ 0 → ∃ t, exec (.xspiErase4k w port) s = .next t ∧
      t.fld (page 0x332) PG.WSTAT_CODE = Code.align.num ∧ t.flashCmd p = s.flashCmd p) ∧
    (∀ c : FlashCmd, s.gated = false → s.flashCmd p = some c → c.addr + c.len ≤ min (s.flashSize p) 0x8000000 →
      let at_ := 0x30000000 + p * 0x8000000 + c.addr
      (∀ data, c.data = some data → data.length = c.len → ∃ t, exec (.xspiCmdComplete port true) s = .next t ∧ t.flashCmd p = none ∧
        t.fld B.xspi XSPI.STAT_CODE = 0 ∧
        ∀ y, memRead t.mem y = if at_ ≤ y ∧ y < at_ + c.len then memRead s.mem y &&& data.getD (y - at_) 0 else memRead s.mem y) ∧
      (c.data = none → ∃ t, exec (.xspiCmdComplete port true) s = .next t ∧ t.flashCmd p = none ∧
        ∀ y, memRead t.mem y = if at_ ≤ y ∧ y < at_ + c.len then 0xFF else memRead s.mem y)) ∧
    (s.gated = true → exec .iotInvComplete s = .next s ∧ (∀ ok, exec (.xspiCmdComplete port ok) s = .next s) ∧
      ∀ ce ue, exec (.patrolScrub d ce ue) s = .next s) ∧
    (s.gated = false → ∃ t q, exec (.patrolScrub d [x] []) s = .next t ∧ t.raised = s.raised ++ [q] ∧ q.src.toNat = 239 + 2 * b2n d ∧ q.addr = some x ∧
      t.fld b DRAM.CE_CNT = min (2 ^ 32 - 1) (s.fld b DRAM.CE_CNT + 1) ∧ t.mem = s.mem) ∧
    (s.gated = false → ∃ t q, exec (.patrolScrub d [] [x]) s = .next t ∧ t.raised = s.raised ++ [q] ∧ q.src.toNat = 240 + 2 * b2n d ∧ q.addr = some x ∧
      t.fld b DRAM.UE_CNT = min (2 ^ 32 - 1) (s.fld b DRAM.UE_CNT + 1) ∧
      (t.rd (b + DRAM.UE_ADDR_LO.off)).toNat + t.fld b DRAM.UE_ADDR_HI * 2 ^ 32 = x.toNat ∧ t.irqPending (480 + b2n d) = true ∧ t.mem = s.mem ∧
      (t.badAddr (8 * (x.toNat / 8)) 8).isSome = true)


/-! ### Shafts -/

/-- R213, R231 to R233, R235, R238, R243, R470: what each command of a shaft leaves: a command for the next tick, learning begun or
ended, the correction table entry by entry, a table put to use once its CRC matches, a snapshot ordered. -/
def Obligations.ShaftCommandRows : Prop :=
  ∀ (s : State) (w : Writer) (n : Fin 8),
    let b := B.shaft n.val
    let p := 0x200 + n.val
    let x := s.shaft n.val
    let free := mayWrite w p s ∧ s.shut p = false
    let i := s.fld b SHAFT.CT_IDX % 4096
    let ready (m : Nat) := s.flag (B.shaft m) SHAFT.STAT_VALID = true ∧ s.flag (B.shaft m) SHAFT.STAT_SETTLED = true ∧
      s.flag (B.shaft m) SHAFT.STAT_REFERENCED = true
    let queues (r : Res) (c : ShaftCmd) : Prop := ∃ t, r = .next t ∧ t.shaft n.val = { x with cmds := x.cmds ++ [c] } ∧ t.regs = s.regs ∧ t.mem = s.mem
    (free → s.fld b SHAFT.CMD_ARG % 2 ^ 24 < s.cpr n.val → s.shaftSsi n.val = false → s.masterBusy n.val = false →
      queues (exec (.refNow w n) s) (.refNow (s.fld b SHAFT.CMD_ARG % 2 ^ 24))) ∧
    (free → s.masterBusy n.val = false → queues (exec (.clrRef w n) s) .clrRef) ∧
    (free → n.val % 2 = 0 → s.mode = mCalico → ready n.val → ready (n.val + 1) → queues (exec (.shaftAlign w n) s) .align) ∧
    (free → n.val % 2 = 1 → ∃ t, exec (.shaftAlign w n) s = .next t ∧ t.fld (page p) PG.WSTAT_CODE = Code.absent.num ∧ t.shaft n.val = x) ∧
    (∀ v : W32, free → s.masterBusy n.val = false → queues (exec (.revSet w n v) s) (.rev v.toNat)) ∧
    (free → 4096 ≤ s.cpr n.val → s.flag b SHAFT.STAT_REFERENCED = true → x.learn = none →
      ∃ t, exec (.learnStart w n) s = .next t ∧ t.shaft n.val = { x with learn := some {} } ∧ t.flag b SHAFT.STAT_LEARNING = true) ∧
    (∀ l, free → x.learn = some l → ∃ t, exec (.learnAbort w n) s = .next t ∧ t.shaft n.val = { x with learn := none } ∧
      t.flag b SHAFT.STAT_LEARNING = false ∧ t.fld b SHAFT.CT_RES_CODE = Code.state.num ∧ t.irqPending (128 + 8 * n.val + 5) = true) ∧
    (∀ v : W32, let u := setBits v.toNat 0 2 1
      (admits w (b + SHAFT.CT_CTL.off) u s → ∃ t, exec (.ctApply w n v) s = .next t ∧ t.fld b SHAFT.CT_CTL_MODE = 1 ∧
        t.rd (b + SHAFT.CT_CRC.off) = ctCrc x.ct ∧ ctCrc x.ct = s.rd (b + SHAFT.CT_CRC_EXP.off) ∧ t.shaft n.val = x) ∧
      (Code.lowest (regCodes w p SHAFT.CT_CTL.off (BitVec.ofNat 32 u) (wakeWaiting s)) = .integrity → ∃ t, exec (.ctApply w n v) s = .next t ∧
        t.rd (b + SHAFT.CT_CRC.off) = ctCrc x.ct ∧ t.fld b SHAFT.CT_CTL_MODE = s.fld b SHAFT.CT_CTL_MODE ∧
        t.fld (page p) PG.WSTAT_CODE = Code.integrity.num)) ∧
    (mayRead w p s → ∃ t, exec (.ctDataRead w n) s = .next t ∧
      t.sent = .read (0x40000000 + b + SHAFT.CT_DATA.off) ((x.ct.get (fun _ => 0) i).setWidth 64) :: s.sent ∧
      t.fld b SHAFT.CT_IDX = (i + 1) % 4096 ∧ t.shaft n.val = x) ∧
    (∀ v : W32, mayWrite w p s → s.fld b SHAFT.CT_CTL_MODE ≠ 1 → x.learn = none → ∃ t, exec (.ctDataWrite w n v) s = .next t ∧
      (t.shaft n.val).ct.get (fun _ => 0) i = v ∧ (∀ j, j ≠ i → (t.shaft n.val).ct.get (fun _ => 0) j = x.ct.get (fun _ => 0) j) ∧
      t.fld b SHAFT.CT_IDX = (i + 1) % 4096) ∧
    (∀ v : W32, mayWrite w 0x208 s → v.toNat < 256 → (∀ m, m < 8 → v.getLsbD m = true → s.pgEnabled (0x200 + m) = true) →
      ∃ t, exec (.snapAll w v) s = .next t ∧ t.snapAll = s.snapAll ||| v.setWidth 8 ∧ t.regs = s.regs)

/-- R210 to R217, R220 to R227, R236, R243: the tick advances device time by 160 units corrected by PTP.ADJ and publishes every shaft; what
its commands, counted transitions, quadrature errors and index events do; every accepted transition counts in EDGE_CNT; transitions wait for
the tick in order of time, and two of an input closer than its filter's length cancel; SSI frames, standstill and the safe speed. That
nothing of this goes on while the blocks are stopped or without power (R40, R42), but for the levels of the balls, which the shaft follows
and which outlast a reset, is the model's choice (log entry 101). -/
def Obligations.ShaftEventRows : Prop :=
  ∀ (s : State) (n : Fin 8),
    let b := B.shaft n.val
    let x := s.shaft n.val
    let on := s.pgEnabled (0x200 + n.val) = true
    let reports (t : State) (e : Nat) : Prop := ∃ a, t.raised = s.raised ++ [a] ∧ a.src.toNat = 172 + 6 * n.val + e
    (s.gated = true → (∀ d, exec (.shaftTick d) s = .next s) ∧
      (∀ ball l ts, exec (.encoderTransition n ball l ts) s = .next (s.setShaft n.val (x.level ball l))) ∧
      exec (.ssiFrameStart n) s = .next s ∧ (∀ h f ts, exec (.ssiFrameComplete n h f ts) s = .next s) ∧
      exec (.standstill n) s = .next s ∧ ∀ p, exec (.safeSpeedDiscrepancy p) s = .next s) ∧
    (∀ d : List (Fin 8), s.gated = false → ∃ t, exec (.shaftTick d) s = .next t ∧
      t.now = s.now + BitVec.ofInt 64 (160 + ((s.tickFrac.toNat : Int) + (s.rd (B.net + NET.PTP_ADJ.off)).toInt) / 2 ^ 32) ∧
      t.snapAll = 0 ∧ t.rd64 (b + SHAFT.SNAP_T_LO.off) = t.now ∧
      t.rd64 (b + SHAFT.SNAP_A_LO.off) = (t.shaft n.val).theta.extractLsb' 32 64 ∧
      t.rd (b + SHAFT.SNAP_A_EXT.off) = (t.shaft n.val).theta.extractLsb' 0 32) ∧
    (∀ a, a < s.cpr n.val → 0 < s.cpr n.val → let t := shaftCmd n.val (.refNow a) s
      (t.shaft n.val).k = a ∧ t.flag b SHAFT.STAT_REFERENCED = true) ∧
    (let t := shaftCmd n.val .clrRef s; t.flag b SHAFT.STAT_REFERENCED = false ∧ (t.shaft n.val).learn = none) ∧
    (∀ v, v < 2 ^ 32 → let t := shaftCmd n.val (.rev v) s
      (t.shaft n.val).rev.toNat = v ∧ (t.shaft n.val).theta.toNat % 2 ^ 64 = x.theta.toNat % 2 ^ 64) ∧
    (∀ (fwd : Bool) (te : W64), 0 < s.cpr n.val → let t := countStep n.val fwd te s
      let m := s.cpr n.val * 2 ^ 32
      (t.shaft n.val).pos (s.cpr n.val) = (if fwd then x.pos (s.cpr n.val) + 1 else x.pos (s.cpr n.val) + m - 1) % m) ∧
    (∀ (isA lvl : Bool) (ts te : W64) (rest : List (EncBall × Bool × W64)), 0 < s.cpr n.val → let t := quadStep n.val isA lvl ts te rest s
      let m := s.cpr n.val * 2 ^ 32
      let fwd := (if isA then lvl != x.lvB else lvl == x.lvA) != s.flag b SHAFT.CFG_DIR
      (lvl = (if isA then x.lvA else x.lvB) → t = s) ∧
      (lvl ≠ (if isA then x.lvA else x.lvB) → t.rd (b + SHAFT.EDGE_CNT.off) = s.rd (b + SHAFT.EDGE_CNT.off) + 1 ∧
        (x.lastAB = none → rest = [] → (t.shaft n.val).meas.map (·.2.1) = some te ∧
          (t.shaft n.val).pos (s.cpr n.val) = (if fwd then x.pos (s.cpr n.val) + 1 else x.pos (s.cpr n.val) + m - 1) % m) ∧
        (∀ o, x.lastAB = some o → diff64 ts o < 640 → t.flag b SHAFT.STAT_REFERENCED = false ∧
          t.rd (b + SHAFT.QERR_CNT.off) = BitVec.ofNat 32 (min (2 ^ 32 - 1) ((s.rd (b + SHAFT.QERR_CNT.off)).toNat + 1)) ∧ reports t 0 ∧
          ∀ back, x.lastFwd = some back → (t.shaft n.val).pos (s.cpr n.val) =
            (if back then x.pos (s.cpr n.val) + m - 1 else x.pos (s.cpr n.val) + 1) % m))) ∧
    (s.flag b SHAFT.STAT_REFERENCED = false → s.fld b SHAFT.INDEX_CNT_VALUE < s.cpr n.val → let t := indexEvent n.val 0 s
      (t.shaft n.val).k = s.fld b SHAFT.INDEX_CNT_VALUE ∧ t.flag b SHAFT.STAT_REFERENCED = true) ∧
    (s.flag b SHAFT.STAT_REFERENCED = true → x.k < s.cpr n.val → s.fld b SHAFT.INDEX_CNT_VALUE < s.cpr n.val →
      let d := (x.k + s.cpr n.val - s.fld b SHAFT.INDEX_CNT_VALUE) % s.cpr n.val
      let t := indexEvent n.val 0 s
      (min d (s.cpr n.val - d) ≤ 1 → t = s) ∧
      (1 < min d (s.cpr n.val - d) → t.flag b SHAFT.STAT_REFERENCED = false ∧ reports t 1)) ∧
    (∃ t, exec .systemResetPin s = .next t ∧ t.shaft n.val = x.balls) ∧
    (∀ (ball : EncBall) (level : Bool) (ts : W64), s.gated = false → ∃ t, exec (.encoderTransition n ball level ts) s = .next t ∧
      (on → s.shaftSsi n.val = false → s.glitch n.val ball ts = false → (t.shaft n.val).trans.Perm ((ball, level, ts) :: x.trans)) ∧
      (s.glitch n.val ball ts = true → ∀ y, y ∈ (t.shaft n.val).trans → y ∈ x.trans) ∧
      (¬ (on ∧ s.shaftSsi n.val = false) → t.shaft n.val = x.level ball level) ∧
      (∀ m, m ≠ n.val → t.shaft m = s.shaft m) ∧ t.regs = s.regs) ∧
    (s.gated = false → on → s.pgEn (0x200 + n.val) = true → s.shaftSsi n.val = true →
      (exec (.ssiFrameStart n) s = .next (s.emit (.ssiClock n.val (s.fld b SHAFT.SSI_CFG_BITS + 1)))) ∧
      (∀ (frame : BitVec 40) (ts : W64), ∃ t, exec (.ssiFrameComplete n false frame ts) s = .next t ∧ reports t 2 ∧ t.shaft n.val = x) ∧
      (∀ (frame : BitVec 40) (ts : W64), x.ssi = none → s.flag b SHAFT.SSI_CFG_GRAY = false →
        let p := frame.toNat % 2 ^ s.fld b SHAFT.SSI_CFG_BITS / 2 ^ s.fld b SHAFT.SSI_CFG_ST_LSB % 2 ^ s.fld b SHAFT.SSI_CFG_ST_BITS
        ∃ t, exec (.ssiFrameComplete n true frame ts) s = .next t ∧ (t.shaft n.val).k = p ∧ (t.shaft n.val).ssi = some p ∧
          (t.shaft n.val).rev = x.rev ∧ t.flag b SHAFT.STAT_REFERENCED = true ∧
          (t.shaft n.val).meas = some (x.rev.toNat * s.cpr n.val + p, ts + (s.rd (b + SHAFT.SSI_LATCH.off)).setWidth 64, false))) ∧
    (s.gated = false → on → s.flag b SHAFT.STAT_VALID = true → s.flag b SHAFT.STAT_STILL = false → ∃ t, exec (.standstill n) s = .next t ∧
      t.shaft n.val = { x with theta := theta96 (s.lineAngle n.val x.line), omega := 0, acc := 0 } ∧ t.flag b SHAFT.STAT_STILL = true ∧
      t.irqPending (128 + 8 * n.val + 3) = true) ∧
    (∀ p : Fin 4, s.gated = false → n.val = 2 * p.val → x.failing = true → x.raised = false → ∃ t, exec (.safeSpeedDiscrepancy p) s = .next t ∧
      t.flag b SHAFT.STAT_PAIR_OK = false ∧ reports t 4 ∧ (t.shaft n.val).raised = true)


/-! ### Event queues and engine -/

/-- R250, R252 to R254, R264, R277, R280: what the commands of a queue, of a start group and of the engine do: the state each leads to,
what it discards, what a cancel covers and when it is complete (once the entries that it cancelled itself have retired), a program load,
and the read that takes a mark from the FIFO. A disable with entries in flight drains the queue: each flight at least NOTICE ahead is
cancelled at its node, the others retire. A MARK in flight is not cancelled: the model's choice (log entry 77). -/
def Obligations.QueueCommandRows : Prop :=
  ∀ (s : State) (w : Writer) (q : Fin 16384),
    let b := B.qd q.val
    let mayQ := mayWrite w (0x400 + q.val / 64) s
    let ents := (s.queue q.val).ents
    let goes (r : Res) (st : Nat) (es : List QEnt) : Prop := ∃ t, r = .next t ∧ t.qst q.val = st ∧ (t.queue q.val).ents = es ∧ t.mem = s.mem
    let ready := s.runMode = true ∧ s.pgRunning 0x210 = true
    (∀ v : W32, admits w b (bit0 v true) s → s.flag b QD.QCTL_EN = false → ∃ t, exec (.queueEnable w q v) s = .next t ∧
      t.qst q.val = qArmed ∧ (t.queue q.val).ents = [] ∧ t.fld b QD.QSTATE_COUNT = 0 ∧ t.rd b = BitVec.ofNat 32 (bit0 v true) ∧ t.mem = s.mem) ∧
    (∀ v : W32, admits w b (bit0 v false) s → (s.qst q.val = qArmed ∨ s.qst q.val = qHalted ∨ s.qst q.val = qFault) →
      (∀ e, e ∈ ents → e.fly = none) → goes (exec (.queueDisable w q v) s) qIdle []) ∧
    (∀ v : W32, admits w b (bit0 v false) s → s.qst q.val = qRunning → v.getLsbD 1 = true → ents ≠ [] →
      goes (exec (.queueDisable w q v) s) qDraining ents) ∧
    (∀ v : W32, admits w b (bit0 v false) s → s.qst q.val = qRunning → v.getLsbD 1 = false → (∀ e, e ∈ ents → e.fly = none) →
      ∃ t, exec (.queueDisable w q v) s = .next t ∧ t.qst q.val = qIdle ∧ (t.queue q.val).ents = [] ∧ t.fld b QD.QSTATE_CAUSE = 6 ∧ t.mem = s.mem) ∧
    (∀ v : W32, admits w b (bit0 v false) s →
      (s.qst q.val = qRunning ∧ v.getLsbD 1 = false ∨ s.qst q.val = qArmed ∨ s.qst q.val = qHalted ∨ s.qst q.val = qFault) →
      (∃ e, e ∈ ents ∧ e.fly.isSome = true) → (∀ e f, e ∈ ents → e.fly = some f → f.id = none ∨ diff64 f.fire s.now < notice) →
      goes (exec (.queueDisable w q v) s) qDraining (ents.filter (fun e => e.fly.isSome))) ∧
    (∀ (v : W32) (e : QEnt) (f : Flight) (i : W32), admits w b (bit0 v false) s →
      (s.qst q.val = qRunning ∧ v.getLsbD 1 = false ∨ s.qst q.val = qArmed ∨ s.qst q.val = qHalted ∨ s.qst q.val = qFault) →
      ents = [e] → e.fly = some f → f.id = some i → f.tag = none → f.cancel = false → notice ≤ diff64 f.fire s.now →
      (∀ c, c ∈ (s.ring (s.fld b QD.QDEST_RING)).txq → c.id ≠ i) →
      ∃ t, exec (.queueDisable w q v) s = .next t ∧ t.qst q.val = qDraining ∧
        (t.queue q.val).ents = [{ e with fly := some { f with cancel := true } }] ∧
        ∃ x, x ∈ (t.ring (s.fld b QD.QDEST_RING)).cancels ∧ x.1 = i ∧ x.2.1 = q.val) ∧
    (mayQ → s.qst q.val = qArmed → ready → goes (exec (.queueStart w q) s) qRunning ents) ∧
    (mayQ → s.qst q.val ≠ qArmed → ∃ t, exec (.queueStart w q) s = .next t ∧ t.fld (page 0x210) PG.WSTAT_CODE = Code.state.num ∧
      t.qst q.val = s.qst q.val) ∧
    (mayQ → s.qst q.val = qRunning → goes (exec (.queueHalt w q) s) qHalted ents) ∧
    (mayQ → s.qst q.val = qHalted → s.runMode = true → goes (exec (.queueResume w q) s) qRunning ents) ∧
    (mayQ → (s.qst q.val = qArmed ∨ s.qst q.val = qHalted ∨ s.qst q.val = qFault) →
      ∃ t, exec (.queueFlush w q) s = .next t ∧ t.qst q.val = qArmed ∧ (t.queue q.val).ents = ents.filter (fun e => e.fly.isSome) ∧
        t.fld b QD.QSTATE_CAUSE = 1 ∧ t.mem = s.mem) ∧
    (∀ h, mayQ → s.qst q.val = qHalted → (s.queue q.val).head = some h →
      goes (exec (.queueSkipHead w q) s) qHalted (ents.filter (fun e => e.fly.isSome || e.slot != h.slot))) ∧
    (∀ g : Fin 16, mayWrite w 0x210 s → ready → ∃ t, exec (.groupStart w g) s = .next t ∧
      t.qst q.val = (if s.qst q.val = qArmed ∧ s.fld b QD.QCTL_GROUP = g.val then qRunning else s.qst q.val) ∧
      (t.queue q.val).ents = ents) ∧
    (mayWrite w 0x210 s → s.fld B.eng ENG.CANCEL_Q = q.val → s.qst q.val ≠ qIdle → s.eng.cancel = none →
      (∀ e, e ∈ ents → e.fly = none) → let a := s.rd64 (B.eng + ENG.CANCEL_A_LO.off)
      let keep := ents.filter (fun e => decide ((e.e.target - a).toInt < 0))
      ∃ t, exec (.cancelCmd w) s = .next t ∧ (t.queue q.val).ents = keep ∧ t.eng.cancel = some ⟨q.val, ents.length - keep.length, []⟩) ∧
    (∀ (n : Nat) (ids : List W32), s.gated = false → s.eng.cancel = some ⟨q.val, n, ids⟩ →
      (∀ e f i, e ∈ ents → e.fly = some f → f.cancel = true → f.id = some i → i ∉ ids) →
      ∃ t, exec .cancelComplete s = .next t ∧ t.eng.cancel = none ∧
        (t.rd (B.eng + ENG.CANCEL_RES.off)).toNat = min n 65535 * 65536 ∧ t.irqPending 198 = true) ∧
    (∀ v : W32, admits w (B.eng + ENG.PROG_LOAD.off) v.toNat s → ∃ t, exec (.engProgLoad w v) s = .next t ∧
      t.eng.load = some ⟨nbits v.toNat 16 6, s.fld B.eng ENG.PROG_LOAD_LO + v.toNat % 256 * 2 ^ 32⟩ ∧ t.eng.progs = s.eng.progs) ∧
    (∀ l, s.gated = false → s.eng.load = some l → l.slot < 64 → let r := progRead smEngine l.addr s
      ∃ t, exec (.programLoadDone .engine) s = .next t ∧ t.eng.load = none ∧
        (t.rd (B.eng + ENG.PROG_RES.off)).toNat = r.1.num + l.slot * 65536 ∧
        (r.1 = .ok → t.eng.progs.find l.slot = some r.2) ∧ (r.1 ≠ .ok → t.eng.progs = s.eng.progs)) ∧
    (∀ m rest, mayRead w 0x210 s → s.eng.marks = m :: rest → s.snaps.find (B.eng + 0x0A0) = none →
      ∃ t, exec (.markInfoRead w) s = .next t ∧ t.eng.marks = rest ∧
        t.sent = .read (0x40000000 + B.eng + 0x0A0) ((BitVec.ofNat 32 (m.q + 2 ^ 31)).setWidth 64) :: s.sent ∧
        t.snaps.find (B.eng + 0x0A4) = some m.param ∧ t.snaps.find (B.eng + 0x0A8) = some (m.t.extractLsb' 0 32))

/-- R247, R252, R255 to R258, R260 to R263, R279: an append is accepted at the tail of its queue and in queue memory, or refused with its
code and recorded; a check holds a queue whose shaft is not fit, dispatches a MARK that is due within HORIZON, and halts the queue in
FAULT where its entry holds an uncorrectable error; an entry retires; an open group moves with its shaft's prediction. The model's choices:
the count of MARK entries in DISP_CNT and of groups in RETIME_CNT (log entry 77), that the flight with the earliest fire time retires (log
entry 79), and that none of this goes on without power or while stopped (R40, R42; log entry 101). -/
def Obligations.QueueEventRows : Prop :=
  ∀ (s : State) (q : Fin 16384),
    let b := B.qd q.val
    let x := s.queue q.val
    let clean (h : QEnt) : Prop := s.badIn (s.entAddr q.val h.slot) 16 = false
    (s.gated = true → ∀ (a : Appender) (e : RawEntry) (h : AauCheck) (i : Instr),
      i ∈ [.queueAppend a (BitVec.ofNat 16 q.val) e, .queueCheck q h, .entryRetire q, .retimeUpdate h, .cancelComplete] →
        exec i s = .next s) ∧
    (s.gated = false →
    (∀ (a : Appender) (e : RawEntry), let c := Code.lowest (appendCodes a q.val e s)
      (c = .ok → s.qst q.val ≠ qIdle ∧ s.qst q.val ≠ qDraining ∧ s.qst q.val ≠ qFault ∧ x.ents.length < s.qCap q.val ∧
        (∀ l, x.ents.getLast? = some l → 0 ≤ (e.target - l.e.target).toInt) ∧
        ∃ t slot, exec (.queueAppend a (BitVec.ofNat 16 q.val) e) s = .next t ∧ (t.queue q.val).ents = x.ents ++ [⟨slot, e, none⟩] ∧
          t.qst q.val = s.qst q.val ∧
          let at_ := 0x20000000 + 128 * s.fld b QD.QREGION_BASE_BLK + 16 * slot
          ∀ y, memRead t.mem y = if at_ ≤ y ∧ y < at_ + 16 then (entBytes e).getD (y - at_) 0 else memRead s.mem y) ∧
      (c ≠ .ok → ∃ t, exec (.queueAppend a (BitVec.ofNat 16 q.val) e) s = .next t ∧ t.queue q.val = x ∧ t.mem = s.mem ∧
        t.fld b QD.QREJ_CODE = c.num ∧ (t.rd (B.eng + ENG.REJ_INFO.off)).toNat = q.val + c.num * 65536 + appenderNum a * 2 ^ 24 + 2 ^ 31 ∧
        t.irqPending 192 = true)) ∧
    (∀ a h, s.qLive q.val = true → x.head = some h → (s.serving (q.val / 4096)).isSome = true → clean h → s.snapFit (s.qShaft q.val) = false →
      ∃ t, exec (.queueCheck q a) s = .next t ∧ t.flag b QD.QSTATE_PARKED = true ∧ t.queue q.val = x) ∧
    (∀ a h, s.qLive q.val = true → x.head = some h → (s.serving (q.val / 4096)).isSome = true → ¬ clean h →
      ∃ t r, exec (.queueCheck q a) s = .next t ∧ t.qst q.val = qFault ∧ t.fld b QD.QSTATE_CAUSE = 4 ∧ r ∈ t.raised ∧ r.src = 220) ∧
    (∀ h tf, s.qLive q.val = true → x.head = some h → (s.serving (q.val / 4096)).isSome = true → clean h →
      s.snapFit (s.qShaft q.val) = true → s.predict (s.qShaft q.val) h.e.target = some tf → entAct h.e = actMark → s.canDispatch q.val = true →
      0 ≤ (tf - s.now).toInt → (tf - s.now).toInt ≤ s.fld b QD.HORIZON →
      ∃ t, exec (.queueCheck q {}) s = .next t ∧
        (t.queue q.val).ents = x.ents.map (fun e => if e.slot = h.slot then
          { e with fly := some ⟨tf, tf, 0, none, none, false, actMark, h.e.param⟩ } else e) ∧
        (t.queue q.val).last = some s.now ∧ t.fld B.eng ENG.DISP_CNT = (s.fld B.eng ENG.DISP_CNT + 1) % 2 ^ 32) ∧
    (∀ h tf, s.qLive q.val = true → x.head = some h → (s.serving (q.val / 4096)).isSome = true → clean h →
      s.snapFit (s.qShaft q.val) = true → s.predict (s.qShaft q.val) h.e.target = some tf → entAct h.e = actMark → (s.fld b QD.HORIZON : Int) < (tf - s.now).toInt →
      ∃ t, exec (.queueCheck q {}) s = .next t ∧ (t.queue q.val).ents = x.ents) ∧
    (∀ e f, firstFlight x = some (e, f) → s.qst q.val ≠ qDraining → ∃ t, exec (.entryRetire q) s = .next t ∧
      (t.queue q.val).ents = x.ents.filter (fun y => y.slot != e.slot) ∧
      (f.act = actMark → e.fly = some f → s.eng.marks.length < 256 → t.eng.marks = s.eng.marks ++ [⟨q.val, f.param, f.fire⟩])) ∧
    (∀ tag g tf, s.eng.groups.cells = [(tag, g)] → (s.serving 0).isSome = true → s.snapFit g.shaft = true →
      s.predict g.shaft g.target = some tf → let d := (aauOp 0x03 false tf 0 g.t 0 0).val
      s.fld B.eng ENG.RETIME_TOL ≤ d.toInt.natAbs →
      (diff64 s.now g.d ≤ 0 → notice ≤ diff64 (g.f + d) s.now → ∃ t, exec (.retimeUpdate {}) s = .next t ∧
        t.eng.groups.find tag = some { g with t := g.t + d, f := g.f + d, d := g.d + d } ∧
        t.fld B.eng ENG.RETIME_CNT = (s.fld B.eng ENG.RETIME_CNT + 1) % 2 ^ 32) ∧
      (0 < diff64 s.now g.d → ∃ t a, exec (.retimeUpdate {}) s = .next t ∧ t.raised = s.raised ++ [a] ∧ a.src = 224 ∧
        t.eng.groups = s.eng.groups)) ∧
    (s.eng.groups = {} → ∀ a, exec (.retimeUpdate a) s = .next s))


/-! ### Pattern sequencer -/

/-- R273 to R276, R282: LOAD, START, PAUSE, CONTINUE, STOP and program loads and the states they lead to; the end of a track check; a
row whose bits all stand in the state vector, which appends nothing; the append that waits on a full queue. That START without KEEP_STATE
clears the state vector is the model's choice (log entry 81), and that nothing goes on without power or while stopped (R40, R42; log entry
101). -/
def Obligations.SequencerRows : Prop :=
  ∀ (s : State) (w : Writer),
    let x := s.seq
    let may := mayWrite w 0x220 s ∧ s.pgRunning 0x220 = true ∧ x.loading = none
    let goes (r : Res) (st : Nat) : Prop := ∃ t, r = .next t ∧ t.seqSt = st ∧ t.mem = s.mem ∧ t.eng.queues = s.eng.queues
    (may → s.seqSt ∈ [seqIdle, seqLoaded, seqDone, seqError] → ∃ t, exec (.seqLoad w) s = .next t ∧
      t.seq = { x with loading := some (s.fld B.seq SEQ.TRK_LO + s.fld B.seq SEQ.TRK_HI * 2 ^ 32) } ∧ t.regs = s.regs) ∧
    (∀ a, s.gated = false → x.loading = some a → s.ycp.sess = {} → let c := (trackCheck a s).1
      ∃ t, exec .seqLoadDone s = .next t ∧ t.seq.loading = none ∧ t.fld B.seq SEQ.STAT_CODE = c.num ∧ t.irqPending 208 = true ∧
        (c = .ok → t.seqSt = seqLoaded ∧ t.seq.track = some (trackCheck a s).2.1) ∧
        (c ≠ .ok → t.seqSt = s.seqSt ∧ t.seq.track = x.track)) ∧
    (∀ keep, may → (s.seqSt = seqLoaded ∨ s.seqSt = seqDone) → (s.mode = mCalico ∨ s.runMode = true) →
      ∃ t, exec (.seqStart w keep) s = .next t ∧ t.seqSt = seqRunning ∧ t.fld B.seq SEQ.ROW = 0 ∧ t.fld B.seq SEQ.PASS = 0 ∧
        t.seq.vec = (if keep then x.vec else {}) ∧ t.seq.fresh = !keep ∧ t.seq.cur = none ∧ t.seq.track = x.track) ∧
    (may → s.seqSt = seqRunning → s.inSlice = false → goes (exec (.seqPause w) s) seqPaused) ∧
    (may → s.seqSt = seqRunning → s.inSlice = true → ∃ t, exec (.seqPause w) s = .next t ∧ t.seqSt = seqRunning ∧ t.seq = { x with req := some false }) ∧
    (may → s.seqSt = seqPaused → goes (exec (.seqContinue w) s) seqRunning) ∧
    (may → s.seqSt = seqRunning → s.inSlice = false → goes (exec (.seqStop w) s) seqLoaded) ∧
    (may → (s.seqSt = seqPaused ∨ s.seqSt = seqError) → goes (exec (.seqStop w) s) seqLoaded) ∧
    (may → s.seqSt ≠ seqPaused → ∃ t, exec (.seqContinue w) s = .next t ∧ t.fld (page 0x220) PG.WSTAT_CODE = Code.state.num ∧ t.seq = x) ∧
    (∀ v : W32, admits w (B.seq + SEQ.PROG_LOAD.off) v.toNat s → ∃ t, exec (.seqProgLoad w v) s = .next t ∧
      t.seq = { x with load := some ⟨nbits v.toNat 16 4, s.fld B.seq SEQ.PROG_LOAD_LO + v.toNat % 256 * 2 ^ 32⟩ }) ∧
    (∀ l, s.gated = false → x.load = some l → l.slot < 16 → let r := progRead smSeq l.addr s
      ∃ t, exec (.programLoadDone .sequencer) s = .next t ∧ t.seq.load = none ∧
        (t.rd (B.seq + SEQ.PROG_RES.off)).toNat = r.1.num + l.slot * 65536 ∧
        (r.1 = .ok → t.seq.progs.find l.slot = some r.2) ∧ (r.1 ≠ .ok → t.seq.progs = x.progs)) ∧
    (∀ (tr : Track) (r : List Byte) (s1 : State), s.gated = false → s.seqSt = seqRunning → s.pgRunning 0x220 = true → x.track = some tr → x.cur = none →
      x.req = none → x.lastPos = none → x.fresh = false → s.snapOk (s.fld B.angle ANGLE.MASTER) = true →
      seqRead (tr.addr + 64 + s.fld B.seq SEQ.ROW * tr.rowB) tr.rowB s = (some r, s1) → r.length = 48 → nbit (fieldAt r 4 4) 0 = false →
      tr.prog = 0xFF → 0 < tr.width → tr.width ≤ 256 →
      (∀ i, i < tr.width → nbit (leNat (r.drop 16)) i = x.vec.get (fun _ => false) (tr.firstQ + i)) →
      let target := rowTarget tr (s.rd64 (B.seq + SEQ.BASE_LO.off)) (BitVec.ofNat 64 (s.fld B.seq SEQ.PASS)) (fieldAt r 0 4)
        (BitVec.ofNat 64 (fieldAt r 8 8))
      let ahead := diff64 target (s.rd64 (B.shaft (s.fld B.angle ANGLE.MASTER) + SHAFT.SNAP_A_LO.off))
      (ahead ≤ (s.fld B.seq SEQ.AHEAD : Int) * 256 → s.fld B.seq SEQ.ROW + 1 < tr.rows → s.fld B.seq SEQ.ROW + 1 < 2 ^ 32 →
        ∃ t, exec .seqRowTake s = .next t ∧ t.seqSt = seqRunning ∧ t.seq.cur = none ∧ t.fld B.seq SEQ.ROW = s.fld B.seq SEQ.ROW + 1 ∧
          t.eng.queues = s.eng.queues ∧ ∀ q, t.seq.vec.get (fun _ => false) q = x.vec.get (fun _ => false) q) ∧
      ((s.fld B.seq SEQ.AHEAD : Int) * 256 < ahead → exec .seqRowTake s = .next s1)) ∧
    (∀ (tr : Track) (c : SeqRow) (q : Nat) (e : RawEntry) (rest : List (Nat × RawEntry)) (s1 : State), s.gated = false → s.seqSt = seqRunning →
      x.track = some tr → x.cur = some c → c.out ≠ [] → c.left = (q, e) :: rest → q < 16384 →
      (queueAppend .seq (BitVec.ofNat 16 q) e s = (s1, .full) → ∃ t, exec .seqAppendRetry s = .next t ∧ t.seq.cur = some c ∧
        t.fld B.seq SEQ.WAIT_CNT = min (2 ^ 32 - 1) (s.fld B.seq SEQ.WAIT_CNT + 1) ∧ t.seqSt = seqRunning) ∧
      (queueAppend .seq (BitVec.ofNat 16 q) e s = (s1, .ok) → rest = [] → c.bad = false → x.req = none → tr.width ≤ 256 * (c.slice + 1) →
        ∃ t, exec .seqAppendRetry s = .next t ∧ t.seq.cur = none ∧ (t.queue q).ents = (s1.queue q).ents ∧
          t.fld B.seq SEQ.EMIT_CNT = (s.fld B.seq SEQ.EMIT_CNT + 1) % 2 ^ 32))


/-! ### Actuator rings -/

/-- R316 to R319, R333, R335: the commands of a ring port are taken with BUSY set when the port is out of OFF and LINK, idle, and names
a node that was counted; while one runs the next is refused with BUSY. -/
def Obligations.RingCommandRows : Prop :=
  ∀ (s : State) (w : Writer) (r : Fin 16) (node : BitVec 7),
    let b := B.ring r.val
    let x := s.ring r.val
    let n := node.toNat
    let may := mayWrite w (0x300 + r.val) s ∧ s.flag b RING.CMD_RES_BUSY = false ∧ lnIdle ≤ s.line r.val
    let busy (t : State) : Prop := t.flag b RING.CMD_RES_BUSY = true
    let refused (a : Res) (c : Code) : Prop := ∃ t, a = .next t ∧ t.fld (page (0x300 + r.val)) PG.WSTAT_CODE = c.num ∧ t.ring r.val = x
    (may → s.ringUsed r.val = false → ∃ t, exec (.enumerate w r) s = .next t ∧ busy t ∧ t.fld b RING.STAT_EPOCH = (x.epoch + 1).toNat % 256 ∧
      t.ring r.val = { x with epoch := x.epoch + 1, job := some .enum0, meas := none, todo := [], redo := [], mnt := [enumFrame false 1] }) ∧
    (may → 1 ≤ n → n ≤ s.ringNodes r.val → s.fld b RING.STAT_BREAK_AFTER = 127 → ∃ t, exec (.measure w r node) s = .next t ∧ busy t ∧
      t.fld b RING.CMD_RES_NODE = n ∧
      t.ring r.val = { x with
        req := x.req + 1
        meas := some ⟨n, false, x.req, none, 0, 0⟩
        job := some (.meas false .ok)
        todo := [(n, true)]
        mnt := x.mnt ++ [⟨0x6, n, leBytes 2 x.req.toNat, some false⟩] }) ∧
    (may → n ≤ s.ringNodes r.val → x.safe = false → ∃ t, exec (.ringArm w r node) s = .next t ∧ busy t ∧
      t.ring r.val = { x with job := some (.fin false .ok), mnt := x.mnt ++ [armFrame s r.val (if n = 0 then 127 else n)] }) ∧
    (may → x.safe = false → s.mode = mCalico → ∃ t, exec (.ringRelease w r) s = .next t ∧ busy t ∧
      t.ring r.val = { x with job := some (.fin false .ok), mnt := x.mnt ++ [⟨0xA, 127, [], none⟩] }) ∧
    (may → n ≤ s.ringNodes r.val → x.safe = true → refused (exec (.ringArm w r node) s) .state) ∧
    (may → (x.safe = true ∨ s.mode ≠ mCalico) → refused (exec (.ringRelease w r) s) .state) ∧
    (may → 1 ≤ n → n ≤ s.ringNodes r.val → ∃ t, exec (.descRead w r node) s = .next t ∧ busy t ∧
      (t.ring r.val).job = some (.desc n) ∧ (t.ring r.val).mnt = x.mnt ++ [⟨0x8, n, [], none⟩] ∧
      (t.node r.val n).desc = (s.node r.val n).desc) ∧
    (mayWrite w (0x300 + r.val) s → s.flag b RING.CMD_RES_BUSY = true → lnIdle ≤ s.line r.val → 1 ≤ n → n ≤ s.ringNodes r.val →
      ∀ i, i ∈ [Instr.enumerate w r, .measure w r node, .descRead w r node] →
        ∃ t, exec i s = .next t ∧ t.fld (page (0x300 + r.val)) PG.WSTAT_CODE = Code.busy.num ∧ t.ring r.val = x) ∧
    (∀ v : W32, admits w (b + RING.PROG_LOAD.off) v.toNat s → ∃ t, exec (.ringProgLoad w r v) s = .next t ∧
      t.ring r.val = { x with load := some ⟨0, (s.loVal (b + RING.PROG_LOAD_LO.off)).toNat + v.toNat % 256 * 2 ^ 32⟩ }) ∧
    (∀ l, s.gated = false → x.load = some l → let c := progRead smRing l.addr s
      ∃ t, exec (.programLoadDone (.ring r)) s = .next t ∧ (t.rd (b + RING.PROG_RES.off)).toNat = c.1.num ∧
        t.ring r.val = { x with load := none, prog := if c.1 = .ok then c.2 else x.prog })

/-- R309 to R314, R316, R320, R325 to R332, R334, R337: locks and their loss, the steps of an enumeration, what a slot sends, what a
received frame leaves, cancels, lost nodes and the safe pattern. A frame that R309 discards counts in CRC_ERR_CNT (R339), one that R310
discards nowhere. While the port sends its safe pattern it sends, of its maintenance, an enumeration's frames alone: the model's reading
(log entry 23). Where the port is without power or stopped (R40, R42), nothing of this goes on, but that a receiver whose page is being
disabled takes its last frames: the model's choice (log entry 101). -/
def Obligations.RingEventRows : Prop :=
  ∀ (s : State) (r : Fin 16) (lane : Bool),
    let b := B.ring r.val
    let x := s.ring r.val
    let up := lnIdle ≤ s.line r.val
    let reports (t : State) (e : Nat) : Prop := ∃ a, a ∈ t.raised ∧ a.src.toNat = 256 + 9 * r.val + e
    let frames (typ dest : Nat) (pay : List Byte) (sq : BitVec 16) : List Output :=
      [true, false].map (fun d => .ring r.val d (ringFrame typ d dest sq x.epoch pay))
    (s.gated = true → x.rxUntil = false → ∀ i, i ∈ [Instr.rxLock r lane, .linkLoss r, .enumTimeout r, .timeSend r, .bgMeasure r, .ringSlot r,
      .rxLaneLockLost r lane, .rxLaneLockRegained r lane, .safePatternRepeat r, .ringDisableEnd r] → exec i s = .next s) ∧
    (x.rxUntil = true → ∃ t, exec (.ringDisableEnd r) s = .next t ∧ t.flag b RING.STAT_LOCK0 = false ∧
      t.flag b RING.STAT_LOCK1 = false ∧ t.pgEnabled (0x300 + r.val) = false ∧ t.flag (page (0x300 + r.val)) PG.STAT_QUIESCED = true) ∧
    (s.gated = false →
    (s.line r.val = lnLink → ∃ t, exec (.rxLock r lane) s = .next t ∧ t.flag b (lockFld lane) = true ∧
      (t.ring r.val).job = some .enum0 ∧ (t.ring r.val).epoch = x.epoch + 1 ∧ t.line r.val = if x.safe then lnSafe else lnIdle) ∧
    (s.line r.val ≠ lnOff → ∃ t, exec (.linkLoss r) s = .next t ∧ t.line r.val = lnLink ∧ t.flag b RING.STAT_LOCK0 = false ∧
      t.flag b RING.STAT_LOCK1 = false) ∧
    (exec (.lockRetry r) s = .next s) ∧
    (up → (∃ t, exec (.rxLaneLockLost r lane) s = .next t ∧ t.flag b (lockFld lane) = false ∧ t.line r.val = s.line r.val) ∧
      (∃ t, exec (.rxLaneLockRegained r lane) s = .next t ∧ t.flag b (lockFld lane) = true ∧ t.line r.val = s.line r.val)) ∧
    (∀ next : Byte, x.job = some .enum0 → 2 ≤ next.toNat → next.toNat ≤ 127 → ∃ t, exec (.enumReturn r false next) s = .next t ∧
      t.ringNodes r.val = next.toNat - 1 ∧ t.fld b RING.STAT_BREAK_AFTER = 127 ∧
      ∃ c, (t.ring r.val).job = some (.descs 1 c) ∧ (c = .ok ↔ s.fld b RING.CFG_NODES = 0 ∨ s.fld b RING.CFG_NODES = next.toNat - 1)) ∧
    (x.job = some .enum0 → ∃ t, exec (.enumTimeout r) s = .next t ∧ t.fld b RING.CMD_RES_CODE = Code.timeout.num ∧
      t.flag b RING.CMD_RES_BUSY = false ∧ (t.ring r.val).job = none ∧ reports t 3) ∧
    (up → x.endOut = none → ∃ t pay, exec (.timeSend r) s = .next t ∧ t.sent = frames 0x1 127 pay x.seq ++ s.sent ∧
      pay.take 8 = leBytes 8 s.now.toNat ∧ (t.ring r.val).seq = x.seq + 1) ∧
    (∀ n d rest, x.job = none → (s.line r.val = lnIdle ∨ s.line r.val = lnRun) → x.todo = (n, d) :: rest →
      ∃ t, exec (.bgMeasure r) s = .next t ∧ (t.ring r.val).meas = some ⟨n, d, x.req, none, 0, 0⟩ ∧ (t.ring r.val).todo = rest) ∧
    (up → let n := s.ringNodes r.val
      let open_ := x.slot % 2 ^ (s.fld b RING.CFG_UP_SHARE + 1) = 0 ∧ n ≠ 0
      (open_ → ∃ t, exec (.ringSlot r) s = .next t ∧ t.sent = .ringOpen r.val (x.openN % n + 1) x.lanes :: s.sent) ∧
      (∀ f rest, ¬ open_ → s.line r.val = lnRun → x.ctl = f :: rest → f.dir = none → x.endOut = none →
        ∃ t, exec (.ringSlot r) s = .next t ∧ t.sent = frames f.typ f.dest f.pay x.seq ++ s.sent ∧ (t.ring r.val).ctl = rest) ∧
      (∀ c rest, ¬ open_ → s.line r.val = lnRun → x.ctl = [] → x.txq = c :: rest → s.deliverable r.val c = true → c.rep = false →
        x.endOut = none → ∃ t, exec (.ringSlot r) s = .next t ∧ t.sent = frames 0x2 c.node (cmdRecord c false) x.seq ++ s.sent ∧
          (t.ring r.val).txq = rest) ∧
      (¬ open_ → s.line r.val = lnSafe → x.txq = [] → (x.job.map RingJob.isEnum).getD false = false →
        ∃ t, exec (.ringSlot r) s = .next t ∧ t.sent = s.sent ∧ (t.ring r.val).mnt = x.mnt)) ∧
    (∀ (f : UpFrame) (ts : W64), s.flag b (lockFld lane) = true → up →
      (∃ t, exec (.upFrame r lane false f ts) s = .next t ∧ t.fld b RING.CRC_ERR_CNT = min (2 ^ 32 - 1) (s.fld b RING.CRC_ERR_CNT + 1) ∧
        t.sent = s.sent ∧
        ((x.bads.filter (fun y => decide (diff64 s.now y < 16000000))).length = 16 → reports t 6) ∧
        ((x.bads.filter (fun y => decide (diff64 s.now y < 16000000))).length < 16 → t.raised = s.raised)) ∧
      (f.rsvd0 = true ∨ recClean f.rec0 = false ∨ recClean f.rec1 = false → exec (.upFrame r lane true f ts) s = .next s) ∧
      (∀ k, f.typ = 0xC → f.dest = 0 → f.rsvd0 = false → recClean f.rec0 = true → recClean f.rec1 = true → 1 ≤ f.src.toNat → f.src.toNat ≤ 126 →
        (s.node r.val f.src.toNat).seq = some k → f.seq = k → k ∈ (s.node r.val f.src.toNat).seen →
          exec (.upFrame r lane true f ts) s = .next s) ∧
      (f.typ = 0xC → f.dest = 0 → f.rsvd0 = false → 1 ≤ f.src.toNat → f.src.toNat ≤ 126 → (s.node r.val f.src.toNat).seq = none →
        bf f.rec0 0 8 = 3 → recClean f.rec0 = true → f.rec1 = 0 → s.flag b RING.CFG_LOG_STATUS = false → ∃ t, exec (.upFrame r lane true f ts) s = .next t ∧
          (t.node r.val f.src.toNat).seq = some f.seq ∧ t.fld b (nstat RING.NSTAT_TEMP f.src.toNat) = bf f.rec0 16 16 ∧
          (t.node r.val f.src.toNat).lost = false)) ∧
    (∀ (id : W32) (e : W32 × Nat × Nat), x.cancels.find? (fun y => y.1 == id) = some e →
      (∃ t, exec (.cancelRepeat r id) s = .next t ∧
        t.ring r.val = { x with ctl := x.ctl ++ [cancelFrame id (e.2.2 / 256) (e.2.2 % 256)] }) ∧
      (∃ t, exec (.cancelNoack r id) s = .next t ∧ (t.ring r.val).cancels = x.cancels.filter (fun y => y.1 != id) ∧ reports t 5 ∧
        t.fld b RING.CANCEL_NOACK_CNT = min (2 ^ 32 - 1) (s.fld b RING.CANCEL_NOACK_CNT + 1))) ∧
    (∀ id, ∃ t, exec (.reportWaitExpiry r id) s = .next t ∧ t.ring r.val = { x with reports := x.reports.filter (fun e => e.1 != id) }) ∧
    (∀ node : BitVec 7, up → 1 ≤ node.toNat → node.toNat ≤ s.ringNodes r.val → (s.node r.val node.toNat).lost = false →
      ∃ t, exec (.nodeLost r node) s = .next t ∧ (t.node r.val node.toNat).lost = true ∧ reports t 1 ∧
        t.irqPending (256 + 8 * r.val + 2) = true) ∧
    (up → x.safe = true → exec (.safePatternRepeat r) s = .next (if s.dev.rootLost then s else s.emit (.ringSafe r.val x.lanes))))


/-! ### Timers -/

/-- R342 to R344, R348, R349, R351 to R354, R357: the states of a channel and the commands between them, the global start and stop, a
step of the bus clock up and down, the steps of a shaft, captures, the latched read of a linked pair, and preloads. That the channels stand
still while the blocks are stopped or without power (R40, R42) is the model's choice (log entry 101). -/
def Obligations.TimerRows : Prop :=
  ∀ (s : State) (w : Writer) (ch : Fin 64),
    let n := ch.val
    let b := B.timer n
    let p := tmPage n
    let alone := s.tmLinked n = false ∧ s.tmHigh n = false
    (∀ v : W32, admits w (b + TIMER.CTL.off) (bit0 v true) s → s.tmSt n = tmOff → ∃ t, exec (.timerChEnable w ch v) s = .next t ∧
      t.tmSt n = tmStopped ∧ t.tmGet n TIMER.COUNT = 0 ∧ t.tmGet n TIMER.TOP_ACT = s.tmGet n TIMER.TOP ∧
      t.tmGet n TIMER.CMPA_ACT = s.tmGet n TIMER.CMPA ∧ t.tmGet n TIMER.CMPB_ACT = s.tmGet n TIMER.CMPB) ∧
    (∀ v : W32, admits w (b + TIMER.CTL.off) (bit0 v false) s → s.tmSt n ≠ tmOff → ∃ t, exec (.timerChDisable w ch v) s = .next t ∧
      t.tmSt n = tmOff ∧ (s.flag b TIMER.CFG_PIN_OUT = true → t.fld b TIMER.STAT_PIN = s.fld b TIMER.CFG_IDLE)) ∧
    (mayWrite w p s → s.tmNoStart n = false → ∃ t, exec (.timerStart w ch) s = .next t ∧ t.tmSt n = tmRunning ∧
      t.tmGet n TIMER.COUNT = s.tmGet n TIMER.COUNT) ∧
    (mayWrite w p s → s.tmNoStop n = false → ∃ t, exec (.timerStop w ch) s = .next t ∧ t.tmSt n = tmStopped ∧
      t.tmGet n TIMER.COUNT = s.tmGet n TIMER.COUNT) ∧
    (mayWrite w p s → s.tmNoStart n = true → ∃ t, exec (.timerStart w ch) s = .next t ∧ t.tmSt n = s.tmSt n ∧
      t.fld (page p) PG.WSTAT_CODE = Code.state.num) ∧
    (∀ lo hi : W32, let m : W64 := hi ++ lo
      (mayWrite w 0x240 s → (∀ i, i < 64 → m.getLsbD i = true → s.tmNoStart i = false) → ∃ t, exec (.gstart w lo hi) s = .next t ∧
        t.tmSt n = if m.getLsbD n then tmRunning else s.tmSt n) ∧
      (mayWrite w 0x240 s → (∀ i, i < 64 → m.getLsbD i = true → s.tmNoStop i = false) → ∃ t, exec (.gstop w lo hi) s = .next t ∧
        t.tmSt n = if m.getLsbD n then tmStopped else s.tmSt n) ∧
      (mayWrite w 0x240 s → m.getLsbD n = true → s.tmNoStart n = true → ∃ t, exec (.gstart w lo hi) s = .next t ∧
        (∀ i, i < 64 → t.tmSt i = s.tmSt i) ∧ t.fld (page 0x240) PG.WSTAT_CODE = Code.state.num)) ∧
    (s.gated = true → ∀ i, i ∈ [Instr.timerBusStep ch, .timerAngleStep ch, .timerCapture ch true, .timerCapture ch false] →
      exec i s = .next s) ∧
    (s.gated = false → alone → s.tmSt n = tmRunning → s.tmAngle n = false →
      let c := s.fld b TIMER.COUNT
      let top := s.fld b TIMER.TOP_ACT
      (s.flag b TIMER.STAT_DIR = false → c < top → ∃ t, exec (.timerBusStep ch) s = .next t ∧ t.fld b TIMER.COUNT = c + 1 ∧
        t.fld b TIMER.UCOUNT = (s.fld b TIMER.UCOUNT + 1) % 2 ^ 32 ∧ (t.flag b TIMER.STAT_DIR = decide (c + 1 = top)) ∧
        (c + 1 = top → tmFlag t n 2 = true) ∧
        (s.fld b TIMER.CMPA_ACT = c + 1 → s.fld b TIMER.CTL_DIRQ_A = 0 → tmFlag t n 0 = true)) ∧
      (s.flag b TIMER.STAT_DIR = true → 0 < c → ∃ t, exec (.timerBusStep ch) s = .next t ∧ t.fld b TIMER.COUNT = c - 1 ∧
        (t.flag b TIMER.STAT_DIR = decide (c ≠ 1)) ∧ (c = 1 → tmFlag t n 3 = true ∧ t.fld b TIMER.TOP_ACT = s.fld b TIMER.TOP))) ∧
    (s.gated = false → alone → s.tmSt n = tmRunning → s.tmAngle n = true →
      let sh := s.fld b TIMER.CFG_SHAFT
      let k := (s.shaft sh).step
      let m := 2 ^ s.fld b TIMER.CFG_WIDTH
      s.pgEnabled (0x200 + sh) = true → k ≠ 0 → s.fld b TIMER.CFG_WIDTH ≤ 32 → s.fld b TIMER.COUNT < m →
      ∃ t, exec (.timerAngleStep ch) s = .next t ∧ (t.fld b TIMER.COUNT : Int) = ((s.fld b TIMER.COUNT : Int) + k) % (m : Int) ∧
        t.fld b TIMER.UCOUNT = t.fld b TIMER.COUNT ∧ (t.flag b TIMER.STAT_DIR = decide (k < 0)) ∧
        (((s.fld b TIMER.COUNT : Int) + k < 0 ∨ (m : Int) ≤ (s.fld b TIMER.COUNT : Int) + k) → tmFlag t n 3 = true)) ∧
    (∀ rising : Bool, s.gated = false → alone → s.tmSt n ≠ tmOff → s.flag b TIMER.CFG_PIN_OUT = false →
      let cap := if rising then TIMER.CAPR else TIMER.CAPF
      let new := if rising then TIMER.CAP_STAT_R_NEW else TIMER.CAP_STAT_F_NEW
      let ovr := if rising then TIMER.CAP_STAT_R_OVR else TIMER.CAP_STAT_F_OVR
      ∃ t, exec (.timerCapture ch rising) s = .next t ∧ t.fld b cap = s.fld b TIMER.UCOUNT ∧ t.flag b new = true ∧
        t.flag b TIMER.STAT_PIN = rising ∧
        tmFlag t n (if rising then 4 else 5) = true ∧ (s.flag b new = true → t.flag b ovr = true ∧ tmFlag t n 6 = true) ∧
        (s.flag b new = false → t.flag b ovr = s.flag b ovr)) ∧
    (mayRead w p s → let a := 0x40000000 + b + TIMER.COUNT.off
      (alone → ∃ t, exec (.timerCountRead w ch) s = .next t ∧
        t.sent = .read a ((s.rd (b + TIMER.COUNT.off)).setWidth 64) :: s.sent ∧ t.regs = s.regs ∧ t.timers = s.timers) ∧
      (s.tmLinked n = true → ∃ t, exec (.timerCountRead w ch) s = .next t ∧
        t.sent = .read a ((s.rd (b + TIMER.COUNT.off)).setWidth 64) :: s.sent ∧
        t.timers.latch.find (n / 2) = some (s.rd (B.timer (n + 1) + TIMER.COUNT.off))) ∧
      (∀ x, s.tmHigh n = true → s.timers.latch.find (n / 2) = some x → ∃ t, exec (.timerCountRead w ch) s = .next t ∧
        t.sent = .read a (x.setWidth 64) :: s.sent ∧ t.timers.latch.find (n / 2) = none)) ∧
    (∀ (x : TimerReg) (v : W32), admits w (b + timerRegOff x) v.toNat s →
      (alone → ∃ t, exec (.timerPreloadWrite w ch x v) s = .next t ∧ t.fld b (preloadFld x) = v.toNat ∧
        t.fld b (activeFld x) = if s.flag b TIMER.CTL_BYPASS then v.toNat else s.fld b (activeFld x)) ∧
      (s.tmLinked n = true → ∃ t, exec (.timerPreloadWrite w ch x v) s = .next t ∧
        t.heldLo.find (b + timerRegOff x) = some v ∧ t.regs = s.regs))


/-! ### Ethernet and PTP -/

/-- R362 to R371, R379 to R381, R396, R398: links and their training, what the MAC takes and drops, ARP, PRP in both directions, the node
table, the security associations, the raw transmit ring, classifier programs and the end of a disable. A 10GBASE-KR link comes up only
while it trains (R363). The model's readings: which frames RX_ERR counts (log entry 66), when an SA may not be loaded (log entry 35), the
values that STAT.HI_BER and BLOCK_LOCK may take on a link that goes down (log entry 90), that a slot of the raw ring whose read is refused
is passed over (log entry 38), and that nothing arrives or ends while the blocks are stopped or without power (R40, R42; log entry 101).
-/
def Obligations.EthernetRows : Prop :=
  ∀ (s : State) (w : Writer) (p : Fin 2),
    let q := p.val
    let b := B.eth q
    let x := s.ethp q
    let en := s.pgEn (0x320 + q) = true
    let sel := s.saSel q
    let reports (t : State) (n : Nat) : Prop := ∃ a, a ∈ t.raised ∧ a.src.toNat = n
    (s.gated = true → ∀ (up ok dup : Bool) (f : List Byte) (ts : W64) (mac : BitVec 48) (i : Instr), i ∈ [Instr.linkChange p up dup,
      .trainTimeout p, .trainRestart p, .ethFrameRx p ok f ts, .prpSupervisionTx, .prpNodeForget mac, .ethDisableTxEnd p,
      .programLoadDone .classifier] → exec i s = .next s) ∧
    (s.gated = false →
    (∀ dup, en → s.linkUp q = false → s.kr q = true → x.train = false → exec (.linkChange p true dup) s = .next s) ∧
    (∀ dup, en → s.linkUp q = false → (s.kr q = true → x.train = true) → ∃ t, exec (.linkChange p true dup) s = .next t ∧ t.linkUp q = true ∧
      (t.rd (b + ETH.STAT.off)).toNat = 5 + 8 * b2n (s.kr q) + 32 * b2n (s.flag b ETH.CFG_FEC) ∧ t.irqPending (448 + q) = true ∧
      (s.pgRunning 0x322 = true → t.net.dup = dup ∧ (dup = true → reports t 405))) ∧
    (∀ dup, en → s.linkUp q = true → ∃ t, exec (.linkChange p false dup) s = .next t ∧ t.linkUp q = false ∧ t.ethp q = { x with train := s.kr q } ∧
      (t.rd (b + ETH.STAT.off) = 0 ∨ (t.rd (b + ETH.STAT.off)).toNat = 3 + 32 * b2n (s.flag b ETH.CFG_FEC)) ∧
      t.irqPending (448 + q) = true ∧ reports t (if s.linkUp (1 - q) then 400 else 401)) ∧
    (en → x.train = true → ∃ t, exec (.trainTimeout p) s = .next t ∧ t.flag b ETH.STAT_TRAIN_FAIL = true ∧
      t.ethp q = { x with train := false } ∧ reports t 402) ∧
    (en → s.kr q = true → s.linkUp q = false → ∃ t, exec (.trainRestart p) s = .next t ∧ t.ethp q = { x with train := true } ∧
      t.regs = s.regs) ∧
    (∀ ok f ts, en → s.linkUp q = true →
      (ok = false ∨ f.length < 64 ∨ 1600 < f.length ∨ leNat (f.drop (f.length - 4)) ≠ crc32 (f.take (f.length - 4))) →
      ∃ t, exec (.ethFrameRx p ok f ts) s = .next t ∧ t.fld b ETH.RX_ERR = min (2 ^ 32 - 1) (s.fld b ETH.RX_ERR + 1) ∧
        t.sent = s.sent ∧ t.mem = s.mem) ∧
    (∀ f ts, s.macAccepts (f.take 6) = false → 60 ≤ f.length → f.length ≤ 1596 →
      exec (.ethFrameRx p true (withFcs f) ts) s = .next s) ∧
    (∀ sm sha tha spa pad ts, plainPort q s → s.prpOn = false → s.pgRunning 0x322 = true → s.has4 = true →
      sm.length = 6 → sha.length = 6 → tha.length = 6 → spa.length = 4 →
      let f := s.macBytes ++ sm ++ [8, 6, 0, 1, 8, 0, 6, 4, 0, 1] ++ sha ++ spa ++ tha ++ s.own4 ++ pad
      macTakes f s → ∃ t, exec (.ethFrameRx p true (withFcs f) ts) s = .next t ∧
        t.sent = .eth p (sm ++ s.macBytes ++ [8, 6, 0, 1, 8, 0, 6, 4, 0, 2] ++ s.macBytes ++ s.own4 ++ sha ++ spa ++ zeros 18) :: s.sent ∧
        t.fld b ETH.RX_OK = (s.fld b ETH.RX_OK + 1) % 2 ^ 32) ∧
    (∀ f ts seq at_, en → s.linkUp q = true → s.flag b ETH.SEC_CTL_EN = false → s.prpOn = true → macTakes f s → isEapol f = false →
      s.otherTag f = false → (etherAt f).1 ≠ 0x88FB → prpTrailer f = some (seq, q) → (seq, at_) ∈ (s.prpNode (beNat ((f.drop 6).take 6))).seqs →
      s.since at_ < s.fld B.net NET.PRP_CTL_FORGET * 16000000 →
      let dups := if q = 0 then NET.DUP_A else NET.DUP_B
      ∃ t, exec (.ethFrameRx p true (withFcs f) ts) s = .next t ∧ t.sent = s.sent ∧
        t.fld B.net dups = (s.fld B.net dups + 1) % 2 ^ 32) ∧
    (∀ f ts, en → s.linkUp q = true → s.flag b ETH.SEC_CTL_EN = true → s.flag b ETH.SEC_CTL_ALLOW_PLAIN = false → macTakes f s →
      isEapol f = false → be16 f 12 ≠ 0x88E5 → ∃ t, exec (.ethFrameRx p true (withFcs f) ts) s = .next t ∧ t.sent = s.sent ∧
        t.mem = s.mem ∧ t.fld b ETH.SEC_NOSA = min (2 ^ 32 - 1) (s.fld b ETH.SEC_NOSA + 1)) ∧
    (s.pgRunning 0x322 = true → s.prpOn = true → plainPort 0 s → plainPort 1 s → ∃ t f0 f1, exec .prpSupervisionTx s = .next t ∧
      t.sent = .eth 1 f1 :: .eth 0 f0 :: s.sent ∧ prpTrailer f0 = some (s.net.prpSeq.toNat, 0) ∧
      prpTrailer f1 = some (s.net.prpSeq.toNat, 1) ∧ f0.take 12 = [0x01, 0x15, 0x4E, 0, 1, 0] ++ s.macBytes ∧
      f1.take 12 = f0.take 12 ∧ t.net.prpSeq = s.net.prpSeq + 1) ∧
    (∀ mac : BitVec 48, (∃ n, n ∈ s.net.nodes ∧ n.mac = mac.toNat) → s.net.nodes.length ≤ 256 →
      let l := s.net.nodes.filter (fun n => n.mac != mac.toNat)
      ∃ t, exec (.prpNodeForget mac) s = .next t ∧ t.net.nodes = l ∧ t.fld B.net NET.NODES = l.length)) ∧
    (mayWrite w (0x320 + q) s → s.saBusy q = false → ∃ t, exec (.saInstall w p) s = .next t ∧
      let a := (t.ethp q).sa sel
      a.installed = true ∧ a.key = s.regBytes (b + ETH.SA_KEY.off) 8 ∧ a.salt = s.regBytes (b + ETH.SA_SALT.off) 3 ∧
      a.ssci = s.rd (b + ETH.SA_SSCI.off) ∧ a.low = a.pn ∧ a.enabled = (x.sa sel).enabled ∧
      (s.xpn q = false → a.pn = (s.rd (b + ETH.SA_PN_LO.off)).toNat) ∧ (∀ j, j ≠ sel → (t.ethp q).sa j = x.sa j)) ∧
    (mayWrite w (0x320 + q) s → s.saBusy q = true → ∃ t, exec (.saInstall w p) s = .next t ∧ t.ethp q = x ∧
      t.fld (page (0x320 + q)) PG.WSTAT_CODE = Code.busy.num) ∧
    (mayWrite w (0x320 + q) s →
      (∃ t, exec (.saEnable w p) s = .next t ∧ (t.ethp q).sa sel = { x.sa sel with enabled := true } ∧
        ∀ j, j ≠ sel → (t.ethp q).sa j = x.sa j) ∧
      (∃ t, exec (.saDisable w p) s = .next t ∧ (t.ethp q).sa sel = { x.sa sel with enabled := false } ∧
        ∀ j, j ≠ sel → (t.ethp q).sa j = x.sa j)) ∧
    (∀ v : W32, admits w (B.net + NET.RAWTX_HEAD.off) v.toNat s → s.pgRunning 0x322 = true → s.fld B.net NET.RAWTX_CFG_SLOTS ≤ 12 →
      s.rawWaits = false → (∀ m, m < 13 → s.conf m ≠ 1) →
      ∃ t, exec (.rawtxHeadWrite w v) s = .next t ∧ t.fld B.net NET.RAWTX_HEAD = v.toNat ∧
        t.fld B.net NET.RAWTX_TAIL % 2 ^ s.fld B.net NET.RAWTX_CFG_SLOTS = v.toNat % 2 ^ s.fld B.net NET.RAWTX_CFG_SLOTS) ∧
    (∀ v : W32, admits w (B.net + NET.PROG_LOAD.off) v.toNat s → ∃ t, exec (.netProgLoad w v) s = .next t ∧
      t.net = { s.net with load := some ⟨0, (s.loVal (B.net + NET.PROG_LOAD_LO.off)).toNat + v.toNat % 256 * 2 ^ 32⟩ }) ∧
    (∀ l, s.gated = false → s.net.load = some l → let c := progRead smNet l.addr s
      ∃ t, exec (.programLoadDone .classifier) s = .next t ∧ (t.rd (B.net + NET.PROG_RES.off)).toNat = c.1.num ∧
        t.net = { s.net with load := none, prog := if c.1 = .ok then c.2 else s.net.prog } ∧ t.irqPending 461 = true) ∧
    (s.gated = false → x.txUntil = true → ∃ t, exec (.ethDisableTxEnd p) s = .next t ∧ t.rd (b + ETH.STAT.off) = 0 ∧
      t.ethp q = { x with txq := [], txUntil := false } ∧ t.pgEnabled (0x320 + q) = false ∧
      t.flag (page (0x320 + q)) PG.STAT_QUIESCED = true ∧ (s.linkUp q = true → t.irqPending (448 + q) = true) ∧
      t.fld b ETH.TX_DROP = min (2 ^ 32 - 1) (s.fld b ETH.TX_DROP + x.txq.length))

/-- R365 to R367, R372 to R377 (message layouts: log entry 47): the messages that the engine originates, none while the link is down, MACsec
on a frame that leaves, the loss of a master, and the servo on a Sync from the master: offset, its report, and a step or an ADJ within its
limit. The model's choices: the transmit SA is the one that TX_AN names, once installed (log entry 35), a time step moves T64 in the row
itself (log entry 48), and the unit and rounding of the servo's terms (log entry 123). -/
def Obligations.PtpRows : Prop :=
  ∀ (s : State) (p : Fin 2),
    let q := p.val
    let b := B.eth q
    let x := s.ptp q
    let n := x.txSeq.toNat
    let on := s.ptpOn q = true ∧ s.flag B.net NET.PTP_CTL_UDP = false
    let one (t : State) (peer : Bool) (typ : Nat) : Prop := ∃ f, t.sent = .eth p f :: s.sent ∧ ptpFrame peer typ n f
    s.gated = false →
    (∀ k, s.linkUp q = false → exec (.ptpMessageTx p k) s = .next s) ∧
    (on → plainPort q s → s.ptpState = ptpMaster → s.gptp = true → ∃ t f, exec (.ptpMessageTx p .announce) s = .next t ∧
      t.sent = .eth p f :: s.sent ∧ f.drop 78 = [0, 8, 0, 8] ++ s.clockId) ∧
    (on → plainPort q s → s.ptpState = ptpMaster →
      (∃ t, exec (.ptpMessageTx p .announce) s = .next t ∧ one t s.gptp 0xB ∧ t.ptp q = { x with txSeq := x.txSeq + 1 }) ∧
      (s.flag B.net NET.PTP_CTL_ONE_STEP = true → ∃ t, exec (.ptpMessageTx p .sync) s = .next t ∧ one t s.gptp 0) ∧
      (s.flag B.net NET.PTP_CTL_ONE_STEP = false → ∃ t f g, exec (.ptpMessageTx p .sync) s = .next t ∧
        t.sent = .eth p g :: .eth p f :: s.sent ∧ ptpFrame s.gptp 0 n f ∧ ptpFrame s.gptp 8 n g)) ∧
    (on → plainPort q s → s.gptp = false → x.master.isSome = true → s.ptpState ≠ ptpMaster →
      ∃ t, exec (.ptpMessageTx p .delayReq) s = .next t ∧ one t false 1 ∧
        t.ptp q = { x with txSeq := x.txSeq + 1, req := some (n, s.now.toNat + s.fld b ETH.TS_ADJ_TX) }) ∧
    (on → plainPort q s → s.gptp = true → ∃ t, exec (.ptpMessageTx p .pdelayReq) s = .next t ∧ one t true 2 ∧
      t.ptp q = { x with txSeq := x.txSeq + 1, pd := some (n, s.now.toNat + s.fld b ETH.TS_ADJ_TX, 0, none) }) ∧
    (on → s.pgEn (0x320 + q) = true → s.linkUp q = true → (s.ethp q).txq = [] → s.flag b ETH.SEC_CTL_EN = true → s.ptpState = ptpMaster →
      (s.txSa q = none → ∃ t, exec (.ptpMessageTx p .announce) s = .next t ∧ t.sent = s.sent ∧
        t.fld b ETH.SEC_NOSA = min (2 ^ 32 - 1) (s.fld b ETH.SEC_NOSA + 1)) ∧
      (∀ a, s.txSa q = some a → a.pn < 2 ^ 32 - 1 → ∃ t f, exec (.ptpMessageTx p .announce) s = .next t ∧ t.sent = .eth p f :: s.sent ∧
        be16 f 12 = 0x88E5 ∧ beNat ((f.drop 16).take 4) = a.pn ∧ (f.drop 20).take 8 = s.ownSci q ∧
        t.txSa q = some { a with pn := a.pn + 1 })) ∧
    (s.ptpOn q = true → (s.ptpOn (1 - q) = true → (s.ptp (1 - q)).master = none) →
      (s.ptpState = ptpSlave → ∃ t, exec (.announceTimeout p) s = .next t ∧ t.ptpState = ptpHoldover ∧ (t.ptp q).master = none ∧
        t.irqPending 450 = true ∧ ∃ a, a ∈ t.raised ∧ a.src.toNat = 404) ∧
      (s.ptpState = ptpListening → s.flag B.net NET.PTP_CTL_GM_CAPABLE = true → ∃ t, exec (.announceTimeout p) s = .next t ∧
        t.ptpState = ptpMaster)) ∧
    (∀ (sm m : List Byte) (ts : W64) (r : Nat),
      let f := [0x01, 0x1B, 0x19, 0, 0, 0] ++ sm ++ [0x88, 0xF7] ++ m
      let o : Int := (s.rxTime q ts - ptpCorr (m.drop 8)) - ptpTime (m.drop 34) s - x.delay
      on → plainPort q s → sm.length = 6 → macTakes f s → prpTrailer f = none → s.ptpState = ptpSlave → s.ptpPort = q →
      leNat (m.take 1) = 16 * b2n s.gptp → leNat ((m.drop 1).take 1) % 16 = 2 →
      leNat ((m.drop 4).take 1) = s.ptpDomain → nbit (leNat ((m.drop 6).take 1)) 1 = false →
      x.master = some (r, (m.drop 20).take 10) → (m.drop 20).take 8 ≠ s.clockId →
      ∃ t, exec (.ethFrameRx p true (withFcs f) ts) s = .next t ∧
        t.rd (B.net + NET.PTP_OFS.off) = BitVec.ofInt 32 (clampInt (-(2 ^ 31)) (2 ^ 31 - 1) (rne o 16)) ∧
        (16 * s.fld B.net NET.PTP_OFS_LIM < o.natAbs → t.irqPending 451 = true ∧ ∃ a, a ∈ t.raised ∧ a.src.toNat = 403) ∧
        (s.mayStep o = true → t.now = s.now - BitVec.ofInt 64 o) ∧
        (s.mayStep o = false → t.now = s.now ∧ (t.rd (B.net + NET.PTP_ADJ.off)).toInt.natAbs ≤ 137438953 ∧
          t.net.integ = s.net.integ + o * Config.servoScale))

/-! ### YCP -/

/-- R382 to R386, R388, R391, R395, R397: IDENTIFY, OPEN, the first request of a pending session, PING and CLOSE; what is discarded
and counted; requests held, repeated and out of the window; and the time-outs of sessions, held requests and the debug lockout. The model's
choices: the modes and the page in which YCP takes requests (log entry 50), a request that waits while the engine executes another session's
(log entry 60), what the end of the lockout clears (log entry 88), and that nothing times out while the blocks are stopped (log entry 101). -/
def Obligations.YcpSessionRows : Prop :=
  ∀ (s : State) (h : YcpHdr) (place : Nat) (x : Session),
    let seq := h.seq.toNat
    let drops (r : Res) : Prop := ∃ t, r = .next t ∧ t.fld B.ycp YCP.DISCARD = min (2 ^ 32 - 1) (s.fld B.ycp YCP.DISCARD + 1) ∧
      t.ycp = s.ycp ∧ t.sent = s.sent ∧ t.mem = s.mem
    let mine := s.ycpOn = true ∧ romServes s = false ∧ h.wellFormed = true ∧ h.auth = true ∧ h.session = x.num ∧ x.num ≠ 0 ∧
      s.sessList.find? (fun p => p.2.num == h.session) = some (place, x) ∧ s.ycp.sess.find place = some x ∧ x.pending = false
    (s.ycpOn = false → romServes s = false → exec (.ycpPing h) s = .next s) ∧
    (s.ycpOn = true ∨ romServes s = true → h.wellFormed = true → h.session = 0 → h.lenFits = true →
      exec (.ycpIdentify h) s = .next (s.emit (.ycp (ycpHead (1 + 2 * b2n h.enc) 0 seq 1 0 (identity s).length ++ identity s)))) ∧
    (∀ (slot : Byte) (nh : BitVec 128), s.ycpOn = true → romServes s = false → h.wellFormed = true → h.session = 0 → h.lenFits = true →
      slot.toNat < 8 → (s.keySlot slot.toNat).ctl.getLsbD 0 = true → s.sessList.length < 8 → s.freePlace = some place → s.pendingCount < 4 →
      let k := s.keySlot slot.toNat
      ∃ t y nd pkt, exec (.ycpOpen h slot 0 nh) s = .next t ∧ t.ycp.sess.find place = some y ∧ y.pending = true ∧ y.next = 1 ∧ y.num ≠ 0 ∧
        (∀ p, p ∈ s.sessList → p.2.num ≠ y.num) ∧ y.ring.val = bf k.ctl 1 2 ∧ y.rights = bf k.ctl 8 9 ∧ nd.length = 16 ∧
        y.key = (hmac384 k.key ([0x59, 0x43, 0x50, 0x31] ++ leBytes 4 y.num.toNat ++ leBytes 16 nh.toNat ++ nd)).take 32 ∧
        pkt = ycpSeal y.key (ycpNonce y.num 0 true) h.enc (ycpHead (1 + 2 * b2n h.enc) 0 seq 2 0 20) (leBytes 4 y.num.toNat ++ nd) ∧
        t.sent = .ycp pkt :: s.sent) ∧
    (∀ (slot : Byte) (nh : BitVec 128), s.ycpOn = true → romServes s = false → h.wellFormed = true → h.session = 0 → h.lenFits = true →
      (s.keySlot slot.toNat).ctl.getLsbD 0 = false → slot.toNat < 8 → s.freePlace.isSome = true → s.pendingCount < 4 →
      exec (.ycpOpen h slot 0 nh) s = .next (s.emit (.ycp (ycpHead (1 + 2 * b2n h.enc) 0 seq 2 Code.absent.num 0)))) ∧
    (takesNow h place x none s →
      (∃ t, exec (.ycpPing h) s = .next t ∧ answered h place x x .ping .ok (leBytes 8 s.now.toNat) t ∧ t.regs = s.regs ∧ t.mem = s.mem) ∧
      (∃ t, exec (.ycpClose h) s = .next t ∧ t.ycp.sess.find place = none ∧ t.irqPending 454 = true ∧
        t.sent = .ycp (ycpPacket x (ycpReq h .closeS) .ok []) :: s.sent)) ∧
    (s.ycpOn = true → h.wellFormed = false → drops (exec (.ycpPing h) s)) ∧
    (s.ycpOn = true → romServes s = false → h.wellFormed = true → h.session ≠ 0 → (∀ p, p ∈ s.sessList → p.2.num ≠ h.session) →
      drops (exec (.ycpPing h) s)) ∧
    (mine → (seq < x.next ∧ (∀ y, y ∈ x.resps → y.seq ≠ seq) ∧ x.exec = none) ∨ x.next + 15 < seq → drops (exec (.ycpPing h) s)) ∧
    (s.ycpOn = true → romServes s = false → h.wellFormed = true → h.auth = false → h.session ≠ 0 →
      s.sessList.find? (fun p => p.2.num == h.session) = some (place, x) →
      ∃ t, exec (.ycpPing h) s = .next t ∧ t.fld B.ycp YCP.AUTH_FAIL = min (2 ^ 32 - 1) (s.fld B.ycp YCP.AUTH_FAIL + 1) ∧
        t.fld B.ycp YCP.DISCARD = min (2 ^ 32 - 1) (s.fld B.ycp YCP.DISCARD + 1) ∧ t.irqPending 455 = true ∧ t.ycp = s.ycp ∧ t.sent = s.sent) ∧
    (s.ycpOn = true → romServes s = false → h.wellFormed = true → h.auth = true → h.lenFits = true → h.session = x.num → x.num ≠ 0 →
      s.sessList.find? (fun p => p.2.num == h.session) = some (place, x) → s.ycp.sess.find place = some x → x.pending = true →
      x.exec = none → x.held = [] → x.next = 1 →
      (seq = 1 → s.ycpBusy = false → ∃ t, exec (.ycpPing h) s = .next t ∧ t.irqPending 453 = true ∧
        answered h place x { x with pending := false } .ping .ok (leBytes 8 s.now.toNat) t) ∧
      (seq ≠ 1 → drops (exec (.ycpPing h) s))) ∧
    (mine → ((x.next < seq ∧ seq ≤ x.next + 15) ∨ (seq = x.next ∧ s.ycpBusy = true)) → (∀ r, r ∈ x.held → r.seq ≠ seq) → ∃ t, exec (.ycpPing h) s = .next t ∧ t.sent = s.sent ∧
      t.ycp.sess.find place = some { x with held := x.held ++ [ycpReq h .ping] }) ∧
    (∀ y, mine → seq < x.next → x.next ≤ seq + 16 → x.resps.find? (fun r => r.seq == seq) = some y →
      exec (.ycpPing h) s = .next (s.emit (.ycp y.packet))) ∧
    (∀ slot : Fin 8, s.gated = false → s.ycp.sess.find slot.val = some x →
      (x.pending = true → ∃ t, exec (.sessionPendingTimeout slot) s = .next t ∧ t.ycp.sess.find slot.val = none ∧ t.sent = s.sent) ∧
      (x.pending = false → ycpCalm s = true → ∃ t, exec (.sessionIdleTimeout slot) s = .next t ∧ t.ycp.sess.find slot.val = none ∧ t.irqPending 454 = true) ∧
      (x.pending = true → exec (.sessionIdleTimeout slot) s = .next s) ∧ (x.pending = false → exec (.sessionPendingTimeout slot) s = .next s)) ∧
    (∀ (slot : Fin 8) (n : W32), s.gated = false → let p := if romServes s then 8 else slot.val
      s.ycp.sess.find p = some x → (∃ r, r ∈ x.held ∧ r.seq = n.toNat) → ∃ t, exec (.heldRequestTimeout slot n) s = .next t ∧
        t.ycp.sess.find p = some { x with held := x.held.filter (fun r => r.seq != n.toNat) }) ∧
    (s.ycp.lockout = true → exec .debugLockoutEnd s = .next { s with ycp := { s.ycp with lockout := false, tries := 0 } })

/-- R387 to R390, R395: what a session's commands do on registers, memory, queues, the pattern window, the mode and images, when their
session takes them and has the right; the response carries the code and data. A memory read that meets a trio in PAIR is answered at that
trio's next commit (R60), and one of a word with an uncorrectable error, or a write of a part of one, with INTEGRITY (R198). One request is
executed at a time (DEDUCED, log entry 60); programming erases whole sectors first (PRESUMED, log entry 39). -/
def Obligations.YcpCommandRows : Prop :=
  ∀ (s : State) (h : YcpHdr) (place : Nat) (x : Session),
    let may (n : Nat) := takesNow h place x (some n) s
    let ans (t : State) (c : YCmd) (code : Code) (d : List Byte) : Prop := answered h place x x c code d t
    let w : Writer := ⟨x.ring, true, ⟨0, 0, 0⟩⟩
    (∀ (a : W64) (k : Kind) (ty n : Nat) (r : Row), let p := (a.toNat - 0x40000000) / 4096; let o := a.toNat % 4096
      s.region a.toNat = .regs → o % 4 = 0 → pageKind p = some (k, ty, n) → regRow p o = some r → 0x40 ≤ o →
      (may 0 → r.acc = .rw → k ∈ [Kind.walk, .part, .eth, .net, .ring, .iot, .seq, .xspi] → mayRead w p s →
        ∃ t, exec (.regRead h a 1) s = .next t ∧ ans t (.regRead a 1) .ok (leBytes 4 (s.rd (page p + o)).toNat) ∧ t.regs = s.regs) ∧
      (∀ v : W32, may 1 → r.acc = .rw → k ∈ [Kind.walk, .part, .thrp, .lane] → s.loOf k p o = none → s.isHeld k p o r = false →
        let c := Code.lowest (regCodes w p o v (wakeWaiting s))
        ∃ t d, exec (.regWrite h a v) s = .next t ∧ ans t (.regWrite a v) c d ∧ (c = .ok → t.rd (page p + o) = v) ∧
          (c ≠ .ok → t.rd (page p + o) = s.rd (page p + o) ∧ t.fld (page p) PG.WSTAT_CODE = c.num))) ∧
    (∀ (a : W64) (n : W32), may 2 → 1 ≤ n.toNat → n.toNat ≤ 1024 →
      (∃ t, exec (.memRead h a n) s = .next t ∧ t.mem = s.mem ∧
        ((∃ c d, ans t (.memRead a n) c d ∧ ((c = .ok ∧ d.length = n.toNat) ∨ ((c = .priv ∨ c = .integrity) ∧ d = []))) ∨
          (t.sent = s.sent ∧ t.ycp.sess.find place = some (taken h x (.memRead a n)) ∧
            ∃ m acc, (t.trio m).held = (s.trio m).held ++ [acc]))) ∧
      (plainDram a.toNat n.toNat s → s.badIn a.toNat n.toNat = true → ∃ t, exec (.memRead h a n) s = .next t ∧
        ans t (.memRead a n) .integrity []) ∧
      (plainDram a.toNat n.toNat s → s.badIn a.toNat n.toNat = false → ∃ t d, exec (.memRead h a n) s = .next t ∧ ans t (.memRead a n) .ok d ∧
        ∀ i, i < n.toNat → d.getD i 0 = memRead s.mem (a.toNat + i))) ∧
    (∀ (a : W64) (n : W32), may 2 → (n.toNat = 0 ∨ 1024 < n.toNat) → ∃ t, exec (.memRead h a n) s = .next t ∧
      ans t (.memRead a n) .range []) ∧
    (∀ (a : W64) (d : List Byte), may 2 → plainDram a.toNat d.length s →
      (s.badPart (a.toNat, d.length) = none → ∃ t, exec (.memWrite h a d) s = .next t ∧ ans t (.memWrite a d) .ok [] ∧
        ∀ y, memRead t.mem y = if a.toNat ≤ y ∧ y < a.toNat + d.length then d.getD (y - a.toNat) 0 else memRead s.mem y) ∧
      (s.badPart (a.toNat, d.length) ≠ none → ∃ t, exec (.memWrite h a d) s = .next t ∧ ans t (.memWrite a d) .integrity [] ∧
        t.mem = s.mem)) ∧
    (∀ (q : BitVec 16) (e : RawEntry), may 3 → let c := Code.lowest (appendCodes .host q.toNat e s)
      (c = .ok → ∃ t, exec (.qappend h q 1 [e]) s = .next t ∧ ans t (.qappend q 1 [e]) .ok [0xFF, 0xFF] ∧
        t.queue q.toNat = (appendDo q.toNat e s).queue q.toNat ∧ t.mem = (appendDo q.toNat e s).mem) ∧
      (c ≠ .ok → ∃ t, exec (.qappend h q 1 [e]) s = .next t ∧ ans t (.qappend q 1 [e]) c [0, 0] ∧ t.eng.queues = s.eng.queues ∧
        t.mem = s.mem ∧ t.irqPending 192 = true)) ∧
    (∀ (o : W32) (d : List Byte), may 4 → 1 ≤ d.length → d.length ≤ 1024 → s.patRuns = false →
      (s.patSize < o.toNat + d.length → ∃ t, exec (.patWrite h o d) s = .next t ∧ ans t (.patWrite o d) .range [] ∧ t.mem = s.mem) ∧
      (o.toNat + d.length ≤ s.patSize → plainDram (s.patBase + o.toNat) d.length s →
        (s.badPart (s.patBase + o.toNat, d.length) = none → ∃ t, exec (.patWrite h o d) s = .next t ∧
          ans t (.patWrite o d) .ok [] ∧ ∀ i, i < d.length → memRead t.mem (s.patBase + o.toNat + i) = d.getD i 0) ∧
        (s.badPart (s.patBase + o.toNat, d.length) ≠ none → ∃ t, exec (.patWrite h o d) s = .next t ∧
          ans t (.patWrite o d) .integrity [] ∧ t.mem = s.mem))) ∧
    (∀ o : W32, may 4 → mayWrite w 0x220 s → s.pgRunning 0x220 = true → s.seq.loading = none →
      s.seqSt ∈ [seqIdle, seqLoaded, seqDone, seqError] → o.toNat < s.patSize → s.patBase + o.toNat < 2 ^ 40 →
      ∃ t, exec (.patLoad h o) s = .next t ∧ t.seq.loading = some (s.patBase + o.toNat) ∧ t.sent = s.sent ∧
        t.ycp.sess.find place = some (taken h x (.patLoad o))) ∧
    (∀ m : Byte, may 5 → m.toNat < 8 → let c := Code.lowest (modeCodes m.toNat s)
      ((c ≠ .ok ∨ m.toNat = s.mode) → ∃ t, exec (.ycpModeReq h m) s = .next t ∧ t.mode = s.mode ∧
        ans t (.modeReq m) c (leBytes 4 (t.rd (B.sys + SYS.MODE_RES.off)).toNat) ∧ t.fld B.sys SYS.MODE_RES_CODE = c.num) ∧
      (c = .ok → m.toNat ≠ s.mode → (mTwill ≤ m.toNat ∧ m.toNat ≤ mJersey → s.safeCrc = s.rd (B.coll + COLL.SAFE_CRC_EXP.off)) →
        ∃ t, exec (.ycpModeReq h m) s = .next t ∧ t.dev.trans = some ⟨m.toNat, some (place, h.seq)⟩ ∧
        t.mode = s.mode ∧ t.ycp.sess.find place = some (taken h x (.modeReq m)))) ∧
    (∀ (g : Byte) (hdr : List Byte), may 6 → hdr.length = 256 → (g.toNat = 1 ∨ g.toNat = 2) → s.mode = mCalico → s.runsFrom g.toNat = false →
      fieldAt hdr 8 4 ≤ s.fld B.ycp YCP.IMG_BUF_SIZE →
      (s.ycp.upload = none → ∃ t, exec (.imageBegin h g hdr) s = .next t ∧ ans t (.imageBegin g hdr) .ok [] ∧
        t.ycp.upload = some ⟨place, g.toNat, hdr, 0, false, []⟩ ∧ t.fld B.ycp YCP.IMG_STAT_BUSY = 1 ∧
        t.fld B.ycp YCP.IMG_STAT_TARGET = g.toNat) ∧
      (s.ycp.upload.isSome = true → ∃ t, exec (.imageBegin h g hdr) s = .next t ∧ ans t (.imageBegin g hdr) .busy [] ∧
        t.ycp.upload = s.ycp.upload)) ∧
    (∀ (hdr : List Byte), romServes s = true → h.wellFormed = true → h.session = 0 → h.lenFits = true → hdr.length = 256 →
      headerRange hdr s = [] → s.ycp.sess.find 8 = none → let c := if s.ycp.upload.isSome then Code.busy else .ok
      ∃ t, exec (.imageBegin h 0 hdr) s = .next t ∧ t.sent = .ycp (ycpHead (1 + 2 * b2n h.enc) 0 h.seq.toNat 0x50 c.num 0) :: s.sent ∧
        t.ycp.upload = if s.ycp.upload.isSome then s.ycp.upload else some ⟨8, 0, hdr, 0, false, []⟩) ∧
    (∀ (u : Upload) (o : W32) (d : List Byte), may 6 → s.ycp.upload = some u → u.owner = place → u.burn = false → u.target ≠ 0 →
      1 ≤ d.length → d.length ≤ 1024 → o.toNat + d.length ≤ fieldAt u.header 8 4 →
      plainDram (s.imgBuf + o.toNat) d.length s →
      (o.toNat ≠ u.got → ∃ t, exec (.imageData h o d) s = .next t ∧ ans t (.imageData o d) .order [] ∧ t.ycp.upload = some u) ∧
      (o.toNat = u.got → s.badPart (s.imgBuf + o.toNat, d.length) ≠ none → ∃ t, exec (.imageData h o d) s = .next t ∧
        ans t (.imageData o d) .integrity [] ∧ t.ycp.upload = some u ∧ t.mem = s.mem) ∧
      (o.toNat = u.got → s.badPart (s.imgBuf + o.toNat, d.length) = none → ∃ t, exec (.imageData h o d) s = .next t ∧
        ans t (.imageData o d) .ok [] ∧ t.ycp.upload = some { u with got := u.got + d.length } ∧
        ∀ i, i < d.length → memRead t.mem (s.imgBuf + o.toNat + i) = d.getD i 0)) ∧
    (∀ (u : Upload), may 6 → s.ycp.upload = some u → u.owner = place → u.burn = false → u.target ≠ 0 →
      let len := fieldAt u.header 8 4
      (u.got < len → ∃ t, exec (.imageEnd h) s = .next t ∧ ans t .imageEnd .state [] ∧ t.ycp.upload = some u) ∧
      let read := (s.putSess place (taken h x .imageEnd)).ioPieces 20 false (splitLines (lineCount len) s.imgBuf len)
      (∀ e, len ≤ u.got → read = .error e → ∃ t, exec (.imageEnd h) s = .next t ∧ ans t .imageEnd .priv [] ∧ t.ycp.upload = some u) ∧
      (∀ a n ps s1 m, len ≤ u.got → read = .ok ((a, n) :: ps, s1) → s1.region a ≠ .regs → s1.holder none a = some m →
        ∃ t, exec (.imageEnd h) s = .next t ∧ t.sent = s.sent ∧ t.ycp.upload = some u ∧ t.ycp.sess.find place = some (taken h x .imageEnd) ∧
          (t.trio m).held = (s.trio m).held ++ [.ycp place h.seq.toNat 0x52 ((a, n) :: ps) []]) ∧
      (∀ ps s1, len ≤ u.got → read = .ok (ps, s1) → (∀ p, p ∈ ps → s1.region p.1 = .dram) → (∃ p, p ∈ ps ∧ s1.badAddr p.1 p.2 ≠ none) →
        ∃ t, exec (.imageEnd h) s = .next t ∧ ans t .imageEnd .integrity [] ∧ t.ycp.upload = some u) ∧
      (∀ ps s1, len ≤ u.got → read = .ok (ps, s1) → (∀ p, p ∈ ps → s1.region p.1 = .dram ∧ s1.badAddr p.1 p.2 = none) →
        let d := ps.flatMap (fun p => bytesFrom s1.byteAt p.1 p.2)
        let c := imageCode u.header d s1
        (c ≠ .ok → ∃ t, exec (.imageEnd h) s = .next t ∧ ans t .imageEnd c [BitVec.ofNat 8 c.num] ∧ t.ycp.upload = none ∧
          t.fld B.ycp YCP.IMG_STAT_CODE = c.num ∧ t.irqPending 458 = true) ∧
        (c = .ok → ∃ t, exec (.imageEnd h) s = .next t ∧ t.ycp.upload = some { u with burn := true, data := d } ∧ t.sent = s.sent))) ∧
    (∀ (u : Upload) (r : YReq) (ok : Bool), s.gated = false → s.ycp.upload = some u → u.burn = true → u.owner = place → 1 ≤ u.target → u.target ≤ 2 →
      s.ycp.sess.cells = [(place, x)] → x.exec = some r → r.cmd = .imageEnd → r.src = none → x.held = [] → x.next < 2 ^ 32 →
      let c := if ok then Code.ok else Code.integrity
      let img := u.header ++ u.data
      ∃ t, exec (.imageFlashComplete ok) s = .next t ∧ t.ycp.upload = none ∧ t.fld B.ycp YCP.IMG_STAT_BUSY = 0 ∧
        t.fld B.ycp YCP.IMG_STAT_CODE = c.num ∧ t.irqPending 458 = true ∧
        t.sent.head? = some (.ycp (ycpPacket x r c [BitVec.ofNat 8 c.num])) ∧
        (ok = true → ∀ i, i < img.length → i < min (s.flashSize (u.target - 1)) 0x8000000 →
          memRead t.mem (0x30000000 + (u.target - 1) * 0x8000000 + i) = img.getD i 0))

/-- R76, R77, R388, R391 to R393: the debug commands of a session with the right, unlocked where they need it; the safety PDU, its
failures and its watchdog. The model's choices: DEBUG_STEP runs one instruction to its end (DEDUCED, log entry 43), one request is executed
at a time (DEDUCED, log entry 60), and no time runs out while the blocks are stopped (log entry 101). -/
def Obligations.YcpDebugAndSafetyRows : Prop :=
  ∀ (s : State) (h : YcpHdr) (place : Nat) (x : Session) (n c th : Byte),
    let may := takesNow h place x (some 7) s
    let off := s.dev.fuses.debugOff
    let ans (t : State) (cmd : YCmd) (code : Code) (d : List Byte) : Prop := answered h place x x cmd code d t
    let core := n.toNat ≤ 12 ∧ c.toNat ≤ 2
    let calm := s.mode = mCalico ∨ s.mode = mJersey
    let held := core ∧ th.toNat ≤ 7 ∧ s.coreHalted n.toNat c.toNat = true
    let tid := dbgThread n.toNat c.toNat th.toNat
    let key := s.tkey tid
    let fails (t : State) (why : Nat) : Prop := t.fld B.ycp YCP.SAFE_STAT_FAIL = why ∧ t.irqPending 460 = true ∧
      t.fld B.ycp YCP.SAFE_FAIL = min (2 ^ 32 - 1) (s.fld B.ycp YCP.SAFE_FAIL + 1) ∧ ∃ a, a ∈ t.raised ∧ a.src.toNat = 409
    (may → s.ycp.lockout = false → off = false → ∃ t d, exec (.debugChal h) s = .next t ∧ d.length = 48 ∧
      answered h place x { x with chal := some d } .debugChal .ok d t) ∧
    (may → off = true → s.ycp.lockout = false → ∃ t, exec (.debugChal h) s = .next t ∧ ans t .debugChal .absent []) ∧
    (takesNow h place x none s → nbit x.rights 7 = false → off = false → s.ycp.lockout = false →
      ∃ t, exec (.debugChal h) s = .next t ∧ ans t .debugChal .priv []) ∧
    (∀ (k g ch : List Byte), may → k.length = 96 → g.length = 96 → off = false → x.chal = some ch →
      (sha384 k = s.dev.fuses.debugKey → Config.ecdsaVerify k (sha384 ch) g = true →
        ∃ t, exec (.debugUnlock h k g) s = .next t ∧ t.irqPending 459 = true ∧
          answered h place x { x with chal := none, unlocked := true } (.debugUnlock k g) .ok [] t) ∧
      (sha384 k ≠ s.dev.fuses.debugKey → ∃ t, exec (.debugUnlock h k g) s = .next t ∧ t.ycp.tries = s.ycp.tries + 1 ∧
        (s.ycp.tries = 3 → t.ycp.lockout = true) ∧
        ∃ code, answered h place x { x with chal := none } (.debugUnlock k g) code [] t ∧ code ≠ .ok)) ∧
    (may → x.unlocked = false → core → calm → s.trioIn n.toNat = true → ∃ t, exec (.debugHalt h n c) s = .next t ∧
      ans t (.debugHalt n c) .priv [] ∧ t.threads = s.threads) ∧
    (may → x.unlocked = true → core → calm → s.trioIn n.toNat = true → ∃ t, exec (.debugHalt h n c) s = .next t ∧
      ans t (.debugHalt n c) .ok [] ∧ (∀ k, k ∈ dbgKeys n.toNat c.toNat s → (t.thread k).halted = true) ∧
      t.flag (B.trio n.toNat) TRIO.STAT_TAINT = true ∧ t.mem = s.mem) ∧
    (may → x.unlocked = true → core → s.coreHalted n.toNat c.toNat = true → ∃ t, exec (.debugResume h n c) s = .next t ∧
      ans t (.debugResume n c) .ok [] ∧ (∀ k, k ∈ dbgKeys n.toNat c.toNat s → (t.thread k).halted = false) ∧ t.mem = s.mem) ∧
    (may → x.unlocked = true → core → s.coreHalted n.toNat c.toNat = false → ∃ t, exec (.debugResume h n c) s = .next t ∧
      ans t (.debugResume n c) .state [] ∧ t.threads = s.threads) ∧
    (may → x.unlocked = true → held →
      let s1 := s.putSess place (taken h x (.debugStep n c th))
      let go (b : Bool) (y : State) : State := y.setThread key { y.thread key with halted := b }
      let th0 := s.thread key
      let s2 := go true (dbgSettle tid 1024 (if th0.st = .running
        then coreRun (go false s1) tid key { th0 with halted := false } (dbgWord tid key th0 s1) [] none else go false s1))
      s2.ycp.sess = s1.ycp.sess → ∃ t, exec (.debugStep h n c th) s = .next t ∧
        ans t (.debugStep n c th) .ok (leBytes 8 (s2.thread key).pc.toNat) ∧ t.threads = s2.threads ∧ t.mem = s2.mem) ∧
    (∀ g : BitVec 16, may → x.unlocked = true → held → g.toNat < 32 →
      (∃ t, exec (.debugRegRead h n c th g) s = .next t ∧ t.threads = s.threads ∧
        ans t (.debugRegRead n c th g) .ok (leBytes 8 ((s.thread key).reg g.toNat).toNat)) ∧
      (∀ v : W64, calm → ∃ t, exec (.debugRegWrite h n c th g v) s = .next t ∧ ans t (.debugRegWrite n c th g v) .ok [] ∧
        t.thread key = (s.thread key).setReg g.toNat v ∧ t.flag (B.trio n.toNat) TRIO.STAT_TAINT = true ∧ t.mem = s.mem)) ∧
    (∀ g : BitVec 16, may → x.unlocked = true → held → 32 ≤ g.toNat → g.toNat < 0x40 → ∃ t, exec (.debugRegRead h n c th g) s = .next t ∧
      ans t (.debugRegRead n c th g) .range []) ∧
    (∀ (pdu : BitVec 128) (agree : Bool), takesNow h place x (some 8) s → s.flag B.ycp YCP.SAFE_CTL_EN = true →
      let b := leBytes 16 pdu.toNat
      let cnt : W32 := pdu.extractLsb' 32 32
      let good := fieldAt b 12 4 = crc32c (b.take 12) ∧ pdu.extractLsb' 0 32 = s.rd (B.ycp + YCP.SAFE_CONN.off) ∧ bf pdu 65 31 = 0
      ∃ t d, exec (.ycpSafe h pdu agree) s = .next t ∧ ans t (.safe pdu agree) .ok d ∧ t.ycp.ownCnt = s.ycp.ownCnt + 1 ∧
        d.length = 20 ∧ fieldAt d 16 4 = crc32c (d.take 16) ∧ fieldAt d 0 4 = (s.rd (B.ycp + YCP.SAFE_CONN.off)).toNat ∧ fieldAt d 4 4 = s.ycp.ownCnt.toNat ∧
        fieldAt d 8 4 = cnt.toNat ∧
        (¬ good → fails t 1) ∧
        (good → (s.ycp.first = true ∨ cnt = s.ycp.cnt + 1) → t.flag B.ycp YCP.SAFE_STAT_ARMED = true ∧
          t.rd (B.ycp + YCP.SAFE_CNT.off) = cnt ∧ t.ycp.cnt = cnt ∧ t.ycp.first = false) ∧
        (good → s.ycp.first = false → cnt ≠ s.ycp.cnt + 1 → cnt ≠ s.ycp.cnt → fails t 2) ∧
        (good → pdu.getLsbD 64 = true → ∃ a, a ∈ t.raised ∧ a.src.toNat = 410) ∧
        (agree = false → ∃ a, a ∈ t.raised ∧ a.src.toNat = 411)) ∧
    (∀ (pdu : BitVec 128) (agree : Bool), takesNow h place x (some 8) s → s.flag B.ycp YCP.SAFE_CTL_EN = false →
      ∃ t, exec (.ycpSafe h pdu agree) s = .next t ∧ ans t (.safe pdu agree) .state [] ∧ t.regs = s.regs) ∧
    (s.gated = false → s.flag B.ycp YCP.SAFE_CTL_EN = true → ∃ t, exec .safeWatchdog s = .next t ∧ fails t 3 ∧ t.ycp = s.ycp)

/-! ### Fault collector -/

/-- R403 to R405, R410 to R421, R433, R435: what a cycle with one source leaves in the fault word, the record, the counters, and what each
severity does; a condition that holds asserts nothing more; copies of the collector that differ; the stop by software, the record and the
fault word cleared; the entry into Felt and the recovery entry. The registers of both copies are kept once (DESIGN CHOICE, log entry 91).
-/
def Obligations.CollectorRows : Prop :=
  ∀ (s : State) (w : Writer),
    let runs (r : Res) (p : State → Prop) : Prop := ∃ t, r = .next t ∧ p t
    let rec_ (t : State) (f : Fld) : Nat := t.fld B.recd f
    (∀ (a : Assertion) (d : Nat × Nat), let n := a.src.toNat
      collCalm s → sevOf n = some d → (srcIsCond n = false ∨ n ∉ s.dev.conds) →
      (runs (exec (.faultSourceAssert [a]) s) (fun t => onlyLive s t n ∧ t.raised = [] ∧ (srcIsCond n = true → n ∈ t.dev.conds))) ∧
      (s.sev n = 0 → rec_ s REC.REC_INFO_VALID = 0 → runs (exec (.faultSourceAssert [a]) s) (fun t =>
        t.fld B.coll COLL.LOG_CNT = (s.fld B.coll COLL.LOG_CNT + 1) % 2 ^ 32 ∧ ∀ o, o < 4096 → t.rd (B.recd + o) = s.rd (B.recd + o))) ∧
      (1 ≤ s.sev n → rec_ s REC.REC_INFO_VALID = 0 → runs (exec (.faultSourceAssert [a]) s) (fun t =>
        rec_ t REC.REC_INFO_SOURCE = n ∧ rec_ t REC.REC_INFO_SEV = s.sev n ∧ rec_ t REC.REC_INFO_VALID = 1 ∧
        rec_ t REC.REC_INFO_ADDR_VALID = b2n a.addr.isSome ∧ t.rd (B.recd + REC.REC_DETAIL.off) = a.detail ∧
        (∀ x, a.addr = some x → t.rd (B.recd + REC.REC_MASTER.off) = a.master ∧
          rec_ t REC.REC_ADDR_LO + rec_ t REC.REC_ADDR_HI * 2 ^ 32 = x.toNat) ∧
        (s.dev.rootLost = false → t.rd64 (B.recd + REC.REC_T_LO.off) = s.now) ∧ rec_ t REC.REC_MERGE = 0 ∧
        rec_ t REC.REC_CNT = min (2 ^ 32 - 1) (rec_ s REC.REC_CNT + 1) ∧ t.irqPending 496 = true)) ∧
      (rec_ s REC.REC_INFO_VALID = 1 → runs (exec (.faultSourceAssert [a]) s) (fun t => rec_ t REC.REC_INFO_SOURCE = rec_ s REC.REC_INFO_SOURCE ∧
        rec_ t REC.REC_MERGE_LAST = n ∧ rec_ t REC.REC_MERGE_COUNT = min 65535 (rec_ s REC.REC_MERGE_COUNT + 1) ∧
        t.irqPending 497 = true)) ∧
      (2 ≤ s.sev n → runs (exec (.faultSourceAssert [a]) s) (fun t => t.irqPending 498 = true)) ∧
      (s.sev n = 2 → runs (exec (.faultSourceAssert [a]) s) (fun t => t.flag B.coll COLL.STAT_DEGRADED = true)) ∧
      (s.sev n = 3 → runs (exec (.faultSourceAssert [a]) s) (fun t => t.ssLatched = true ∧ t.stopDue = true ∧
        t.flag B.coll COLL.STAT_FAULT_RUN = false ∧ t.mode = s.mode ∧
        ∀ p, p < 8 → (s.stoCfg p COLL.STO_CFG_MODE = 0 → t.stoRun p = false) ∧
          (s.stoCfg p COLL.STO_CFG_MODE ≠ 0 → s.stoRun p = true → t.stoRun p = true ∧ t.ss1Run p = true)))) ∧
    (∀ (a : Assertion), let n := a.src.toNat
      collCalm s → ((srcIsCond n = true ∧ n ∈ s.dev.conds) ∨ sevOf n = none) →
      runs (exec (.faultSourceAssert [a]) s) (fun t => (∀ m, m < 512 → t.live m = s.live m) ∧ ∀ o, o < 4096 → t.rd (B.recd + o) = s.rd (B.recd + o))) ∧
    (∀ (a b : Assertion), collCalm s → rec_ s REC.REC_INFO_VALID = 0 → srcIsCond a.src.toNat = false → srcIsCond b.src.toNat = false →
      (sevOf a.src.toNat).isSome = true → (sevOf b.src.toNat).isSome = true → 1 ≤ s.sev a.src.toNat →
      (s.sev b.src.toNat < s.sev a.src.toNat ∨ (s.sev b.src.toNat = s.sev a.src.toNat ∧ a.src.toNat < b.src.toNat)) →
      runs (exec (.faultSourceAssert [b, a]) s) (fun t => rec_ t REC.REC_INFO_SOURCE = a.src.toNat ∧
        rec_ t REC.REC_MERGE_LAST = b.src.toNat ∧ rec_ t REC.REC_MERGE_COUNT = 1)) ∧
    (∀ v : W32, mayWrite w 0x010 s → collCalm s → (v.toNat = 0xA5 → runs (exec (.swStop w v) s) (fun t => onlyLive s t 9)) ∧
      (v.toNat < 256 → v.toNat ≠ 0xA5 → runs (exec (.swStop w v) s) (fun t => t.fld (page 0x010) PG.WSTAT_CODE = Code.key.num ∧
        ∀ m, m < 512 → t.live m = s.live m))) ∧
    (mayWrite w 0x012 s → (rec_ s REC.REC_INFO_VALID = 1 → runs (exec (.recClose w 1) s) (fun t => rec_ t REC.REC_INFO_VALID = 0 ∧
        rec_ t REC.REC_INFO_SOURCE = rec_ s REC.REC_INFO_SOURCE ∧ rec_ t REC.REC_CNT = rec_ s REC.REC_CNT)) ∧
      (rec_ s REC.REC_INFO_VALID = 0 → runs (exec (.recClose w 1) s) (fun t => t.fld (page 0x012) PG.WSTAT_CODE = Code.state.num))) ∧
    (∀ (k : Fin 16) (v : W32), mayWrite w 0x011 s → runs (exec (.fswLiveClear w k v) s) (fun t =>
      (∀ b, b < 32 → t.live (32 * k.val + b) = (s.live (32 * k.val + b) && (!v.getLsbD b || s.dev.conds.contains (32 * k.val + b)))) ∧
      (∀ m, m < 512 → m / 32 ≠ k.val → t.live m = s.live m) ∧ t.ssLatched = t.anyLive 3 ∧ t.dev.conds = s.dev.conds ∧
      t.rd (page 0x011 + PG.WSTAT.off) = s.rd (page 0x011 + PG.WSTAT.off) ∧ ∀ p, p < 8 → t.stoRun p = s.stoRun p)) ∧
    (collCalm s → runs (exec .faultReadbackMismatch s) (fun t => onlyLive s t 7)) ∧
    (s.coll ≠ s.coll2 → runs (exec .faultReadbackMismatch s) (fun t => t.live 5 = true ∧ t.live 7 = true)) ∧
    (collCalm s → 11 ∉ s.dev.conds → runs (exec .junctionOvertemp s) (fun t => onlyLive s t 11 ∧ 11 ∈ t.dev.conds)) ∧
    (∀ n : BitVec 9, n ≠ 0 → n.toNat < 416 → runs (exec (.conditionCeased n) s) (fun t =>
      t = { s with dev := { s.dev with conds := s.dev.conds.filter (· != n.toNat) } })) ∧
    (s.stopDue = true → s.mode ≠ mVelvet → s.mode ≠ mFelt → s.ycp.sess = {} → runs (exec .feltEntry s) (fun t =>
      t.mode = mFelt ∧ t.fld B.sys SYS.MODE_PREV = s.mode ∧ t.stopDue = false ∧ t.dev.trans = none ∧
      (∀ q, s.dev.trans = some q → t.fld B.sys SYS.MODE_RES_ABANDONED = 1) ∧
      (s.dev.phase = .running → t.bothColl (·.recover) = true ∧ t.irqPending 499 = true) ∧ (s.dev.phase ≠ .running → t.dev.phase = .felt))) ∧
    (let t : ThreadId := ⟨0, 0, 0⟩
      let th := s.thread (s.tkey t)
      s.bothColl (·.recover) = true → s.mode = mFelt → s.flag (B.trio 0) TRIO.STAT_CHANGING = false → th.st = .stopped →
      exec .recoveryEntry s = .next (enterRing ((s.modColl (fun c => { c with recover := false })).setThread (s.tkey t) th.awake) t
        (s.tkey t) th.awake ⟨0, 0x80, 0, 499, th.pc, false, false⟩))

/-- R423 to R429: the demand and the fault of a safety input, test pulses, the STO pairs with their acknowledge, pulses, read-back and
the end of an SS1. -/
def Obligations.SafetyFunctionRows : Prop :=
  ∀ (s : State) (w : Writer) (i : Fin 16) (n : Fin 8),
    let runs (r : Res) (p : State → Prop) : Prop := ∃ t, r = .next t ∧ p t
    let func := s.siCfg i.val COLL.SI_CFG_FUNC
    let pulses := s.siCfg i.val COLL.SI_CFG_TP_EN = 1
    let x := s.safeIn i.val
    (∀ rawA rawB, func ≠ 0 → s.siDemand i.val = false → 416 + i.val ∉ s.dev.conds →
      runs (exec (.safetyInputAccept i false false rawA rawB) s) (fun t => t.siDemand i.val = true ∧ t.live (416 + i.val) = true ∧
        416 + i.val ∈ t.dev.conds ∧ t.irqPending (512 + i.val) = true ∧
        (func = 1 → nbit (s.siCfg i.val COLL.SI_CFG_PAIRS) n.val = true → s.stoCfg n.val COLL.STO_CFG_MODE = 0 → s.ss1Run n.val = false →
          t.stoRun n.val = false))) ∧
    (∀ rawA rawB, s.siDemand i.val = true → x.lvB = decide (s.siCfg i.val COLL.SI_CFG_ANTIVALENT ≠ 1) →
      runs (exec (.safetyInputAccept i false true rawA rawB) s) (fun t => t.siDemand i.val = false ∧ 416 + i.val ∉ t.dev.conds ∧
        (s.live (416 + i.val) = true → t.live (416 + i.val) = true))) ∧
    (func ≠ 0 → (s.siShow i.val).1 ≠ (s.siShow i.val).2 → s.siFault i.val = false → 432 + i.val ∉ s.dev.conds →
      runs (exec (.safetyDiscrepancy i) s) (fun t => t.siFault i.val = true ∧ t.live (432 + i.val) = true)) ∧
    (∀ k : Fin 4, nbit (s.fld B.coll COLL.SI_TP_EN) k.val = true → runs (exec (.testPulse k) s) (fun t =>
      t.sent = .tpo k.val (s.fld B.coll COLL.SI_TP_WIDTH) :: s.sent ∧ t.regs = s.regs ∧
      (func ≠ 0 → pulses → s.siDemand i.val = false → s.siCfg i.val COLL.SI_CFG_TPO_A = k.val → (t.safeIn i.val).waitA = true))) ∧
    (∀ seenB, s.siDemand i.val = false → x.waitA = true → s.siFault i.val = false → 432 + i.val ∉ s.dev.conds →
      runs (exec (.testPulseCheck i false seenB) s) (fun t => t.siFault i.val = true ∧ t.live (432 + i.val) = true ∧
        (t.safeIn i.val).waitA = false)) ∧
    (s.siDemand i.val = false → s.siFault i.val = true → x.clear = true → x.waitA = true → x.waitB = true →
      runs (exec (.testPulseCheck i true true) s) (fun t => t.siFault i.val = false ∧ 432 + i.val ∉ t.dev.conds)) ∧
    (s.flag B.coll COLL.STO_TP_EN = true → s.stoNextPair = some n.val →
      (runs (exec (.stoTestPulse true) s) (fun t => t.sent = .stoPulse n.val (s.fld B.coll COLL.STO_TP_WIDTH) :: s.sent ∧
        t.coll.stoNext = (n.val + 1) % 8 ∧ t.regs = s.regs)) ∧
      (448 + n.val ∉ s.dev.conds → runs (exec (.stoTestPulse false) s) (fun t => t.live (448 + n.val) = true))) ∧
    (∀ a b, ¬ (a = s.stoRun n.val ∧ b = !s.stoRun n.val) → 448 + n.val ∉ s.dev.conds →
      runs (exec (.stoReadbackMismatch n a b) s) (fun t => t.live (448 + n.val) = true)) ∧
    (exec (.stoReadbackMismatch n (s.stoRun n.val) (!s.stoRun n.val)) s = .next s) ∧
    (s.ss1Run n.val = true → s.stoRun n.val = true → runs (exec (.ss1DelayEnd n) s) (fun t => t.stoRun n.val = false ∧
      t.ss1Run n.val = false ∧ t.irqPending 501 = true ∧
      (s.stoCfg n.val COLL.STO_CFG_MODE = 2 → s.ss1Slow n.val = false → t.live 460 = true))) ∧
    (∀ v : W32, admits w (B.coll + 0x048) v.toNat s → runs (exec (.stoAck w v) s) (fun t =>
      t.stoRun n.val = (s.stoRun n.val || v.getLsbD n.val) ∧ ∀ m, m < 512 → t.live m = s.live m)) ∧
    (∀ v : W32, mayWrite w 0x010 s → v.toNat < 256 → (s.runMode = false ∨ (v.getLsbD n.val = true ∧
      (s.stoCfg n.val COLL.STO_CFG_RUN_EN = 0 ∨ s.ss1Run n.val = true ∨ nbit s.siStops n.val = true))) →
      runs (exec (.stoAck w v) s) (fun t => t.fld (page 0x010) PG.WSTAT_CODE = Code.state.num ∧ t.stoRun n.val = s.stoRun n.val))

/-! ### Self-test and margin planner -/

/-- R443 to R446, R455 to R461: slices of the periodic self-test, the ageing monitors, the temperature bins, what the planner decides
and computes, its registers, and the burn of a security version. The model's choices: of more than 16 words written to LOAD_DATA the last 16
count (log entry 34), hours are truncated (log entry 58), and VSET_REQ after the AVSBus fault is stored alone (log entry 96). -/
def Obligations.SelfTestRows : Prop :=
  ∀ (s : State) (w : Writer) (u : BistUnit),
    let runs (r : Res) (p : State → Prop) : Prop := ∃ t, r = .next t ∧ p t
    let m := B.margin
    let unit (t : State) (f : Fld) : Nat := t.fld B.bist (unitFld (bistNum u) f)
    let one (t : State) (n : Nat) : Prop := ∃ a, t.raised = s.raised ++ [a] ∧ a.src.toNat = n
    let raise_ := s.slack < s.fld m MARGIN.THRESH_RAISE_PS
    let volts := s.flag m MARGIN.CTL_VOLT_EN = true ∧ s.dev.avsStop = false
    let auto := s.mode ≠ mVelvet ∧ s.flag m MARGIN.CTL_AUTO = true
    (s.pgRunning 0x340 = true → 2 ≤ s.mode → s.mode ≤ 5 → s.sliceOk u = true → runs (exec (.bistSliceStart u) s) (fun t =>
      t.inTest (bistNum u) = true ∧ t.flag B.bist BIST.PER_STAT_ACTIVE = true ∧
      ∀ l, u = .lane l → t.laneIn l.val = false ∧ t.dev.laneNext = (l.val + 1) % 4)) ∧
    ((s.pgRunning 0x340 = false ∨ s.mode < 2 ∨ 5 < s.mode ∨ s.sliceOk u = false) → exec (.bistSliceStart u) s = .next s) ∧
    (s.inTest (bistNum u) = true → runs (exec (.bistSliceEnd u true) s) (fun t => t.inTest (bistNum u) = false ∧
      t.fld B.bist BIST.SLICE_CNT = (s.fld B.bist BIST.SLICE_CNT + 1) % 2 ^ 32 ∧
      unit t BIST.UNIT_NEXT = (unit s BIST.UNIT_NEXT + 1) % passLen u ∧
      ((unit s BIST.UNIT_NEXT + 1) % passLen u = 0 → unit t BIST.UNIT_PASSED = 1 ∧
        unit t BIST.UNIT_PASSES = min 65535 (unit s BIST.UNIT_PASSES + 1)) ∧
      t.fld B.bist BIST.FAIL_CNT = s.fld B.bist BIST.FAIL_CNT)) ∧
    (s.inTest (bistNum u) = true → runs (exec (.bistSliceEnd u false) s) (fun t => t.inTest (bistNum u) = false ∧
      t.fld B.bist BIST.FAIL_CNT = min (2 ^ 32 - 1) (s.fld B.bist BIST.FAIL_CNT + 1) ∧ t.fld B.bist BIST.LAST_FAIL_UNIT = bistNum u ∧
      t.fld B.bist BIST.LAST_FAIL_SLICE = unit s BIST.UNIT_NEXT ∧ t.rd64 (B.bist + BIST.LAST_FAIL_T_LO.off) = s.now ∧
      unit t BIST.UNIT_FAILED = 1 ∧ t.irqPending 528 = true ∧ ∃ a, a ∈ t.raised ∧ a.src.toNat = 464)) ∧
    (∀ a b : List (BitVec 16), s.gated = false → a.length = 16 → b.length = 16 →
      let low (i : Nat) : Int := min (a.getD i 0).toInt (b.getD i 0).toInt
      let bad := (List.range 16).filter (fun i => decide (8 < ((a.getD i 0).toInt - (b.getD i 0).toInt).natAbs))
      runs (exec (.monitorMeasure a b) s) (fun t => let k := t.fld m MARGIN.SLACK_MON
        t.slack = low k ∧ (∀ i, i < 16 → low k ≤ low i) ∧ (∀ i, i < k → low k < low i) ∧
        t.raised.length = s.raised.length + bad.length ∧ (bad ≠ [] → t.irqPending 533 = true))) ∧
    (∀ (c : Int) (j : Nat), ((c < 50 ∧ j = 0) ∨ (120 ≤ c ∧ j = 8) ∨ (1 ≤ j ∧ j ≤ 7 ∧ 40 + 10 * (j : Int) ≤ c ∧ c < 50 + 10 * (j : Int))) →
      runs (exec (.tempSample c) s) (fun t =>
        t.rd (m + MARGIN.BIN.off + 4 * j) = s.rd (m + MARGIN.BIN.off + 4 * j) + 1 ∧
        (∀ i, i < 9 → i ≠ j → t.rd (m + MARGIN.BIN.off + 4 * i) = s.rd (m + MARGIN.BIN.off + 4 * i)) ∧
        (c ≤ 115 → 10 ∉ t.dev.conds) ∧ (115 < c → 10 ∉ s.dev.conds → t.live 10 = true))) ∧
    (s.mode = mVelvet → exec .marginEvaluate s = .next s ∧ exec .marginYears s = .next s) ∧
    (auto → raise_ → volts → s.volt < s.vMax → runs (exec .marginEvaluate s) (fun t => t.volt = s.volt + 5 ∧
      t.sent = .avs (s.volt + 5) :: s.sent ∧ one t 467 ∧ t.irqPending 530 = true ∧ t.divNow = s.divNow ∧ t.dev.quiet = 0)) ∧
    (auto → raise_ → (¬ volts ∨ s.vMax ≤ s.volt) → s.flag m MARGIN.CTL_DIV_EN = true → s.divNow < 10 → runs (exec .marginEvaluate s) (fun t =>
      t.divNow = s.divNow + 1 ∧ t.volt = s.volt ∧ one t 468 ∧ t.irqPending 531 = true)) ∧
    (auto → ¬ raise_ → s.fld m MARGIN.THRESH_LOWER_PS < s.slack → volts → s.vMin < s.volt →
      (s.dev.quiet = 999 → runs (exec .marginEvaluate s) (fun t => t.volt = s.volt - 5 ∧ t.dev.quiet = 0 ∧ t.raised = s.raised)) ∧
      (s.dev.quiet ≠ 999 → runs (exec .marginEvaluate s) (fun t => t.volt = s.volt ∧ t.dev.quiet = s.dev.quiet + 1 ∧ t.raised = s.raised))) ∧
    (s.mode ≠ mVelvet → runs (exec .marginEvaluate s) (fun t => t.dev.s0 = some (s.dev.s0.getD s.slackRef) ∧
      (s.flag m MARGIN.CTL_AUTO = false → t.volt = s.volt ∧ t.divNow = s.divNow ∧ t.raised = s.raised))) ∧
    (s.mode ≠ mVelvet → let e := s.eq16; let h := s.powSec
      let last := s.divNow = 10 ∧ s.volt = s.vMax ∧ raise_
      runs (exec .marginYears s) (fun t => t.fld m MARGIN.EQ_HOURS = e / 57600 % 2 ^ 32 ∧ t.fld m MARGIN.POW_HOURS = h / 3600 % 2 ^ 32 ∧
        (last → t.fld m MARGIN.YEARS = 0 ∧
          (0 < s.fld m MARGIN.YEARS_LIM → s.dev.low = false → one t 469 ∧ t.irqPending 532 = true)) ∧
        (∀ loss : Int × Nat, loss = (if e < 57600000 then (4, 1) else ((s.dev.s0.getD s.slackRef - s.slackRef) * 8760 * 57600, e)) →
          (let al := rndRat false (loss.1 * 256) loss.2; 0 ≤ al → al < 65536 → (t.fld m MARGIN.ALOSS : Int) = al) ∧
          (¬ last → 0 < e → 0 < loss.1 →
            let stress : Int × Nat := ((262800 * 57600 - (e : Int)) * 16 * h, 57600 * 8760 * e)
            let head5 : Int := 5 * s.slack + 8 * ((s.vMax : Int) - s.volt) + 1000 * (10 - (s.divNow : Int))
            let y := minRat stress (head5 * loss.2 * 16 * h, (5 * loss.1 * e).toNat)
            let q := rndRat false (y.1 * 256) y.2
            (0 ≤ q → q ≤ 65535 → (t.fld m MARGIN.YEARS : Int) = q) ∧ (65535 < q → t.fld m MARGIN.YEARS = 65535))))) ∧
    (∀ v : W32, admits w (m + MARGIN.VSET_REQ.off) v.toNat s →
      (s.dev.avsStop = false → runs (exec (.vsetReq w v) s) (fun t => t.volt = v.toNat ∧ t.sent = .avs v.toNat :: s.sent)) ∧
      (s.dev.avsStop = true → runs (exec (.vsetReq w v) s) (fun t => t.volt = s.volt ∧ t.sent = s.sent))) ∧
    (∀ v : W32, mayWrite w 0x003 s → let l := s.dev.ageLoad ++ [v]
      runs (exec (.marginLoadData w v) s) (fun t => t = { wakeWaiting s with dev := { s.dev with ageLoad := l.drop (l.length - 16) } })) ∧
    (mayWrite w 0x003 s → let l := s.dev.ageLoad
      let sum := crc32c ((l.take 15).flatMap (fun x => leBytes 4 x.toNat)) = (l.getD 15 0).toNat
      (l.length = 16 → sum → s.flag m MARGIN.STAT_LOADED = false → runs (exec (.marginLoadGo w) s) (fun t =>
        t.flag m MARGIN.STAT_LOADED = true ∧ t.dev.ageLoad = [] ∧ t.dev.s0 = some (l.getD 10 0).toInt ∧
        t.fld m MARGIN.ALOSS = (l.getD 9 0).toNat % 65536 ∧
        ∀ b, b < 9 → t.rd (m + MARGIN.BIN.off + 4 * b) = s.rd (m + MARGIN.BIN.off + 4 * b) + l.getD b 0)) ∧
      (l.length < 16 ∨ s.flag m MARGIN.STAT_LOADED = true → runs (exec (.marginLoadGo w) s) (fun t =>
        t.fld (page 0x003) PG.WSTAT_CODE = Code.state.num ∧ t.dev = s.dev)) ∧
      (l.length = 16 → ¬ sum → s.flag m MARGIN.STAT_LOADED = false → runs (exec (.marginLoadGo w) s) (fun t =>
        t.fld (page 0x003) PG.WSTAT_CODE = Code.integrity.num ∧ t.dev = s.dev))) ∧
    (mayWrite w 0x000 s → s.mode = mCalico → s.dev.burning = none → let v := s.rd (B.sys + SYS.SEC_VER_SET.off)
      s.dev.fuses.minSecVer.toNat < v.toNat → v.toNat ≤ s.imgField 0x00C 4 →
      (runs (exec (.secVerCmd w 0x5A) s) (fun t => t = { wakeWaiting s with dev := { s.dev with burning := some v } })) ∧
      (∀ key : Byte, key ≠ 0x5A → runs (exec (.secVerCmd w key) s) (fun t => t.fld (page 0x000) PG.WSTAT_CODE = Code.key.num ∧
        t.dev = s.dev))) ∧
    (∀ v, s.dev.burning = some v →
      (runs (exec (.secVerBurnDone true) s) (fun t => t.dev.fuses = { s.dev.fuses with minSecVer := v } ∧ t.dev.burning = none ∧
        t.irqPending 534 = true ∧ t.raised = s.raised)) ∧
      (runs (exec (.secVerBurnDone false) s) (fun t => t.dev.fuses = s.dev.fuses ∧ t.dev.burning = none ∧ t.irqPending 534 = true ∧ one t 471)))

/-! ### Page control and boundary scan -/

/-- R473, R474, R477 to R482, R497: EN set and cleared, QUIESCE set and cleared, the end of a page's accepted work, PG_PROT, and what
the boundary-scan instructions shift out, with the boundary register's order and the reset by TRSTn of log entry 117 (PRESUMED). -/
def Obligations.PageAndScanRows : Prop :=
  ∀ (s : State) (w : Writer) (pg : BitVec 12) (k : Kind) (ty n : Nat),
    let p := pg.toNat
    let runs (r : Res) (q : State → Prop) : Prop := ∃ t, r = .next t ∧ q t
    let refused (r : Res) (c : Code) : Prop := runs r (fun t => t.fld (page p) PG.WSTAT_CODE = c.num ∧ t.pgEn p = s.pgEn p ∧
      t.pgEnabled p = s.pgEnabled p ∧ t.flag (page p) PG.CTL_QUIESCE = s.flag (page p) PG.CTL_QUIESCE)
    let quiet (t : State) : Bool := t.flag (page p) PG.STAT_QUIESCED
    (p < 0x400 → pageKind p = some (k, ty, n) → mayWrite w p s →
      (∀ qu, k.enFixed = false → p ≠ 0x10C → s.pgEn p = false → s.pgEnabled p = false → s.pgFaulted p = false → (qu = true → k.qcommon = true) →
        runs (exec (.pgEnSet w pg qu) s) (fun t => t.pgEn p = true ∧ t.pgEnabled p = true ∧ t.flag (page p) PG.CTL_QUIESCE = qu ∧
          quiet t = qu)) ∧
      (k.enFixed = false → p ≠ 0x10C → s.pgEn p = false → s.pgEnabled p = true → s.pgFaulted p = false →
        refused (exec (.pgEnSet w pg false) s) .busy) ∧
      (k.enFixed = false → p ≠ 0x10C → s.pgEn p = true → leaveCodes p s = [] →
        (s.flag (page p) PG.CTL_QUIESCE = false ∨ quiet s = false →
          runs (exec (.pgEnClear w pg) s) (fun t => t.pgEn p = false ∧ t.pgEnabled p = (k != .timer))) ∧
        (s.flag (page p) PG.CTL_QUIESCE = true → quiet s = true →
          runs (exec (.pgEnClear w pg) s) (fun t => t.pgEn p = false ∧ t.pgEnabled p = false ∧ quiet t = true))) ∧
      (k.enFixed = true → refused (exec (.pgEnClear w pg) s) .state) ∧
      (s.pgEn p = true → k.qcommon = true → runs (exec (.pgQuiesceSet w pg) s) (fun t => t.pgEn p = true ∧
        t.flag (page p) PG.CTL_QUIESCE = true ∧ t.rd (page p + PG.STAT.off) = s.rd (page p + PG.STAT.off) ∧ t.mem = s.mem)) ∧
      (s.pgEn p = true → k.qcommon = false → p ≠ 0x10C → refused (exec (.pgQuiesceSet w pg) s) .absent) ∧
      (s.pgEn p = true → p ≠ 0x10C → runs (exec (.pgQuiesceClear w pg) s) (fun t => t.pgEn p = true ∧ t.pgEnabled p = true ∧
        t.flag (page p) PG.CTL_QUIESCE = false ∧ quiet t = false ∧ t.mem = s.mem)) ∧
      (∀ v : W32, v.toNat &&& 0x303 = v.toNat → (p = 0x10C → s.spare ≠ spareInUse) →
        (w.ring.val = 0 → nbits v.toNat 8 2 ≤ nbits v.toNat 0 2 → runs (exec (.pgProtWrite w pg v) s) (fun t =>
          t.rdRing p = nbits v.toNat 0 2 ∧ t.wrRing p = nbits v.toNat 8 2 ∧ ∀ j, j ≠ page p + 0x018 → t.rd j = s.rd j)) ∧
        (nbits v.toNat 0 2 < nbits v.toNat 8 2 → refused (exec (.pgProtWrite w pg v) s) .range) ∧
        (w.ring.val ≠ 0 → nbits v.toNat 8 2 ≤ nbits v.toNat 0 2 → refused (exec (.pgProtWrite w pg v) s) .priv))) ∧
    ((p = 0x220 ∧ (s.inSlice = true ∨ s.seq.loading ≠ none)) ∨ (p = 0x340 ∧ s.flag B.bist BIST.PER_STAT_ACTIVE = true) →
      exec (.drainComplete pg) s = .next s) ∧
    (isTrioPage p = false → isRingPage p = false → isEthPage p = false → (p = 0x220 → s.inSlice = false ∧ s.seq.loading = none) →
      (p = 0x340 → s.flag B.bist BIST.PER_STAT_ACTIVE = false) → s.pgEnabled p = true →
      (s.pgEn p = false → runs (exec (.drainComplete pg) s) (fun t => t.pgEnabled p = false ∧ quiet t = true ∧ t.mem = s.mem)) ∧
      (s.pgEn p = true → s.flag (page p) PG.CTL_QUIESCE = true → runs (exec (.drainComplete pg) s) (fun t => t.pgEnabled p = true ∧
        quiet t = true ∧ t.mem = s.mem))) ∧
    (isTrioPage p = true → s.pgEn p = false → s.pgEnabled p = true → (s.trio (p - 0x100)).commit = [] → (s.trio (p - 0x100)).held = [] →
      (∀ j, j ∈ trioKeys (p - 0x100) → (s.thread j).stopReq = false ∧ (s.thread j).buf = []) →
      runs (exec (.drainComplete pg) s) (fun t => t.pgEnabled p = false ∧ quiet t = true ∧ t.mem = s.mem ∧
        ∀ j, j ∈ trioKeys (p - 0x100) → t.thread j = {})) ∧
    (∀ (ir : TapInstr) (tdi balls : List Bool),
      let sends (out : List Bool) : Prop := runs (exec (.tapOperation ir tdi balls) s) (fun t => t.tap.ir = ir ∧ t.regs = s.regs ∧
        t.mem = s.mem ∧ t.sent = .tdo out :: s.sent)
      (ir = .idcode → sends (((List.range 32).map (nbit 0x1C1605D3) ++ tdi).take tdi.length)) ∧
      ((ir = .bypass ∨ ir = .clamp ∨ (ir = .extest ∧ s.dev.porLow = false)) → sends ((false :: tdi).take tdi.length)) ∧
      ((ir = .samplePreload ∨ (ir = .extest ∧ s.dev.porLow = true)) → let reg := (List.range 192).map (fun i => balls.getD i false) ++ tdi
        sends (reg.take tdi.length) ∧ runs (exec (.tapOperation ir tdi balls) s) (fun t => t.tap.cells = reg.drop tdi.length ∧
          (ir = .extest → ∀ i, t.scanLevel i = if scanOutput i then t.tap.cells[i]? else none))) ∧
      (ir = .trst → exec (.tapOperation ir tdi balls) s = .next { s with tap := { s.tap with ir := .idcode } }))
end

