-- ==== Sys2Proof/Laws/Aau.lean ====
section
/-! SUPPORT. Laws of the angle arithmetic: transformed operands give the transformed result, so that the passes of an AAU without a
fault agree (R291-R293). -/
namespace Sys2Proof.Machine

/-! ### Rounding, clamping and roots under a common factor and a change of sign -/

theorem pos_mul_lt_zero {c : Int} (hc : 0 < c) (n : Int) : c * n < 0 ↔ n < 0 := by
  constructor <;> intro h <;> nlinarith

theorem rndRat_scale (rtz : Bool) {c : Nat} (hc : 0 < c) (n : Int) (d : Nat) : rndRat rtz (c * n) (c * d) = rndRat rtz n d := by
  have h1 : (c * n : Int).natAbs = c * n.natAbs := by rw [Int.natAbs_mul, Int.natAbs_natCast]
  have h2 : (c * n : Int) < 0 ↔ n < 0 := pos_mul_lt_zero (by omega) n
  have e1 (a b : Nat) : c * a < c * b ↔ a < b := Nat.mul_lt_mul_left hc
  simp only [rndRat, h1, h2, Nat.mul_div_mul_left _ _ hc, Nat.mul_mod_mul_left, Nat.mul_left_comm 2 c, e1]

theorem rndRat_neg (rtz : Bool) (n : Int) (d : Nat) : rndRat rtz (-n) d = -rndRat rtz n d := by
  by_cases h : n = 0
  · subst h
    cases rtz <;> simp [rndRat]
  · by_cases k : n < 0
    · have k' : ¬ -n < 0 := by omega
      simp only [rndRat, Int.natAbs_neg, k, k', if_true, if_false, Int.neg_neg]
    · have k' : -n < 0 := by omega
      simp only [rndRat, Int.natAbs_neg, k, k', if_true, if_false]

theorem inexact_scale {c : Nat} (hc : 0 < c) (n : Int) (d : Nat) : inexact (c * n) (c * d) = inexact n d := by
  have e (a : Nat) : (c * a != 0) = (a != 0) := by
    rw [Bool.eq_iff_iff]
    simp only [bne_iff_ne, ne_eq, Nat.mul_eq_zero]
    omega
  simp only [inexact, Int.natAbs_mul, Int.natAbs_natCast, Nat.mul_mod_mul_left, e]

theorem inexact_neg (n : Int) (d : Nat) : inexact (-n) d = inexact n d := by simp only [inexact, Int.natAbs_neg]

theorem clampInt_scale {c : Int} (hc : 0 < c) (a b x : Int) : clampInt (c * a) (c * b) (c * x) = c * clampInt a b x := by
  simp only [clampInt, Int.mul_lt_mul_left hc]
  split
  · rfl
  · split <;> rfl

theorem clampInt_neg {b : Int} (h : 0 ≤ b) (x : Int) : clampInt (-b) b (-x) = -clampInt (-b) b x := by
  simp only [clampInt]
  split <;> split <;> (try split) <;> omega

theorem bandLimit_scale (k : Nat) (x : Int) : bandLimit k (2 ^ k * x) = 2 ^ k * bandLimit 0 x := by
  have h : (2 : Int) ^ (90 + k) = 2 ^ k * 2 ^ 90 := by rw [Int.pow_add, Int.mul_comm]
  simp only [bandLimit, h, Nat.add_zero, ← Int.mul_neg]
  exact clampInt_scale (by positivity) _ _ _

theorem bandLimit_neg (k : Nat) (x : Int) : bandLimit k (-x) = -bandLimit k x := clampInt_neg (by positivity) x

theorem wrapTo_scale (k : Nat) (x : Int) : wrapTo k (2 ^ k * x) = 2 ^ k * wrapTo 0 x := by
  simp only [wrapTo, bandLimit_scale, Nat.add_zero, show (2 : Int) ^ (64 + k) = 2 ^ k * 2 ^ 64 by rw [Int.pow_add, Int.mul_comm]]
  exact Int.mul_emod_mul_of_pos _ _ (by positivity)

theorem rndTo_scale (rtz : Bool) (k : Nat) (n : Int) (d : Nat) : rndTo rtz k (2 ^ k * n) d = 2 ^ k * rndTo rtz 0 n d := by
  have := rndRat_scale rtz (c := 2 ^ k) (by positivity) n d
  push_cast at this
  simp only [rndTo, pow_zero, mul_one]
  rw [Nat.mul_comm d, this, Int.mul_comm]

theorem inexact_pow (k : Nat) (n : Int) (d : Nat) : inexact (2 ^ k * n) (d * 2 ^ k) = inexact n (d * 2 ^ 0) := by
  have := inexact_scale (c := 2 ^ k) (by positivity) n d
  rw [Nat.mul_comm d, Nat.pow_zero, Nat.mul_one, ← this]
  push_cast
  rfl

theorem rndTo_neg (rtz : Bool) (k : Nat) (n : Int) (d : Nat) : rndTo rtz k (-n) d = -rndTo rtz k n d := by
  simp only [rndTo, rndRat_neg, Int.neg_mul]

theorem rootLe_scale {c : Nat} (hc : 0 < c) (n a r q : Nat) : rootLe (c * n) (c * a) (c * c * r) q = rootLe n a r q := by
  have h1 : q * (c * a) ≤ c * n ↔ q * a ≤ n := by
    rw [Nat.mul_left_comm]
    exact Nat.mul_le_mul_left_iff hc
  have h2 : c * n - q * (c * a) = c * (n - q * a) := by rw [Nat.mul_left_comm, ← Nat.mul_sub]
  have h3 : q * q * (c * c * r) ≤ c * (n - q * a) * (c * (n - q * a)) ↔ q * q * r ≤ (n - q * a) * (n - q * a) := by
    rw [show q * q * (c * c * r) = c * c * (q * q * r) by ring, show c * (n - q * a) * (c * (n - q * a)) = c * c * ((n - q * a) * (n - q * a)) by ring]
    exact Nat.mul_le_mul_left_iff (Nat.mul_pos hc hc)
  simp only [rootLe, h1, h2, h3]

theorem rootEq_scale {c : Nat} (hc : 0 < c) (n a r q : Nat) : rootEq (c * n) (c * a) (c * c * r) q = rootEq n a r q := by
  have h1 : q * (c * a) ≤ c * n ↔ q * a ≤ n := by
    rw [Nat.mul_left_comm]
    exact Nat.mul_le_mul_left_iff hc
  have h2 : c * n - q * (c * a) = c * (n - q * a) := by rw [Nat.mul_left_comm, ← Nat.mul_sub]
  have h3 : (q * q * (c * c * r) == c * (n - q * a) * (c * (n - q * a))) = (q * q * r == (n - q * a) * (n - q * a)) := by
    rw [show q * q * (c * c * r) = c * c * (q * q * r) by ring, show c * (n - q * a) * (c * (n - q * a)) = c * c * ((n - q * a) * (n - q * a)) by ring,
      Bool.eq_iff_iff]
    simp only [beq_iff_eq]
    exact Nat.mul_right_inj (by positivity)
  simp only [rootEq, h1, h2, h3]

theorem rootFloor_scale {c : Nat} (hc : 0 < c) (n a r : Nat) : ∀ k q, rootFloor (c * n) (c * a) (c * c * r) k q = rootFloor n a r k q
  | 0, _ => rfl
  | k + 1, q => by simp only [rootFloor, rootLe_scale hc, rootFloor_scale hc n a r k]

/-! ### The passes -/

theorem passDiv_scale (rtz : Bool) (k : Nat) (a b : Int) (s : Nat) :
    passDiv rtz k (2 ^ k * a) b s = { passDiv rtz 0 a b s with val := 2 ^ k * (passDiv rtz 0 a b s).val } := by
  have hp : (0 : Int) < 2 ^ k := by positivity
  have h0 : (2 : Int) ^ (90 + k) = 2 ^ k * 2 ^ 90 := by rw [Int.pow_add, Int.mul_comm]
  unfold passDiv
  by_cases hb : b = 0
  · have h1 : 0 < 2 ^ k * a ↔ 0 < a := by simp
    have h2 : 2 ^ k * a < 0 ↔ a < 0 := pos_mul_lt_zero hp a
    simp only [hb, if_true, h1, h2, h0, Nat.add_zero]
    split
    · rfl
    · split <;> simp
  · have h1 : (if b < 0 then -(2 ^ k * a * 2 ^ s) else 2 ^ k * a * 2 ^ s) = 2 ^ k * (if b < 0 then -(a * 2 ^ s) else a * 2 ^ s) := by
      split <;> ring
    simp only [hb, if_false, h1, rndTo_scale, inexact_pow, bandLimit_scale]

theorem passDiv_neg (rtz : Bool) (a b : Int) (s : Nat) :
    passDiv rtz 0 (-a) b s = { passDiv rtz 0 a b s with val := -(passDiv rtz 0 a b s).val } := by
  unfold passDiv
  by_cases hb : b = 0
  · simp only [hb, if_true]
    rcases Int.lt_trichotomy a 0 with h | h | h
    · rw [if_pos (by omega : 0 < -a), if_neg (by omega), if_pos h]
      simp
    · subst h
      simp
    · rw [if_neg (by omega : ¬ 0 < -a), if_pos (by omega : -a < 0), if_pos h]
  · have h1 : (if b < 0 then -(-a * 2 ^ s) else -a * 2 ^ s) = -(if b < 0 then -(a * 2 ^ s) else a * 2 ^ s) := by split <;> ring
    simp only [hb, if_false, h1, rndTo_neg, inexact_neg, bandLimit_neg]

theorem passPred_scale (rtz : Bool) (k : Nat) (th w a h : Int) :
    passPred rtz k (2 ^ k * th) (2 ^ k * w) (2 ^ k * a) h =
      { passPred rtz 0 th w a h with val := 2 ^ k * (passPred rtz 0 th w a h).val } := by
  have e : 2 ^ k * th * (2 ^ 66 * 5 ^ 18) + 2 ^ k * w * h * (2 ^ 77 * 5 ^ 9) + 2 ^ k * a * h * h * 2 ^ 63 =
    2 ^ k * (th * (2 ^ 66 * 5 ^ 18) + w * h * (2 ^ 77 * 5 ^ 9) + a * h * h * 2 ^ 63) := by ring
  simp only [passPred, e, rndTo_scale, inexact_pow, wrapTo_scale]

theorem passInvpred_scale (rtz : Bool) (k : Nat) (d w a : Int) :
    passInvpred rtz k (2 ^ k * 2 ^ k * d) (2 ^ k * w) a =
      { passInvpred rtz 0 d w a with val := 2 ^ k * (passInvpred rtz 0 d w a).val } := by
  have hp : (0 : Int) < 2 ^ k := by positivity
  have hpp : (0 : Int) < 2 ^ k * 2 ^ k := by positivity
  have hn : (0 : Nat) < 2 ^ k := by positivity
  have hnn : (0 : Nat) < 2 ^ k * 2 ^ k := by positivity
  have d0 : 2 ^ k * 2 ^ k * d = 0 ↔ d = 0 := by simp
  have w0 : 2 ^ k * w = 0 ↔ w = 0 := by simp
  have dn := pos_mul_lt_zero hpp d
  have wn := pos_mul_lt_zero hp w
  have e : 2 ^ k * w * (2 ^ k * w) * 2 ^ 23 + a * (2 ^ k * 2 ^ k * d) = 2 ^ k * 2 ^ k * (w * w * 2 ^ 23 + a * d) := by ring
  have en := pos_mul_lt_zero hpp (w * w * 2 ^ 23 + a * d)
  have n1 : 4 * 5 ^ 9 * (2 ^ k * 2 ^ k * d).natAbs = 2 ^ k * 2 ^ k * (4 * 5 ^ 9 * d.natAbs) := by
    rw [Int.natAbs_mul, Int.natAbs_mul, Int.natAbs_pow]
    simp only [Int.reduceAbs]
    ring
  have n2 : (2 ^ k * w).natAbs * 2 ^ 12 * 2 ^ k = 2 ^ k * 2 ^ k * (w.natAbs * 2 ^ 12 * 2 ^ 0) := by
    rw [Int.natAbs_mul, Int.natAbs_pow]
    simp only [Int.reduceAbs]
    ring
  have n3 : 2 * (2 ^ k * 2 ^ k * (w * w * 2 ^ 23 + a * d)).natAbs * 4 ^ k =
      2 ^ k * 2 ^ k * (2 ^ k * 2 ^ k) * (2 * (w * w * 2 ^ 23 + a * d).natAbs * 4 ^ 0) := by
    rw [Int.natAbs_mul, Int.natAbs_mul, Int.natAbs_pow, show (4 : Nat) ^ k = 2 ^ k * 2 ^ k by rw [← Nat.mul_pow]]
    simp only [Int.reduceAbs]
    ring
  have n4 : 2 * (2 ^ k * 2 ^ k * (4 * 5 ^ 9 * d.natAbs)) = 2 ^ k * 2 ^ k * (2 * (4 * 5 ^ 9 * d.natAbs)) := by ring
  unfold passInvpred
  by_cases h1 : d = 0
  · simp [h1]
  · by_cases h2 : w = 0
    · simp [d0, h1, h2]
    · simp only [d0, h1, w0, h2, if_false, e, en]
      by_cases h3 : w * w * 2 ^ 23 + a * d < 0
      · rw [if_pos h3, if_pos h3, mul_zero]
      · simp only [h3, if_false, n1, n2, n3, n4, rootFloor_scale hnn, rootEq_scale hnn, rootLe_scale hnn, dn, wn]
        rw [Int.mul_comm _ (2 ^ k), bandLimit_scale]
        simp only [pow_zero, mul_one]

theorem passInvpred_neg (rtz : Bool) (d w a : Int) :
    passInvpred rtz 0 d (-w) a = { passInvpred rtz 0 d w a with val := -(passInvpred rtz 0 d w a).val } := by
  unfold passInvpred
  by_cases h1 : d = 0
  · simp [h1]
  · by_cases h2 : w = 0
    · simp [h1, h2]
    · have h2' : ¬ -w = 0 := by omega
      have e : -w * -w * 2 ^ 23 + a * d = w * w * 2 ^ 23 + a * d := by ring
      simp only [h1, h2, h2', if_false, e, Int.natAbs_neg]
      by_cases h3 : w * w * 2 ^ 23 + a * d < 0
      · rw [if_pos h3, if_pos h3, neg_zero]
      · have s : (decide (d < 0) != decide (-w < 0)) = !(decide (d < 0) != decide (w < 0)) := by
          rcases Int.lt_trichotomy w 0 with h | h | h
          · rw [decide_eq_false (by omega : ¬ -w < 0), decide_eq_true h]
            cases decide (d < 0) <;> rfl
          · exact absurd h h2
          · rw [decide_eq_true (by omega : -w < 0), decide_eq_false (by omega : ¬ w < 0)]
            cases decide (d < 0) <;> rfl
        simp only [h3, if_false, s, ← bandLimit_neg]
        cases (decide (d < 0) != decide (w < 0)) <;> simp

theorem passLatm_scale (rtz : Bool) (k : Nat) (base age k1 k2 tn t0 : Int) :
    passLatm rtz k (2 ^ k * base) (2 ^ k * age) k1 k2 tn t0 =
      { passLatm rtz 0 base age k1 k2 tn t0 with val := 2 ^ k * (passLatm rtz 0 base age k1 k2 tn t0).val } := by
  simp only [passLatm, Int.mul_assoc, rndTo_scale, inexact_pow, ← Int.mul_add, bandLimit_scale]

theorem passLatm_neg (rtz : Bool) (base age k1 k2 tn t0 : Int) :
    passLatm rtz 0 (-base) (-age) k1 k2 tn t0 =
      { passLatm rtz 0 base age k1 k2 tn t0 with val := -(passLatm rtz 0 base age k1 k2 tn t0).val } := by
  simp only [passLatm, Int.neg_mul, rndTo_neg, inexact_neg, ← Int.neg_add, bandLimit_neg]

theorem passAgeupd_scale (rtz : Bool) (k : Nat) (age limit m l : Int) (s : Nat) :
    passAgeupd rtz k (2 ^ k * age) (2 ^ k * limit) (2 ^ k * m) (2 ^ k * l) s =
      { passAgeupd rtz 0 age limit m l s with val := 2 ^ k * (passAgeupd rtz 0 age limit m l s).val } := by
  have hp : (0 : Int) < 2 ^ k := by positivity
  have hne : (2 : Int) ^ k ≠ 0 := by positivity
  simp only [passAgeupd, ← Int.mul_sub, rndTo_scale, inexact_pow, ← Int.mul_add, ← Int.mul_neg, clampInt_scale hp, bandLimit_scale, ne_eq,
    Int.mul_eq_mul_left_iff hne]

theorem passAgeupd_neg (rtz : Bool) (age limit m l : Int) (s : Nat) (h : 0 ≤ limit) :
    passAgeupd rtz 0 (-age) limit (-m) (-l) s =
      { passAgeupd rtz 0 age limit m l s with val := -(passAgeupd rtz 0 age limit m l s).val } := by
  have e : -m - -l = -(m - l) := by omega
  simp only [passAgeupd, e, rndTo_neg, inexact_neg, ← Int.neg_add, clampInt_neg h, bandLimit_neg, ne_eq, Int.neg_inj]

/-- The operands whose clamp limit is no negative number: those of every operation (R287). -/
def aauLimit (op : Nat) (x : AauArgs) : Prop := op = 0x12 ∨ 0 ≤ x.a1

/-- Operands multiplied by 2^k give the result multiplied by 2^k, with the same flags. -/
theorem aauPass_shift (op : Nat) (rtz : Bool) (k : Nat) (x : AauArgs) :
    aauPass op rtz k (x.scale op (2 ^ k)) = { aauPass op rtz 0 x with val := 2 ^ k * (aauPass op rtz 0 x).val } := by
  have n0 : ((2 : Int) ^ k).natAbs = (2 : Int) ^ k := by
    rw [Int.natAbs_pow]
    push_cast
    rfl
  unfold AauArgs.scale
  split <;> simp only [aauPass]
  · simp only [← mul_sub, wrapTo_scale]
  · simp only [← mul_add, wrapTo_scale]
  · simp only [← mul_add, bandLimit_scale]
  · simp only [← mul_sub, bandLimit_scale]
  · simp only [← mul_sub, bandLimit_scale]
  · simp only [mul_assoc, rndTo_scale, inexact_pow, bandLimit_scale]
  · simp only [mul_assoc, rndTo_scale, inexact_pow, bandLimit_scale]
  · exact passDiv_scale ..
  · exact passDiv_scale ..
  · exact passPred_scale ..
  · exact passInvpred_scale ..
  · exact passLatm_scale ..
  · rename_i h0 h1 h2 h3 h4 h5 h6 h7 h8 h9 h10 h11 h12
    simp only [n0]
    exact passAgeupd_scale ..

theorem emod_neg_neg (a m : Int) : -(-a % m) % m = a % m := by
  have h : (-(-a % m)) ≡ a [ZMOD m] := by
    have := (Int.mod_modEq (-a) m).neg
    rwa [neg_neg] at this
  exact h

/-- A result that is taken as it is, and one that wraps, under a change of sign. -/
theorem aauCut_neg_plain (op : Nat) (v : Int) : aauCut op (-(-v)) = aauCut op v := by rw [neg_neg]

theorem aauCut_neg_wrap {op : Nat} (h : op = 0x00 ∨ op = 0x01 ∨ op = 0x10) (x : Int) :
    aauCut op (-wrapTo 0 (-x)) = aauCut op (wrapTo 0 x) := by
  simp only [aauCut, h, if_true, wrapTo, bandLimit_neg, Nat.add_zero, emod_neg_neg, Int.emod_emod_of_dvd _ (dvd_refl _)]

/-- Operands with the opposite sign give the result with the opposite sign, modulo 2^64 where it wraps. -/
theorem aauPass_neg (op : Nat) (rtz : Bool) (x : AauArgs) (h : aauLimit op x) :
    ∃ v, aauPass op rtz 0 (x.scale op (-1)) = { aauPass op rtz 0 x with val := v } ∧
      aauCut op (-v) = aauCut op (aauPass op rtz 0 x).val := by
  unfold AauArgs.scale
  split <;> simp only [aauPass, Int.neg_mul, one_mul, neg_neg]
  · exact ⟨_, rfl, by rw [show -x.a - -x.b = -(x.a - x.b) by omega]; exact aauCut_neg_wrap (by simp) _⟩
  · exact ⟨_, rfl, by rw [show -x.a + -x.b = -(x.a + x.b) by omega]; exact aauCut_neg_wrap (by simp) _⟩
  · exact ⟨_, rfl, by rw [show -x.a + -x.b = -(x.a + x.b) by omega, bandLimit_neg, neg_neg]⟩
  · exact ⟨_, rfl, by rw [show -x.a - -x.b = -(x.a - x.b) by omega, bandLimit_neg, neg_neg]⟩
  · exact ⟨_, rfl, by rw [show -x.a - -x.b = -(x.a - x.b) by omega, bandLimit_neg, neg_neg]⟩
  · exact ⟨_, by simp only [rndTo_neg, inexact_neg, bandLimit_neg]; rfl, by rw [neg_neg]⟩
  · exact ⟨_, by simp only [rndTo_neg, inexact_neg, bandLimit_neg]; rfl, by rw [neg_neg]⟩
  · exact ⟨_, passDiv_neg .., by rw [neg_neg]⟩
  · exact ⟨_, passDiv_neg .., by rw [neg_neg]⟩
  · have e : -x.a * (2 ^ 66 * 5 ^ 18) + -x.b * x.b2 * (2 ^ 77 * 5 ^ 9) + -x.b1 * x.b2 * x.b2 * 2 ^ 63 =
      -(x.a * (2 ^ 66 * 5 ^ 18) + x.b * x.b2 * (2 ^ 77 * 5 ^ 9) + x.b1 * x.b2 * x.b2 * 2 ^ 63) := by ring
    simp only [passPred, e, rndTo_neg, inexact_neg]
    exact ⟨_, rfl, aauCut_neg_wrap (by simp) _⟩
  · exact ⟨_, passInvpred_neg .., by rw [neg_neg]⟩
  · exact ⟨_, passLatm_neg .., by rw [neg_neg]⟩
  · rename_i h0 h1 h2 h3 h4 h5 h6 h7 h8 h9 h10 h11 h12
    have hl : 0 ≤ x.a1 := h.resolve_left (fun e => h12 e)
    simp only [Int.natAbs_neg, Int.natAbs_one, Nat.cast_one, one_mul]
    exact ⟨_, passAgeupd_neg _ _ _ _ _ _ hl, by rw [neg_neg]⟩

/-- The passes of an AAU without a fault agree: its result is that of the first pass, and no third one is made. -/
theorem aauChecked_clean (op : Nat) (rtz : Bool) (x : AauArgs) (rot : Fin 6) (h : aauLimit op x) :
    aauChecked op rtz x rot {} = .ok ({ aauPass op rtz 0 x with val := aauCut op (aauPass op rtz 0 x).val }.finish op) false := by
  have back (t : AauXf) : aauBack op rtz x t {} = some { aauPass op rtz 0 x with val := aauCut op (aauPass op rtz 0 x).val } := by
    cases t with
    | neg =>
      obtain ⟨v, e, k⟩ := aauPass_neg op rtz x h
      simp only [aauBack, AauPass.hit, if_true, e, k]
    | shift n =>
      have hp : (2 : Int) ^ n ≠ 0 := by positivity
      simp only [aauBack, AauPass.hit, if_true, aauPass_shift, Int.mul_emod_right, Int.mul_ediv_cancel_left _ hp]
  have hit (q : AauPass) : AauPass.hit {} q = q := if_pos rfl
  have same (q : AauPass) : AauPass.same q q = true := by simp [AauPass.same]
  simp only [aauChecked, hit, back, same, if_true]

/-- The operands that an operation reads have no negative limit. -/
theorem aauArgs_limit (op : Nat) (a a1 b b1 b2 : W64) : aauLimit op (aauArgs op a a1 b b1 b2) := by
  unfold aauLimit aauArgs
  split <;> simp

/-- An operation on the registers it reads, in an AAU without a fault. -/
theorem aauChecked_args (op : Nat) (rtz : Bool) (a a1 b b1 b2 : W64) (rot : Fin 6) :
    aauChecked op rtz (aauArgs op a a1 b b1 b2) rot {} = .ok (aauOp op rtz a a1 b b1 b2) false := by
  rw [aauChecked_clean _ _ _ _ (aauArgs_limit ..)]
  congr 1
  simp only [aauOp]
  generalize aauPass op rtz 0 (aauArgs op a a1 b b1 b2) = q
  unfold AauPass.finish aauCut
  split
  · simp [i64, wrapInt, *]
  · simp [*]

end Sys2Proof.Machine
end

