-- ==== Sys2Proof/Laws/Bits.lean ====
section
/-! SUPPORT. Laws of bit fields: what a field reads after a field is replaced. -/
namespace Sys2Proof.Machine

theorem nbits_testBit (x lo wd i : Nat) : (nbits x lo wd).testBit i = (decide (i < wd) && x.testBit (lo + i)) := by
  unfold nbits
  rw [Nat.testBit_mod_two_pow, Nat.testBit_div_two_pow, Nat.add_comm]

theorem setBits_testBit (x lo wd v i : Nat) :
    (setBits x lo wd v).testBit i = if i < lo then x.testBit i else if i < lo + wd then v.testBit (i - lo) else x.testBit i := by
  have e : setBits x lo wd v = x / 2 ^ (lo + wd) * 2 ^ (lo + wd) + ((v % 2 ^ wd) * 2 ^ lo + x % 2 ^ lo) := by
    unfold setBits; omega
  have h1 : x % 2 ^ lo < 2 ^ lo := Nat.mod_lt _ (Nat.two_pow_pos lo)
  have h2 : (v % 2 ^ wd) * 2 ^ lo + x % 2 ^ lo < 2 ^ (lo + wd) := by
    have h3 : v % 2 ^ wd < 2 ^ wd := Nat.mod_lt _ (Nat.two_pow_pos wd)
    have h4 : (v % 2 ^ wd + 1) * 2 ^ lo ≤ 2 ^ wd * 2 ^ lo := Nat.mul_le_mul_right _ h3
    rw [Nat.pow_add, Nat.mul_comm (2 ^ lo)]
    rw [Nat.add_mul] at h4
    omega
  rw [e, Nat.mul_comm (x / _), Nat.testBit_two_pow_mul_add _ h2, Nat.mul_comm (v % _), Nat.testBit_two_pow_mul_add _ h1]
  split <;> split <;> (try omega) <;> simp_all [Nat.testBit_mod_two_pow, Nat.testBit_div_two_pow]
  omega

/-- A field reads the value it was given, cut to its width. -/
@[simp] theorem nbits_setBits_same (x lo wd v : Nat) : nbits (setBits x lo wd v) lo wd = v % 2 ^ wd := by
  apply Nat.eq_of_testBit_eq
  intro i
  rw [nbits_testBit, setBits_testBit, Nat.testBit_mod_two_pow]
  by_cases h : i < wd
  · simp [h]
  · simp [h]

/-- A field apart from the one replaced reads as before. -/
theorem nbits_setBits_other (x lo wd v lo' wd' : Nat) (h : lo' + wd' ≤ lo ∨ lo + wd ≤ lo') :
    nbits (setBits x lo wd v) lo' wd' = nbits x lo' wd' := by
  apply Nat.eq_of_testBit_eq
  intro i
  rw [nbits_testBit, nbits_testBit, setBits_testBit]
  by_cases h2 : i < wd'
  · rw [if_congr (Iff.rfl) rfl rfl]
    rcases h with h | h
    · rw [if_pos (by omega)]
    · rw [if_neg (by omega), if_neg (by omega)]
  · simp [h2]

theorem setBits_lt {n x lo wd : Nat} (v : Nat) (hx : x < 2 ^ n) (h : lo + wd ≤ n) : setBits x lo wd v < 2 ^ n := by
  apply Nat.lt_pow_two_of_testBit
  intro i hi
  rw [setBits_testBit, if_neg (by omega), if_neg (by omega)]
  exact Nat.testBit_lt_two_pow (Nat.lt_of_lt_of_le hx (Nat.pow_le_pow_right (by omega) hi))

end Sys2Proof.Machine
end

