-- ==== Sys2Proof/Laws/Tab.lean ====
section
/-! SUPPORT. Laws of the sparse tables: read after write, other keys kept, and the canonical form kept. The first two hold of any
list of cells, canonical or not. -/
namespace Sys2Proof.Machine

variable {α : Type}

@[simp] theorem cellFind_cellIns_same (k : Nat) (x : α) (l : List (Nat × α)) : cellFind k (cellIns k x l) = some x := by
  induction l with
  | nil => simp [cellIns, cellFind]
  | cons c t ih =>
    obtain ⟨j, v⟩ := c
    unfold cellIns
    split
    · simp [cellFind]
    · split
      · simp [cellFind]
      · simp only [cellFind]
        rw [if_neg (by omega), ih]

theorem cellFind_cellIns_other {k j : Nat} (h : j ≠ k) (x : α) (l : List (Nat × α)) :
    cellFind j (cellIns k x l) = cellFind j l := by
  induction l with
  | nil => simp [cellIns, cellFind, Ne.symm h]
  | cons c t ih =>
    obtain ⟨i, v⟩ := c
    unfold cellIns
    split
    · simp only [cellFind]
      rw [if_neg (by omega)]
    · split
      · subst_vars
        simp only [cellFind]
        rw [if_neg (by omega), if_neg (by omega)]
      · simp only [cellFind, ih]

@[simp] theorem cellFind_cellDel_same (k : Nat) (l : List (Nat × α)) : cellFind k (cellDel k l) = none := by
  induction l with
  | nil => rfl
  | cons c t ih =>
    obtain ⟨j, v⟩ := c
    unfold cellDel
    split
    · exact ih
    · simp only [cellFind]
      rw [if_neg (by assumption), ih]

theorem cellFind_cellDel_other {k j : Nat} (h : j ≠ k) (l : List (Nat × α)) : cellFind j (cellDel k l) = cellFind j l := by
  induction l with
  | nil => rfl
  | cons c t ih =>
    obtain ⟨i, v⟩ := c
    unfold cellDel
    split
    · subst_vars
      simp only [cellFind, ih]
      rw [if_neg (by omega)]
    · simp only [cellFind, ih]

@[simp] theorem cellGet_cellSet_same [DecidableEq α] (d : Nat → α) (l : List (Nat × α)) (k : Nat) (x : α) :
    cellGet d (cellSet d l k x) k = x := by
  unfold cellGet cellSet
  split
  · rename_i h
    split at h
    · simp at h
    · simpa using h.symm
  · rename_i h
    split at h
    · rename_i e
      exact e.symm
    · simp at h

theorem cellGet_cellSet_other [DecidableEq α] (d : Nat → α) (l : List (Nat × α)) {k j : Nat} (h : j ≠ k) (x : α) :
    cellGet d (cellSet d l k x) j = cellGet d l j := by
  have e : cellFind j (cellSet d l k x) = cellFind j l := by
    unfold cellSet
    split
    · exact cellFind_cellDel_other h l
    · exact cellFind_cellIns_other h x l
  unfold cellGet
  rw [e]

@[simp] theorem Tab.get_set_same [DecidableEq α] (d : Nat → α) (t : Tab α) (k : Nat) (x : α) : (t.set d k x).get d k = x :=
  cellGet_cellSet_same d t.cells k x

theorem Tab.get_set_other [DecidableEq α] (d : Nat → α) (t : Tab α) {k j : Nat} (h : j ≠ k) (x : α) :
    (t.set d k x).get d j = t.get d j := cellGet_cellSet_other d t.cells h x

@[simp] theorem Tab.find_ins_same (t : Tab α) (k : Nat) (x : α) : (t.ins k x).find k = some x := cellFind_cellIns_same k x t.cells

theorem Tab.find_ins_other (t : Tab α) {k j : Nat} (h : j ≠ k) (x : α) : (t.ins k x).find j = t.find j :=
  cellFind_cellIns_other h x t.cells

@[simp] theorem Tab.find_del_same (t : Tab α) (k : Nat) : (t.del k).find k = none := cellFind_cellDel_same k t.cells

theorem Tab.find_del_other (t : Tab α) {k j : Nat} (h : j ≠ k) : (t.del k).find j = t.find j := cellFind_cellDel_other h t.cells

/-! ### The canonical form -/

/-- The least key of a list is above a bound. -/
def cellsAbove (b : Nat) : List (Nat × α) → Prop
  | [] => True
  | (k, _) :: _ => b < k

theorem cellsWf_cons [DecidableEq α] (d : Nat → α) (k : Nat) (v : α) (t : List (Nat × α)) :
    cellsWf d ((k, v) :: t) = true ↔ v ≠ d k ∧ cellsAbove k t ∧ cellsWf d t = true := by
  cases t with
  | nil => simp [cellsWf, cellsAbove]
  | cons c t => simp [cellsWf, cellsAbove, and_assoc]

theorem cellIns_above {b k : Nat} (x : α) {l : List (Nat × α)} (hb : b < k) (h : cellsAbove b l) : cellsAbove b (cellIns k x l) := by
  cases l with
  | nil => simpa [cellIns, cellsAbove] using hb
  | cons c t =>
    obtain ⟨j, v⟩ := c
    simp only [cellsAbove] at h
    unfold cellIns
    split
    · simpa [cellsAbove] using hb
    · split
      · simpa [cellsAbove] using hb
      · simpa [cellsAbove] using h

theorem cellIns_wf [DecidableEq α] (d : Nat → α) {k : Nat} {x : α} (hx : x ≠ d k) :
    ∀ {l : List (Nat × α)}, cellsWf d l = true → cellsWf d (cellIns k x l) = true
  | [], _ => by simpa [cellIns, cellsWf] using hx
  | (j, v) :: t, h => by
    obtain ⟨hv, ha, ht⟩ := (cellsWf_cons d j v t).1 h
    unfold cellIns
    split
    · exact (cellsWf_cons d _ _ _).2 ⟨hx, by simpa [cellsAbove], h⟩
    · split
      · subst_vars
        exact (cellsWf_cons d _ _ _).2 ⟨hx, ha, ht⟩
      · exact (cellsWf_cons d _ _ _).2 ⟨hv, cellIns_above x (by omega) ha, cellIns_wf d hx ht⟩

theorem cellDel_above {b k : Nat} : ∀ {l : List (Nat × α)}, cellsAbove b l → (∀ d : Nat → α, ∀ _ : DecidableEq α, cellsWf d l = true →
    cellsAbove b (cellDel k l))
  | [], _ => fun _ _ _ => trivial
  | (j, v) :: t, h => fun d _ hw => by
    obtain ⟨_, ha, ht⟩ := (cellsWf_cons d j v t).1 hw
    unfold cellDel
    split
    · refine cellDel_above ?_ d _ ht
      cases t with
      | nil => trivial
      | cons c t => simp only [cellsAbove] at *; omega
    · exact h

theorem cellDel_wf [DecidableEq α] (d : Nat → α) {k : Nat} :
    ∀ {l : List (Nat × α)}, cellsWf d l = true → cellsWf d (cellDel k l) = true
  | [], _ => rfl
  | (j, v) :: t, h => by
    obtain ⟨hv, ha, ht⟩ := (cellsWf_cons d j v t).1 h
    unfold cellDel
    split
    · exact cellDel_wf d ht
    · exact (cellsWf_cons d _ _ _).2 ⟨hv, cellDel_above ha d _ ht, cellDel_wf d ht⟩

/-- Writing a cell keeps the canonical form. -/
theorem cellSet_wf [DecidableEq α] (d : Nat → α) (k : Nat) (x : α) {l : List (Nat × α)} (h : cellsWf d l = true) :
    cellsWf d (cellSet d l k x) = true := by
  unfold cellSet
  split
  · exact cellDel_wf d h
  · exact cellIns_wf d (by assumption) h

theorem Tab.set_wf [DecidableEq α] (d : Nat → α) (t : Tab α) (k : Nat) (x : α) (h : t.wf d) : (t.set d k x).wf d :=
  cellSet_wf d k x h

end Sys2Proof.Machine
end

