-- ==== Sys2Proof/Laws/Regs.lean ====
section
/-! SUPPORT. Laws of the page registers: a register, a field and a flag read after a write, whatever else was written between. -/
namespace Sys2Proof.Machine

@[simp] theorem State.rd_wr_same (s : State) (k : Nat) (v : W32) : (s.wr k v).rd k = v := Tab.get_set_same _ _ _ _

theorem State.rd_wr_other (s : State) {k j : Nat} (h : j ≠ k) (v : W32) : (s.wr k v).rd j = s.rd j := Tab.get_set_other _ _ h _

/-- A field reads the value written to it, cut to its width. -/
theorem State.fld_setFld_same (s : State) (b : Nat) (f : Fld) (v : Nat) (h : f.lo + f.wd ≤ 32) :
    (s.setFld b f v).fld b f = v % 2 ^ f.wd := by
  unfold State.fld State.setFld bf
  rw [State.rd_wr_same, BitVec.toNat_ofNat, Nat.mod_eq_of_lt (setBits_lt v (BitVec.isLt _) h), nbits_setBits_same]

/-- A field of another register reads as before. -/
theorem State.fld_setFld_off (s : State) {b b' : Nat} {f f' : Fld} (v : Nat) (h : b' + f'.off ≠ b + f.off) :
    (s.setFld b f v).fld b' f' = s.fld b' f' := by
  unfold State.fld State.setFld
  rw [State.rd_wr_other _ h]

/-- A field of the same register apart from the one written reads as before. -/
theorem State.fld_setFld_apart (s : State) (b : Nat) {f f' : Fld} (v : Nat) (ho : f'.off = f.off) (h : f.lo + f.wd ≤ 32)
    (hd : f'.lo + f'.wd ≤ f.lo ∨ f.lo + f.wd ≤ f'.lo) : (s.setFld b f v).fld b f' = s.fld b f' := by
  unfold State.fld State.setFld bf
  rw [ho, State.rd_wr_same, BitVec.toNat_ofNat, Nat.mod_eq_of_lt (setBits_lt v (BitVec.isLt _) h), nbits_setBits_other _ _ _ _ _ _ hd]

theorem State.fld_wr_same (s : State) (b : Nat) (f : Fld) (v : W32) : (s.wr (b + f.off) v).fld b f = bf v f.lo f.wd := by
  unfold State.fld
  rw [State.rd_wr_same]

theorem State.fld_wr_off (s : State) {b k : Nat} {f : Fld} (v : W32) (h : b + f.off ≠ k) : (s.wr k v).fld b f = s.fld b f := by
  unfold State.fld
  rw [State.rd_wr_other _ h]

theorem State.rd_setFld_off (s : State) {b k : Nat} {f : Fld} (v : Nat) (h : k ≠ b + f.off) : (s.setFld b f v).rd k = s.rd k :=
  State.rd_wr_other s h _

end Sys2Proof.Machine
end

