-- ==== Sys2Proof/Laws/State.lean ====
section
/-! SUPPORT. What each named update of State leaves of every field: one lemma per field per update. -/
namespace Sys2Proof.Machine

variable (s : State)

@[simp] theorem State.wr_pending (k : Nat) (v : W32) : (s.wr k v).pending = s.pending := rfl
@[simp] theorem State.wr_freeCtr (k : Nat) (v : W32) : (s.wr k v).freeCtr = s.freeCtr := rfl
@[simp] theorem State.wr_sent (k : Nat) (v : W32) : (s.wr k v).sent = s.sent := rfl
@[simp] theorem State.wr_now (k : Nat) (v : W32) : (s.wr k v).now = s.now := rfl
@[simp] theorem State.wr_tickFrac (k : Nat) (v : W32) : (s.wr k v).tickFrac = s.tickFrac := rfl
@[simp] theorem State.wr_heldLo (k : Nat) (v : W32) : (s.wr k v).heldLo = s.heldLo := rfl
@[simp] theorem State.wr_snaps (k : Nat) (v : W32) : (s.wr k v).snaps = s.snaps := rfl
@[simp] theorem State.wr_mem (k : Nat) (v : W32) : (s.wr k v).mem = s.mem := rfl
@[simp] theorem State.wr_bad (k : Nat) (v : W32) : (s.wr k v).bad = s.bad := rfl
@[simp] theorem State.wr_raised (k : Nat) (v : W32) : (s.wr k v).raised = s.raised := rfl
@[simp] theorem State.wr_dev (k : Nat) (v : W32) : (s.wr k v).dev = s.dev := rfl
@[simp] theorem State.wr_threads (k : Nat) (v : W32) : (s.wr k v).threads = s.threads := rfl
@[simp] theorem State.wr_trios (k : Nat) (v : W32) : (s.wr k v).trios = s.trios := rfl
@[simp] theorem State.wr_fab (k : Nat) (v : W32) : (s.wr k v).fab = s.fab := rfl
@[simp] theorem State.wr_coll (k : Nat) (v : W32) : (s.wr k v).coll = s.coll := rfl
@[simp] theorem State.wr_coll2 (k : Nat) (v : W32) : (s.wr k v).coll2 = s.coll2 := rfl
@[simp] theorem State.wr_shafts (k : Nat) (v : W32) : (s.wr k v).shafts = s.shafts := rfl
@[simp] theorem State.wr_snapAll (k : Nat) (v : W32) : (s.wr k v).snapAll = s.snapAll := rfl
@[simp] theorem State.wr_eng (k : Nat) (v : W32) : (s.wr k v).eng = s.eng := rfl
@[simp] theorem State.wr_seq (k : Nat) (v : W32) : (s.wr k v).seq = s.seq := rfl
@[simp] theorem State.wr_rings (k : Nat) (v : W32) : (s.wr k v).rings = s.rings := rfl
@[simp] theorem State.wr_timers (k : Nat) (v : W32) : (s.wr k v).timers = s.timers := rfl
@[simp] theorem State.wr_net (k : Nat) (v : W32) : (s.wr k v).net = s.net := rfl
@[simp] theorem State.wr_ycp (k : Nat) (v : W32) : (s.wr k v).ycp = s.ycp := rfl
@[simp] theorem State.wr_tap (k : Nat) (v : W32) : (s.wr k v).tap = s.tap := rfl

@[simp] theorem State.setFld_pending (b : Nat) (f : Fld) (v : Nat) : (s.setFld b f v).pending = s.pending := rfl
@[simp] theorem State.setFld_freeCtr (b : Nat) (f : Fld) (v : Nat) : (s.setFld b f v).freeCtr = s.freeCtr := rfl
@[simp] theorem State.setFld_sent (b : Nat) (f : Fld) (v : Nat) : (s.setFld b f v).sent = s.sent := rfl
@[simp] theorem State.setFld_now (b : Nat) (f : Fld) (v : Nat) : (s.setFld b f v).now = s.now := rfl
@[simp] theorem State.setFld_tickFrac (b : Nat) (f : Fld) (v : Nat) : (s.setFld b f v).tickFrac = s.tickFrac := rfl
@[simp] theorem State.setFld_heldLo (b : Nat) (f : Fld) (v : Nat) : (s.setFld b f v).heldLo = s.heldLo := rfl
@[simp] theorem State.setFld_snaps (b : Nat) (f : Fld) (v : Nat) : (s.setFld b f v).snaps = s.snaps := rfl
@[simp] theorem State.setFld_mem (b : Nat) (f : Fld) (v : Nat) : (s.setFld b f v).mem = s.mem := rfl
@[simp] theorem State.setFld_bad (b : Nat) (f : Fld) (v : Nat) : (s.setFld b f v).bad = s.bad := rfl
@[simp] theorem State.setFld_raised (b : Nat) (f : Fld) (v : Nat) : (s.setFld b f v).raised = s.raised := rfl
@[simp] theorem State.setFld_dev (b : Nat) (f : Fld) (v : Nat) : (s.setFld b f v).dev = s.dev := rfl
@[simp] theorem State.setFld_threads (b : Nat) (f : Fld) (v : Nat) : (s.setFld b f v).threads = s.threads := rfl
@[simp] theorem State.setFld_trios (b : Nat) (f : Fld) (v : Nat) : (s.setFld b f v).trios = s.trios := rfl
@[simp] theorem State.setFld_fab (b : Nat) (f : Fld) (v : Nat) : (s.setFld b f v).fab = s.fab := rfl
@[simp] theorem State.setFld_coll (b : Nat) (f : Fld) (v : Nat) : (s.setFld b f v).coll = s.coll := rfl
@[simp] theorem State.setFld_coll2 (b : Nat) (f : Fld) (v : Nat) : (s.setFld b f v).coll2 = s.coll2 := rfl
@[simp] theorem State.setFld_shafts (b : Nat) (f : Fld) (v : Nat) : (s.setFld b f v).shafts = s.shafts := rfl
@[simp] theorem State.setFld_snapAll (b : Nat) (f : Fld) (v : Nat) : (s.setFld b f v).snapAll = s.snapAll := rfl
@[simp] theorem State.setFld_eng (b : Nat) (f : Fld) (v : Nat) : (s.setFld b f v).eng = s.eng := rfl
@[simp] theorem State.setFld_seq (b : Nat) (f : Fld) (v : Nat) : (s.setFld b f v).seq = s.seq := rfl
@[simp] theorem State.setFld_rings (b : Nat) (f : Fld) (v : Nat) : (s.setFld b f v).rings = s.rings := rfl
@[simp] theorem State.setFld_timers (b : Nat) (f : Fld) (v : Nat) : (s.setFld b f v).timers = s.timers := rfl
@[simp] theorem State.setFld_net (b : Nat) (f : Fld) (v : Nat) : (s.setFld b f v).net = s.net := rfl
@[simp] theorem State.setFld_ycp (b : Nat) (f : Fld) (v : Nat) : (s.setFld b f v).ycp = s.ycp := rfl
@[simp] theorem State.setFld_tap (b : Nat) (f : Fld) (v : Nat) : (s.setFld b f v).tap = s.tap := rfl

@[simp] theorem State.wr64_pending (k : Nat) (v : W64) : (s.wr64 k v).pending = s.pending := rfl
@[simp] theorem State.wr64_freeCtr (k : Nat) (v : W64) : (s.wr64 k v).freeCtr = s.freeCtr := rfl
@[simp] theorem State.wr64_sent (k : Nat) (v : W64) : (s.wr64 k v).sent = s.sent := rfl
@[simp] theorem State.wr64_now (k : Nat) (v : W64) : (s.wr64 k v).now = s.now := rfl
@[simp] theorem State.wr64_tickFrac (k : Nat) (v : W64) : (s.wr64 k v).tickFrac = s.tickFrac := rfl
@[simp] theorem State.wr64_heldLo (k : Nat) (v : W64) : (s.wr64 k v).heldLo = s.heldLo := rfl
@[simp] theorem State.wr64_snaps (k : Nat) (v : W64) : (s.wr64 k v).snaps = s.snaps := rfl
@[simp] theorem State.wr64_mem (k : Nat) (v : W64) : (s.wr64 k v).mem = s.mem := rfl
@[simp] theorem State.wr64_bad (k : Nat) (v : W64) : (s.wr64 k v).bad = s.bad := rfl
@[simp] theorem State.wr64_raised (k : Nat) (v : W64) : (s.wr64 k v).raised = s.raised := rfl
@[simp] theorem State.wr64_dev (k : Nat) (v : W64) : (s.wr64 k v).dev = s.dev := rfl
@[simp] theorem State.wr64_threads (k : Nat) (v : W64) : (s.wr64 k v).threads = s.threads := rfl
@[simp] theorem State.wr64_trios (k : Nat) (v : W64) : (s.wr64 k v).trios = s.trios := rfl
@[simp] theorem State.wr64_fab (k : Nat) (v : W64) : (s.wr64 k v).fab = s.fab := rfl
@[simp] theorem State.wr64_coll (k : Nat) (v : W64) : (s.wr64 k v).coll = s.coll := rfl
@[simp] theorem State.wr64_coll2 (k : Nat) (v : W64) : (s.wr64 k v).coll2 = s.coll2 := rfl
@[simp] theorem State.wr64_shafts (k : Nat) (v : W64) : (s.wr64 k v).shafts = s.shafts := rfl
@[simp] theorem State.wr64_snapAll (k : Nat) (v : W64) : (s.wr64 k v).snapAll = s.snapAll := rfl
@[simp] theorem State.wr64_eng (k : Nat) (v : W64) : (s.wr64 k v).eng = s.eng := rfl
@[simp] theorem State.wr64_seq (k : Nat) (v : W64) : (s.wr64 k v).seq = s.seq := rfl
@[simp] theorem State.wr64_rings (k : Nat) (v : W64) : (s.wr64 k v).rings = s.rings := rfl
@[simp] theorem State.wr64_timers (k : Nat) (v : W64) : (s.wr64 k v).timers = s.timers := rfl
@[simp] theorem State.wr64_net (k : Nat) (v : W64) : (s.wr64 k v).net = s.net := rfl
@[simp] theorem State.wr64_ycp (k : Nat) (v : W64) : (s.wr64 k v).ycp = s.ycp := rfl
@[simp] theorem State.wr64_tap (k : Nat) (v : W64) : (s.wr64 k v).tap = s.tap := rfl

@[simp] theorem State.incSat_pending (b : Nat) (f : Fld) : (s.incSat b f).pending = s.pending := rfl
@[simp] theorem State.incSat_freeCtr (b : Nat) (f : Fld) : (s.incSat b f).freeCtr = s.freeCtr := rfl
@[simp] theorem State.incSat_sent (b : Nat) (f : Fld) : (s.incSat b f).sent = s.sent := rfl
@[simp] theorem State.incSat_now (b : Nat) (f : Fld) : (s.incSat b f).now = s.now := rfl
@[simp] theorem State.incSat_tickFrac (b : Nat) (f : Fld) : (s.incSat b f).tickFrac = s.tickFrac := rfl
@[simp] theorem State.incSat_heldLo (b : Nat) (f : Fld) : (s.incSat b f).heldLo = s.heldLo := rfl
@[simp] theorem State.incSat_snaps (b : Nat) (f : Fld) : (s.incSat b f).snaps = s.snaps := rfl
@[simp] theorem State.incSat_mem (b : Nat) (f : Fld) : (s.incSat b f).mem = s.mem := rfl
@[simp] theorem State.incSat_bad (b : Nat) (f : Fld) : (s.incSat b f).bad = s.bad := rfl
@[simp] theorem State.incSat_raised (b : Nat) (f : Fld) : (s.incSat b f).raised = s.raised := rfl
@[simp] theorem State.incSat_dev (b : Nat) (f : Fld) : (s.incSat b f).dev = s.dev := rfl
@[simp] theorem State.incSat_threads (b : Nat) (f : Fld) : (s.incSat b f).threads = s.threads := rfl
@[simp] theorem State.incSat_trios (b : Nat) (f : Fld) : (s.incSat b f).trios = s.trios := rfl
@[simp] theorem State.incSat_fab (b : Nat) (f : Fld) : (s.incSat b f).fab = s.fab := rfl
@[simp] theorem State.incSat_coll (b : Nat) (f : Fld) : (s.incSat b f).coll = s.coll := rfl
@[simp] theorem State.incSat_coll2 (b : Nat) (f : Fld) : (s.incSat b f).coll2 = s.coll2 := rfl
@[simp] theorem State.incSat_shafts (b : Nat) (f : Fld) : (s.incSat b f).shafts = s.shafts := rfl
@[simp] theorem State.incSat_snapAll (b : Nat) (f : Fld) : (s.incSat b f).snapAll = s.snapAll := rfl
@[simp] theorem State.incSat_eng (b : Nat) (f : Fld) : (s.incSat b f).eng = s.eng := rfl
@[simp] theorem State.incSat_seq (b : Nat) (f : Fld) : (s.incSat b f).seq = s.seq := rfl
@[simp] theorem State.incSat_rings (b : Nat) (f : Fld) : (s.incSat b f).rings = s.rings := rfl
@[simp] theorem State.incSat_timers (b : Nat) (f : Fld) : (s.incSat b f).timers = s.timers := rfl
@[simp] theorem State.incSat_net (b : Nat) (f : Fld) : (s.incSat b f).net = s.net := rfl
@[simp] theorem State.incSat_ycp (b : Nat) (f : Fld) : (s.incSat b f).ycp = s.ycp := rfl
@[simp] theorem State.incSat_tap (b : Nat) (f : Fld) : (s.incSat b f).tap = s.tap := rfl

@[simp] theorem State.incWrap_pending (b : Nat) (f : Fld) : (s.incWrap b f).pending = s.pending := rfl
@[simp] theorem State.incWrap_freeCtr (b : Nat) (f : Fld) : (s.incWrap b f).freeCtr = s.freeCtr := rfl
@[simp] theorem State.incWrap_sent (b : Nat) (f : Fld) : (s.incWrap b f).sent = s.sent := rfl
@[simp] theorem State.incWrap_now (b : Nat) (f : Fld) : (s.incWrap b f).now = s.now := rfl
@[simp] theorem State.incWrap_tickFrac (b : Nat) (f : Fld) : (s.incWrap b f).tickFrac = s.tickFrac := rfl
@[simp] theorem State.incWrap_heldLo (b : Nat) (f : Fld) : (s.incWrap b f).heldLo = s.heldLo := rfl
@[simp] theorem State.incWrap_snaps (b : Nat) (f : Fld) : (s.incWrap b f).snaps = s.snaps := rfl
@[simp] theorem State.incWrap_mem (b : Nat) (f : Fld) : (s.incWrap b f).mem = s.mem := rfl
@[simp] theorem State.incWrap_bad (b : Nat) (f : Fld) : (s.incWrap b f).bad = s.bad := rfl
@[simp] theorem State.incWrap_raised (b : Nat) (f : Fld) : (s.incWrap b f).raised = s.raised := rfl
@[simp] theorem State.incWrap_dev (b : Nat) (f : Fld) : (s.incWrap b f).dev = s.dev := rfl
@[simp] theorem State.incWrap_threads (b : Nat) (f : Fld) : (s.incWrap b f).threads = s.threads := rfl
@[simp] theorem State.incWrap_trios (b : Nat) (f : Fld) : (s.incWrap b f).trios = s.trios := rfl
@[simp] theorem State.incWrap_fab (b : Nat) (f : Fld) : (s.incWrap b f).fab = s.fab := rfl
@[simp] theorem State.incWrap_coll (b : Nat) (f : Fld) : (s.incWrap b f).coll = s.coll := rfl
@[simp] theorem State.incWrap_coll2 (b : Nat) (f : Fld) : (s.incWrap b f).coll2 = s.coll2 := rfl
@[simp] theorem State.incWrap_shafts (b : Nat) (f : Fld) : (s.incWrap b f).shafts = s.shafts := rfl
@[simp] theorem State.incWrap_snapAll (b : Nat) (f : Fld) : (s.incWrap b f).snapAll = s.snapAll := rfl
@[simp] theorem State.incWrap_eng (b : Nat) (f : Fld) : (s.incWrap b f).eng = s.eng := rfl
@[simp] theorem State.incWrap_seq (b : Nat) (f : Fld) : (s.incWrap b f).seq = s.seq := rfl
@[simp] theorem State.incWrap_rings (b : Nat) (f : Fld) : (s.incWrap b f).rings = s.rings := rfl
@[simp] theorem State.incWrap_timers (b : Nat) (f : Fld) : (s.incWrap b f).timers = s.timers := rfl
@[simp] theorem State.incWrap_net (b : Nat) (f : Fld) : (s.incWrap b f).net = s.net := rfl
@[simp] theorem State.incWrap_ycp (b : Nat) (f : Fld) : (s.incWrap b f).ycp = s.ycp := rfl
@[simp] theorem State.incWrap_tap (b : Nat) (f : Fld) : (s.incWrap b f).tap = s.tap := rfl

@[simp] theorem State.irq_pending (n : Nat) : (s.irq n).pending = s.pending := by unfold State.irq; split <;> rfl
@[simp] theorem State.irq_freeCtr (n : Nat) : (s.irq n).freeCtr = s.freeCtr := by unfold State.irq; split <;> rfl
@[simp] theorem State.irq_sent (n : Nat) : (s.irq n).sent = s.sent := by unfold State.irq; split <;> rfl
@[simp] theorem State.irq_now (n : Nat) : (s.irq n).now = s.now := by unfold State.irq; split <;> rfl
@[simp] theorem State.irq_tickFrac (n : Nat) : (s.irq n).tickFrac = s.tickFrac := by unfold State.irq; split <;> rfl
@[simp] theorem State.irq_heldLo (n : Nat) : (s.irq n).heldLo = s.heldLo := by unfold State.irq; split <;> rfl
@[simp] theorem State.irq_snaps (n : Nat) : (s.irq n).snaps = s.snaps := by unfold State.irq; split <;> rfl
@[simp] theorem State.irq_mem (n : Nat) : (s.irq n).mem = s.mem := by unfold State.irq; split <;> rfl
@[simp] theorem State.irq_bad (n : Nat) : (s.irq n).bad = s.bad := by unfold State.irq; split <;> rfl
@[simp] theorem State.irq_raised (n : Nat) : (s.irq n).raised = s.raised := by unfold State.irq; split <;> rfl
@[simp] theorem State.irq_dev (n : Nat) : (s.irq n).dev = s.dev := by unfold State.irq; split <;> rfl
@[simp] theorem State.irq_threads (n : Nat) : (s.irq n).threads = s.threads := by unfold State.irq; split <;> rfl
@[simp] theorem State.irq_trios (n : Nat) : (s.irq n).trios = s.trios := by unfold State.irq; split <;> rfl
@[simp] theorem State.irq_fab (n : Nat) : (s.irq n).fab = s.fab := by unfold State.irq; split <;> rfl
@[simp] theorem State.irq_coll (n : Nat) : (s.irq n).coll = s.coll := by unfold State.irq; split <;> rfl
@[simp] theorem State.irq_coll2 (n : Nat) : (s.irq n).coll2 = s.coll2 := by unfold State.irq; split <;> rfl
@[simp] theorem State.irq_shafts (n : Nat) : (s.irq n).shafts = s.shafts := by unfold State.irq; split <;> rfl
@[simp] theorem State.irq_snapAll (n : Nat) : (s.irq n).snapAll = s.snapAll := by unfold State.irq; split <;> rfl
@[simp] theorem State.irq_eng (n : Nat) : (s.irq n).eng = s.eng := by unfold State.irq; split <;> rfl
@[simp] theorem State.irq_seq (n : Nat) : (s.irq n).seq = s.seq := by unfold State.irq; split <;> rfl
@[simp] theorem State.irq_rings (n : Nat) : (s.irq n).rings = s.rings := by unfold State.irq; split <;> rfl
@[simp] theorem State.irq_timers (n : Nat) : (s.irq n).timers = s.timers := by unfold State.irq; split <;> rfl
@[simp] theorem State.irq_net (n : Nat) : (s.irq n).net = s.net := by unfold State.irq; split <;> rfl
@[simp] theorem State.irq_ycp (n : Nat) : (s.irq n).ycp = s.ycp := by unfold State.irq; split <;> rfl
@[simp] theorem State.irq_tap (n : Nat) : (s.irq n).tap = s.tap := by unfold State.irq; split <;> rfl

@[simp] theorem State.raiseA_pending (a : Assertion) : (s.raiseA a).pending = s.pending := rfl
@[simp] theorem State.raiseA_freeCtr (a : Assertion) : (s.raiseA a).freeCtr = s.freeCtr := rfl
@[simp] theorem State.raiseA_sent (a : Assertion) : (s.raiseA a).sent = s.sent := rfl
@[simp] theorem State.raiseA_now (a : Assertion) : (s.raiseA a).now = s.now := rfl
@[simp] theorem State.raiseA_tickFrac (a : Assertion) : (s.raiseA a).tickFrac = s.tickFrac := rfl
@[simp] theorem State.raiseA_regs (a : Assertion) : (s.raiseA a).regs = s.regs := rfl
@[simp] theorem State.raiseA_heldLo (a : Assertion) : (s.raiseA a).heldLo = s.heldLo := rfl
@[simp] theorem State.raiseA_snaps (a : Assertion) : (s.raiseA a).snaps = s.snaps := rfl
@[simp] theorem State.raiseA_mem (a : Assertion) : (s.raiseA a).mem = s.mem := rfl
@[simp] theorem State.raiseA_bad (a : Assertion) : (s.raiseA a).bad = s.bad := rfl
@[simp] theorem State.raiseA_dev (a : Assertion) : (s.raiseA a).dev = s.dev := rfl
@[simp] theorem State.raiseA_threads (a : Assertion) : (s.raiseA a).threads = s.threads := rfl
@[simp] theorem State.raiseA_trios (a : Assertion) : (s.raiseA a).trios = s.trios := rfl
@[simp] theorem State.raiseA_fab (a : Assertion) : (s.raiseA a).fab = s.fab := rfl
@[simp] theorem State.raiseA_coll (a : Assertion) : (s.raiseA a).coll = s.coll := rfl
@[simp] theorem State.raiseA_coll2 (a : Assertion) : (s.raiseA a).coll2 = s.coll2 := rfl
@[simp] theorem State.raiseA_shafts (a : Assertion) : (s.raiseA a).shafts = s.shafts := rfl
@[simp] theorem State.raiseA_snapAll (a : Assertion) : (s.raiseA a).snapAll = s.snapAll := rfl
@[simp] theorem State.raiseA_eng (a : Assertion) : (s.raiseA a).eng = s.eng := rfl
@[simp] theorem State.raiseA_seq (a : Assertion) : (s.raiseA a).seq = s.seq := rfl
@[simp] theorem State.raiseA_rings (a : Assertion) : (s.raiseA a).rings = s.rings := rfl
@[simp] theorem State.raiseA_timers (a : Assertion) : (s.raiseA a).timers = s.timers := rfl
@[simp] theorem State.raiseA_net (a : Assertion) : (s.raiseA a).net = s.net := rfl
@[simp] theorem State.raiseA_ycp (a : Assertion) : (s.raiseA a).ycp = s.ycp := rfl
@[simp] theorem State.raiseA_tap (a : Assertion) : (s.raiseA a).tap = s.tap := rfl

@[simp] theorem State.raise_pending (n : Nat) : (s.raise n).pending = s.pending := rfl
@[simp] theorem State.raise_freeCtr (n : Nat) : (s.raise n).freeCtr = s.freeCtr := rfl
@[simp] theorem State.raise_sent (n : Nat) : (s.raise n).sent = s.sent := rfl
@[simp] theorem State.raise_now (n : Nat) : (s.raise n).now = s.now := rfl
@[simp] theorem State.raise_tickFrac (n : Nat) : (s.raise n).tickFrac = s.tickFrac := rfl
@[simp] theorem State.raise_regs (n : Nat) : (s.raise n).regs = s.regs := rfl
@[simp] theorem State.raise_heldLo (n : Nat) : (s.raise n).heldLo = s.heldLo := rfl
@[simp] theorem State.raise_snaps (n : Nat) : (s.raise n).snaps = s.snaps := rfl
@[simp] theorem State.raise_mem (n : Nat) : (s.raise n).mem = s.mem := rfl
@[simp] theorem State.raise_bad (n : Nat) : (s.raise n).bad = s.bad := rfl
@[simp] theorem State.raise_dev (n : Nat) : (s.raise n).dev = s.dev := rfl
@[simp] theorem State.raise_threads (n : Nat) : (s.raise n).threads = s.threads := rfl
@[simp] theorem State.raise_trios (n : Nat) : (s.raise n).trios = s.trios := rfl
@[simp] theorem State.raise_fab (n : Nat) : (s.raise n).fab = s.fab := rfl
@[simp] theorem State.raise_coll (n : Nat) : (s.raise n).coll = s.coll := rfl
@[simp] theorem State.raise_coll2 (n : Nat) : (s.raise n).coll2 = s.coll2 := rfl
@[simp] theorem State.raise_shafts (n : Nat) : (s.raise n).shafts = s.shafts := rfl
@[simp] theorem State.raise_snapAll (n : Nat) : (s.raise n).snapAll = s.snapAll := rfl
@[simp] theorem State.raise_eng (n : Nat) : (s.raise n).eng = s.eng := rfl
@[simp] theorem State.raise_seq (n : Nat) : (s.raise n).seq = s.seq := rfl
@[simp] theorem State.raise_rings (n : Nat) : (s.raise n).rings = s.rings := rfl
@[simp] theorem State.raise_timers (n : Nat) : (s.raise n).timers = s.timers := rfl
@[simp] theorem State.raise_net (n : Nat) : (s.raise n).net = s.net := rfl
@[simp] theorem State.raise_ycp (n : Nat) : (s.raise n).ycp = s.ycp := rfl
@[simp] theorem State.raise_tap (n : Nat) : (s.raise n).tap = s.tap := rfl

@[simp] theorem State.raiseAt_pending (n a : Nat) : (s.raiseAt n a).pending = s.pending := rfl
@[simp] theorem State.raiseAt_freeCtr (n a : Nat) : (s.raiseAt n a).freeCtr = s.freeCtr := rfl
@[simp] theorem State.raiseAt_sent (n a : Nat) : (s.raiseAt n a).sent = s.sent := rfl
@[simp] theorem State.raiseAt_now (n a : Nat) : (s.raiseAt n a).now = s.now := rfl
@[simp] theorem State.raiseAt_tickFrac (n a : Nat) : (s.raiseAt n a).tickFrac = s.tickFrac := rfl
@[simp] theorem State.raiseAt_regs (n a : Nat) : (s.raiseAt n a).regs = s.regs := rfl
@[simp] theorem State.raiseAt_heldLo (n a : Nat) : (s.raiseAt n a).heldLo = s.heldLo := rfl
@[simp] theorem State.raiseAt_snaps (n a : Nat) : (s.raiseAt n a).snaps = s.snaps := rfl
@[simp] theorem State.raiseAt_mem (n a : Nat) : (s.raiseAt n a).mem = s.mem := rfl
@[simp] theorem State.raiseAt_bad (n a : Nat) : (s.raiseAt n a).bad = s.bad := rfl
@[simp] theorem State.raiseAt_dev (n a : Nat) : (s.raiseAt n a).dev = s.dev := rfl
@[simp] theorem State.raiseAt_threads (n a : Nat) : (s.raiseAt n a).threads = s.threads := rfl
@[simp] theorem State.raiseAt_trios (n a : Nat) : (s.raiseAt n a).trios = s.trios := rfl
@[simp] theorem State.raiseAt_fab (n a : Nat) : (s.raiseAt n a).fab = s.fab := rfl
@[simp] theorem State.raiseAt_coll (n a : Nat) : (s.raiseAt n a).coll = s.coll := rfl
@[simp] theorem State.raiseAt_coll2 (n a : Nat) : (s.raiseAt n a).coll2 = s.coll2 := rfl
@[simp] theorem State.raiseAt_shafts (n a : Nat) : (s.raiseAt n a).shafts = s.shafts := rfl
@[simp] theorem State.raiseAt_snapAll (n a : Nat) : (s.raiseAt n a).snapAll = s.snapAll := rfl
@[simp] theorem State.raiseAt_eng (n a : Nat) : (s.raiseAt n a).eng = s.eng := rfl
@[simp] theorem State.raiseAt_seq (n a : Nat) : (s.raiseAt n a).seq = s.seq := rfl
@[simp] theorem State.raiseAt_rings (n a : Nat) : (s.raiseAt n a).rings = s.rings := rfl
@[simp] theorem State.raiseAt_timers (n a : Nat) : (s.raiseAt n a).timers = s.timers := rfl
@[simp] theorem State.raiseAt_net (n a : Nat) : (s.raiseAt n a).net = s.net := rfl
@[simp] theorem State.raiseAt_ycp (n a : Nat) : (s.raiseAt n a).ycp = s.ycp := rfl
@[simp] theorem State.raiseAt_tap (n a : Nat) : (s.raiseAt n a).tap = s.tap := rfl

@[simp] theorem State.markBad_pending (a : Nat) : (s.markBad a).pending = s.pending := by unfold State.markBad; split <;> rfl
@[simp] theorem State.markBad_freeCtr (a : Nat) : (s.markBad a).freeCtr = s.freeCtr := by unfold State.markBad; split <;> rfl
@[simp] theorem State.markBad_sent (a : Nat) : (s.markBad a).sent = s.sent := by unfold State.markBad; split <;> rfl
@[simp] theorem State.markBad_now (a : Nat) : (s.markBad a).now = s.now := by unfold State.markBad; split <;> rfl
@[simp] theorem State.markBad_tickFrac (a : Nat) : (s.markBad a).tickFrac = s.tickFrac := by unfold State.markBad; split <;> rfl
@[simp] theorem State.markBad_regs (a : Nat) : (s.markBad a).regs = s.regs := by unfold State.markBad; split <;> rfl
@[simp] theorem State.markBad_heldLo (a : Nat) : (s.markBad a).heldLo = s.heldLo := by unfold State.markBad; split <;> rfl
@[simp] theorem State.markBad_snaps (a : Nat) : (s.markBad a).snaps = s.snaps := by unfold State.markBad; split <;> rfl
@[simp] theorem State.markBad_mem (a : Nat) : (s.markBad a).mem = s.mem := by unfold State.markBad; split <;> rfl
@[simp] theorem State.markBad_raised (a : Nat) : (s.markBad a).raised = s.raised := by unfold State.markBad; split <;> rfl
@[simp] theorem State.markBad_dev (a : Nat) : (s.markBad a).dev = s.dev := by unfold State.markBad; split <;> rfl
@[simp] theorem State.markBad_threads (a : Nat) : (s.markBad a).threads = s.threads := by unfold State.markBad; split <;> rfl
@[simp] theorem State.markBad_trios (a : Nat) : (s.markBad a).trios = s.trios := by unfold State.markBad; split <;> rfl
@[simp] theorem State.markBad_fab (a : Nat) : (s.markBad a).fab = s.fab := by unfold State.markBad; split <;> rfl
@[simp] theorem State.markBad_coll (a : Nat) : (s.markBad a).coll = s.coll := by unfold State.markBad; split <;> rfl
@[simp] theorem State.markBad_coll2 (a : Nat) : (s.markBad a).coll2 = s.coll2 := by unfold State.markBad; split <;> rfl
@[simp] theorem State.markBad_shafts (a : Nat) : (s.markBad a).shafts = s.shafts := by unfold State.markBad; split <;> rfl
@[simp] theorem State.markBad_snapAll (a : Nat) : (s.markBad a).snapAll = s.snapAll := by unfold State.markBad; split <;> rfl
@[simp] theorem State.markBad_eng (a : Nat) : (s.markBad a).eng = s.eng := by unfold State.markBad; split <;> rfl
@[simp] theorem State.markBad_seq (a : Nat) : (s.markBad a).seq = s.seq := by unfold State.markBad; split <;> rfl
@[simp] theorem State.markBad_rings (a : Nat) : (s.markBad a).rings = s.rings := by unfold State.markBad; split <;> rfl
@[simp] theorem State.markBad_timers (a : Nat) : (s.markBad a).timers = s.timers := by unfold State.markBad; split <;> rfl
@[simp] theorem State.markBad_net (a : Nat) : (s.markBad a).net = s.net := by unfold State.markBad; split <;> rfl
@[simp] theorem State.markBad_ycp (a : Nat) : (s.markBad a).ycp = s.ycp := by unfold State.markBad; split <;> rfl
@[simp] theorem State.markBad_tap (a : Nat) : (s.markBad a).tap = s.tap := by unfold State.markBad; split <;> rfl

@[simp] theorem State.raiseUnit_pending (n c u : Nat) : (s.raiseUnit n c u).pending = s.pending := rfl
@[simp] theorem State.raiseUnit_freeCtr (n c u : Nat) : (s.raiseUnit n c u).freeCtr = s.freeCtr := rfl
@[simp] theorem State.raiseUnit_sent (n c u : Nat) : (s.raiseUnit n c u).sent = s.sent := rfl
@[simp] theorem State.raiseUnit_now (n c u : Nat) : (s.raiseUnit n c u).now = s.now := rfl
@[simp] theorem State.raiseUnit_tickFrac (n c u : Nat) : (s.raiseUnit n c u).tickFrac = s.tickFrac := rfl
@[simp] theorem State.raiseUnit_regs (n c u : Nat) : (s.raiseUnit n c u).regs = s.regs := rfl
@[simp] theorem State.raiseUnit_heldLo (n c u : Nat) : (s.raiseUnit n c u).heldLo = s.heldLo := rfl
@[simp] theorem State.raiseUnit_snaps (n c u : Nat) : (s.raiseUnit n c u).snaps = s.snaps := rfl
@[simp] theorem State.raiseUnit_mem (n c u : Nat) : (s.raiseUnit n c u).mem = s.mem := rfl
@[simp] theorem State.raiseUnit_bad (n c u : Nat) : (s.raiseUnit n c u).bad = s.bad := rfl
@[simp] theorem State.raiseUnit_dev (n c u : Nat) : (s.raiseUnit n c u).dev = s.dev := rfl
@[simp] theorem State.raiseUnit_threads (n c u : Nat) : (s.raiseUnit n c u).threads = s.threads := rfl
@[simp] theorem State.raiseUnit_trios (n c u : Nat) : (s.raiseUnit n c u).trios = s.trios := rfl
@[simp] theorem State.raiseUnit_fab (n c u : Nat) : (s.raiseUnit n c u).fab = s.fab := rfl
@[simp] theorem State.raiseUnit_coll (n c u : Nat) : (s.raiseUnit n c u).coll = s.coll := rfl
@[simp] theorem State.raiseUnit_coll2 (n c u : Nat) : (s.raiseUnit n c u).coll2 = s.coll2 := rfl
@[simp] theorem State.raiseUnit_shafts (n c u : Nat) : (s.raiseUnit n c u).shafts = s.shafts := rfl
@[simp] theorem State.raiseUnit_snapAll (n c u : Nat) : (s.raiseUnit n c u).snapAll = s.snapAll := rfl
@[simp] theorem State.raiseUnit_eng (n c u : Nat) : (s.raiseUnit n c u).eng = s.eng := rfl
@[simp] theorem State.raiseUnit_seq (n c u : Nat) : (s.raiseUnit n c u).seq = s.seq := rfl
@[simp] theorem State.raiseUnit_rings (n c u : Nat) : (s.raiseUnit n c u).rings = s.rings := rfl
@[simp] theorem State.raiseUnit_timers (n c u : Nat) : (s.raiseUnit n c u).timers = s.timers := rfl
@[simp] theorem State.raiseUnit_net (n c u : Nat) : (s.raiseUnit n c u).net = s.net := rfl
@[simp] theorem State.raiseUnit_ycp (n c u : Nat) : (s.raiseUnit n c u).ycp = s.ycp := rfl
@[simp] theorem State.raiseUnit_tap (n c u : Nat) : (s.raiseUnit n c u).tap = s.tap := rfl

@[simp] theorem State.raiseCond_pending (n : Nat) (x : W32) : (s.raiseCond n x).pending = s.pending := by unfold State.raiseCond; split <;> rfl
@[simp] theorem State.raiseCond_freeCtr (n : Nat) (x : W32) : (s.raiseCond n x).freeCtr = s.freeCtr := by unfold State.raiseCond; split <;> rfl
@[simp] theorem State.raiseCond_sent (n : Nat) (x : W32) : (s.raiseCond n x).sent = s.sent := by unfold State.raiseCond; split <;> rfl
@[simp] theorem State.raiseCond_now (n : Nat) (x : W32) : (s.raiseCond n x).now = s.now := by unfold State.raiseCond; split <;> rfl
@[simp] theorem State.raiseCond_tickFrac (n : Nat) (x : W32) : (s.raiseCond n x).tickFrac = s.tickFrac := by unfold State.raiseCond; split <;> rfl
@[simp] theorem State.raiseCond_regs (n : Nat) (x : W32) : (s.raiseCond n x).regs = s.regs := by unfold State.raiseCond; split <;> rfl
@[simp] theorem State.raiseCond_heldLo (n : Nat) (x : W32) : (s.raiseCond n x).heldLo = s.heldLo := by unfold State.raiseCond; split <;> rfl
@[simp] theorem State.raiseCond_snaps (n : Nat) (x : W32) : (s.raiseCond n x).snaps = s.snaps := by unfold State.raiseCond; split <;> rfl
@[simp] theorem State.raiseCond_mem (n : Nat) (x : W32) : (s.raiseCond n x).mem = s.mem := by unfold State.raiseCond; split <;> rfl
@[simp] theorem State.raiseCond_bad (n : Nat) (x : W32) : (s.raiseCond n x).bad = s.bad := by unfold State.raiseCond; split <;> rfl
@[simp] theorem State.raiseCond_threads (n : Nat) (x : W32) : (s.raiseCond n x).threads = s.threads := by unfold State.raiseCond; split <;> rfl
@[simp] theorem State.raiseCond_trios (n : Nat) (x : W32) : (s.raiseCond n x).trios = s.trios := by unfold State.raiseCond; split <;> rfl
@[simp] theorem State.raiseCond_fab (n : Nat) (x : W32) : (s.raiseCond n x).fab = s.fab := by unfold State.raiseCond; split <;> rfl
@[simp] theorem State.raiseCond_coll (n : Nat) (x : W32) : (s.raiseCond n x).coll = s.coll := by unfold State.raiseCond; split <;> rfl
@[simp] theorem State.raiseCond_coll2 (n : Nat) (x : W32) : (s.raiseCond n x).coll2 = s.coll2 := by unfold State.raiseCond; split <;> rfl
@[simp] theorem State.raiseCond_shafts (n : Nat) (x : W32) : (s.raiseCond n x).shafts = s.shafts := by unfold State.raiseCond; split <;> rfl
@[simp] theorem State.raiseCond_snapAll (n : Nat) (x : W32) : (s.raiseCond n x).snapAll = s.snapAll := by unfold State.raiseCond; split <;> rfl
@[simp] theorem State.raiseCond_eng (n : Nat) (x : W32) : (s.raiseCond n x).eng = s.eng := by unfold State.raiseCond; split <;> rfl
@[simp] theorem State.raiseCond_seq (n : Nat) (x : W32) : (s.raiseCond n x).seq = s.seq := by unfold State.raiseCond; split <;> rfl
@[simp] theorem State.raiseCond_rings (n : Nat) (x : W32) : (s.raiseCond n x).rings = s.rings := by unfold State.raiseCond; split <;> rfl
@[simp] theorem State.raiseCond_timers (n : Nat) (x : W32) : (s.raiseCond n x).timers = s.timers := by unfold State.raiseCond; split <;> rfl
@[simp] theorem State.raiseCond_net (n : Nat) (x : W32) : (s.raiseCond n x).net = s.net := by unfold State.raiseCond; split <;> rfl
@[simp] theorem State.raiseCond_ycp (n : Nat) (x : W32) : (s.raiseCond n x).ycp = s.ycp := by unfold State.raiseCond; split <;> rfl
@[simp] theorem State.raiseCond_tap (n : Nat) (x : W32) : (s.raiseCond n x).tap = s.tap := by unfold State.raiseCond; split <;> rfl

@[simp] theorem State.endCond_pending (n : Nat) : (s.endCond n).pending = s.pending := rfl
@[simp] theorem State.endCond_freeCtr (n : Nat) : (s.endCond n).freeCtr = s.freeCtr := rfl
@[simp] theorem State.endCond_sent (n : Nat) : (s.endCond n).sent = s.sent := rfl
@[simp] theorem State.endCond_now (n : Nat) : (s.endCond n).now = s.now := rfl
@[simp] theorem State.endCond_tickFrac (n : Nat) : (s.endCond n).tickFrac = s.tickFrac := rfl
@[simp] theorem State.endCond_regs (n : Nat) : (s.endCond n).regs = s.regs := rfl
@[simp] theorem State.endCond_heldLo (n : Nat) : (s.endCond n).heldLo = s.heldLo := rfl
@[simp] theorem State.endCond_snaps (n : Nat) : (s.endCond n).snaps = s.snaps := rfl
@[simp] theorem State.endCond_mem (n : Nat) : (s.endCond n).mem = s.mem := rfl
@[simp] theorem State.endCond_bad (n : Nat) : (s.endCond n).bad = s.bad := rfl
@[simp] theorem State.endCond_raised (n : Nat) : (s.endCond n).raised = s.raised := rfl
@[simp] theorem State.endCond_threads (n : Nat) : (s.endCond n).threads = s.threads := rfl
@[simp] theorem State.endCond_trios (n : Nat) : (s.endCond n).trios = s.trios := rfl
@[simp] theorem State.endCond_fab (n : Nat) : (s.endCond n).fab = s.fab := rfl
@[simp] theorem State.endCond_coll (n : Nat) : (s.endCond n).coll = s.coll := rfl
@[simp] theorem State.endCond_coll2 (n : Nat) : (s.endCond n).coll2 = s.coll2 := rfl
@[simp] theorem State.endCond_shafts (n : Nat) : (s.endCond n).shafts = s.shafts := rfl
@[simp] theorem State.endCond_snapAll (n : Nat) : (s.endCond n).snapAll = s.snapAll := rfl
@[simp] theorem State.endCond_eng (n : Nat) : (s.endCond n).eng = s.eng := rfl
@[simp] theorem State.endCond_seq (n : Nat) : (s.endCond n).seq = s.seq := rfl
@[simp] theorem State.endCond_rings (n : Nat) : (s.endCond n).rings = s.rings := rfl
@[simp] theorem State.endCond_timers (n : Nat) : (s.endCond n).timers = s.timers := rfl
@[simp] theorem State.endCond_net (n : Nat) : (s.endCond n).net = s.net := rfl
@[simp] theorem State.endCond_ycp (n : Nat) : (s.endCond n).ycp = s.ycp := rfl
@[simp] theorem State.endCond_tap (n : Nat) : (s.endCond n).tap = s.tap := rfl

@[simp] theorem State.emit_pending (o : Output) : (s.emit o).pending = s.pending := rfl
@[simp] theorem State.emit_freeCtr (o : Output) : (s.emit o).freeCtr = s.freeCtr := rfl
@[simp] theorem State.emit_now (o : Output) : (s.emit o).now = s.now := rfl
@[simp] theorem State.emit_tickFrac (o : Output) : (s.emit o).tickFrac = s.tickFrac := rfl
@[simp] theorem State.emit_regs (o : Output) : (s.emit o).regs = s.regs := rfl
@[simp] theorem State.emit_heldLo (o : Output) : (s.emit o).heldLo = s.heldLo := rfl
@[simp] theorem State.emit_snaps (o : Output) : (s.emit o).snaps = s.snaps := rfl
@[simp] theorem State.emit_mem (o : Output) : (s.emit o).mem = s.mem := rfl
@[simp] theorem State.emit_bad (o : Output) : (s.emit o).bad = s.bad := rfl
@[simp] theorem State.emit_raised (o : Output) : (s.emit o).raised = s.raised := rfl
@[simp] theorem State.emit_dev (o : Output) : (s.emit o).dev = s.dev := rfl
@[simp] theorem State.emit_threads (o : Output) : (s.emit o).threads = s.threads := rfl
@[simp] theorem State.emit_trios (o : Output) : (s.emit o).trios = s.trios := rfl
@[simp] theorem State.emit_fab (o : Output) : (s.emit o).fab = s.fab := rfl
@[simp] theorem State.emit_coll (o : Output) : (s.emit o).coll = s.coll := rfl
@[simp] theorem State.emit_coll2 (o : Output) : (s.emit o).coll2 = s.coll2 := rfl
@[simp] theorem State.emit_shafts (o : Output) : (s.emit o).shafts = s.shafts := rfl
@[simp] theorem State.emit_snapAll (o : Output) : (s.emit o).snapAll = s.snapAll := rfl
@[simp] theorem State.emit_eng (o : Output) : (s.emit o).eng = s.eng := rfl
@[simp] theorem State.emit_seq (o : Output) : (s.emit o).seq = s.seq := rfl
@[simp] theorem State.emit_rings (o : Output) : (s.emit o).rings = s.rings := rfl
@[simp] theorem State.emit_timers (o : Output) : (s.emit o).timers = s.timers := rfl
@[simp] theorem State.emit_net (o : Output) : (s.emit o).net = s.net := rfl
@[simp] theorem State.emit_ycp (o : Output) : (s.emit o).ycp = s.ycp := rfl
@[simp] theorem State.emit_tap (o : Output) : (s.emit o).tap = s.tap := rfl

@[simp] theorem State.emits_pending (o : List Output) : (s.emits o).pending = s.pending := rfl
@[simp] theorem State.emits_freeCtr (o : List Output) : (s.emits o).freeCtr = s.freeCtr := rfl
@[simp] theorem State.emits_now (o : List Output) : (s.emits o).now = s.now := rfl
@[simp] theorem State.emits_tickFrac (o : List Output) : (s.emits o).tickFrac = s.tickFrac := rfl
@[simp] theorem State.emits_regs (o : List Output) : (s.emits o).regs = s.regs := rfl
@[simp] theorem State.emits_heldLo (o : List Output) : (s.emits o).heldLo = s.heldLo := rfl
@[simp] theorem State.emits_snaps (o : List Output) : (s.emits o).snaps = s.snaps := rfl
@[simp] theorem State.emits_mem (o : List Output) : (s.emits o).mem = s.mem := rfl
@[simp] theorem State.emits_bad (o : List Output) : (s.emits o).bad = s.bad := rfl
@[simp] theorem State.emits_raised (o : List Output) : (s.emits o).raised = s.raised := rfl
@[simp] theorem State.emits_dev (o : List Output) : (s.emits o).dev = s.dev := rfl
@[simp] theorem State.emits_threads (o : List Output) : (s.emits o).threads = s.threads := rfl
@[simp] theorem State.emits_trios (o : List Output) : (s.emits o).trios = s.trios := rfl
@[simp] theorem State.emits_fab (o : List Output) : (s.emits o).fab = s.fab := rfl
@[simp] theorem State.emits_coll (o : List Output) : (s.emits o).coll = s.coll := rfl
@[simp] theorem State.emits_coll2 (o : List Output) : (s.emits o).coll2 = s.coll2 := rfl
@[simp] theorem State.emits_shafts (o : List Output) : (s.emits o).shafts = s.shafts := rfl
@[simp] theorem State.emits_snapAll (o : List Output) : (s.emits o).snapAll = s.snapAll := rfl
@[simp] theorem State.emits_eng (o : List Output) : (s.emits o).eng = s.eng := rfl
@[simp] theorem State.emits_seq (o : List Output) : (s.emits o).seq = s.seq := rfl
@[simp] theorem State.emits_rings (o : List Output) : (s.emits o).rings = s.rings := rfl
@[simp] theorem State.emits_timers (o : List Output) : (s.emits o).timers = s.timers := rfl
@[simp] theorem State.emits_net (o : List Output) : (s.emits o).net = s.net := rfl
@[simp] theorem State.emits_ycp (o : List Output) : (s.emits o).ycp = s.ycp := rfl
@[simp] theorem State.emits_tap (o : List Output) : (s.emits o).tap = s.tap := rfl

@[simp] theorem State.poke_pending (a : Nat) (l : List Byte) : (s.poke a l).pending = s.pending := rfl
@[simp] theorem State.poke_freeCtr (a : Nat) (l : List Byte) : (s.poke a l).freeCtr = s.freeCtr := rfl
@[simp] theorem State.poke_sent (a : Nat) (l : List Byte) : (s.poke a l).sent = s.sent := rfl
@[simp] theorem State.poke_now (a : Nat) (l : List Byte) : (s.poke a l).now = s.now := rfl
@[simp] theorem State.poke_tickFrac (a : Nat) (l : List Byte) : (s.poke a l).tickFrac = s.tickFrac := rfl
@[simp] theorem State.poke_regs (a : Nat) (l : List Byte) : (s.poke a l).regs = s.regs := rfl
@[simp] theorem State.poke_heldLo (a : Nat) (l : List Byte) : (s.poke a l).heldLo = s.heldLo := rfl
@[simp] theorem State.poke_snaps (a : Nat) (l : List Byte) : (s.poke a l).snaps = s.snaps := rfl
@[simp] theorem State.poke_raised (a : Nat) (l : List Byte) : (s.poke a l).raised = s.raised := rfl
@[simp] theorem State.poke_dev (a : Nat) (l : List Byte) : (s.poke a l).dev = s.dev := rfl
@[simp] theorem State.poke_threads (a : Nat) (l : List Byte) : (s.poke a l).threads = s.threads := rfl
@[simp] theorem State.poke_trios (a : Nat) (l : List Byte) : (s.poke a l).trios = s.trios := rfl
@[simp] theorem State.poke_fab (a : Nat) (l : List Byte) : (s.poke a l).fab = s.fab := rfl
@[simp] theorem State.poke_coll (a : Nat) (l : List Byte) : (s.poke a l).coll = s.coll := rfl
@[simp] theorem State.poke_coll2 (a : Nat) (l : List Byte) : (s.poke a l).coll2 = s.coll2 := rfl
@[simp] theorem State.poke_shafts (a : Nat) (l : List Byte) : (s.poke a l).shafts = s.shafts := rfl
@[simp] theorem State.poke_snapAll (a : Nat) (l : List Byte) : (s.poke a l).snapAll = s.snapAll := rfl
@[simp] theorem State.poke_eng (a : Nat) (l : List Byte) : (s.poke a l).eng = s.eng := rfl
@[simp] theorem State.poke_seq (a : Nat) (l : List Byte) : (s.poke a l).seq = s.seq := rfl
@[simp] theorem State.poke_rings (a : Nat) (l : List Byte) : (s.poke a l).rings = s.rings := rfl
@[simp] theorem State.poke_timers (a : Nat) (l : List Byte) : (s.poke a l).timers = s.timers := rfl
@[simp] theorem State.poke_net (a : Nat) (l : List Byte) : (s.poke a l).net = s.net := rfl
@[simp] theorem State.poke_ycp (a : Nat) (l : List Byte) : (s.poke a l).ycp = s.ycp := rfl
@[simp] theorem State.poke_tap (a : Nat) (l : List Byte) : (s.poke a l).tap = s.tap := rfl

@[simp] theorem State.setTrio_pending (n : Nat) (x : Trio) : (s.setTrio n x).pending = s.pending := rfl
@[simp] theorem State.setTrio_freeCtr (n : Nat) (x : Trio) : (s.setTrio n x).freeCtr = s.freeCtr := rfl
@[simp] theorem State.setTrio_sent (n : Nat) (x : Trio) : (s.setTrio n x).sent = s.sent := rfl
@[simp] theorem State.setTrio_now (n : Nat) (x : Trio) : (s.setTrio n x).now = s.now := rfl
@[simp] theorem State.setTrio_tickFrac (n : Nat) (x : Trio) : (s.setTrio n x).tickFrac = s.tickFrac := rfl
@[simp] theorem State.setTrio_regs (n : Nat) (x : Trio) : (s.setTrio n x).regs = s.regs := rfl
@[simp] theorem State.setTrio_heldLo (n : Nat) (x : Trio) : (s.setTrio n x).heldLo = s.heldLo := rfl
@[simp] theorem State.setTrio_snaps (n : Nat) (x : Trio) : (s.setTrio n x).snaps = s.snaps := rfl
@[simp] theorem State.setTrio_mem (n : Nat) (x : Trio) : (s.setTrio n x).mem = s.mem := rfl
@[simp] theorem State.setTrio_bad (n : Nat) (x : Trio) : (s.setTrio n x).bad = s.bad := rfl
@[simp] theorem State.setTrio_raised (n : Nat) (x : Trio) : (s.setTrio n x).raised = s.raised := rfl
@[simp] theorem State.setTrio_dev (n : Nat) (x : Trio) : (s.setTrio n x).dev = s.dev := rfl
@[simp] theorem State.setTrio_threads (n : Nat) (x : Trio) : (s.setTrio n x).threads = s.threads := rfl
@[simp] theorem State.setTrio_fab (n : Nat) (x : Trio) : (s.setTrio n x).fab = s.fab := rfl
@[simp] theorem State.setTrio_coll (n : Nat) (x : Trio) : (s.setTrio n x).coll = s.coll := rfl
@[simp] theorem State.setTrio_coll2 (n : Nat) (x : Trio) : (s.setTrio n x).coll2 = s.coll2 := rfl
@[simp] theorem State.setTrio_shafts (n : Nat) (x : Trio) : (s.setTrio n x).shafts = s.shafts := rfl
@[simp] theorem State.setTrio_snapAll (n : Nat) (x : Trio) : (s.setTrio n x).snapAll = s.snapAll := rfl
@[simp] theorem State.setTrio_eng (n : Nat) (x : Trio) : (s.setTrio n x).eng = s.eng := rfl
@[simp] theorem State.setTrio_seq (n : Nat) (x : Trio) : (s.setTrio n x).seq = s.seq := rfl
@[simp] theorem State.setTrio_rings (n : Nat) (x : Trio) : (s.setTrio n x).rings = s.rings := rfl
@[simp] theorem State.setTrio_timers (n : Nat) (x : Trio) : (s.setTrio n x).timers = s.timers := rfl
@[simp] theorem State.setTrio_net (n : Nat) (x : Trio) : (s.setTrio n x).net = s.net := rfl
@[simp] theorem State.setTrio_ycp (n : Nat) (x : Trio) : (s.setTrio n x).ycp = s.ycp := rfl
@[simp] theorem State.setTrio_tap (n : Nat) (x : Trio) : (s.setTrio n x).tap = s.tap := rfl

@[simp] theorem State.setThread_pending (k : Nat) (x : Thread) : (s.setThread k x).pending = s.pending := rfl
@[simp] theorem State.setThread_freeCtr (k : Nat) (x : Thread) : (s.setThread k x).freeCtr = s.freeCtr := rfl
@[simp] theorem State.setThread_sent (k : Nat) (x : Thread) : (s.setThread k x).sent = s.sent := rfl
@[simp] theorem State.setThread_now (k : Nat) (x : Thread) : (s.setThread k x).now = s.now := rfl
@[simp] theorem State.setThread_tickFrac (k : Nat) (x : Thread) : (s.setThread k x).tickFrac = s.tickFrac := rfl
@[simp] theorem State.setThread_regs (k : Nat) (x : Thread) : (s.setThread k x).regs = s.regs := rfl
@[simp] theorem State.setThread_heldLo (k : Nat) (x : Thread) : (s.setThread k x).heldLo = s.heldLo := rfl
@[simp] theorem State.setThread_snaps (k : Nat) (x : Thread) : (s.setThread k x).snaps = s.snaps := rfl
@[simp] theorem State.setThread_mem (k : Nat) (x : Thread) : (s.setThread k x).mem = s.mem := rfl
@[simp] theorem State.setThread_bad (k : Nat) (x : Thread) : (s.setThread k x).bad = s.bad := rfl
@[simp] theorem State.setThread_raised (k : Nat) (x : Thread) : (s.setThread k x).raised = s.raised := rfl
@[simp] theorem State.setThread_dev (k : Nat) (x : Thread) : (s.setThread k x).dev = s.dev := rfl
@[simp] theorem State.setThread_trios (k : Nat) (x : Thread) : (s.setThread k x).trios = s.trios := rfl
@[simp] theorem State.setThread_fab (k : Nat) (x : Thread) : (s.setThread k x).fab = s.fab := rfl
@[simp] theorem State.setThread_coll (k : Nat) (x : Thread) : (s.setThread k x).coll = s.coll := rfl
@[simp] theorem State.setThread_coll2 (k : Nat) (x : Thread) : (s.setThread k x).coll2 = s.coll2 := rfl
@[simp] theorem State.setThread_shafts (k : Nat) (x : Thread) : (s.setThread k x).shafts = s.shafts := rfl
@[simp] theorem State.setThread_snapAll (k : Nat) (x : Thread) : (s.setThread k x).snapAll = s.snapAll := rfl
@[simp] theorem State.setThread_eng (k : Nat) (x : Thread) : (s.setThread k x).eng = s.eng := rfl
@[simp] theorem State.setThread_seq (k : Nat) (x : Thread) : (s.setThread k x).seq = s.seq := rfl
@[simp] theorem State.setThread_rings (k : Nat) (x : Thread) : (s.setThread k x).rings = s.rings := rfl
@[simp] theorem State.setThread_timers (k : Nat) (x : Thread) : (s.setThread k x).timers = s.timers := rfl
@[simp] theorem State.setThread_net (k : Nat) (x : Thread) : (s.setThread k x).net = s.net := rfl
@[simp] theorem State.setThread_ycp (k : Nat) (x : Thread) : (s.setThread k x).ycp = s.ycp := rfl
@[simp] theorem State.setThread_tap (k : Nat) (x : Thread) : (s.setThread k x).tap = s.tap := rfl

@[simp] theorem State.setTlbs_pending (k : Nat) (x : Tlbs) : (s.setTlbs k x).pending = s.pending := rfl
@[simp] theorem State.setTlbs_freeCtr (k : Nat) (x : Tlbs) : (s.setTlbs k x).freeCtr = s.freeCtr := rfl
@[simp] theorem State.setTlbs_sent (k : Nat) (x : Tlbs) : (s.setTlbs k x).sent = s.sent := rfl
@[simp] theorem State.setTlbs_now (k : Nat) (x : Tlbs) : (s.setTlbs k x).now = s.now := rfl
@[simp] theorem State.setTlbs_tickFrac (k : Nat) (x : Tlbs) : (s.setTlbs k x).tickFrac = s.tickFrac := rfl
@[simp] theorem State.setTlbs_regs (k : Nat) (x : Tlbs) : (s.setTlbs k x).regs = s.regs := rfl
@[simp] theorem State.setTlbs_heldLo (k : Nat) (x : Tlbs) : (s.setTlbs k x).heldLo = s.heldLo := rfl
@[simp] theorem State.setTlbs_snaps (k : Nat) (x : Tlbs) : (s.setTlbs k x).snaps = s.snaps := rfl
@[simp] theorem State.setTlbs_mem (k : Nat) (x : Tlbs) : (s.setTlbs k x).mem = s.mem := rfl
@[simp] theorem State.setTlbs_bad (k : Nat) (x : Tlbs) : (s.setTlbs k x).bad = s.bad := rfl
@[simp] theorem State.setTlbs_raised (k : Nat) (x : Tlbs) : (s.setTlbs k x).raised = s.raised := rfl
@[simp] theorem State.setTlbs_dev (k : Nat) (x : Tlbs) : (s.setTlbs k x).dev = s.dev := rfl
@[simp] theorem State.setTlbs_threads (k : Nat) (x : Tlbs) : (s.setTlbs k x).threads = s.threads := rfl
@[simp] theorem State.setTlbs_trios (k : Nat) (x : Tlbs) : (s.setTlbs k x).trios = s.trios := rfl
@[simp] theorem State.setTlbs_coll (k : Nat) (x : Tlbs) : (s.setTlbs k x).coll = s.coll := rfl
@[simp] theorem State.setTlbs_coll2 (k : Nat) (x : Tlbs) : (s.setTlbs k x).coll2 = s.coll2 := rfl
@[simp] theorem State.setTlbs_shafts (k : Nat) (x : Tlbs) : (s.setTlbs k x).shafts = s.shafts := rfl
@[simp] theorem State.setTlbs_snapAll (k : Nat) (x : Tlbs) : (s.setTlbs k x).snapAll = s.snapAll := rfl
@[simp] theorem State.setTlbs_eng (k : Nat) (x : Tlbs) : (s.setTlbs k x).eng = s.eng := rfl
@[simp] theorem State.setTlbs_seq (k : Nat) (x : Tlbs) : (s.setTlbs k x).seq = s.seq := rfl
@[simp] theorem State.setTlbs_rings (k : Nat) (x : Tlbs) : (s.setTlbs k x).rings = s.rings := rfl
@[simp] theorem State.setTlbs_timers (k : Nat) (x : Tlbs) : (s.setTlbs k x).timers = s.timers := rfl
@[simp] theorem State.setTlbs_net (k : Nat) (x : Tlbs) : (s.setTlbs k x).net = s.net := rfl
@[simp] theorem State.setTlbs_ycp (k : Nat) (x : Tlbs) : (s.setTlbs k x).ycp = s.ycp := rfl
@[simp] theorem State.setTlbs_tap (k : Nat) (x : Tlbs) : (s.setTlbs k x).tap = s.tap := rfl

@[simp] theorem State.modColl_pending (f : Coll → Coll) : (s.modColl f).pending = s.pending := rfl
@[simp] theorem State.modColl_freeCtr (f : Coll → Coll) : (s.modColl f).freeCtr = s.freeCtr := rfl
@[simp] theorem State.modColl_sent (f : Coll → Coll) : (s.modColl f).sent = s.sent := rfl
@[simp] theorem State.modColl_now (f : Coll → Coll) : (s.modColl f).now = s.now := rfl
@[simp] theorem State.modColl_tickFrac (f : Coll → Coll) : (s.modColl f).tickFrac = s.tickFrac := rfl
@[simp] theorem State.modColl_regs (f : Coll → Coll) : (s.modColl f).regs = s.regs := rfl
@[simp] theorem State.modColl_heldLo (f : Coll → Coll) : (s.modColl f).heldLo = s.heldLo := rfl
@[simp] theorem State.modColl_snaps (f : Coll → Coll) : (s.modColl f).snaps = s.snaps := rfl
@[simp] theorem State.modColl_mem (f : Coll → Coll) : (s.modColl f).mem = s.mem := rfl
@[simp] theorem State.modColl_bad (f : Coll → Coll) : (s.modColl f).bad = s.bad := rfl
@[simp] theorem State.modColl_raised (f : Coll → Coll) : (s.modColl f).raised = s.raised := rfl
@[simp] theorem State.modColl_dev (f : Coll → Coll) : (s.modColl f).dev = s.dev := rfl
@[simp] theorem State.modColl_threads (f : Coll → Coll) : (s.modColl f).threads = s.threads := rfl
@[simp] theorem State.modColl_trios (f : Coll → Coll) : (s.modColl f).trios = s.trios := rfl
@[simp] theorem State.modColl_fab (f : Coll → Coll) : (s.modColl f).fab = s.fab := rfl
@[simp] theorem State.modColl_shafts (f : Coll → Coll) : (s.modColl f).shafts = s.shafts := rfl
@[simp] theorem State.modColl_snapAll (f : Coll → Coll) : (s.modColl f).snapAll = s.snapAll := rfl
@[simp] theorem State.modColl_eng (f : Coll → Coll) : (s.modColl f).eng = s.eng := rfl
@[simp] theorem State.modColl_seq (f : Coll → Coll) : (s.modColl f).seq = s.seq := rfl
@[simp] theorem State.modColl_rings (f : Coll → Coll) : (s.modColl f).rings = s.rings := rfl
@[simp] theorem State.modColl_timers (f : Coll → Coll) : (s.modColl f).timers = s.timers := rfl
@[simp] theorem State.modColl_net (f : Coll → Coll) : (s.modColl f).net = s.net := rfl
@[simp] theorem State.modColl_ycp (f : Coll → Coll) : (s.modColl f).ycp = s.ycp := rfl
@[simp] theorem State.modColl_tap (f : Coll → Coll) : (s.modColl f).tap = s.tap := rfl

@[simp] theorem State.setDev_pending (x : Dev) : (s.setDev x).pending = s.pending := rfl
@[simp] theorem State.setDev_freeCtr (x : Dev) : (s.setDev x).freeCtr = s.freeCtr := rfl
@[simp] theorem State.setDev_sent (x : Dev) : (s.setDev x).sent = s.sent := rfl
@[simp] theorem State.setDev_now (x : Dev) : (s.setDev x).now = s.now := rfl
@[simp] theorem State.setDev_tickFrac (x : Dev) : (s.setDev x).tickFrac = s.tickFrac := rfl
@[simp] theorem State.setDev_regs (x : Dev) : (s.setDev x).regs = s.regs := rfl
@[simp] theorem State.setDev_heldLo (x : Dev) : (s.setDev x).heldLo = s.heldLo := rfl
@[simp] theorem State.setDev_snaps (x : Dev) : (s.setDev x).snaps = s.snaps := rfl
@[simp] theorem State.setDev_mem (x : Dev) : (s.setDev x).mem = s.mem := rfl
@[simp] theorem State.setDev_bad (x : Dev) : (s.setDev x).bad = s.bad := rfl
@[simp] theorem State.setDev_raised (x : Dev) : (s.setDev x).raised = s.raised := rfl
@[simp] theorem State.setDev_threads (x : Dev) : (s.setDev x).threads = s.threads := rfl
@[simp] theorem State.setDev_trios (x : Dev) : (s.setDev x).trios = s.trios := rfl
@[simp] theorem State.setDev_fab (x : Dev) : (s.setDev x).fab = s.fab := rfl
@[simp] theorem State.setDev_coll (x : Dev) : (s.setDev x).coll = s.coll := rfl
@[simp] theorem State.setDev_coll2 (x : Dev) : (s.setDev x).coll2 = s.coll2 := rfl
@[simp] theorem State.setDev_shafts (x : Dev) : (s.setDev x).shafts = s.shafts := rfl
@[simp] theorem State.setDev_snapAll (x : Dev) : (s.setDev x).snapAll = s.snapAll := rfl
@[simp] theorem State.setDev_eng (x : Dev) : (s.setDev x).eng = s.eng := rfl
@[simp] theorem State.setDev_seq (x : Dev) : (s.setDev x).seq = s.seq := rfl
@[simp] theorem State.setDev_rings (x : Dev) : (s.setDev x).rings = s.rings := rfl
@[simp] theorem State.setDev_timers (x : Dev) : (s.setDev x).timers = s.timers := rfl
@[simp] theorem State.setDev_net (x : Dev) : (s.setDev x).net = s.net := rfl
@[simp] theorem State.setDev_ycp (x : Dev) : (s.setDev x).ycp = s.ycp := rfl
@[simp] theorem State.setDev_tap (x : Dev) : (s.setDev x).tap = s.tap := rfl

@[simp] theorem State.setQueue_pending (q : Nat) (x : Queue) : (s.setQueue q x).pending = s.pending := rfl
@[simp] theorem State.setQueue_freeCtr (q : Nat) (x : Queue) : (s.setQueue q x).freeCtr = s.freeCtr := rfl
@[simp] theorem State.setQueue_sent (q : Nat) (x : Queue) : (s.setQueue q x).sent = s.sent := rfl
@[simp] theorem State.setQueue_now (q : Nat) (x : Queue) : (s.setQueue q x).now = s.now := rfl
@[simp] theorem State.setQueue_tickFrac (q : Nat) (x : Queue) : (s.setQueue q x).tickFrac = s.tickFrac := rfl
@[simp] theorem State.setQueue_regs (q : Nat) (x : Queue) : (s.setQueue q x).regs = s.regs := rfl
@[simp] theorem State.setQueue_heldLo (q : Nat) (x : Queue) : (s.setQueue q x).heldLo = s.heldLo := rfl
@[simp] theorem State.setQueue_snaps (q : Nat) (x : Queue) : (s.setQueue q x).snaps = s.snaps := rfl
@[simp] theorem State.setQueue_mem (q : Nat) (x : Queue) : (s.setQueue q x).mem = s.mem := rfl
@[simp] theorem State.setQueue_bad (q : Nat) (x : Queue) : (s.setQueue q x).bad = s.bad := rfl
@[simp] theorem State.setQueue_raised (q : Nat) (x : Queue) : (s.setQueue q x).raised = s.raised := rfl
@[simp] theorem State.setQueue_dev (q : Nat) (x : Queue) : (s.setQueue q x).dev = s.dev := rfl
@[simp] theorem State.setQueue_threads (q : Nat) (x : Queue) : (s.setQueue q x).threads = s.threads := rfl
@[simp] theorem State.setQueue_trios (q : Nat) (x : Queue) : (s.setQueue q x).trios = s.trios := rfl
@[simp] theorem State.setQueue_fab (q : Nat) (x : Queue) : (s.setQueue q x).fab = s.fab := rfl
@[simp] theorem State.setQueue_coll (q : Nat) (x : Queue) : (s.setQueue q x).coll = s.coll := rfl
@[simp] theorem State.setQueue_coll2 (q : Nat) (x : Queue) : (s.setQueue q x).coll2 = s.coll2 := rfl
@[simp] theorem State.setQueue_shafts (q : Nat) (x : Queue) : (s.setQueue q x).shafts = s.shafts := rfl
@[simp] theorem State.setQueue_snapAll (q : Nat) (x : Queue) : (s.setQueue q x).snapAll = s.snapAll := rfl
@[simp] theorem State.setQueue_seq (q : Nat) (x : Queue) : (s.setQueue q x).seq = s.seq := rfl
@[simp] theorem State.setQueue_rings (q : Nat) (x : Queue) : (s.setQueue q x).rings = s.rings := rfl
@[simp] theorem State.setQueue_timers (q : Nat) (x : Queue) : (s.setQueue q x).timers = s.timers := rfl
@[simp] theorem State.setQueue_net (q : Nat) (x : Queue) : (s.setQueue q x).net = s.net := rfl
@[simp] theorem State.setQueue_ycp (q : Nat) (x : Queue) : (s.setQueue q x).ycp = s.ycp := rfl
@[simp] theorem State.setQueue_tap (q : Nat) (x : Queue) : (s.setQueue q x).tap = s.tap := rfl

@[simp] theorem State.setSeq_pending (x : Seq) : (s.setSeq x).pending = s.pending := rfl
@[simp] theorem State.setSeq_freeCtr (x : Seq) : (s.setSeq x).freeCtr = s.freeCtr := rfl
@[simp] theorem State.setSeq_sent (x : Seq) : (s.setSeq x).sent = s.sent := rfl
@[simp] theorem State.setSeq_now (x : Seq) : (s.setSeq x).now = s.now := rfl
@[simp] theorem State.setSeq_tickFrac (x : Seq) : (s.setSeq x).tickFrac = s.tickFrac := rfl
@[simp] theorem State.setSeq_regs (x : Seq) : (s.setSeq x).regs = s.regs := rfl
@[simp] theorem State.setSeq_heldLo (x : Seq) : (s.setSeq x).heldLo = s.heldLo := rfl
@[simp] theorem State.setSeq_snaps (x : Seq) : (s.setSeq x).snaps = s.snaps := rfl
@[simp] theorem State.setSeq_mem (x : Seq) : (s.setSeq x).mem = s.mem := rfl
@[simp] theorem State.setSeq_bad (x : Seq) : (s.setSeq x).bad = s.bad := rfl
@[simp] theorem State.setSeq_raised (x : Seq) : (s.setSeq x).raised = s.raised := rfl
@[simp] theorem State.setSeq_dev (x : Seq) : (s.setSeq x).dev = s.dev := rfl
@[simp] theorem State.setSeq_threads (x : Seq) : (s.setSeq x).threads = s.threads := rfl
@[simp] theorem State.setSeq_trios (x : Seq) : (s.setSeq x).trios = s.trios := rfl
@[simp] theorem State.setSeq_fab (x : Seq) : (s.setSeq x).fab = s.fab := rfl
@[simp] theorem State.setSeq_coll (x : Seq) : (s.setSeq x).coll = s.coll := rfl
@[simp] theorem State.setSeq_coll2 (x : Seq) : (s.setSeq x).coll2 = s.coll2 := rfl
@[simp] theorem State.setSeq_shafts (x : Seq) : (s.setSeq x).shafts = s.shafts := rfl
@[simp] theorem State.setSeq_snapAll (x : Seq) : (s.setSeq x).snapAll = s.snapAll := rfl
@[simp] theorem State.setSeq_eng (x : Seq) : (s.setSeq x).eng = s.eng := rfl
@[simp] theorem State.setSeq_rings (x : Seq) : (s.setSeq x).rings = s.rings := rfl
@[simp] theorem State.setSeq_timers (x : Seq) : (s.setSeq x).timers = s.timers := rfl
@[simp] theorem State.setSeq_net (x : Seq) : (s.setSeq x).net = s.net := rfl
@[simp] theorem State.setSeq_ycp (x : Seq) : (s.setSeq x).ycp = s.ycp := rfl
@[simp] theorem State.setSeq_tap (x : Seq) : (s.setSeq x).tap = s.tap := rfl

@[simp] theorem State.setShaft_pending (n : Nat) (x : Shaft) : (s.setShaft n x).pending = s.pending := rfl
@[simp] theorem State.setShaft_freeCtr (n : Nat) (x : Shaft) : (s.setShaft n x).freeCtr = s.freeCtr := rfl
@[simp] theorem State.setShaft_sent (n : Nat) (x : Shaft) : (s.setShaft n x).sent = s.sent := rfl
@[simp] theorem State.setShaft_now (n : Nat) (x : Shaft) : (s.setShaft n x).now = s.now := rfl
@[simp] theorem State.setShaft_tickFrac (n : Nat) (x : Shaft) : (s.setShaft n x).tickFrac = s.tickFrac := rfl
@[simp] theorem State.setShaft_regs (n : Nat) (x : Shaft) : (s.setShaft n x).regs = s.regs := rfl
@[simp] theorem State.setShaft_heldLo (n : Nat) (x : Shaft) : (s.setShaft n x).heldLo = s.heldLo := rfl
@[simp] theorem State.setShaft_snaps (n : Nat) (x : Shaft) : (s.setShaft n x).snaps = s.snaps := rfl
@[simp] theorem State.setShaft_mem (n : Nat) (x : Shaft) : (s.setShaft n x).mem = s.mem := rfl
@[simp] theorem State.setShaft_bad (n : Nat) (x : Shaft) : (s.setShaft n x).bad = s.bad := rfl
@[simp] theorem State.setShaft_raised (n : Nat) (x : Shaft) : (s.setShaft n x).raised = s.raised := rfl
@[simp] theorem State.setShaft_dev (n : Nat) (x : Shaft) : (s.setShaft n x).dev = s.dev := rfl
@[simp] theorem State.setShaft_threads (n : Nat) (x : Shaft) : (s.setShaft n x).threads = s.threads := rfl
@[simp] theorem State.setShaft_trios (n : Nat) (x : Shaft) : (s.setShaft n x).trios = s.trios := rfl
@[simp] theorem State.setShaft_fab (n : Nat) (x : Shaft) : (s.setShaft n x).fab = s.fab := rfl
@[simp] theorem State.setShaft_coll (n : Nat) (x : Shaft) : (s.setShaft n x).coll = s.coll := rfl
@[simp] theorem State.setShaft_coll2 (n : Nat) (x : Shaft) : (s.setShaft n x).coll2 = s.coll2 := rfl
@[simp] theorem State.setShaft_snapAll (n : Nat) (x : Shaft) : (s.setShaft n x).snapAll = s.snapAll := rfl
@[simp] theorem State.setShaft_eng (n : Nat) (x : Shaft) : (s.setShaft n x).eng = s.eng := rfl
@[simp] theorem State.setShaft_seq (n : Nat) (x : Shaft) : (s.setShaft n x).seq = s.seq := rfl
@[simp] theorem State.setShaft_rings (n : Nat) (x : Shaft) : (s.setShaft n x).rings = s.rings := rfl
@[simp] theorem State.setShaft_timers (n : Nat) (x : Shaft) : (s.setShaft n x).timers = s.timers := rfl
@[simp] theorem State.setShaft_net (n : Nat) (x : Shaft) : (s.setShaft n x).net = s.net := rfl
@[simp] theorem State.setShaft_ycp (n : Nat) (x : Shaft) : (s.setShaft n x).ycp = s.ycp := rfl
@[simp] theorem State.setShaft_tap (n : Nat) (x : Shaft) : (s.setShaft n x).tap = s.tap := rfl

@[simp] theorem State.setRing_pending (r : Nat) (x : Ring) : (s.setRing r x).pending = s.pending := rfl
@[simp] theorem State.setRing_freeCtr (r : Nat) (x : Ring) : (s.setRing r x).freeCtr = s.freeCtr := rfl
@[simp] theorem State.setRing_sent (r : Nat) (x : Ring) : (s.setRing r x).sent = s.sent := rfl
@[simp] theorem State.setRing_now (r : Nat) (x : Ring) : (s.setRing r x).now = s.now := rfl
@[simp] theorem State.setRing_tickFrac (r : Nat) (x : Ring) : (s.setRing r x).tickFrac = s.tickFrac := rfl
@[simp] theorem State.setRing_regs (r : Nat) (x : Ring) : (s.setRing r x).regs = s.regs := rfl
@[simp] theorem State.setRing_heldLo (r : Nat) (x : Ring) : (s.setRing r x).heldLo = s.heldLo := rfl
@[simp] theorem State.setRing_snaps (r : Nat) (x : Ring) : (s.setRing r x).snaps = s.snaps := rfl
@[simp] theorem State.setRing_mem (r : Nat) (x : Ring) : (s.setRing r x).mem = s.mem := rfl
@[simp] theorem State.setRing_bad (r : Nat) (x : Ring) : (s.setRing r x).bad = s.bad := rfl
@[simp] theorem State.setRing_raised (r : Nat) (x : Ring) : (s.setRing r x).raised = s.raised := rfl
@[simp] theorem State.setRing_dev (r : Nat) (x : Ring) : (s.setRing r x).dev = s.dev := rfl
@[simp] theorem State.setRing_threads (r : Nat) (x : Ring) : (s.setRing r x).threads = s.threads := rfl
@[simp] theorem State.setRing_trios (r : Nat) (x : Ring) : (s.setRing r x).trios = s.trios := rfl
@[simp] theorem State.setRing_fab (r : Nat) (x : Ring) : (s.setRing r x).fab = s.fab := rfl
@[simp] theorem State.setRing_coll (r : Nat) (x : Ring) : (s.setRing r x).coll = s.coll := rfl
@[simp] theorem State.setRing_coll2 (r : Nat) (x : Ring) : (s.setRing r x).coll2 = s.coll2 := rfl
@[simp] theorem State.setRing_shafts (r : Nat) (x : Ring) : (s.setRing r x).shafts = s.shafts := rfl
@[simp] theorem State.setRing_snapAll (r : Nat) (x : Ring) : (s.setRing r x).snapAll = s.snapAll := rfl
@[simp] theorem State.setRing_eng (r : Nat) (x : Ring) : (s.setRing r x).eng = s.eng := rfl
@[simp] theorem State.setRing_seq (r : Nat) (x : Ring) : (s.setRing r x).seq = s.seq := rfl
@[simp] theorem State.setRing_timers (r : Nat) (x : Ring) : (s.setRing r x).timers = s.timers := rfl
@[simp] theorem State.setRing_net (r : Nat) (x : Ring) : (s.setRing r x).net = s.net := rfl
@[simp] theorem State.setRing_ycp (r : Nat) (x : Ring) : (s.setRing r x).ycp = s.ycp := rfl
@[simp] theorem State.setRing_tap (r : Nat) (x : Ring) : (s.setRing r x).tap = s.tap := rfl

@[simp] theorem State.setEthp_pending (p : Nat) (x : EthPort) : (s.setEthp p x).pending = s.pending := rfl
@[simp] theorem State.setEthp_freeCtr (p : Nat) (x : EthPort) : (s.setEthp p x).freeCtr = s.freeCtr := rfl
@[simp] theorem State.setEthp_sent (p : Nat) (x : EthPort) : (s.setEthp p x).sent = s.sent := rfl
@[simp] theorem State.setEthp_now (p : Nat) (x : EthPort) : (s.setEthp p x).now = s.now := rfl
@[simp] theorem State.setEthp_tickFrac (p : Nat) (x : EthPort) : (s.setEthp p x).tickFrac = s.tickFrac := rfl
@[simp] theorem State.setEthp_regs (p : Nat) (x : EthPort) : (s.setEthp p x).regs = s.regs := rfl
@[simp] theorem State.setEthp_heldLo (p : Nat) (x : EthPort) : (s.setEthp p x).heldLo = s.heldLo := rfl
@[simp] theorem State.setEthp_snaps (p : Nat) (x : EthPort) : (s.setEthp p x).snaps = s.snaps := rfl
@[simp] theorem State.setEthp_mem (p : Nat) (x : EthPort) : (s.setEthp p x).mem = s.mem := rfl
@[simp] theorem State.setEthp_bad (p : Nat) (x : EthPort) : (s.setEthp p x).bad = s.bad := rfl
@[simp] theorem State.setEthp_raised (p : Nat) (x : EthPort) : (s.setEthp p x).raised = s.raised := rfl
@[simp] theorem State.setEthp_dev (p : Nat) (x : EthPort) : (s.setEthp p x).dev = s.dev := rfl
@[simp] theorem State.setEthp_threads (p : Nat) (x : EthPort) : (s.setEthp p x).threads = s.threads := rfl
@[simp] theorem State.setEthp_trios (p : Nat) (x : EthPort) : (s.setEthp p x).trios = s.trios := rfl
@[simp] theorem State.setEthp_fab (p : Nat) (x : EthPort) : (s.setEthp p x).fab = s.fab := rfl
@[simp] theorem State.setEthp_coll (p : Nat) (x : EthPort) : (s.setEthp p x).coll = s.coll := rfl
@[simp] theorem State.setEthp_coll2 (p : Nat) (x : EthPort) : (s.setEthp p x).coll2 = s.coll2 := rfl
@[simp] theorem State.setEthp_shafts (p : Nat) (x : EthPort) : (s.setEthp p x).shafts = s.shafts := rfl
@[simp] theorem State.setEthp_snapAll (p : Nat) (x : EthPort) : (s.setEthp p x).snapAll = s.snapAll := rfl
@[simp] theorem State.setEthp_eng (p : Nat) (x : EthPort) : (s.setEthp p x).eng = s.eng := rfl
@[simp] theorem State.setEthp_seq (p : Nat) (x : EthPort) : (s.setEthp p x).seq = s.seq := rfl
@[simp] theorem State.setEthp_rings (p : Nat) (x : EthPort) : (s.setEthp p x).rings = s.rings := rfl
@[simp] theorem State.setEthp_timers (p : Nat) (x : EthPort) : (s.setEthp p x).timers = s.timers := rfl
@[simp] theorem State.setEthp_ycp (p : Nat) (x : EthPort) : (s.setEthp p x).ycp = s.ycp := rfl
@[simp] theorem State.setEthp_tap (p : Nat) (x : EthPort) : (s.setEthp p x).tap = s.tap := rfl

@[simp] theorem State.setPtp_pending (p : Nat) (x : PtpPort) : (s.setPtp p x).pending = s.pending := rfl
@[simp] theorem State.setPtp_freeCtr (p : Nat) (x : PtpPort) : (s.setPtp p x).freeCtr = s.freeCtr := rfl
@[simp] theorem State.setPtp_sent (p : Nat) (x : PtpPort) : (s.setPtp p x).sent = s.sent := rfl
@[simp] theorem State.setPtp_now (p : Nat) (x : PtpPort) : (s.setPtp p x).now = s.now := rfl
@[simp] theorem State.setPtp_tickFrac (p : Nat) (x : PtpPort) : (s.setPtp p x).tickFrac = s.tickFrac := rfl
@[simp] theorem State.setPtp_regs (p : Nat) (x : PtpPort) : (s.setPtp p x).regs = s.regs := rfl
@[simp] theorem State.setPtp_heldLo (p : Nat) (x : PtpPort) : (s.setPtp p x).heldLo = s.heldLo := rfl
@[simp] theorem State.setPtp_snaps (p : Nat) (x : PtpPort) : (s.setPtp p x).snaps = s.snaps := rfl
@[simp] theorem State.setPtp_mem (p : Nat) (x : PtpPort) : (s.setPtp p x).mem = s.mem := rfl
@[simp] theorem State.setPtp_bad (p : Nat) (x : PtpPort) : (s.setPtp p x).bad = s.bad := rfl
@[simp] theorem State.setPtp_raised (p : Nat) (x : PtpPort) : (s.setPtp p x).raised = s.raised := rfl
@[simp] theorem State.setPtp_dev (p : Nat) (x : PtpPort) : (s.setPtp p x).dev = s.dev := rfl
@[simp] theorem State.setPtp_threads (p : Nat) (x : PtpPort) : (s.setPtp p x).threads = s.threads := rfl
@[simp] theorem State.setPtp_trios (p : Nat) (x : PtpPort) : (s.setPtp p x).trios = s.trios := rfl
@[simp] theorem State.setPtp_fab (p : Nat) (x : PtpPort) : (s.setPtp p x).fab = s.fab := rfl
@[simp] theorem State.setPtp_coll (p : Nat) (x : PtpPort) : (s.setPtp p x).coll = s.coll := rfl
@[simp] theorem State.setPtp_coll2 (p : Nat) (x : PtpPort) : (s.setPtp p x).coll2 = s.coll2 := rfl
@[simp] theorem State.setPtp_shafts (p : Nat) (x : PtpPort) : (s.setPtp p x).shafts = s.shafts := rfl
@[simp] theorem State.setPtp_snapAll (p : Nat) (x : PtpPort) : (s.setPtp p x).snapAll = s.snapAll := rfl
@[simp] theorem State.setPtp_eng (p : Nat) (x : PtpPort) : (s.setPtp p x).eng = s.eng := rfl
@[simp] theorem State.setPtp_seq (p : Nat) (x : PtpPort) : (s.setPtp p x).seq = s.seq := rfl
@[simp] theorem State.setPtp_rings (p : Nat) (x : PtpPort) : (s.setPtp p x).rings = s.rings := rfl
@[simp] theorem State.setPtp_timers (p : Nat) (x : PtpPort) : (s.setPtp p x).timers = s.timers := rfl
@[simp] theorem State.setPtp_ycp (p : Nat) (x : PtpPort) : (s.setPtp p x).ycp = s.ycp := rfl
@[simp] theorem State.setPtp_tap (p : Nat) (x : PtpPort) : (s.setPtp p x).tap = s.tap := rfl

@[simp] theorem State.setYcp_pending (y : Ycp) : (s.setYcp y).pending = s.pending := rfl
@[simp] theorem State.setYcp_freeCtr (y : Ycp) : (s.setYcp y).freeCtr = s.freeCtr := rfl
@[simp] theorem State.setYcp_sent (y : Ycp) : (s.setYcp y).sent = s.sent := rfl
@[simp] theorem State.setYcp_now (y : Ycp) : (s.setYcp y).now = s.now := rfl
@[simp] theorem State.setYcp_tickFrac (y : Ycp) : (s.setYcp y).tickFrac = s.tickFrac := rfl
@[simp] theorem State.setYcp_regs (y : Ycp) : (s.setYcp y).regs = s.regs := rfl
@[simp] theorem State.setYcp_heldLo (y : Ycp) : (s.setYcp y).heldLo = s.heldLo := rfl
@[simp] theorem State.setYcp_snaps (y : Ycp) : (s.setYcp y).snaps = s.snaps := rfl
@[simp] theorem State.setYcp_mem (y : Ycp) : (s.setYcp y).mem = s.mem := rfl
@[simp] theorem State.setYcp_bad (y : Ycp) : (s.setYcp y).bad = s.bad := rfl
@[simp] theorem State.setYcp_raised (y : Ycp) : (s.setYcp y).raised = s.raised := rfl
@[simp] theorem State.setYcp_dev (y : Ycp) : (s.setYcp y).dev = s.dev := rfl
@[simp] theorem State.setYcp_threads (y : Ycp) : (s.setYcp y).threads = s.threads := rfl
@[simp] theorem State.setYcp_trios (y : Ycp) : (s.setYcp y).trios = s.trios := rfl
@[simp] theorem State.setYcp_fab (y : Ycp) : (s.setYcp y).fab = s.fab := rfl
@[simp] theorem State.setYcp_coll (y : Ycp) : (s.setYcp y).coll = s.coll := rfl
@[simp] theorem State.setYcp_coll2 (y : Ycp) : (s.setYcp y).coll2 = s.coll2 := rfl
@[simp] theorem State.setYcp_shafts (y : Ycp) : (s.setYcp y).shafts = s.shafts := rfl
@[simp] theorem State.setYcp_snapAll (y : Ycp) : (s.setYcp y).snapAll = s.snapAll := rfl
@[simp] theorem State.setYcp_eng (y : Ycp) : (s.setYcp y).eng = s.eng := rfl
@[simp] theorem State.setYcp_seq (y : Ycp) : (s.setYcp y).seq = s.seq := rfl
@[simp] theorem State.setYcp_rings (y : Ycp) : (s.setYcp y).rings = s.rings := rfl
@[simp] theorem State.setYcp_timers (y : Ycp) : (s.setYcp y).timers = s.timers := rfl
@[simp] theorem State.setYcp_net (y : Ycp) : (s.setYcp y).net = s.net := rfl
@[simp] theorem State.setYcp_tap (y : Ycp) : (s.setYcp y).tap = s.tap := rfl

@[simp] theorem State.putSess_pending (p : Nat) (x : Session) : (s.putSess p x).pending = s.pending := rfl
@[simp] theorem State.putSess_freeCtr (p : Nat) (x : Session) : (s.putSess p x).freeCtr = s.freeCtr := rfl
@[simp] theorem State.putSess_sent (p : Nat) (x : Session) : (s.putSess p x).sent = s.sent := rfl
@[simp] theorem State.putSess_now (p : Nat) (x : Session) : (s.putSess p x).now = s.now := rfl
@[simp] theorem State.putSess_tickFrac (p : Nat) (x : Session) : (s.putSess p x).tickFrac = s.tickFrac := rfl
@[simp] theorem State.putSess_regs (p : Nat) (x : Session) : (s.putSess p x).regs = s.regs := rfl
@[simp] theorem State.putSess_heldLo (p : Nat) (x : Session) : (s.putSess p x).heldLo = s.heldLo := rfl
@[simp] theorem State.putSess_snaps (p : Nat) (x : Session) : (s.putSess p x).snaps = s.snaps := rfl
@[simp] theorem State.putSess_mem (p : Nat) (x : Session) : (s.putSess p x).mem = s.mem := rfl
@[simp] theorem State.putSess_bad (p : Nat) (x : Session) : (s.putSess p x).bad = s.bad := rfl
@[simp] theorem State.putSess_raised (p : Nat) (x : Session) : (s.putSess p x).raised = s.raised := rfl
@[simp] theorem State.putSess_dev (p : Nat) (x : Session) : (s.putSess p x).dev = s.dev := rfl
@[simp] theorem State.putSess_threads (p : Nat) (x : Session) : (s.putSess p x).threads = s.threads := rfl
@[simp] theorem State.putSess_trios (p : Nat) (x : Session) : (s.putSess p x).trios = s.trios := rfl
@[simp] theorem State.putSess_fab (p : Nat) (x : Session) : (s.putSess p x).fab = s.fab := rfl
@[simp] theorem State.putSess_coll (p : Nat) (x : Session) : (s.putSess p x).coll = s.coll := rfl
@[simp] theorem State.putSess_coll2 (p : Nat) (x : Session) : (s.putSess p x).coll2 = s.coll2 := rfl
@[simp] theorem State.putSess_shafts (p : Nat) (x : Session) : (s.putSess p x).shafts = s.shafts := rfl
@[simp] theorem State.putSess_snapAll (p : Nat) (x : Session) : (s.putSess p x).snapAll = s.snapAll := rfl
@[simp] theorem State.putSess_eng (p : Nat) (x : Session) : (s.putSess p x).eng = s.eng := rfl
@[simp] theorem State.putSess_seq (p : Nat) (x : Session) : (s.putSess p x).seq = s.seq := rfl
@[simp] theorem State.putSess_rings (p : Nat) (x : Session) : (s.putSess p x).rings = s.rings := rfl
@[simp] theorem State.putSess_timers (p : Nat) (x : Session) : (s.putSess p x).timers = s.timers := rfl
@[simp] theorem State.putSess_net (p : Nat) (x : Session) : (s.putSess p x).net = s.net := rfl
@[simp] theorem State.putSess_tap (p : Nat) (x : Session) : (s.putSess p x).tap = s.tap := rfl

@[simp] theorem State.emit_sent (o : Output) : (s.emit o).sent = o :: s.sent := rfl
@[simp] theorem State.emits_sent (l : List Output) : (s.emits l).sent = l.reverse ++ s.sent := rfl
@[simp] theorem State.raiseA_raised (a : Assertion) : (s.raiseA a).raised = s.raised ++ [⟨a, s.now⟩] := rfl
@[simp] theorem State.poke_mem (a : Nat) (l : List Byte) : (s.poke a l).mem = memWriteL s.mem a l := rfl
@[simp] theorem State.modColl_coll (f : Coll → Coll) : (s.modColl f).coll = f s.coll := rfl
@[simp] theorem State.modColl_coll2 (f : Coll → Coll) : (s.modColl f).coll2 = f s.coll2 := rfl
@[simp] theorem State.setDev_dev (d : Dev) : (s.setDev d).dev = d := rfl
@[simp] theorem State.setSeq_seq (x : Seq) : (s.setSeq x).seq = x := rfl
@[simp] theorem State.setYcp_ycp (y : Ycp) : (s.setYcp y).ycp = y := rfl

theorem State.rd_congr {s t : State} (h : t.regs = s.regs) (k : Nat) : t.rd k = s.rd k := by unfold State.rd; rw [h]
theorem State.fld_congr {s t : State} (h : t.regs = s.regs) (b : Nat) (f : Fld) : t.fld b f = s.fld b f := by
  unfold State.fld; rw [State.rd_congr h]
theorem State.thread_congr {s t : State} (h : t.threads = s.threads) (k : Nat) : t.thread k = s.thread k := by unfold State.thread; rw [h]
theorem State.trio_congr {s t : State} (h : t.trios = s.trios) (n : Nat) : t.trio n = s.trio n := by unfold State.trio; rw [h]

@[simp] theorem State.wr_thread (k : Nat) (v : W32) (j : Nat) : (s.wr k v).thread j = s.thread j := State.thread_congr (State.wr_threads s k v) j
@[simp] theorem State.wr_trio (k : Nat) (v : W32) (j : Nat) : (s.wr k v).trio j = s.trio j := State.trio_congr (State.wr_trios s k v) j
@[simp] theorem State.setFld_thread (b : Nat) (f : Fld) (v : Nat) (j : Nat) : (s.setFld b f v).thread j = s.thread j := State.thread_congr (State.setFld_threads s b f v) j
@[simp] theorem State.setFld_trio (b : Nat) (f : Fld) (v : Nat) (j : Nat) : (s.setFld b f v).trio j = s.trio j := State.trio_congr (State.setFld_trios s b f v) j
@[simp] theorem State.wr64_thread (k : Nat) (v : W64) (j : Nat) : (s.wr64 k v).thread j = s.thread j := State.thread_congr (State.wr64_threads s k v) j
@[simp] theorem State.wr64_trio (k : Nat) (v : W64) (j : Nat) : (s.wr64 k v).trio j = s.trio j := State.trio_congr (State.wr64_trios s k v) j
@[simp] theorem State.incSat_thread (b : Nat) (f : Fld) (j : Nat) : (s.incSat b f).thread j = s.thread j := State.thread_congr (State.incSat_threads s b f) j
@[simp] theorem State.incSat_trio (b : Nat) (f : Fld) (j : Nat) : (s.incSat b f).trio j = s.trio j := State.trio_congr (State.incSat_trios s b f) j
@[simp] theorem State.incWrap_thread (b : Nat) (f : Fld) (j : Nat) : (s.incWrap b f).thread j = s.thread j := State.thread_congr (State.incWrap_threads s b f) j
@[simp] theorem State.incWrap_trio (b : Nat) (f : Fld) (j : Nat) : (s.incWrap b f).trio j = s.trio j := State.trio_congr (State.incWrap_trios s b f) j
@[simp] theorem State.irq_thread (n : Nat) (j : Nat) : (s.irq n).thread j = s.thread j := State.thread_congr (State.irq_threads s n) j
@[simp] theorem State.irq_trio (n : Nat) (j : Nat) : (s.irq n).trio j = s.trio j := State.trio_congr (State.irq_trios s n) j
@[simp] theorem State.raiseA_rd (a : Assertion) (key : Nat) : (s.raiseA a).rd key = s.rd key := State.rd_congr (State.raiseA_regs s a) key
@[simp] theorem State.raiseA_fld (a : Assertion) (base : Nat) (fl : Fld) : (s.raiseA a).fld base fl = s.fld base fl := State.fld_congr (State.raiseA_regs s a) base fl
@[simp] theorem State.raiseA_thread (a : Assertion) (j : Nat) : (s.raiseA a).thread j = s.thread j := State.thread_congr (State.raiseA_threads s a) j
@[simp] theorem State.raiseA_trio (a : Assertion) (j : Nat) : (s.raiseA a).trio j = s.trio j := State.trio_congr (State.raiseA_trios s a) j
@[simp] theorem State.raise_rd (n : Nat) (key : Nat) : (s.raise n).rd key = s.rd key := State.rd_congr (State.raise_regs s n) key
@[simp] theorem State.raise_fld (n : Nat) (base : Nat) (fl : Fld) : (s.raise n).fld base fl = s.fld base fl := State.fld_congr (State.raise_regs s n) base fl
@[simp] theorem State.raise_thread (n : Nat) (j : Nat) : (s.raise n).thread j = s.thread j := State.thread_congr (State.raise_threads s n) j
@[simp] theorem State.raise_trio (n : Nat) (j : Nat) : (s.raise n).trio j = s.trio j := State.trio_congr (State.raise_trios s n) j
@[simp] theorem State.raiseAt_rd (n a : Nat) (key : Nat) : (s.raiseAt n a).rd key = s.rd key := State.rd_congr (State.raiseAt_regs s n a) key
@[simp] theorem State.raiseAt_fld (n a : Nat) (base : Nat) (fl : Fld) : (s.raiseAt n a).fld base fl = s.fld base fl := State.fld_congr (State.raiseAt_regs s n a) base fl
@[simp] theorem State.raiseAt_thread (n a : Nat) (j : Nat) : (s.raiseAt n a).thread j = s.thread j := State.thread_congr (State.raiseAt_threads s n a) j
@[simp] theorem State.raiseAt_trio (n a : Nat) (j : Nat) : (s.raiseAt n a).trio j = s.trio j := State.trio_congr (State.raiseAt_trios s n a) j
@[simp] theorem State.markBad_rd (a : Nat) (key : Nat) : (s.markBad a).rd key = s.rd key := State.rd_congr (State.markBad_regs s a) key
@[simp] theorem State.markBad_fld (a : Nat) (base : Nat) (fl : Fld) : (s.markBad a).fld base fl = s.fld base fl := State.fld_congr (State.markBad_regs s a) base fl
@[simp] theorem State.markBad_thread (a : Nat) (j : Nat) : (s.markBad a).thread j = s.thread j := State.thread_congr (State.markBad_threads s a) j
@[simp] theorem State.markBad_trio (a : Nat) (j : Nat) : (s.markBad a).trio j = s.trio j := State.trio_congr (State.markBad_trios s a) j
@[simp] theorem State.raiseUnit_rd (n c u : Nat) (key : Nat) : (s.raiseUnit n c u).rd key = s.rd key := State.rd_congr (State.raiseUnit_regs s n c u) key
@[simp] theorem State.raiseUnit_fld (n c u : Nat) (base : Nat) (fl : Fld) : (s.raiseUnit n c u).fld base fl = s.fld base fl := State.fld_congr (State.raiseUnit_regs s n c u) base fl
@[simp] theorem State.raiseUnit_thread (n c u : Nat) (j : Nat) : (s.raiseUnit n c u).thread j = s.thread j := State.thread_congr (State.raiseUnit_threads s n c u) j
@[simp] theorem State.raiseUnit_trio (n c u : Nat) (j : Nat) : (s.raiseUnit n c u).trio j = s.trio j := State.trio_congr (State.raiseUnit_trios s n c u) j
@[simp] theorem State.raiseCond_rd (n : Nat) (x : W32) (key : Nat) : (s.raiseCond n x).rd key = s.rd key := State.rd_congr (State.raiseCond_regs s n x) key
@[simp] theorem State.raiseCond_fld (n : Nat) (x : W32) (base : Nat) (fl : Fld) : (s.raiseCond n x).fld base fl = s.fld base fl := State.fld_congr (State.raiseCond_regs s n x) base fl
@[simp] theorem State.raiseCond_thread (n : Nat) (x : W32) (j : Nat) : (s.raiseCond n x).thread j = s.thread j := State.thread_congr (State.raiseCond_threads s n x) j
@[simp] theorem State.raiseCond_trio (n : Nat) (x : W32) (j : Nat) : (s.raiseCond n x).trio j = s.trio j := State.trio_congr (State.raiseCond_trios s n x) j
@[simp] theorem State.endCond_rd (n : Nat) (key : Nat) : (s.endCond n).rd key = s.rd key := State.rd_congr (State.endCond_regs s n) key
@[simp] theorem State.endCond_fld (n : Nat) (base : Nat) (fl : Fld) : (s.endCond n).fld base fl = s.fld base fl := State.fld_congr (State.endCond_regs s n) base fl
@[simp] theorem State.endCond_thread (n : Nat) (j : Nat) : (s.endCond n).thread j = s.thread j := State.thread_congr (State.endCond_threads s n) j
@[simp] theorem State.endCond_trio (n : Nat) (j : Nat) : (s.endCond n).trio j = s.trio j := State.trio_congr (State.endCond_trios s n) j
@[simp] theorem State.emit_rd (o : Output) (key : Nat) : (s.emit o).rd key = s.rd key := State.rd_congr (State.emit_regs s o) key
@[simp] theorem State.emit_fld (o : Output) (base : Nat) (fl : Fld) : (s.emit o).fld base fl = s.fld base fl := State.fld_congr (State.emit_regs s o) base fl
@[simp] theorem State.emit_thread (o : Output) (j : Nat) : (s.emit o).thread j = s.thread j := State.thread_congr (State.emit_threads s o) j
@[simp] theorem State.emit_trio (o : Output) (j : Nat) : (s.emit o).trio j = s.trio j := State.trio_congr (State.emit_trios s o) j
@[simp] theorem State.emits_rd (o : List Output) (key : Nat) : (s.emits o).rd key = s.rd key := State.rd_congr (State.emits_regs s o) key
@[simp] theorem State.emits_fld (o : List Output) (base : Nat) (fl : Fld) : (s.emits o).fld base fl = s.fld base fl := State.fld_congr (State.emits_regs s o) base fl
@[simp] theorem State.emits_thread (o : List Output) (j : Nat) : (s.emits o).thread j = s.thread j := State.thread_congr (State.emits_threads s o) j
@[simp] theorem State.emits_trio (o : List Output) (j : Nat) : (s.emits o).trio j = s.trio j := State.trio_congr (State.emits_trios s o) j
@[simp] theorem State.poke_rd (a : Nat) (l : List Byte) (key : Nat) : (s.poke a l).rd key = s.rd key := State.rd_congr (State.poke_regs s a l) key
@[simp] theorem State.poke_fld (a : Nat) (l : List Byte) (base : Nat) (fl : Fld) : (s.poke a l).fld base fl = s.fld base fl := State.fld_congr (State.poke_regs s a l) base fl
@[simp] theorem State.poke_thread (a : Nat) (l : List Byte) (j : Nat) : (s.poke a l).thread j = s.thread j := State.thread_congr (State.poke_threads s a l) j
@[simp] theorem State.poke_trio (a : Nat) (l : List Byte) (j : Nat) : (s.poke a l).trio j = s.trio j := State.trio_congr (State.poke_trios s a l) j
@[simp] theorem State.setTrio_rd (n : Nat) (x : Trio) (key : Nat) : (s.setTrio n x).rd key = s.rd key := State.rd_congr (State.setTrio_regs s n x) key
@[simp] theorem State.setTrio_fld (n : Nat) (x : Trio) (base : Nat) (fl : Fld) : (s.setTrio n x).fld base fl = s.fld base fl := State.fld_congr (State.setTrio_regs s n x) base fl
@[simp] theorem State.setTrio_thread (n : Nat) (x : Trio) (j : Nat) : (s.setTrio n x).thread j = s.thread j := State.thread_congr (State.setTrio_threads s n x) j
@[simp] theorem State.setThread_rd (k : Nat) (x : Thread) (key : Nat) : (s.setThread k x).rd key = s.rd key := State.rd_congr (State.setThread_regs s k x) key
@[simp] theorem State.setThread_fld (k : Nat) (x : Thread) (base : Nat) (fl : Fld) : (s.setThread k x).fld base fl = s.fld base fl := State.fld_congr (State.setThread_regs s k x) base fl
@[simp] theorem State.setThread_trio (k : Nat) (x : Thread) (j : Nat) : (s.setThread k x).trio j = s.trio j := State.trio_congr (State.setThread_trios s k x) j
@[simp] theorem State.setTlbs_rd (k : Nat) (x : Tlbs) (key : Nat) : (s.setTlbs k x).rd key = s.rd key := State.rd_congr (State.setTlbs_regs s k x) key
@[simp] theorem State.setTlbs_fld (k : Nat) (x : Tlbs) (base : Nat) (fl : Fld) : (s.setTlbs k x).fld base fl = s.fld base fl := State.fld_congr (State.setTlbs_regs s k x) base fl
@[simp] theorem State.setTlbs_thread (k : Nat) (x : Tlbs) (j : Nat) : (s.setTlbs k x).thread j = s.thread j := State.thread_congr (State.setTlbs_threads s k x) j
@[simp] theorem State.setTlbs_trio (k : Nat) (x : Tlbs) (j : Nat) : (s.setTlbs k x).trio j = s.trio j := State.trio_congr (State.setTlbs_trios s k x) j
@[simp] theorem State.modColl_rd (f : Coll → Coll) (key : Nat) : (s.modColl f).rd key = s.rd key := State.rd_congr (State.modColl_regs s f) key
@[simp] theorem State.modColl_fld (f : Coll → Coll) (base : Nat) (fl : Fld) : (s.modColl f).fld base fl = s.fld base fl := State.fld_congr (State.modColl_regs s f) base fl
@[simp] theorem State.modColl_thread (f : Coll → Coll) (j : Nat) : (s.modColl f).thread j = s.thread j := State.thread_congr (State.modColl_threads s f) j
@[simp] theorem State.modColl_trio (f : Coll → Coll) (j : Nat) : (s.modColl f).trio j = s.trio j := State.trio_congr (State.modColl_trios s f) j
@[simp] theorem State.setDev_rd (x : Dev) (key : Nat) : (s.setDev x).rd key = s.rd key := State.rd_congr (State.setDev_regs s x) key
@[simp] theorem State.setDev_fld (x : Dev) (base : Nat) (fl : Fld) : (s.setDev x).fld base fl = s.fld base fl := State.fld_congr (State.setDev_regs s x) base fl
@[simp] theorem State.setDev_thread (x : Dev) (j : Nat) : (s.setDev x).thread j = s.thread j := State.thread_congr (State.setDev_threads s x) j
@[simp] theorem State.setDev_trio (x : Dev) (j : Nat) : (s.setDev x).trio j = s.trio j := State.trio_congr (State.setDev_trios s x) j
@[simp] theorem State.setQueue_rd (q : Nat) (x : Queue) (key : Nat) : (s.setQueue q x).rd key = s.rd key := State.rd_congr (State.setQueue_regs s q x) key
@[simp] theorem State.setQueue_fld (q : Nat) (x : Queue) (base : Nat) (fl : Fld) : (s.setQueue q x).fld base fl = s.fld base fl := State.fld_congr (State.setQueue_regs s q x) base fl
@[simp] theorem State.setQueue_thread (q : Nat) (x : Queue) (j : Nat) : (s.setQueue q x).thread j = s.thread j := State.thread_congr (State.setQueue_threads s q x) j
@[simp] theorem State.setQueue_trio (q : Nat) (x : Queue) (j : Nat) : (s.setQueue q x).trio j = s.trio j := State.trio_congr (State.setQueue_trios s q x) j
@[simp] theorem State.setSeq_rd (x : Seq) (key : Nat) : (s.setSeq x).rd key = s.rd key := State.rd_congr (State.setSeq_regs s x) key
@[simp] theorem State.setSeq_fld (x : Seq) (base : Nat) (fl : Fld) : (s.setSeq x).fld base fl = s.fld base fl := State.fld_congr (State.setSeq_regs s x) base fl
@[simp] theorem State.setSeq_thread (x : Seq) (j : Nat) : (s.setSeq x).thread j = s.thread j := State.thread_congr (State.setSeq_threads s x) j
@[simp] theorem State.setSeq_trio (x : Seq) (j : Nat) : (s.setSeq x).trio j = s.trio j := State.trio_congr (State.setSeq_trios s x) j
@[simp] theorem State.setShaft_rd (n : Nat) (x : Shaft) (key : Nat) : (s.setShaft n x).rd key = s.rd key := State.rd_congr (State.setShaft_regs s n x) key
@[simp] theorem State.setShaft_fld (n : Nat) (x : Shaft) (base : Nat) (fl : Fld) : (s.setShaft n x).fld base fl = s.fld base fl := State.fld_congr (State.setShaft_regs s n x) base fl
@[simp] theorem State.setShaft_thread (n : Nat) (x : Shaft) (j : Nat) : (s.setShaft n x).thread j = s.thread j := State.thread_congr (State.setShaft_threads s n x) j
@[simp] theorem State.setShaft_trio (n : Nat) (x : Shaft) (j : Nat) : (s.setShaft n x).trio j = s.trio j := State.trio_congr (State.setShaft_trios s n x) j
@[simp] theorem State.setRing_rd (r : Nat) (x : Ring) (key : Nat) : (s.setRing r x).rd key = s.rd key := State.rd_congr (State.setRing_regs s r x) key
@[simp] theorem State.setRing_fld (r : Nat) (x : Ring) (base : Nat) (fl : Fld) : (s.setRing r x).fld base fl = s.fld base fl := State.fld_congr (State.setRing_regs s r x) base fl
@[simp] theorem State.setRing_thread (r : Nat) (x : Ring) (j : Nat) : (s.setRing r x).thread j = s.thread j := State.thread_congr (State.setRing_threads s r x) j
@[simp] theorem State.setRing_trio (r : Nat) (x : Ring) (j : Nat) : (s.setRing r x).trio j = s.trio j := State.trio_congr (State.setRing_trios s r x) j
@[simp] theorem State.setEthp_rd (p : Nat) (x : EthPort) (key : Nat) : (s.setEthp p x).rd key = s.rd key := State.rd_congr (State.setEthp_regs s p x) key
@[simp] theorem State.setEthp_fld (p : Nat) (x : EthPort) (base : Nat) (fl : Fld) : (s.setEthp p x).fld base fl = s.fld base fl := State.fld_congr (State.setEthp_regs s p x) base fl
@[simp] theorem State.setEthp_thread (p : Nat) (x : EthPort) (j : Nat) : (s.setEthp p x).thread j = s.thread j := State.thread_congr (State.setEthp_threads s p x) j
@[simp] theorem State.setEthp_trio (p : Nat) (x : EthPort) (j : Nat) : (s.setEthp p x).trio j = s.trio j := State.trio_congr (State.setEthp_trios s p x) j
@[simp] theorem State.setPtp_rd (p : Nat) (x : PtpPort) (key : Nat) : (s.setPtp p x).rd key = s.rd key := State.rd_congr (State.setPtp_regs s p x) key
@[simp] theorem State.setPtp_fld (p : Nat) (x : PtpPort) (base : Nat) (fl : Fld) : (s.setPtp p x).fld base fl = s.fld base fl := State.fld_congr (State.setPtp_regs s p x) base fl
@[simp] theorem State.setPtp_thread (p : Nat) (x : PtpPort) (j : Nat) : (s.setPtp p x).thread j = s.thread j := State.thread_congr (State.setPtp_threads s p x) j
@[simp] theorem State.setPtp_trio (p : Nat) (x : PtpPort) (j : Nat) : (s.setPtp p x).trio j = s.trio j := State.trio_congr (State.setPtp_trios s p x) j
@[simp] theorem State.setYcp_rd (y : Ycp) (key : Nat) : (s.setYcp y).rd key = s.rd key := State.rd_congr (State.setYcp_regs s y) key
@[simp] theorem State.setYcp_fld (y : Ycp) (base : Nat) (fl : Fld) : (s.setYcp y).fld base fl = s.fld base fl := State.fld_congr (State.setYcp_regs s y) base fl
@[simp] theorem State.setYcp_thread (y : Ycp) (j : Nat) : (s.setYcp y).thread j = s.thread j := State.thread_congr (State.setYcp_threads s y) j
@[simp] theorem State.setYcp_trio (y : Ycp) (j : Nat) : (s.setYcp y).trio j = s.trio j := State.trio_congr (State.setYcp_trios s y) j
@[simp] theorem State.putSess_rd (p : Nat) (x : Session) (key : Nat) : (s.putSess p x).rd key = s.rd key := State.rd_congr (State.putSess_regs s p x) key
@[simp] theorem State.putSess_fld (p : Nat) (x : Session) (base : Nat) (fl : Fld) : (s.putSess p x).fld base fl = s.fld base fl := State.fld_congr (State.putSess_regs s p x) base fl
@[simp] theorem State.putSess_thread (p : Nat) (x : Session) (j : Nat) : (s.putSess p x).thread j = s.thread j := State.thread_congr (State.putSess_threads s p x) j
@[simp] theorem State.putSess_trio (p : Nat) (x : Session) (j : Nat) : (s.putSess p x).trio j = s.trio j := State.trio_congr (State.putSess_trios s p x) j

@[simp] theorem State.setThread_same (k : Nat) (x : Thread) : (s.setThread k x).thread k = x := Tab.get_set_same _ _ _ _
theorem State.setThread_other {k j : Nat} (h : j ≠ k) (x : Thread) : (s.setThread k x).thread j = s.thread j := Tab.get_set_other _ _ h _
@[simp] theorem State.setTrio_same (n : Nat) (x : Trio) : (s.setTrio n x).trio n = x := Tab.get_set_same _ _ _ _
theorem State.setTrio_other {n m : Nat} (h : m ≠ n) (x : Trio) : (s.setTrio n x).trio m = s.trio m := Tab.get_set_other _ _ h _

end Sys2Proof.Machine
end

