-- ==== Sys2Proof/Laws/Core.lean ====
section
/-! SUPPORT. Laws of the core rows: what an issued instruction does, said once for every row. -/
namespace Sys2Proof.Machine

/-- All that a successful translation changes: nothing, or the translation caches, or these and WALK_CNT. -/
def XlStep (s s1 : State) : Prop :=
  s1 = s ∨ (∃ k x, s1 = s.setTlbs k x) ∨ ∃ k x, s1 = (s.setTlbs k x).incWrap B.walk WALK.WALK_CNT

/-- All that a successful fetch changes: what its translation does, and the order of the trio's instruction lines. -/
def FetchStep (s s1 : State) : Prop := ∃ s0, XlStep s s0 ∧ (s1 = s0 ∨ ∃ n l, s1 = s0.setLines n l)

theorem xl_ok_cases {s s1 : State} {t : ThreadId} {q : XReq} {got : List (Nat × Option W64)} {pa : Nat}
    (h : s.xl t q got = .ok (pa, s1)) : XlStep s s1 := by
  unfold State.xl at h
  dsimp only at h
  repeat' split at h
  all_goals first
    | contradiction
    | obtain rfl : _ = s1 := congrArg Prod.snd (Except.ok.inj h)
      first
        | exact .inl rfl
        | exact .inr (.inl ⟨_, _, rfl⟩)
        | exact .inr (.inr ⟨_, _, rfl⟩)

/-- All that a piece found accessible changes: whatever refuses it answers no state. -/
theorem piece_ok_cases {a : MAcc} {c : Cx} {s s1 : State} {la n pa : Nat} (h : a.piece c s la n = .ok (pa, s1)) : XlStep s s1 := by
  unfold MAcc.piece at h
  dsimp only at h
  repeat' split at h
  all_goals first
    | contradiction
    | obtain rfl : _ = s1 := congrArg Prod.snd (Except.ok.inj h)
      exact xl_ok_cases (by assumption)

theorem fetchStop_ok_cases {c : Cx} {s s1 : State} (h : fetchStop c s = .ok s1) : FetchStep s s1 := by
  unfold fetchStop at h
  dsimp only at h
  repeat' split at h
  all_goals first
    | contradiction
    | obtain rfl := Except.ok.inj h
      first
        | exact ⟨_, piece_ok_cases (by assumption), .inl rfl⟩
        | exact ⟨_, piece_ok_cases (by assumption), .inr ⟨_, _, rfl⟩⟩

/-- The parts of `issued`. -/
theorem issued_parts {s s1 : State} {t : ThreadId} {w : W32} {th : Thread} {d : Dec} (h : issued s t w = some (th, d, s1)) :
    s.issuing t = some th ∧ decodeOp w = .ok d ∧ fetchStop (fetchCx s t th w) s = .ok s1 ∧ th.executes w = true ∧
      th.ring ≤ d.ringMax := by
  unfold issued at h
  split at h
  · rename_i h1 h2
    split at h
    · rename_i h3
      split at h
      · rename_i h4
        cases h
        simp only [Bool.and_eq_true, decide_eq_true_eq] at h4
        exact ⟨h1, h2, h3, h4.1, h4.2⟩
      · cases h
    · cases h
  · cases h

/-- The fetch of an issued word leaves everything but the translation caches, WALK_CNT and the order of the instruction lines. -/
theorem issued_frame {s s1 : State} {t : ThreadId} {w : W32} {th : Thread} {d : Dec} (h : issued s t w = some (th, d, s1)) :
    FetchStep s s1 := fetchStop_ok_cases (issued_parts h).2.2.1

/-- An issuing thread is the one State holds, but for a wait it leaves. -/
theorem issuing_thread {s : State} {t : ThreadId} {th : Thread} (h : s.issuing t = some th) :
    th = s.thread (s.tkey t) ∨ th = { s.thread (s.tkey t) with st := .running } := by
  unfold State.issuing at h
  simp only at h
  split at h
  · cases h
  · split at h
    · cases h; exact .inl rfl
    · split at h
      · cases h; exact .inr rfl
      · cases h
    · cases h
    · cases h

theorem issued_threads {s s1 : State} {t : ThreadId} {w : W32} {th : Thread} {d : Dec} (h : issued s t w = some (th, d, s1)) (k : Nat) :
    s1.thread k = s.thread k := by
  obtain ⟨s0, rfl | ⟨_, _, rfl⟩ | ⟨_, _, rfl⟩, rfl | ⟨_, _, rfl⟩⟩ := issued_frame h <;> simp [State.setLines]

/-- The store buffer of an issued thread is the one State holds after the fetch. -/
theorem issued_buf {s s1 : State} {t : ThreadId} {w : W32} {th : Thread} {d : Dec} (h : issued s t w = some (th, d, s1)) :
    (s1.thread (s.tkey t)).buf = th.buf := by
  rw [issued_threads h]
  rcases issuing_thread (issued_parts h).1 with rfl | rfl <;> rfl

/-- An issued word runs its operation in the state the fetch leaves, and the thread takes the outcome. -/
theorem coreRow_issued {s s1 : State} {t : ThreadId} {w : W32} {th : Thread} {d : Dec} (h : issued s t w = some (th, d, s1))
    (p : Dec → Bool) (hp : p d = true) (hr : d.row ≠ .endp) :
    coreRow p t w s = settle (fetchCx s t th w) (opExec (runCx s t th w d) s1) := by
  unfold issued at h
  split at h
  · rename_i th' d' h1 h2
    split at h
    · rename_i s1' h3
      split at h
      · rename_i h4
        simp only [Option.some.injEq, Prod.mk.injEq] at h
        obtain ⟨rfl, rfl, rfl⟩ := h
        simp only [Bool.and_eq_true, decide_eq_true_eq] at h4
        unfold coreRow
        simp only [h1, h2, hp, if_true]
        unfold coreRun
        unfold fetchCx at h3
        simp only [Option.isSome_none, Bool.false_eq_true, if_false, h3, h2]
        rw [if_neg hr, if_neg (by simp [h4.1]), if_neg (by omega)]
        rfl
      · simp at h
    · simp at h
  · simp at h

/-- A fold whose every step changes threads alone changes threads alone. -/
theorem foldl_threads_only {α : Type} (f : State → α → State) (hf : ∀ s x, f s x = { s with threads := (f s x).threads }) :
    ∀ (l : List α) (s : State), l.foldl f s = { s with threads := (l.foldl f s).threads }
  | [], _ => rfl
  | x :: l, s => by rw [List.foldl_cons, foldl_threads_only f hf l (f s x), hf s x]

/-- A page access that ends waits (R82) changes threads alone. -/
theorem wakeWaiting_eq (s : State) : wakeWaiting s = { s with threads := (wakeWaiting s).threads } := by
  refine foldl_threads_only _ (fun a c => ?_) _ s
  dsimp only
  split <;> rfl

end Sys2Proof.Machine
end

