-- ==== Sys2Proof/Laws/Memory.lean ====
section
/-! SUPPORT. Laws of memory: a byte read after a write, every other byte as before, and the canonical form kept by every operation
that touches memory or the register table. -/
namespace Sys2Proof.Machine

/-! ### Reading after writing -/

@[simp] theorem memRead_memWrite_same (m : List Host.Cell) (a : Nat) (b : Byte) : memRead (memWrite m a b) a = b :=
  cellGet_cellSet_same _ _ _ _

theorem memRead_memWrite_other (m : List Host.Cell) {a x : Nat} (h : x ≠ a) (b : Byte) : memRead (memWrite m a b) x = memRead m x :=
  cellGet_cellSet_other _ _ h _

@[simp] theorem memRead_nil (a : Nat) : memRead [] a = 0 := rfl

/-- A byte below the bytes written reads as before. -/
theorem memRead_memWriteL_below {x : Nat} : ∀ {l : List Byte} {m : List Host.Cell} {a : Nat}, x < a →
    memRead (memWriteL m a l) x = memRead m x
  | [], _, _, _ => rfl
  | b :: t, m, a, h => by
    rw [memWriteL, memRead_memWriteL_below (by omega), memRead_memWrite_other _ (by omega)]

/-- Every byte of memory after a run of bytes was written: one of the run, or as before. -/
theorem memRead_memWriteL (x : Nat) : ∀ (l : List Byte) (m : List Host.Cell) (a : Nat),
    memRead (memWriteL m a l) x = if a ≤ x ∧ x < a + l.length then l.getD (x - a) 0 else memRead m x
  | [], m, a => by rw [memWriteL, if_neg (by simp only [List.length_nil]; omega)]
  | b :: t, m, a => by
    rw [memWriteL, memRead_memWriteL x t]
    rcases Nat.lt_trichotomy x a with h | rfl | h
    · rw [if_neg (by omega), if_neg (by simp only [List.length_cons]; omega), memRead_memWrite_other _ (by omega)]
    · rw [if_neg (by omega), if_pos (by simp only [List.length_cons]; omega)]
      simp
    · obtain ⟨d, rfl⟩ : ∃ d, x = a + 1 + d := ⟨x - (a + 1), by omega⟩
      by_cases hd : d < t.length
      · rw [if_pos (by omega), if_pos (by simp only [List.length_cons]; omega), show a + 1 + d - (a + 1) = d by omega,
          show a + 1 + d - a = d + 1 by omega]
        simp
      · rw [if_neg (by omega), if_neg (by simp only [List.length_cons]; omega), memRead_memWrite_other _ (by omega)]

theorem memRead_memWriteL_other {l : List Byte} {m : List Host.Cell} {a x : Nat} (h : x < a ∨ a + l.length ≤ x) :
    memRead (memWriteL m a l) x = memRead m x := by
  rw [memRead_memWriteL, if_neg (by omega)]

@[simp] theorem memReadN_length (m : List Host.Cell) : ∀ (n a : Nat), (memReadN m a n).length = n
  | 0, _ => rfl
  | n + 1, a => by simp [memReadN, memReadN_length m n]

/-- Two memories that agree on a run of bytes give the same run. -/
theorem memReadN_congr {m m' : List Host.Cell} : ∀ {n a : Nat}, (∀ x, a ≤ x → x < a + n → memRead m x = memRead m' x) →
    memReadN m a n = memReadN m' a n
  | 0, _, _ => rfl
  | n + 1, a, h => by
    rw [memReadN, memReadN, h a (by omega) (by omega), memReadN_congr (fun x h1 h2 => h x (by omega) (by omega))]

/-- What was written is what reads back. -/
@[simp] theorem memReadN_memWriteL (m : List Host.Cell) : ∀ (l : List Byte) (a : Nat), memReadN (memWriteL m a l) a l.length = l
  | [], _ => rfl
  | b :: t, a => by
    rw [List.length_cons, memReadN, memWriteL, memReadN_memWriteL (memWrite m a b) t, memRead_memWriteL_below (by omega),
      memRead_memWrite_same]

@[simp] theorem State.peek_poke_same (s : State) (a : Nat) (l : List Byte) : (s.poke a l).peek a l.length = l :=
  memReadN_memWriteL _ _ _

theorem State.peek_poke_other (s : State) {a b n : Nat} {l : List Byte} (h : b + n ≤ a ∨ a + l.length ≤ b) :
    (s.poke a l).peek b n = s.peek b n :=
  memReadN_congr (fun _ _ _ => memRead_memWriteL_other (by omega))

/-! ### The canonical form -/

theorem memWrite_wf {m : List Host.Cell} (a : Nat) (b : Byte) (h : Memory.wf m) : Memory.wf (memWrite m a b) := cellSet_wf _ _ _ h

theorem memWriteL_wf : ∀ (l : List Byte) {m : List Host.Cell} (a : Nat), Memory.wf m → Memory.wf (memWriteL m a l)
  | [], _, _, h => h
  | b :: t, _, a, h => memWriteL_wf t (a + 1) (memWrite_wf a b h)

theorem State.poke_wf {s : State} (a : Nat) (l : List Byte) (h : Memory.wf s.mem) : Memory.wf (s.poke a l).mem := memWriteL_wf l a h

/-- What stays of a list above a bound is above it. -/
theorem cellsAbove_filter {α : Type} [DecidableEq α] {d : Nat → α} (p : Nat × α → Bool) {b : Nat} :
    ∀ {l : List (Nat × α)}, cellsAbove b l → cellsWf d l = true → cellsAbove b (l.filter p)
  | [], _, _ => trivial
  | (j, v) :: t, h, hw => by
    obtain ⟨_, ha, ht⟩ := (cellsWf_cons d j v t).1 hw
    rw [List.filter_cons]
    split
    · exact h
    · refine cellsAbove_filter p ?_ ht
      cases t with
      | nil => trivial
      | cons c t => simp only [cellsAbove] at *; omega

/-- Dropping cells keeps the canonical form: a reset does so to memory and to registers. -/
theorem cellsWf_filter {α : Type} [DecidableEq α] {d : Nat → α} (p : Nat × α → Bool) :
    ∀ {l : List (Nat × α)}, cellsWf d l = true → cellsWf d (l.filter p) = true
  | [], _ => rfl
  | (j, v) :: t, h => by
    obtain ⟨hv, ha, ht⟩ := (cellsWf_cons d j v t).1 h
    rw [List.filter_cons]
    split
    · exact (cellsWf_cons d _ _ _).2 ⟨hv, cellsAbove_filter p ha ht, cellsWf_filter p ht⟩
    · exact cellsWf_filter p ht

theorem memory_filter_wf {m : List Host.Cell} (p : Host.Cell → Bool) (h : Memory.wf m) : Memory.wf (m.filter p) := cellsWf_filter p h

theorem clearSram_wf {s : State} (h : Memory.wf s.mem) : Memory.wf (clearSram s).mem := memory_filter_wf _ h

theorem State.wr_wf {s : State} (k : Nat) (v : W32) (h : s.regs.wf regReset) : (s.wr k v).regs.wf regReset := Tab.set_wf _ _ _ _ h

theorem reset_mem_wf : Memory.wf State.reset.mem := rfl

end Sys2Proof.Machine
end

