-- ==== Sys2Proof/Laws/Kept.lean ====
section
/-! SUPPORT. What every shared operation keeps: the queue of waiting commands, and the canonical form of memory and registers. -/
namespace Sys2Proof.Machine

/-- The queue is `p`, and memory and registers have their canonical form. -/
structure Good (p : List Instr) (s : State) : Prop where
  pending : s.pending = p
  mem : Memory.wf s.mem
  regs : s.regs.wf regReset

variable {p : List Instr}

theorem good_ite {c : Prop} [Decidable c] {a b : State} (h : Good p a) (k : Good p b) : Good p (if c then a else b) := by
  split <;> assumption

theorem good_foldl {α : Type} {f : State → α → State} {l : List α} (hf : ∀ s x, Good p s → Good p (f s x)) :
    ∀ {s : State}, Good p s → Good p (l.foldl f s) := by
  induction l with
  | nil => exact id
  | cons x t ih => exact fun h => ih (hf _ _ h)

theorem good_foldl_fst {α β : Type} {f : State × β → α → State × β} {l : List α} (hf : ∀ s x, Good p s.1 → Good p (f s x).1) :
    ∀ {s : State × β}, Good p s.1 → Good p (l.foldl f s).1 := by
  induction l with
  | nil => exact id
  | cons x t ih => exact fun h => ih (hf _ _ h)

theorem good_foldl_snd {α β : Type} {f : β × State → α → β × State} {l : List α} (hf : ∀ s x, Good p s.2 → Good p (f s x).2) :
    ∀ {s : β × State}, Good p s.2 → Good p (l.foldl f s).2 := by
  induction l with
  | nil => exact id
  | cons x t ih => exact fun h => ih (hf _ _ h)

/-- An update of any field but the queue, the registers and memory. -/
theorem good_mk_iff {s : State} {a1 a2 a3 a4 a5 a6 a7 a8 a9 a10 a11 a12 a13 a14 a15 a16 a17 a18 a19 a20 a21 a22 a23} :
    Good p (State.mk s.pending a1 a2 a3 a4 s.regs a5 a6 s.mem a7 a8 a9 a10 a11 a12 a13 a14 a15 a16 a17 a18 a19 a20 a21 a22 a23) ↔ Good p s :=
  ⟨fun h => ⟨h.pending, h.mem, h.regs⟩, fun h => ⟨h.pending, h.mem, h.regs⟩⟩

/-! ### The state an outcome carries -/

def OpEnd.state : OpEnd → State
  | .done s _ _ _ => s
  | .wrote s _ _ _ => s
  | .goto s _ => s
  | .keep s => s
  | .exc s _ => s
  | .wait s _ => s
  | .enter s _ _ => s

def YEnd.state : YEnd → State
  | .done _ _ s => s
  | .wait s => s

/-- Of a slot read. -/
def RawEnd.state : RawEnd → State
  | .held s => s
  | .failed s => s
  | .done _ s => s

/-- Of an access or a part of an instruction. -/
def partState {α : Type} : Except OpEnd (α × State) → State
  | .ok x => x.2
  | .error f => f.state

/-- The same with no value beside it. -/
def partState1 : Except OpEnd State → State
  | .ok x => x
  | .error f => f.state

/-- Of a translation. -/
def xlState {α : Type} : Except (XStop × State) (α × State) → State
  | .ok x => x.2
  | .error x => x.2

theorem good_done {s : State} {a b c} (h : Good p s) : Good p (OpEnd.done s a b c).state := h
theorem good_wrote {s : State} {a b c} (h : Good p s) : Good p (OpEnd.wrote s a b c).state := h
theorem good_goto {s : State} {a} (h : Good p s) : Good p (OpEnd.goto s a).state := h
theorem good_keep {s : State} (h : Good p s) : Good p (OpEnd.keep s).state := h
theorem good_exc {s : State} {a} (h : Good p s) : Good p (OpEnd.exc s a).state := h
theorem good_wait {s : State} {a} (h : Good p s) : Good p (OpEnd.wait s a).state := h
theorem good_enter {s : State} {a b} (h : Good p s) : Good p (OpEnd.enter s a b).state := h
theorem good_ydone {s : State} {a b} (h : Good p s) : Good p (YEnd.done a b s).state := h
theorem good_ywait {s : State} (h : Good p s) : Good p (YEnd.wait s).state := h
theorem good_part_ok {α : Type} {s : State} {a : α} (h : Good p s) : Good p (partState (.ok (a, s))) := h
theorem good_part_err {α : Type} {f : OpEnd} (h : Good p f.state) : Good p (partState (α := α) (.error f)) := h
theorem good_iteO {c : Prop} [Decidable c] {a b : OpEnd} (h : Good p a.state) (k : Good p b.state) :
    Good p (if c then a else b).state := by
  split <;> assumption
theorem good_part1_ok {s : State} (h : Good p s) : Good p (partState1 (.ok s)) := h
theorem good_part1_err {f : OpEnd} (h : Good p f.state) : Good p (partState1 (.error f)) := h
theorem good_xl_ok {α : Type} {s : State} {a : α} (h : Good p s) : Good p (xlState (.ok (a, s))) := h
theorem good_xl_err {α : Type} {s : State} {a} (h : Good p s) : Good p (xlState (α := α) (.error (a, s))) := h

theorem Cx.put_good {a0} {s : State} {a2} (h : Good p s) : Good p (Cx.put a0 s a2).state := by
  unfold Cx.put
  repeat' (with_reducible first
    | assumption
    | refine good_ite ?_ ?_
    | refine good_done ?_)

theorem Cx.wordExc_good {a0} {s : State} {a2} (h : Good p s) : Good p (Cx.wordExc a0 s a2).state := by
  unfold Cx.wordExc
  repeat' (with_reducible first
    | assumption
    | refine good_ite ?_ ?_
    | refine good_done ?_
    | refine good_exc ?_)

theorem State.wr_good {s : State} {k : Nat} {v : W32} (h : Good p s) : Good p (s.wr k v) := ⟨h.pending, h.mem, State.wr_wf _ _ h.regs⟩

theorem State.setFld_good {s : State} {a1} {a2} {a3} (h : Good p s) : Good p (State.setFld s a1 a2 a3) := by
  unfold State.setFld
  repeat' (with_reducible first
    | assumption
    | refine good_ite ?_ ?_
    | refine State.wr_good ?_)

theorem State.incWrap_good {s : State} {a1} {a2} (h : Good p s) : Good p (State.incWrap s a1 a2) := by
  unfold State.incWrap
  repeat' (with_reducible first
    | assumption
    | refine good_ite ?_ ?_
    | refine State.setFld_good ?_)

theorem State.setTlbs_good {s : State} {a1} {a2} (h : Good p s) : Good p (State.setTlbs s a1 a2) := by
  unfold State.setTlbs
  repeat' (with_reducible first
    | assumption
    | refine good_ite ?_ ?_
    | intro _
    | simp only []
    | split
    | simp only [good_mk_iff])

theorem State.incSat_good {s : State} {a1} {a2} (h : Good p s) : Good p (State.incSat s a1 a2) := by
  unfold State.incSat
  repeat' (with_reducible first
    | assumption
    | refine good_ite ?_ ?_
    | refine State.setFld_good ?_)

theorem State.xl_good {s : State} {a1} {a2} {a3} (h : Good p s) : Good p (xlState (State.xl s a1 a2 a3)) := by
  unfold State.xl
  repeat' (with_reducible first
    | assumption
    | refine good_ite ?_ ?_
    | refine good_xl_ok ?_
    | refine good_xl_err ?_
    | refine State.incWrap_good ?_
    | refine State.setTlbs_good ?_
    | refine State.incSat_good ?_
    | intro _
    | simp only []
    | split)

theorem State.xl_good_ok {s : State} {a1} {a2} {a3} {t : State} {b} (e : (State.xl s a1 a2 a3) = .ok (b, t)) (h : Good p s) : Good p t := by
  have := State.xl_good (s := s) (a1 := a1) (a2 := a2) (a3 := a3) h
  rw [e] at this
  exact this

theorem State.xl_good_err {s : State} {a1} {a2} {a3} {t : State} {b} (e : (State.xl s a1 a2 a3) = .error (b, t)) (h : Good p s) : Good p t := by
  have := State.xl_good (s := s) (a1 := a1) (a2 := a2) (a3 := a3) h
  rw [e] at this
  exact this

theorem MAcc.piece_good {a0} {a1} {s : State} {a3} {a4} (h : Good p s) : Good p (partState (MAcc.piece a0 a1 s a3 a4)) := by
  unfold MAcc.piece
  repeat' (with_reducible first
    | assumption
    | refine good_ite ?_ ?_
    | refine good_done ?_
    | refine good_exc ?_
    | refine good_wait ?_
    | refine good_enter ?_
    | refine good_ydone ?_
    | refine good_ywait ?_
    | refine good_part_ok ?_
    | refine good_part_err ?_
    | refine State.xl_good ?_
    | refine State.xl_good_ok (by assumption) ?_
    | refine State.xl_good_err (by assumption) ?_
    | intro _
    | simp only []
    | split)

theorem MAcc.piece_good_ok {a0} {a1} {s : State} {a3} {a4} {t : State} {b} (e : (MAcc.piece a0 a1 s a3 a4) = .ok (b, t)) (h : Good p s) : Good p t := by
  have := MAcc.piece_good (a0 := a0) (a1 := a1) (s := s) (a3 := a3) (a4 := a4) h
  rw [e] at this
  exact this

theorem MAcc.piece_good_err {a0} {a1} {s : State} {a3} {a4} {f : OpEnd} (e : (MAcc.piece a0 a1 s a3 a4) = .error f) (h : Good p s) : Good p f.state := by
  have := MAcc.piece_good (a0 := a0) (a1 := a1) (s := s) (a3 := a3) (a4 := a4) h
  rw [e] at this
  exact this

theorem MAcc.pieces_good {a : MAcc} {c : Cx} {l} {s : State} (h : Good p s) : Good p (partState (a.pieces c l s)) := by
  induction l generalizing s with
  | nil => exact h
  | cons x t ih =>
    unfold MAcc.pieces
    split
    · exact MAcc.piece_good_err (by assumption) h
    · have k := MAcc.piece_good_ok (by assumption) h
      split
      · have := ih k
        rename_i e
        rw [e] at this
        exact this
      · have := ih k
        rename_i e
        rw [e] at this
        exact this

theorem MAcc.pieces_good_ok {a0} {a1} {a2} {s : State} {t : State} {b} (e : (MAcc.pieces a0 a1 a2 s) = .ok (b, t)) (h : Good p s) : Good p t := by
  have := (MAcc.pieces_good h : Good p (partState (MAcc.pieces a0 a1 a2 s)))
  rw [e] at this
  exact this

theorem MAcc.pieces_good_err {a0} {a1} {a2} {s : State} {f : OpEnd} (e : (MAcc.pieces a0 a1 a2 s) = .error f) (h : Good p s) : Good p f.state := by
  have := (MAcc.pieces_good h : Good p (partState (MAcc.pieces a0 a1 a2 s)))
  rw [e] at this
  exact this

theorem MAcc.check_good {a0} {a1} {s : State} (h : Good p s) : Good p (partState (MAcc.check a0 a1 s)) := by
  unfold MAcc.check
  repeat' (with_reducible first
    | assumption
    | refine good_ite ?_ ?_
    | refine good_done ?_
    | refine good_exc ?_
    | refine good_wait ?_
    | refine good_enter ?_
    | refine good_ydone ?_
    | refine good_ywait ?_
    | refine good_part_ok ?_
    | refine good_part_err ?_
    | refine MAcc.pieces_good ?_)

theorem MAcc.check_good_ok {a0} {a1} {s : State} {t : State} {b} (e : (MAcc.check a0 a1 s) = .ok (b, t)) (h : Good p s) : Good p t := by
  have := MAcc.check_good (a0 := a0) (a1 := a1) (s := s) h
  rw [e] at this
  exact this

theorem MAcc.check_good_err {a0} {a1} {s : State} {f : OpEnd} (e : (MAcc.check a0 a1 s) = .error f) (h : Good p s) : Good p f.state := by
  have := MAcc.check_good (a0 := a0) (a1 := a1) (s := s) h
  rw [e] at this
  exact this

theorem State.raiseA_good {s : State} {a1} (h : Good p s) : Good p (State.raiseA s a1) := by
  unfold State.raiseA
  repeat' (with_reducible first
    | assumption
    | refine good_ite ?_ ?_
    | intro _
    | simp only []
    | split
    | simp only [good_mk_iff])

theorem State.irq_good {s : State} {a1} (h : Good p s) : Good p (State.irq s a1) := by
  unfold State.irq
  repeat' (with_reducible first
    | assumption
    | refine good_ite ?_ ?_
    | refine State.setFld_good ?_)

theorem dramErr_good {s : State} {a1} {a2} (h : Good p s) : Good p (dramErr s a1 a2) := by
  unfold dramErr
  repeat' (with_reducible first
    | assumption
    | refine good_ite ?_ ?_
    | refine State.irq_good ?_
    | refine State.setFld_good ?_
    | refine State.incSat_good ?_)

theorem State.emit_good {s : State} {a1} (h : Good p s) : Good p (State.emit s a1) := by
  unfold State.emit
  repeat' (with_reducible first
    | assumption
    | refine good_ite ?_ ?_
    | intro _
    | simp only []
    | split
    | simp only [good_mk_iff])

theorem State.emits_good {s : State} {a1} (h : Good p s) : Good p (State.emits s a1) := by
  unfold State.emits
  repeat' (with_reducible first
    | assumption
    | refine good_ite ?_ ?_
    | intro _
    | simp only []
    | split
    | simp only [good_mk_iff])

theorem State.endCond_good {s : State} {a1} (h : Good p s) : Good p (State.endCond s a1) := by
  unfold State.endCond
  repeat' (with_reducible first
    | assumption
    | refine good_ite ?_ ?_
    | intro _
    | simp only []
    | split
    | simp only [good_mk_iff])

theorem State.free_good {s : State} (h : Good p s) : Good p (State.free s).2 := by
  unfold State.free
  repeat' (with_reducible first
    | assumption
    | refine good_ite ?_ ?_
    | intro _
    | simp only []
    | split
    | simp only [good_mk_iff])

theorem State.free_good_eq {s : State} {t : State} {b} (e : (State.free s) = (b, t)) (h : Good p s) : Good p t := by
  have := State.free_good (s := s) h
  rw [e] at this
  exact this

theorem State.freeList_good {s : State} {a1} (h : Good p s) : Good p (State.freeList s a1).2 := by
  unfold State.freeList
  repeat' (with_reducible first
    | assumption
    | refine good_ite ?_ ?_
    | intro _
    | simp only []
    | split
    | simp only [good_mk_iff])

theorem State.freeList_good_eq {s : State} {a1} {t : State} {b} (e : (State.freeList s a1) = (b, t)) (h : Good p s) : Good p t := by
  have := State.freeList_good (s := s) (a1 := a1) h
  rw [e] at this
  exact this

theorem State.ioInval_good {s : State} {a1} {a2} {a3} (h : Good p s) : Good p (State.ioInval s a1 a2 a3) := by
  unfold State.ioInval
  repeat' (with_reducible first
    | assumption
    | refine good_ite ?_ ?_
    | intro _
    | simp only []
    | split
    | simp only [good_mk_iff])

theorem State.markBad_good {s : State} {a1} (h : Good p s) : Good p (State.markBad s a1) := by
  unfold State.markBad
  repeat' (with_reducible first
    | assumption
    | refine good_ite ?_ ?_
    | refine good_foldl ?_ ?_
    | refine good_foldl_fst ?_ ?_
    | refine good_foldl_snd ?_ ?_
    | intro _
    | simp only []
    | split
    | simp only [good_mk_iff])

theorem State.dataErr_good {a1 f} {s : State} (h : Good p s) (hf : ∀ n s, Good p s → Good p (f n s)) : Good p (s.dataErr a1 f) := by
  unfold State.dataErr
  simp only []
  have k := good_ite (c := (s.region a1).keepsBad = true) (State.markBad_good (a1 := a1) h) h
  split
  · exact good_ite (dramErr_good (hf _ _ k)) (hf _ _ k)
  · exact k

theorem State.busErr_good {s : State} {a1} {a2} {a3} {a4} (h : Good p s) : Good p (State.busErr s a1 a2 a3 a4) := by
  unfold State.busErr
  repeat' (with_reducible first
    | assumption
    | refine good_ite ?_ ?_
    | refine State.raiseA_good ?_
    | refine dramErr_good ?_
    | refine State.dataErr_good ?_ ?_
    | refine good_foldl ?_ ?_
    | refine good_foldl_fst ?_ ?_
    | refine good_foldl_snd ?_ ?_
    | intro _
    | simp only []
    | split
    | simp only [good_mk_iff])

theorem State.ioTable_good {s : State} {a1} {a2} (h : Good p s) : Good p (State.ioTable s a1 a2).2 := by
  unfold State.ioTable
  repeat' (with_reducible first
    | assumption
    | refine good_ite ?_ ?_
    | refine State.busErr_good ?_
    | refine good_foldl ?_ ?_
    | refine good_foldl_fst ?_ ?_
    | refine good_foldl_snd ?_ ?_
    | intro _
    | simp only []
    | split
    | simp only [good_mk_iff])

theorem State.ioFill_good {s : State} {a1} {a2} {a3} {a4} (h : Good p s) : Good p (State.ioFill s a1 a2 a3 a4) := by
  unfold State.ioFill
  repeat' (with_reducible first
    | assumption
    | refine good_ite ?_ ?_
    | refine good_foldl ?_ ?_
    | refine good_foldl_fst ?_ ?_
    | refine good_foldl_snd ?_ ?_
    | intro _
    | simp only []
    | split
    | simp only [good_mk_iff])

theorem ioLeaf_good_ok {a1 a2 a3 x b} {t : State} (e : ioLeaf a1 a2 a3 x = .ok (b, t)) (h : Good p x.2) : Good p t := by
  unfold ioLeaf at e
  generalize (if a3 = true then 2 else 1) = need at e
  split at e
  · cases e
  · split at e
    · cases e
      exact State.ioFill_good h
    · cases e

theorem State.ioWalk_good {a1 f k l} {s : State} (h : Good p s) : Good p (State.ioWalk s a1 f k l).2 := by
  induction k generalizing l s with
  | zero => exact h
  | succ k ih =>
    unfold State.ioWalk
    simp only []
    split
    · exact ih (State.ioTable_good h)
    · exact h
    · exact h

theorem State.ioXlate_good_ok {a1 a2 a3 b} {s t : State} (e : State.ioXlate s a1 a2 a3 = .ok (b, t)) (h : Good p s) : Good p t := by
  unfold State.ioXlate at e
  simp only [] at e
  split at e
  · cases e
  · split at e
    · cases e
      exact h
    · split at e
      · split at e
        · cases e
          exact h
        · cases e
      · exact ioLeaf_good_ok e (State.ioWalk_good h)

theorem State.ioPieces_some {b : Nat} {w : Bool} {l ps} {s s1 : State} (e : s.ioPieces b w l = .ok (ps, s1)) (h : Good p s) :
    Good p s1 := by
  induction l generalizing s s1 ps with
  | nil =>
    cases e
    exact h
  | cons x t ih =>
    unfold State.ioPieces at e
    split at e
    · cases e
    · have k := State.ioXlate_good_ok (by assumption) h
      generalize (if w = true then AccK.write else AccK.read) = acc at e
      split at e
      · simp at e
      · split at e
        · simp at e
        · split at e
          · simp at e
          · simp only [Except.ok.injEq, Prod.mk.injEq] at e
            obtain ⟨-, rfl⟩ := e
            exact ih (by assumption) k

theorem State.ioRefuse_good {s : State} {a1} {a2} {a3} {a4} {a5} (h : Good p s) : Good p (State.ioRefuse s a1 a2 a3 a4 a5) := by
  unfold State.ioRefuse
  repeat' (with_reducible first
    | assumption
    | refine good_ite ?_ ?_
    | refine State.wr_good ?_
    | refine State.raiseA_good ?_
    | refine State.incSat_good ?_)

theorem State.setTrio_good {s : State} {a1} {a2} (h : Good p s) : Good p (State.setTrio s a1 a2) := by
  unfold State.setTrio
  repeat' (with_reducible first
    | assumption
    | refine good_ite ?_ ?_
    | intro _
    | simp only []
    | split
    | simp only [good_mk_iff])

theorem State.poke_good {s : State} {a : Nat} {l : List Byte} (h : Good p s) : Good p (s.poke a l) := ⟨h.pending, State.poke_wf _ _ h.mem, h.regs⟩

theorem State.pokeExt_good {s : State} {a1} {a2} {a3} (h : Good p s) : Good p (State.pokeExt s a1 a2 a3) := by
  unfold State.pokeExt
  repeat' (with_reducible first
    | assumption
    | refine good_ite ?_ ?_
    | refine State.setTrio_good ?_
    | refine State.poke_good ?_
    | intro _
    | simp only []
    | split)

theorem wstat_good {a0} {a1} {a2} {a3} {s : State} (h : Good p s) : Good p (wstat a0 a1 a2 a3 s) := by
  unfold wstat
  repeat' (with_reducible first
    | assumption
    | refine good_ite ?_ ?_
    | refine State.wr_good ?_)

theorem State.mapFlights_good {s : State} {a1} (h : Good p s) : Good p (State.mapFlights s a1) := by
  unfold State.mapFlights
  repeat' (with_reducible first
    | assumption
    | refine good_ite ?_ ?_
    | intro _
    | simp only []
    | split
    | simp only [good_mk_iff])

theorem State.pushUndo_good {s : State} {a1} {a2} {a3} (h : Good p s) : Good p (State.pushUndo s a1 a2 a3) := by
  unfold State.pushUndo
  repeat' (with_reducible first
    | assumption
    | refine good_ite ?_ ?_
    | refine State.setTrio_good ?_
    | refine State.setFld_good ?_)

theorem State.pokeLocal_good {s : State} {a1} {a2} {a3} (h : Good p s) : Good p (State.pokeLocal s a1 a2 a3) := by
  unfold State.pokeLocal
  repeat' (with_reducible first
    | assumption
    | refine good_ite ?_ ?_
    | refine State.poke_good ?_
    | refine State.pushUndo_good ?_)

theorem State.pushCommit_good {s : State} {a1} {a2} (h : Good p s) : Good p (State.pushCommit s a1 a2) := by
  unfold State.pushCommit
  repeat' (with_reducible first
    | assumption
    | refine good_ite ?_ ?_
    | refine State.setTrio_good ?_
    | refine State.setFld_good ?_)

theorem State.setRing_good {s : State} {a1} {a2} (h : Good p s) : Good p (State.setRing s a1 a2) := by
  unfold State.setRing
  repeat' (with_reducible first
    | assumption
    | refine good_ite ?_ ?_
    | intro _
    | simp only []
    | split
    | simp only [good_mk_iff])

theorem State.pushMnt_good {s : State} {a1} {a2} (h : Good p s) : Good p (State.pushMnt s a1 a2) := by
  unfold State.pushMnt
  repeat' (with_reducible first
    | assumption
    | refine good_ite ?_ ?_
    | refine State.setRing_good ?_)

theorem State.setQueue_good {s : State} {a1} {a2} (h : Good p s) : Good p (State.setQueue s a1 a2) := by
  unfold State.setQueue
  repeat' (with_reducible first
    | assumption
    | refine good_ite ?_ ?_
    | intro _
    | simp only []
    | split
    | simp only [good_mk_iff])

theorem State.putQueue_good {s : State} {a1} {a2} (h : Good p s) : Good p (State.putQueue s a1 a2) := by
  unfold State.putQueue
  repeat' (with_reducible first
    | assumption
    | refine good_ite ?_ ?_
    | refine State.setFld_good ?_
    | refine State.setQueue_good ?_)

theorem State.putSess_good {s : State} {a1} {a2} (h : Good p s) : Good p (State.putSess s a1 a2) := by
  unfold State.putSess
  repeat' (with_reducible first
    | assumption
    | refine good_ite ?_ ?_
    | intro _
    | simp only []
    | split
    | simp only [good_mk_iff])

theorem State.raise_good {s : State} {a1} (h : Good p s) : Good p (State.raise s a1) := by
  unfold State.raise
  repeat' (with_reducible first
    | assumption
    | refine good_ite ?_ ?_
    | refine State.raiseA_good ?_)

theorem State.raiseCond_good {s : State} {a1} {a2} (h : Good p s) : Good p (State.raiseCond s a1 a2) := by
  unfold State.raiseCond
  repeat' (with_reducible first
    | assumption
    | refine good_ite ?_ ?_
    | refine State.raiseA_good ?_
    | intro _
    | simp only []
    | split
    | simp only [good_mk_iff])

theorem State.raiseUnit_good {s : State} {a1} {a2} {a3} (h : Good p s) : Good p (State.raiseUnit s a1 a2 a3) := by
  unfold State.raiseUnit
  repeat' (with_reducible first
    | assumption
    | refine good_ite ?_ ?_
    | refine State.raiseA_good ?_)

theorem State.setDev_good {s : State} {a1} (h : Good p s) : Good p (State.setDev s a1) := by
  unfold State.setDev
  repeat' (with_reducible first
    | assumption
    | refine good_ite ?_ ?_
    | intro _
    | simp only []
    | split
    | simp only [good_mk_iff])

theorem State.setEthp_good {s : State} {a1} {a2} (h : Good p s) : Good p (State.setEthp s a1 a2) := by
  unfold State.setEthp
  repeat' (with_reducible first
    | assumption
    | refine good_ite ?_ ?_
    | intro _
    | simp only []
    | split
    | simp only [good_mk_iff])

theorem State.setFlashCmd_good {s : State} {a1} {a2} (h : Good p s) : Good p (State.setFlashCmd s a1 a2) := by
  unfold State.setFlashCmd
  repeat' (with_reducible first
    | assumption
    | refine good_ite ?_ ?_
    | intro _
    | simp only []
    | split
    | simp only [good_mk_iff])

theorem State.setGroups_good {s : State} {a1} (h : Good p s) : Good p (State.setGroups s a1) := by
  unfold State.setGroups
  repeat' (with_reducible first
    | assumption
    | refine good_ite ?_ ?_
    | intro _
    | simp only []
    | split
    | simp only [good_mk_iff])

theorem State.setYcp_good {s : State} {a1} (h : Good p s) : Good p (State.setYcp s a1) := by
  unfold State.setYcp
  repeat' (with_reducible first
    | assumption
    | refine good_ite ?_ ?_
    | intro _
    | simp only []
    | split
    | simp only [good_mk_iff])

theorem State.setKeySlot_good {s : State} {a1} {a2} (h : Good p s) : Good p (State.setKeySlot s a1 a2) := by
  unfold State.setKeySlot
  repeat' (with_reducible first
    | assumption
    | refine good_ite ?_ ?_
    | refine State.setYcp_good ?_)

theorem State.setNode_good {s : State} {a1} {a2} {a3} (h : Good p s) : Good p (State.setNode s a1 a2 a3) := by
  unfold State.setNode
  repeat' (with_reducible first
    | assumption
    | refine good_ite ?_ ?_
    | refine State.setRing_good ?_)

theorem State.setPtp_good {s : State} {a1} {a2} (h : Good p s) : Good p (State.setPtp s a1 a2) := by
  unfold State.setPtp
  repeat' (with_reducible first
    | assumption
    | refine good_ite ?_ ?_
    | intro _
    | simp only []
    | split
    | simp only [good_mk_iff])

theorem State.setRose_good {s : State} {a1} {a2} (h : Good p s) : Good p (State.setRose s a1 a2) := by
  unfold State.setRose
  repeat' (with_reducible first
    | assumption
    | refine good_ite ?_ ?_
    | intro _
    | simp only []
    | split
    | simp only [good_mk_iff])

theorem State.setSeq_good {s : State} {a1} (h : Good p s) : Good p (State.setSeq s a1) := by
  unfold State.setSeq
  repeat' (with_reducible first
    | assumption
    | refine good_ite ?_ ?_
    | intro _
    | simp only []
    | split
    | simp only [good_mk_iff])

theorem State.setShaft_good {s : State} {a1} {a2} (h : Good p s) : Good p (State.setShaft s a1 a2) := by
  unfold State.setShaft
  repeat' (with_reducible first
    | assumption
    | refine good_ite ?_ ?_
    | intro _
    | simp only []
    | split
    | simp only [good_mk_iff])

theorem State.setThread_good {s : State} {a1} {a2} (h : Good p s) : Good p (State.setThread s a1 a2) := by
  unfold State.setThread
  repeat' (with_reducible first
    | assumption
    | refine good_ite ?_ ?_
    | intro _
    | simp only []
    | split
    | simp only [good_mk_iff])

theorem State.shaftFault_good {s : State} {a1} {a2} (h : Good p s) : Good p (State.shaftFault s a1 a2) := by
  unfold State.shaftFault
  repeat' (with_reducible first
    | assumption
    | refine good_ite ?_ ?_
    | refine State.raise_good ?_)

theorem State.shaftIrq_good {s : State} {a1} {a2} (h : Good p s) : Good p (State.shaftIrq s a1 a2) := by
  unfold State.shaftIrq
  repeat' (with_reducible first
    | assumption
    | refine good_ite ?_ ?_
    | refine State.irq_good ?_)

theorem State.takeSnap_good {s : State} {a1} (h : Good p s) : Good p (State.takeSnap s a1) := by
  unfold State.takeSnap
  repeat' (with_reducible first
    | assumption
    | refine good_ite ?_ ?_
    | refine good_foldl ?_ ?_
    | refine good_foldl_fst ?_ ?_
    | refine good_foldl_snd ?_ ?_
    | intro _
    | simp only []
    | split
    | simp only [good_mk_iff])

theorem State.tmSet_good {s : State} {a1} {a2} {a3} (h : Good p s) : Good p (State.tmSet s a1 a2 a3) := by
  unfold State.tmSet
  repeat' (with_reducible first
    | assumption
    | refine good_ite ?_ ?_
    | refine State.setFld_good ?_)

theorem State.wr64_good {s : State} {a1} {a2} (h : Good p s) : Good p (State.wr64 s a1 a2) := by
  unfold State.wr64
  repeat' (with_reducible first
    | assumption
    | refine good_ite ?_ ?_
    | refine State.wr_good ?_)

theorem YEnd.refuse_good {a0} {s : State} (h : Good p s) : Good p (YEnd.refuse a0 s).state := by
  unfold YEnd.refuse
  repeat' (with_reducible first
    | assumption
    | refine good_ite ?_ ?_
    | refine good_done ?_
    | refine good_exc ?_
    | refine good_wait ?_
    | refine good_enter ?_
    | refine good_ydone ?_)

theorem aauTrap_good {a0} {s : State} {a2} {a3} {a4} (h : Good p s) : Good p (aauTrap a0 s a2 a3 a4).state := by
  unfold aauTrap
  repeat' (with_reducible first
    | assumption
    | refine good_ite ?_ ?_
    | refine good_done ?_
    | refine good_exc ?_)

theorem secProtect_good {a0} {a1} {s : State} (h : Good p s) : Good p (secProtect a0 a1 s).2 := by
  unfold secProtect
  repeat' (with_reducible first
    | assumption
    | refine good_ite ?_ ?_
    | refine State.incSat_good ?_
    | refine State.setEthp_good ?_
    | intro _
    | simp only []
    | split)

theorem secProtect_good_eq {a0} {a1} {s : State} {t : State} {b} (e : (secProtect a0 a1 s) = (b, t)) (h : Good p s) : Good p t := by
  have := secProtect_good (a0 := a0) (a1 := a1) (s := s) h
  rw [e] at this
  exact this

theorem ethFlush_good {a0} {s : State} (h : Good p s) : Good p (ethFlush a0 s) := by
  unfold ethFlush
  repeat' (with_reducible first
    | assumption
    | refine good_ite ?_ ?_
    | refine State.incWrap_good ?_
    | refine State.emit_good ?_
    | refine State.setEthp_good ?_
    | refine good_foldl ?_ ?_
    | refine good_foldl_fst ?_ ?_
    | refine good_foldl_snd ?_ ?_
    | intro _)

theorem portSend_good {a0} {a1} {s : State} (h : Good p s) : Good p (portSend a0 a1 s) := by
  unfold portSend
  repeat' (with_reducible first
    | assumption
    | refine good_ite ?_ ?_
    | refine secProtect_good ?_
    | refine secProtect_good_eq (by assumption) ?_
    | refine ethFlush_good ?_
    | refine State.setEthp_good ?_
    | intro _
    | simp only []
    | split)

theorem netSend_good {a0} {a1} {a2} {s : State} (h : Good p s) : Good p (netSend a0 a1 a2 s) := by
  unfold netSend
  repeat' (with_reducible first
    | assumption
    | refine good_ite ?_ ?_
    | refine portSend_good ?_
    | intro _
    | simp only []
    | split
    | simp only [good_mk_iff])

theorem ycpSend_good {a0} {a1} {s : State} (h : Good p s) : Good p (ycpSend a0 a1 s) := by
  unfold ycpSend
  repeat' (with_reducible first
    | assumption
    | refine good_ite ?_ ?_
    | refine State.emit_good ?_
    | refine netSend_good ?_
    | intro _
    | simp only []
    | split)

theorem ycpAnswer_good {a0} {a1} {a2} {a3} {a4} {s : State} (h : Good p s) : Good p (ycpAnswer a0 a1 a2 a3 a4 s) := by
  unfold ycpAnswer
  repeat' (with_reducible first
    | assumption
    | refine good_ite ?_ ?_
    | refine ycpSend_good ?_
    | refine State.putSess_good ?_
    | intro _
    | simp only []
    | split)

theorem modeResult_good {a0} {a1} {a2} {a3} {s : State} (h : Good p s) : Good p (modeResult a0 a1 a2 a3 s) := by
  unfold modeResult
  repeat' (with_reducible first
    | assumption
    | refine good_ite ?_ ?_
    | refine State.wr_good ?_
    | refine ycpAnswer_good ?_
    | intro _
    | simp only []
    | split)

theorem abandon_good {s : State} (h : Good p s) : Good p (abandon s) := by
  unfold abandon
  repeat' (with_reducible first
    | assumption
    | refine good_ite ?_ ?_
    | refine modeResult_good ?_
    | refine State.setFld_good ?_
    | refine State.setDev_good ?_
    | intro _
    | simp only []
    | split)

theorem lanesShow_good {s : State} (h : Good p s) : Good p (lanesShow s) := by
  unfold lanesShow
  repeat' (with_reducible first
    | assumption
    | refine good_ite ?_ ?_
    | refine State.setFld_good ?_
    | refine good_foldl ?_ ?_
    | refine good_foldl_fst ?_ ?_
    | refine good_foldl_snd ?_ ?_
    | intro _
    | simp only []
    | split
    | simp only [good_mk_iff])

theorem activeRefresh_good {s : State} (h : Good p s) : Good p (activeRefresh s) := by
  unfold activeRefresh
  repeat' (with_reducible first
    | assumption
    | refine good_ite ?_ ?_
    | refine State.setFld_good ?_
    | refine lanesShow_good ?_
    | refine State.wr_good ?_
    | refine good_foldl ?_ ?_
    | refine good_foldl_fst ?_ ?_
    | refine good_foldl_snd ?_ ?_
    | intro _
    | simp only []
    | split
    | simp only [good_mk_iff])

theorem sliceAbort_good {a0} {s : State} (h : Good p s) : Good p (sliceAbort a0 s) := by
  unfold sliceAbort
  repeat' (with_reducible first
    | assumption
    | refine good_ite ?_ ?_
    | refine activeRefresh_good ?_
    | refine State.setFld_good ?_)

theorem abortCores_good {a0} {s : State} (h : Good p s) : Good p (abortCores a0 s) := by
  unfold abortCores
  repeat' (with_reducible first
    | assumption
    | refine good_ite ?_ ?_
    | refine sliceAbort_good ?_
    | refine good_foldl ?_ ?_
    | refine good_foldl_fst ?_ ?_
    | refine good_foldl_snd ?_ ?_
    | intro _)

theorem ackDo_good {a0} {s : State} (h : Good p s) : Good p (ackDo a0 s) := by
  unfold ackDo
  repeat' (with_reducible first
    | assumption
    | refine good_ite ?_ ?_
    | refine State.setFld_good ?_)

theorem ageGo_good {s : State} (h : Good p s) : Good p (ageGo s) := by
  unfold ageGo
  repeat' (with_reducible first
    | assumption
    | refine good_ite ?_ ?_
    | refine State.wr_good ?_
    | refine State.setFld_good ?_
    | refine State.setDev_good ?_
    | refine good_foldl ?_ ?_
    | refine good_foldl_fst ?_ ?_
    | refine good_foldl_snd ?_ ?_
    | intro _)

theorem fewCheck_good {s : State} (h : Good p s) : Good p (fewCheck s) := by
  unfold fewCheck
  repeat' (with_reducible first
    | assumption
    | refine good_ite ?_ ?_
    | refine State.raise_good ?_
    | intro _
    | simp only []
    | split
    | simp only [good_mk_iff])

theorem lanesTestRefresh_good {s : State} (h : Good p s) : Good p (lanesTestRefresh s) := by
  unfold lanesTestRefresh
  repeat' (with_reducible first
    | assumption
    | refine good_ite ?_ ?_
    | refine State.irq_good ?_
    | refine lanesShow_good ?_
    | refine good_foldl ?_ ?_
    | refine good_foldl_fst ?_ ?_
    | refine good_foldl_snd ?_ ?_
    | intro _
    | simp only []
    | split
    | simp only [good_mk_iff])

theorem lanesRefresh_good {s : State} (h : Good p s) : Good p (lanesRefresh s) := by
  unfold lanesRefresh
  repeat' (with_reducible first
    | assumption
    | refine good_ite ?_ ?_
    | refine State.irq_good ?_
    | refine State.setFld_good ?_
    | refine State.raiseUnit_good ?_
    | refine fewCheck_good ?_
    | refine lanesTestRefresh_good ?_
    | refine good_foldl ?_ ?_
    | refine good_foldl_fst ?_ ?_
    | refine good_foldl_snd ?_ ?_
    | intro _)

theorem laneFails_good {a0} {a1} {s : State} (h : Good p s) : Good p (laneFails a0 a1 s) := by
  unfold laneFails
  repeat' (with_reducible first
    | assumption
    | refine good_ite ?_ ?_
    | refine lanesRefresh_good ?_
    | refine State.raiseUnit_good ?_
    | refine State.setFld_good ?_)

theorem angleDo_good {a0} {a1} {s : State} (h : Good p s) : Good p (angleDo a0 a1 s) := by
  unfold angleDo
  repeat' (with_reducible first
    | assumption
    | refine good_ite ?_ ?_
    | refine State.wr_good ?_
    | intro _
    | simp only []
    | split
    | simp only [good_mk_iff])

theorem announce_good {s : State} (h : Good p s) : Good p (announce s) := by
  unfold announce
  repeat' (with_reducible first
    | assumption
    | refine good_ite ?_ ?_
    | refine netSend_good ?_)

theorem ptpGo_good {a0} {s : State} (h : Good p s) : Good p (ptpGo a0 s) := by
  unfold ptpGo
  repeat' (with_reducible first
    | assumption
    | refine good_ite ?_ ?_
    | refine State.irq_good ?_
    | refine State.setFld_good ?_
    | refine State.raise_good ?_)

theorem ptpDecide_good {s : State} (h : Good p s) : Good p (ptpDecide s) := by
  unfold ptpDecide
  repeat' (with_reducible first
    | assumption
    | refine good_ite ?_ ?_
    | refine ptpGo_good ?_
    | refine State.irq_good ?_
    | refine State.setFld_good ?_
    | intro _
    | simp only []
    | split)

theorem announceTimeout_good {a0} {s : State} (h : Good p s) : Good p (announceTimeout a0 s) := by
  unfold announceTimeout
  repeat' (with_reducible first
    | assumption
    | refine good_ite ?_ ?_
    | refine ptpDecide_good ?_
    | refine State.setPtp_good ?_)

theorem appendDo_good {a0} {a1} {s : State} (h : Good p s) : Good p (appendDo a0 a1 s) := by
  unfold appendDo
  repeat' (with_reducible first
    | assumption
    | refine good_ite ?_ ?_
    | refine State.putQueue_good ?_
    | refine State.poke_good ?_)

theorem appendReject_good {a0} {a1} {a2} {s : State} (h : Good p s) : Good p (appendReject a0 a1 a2 s) := by
  unfold appendReject
  repeat' (with_reducible first
    | assumption
    | refine good_ite ?_ ?_
    | refine State.incSat_good ?_
    | refine State.setFld_good ?_
    | refine State.wr_good ?_
    | refine State.irq_good ?_)

theorem pageRefuses_good {a1} {a2} {s : State} (h : Good p s) : Good p (pageRefuses a1 a2 s) := by
  unfold pageRefuses
  repeat' (with_reducible first
    | assumption
    | refine good_ite ?_ ?_
    | refine wstat_good ?_
    | refine good_foldl ?_ ?_
    | refine good_foldl_fst ?_ ?_
    | refine good_foldl_snd ?_ ?_
    | intro _
    | simp only []
    | split
    | simp only [good_mk_iff])

theorem handTo_good {a0} {a1} {s : State} (h : Good p s) : Good p (handTo a0 a1 s) := by
  unfold handTo
  repeat' (with_reducible first
    | assumption
    | refine good_ite ?_ ?_
    | refine abortCores_good ?_
    | refine State.setFld_good ?_
    | refine State.setTrio_good ?_)

theorem handAll_good {a0} {s : State} (h : Good p s) : Good p (handAll a0 s) := by
  unfold handAll
  repeat' (with_reducible first
    | assumption
    | refine good_ite ?_ ?_
    | refine handTo_good ?_
    | refine State.setFld_good ?_
    | refine good_foldl ?_ ?_
    | refine good_foldl_fst ?_ ?_
    | refine good_foldl_snd ?_ ?_
    | intro _
    | simp only []
    | split)

theorem pairStop_good {a0} {s : State} (h : Good p s) : Good p (pairStop a0 s) := by
  unfold pairStop
  repeat' (with_reducible first
    | assumption
    | refine good_ite ?_ ?_
    | refine State.setFld_good ?_
    | refine State.irq_good ?_)

theorem ss1Check_good {s : State} (h : Good p s) : Good p (ss1Check s) := by
  unfold ss1Check
  repeat' (with_reducible first
    | assumption
    | refine good_ite ?_ ?_
    | refine pairStop_good ?_
    | refine good_foldl ?_ ?_
    | refine good_foldl_fst ?_ ?_
    | refine good_foldl_snd ?_ ?_
    | intro _)

theorem lineRefresh_good {a0} {s : State} (h : Good p s) : Good p (lineRefresh a0 s) := by
  unfold lineRefresh
  repeat' (with_reducible first
    | assumption
    | refine good_ite ?_ ?_
    | refine State.setFld_good ?_)

theorem safePattern_good {a0} {s : State} (h : Good p s) : Good p (safePattern a0 s) := by
  unfold safePattern
  repeat' (with_reducible first
    | assumption
    | refine good_ite ?_ ?_
    | refine State.emit_good ?_)

theorem ringEvent_good {a0} {a1} {s : State} (h : Good p s) : Good p (ringEvent a0 a1 s) := by
  unfold ringEvent
  repeat' (with_reducible first
    | assumption
    | refine good_ite ?_ ?_
    | refine State.raiseUnit_good ?_)

theorem ringIrq_good {a0} {a1} {s : State} (h : Good p s) : Good p (ringIrq a0 a1 s) := by
  unfold ringIrq
  repeat' (with_reducible first
    | assumption
    | refine good_ite ?_ ?_
    | refine State.irq_good ?_)

theorem ringFinish_good {a0} {a1} {a2} {s : State} (h : Good p s) : Good p (ringFinish a0 a1 a2 s) := by
  unfold ringFinish
  repeat' (with_reducible first
    | assumption
    | refine good_ite ?_ ?_
    | refine State.setRing_good ?_
    | refine ringIrq_good ?_
    | refine State.setFld_good ?_
    | refine lineRefresh_good ?_
    | refine ringEvent_good ?_)

theorem safeAsserts_good {a1} {s : State} (h : Good p s) : Good p (safeAsserts a1 s) := by
  unfold safeAsserts
  repeat' (with_reducible first
    | assumption
    | refine good_ite ?_ ?_
    | refine State.setRing_good ?_
    | refine State.emit_good ?_
    | refine ringFinish_good ?_
    | refine good_foldl ?_ ?_
    | refine good_foldl_fst ?_ ?_
    | refine good_foldl_snd ?_ ?_
    | intro _
    | simp only []
    | split
    | simp only [good_mk_iff])

theorem safeLines_good {a1} {s : State} (h : Good p s) : Good p (safeLines a1 s) := by
  unfold safeLines
  repeat' (with_reducible first
    | assumption
    | refine good_ite ?_ ?_
    | refine safePattern_good ?_
    | refine lineRefresh_good ?_
    | refine safeAsserts_good ?_
    | refine State.setRing_good ?_
    | refine good_foldl ?_ ?_
    | refine good_foldl_fst ?_ ?_
    | refine good_foldl_snd ?_ ?_
    | intro _
    | simp only []
    | split
    | simp only [good_mk_iff])

theorem State.modColl_good {s : State} {a1} (h : Good p s) : Good p (State.modColl s a1) := by
  unfold State.modColl
  repeat' (with_reducible first
    | assumption
    | refine good_ite ?_ ?_
    | refine good_foldl ?_ ?_
    | refine good_foldl_fst ?_ ?_
    | refine good_foldl_snd ?_ ?_
    | intro _
    | simp only []
    | split
    | simp only [good_mk_iff])

theorem faultBalls_good {s : State} (h : Good p s) : Good p (faultBalls s) := by
  unfold faultBalls
  repeat' (with_reducible first
    | assumption
    | refine good_ite ?_ ?_
    | refine State.modColl_good ?_
    | refine State.setFld_good ?_
    | refine good_foldl ?_ ?_
    | refine good_foldl_fst ?_ ?_
    | refine good_foldl_snd ?_ ?_
    | intro _
    | simp only []
    | split
    | simp only [good_mk_iff])

theorem collRefresh_good {s : State} (h : Good p s) : Good p (collRefresh s) := by
  unfold collRefresh
  repeat' (with_reducible first
    | assumption
    | refine good_ite ?_ ?_
    | refine State.setFld_good ?_
    | refine faultBalls_good ?_
    | refine safeLines_good ?_)

theorem ringEndOut_good {a0} {s : State} (h : Good p s) : Good p (ringEndOut a0 s) := by
  unfold ringEndOut
  repeat' (with_reducible first
    | assumption
    | refine good_ite ?_ ?_
    | refine State.setRing_good ?_)

theorem degradeUnit_good {a0} {s : State} (h : Good p s) : Good p (degradeUnit a0 s) := by
  unfold degradeUnit
  repeat' (with_reducible first
    | assumption
    | refine good_ite ?_ ?_
    | refine ringEndOut_good ?_
    | intro _
    | simp only []
    | split
    | simp only [good_mk_iff])

theorem pairBegin_good {a0} {s : State} (h : Good p s) : Good p (pairBegin a0 s) := by
  unfold pairBegin
  repeat' (with_reducible first
    | assumption
    | refine good_ite ?_ ?_
    | refine pairStop_good ?_
    | refine State.setFld_good ?_)

theorem pairsBegin_good {a0} {s : State} (h : Good p s) : Good p (pairsBegin a0 s) := by
  unfold pairsBegin
  repeat' (with_reducible first
    | assumption
    | refine good_ite ?_ ?_
    | refine pairBegin_good ?_
    | refine good_foldl ?_ ?_
    | refine good_foldl_fst ?_ ?_
    | refine good_foldl_snd ?_ ?_
    | intro _)

theorem safeStop_good {s : State} (h : Good p s) : Good p (safeStop s) := by
  unfold safeStop
  repeat' (with_reducible first
    | assumption
    | refine good_ite ?_ ?_
    | refine State.setFld_good ?_
    | refine safeLines_good ?_
    | refine pairsBegin_good ?_
    | refine State.modColl_good ?_
    | refine good_foldl ?_ ?_
    | refine good_foldl_fst ?_ ?_
    | refine good_foldl_snd ?_ ?_
    | intro _
    | simp only []
    | split
    | simp only [good_mk_iff])

theorem react_good {a0} {s : State} (h : Good p s) : Good p (react a0 s) := by
  unfold react
  repeat' (with_reducible first
    | assumption
    | refine good_ite ?_ ?_
    | refine State.setFld_good ?_
    | refine State.irq_good ?_
    | refine degradeUnit_good ?_
    | refine safeStop_good ?_)

theorem recMerge_good {a0} {s : State} (h : Good p s) : Good p (recMerge a0 s) := by
  unfold recMerge
  repeat' (with_reducible first
    | assumption
    | refine good_ite ?_ ?_
    | refine State.setFld_good ?_
    | refine State.incSat_good ?_
    | refine State.irq_good ?_)

theorem recOpen_good {a0} {s : State} (h : Good p s) : Good p (recOpen a0 s) := by
  unfold recOpen
  repeat' (with_reducible first
    | assumption
    | refine good_ite ?_ ?_
    | refine State.wr_good ?_
    | refine State.wr64_good ?_
    | refine State.free_good ?_
    | refine State.free_good_eq (by assumption) ?_
    | refine State.irq_good ?_
    | refine State.incSat_good ?_
    | intro _
    | simp only []
    | split)

theorem recordAll_good {s : State} {a1} (h : Good p s) : Good p (recordAll s a1) := by
  unfold recordAll
  repeat' (with_reducible first
    | assumption
    | refine good_ite ?_ ?_
    | refine recMerge_good ?_
    | refine recOpen_good ?_
    | refine State.incWrap_good ?_
    | refine good_foldl ?_ ?_
    | refine good_foldl_fst ?_ ?_
    | refine good_foldl_snd ?_ ?_
    | intro _
    | simp only []
    | split)

theorem collCycle_good {s : State} (h : Good p s) : Good p (collCycle s) := by
  unfold collCycle
  repeat' (with_reducible first
    | assumption
    | refine good_ite ?_ ?_
    | refine State.raise_good ?_
    | refine ss1Check_good ?_
    | refine collRefresh_good ?_
    | refine react_good ?_
    | refine recordAll_good ?_
    | refine good_foldl ?_ ?_
    | refine good_foldl_fst ?_ ?_
    | refine good_foldl_snd ?_ ?_
    | intro _
    | simp only []
    | split
    | simp only [good_mk_iff])

theorem modeRequest_good {a0} {a1} {s : State} (h : Good p s) : Good p (modeRequest a0 a1 s) := by
  unfold modeRequest
  repeat' (with_reducible first
    | assumption
    | refine good_ite ?_ ?_
    | refine modeResult_good ?_
    | refine State.setFld_good ?_
    | refine State.setDev_good ?_
    | refine collCycle_good ?_
    | refine State.raise_good ?_
    | refine handAll_good ?_)

theorem sysDo_good {a0} {a1} {s : State} (h : Good p s) : Good p (sysDo a0 a1 s) := by
  unfold sysDo
  repeat' (with_reducible first
    | assumption
    | refine good_ite ?_ ?_
    | refine modeRequest_good ?_
    | refine State.setDev_good ?_
    | refine State.wr_good ?_
    | intro _
    | simp only []
    | split)

theorem setDiv_good {a0} {s : State} (h : Good p s) : Good p (setDiv a0 s) := by
  unfold setDiv
  repeat' (with_reducible first
    | assumption
    | refine good_ite ?_ ?_
    | refine State.setFld_good ?_)

theorem clkDo_good {a0} {a1} {s : State} (h : Good p s) : Good p (clkDo a0 a1 s) := by
  unfold clkDo
  repeat' (with_reducible first
    | assumption
    | refine good_ite ?_ ?_
    | refine setDiv_good ?_
    | refine State.wr_good ?_)

theorem fuseRegs_good {s : State} (h : Good p s) : Good p (fuseRegs s) := by
  unfold fuseRegs
  repeat' (with_reducible first
    | assumption
    | refine good_ite ?_ ?_
    | refine State.wr_good ?_
    | refine State.setFld_good ?_
    | intro _
    | simp only []
    | split)

theorem voltBack_good {s : State} {s1 : State} (h : Good p s) (h1 : Good p s1) : Good p (voltBack s s1) := by
  unfold voltBack
  repeat' (with_reducible first
    | assumption
    | refine good_ite ?_ ?_
    | refine State.emit_good ?_
    | refine good_foldl ?_ ?_
    | refine good_foldl_fst ?_ ?_
    | refine good_foldl_snd ?_ ?_
    | intro _
    | simp only []
    | split
    | simp only [good_mk_iff])

theorem fuseLoad_good {s : State} (h : Good p s) : Good p (fuseLoad s) := by
  unfold fuseLoad
  repeat' (with_reducible first
    | assumption
    | refine good_ite ?_ ?_
    | refine State.setDev_good ?_
    | refine good_foldl ?_ ?_
    | refine good_foldl_fst ?_ ?_
    | refine good_foldl_snd ?_ ?_
    | intro _
    | simp only []
    | split
    | simp only [good_mk_iff])

theorem restart_good {regs : Tab W32} {mem : List Host.Cell} {s : State} (h : s.pending = p) (hr : regs.wf regReset)
    (hm : Memory.wf mem) : Good p (restart regs mem s) := by
  unfold restart
  simp only []
  generalize hs : State.mk _ _ _ _ _ _ _ _ _ _ _ _ _ _ _ _ _ _ _ _ _ _ _ _ _ _ = s1
  have k1 : Good p s1 := by
    subst hs
    exact ⟨h, hm, hr⟩
  have k2 := collRefresh_good (fuseRegs_good k1)
  exact good_ite (safeLines_good k2) k2

theorem deviceReset_good {k : ResetKind} {s : State} (h : Good p s) : Good p (deviceReset k s) := by
  unfold deviceReset
  split
  · exact fuseRegs_good ⟨h.pending, memory_filter_wf _ h.mem, rfl⟩
  · simp only []
    have k0 : Good p (if (k == .warm || k == .gauze) = true then s else fuseLoad s) := good_ite h (fuseLoad_good h)
    have k1 := restart_good (regs := ⟨s.regs.cells.filter (fun c => keptReg c.1)⟩) k0.pending (cellsWf_filter _ h.regs)
      (memory_filter_wf (fun c => keepsMem s (k == .warm || k == .gauze) c.1) h.mem)
    generalize hr : restart _ _ _ = r at k1 ⊢
    have k2 := voltBack_good (s1 := { r with bad := s.bad.filter (fun w => keepsMem s (k == .warm || k == .gauze) (8 * w)) }) h
      (good_mk_iff.2 k1)
    have k3 := State.wr_good (k := B.rst + RST.CAUSE.off) (v := BitVec.ofNat 32 k.bit) k2
    have k4 := good_ite (c := (k == .warm || k == .gauze) = true) (State.setFld_good (a1 := B.clk) (a2 := CLK.CLK_STAT_ROOT_LOCK) (a3 := 1)
      (State.incWrap_good (a1 := B.rst) (a2 := RST.WARM_CNT) k3)) k3
    exact good_ite (State.wr_good k4) k4

theorem rstDo_good {a0} {a1} {s : State} (h : Good p s) : Good p (rstDo a0 a1 s) := by
  unfold rstDo
  repeat' (with_reducible first
    | assumption
    | refine good_ite ?_ ?_
    | refine deviceReset_good ?_
    | refine State.wr_good ?_)

theorem setVolt_good {a0} {s : State} (h : Good p s) : Good p (setVolt a0 s) := by
  unfold setVolt
  repeat' (with_reducible first
    | assumption
    | refine good_ite ?_ ?_
    | refine State.emit_good ?_
    | refine State.wr_good ?_)

theorem marginDo_good {a0} {a1} {s : State} (h : Good p s) : Good p (marginDo a0 a1 s) := by
  unfold marginDo
  repeat' (with_reducible first
    | assumption
    | refine good_ite ?_ ?_
    | refine State.wr_good ?_
    | refine ceiling_good ?_
    | refine setVolt_good ?_
    | refine State.setDev_good ?_
    | refine ageGo_good ?_
    | intro _
    | simp only []
    | split)

theorem pairRun_good {a0} {s : State} (h : Good p s) : Good p (pairRun a0 s) := by
  unfold pairRun
  repeat' (with_reducible first
    | assumption
    | refine good_ite ?_ ?_
    | refine State.irq_good ?_
    | refine State.setFld_good ?_)

theorem slsPair_good {a0} {s : State} (h : Good p s) : Good p (slsPair a0 s) := by
  unfold slsPair
  repeat' (with_reducible first
    | assumption
    | refine good_ite ?_ ?_
    | refine State.irq_good ?_
    | refine State.setFld_good ?_
    | refine State.raiseCond_good ?_
    | refine State.endCond_good ?_)

theorem slsAll_good {s : State} (h : Good p s) : Good p (slsAll s) := by
  unfold slsAll
  repeat' (with_reducible first
    | assumption
    | refine good_ite ?_ ?_
    | refine slsPair_good ?_
    | refine good_foldl ?_ ?_
    | refine good_foldl_fst ?_ ?_
    | refine good_foldl_snd ?_ ?_
    | intro _)

theorem State.setSafeIn_good {s : State} {a1} {a2} (h : Good p s) : Good p (State.setSafeIn s a1 a2) := by
  unfold State.setSafeIn
  repeat' (with_reducible first
    | assumption
    | refine good_ite ?_ ?_
    | refine State.modColl_good ?_
    | refine good_foldl ?_ ?_
    | refine good_foldl_fst ?_ ?_
    | refine good_foldl_snd ?_ ?_
    | intro _
    | simp only []
    | split
    | simp only [good_mk_iff])

theorem siFaultRefresh_good {a0} {s : State} (h : Good p s) : Good p (siFaultRefresh a0 s) := by
  unfold siFaultRefresh
  repeat' (with_reducible first
    | assumption
    | refine good_ite ?_ ?_
    | refine State.setSafeIn_good ?_
    | refine State.endCond_good ?_
    | refine State.irq_good ?_
    | refine State.setFld_good ?_)

theorem siDemandRefresh_good {a0} {s : State} (h : Good p s) : Good p (siDemandRefresh a0 s) := by
  unfold siDemandRefresh
  repeat' (with_reducible first
    | assumption
    | refine good_ite ?_ ?_
    | refine State.irq_good ?_
    | refine State.setFld_good ?_
    | refine State.endCond_good ?_
    | refine State.raiseCond_good ?_
    | refine pairsBegin_good ?_)

theorem inputsRefresh_good {s : State} (h : Good p s) : Good p (inputsRefresh s) := by
  unfold inputsRefresh
  repeat' (with_reducible first
    | assumption
    | refine good_ite ?_ ?_
    | refine slsAll_good ?_
    | refine siFaultRefresh_good ?_
    | refine siDemandRefresh_good ?_
    | refine good_foldl ?_ ?_
    | refine good_foldl_fst ?_ ?_
    | refine good_foldl_snd ?_ ?_
    | intro _)

theorem collDo_good {a0} {a1} {s : State} (h : Good p s) : Good p (collDo a0 a1 s) := by
  unfold collDo
  repeat' (with_reducible first
    | assumption
    | refine good_ite ?_ ?_
    | refine collCycle_good ?_
    | refine State.raise_good ?_
    | refine pairRun_good ?_
    | refine inputsRefresh_good ?_
    | refine State.wr_good ?_
    | refine good_foldl ?_ ?_
    | refine good_foldl_fst ?_ ?_
    | refine good_foldl_snd ?_ ?_
    | intro _)

theorem fswDo_good {a0} {a1} {s : State} (h : Good p s) : Good p (fswDo a0 a1 s) := by
  unfold fswDo
  repeat' (with_reducible first
    | assumption
    | refine good_ite ?_ ?_
    | refine collRefresh_good ?_
    | refine State.setFld_good ?_
    | refine good_foldl ?_ ?_
    | refine good_foldl_fst ?_ ?_
    | refine good_foldl_snd ?_ ?_
    | intro _)

theorem recDo_good {a0} {s : State} (h : Good p s) : Good p (recDo a0 s) := by
  unfold recDo
  repeat' (with_reducible first
    | assumption
    | refine good_ite ?_ ?_
    | refine State.setFld_good ?_)

theorem sevDo_good {a0} {a1} {s : State} (h : Good p s) : Good p (sevDo a0 a1 s) := by
  unfold sevDo
  repeat' (with_reducible first
    | assumption
    | refine good_ite ?_ ?_
    | refine collRefresh_good ?_
    | refine State.wr_good ?_)

theorem trioDo_good {a0} {a1} {a2} {s : State} (h : Good p s) : Good p (trioDo a0 a1 a2 s) := by
  unfold trioDo
  repeat' (with_reducible first
    | assumption
    | refine good_ite ?_ ?_
    | refine State.wr_good ?_
    | refine handTo_good ?_)

theorem intdDo_good {a0} {a1} {s : State} (h : Good p s) : Good p (intdDo a0 a1 s) := by
  unfold intdDo
  repeat' (with_reducible first
    | assumption
    | refine good_ite ?_ ?_
    | refine State.setFld_good ?_
    | refine State.wr_good ?_
    | intro _
    | simp only []
    | split)

theorem routeDo_good {a0} {a1} {s : State} (h : Good p s) : Good p (routeDo a0 a1 s) := by
  unfold routeDo
  repeat' (with_reducible first
    | assumption
    | refine good_ite ?_ ?_
    | refine State.wr_good ?_)

theorem eoiDo_good {a0} {s : State} (h : Good p s) : Good p (eoiDo a0 s) := by
  unfold eoiDo
  repeat' (with_reducible first
    | assumption
    | refine good_ite ?_ ?_
    | refine State.setFld_good ?_)

theorem iotDo_good {a0} {a1} {s : State} (h : Good p s) : Good p (iotDo a0 a1 s) := by
  unfold iotDo
  repeat' (with_reducible first
    | assumption
    | refine good_ite ?_ ?_
    | refine State.setFld_good ?_
    | refine State.wr_good ?_
    | intro _
    | simp only []
    | split
    | simp only [good_mk_iff])

theorem qNotify_good {a0} {s : State} (h : Good p s) : Good p (qNotify a0 s) := by
  unfold qNotify
  repeat' (with_reducible first
    | assumption
    | refine good_ite ?_ ?_
    | refine State.setFld_good ?_)

theorem qGo_good {a0} {a1} {a2} {s : State} (h : Good p s) : Good p (qGo a0 a1 a2 s) := by
  unfold qGo
  repeat' (with_reducible first
    | assumption
    | refine good_ite ?_ ?_
    | refine State.setFld_good ?_
    | refine State.setQueue_good ?_
    | refine fewCheck_good ?_
    | refine qNotify_good ?_)

theorem drainCheck_good {a0} {s : State} (h : Good p s) : Good p (drainCheck a0 s) := by
  unfold drainCheck
  repeat' (with_reducible first
    | assumption
    | refine good_ite ?_ ?_
    | refine qGo_good ?_
    | refine State.setQueue_good ?_)

theorem groupSync_good {a0} {s : State} (h : Good p s) : Good p (groupSync a0 s) := by
  unfold groupSync
  repeat' (with_reducible first
    | assumption
    | refine good_ite ?_ ?_
    | refine State.setGroups_good ?_
    | refine good_foldl ?_ ?_
    | refine good_foldl_fst ?_ ?_
    | refine good_foldl_snd ?_ ?_
    | intro _
    | simp only []
    | split)

theorem ringCancel_good {a0} {a1} {a2} {a3} {a4} {s : State} (h : Good p s) : Good p (ringCancel a0 a1 a2 a3 a4 s).2 := by
  unfold ringCancel
  repeat' (with_reducible first
    | assumption
    | refine good_ite ?_ ?_
    | refine State.setRing_good ?_
    | intro _
    | simp only []
    | split)

theorem ringCancel_good_eq {a0} {a1} {a2} {a3} {a4} {s : State} {t : State} {b} (e : (ringCancel a0 a1 a2 a3 a4 s) = (b, t)) (h : Good p s) : Good p t := by
  have := ringCancel_good (a0 := a0) (a1 := a1) (a2 := a2) (a3 := a3) (a4 := a4) (s := s) h
  rw [e] at this
  exact this

theorem State.putEnts_good {s : State} {a1} {a2} (h : Good p s) : Good p (State.putEnts s a1 a2) := by
  unfold State.putEnts
  repeat' (with_reducible first
    | assumption
    | refine good_ite ?_ ?_
    | refine State.putQueue_good ?_
    | refine State.setFld_good ?_
    | refine good_foldl ?_ ?_
    | refine good_foldl_fst ?_ ?_
    | refine good_foldl_snd ?_ ?_
    | intro _
    | simp only []
    | split
    | simp only [good_mk_iff])

theorem setFly_good {a1} {a2} {a3} {s : State} (h : Good p s) : Good p (setFly a1 a2 a3 s) := by
  unfold setFly
  repeat' (with_reducible first
    | assumption
    | refine good_ite ?_ ?_
    | refine State.putEnts_good ?_
    | refine good_foldl ?_ ?_
    | refine good_foldl_fst ?_ ?_
    | refine good_foldl_snd ?_ ?_
    | intro _
    | simp only []
    | split
    | simp only [good_mk_iff])

theorem pushMark_good {a0} {s : State} (h : Good p s) : Good p (pushMark a0 s) := by
  unfold pushMark
  repeat' (with_reducible first
    | assumption
    | refine good_ite ?_ ?_
    | refine State.irq_good ?_
    | refine State.incSat_good ?_
    | intro _
    | simp only []
    | split
    | simp only [good_mk_iff])

theorem retireEnt_good {a1} {a2} {a3} {s : State} (h : Good p s) : Good p (retireEnt a1 a2 a3 s) := by
  unfold retireEnt
  repeat' (with_reducible first
    | assumption
    | refine good_ite ?_ ?_
    | refine State.putEnts_good ?_
    | refine groupSync_good ?_
    | refine qNotify_good ?_
    | refine pushMark_good ?_
    | refine drainCheck_good ?_
    | refine good_foldl ?_ ?_
    | refine good_foldl_fst ?_ ?_
    | refine good_foldl_snd ?_ ?_
    | intro _
    | simp only []
    | split
    | simp only [good_mk_iff])

theorem cancelFlight_good {a0} {a1} {a2} {a3} {a4} {s : State} (h : Good p s) : Good p (cancelFlight a0 a1 a2 a3 a4 s) := by
  unfold cancelFlight
  repeat' (with_reducible first
    | assumption
    | refine good_ite ?_ ?_
    | refine setFly_good ?_
    | refine groupSync_good ?_
    | refine ringCancel_good ?_
    | refine ringCancel_good_eq (by assumption) ?_
    | refine retireEnt_good ?_
    | intro _
    | simp only []
    | split)

theorem cancelFlights_good {a0} {a1} {a2} {s : State} (h : Good p s) : Good p (cancelFlights a0 a1 a2 s).2 := by
  unfold cancelFlights
  repeat' (with_reducible first
    | assumption
    | refine good_ite ?_ ?_
    | refine cancelFlight_good ?_
    | refine good_foldl ?_ ?_
    | refine good_foldl_fst ?_ ?_
    | refine good_foldl_snd ?_ ?_
    | intro _
    | simp only []
    | split)

theorem cancelFlights_good_eq {a0} {a1} {a2} {s : State} {t : State} {b} (e : (cancelFlights a0 a1 a2 s) = (b, t)) (h : Good p s) : Good p t := by
  have := cancelFlights_good (a0 := a0) (a1 := a1) (a2 := a2) (s := s) h
  rw [e] at this
  exact this

theorem discard_good {a1} {a2} {s : State} (h : Good p s) : Good p (discard a1 a2 s).2 := by
  unfold discard
  repeat' (with_reducible first
    | assumption
    | refine good_ite ?_ ?_
    | refine State.putEnts_good ?_
    | refine good_foldl ?_ ?_
    | refine good_foldl_fst ?_ ?_
    | refine good_foldl_snd ?_ ?_
    | intro _
    | simp only []
    | split
    | simp only [good_mk_iff])

theorem discard_good_eq {a1} {a2} {s : State} {t : State} {b} (e : (discard a1 a2 s) = (b, t)) (h : Good p s) : Good p t := by
  have := discard_good (a1 := a1) (a2 := a2) (s := s) h
  rw [e] at this
  exact this

theorem cancelStart_good {s : State} (h : Good p s) : Good p (cancelStart s) := by
  unfold cancelStart
  repeat' (with_reducible first
    | assumption
    | refine good_ite ?_ ?_
    | refine discard_good ?_
    | refine discard_good_eq (by assumption) ?_
    | refine cancelFlights_good ?_
    | refine cancelFlights_good_eq (by assumption) ?_
    | refine drainCheck_good ?_
    | intro _
    | simp only []
    | split
    | simp only [good_mk_iff])

theorem engDo_good {a0} {a1} {s : State} (h : Good p s) : Good p (engDo a0 a1 s) := by
  unfold engDo
  repeat' (with_reducible first
    | assumption
    | refine good_ite ?_ ?_
    | refine qGo_good ?_
    | refine cancelStart_good ?_
    | refine State.wr_good ?_
    | refine good_foldl ?_ ?_
    | refine good_foldl_fst ?_ ?_
    | refine good_foldl_snd ?_ ?_
    | intro _
    | simp only []
    | split
    | simp only [good_mk_iff])

theorem seqGo_good {a0} {s : State} (h : Good p s) : Good p (seqGo a0 s) := by
  unfold seqGo
  repeat' (with_reducible first
    | assumption
    | refine good_ite ?_ ?_
    | refine fewCheck_good ?_
    | refine State.setFld_good ?_)

theorem seqTakeReq_good {s : State} (h : Good p s) : Good p (seqTakeReq s) := by
  unfold seqTakeReq
  repeat' (with_reducible first
    | assumption
    | refine good_ite ?_ ?_
    | refine seqGo_good ?_
    | refine State.setSeq_good ?_
    | intro _
    | simp only []
    | split)

theorem seqRequest_good {a0} {s : State} (h : Good p s) : Good p (seqRequest a0 s) := by
  unfold seqRequest
  repeat' (with_reducible first
    | assumption
    | refine good_ite ?_ ?_
    | refine State.setSeq_good ?_
    | refine seqTakeReq_good ?_)

theorem seqCmdDo_good {a0} {a1} {s : State} (h : Good p s) : Good p (seqCmdDo a0 a1 s) := by
  unfold seqCmdDo
  repeat' (with_reducible first
    | assumption
    | refine good_ite ?_ ?_
    | refine State.setSeq_good ?_
    | refine seqGo_good ?_
    | refine State.setFld_good ?_
    | refine seqRequest_good ?_
    | intro _
    | simp only []
    | split)

theorem seqDo_good {a0} {a1} {s : State} (h : Good p s) : Good p (seqDo a0 a1 s) := by
  unfold seqDo
  repeat' (with_reducible first
    | assumption
    | refine good_ite ?_ ?_
    | refine seqCmdDo_good ?_
    | refine State.wr_good ?_
    | refine State.setSeq_good ?_
    | intro _
    | simp only []
    | split)

theorem tmGo_good {a0} {a1} {s : State} (h : Good p s) : Good p (tmGo a0 a1 s) := by
  unfold tmGo
  repeat' (with_reducible first
    | assumption
    | refine good_ite ?_ ?_
    | refine State.setFld_good ?_)

theorem gtmrDo_good {a0} {a1} {s : State} (h : Good p s) : Good p (gtmrDo a0 a1 s) := by
  unfold gtmrDo
  repeat' (with_reducible first
    | assumption
    | refine good_ite ?_ ?_
    | refine tmGo_good ?_
    | refine good_foldl ?_ ?_
    | refine good_foldl_fst ?_ ?_
    | refine good_foldl_snd ?_ ?_
    | intro _)

theorem tmIdle_good {a0} {s : State} (h : Good p s) : Good p (tmIdle a0 s) := by
  unfold tmIdle
  repeat' (with_reducible first
    | assumption
    | refine good_ite ?_ ?_
    | refine State.setFld_good ?_)

theorem tmDisable_good {a0} {s : State} (h : Good p s) : Good p (tmDisable a0 s) := by
  unfold tmDisable
  repeat' (with_reducible first
    | assumption
    | refine good_ite ?_ ?_
    | refine tmGo_good ?_
    | refine tmIdle_good ?_)

theorem tmLoad_good {a0} {s : State} (h : Good p s) : Good p (tmLoad a0 s) := by
  unfold tmLoad
  repeat' (with_reducible first
    | assumption
    | refine good_ite ?_ ?_
    | refine State.tmSet_good ?_)

theorem tmEnable_good {a0} {s : State} (h : Good p s) : Good p (tmEnable a0 s) := by
  unfold tmEnable
  repeat' (with_reducible first
    | assumption
    | refine good_ite ?_ ?_
    | refine State.setFld_good ?_
    | refine State.tmSet_good ?_
    | refine State.setRose_good ?_
    | refine tmGo_good ?_
    | refine tmIdle_good ?_
    | refine tmLoad_good ?_)

theorem tmPreload_good {a0} {a1} {a2} {a3} {s : State} (h : Good p s) : Good p (tmPreload a0 a1 a2 a3 s) := by
  unfold tmPreload
  repeat' (with_reducible first
    | assumption
    | refine good_ite ?_ ?_
    | refine State.tmSet_good ?_)

theorem tmDo_good {a0} {a1} {a2} {s : State} (h : Good p s) : Good p (tmDo a0 a1 a2 s) := by
  unfold tmDo
  repeat' (with_reducible first
    | assumption
    | refine good_ite ?_ ?_
    | refine State.wr_good ?_
    | refine tmEnable_good ?_
    | refine tmDisable_good ?_
    | refine tmGo_good ?_
    | refine State.tmSet_good ?_
    | refine tmPreload_good ?_
    | intro _
    | simp only []
    | split)

theorem ringLast_good {a0} {a1} {a2} {a3} {s : State} (h : Good p s) : Good p (ringLast a0 a1 a2 a3 s) := by
  unfold ringLast
  repeat' (with_reducible first
    | assumption
    | refine good_ite ?_ ?_
    | refine ringFinish_good ?_
    | refine State.setRing_good ?_)

theorem measSend_good {a0} {a1} {s : State} (h : Good p s) : Good p (measSend a0 a1 s) := by
  unfold measSend
  repeat' (with_reducible first
    | assumption
    | refine good_ite ?_ ?_
    | refine State.pushMnt_good ?_
    | refine State.setRing_good ?_)

theorem hopMax_good {a0} {s : State} (h : Good p s) : Good p (hopMax a0 s) := by
  unfold hopMax
  repeat' (with_reducible first
    | assumption
    | refine good_ite ?_ ?_
    | refine State.setFld_good ?_
    | refine ringEvent_good ?_)

theorem pushDlySet_good {a0} {a1} {s : State} (h : Good p s) : Good p (pushDlySet a0 a1 s) := by
  unfold pushDlySet
  repeat' (with_reducible first
    | assumption
    | refine good_ite ?_ ?_
    | refine State.pushMnt_good ?_
    | refine State.setNode_good ?_)

theorem measEnd_good {a0} {a1} {a2} {s : State} (h : Good p s) : Good p (measEnd a0 a1 a2 s) := by
  unfold measEnd
  repeat' (with_reducible first
    | assumption
    | refine good_ite ?_ ?_
    | refine hopMax_good ?_
    | refine ringLast_good ?_
    | refine pushDlySet_good ?_
    | refine good_foldl ?_ ?_
    | refine good_foldl_fst ?_ ?_
    | refine good_foldl_snd ?_ ?_
    | intro _)

theorem measNext_good {a0} {s : State} (h : Good p s) : Good p (measNext a0 s) := by
  unfold measNext
  repeat' (with_reducible first
    | assumption
    | refine good_ite ?_ ?_
    | refine measSend_good ?_
    | refine State.setRing_good ?_
    | refine measEnd_good ?_
    | refine hopMax_good ?_
    | intro _
    | simp only []
    | split)

theorem measNodes_good {a0} {a1} {s : State} (h : Good p s) : Good p (measNodes a0 a1 s) := by
  unfold measNodes
  repeat' (with_reducible first
    | assumption
    | refine good_ite ?_ ?_
    | refine State.setFld_good ?_
    | refine State.setRing_good ?_
    | refine good_foldl ?_ ?_
    | refine good_foldl_fst ?_ ?_
    | refine good_foldl_snd ?_ ?_
    | intro _)

theorem enumStart_good {a0} {s : State} (h : Good p s) : Good p (enumStart a0 s) := by
  unfold enumStart
  repeat' (with_reducible first
    | assumption
    | refine good_ite ?_ ?_
    | refine State.setRing_good ?_
    | refine State.setFld_good ?_)

theorem ringCmdDo_good {a0} {a1} {a2} {s : State} (h : Good p s) : Good p (ringCmdDo a0 a1 a2 s) := by
  unfold ringCmdDo
  repeat' (with_reducible first
    | assumption
    | refine good_ite ?_ ?_
    | refine State.setFld_good ?_
    | refine enumStart_good ?_
    | refine measNodes_good ?_
    | refine State.setRing_good ?_
    | refine measNext_good ?_
    | refine ringLast_good ?_
    | refine State.setNode_good ?_
    | refine State.pushMnt_good ?_
    | intro _
    | simp only []
    | split)

theorem ringDo_good {a0} {a1} {a2} {s : State} (h : Good p s) : Good p (ringDo a0 a1 a2 s) := by
  unfold ringDo
  repeat' (with_reducible first
    | assumption
    | refine good_ite ?_ ?_
    | refine ringCmdDo_good ?_
    | refine State.wr_good ?_
    | refine State.setRing_good ?_
    | intro _
    | simp only []
    | split)

theorem saInstall_good {a0} {s : State} (h : Good p s) : Good p (saInstall a0 s) := by
  unfold saInstall
  repeat' (with_reducible first
    | assumption
    | refine good_ite ?_ ?_
    | refine State.setEthp_good ?_)

theorem saEnable_good {a0} {a1} {s : State} (h : Good p s) : Good p (saEnable a0 a1 s) := by
  unfold saEnable
  repeat' (with_reducible first
    | assumption
    | refine good_ite ?_ ?_
    | refine State.setEthp_good ?_)

theorem ethDo_good {a0} {a1} {a2} {s : State} (h : Good p s) : Good p (ethDo a0 a1 a2 s) := by
  unfold ethDo
  repeat' (with_reducible first
    | assumption
    | refine good_ite ?_ ?_
    | refine saInstall_good ?_
    | refine saEnable_good ?_
    | refine State.wr_good ?_
    | intro _
    | simp only []
    | split)

theorem rawNext_good {s : State} (h : Good p s) : Good p (rawNext s) := by
  unfold rawNext
  repeat' (with_reducible first
    | assumption
    | refine good_ite ?_ ?_
    | refine State.setFld_good ?_
    | refine good_foldl ?_ ?_
    | refine good_foldl_fst ?_ ?_
    | refine good_foldl_snd ?_ ?_
    | intro _
    | simp only []
    | split
    | simp only [good_mk_iff])

theorem plainSend_good {a0} {a1} {a2} {s : State} (h : Good p s) : Good p (plainSend a0 a1 a2 s) := by
  unfold plainSend
  repeat' (with_reducible first
    | assumption
    | refine good_ite ?_ ?_
    | refine portSend_good ?_)

theorem rawSend_good {a0} {a1} {s : State} (h : Good p s) : Good p (rawSend a0 a1 s) := by
  unfold rawSend
  repeat' (with_reducible first
    | assumption
    | refine good_ite ?_ ?_
    | refine plainSend_good ?_
    | refine netSend_good ?_)

theorem rerr_good {a0} {a1} {a2} {a3} {s : State} (h : Good p s) : Good p (rerr a0 a1 a2 a3 s) := by
  unfold rerr
  repeat' (with_reducible first
    | assumption
    | refine good_ite ?_ ?_
    | refine State.wr_good ?_)

theorem State.ioPiece_good {s : State} {a1} {a2} (h : Good p s) : Good p (State.ioPiece s a1 a2).2 := by
  unfold State.ioPiece
  repeat' (with_reducible first
    | assumption
    | refine good_ite ?_ ?_
    | refine rerr_good ?_
    | refine State.busErr_good ?_
    | refine good_foldl ?_ ?_
    | refine good_foldl_fst ?_ ?_
    | refine good_foldl_snd ?_ ?_
    | intro _
    | simp only []
    | split
    | simp only [good_mk_iff])

theorem State.ioPiece_good_eq {s : State} {a1} {a2} {t : State} {b} (e : (State.ioPiece s a1 a2) = (b, t)) (h : Good p s) : Good p t := by
  have := State.ioPiece_good (s := s) (a1 := a1) (a2 := a2) h
  rw [e] at this
  exact this

theorem wakeWaiting_good {s : State} (h : Good p s) : Good p (wakeWaiting s) := by
  unfold wakeWaiting
  repeat' (with_reducible first
    | assumption
    | refine good_ite ?_ ?_
    | refine State.setThread_good ?_
    | refine good_foldl ?_ ?_
    | refine good_foldl_fst ?_ ?_
    | refine good_foldl_snd ?_ ?_
    | intro _
    | simp only []
    | split
    | simp only [good_mk_iff])

theorem ctDataRead_good {a0} {s : State} (h : Good p s) : Good p (ctDataRead a0 s).2 := by
  unfold ctDataRead
  repeat' (with_reducible first
    | assumption
    | refine good_ite ?_ ?_
    | refine State.setFld_good ?_)

theorem ctDataRead_good_eq {a0} {s : State} {t : State} {b} (e : (ctDataRead a0 s) = (b, t)) (h : Good p s) : Good p t := by
  have := ctDataRead_good (a0 := a0) (s := s) h
  rw [e] at this
  exact this

theorem markRead_good {s : State} (h : Good p s) : Good p (markRead s) := by
  unfold markRead
  repeat' (with_reducible first
    | assumption
    | refine good_ite ?_ ?_
    | refine State.wr_good ?_
    | refine State.wr64_good ?_
    | intro _
    | simp only []
    | split
    | simp only [good_mk_iff])

theorem tmCapTaken_good {a0} {s : State} (h : Good p s) : Good p (tmCapTaken a0 s) := by
  unfold tmCapTaken
  repeat' (with_reducible first
    | assumption
    | refine good_ite ?_ ?_
    | refine State.setFld_good ?_)

theorem snapRead_good {a0} {a1} {a2} {a3} {s : State} (h : Good p s) : Good p (snapRead a0 a1 a2 a3 s).2 := by
  unfold snapRead
  repeat' (with_reducible first
    | assumption
    | refine good_ite ?_ ?_
    | refine markRead_good ?_
    | refine tmCapTaken_good ?_
    | refine good_foldl ?_ ?_
    | refine good_foldl_fst ?_ ?_
    | refine good_foldl_snd ?_ ?_
    | intro _
    | simp only []
    | split
    | simp only [good_mk_iff])

theorem snapRead_good_eq {a0} {a1} {a2} {a3} {s : State} {t : State} {b} (e : (snapRead a0 a1 a2 a3 s) = (b, t)) (h : Good p s) : Good p t := by
  have := snapRead_good (a0 := a0) (a1 := a1) (a2 := a2) (a3 := a3) (s := s) h
  rw [e] at this
  exact this

theorem tmCountRead_good {a0} {s : State} (h : Good p s) : Good p (tmCountRead a0 s).2 := by
  unfold tmCountRead
  repeat' (with_reducible first
    | assumption
    | refine good_ite ?_ ?_
    | intro _
    | simp only []
    | split
    | simp only [good_mk_iff])

theorem tmCountRead_good_eq {a0} {s : State} {t : State} {b} (e : (tmCountRead a0 s) = (b, t)) (h : Good p s) : Good p t := by
  have := tmCountRead_good (a0 := a0) (s := s) h
  rw [e] at this
  exact this

theorem regGet_good {a0} {a1} {a2} {s : State} (h : Good p s) : Good p (regGet a0 a1 a2 s).2 := by
  unfold regGet
  repeat' (with_reducible first
    | assumption
    | refine good_ite ?_ ?_
    | refine snapRead_good ?_
    | refine snapRead_good_eq (by assumption) ?_
    | refine State.wr_good ?_
    | refine ctDataRead_good ?_
    | refine ctDataRead_good_eq (by assumption) ?_
    | refine tmCountRead_good ?_
    | refine tmCountRead_good_eq (by assumption) ?_
    | intro _
    | simp only []
    | split)

theorem regGet_good_eq {a0} {a1} {a2} {s : State} {t : State} {b} (e : (regGet a0 a1 a2 s) = (b, t)) (h : Good p s) : Good p t := by
  have := regGet_good (a0 := a0) (a1 := a1) (a2 := a2) (s := s) h
  rw [e] at this
  exact this

theorem pageRead_good {a1} {a2} {a3} {s : State} (h : Good p s) : Good p (pageRead a1 a2 a3 s).2 := by
  unfold pageRead
  repeat' (with_reducible first
    | assumption
    | refine good_ite ?_ ?_
    | refine regGet_good ?_
    | refine regGet_good_eq (by assumption) ?_
    | refine wakeWaiting_good ?_
    | refine rerr_good ?_
    | refine good_foldl ?_ ?_
    | refine good_foldl_fst ?_ ?_
    | refine good_foldl_snd ?_ ?_
    | intro _
    | simp only []
    | split
    | simp only [good_mk_iff])

theorem rawRead_good {own l got} {s : State} (h : Good p s) : Good p (rawRead own l got s).state := by
  induction l generalizing got s with
  | nil => exact h
  | cons x t ih =>
    unfold rawRead
    split
    · exact State.setTrio_good h
    · split
      · exact ih (pageRead_good h)
      · split
        · exact State.ioPiece_good_eq (by assumption) h
        · exact ih (State.ioPiece_good_eq (by assumption) h)

theorem State.ioPieces_good_ok {a1 a2 l b} {s t : State} (e : State.ioPieces s a1 a2 l = .ok (b, t)) (h : Good p s) : Good p t := by
  induction l generalizing s t b with
  | nil =>
    cases e
    exact h
  | cons x r ih =>
    unfold State.ioPieces at e
    split at e
    · cases e
    · have k := State.ioXlate_good_ok (by assumption) h
      generalize (if a2 = true then AccK.write else AccK.read) = acc at e
      split at e
      · cases e
      · split at e
        · cases e
        · split at e
          · cases e
          · cases e
            exact ih (by assumption) k

theorem ioLeaf_good_err {a1 a2 a3 x b c} {t : State} (e : ioLeaf a1 a2 a3 x = .error (b, c, t)) (h : Good p x.2) : Good p t := by
  unfold ioLeaf at e
  generalize (if a3 = true then 2 else 1) = need at e
  split at e
  · cases e
    exact h
  · split at e
    · cases e
    · cases e
      exact h

theorem State.ioXlate_good_err {a1 a2 a3 b c} {s t : State} (e : State.ioXlate s a1 a2 a3 = .error (b, c, t)) (h : Good p s) : Good p t := by
  unfold State.ioXlate at e
  simp only [] at e
  split at e
  · cases e
    exact h
  · split at e
    · cases e
    · split at e
      · split at e
        · cases e
        · cases e
          exact h
      · exact ioLeaf_good_err e (State.ioWalk_good h)

theorem State.ioPieces_good_err {a1 a2 l b c d} {s t : State} (e : State.ioPieces s a1 a2 l = .error (b, c, d, t)) (h : Good p s) :
    Good p t := by
  induction l generalizing s with
  | nil => cases e
  | cons x r ih =>
    unfold State.ioPieces at e
    split at e
    · cases e
      exact State.ioXlate_good_err (by assumption) h
    · have k := State.ioXlate_good_ok (by assumption) h
      generalize (if a2 = true then AccK.write else AccK.read) = acc at e
      split at e
      · cases e
        exact k
      · split at e
        · cases e
          exact k
        · split at e
          · cases e
            exact ih (by assumption) k
          · cases e

theorem rawGo_good {own k l got} {s : State} (h : Good p s) : Good p (rawGo own k l got s).2 := by
  induction k generalizing l got s with
  | zero => exact h
  | succ k ih =>
    unfold rawGo
    have r : Good p (rawRead own l got s).state := rawRead_good h
    split
    · rename_i e; rw [e] at r; exact r
    · rename_i e; rw [e] at r; exact rawNext_good r
    · rename_i e; rw [e] at r
      simp only []
      split
      · exact rawSend_good (rawNext_good r)
      · split
        · exact rawNext_good (State.ioRefuse_good (State.ioPieces_good_err (by assumption) r))
        · exact ih (State.ioPieces_good_ok (by assumption) r)

theorem rawTx_good {k} {s : State} (h : Good p s) : Good p (rawTx k s) := by
  induction k generalizing s with
  | zero => exact h
  | succ k ih =>
    unfold rawTx
    split
    · exact h
    · split
      · exact ih (rawNext_good (State.ioRefuse_good (State.ioPieces_good_err (by assumption) h)))
      · have r {l} : Good p (rawGo none 2 l [] _).2 := rawGo_good (State.ioPieces_good_ok (by assumption) h)
        exact good_ite r (ih r)

theorem rawTxAll_good {s : State} (h : Good p s) : Good p (rawTxAll s) := by
  unfold rawTxAll
  repeat' (with_reducible first
    | assumption
    | refine good_ite ?_ ?_
    | refine rawTx_good ?_)

theorem ptpSwitch_good {a0} {s : State} (h : Good p s) : Good p (ptpSwitch a0 s) := by
  unfold ptpSwitch
  repeat' (with_reducible first
    | assumption
    | refine good_ite ?_ ?_
    | refine ptpGo_good ?_
    | intro _
    | simp only []
    | split
    | simp only [good_mk_iff])

theorem netDo_good {a0} {a1} {s : State} (h : Good p s) : Good p (netDo a0 a1 s) := by
  unfold netDo
  repeat' (with_reducible first
    | assumption
    | refine good_ite ?_ ?_
    | refine State.wr_good ?_
    | refine ptpSwitch_good ?_
    | refine rawTxAll_good ?_
    | intro _
    | simp only []
    | split
    | simp only [good_mk_iff])

theorem ycpDo_good {a0} {a1} {s : State} (h : Good p s) : Good p (ycpDo a0 a1 s) := by
  unfold ycpDo
  repeat' (with_reducible first
    | assumption
    | refine good_ite ?_ ?_
    | refine State.setKeySlot_good ?_
    | refine State.wr_good ?_
    | refine State.setFld_good ?_
    | refine State.setYcp_good ?_
    | intro _
    | simp only []
    | split)

theorem flashStart_good {a0} {a1} {s : State} (h : Good p s) : Good p (flashStart a0 a1 s) := by
  unfold flashStart
  repeat' (with_reducible first
    | assumption
    | refine good_ite ?_ ?_
    | refine State.setFld_good ?_
    | refine State.setFlashCmd_good ?_)

theorem xspiDo_good {a0} {a1} {s : State} (h : Good p s) : Good p (xspiDo a0 a1 s) := by
  unfold xspiDo
  repeat' (with_reducible first
    | assumption
    | refine good_ite ?_ ?_
    | refine flashStart_good ?_
    | refine State.wr_good ?_
    | intro _
    | simp only []
    | split)

theorem qDisable_good {a0} {a1} {s : State} (h : Good p s) : Good p (qDisable a0 a1 s) := by
  unfold qDisable
  repeat' (with_reducible first
    | assumption
    | refine good_ite ?_ ?_
    | refine drainCheck_good ?_
    | refine qGo_good ?_
    | refine State.setQueue_good ?_
    | refine discard_good ?_
    | refine discard_good_eq (by assumption) ?_
    | refine cancelFlights_good ?_)

theorem discardHead_good {a0} {s : State} (h : Good p s) : Good p (discardHead a0 s) := by
  unfold discardHead
  repeat' (with_reducible first
    | assumption
    | refine good_ite ?_ ?_
    | refine discard_good ?_
    | refine discard_good_eq (by assumption) ?_
    | intro _
    | simp only []
    | split)

theorem qcmdDo_good {a0} {a1} {s : State} (h : Good p s) : Good p (qcmdDo a0 a1 s) := by
  unfold qcmdDo
  repeat' (with_reducible first
    | assumption
    | refine good_ite ?_ ?_
    | refine qGo_good ?_
    | refine discard_good ?_
    | refine discard_good_eq (by assumption) ?_
    | refine discardHead_good ?_
    | intro _
    | simp only []
    | split)

theorem qdDo_good {a0} {a1} {a2} {s : State} (h : Good p s) : Good p (qdDo a0 a1 a2 s) := by
  unfold qdDo
  repeat' (with_reducible first
    | assumption
    | refine good_ite ?_ ?_
    | refine State.wr_good ?_
    | refine qGo_good ?_
    | refine State.putQueue_good ?_
    | refine qDisable_good ?_
    | refine qcmdDo_good ?_
    | intro _
    | simp only []
    | split)

theorem setStat_good {a0} {a1} {a2} {s : State} (h : Good p s) : Good p (setStat a0 a1 a2 s) := by
  unfold setStat
  repeat' (with_reducible first
    | assumption
    | refine good_ite ?_ ?_
    | refine State.setFld_good ?_)

theorem learnEnd_good {a0} {a1} {a2} {s : State} (h : Good p s) : Good p (learnEnd a0 a1 a2 s) := by
  unfold learnEnd
  repeat' (with_reducible first
    | assumption
    | refine good_ite ?_ ?_
    | refine State.setShaft_good ?_
    | refine State.shaftIrq_good ?_
    | refine State.setFld_good ?_)

theorem learnStop_good {a0} {s : State} (h : Good p s) : Good p (learnStop a0 s) := by
  unfold learnStop
  repeat' (with_reducible first
    | assumption
    | refine good_ite ?_ ?_
    | refine learnEnd_good ?_
    | intro _
    | simp only []
    | split)

theorem shaftDisable_good {a0} {s : State} (h : Good p s) : Good p (shaftDisable a0 s) := by
  unfold shaftDisable
  repeat' (with_reducible first
    | assumption
    | refine good_ite ?_ ?_
    | refine State.setFld_good ?_
    | refine learnStop_good ?_
    | refine State.setShaft_good ?_)

theorem seqOff_good {s : State} (h : Good p s) : Good p (seqOff s) := by
  unfold seqOff
  repeat' (with_reducible first
    | assumption
    | refine good_ite ?_ ?_
    | refine seqGo_good ?_
    | refine State.setSeq_good ?_)

theorem pgEnd_good {a1} {s : State} (h : Good p s) : Good p (pgEnd a1 s) := by
  unfold pgEnd
  repeat' (with_reducible first
    | assumption
    | refine good_ite ?_ ?_
    | refine shaftDisable_good ?_
    | refine seqOff_good ?_
    | refine good_foldl ?_ ?_
    | refine good_foldl_fst ?_ ?_
    | refine good_foldl_snd ?_ ?_
    | intro _
    | simp only []
    | split
    | simp only [good_mk_iff])

theorem ringOn_good {a0} {s : State} (h : Good p s) : Good p (ringOn a0 s) := by
  unfold ringOn
  repeat' (with_reducible first
    | assumption
    | refine good_ite ?_ ?_
    | refine State.setFld_good ?_
    | refine State.setRing_good ?_)

theorem ethOn_good {a0} {s : State} (h : Good p s) : Good p (ethOn a0 s) := by
  unfold ethOn
  repeat' (with_reducible first
    | assumption
    | refine good_ite ?_ ?_
    | refine State.setEthp_good ?_)

theorem netOn_good {s : State} (h : Good p s) : Good p (netOn s) := by
  unfold netOn
  repeat' (with_reducible first
    | assumption
    | refine good_ite ?_ ?_
    | refine rawTxAll_good ?_
    | refine ptpSwitch_good ?_)

theorem State.clearTlbs_good {s : State} {a1} (h : Good p s) : Good p (State.clearTlbs s a1) := by
  unfold State.clearTlbs
  repeat' (with_reducible first
    | assumption
    | refine good_ite ?_ ?_
    | refine good_foldl ?_ ?_
    | refine good_foldl_fst ?_ ?_
    | refine good_foldl_snd ?_ ?_
    | intro _
    | simp only []
    | split
    | simp only [good_mk_iff])

theorem trioReset_good {a1} {s : State} (h : Good p s) : Good p (trioReset a1 s) := by
  unfold trioReset
  repeat' (with_reducible first
    | assumption
    | refine good_ite ?_ ?_
    | refine State.clearTlbs_good ?_
    | refine State.setTrio_good ?_
    | refine abortCores_good ?_
    | refine State.setFld_good ?_
    | refine good_foldl ?_ ?_
    | refine good_foldl_fst ?_ ?_
    | refine good_foldl_snd ?_ ?_
    | intro _
    | simp only []
    | split
    | simp only [good_mk_iff])

theorem trioOn_good {a1} {s : State} (h : Good p s) : Good p (trioOn a1 s) := by
  unfold trioOn
  repeat' (with_reducible first
    | assumption
    | refine good_ite ?_ ?_
    | refine State.setThread_good ?_
    | refine State.setTrio_good ?_
    | refine trioReset_good ?_
    | refine State.setFld_good ?_
    | refine good_foldl ?_ ?_
    | refine good_foldl_fst ?_ ?_
    | refine good_foldl_snd ?_ ?_
    | intro _
    | simp only []
    | split
    | simp only [good_mk_iff])

theorem pgEnter_good {a1} {s : State} (h : Good p s) : Good p (pgEnter a1 s) := by
  unfold pgEnter
  repeat' (with_reducible first
    | assumption
    | refine good_ite ?_ ?_
    | refine trioOn_good ?_
    | refine lanesRefresh_good ?_
    | refine lineRefresh_good ?_
    | refine ringOn_good ?_
    | refine ethOn_good ?_
    | refine netOn_good ?_
    | refine lanesShow_good ?_
    | refine good_foldl ?_ ?_
    | refine good_foldl_fst ?_ ?_
    | refine good_foldl_snd ?_ ?_
    | intro _
    | simp only []
    | split
    | simp only [good_mk_iff])

theorem trioStops_good {a0} {s : State} (h : Good p s) : Good p (trioStops a0 s) := by
  unfold trioStops
  repeat' (with_reducible first
    | assumption
    | refine good_ite ?_ ?_
    | refine State.setThread_good ?_
    | refine good_foldl ?_ ?_
    | refine good_foldl_fst ?_ ?_
    | refine good_foldl_snd ?_ ?_
    | intro _)

theorem tmPageOff_good {a0} {s : State} (h : Good p s) : Good p (tmPageOff a0 s) := by
  unfold tmPageOff
  repeat' (with_reducible first
    | assumption
    | refine good_ite ?_ ?_
    | refine tmDisable_good ?_
    | refine good_foldl ?_ ?_
    | refine good_foldl_fst ?_ ?_
    | refine good_foldl_snd ?_ ?_
    | intro _)

theorem ethOffStart_good {a0} {s : State} (h : Good p s) : Good p (ethOffStart a0 s) := by
  unfold ethOffStart
  repeat' (with_reducible first
    | assumption
    | refine good_ite ?_ ?_
    | refine State.setEthp_good ?_)

theorem netOff_good {s : State} (h : Good p s) : Good p (netOff s) := by
  unfold netOff
  repeat' (with_reducible first
    | assumption
    | refine good_ite ?_ ?_
    | refine ptpGo_good ?_)

theorem flashShow_good {a0} {s : State} (h : Good p s) : Good p (flashShow a0 s) := by
  unfold flashShow
  repeat' (with_reducible first
    | assumption
    | refine good_ite ?_ ?_
    | refine State.setFld_good ?_)

theorem flashSpoil_good {a0} {s : State} (h : Good p s) : Good p (flashSpoil a0 s) := by
  unfold flashSpoil
  repeat' (with_reducible first
    | assumption
    | refine good_ite ?_ ?_
    | refine State.poke_good ?_)

theorem burn_good {a0} {s : State} (h : Good p s) : Good p (burn a0 s) := by
  unfold burn
  repeat' (with_reducible first
    | assumption
    | refine good_ite ?_ ?_
    | refine State.setFld_good ?_
    | refine State.setDev_good ?_)

theorem uploadDrop_good {s : State} (h : Good p s) : Good p (uploadDrop s) := by
  unfold uploadDrop
  repeat' (with_reducible first
    | assumption
    | refine good_ite ?_ ?_
    | refine State.irq_good ?_
    | refine State.setFld_good ?_
    | refine State.setYcp_good ?_
    | refine good_foldl ?_ ?_
    | refine good_foldl_fst ?_ ?_
    | refine good_foldl_snd ?_ ?_
    | intro _
    | simp only []
    | split
    | simp only [good_mk_iff])

theorem uploadAbandon_good {s : State} (h : Good p s) : Good p (uploadAbandon s) := by
  unfold uploadAbandon
  repeat' (with_reducible first
    | assumption
    | refine good_ite ?_ ?_
    | refine flashShow_good ?_
    | refine flashSpoil_good ?_
    | refine uploadDrop_good ?_
    | refine burn_good ?_
    | intro _
    | simp only []
    | split)

theorem sessClose_good {a0} {s : State} (h : Good p s) : Good p (sessClose a0 s) := by
  unfold sessClose
  repeat' (with_reducible first
    | assumption
    | refine good_ite ?_ ?_
    | refine State.setYcp_good ?_
    | refine uploadDrop_good ?_
    | refine State.irq_good ?_
    | refine burn_good ?_
    | intro _
    | simp only []
    | split)

theorem ycpOff_good {s : State} (h : Good p s) : Good p (ycpOff s) := by
  unfold ycpOff
  repeat' (with_reducible first
    | assumption
    | refine good_ite ?_ ?_
    | refine uploadAbandon_good ?_
    | refine sessClose_good ?_
    | refine good_foldl ?_ ?_
    | refine good_foldl_fst ?_ ?_
    | refine good_foldl_snd ?_ ?_
    | intro _)

theorem ringDrop_good {a0} {s : State} (h : Good p s) : Good p (ringDrop a0 s) := by
  unfold ringDrop
  repeat' (with_reducible first
    | assumption
    | refine good_ite ?_ ?_
    | refine State.setRing_good ?_)

theorem undelivered_good {a1} {s : State} (h : Good p s) : Good p (undelivered a1 s) := by
  unfold undelivered
  repeat' (with_reducible first
    | assumption
    | refine good_ite ?_ ?_
    | refine ringEvent_good ?_
    | refine State.incSat_good ?_
    | refine good_foldl ?_ ?_
    | refine good_foldl_fst ?_ ?_
    | refine good_foldl_snd ?_ ?_
    | intro _
    | simp only []
    | split
    | simp only [good_mk_iff])

theorem ringFlush_good {a1} {s : State} (h : Good p s) : Good p (ringFlush a1 s) := by
  unfold ringFlush
  repeat' (with_reducible first
    | assumption
    | refine good_ite ?_ ?_
    | refine undelivered_good ?_
    | refine State.setRing_good ?_
    | refine good_foldl ?_ ?_
    | refine good_foldl_fst ?_ ?_
    | refine good_foldl_snd ?_ ?_
    | intro _
    | simp only []
    | split
    | simp only [good_mk_iff])

theorem ringOffStart_good {a1} {s : State} (h : Good p s) : Good p (ringOffStart a1 s) := by
  unfold ringOffStart
  repeat' (with_reducible first
    | assumption
    | refine good_ite ?_ ?_
    | refine ringDrop_good ?_
    | refine ringFlush_good ?_
    | refine State.setRing_good ?_
    | refine State.setFld_good ?_
    | refine good_foldl ?_ ?_
    | refine good_foldl_fst ?_ ?_
    | refine good_foldl_snd ?_ ?_
    | intro _
    | simp only []
    | split
    | simp only [good_mk_iff])

theorem pgLeave_good {a1} {s : State} (h : Good p s) : Good p (pgLeave a1 s) := by
  unfold pgLeave
  repeat' (with_reducible first
    | assumption
    | refine good_ite ?_ ?_
    | refine trioStops_good ?_
    | refine learnStop_good ?_
    | refine lanesRefresh_good ?_
    | refine setStat_good ?_
    | refine tmPageOff_good ?_
    | refine ringOffStart_good ?_
    | refine ethOffStart_good ?_
    | refine netOff_good ?_
    | refine ycpOff_good ?_
    | refine lanesShow_good ?_
    | refine good_foldl ?_ ?_
    | refine good_foldl_fst ?_ ?_
    | refine good_foldl_snd ?_ ?_
    | intro _
    | simp only []
    | split
    | simp only [good_mk_iff])

theorem ctlDo_good {a1} {a2} {s : State} (h : Good p s) : Good p (ctlDo a1 a2 s) := by
  unfold ctlDo
  repeat' (with_reducible first
    | assumption
    | refine good_ite ?_ ?_
    | refine State.wr_good ?_
    | refine setStat_good ?_
    | refine pgEnter_good ?_
    | refine pgEnd_good ?_
    | refine pgLeave_good ?_
    | refine good_foldl ?_ ?_
    | refine good_foldl_fst ?_ ?_
    | refine good_foldl_snd ?_ ?_
    | intro _
    | simp only []
    | split
    | simp only [good_mk_iff])

theorem shaftCmdDo_good {a0} {a1} {s : State} (h : Good p s) : Good p (shaftCmdDo a0 a1 s) := by
  unfold shaftCmdDo
  repeat' (with_reducible first
    | assumption
    | refine good_ite ?_ ?_
    | refine State.setShaft_good ?_
    | refine State.setFld_good ?_
    | refine learnStop_good ?_
    | intro _
    | simp only []
    | split)

theorem ctFlags_good {a0} {s : State} (h : Good p s) : Good p (ctFlags a0 s) := by
  unfold ctFlags
  repeat' (with_reducible first
    | assumption
    | refine good_ite ?_ ?_
    | refine State.setFld_good ?_)

theorem ckMoves_good {a1} {a2} {s : State} (h : Good p s) : Good p (ckMoves a1 a2 s) := by
  unfold ckMoves
  repeat' (with_reducible first
    | assumption
    | refine good_ite ?_ ?_
    | refine State.emit_good ?_
    | refine good_foldl ?_ ?_
    | refine good_foldl_fst ?_ ?_
    | refine good_foldl_snd ?_ ?_
    | intro _
    | simp only []
    | split
    | simp only [good_mk_iff])

theorem shaftDo_good {a1} {a2} {a3} {s : State} (h : Good p s) : Good p (shaftDo a1 a2 a3 s) := by
  unfold shaftDo
  repeat' (with_reducible first
    | assumption
    | refine good_ite ?_ ?_
    | refine ckMoves_good ?_
    | refine State.wr_good ?_
    | refine shaftCmdDo_good ?_
    | refine ctFlags_good ?_
    | refine State.setFld_good ?_
    | refine State.setShaft_good ?_
    | refine good_foldl ?_ ?_
    | refine good_foldl_fst ?_ ?_
    | refine good_foldl_snd ?_ ?_
    | intro _
    | simp only []
    | split
    | simp only [good_mk_iff])

theorem ctlEnds_good {a1} {s : State} (h : Good p s) : Good p (ctlEnds a1 s) := by
  unfold ctlEnds
  repeat' (with_reducible first
    | assumption
    | refine good_ite ?_ ?_
    | refine rawTxAll_good ?_
    | refine good_foldl ?_ ?_
    | refine good_foldl_fst ?_ ?_
    | refine good_foldl_snd ?_ ?_
    | intro _
    | simp only []
    | split
    | simp only [good_mk_iff])

theorem bistDo_good {a1} {a2} {s : State} (h : Good p s) : Good p (bistDo a1 a2 s) := by
  unfold bistDo
  repeat' (with_reducible first
    | assumption
    | refine good_ite ?_ ?_
    | refine State.setDev_good ?_
    | refine lanesShow_good ?_
    | refine State.wr_good ?_
    | refine good_foldl ?_ ?_
    | refine good_foldl_fst ?_ ?_
    | refine good_foldl_snd ?_ ?_
    | intro _
    | simp only []
    | split
    | simp only [good_mk_iff])

theorem blockDo_good {a1} {a2} {a3} {a4} {s : State} (h : Good p s) : Good p (blockDo a1 a2 a3 a4 s) := by
  unfold blockDo
  repeat' (with_reducible first
    | assumption
    | refine good_ite ?_ ?_
    | refine State.wr_good ?_
    | refine ctlEnds_good ?_
    | refine ctlDo_good ?_
    | refine sysDo_good ?_
    | refine clkDo_good ?_
    | refine rstDo_good ?_
    | refine marginDo_good ?_
    | refine collDo_good ?_
    | refine fswDo_good ?_
    | refine recDo_good ?_
    | refine sevDo_good ?_
    | refine trioDo_good ?_
    | refine intdDo_good ?_
    | refine routeDo_good ?_
    | refine ackDo_good ?_
    | refine eoiDo_good ?_
    | refine iotDo_good ?_
    | refine shaftDo_good ?_
    | refine angleDo_good ?_
    | refine engDo_good ?_
    | refine seqDo_good ?_
    | refine gtmrDo_good ?_
    | refine tmDo_good ?_
    | refine ringDo_good ?_
    | refine ethDo_good ?_
    | refine rawTxAll_good ?_
    | refine netDo_good ?_
    | refine ycpDo_good ?_
    | refine xspiDo_good ?_
    | refine bistDo_good ?_
    | refine qdDo_good ?_
    | refine good_foldl ?_ ?_
    | refine good_foldl_fst ?_ ?_
    | refine good_foldl_snd ?_ ?_
    | intro _
    | simp only []
    | split
    | simp only [good_mk_iff])

theorem regApply_good {a0} {a1} {a2} {s : State} (h : Good p s) : Good p (regApply a0 a1 a2 s) := by
  unfold regApply
  repeat' (with_reducible first
    | assumption
    | refine good_ite ?_ ?_
    | refine blockDo_good ?_
    | refine State.wr_good ?_
    | intro _
    | simp only []
    | split
    | simp only [good_mk_iff])

theorem shaftRefused_good {a0} {a1} {a2} {a3} {s : State} (h : Good p s) : Good p (shaftRefused a0 a1 a2 a3 s) := by
  unfold shaftRefused
  repeat' (with_reducible first
    | assumption
    | refine good_ite ?_ ?_
    | refine State.wr_good ?_)

theorem blockRefused_good {a0} {a1} {a2} {a3} {a4} {s : State} (h : Good p s) : Good p (blockRefused a0 a1 a2 a3 a4 s) := by
  unfold blockRefused
  repeat' (with_reducible first
    | assumption
    | refine good_ite ?_ ?_
    | refine shaftRefused_good ?_)

theorem regRefuse_good {a0} {a1} {a2} {a3} {a4} {s : State} (h : Good p s) : Good p (regRefuse a0 a1 a2 a3 a4 s) := by
  unfold regRefuse
  repeat' (with_reducible first
    | assumption
    | refine good_ite ?_ ?_
    | refine wstat_good ?_
    | refine blockRefused_good ?_
    | intro _
    | simp only []
    | split
    | simp only [good_mk_iff])

theorem pairWrite_good {a0} {a1} {a2} {a3} {a4} {s : State} (h : Good p s) : Good p (pairWrite a0 a1 a2 a3 a4 s).1 := by
  unfold pairWrite
  repeat' (with_reducible first
    | assumption
    | refine good_ite ?_ ?_
    | refine regApply_good ?_
    | refine regRefuse_good ?_
    | intro _
    | simp only []
    | split
    | simp only [good_mk_iff])

theorem pairWrite_good_eq {a0} {a1} {a2} {a3} {a4} {s : State} {t : State} {b} (e : (pairWrite a0 a1 a2 a3 a4 s) = (t, b)) (h : Good p s) : Good p t := by
  have := pairWrite_good (a0 := a0) (a1 := a1) (a2 := a2) (a3 := a3) (a4 := a4) (s := s) h
  rw [e] at this
  exact this

theorem pageWrite_good {a1} {a2} {a3} {a4} {s : State} (h : Good p s) : Good p (pageWrite a1 a2 a3 a4 s).1 := by
  unfold pageWrite
  repeat' (with_reducible first
    | assumption
    | refine good_ite ?_ ?_
    | refine wstat_good ?_
    | refine wakeWaiting_good ?_
    | refine regApply_good ?_
    | refine regRefuse_good ?_
    | refine pairWrite_good ?_
    | refine pairWrite_good_eq (by assumption) ?_
    | refine good_foldl ?_ ?_
    | refine good_foldl_fst ?_ ?_
    | refine good_foldl_snd ?_ ?_
    | intro _
    | simp only []
    | split
    | simp only [good_mk_iff])

theorem pageWrite_good_eq {a1} {a2} {a3} {a4} {s : State} {t : State} {b} (e : (pageWrite a1 a2 a3 a4 s) = (t, b)) (h : Good p s) : Good p t := by
  have := pageWrite_good (a1 := a1) (a2 := a2) (a3 := a3) (a4 := a4) (s := s) h
  rw [e] at this
  exact this

theorem rawPage_good {a1} {a2} {s : State} (h : Good p s) : Good p (rawPage a1 a2 s) := by
  unfold rawPage
  repeat' (with_reducible first
    | assumption
    | refine good_ite ?_ ?_
    | refine pageWrite_good ?_
    | refine pageWrite_good_eq (by assumption) ?_
    | refine pageRefuses_good ?_
    | refine good_foldl ?_ ?_
    | refine good_foldl_fst ?_ ?_
    | refine good_foldl_snd ?_ ?_
    | intro _
    | simp only []
    | split
    | simp only [good_mk_iff])

theorem State.pokePieces_good {d : List Byte} {reg} {s : State} {l} (hr : ∀ a d s, Good p s → Good p (reg a d s)) (h : Good p s) :
    Good p (s.pokePieces reg l d) := by
  induction l generalizing s d with
  | nil => exact h
  | cons x t ih => exact ih (good_ite (hr _ _ _ h) (State.pokeExt_good h))

theorem State.ioWrite_good {a1 a2 d reg} {s : State} (hr : ∀ a d s, Good p s → Good p (reg a d s)) (h : Good p s) :
    Good p (s.ioWrite a1 a2 d reg).2 := by
  unfold State.ioWrite
  split
  · exact State.ioRefuse_good (State.ioPieces_good_err (by assumption) h)
  · exact State.pokePieces_good hr (State.ioPieces_good_ok (by assumption) h)

theorem State.ioWrite_good_eq {a1 a2 d reg b} {s t : State} (e : s.ioWrite a1 a2 d reg = (b, t))
    (hr : ∀ a d s, Good p s → Good p (reg a d s)) (h : Good p s) : Good p t := by
  have := State.ioWrite_good (a1 := a1) (a2 := a2) (d := d) hr h
  rw [e] at this
  exact this

theorem rawReceive_good {a1 a2} {s : State} (h : Good p s) : Good p (rawReceive a1 a2 s) := by
  unfold rawReceive
  simp only []
  refine good_ite (State.irq_good (State.incSat_good h)) ?_
  split
  · exact State.setFld_good (State.ioWrite_good_eq (by assumption) (fun _ _ _ k => rawPage_good k) h)
  · exact State.irq_good (State.incSat_good (State.ioWrite_good_eq (by assumption) (fun _ _ _ k => rawPage_good k) h))

theorem classify_good {a0} {a1} {s : State} (h : Good p s) : Good p (classify a0 a1 s) := by
  unfold classify
  repeat' (with_reducible first
    | assumption
    | refine good_ite ?_ ?_
    | refine rawReceive_good ?_
    | refine State.raise_good ?_
    | intro _
    | simp only []
    | split)

theorem arpReceive_good {a0} {a1} {a2} {s : State} (h : Good p s) : Good p (arpReceive a0 a1 a2 s) := by
  unfold arpReceive
  repeat' (with_reducible first
    | assumption
    | refine good_ite ?_ ?_
    | refine netSend_good ?_
    | refine classify_good ?_)

theorem avsRead_good {a0} {s : State} (h : Good p s) : Good p (avsRead a0 s) := by
  unfold avsRead
  repeat' (with_reducible first
    | assumption
    | refine good_ite ?_ ?_
    | refine State.raise_good ?_
    | refine State.setDev_good ?_
    | intro _
    | simp only []
    | split)

theorem backlog_good {a0} {s : State} (h : Good p s) : Good p (backlog a0 s) := by
  unfold backlog
  repeat' (with_reducible first
    | assumption
    | refine good_ite ?_ ?_
    | refine State.setFld_good ?_
    | refine State.raise_good ?_
    | refine State.irq_good ?_)

theorem badFrame_good {a0} {s : State} (h : Good p s) : Good p (badFrame a0 s) := by
  unfold badFrame
  repeat' (with_reducible first
    | assumption
    | refine good_ite ?_ ?_
    | refine State.incSat_good ?_
    | refine State.setRing_good ?_
    | refine ringEvent_good ?_)

theorem sliceCount_good {a0} {s : State} (h : Good p s) : Good p (sliceCount a0 s) := by
  unfold sliceCount
  repeat' (with_reducible first
    | assumption
    | refine good_ite ?_ ?_
    | refine State.setFld_good ?_
    | refine State.incSat_good ?_)

theorem trioEvt_good {a0} {a1} {a2} {a3} {s : State} (h : Good p s) : Good p (trioEvt a0 a1 a2 a3 s) := by
  unfold trioEvt
  repeat' (with_reducible first
    | assumption
    | refine good_ite ?_ ?_
    | refine State.wr_good ?_
    | refine State.wr64_good ?_
    | refine State.raiseUnit_good ?_)

theorem trioDegrades_good {a0} {s : State} (h : Good p s) : Good p (trioDegrades a0 s) := by
  unfold trioDegrades
  repeat' (with_reducible first
    | assumption
    | refine good_ite ?_ ?_
    | refine trioEvt_good ?_
    | refine State.setFld_good ?_)

theorem trioFails_good {a0} {s : State} (h : Good p s) : Good p (trioFails a0 s) := by
  unfold trioFails
  repeat' (with_reducible first
    | assumption
    | refine good_ite ?_ ?_
    | refine abortCores_good ?_
    | refine State.setFld_good ?_
    | refine trioDegrades_good ?_)

theorem coreOut_good {a0} {a1} {s : State} (h : Good p s) : Good p (coreOut a0 a1 s) := by
  unfold coreOut
  repeat' (with_reducible first
    | assumption
    | refine good_ite ?_ ?_
    | refine State.setFld_good ?_)

theorem coreFails_good {a0} {a1} {a2} {s : State} (h : Good p s) : Good p (coreFails a0 a1 a2 s) := by
  unfold coreFails
  repeat' (with_reducible first
    | assumption
    | refine good_ite ?_ ?_
    | refine State.setTrio_good ?_
    | refine trioFails_good ?_
    | refine trioEvt_good ?_
    | refine coreOut_good ?_
    | refine State.setFld_good ?_)

theorem sliceFails_good {a0} {s : State} (h : Good p s) : Good p (sliceFails a0 s) := by
  unfold sliceFails
  repeat' (with_reducible first
    | assumption
    | refine good_ite ?_ ?_
    | refine State.wr_good ?_
    | refine State.incSat_good ?_
    | refine State.setFld_good ?_
    | refine State.wr64_good ?_
    | refine State.irq_good ?_
    | refine State.raise_good ?_
    | refine coreFails_good ?_
    | refine laneFails_good ?_
    | intro _
    | simp only []
    | split)

theorem bistEnd_good {a0} {a1} {s : State} (h : Good p s) : Good p (bistEnd a0 a1 s) := by
  unfold bistEnd
  repeat' (with_reducible first
    | assumption
    | refine good_ite ?_ ?_
    | refine State.incWrap_good ?_
    | refine sliceAbort_good ?_
    | refine lanesRefresh_good ?_
    | refine State.setFld_good ?_
    | refine sliceCount_good ?_
    | refine sliceFails_good ?_
    | intro _
    | simp only []
    | split)

theorem doubleEscalation_good {s : State} {a1} {a2} {a3} (h : Good p s) : Good p (doubleEscalation s a1 a2 a3) := by
  unfold doubleEscalation
  repeat' (with_reducible first
    | assumption
    | refine good_ite ?_ ?_
    | refine State.incSat_good ?_
    | refine State.irq_good ?_
    | refine State.setThread_good ?_
    | refine good_foldl ?_ ?_
    | refine good_foldl_fst ?_ ?_
    | refine good_foldl_snd ?_ ?_
    | intro _
    | simp only []
    | split
    | simp only [good_mk_iff])

theorem pairOut_good {s : State} {a1} {a2} (h : Good p s) : Good p (pairOut s a1 a2) := by
  unfold pairOut
  repeat' (with_reducible first
    | assumption
    | refine good_ite ?_ ?_
    | refine State.pokeLocal_good ?_
    | refine State.pushCommit_good ?_
    | refine good_foldl ?_ ?_
    | refine good_foldl_fst ?_ ?_
    | refine good_foldl_snd ?_ ?_
    | intro _
    | simp only []
    | split
    | simp only [good_mk_iff])

theorem queueAppend_good {a0} {a1} {a2} {s : State} (h : Good p s) : Good p (queueAppend a0 a1 a2 s).1 := by
  unfold queueAppend
  repeat' (with_reducible first
    | assumption
    | refine good_ite ?_ ?_
    | refine appendDo_good ?_
    | refine appendReject_good ?_
    | intro _
    | simp only []
    | split)

theorem queueAppend_good_eq {a0} {a1} {a2} {s : State} {t : State} {b} (e : (queueAppend a0 a1 a2 s) = (t, b)) (h : Good p s) : Good p t := by
  have := queueAppend_good (a0 := a0) (a1 := a1) (a2 := a2) (s := s) h
  rw [e] at this
  exact this

theorem performPiece_good {a1} {s : State} {a2} (h : Good p s) : Good p (performPiece a1 s a2) := by
  unfold performPiece
  repeat' (with_reducible first
    | assumption
    | refine good_ite ?_ ?_
    | refine State.pokeLocal_good ?_
    | refine pageWrite_good ?_
    | refine pageWrite_good_eq (by assumption) ?_
    | refine State.pokeExt_good ?_
    | refine good_foldl ?_ ?_
    | refine good_foldl_fst ?_ ?_
    | refine good_foldl_snd ?_ ?_
    | intro _
    | simp only []
    | split
    | simp only [good_mk_iff])

theorem performOut_good {s : State} {a1} (h : Good p s) : Good p (performOut s a1) := by
  unfold performOut
  repeat' (with_reducible first
    | assumption
    | refine good_ite ?_ ?_
    | refine performPiece_good ?_
    | refine queueAppend_good ?_
    | refine queueAppend_good_eq (by assumption) ?_
    | refine State.incWrap_good ?_
    | refine good_foldl ?_ ?_
    | refine good_foldl_fst ?_ ?_
    | refine good_foldl_snd ?_ ?_
    | intro _
    | simp only []
    | split
    | simp only [good_mk_iff])

theorem performLoad_good {s : State} {a1} {a2} {a3} (h : Good p s) : Good p (performLoad s a1 a2 a3).2 := by
  unfold performLoad
  repeat' (with_reducible first
    | assumption
    | refine good_ite ?_ ?_
    | refine State.poke_good ?_
    | intro _
    | simp only []
    | split)

theorem performLoad_good_eq {s : State} {a1} {a2} {a3} {t : State} {b} (e : (performLoad s a1 a2 a3) = (b, t)) (h : Good p s) : Good p t := by
  have := performLoad_good (s := s) (a1 := a1) (a2 := a2) (a3 := a3) h
  rw [e] at this
  exact this

theorem regPieceRead_good {w : Writer} {k a n : Nat} {s : State} (h : Good p s) : Good p (regPieceRead w k a n s).2 := by
  induction k generalizing a n s with
  | zero => exact h
  | succ k ih =>
    rw [regPieceRead]
    split
    · exact h
    · have k {b : AccWidth} : Good p (pageRead w a b s).2 := pageRead_good h
      simp only []
      generalize e : pageRead w a _ s = r
      have k1 : Good p r.2 := e ▸ k
      clear e
      obtain ⟨v, s1⟩ := r
      exact ih k1

theorem rawGo_good_eq {own k l got b} {s t : State} (e : rawGo own k l got s = (b, t)) (h : Good p s) : Good p t := by
  have := rawGo_good (own := own) (k := k) (l := l) (got := got) h
  rw [e] at this
  exact this

theorem rawResume_good {a1} {a2} {a3} {s : State} (h : Good p s) : Good p (rawResume a1 a2 a3 s) := by
  unfold rawResume
  repeat' (with_reducible first
    | assumption
    | refine good_ite ?_ ?_
    | refine rawGo_good ?_
    | refine rawGo_good_eq (by assumption) ?_
    | refine rawTxAll_good ?_
    | refine good_foldl ?_ ?_
    | refine good_foldl_fst ?_ ?_
    | refine good_foldl_snd ?_ ?_
    | intro _
    | simp only []
    | split
    | simp only [good_mk_iff])

theorem holdAt_good {a1} {a2} {a3} {s : State} (h : Good p s) : Good p (holdAt a1 a2 a3 s) := by
  unfold holdAt
  repeat' (with_reducible first
    | assumption
    | refine good_ite ?_ ?_
    | refine State.setTrio_good ?_
    | refine good_foldl ?_ ?_
    | refine good_foldl_fst ?_ ?_
    | refine good_foldl_snd ?_ ?_
    | intro _
    | simp only []
    | split
    | simp only [good_mk_iff])

theorem releaseCommit_good {k n} {s : State} (h : Good p s) : Good p (releaseCommit k n s) := by
  induction k generalizing s with
  | zero => exact h
  | succ k ih =>
    unfold releaseCommit
    split
    · exact h
    · split
      · exact h
      · split
        · exact holdAt_good (State.setTrio_good h)
        · exact ih (performOut_good (State.setTrio_good h))

theorem heldDone_good {a1} {s : State} (h : Good p s) : Good p (heldDone a1 s) := by
  unfold heldDone
  repeat' (with_reducible first
    | assumption
    | refine good_ite ?_ ?_
    | refine releaseCommit_good ?_
    | refine State.setTrio_good ?_
    | refine State.setThread_good ?_
    | refine good_foldl ?_ ?_
    | refine good_foldl_fst ?_ ?_
    | refine good_foldl_snd ?_ ?_
    | intro _
    | simp only []
    | split
    | simp only [good_mk_iff])

theorem imageOver_good {a0} {s : State} (h : Good p s) : Good p (imageOver a0 s) := by
  unfold imageOver
  repeat' (with_reducible first
    | assumption
    | refine good_ite ?_ ?_
    | refine State.irq_good ?_
    | refine State.setFld_good ?_
    | refine uploadDrop_good ?_)

theorem imageRead_good {a1} {a2} {a3} {s : State} (h : Good p s) : Good p (imageRead a1 a2 a3 s) := by
  unfold imageRead
  repeat' (with_reducible first
    | assumption
    | refine good_ite ?_ ?_
    | refine ycpAnswer_good ?_
    | refine flashShow_good ?_
    | refine State.setYcp_good ?_
    | refine imageOver_good ?_
    | refine good_foldl ?_ ?_
    | refine good_foldl_fst ?_ ?_
    | refine good_foldl_snd ?_ ?_
    | intro _
    | simp only []
    | split
    | simp only [good_mk_iff])

theorem ycpReads_good {a0 a1 a2 a3 l d} {s : State} (h : Good p s) : Good p (ycpReads a0 a1 a2 a3 l d s) := by
  induction l generalizing s d with
  | nil => exact good_ite (imageRead_good h) (ycpAnswer_good h)
  | cons x t ih =>
    unfold ycpReads
    split
    · exact ih (regPieceRead_good h)
    · split
      · exact State.setTrio_good h
      · split
        · exact ycpAnswer_good (State.busErr_good h)
        · exact ih h

theorem heldPieces_good {m tid l} {s : State} (h : Good p s) : Good p (heldPieces m tid l s).2 := by
  induction l generalizing s with
  | nil => exact h
  | cons x t ih =>
    unfold heldPieces
    split
    · exact State.setTrio_good h
    · exact ih (State.poke_good h)

theorem heldPieces_good_eq {m tid l b} {s t : State} (e : heldPieces m tid l s = (b, t)) (h : Good p s) : Good p t := by
  have := heldPieces_good (m := m) (tid := tid) (l := l) h
  rw [e] at this
  exact this

theorem performHeld_good {a1} {s : State} {a2} (h : Good p s) : Good p (performHeld a1 s a2) := by
  unfold performHeld
  repeat' (with_reducible first
    | assumption
    | refine good_ite ?_ ?_
    | refine heldPieces_good ?_
    | refine heldPieces_good_eq (by assumption) ?_
    | refine heldDone_good ?_
    | refine performLoad_good ?_
    | refine performLoad_good_eq (by assumption) ?_
    | refine State.setThread_good ?_
    | refine rawResume_good ?_
    | refine ycpReads_good ?_
    | refine good_foldl ?_ ?_
    | refine good_foldl_fst ?_ ?_
    | refine good_foldl_snd ?_ ?_
    | intro _
    | simp only []
    | split
    | simp only [good_mk_iff])

theorem performHelds_good {a1} {a2} {s : State} (h : Good p s) : Good p (performHelds a1 a2 s) := by
  unfold performHelds
  repeat' (with_reducible first
    | assumption
    | refine good_ite ?_ ?_
    | refine performHeld_good ?_
    | refine State.setTrio_good ?_
    | refine good_foldl ?_ ?_
    | refine good_foldl_fst ?_ ?_
    | refine good_foldl_snd ?_ ?_
    | intro _
    | simp only []
    | split
    | simp only [good_mk_iff])

theorem drainThread_good {s : State} {a1} {a2} (h : Good p s) : Good p (drainThread s a1 a2) := by
  unfold drainThread
  repeat' (with_reducible first
    | assumption
    | refine good_ite ?_ ?_
    | refine State.pushCommit_good ?_
    | refine pairOut_good ?_
    | refine State.setThread_good ?_
    | refine good_foldl ?_ ?_
    | refine good_foldl_fst ?_ ?_
    | refine good_foldl_snd ?_ ?_
    | intro _
    | simp only []
    | split
    | simp only [good_mk_iff])

theorem checkpoint_good {a1} {a2} {s : State} (h : Good p s) : Good p (checkpoint a1 a2 s) := by
  unfold checkpoint
  repeat' (with_reducible first
    | assumption
    | refine good_ite ?_ ?_
    | refine drainThread_good ?_
    | refine State.setTrio_good ?_
    | refine State.incWrap_good ?_
    | refine performHelds_good ?_
    | refine releaseCommit_good ?_
    | refine good_foldl ?_ ?_
    | refine good_foldl_fst ?_ ?_
    | refine good_foldl_snd ?_ ?_
    | intro _
    | simp only []
    | split
    | simp only [good_mk_iff])

theorem limitCheckpoint_good {a0} {s : State} (h : Good p s) : Good p (limitCheckpoint a0 s) := by
  unfold limitCheckpoint
  repeat' (with_reducible first
    | assumption
    | refine good_ite ?_ ?_
    | refine checkpoint_good ?_)

theorem State.pushBuf_good {s : State} {a1} {a2} (h : Good p s) : Good p (State.pushBuf s a1 a2) := by
  unfold State.pushBuf
  repeat' (with_reducible first
    | assumption
    | refine good_ite ?_ ?_
    | refine State.setThread_good ?_
    | refine good_foldl ?_ ?_
    | refine good_foldl_fst ?_ ?_
    | refine good_foldl_snd ?_ ?_
    | intro _
    | simp only []
    | split
    | simp only [good_mk_iff])

theorem framePut_good {a1} {a2} {a3} {a4} {a5} {a6} {s : State} (h : Good p s) : Good p (framePut a1 a2 a3 a4 a5 a6 s) := by
  unfold framePut
  repeat' (with_reducible first
    | assumption
    | refine good_ite ?_ ?_
    | refine limitCheckpoint_good ?_
    | refine State.pokeLocal_good ?_
    | refine State.pushBuf_good ?_
    | refine good_foldl ?_ ?_
    | refine good_foldl_fst ?_ ?_
    | refine good_foldl_snd ?_ ?_
    | intro _
    | simp only []
    | split
    | simp only [good_mk_iff])

theorem State.tableRead_good {s : State} {a1} {a2} {a3} (h : Good p s) : Good p (State.tableRead s a1 a2 a3).2 := by
  unfold State.tableRead
  repeat' (with_reducible first
    | assumption
    | refine good_ite ?_ ?_
    | refine State.busErr_good ?_
    | refine good_foldl ?_ ?_
    | refine good_foldl_fst ?_ ?_
    | refine good_foldl_snd ?_ ?_
    | intro _
    | simp only []
    | split
    | simp only [good_mk_iff])

theorem State.xlNow_good {t : ThreadId} {q : XReq} {k : Nat} {l} {s : State} (h : Good p s) : Good p (xlState (s.xlNow t q k l)) := by
  induction k generalizing s l with
  | zero => exact h
  | succ k ih =>
    unfold State.xlNow
    split
    · have k2 := State.xl_good_err (by assumption) h
      split
      · exact k2
      · exact ih (State.tableRead_good k2)
    · exact State.xl_good h

theorem State.xlNow_good_ok {s : State} {a1} {a2} {a3} {a4} {t : State} {b} (e : (State.xlNow s a1 a2 a3 a4) = .ok (b, t)) (h : Good p s) : Good p t := by
  have := (State.xlNow_good h : Good p (xlState (State.xlNow s a1 a2 a3 a4)))
  rw [e] at this
  exact this

theorem framePieces_good_ok {a0 a1 a2 l b} {s t : State} (e : framePieces a0 a1 a2 l s = .ok (b, t)) (h : Good p s) : Good p t := by
  induction l generalizing s b with
  | nil =>
    cases e
    exact h
  | cons x t ih =>
    unfold framePieces at e
    split at e
    · cases e
    · cases e
    · have k := State.xlNow_good_ok (by assumption) h
      split at e
      · cases e
      · split at e
        · cases e
        · cases e
          exact ih (by assumption) k

theorem State.xlNow_good_err {s : State} {a1} {a2} {a3} {a4} {t : State} {b} (e : (State.xlNow s a1 a2 a3 a4) = .error (b, t)) (h : Good p s) : Good p t := by
  have := (State.xlNow_good h : Good p (xlState (State.xlNow s a1 a2 a3 a4)))
  rw [e] at this
  exact this

theorem framePieces_good_err {a0 a1 a2 l b} {s t : State} (e : framePieces a0 a1 a2 l s = .error (b, t)) (h : Good p s) : Good p t := by
  induction l generalizing s b with
  | nil => cases e
  | cons x t ih =>
    unfold framePieces at e
    split at e
    · cases e
      exact State.xlNow_good_err (by assumption) h
    · cases e
      exact State.xlNow_good_err (by assumption) h
    · have k := State.xlNow_good_ok (by assumption) h
      split at e
      · cases e
        exact k
      · split at e
        · cases e
          exact ih (by assumption) k
        · cases e

theorem escalate_good {a1 a2 a3 a4 a5 a6} {s : State} (h : Good p s) : Good p (escalate s a1 a2 a3 a4 a5 a6) := by
  unfold escalate
  simp only []
  refine good_ite (doubleEscalation_good h) ?_
  split
  · exact framePieces_good_err (by assumption) h
  · exact doubleEscalation_good (framePieces_good_err (by assumption) h)
  · have k := framePieces_good_ok (by assumption) h
    exact good_ite (State.incSat_good (State.setThread_good (framePut_good k))) (framePut_good k)

theorem enterRing_good {a1 a2 a3 a4} {s : State} (h : Good p s) : Good p (enterRing s a1 a2 a3 a4) := by
  unfold enterRing
  simp only []
  split
  · exact framePieces_good_err (by assumption) h
  · exact escalate_good (framePieces_good_err (by assumption) h)
  · have k := framePieces_good_ok (by assumption) h
    exact good_ite (escalate_good k) (good_ite (escalate_good k) (good_ite (State.setThread_good (framePut_good k)) (framePut_good k)))

theorem takeExc_good {s : State} {a1} {a2} {a3} {a4} (h : Good p s) : Good p (takeExc s a1 a2 a3 a4) := by
  unfold takeExc
  repeat' (with_reducible first
    | assumption
    | refine good_ite ?_ ?_
    | refine enterRing_good ?_)

theorem recUse_good {a0} {s : State} (h : Good p s) : Good p (recUse a0 s) := by
  unfold recUse
  repeat' (with_reducible first
    | assumption
    | refine good_ite ?_ ?_
    | refine State.poke_good ?_
    | intro _
    | simp only []
    | split)

theorem identityLost_good {a1} {s : State} (h : Good p s) : Good p (identityLost a1 s) := by
  unfold identityLost
  repeat' (with_reducible first
    | assumption
    | refine good_ite ?_ ?_
    | refine trioEvt_good ?_
    | refine State.setFld_good ?_
    | refine State.setTrio_good ?_
    | refine good_foldl ?_ ?_
    | refine good_foldl_fst ?_ ?_
    | refine good_foldl_snd ?_ ?_
    | intro _
    | simp only []
    | split
    | simp only [good_mk_iff])

theorem bootTrioFails_good {a1} {a2} {s : State} (h : Good p s) : Good p (bootTrioFails a1 a2 s) := by
  unfold bootTrioFails
  repeat' (with_reducible first
    | assumption
    | refine good_ite ?_ ?_
    | refine State.setFld_good ?_
    | refine identityLost_good ?_
    | refine trioEvt_good ?_
    | refine good_foldl ?_ ?_
    | refine good_foldl_fst ?_ ?_
    | refine good_foldl_snd ?_ ?_
    | intro _
    | simp only []
    | split
    | simp only [good_mk_iff])

theorem bootAauFails_good {a1} {a2} {s : State} (h : Good p s) : Good p (bootAauFails a1 a2 s) := by
  unfold bootAauFails
  repeat' (with_reducible first
    | assumption
    | refine good_ite ?_ ?_
    | refine bootTrioFails_good ?_
    | refine State.raiseUnit_good ?_
    | refine State.setFld_good ?_
    | refine laneFails_good ?_
    | refine good_foldl ?_ ?_
    | refine good_foldl_fst ?_ ?_
    | refine good_foldl_snd ?_ ?_
    | intro _
    | simp only []
    | split
    | simp only [good_mk_iff])

theorem clearSram_good {s : State} (h : Good p s) : Good p (clearSram s) := ⟨h.pending, clearSram_wf h.mem, h.regs⟩

theorem ringsMode_good {s : State} (h : Good p s) : Good p (ringsMode s) := by
  unfold ringsMode
  repeat' (with_reducible first
    | assumption
    | refine good_ite ?_ ?_
    | refine lineRefresh_good ?_
    | refine good_foldl ?_ ?_
    | refine good_foldl_fst ?_ ?_
    | refine good_foldl_snd ?_ ?_
    | intro _)

theorem collMode_good {a0} {s : State} (h : Good p s) : Good p (collMode a0 s) := by
  unfold collMode
  repeat' (with_reducible first
    | assumption
    | refine good_ite ?_ ?_
    | refine pairStop_good ?_
    | refine pairRun_good ?_
    | refine faultBalls_good ?_
    | refine good_foldl ?_ ?_
    | refine good_foldl_fst ?_ ?_
    | refine good_foldl_snd ?_ ?_
    | intro _)

theorem setCe_good {s : State} (h : Good p s) : Good p (setCe s) := by
  unfold setCe
  repeat' (with_reducible first
    | assumption
    | refine good_ite ?_ ?_
    | refine State.setThread_good ?_
    | refine good_foldl ?_ ?_
    | refine good_foldl_fst ?_ ?_
    | refine good_foldl_snd ?_ ?_
    | intro _
    | simp only []
    | split
    | simp only [good_mk_iff])

theorem romUp_good {s : State} (h : Good p s) : Good p (romUp s) := by
  unfold romUp
  repeat' (with_reducible first
    | assumption
    | refine good_ite ?_ ?_
    | refine setStat_good ?_
    | refine State.setFld_good ?_
    | refine good_foldl ?_ ?_
    | refine good_foldl_fst ?_ ?_
    | refine good_foldl_snd ?_ ?_
    | intro _
    | simp only []
    | split
    | simp only [good_mk_iff])

theorem abortAll_good {s : State} (h : Good p s) : Good p (abortAll s) := by
  unfold abortAll
  repeat' (with_reducible first
    | assumption
    | refine good_ite ?_ ?_
    | refine sliceAbort_good ?_
    | refine good_foldl ?_ ?_
    | refine good_foldl_fst ?_ ?_
    | refine good_foldl_snd ?_ ?_
    | intro _
    | simp only []
    | split
    | simp only [good_mk_iff])

theorem slicesEnd_good {s : State} (h : Good p s) : Good p (slicesEnd s) := by
  unfold slicesEnd
  repeat' (with_reducible first
    | assumption
    | refine good_ite ?_ ?_
    | refine abortAll_good ?_
    | refine lanesRefresh_good ?_
    | refine State.setFld_good ?_
    | refine good_foldl ?_ ?_
    | refine good_foldl_fst ?_ ?_
    | refine good_foldl_snd ?_ ?_
    | intro _
    | simp only []
    | split
    | simp only [good_mk_iff])

theorem enterMode_good {a1} {a2} {s : State} (h : Good p s) : Good p (enterMode a1 a2 s) := by
  unfold enterMode
  repeat' (with_reducible first
    | assumption
    | refine good_ite ?_ ?_
    | refine State.modColl_good ?_
    | refine ringsMode_good ?_
    | refine collMode_good ?_
    | refine State.wr_good ?_
    | refine slicesEnd_good ?_
    | refine setCe_good ?_
    | refine good_foldl ?_ ?_
    | refine good_foldl_fst ?_ ?_
    | refine good_foldl_snd ?_ ?_
    | intro _
    | simp only []
    | split
    | simp only [good_mk_iff])

theorem noImage_good {s : State} (h : Good p s) : Good p (noImage s) := by
  unfold noImage
  repeat' (with_reducible first
    | assumption
    | refine good_ite ?_ ?_
    | refine enterMode_good ?_
    | refine romUp_good ?_
    | refine State.setDev_good ?_)

theorem linkGone_good {a1} {s : State} (h : Good p s) : Good p (linkGone a1 s) := by
  unfold linkGone
  repeat' (with_reducible first
    | assumption
    | refine good_ite ?_ ?_
    | refine State.wr_good ?_
    | refine State.irq_good ?_
    | refine good_foldl ?_ ?_
    | refine good_foldl_fst ?_ ?_
    | refine good_foldl_snd ?_ ?_
    | intro _
    | simp only []
    | split
    | simp only [good_mk_iff])

theorem ethOff_good {a1} {s : State} (h : Good p s) : Good p (ethOff a1 s) := by
  unfold ethOff
  repeat' (with_reducible first
    | assumption
    | refine good_ite ?_ ?_
    | refine linkGone_good ?_
    | refine setStat_good ?_
    | refine State.setFld_good ?_
    | refine State.setEthp_good ?_
    | refine good_foldl ?_ ?_
    | refine good_foldl_fst ?_ ?_
    | refine good_foldl_snd ?_ ?_
    | intro _
    | simp only []
    | split
    | simp only [good_mk_iff])

theorem romDown_good {s : State} (h : Good p s) : Good p (romDown s) := by
  unfold romDown
  repeat' (with_reducible first
    | assumption
    | refine good_ite ?_ ?_
    | refine setStat_good ?_
    | refine State.setFld_good ?_
    | refine ethOff_good ?_
    | refine good_foldl ?_ ?_
    | refine good_foldl_fst ?_ ?_
    | refine good_foldl_snd ?_ ?_
    | intro _
    | simp only []
    | split
    | simp only [good_mk_iff])

theorem imageStarts_good {a0} {a1} {a2} {s : State} (h : Good p s) : Good p (imageStarts a0 a1 a2 s) := by
  unfold imageStarts
  repeat' (with_reducible first
    | assumption
    | refine good_ite ?_ ?_
    | refine romDown_good ?_
    | refine State.setDev_good ?_
    | refine State.wr_good ?_
    | refine State.setFld_good ?_
    | refine State.free_good ?_
    | refine State.free_good_eq (by assumption) ?_
    | refine enterMode_good ?_
    | refine State.setThread_good ?_)

theorem trySources_good {l : List (Fin 3)} {s : State} (h : Good p s) : Good p (trySources l s) := by
  induction l generalizing s with
  | nil =>
    rw [trySources]
    exact noImage_good h
  | cons x t ih =>
    rw [trySources]
    refine good_ite (good_ite (ih h) (romUp_good (State.setDev_good h))) ?_
    simp only []
    generalize (if fieldAt _ 0 4 = imageMagic then _ else _) = payload
    generalize imageCode _ _ s = c
    exact good_ite (imageStarts_good (State.poke_good (State.setFld_good h))) (ih (State.setFld_good h))

theorem arrayFails_good {a1} {a2} {s : State} (h : Good p s) : Good p (arrayFails a1 a2 s) := by
  unfold arrayFails
  repeat' (with_reducible first
    | assumption
    | refine good_ite ?_ ?_
    | refine State.raise_good ?_
    | refine bootTrioFails_good ?_
    | refine good_foldl ?_ ?_
    | refine good_foldl_fst ?_ ?_
    | refine good_foldl_snd ?_ ?_
    | intro _
    | simp only []
    | split
    | simp only [good_mk_iff])

theorem bootUnitFails_good {a1} {a2} {s : State} (h : Good p s) : Good p (bootUnitFails a1 a2 s) := by
  unfold bootUnitFails
  repeat' (with_reducible first
    | assumption
    | refine good_ite ?_ ?_
    | refine State.setFld_good ?_
    | refine bootTrioFails_good ?_
    | refine laneFails_good ?_
    | refine bootAauFails_good ?_
    | refine State.raise_good ?_
    | refine good_foldl ?_ ?_
    | refine good_foldl_fst ?_ ?_
    | refine good_foldl_snd ?_ ?_
    | intro _
    | simp only []
    | split
    | simp only [good_mk_iff])

theorem bootUnits_good {a1} {a2} {a3} {s : State} (h : Good p s) : Good p (bootUnits a1 a2 a3 s) := by
  unfold bootUnits
  repeat' (with_reducible first
    | assumption
    | refine good_ite ?_ ?_
    | refine bootUnitFails_good ?_
    | refine arrayFails_good ?_
    | refine good_foldl ?_ ?_
    | refine good_foldl_fst ?_ ?_
    | refine good_foldl_snd ?_ ?_
    | intro _
    | simp only []
    | split
    | simp only [good_mk_iff])

theorem bootFull_good {a1} {a2} {s : State} (h : Good p s) : Good p (bootFull a1 a2 s) := by
  unfold bootFull
  repeat' (with_reducible first
    | assumption
    | refine good_ite ?_ ?_
    | refine State.raise_good ?_
    | refine State.wr_good ?_
    | refine State.setDev_good ?_
    | refine State.setFld_good ?_
    | refine bootUnits_good ?_
    | refine good_foldl ?_ ?_
    | refine good_foldl_fst ?_ ?_
    | refine good_foldl_snd ?_ ?_
    | intro _
    | simp only []
    | split
    | simp only [good_mk_iff])

theorem bootQuick_good {a1} {a2} {a3} {s : State} (h : Good p s) : Good p (bootQuick a1 a2 a3 s) := by
  unfold bootQuick
  repeat' (with_reducible first
    | assumption
    | refine good_ite ?_ ?_
    | refine recUse_good ?_
    | refine State.wr_good ?_
    | refine State.setFld_good ?_
    | refine State.setDev_good ?_
    | refine bootUnits_good ?_
    | refine good_foldl ?_ ?_
    | refine good_foldl_fst ?_ ?_
    | refine good_foldl_snd ?_ ?_
    | intro _
    | simp only []
    | split
    | simp only [good_mk_iff])

theorem bootTests_good {a1} {a2} {s : State} (h : Good p s) : Good p (bootTests a1 a2 s) := by
  unfold bootTests
  repeat' (with_reducible first
    | assumption
    | refine good_ite ?_ ?_
    | refine State.setDev_good ?_
    | refine bootQuick_good ?_
    | refine bootFull_good ?_
    | refine good_foldl ?_ ?_
    | refine good_foldl_fst ?_ ?_
    | refine good_foldl_snd ?_ ?_
    | intro _
    | simp only []
    | split
    | simp only [good_mk_iff])

theorem dramUp_good {s : State} (h : Good p s) : Good p (dramUp s) := by
  unfold dramUp
  repeat' (with_reducible first
    | assumption
    | refine good_ite ?_ ?_
    | refine State.wr_good ?_
    | refine State.setFld_good ?_
    | refine good_foldl ?_ ?_
    | refine good_foldl_fst ?_ ?_
    | refine good_foldl_snd ?_ ?_
    | intro _
    | simp only []
    | split
    | simp only [good_mk_iff])

theorem bootStops_good {s : State} (h : Good p s) : Good p (bootStops s) := by
  unfold bootStops
  repeat' (with_reducible first
    | assumption
    | refine good_ite ?_ ?_
    | refine faultBalls_good ?_
    | refine State.setDev_good ?_
    | refine State.modColl_good ?_
    | refine good_foldl ?_ ?_
    | refine good_foldl_fst ?_ ?_
    | refine good_foldl_snd ?_ ?_
    | intro _
    | simp only []
    | split
    | simp only [good_mk_iff])

theorem bootStart_good {a1} {s : State} (h : Good p s) : Good p (bootStart a1 s).2 := by
  unfold bootStart
  repeat' (with_reducible first
    | assumption
    | refine good_ite ?_ ?_
    | refine State.setFld_good ?_
    | refine State.raise_good ?_
    | refine State.setDev_good ?_
    | refine bootStops_good ?_
    | refine faultBalls_good ?_
    | refine State.modColl_good ?_
    | refine bootTrioFails_good ?_
    | refine bootAauFails_good ?_
    | refine good_foldl ?_ ?_
    | refine good_foldl_fst ?_ ?_
    | refine good_foldl_snd ?_ ?_
    | intro _
    | simp only []
    | split
    | simp only [good_mk_iff])

theorem boots_good {e : BootEnv} {s : State} (h : Good p s) : Good p (boots e s) := by
  unfold boots
  have k := bootStart_good (a1 := e) h
  generalize bootStart e s = r at k ⊢
  obtain ⟨ok, s1⟩ := r
  refine good_ite ?_ k
  have k2 := bootTests_good (a1 := e) (a2 := !e.trioCmpFail.contains 12 && !e.aauCmpFail.contains 12) k
  revert k2
  simp only []
  generalize bootTests _ _ s1 = s2
  intro k2
  exact good_ite (bootStops_good k2) (trySources_good (dramUp_good (clearSram_good k2)))

theorem bootSequence_good {a0} {s : State} (h : Good p s) : Good p (bootSequence a0 s) := by
  unfold bootSequence
  repeat' (with_reducible first
    | assumption
    | refine good_ite ?_ ?_
    | refine boots_good ?_
    | refine State.setDev_good ?_)

theorem cancelAck_good {a0} {a1} {a2} {s : State} (h : Good p s) : Good p (cancelAck a0 a1 a2 s) := by
  unfold cancelAck
  repeat' (with_reducible first
    | assumption
    | refine good_ite ?_ ?_
    | refine State.raise_good ?_
    | refine State.incSat_good ?_
    | refine retireEnt_good ?_
    | intro _
    | simp only []
    | split)

theorem cancelAgain_good {a0} {a1} {s : State} (h : Good p s) : Good p (cancelAgain a0 a1 s) := by
  unfold cancelAgain
  repeat' (with_reducible first
    | assumption
    | refine good_ite ?_ ?_
    | refine State.setRing_good ?_
    | intro _
    | simp only []
    | split)

theorem cancelDone_good {s : State} (h : Good p s) : Good p (cancelDone s) := by
  unfold cancelDone
  repeat' (with_reducible first
    | assumption
    | refine good_ite ?_ ?_
    | refine State.irq_good ?_
    | refine State.wr_good ?_
    | intro _
    | simp only []
    | split
    | simp only [good_mk_iff])

theorem cancelGivesUp_good {a0} {a1} {s : State} (h : Good p s) : Good p (cancelGivesUp a0 a1 s) := by
  unfold cancelGivesUp
  repeat' (with_reducible first
    | assumption
    | refine good_ite ?_ ?_
    | refine State.setRing_good ?_
    | refine cancelAck_good ?_
    | refine ringIrq_good ?_
    | refine ringEvent_good ?_
    | refine State.incSat_good ?_
    | intro _
    | simp only []
    | split)

theorem ringRetime_good {a0} {a1} {a2} {s : State} (h : Good p s) : Good p (ringRetime a0 a1 a2 s) := by
  unfold ringRetime
  repeat' (with_reducible first
    | assumption
    | refine good_ite ?_ ?_
    | refine State.setRing_good ?_)

theorem recheck_good {a0} {a1} {s : State} (h : Good p s) : Good p (recheck a0 a1 s) := by
  unfold recheck
  repeat' (with_reducible first
    | assumption
    | refine good_ite ?_ ?_
    | refine State.setQueue_good ?_)

theorem countLate_good {a0} {s : State} (h : Good p s) : Good p (countLate a0 s) := by
  unfold countLate
  repeat' (with_reducible first
    | assumption
    | refine good_ite ?_ ?_
    | refine State.setQueue_good ?_
    | refine State.raise_good ?_
    | refine State.irq_good ?_
    | refine State.incSat_good ?_)

theorem takeTag_good {a0} {a1} {a2} {s : State} (h : Good p s) : Good p (takeTag a0 a1 a2 s).2 := by
  unfold takeTag
  repeat' (with_reducible first
    | assumption
    | refine good_ite ?_ ?_
    | refine State.setGroups_good ?_
    | refine State.incSat_good ?_
    | intro _
    | simp only []
    | split)

theorem takeTag_good_eq {a0} {a1} {a2} {s : State} {t : State} {b} (e : (takeTag a0 a1 a2 s) = (b, t)) (h : Good p s) : Good p t := by
  have := takeTag_good (a0 := a0) (a1 := a1) (a2 := a2) (s := s) h
  rw [e] at this
  exact this

theorem ringCommand_good {a1} {a2} {s : State} (h : Good p s) : Good p (ringCommand a1 a2 s).2 := by
  unfold ringCommand
  repeat' (with_reducible first
    | assumption
    | refine good_ite ?_ ?_
    | refine undelivered_good ?_
    | refine State.setRing_good ?_
    | refine good_foldl ?_ ?_
    | refine good_foldl_fst ?_ ?_
    | refine good_foldl_snd ?_ ?_
    | intro _
    | simp only []
    | split
    | simp only [good_mk_iff])

theorem ringCommand_good_eq {a1} {a2} {s : State} {t : State} {b} (e : (ringCommand a1 a2 s) = (b, t)) (h : Good p s) : Good p t := by
  have := ringCommand_good (a1 := a1) (a2 := a2) (s := s) h
  rw [e] at this
  exact this

theorem dispatchAs_good {a0} {a1} {a2} {a3} {a4} {a5} {a6} {a7} {s : State} (h : Good p s) : Good p (dispatchAs a0 a1 a2 a3 a4 a5 a6 a7 s) := by
  unfold dispatchAs
  repeat' (with_reducible first
    | assumption
    | refine good_ite ?_ ?_
    | refine takeTag_good ?_
    | refine takeTag_good_eq (by assumption) ?_
    | refine ringCommand_good ?_
    | refine ringCommand_good_eq (by assumption) ?_
    | refine setFly_good ?_
    | refine groupSync_good ?_
    | refine State.incWrap_good ?_
    | refine State.setQueue_good ?_
    | intro _
    | simp only []
    | split)

theorem dispatch_good {a0} {a1} {a2} {a3} {a4} {a5} {s : State} (h : Good p s) : Good p (dispatch a0 a1 a2 a3 a4 a5 s) := by
  unfold dispatch
  repeat' (with_reducible first
    | assumption
    | refine good_ite ?_ ?_
    | refine dispatchAs_good ?_
    | refine drainCheck_good ?_
    | refine discardHead_good ?_
    | refine State.raise_good ?_
    | intro _
    | simp only []
    | split)

theorem lateEntry_good {a0} {a1} {a2} {s : State} (h : Good p s) : Good p (lateEntry a0 a1 a2 s) := by
  unfold lateEntry
  repeat' (with_reducible first
    | assumption
    | refine good_ite ?_ ?_
    | refine countLate_good ?_
    | refine drainCheck_good ?_
    | refine discardHead_good ?_
    | refine dispatch_good ?_
    | refine recheck_good ?_
    | refine qGo_good ?_
    | refine State.setQueue_good ?_
    | intro _
    | simp only []
    | split)

theorem earlyCheckpoint_good {a0} {s : State} (h : Good p s) : Good p (earlyCheckpoint a0 s) := by
  unfold earlyCheckpoint
  repeat' (with_reducible first
    | assumption
    | refine good_ite ?_ ?_
    | refine checkpoint_good ?_)

theorem queueStat_good {a0} {s : State} (h : Good p s) : Good p (queueStat a0 s).2 := by
  unfold queueStat
  repeat' (with_reducible first
    | assumption
    | refine good_ite ?_ ?_
    | refine State.free_good ?_
    | refine State.free_good_eq (by assumption) ?_
    | intro _
    | simp only []
    | split)

theorem queueStat_good_eq {a0} {s : State} {t : State} {b} (e : (queueStat a0 s) = (b, t)) (h : Good p s) : Good p t := by
  have := queueStat_good (a0 := a0) (s := s) h
  rw [e] at this
  exact this

theorem queueSpace_good {a0} {s : State} (h : Good p s) : Good p (queueSpace a0 s).2 := by
  unfold queueSpace
  repeat' (with_reducible first
    | assumption
    | refine good_ite ?_ ?_
    | refine State.free_good ?_
    | refine State.free_good_eq (by assumption) ?_
    | intro _
    | simp only []
    | split)

theorem queueSpace_good_eq {a0} {s : State} {t : State} {b} (e : (queueSpace a0 s) = (b, t)) (h : Good p s) : Good p t := by
  have := queueSpace_good (a0 := a0) (s := s) h
  rw [e] at this
  exact this

theorem opCp2Result_good {a0} {s : State} (h : Good p s) : Good p (opCp2Result a0 s).state := by
  unfold opCp2Result
  repeat' (with_reducible first
    | assumption
    | refine good_ite ?_ ?_
    | refine good_done ?_
    | refine good_exc ?_
    | refine good_wait ?_
    | refine good_enter ?_
    | refine good_ydone ?_
    | refine good_ywait ?_
    | refine queueAppend_good ?_
    | refine queueAppend_good_eq (by assumption) ?_
    | refine Cx.put_good ?_
    | refine queueStat_good ?_
    | refine queueStat_good_eq (by assumption) ?_
    | refine queueSpace_good ?_
    | refine queueSpace_good_eq (by assumption) ?_
    | intro _
    | simp only []
    | split)

theorem copiesDiffer_good {a0} {s : State} (h : Good p s) : Good p (copiesDiffer a0 s) := by
  unfold copiesDiffer
  repeat' (with_reducible first
    | assumption
    | refine good_ite ?_ ?_
    | refine State.setFld_good ?_
    | refine State.shaftFault_good ?_
    | refine State.incSat_good ?_
    | refine State.setShaft_good ?_)

theorem opAlu_good {a0} {s : State} (h : Good p s) : Good p (opAlu a0 s).state := by
  unfold opAlu
  repeat' (with_reducible first
    | assumption
    | refine good_ite ?_ ?_
    | refine good_done ?_)

theorem opImm_good {a0} {a1} {s : State} (h : Good p s) : Good p (opImm a0 a1 s).state := by
  unfold opImm
  repeat' (with_reducible first
    | assumption
    | refine good_ite ?_ ?_
    | refine good_done ?_
    | refine good_exc ?_
    | refine good_wait ?_
    | refine good_enter ?_
    | refine good_ydone ?_
    | refine good_ywait ?_
    | refine Cx.put_good ?_)

theorem opShi_good {a0} {s : State} (h : Good p s) : Good p (opShi a0 s).state := by
  unfold opShi
  repeat' (with_reducible first
    | assumption
    | refine good_ite ?_ ?_
    | refine good_done ?_)

theorem opCmpi_good {a0} {s : State} (h : Good p s) : Good p (opCmpi a0 s).state := by
  unfold opCmpi
  repeat' (with_reducible first
    | assumption
    | refine good_ite ?_ ?_
    | refine good_done ?_)

theorem opMovw_good {a0} {s : State} (h : Good p s) : Good p (opMovw a0 s).state := by
  unfold opMovw
  repeat' (with_reducible first
    | assumption
    | refine good_ite ?_ ?_
    | refine good_done ?_
    | refine good_exc ?_
    | refine good_wait ?_
    | refine good_enter ?_
    | refine good_ydone ?_
    | refine good_ywait ?_
    | refine Cx.put_good ?_)

theorem opMul_good {a0} {a1} {s : State} (h : Good p s) : Good p (opMul a0 a1 s).state := by
  unfold opMul
  repeat' (with_reducible first
    | assumption
    | refine good_ite ?_ ?_
    | refine good_done ?_)

theorem opDiv_good {a0} {a1} {a2} {s : State} (h : Good p s) : Good p (opDiv a0 a1 a2 s).state := by
  unfold opDiv
  repeat' (with_reducible first
    | assumption
    | refine good_ite ?_ ?_
    | refine good_done ?_
    | refine good_exc ?_
    | refine good_wait ?_
    | refine good_enter ?_
    | refine good_ydone ?_
    | refine good_ywait ?_
    | refine Cx.put_good ?_
    | intro _
    | simp only []
    | split)

theorem opMfs_good {a0} {s : State} (h : Good p s) : Good p (opMfs a0 s).state := by
  unfold opMfs
  repeat' (with_reducible first
    | assumption
    | refine good_ite ?_ ?_
    | refine good_done ?_
    | refine good_exc ?_
    | refine good_wait ?_
    | refine good_enter ?_
    | refine good_ydone ?_
    | refine good_ywait ?_
    | refine Cx.put_good ?_)

theorem fabricWait_good {a0} {a1} {s : State} {a3} (h : Good p s) : Good p (fabricWait a0 a1 s a3).state := by
  unfold fabricWait
  repeat' (with_reducible first
    | assumption
    | refine good_ite ?_ ?_
    | refine good_done ?_
    | refine good_exc ?_
    | refine good_wait ?_
    | refine good_enter ?_
    | refine good_ydone ?_
    | refine good_ywait ?_
    | refine State.setTrio_good ?_
    | intro _
    | simp only []
    | split)

theorem MAcc.dataExc_good {a1} {a2} {s : State} {a3} {a4} (h : Good p s) : Good p (MAcc.dataExc a1 a2 s a3 a4).state := by
  unfold MAcc.dataExc
  repeat' (with_reducible first
    | assumption
    | refine good_ite ?_ ?_
    | refine good_done ?_
    | refine good_wrote ?_
    | refine good_goto ?_
    | refine good_keep ?_
    | refine good_exc ?_
    | refine good_wait ?_
    | refine good_enter ?_
    | refine State.busErr_good ?_
    | refine good_foldl ?_ ?_
    | refine good_foldl_fst ?_ ?_
    | refine good_foldl_snd ?_ ?_
    | intro _
    | simp only []
    | split
    | simp only [good_mk_iff])

theorem MAcc.readNow_good {a1} {a2} {s : State} {a3} (h : Good p s) : Good p (partState (MAcc.readNow a1 a2 s a3)) := by
  unfold MAcc.readNow
  repeat' (with_reducible first
    | assumption
    | refine good_ite ?_ ?_
    | refine good_done ?_
    | refine good_wrote ?_
    | refine good_goto ?_
    | refine good_keep ?_
    | refine good_exc ?_
    | refine good_wait ?_
    | refine good_enter ?_
    | refine good_part_ok ?_
    | refine good_part_err ?_
    | refine MAcc.dataExc_good ?_
    | refine good_foldl ?_ ?_
    | refine good_foldl_fst ?_ ?_
    | refine good_foldl_snd ?_ ?_
    | intro _
    | simp only []
    | split
    | simp only [good_mk_iff])

theorem MAcc.readNow_good_ok {a1} {a2} {s : State} {a3} {t : State} {b} (e : (MAcc.readNow a1 a2 s a3) = .ok (b, t)) (h : Good p s) : Good p t := by
  have := MAcc.readNow_good (a1 := a1) (a2 := a2) (s := s) (a3 := a3) h
  rw [e] at this
  exact this

theorem MAcc.readNow_good_err {a1} {a2} {s : State} {a3} {f : OpEnd} (e : (MAcc.readNow a1 a2 s a3) = .error f) (h : Good p s) : Good p f.state := by
  have := MAcc.readNow_good (a1 := a1) (a2 := a2) (s := s) (a3 := a3) h
  rw [e] at this
  exact this

theorem readLoad_good {a1} {a2} {s : State} {a3} (h : Good p s) : Good p (partState (readLoad a1 a2 s a3)) := by
  unfold readLoad
  repeat' (with_reducible first
    | assumption
    | refine good_ite ?_ ?_
    | refine good_done ?_
    | refine good_wrote ?_
    | refine good_goto ?_
    | refine good_keep ?_
    | refine good_exc ?_
    | refine good_wait ?_
    | refine good_enter ?_
    | refine good_part_ok ?_
    | refine good_part_err ?_
    | refine MAcc.readNow_good ?_
    | refine MAcc.readNow_good_ok (by assumption) ?_
    | refine MAcc.readNow_good_err (by assumption) ?_
    | refine fabricWait_good ?_
    | refine good_foldl ?_ ?_
    | refine good_foldl_fst ?_ ?_
    | refine good_foldl_snd ?_ ?_
    | intro _
    | simp only []
    | split
    | simp only [good_mk_iff])

theorem readLoad_good_ok {a1} {a2} {s : State} {a3} {t : State} {b} (e : (readLoad a1 a2 s a3) = .ok (b, t)) (h : Good p s) : Good p t := by
  have := readLoad_good (a1 := a1) (a2 := a2) (s := s) (a3 := a3) h
  rw [e] at this
  exact this

theorem readLoad_good_err {a1} {a2} {s : State} {a3} {f : OpEnd} (e : (readLoad a1 a2 s a3) = .error f) (h : Good p s) : Good p f.state := by
  have := readLoad_good (a1 := a1) (a2 := a2) (s := s) (a3 := a3) h
  rw [e] at this
  exact this

theorem loadAcc_good {a1} {a2} {s : State} (h : Good p s) : Good p (partState (loadAcc a1 a2 s)) := by
  unfold loadAcc
  repeat' (with_reducible first
    | assumption
    | refine good_ite ?_ ?_
    | refine good_done ?_
    | refine good_wrote ?_
    | refine good_goto ?_
    | refine good_keep ?_
    | refine good_exc ?_
    | refine good_wait ?_
    | refine good_enter ?_
    | refine good_part_ok ?_
    | refine good_part_err ?_
    | refine MAcc.check_good ?_
    | refine MAcc.check_good_ok (by assumption) ?_
    | refine MAcc.check_good_err (by assumption) ?_
    | refine checkpoint_good ?_
    | refine fabricWait_good ?_
    | refine readLoad_good ?_
    | refine readLoad_good_ok (by assumption) ?_
    | refine readLoad_good_err (by assumption) ?_
    | refine good_foldl ?_ ?_
    | refine good_foldl_fst ?_ ?_
    | refine good_foldl_snd ?_ ?_
    | intro _
    | simp only []
    | split
    | simp only [good_mk_iff])

theorem loadAcc_good_ok {a1} {a2} {s : State} {t : State} {b} (e : (loadAcc a1 a2 s) = .ok (b, t)) (h : Good p s) : Good p t := by
  have := loadAcc_good (a1 := a1) (a2 := a2) (s := s) h
  rw [e] at this
  exact this

theorem loadAcc_good_err {a1} {a2} {s : State} {f : OpEnd} (e : (loadAcc a1 a2 s) = .error f) (h : Good p s) : Good p f.state := by
  have := loadAcc_good (a1 := a1) (a2 := a2) (s := s) h
  rw [e] at this
  exact this

theorem opSegLoad_good {a0} {s : State} (h : Good p s) : Good p (opSegLoad a0 s).state := by
  unfold opSegLoad
  repeat' (with_reducible first
    | assumption
    | refine good_ite ?_ ?_
    | refine good_done ?_
    | refine good_exc ?_
    | refine good_wait ?_
    | refine good_enter ?_
    | refine good_ydone ?_
    | refine good_ywait ?_
    | refine loadAcc_good ?_
    | refine loadAcc_good_ok (by assumption) ?_
    | refine loadAcc_good_err (by assumption) ?_
    | intro _
    | simp only []
    | split)

theorem opCmp_good {a0} {a1} {s : State} (h : Good p s) : Good p (opCmp a0 a1 s).state := by
  unfold opCmp
  repeat' (with_reducible first
    | assumption
    | refine good_ite ?_ ?_
    | refine good_done ?_)

theorem opPlogic_good {a0} {s : State} (h : Good p s) : Good p (opPlogic a0 s).state := by
  unfold opPlogic
  repeat' (with_reducible first
    | assumption
    | refine good_ite ?_ ?_
    | refine good_done ?_)

theorem opBr_good {a0} {s : State} (h : Good p s) : Good p (opBr a0 s).state := by
  unfold opBr
  repeat' (with_reducible first
    | assumption
    | refine good_ite ?_ ?_
    | refine good_done ?_)

theorem targetExc_good {a0} {a1} {s : State} (h : Good p s) : Good p (targetExc a0 a1 s).state := by
  unfold targetExc
  repeat' (with_reducible first
    | assumption
    | refine good_ite ?_ ?_
    | refine good_done ?_
    | refine good_exc ?_)

theorem opJmp_good {a0} {s : State} (h : Good p s) : Good p (opJmp a0 s).state := by
  unfold opJmp
  repeat' (with_reducible first
    | assumption
    | refine good_ite ?_ ?_
    | refine good_done ?_
    | refine good_exc ?_
    | refine good_wait ?_
    | refine good_enter ?_
    | refine good_ydone ?_
    | refine good_ywait ?_
    | refine targetExc_good ?_
    | intro _
    | simp only []
    | split)

theorem opRet_good {a0} {s : State} (h : Good p s) : Good p (opRet a0 s).state := by
  unfold opRet
  repeat' (with_reducible first
    | assumption
    | refine good_ite ?_ ?_
    | refine good_done ?_
    | refine good_exc ?_
    | refine good_wait ?_
    | refine good_enter ?_
    | refine good_ydone ?_
    | refine good_ywait ?_
    | refine loadAcc_good ?_
    | refine loadAcc_good_ok (by assumption) ?_
    | refine loadAcc_good_err (by assumption) ?_
    | refine targetExc_good ?_
    | intro _
    | simp only []
    | split)

theorem opLoop_good {a0} {a1} {s : State} (h : Good p s) : Good p (opLoop a0 a1 s).state := by
  unfold opLoop
  repeat' (with_reducible first
    | assumption
    | refine good_ite ?_ ?_
    | refine good_done ?_
    | refine good_exc ?_
    | refine good_wait ?_
    | refine good_enter ?_
    | refine good_ydone ?_
    | refine good_ywait ?_
    | intro _
    | simp only []
    | split)

theorem opIci_good {a0} {s : State} (h : Good p s) : Good p (opIci a0 s).state := by
  unfold opIci
  repeat' (with_reducible first
    | assumption
    | refine good_ite ?_ ?_
    | refine good_done ?_
    | refine good_exc ?_
    | refine good_wait ?_
    | refine good_enter ?_
    | refine good_ydone ?_
    | refine good_ywait ?_
    | refine State.setTrio_good ?_)

theorem opWait_good {a0} {s : State} (h : Good p s) : Good p (opWait a0 s).state := by
  unfold opWait
  repeat' (with_reducible first
    | assumption
    | refine good_ite ?_ ?_
    | refine good_done ?_)

theorem opTstart_good {a0} {s : State} (h : Good p s) : Good p (opTstart a0 s).state := by
  unfold opTstart
  repeat' (with_reducible first
    | assumption
    | refine good_ite ?_ ?_
    | refine good_done ?_
    | refine good_exc ?_
    | refine good_wait ?_
    | refine good_enter ?_
    | refine good_ydone ?_
    | refine good_ywait ?_
    | refine State.setThread_good ?_
    | refine Cx.put_good ?_)

theorem opTstop_good {a0} {s : State} (h : Good p s) : Good p (opTstop a0 s).state := by
  unfold opTstop
  repeat' (with_reducible first
    | assumption
    | refine good_ite ?_ ?_
    | refine good_done ?_
    | refine good_exc ?_
    | refine good_wait ?_
    | refine good_enter ?_
    | refine good_ydone ?_
    | refine good_ywait ?_
    | refine Cx.put_good ?_
    | refine State.setThread_good ?_
    | intro _
    | simp only []
    | split)

theorem haltCore_good {s : State} {a1} {a2} (h : Good p s) : Good p (haltCore s a1 a2) := by
  unfold haltCore
  repeat' (with_reducible first
    | assumption
    | refine good_ite ?_ ?_
    | refine State.setThread_good ?_
    | refine State.setFld_good ?_
    | refine good_foldl ?_ ?_
    | refine good_foldl_fst ?_ ?_
    | refine good_foldl_snd ?_ ?_
    | intro _)

theorem opBrk_good {a0} {s : State} (h : Good p s) : Good p (opBrk a0 s).state := by
  unfold opBrk
  repeat' (with_reducible first
    | assumption
    | refine good_ite ?_ ?_
    | refine good_done ?_
    | refine good_exc ?_
    | refine good_wait ?_
    | refine good_enter ?_
    | refine good_ydone ?_
    | refine good_ywait ?_
    | refine haltCore_good ?_
    | refine Cx.wordExc_good ?_
    | intro _
    | simp only []
    | split)

theorem opGate_good {a0} {s : State} (h : Good p s) : Good p (opGate a0 s).state := by
  unfold opGate
  repeat' (with_reducible first
    | assumption
    | refine good_ite ?_ ?_
    | refine good_done ?_
    | refine good_exc ?_
    | refine good_wait ?_
    | refine good_enter ?_
    | refine good_ydone ?_
    | refine good_ywait ?_
    | intro _
    | simp only []
    | split)

theorem opCrc_good {a0} {s : State} (h : Good p s) : Good p (opCrc a0 s).state := by
  unfold opCrc
  repeat' (with_reducible first
    | assumption
    | refine good_ite ?_ ?_
    | refine good_done ?_
    | refine good_exc ?_
    | refine good_wait ?_
    | refine good_enter ?_
    | refine good_ydone ?_
    | refine good_ywait ?_
    | refine Cx.put_good ?_)

theorem goOn_good {s : State} {a1} {a2} (h : Good p s) : Good p (goOn s a1 a2) := by
  unfold goOn
  repeat' (with_reducible first
    | assumption
    | refine good_ite ?_ ?_
    | refine State.setThread_good ?_
    | refine good_foldl ?_ ?_
    | refine good_foldl_fst ?_ ?_
    | refine good_foldl_snd ?_ ?_
    | intro _
    | simp only []
    | split
    | simp only [good_mk_iff])

theorem complete_good {s : State} {a1} {a2} {a3} {a4} {a5} (h : Good p s) : Good p (complete s a1 a2 a3 a4 a5) := by
  unfold complete
  repeat' (with_reducible first
    | assumption
    | refine good_ite ?_ ?_
    | refine goOn_good ?_
    | refine good_foldl ?_ ?_
    | refine good_foldl_fst ?_ ?_
    | refine good_foldl_snd ?_ ?_
    | intro _
    | simp only []
    | split
    | simp only [good_mk_iff])

theorem completeWrite_good {s : State} {a1} {a2} {a3} {a4} {a5} (h : Good p s) : Good p (completeWrite s a1 a2 a3 a4 a5) := by
  unfold completeWrite
  repeat' (with_reducible first
    | assumption
    | refine good_ite ?_ ?_
    | refine goOn_good ?_
    | refine good_foldl ?_ ?_
    | refine good_foldl_fst ?_ ?_
    | refine good_foldl_snd ?_ ?_
    | intro _
    | simp only []
    | split
    | simp only [good_mk_iff])

theorem stall_good {a1} {s : State} {a2} (h : Good p s) : Good p (stall a1 s a2) := by
  unfold stall
  repeat' (with_reducible first
    | assumption
    | refine good_ite ?_ ?_
    | refine State.setTrio_good ?_
    | refine State.setThread_good ?_
    | refine good_foldl ?_ ?_
    | refine good_foldl_fst ?_ ?_
    | refine good_foldl_snd ?_ ?_
    | intro _
    | simp only []
    | split
    | simp only [good_mk_iff])

theorem storeAcc_good {a1} {a2} {a3} {s : State} (h : Good p s) : Good p (partState1 (storeAcc a1 a2 a3 s)) := by
  unfold storeAcc
  repeat' (with_reducible first
    | assumption
    | refine good_ite ?_ ?_
    | refine good_done ?_
    | refine good_wrote ?_
    | refine good_goto ?_
    | refine good_keep ?_
    | refine good_exc ?_
    | refine good_wait ?_
    | refine good_enter ?_
    | refine good_part1_ok ?_
    | refine good_part1_err ?_
    | refine MAcc.check_good ?_
    | refine MAcc.check_good_ok (by assumption) ?_
    | refine MAcc.check_good_err (by assumption) ?_
    | refine State.pushBuf_good ?_
    | refine good_foldl ?_ ?_
    | refine good_foldl_fst ?_ ?_
    | refine good_foldl_snd ?_ ?_
    | intro _
    | simp only []
    | split
    | simp only [good_mk_iff])

theorem storeAcc_good_ok {a1} {a2} {a3} {s : State} {t : State} (e : (storeAcc a1 a2 a3 s) = .ok t) (h : Good p s) : Good p t := by
  have := storeAcc_good (a1 := a1) (a2 := a2) (a3 := a3) (s := s) h
  rw [e] at this
  exact this

theorem storeAcc_good_err {a1} {a2} {a3} {s : State} {f : OpEnd} (e : (storeAcc a1 a2 a3 s) = .error f) (h : Good p s) : Good p f.state := by
  have := storeAcc_good (a1 := a1) (a2 := a2) (a3 := a3) (s := s) h
  rw [e] at this
  exact this

theorem opCall_good {a1} {a2} {s : State} (h : Good p s) : Good p (opCall a1 a2 s).state := by
  unfold opCall
  repeat' (with_reducible first
    | assumption
    | refine good_ite ?_ ?_
    | refine good_done ?_
    | refine good_wrote ?_
    | refine good_goto ?_
    | refine good_keep ?_
    | refine good_exc ?_
    | refine good_wait ?_
    | refine good_enter ?_
    | refine targetExc_good ?_
    | refine storeAcc_good ?_
    | refine storeAcc_good_ok (by assumption) ?_
    | refine storeAcc_good_err (by assumption) ?_
    | refine good_foldl ?_ ?_
    | refine good_foldl_fst ?_ ?_
    | refine good_foldl_snd ?_ ?_
    | intro _
    | simp only []
    | split
    | simp only [good_mk_iff])

theorem opAtom_good {a1} {s : State} (h : Good p s) : Good p (opAtom a1 s).state := by
  unfold opAtom
  repeat' (with_reducible first
    | assumption
    | refine good_ite ?_ ?_
    | refine good_done ?_
    | refine good_wrote ?_
    | refine good_goto ?_
    | refine good_keep ?_
    | refine good_exc ?_
    | refine good_wait ?_
    | refine good_enter ?_
    | refine Cx.put_good ?_
    | refine MAcc.check_good ?_
    | refine MAcc.check_good_ok (by assumption) ?_
    | refine MAcc.check_good_err (by assumption) ?_
    | refine limitCheckpoint_good ?_
    | refine MAcc.readNow_good ?_
    | refine MAcc.readNow_good_ok (by assumption) ?_
    | refine MAcc.readNow_good_err (by assumption) ?_
    | refine State.pokeLocal_good ?_
    | refine checkpoint_good ?_
    | refine fabricWait_good ?_
    | refine good_foldl ?_ ?_
    | refine good_foldl_fst ?_ ?_
    | refine good_foldl_snd ?_ ?_
    | intro _
    | simp only []
    | split
    | simp only [good_mk_iff])

theorem opCp2Issue_good {a1} {s : State} (h : Good p s) : Good p (opCp2Issue a1 s).state := by
  unfold opCp2Issue
  repeat' (with_reducible first
    | assumption
    | refine good_ite ?_ ?_
    | refine good_done ?_
    | refine good_wrote ?_
    | refine good_goto ?_
    | refine good_keep ?_
    | refine good_exc ?_
    | refine good_wait ?_
    | refine good_enter ?_
    | refine checkpoint_good ?_
    | refine good_foldl ?_ ?_
    | refine good_foldl_fst ?_ ?_
    | refine good_foldl_snd ?_ ?_
    | intro _
    | simp only []
    | split
    | simp only [good_mk_iff])

theorem opMts_good {a1} {s : State} (h : Good p s) : Good p (opMts a1 s).state := by
  unfold opMts
  repeat' (with_reducible first
    | assumption
    | refine good_ite ?_ ?_
    | refine good_done ?_
    | refine good_wrote ?_
    | refine good_goto ?_
    | refine good_keep ?_
    | refine good_exc ?_
    | refine good_wait ?_
    | refine good_enter ?_
    | refine Cx.wordExc_good ?_
    | refine opSegLoad_good ?_
    | refine good_foldl ?_ ?_
    | refine good_foldl_fst ?_ ?_
    | refine good_foldl_snd ?_ ?_
    | intro _
    | simp only []
    | split
    | simp only [good_mk_iff])

theorem opLoad_good {a1} {a2} {s : State} (h : Good p s) : Good p (opLoad a1 a2 s).state := by
  unfold opLoad
  repeat' (with_reducible first
    | assumption
    | refine good_ite ?_ ?_
    | refine good_done ?_
    | refine good_wrote ?_
    | refine good_goto ?_
    | refine good_keep ?_
    | refine good_exc ?_
    | refine good_wait ?_
    | refine good_enter ?_
    | refine loadAcc_good ?_
    | refine loadAcc_good_ok (by assumption) ?_
    | refine loadAcc_good_err (by assumption) ?_
    | refine Cx.put_good ?_
    | refine good_foldl ?_ ?_
    | refine good_foldl_fst ?_ ?_
    | refine good_foldl_snd ?_ ?_
    | intro _
    | simp only []
    | split
    | simp only [good_mk_iff])

theorem opReturn_good {a1} {a2} {s : State} (h : Good p s) : Good p (opReturn a1 a2 s).state := by
  unfold opReturn
  repeat' (with_reducible first
    | assumption
    | refine good_ite ?_ ?_
    | refine good_done ?_
    | refine good_wrote ?_
    | refine good_goto ?_
    | refine good_keep ?_
    | refine good_exc ?_
    | refine good_wait ?_
    | refine good_enter ?_
    | refine loadAcc_good ?_
    | refine loadAcc_good_ok (by assumption) ?_
    | refine loadAcc_good_err (by assumption) ?_
    | refine good_foldl ?_ ?_
    | refine good_foldl_fst ?_ ?_
    | refine good_foldl_snd ?_ ?_
    | intro _
    | simp only []
    | split
    | simp only [good_mk_iff])

theorem opStore_good {a1} {a2} {s : State} (h : Good p s) : Good p (opStore a1 a2 s).state := by
  unfold opStore
  repeat' (with_reducible first
    | assumption
    | refine good_ite ?_ ?_
    | refine good_done ?_
    | refine good_wrote ?_
    | refine good_goto ?_
    | refine good_keep ?_
    | refine good_exc ?_
    | refine good_wait ?_
    | refine good_enter ?_
    | refine storeAcc_good ?_
    | refine storeAcc_good_ok (by assumption) ?_
    | refine storeAcc_good_err (by assumption) ?_
    | refine good_foldl ?_ ?_
    | refine good_foldl_fst ?_ ?_
    | refine good_foldl_snd ?_ ?_
    | intro _
    | simp only []
    | split
    | simp only [good_mk_iff])

theorem opAppend_good {a1} {s : State} (h : Good p s) : Good p (opAppend a1 s).state := by
  unfold opAppend
  repeat' (with_reducible first
    | assumption
    | refine good_ite ?_ ?_
    | refine good_done ?_
    | refine good_wrote ?_
    | refine good_goto ?_
    | refine good_keep ?_
    | refine good_exc ?_
    | refine good_wait ?_
    | refine good_enter ?_
    | refine State.pushBuf_good ?_
    | refine good_foldl ?_ ?_
    | refine good_foldl_fst ?_ ?_
    | refine good_foldl_snd ?_ ?_
    | intro _
    | simp only []
    | split
    | simp only [good_mk_iff])

theorem opSyncTlb_good {a1} {s : State} (h : Good p s) : Good p (opSyncTlb a1 s).state := by
  unfold opSyncTlb
  repeat' (with_reducible first
    | assumption
    | refine good_ite ?_ ?_
    | refine good_done ?_
    | refine good_wrote ?_
    | refine good_goto ?_
    | refine good_keep ?_
    | refine good_exc ?_
    | refine good_wait ?_
    | refine good_enter ?_
    | refine earlyCheckpoint_good ?_
    | refine good_foldl ?_ ?_
    | refine good_foldl_fst ?_ ?_
    | refine good_foldl_snd ?_ ?_
    | intro _
    | simp only []
    | split
    | simp only [good_mk_iff])

theorem opTlbi_good {a1} {s : State} (h : Good p s) : Good p (opTlbi a1 s).state := by
  unfold opTlbi
  repeat' (with_reducible first
    | assumption
    | refine good_ite ?_ ?_
    | refine good_done ?_
    | refine good_wrote ?_
    | refine good_goto ?_
    | refine good_keep ?_
    | refine good_exc ?_
    | refine good_wait ?_
    | refine good_enter ?_
    | refine State.pushBuf_good ?_
    | refine good_foldl ?_ ?_
    | refine good_foldl_fst ?_ ?_
    | refine good_foldl_snd ?_ ?_
    | intro _
    | simp only []
    | split
    | simp only [good_mk_iff])

theorem MAcc.checkNow_good {a : MAcc} {k : Nat} {c : Cx} {s : State} (h : Good p s) : Good p (partState (a.checkNow k c s)) := by
  induction k generalizing s c with
  | zero => exact MAcc.check_good h
  | succ k ih =>
    unfold MAcc.checkNow
    split
    · rename_i e
      have k2 := MAcc.check_good_err e h
      split
      · exact k2
      · exact ih (State.tableRead_good k2)
    · exact MAcc.check_good h

theorem cryptoAt_good {c acc al} {f : State → Except OpEnd (List (Nat × Nat) × State)} {s : State} (h : Good p s)
    (hf : Good p (partState (f s))) : Good p (partState (cryptoAt c acc al f s)) := by
  unfold cryptoAt
  simp only []
  split
  · exact h
  · split
    · rename_i e
      rw [e] at hf
      exact hf
    · rename_i e
      rw [e] at hf
      split <;> exact hf

theorem cryptoOp_good {c acc al now} {s : State} (h : Good p s) :
    Good p (partState (cryptoAt c acc al (if now = true then MAcc.checkNow acc blkFuel c else MAcc.check acc c) s)) := by
  refine cryptoAt_good h ?_
  split
  · exact MAcc.checkNow_good h
  · exact MAcc.check_good h

theorem cryptoOp_good_ok {c acc al now b} {s t : State}
    (e : cryptoAt c acc al (if now = true then MAcc.checkNow acc blkFuel c else MAcc.check acc c) s = .ok (b, t)) (h : Good p s) :
    Good p t := by
  have := cryptoOp_good (c := c) (acc := acc) (al := al) (now := now) h
  rw [e] at this
  exact this

theorem cryptoOps_good_ok {c now b d} {s t : State} (e : cryptoOps c now s = .ok (b, d, t)) (h : Good p s) : Good p t := by
  unfold cryptoOps at e
  simp only [] at e
  split at e
  · cases e
  · have k := cryptoOp_good_ok (by assumption) h
    split at e
    · cases e
    · cases e
      exact cryptoOp_good_ok (by assumption) k

theorem cryptoOp_good_err {c acc al now f} {s : State}
    (e : cryptoAt c acc al (if now = true then MAcc.checkNow acc blkFuel c else MAcc.check acc c) s = .error f) (h : Good p s) :
    Good p f.state := by
  have := cryptoOp_good (c := c) (acc := acc) (al := al) (now := now) h
  rw [e] at this
  exact this

theorem cryptoOps_good_err {c now f} {s : State} (e : cryptoOps c now s = .error f) (h : Good p s) : Good p f.state := by
  unfold cryptoOps at e
  simp only [] at e
  split at e
  · cases e
    exact cryptoOp_good_err (by assumption) h
  · have k := cryptoOp_good_ok (by assumption) h
    split at e
    · cases e
      exact cryptoOp_good_err (by assumption) k
    · cases e

theorem opCryptoIssue_good {a1} {s : State} (h : Good p s) : Good p (opCryptoIssue a1 s).state := by
  unfold opCryptoIssue
  repeat' (with_reducible first
    | assumption
    | refine good_ite ?_ ?_
    | refine good_done ?_
    | refine good_wrote ?_
    | refine good_goto ?_
    | refine good_keep ?_
    | refine good_exc ?_
    | refine good_wait ?_
    | refine good_enter ?_
    | refine cryptoOps_good ?_
    | refine cryptoOps_good_ok (by assumption) ?_
    | refine cryptoOps_good_err (by assumption) ?_
    | refine good_foldl ?_ ?_
    | refine good_foldl_fst ?_ ?_
    | refine good_foldl_snd ?_ ?_
    | intro _
    | simp only []
    | split
    | simp only [good_mk_iff])

theorem opSync_good {a1} {s : State} (h : Good p s) : Good p (opSync a1 s).state := by
  unfold opSync
  repeat' (with_reducible first
    | assumption
    | refine good_ite ?_ ?_
    | refine good_done ?_
    | refine good_wrote ?_
    | refine good_goto ?_
    | refine good_keep ?_
    | refine good_exc ?_
    | refine good_wait ?_
    | refine good_enter ?_
    | refine earlyCheckpoint_good ?_
    | refine good_foldl ?_ ?_
    | refine good_foldl_fst ?_ ?_
    | refine good_foldl_snd ?_ ?_
    | intro _
    | simp only []
    | split
    | simp only [good_mk_iff])

theorem opExec_good {a1} {s : State} (h : Good p s) : Good p (opExec a1 s).state := by
  unfold opExec
  repeat' (with_reducible first
    | assumption
    | refine good_ite ?_ ?_
    | refine good_done ?_
    | refine good_wrote ?_
    | refine good_goto ?_
    | refine good_keep ?_
    | refine good_exc ?_
    | refine good_wait ?_
    | refine good_enter ?_
    | refine opAlu_good ?_
    | refine opImm_good ?_
    | refine opShi_good ?_
    | refine opCmpi_good ?_
    | refine opMovw_good ?_
    | refine opMul_good ?_
    | refine opDiv_good ?_
    | refine opMfs_good ?_
    | refine opMts_good ?_
    | refine opCmp_good ?_
    | refine opPlogic_good ?_
    | refine opBr_good ?_
    | refine opCall_good ?_
    | refine opJmp_good ?_
    | refine opRet_good ?_
    | refine opLoop_good ?_
    | refine opLoad_good ?_
    | refine opStore_good ?_
    | refine opAtom_good ?_
    | refine opSync_good ?_
    | refine opSyncTlb_good ?_
    | refine opIci_good ?_
    | refine opTlbi_good ?_
    | refine opWait_good ?_
    | refine opTstart_good ?_
    | refine opTstop_good ?_
    | refine opReturn_good ?_
    | refine opBrk_good ?_
    | refine Cx.wordExc_good ?_
    | refine opGate_good ?_
    | refine opCrc_good ?_
    | refine opCryptoIssue_good ?_
    | refine opAppend_good ?_
    | refine opCp2Issue_good ?_
    | refine good_foldl ?_ ?_
    | refine good_foldl_fst ?_ ?_
    | refine good_foldl_snd ?_ ?_
    | intro _
    | simp only []
    | split
    | simp only [good_mk_iff])

theorem State.setLines_good {s : State} {a1} {a2} (h : Good p s) : Good p (State.setLines s a1 a2) := by
  unfold State.setLines
  repeat' (with_reducible first
    | assumption
    | refine good_ite ?_ ?_
    | refine State.setTrio_good ?_
    | refine good_foldl ?_ ?_
    | refine good_foldl_fst ?_ ?_
    | refine good_foldl_snd ?_ ?_
    | intro _
    | simp only []
    | split
    | simp only [good_mk_iff])

theorem fetchStop_good {a1} {s : State} (h : Good p s) : Good p (partState1 (fetchStop a1 s)) := by
  unfold fetchStop
  repeat' (with_reducible first
    | assumption
    | refine good_ite ?_ ?_
    | refine good_done ?_
    | refine good_wrote ?_
    | refine good_goto ?_
    | refine good_keep ?_
    | refine good_exc ?_
    | refine good_wait ?_
    | refine good_enter ?_
    | refine good_part1_ok ?_
    | refine good_part1_err ?_
    | refine MAcc.piece_good ?_
    | refine MAcc.piece_good_ok (by assumption) ?_
    | refine MAcc.piece_good_err (by assumption) ?_
    | refine MAcc.dataExc_good ?_
    | refine State.setLines_good ?_
    | refine good_foldl ?_ ?_
    | refine good_foldl_fst ?_ ?_
    | refine good_foldl_snd ?_ ?_
    | intro _
    | simp only []
    | split
    | simp only [good_mk_iff])

theorem fetchStop_good_ok {a1} {s : State} {t : State} (e : (fetchStop a1 s) = .ok t) (h : Good p s) : Good p t := by
  have := fetchStop_good (a1 := a1) (s := s) h
  rw [e] at this
  exact this

theorem fetchStop_good_err {a1} {s : State} {f : OpEnd} (e : (fetchStop a1 s) = .error f) (h : Good p s) : Good p f.state := by
  have := fetchStop_good (a1 := a1) (s := s) h
  rw [e] at this
  exact this

theorem settle_good {c : Cx} {r : OpEnd} (h : Good p r.state) : Good p (settle c r) := by
  unfold settle
  split
  · exact complete_good h
  · exact completeWrite_good h
  · exact goOn_good h
  · exact h
  · exact takeExc_good h
  · exact stall_good h
  · exact enterRing_good h

theorem settleLate_good {c : Cx} {r : OpEnd} (h : Good p r.state) : Good p (settleLate c r) := by
  unfold settleLate
  split
  · exact good_ite (goOn_good h) (settle_good h)
  · exact settle_good h

theorem coreRun_good {a1 a2 a3 a4 a5 a6} {s : State} (h : Good p s) : Good p (coreRun s a1 a2 a3 a4 a5 a6) := by
  unfold coreRun
  simp only []
  have k : ∀ f : OpEnd, Good p f.state → Good p (if a6.isSome = true then settleLate ⟨a1, a2, a3, a4, ⟨.endp, 0, 0, 0, 0, 0, 0, 0, false⟩, a5, a6⟩ f
      else settle ⟨a1, a2, a3, a4, ⟨.endp, 0, 0, 0, 0, 0, 0, 0, false⟩, a5, a6⟩ f) :=
    fun _ hf => good_ite (settleLate_good hf) (settle_good hf)
  refine k _ ?_
  split
  · rename_i e
    split at e
    · cases e
    · exact fetchStop_good_err e h
  · rename_i s1 e
    have k : Good p s1 := by
      split at e
      · cases e
        exact h
      · exact fetchStop_good_ok e h
    split
    · exact Cx.wordExc_good k
    · exact good_iteO (Cx.wordExc_good k) k
    · exact good_iteO (Cx.wordExc_good k) (good_iteO k (good_iteO (Cx.wordExc_good k) (opExec_good k)))

theorem coreRow_good {a0} {a1} {a2} {s : State} (h : Good p s) : Good p (coreRow a0 a1 a2 s) := by
  unfold coreRow
  repeat' (with_reducible first
    | assumption
    | refine good_ite ?_ ?_
    | refine coreRun_good ?_
    | intro _
    | simp only []
    | split)

theorem countStep_good {a0} {a1} {a2} {s : State} (h : Good p s) : Good p (countStep a0 a1 a2 s) := by
  unfold countStep
  repeat' (with_reducible first
    | assumption
    | refine good_ite ?_ ?_
    | refine State.incWrap_good ?_
    | refine State.setShaft_good ?_)

theorem tlbiEverywhere_good {a0} {s : State} (h : Good p s) : Good p (tlbiEverywhere a0 s) := by
  unfold tlbiEverywhere
  repeat' (with_reducible first
    | assumption
    | refine good_ite ?_ ?_
    | refine State.setTlbs_good ?_
    | refine State.setThread_good ?_
    | refine good_foldl ?_ ?_
    | refine good_foldl_fst ?_ ?_
    | refine good_foldl_snd ?_ ?_
    | intro _
    | simp only []
    | split
    | simp only [good_mk_iff])

theorem pageRead_good_eq {a1} {a2} {a3} {s : State} {t : State} {b} (e : (pageRead a1 a2 a3 s) = (b, t)) (h : Good p s) : Good p t := by
  have := pageRead_good (a1 := a1) (a2 := a2) (a3 := a3) (s := s) h
  rw [e] at this
  exact this

theorem loadData_good {s : State} {a1} {a2} {a3} {a4} {a5} (h : Good p s) : Good p (loadData s a1 a2 a3 a4 a5).2 := by
  unfold loadData
  repeat' (with_reducible first
    | assumption
    | refine good_ite ?_ ?_
    | refine pageRead_good ?_
    | refine pageRead_good_eq (by assumption) ?_
    | refine performLoad_good ?_
    | refine performLoad_good_eq (by assumption) ?_
    | intro _
    | simp only []
    | split)

theorem loadData_good_eq {s : State} {a1} {a2} {a3} {a4} {a5} {t : State} {b} (e : (loadData s a1 a2 a3 a4 a5) = (b, t)) (h : Good p s) : Good p t := by
  have := loadData_good (s := s) (a1 := a1) (a2 := a2) (a3 := a3) (a4 := a4) (a5 := a5) h
  rw [e] at this
  exact this

theorem storeFails_good {a1} {a2} {a3} {s : State} (h : Good p s) : Good p (storeFails a1 a2 a3 s) := by
  unfold storeFails
  repeat' (with_reducible first
    | assumption
    | refine good_ite ?_ ?_
    | refine State.busErr_good ?_
    | refine performPiece_good ?_
    | refine State.setThread_good ?_
    | refine good_foldl ?_ ?_
    | refine good_foldl_fst ?_ ?_
    | refine good_foldl_snd ?_ ?_
    | intro _
    | simp only []
    | split
    | simp only [good_mk_iff])

theorem ceEnd_good {a1} {s : State} (h : Good p s) : Good p (ceEnd a1 s) := by
  unfold ceEnd
  repeat' (with_reducible first
    | assumption
    | refine good_ite ?_ ?_
    | refine State.setThread_good ?_
    | refine good_foldl ?_ ?_
    | refine good_foldl_fst ?_ ?_
    | refine good_foldl_snd ?_ ?_
    | intro _
    | simp only []
    | split
    | simp only [good_mk_iff])

theorem MAcc.checkNow_good_ok {a0} {a1} {a2} {s : State} {t : State} {b} (e : (MAcc.checkNow a0 a1 a2 s) = .ok (b, t)) (h : Good p s) : Good p t := by
  have := (MAcc.checkNow_good h : Good p (partState (MAcc.checkNow a0 a1 a2 s)))
  rw [e] at this
  exact this

theorem MAcc.checkNow_good_err {a0} {a1} {a2} {s : State} {f : OpEnd} (e : (MAcc.checkNow a0 a1 a2 s) = .error f) (h : Good p s) : Good p f.state := by
  have := (MAcc.checkNow_good h : Good p (partState (MAcc.checkNow a0 a1 a2 s)))
  rw [e] at this
  exact this

theorem blkRead_good {a1} {a2} {a3} {a4} {a5} {s : State} (h : Good p s) : Good p (partState (blkRead a1 a2 a3 a4 a5 s)) := by
  unfold blkRead
  repeat' (with_reducible first
    | assumption
    | refine good_ite ?_ ?_
    | refine good_done ?_
    | refine good_wrote ?_
    | refine good_goto ?_
    | refine good_keep ?_
    | refine good_exc ?_
    | refine good_wait ?_
    | refine good_enter ?_
    | refine good_part_ok ?_
    | refine good_part_err ?_
    | refine MAcc.checkNow_good ?_
    | refine MAcc.checkNow_good_ok (by assumption) ?_
    | refine MAcc.checkNow_good_err (by assumption) ?_
    | refine State.busErr_good ?_
    | refine good_foldl ?_ ?_
    | refine good_foldl_fst ?_ ?_
    | refine good_foldl_snd ?_ ?_
    | intro _
    | simp only []
    | split
    | simp only [good_mk_iff])

theorem blkRead_good_ok {a1} {a2} {a3} {a4} {a5} {s : State} {t : State} {b} (e : (blkRead a1 a2 a3 a4 a5 s) = .ok (b, t)) (h : Good p s) : Good p t := by
  have := blkRead_good (a1 := a1) (a2 := a2) (a3 := a3) (a4 := a4) (a5 := a5) (s := s) h
  rw [e] at this
  exact this

theorem blkRead_good_err {a1} {a2} {a3} {a4} {a5} {s : State} {f : OpEnd} (e : (blkRead a1 a2 a3 a4 a5 s) = .error f) (h : Good p s) : Good p f.state := by
  have := blkRead_good (a1 := a1) (a2 := a2) (a3 := a3) (a4 := a4) (a5 := a5) (s := s) h
  rw [e] at this
  exact this

theorem blkEnd_good {a1} {a2} {s : State} (h : Good p s) : Good p (blkEnd a1 a2 s).state := by
  unfold blkEnd
  repeat' (with_reducible first
    | assumption
    | refine good_ite ?_ ?_
    | refine good_done ?_
    | refine good_wrote ?_
    | refine good_goto ?_
    | refine good_keep ?_
    | refine good_exc ?_
    | refine good_wait ?_
    | refine good_enter ?_
    | refine State.setThread_good ?_
    | refine good_foldl ?_ ?_
    | refine good_foldl_fst ?_ ?_
    | refine good_foldl_snd ?_ ?_
    | intro _
    | simp only []
    | split
    | simp only [good_mk_iff])

theorem blkWrite_good {a1} {a2} {a3} {s : State} (h : Good p s) : Good p (partState1 (blkWrite a1 a2 a3 s)) := by
  unfold blkWrite
  repeat' (with_reducible first
    | assumption
    | refine good_ite ?_ ?_
    | refine good_done ?_
    | refine good_wrote ?_
    | refine good_goto ?_
    | refine good_keep ?_
    | refine good_exc ?_
    | refine good_wait ?_
    | refine good_enter ?_
    | refine good_part1_ok ?_
    | refine good_part1_err ?_
    | refine MAcc.checkNow_good ?_
    | refine MAcc.checkNow_good_ok (by assumption) ?_
    | refine MAcc.checkNow_good_err (by assumption) ?_
    | refine State.pushBuf_good ?_
    | refine good_foldl ?_ ?_
    | refine good_foldl_fst ?_ ?_
    | refine good_foldl_snd ?_ ?_
    | intro _
    | simp only []
    | split
    | simp only [good_mk_iff])

theorem blkWrite_good_ok {a1} {a2} {a3} {s : State} {t : State} (e : (blkWrite a1 a2 a3 s) = .ok t) (h : Good p s) : Good p t := by
  have := blkWrite_good (a1 := a1) (a2 := a2) (a3 := a3) (s := s) h
  rw [e] at this
  exact this

theorem blkWrite_good_err {a1} {a2} {a3} {s : State} {f : OpEnd} (e : (blkWrite a1 a2 a3 s) = .error f) (h : Good p s) : Good p f.state := by
  have := blkWrite_good (a1 := a1) (a2 := a2) (a3 := a3) (s := s) h
  rw [e] at this
  exact this

theorem opChunk_good {a1} {a2} {a3} {s : State} (h : Good p s) : Good p (opChunk a1 a2 a3 s).state := by
  unfold opChunk
  repeat' (with_reducible first
    | assumption
    | refine good_ite ?_ ?_
    | refine good_done ?_
    | refine good_wrote ?_
    | refine good_goto ?_
    | refine good_keep ?_
    | refine good_exc ?_
    | refine good_wait ?_
    | refine good_enter ?_
    | refine blkRead_good ?_
    | refine blkRead_good_ok (by assumption) ?_
    | refine blkRead_good_err (by assumption) ?_
    | refine blkWrite_good ?_
    | refine blkWrite_good_ok (by assumption) ?_
    | refine blkWrite_good_err (by assumption) ?_
    | refine blkEnd_good ?_
    | refine good_foldl ?_ ?_
    | refine good_foldl_fst ?_ ?_
    | refine good_foldl_snd ?_ ?_
    | intro _
    | simp only []
    | split
    | simp only [good_mk_iff])

theorem reIssue_good {a1} {a2} {a3} {a4} {s : State} (h : Good p s) : Good p (reIssue a1 a2 a3 a4 s) := by
  unfold reIssue
  repeat' (with_reducible first
    | assumption
    | refine good_ite ?_ ?_
    | refine ceEnd_good ?_
    | refine goOn_good ?_
    | refine coreRun_good ?_
    | refine good_foldl ?_ ?_
    | refine good_foldl_fst ?_ ?_
    | refine good_foldl_snd ?_ ?_
    | intro _
    | simp only []
    | split
    | simp only [good_mk_iff])

theorem reRun_good {a1} {a2} {a3} {s : State} (h : Good p s) : Good p (reRun a1 a2 a3 s) := by
  unfold reRun
  repeat' (with_reducible first
    | assumption
    | refine good_ite ?_ ?_
    | refine reIssue_good ?_
    | refine good_foldl ?_ ?_
    | refine good_foldl_fst ?_ ?_
    | refine good_foldl_snd ?_ ?_
    | intro _
    | simp only []
    | split
    | simp only [good_mk_iff])

theorem walkReads_good {a1} {a2} {s : State} (h : Good p s) : Good p (walkReads a1 a2 s) := by
  unfold walkReads
  repeat' (with_reducible first
    | assumption
    | refine good_ite ?_ ?_
    | refine State.busErr_good ?_
    | refine reRun_good ?_
    | refine good_foldl ?_ ?_
    | refine good_foldl_fst ?_ ?_
    | refine good_foldl_snd ?_ ?_
    | intro _
    | simp only []
    | split
    | simp only [good_mk_iff])

theorem aauDone_good {a1} {s : State} {a2} {a3} (h : Good p s) : Good p (aauDone a1 s a2 a3).state := by
  unfold aauDone
  repeat' (with_reducible first
    | assumption
    | refine good_ite ?_ ?_
    | refine good_done ?_
    | refine good_wrote ?_
    | refine good_goto ?_
    | refine good_keep ?_
    | refine good_exc ?_
    | refine good_wait ?_
    | refine good_enter ?_
    | refine State.incWrap_good ?_
    | refine good_foldl ?_ ?_
    | refine good_foldl_fst ?_ ?_
    | refine good_foldl_snd ?_ ?_
    | intro _
    | simp only []
    | split
    | simp only [good_mk_iff])

theorem trioAau_good {a1} {s : State} (h : Good p s) : Good p (trioAau a1 s) := by
  unfold trioAau
  repeat' (with_reducible first
    | assumption
    | refine good_ite ?_ ?_
    | refine State.setTrio_good ?_
    | refine good_foldl ?_ ?_
    | refine good_foldl_fst ?_ ?_
    | refine good_foldl_snd ?_ ?_
    | intro _
    | simp only []
    | split
    | simp only [good_mk_iff])

theorem opAauResult_good {a1} {a2} {s : State} (h : Good p s) : Good p (opAauResult a1 a2 s).state := by
  unfold opAauResult
  repeat' (with_reducible first
    | assumption
    | refine good_ite ?_ ?_
    | refine good_done ?_
    | refine good_wrote ?_
    | refine good_goto ?_
    | refine good_keep ?_
    | refine good_exc ?_
    | refine good_wait ?_
    | refine good_enter ?_
    | refine aauTrap_good ?_
    | refine aauDone_good ?_
    | refine trioAau_good ?_
    | refine State.setFld_good ?_
    | refine State.incSat_good ?_
    | refine State.raiseUnit_good ?_
    | refine good_foldl ?_ ?_
    | refine good_foldl_fst ?_ ?_
    | refine good_foldl_snd ?_ ?_
    | intro _
    | simp only []
    | split
    | simp only [good_mk_iff])

theorem opCryptoResult_good {a1} {s : State} (h : Good p s) : Good p (opCryptoResult a1 s).state := by
  unfold opCryptoResult
  repeat' (with_reducible first
    | assumption
    | refine good_ite ?_ ?_
    | refine good_done ?_
    | refine good_wrote ?_
    | refine good_goto ?_
    | refine good_keep ?_
    | refine good_exc ?_
    | refine good_wait ?_
    | refine good_enter ?_
    | refine cryptoOps_good ?_
    | refine cryptoOps_good_ok (by assumption) ?_
    | refine cryptoOps_good_err (by assumption) ?_
    | refine limitCheckpoint_good ?_
    | refine MAcc.readNow_good ?_
    | refine MAcc.readNow_good_ok (by assumption) ?_
    | refine MAcc.readNow_good_err (by assumption) ?_
    | refine State.pokeLocal_good ?_
    | refine good_foldl ?_ ?_
    | refine good_foldl_fst ?_ ?_
    | refine good_foldl_snd ?_ ?_
    | intro _
    | simp only []
    | split
    | simp only [good_mk_iff])

theorem wakeStores_good {a1} {s : State} (h : Good p s) : Good p (wakeStores a1 s) := by
  unfold wakeStores
  repeat' (with_reducible first
    | assumption
    | refine good_ite ?_ ?_
    | refine reRun_good ?_
    | refine reIssue_good ?_
    | refine good_foldl ?_ ?_
    | refine good_foldl_fst ?_ ?_
    | refine good_foldl_snd ?_ ?_
    | intro _
    | simp only []
    | split
    | simp only [good_mk_iff])

theorem storePerforms_good {a1} {a2} {s : State} (h : Good p s) : Good p (storePerforms a1 a2 s) := by
  unfold storePerforms
  repeat' (with_reducible first
    | assumption
    | refine good_ite ?_ ?_
    | refine limitCheckpoint_good ?_
    | refine releaseCommit_good ?_
    | refine wakeStores_good ?_
    | refine State.setThread_good ?_
    | refine pairOut_good ?_
    | refine holdAt_good ?_
    | refine storeFails_good ?_
    | refine performOut_good ?_
    | refine State.busErr_good ?_
    | refine good_foldl ?_ ?_
    | refine good_foldl_fst ?_ ?_
    | refine good_foldl_snd ?_ ?_
    | intro _
    | simp only []
    | split
    | simp only [good_mk_iff])

theorem blockChunk_good {a1} {a2} {s : State} (h : Good p s) : Good p (blockChunk a1 a2 s) := by
  unfold blockChunk
  repeat' (with_reducible first
    | assumption
    | refine good_ite ?_ ?_
    | refine ceEnd_good ?_
    | refine goOn_good ?_
    | refine settle_good ?_
    | refine opChunk_good ?_
    | refine good_foldl ?_ ?_
    | refine good_foldl_fst ?_ ?_
    | refine good_foldl_snd ?_ ?_
    | intro _
    | simp only []
    | split
    | simp only [good_mk_iff])

theorem tlbiCompletes_good {a1} {s : State} (h : Good p s) : Good p (tlbiCompletes a1 s) := by
  unfold tlbiCompletes
  repeat' (with_reducible first
    | assumption
    | refine good_ite ?_ ?_
    | refine tlbiEverywhere_good ?_
    | refine State.setThread_good ?_
    | refine reIssue_good ?_
    | refine good_foldl ?_ ?_
    | refine good_foldl_fst ?_ ?_
    | refine good_foldl_snd ?_ ?_
    | intro _
    | simp only []
    | split
    | simp only [good_mk_iff])

theorem stallExc_good {a1} {a2} {s : State} (h : Good p s) : Good p (stallExc a1 a2 s) := by
  unfold stallExc
  repeat' (with_reducible first
    | assumption
    | refine good_ite ?_ ?_
    | refine ceEnd_good ?_
    | refine goOn_good ?_
    | refine takeExc_good ?_
    | refine good_foldl ?_ ?_
    | refine good_foldl_fst ?_ ?_
    | refine good_foldl_snd ?_ ?_
    | intro _
    | simp only []
    | split
    | simp only [good_mk_iff])

theorem icacheFills_good {a1} {a2} {s : State} (h : Good p s) : Good p (icacheFills a1 a2 s) := by
  unfold icacheFills
  repeat' (with_reducible first
    | assumption
    | refine good_ite ?_ ?_
    | refine State.busErr_good ?_
    | refine stallExc_good ?_
    | refine reRun_good ?_
    | refine State.setLines_good ?_
    | refine good_foldl ?_ ?_
    | refine good_foldl_fst ?_ ?_
    | refine good_foldl_snd ?_ ?_
    | intro _
    | simp only []
    | split
    | simp only [good_mk_iff])

theorem dropReads_good {a1} {s : State} (h : Good p s) : Good p (dropReads a1 s) := by
  unfold dropReads
  repeat' (with_reducible first
    | assumption
    | refine good_ite ?_ ?_
    | refine State.setTrio_good ?_
    | refine good_foldl ?_ ?_
    | refine good_foldl_fst ?_ ?_
    | refine good_foldl_snd ?_ ?_
    | intro _
    | simp only []
    | split
    | simp only [good_mk_iff])

theorem unhold_good {a1} {s : State} (h : Good p s) : Good p (unhold a1 s) := by
  unfold unhold
  repeat' (with_reducible first
    | assumption
    | refine good_ite ?_ ?_
    | refine dropReads_good ?_
    | refine good_foldl ?_ ?_
    | refine good_foldl_fst ?_ ?_
    | refine good_foldl_snd ?_ ?_
    | intro _
    | simp only []
    | split
    | simp only [good_mk_iff])

theorem loadArrives_good {a1} {a2} {s : State} (h : Good p s) : Good p (loadArrives a1 a2 s) := by
  unfold loadArrives
  repeat' (with_reducible first
    | assumption
    | refine good_ite ?_ ?_
    | refine State.busErr_good ?_
    | refine stallExc_good ?_
    | refine unhold_good ?_
    | refine loadData_good ?_
    | refine loadData_good_eq (by assumption) ?_
    | refine ceEnd_good ?_
    | refine coreRun_good ?_
    | refine earlyCheckpoint_good ?_
    | refine good_foldl ?_ ?_
    | refine good_foldl_fst ?_ ?_
    | refine good_foldl_snd ?_ ?_
    | intro _
    | simp only []
    | split
    | simp only [good_mk_iff])

theorem copResult_good {a1 a2} {s : State} (h : Good p s) : Good p (copResult a1 a2 s) := by
  unfold copResult
  simp only []
  split
  · split
    · refine good_ite h ?_
      split
      · exact ceEnd_good (settleLate_good (opAauResult_good h))
      · exact ceEnd_good (settleLate_good (opCryptoResult_good h))
      · exact good_ite (earlyCheckpoint_good (ceEnd_good (settle_good (opCp2Result_good h)))) h
    all_goals exact h
  all_goals exact h

theorem dbgSettle_good {a0 : ThreadId} {k : Nat} {s : State} (h : Good p s) : Good p (dbgSettle a0 k s) := by
  induction k generalizing s with
  | zero => exact h
  | succ k ih =>
    unfold dbgSettle
    split
    · exact ih (loadArrives_good h)
    · exact ih (copResult_good h)
    · exact ih (walkReads_good h)
    · exact ih (icacheFills_good h)
    · exact ih (storePerforms_good h)
    · exact ih (storePerforms_good h)
    · exact ih (storePerforms_good h)
    · exact ih (tlbiCompletes_good h)
    · exact ih (blockChunk_good h)
    all_goals exact h

theorem debugTaint_good {a0} {s : State} (h : Good p s) : Good p (debugTaint a0 s) := by
  unfold debugTaint
  repeat' (with_reducible first
    | assumption
    | refine good_ite ?_ ?_
    | refine State.setFld_good ?_)

theorem setCount_good {a0} {a1} {s : State} (h : Good p s) : Good p (setCount a0 a1 s) := by
  unfold setCount
  repeat' (with_reducible first
    | assumption
    | refine good_ite ?_ ?_
    | refine State.setShaft_good ?_
    | refine State.shaftIrq_good ?_
    | refine State.setFld_good ?_)

theorem loseRef_good {a0} {s : State} (h : Good p s) : Good p (loseRef a0 s) := by
  unfold loseRef
  repeat' (with_reducible first
    | assumption
    | refine good_ite ?_ ?_
    | refine learnStop_good ?_
    | refine State.setFld_good ?_)

theorem quadError_good {a0} {s : State} (h : Good p s) : Good p (quadError a0 s) := by
  unfold quadError
  repeat' (with_reducible first
    | assumption
    | refine good_ite ?_ ?_
    | refine State.shaftIrq_good ?_
    | refine State.shaftFault_good ?_
    | refine State.incSat_good ?_
    | refine loseRef_good ?_)

theorem uncount_good {a1} {s : State} (h : Good p s) : Good p (uncount a1 s) := by
  unfold uncount
  repeat' (with_reducible first
    | assumption
    | refine good_ite ?_ ?_
    | refine State.setShaft_good ?_
    | refine good_foldl ?_ ?_
    | refine good_foldl_fst ?_ ?_
    | refine good_foldl_snd ?_ ?_
    | intro _
    | simp only []
    | split
    | simp only [good_mk_iff])

theorem descNext_good {a0} {a1} {a2} {s : State} (h : Good p s) : Good p (descNext a0 a1 a2 s) := by
  unfold descNext
  repeat' (with_reducible first
    | assumption
    | refine good_ite ?_ ?_
    | refine measNodes_good ?_
    | refine measNext_good ?_
    | refine State.setRing_good ?_
    | refine State.setFld_good ?_
    | refine State.setNode_good ?_
    | refine State.pushMnt_good ?_)

theorem dramInit_good {s : State} (h : Good p s) : Good p (dramInit s) := by
  unfold dramInit
  repeat' (with_reducible first
    | assumption
    | refine good_ite ?_ ?_
    | refine State.setFld_good ?_)

theorem echoTake_good {a0} {s : State} (h : Good p s) : Good p (echoTake a0 s).2 := by
  unfold echoTake
  repeat' (with_reducible first
    | assumption
    | refine good_ite ?_ ?_
    | refine State.setEthp_good ?_)

theorem echoTake_good_eq {a0} {s : State} {t : State} {b} (e : (echoTake a0 s) = (b, t)) (h : Good p s) : Good p t := by
  have := echoTake_good (a0 := a0) (s := s) h
  rw [e] at this
  exact this

theorem echoReply_good {a0} {a1} {s : State} (h : Good p s) : Good p (echoReply a0 a1 s) := by
  unfold echoReply
  repeat' (with_reducible first
    | assumption
    | refine good_ite ?_ ?_
    | refine echoTake_good ?_
    | refine echoTake_good_eq (by assumption) ?_
    | refine netSend_good ?_)

theorem encTransition_good {a0} {a1} {a2} {a3} {s : State} (h : Good p s) : Good p (encTransition a0 a1 a2 a3 s) := by
  unfold encTransition
  repeat' (with_reducible first
    | assumption
    | refine good_ite ?_ ?_
    | refine State.setShaft_good ?_)

theorem engLoadDone_good {s : State} (h : Good p s) : Good p (engLoadDone s) := by
  unfold engLoadDone
  repeat' (with_reducible first
    | assumption
    | refine good_ite ?_ ?_
    | refine State.irq_good ?_
    | refine State.wr_good ?_
    | intro _
    | simp only []
    | split
    | simp only [good_mk_iff])

theorem timersFelt_good {s : State} (h : Good p s) : Good p (timersFelt s) := by
  unfold timersFelt
  repeat' (with_reducible first
    | assumption
    | refine good_ite ?_ ?_
    | refine tmGo_good ?_
    | refine tmIdle_good ?_
    | refine good_foldl ?_ ?_
    | refine good_foldl_fst ?_ ?_
    | refine good_foldl_snd ?_ ?_
    | intro _)

theorem seqFelt_good {s : State} (h : Good p s) : Good p (seqFelt s) := by
  unfold seqFelt
  repeat' (with_reducible first
    | assumption
    | refine good_ite ?_ ?_
    | refine seqRequest_good ?_)

theorem returnFlights_good {s : State} (h : Good p s) : Good p (returnFlights s) := by
  unfold returnFlights
  repeat' (with_reducible first
    | assumption
    | refine good_ite ?_ ?_
    | refine State.putEnts_good ?_
    | refine ringDrop_good ?_
    | refine State.setGroups_good ?_
    | refine good_foldl ?_ ?_
    | refine good_foldl_fst ?_ ?_
    | refine good_foldl_snd ?_ ?_
    | intro _
    | simp only []
    | split
    | simp only [good_mk_iff])

theorem queuesFelt_good {s : State} (h : Good p s) : Good p (queuesFelt s) := by
  unfold queuesFelt
  repeat' (with_reducible first
    | assumption
    | refine good_ite ?_ ?_
    | refine qGo_good ?_
    | refine returnFlights_good ?_
    | refine good_foldl ?_ ?_
    | refine good_foldl_fst ?_ ?_
    | refine good_foldl_snd ?_ ?_
    | intro _)

theorem ringOffEnd_good {a0} {s : State} (h : Good p s) : Good p (ringOffEnd a0 s) := by
  unfold ringOffEnd
  repeat' (with_reducible first
    | assumption
    | refine good_ite ?_ ?_
    | refine State.setFld_good ?_
    | refine State.setRing_good ?_)

theorem portOff_good {a1} {s : State} (h : Good p s) : Good p (portOff a1 s) := by
  unfold portOff
  repeat' (with_reducible first
    | assumption
    | refine good_ite ?_ ?_
    | refine setStat_good ?_
    | refine ringOffEnd_good ?_
    | refine ringOffStart_good ?_
    | refine State.setFld_good ?_
    | refine good_foldl ?_ ?_
    | refine good_foldl_fst ?_ ?_
    | refine good_foldl_snd ?_ ?_
    | intro _
    | simp only []
    | split
    | simp only [good_mk_iff])

theorem entryRetires_good {a0} {s : State} (h : Good p s) : Good p (entryRetires a0 s) := by
  unfold entryRetires
  repeat' (with_reducible first
    | assumption
    | refine good_ite ?_ ?_
    | refine retireEnt_good ?_
    | intro _
    | simp only []
    | split)

theorem enumCount_good {a0} {a1} {a2} {a3} {s : State} (h : Good p s) : Good p (enumCount a0 a1 a2 a3 s) := by
  unfold enumCount
  repeat' (with_reducible first
    | assumption
    | refine good_ite ?_ ?_
    | refine State.setFld_good ?_
    | refine ringIrq_good ?_
    | refine ringEvent_good ?_
    | refine descNext_good ?_)

theorem enumReturns_good {a0} {a1} {a2} {s : State} (h : Good p s) : Good p (enumReturns a0 a1 a2 s) := by
  unfold enumReturns
  repeat' (with_reducible first
    | assumption
    | refine good_ite ?_ ?_
    | refine ringFinish_good ?_
    | refine enumCount_good ?_
    | refine State.setRing_good ?_
    | intro _
    | simp only []
    | split)

theorem enumTimesOut_good {a0} {s : State} (h : Good p s) : Good p (enumTimesOut a0 s) := by
  unfold enumTimesOut
  repeat' (with_reducible first
    | assumption
    | refine good_ite ?_ ?_
    | refine ringFinish_good ?_
    | intro _
    | simp only []
    | split)

theorem icvFails_good {a0} {s : State} (h : Good p s) : Good p (icvFails a0 s) := by
  unfold icvFails
  repeat' (with_reducible first
    | assumption
    | refine good_ite ?_ ?_
    | refine State.incSat_good ?_
    | refine State.setEthp_good ?_
    | refine State.raise_good ?_)

theorem secOpen_good {a0} {a1} {a2} {s : State} (h : Good p s) : Good p (secOpen a0 a1 a2 s).2 := by
  unfold secOpen
  repeat' (with_reducible first
    | assumption
    | refine good_ite ?_ ?_
    | refine State.incSat_good ?_
    | refine icvFails_good ?_
    | refine State.setEthp_good ?_
    | intro _
    | simp only []
    | split)

theorem secOpen_good_eq {a0} {a1} {a2} {s : State} {t : State} {b} (e : (secOpen a0 a1 a2 s) = (b, t)) (h : Good p s) : Good p t := by
  have := secOpen_good (a0 := a0) (a1 := a1) (a2 := a2) (s := s) h
  rw [e] at this
  exact this

theorem secReceive_good {a0} {a1} {s : State} (h : Good p s) : Good p (secReceive a0 a1 s).2 := by
  unfold secReceive
  repeat' (with_reducible first
    | assumption
    | refine good_ite ?_ ?_
    | refine secOpen_good ?_
    | refine secOpen_good_eq (by assumption) ?_
    | refine State.incSat_good ?_
    | intro _
    | simp only []
    | split)

theorem secReceive_good_eq {a0} {a1} {s : State} {t : State} {b} (e : (secReceive a0 a1 s) = (b, t)) (h : Good p s) : Good p t := by
  have := secReceive_good (a0 := a0) (a1 := a1) (s := s) h
  rw [e] at this
  exact this

theorem nodePut_good {a0} {s : State} (h : Good p s) : Good p (nodePut a0 s) := by
  unfold nodePut
  repeat' (with_reducible first
    | assumption
    | refine good_ite ?_ ?_
    | refine State.setFld_good ?_
    | refine State.irq_good ?_
    | refine good_foldl ?_ ?_
    | refine good_foldl_fst ?_ ?_
    | refine good_foldl_snd ?_ ?_
    | intro _
    | simp only []
    | split
    | simp only [good_mk_iff])

theorem prpReceive_good {a0} {a1} {s : State} (h : Good p s) : Good p (prpReceive a0 a1 s).2 := by
  unfold prpReceive
  repeat' (with_reducible first
    | assumption
    | refine good_ite ?_ ?_
    | refine nodePut_good ?_
    | refine State.incSat_good ?_
    | refine State.incWrap_good ?_
    | intro _
    | simp only []
    | split)

theorem prpReceive_good_eq {a0} {a1} {s : State} {t : State} {b} (e : (prpReceive a0 a1 s) = (b, t)) (h : Good p s) : Good p t := by
  have := prpReceive_good (a0 := a0) (a1 := a1) (s := s) h
  rw [e] at this
  exact this

theorem ycpDiscard_good {s : State} (h : Good p s) : Good p (ycpDiscard s) := by
  unfold ycpDiscard
  repeat' (with_reducible first
    | assumption
    | refine good_ite ?_ ?_
    | refine State.incSat_good ?_)

theorem setUpload_good {a0} {s : State} (h : Good p s) : Good p (setUpload a0 s) := by
  unfold setUpload
  repeat' (with_reducible first
    | assumption
    | refine good_ite ?_ ?_
    | refine State.setYcp_good ?_
    | refine State.setFld_good ?_)

theorem yImageBegin_good {a0} {a1} {a2} {a3} {s : State} (h : Good p s) : Good p (yImageBegin a0 a1 a2 a3 s).state := by
  unfold yImageBegin
  repeat' (with_reducible first
    | assumption
    | refine good_ite ?_ ?_
    | refine good_done ?_
    | refine good_exc ?_
    | refine good_wait ?_
    | refine good_enter ?_
    | refine good_ydone ?_
    | refine good_ywait ?_
    | refine setUpload_good ?_
    | refine YEnd.refuse_good ?_
    | intro _
    | simp only []
    | split)

theorem taintHalted_good {a0} {s : State} (h : Good p s) : Good p (taintHalted a0 s) := by
  unfold taintHalted
  repeat' (with_reducible first
    | assumption
    | refine good_ite ?_ ?_
    | refine debugTaint_good ?_
    | refine good_foldl ?_ ?_
    | refine good_foldl_fst ?_ ?_
    | refine good_foldl_snd ?_ ?_
    | intro _
    | simp only []
    | split)

theorem regPieceWrite_good {w : Writer} {k a : Nat} {d : List Byte} {s : State} (h : Good p s) : Good p (regPieceWrite w k a d s) := by
  induction k generalizing a d s with
  | zero => exact h
  | succ k ih =>
    rw [regPieceWrite]
    simp only []
    exact good_ite h (ih (pageWrite_good h))

theorem yPiecesWrite_good {w : Writer} {l} {d : List Byte} {s : State} (h : Good p s) : Good p (yPiecesWrite w l d s) := by
  induction l generalizing s d with
  | nil => exact h
  | cons x t ih =>
    obtain ⟨a, n⟩ := x
    rw [yPiecesWrite]
    exact ih (good_ite (regPieceWrite_good h) (State.pokeExt_good h))

theorem romImageEnd_good {a0} {s : State} (h : Good p s) : Good p (romImageEnd a0 s).1.state := by
  unfold romImageEnd
  repeat' (with_reducible first
    | assumption
    | refine good_ite ?_ ?_
    | refine good_done ?_
    | refine good_exc ?_
    | refine good_wait ?_
    | refine good_enter ?_
    | refine good_ydone ?_
    | refine good_ywait ?_
    | refine YEnd.refuse_good ?_
    | refine imageOver_good ?_
    | refine State.setFld_good ?_
    | intro _
    | simp only []
    | split)

theorem yStreamWrite_good {a d cs more} {s : State} (h : Good p s) : Good p (yStreamWrite a d cs more s).2.2 := by
  unfold yStreamWrite
  split
  · rename_i e0
    have k {i j k l m} : Good p (State.ioRefuse _ i j k l m) := State.ioRefuse_good (State.ioPieces_good_err e0 h)
    split
    · exact k
    · split
      · exact h
      · exact k
  · have k := State.ioPieces_good_ok (by assumption) h
    simp only []
    split
    · exact yPiecesWrite_good k
    · simp only []
      exact State.busErr_good k
    · exact h

theorem yStreamWrite_good_eq {a d cs more b c} {s t : State} (e : yStreamWrite a d cs more s = (b, c, t)) (h : Good p s) : Good p t := by
  have := yStreamWrite_good (a := a) (d := d) (cs := cs) (more := more) h
  rw [e] at this
  exact this

theorem yImageData_good {a1} {a2} {a3} {a4} {s : State} (h : Good p s) : Good p (yImageData a1 a2 a3 a4 s).state := by
  unfold yImageData
  repeat' (with_reducible first
    | assumption
    | refine good_ite ?_ ?_
    | refine good_ydone ?_
    | refine good_ywait ?_
    | refine YEnd.refuse_good ?_
    | refine State.setYcp_good ?_
    | refine State.poke_good ?_
    | refine yStreamWrite_good ?_
    | refine yStreamWrite_good_eq (by assumption) ?_
    | refine good_foldl ?_ ?_
    | refine good_foldl_fst ?_ ?_
    | refine good_foldl_snd ?_ ?_
    | intro _
    | simp only []
    | split
    | simp only [good_mk_iff])

theorem romRun_good {a0} {s : State} (h : Good p s) : Good p (romRun a0 s).1.state := by
  unfold romRun
  repeat' (with_reducible first
    | assumption
    | refine good_ite ?_ ?_
    | refine good_done ?_
    | refine good_exc ?_
    | refine good_wait ?_
    | refine good_enter ?_
    | refine good_ydone ?_
    | refine good_ywait ?_
    | refine yImageBegin_good ?_
    | refine yImageData_good ?_
    | refine romImageEnd_good ?_
    | refine YEnd.refuse_good ?_
    | intro _
    | simp only []
    | split)

theorem romStart_good {a0 a1} {s : State} (h : Good p s) : Good p (romStart a0 a1 s) := by
  unfold romStart
  simp only []
  have k := romRun_good (a0 := a1) (State.putSess_good (a1 := 8) (a2 := { a0 with next := a1.seq + 1, exec := some a1 }) h)
  revert k
  generalize romRun _ _ = r
  intro k
  obtain ⟨_ | _, _ | _⟩ := r
  · exact ycpAnswer_good k
  · exact imageStarts_good (ycpAnswer_good k)
  · exact k
  · exact k

theorem romDrain_good {k : Nat} {s : State} (h : Good p s) : Good p (romDrain k s) := by
  induction k generalizing s with
  | zero => exact h
  | succ k ih =>
    unfold romDrain
    split
    · exact h
    · split
      · exact h
      · exact ih (romStart_good h)

theorem regReads_good {w l} {s : State} (h : Good p s) : Good p (regReads w l s).2 := by
  induction l generalizing s with
  | nil => exact h
  | cons x t ih =>
    have k : Good p (pageRead w x .b4 s).2 := pageRead_good h
    exact ih k

theorem regReads_good_eq {w l b} {s t : State} (e : regReads w l s = (b, t)) (h : Good p s) : Good p t := by
  have := regReads_good (w := w) (l := l) h
  rw [e] at this
  exact this

theorem yRegRead_good {a0} {a1} {a2} {a3} {s : State} (h : Good p s) : Good p (yRegRead a0 a1 a2 a3 s).state := by
  unfold yRegRead
  repeat' (with_reducible first
    | assumption
    | refine good_ite ?_ ?_
    | refine good_done ?_
    | refine good_exc ?_
    | refine good_wait ?_
    | refine good_enter ?_
    | refine good_ydone ?_
    | refine good_ywait ?_
    | refine regReads_good ?_
    | refine regReads_good_eq (by assumption) ?_
    | refine YEnd.refuse_good ?_
    | intro _
    | simp only []
    | split)

theorem yRegWrite_good {a0} {a1} {a2} {a3} {s : State} (h : Good p s) : Good p (yRegWrite a0 a1 a2 a3 s).state := by
  unfold yRegWrite
  repeat' (with_reducible first
    | assumption
    | refine good_ite ?_ ?_
    | refine good_done ?_
    | refine good_exc ?_
    | refine good_wait ?_
    | refine good_enter ?_
    | refine good_ydone ?_
    | refine good_ywait ?_
    | refine pageWrite_good ?_
    | refine pageWrite_good_eq (by assumption) ?_
    | refine YEnd.refuse_good ?_
    | intro _
    | simp only []
    | split)

theorem regPieceRead_good_eq {a0} {a1} {a2} {a3} {s : State} {t : State} {b} (e : (regPieceRead a0 a1 a2 a3 s) = (b, t)) (h : Good p s) : Good p t := by
  have := (regPieceRead_good h : Good p (regPieceRead a0 a1 a2 a3 s).2)
  rw [e] at this
  exact this

theorem yAppends_good {q i : Nat} {l} {s s1 : State} (e : yAppends q i l s = .ok s1) (h : Good p s) : Good p s1 := by
  induction l generalizing s i with
  | nil =>
    cases e
    exact h
  | cons x t ih =>
    unfold yAppends at e
    split at e
    · exact ih e (appendDo_good h)
    · cases e

theorem yPatLoad_good {a0} {a1} {a2} {s : State} (h : Good p s) : Good p (yPatLoad a0 a1 a2 s).state := by
  unfold yPatLoad
  repeat' (with_reducible first
    | assumption
    | refine good_ite ?_ ?_
    | refine good_done ?_
    | refine good_exc ?_
    | refine good_wait ?_
    | refine good_enter ?_
    | refine good_ydone ?_
    | refine good_ywait ?_
    | refine regApply_good ?_
    | intro _
    | simp only []
    | split)

theorem yChal_good {a0} {a1} {a2} {s : State} (h : Good p s) : Good p (yChal a0 a1 a2 s).state := by
  unfold yChal
  repeat' (with_reducible first
    | assumption
    | refine good_ite ?_ ?_
    | refine good_done ?_
    | refine good_exc ?_
    | refine good_wait ?_
    | refine good_enter ?_
    | refine good_ydone ?_
    | refine good_ywait ?_
    | refine State.freeList_good ?_
    | refine State.freeList_good_eq (by assumption) ?_
    | refine State.putSess_good ?_
    | refine YEnd.refuse_good ?_
    | intro _
    | simp only []
    | split)

theorem yUnlock_good {a0} {a1} {a2} {a3} {a4} {s : State} (h : Good p s) : Good p (yUnlock a0 a1 a2 a3 a4 s).state := by
  unfold yUnlock
  repeat' (with_reducible first
    | assumption
    | refine good_ite ?_ ?_
    | refine good_done ?_
    | refine good_exc ?_
    | refine good_wait ?_
    | refine good_enter ?_
    | refine good_ydone ?_
    | refine good_ywait ?_
    | refine State.putSess_good ?_
    | refine State.irq_good ?_
    | refine YEnd.refuse_good ?_
    | refine State.setYcp_good ?_
    | intro _
    | simp only []
    | split)

theorem yHalt_good {a0} {a1} {a2} {s : State} (h : Good p s) : Good p (yHalt a0 a1 a2 s).state := by
  unfold yHalt
  repeat' (with_reducible first
    | assumption
    | refine good_ite ?_ ?_
    | refine good_done ?_
    | refine good_exc ?_
    | refine good_wait ?_
    | refine good_enter ?_
    | refine good_ydone ?_
    | refine good_ywait ?_
    | refine haltCore_good ?_
    | refine YEnd.refuse_good ?_
    | intro _
    | simp only []
    | split)

theorem yResume_good {a0} {a1} {a2} {s : State} (h : Good p s) : Good p (yResume a0 a1 a2 s).state := by
  unfold yResume
  repeat' (with_reducible first
    | assumption
    | refine good_ite ?_ ?_
    | refine good_done ?_
    | refine good_exc ?_
    | refine good_wait ?_
    | refine good_enter ?_
    | refine good_ydone ?_
    | refine good_ywait ?_
    | refine State.setThread_good ?_
    | refine YEnd.refuse_good ?_
    | refine good_foldl ?_ ?_
    | refine good_foldl_fst ?_ ?_
    | refine good_foldl_snd ?_ ?_
    | intro _
    | simp only []
    | split)

theorem yDbgRead_good {a0} {a1} {a2} {a3} {a4} {s : State} (h : Good p s) : Good p (yDbgRead a0 a1 a2 a3 a4 s).state := by
  unfold yDbgRead
  repeat' (with_reducible first
    | assumption
    | refine good_ite ?_ ?_
    | refine good_done ?_
    | refine good_exc ?_
    | refine good_wait ?_
    | refine good_enter ?_
    | refine good_ydone ?_
    | refine good_ywait ?_
    | refine YEnd.refuse_good ?_
    | intro _
    | simp only []
    | split)

theorem safeFail_good {a0} {s : State} (h : Good p s) : Good p (safeFail a0 s) := by
  unfold safeFail
  repeat' (with_reducible first
    | assumption
    | refine good_ite ?_ ?_
    | refine State.irq_good ?_
    | refine State.raise_good ?_
    | refine State.incSat_good ?_
    | refine State.setFld_good ?_)

theorem safeCheck_good {a0} {a1} {s : State} (h : Good p s) : Good p (safeCheck a0 a1 s) := by
  unfold safeCheck
  repeat' (with_reducible first
    | assumption
    | refine good_ite ?_ ?_
    | refine State.irq_good ?_
    | refine State.raise_good ?_
    | refine safeFail_good ?_
    | refine State.setFld_good ?_
    | refine State.wr_good ?_
    | refine State.setYcp_good ?_)

theorem ySafe_good {a0} {a1} {a2} {s : State} (h : Good p s) : Good p (ySafe a0 a1 a2 s).state := by
  unfold ySafe
  repeat' (with_reducible first
    | assumption
    | refine good_ite ?_ ?_
    | refine good_done ?_
    | refine good_exc ?_
    | refine good_wait ?_
    | refine good_enter ?_
    | refine good_ydone ?_
    | refine good_ywait ?_
    | refine safeCheck_good ?_
    | refine State.setYcp_good ?_
    | refine YEnd.refuse_good ?_
    | intro _
    | simp only []
    | split)

theorem yStep_good {a1} {a2} {a3} {a4} {s : State} (h : Good p s) : Good p (yStep a1 a2 a3 a4 s).state := by
  unfold yStep
  repeat' (with_reducible first
    | assumption
    | refine good_ite ?_ ?_
    | refine good_ydone ?_
    | refine good_ywait ?_
    | refine State.setThread_good ?_
    | refine coreRun_good ?_
    | refine dbgSettle_good ?_
    | refine YEnd.refuse_good ?_
    | refine good_foldl ?_ ?_
    | refine good_foldl_fst ?_ ?_
    | refine good_foldl_snd ?_ ?_
    | intro _
    | simp only []
    | split
    | simp only [good_mk_iff])

theorem yPatWrite_good {a1} {a2} {a3} {s : State} (h : Good p s) : Good p (yPatWrite a1 a2 a3 s).state := by
  unfold yPatWrite
  repeat' (with_reducible first
    | assumption
    | refine good_ite ?_ ?_
    | refine good_ydone ?_
    | refine good_ywait ?_
    | refine yStreamWrite_good ?_
    | refine yStreamWrite_good_eq (by assumption) ?_
    | refine good_foldl ?_ ?_
    | refine good_foldl_fst ?_ ?_
    | refine good_foldl_snd ?_ ?_
    | intro _
    | simp only []
    | split
    | simp only [good_mk_iff])

theorem yMemWrite_good {a1} {a2} {a3} {s : State} (h : Good p s) : Good p (yMemWrite a1 a2 a3 s).state := by
  unfold yMemWrite
  repeat' (with_reducible first
    | assumption
    | refine good_ite ?_ ?_
    | refine good_ydone ?_
    | refine good_ywait ?_
    | refine yStreamWrite_good ?_
    | refine yStreamWrite_good_eq (by assumption) ?_
    | refine taintHalted_good ?_
    | refine good_foldl ?_ ?_
    | refine good_foldl_fst ?_ ?_
    | refine good_foldl_snd ?_ ?_
    | intro _
    | simp only []
    | split
    | simp only [good_mk_iff])

theorem dbgSeg_good {a0 a1 a2 a3 a4 x} {s s1 : State} (e : dbgSeg a0 a1 a2 a3 a4 s = some (x, s1)) (h : Good p s) : Good p s1 := by
  unfold dbgSeg at e
  dsimp only at e
  repeat' split at e
  all_goals first
    | contradiction
    | obtain rfl : _ = s1 := congrArg Prod.snd (Option.some.inj e)
      first
        | exact h
        | exact MAcc.checkNow_good_ok (by assumption) h

theorem yDbgWrite_good {a0 a1 a2 a3 a4 a5} {s : State} (h : Good p s) : Good p (yDbgWrite a0 a1 a2 a3 a4 a5 s).state := by
  unfold yDbgWrite
  simp only []
  split
  · split
    · exact good_ydone (debugTaint_good (State.setThread_good h))
    · split
      · exact good_ydone (debugTaint_good (State.setThread_good h))
      · split
        · split
          · exact good_ydone (debugTaint_good (State.setThread_good (dbgSeg_good (by assumption) h)))
          · exact YEnd.refuse_good h
        · exact good_ydone (debugTaint_good (State.setThread_good h))
  · exact YEnd.refuse_good h

theorem yImageEnd_good {a1 a2 a3} {s : State} (h : Good p s) : Good p (yImageEnd a1 a2 a3 s).state := by
  unfold yImageEnd
  split
  · exact good_ydone h
  · simp only []
    split
    · split
      · exact good_ydone (State.ioRefuse_good (State.ioPieces_good_err (by assumption) h))
      · exact good_ywait (ycpReads_good (State.ioPieces_good_ok (by assumption) h))
    · exact good_ydone h

theorem yAppend_good {a0 a1 a2 a3} {s : State} (h : Good p s) : Good p (yAppend a0 a1 a2 a3 s).state := by
  unfold yAppend
  split
  · split
    · exact good_ydone (yAppends_good (by assumption) h)
    · exact good_ydone (appendReject_good h)
  · split <;> exact YEnd.refuse_good h

theorem yMemRead_good {a1 a2 a3 a4 a5} {s : State} (h : Good p s) : Good p (yMemRead a1 a2 a3 a4 a5 s).state := by
  unfold yMemRead
  split
  · split
    · exact good_ydone (State.ioRefuse_good (State.ioPieces_good_err (by assumption) h))
    · exact good_ywait (ycpReads_good (State.ioPieces_good_ok (by assumption) h))
  · exact good_ydone h

theorem ycpRun_good {a1} {a2} {a3} {s : State} (h : Good p s) : Good p (ycpRun a1 a2 a3 s).state := by
  unfold ycpRun
  repeat' (with_reducible first
    | assumption
    | refine good_ite ?_ ?_
    | refine good_ydone ?_
    | refine good_ywait ?_
    | refine YEnd.refuse_good ?_
    | refine yRegRead_good ?_
    | refine yRegWrite_good ?_
    | refine yMemRead_good ?_
    | refine yMemWrite_good ?_
    | refine yAppend_good ?_
    | refine yPatWrite_good ?_
    | refine yPatLoad_good ?_
    | refine modeRequest_good ?_
    | refine yImageBegin_good ?_
    | refine yImageData_good ?_
    | refine yImageEnd_good ?_
    | refine yChal_good ?_
    | refine yUnlock_good ?_
    | refine yHalt_good ?_
    | refine yResume_good ?_
    | refine yStep_good ?_
    | refine yDbgRead_good ?_
    | refine yDbgWrite_good ?_
    | refine ySafe_good ?_
    | refine good_foldl ?_ ?_
    | refine good_foldl_fst ?_ ?_
    | refine good_foldl_snd ?_ ?_
    | intro _
    | simp only []
    | split
    | simp only [good_mk_iff])

theorem ycpStart_good {a0 a1 a2} {s : State} (h : Good p s) : Good p (ycpStart a0 a1 a2 s) := by
  unfold ycpStart
  have k := ycpRun_good (a1 := a0) (a2 := { a1 with next := a2.seq + 1, exec := some a2 }) (a3 := a2)
    (State.putSess_good (a1 := a0) (a2 := { a1 with next := a2.seq + 1, exec := some a2 }) h)
  revert k
  simp only []
  generalize ycpRun _ _ _ _ = r
  intro k
  cases r with
  | done c d s2 => exact good_ite (sessClose_good (ycpAnswer_good k)) (ycpAnswer_good k)
  | wait s2 => exact k

theorem ycpDrain_good {a0 k : Nat} {s : State} (h : Good p s) : Good p (ycpDrain a0 k s) := by
  induction k generalizing s with
  | zero => exact h
  | succ k ih =>
    unfold ycpDrain
    split
    · exact h
    · split
      · exact h
      · split
        · exact sessClose_good h
        · split
          · exact h
          · exact ih (ycpStart_good h)

theorem ycpWindow_good {a0} {a1} {a2} {s : State} (h : Good p s) : Good p (ycpWindow a0 a1 a2 s) := by
  unfold ycpWindow
  repeat' (with_reducible first
    | assumption
    | refine good_ite ?_ ?_
    | refine State.putSess_good ?_
    | refine ycpDrain_good ?_
    | refine ycpStart_good ?_
    | refine ycpSend_good ?_
    | refine ycpDiscard_good ?_
    | intro _
    | simp only []
    | split)

theorem romPacket_good {a0} {s : State} (h : Good p s) : Good p (romPacket a0 s) := by
  unfold romPacket
  repeat' (with_reducible first
    | assumption
    | refine good_ite ?_ ?_
    | refine ycpSend_good ?_
    | refine romDrain_good ?_
    | refine romStart_good ?_
    | refine ycpWindow_good ?_
    | intro _
    | simp only []
    | split)

theorem openSession_good {a0} {a1} {a2} {a3} {s : State} (h : Good p s) : Good p (openSession a0 a1 a2 a3 s) := by
  unfold openSession
  repeat' (with_reducible first
    | assumption
    | refine good_ite ?_ ?_
    | refine ycpSend_good ?_
    | refine State.free_good ?_
    | refine State.free_good_eq (by assumption) ?_
    | refine State.freeList_good ?_
    | refine State.freeList_good_eq (by assumption) ?_
    | refine State.putSess_good ?_
    | intro _
    | simp only []
    | split)

theorem ycpRequest_good {a0} {a1} {a2} {s : State} (h : Good p s) : Good p (ycpRequest a0 a1 a2 s) := by
  unfold ycpRequest
  repeat' (with_reducible first
    | assumption
    | refine good_ite ?_ ?_
    | refine ycpDiscard_good ?_
    | refine romPacket_good ?_
    | refine ycpSend_good ?_
    | refine openSession_good ?_
    | refine State.irq_good ?_
    | refine State.incSat_good ?_
    | refine ycpWindow_good ?_
    | refine State.putSess_good ?_
    | intro _
    | simp only []
    | split)

theorem ycpDatagram_good {a0} {a1} {s : State} (h : Good p s) : Good p (ycpDatagram a0 a1 s) := by
  unfold ycpDatagram
  repeat' (with_reducible first
    | assumption
    | refine good_ite ?_ ?_
    | refine ycpRequest_good ?_)

theorem timeStep_good {a0} {s : State} (h : Good p s) : Good p (timeStep a0 s) := by
  unfold timeStep
  repeat' (with_reducible first
    | assumption
    | refine good_ite ?_ ?_
    | refine State.setFld_good ?_
    | refine State.setShaft_good ?_
    | refine good_foldl ?_ ?_
    | refine good_foldl_fst ?_ ?_
    | refine good_foldl_snd ?_ ?_
    | intro _
    | simp only []
    | split
    | simp only [good_mk_iff])

theorem servo_good {a1} {s : State} (h : Good p s) : Good p (servo a1 s) := by
  unfold servo
  repeat' (with_reducible first
    | assumption
    | refine good_ite ?_ ?_
    | refine State.wr_good ?_
    | refine good_foldl ?_ ?_
    | refine good_foldl_fst ?_ ?_
    | refine good_foldl_snd ?_ ?_
    | intro _
    | simp only []
    | split
    | simp only [good_mk_iff])

theorem ptpOffset_good {a1} {s : State} (h : Good p s) : Good p (ptpOffset a1 s) := by
  unfold ptpOffset
  repeat' (with_reducible first
    | assumption
    | refine good_ite ?_ ?_
    | refine State.irq_good ?_
    | refine State.raise_good ?_
    | refine State.wr_good ?_
    | refine State.free_good ?_
    | refine State.free_good_eq (by assumption) ?_
    | refine State.setFld_good ?_
    | refine timeStep_good ?_
    | refine servo_good ?_
    | refine good_foldl ?_ ?_
    | refine good_foldl_fst ?_ ?_
    | refine good_foldl_snd ?_ ?_
    | intro _
    | simp only []
    | split
    | simp only [good_mk_iff])

theorem ptpSend_good {a1} {a2} {a3} {s : State} (h : Good p s) : Good p (ptpSend a1 a2 a3 s) := by
  unfold ptpSend
  repeat' (with_reducible first
    | assumption
    | refine good_ite ?_ ?_
    | refine plainSend_good ?_
    | refine good_foldl ?_ ?_
    | refine good_foldl_fst ?_ ?_
    | refine good_foldl_snd ?_ ?_
    | intro _
    | simp only []
    | split
    | simp only [good_mk_iff])

theorem ptpReceive_good {a0} {a1} {a2} {s : State} (h : Good p s) : Good p (ptpReceive a0 a1 a2 s) := by
  unfold ptpReceive
  repeat' (with_reducible first
    | assumption
    | refine good_ite ?_ ?_
    | refine State.setPtp_good ?_
    | refine ptpOffset_good ?_
    | refine ptpSend_good ?_
    | refine ptpDecide_good ?_
    | intro _
    | simp only []
    | split)

theorem udpReceive_good {a1} {a2} {a3} {a4} {a5} {a6} {a7} {a8} {s : State} (h : Good p s) : Good p (udpReceive a1 a2 a3 a4 a5 a6 a7 a8 s) := by
  unfold udpReceive
  repeat' (with_reducible first
    | assumption
    | refine good_ite ?_ ?_
    | refine ycpDatagram_good ?_
    | refine ptpReceive_good ?_
    | refine classify_good ?_
    | refine good_foldl ?_ ?_
    | refine good_foldl_fst ?_ ?_
    | refine good_foldl_snd ?_ ?_
    | intro _
    | simp only []
    | split
    | simp only [good_mk_iff])

theorem ip4Receive_good {a1} {a2} {a3} {a4} {s : State} (h : Good p s) : Good p (ip4Receive a1 a2 a3 a4 s) := by
  unfold ip4Receive
  repeat' (with_reducible first
    | assumption
    | refine good_ite ?_ ?_
    | refine udpReceive_good ?_
    | refine classify_good ?_
    | refine echoReply_good ?_
    | refine good_foldl ?_ ?_
    | refine good_foldl_fst ?_ ?_
    | refine good_foldl_snd ?_ ?_
    | intro _
    | simp only []
    | split
    | simp only [good_mk_iff])

theorem ip6Receive_good {a1} {a2} {a3} {a4} {s : State} (h : Good p s) : Good p (ip6Receive a1 a2 a3 a4 s) := by
  unfold ip6Receive
  repeat' (with_reducible first
    | assumption
    | refine good_ite ?_ ?_
    | refine classify_good ?_
    | refine udpReceive_good ?_
    | refine netSend_good ?_
    | refine echoReply_good ?_
    | refine good_foldl ?_ ?_
    | refine good_foldl_fst ?_ ?_
    | refine good_foldl_snd ?_ ?_
    | intro _
    | simp only []
    | split
    | simp only [good_mk_iff])

theorem netReceive_good {a0} {a1} {a2} {s : State} (h : Good p s) : Good p (netReceive a0 a1 a2 s) := by
  unfold netReceive
  repeat' (with_reducible first
    | assumption
    | refine good_ite ?_ ?_
    | refine ip4Receive_good ?_
    | refine ip6Receive_good ?_
    | refine arpReceive_good ?_
    | refine ptpReceive_good ?_
    | refine classify_good ?_
    | intro _
    | simp only []
    | split)

theorem enterVelvet_good {a1} {s : State} (h : Good p s) : Good p (enterVelvet a1 s) := by
  unfold enterVelvet
  repeat' (with_reducible first
    | assumption
    | refine good_ite ?_ ?_
    | refine ringOffStart_good ?_
    | refine enterMode_good ?_
    | refine State.setFld_good ?_
    | refine setVolt_good ?_
    | refine State.setDev_good ?_
    | refine good_foldl ?_ ?_
    | refine good_foldl_fst ?_ ?_
    | refine good_foldl_snd ?_ ?_
    | intro _
    | simp only []
    | split
    | simp only [good_mk_iff])

theorem flashPut_good {a0} {a1} {a2} {s : State} (h : Good p s) : Good p (flashPut a0 a1 a2 s) := by
  unfold flashPut
  repeat' (with_reducible first
    | assumption
    | refine good_ite ?_ ?_
    | refine State.poke_good ?_)

theorem writeRecord_good {a0} {a1} {a2} {s : State} (h : Good p s) : Good p (writeRecord a0 a1 a2 s) := by
  unfold writeRecord
  repeat' (with_reducible first
    | assumption
    | refine good_ite ?_ ?_
    | refine State.poke_good ?_
    | refine State.freeList_good ?_)

theorem intervalEnds_good {a0} {s : State} (h : Good p s) : Good p (intervalEnds a0 s) := by
  unfold intervalEnds
  repeat' (with_reducible first
    | assumption
    | refine good_ite ?_ ?_
    | refine checkpoint_good ?_)

theorem ioInvDone_good {s : State} (h : Good p s) : Good p (ioInvDone s) := by
  unfold ioInvDone
  repeat' (with_reducible first
    | assumption
    | refine good_ite ?_ ?_
    | refine State.setFld_good ?_
    | refine State.ioInval_good ?_
    | intro _
    | simp only []
    | split
    | simp only [good_mk_iff])

theorem jumpWake_good {s : State} (h : Good p s) : Good p (jumpWake s) := by
  unfold jumpWake
  repeat' (with_reducible first
    | assumption
    | refine good_ite ?_ ?_
    | refine State.wr_good ?_
    | refine State.setDev_good ?_
    | refine State.setThread_good ?_)

theorem laneLock_good {a0} {a1} {a2} {s : State} (h : Good p s) : Good p (laneLock a0 a1 a2 s) := by
  unfold laneLock
  repeat' (with_reducible first
    | assumption
    | refine good_ite ?_ ?_
    | refine State.setFld_good ?_)

theorem learnDone_good {a0} {a1} {s : State} (h : Good p s) : Good p (learnDone a0 a1 s) := by
  unfold learnDone
  repeat' (with_reducible first
    | assumption
    | refine good_ite ?_ ?_
    | refine State.setShaft_good ?_
    | refine State.wr_good ?_
    | refine State.setFld_good ?_
    | refine learnEnd_good ?_
    | intro _
    | simp only []
    | split
    | simp only [good_mk_iff])

theorem learnMeas_good {a0} {a1} {a2} {a3} {s : State} (h : Good p s) : Good p (learnMeas a0 a1 a2 a3 s) := by
  unfold learnMeas
  repeat' (with_reducible first
    | assumption
    | refine good_ite ?_ ?_
    | refine State.setShaft_good ?_
    | refine learnDone_good ?_
    | refine learnEnd_good ?_
    | refine good_foldl ?_ ?_
    | refine good_foldl_fst ?_ ?_
    | refine good_foldl_snd ?_ ?_
    | intro _
    | simp only []
    | split)

theorem linkGoesUp_good {a0} {a1} {s : State} (h : Good p s) : Good p (linkGoesUp a0 a1 s) := by
  unfold linkGoesUp
  repeat' (with_reducible first
    | assumption
    | refine good_ite ?_ ?_
    | refine State.free_good ?_
    | refine State.free_good_eq (by assumption) ?_
    | refine State.setEthp_good ?_
    | refine State.wr_good ?_
    | refine ethFlush_good ?_
    | refine State.irq_good ?_
    | refine netSend_good ?_
    | refine State.raise_good ?_
    | intro _
    | simp only []
    | split
    | simp only [good_mk_iff])

theorem linkGoesDown_good {a1} {s : State} (h : Good p s) : Good p (linkGoesDown a1 s) := by
  unfold linkGoesDown
  repeat' (with_reducible first
    | assumption
    | refine good_ite ?_ ?_
    | refine State.free_good ?_
    | refine State.free_good_eq (by assumption) ?_
    | refine State.setEthp_good ?_
    | refine State.wr_good ?_
    | refine State.raise_good ?_
    | refine State.irq_good ?_
    | refine good_foldl ?_ ?_
    | refine good_foldl_fst ?_ ?_
    | refine good_foldl_snd ?_ ?_
    | intro _
    | simp only []
    | split
    | simp only [good_mk_iff])

theorem linkChange_good {a0} {a1} {a2} {s : State} (h : Good p s) : Good p (linkChange a0 a1 a2 s) := by
  unfold linkChange
  repeat' (with_reducible first
    | assumption
    | refine good_ite ?_ ?_
    | refine linkGoesUp_good ?_
    | refine linkGoesDown_good ?_)

theorem monitors_good {a0} {a1} {s : State} (h : Good p s) : Good p (monitors a0 a1 s) := by
  unfold monitors
  repeat' (with_reducible first
    | assumption
    | refine good_ite ?_ ?_
    | refine State.wr_good ?_
    | refine State.irq_good ?_
    | refine State.raise_good ?_
    | refine good_foldl ?_ ?_
    | refine good_foldl_fst ?_ ?_
    | refine good_foldl_snd ?_ ?_
    | intro _
    | simp only []
    | split)

theorem netProgDone_good {s : State} (h : Good p s) : Good p (netProgDone s) := by
  unfold netProgDone
  repeat' (with_reducible first
    | assumption
    | refine good_ite ?_ ?_
    | refine State.irq_good ?_
    | refine State.wr_good ?_
    | intro _
    | simp only []
    | split
    | simp only [good_mk_iff])

theorem nodeForget_good {a0} {s : State} (h : Good p s) : Good p (nodeForget a0 s) := by
  unfold nodeForget
  repeat' (with_reducible first
    | assumption
    | refine good_ite ?_ ?_
    | refine State.setFld_good ?_
    | intro _
    | simp only []
    | split
    | simp only [good_mk_iff])

theorem nodeLoses_good {a0} {a1} {s : State} (h : Good p s) : Good p (nodeLoses a0 a1 s) := by
  unfold nodeLoses
  repeat' (with_reducible first
    | assumption
    | refine good_ite ?_ ?_
    | refine ringIrq_good ?_
    | refine ringEvent_good ?_
    | refine State.setNode_good ?_)

theorem obsClamp_good {a0} {a1} {s : State} (h : Good p s) : Good p (obsClamp a0 a1 s) := by
  unfold obsClamp
  repeat' (with_reducible first
    | assumption
    | refine good_ite ?_ ?_
    | refine State.setShaft_good ?_)

theorem obsStart_good {a0} {a1} {a2} {s : State} (h : Good p s) : Good p (obsStart a0 a1 a2 s) := by
  unfold obsStart
  repeat' (with_reducible first
    | assumption
    | refine good_ite ?_ ?_
    | refine State.setShaft_good ?_
    | refine State.setFld_good ?_)

theorem observe_good {a0} {a1} {a2} {s : State} (h : Good p s) : Good p (observe a0 a1 a2 s) := by
  unfold observe
  repeat' (with_reducible first
    | assumption
    | refine good_ite ?_ ?_
    | refine State.setShaft_good ?_
    | refine State.setFld_good ?_
    | refine obsStart_good ?_
    | refine learnMeas_good ?_
    | refine obsClamp_good ?_
    | refine State.shaftIrq_good ?_
    | refine settle_good ?_
    | intro _
    | simp only []
    | split)

theorem offer_good {a0} {s : State} (h : Good p s) : Good p (offer a0 s) := by
  unfold offer
  repeat' (with_reducible first
    | assumption
    | refine good_ite ?_ ?_
    | refine State.raiseA_good ?_
    | intro _
    | simp only []
    | split
    | simp only [good_mk_iff])

theorem trioLoses_good {a0} {s : State} (h : Good p s) : Good p (trioLoses a0 s) := by
  unfold trioLoses
  repeat' (with_reducible first
    | assumption
    | refine good_ite ?_ ?_
    | refine State.setTrio_good ?_
    | refine State.setFld_good ?_
    | refine trioEvt_good ?_)

theorem undoAll_good {s : State} {a1} (h : Good p s) : Good p (undoAll s a1) := by
  unfold undoAll
  repeat' (with_reducible first
    | assumption
    | refine good_ite ?_ ?_
    | refine State.poke_good ?_
    | refine good_foldl ?_ ?_
    | refine good_foldl_fst ?_ ?_
    | refine good_foldl_snd ?_ ?_
    | intro _)

theorem pairStep_good {a0} {a1} {s : State} (h : Good p s) : Good p (pairStep a0 a1 s) := by
  unfold pairStep
  repeat' (with_reducible first
    | assumption
    | refine good_ite ?_ ?_
    | refine State.wr64_good ?_
    | refine State.setShaft_good ?_
    | refine State.setFld_good ?_)

theorem park_good {a0} {s : State} (h : Good p s) : Good p (park a0 s) := by
  unfold park
  repeat' (with_reducible first
    | assumption
    | refine good_ite ?_ ?_
    | refine State.setFld_good ?_)

theorem regPut_good {a0} {a1} {a2} {s : State} (h : Good p s) : Good p (regPut a0 a1 a2 s) := by
  unfold regPut
  repeat' (with_reducible first
    | assumption
    | refine good_ite ?_ ?_
    | refine pageWrite_good ?_)

theorem pgPut_good {a0} {a1} {a2} {a3} {s : State} (h : Good p s) : Good p (pgPut a0 a1 a2 a3 s) := by
  unfold pgPut
  repeat' (with_reducible first
    | assumption
    | refine good_ite ?_ ?_
    | refine regPut_good ?_)

theorem setQuiet_good {a0} {s : State} (h : Good p s) : Good p (setQuiet a0 s) := by
  unfold setQuiet
  repeat' (with_reducible first
    | assumption
    | refine good_ite ?_ ?_
    | refine State.setDev_good ?_)

theorem planStep_good {s : State} (h : Good p s) : Good p (planStep s) := by
  unfold planStep
  repeat' (with_reducible first
    | assumption
    | refine good_ite ?_ ?_
    | refine setQuiet_good ?_
    | refine State.irq_good ?_
    | refine State.raise_good ?_
    | refine setVolt_good ?_
    | refine setDiv_good ?_)

theorem planEval_good {s : State} (h : Good p s) : Good p (planEval s) := by
  unfold planEval
  repeat' (with_reducible first
    | assumption
    | refine good_ite ?_ ?_
    | refine State.setDev_good ?_
    | refine ceiling_good ?_
    | refine planStep_good ?_)

theorem setYears_good {a0} {s : State} (h : Good p s) : Good p (setYears a0 s) := by
  unfold setYears
  repeat' (with_reducible first
    | assumption
    | refine good_ite ?_ ?_
    | refine State.wr_good ?_
    | refine State.setDev_good ?_
    | refine State.irq_good ?_
    | refine State.raise_good ?_)

theorem planYears_good {s : State} (h : Good p s) : Good p (planYears s) := by
  unfold planYears
  repeat' (with_reducible first
    | assumption
    | refine good_ite ?_ ?_
    | refine State.wr_good ?_
    | refine State.free_good ?_
    | refine State.free_good_eq (by assumption) ?_
    | refine setYears_good ?_)

theorem ptpSeq_good {a0} {s : State} (h : Good p s) : Good p (ptpSeq a0 s).2 := by
  unfold ptpSeq
  repeat' (with_reducible first
    | assumption
    | refine good_ite ?_ ?_
    | refine State.setPtp_good ?_)

theorem ptpSeq_good_eq {a0} {s : State} {t : State} {b} (e : (ptpSeq a0 s) = (b, t)) (h : Good p s) : Good p t := by
  have := ptpSeq_good (a0 := a0) (s := s) h
  rw [e] at this
  exact this

theorem ptpOriginate_good {a0} {a1} {s : State} (h : Good p s) : Good p (ptpOriginate a0 a1 s) := by
  unfold ptpOriginate
  repeat' (with_reducible first
    | assumption
    | refine good_ite ?_ ?_
    | refine ptpSeq_good ?_
    | refine ptpSeq_good_eq (by assumption) ?_
    | refine ptpSend_good ?_
    | refine State.setPtp_good ?_
    | refine announce_good ?_
    | intro _
    | simp only []
    | split)

theorem publish_good {a0} {a1} {s : State} (h : Good p s) : Good p (publish a0 a1 s) := by
  unfold publish
  repeat' (with_reducible first
    | assumption
    | refine good_ite ?_ ?_
    | refine State.wr_good ?_
    | refine State.wr64_good ?_
    | refine State.setFld_good ?_)

theorem qDataError_good {a0} {s : State} (h : Good p s) : Good p (qDataError a0 s) := by
  unfold qDataError
  repeat' (with_reducible first
    | assumption
    | refine good_ite ?_ ?_
    | refine qGo_good ?_)

theorem recAck_good {a0} {a1} {a2} {s : State} (h : Good p s) : Good p (recAck a0 a1 a2 s) := by
  unfold recAck
  repeat' (with_reducible first
    | assumption
    | refine good_ite ?_ ?_
    | refine cancelAck_good ?_
    | refine State.setRing_good ?_
    | intro _
    | simp only []
    | split)

theorem measDone_good {a1} {a2} {s : State} (h : Good p s) : Good p (measDone a1 a2 s) := by
  unfold measDone
  repeat' (with_reducible first
    | assumption
    | refine good_ite ?_ ?_
    | refine State.setFld_good ?_
    | refine ringIrq_good ?_
    | refine pushDlySet_good ?_
    | refine State.setRing_good ?_
    | refine measNext_good ?_
    | refine good_foldl ?_ ?_
    | refine good_foldl_fst ?_ ?_
    | refine good_foldl_snd ?_ ?_
    | intro _
    | simp only []
    | split
    | simp only [good_mk_iff])

theorem recReply_good {a0} {a1} {a2} {a3} {a4} {s : State} (h : Good p s) : Good p (recReply a0 a1 a2 a3 a4 s) := by
  unfold recReply
  repeat' (with_reducible first
    | assumption
    | refine good_ite ?_ ?_
    | refine measSend_good ?_
    | refine measDone_good ?_
    | intro _
    | simp only []
    | split)

theorem measCut_good {a1} {s : State} (h : Good p s) : Good p (measCut a1 s) := by
  unfold measCut
  repeat' (with_reducible first
    | assumption
    | refine good_ite ?_ ?_
    | refine State.setRing_good ?_
    | refine measNext_good ?_
    | refine good_foldl ?_ ?_
    | refine good_foldl_fst ?_ ?_
    | refine good_foldl_snd ?_ ?_
    | intro _
    | simp only []
    | split
    | simp only [good_mk_iff])

theorem wrapRefresh_good {a1} {s : State} (h : Good p s) : Good p (wrapRefresh a1 s) := by
  unfold wrapRefresh
  repeat' (with_reducible first
    | assumption
    | refine good_ite ?_ ?_
    | refine State.setFld_good ?_
    | refine ringIrq_good ?_
    | refine ringEvent_good ?_
    | refine measCut_good ?_
    | refine State.setRing_good ?_
    | refine pushDlySet_good ?_
    | refine good_foldl ?_ ?_
    | refine good_foldl_fst ?_ ?_
    | refine good_foldl_snd ?_ ?_
    | intro _
    | simp only []
    | split
    | simp only [good_mk_iff])

theorem recStatus_good {a0} {a1} {a2} {s : State} (h : Good p s) : Good p (recStatus a0 a1 a2 s) := by
  unfold recStatus
  repeat' (with_reducible first
    | assumption
    | refine good_ite ?_ ?_
    | refine State.setFld_good ?_
    | refine wrapRefresh_good ?_
    | refine State.setNode_good ?_)

theorem ringLog_good {a1 a2 a3 a4 a5} {s : State} (h : Good p s) : Good p (ringLog a1 a2 a3 a4 a5 s) := by
  unfold ringLog
  simp only []
  refine good_ite h (good_ite (ringIrq_good (State.incSat_good h)) ?_)
  split
  · exact State.setFld_good (State.ioWrite_good_eq (by assumption) (fun _ _ _ k => pageRefuses_good k) h)
  · exact ringEvent_good (State.setRing_good (State.ioWrite_good_eq (by assumption) (fun _ _ _ k => pageRefuses_good k) h))

theorem recVendor_good {a0} {a1} {a2} {a3} {a4} {a5} {s : State} (h : Good p s) : Good p (recVendor a0 a1 a2 a3 a4 a5 s) := by
  unfold recVendor
  repeat' (with_reducible first
    | assumption
    | refine good_ite ?_ ?_
    | refine ringIrq_good ?_
    | refine ringEvent_good ?_
    | refine ringLog_good ?_
    | refine State.setRing_good ?_
    | intro _
    | simp only []
    | split)

theorem regOut_good {a0} {a1} {a2} {s : State} (h : Good p s) : Good p (regOut a0 a1 a2 s) := by
  unfold regOut
  repeat' (with_reducible first
    | assumption
    | refine good_ite ?_ ?_
    | refine pageRead_good ?_
    | refine pageRead_good_eq (by assumption) ?_
    | refine State.emit_good ?_)

theorem ringProgDone_good {a0} {s : State} (h : Good p s) : Good p (ringProgDone a0 s) := by
  unfold ringProgDone
  repeat' (with_reducible first
    | assumption
    | refine good_ite ?_ ?_
    | refine State.wr_good ?_
    | refine State.setRing_good ?_
    | intro _
    | simp only []
    | split)

theorem ringSend_good {a0} {a1} {a2} {a3} {a4} {s : State} (h : Good p s) : Good p (ringSend a0 a1 a2 a3 a4 s) := by
  unfold ringSend
  repeat' (with_reducible first
    | assumption
    | refine good_ite ?_ ?_
    | refine State.incWrap_good ?_
    | refine State.setRing_good ?_
    | refine State.emits_good ?_)

theorem sendCmd_good {a0} {a1} {s : State} (h : Good p s) : Good p (sendCmd a0 a1 s) := by
  unfold sendCmd
  repeat' (with_reducible first
    | assumption
    | refine good_ite ?_ ?_
    | refine State.incSat_good ?_
    | refine State.setRing_good ?_
    | refine State.setFld_good ?_
    | refine ringSend_good ?_)

theorem sendNext_good {r : Nat} {l} {s : State} (h : Good p s) : Good p (sendNext r l s).2 := by
  induction l generalizing s with
  | nil => exact State.setRing_good h
  | cons x t ih =>
    unfold sendNext
    split
    · exact sendCmd_good (State.setRing_good h)
    · exact ih (ringEvent_good (State.incSat_good h))

theorem sendNext_good_eq {a0} {a1} {s : State} {t : State} {b} (e : (sendNext a0 a1 s) = (b, t)) (h : Good p s) : Good p t := by
  have := (sendNext_good h : Good p (sendNext a0 a1 s).2)
  rw [e] at this
  exact this

theorem sendTime_good {a0} {s : State} (h : Good p s) : Good p (sendTime a0 s) := by
  unfold sendTime
  repeat' (with_reducible first
    | assumption
    | refine good_ite ?_ ?_
    | refine ringSend_good ?_)

theorem sendMnt_good {a0} {s : State} (h : Good p s) : Good p (sendMnt a0 s) := by
  unfold sendMnt
  repeat' (with_reducible first
    | assumption
    | refine good_ite ?_ ?_
    | refine State.setRing_good ?_
    | refine sendTime_good ?_
    | refine ringSend_good ?_
    | refine ringFinish_good ?_
    | intro _
    | simp only []
    | split)

theorem ringSlots_good {a0} {s : State} (h : Good p s) : Good p (ringSlots a0 s) := by
  unfold ringSlots
  repeat' (with_reducible first
    | assumption
    | refine good_ite ?_ ?_
    | refine State.setRing_good ?_
    | refine State.emit_good ?_
    | refine ringSend_good ?_
    | refine sendNext_good ?_
    | refine sendNext_good_eq (by assumption) ?_
    | refine sendMnt_good ?_
    | intro _
    | simp only []
    | split)

theorem rootBack_good {s : State} (h : Good p s) : Good p (rootBack s) := by
  unfold rootBack
  repeat' (with_reducible first
    | assumption
    | refine good_ite ?_ ?_
    | refine State.setFld_good ?_
    | refine State.setDev_good ?_)

theorem rootLoss_good {a0} {s : State} (h : Good p s) : Good p (rootLoss a0 s) := by
  unfold rootLoss
  repeat' (with_reducible first
    | assumption
    | refine good_ite ?_ ?_
    | refine State.incSat_good ?_
    | refine State.setFld_good ?_
    | refine collCycle_good ?_
    | refine State.raiseCond_good ?_
    | refine State.setDev_good ?_
    | intro _
    | simp only []
    | split)

theorem rowEnd_good {a0} {a1} {s : State} (h : Good p s) : Good p (rowEnd a0 a1 s) := by
  unfold rowEnd
  repeat' (with_reducible first
    | assumption
    | refine good_ite ?_ ?_
    | refine State.setSeq_good ?_
    | refine State.irq_good ?_
    | refine State.setFld_good ?_
    | refine State.incWrap_good ?_
    | refine seqGo_good ?_)

theorem rxLocks_good {a0} {a1} {s : State} (h : Good p s) : Good p (rxLocks a0 a1 s) := by
  unfold rxLocks
  repeat' (with_reducible first
    | assumption
    | refine good_ite ?_ ?_
    | refine State.setFld_good ?_
    | refine State.setRing_good ?_
    | refine lineRefresh_good ?_
    | refine enumStart_good ?_)

theorem safeSpeedDisc_good {a0} {s : State} (h : Good p s) : Good p (safeSpeedDisc a0 s) := by
  unfold safeSpeedDisc
  repeat' (with_reducible first
    | assumption
    | refine good_ite ?_ ?_
    | refine State.shaftIrq_good ?_
    | refine State.shaftFault_good ?_
    | refine State.setFld_good ?_
    | refine State.setShaft_good ?_)

theorem secVerDone_good {a0} {s : State} (h : Good p s) : Good p (secVerDone a0 s) := by
  unfold secVerDone
  repeat' (with_reducible first
    | assumption
    | refine good_ite ?_ ?_
    | refine State.setDev_good ?_
    | refine State.irq_good ?_
    | refine State.raise_good ?_
    | intro _
    | simp only []
    | split)

theorem seqFail_good {a0} {a1} {s : State} (h : Good p s) : Good p (seqFail a0 a1 s) := by
  unfold seqFail
  repeat' (with_reducible first
    | assumption
    | refine good_ite ?_ ?_
    | refine State.setFld_good ?_
    | refine State.irq_good ?_
    | refine seqGo_good ?_
    | refine State.setSeq_good ?_
    | refine State.raiseUnit_good ?_
    | intro _
    | simp only []
    | split)

theorem sliceAppend_good {a0} {a1} {a2} {a3} {s : State} (h : Good p s) : Good p (sliceAppend a0 a1 a2 a3 s).1 := by
  unfold sliceAppend
  repeat' (with_reducible first
    | assumption
    | refine good_ite ?_ ?_
    | refine queueAppend_good ?_
    | refine queueAppend_good_eq (by assumption) ?_
    | refine State.incWrap_good ?_
    | refine State.setSeq_good ?_
    | refine State.incSat_good ?_
    | refine State.irq_good ?_
    | refine seqFail_good ?_
    | intro _
    | simp only []
    | split)

theorem sliceAppend_good_eq {a0} {a1} {a2} {a3} {s : State} {t : State} {b} (e : (sliceAppend a0 a1 a2 a3 s) = (t, b)) (h : Good p s) : Good p t := by
  have := sliceAppend_good (a0 := a0) (a1 := a1) (a2 := a2) (a3 := a3) (s := s) h
  rw [e] at this
  exact this

theorem sliceBegin_good {a0} {a1} {s : State} (h : Good p s) : Good p (sliceBegin a0 a1 s) := by
  unfold sliceBegin
  repeat' (with_reducible first
    | assumption
    | refine good_ite ?_ ?_
    | refine State.raiseUnit_good ?_
    | refine State.setFld_good ?_
    | refine State.irq_good ?_
    | refine State.incWrap_good ?_
    | refine State.setSeq_good ?_
    | intro _
    | simp only []
    | split)

theorem sliceEnd_good {a0} {a1} {s : State} (h : Good p s) : Good p (sliceEnd a0 a1 s) := by
  unfold sliceEnd
  repeat' (with_reducible first
    | assumption
    | refine good_ite ?_ ?_
    | refine State.setSeq_good ?_
    | refine seqFail_good ?_
    | refine seqTakeReq_good ?_
    | refine rowEnd_good ?_)

theorem seqEmit_good {k : Nat} {s : State} (h : Good p s) : Good p (seqEmit k s) := by
  induction k generalizing s with
  | zero => exact h
  | succ k ih =>
    unfold seqEmit
    split
    · split
      · split
        · exact ih (sliceBegin_good h)
        · exact h
      · exact ih (sliceEnd_good h)
      · split
        have k1 := sliceAppend_good_eq (by assumption) h
        exact good_ite (ih k1) k1
    · exact h

theorem State.ioBytes_good {a0 l} {s : State} (h : Good p s) : Good p (s.ioBytes a0 l).2 := by
  induction l generalizing s with
  | nil => exact h
  | cons x t ih =>
    unfold State.ioBytes
    split
    · exact State.ioPiece_good_eq (by assumption) h
    · have k := ih (State.ioPiece_good_eq (by assumption) h)
      split <;> (rename_i e; rw [e] at k; exact k)

theorem seqRead_good {a1 a2} {s : State} (h : Good p s) : Good p (seqRead a1 a2 s).2 := by
  unfold seqRead
  split
  · exact State.ioRefuse_good (State.ioPieces_good_err (by assumption) h)
  · have k := State.ioPieces_good_ok (by assumption) h
    split
    · exact State.ioBytes_good k
    · exact k

theorem seqRead_good_eq {a1 a2 b} {s t : State} (e : seqRead a1 a2 s = (b, t)) (h : Good p s) : Good p t := by
  have := seqRead_good (a1 := a1) (a2 := a2) h
  rw [e] at this
  exact this

theorem rowsCheck_good {t : Track} {k i : Nat} {prev} {crc : Nat} {cs} {s : State} (h : Good p s) :
    Good p (rowsCheck t k i prev crc cs s).2.2 := by
  induction k generalizing i prev crc cs s with
  | zero => exact h
  | succ k ih =>
    unfold rowsCheck
    split
    · exact seqRead_good_eq (by assumption) h
    · exact ih (seqRead_good_eq (by assumption) h)

theorem rowsCheck_good_eq {a0} {a1} {a2} {a3} {a4} {a5} {s : State} {t : State} {b c} (e : (rowsCheck a0 a1 a2 a3 a4 a5 s) = (b, c, t)) (h : Good p s) : Good p t := by
  have := (rowsCheck_good h : Good p (rowsCheck a0 a1 a2 a3 a4 a5 s).2.2)
  rw [e] at this
  exact this

theorem trackCheck_good {a1} {s : State} (h : Good p s) : Good p (trackCheck a1 s).2.2 := by
  unfold trackCheck
  repeat' (with_reducible first
    | assumption
    | refine good_ite ?_ ?_
    | refine seqRead_good ?_
    | refine seqRead_good_eq (by assumption) ?_
    | refine rowsCheck_good ?_
    | refine rowsCheck_good_eq (by assumption) ?_
    | refine good_foldl ?_ ?_
    | refine good_foldl_fst ?_ ?_
    | refine good_foldl_snd ?_ ?_
    | intro _
    | simp only []
    | split
    | simp only [good_mk_iff])

theorem trackCheck_good_eq {a1} {s : State} {t : State} {b c} (e : (trackCheck a1 s) = (b, c, t)) (h : Good p s) : Good p t := by
  have := trackCheck_good (a1 := a1) (s := s) h
  rw [e] at this
  exact this

theorem seqLoadDone_good {s : State} (h : Good p s) : Good p (seqLoadDone s) := by
  unfold seqLoadDone
  repeat' (with_reducible first
    | assumption
    | refine good_ite ?_ ?_
    | refine trackCheck_good ?_
    | refine trackCheck_good_eq (by assumption) ?_
    | refine State.setFld_good ?_
    | refine State.setSeq_good ?_
    | refine State.irq_good ?_
    | refine seqGo_good ?_
    | intro _
    | simp only []
    | split)

theorem seqProgDone_good {s : State} (h : Good p s) : Good p (seqProgDone s) := by
  unfold seqProgDone
  repeat' (with_reducible first
    | assumption
    | refine good_ite ?_ ?_
    | refine State.irq_good ?_
    | refine State.wr_good ?_
    | refine State.setSeq_good ?_
    | intro _
    | simp only []
    | split)

theorem seqRetry_good {s : State} (h : Good p s) : Good p (seqRetry s) := by
  unfold seqRetry
  repeat' (with_reducible first
    | assumption
    | refine good_ite ?_ ?_
    | refine seqEmit_good ?_
    | intro _
    | simp only []
    | split)

theorem shaftCmd_good {a0} {a1} {s : State} (h : Good p s) : Good p (shaftCmd a0 a1 s) := by
  unfold shaftCmd
  repeat' (with_reducible first
    | assumption
    | refine good_ite ?_ ?_
    | refine setCount_good ?_
    | refine loseRef_good ?_
    | refine State.setShaft_good ?_
    | intro _
    | simp only []
    | split)

theorem shaftLoss_good {s : State} (h : Good p s) : Good p (shaftLoss s) := by
  unfold shaftLoss
  repeat' (with_reducible first
    | assumption
    | refine good_ite ?_ ?_
    | refine cancelFlights_good ?_
    | refine cancelFlights_good_eq (by assumption) ?_
    | refine park_good ?_
    | refine good_foldl ?_ ?_
    | refine good_foldl_fst ?_ ?_
    | refine good_foldl_snd ?_ ?_
    | intro _)

theorem siAccept_good {a0} {a1} {a2} {a3} {a4} {s : State} (h : Good p s) : Good p (siAccept a0 a1 a2 a3 a4 s) := by
  unfold siAccept
  repeat' (with_reducible first
    | assumption
    | refine good_ite ?_ ?_
    | refine collCycle_good ?_
    | refine inputsRefresh_good ?_
    | refine State.setSafeIn_good ?_)

theorem siFaultBegin_good {a0} {s : State} (h : Good p s) : Good p (siFaultBegin a0 s) := by
  unfold siFaultBegin
  repeat' (with_reducible first
    | assumption
    | refine good_ite ?_ ?_
    | refine State.setSafeIn_good ?_
    | refine State.raiseCond_good ?_
    | refine State.irq_good ?_
    | refine State.setFld_good ?_)

theorem siDiscrepant_good {a0} {s : State} (h : Good p s) : Good p (siDiscrepant a0 s) := by
  unfold siDiscrepant
  repeat' (with_reducible first
    | assumption
    | refine good_ite ?_ ?_
    | refine collCycle_good ?_
    | refine siFaultBegin_good ?_)

theorem sliceStart_good {a0} {s : State} (h : Good p s) : Good p (sliceStart a0 s) := by
  unfold sliceStart
  repeat' (with_reducible first
    | assumption
    | refine good_ite ?_ ?_
    | refine activeRefresh_good ?_
    | refine State.setFld_good ?_
    | refine lanesRefresh_good ?_
    | refine State.setDev_good ?_
    | intro _
    | simp only []
    | split)

theorem ss1End_good {a0} {s : State} (h : Good p s) : Good p (ss1End a0 s) := by
  unfold ss1End
  repeat' (with_reducible first
    | assumption
    | refine good_ite ?_ ?_
    | refine pairStop_good ?_
    | refine collCycle_good ?_
    | refine State.raiseA_good ?_)

theorem ssiFrame_good {a0} {a1} {a2} {a3} {s : State} (h : Good p s) : Good p (ssiFrame a0 a1 a2 a3 s) := by
  unfold ssiFrame
  repeat' (with_reducible first
    | assumption
    | refine good_ite ?_ ?_
    | refine State.shaftIrq_good ?_
    | refine State.shaftFault_good ?_
    | refine State.setShaft_good ?_
    | refine State.setFld_good ?_
    | refine State.incWrap_good ?_)

theorem standstill_good {a0} {s : State} (h : Good p s) : Good p (standstill a0 s) := by
  unfold standstill
  repeat' (with_reducible first
    | assumption
    | refine good_ite ?_ ?_
    | refine State.shaftIrq_good ?_
    | refine State.setFld_good ?_
    | refine State.setShaft_good ?_)

theorem stoMismatch_good {a0} {a1} {a2} {s : State} (h : Good p s) : Good p (stoMismatch a0 a1 a2 s) := by
  unfold stoMismatch
  repeat' (with_reducible first
    | assumption
    | refine good_ite ?_ ?_
    | refine collCycle_good ?_
    | refine State.raiseCond_good ?_)

theorem supervision_good {s : State} (h : Good p s) : Good p (supervision s) := by
  unfold supervision
  repeat' (with_reducible first
    | assumption
    | refine good_ite ?_ ?_
    | refine netSend_good ?_
    | intro _
    | simp only []
    | split
    | simp only [good_mk_iff])

theorem takeIrq_good {s : State} {a1} {a2} {a3} {a4} (h : Good p s) : Good p (takeIrq s a1 a2 a3 a4) := by
  unfold takeIrq
  repeat' (with_reducible first
    | assumption
    | refine good_ite ?_ ?_
    | refine enterRing_good ?_)

theorem tapOp_good {a0} {a1} {a2} {s : State} (h : Good p s) : Good p (tapOp a0 a1 a2 s) := by
  unfold tapOp
  repeat' (with_reducible first
    | assumption
    | refine good_ite ?_ ?_
    | refine State.emit_good ?_
    | intro _
    | simp only []
    | split
    | simp only [good_mk_iff])

theorem tempSample_good {a0} {s : State} (h : Good p s) : Good p (tempSample a0 s) := by
  unfold tempSample
  repeat' (with_reducible first
    | assumption
    | refine good_ite ?_ ?_
    | refine State.incWrap_good ?_
    | refine collCycle_good ?_
    | refine State.raiseCond_good ?_
    | refine State.endCond_good ?_)

theorem timeSends_good {a0} {s : State} (h : Good p s) : Good p (timeSends a0 s) := by
  unfold timeSends
  repeat' (with_reducible first
    | assumption
    | refine good_ite ?_ ?_
    | refine sendTime_good ?_)

theorem tmIrq_good {a0} {a1} {s : State} (h : Good p s) : Good p (tmIrq a0 a1 s) := by
  unfold tmIrq
  repeat' (with_reducible first
    | assumption
    | refine good_ite ?_ ?_
    | refine State.setFld_good ?_)

theorem tmMatch_good {a0} {a1} {s : State} (h : Good p s) : Good p (tmMatch a0 a1 s) := by
  unfold tmMatch
  repeat' (with_reducible first
    | assumption
    | refine good_ite ?_ ?_
    | refine tmIrq_good ?_
    | refine State.setFld_good ?_
    | refine State.tmSet_good ?_
    | intro _
    | simp only []
    | split)

theorem tmMatches_good {a0} {a1} {a2} {s : State} (h : Good p s) : Good p (tmMatches a0 a1 a2 s) := by
  unfold tmMatches
  repeat' (with_reducible first
    | assumption
    | refine good_ite ?_ ?_
    | refine tmMatch_good ?_)

theorem tmAngleStep_good {a0} {s : State} (h : Good p s) : Good p (tmAngleStep a0 s) := by
  unfold tmAngleStep
  repeat' (with_reducible first
    | assumption
    | refine good_ite ?_ ?_
    | refine State.setFld_good ?_
    | refine State.tmSet_good ?_
    | refine tmMatches_good ?_
    | refine tmLoad_good ?_
    | refine tmIrq_good ?_)

theorem tmBusStep_good {a0} {s : State} (h : Good p s) : Good p (tmBusStep a0 s) := by
  unfold tmBusStep
  repeat' (with_reducible first
    | assumption
    | refine good_ite ?_ ?_
    | refine State.setFld_good ?_
    | refine State.tmSet_good ?_
    | refine tmMatches_good ?_
    | refine tmIrq_good ?_
    | refine tmLoad_good ?_)

theorem tmCapture_good {a0} {a1} {s : State} (h : Good p s) : Good p (tmCapture a0 a1 s) := by
  unfold tmCapture
  repeat' (with_reducible first
    | assumption
    | refine good_ite ?_ ?_
    | refine State.setFld_good ?_
    | refine State.tmSet_good ?_
    | refine tmIrq_good ?_
    | refine State.setRose_good ?_)

theorem tpCheck_good {a0} {a1} {a2} {s : State} (h : Good p s) : Good p (tpCheck a0 a1 a2 s) := by
  unfold tpCheck
  repeat' (with_reducible first
    | assumption
    | refine good_ite ?_ ?_
    | refine State.setSafeIn_good ?_
    | refine collCycle_good ?_
    | refine siFaultBegin_good ?_
    | refine siFaultRefresh_good ?_)

theorem tpPulse_good {a0} {s : State} (h : Good p s) : Good p (tpPulse a0 s) := by
  unfold tpPulse
  repeat' (with_reducible first
    | assumption
    | refine good_ite ?_ ?_
    | refine State.setSafeIn_good ?_
    | refine State.emit_good ?_
    | refine good_foldl ?_ ?_
    | refine good_foldl_fst ?_ ?_
    | refine good_foldl_snd ?_ ?_
    | intro _)

theorem trainAgain_good {a0} {s : State} (h : Good p s) : Good p (trainAgain a0 s) := by
  unfold trainAgain
  repeat' (with_reducible first
    | assumption
    | refine good_ite ?_ ?_
    | refine State.setEthp_good ?_)

theorem trainFails_good {a0} {s : State} (h : Good p s) : Good p (trainFails a0 s) := by
  unfold trainFails
  repeat' (with_reducible first
    | assumption
    | refine good_ite ?_ ?_
    | refine State.raise_good ?_
    | refine State.setEthp_good ?_
    | refine State.setFld_good ?_)

theorem votedOdd_good {a0} {a1} {s : State} (h : Good p s) : Good p (votedOdd a0 a1 s) := by
  unfold votedOdd
  repeat' (with_reducible first
    | assumption
    | refine good_ite ?_ ?_
    | refine trioLoses_good ?_
    | refine trioEvt_good ?_
    | refine State.incSat_good ?_
    | refine State.setTrio_good ?_
    | refine coreFails_good ?_
    | refine coreOut_good ?_
    | refine State.setFld_good ?_)

theorem voterSplit_good {a0} {s : State} (h : Good p s) : Good p (voterSplit a0 s) := by
  unfold voterSplit
  repeat' (with_reducible first
    | assumption
    | refine good_ite ?_ ?_
    | refine trioFails_good ?_
    | refine trioEvt_good ?_)

theorem wakePages_good {s : State} (h : Good p s) : Good p (wakePages s) := by
  unfold wakePages
  have k := fuseLoad_good (returnFlights_good h)
  have k1 := restart_good (regs := ⟨(fuseLoad (returnFlights s)).regs.cells.filter (fun c => keptReg c.1 || decide (0x400 ≤ c.1 / 4096))⟩)
    (s := fuseLoad (returnFlights s)) k.pending (cellsWf_filter _ k.regs) k.mem
  simp only []
  generalize restart _ _ _ = r at k1 ⊢
  have k2 {d e f b} : Good p (State.setDev { r with bad := b, eng := e, fab := f } d) := State.setDev_good (good_mk_iff.2 k1)
  exact good_ite (State.wr_good k2) (voltBack_good h k2)

theorem wakes_good {a0} {s : State} (h : Good p s) : Good p (wakes a0 s) := by
  unfold wakes
  repeat' (with_reducible first
    | assumption
    | refine good_ite ?_ ?_
    | refine State.setFld_good ?_
    | refine wakePages_good ?_
    | refine State.wr_good ?_
    | refine State.setDev_good ?_)

theorem ycpDrainAll_good {s : State} (h : Good p s) : Good p (ycpDrainAll s) := by
  unfold ycpDrainAll
  repeat' (with_reducible first
    | assumption
    | refine good_ite ?_ ?_
    | refine ycpDrain_good ?_
    | refine good_foldl ?_ ?_
    | refine good_foldl_fst ?_ ?_
    | refine good_foldl_snd ?_ ?_
    | intro _)

theorem rolesThird_good {a1} {a2} {s : State} (h : Good p s) : Good p (rolesThird a1 a2 s) := by
  unfold rolesThird
  repeat' (with_reducible first
    | assumption
    | refine good_ite ?_ ?_
    | refine State.wr_good ?_
    | refine good_foldl ?_ ?_
    | refine good_foldl_fst ?_ ?_
    | refine good_foldl_snd ?_ ?_
    | intro _
    | simp only []
    | split
    | simp only [good_mk_iff])

theorem oddThird_good {a1} {s : State} (h : Good p s) : Good p (oddThird a1 s) := by
  unfold oddThird
  repeat' (with_reducible first
    | assumption
    | refine good_ite ?_ ?_
    | refine rolesThird_good ?_
    | refine good_foldl ?_ ?_
    | refine good_foldl_fst ?_ ?_
    | refine good_foldl_snd ?_ ?_
    | intro _
    | simp only []
    | split
    | simp only [good_mk_iff])

theorem bgMeasures_good {a1} {s : State} (h : Good p s) : Good p (bgMeasures a1 s) := by
  unfold bgMeasures
  repeat' (with_reducible first
    | assumption
    | refine good_ite ?_ ?_
    | refine measSend_good ?_
    | refine State.setRing_good ?_
    | refine measNext_good ?_
    | refine measNodes_good ?_
    | refine good_foldl ?_ ?_
    | refine good_foldl_fst ?_ ?_
    | refine good_foldl_snd ?_ ?_
    | intro _
    | simp only []
    | split
    | simp only [good_mk_iff])

theorem checkEntry_good {a1} {a2} {a3} {a4} {a5} {s : State} (h : Good p s) : Good p (checkEntry a1 a2 a3 a4 a5 s) := by
  unfold checkEntry
  repeat' (with_reducible first
    | assumption
    | refine good_ite ?_ ?_
    | refine recheck_good ?_
    | refine lateEntry_good ?_
    | refine dispatch_good ?_
    | refine good_foldl ?_ ?_
    | refine good_foldl_fst ?_ ?_
    | refine good_foldl_snd ?_ ?_
    | intro _
    | simp only []
    | split
    | simp only [good_mk_iff])

theorem angleSteps_good {a1} {s : State} (h : Good p s) : Good p (angleSteps a1 s) := by
  unfold angleSteps
  repeat' (with_reducible first
    | assumption
    | refine good_ite ?_ ?_
    | refine State.setShaft_good ?_
    | refine State.shaftIrq_good ?_
    | refine State.shaftFault_good ?_
    | refine good_foldl ?_ ?_
    | refine good_foldl_fst ?_ ?_
    | refine good_foldl_snd ?_ ?_
    | intro _
    | simp only []
    | split
    | simp only [good_mk_iff])

theorem groupRetime_good {a1} {a2} {a3} {a4} {s : State} (h : Good p s) : Good p (groupRetime a1 a2 a3 a4 s) := by
  unfold groupRetime
  repeat' (with_reducible first
    | assumption
    | refine good_ite ?_ ?_
    | refine ringRetime_good ?_
    | refine State.mapFlights_good ?_
    | refine State.incWrap_good ?_
    | refine State.setGroups_good ?_
    | refine State.raise_good ?_
    | refine State.irq_good ?_
    | refine good_foldl ?_ ?_
    | refine good_foldl_fst ?_ ?_
    | refine good_foldl_snd ?_ ?_
    | intro _
    | simp only []
    | split
    | simp only [good_mk_iff])

theorem laneCount_good {a1} {s : State} (h : Good p s) : Good p (laneCount a1 s) := by
  unfold laneCount
  repeat' (with_reducible first
    | assumption
    | refine good_ite ?_ ?_
    | refine State.free_good ?_
    | refine State.free_good_eq (by assumption) ?_
    | refine State.incWrap_good ?_
    | refine State.wr_good ?_
    | refine good_foldl ?_ ?_
    | refine good_foldl_fst ?_ ?_
    | refine good_foldl_snd ?_ ?_
    | intro _
    | simp only []
    | split
    | simp only [good_mk_iff])

theorem laneOp_good {a1} {a2} {a3} {a4} {s : State} (h : Good p s) : Good p (laneOp a1 a2 a3 a4 s).2.2 := by
  unfold laneOp
  repeat' (with_reducible first
    | assumption
    | refine good_ite ?_ ?_
    | refine State.incSat_good ?_
    | refine good_foldl ?_ ?_
    | refine good_foldl_fst ?_ ?_
    | refine good_foldl_snd ?_ ?_
    | intro _
    | simp only []
    | split
    | simp only [good_mk_iff])

theorem laneOp_good_eq {a1} {a2} {a3} {a4} {s : State} {t : State} {b c} (e : (laneOp a1 a2 a3 a4 s) = (b, c, t)) (h : Good p s) : Good p t := by
  have := laneOp_good (a1 := a1) (a2 := a2) (a3 := a3) (a4 := a4) (s := s) h
  rw [e] at this
  exact this

theorem laneTry_good {α : Type} {bank : Nat} {f : Conv α} (hf : ∀ l c s, Good p s → Good p (f l c s).2.2) {k l c} {s : State} (h : Good p s) :
    Good p (laneTry bank f k l c s).2.2 := by
  induction k generalizing l c s with
  | zero => exact h
  | succ k ih =>
    unfold laneTry
    split
    · exact h
    · have k1 := hf ‹_› c s h
      split <;> rename_i e <;> rw [e] at k1
      · exact laneCount_good k1
      · exact ih (laneFails_good k1)

theorem laneConvert_good {α : Type} {bank : Nat} {f : Conv α} (hf : ∀ l c s, Good p s → Good p (f l c s).2.2) {c} {s : State} (h : Good p s) :
    Good p (laneConvert bank f c s).2.2 := laneTry_good hf h

theorem laneConvert_good_eq {α : Type} {bank : Nat} {f : Conv α} {c b d} {s t : State} (e : laneConvert bank f c s = (b, d, t))
    (hf : ∀ l c s, Good p s → Good p (f l c s).2.2) (h : Good p s) : Good p t := by
  have := laneConvert_good hf (bank := bank) (c := c) h
  rw [e] at this
  exact this

theorem convPredict_good {n tt l c} {s : State} (h : Good p s) : Good p (convPredict n tt l c s).2.2 := by
  unfold convPredict
  repeat' (with_reducible first
    | exact h
    | refine laneOp_good ?_
    | refine laneOp_good_eq (by assumption) ?_
    | intro _
    | simp only []
    | split)

theorem convPredict_good_eq {n tt l c b d} {s t : State} (e : convPredict n tt l c s = (b, d, t)) (h : Good p s) : Good p t := by
  have := convPredict_good (n := n) (tt := tt) (l := l) (c := c) h
  rw [e] at this
  exact this

theorem convGroup_good {g l c} {s : State} (h : Good p s) : Good p (convGroup g l c s).2.2 := by
  unfold convGroup
  repeat' (with_reducible first
    | exact h
    | refine laneOp_good ?_
    | refine laneOp_good_eq (by assumption) ?_
    | refine convPredict_good ?_
    | refine convPredict_good_eq (by assumption) ?_
    | intro _
    | simp only []
    | split)

theorem groupUpdate_good {tag c} {s : State} (h : Good p s) : Good p (groupUpdate tag c s).2 := by
  unfold groupUpdate
  split
  · exact h
  · split
    · exact h
    · split
      · exact laneConvert_good_eq (by assumption) (fun _ _ _ k => convGroup_good k) h
      · exact laneConvert_good_eq (by assumption) (fun _ _ _ k => convGroup_good k) h
      · have k := laneConvert_good_eq (by assumption) (fun _ _ _ k => convGroup_good k) h
        exact good_ite (groupRetime_good k) k

theorem groupUpdate_good_eq {tag c b} {s t : State} (e : groupUpdate tag c s = (b, t)) (h : Good p s) : Good p t := by
  have := groupUpdate_good (tag := tag) (c := c) h
  rw [e] at this
  exact this

theorem retimeUpdate_good {a1} {s : State} (h : Good p s) : Good p (retimeUpdate a1 s) := by
  unfold retimeUpdate
  repeat' (with_reducible first
    | assumption
    | refine good_ite ?_ ?_
    | refine groupUpdate_good ?_
    | refine groupUpdate_good_eq (by assumption) ?_
    | refine good_foldl ?_ ?_
    | refine good_foldl_fst ?_ ?_
    | refine good_foldl_snd ?_ ?_
    | intro _
    | simp only []
    | split
    | simp only [good_mk_iff])

theorem failoverBack_good {a1} {s : State} (h : Good p s) : Good p (failoverBack a1 s) := by
  unfold failoverBack
  repeat' (with_reducible first
    | assumption
    | refine good_ite ?_ ?_
    | refine checkpoint_good ?_
    | refine State.setFld_good ?_
    | refine oddThird_good ?_
    | refine good_foldl ?_ ?_
    | refine good_foldl_fst ?_ ?_
    | refine good_foldl_snd ?_ ?_
    | intro _
    | simp only []
    | split
    | simp only [good_mk_iff])

theorem State.thenDo_good {s1 s : State} {f : State → State} (h : Good p s1) (hf : ∀ x, Good p x → Good p (f x)) :
    Good p (s1.thenDo s f) := good_ite (hf _ h) h

theorem resyncEnds_good {a1} {a2} {s : State} (h : Good p s) : Good p (resyncEnds a1 a2 s) := by
  unfold resyncEnds
  repeat' (with_reducible first
    | assumption
    | refine good_ite ?_ ?_
    | refine State.setFld_good ?_
    | refine State.setTrio_good ?_
    | refine failoverBack_good ?_
    | refine rolesThird_good ?_
    | refine State.thenDo_good ?_ ?_
    | refine State.irq_good ?_
    | refine coreFails_good ?_
    | refine good_foldl ?_ ?_
    | refine good_foldl_fst ?_ ?_
    | refine good_foldl_snd ?_ ?_
    | intro _
    | simp only []
    | split
    | simp only [good_mk_iff])

theorem unlessPortGated_good {a1} {s : State} {s1 : State} (h : Good p s) (h1 : Good p s1) : Good p (unlessPortGated a1 s s1) := by
  unfold unlessPortGated
  repeat' (with_reducible first
    | assumption
    | refine good_ite ?_ ?_
    | refine good_foldl ?_ ?_
    | refine good_foldl_fst ?_ ?_
    | refine good_foldl_snd ?_ ?_
    | intro _
    | simp only []
    | split
    | simp only [good_mk_iff])

theorem State.raiseAt_good {s : State} {a1} {a2} (h : Good p s) : Good p (State.raiseAt s a1 a2) := by
  unfold State.raiseAt
  repeat' (with_reducible first
    | assumption
    | refine good_ite ?_ ?_
    | refine State.raiseA_good ?_
    | refine good_foldl ?_ ?_
    | refine good_foldl_fst ?_ ?_
    | refine good_foldl_snd ?_ ?_
    | intro _
    | simp only []
    | split
    | simp only [good_mk_iff])

theorem releaseHeld_good {a1} {s : State} (h : Good p s) : Good p (releaseHeld a1 s) := by
  unfold releaseHeld
  repeat' (with_reducible first
    | assumption
    | refine good_ite ?_ ?_
    | refine performHelds_good ?_
    | refine good_foldl ?_ ?_
    | refine good_foldl_fst ?_ ?_
    | refine good_foldl_snd ?_ ?_
    | intro _
    | simp only []
    | split
    | simp only [good_mk_iff])

theorem pgDrained_good {a1} {s : State} (h : Good p s) : Good p (pgDrained a1 s) := by
  unfold pgDrained
  repeat' (with_reducible first
    | assumption
    | refine good_ite ?_ ?_
    | refine setStat_good ?_
    | refine pgEnd_good ?_
    | refine State.setFld_good ?_
    | refine good_foldl ?_ ?_
    | refine good_foldl_fst ?_ ?_
    | refine good_foldl_snd ?_ ?_
    | intro _
    | simp only []
    | split
    | simp only [good_mk_iff])

theorem State.unlessGated_good {s : State} {s1 : State} (h : Good p s) (h1 : Good p s1) : Good p (State.unlessGated s s1) := by
  unfold State.unlessGated
  repeat' (with_reducible first
    | assumption
    | refine good_ite ?_ ?_
    | refine good_foldl ?_ ?_
    | refine good_foldl_fst ?_ ?_
    | refine good_foldl_snd ?_ ?_
    | intro _
    | simp only []
    | split
    | simp only [good_mk_iff])

theorem groupTime_good {a1} {a2} {a3} {s : State} (h : Good p s) : Good p (groupTime a1 a2 a3 s).2 := by
  unfold groupTime
  repeat' (with_reducible first
    | assumption
    | refine good_ite ?_ ?_
    | refine groupRetime_good ?_
    | refine good_foldl ?_ ?_
    | refine good_foldl_fst ?_ ?_
    | refine good_foldl_snd ?_ ?_
    | intro _
    | simp only []
    | split
    | simp only [good_mk_iff])

theorem groupTime_good_eq {a1} {a2} {a3} {s : State} {t : State} {b} (e : (groupTime a1 a2 a3 s) = (b, t)) (h : Good p s) : Good p t := by
  have := groupTime_good (a1 := a1) (a2 := a2) (a3 := a3) (s := s) h
  rw [e] at this
  exact this

theorem linkLost_good {a1} {s : State} (h : Good p s) : Good p (linkLost a1 s) := by
  unfold linkLost
  repeat' (with_reducible first
    | assumption
    | refine good_ite ?_ ?_
    | refine State.setFld_good ?_
    | refine ringFlush_good ?_
    | refine good_foldl ?_ ?_
    | refine good_foldl_fst ?_ ?_
    | refine good_foldl_snd ?_ ?_
    | intro _
    | simp only []
    | split
    | simp only [good_mk_iff])

theorem convReport_good {q x l c} {s : State} (h : Good p s) : Good p (convReport q x l c s).2.2 := by
  unfold convReport
  repeat' (with_reducible first
    | exact h
    | refine laneOp_good ?_
    | refine laneOp_good_eq (by assumption) ?_
    | intro _
    | simp only []
    | split)

theorem ageReport_good {q m c} {s : State} (h : Good p s) : Good p (ageReport q m c s).2 := by
  unfold ageReport
  split
  · exact laneConvert_good_eq (by assumption) (fun _ _ _ k => convReport_good k) h
  · exact State.wr_good (laneConvert_good_eq (by assumption) (fun _ _ _ k => convReport_good k) h)

theorem ageReport_good_eq {q m c b} {s t : State} (e : ageReport q m c s = (b, t)) (h : Good p s) : Good p t := by
  have := ageReport_good (q := q) (m := m) (c := c) h
  rw [e] at this
  exact this

theorem recReport_good {a1} {a2} {a3} {a4} {a5} {s : State} (h : Good p s) : Good p (recReport a1 a2 a3 a4 a5 s).2 := by
  unfold recReport
  repeat' (with_reducible first
    | assumption
    | refine good_ite ?_ ?_
    | refine State.incSat_good ?_
    | refine State.setRing_good ?_
    | refine ageReport_good ?_
    | refine ageReport_good_eq (by assumption) ?_
    | refine good_foldl ?_ ?_
    | refine good_foldl_fst ?_ ?_
    | refine good_foldl_snd ?_ ?_
    | intro _
    | simp only []
    | split
    | simp only [good_mk_iff])

theorem recReport_good_eq {a1} {a2} {a3} {a4} {a5} {s : State} {t : State} {b} (e : (recReport a1 a2 a3 a4 a5 s) = (b, t)) (h : Good p s) : Good p t := by
  have := recReport_good (a1 := a1) (a2 := a2) (a3 := a3) (a4 := a4) (a5 := a5) (s := s) h
  rw [e] at this
  exact this

theorem recDesc_good {a1} {a2} {a3} {a4} {s : State} (h : Good p s) : Good p (recDesc a1 a2 a3 a4 s) := by
  unfold recDesc
  repeat' (with_reducible first
    | assumption
    | refine good_ite ?_ ?_
    | refine State.setNode_good ?_
    | refine State.setRing_good ?_
    | refine descNext_good ?_
    | refine State.setFld_good ?_
    | refine ringFinish_good ?_
    | refine State.wr_good ?_
    | refine good_foldl ?_ ?_
    | refine good_foldl_fst ?_ ?_
    | refine good_foldl_snd ?_ ?_
    | intro _
    | simp only []
    | split
    | simp only [good_mk_iff])

theorem upRecord_good {a1} {a2} {a3} {a4} {a5} {a6} {s : State} (h : Good p s) : Good p (upRecord a1 a2 a3 a4 a5 a6 s).2 := by
  unfold upRecord
  repeat' (with_reducible first
    | assumption
    | refine good_ite ?_ ?_
    | refine ringLog_good ?_
    | refine recReport_good ?_
    | refine recReport_good_eq (by assumption) ?_
    | refine recAck_good ?_
    | refine recStatus_good ?_
    | refine recReply_good ?_
    | refine recDesc_good ?_
    | refine recVendor_good ?_
    | refine State.setRing_good ?_
    | refine good_foldl ?_ ?_
    | refine good_foldl_fst ?_ ?_
    | refine good_foldl_snd ?_ ?_
    | intro _
    | simp only []
    | split
    | simp only [good_mk_iff])

theorem upRecord_good_eq {a1} {a2} {a3} {a4} {a5} {a6} {s : State} {t : State} {b} (e : (upRecord a1 a2 a3 a4 a5 a6 s) = (b, t)) (h : Good p s) : Good p t := by
  have := upRecord_good (a1 := a1) (a2 := a2) (a3 := a3) (a4 := a4) (a5 := a5) (a6 := a6) (s := s) h
  rw [e] at this
  exact this

theorem reload_good {s : State} {a1} (h : Good p s) : Good p (reload s a1) := by
  unfold reload
  repeat' (with_reducible first
    | assumption
    | refine good_ite ?_ ?_
    | refine State.setThread_good ?_
    | refine good_foldl ?_ ?_
    | refine good_foldl_fst ?_ ?_
    | refine good_foldl_snd ?_ ?_
    | intro _
    | simp only []
    | split
    | simp only [good_mk_iff])

theorem pairFails_good {a1} {a2} {a3} {s : State} (h : Good p s) : Good p (pairFails a1 a2 a3 s) := by
  unfold pairFails
  repeat' (with_reducible first
    | assumption
    | refine good_ite ?_ ?_
    | refine abortCores_good ?_
    | refine State.incSat_good ?_
    | refine State.setTrio_good ?_
    | refine trioLoses_good ?_
    | refine undoAll_good ?_
    | refine trioEvt_good ?_
    | refine State.clearTlbs_good ?_
    | refine reload_good ?_
    | refine State.wr_good ?_
    | refine State.free_good ?_
    | refine State.free_good_eq (by assumption) ?_
    | refine State.setFld_good ?_
    | refine good_foldl ?_ ?_
    | refine good_foldl_fst ?_ ?_
    | refine good_foldl_snd ?_ ?_
    | intro _
    | simp only []
    | split
    | simp only [good_mk_iff])

theorem indexEvent_good {a1} {a2} {s : State} (h : Good p s) : Good p (indexEvent a1 a2 s) := by
  unfold indexEvent
  repeat' (with_reducible first
    | assumption
    | refine good_ite ?_ ?_
    | refine setCount_good ?_
    | refine State.shaftIrq_good ?_
    | refine State.shaftFault_good ?_
    | refine loseRef_good ?_
    | refine good_foldl ?_ ?_
    | refine good_foldl_fst ?_ ?_
    | refine good_foldl_snd ?_ ?_
    | intro _
    | simp only []
    | split
    | simp only [good_mk_iff])

theorem quadStep_good {a1} {a2} {a3} {a4} {a5} {a6} {s : State} (h : Good p s) : Good p (quadStep a1 a2 a3 a4 a5 a6 s) := by
  unfold quadStep
  repeat' (with_reducible first
    | assumption
    | refine good_ite ?_ ?_
    | refine State.incWrap_good ?_
    | refine State.setShaft_good ?_
    | refine quadError_good ?_
    | refine uncount_good ?_
    | refine countStep_good ?_
    | refine good_foldl ?_ ?_
    | refine good_foldl_fst ?_ ?_
    | refine good_foldl_snd ?_ ?_
    | intro _
    | simp only []
    | split
    | simp only [good_mk_iff])

theorem decodeTrans_good {n l idx} {s : State} (h : Good p s) : Good p (decodeTrans n l idx s).2 := by
  induction l generalizing idx s with
  | nil => exact h
  | cons x t ih =>
    obtain ⟨b, v, ts⟩ := x
    unfold decodeTrans
    cases b
    · exact ih (quadStep_good h)
    · exact ih (quadStep_good h)
    · exact ih (State.setShaft_good h)

theorem decodeTrans_good_eq {n l idx b} {s t : State} (e : decodeTrans n l idx s = (b, t)) (h : Good p s) : Good p t := by
  have := decodeTrans_good (n := n) (l := l) (idx := idx) h
  rw [e] at this
  exact this

theorem decode_good {a1} {a2} {s : State} (h : Good p s) : Good p (decode a1 a2 s) := by
  unfold decode
  repeat' (with_reducible first
    | assumption
    | refine good_ite ?_ ?_
    | refine decodeTrans_good ?_
    | refine decodeTrans_good_eq (by assumption) ?_
    | refine indexEvent_good ?_
    | refine good_foldl ?_ ?_
    | refine good_foldl_fst ?_ ?_
    | refine good_foldl_snd ?_ ?_
    | intro _
    | simp only []
    | split
    | simp only [good_mk_iff])

theorem shaftFront_good {a1} {a2} {a3} {a4} {s : State} (h : Good p s) : Good p (shaftFront a1 a2 a3 a4 s) := by
  unfold shaftFront
  repeat' (with_reducible first
    | assumption
    | refine good_ite ?_ ?_
    | refine shaftCmd_good ?_
    | refine State.setShaft_good ?_
    | refine observe_good ?_
    | refine decode_good ?_
    | refine shaftDisable_good ?_
    | refine ctFlags_good ?_
    | refine copiesDiffer_good ?_
    | refine good_foldl ?_ ?_
    | refine good_foldl_fst ?_ ?_
    | refine good_foldl_snd ?_ ?_
    | intro _
    | simp only []
    | split
    | simp only [good_mk_iff])

theorem shaftTick_good {a1} {s : State} (h : Good p s) : Good p (shaftTick a1 s) := by
  unfold shaftTick
  repeat' (with_reducible first
    | assumption
    | refine good_ite ?_ ?_
    | refine shaftFront_good ?_
    | refine pairStep_good ?_
    | refine angleSteps_good ?_
    | refine publish_good ?_
    | refine State.takeSnap_good ?_
    | refine good_foldl ?_ ?_
    | refine good_foldl_fst ?_ ?_
    | refine good_foldl_snd ?_ ?_
    | intro _
    | simp only []
    | split
    | simp only [good_mk_iff])

theorem patrolHit_good {a1} {a2} {a3} {s : State} (h : Good p s) : Good p (patrolHit a1 a2 a3 s) := by
  unfold patrolHit
  repeat' (with_reducible first
    | assumption
    | refine good_ite ?_ ?_
    | refine State.raiseA_good ?_
    | refine State.irq_good ?_
    | refine State.setFld_good ?_
    | refine State.incSat_good ?_
    | refine State.markBad_good ?_
    | refine good_foldl ?_ ?_
    | refine good_foldl_fst ?_ ?_
    | refine good_foldl_snd ?_ ?_
    | intro _
    | simp only []
    | split
    | simp only [good_mk_iff])

theorem aauPage_good {a1} {a2} {s : State} (h : Good p s) : Good p (aauPage a1 a2 s) := by
  unfold aauPage
  repeat' (with_reducible first
    | assumption
    | refine good_ite ?_ ?_
    | refine State.wr_good ?_
    | refine good_foldl ?_ ?_
    | refine good_foldl_fst ?_ ?_
    | refine good_foldl_snd ?_ ?_
    | intro _
    | simp only []
    | split
    | simp only [good_mk_iff])

theorem remapSwitch_good {s : State} (h : Good p s) : Good p (remapSwitch s) := by
  unfold remapSwitch
  repeat' (with_reducible first
    | assumption
    | refine good_ite ?_ ?_
    | refine State.thenDo_good ?_ ?_
    | refine checkpoint_good ?_
    | refine State.setTrio_good ?_
    | refine State.setFld_good ?_
    | refine aauPage_good ?_
    | refine State.irq_good ?_
    | refine trioEvt_good ?_
    | refine good_foldl ?_ ?_
    | refine good_foldl_fst ?_ ?_
    | refine good_foldl_snd ?_ ?_
    | intro _
    | simp only []
    | split
    | simp only [good_mk_iff])

theorem arrayHit_good {a1} {s : State} (h : Good p s) : Good p (arrayHit a1 s) := by
  unfold arrayHit
  repeat' (with_reducible first
    | assumption
    | refine good_ite ?_ ?_
    | refine State.setLines_good ?_
    | refine State.markBad_good ?_
    | refine good_foldl ?_ ?_
    | refine good_foldl_fst ?_ ?_
    | refine good_foldl_snd ?_ ?_
    | intro _
    | simp only []
    | split
    | simp only [good_mk_iff])

theorem seqTake_good {s : State} (h : Good p s) : Good p (seqTake s) := by
  unfold seqTake
  repeat' (with_reducible first
    | assumption
    | refine good_ite ?_ ?_
    | refine seqRead_good ?_
    | refine seqRead_good_eq (by assumption) ?_
    | refine seqFail_good ?_
    | refine seqEmit_good ?_
    | refine State.setFld_good ?_
    | refine State.setSeq_good ?_
    | refine good_foldl ?_ ?_
    | refine good_foldl_fst ?_ ?_
    | refine good_foldl_snd ?_ ?_
    | intro _
    | simp only []
    | split
    | simp only [good_mk_iff])

theorem laneLost_good {a1} {a2} {s : State} (h : Good p s) : Good p (laneLost a1 a2 s) := by
  unfold laneLost
  repeat' (with_reducible first
    | assumption
    | refine good_ite ?_ ?_
    | refine laneLock_good ?_
    | refine ringEndOut_good ?_
    | refine good_foldl ?_ ?_
    | refine good_foldl_fst ?_ ?_
    | refine good_foldl_snd ?_ ?_
    | intro _
    | simp only []
    | split
    | simp only [good_mk_iff])

theorem handDone_good {a1} {s : State} (h : Good p s) : Good p (handDone a1 s) := by
  unfold handDone
  repeat' (with_reducible first
    | assumption
    | refine good_ite ?_ ?_
    | refine State.irq_good ?_
    | refine State.setFld_good ?_
    | refine State.setTrio_good ?_
    | refine good_foldl ?_ ?_
    | refine good_foldl_fst ?_ ?_
    | refine good_foldl_snd ?_ ?_
    | intro _
    | simp only []
    | split
    | simp only [good_mk_iff])

theorem sendBuf_good {k i} {s : State} (h : Good p s) : Good p (sendBuf k i s) := by
  induction i generalizing s with
  | zero => exact h
  | succ i ih =>
    unfold sendBuf
    simp only []
    split
    · exact h
    · split
      · exact h
      · split
        · exact holdAt_good (State.setThread_good h)
        · exact ih (performOut_good (State.setThread_good h))

theorem sendAll_good {a1} {s : State} (h : Good p s) : Good p (sendAll a1 s) := by
  unfold sendAll
  repeat' (with_reducible first
    | assumption
    | refine good_ite ?_ ?_
    | refine sendBuf_good ?_
    | refine good_foldl ?_ ?_
    | refine good_foldl_fst ?_ ?_
    | refine good_foldl_snd ?_ ?_
    | intro _
    | simp only []
    | split
    | simp only [good_mk_iff])

theorem State.ioTable_good_eq {s : State} {a1} {a2} {t : State} {b} (e : (State.ioTable s a1 a2) = (b, t)) (h : Good p s) : Good p t := by
  have := State.ioTable_good (s := s) (a1 := a1) (a2 := a2) h
  rw [e] at this
  exact this

theorem fecCount_good {a1} {a2} {s : State} (h : Good p s) : Good p (fecCount a1 a2 s) := by
  unfold fecCount
  repeat' (with_reducible first
    | assumption
    | refine good_ite ?_ ?_
    | refine State.free_good ?_
    | refine State.free_good_eq (by assumption) ?_
    | refine State.setFld_good ?_
    | refine good_foldl ?_ ?_
    | refine good_foldl_fst ?_ ?_
    | refine good_foldl_snd ?_ ?_
    | intro _
    | simp only []
    | split
    | simp only [good_mk_iff])

theorem io33Lost_good {s : State} (h : Good p s) : Good p (io33Lost s) := by
  unfold io33Lost
  repeat' (with_reducible first
    | assumption
    | refine good_ite ?_ ?_
    | refine State.raise_good ?_
    | refine collCycle_good ?_
    | refine State.raiseCond_good ?_
    | refine good_foldl ?_ ?_
    | refine good_foldl_fst ?_ ?_
    | refine good_foldl_snd ?_ ?_
    | intro _
    | simp only []
    | split
    | simp only [good_mk_iff])

theorem gauzeFinds_good {a1} {a2} {a3} {s : State} (h : Good p s) : Good p (gauzeFinds a1 a2 a3 s) := by
  unfold gauzeFinds
  repeat' (with_reducible first
    | assumption
    | refine good_ite ?_ ?_
    | refine State.setDev_good ?_
    | refine State.raise_good ?_
    | refine good_foldl ?_ ?_
    | refine good_foldl_fst ?_ ?_
    | refine good_foldl_snd ?_ ?_
    | intro _
    | simp only []
    | split
    | simp only [good_mk_iff])

theorem gauzeBegin_good {s : State} (h : Good p s) : Good p (gauzeBegin s) := by
  unfold gauzeBegin
  repeat' (with_reducible first
    | assumption
    | refine good_ite ?_ ?_
    | refine pairStop_good ?_
    | refine ethOff_good ?_
    | refine portOff_good ?_
    | refine State.setThread_good ?_
    | refine State.wr_good ?_
    | refine State.setDev_good ?_
    | refine good_foldl ?_ ?_
    | refine good_foldl_fst ?_ ?_
    | refine good_foldl_snd ?_ ?_
    | intro _
    | simp only []
    | split
    | simp only [good_mk_iff])

theorem condCeases_good {a1} {s : State} (h : Good p s) : Good p (condCeases a1 s) := by
  unfold condCeases
  repeat' (with_reducible first
    | assumption
    | refine good_ite ?_ ?_
    | refine State.endCond_good ?_
    | refine State.modColl_good ?_
    | refine good_foldl ?_ ?_
    | refine good_foldl_fst ?_ ?_
    | refine good_foldl_snd ?_ ?_
    | intro _
    | simp only []
    | split
    | simp only [good_mk_iff])

theorem railOut_good {a1} {a2} {s : State} (h : Good p s) : Good p (railOut a1 a2 s) := by
  unfold railOut
  repeat' (with_reducible first
    | assumption
    | refine good_ite ?_ ?_
    | refine State.setDev_good ?_
    | refine io33Lost_good ?_
    | refine collCycle_good ?_
    | refine State.raiseCond_good ?_
    | refine good_foldl ?_ ?_
    | refine good_foldl_fst ?_ ?_
    | refine good_foldl_snd ?_ ?_
    | intro _
    | simp only []
    | split
    | simp only [good_mk_iff])

theorem flashDone_good {a1} {a2} {s : State} (h : Good p s) : Good p (flashDone a1 a2 s) := by
  unfold flashDone
  repeat' (with_reducible first
    | assumption
    | refine good_ite ?_ ?_
    | refine State.setFld_good ?_
    | refine State.setFlashCmd_good ?_
    | refine State.irq_good ?_
    | refine flashPut_good ?_
    | refine State.freeList_good ?_
    | refine State.freeList_good_eq (by assumption) ?_
    | refine State.free_good ?_
    | refine State.free_good_eq (by assumption) ?_
    | refine State.raise_good ?_
    | refine good_foldl ?_ ?_
    | refine good_foldl_fst ?_ ?_
    | refine good_foldl_snd ?_ ?_
    | intro _
    | simp only []
    | split
    | simp only [good_mk_iff])

theorem enterFelt_good {a1} {s : State} (h : Good p s) : Good p (enterFelt a1 s) := by
  unfold enterFelt
  repeat' (with_reducible first
    | assumption
    | refine good_ite ?_ ?_
    | refine timersFelt_good ?_
    | refine seqFelt_good ?_
    | refine queuesFelt_good ?_
    | refine enterMode_good ?_
    | refine State.setThread_good ?_
    | refine handAll_good ?_
    | refine setCe_good ?_
    | refine State.irq_good ?_
    | refine State.modColl_good ?_
    | refine romUp_good ?_
    | refine State.setDev_good ?_
    | refine good_foldl ?_ ?_
    | refine good_foldl_fst ?_ ?_
    | refine good_foldl_snd ?_ ?_
    | intro _
    | simp only []
    | split
    | simp only [good_mk_iff])

theorem transitionEnds_good {s : State} (h : Good p s) : Good p (transitionEnds s) := by
  unfold transitionEnds
  repeat' (with_reducible first
    | assumption
    | refine good_ite ?_ ?_
    | refine handAll_good ?_
    | refine State.setDev_good ?_
    | refine modeResult_good ?_
    | refine gauzeBegin_good ?_
    | refine enterMode_good ?_
    | refine enterFelt_good ?_
    | refine enterVelvet_good ?_
    | refine good_foldl ?_ ?_
    | refine good_foldl_fst ?_ ?_
    | refine good_foldl_snd ?_ ?_
    | intro _
    | simp only []
    | split
    | simp only [good_mk_iff])

theorem bootStart_good_eq {a1} {s : State} {t : State} {b} (e : (bootStart a1 s) = (b, t)) (h : Good p s) : Good p t := by
  have := bootStart_good (a1 := a1) (s := s) h
  rw [e] at this
  exact this

theorem velvetExit_good {a1} {s : State} (h : Good p s) : Good p (velvetExit a1 s) := by
  unfold velvetExit
  repeat' (with_reducible first
    | assumption
    | refine good_ite ?_ ?_
    | refine wakePages_good ?_
    | refine State.wr_good ?_
    | refine State.modColl_good ?_
    | refine bootStart_good ?_
    | refine bootStart_good_eq (by assumption) ?_
    | refine enterMode_good ?_
    | refine dramUp_good ?_
    | refine jumpWake_good ?_
    | refine State.setFld_good ?_
    | refine romUp_good ?_
    | refine State.setDev_good ?_
    | refine good_foldl ?_ ?_
    | refine good_foldl_fst ?_ ?_
    | refine good_foldl_snd ?_ ?_
    | intro _
    | simp only []
    | split
    | simp only [good_mk_iff])

theorem trioStopped_good {a1} {s : State} (h : Good p s) : Good p (trioStopped a1 s) := by
  unfold trioStopped
  repeat' (with_reducible first
    | assumption
    | refine good_ite ?_ ?_
    | refine State.thenDo_good ?_ ?_
    | refine checkpoint_good ?_
    | refine releaseCommit_good ?_
    | refine sendAll_good ?_
    | refine State.setThread_good ?_
    | refine releaseHeld_good ?_
    | refine State.setFld_good ?_
    | refine setStat_good ?_
    | refine trioReset_good ?_
    | refine State.setTrio_good ?_
    | refine good_foldl ?_ ?_
    | refine good_foldl_fst ?_ ?_
    | refine good_foldl_snd ?_ ?_
    | intro _
    | simp only []
    | split
    | simp only [good_mk_iff])

theorem State.record_good {s : State} (h : Good p s) : Good p (State.record s).2 := by
  unfold State.record
  repeat' (with_reducible first
    | assumption
    | refine good_ite ?_ ?_
    | refine State.freeList_good ?_
    | refine State.freeList_good_eq (by assumption) ?_
    | refine good_foldl ?_ ?_
    | refine good_foldl_fst ?_ ?_
    | refine good_foldl_snd ?_ ?_
    | intro _
    | simp only []
    | split
    | simp only [good_mk_iff])

theorem State.record_good_eq {s : State} {t : State} {b} (e : (State.record s) = (b, t)) (h : Good p s) : Good p t := by
  have := State.record_good (s := s) h
  rw [e] at this
  exact this

theorem gauzeStep_good {a1} {s : State} (h : Good p s) : Good p (gauzeStep a1 s) := by
  unfold gauzeStep
  repeat' (with_reducible first
    | assumption
    | refine good_ite ?_ ?_
    | refine State.setDev_good ?_
    | refine faultBalls_good ?_
    | refine State.modColl_good ?_
    | refine gauzeFinds_good ?_
    | refine handTo_good ?_
    | refine State.setFld_good ?_
    | refine burn_good ?_
    | refine State.record_good ?_
    | refine State.record_good_eq (by assumption) ?_
    | refine writeRecord_good ?_
    | refine good_foldl ?_ ?_
    | refine good_foldl_fst ?_ ?_
    | refine good_foldl_snd ?_ ?_
    | intro _
    | simp only []
    | split
    | simp only [good_mk_iff])

theorem imageBurn_good {a1} {a2} {s : State} (h : Good p s) : Good p (imageBurn a1 a2 s) := by
  unfold imageBurn
  repeat' (with_reducible first
    | assumption
    | refine good_ite ?_ ?_
    | refine flashPut_good ?_
    | refine State.freeList_good ?_
    | refine State.freeList_good_eq (by assumption) ?_
    | refine State.raise_good ?_
    | refine good_foldl ?_ ?_
    | refine good_foldl_fst ?_ ?_
    | refine good_foldl_snd ?_ ?_
    | intro _
    | simp only []
    | split
    | simp only [good_mk_iff])

theorem State.tableRead_good_eq {s : State} {a1} {a2} {a3} {t : State} {b} (e : (State.tableRead s a1 a2 a3) = (b, t)) (h : Good p s) : Good p t := by
  have := State.tableRead_good (s := s) (a1 := a1) (a2 := a2) (a3 := a3) h
  rw [e] at this
  exact this

theorem joinCores_good {a1} {s : State} (h : Good p s) : Good p (joinCores a1 s) := by
  unfold joinCores
  repeat' (with_reducible first
    | assumption
    | refine good_ite ?_ ?_
    | refine State.setThread_good ?_
    | refine dropReads_good ?_
    | refine good_foldl ?_ ?_
    | refine good_foldl_fst ?_ ?_
    | refine good_foldl_snd ?_ ?_
    | intro _
    | simp only []
    | split
    | simp only [good_mk_iff])

theorem ethOffEnd_good {a1} {s : State} (h : Good p s) : Good p (ethOffEnd a1 s) := by
  unfold ethOffEnd
  repeat' (with_reducible first
    | assumption
    | refine good_ite ?_ ?_
    | refine State.setFld_good ?_
    | refine linkGone_good ?_
    | refine State.setEthp_good ?_
    | refine good_foldl ?_ ?_
    | refine good_foldl_fst ?_ ?_
    | refine good_foldl_snd ?_ ?_
    | intro _
    | simp only []
    | split
    | simp only [good_mk_iff])

theorem splitCores_good {a1} {s : State} (h : Good p s) : Good p (splitCores a1 s) := by
  unfold splitCores
  repeat' (with_reducible first
    | assumption
    | refine good_ite ?_ ?_
    | refine dropReads_good ?_
    | refine State.setThread_good ?_
    | refine State.setTlbs_good ?_
    | refine good_foldl ?_ ?_
    | refine good_foldl_fst ?_ ?_
    | refine good_foldl_snd ?_ ?_
    | intro _
    | simp only []
    | split
    | simp only [good_mk_iff])

theorem ethReceive_good {a1} {a2} {a3} {a4} {s : State} (h : Good p s) : Good p (ethReceive a1 a2 a3 a4 s) := by
  unfold ethReceive
  repeat' (with_reducible first
    | assumption
    | refine good_ite ?_ ?_
    | refine fecCount_good ?_
    | refine State.incSat_good ?_
    | refine State.incWrap_good ?_
    | refine secReceive_good ?_
    | refine secReceive_good_eq (by assumption) ?_
    | refine classify_good ?_
    | refine prpReceive_good ?_
    | refine prpReceive_good_eq (by assumption) ?_
    | refine netReceive_good ?_
    | refine good_foldl ?_ ?_
    | refine good_foldl_fst ?_ ?_
    | refine good_foldl_snd ?_ ?_
    | intro _
    | simp only []
    | split
    | simp only [good_mk_iff])

theorem netTimeout_good {s : State} (h : Good p s) : Good p (netTimeout s) := by
  unfold netTimeout
  repeat' (with_reducible first
    | assumption
    | refine good_ite ?_ ?_
    | refine uploadDrop_good ?_
    | refine trySources_good ?_
    | refine State.setFld_good ?_
    | refine good_foldl ?_ ?_
    | refine good_foldl_fst ?_ ?_
    | refine good_foldl_snd ?_ ?_
    | intro _
    | simp only []
    | split
    | simp only [good_mk_iff])

theorem upFrames_good {a1} {a2} {a3} {a4} {a5} {s : State} (h : Good p s) : Good p (upFrames a1 a2 a3 a4 a5 s) := by
  unfold upFrames
  repeat' (with_reducible first
    | assumption
    | refine good_ite ?_ ?_
    | refine badFrame_good ?_
    | refine upRecord_good ?_
    | refine upRecord_good_eq (by assumption) ?_
    | refine State.setNode_good ?_
    | refine good_foldl ?_ ?_
    | refine good_foldl_fst ?_ ?_
    | refine good_foldl_snd ?_ ?_
    | intro _
    | simp only []
    | split
    | simp only [good_mk_iff])

theorem recovery_good {s : State} (h : Good p s) : Good p (recovery s) := by
  unfold recovery
  repeat' (with_reducible first
    | assumption
    | refine good_ite ?_ ?_
    | refine State.setThread_good ?_
    | refine State.modColl_good ?_
    | refine enterRing_good ?_
    | refine good_foldl ?_ ?_
    | refine good_foldl_fst ?_ ?_
    | refine good_foldl_snd ?_ ?_
    | intro _
    | simp only []
    | split
    | simp only [good_mk_iff])

theorem wakePath_good {a1} {s : State} (h : Good p s) : Good p (wakePath a1 s) := by
  unfold wakePath
  repeat' (with_reducible first
    | assumption
    | refine good_ite ?_ ?_
    | refine bootStart_good ?_
    | refine bootStart_good_eq (by assumption) ?_
    | refine enterMode_good ?_
    | refine jumpWake_good ?_
    | refine dramUp_good ?_
    | refine boots_good ?_
    | refine State.setDev_good ?_
    | refine State.setFld_good ?_
    | refine good_foldl ?_ ?_
    | refine good_foldl_fst ?_ ?_
    | refine good_foldl_snd ?_ ?_
    | intro _
    | simp only []
    | split
    | simp only [good_mk_iff])

theorem handOver_good {a1} {s : State} (h : Good p s) : Good p (handOver a1 s) := by
  unfold handOver
  repeat' (with_reducible first
    | assumption
    | refine good_ite ?_ ?_
    | refine State.setFld_good ?_
    | refine checkpoint_good ?_
    | refine oddThird_good ?_
    | refine State.thenDo_good ?_ ?_
    | refine sendAll_good ?_
    | refine joinCores_good ?_
    | refine handDone_good ?_
    | refine releaseHeld_good ?_
    | refine splitCores_good ?_
    | refine good_foldl ?_ ?_
    | refine good_foldl_fst ?_ ?_
    | refine good_foldl_snd ?_ ?_
    | intro _
    | simp only []
    | split
    | simp only [good_mk_iff])

theorem feltEntry_good {s : State} (h : Good p s) : Good p (feltEntry s) := by
  unfold feltEntry
  repeat' (with_reducible first
    | assumption
    | refine good_ite ?_ ?_
    | refine abandon_good ?_
    | refine State.modColl_good ?_
    | refine enterFelt_good ?_
    | refine transitionEnds_good ?_
    | refine good_foldl ?_ ?_
    | refine good_foldl_fst ?_ ?_
    | refine good_foldl_snd ?_ ?_
    | intro _
    | simp only []
    | split
    | simp only [good_mk_iff])

theorem gauzeDone_good {s : State} (h : Good p s) : Good p (gauzeDone s) := by
  unfold gauzeDone
  repeat' (with_reducible first
    | assumption
    | refine good_ite ?_ ?_
    | refine faultBalls_good ?_
    | refine State.setFld_good ?_
    | refine State.modColl_good ?_
    | refine deviceReset_good ?_
    | refine good_foldl ?_ ?_
    | refine good_foldl_fst ?_ ?_
    | refine good_foldl_snd ?_ ?_
    | intro _
    | simp only []
    | split
    | simp only [good_mk_iff])

theorem stoPulse_good {a1} {s : State} (h : Good p s) : Good p (stoPulse a1 s) := by
  unfold stoPulse
  repeat' (with_reducible first
    | assumption
    | refine good_ite ?_ ?_
    | refine State.emit_good ?_
    | refine State.modColl_good ?_
    | refine State.free_good ?_
    | refine State.free_good_eq (by assumption) ?_
    | refine collCycle_good ?_
    | refine State.raiseCond_good ?_
    | refine good_foldl ?_ ?_
    | refine good_foldl_fst ?_ ?_
    | refine good_foldl_snd ?_ ?_
    | intro _
    | simp only []
    | split
    | simp only [good_mk_iff])

theorem State.ioBytes_good_eq {a0 l} {s t : State} {b} (e : s.ioBytes a0 l = (b, t)) (h : Good p s) : Good p t := by
  have := State.ioBytes_good (a0 := a0) (l := l) h
  rw [e] at this
  exact this

theorem convCheck_good {q x l c} {s : State} (h : Good p s) : Good p (convCheck q x l c s).2.2 := by
  unfold convCheck
  repeat' (with_reducible first
    | exact h
    | refine laneOp_good ?_
    | refine laneOp_good_eq (by assumption) ?_
    | refine groupTime_good ?_
    | refine groupTime_good_eq (by assumption) ?_
    | refine convPredict_good ?_
    | refine convPredict_good_eq (by assumption) ?_
    | intro _
    | simp only []
    | split)

theorem convCheck_good_eq {q x l c b d} {s t : State} (e : convCheck q x l c s = (b, d, t)) (h : Good p s) : Good p t := by
  have := convCheck_good (q := q) (x := x) (l := l) (c := c) h
  rw [e] at this
  exact this

theorem queueCheck_good {q c} {s : State} (h : Good p s) : Good p (queueCheck q c s) := by
  unfold queueCheck
  split
  · have k := State.setFld_good (a1 := B.qd q) (a2 := QD.QSTATE_PARKED) (a3 := 0) (backlog_good (a0 := q) h)
    refine good_ite h (good_ite (qDataError_good (State.raiseAt_good h)) (good_ite (park_good (backlog_good h)) ?_))
    split
    · exact laneConvert_good_eq (by assumption) (fun _ _ _ k => convCheck_good k) k
    · exact park_good (laneConvert_good_eq (by assumption) (fun _ _ _ k => convCheck_good k) k)
    · exact checkEntry_good (laneConvert_good_eq (by assumption) (fun _ _ _ k => convCheck_good k) k)
  · exact h

theorem convReport_good_eq {q x l c b d} {s t : State} (e : convReport q x l c s = (b, d, t)) (h : Good p s) : Good p t := by
  have := convReport_good (q := q) (x := x) (l := l) (c := c) h
  rw [e] at this
  exact this

theorem State.ioWalk_good_eq {a1 f k l b} {s t : State} (e : State.ioWalk s a1 f k l = (b, t)) (h : Good p s) : Good p t := by
  have := State.ioWalk_good (a1 := a1) (f := f) (k := k) (l := l) h
  rw [e] at this
  exact this

theorem convGroup_good_eq {g l c b d} {s t : State} (e : convGroup g l c s = (b, d, t)) (h : Good p s) : Good p t := by
  have := convGroup_good (g := g) (l := l) (c := c) h
  rw [e] at this
  exact this

end Sys2Proof.Machine
end

