-- ==== Sys2Proof/WellFormed.lean ====
section
/-! DEFINITION. Which commands are well formed: what a command's operands owe each other before the device sees them. Values that the
device itself checks and refuses (R7) are no part of it. -/
namespace Sys2Proof

open Machine (Acc pageKind regRow)

/-- A core instruction word spells its command's row (R106, R109, R110). -/
def spells (p : Machine.Dec → Bool) (w : W32) : Bool :=
  match Machine.decodeOp w with
  | .ok d => p d
  | .illegal | .absent => false

/-- A page with the common header (R472, R473). -/
def hasHeader (p : Nat) : Bool := decide (p < 0x400) && (pageKind p).isSome

/-- The register window (R466, R467). -/
def inRegs (a : Nat) : Bool := decide (0x40000000 ≤ a) && decide (a < 0x40500000)

/-- The access kind of the register at an address (R470). -/
def regKind (a : Nat) (k : Acc) : Bool :=
  match regRow ((a - 0x40000000) / 4096) (a % 4096) with
  | some r => r.acc == k
  | none => false

/-- A request whose LEN fits carries a payload of its command (R388). -/
def fits (h : YcpHdr) (b : Bool) : Bool := !h.lenFits || b

def Instr.wf (i : Instr) : Bool :=
  match i with
  | .alu _ w => spells (fun d => d.row == .alu) w
  | .addi _ w => spells (fun d => d.row == .addi) w
  | .andi _ w => spells (fun d => d.row == .andi) w
  | .ori _ w => spells (fun d => d.row == .ori) w
  | .xori _ w => spells (fun d => d.row == .xori) w
  | .shi _ w => spells (fun d => d.row == .shi) w
  | .cmpi _ w => spells (fun d => d.row == .cmpi) w
  | .movw _ w => spells (fun d => d.row == .movw) w
  | .mul _ w => spells (fun d => d.row == .mul) w
  | .mulu _ w => spells (fun d => d.row == .mulu) w
  | .div _ w => spells (fun d => d.row == .div) w
  | .divu _ w => spells (fun d => d.row == .divu) w
  | .rem _ w => spells (fun d => d.row == .rem) w
  | .remu _ w => spells (fun d => d.row == .remu) w
  | .mfs _ w => spells (fun d => d.row == .mfs) w
  | .mts _ w => spells (fun d => d.row == .mts) w
  | .cmpp _ w => spells (fun d => d.row == .cmpp) w
  | .cmppi _ w => spells (fun d => d.row == .cmppi) w
  | .plogic _ w => spells (fun d => d.row == .plogic) w
  | .br _ w => spells (fun d => d.row == .br) w
  | .call _ w => spells (fun d => d.row == .call) w
  | .jmp _ w => spells (fun d => d.row == .jmp) w
  | .callr _ w => spells (fun d => d.row == .callr) w
  | .ret _ w => spells (fun d => d.row == .ret) w
  | .loopReg _ w => spells (fun d => d.row == .loopReg) w
  | .loopi _ w => spells (fun d => d.row == .loopi) w
  | .ldb _ w => spells (fun d => d.row == .load && d.sz == 0 && d.b) w
  | .ldbu _ w => spells (fun d => d.row == .load && d.sz == 0 && !d.b) w
  | .ldh _ w => spells (fun d => d.row == .load && d.sz == 1 && d.b) w
  | .ldhu _ w => spells (fun d => d.row == .load && d.sz == 1 && !d.b) w
  | .ldw _ w => spells (fun d => d.row == .load && d.sz == 2 && d.b) w
  | .ldwu _ w => spells (fun d => d.row == .load && d.sz == 2 && !d.b) w
  | .ldd _ w => spells (fun d => d.row == .load && d.sz == 3) w
  | .ldx _ w => spells (fun d => d.row == .loadx) w
  | .ldxu _ w => spells (fun d => d.row == .loadxu) w
  | .stb _ w => spells (fun d => d.row == .store && d.sz == 0) w
  | .sth _ w => spells (fun d => d.row == .store && d.sz == 1) w
  | .stw _ w => spells (fun d => d.row == .store && d.sz == 2) w
  | .std _ w => spells (fun d => d.row == .store && d.sz == 3) w
  | .stx _ w => spells (fun d => d.row == .storex) w
  | .atomSwap _ w => spells (fun d => d.row == .atom && d.fn == 0) w
  | .atomFadd _ w => spells (fun d => d.row == .atom && d.fn == 1) w
  | .atomCas _ w => spells (fun d => d.row == .atom && d.fn == 2) w
  | .atomFor _ w => spells (fun d => d.row == .atom && d.fn == 3) w
  | .blkcopy _ w => spells (fun d => d.row == .blk && d.fn == 0) w
  | .blkfill _ w => spells (fun d => d.row == .blk && d.fn == 1) w
  | .crcr32 _ w => spells (fun d => d.row == .blk && d.fn == 2) w
  | .crcr32c _ w => spells (fun d => d.row == .blk && d.fn == 3) w
  | .crcr64 _ w => spells (fun d => d.row == .blk && d.fn == 4) w
  | .sync _ w => spells (fun d => d.row == .sync) w
  | .syncTlb _ w => spells (fun d => d.row == .syncTlb) w
  | .ici _ w => spells (fun d => d.row == .ici) w
  | .tlbiAll1 _ w => spells (fun d => d.row == .tlbi && d.fn == 3) w
  | .tlbiVa1 _ w => spells (fun d => d.row == .tlbi && d.fn == 4) w
  | .tlbiIpa2 _ w => spells (fun d => d.row == .tlbi && d.fn == 5) w
  | .tlbiAll _ w => spells (fun d => d.row == .tlbi && d.fn == 6) w
  | .waitIntr _ w => spells (fun d => d.row == .wait) w
  | .tstart _ w => spells (fun d => d.row == .tstart) w
  | .tstop _ w => spells (fun d => d.row == .tstop) w
  | .eret _ w => spells (fun d => d.row == .eret) w
  | .gret _ w => spells (fun d => d.row == .gret) w
  | .brk _ w => spells (fun d => d.row == .brk) w
  | .endProgram _ w => spells (fun d => d.row == .endp) w
  | .gate _ w => spells (fun d => d.row == .gate) w
  | .adiff _ w => spells (fun d => d.row == .aau && d.fn == 0x00) w
  | .aadd _ w => spells (fun d => d.row == .aau && d.fn == 0x01) w
  | .tadd _ w => spells (fun d => d.row == .aau && d.fn == 0x02) w
  | .tdiff _ w => spells (fun d => d.row == .aau && d.fn == 0x03) w
  | .tsubl _ w => spells (fun d => d.row == .aau && d.fn == 0x04) w
  | .mulsh _ w => spells (fun d => d.row == .aau && d.fn == 0x08) w
  | .muluh _ w => spells (fun d => d.row == .aau && d.fn == 0x09) w
  | .divsh _ w => spells (fun d => d.row == .aau && d.fn == 0x0A) w
  | .divuh _ w => spells (fun d => d.row == .aau && d.fn == 0x0B) w
  | .pred _ w => spells (fun d => d.row == .aau && d.fn == 0x10) w
  | .invpred _ w => spells (fun d => d.row == .aau && d.fn == 0x11) w
  | .latm _ w => spells (fun d => d.row == .aau && d.fn == 0x12) w
  | .ageupd _ w => spells (fun d => d.row == .aau && d.fn == 0x13) w
  | .flgrd _ w => spells (fun d => d.row == .aau && d.fn == 0x3C) w
  | .flgwr _ w => spells (fun d => d.row == .aau && d.fn == 0x3D) w
  | .flgclr _ w => spells (fun d => d.row == .aau && d.fn == 0x3E) w
  | .crc32 _ w => spells (fun d => d.row == .crc && d.fn == 0) w
  | .crc32c _ w => spells (fun d => d.row == .crc && d.fn == 1) w
  | .crc64 _ w => spells (fun d => d.row == .crc && d.fn == 2) w
  | .sha384Blk _ w => spells (fun d => d.row == .crypto && d.fn == 8) w
  | .aes256Enc _ w => spells (fun d => d.row == .crypto && d.fn == 9) w
  | .ghashMul _ w => spells (fun d => d.row == .crypto && d.fn == 10) w
  | .append _ w => spells (fun d => d.row == .append) w
  | .appendS _ w => spells (fun d => d.row == .appendS) w
  | .qstat _ w => spells (fun d => d.row == .qstat) w
  | .qspace _ w => spells (fun d => d.row == .qspace) w
  | .memWrite h _ d => fits h (decide (0 < d.length))
  | .qappend h _ n l => fits h (l.length == n.toNat)
  | .patWrite h _ d => fits h (decide (0 < d.length))
  | .imageBegin h _ d => fits h (d.length == 256)
  | .imageData h _ d => fits h (decide (0 < d.length))
  | .debugUnlock h k g => fits h (k.length == 96 && g.length == 96)
  | .faultSourceAssert l => l.all (fun a => (Machine.sevOf a.src.toNat).isSome)
  | .monitorMeasure a b => a.length == 16 && b.length == 16
  | .pgEnSet _ pg _ => hasHeader pg.toNat
  | .pgEnClear _ pg => hasHeader pg.toNat
  | .pgQuiesceSet _ pg => hasHeader pg.toNat
  | .pgQuiesceClear _ pg => hasHeader pg.toNat
  | .drainComplete pg => hasHeader pg.toNat
  | .pgProtWrite _ pg _ => hasHeader pg.toNat
  | .registerWrite _ a _ _ => inRegs a.toNat
  | .readClear _ a => inRegs a.toNat && regKind a.toNat .rc
  | .snapshotRead _ a => inRegs a.toNat && regKind a.toNat .rs
  | .pageReadRefused _ a _ => inRegs a.toNat
  | .conditionCeased n => Machine.srcIsCond n.toNat
  | .powerOnReset | .systemResetPin | .warmResetReq .. | .systemResetReq .. | .bootSequence .. | .netBootTimeout | .romAnnounce
  | .dramInitComplete | .coreDivWrite .. | .rootClockLoss .. | .railOutOfRange .. | .velvetSupplyDip .. | .avsReadback .. | .modeReq ..
  | .modeTransitionComplete | .velvetScrub .. | .wakePin .. | .retentionTimerExpiry | .wakePath .. | .velvetSafeStopExit ..
  | .gauzeStepEnd .. | .gauzeComplete | .trioCfgWrite .. | .handoverComplete .. | .checkpoint .. | .votedDisagreement ..
  | .pairMismatch .. | .failoverReturn .. | .resyncComplete .. | .softRemapSwitch | .voterCopyDisagree .. | .loadDataArrival ..
  | .storePerformed .. | .icacheFill .. | .coprocessorResult .. | .blockChunk .. | .interruptEntry .. | .storeErrorReport ..
  | .asyncStoreErrorEntry .. | .tlbiComplete .. | .ack .. | .eoi .. | .swiSet .. | .swiClr .. | .tableWalkRead .. | .iotInv ..
  | .iotInvComplete | .fabricTimeout .. | .xspiProgram .. | .xspiErase4k .. | .xspiErase64k .. | .xspiCmdComplete .. | .patrolScrub ..
  | .shaftTick .. | .encoderTransition .. | .safeSpeedDiscrepancy .. | .standstill .. | .ssiFrameStart .. | .ssiFrameComplete ..
  | .refNow .. | .clrRef .. | .shaftAlign .. | .learnStart .. | .learnAbort .. | .ctApply .. | .ctDataRead .. | .ctDataWrite ..
  | .revSet .. | .snapAll .. | .queueEnable .. | .queueDisable .. | .queueStart .. | .queueHalt .. | .queueResume .. | .queueFlush ..
  | .queueSkipHead .. | .groupStart .. | .queueAppend .. | .queueCheck .. | .entryRetire .. | .retimeUpdate .. | .cancelCmd ..
  | .cancelComplete | .engProgLoad .. | .seqProgLoad .. | .ringProgLoad .. | .netProgLoad .. | .programLoadDone .. | .seqLoad ..
  | .seqLoadDone | .seqStart .. | .seqPause .. | .seqContinue .. | .seqStop .. | .seqRowTake | .seqAppendRetry | .markInfoRead ..
  | .rxLock .. | .linkLoss .. | .lockRetry .. | .enumerate .. | .enumReturn .. | .enumTimeout .. | .measure .. | .ringArm ..
  | .ringRelease .. | .descRead .. | .timeSend .. | .bgMeasure .. | .ringSlot .. | .upFrame .. | .cancelRepeat .. | .cancelNoack ..
  | .reportWaitExpiry .. | .nodeLost .. | .safePatternRepeat .. | .ringDisableEnd .. | .timerChEnable .. | .timerChDisable ..
  | .timerStart .. | .timerStop .. | .gstart .. | .gstop .. | .timerBusStep .. | .timerAngleStep .. | .timerCapture ..
  | .timerCountRead .. | .timerPreloadWrite .. | .linkChange .. | .trainTimeout .. | .trainRestart .. | .ethFrameRx ..
  | .prpSupervisionTx | .prpNodeForget .. | .announceTimeout .. | .saInstall .. | .saEnable .. | .saDisable .. | .rawtxHeadWrite ..
  | .ycpIdentify .. | .ycpOpen .. | .ycpClose .. | .ycpPing .. | .regRead .. | .regWrite .. | .memRead .. | .patLoad ..
  | .ycpModeReq .. | .imageEnd .. | .imageFlashComplete .. | .debugChal .. | .debugHalt .. | .debugResume .. | .debugStep ..
  | .debugRegRead .. | .debugRegWrite .. | .ycpSafe .. | .safeWatchdog | .sessionPendingTimeout .. | .sessionIdleTimeout ..
  | .heldRequestTimeout .. | .debugLockoutEnd | .feltEntry | .recoveryEntry | .safetyInputAccept .. | .safetyDiscrepancy ..
  | .testPulse .. | .testPulseCheck .. | .stoTestPulse .. | .stoReadbackMismatch .. | .faultReadbackMismatch | .ss1DelayEnd ..
  | .stoAck .. | .swStop .. | .recClose .. | .fswLiveClear .. | .junctionOvertemp | .bistSliceStart .. | .bistSliceEnd ..
  | .tempSample .. | .marginEvaluate | .marginYears | .vsetReq .. | .marginLoadData .. | .marginLoadGo .. | .secVerCmd ..
  | .secVerBurnDone .. | .rxLaneLockLost .. | .rxLaneLockRegained .. | .dramPllLockLoss | .ptpMessageTx .. | .ethDisableTxEnd ..
  | .tapOperation .. => true

end Sys2Proof
end

