-- ==== Sys2Proof/Tests/Slice0.lean ====
section
/-! SUPPORT. Tests: words written out from the encodings, ill-formed commands, the spec's worked examples, and for every statement with
hypotheses concrete states and operands that meet them, clause by clause (wit_<statement>). -/
namespace Sys2Proof.Tests
open Sys2Proof Sys2Proof.Machine

set_option maxRecDepth 100000

/-! ### Words, ill-formed commands and worked examples -/

namespace Dec
def T0 : ThreadId := ⟨0, 0, 0⟩
def w0 : Writer := ⟨0, false, T0⟩
/-- Integer rows (R112 to R116): a word of each row, written out from its encoding, spells that row. -/
theorem test_words_integer :
    [Instr.alu T0 0b0000_000001_00001_00010_00011_1_000001#32,
      Instr.addi T0 0b0000_000010_11111_00010_100000000000#32,
      Instr.andi T0 0b0000_000011_00100_00101_111111111111#32,
      Instr.ori T0 0b0000_000100_00100_00101_000000000001#32,
      Instr.xori T0 0b0000_000101_00100_00101_000000000010#32,
      Instr.shi T0 0b0000_000110_00100_00101_111111_1_00011#32,
      Instr.cmpi T0 0b0000_000111_00000_00101_111111111111#32,
      Instr.movw T0 0b0000_001011_00101_1_0001001000110100#32,
      Instr.mul T0 0b0000_001100_00000_00010_00011_0000000#32,
      Instr.mulu T0 0b0000_001100_00000_00010_00011_0000001#32,
      Instr.div T0 0b0000_001100_00001_00010_00011_0001000#32,
      Instr.divu T0 0b0000_001100_00001_00010_00011_0001001#32,
      Instr.rem T0 0b0000_001100_00001_00010_00011_0001010#32,
      Instr.remu T0 0b0000_001100_00001_00010_00011_0001011#32].all Instr.wf = true := by decide
/-- Special registers, predicates and control flow (R117 to R121, R130): a word of each row, written out from its encoding, spells that row. -/
theorem test_words_control :
    [Instr.mfs T0 0b0000_001101_00001_00000_000_0_00110000#32,
      Instr.mts T0 0b0000_001101_00000_00010_000_1_00000000#32,
      Instr.cmpp T0 0b0000_001110_001_010_00011_00100_00_1011#32,
      Instr.cmppi T0 0b0000_001111_001_000_00011_1010_0111111#32,
      Instr.plogic T0 0b0000_010000_111_001_010_100_0000000000#32,
      Instr.br T0 0b0000_100000_1111111111111111111111#32,
      Instr.call T0 0b0000_100001_0000000000000000000001#32,
      Instr.jmp T0 0b0000_100010_00000_00010_00000_0000000#32,
      Instr.callr T0 0b0000_100010_00000_00010_00000_0000001#32,
      Instr.ret T0 0b0000_100010_00000_00000_00000_0000010#32,
      Instr.loopReg T0 0b0000_100011_00010_00000_000000000011#32,
      Instr.loopi T0 0b0000_100100_1111111111_111111111111#32].all Instr.wf = true := by decide
/-- Loads, stores and atomics (R122, R123): a word of each row, written out from its encoding, spells that row. -/
theorem test_words_memory :
    [Instr.ldb T0 0b0000_010010_00001_010_00011_111111111#32,
      Instr.ldbu T0 0b0000_010011_00001_010_00011_000000001#32,
      Instr.ldh T0 0b0000_010100_00001_010_00011_000000001#32,
      Instr.ldhu T0 0b0000_010101_00001_010_00011_000000001#32,
      Instr.ldw T0 0b0000_010110_00001_010_00011_000000001#32,
      Instr.ldwu T0 0b0000_010111_00001_010_00011_000000001#32,
      Instr.ldd T0 0b0000_011000_00001_010_00011_000000001#32,
      Instr.stb T0 0b0000_011001_00001_010_00011_000000001#32,
      Instr.sth T0 0b0000_011010_00001_010_00011_000000001#32,
      Instr.stw T0 0b0000_011011_00001_010_00011_000000001#32,
      Instr.std T0 0b0000_011100_00001_010_00011_000000001#32,
      Instr.ldx T0 0b0000_011101_00001_010_00011_00100_01_00#32,
      Instr.ldxu T0 0b0000_011110_00001_010_00011_00100_10_00#32,
      Instr.stx T0 0b0000_011111_00001_010_00011_00100_11_00#32,
      Instr.atomSwap T0 0b0000_100101_00001_010_00011_00100_10_00#32,
      Instr.atomFadd T0 0b0000_100101_00001_010_00011_00100_11_01#32,
      Instr.atomCas T0 0b0000_100101_00001_010_00011_00100_10_10#32,
      Instr.atomFor T0 0b0000_100101_00001_010_00011_00100_11_11#32].all Instr.wf = true := by decide
/-- Block, synchronisation and system rows (R125 to R129): a word of each row, written out from its encoding, spells that row. -/
theorem test_words_system :
    [Instr.blkcopy T0 0b0000_100110_00001_00010_00011_0000000#32,
      Instr.blkfill T0 0b0000_100110_00001_00010_00011_0000001#32,
      Instr.crcr32 T0 0b0000_100110_00001_00010_00011_0000010#32,
      Instr.crcr32c T0 0b0000_100110_00001_00010_00011_0000011#32,
      Instr.crcr64 T0 0b0000_100110_00001_00010_00011_0000100#32,
      Instr.sync T0 0b0000_100111_00000_00000_00000_0000000#32,
      Instr.syncTlb T0 0b0000_100111_00000_00000_00000_0000001#32,
      Instr.ici T0 0b0000_100111_00000_00000_00000_0000010#32,
      Instr.tlbiAll1 T0 0b0000_100111_00000_00000_00000_0000011#32,
      Instr.tlbiVa1 T0 0b0000_100111_00000_00010_00000_0000100#32,
      Instr.tlbiIpa2 T0 0b0000_100111_00000_00010_00000_0000101#32,
      Instr.tlbiAll T0 0b0000_100111_00000_00000_00000_0000110#32,
      Instr.waitIntr T0 0b0000_101000_00000_00000_00000_0000000#32,
      Instr.tstart T0 0b0000_101000_00001_00010_00011_0000001#32,
      Instr.tstop T0 0b0000_101000_00001_00010_00000_0000010#32,
      Instr.eret T0 0b0000_101000_00000_00000_00000_0000011#32,
      Instr.gret T0 0b0000_101000_00000_00000_00000_0000100#32,
      Instr.brk T0 0b0000_101000_00000_00000_00000_0000101#32,
      Instr.endProgram T0 0b0000_101000_00000_00000_00000_0000111#32,
      Instr.gate T0 0b0000_101001_000000_1111111111111111#32].all Instr.wf = true := by decide
/-- Coprocessor rows (R131 to R133, R271): a word of each row, written out from its encoding, spells that row. -/
theorem test_words_coprocessor :
    [Instr.adiff T0 0b0000_111000_00001_00010_00100_0_000000#32,
      Instr.aadd T0 0b0000_111000_00001_00010_00100_0_000001#32,
      Instr.tadd T0 0b0000_111000_00001_00010_00100_0_000010#32,
      Instr.tdiff T0 0b0000_111000_00001_00010_00100_0_000011#32,
      Instr.tsubl T0 0b0000_111000_00001_00010_00100_0_000100#32,
      Instr.mulsh T0 0b0000_111000_00001_00010_00100_0_001000#32,
      Instr.muluh T0 0b0000_111000_00001_00010_00100_0_001001#32,
      Instr.divsh T0 0b0000_111000_00001_00010_00100_0_001010#32,
      Instr.divuh T0 0b0000_111000_00001_00010_00100_0_001011#32,
      Instr.pred T0 0b0000_111000_00001_00010_00100_0_010000#32,
      Instr.invpred T0 0b0000_111000_00001_00010_00100_0_010001#32,
      Instr.latm T0 0b0000_111000_00001_00010_00100_0_010010#32,
      Instr.ageupd T0 0b0000_111000_00001_00010_00100_0_010011#32,
      Instr.flgrd T0 0b0000_111000_00001_00000_00000_0_111100#32,
      Instr.flgwr T0 0b0000_111000_00000_00010_00000_0_111101#32,
      Instr.flgclr T0 0b0000_111000_00000_00000_00000_0_111110#32,
      Instr.crc32 T0 0b0000_111001_00001_00010_00000_0000000#32,
      Instr.crc32c T0 0b0000_111001_00001_00010_00000_0000001#32,
      Instr.crc64 T0 0b0000_111001_00001_00010_00000_0000010#32,
      Instr.sha384Blk T0 0b0000_111001_00001_00010_00000_0001000#32,
      Instr.aes256Enc T0 0b0000_111001_00001_00010_00000_0001001#32,
      Instr.ghashMul T0 0b0000_111001_00001_00010_00000_0001010#32,
      Instr.append T0 0b0000_111010_00000_00010_00100_0000000#32,
      Instr.appendS T0 0b0000_111010_00001_00010_00100_0000001#32,
      Instr.qstat T0 0b0000_111010_00001_00010_00000_0000010#32,
      Instr.qspace T0 0b0000_111010_00001_00010_00000_0000011#32].all Instr.wf = true := by decide
/-- A row refuses the word of its neighbour. -/
theorem test_illFormed_core :
    [Instr.alu T0 0b0000_111010_00001_00010_00000_0000011#32,
      Instr.addi T0 0b0000_000001_00001_00010_00011_1_000001#32,
      Instr.andi T0 0b0000_000010_11111_00010_100000000000#32,
      Instr.ori T0 0b0000_000011_00100_00101_111111111111#32,
      Instr.xori T0 0b0000_000100_00100_00101_000000000001#32,
      Instr.shi T0 0b0000_000101_00100_00101_000000000010#32,
      Instr.cmpi T0 0b0000_000110_00100_00101_111111_1_00011#32,
      Instr.movw T0 0b0000_000111_00000_00101_111111111111#32,
      Instr.mul T0 0b0000_001011_00101_1_0001001000110100#32,
      Instr.mulu T0 0b0000_001100_00000_00010_00011_0000000#32,
      Instr.div T0 0b0000_001100_00000_00010_00011_0000001#32,
      Instr.divu T0 0b0000_001100_00001_00010_00011_0001000#32,
      Instr.rem T0 0b0000_001100_00001_00010_00011_0001001#32,
      Instr.remu T0 0b0000_001100_00001_00010_00011_0001010#32,
      Instr.mfs T0 0b0000_001100_00001_00010_00011_0001011#32,
      Instr.mts T0 0b0000_001101_00001_00000_000_0_00110000#32,
      Instr.cmpp T0 0b0000_001101_00000_00010_000_1_00000000#32,
      Instr.cmppi T0 0b0000_001110_001_010_00011_00100_00_1011#32,
      Instr.plogic T0 0b0000_001111_001_000_00011_1010_0111111#32,
      Instr.br T0 0b0000_010000_111_001_010_100_0000000000#32,
      Instr.call T0 0b0000_100000_1111111111111111111111#32,
      Instr.jmp T0 0b0000_100001_0000000000000000000001#32,
      Instr.callr T0 0b0000_100010_00000_00010_00000_0000000#32,
      Instr.ret T0 0b0000_100010_00000_00010_00000_0000001#32,
      Instr.loopReg T0 0b0000_100010_00000_00000_00000_0000010#32,
      Instr.loopi T0 0b0000_100011_00010_00000_000000000011#32,
      Instr.ldb T0 0b0000_100100_1111111111_111111111111#32,
      Instr.ldbu T0 0b0000_010010_00001_010_00011_111111111#32,
      Instr.ldh T0 0b0000_010011_00001_010_00011_000000001#32,
      Instr.ldhu T0 0b0000_010100_00001_010_00011_000000001#32,
      Instr.ldw T0 0b0000_010101_00001_010_00011_000000001#32,
      Instr.ldwu T0 0b0000_010110_00001_010_00011_000000001#32,
      Instr.ldd T0 0b0000_010111_00001_010_00011_000000001#32,
      Instr.stb T0 0b0000_011000_00001_010_00011_000000001#32,
      Instr.sth T0 0b0000_011001_00001_010_00011_000000001#32,
      Instr.stw T0 0b0000_011010_00001_010_00011_000000001#32,
      Instr.std T0 0b0000_011011_00001_010_00011_000000001#32,
      Instr.ldx T0 0b0000_011100_00001_010_00011_000000001#32,
      Instr.ldxu T0 0b0000_011101_00001_010_00011_00100_01_00#32,
      Instr.stx T0 0b0000_011110_00001_010_00011_00100_10_00#32,
      Instr.atomSwap T0 0b0000_011111_00001_010_00011_00100_11_00#32,
      Instr.atomFadd T0 0b0000_100101_00001_010_00011_00100_10_00#32,
      Instr.atomCas T0 0b0000_100101_00001_010_00011_00100_11_01#32,
      Instr.atomFor T0 0b0000_100101_00001_010_00011_00100_10_10#32,
      Instr.blkcopy T0 0b0000_100101_00001_010_00011_00100_11_11#32,
      Instr.blkfill T0 0b0000_100110_00001_00010_00011_0000000#32,
      Instr.crcr32 T0 0b0000_100110_00001_00010_00011_0000001#32,
      Instr.crcr32c T0 0b0000_100110_00001_00010_00011_0000010#32,
      Instr.crcr64 T0 0b0000_100110_00001_00010_00011_0000011#32,
      Instr.sync T0 0b0000_100110_00001_00010_00011_0000100#32,
      Instr.syncTlb T0 0b0000_100111_00000_00000_00000_0000000#32,
      Instr.ici T0 0b0000_100111_00000_00000_00000_0000001#32,
      Instr.tlbiAll1 T0 0b0000_100111_00000_00000_00000_0000010#32,
      Instr.tlbiVa1 T0 0b0000_100111_00000_00000_00000_0000011#32,
      Instr.tlbiIpa2 T0 0b0000_100111_00000_00010_00000_0000100#32,
      Instr.tlbiAll T0 0b0000_100111_00000_00010_00000_0000101#32,
      Instr.waitIntr T0 0b0000_100111_00000_00000_00000_0000110#32,
      Instr.tstart T0 0b0000_101000_00000_00000_00000_0000000#32,
      Instr.tstop T0 0b0000_101000_00001_00010_00011_0000001#32,
      Instr.eret T0 0b0000_101000_00001_00010_00000_0000010#32,
      Instr.gret T0 0b0000_101000_00000_00000_00000_0000011#32,
      Instr.brk T0 0b0000_101000_00000_00000_00000_0000100#32,
      Instr.endProgram T0 0b0000_101000_00000_00000_00000_0000101#32,
      Instr.gate T0 0b0000_101000_00000_00000_00000_0000111#32,
      Instr.adiff T0 0b0000_101001_000000_1111111111111111#32,
      Instr.aadd T0 0b0000_111000_00001_00010_00100_0_000000#32,
      Instr.tadd T0 0b0000_111000_00001_00010_00100_0_000001#32,
      Instr.tdiff T0 0b0000_111000_00001_00010_00100_0_000010#32,
      Instr.tsubl T0 0b0000_111000_00001_00010_00100_0_000011#32,
      Instr.mulsh T0 0b0000_111000_00001_00010_00100_0_000100#32,
      Instr.muluh T0 0b0000_111000_00001_00010_00100_0_001000#32,
      Instr.divsh T0 0b0000_111000_00001_00010_00100_0_001001#32,
      Instr.divuh T0 0b0000_111000_00001_00010_00100_0_001010#32,
      Instr.pred T0 0b0000_111000_00001_00010_00100_0_001011#32,
      Instr.invpred T0 0b0000_111000_00001_00010_00100_0_010000#32,
      Instr.latm T0 0b0000_111000_00001_00010_00100_0_010001#32,
      Instr.ageupd T0 0b0000_111000_00001_00010_00100_0_010010#32,
      Instr.flgrd T0 0b0000_111000_00001_00010_00100_0_010011#32,
      Instr.flgwr T0 0b0000_111000_00001_00000_00000_0_111100#32,
      Instr.flgclr T0 0b0000_111000_00000_00010_00000_0_111101#32,
      Instr.crc32 T0 0b0000_111000_00000_00000_00000_0_111110#32,
      Instr.crc32c T0 0b0000_111001_00001_00010_00000_0000000#32,
      Instr.crc64 T0 0b0000_111001_00001_00010_00000_0000001#32,
      Instr.sha384Blk T0 0b0000_111001_00001_00010_00000_0000010#32,
      Instr.aes256Enc T0 0b0000_111001_00001_00010_00000_0001000#32,
      Instr.ghashMul T0 0b0000_111001_00001_00010_00000_0001001#32,
      Instr.append T0 0b0000_111001_00001_00010_00000_0001010#32,
      Instr.appendS T0 0b0000_111010_00000_00010_00100_0000000#32,
      Instr.qstat T0 0b0000_111010_00001_00010_00100_0000001#32,
      Instr.qspace T0 0b0000_111010_00001_00010_00000_0000010#32].all (fun i => !i.wf) = true := by decide
/-- A word that no row spells: opcode 0, a reserved field that is not 0, guard 8 (R106, R109, R111). -/
theorem test_illFormed_words : [Instr.alu T0 0b0000_000000_0000000000000000000000#32, Instr.sync T0 0b0000_100111_00001_00000_00000_0000000#32,
    Instr.addi T0 0b1000_000010_00001_00010_000000000001#32].all (fun i => !i.wf) = true := by decide
def hFit : YcpHdr := ⟨9, 5, true, true, true, true⟩
/-- A payload that its command cannot have while LEN fits (R388, R390, R391, R394, R406). -/
theorem test_illFormed_requests : [Instr.memWrite hFit 0 [], Instr.qappend hFit 0 1 [], Instr.patWrite hFit 0 [], Instr.imageBegin hFit 0 [1],
    Instr.imageData hFit 0 [], Instr.debugUnlock hFit [1] [1]].all (fun i => !i.wf) = true := by decide
/-- A page without the common header, an address outside the register window or of another access kind (R467, R470, R472). -/
theorem test_illFormed_pages : [Instr.pgEnSet w0 0x3FF false, Instr.pgEnClear w0 0x3FF, Instr.pgQuiesceSet w0 0x3FF, Instr.pgQuiesceClear w0 0x3FF,
    Instr.drainComplete 0x3FF, Instr.pgProtWrite w0 0x3FF 0, Instr.registerWrite w0 0x10000000 .b4 0, Instr.pageReadRefused w0 0x10000000 .b1,
    Instr.readClear w0 0x40001044, Instr.snapshotRead w0 0x40001044].all (fun i => !i.wf) = true := by decide
/-- A source number that the list does not assign, one that is no condition, a line of other than 16 words (R398, R427). -/
theorem test_illFormed_events : [Instr.faultSourceAssert [⟨511, none, 0, 0, 0, false⟩], Instr.conditionCeased 465, Instr.monitorMeasure [1] [1]].all (fun i => !i.wf) = true := by decide
end Dec

namespace Ex
def T0 : ThreadId := ⟨0, 0, 0⟩
def start : State := State.reset.setThread 0 { State.reset.thread 0 with pc := 0x80000100 }
def after (c : Instr) (s : State) : State := match exec c s with | .next t => t | _ => State.reset
def withReg (r : Nat) (v : W64) (s : State) : State := s.setThread 0 ((s.thread 0).setReg r v)

/-- The first example of R293: the new LAT_AGE is 97,097 units with IX = 1 and OV = 0. -/
theorem test_ageupd_rounds_up : aauAgeupd false 96000 1600000 29443200 29373000 6 = ⟨97097, false, true, false⟩ := by decide
/-- The second: a tie goes to the even quotient, 97,095 units. -/
theorem test_ageupd_tie : aauAgeupd false 97097 1600000 29374001 29374097 6 = ⟨97095, false, true, false⟩ := by decide

/-- The transform program of R139's example. -/
def popcount : List W32 := [0x09004003, 0x0604C600, 0x00863008, 0x00442012, 0x00421100, 0x03C80800, 0x18000002, 0x01080001, 0x0A000007]
def popHeader (cost : Nat) : List Byte := leBytes 4 0x5A4D5301 ++ leBytes 2 1 ++ leBytes 2 2 ++ leBytes 2 9 ++ leBytes 2 cost ++ zeros 4
/-- W is 25 cycles: COST 25 is accepted and COST 24 refused with INTEGRITY. -/
theorem test_program_cost : smCheck smSeq 1 (popHeader 25) popcount = .ok ∧ smCheck smSeq 1 (popHeader 24) popcount = .integrity := by decide
/-- It counts the ones of its 32 bytes. -/
theorem test_program_counts : ((smGo popcount (smStart [] (zeros 8 ++ List.replicate 8 0x11 ++ [0xFF] ++ zeros 15) [])).map
    (fun r => (r.th.reg 1, r.th.reg 4))) = some (24, 1) := by decide

/-- R479's example: a ring 2 thread's 0x8001 to TIMER.CTL of channel 19 leaves PG_WSTAT at 0x0122_8401 and the channel unchanged. -/
theorem test_refused_write :
    (after (.registerWrite ⟨2, false, T0⟩ 0x0040242284 .b4 0x8001) State.reset).rd (page 0x242 + PG.WSTAT.off) = 0x01228401 ∧
    (after (.registerWrite ⟨2, false, T0⟩ 0x0040242284 .b4 0x8001) State.reset).rd (page 0x242 + 0x284) = State.reset.rd (page 0x242 + 0x284) := by decide

/-- The check values of R125 for the string 123456789. -/
def digits : List Byte := [0x31, 0x32, 0x33, 0x34, 0x35, 0x36, 0x37, 0x38, 0x39]
theorem test_crc_check : (crcBytes 0 0xFFFFFFFF digits) ^^^ 0xFFFFFFFF = 0xCBF43926 ∧ (crcBytes 1 0xFFFFFFFF digits) ^^^ 0xFFFFFFFF = 0xE3069283 ∧
    (crcBytes 2 0xFFFFFFFFFFFFFFFF digits) ^^^ 0xFFFFFFFFFFFFFFFF = 0x995DC9BBDF1939FA := by decide

/-- R116: the most negative number divided by -1. -/
theorem test_div_corner : ((after (.div T0 0b0000_001100_00001_00010_00011_0001000#32)
    (withReg 2 0x8000000000000000 (withReg 3 0xFFFFFFFFFFFFFFFF start))).thread 0).reg 1 = 0x8000000000000000 := by decide
/-- R108: g0 reads 0 and discards what is written. -/
theorem test_g0 : ((after (.addi T0 0b0000_000010_00000_00010_000000000101#32) (withReg 2 1 start)).thread 0).reg 0 = 0 ∧
    ((after (.addi T0 0b0000_000010_00000_00010_000000000101#32) (withReg 2 1 start)).thread 0).pc = 0x80000104 := by decide
end Ex

/-! ### Witnesses: hypotheses that a proof by evaluation cannot reach (a signature, a CRC) and the small statements -/

namespace Man
def key96 : List Byte := List.replicate 96 9
/-- An image header: edition 1, version 1, LEN bytes to LOAD, its entry at LOAD, key 9 9 9 … -/
def hdr (len load : Nat) : List Byte := leBytes 4 imageMagic ++ leBytes 2 1 ++ leBytes 2 1 ++ leBytes 4 len ++ leBytes 4 0 ++ leBytes 8 load ++ leBytes 8 load ++ zeros 8 ++ zeros 24 ++ key96 ++ List.replicate 96 1
def h0 : List Byte := hdr 64 0x10000000
/-- A device that trusts key 9 9 9 … for images and for debug. -/
def trusts (s : State) : State := { s with dev := { s.dev with fuses := { s.dev.fuses with keys := [(sha384 key96, false)], debugKey := sha384 key96 } } }
theorem imageCode_ok (hv : ∀ k d g, Config.ecdsaVerify k d g = true) (s : State) (p : List Byte)
    (hr : headerRange h0 s = []) (hk : s.dev.fuses.keys = [(sha384 key96, false)]) : imageCode h0 p s = .ok := by
  have h1 : fieldAt h0 0 4 = imageMagic := by decide
  have h2 : (h0.drop 0x040).take 96 = key96 := by decide
  have h3 : fieldAt h0 0x006 2 = 1 := by decide
  simp [imageCode, h1, hr, headerTrust, h2, hk, h3, hv, refuseIf, Code.lowest]

def flashed : State := trusts (State.reset.poke (flashBase 0) h0)
theorem wit_BootRows_image (hv : ∀ k d g, Config.ecdsaVerify k d g = true) :
    fieldAt (flashed.readMem (flashBase 0) 256) 0 4 = 0x36314B43 ∧
    imageCode (flashed.readMem (flashBase 0) 256) (flashed.readMem (flashBase 0 + 256) 64) flashed = .ok := by
  have h1 : flashed.readMem (flashBase 0) 256 = h0 := by decide
  have h2 : headerRange h0 flashed = [] := by decide
  rw [h1]
  exact ⟨by decide, imageCode_ok hv _ _ h2 rfl⟩

def w3 : Writer := ⟨0, false, ⟨0, 0, 0⟩⟩
def live (s : State) : State := (s.setFld (page 0x323) PG.CTL_EN 1).setFld (page 0x323) PG.STAT_ENABLED 1
def x0 : Session := { num := 9, ring := 0, rights := 0x1FF, key := List.replicate 32 3, next := 5, chal := some (List.replicate 48 2) }
def hh : YcpHdr := ⟨9, 5, true, true, true, true⟩
def base : State := trusts (((((live (State.reset.setFld B.sys SYS.MODE_CUR 2)).wr (B.iot + 0x40 + 16 * 20) 3).setFld B.ycp YCP.IMG_BUF_HI 0x10).setFld B.ycp YCP.IMG_BUF_SIZE 0x100).putSess 2 x0)
def up : Upload := ⟨2, 2, h0, 64, false, []⟩
def sent : State := { base with ycp := { base.ycp with upload := some up } }
/-- The image that IMAGE_END reads: its pieces and the state that the translation leaves. -/
def img (s : State) : List (Nat × Nat) × State :=
  match (s.putSess 2 (taken hh x0 .imageEnd)).ioPieces 20 false (splitLines (lineCount 64) s.imgBuf 64) with
  | .ok x => x
  | .error e => ([], e.2.2.2)
theorem wit_YcpCommandRows_imageEnd (hv : ∀ k d g, Config.ecdsaVerify k d g = true) :
    (takesNow hh 2 x0 (some 6) sent ∧ sent.ycp.upload = some up ∧ up.owner = 2 ∧ up.burn = false ∧ up.target ≠ 0 ∧
      fieldAt up.header 8 4 = 64 ∧ 64 ≤ up.got ∧
      (match (sent.putSess 2 (taken hh x0 .imageEnd)).ioPieces 20 false (splitLines (lineCount 64) sent.imgBuf 64) with
        | .ok _ => true | .error _ => false) = true ∧
      (∀ p, p ∈ (img sent).1 → (img sent).2.region p.1 = .dram ∧ (img sent).2.badAddr p.1 p.2 = none)) ∧
    imageCode up.header ((img sent).1.flatMap (fun p => bytesFrom (img sent).2.byteAt p.1 p.2)) (img sent).2 = .ok :=
  ⟨by decide, imageCode_ok hv _ _ (by decide) rfl⟩

theorem wit_YcpDebugAndSafetyRows_unlock (hv : ∀ k d g, Config.ecdsaVerify k d g = true) :
    (takesNow hh 2 x0 (some 7) base ∧ key96.length = 96 ∧ base.dev.fuses.debugOff = false ∧ x0.chal = some (List.replicate 48 2)) ∧
    sha384 key96 = base.dev.fuses.debugKey ∧ Config.ecdsaVerify key96 (sha384 (List.replicate 48 2)) key96 = true :=
  ⟨by decide, rfl, hv _ _ _⟩

def qPing : State := { State.reset with pending := [.ycpPing hh] }
theorem wit_StepRunsFrontCommand : qPing.pending = .ycpPing hh :: [] ∧ State.reset.pending = [] := ⟨rfl, rfl⟩
theorem wit_CanonicalFormKept : ∃ s t, Memory.wf s.mem ∧ s.regs.wf regReset ∧ step s = .next t ∧ s.mem ≠ [] ∧ s.pending ≠ [] :=
  ⟨{ State.reset with mem := [(4, 1)], pending := [.powerOnReset] }, _, by decide, by decide, rfl, by decide, by decide⟩
theorem wit_DecodeEncodeAgree : ((15 < 16 ∧ 15 ≠ 8 ∧ Dec.wf ⟨.addi, 31, 0, 0, 0, 0, 0, 0xFFFFFFFFFFFFF800, false⟩ = true) ∧
    (0 < 16 ∧ 0 ≠ 8 ∧ Dec.wf ⟨.gate, 0, 0, 0, 0, 0, 0xFFFF, 0, false⟩ = true)) ∧
    decodeOp 0xF0BE0800 = .ok ⟨.addi, 31, 0, 0, 0, 0, 0, 0xFFFFFFFFFFFFF800, false⟩ := by decide
theorem wit_ResetLeaves :
    (pageKind 0x001 = some (.clk, 1, 1) ∧ (regRow 0x001 CLK.CORE_DIV.off).isSome ∧ 0x40 ≤ CLK.CORE_DIV.off) ∧
    (pageKind 0x202 = some (.shaft, 512, 8) ∧ (regRow 0x202 SHAFT.CT_CTL.off).isSome) := by decide
theorem wit_MulDivRows_words : bf (0b0000_001100_00001_00010_00011_0001010#32) 22 6 = 0x0C ∧
    decodeOp 0b0000_001100_00001_00010_00011_0001010#32 = .ok ⟨.rem, 1, 2, 3, 0, 0, 10, 0, false⟩ ∧ bf (0x80000000#32) 28 4 = 8 := by decide
/-- A held Gauze stops the blocks. -/
def held : State := State.reset.setFld B.sys SYS.MODE_HELD 1
theorem wit_RingEventRows_gated : held.gated = true ∧ (held.ring 5).rxUntil = false ∧
    ∀ i, i ∈ [Instr.rxLock 5 true, .ringSlot 5] → i ∈ [Instr.rxLock 5 true, .linkLoss 5, .enumTimeout 5, .timeSend 5, .bgMeasure 5, .ringSlot 5,
      .rxLaneLockLost 5 true, .rxLaneLockRegained 5 true, .safePatternRepeat 5, .ringDisableEnd 5] := by
  refine ⟨by decide, by decide, ?_⟩
  simp
theorem wit_EthernetRows_gated : held.gated = true ∧
    Instr.ethDisableTxEnd 1 ∈ [Instr.linkChange 1 true false, .trainTimeout 1, .trainRestart 1, .ethFrameRx 1 true [] 0, .prpSupervisionTx,
      .prpNodeForget 5, .ethDisableTxEnd 1, .programLoadDone .classifier] := by
  refine ⟨by decide, ?_⟩
  simp
/-- A self-test record of romRev 1 and serial 2^64 - 1 whose passed bits are `pass`; one of its use bytes unused. -/
def recOf (pass : Nat) : List Byte := leBytes 4 0x54524543 ++ leBytes 2 1 ++ leBytes 2 1 ++ leBytes 8 7 ++ List.replicate 16 0xFF ++ sha384 [] ++
  List.replicate 16 0xFF ++ leBytes 16 pass
def recorded (pass : Nat) : State :=
  let s := (State.reset.poke (State.reset.recBase 0) (recOf pass)).poke (State.reset.recBase 0 + 0x2000) [0xFF]
  { s with dev := { s.dev with phase := .boot, fuses := { s.dev.fuses with serial := 0xFFFFFFFFFFFFFFFF } } }
def env0 : BootEnv := ⟨false, true, false, [], [], [], []⟩
theorem quick_rec (hv : ∀ k d g, Config.ecdsaVerify k d g = true) (hf : ∀ l, Config.fuseBytes l = []) (hr : Config.romRev = 1)
    (n : Nat) (hc : (let s := recorded n; let a := s.recBase 0; let r := s.readMem a 0x2000
      ¬ (s.flashSize 0 < 0x10000 ∨ fieldAt r 0 4 ≠ 0x54524543) ∧ fieldAt r 0x10 8 = s.dev.fuses.serial.toNat ∧
        (r.drop 0x20).take 48 = sha384 [] ∧ fieldAt r 6 2 = 1 ∧ recUses s a < 64 ∧ recCode s 1 = .absent ∧ recTested 0 s = true)) :
    (recorded n).quickRec = some 0 := by
  obtain ⟨h1, h2, h3, h4, h5, h6, h7⟩ := hc
  have h0 : recCode (recorded n) 0 = .ok := by
    simp [recCode, h1, h2, h3, h4, hv, hr, State.fuseHash, hf, refuseIf, Code.lowest, Nat.not_le.mpr h5]
  simp [State.quickRec, State.bestRec, h0, h6, h7]
theorem wit_BootRows_quick (hv : ∀ k d g, Config.ecdsaVerify k d g = true) (hf : ∀ l, Config.fuseBytes l = []) (hr : Config.romRev = 1) :
    ((recorded (2 ^ 128 - 1)).dev.phase = .boot ∧ (recorded (2 ^ 128 - 1)).mode = mMuslin ∧ allGood env0 ∧ env0.fuseError = false ∧
      (recorded (2 ^ 128 - 1)).dev.fuses.burnFailed = false ∧ ((recorded (2 ^ 128 - 1)).trio 0).lost = false ∧
      recFailed 0 (recorded (2 ^ 128 - 1)) = [] ∧ env0.cells = []) ∧ (recorded (2 ^ 128 - 1)).quickRec = some 0 := by
  refine ⟨by and_intros <;> decide, quick_rec hv hf hr _ (by and_intros <;> decide)⟩
theorem wit_BootRows_quickStays (hv : ∀ k d g, Config.ecdsaVerify k d g = true) (hf : ∀ l, Config.fuseBytes l = []) (hr : Config.romRev = 1) :
    ((recorded (2 ^ 94 - 1)).dev.phase = .boot ∧ (recorded (2 ^ 94 - 1)).mode = mMuslin ∧ allGood env0 ∧
      (94 ∈ recFailed 0 (recorded (2 ^ 94 - 1)) ∨ 95 ∈ recFailed 0 (recorded (2 ^ 94 - 1)))) ∧ (recorded (2 ^ 94 - 1)).quickRec = some 0 := by
  refine ⟨by and_intros <;> decide, quick_rec hv hf hr _ (by and_intros <;> decide)⟩

theorem imageCode_refused (hv : ∀ k d g, Config.ecdsaVerify k d g = false) (s : State) (p : List Byte)
    (hr : headerRange h0 s = []) (hk : s.dev.fuses.keys = [(sha384 key96, false)]) : imageCode h0 p s = .integrity := by
  have h1 : fieldAt h0 0 4 = imageMagic := by decide
  have h2 : (h0.drop 0x040).take 96 = key96 := by decide
  have h3 : fieldAt h0 0x006 2 = 1 := by decide
  simp [imageCode, h1, hr, headerTrust, h2, hk, h3, hv, refuseIf, Code.lowest]
/-- An image whose key is trusted and whose signature is refused. -/
theorem wit_BootRows_signature (hv : ∀ k d g, Config.ecdsaVerify k d g = false) (p : List Byte) :
    (fieldAt h0 0 4 = 0x36314B43 ∧ headerRange h0 flashed = [] ∧ fieldAt h0 0x006 2 = 1 ∧ flashed.readMem (flashBase 0) 256 = h0 ∧
      (∃ k, k ∈ flashed.dev.fuses.keys ∧ k.1 = sha384 ((h0.drop 0x040).take 96) ∧ k.2 = false)) ∧ imageCode h0 p flashed ≠ .ok ∧
    Config.ecdsaVerify ((h0.drop 0x040).take 96) (sha384 (h0.take 0xA0 ++ p)) ((h0.drop 0x0A0).take 96) = false := by
  have h2 : (h0.drop 0x040).take 96 = key96 := by decide
  have h4 : headerRange h0 flashed = [] := by decide
  rw [h2, imageCode_refused hv flashed p h4 rfl]
  exact ⟨⟨by decide, h4, by decide, by decide, (sha384 key96, false), List.mem_singleton.mpr rfl, rfl, rfl⟩, by decide, hv _ _ _⟩
end Man

namespace Ct
def w0 : Writer := ⟨0,false,⟨0,0,0⟩⟩
def ctS (k : W32) : State := { State.reset with regs := ⟨[(B.shaft 2 + SHAFT.CT_CRC_EXP.off, k)]⟩ }
theorem shaftCodes_ct (n v : Nat) (s : State) : shaftCodes n 0x070 v s =
    let other := refuseIf (decide (2 ≤ nbits v 0 2)) .range ++ outside 4 12 (nbits v 4 4) ++ outside 6 15 (nbits v 8 4)
      ++ refuseIf (s.shaft n).learn.isSome .busy
    other ++ (if other.isEmpty ∧ nbits v 0 2 = 1 then
      refuseIf (ctCrc (s.shaft n).ct != s.rd (B.shaft n + SHAFT.CT_CRC_EXP.off)) .integrity else []) := by
  simp only [shaftCodes]
theorem ctS_aux (c k : W32) (s : State) (h : (s.shaft 2).learn = none) (h2 : s.rd (B.shaft 2 + SHAFT.CT_CRC_EXP.off) = k)
    (hc : ctCrc (s.shaft 2).ct = c) : shaftCodes 2 0x070 0x661 s = refuseIf (c != k) .integrity := by
  rw [shaftCodes_ct, h, h2, hc]
  have h1 : nbits 0x661 0 2 = 1 := by decide
  have h3 : outside 4 12 (nbits 0x661 4 4) = [] := by decide
  have h4 : outside 6 15 (nbits 0x661 8 4) = [] := by decide
  simp [h1, h3, h4, refuseIf]
theorem ctS_regCodes (k : W32) (X : List Code) (hx : shaftCodes 2 0x070 0x661 (ctS k) = X) : regCodes w0 0x202 SHAFT.CT_CTL.off 0x661 (ctS k) = X := by
  have h1 : pageKind 0x202 = some (.shaft, 512, 8) := rfl
  have h2 : regRow 0x202 SHAFT.CT_CTL.off = some ⟨0x070, 0, 1, .rw, 2660, 4087⟩ := rfl
  have h5 : (ctS k).wrRing 0x202 = 0 := by
    have hk : ¬ B.shaft 2 + SHAFT.CT_CRC_EXP.off = page (headPage 0x202) + PG.PROT_WR_RING.off := by decide
    simp only [ctS, State.wrRing, State.fld, State.rd, Tab.get, cellGet, cellFind, if_neg hk]; decide
  have h4 : (ctS k).loOf .shaft 0x202 SHAFT.CT_CTL.off = none := rfl
  have h6 : (ctS k).isHeld .shaft 0x202 SHAFT.CT_CTL.off ⟨0x070, 0, 1, .rw, 2660, 4087⟩ = false := rfl
  have h7 : blockCodes w0 .shaft 0x202 SHAFT.CT_CTL.off (0x661 : W32).toNat (ctS k) = X := by
    simp only [blockCodes, SHAFT.CT_CTL]
    exact hx
  have h8 : pageCodes .shaft 0x202 SHAFT.CT_CTL.off (ctS k) = [] := rfl
  simp only [regCodes, h1, h2, h4, h5, h6, h7, h8]
  simp [refuseIf, w0]
theorem wit_ctApply : admits w0 (B.shaft 2 + SHAFT.CT_CTL.off) (setBits (0x660 : W32).toNat 0 2 1) (ctS (ctCrc {})) ∧
    Code.lowest (regCodes w0 0x202 SHAFT.CT_CTL.off 0x661 (ctS (ctCrc {} + 1))) = .integrity := by
  generalize hc : ctCrc {} = c
  have h1 := ctS_aux c c (ctS c) rfl rfl hc
  have h2 := ctS_aux c (c + 1) (ctS (c + 1)) rfl rfl hc
  refine ⟨congrArg Code.lowest (ctS_regCodes c [] ?_), ?_⟩
  · rw [h1]; simp [refuseIf]
  · rw [ctS_regCodes (c + 1) [.integrity] ?_]
    · rfl
    · rw [h2]; simp [refuseIf]
end Ct

/-! ### Witnesses: one group of hypotheses to a line, met by a concrete state -/

def nxt (o : Res) : State := match o with | .next t => t | _ => State.reset
def isNext (o : Res) : Bool := match o with | .next _ => true | _ => false
def on (s : State) (l : List (Nat × Nat)) : State := l.foldl (fun s p => s.wr p.1 (BitVec.ofNat 32 p.2)) s
def T0 : ThreadId := ⟨0,0,0⟩
def dd : Dec := ⟨.endp,0,0,0,0,0,0,0,false⟩
def ith (s : State) (t : ThreadId) (w : W32) : Thread := ((issued s t w).map (·.1)).getD {}
def idec (s : State) (t : ThreadId) (w : W32) : Dec := ((issued s t w).map (·.2.1)).getD dd
def ist (s : State) (t : ThreadId) (w : W32) : State := ((issued s t w).map (·.2.2)).getD s
def setT (s : State) (t : ThreadId) (f : Thread → Thread) : State := s.setThread (s.tkey t) (f (s.thread (s.tkey t)))
def R0 (l : List (Nat × Nat)) : Thread → Thread := fun th => l.foldl (fun th p => th.setReg p.1 (BitVec.ofNat 64 p.2)) th
def S0 : State := State.reset
def S1 : State := setT S0 T0 (fun th => { R0 [(1,7),(2,0xFFFFFFFFFFFFFFF0),(3,3),(4,0x80040020),(5,0x80040041),(6,64),(7,2),(8,0),(9,0x4000),(10,9),(30,0x80040100)] th with pc := 0x80000100, lc := 5 })
def en (r : CoreRow) (rd ra rb : Nat) (fn : Nat := 0) (imm : W64 := 0) (sz : Nat := 0) (seg : Nat := 0) (b : Bool := false) : W32 := encodeOp 0 ⟨r,rd,ra,rb,seg,sz,fn,imm,b⟩
def md (m : Nat) (s : State) : State := s.setFld B.sys SYS.MODE_CUR m
def gx {α} (d : α) (o : Except OpEnd α) : α := match o with | .ok x => x | .error _ => d
def laS (s : State) (a : Cx) (m : MAcc) : List Byte × State := gx ([], s) (loadAcc a m s)
def ckS (s : State) (a : Cx) (m : MAcc) : List (Nat × Nat) × State := gx ([], s) (m.check a s)
def ics (s : State) (w : W32) : Cx := runCx s T0 (ith s T0 w) w (idec s T0 w)
def ent (pa : Nat) (d : List Byte) : OutEnt := ⟨T0, 0, 0, false, .store pa [(pa, d)]⟩
def S2 : State := (md 4 S1).poke 0x80040020 (leBytes 16 0xF1E2D3C4B5A69788_8877665544332211)
def S3 : State := setT S2 T0 (fun th => { th with buf := [ent 0x80040020 (leBytes 8 0x99AA), ent 0x80040040 [1,2,3,4,5,6,7,0x88]] })
def S4 : State := setT S2 T0 (fun th => { th with buf := [ent 0x80040020 [1], ent 0x80040040 [1], ent 0x80040060 [1], ent 0x80040070 [1]] })
def ring (r : Nat) (s : State) : State := setT s T0 (fun th => { th.setSr 1 2 r with seg := (List.range 8).foldl (fun g i => g.set flatSeg i { Seg.flat with ring := Fin.ofNat 4 r }) {} })
def gt (s : State) : State := md 6 s

namespace Boot
def w0 : Writer := ⟨0,false,T0⟩
def gaz : State := let s := md 1 S3; { s with dev := { s.dev with gauze := 7 } }
def e0 : BootEnv := ⟨false,true,false,[],[],[],[]⟩
def sNoOrd : State := let s := S0.poke 0x10000000 [1,2,3]; { s with dev := { s.dev with fuses := { s.dev.fuses with bootOrder := [2] } } }
def nw : State := nxt (exec (.bootSequence e0) S0)
def run : State := { nw with dev := { nw.dev with phase := .running } }
def tr (m g : Nat) : State := let s := md m S2; { s with dev := { s.dev with trans := some ⟨g, none⟩ } }
def ge : GauzeEnv := ⟨[3], [], [], true, true, true⟩
def vel : State := on (md 6 S2) [(B.sys + SYS.WAKE_CTL_PIN_EN.off, 0xFFFFFFFF)]
def wakeH : List Byte := (zeros 32 ++ leBytes 8 0x10000040 ++ zeros 216)
def img (s : State) : State := { s with dev := { s.dev with image := some ⟨wakeH, sha384 (wakeH.take 0xA0 ++ s.readMem (fieldAt wakeH 0x010 8) (fieldAt wakeH 0x008 4))⟩ } }
def wk (s : State) : State := { s with dev := { s.dev with phase := .wake } }
def gz (n : Nat) : State := let s := md 1 S2; { s with dev := { s.dev with gauze := n } }
def K1 : State := let s := S2.setFld B.margin MARGIN.CTL_AUTO 0; { s with dev := { s.dev with porLow := false } }
def velA : State := { vel with sent := [.avs 800], dev := { vel.dev with avsStop := true } }
def hd (len load ver : Nat) : List Byte := leBytes 4 imageMagic ++ leBytes 2 1 ++ leBytes 2 1 ++ leBytes 4 len ++ leBytes 4 ver ++ leBytes 8 load ++ leBytes 8 load ++ zeros 8 ++ zeros 24 ++ List.replicate 96 9 ++ List.replicate 96 7
def fuse (f : Fuses → Fuses) (s : State) : State := { s with dev := { s.dev with fuses := f s.dev.fuses } }
def fl (h : List Byte) : State := S0.poke (flashBase 0) h
def F0 := fl (hd 64 0x10000000 0)
def FV := fuse (fun f => { f with minSecVer := 3 }) F0
def FK := fuse (fun f => { f with keys := [(sha384 (List.replicate 96 9), false)] }) F0
def K2 : State := { K1.setFld B.coll COLL.STAT_FAULT_RUN 1 with dev := { K1.dev with ioOk := true } }
def s_1 := on (gaz.poke 0x30000000 [1,2,3]) [(B.recd + 0x40, 77), (B.fsw + 0x80, 99)]
def s_2 := gaz.setFld B.sys SYS.GAUZE_CTL_END 1
def e_5 : BootEnv := { e0 with collectorOk := false }
def s_11 := on S2 [(B.clk + CLK.CLK_STAT_ROOT_LOCK.off, 0xFFFFFFFF),(B.margin + MARGIN.VSET.off, 800)]
def s_13 := md 6 (on { S2 with dev := { S2.dev with avsFails := 2, avsBad := 9 } } [(B.clk + CLK.CLK_STAT_ROOT_LOCK.off, 0xFFFFFFFF),(B.margin + MARGIN.VSET.off, 800)])
def s_14 := md 3 (on S2 [(B.trio 3 + TRIO.STAT_TAINT.off, 0xFFFFFFFF)])
def s_15 := md 5 (on S2 [(B.qd 5 + QD.QCTL.off, 1),(B.qd 5 + QD.QSTATE_STATE.off, 2)])
def s_17 := wk (md 0 (img vel))
def s_18 : State := {img vel with coll := { vel.coll with stop := true }, coll2 := { vel.coll with stop := true }}
def s_19 : State := {vel with coll := { vel.coll with stop := true }, coll2 := { vel.coll with stop := true }}
def s_23 := K2.setFld B.coll COLL.STAT_STO_RUN 255

theorem wit_ResetRows :
    (mayWrite w0 2 s_2 ∧ s_2.mode = mGauze ∧ s_2.dev.gauze = 7 ∧ s_2.flag B.sys SYS.GAUZE_CTL_END = true) ∧
    (s_1.mode = mGauze ∧ s_1.dev.gauze = 7 ∧ s_1.flag B.sys SYS.GAUZE_CTL_END = false) :=
  by and_intros <;> decide
theorem wit_BootRows :
    (sNoOrd.dev.phase = Phase.boot ∧ sNoOrd.mode = mMuslin ∧ allGood e0 ∧ e0.unitFail = [] ∧ e0.cells = [] ∧ (sNoOrd.trio 0).lost = false ∧ sNoOrd.bestRec = none ∧ sNoOrd.region 268435456 = Region.sram ∧ sNoOrd.region 805306368 = Region.flash 0 ∧ fieldAt (sNoOrd.readMem (flashBase 0) 256) 0 4 ≠ 909200195) ∧
    (fieldAt (FV.readMem (flashBase 0) 256) 0 4 = 909200195 ∧ fieldAt (FV.readMem (flashBase 0) 256) 12 4 < BitVec.toNat FV.dev.fuses.minSecVer) ∧
    (nw.dev.phase = Phase.netWait ∧ nw.dev.bootLeft = [] ∧ nw.dev.fuses.netOff = false ∧ nw.net.dup = false ∧ nw.has4 = false) ∧
    (S0.dev.phase = Phase.boot ∧ S0.mode = mMuslin ∧ e_5.collectorOk = false) ∧
    (fieldAt (F0.readMem (flashBase 0) 256) 0 4 = 909200195 ∧ headerRange (F0.readMem (flashBase 0) 256) F0 = [] ∧ (∀ (k : List Byte × Bool), k ∈ F0.dev.fuses.keys → k.fst = sha384 (List.take 96 (List.drop 64 (F0.readMem (flashBase 0) 256))) → k.snd = true)) ∧
    (fieldAt (FK.readMem (flashBase 0) 256) 0 4 = 909200195 ∧ headerRange (FK.readMem (flashBase 0) 256) FK = [] ∧ (∃ (k : List Byte × Bool), k ∈ FK.dev.fuses.keys ∧ k.fst = sha384 (List.take 96 (List.drop 64 (FK.readMem (flashBase 0) 256))) ∧ k.snd = false) ∧ fieldAt (FK.readMem (flashBase 0) 256) 6 2 = 1) ∧
    (run.dev.phase = Phase.running) :=
  by and_intros <;> decide
theorem wit_ClockAndSupplyRows :
    (s_13.mode = mVelvet ∧ 2 ≤ s_13.dev.avsFails ∧ 699 + 15 < s_13.fld B.margin MARGIN.VSET ∧ 9 ≤ s_13.dev.avsBad ∧ s_13.flag B.clk CLK.CLK_STAT_DRAM_LOCK = true ∧ s_13.flag B.clk CLK.CLK_STAT_ROOT_LOCK = true ∧ (¬0 ∈ s_13.dev.conds) ∧ s_13.dev.porLow = true) ∧
    (s_23.dev.porLow = false ∧ s_23.mode ≠ mVelvet ∧ (¬1 ∈ s_23.dev.conds) ∧ s_23.dev.avsFails < 2 ∧ mayWrite w0 1 s_23 ∧ s_23.flag B.margin MARGIN.CTL_AUTO = false ∧ s_23.flag B.clk CLK.CLK_STAT_ROOT_LOCK = false ∧ s_23.dev.ioOk = true ∧ s_23.flag B.coll COLL.STAT_FAULT_RUN = true ∧ s_23.stoRun 7 = true ∧ (¬448 + 7 ∈ s_23.dev.conds) ∧ (¬2 ∈ s_23.dev.conds)) ∧
    (mayWrite w0 1 K1 ∧ K1.flag B.margin MARGIN.CTL_AUTO = false) ∧
    (815 ≤ s_11.fld B.margin MARGIN.VSET + 15 ∧ s_11.fld B.margin MARGIN.VSET ≤ 815 + 15) ∧
    (K2.dev.porLow = false) :=
  by and_intros <;> decide
theorem wit_ModeRows :
    (mayWrite w0 0 (tr 2 5) ∧ Code.lowest (modeCodes 2 (tr 2 5)) ≠ Code.ok ∧ (tr 2 5).mode ≠ mMuslin ∧ (tr 2 5).mode ≠ mGauze ∧ (tr 2 5).dev.trans.isSome = true ∧ 2 = (tr 2 5).mode ∧ (tr 2 5).dev.trans = some { target := 5, ycp := none : Transition } ∧ (tr 2 5).stopDue = false ∧ (tr 2 5).handing = false ∧ (handAll 5 (tr 2 5)).handing = false ∧ (tr 2 5).ycp.sess = { : Tab Session }) ∧
    (mayWrite w0 0 (md 2 S2) ∧ Code.lowest (modeCodes 7 (md 2 S2)) = Code.ok ∧ 7 ≠ (md 2 S2).mode ∧ (mTwill ≤ 7 ∧ 7 ≤ mJersey → (md 2 S2).safeCrc = (md 2 S2).rd (B.coll + COLL.SAFE_CRC_EXP.off)) ∧ (md 2 S2).mode = mCalico ∧ (md 2 S2).dev.trans = none ∧ 7 = mFelt) ∧
    (s_14.mode = mTwill ∧ s_14.dev.trans = none ∧ 4 = mDamask ∧ mayWrite w0 0 s_14 ∧ Code.lowest (modeCodes 4 s_14) = Code.ok ∧ 4 ≠ s_14.mode ∧ mTwill ≤ 4 ∧ 4 ≤ mJersey ∧ s_14.safeCrc ≠ s_14.rd (B.coll + COLL.SAFE_CRC_EXP.off) ∧ s_14.sev 461 = 3) ∧
    ((md 0 S2).mode = mMuslin) ∧
    (s_15.mode = mJersey ∧ s_15.dev.trans = none ∧ 2 = mCalico) ∧
    ((tr 2 3).dev.trans = some { target := 3, ycp := none : Transition } ∧ (tr 2 3).stopDue = false ∧ (tr 2 3).handing = false ∧ (handAll 3 (tr 2 3)).handing = true ∧ ycpCalm (tr 2 3) = true) ∧
    ((md 2 S2).mode = mCalico ∧ (md 2 S2).dev.trans = none ∧ 5 = mJersey) :=
  by and_intros <;> decide
theorem wit_VelvetAndGauzeRows :
    (velA.mode = mVelvet ∧ velA.stopDue = false ∧ velA.flag B.sys SYS.WAKE_CTL_PIN_EN = true ∧ velA.flag B.sys SYS.WAKE_CTL_PIN_LEVEL = true ∧ velA.dev.avsStop = true ∧ velA.flag B.sys SYS.WAKE_CTL_TIMER_EN = true) ∧
    (s_17.dev.phase = Phase.wake ∧ allGood e0 ∧ (s_17.trio 0).lost = false ∧ s_17.wakeGood = true) ∧
    (s_18.mode = mVelvet ∧ s_18.stopDue = true ∧ allGood e0 ∧ s_18.wakeGood = true) ∧
    ((gz 4).mode = mGauze ∧ 1 ≤ (gz 4).dev.gauze ∧ (gz 4).dev.gauze ≤ 6 ∧ (gz 4).dev.gauze = 4) ∧
    (s_17.dev.phase = Phase.wake ∧ e_5.collectorOk = false) ∧
    (s_19.mode = mVelvet ∧ s_19.stopDue = true ∧ allGood e0 ∧ s_19.wakeGood = false) ∧
    ((gz 5).mode = mGauze ∧ 1 ≤ (gz 5).dev.gauze ∧ (gz 5).dev.gauze ≤ 6 ∧ (gz 5).dev.gauze = 5 ∧ (gz 5).flag B.sys SYS.GAUZE_CTL_BURN = false) ∧
    (((gz 5).setFld B.sys SYS.GAUZE_CTL_BURN 1).mode = mGauze ∧ 1 ≤ ((gz 5).setFld B.sys SYS.GAUZE_CTL_BURN 1).dev.gauze ∧ ((gz 5).setFld B.sys SYS.GAUZE_CTL_BURN 1).dev.gauze ≤ 6 ∧ ((gz 5).setFld B.sys SYS.GAUZE_CTL_BURN 1).dev.gauze = 5 ∧ ((gz 5).setFld B.sys SYS.GAUZE_CTL_BURN 1).flag B.sys SYS.GAUZE_CTL_BURN = true ∧ ge.burnBad = []) ∧
    ((gz 6).mode = mGauze ∧ 1 ≤ (gz 6).dev.gauze ∧ (gz 6).dev.gauze ≤ 6 ∧ (gz 6).dev.gauze = 6) ∧
    ((gz 2).mode = mGauze ∧ 1 ≤ (gz 2).dev.gauze ∧ (gz 2).dev.gauze ≤ 6 ∧ (gz 2).dev.gauze = 2 ∧ (gz 2).dev.tested = []) :=
  by and_intros <;> decide
end Boot

namespace Core1
def MIS := setT S1 T0 (fun th => R0 [(30,0x80040108)] th)
def w_1 := en .alu 11 1 2 0 (b:=false)
def d_3 := idec S1 T0 (en .alu 11 1 2 0 (b:=false))
def w_5 := en .alu 11 1 2 0 (b:=true)
def d_7 := idec S1 T0 (en .alu 11 1 2 0 (b:=true))
def w_57 := en .addi 11 1 0 0 0x7FF
def d_59 := idec S1 T0 (en .addi 11 1 0 0 0x7FF)
def w_61 := en .andi 11 1 0 0 0x7FF
def d_63 := idec S1 T0 (en .andi 11 1 0 0 0x7FF)
def w_65 := en .ori 11 1 0 0 0x7FF
def d_67 := idec S1 T0 (en .ori 11 1 0 0 0x7FF)
def w_69 := en .xori 11 1 0 0 0x7FF
def d_71 := idec S1 T0 (en .xori 11 1 0 0 0x7FF)
def w_73 := en .shi 11 2 0 9 3 (b:=false)
def d_75 := idec S1 T0 (en .shi 11 2 0 9 3 (b:=false))
def w_77 := en .shi 11 2 0 9 3 (b:=true)
def d_79 := idec S1 T0 (en .shi 11 2 0 9 3 (b:=true))
def w_81 := en .cmpi 0 1 0 0 7
def d_83 := idec S1 T0 (en .cmpi 0 1 0 0 7)
def w_85 := en .movw 2 0 0 2 0x1234 (b:=false)
def d_87 := idec S1 T0 (en .movw 2 0 0 2 0x1234 (b:=false))
def w_89 := en .movw 2 0 0 2 0x1234 (b:=true)
def d_91 := idec S1 T0 (en .movw 2 0 0 2 0x1234 (b:=true))
def w_94 := en .cmpp 3 1 2 4 (sz:=5)
def d_96 := idec S1 T0 (en .cmpp 3 1 2 4 (sz:=5))
def w_98 := en .cmppi 3 1 0 4 9 (sz:=0)
def d_100 := idec S1 T0 (en .cmppi 3 1 0 4 9 (sz:=0))
def w_102 := en .plogic 2 1 3 2
def d_104 := idec S1 T0 (en .plogic 2 1 3 2)
def w_107 := en .mfs 3 0 0 0x30
def d_109 := idec S1 T0 (en .mfs 3 0 0 0x30)
def w_115 := en .crc 3 1 2 0
def d_117 := idec S1 T0 (en .crc 3 1 2 0)
def w_119 := en .crc 3 1 2 1
def d_121 := idec S1 T0 (en .crc 3 1 2 1)
def w_123 := en .crc 3 1 2 2
def d_125 := idec S1 T0 (en .crc 3 1 2 2)
def w_127 := en .br 0 0 0 0 0x40
def d_129 := idec S1 T0 (en .br 0 0 0 0 0x40)
def w_131 := en .jmp 0 4 0 0
def th_132 := ith S1 T0 (en .jmp 0 4 0 0)
def d_133 := idec S1 T0 (en .jmp 0 4 0 0)
def w_135 := en .jmp 0 1 0 0
def th_136 := ith S1 T0 (en .jmp 0 1 0 0)
def d_137 := idec S1 T0 (en .jmp 0 1 0 0)
def w_139 := en .mul 0 1 2 0
def d_141 := idec S1 T0 (en .mul 0 1 2 0)
def w_144 := en .mulu 0 1 2 1
def d_146 := idec S1 T0 (en .mulu 0 1 2 1)
def w_149 := en .div 9 2 3 8
def th_150 := ith S1 T0 (en .div 9 2 3 8)
def d_151 := idec S1 T0 (en .div 9 2 3 8)
def w_154 := en .divu 9 2 3 9
def th_155 := ith S1 T0 (en .divu 9 2 3 9)
def d_156 := idec S1 T0 (en .divu 9 2 3 9)
def w_159 := en .rem 9 2 3 10
def th_160 := ith S1 T0 (en .rem 9 2 3 10)
def d_161 := idec S1 T0 (en .rem 9 2 3 10)
def w_164 := en .remu 9 2 3 11
def th_165 := ith S1 T0 (en .remu 9 2 3 11)
def d_166 := idec S1 T0 (en .remu 9 2 3 11)
def w_169 := en .div 9 2 8 8
def th_170 := ith S1 T0 (en .div 9 2 8 8)
def d_171 := idec S1 T0 (en .div 9 2 8 8)
def w_174 := en .divu 9 2 8 9
def th_175 := ith S1 T0 (en .divu 9 2 8 9)
def d_176 := idec S1 T0 (en .divu 9 2 8 9)
def w_179 := en .rem 9 2 8 10
def th_180 := ith S1 T0 (en .rem 9 2 8 10)
def d_181 := idec S1 T0 (en .rem 9 2 8 10)
def w_184 := en .remu 9 2 8 11
def th_185 := ith S1 T0 (en .remu 9 2 8 11)
def d_186 := idec S1 T0 (en .remu 9 2 8 11)
def th_205 := S1.thread 0
def old_206 : Thread := { S1.thread 0 with sr := 0x1FF, le := (S1.thread 0).pc, ls := 0x80}
def old_208 : Thread := { S1.thread 0 with sr := 0x1FF, lc := 1, le := (S1.thread 0).pc, ls := 0x80}
def th_209 : Thread := { S1.thread 0 with sr := 0x1FF, lc := 1, near := some 5}
def tgt_211 := some (0x40 : W64)
def w_222 := en .loopReg 0 1 0 0 3
def d_224 := idec S1 T0 (en .loopReg 0 1 0 0 3)
def w_237 := en .loopi 0 0 0 0 4095
def d_239 := idec S1 T0 (en .loopi 0 0 0 0 4095)
def w_259 := en .callr 11 1 12 1
def th_260 := ith S1 T0 (en .callr 11 1 12 1)
def d_261 := idec S1 T0 (en .callr 11 1 12 1)
def th_263 := ith MIS T0 (en .callr 11 1 12 1)
def d_264 := idec MIS T0 (en .callr 11 1 12 1)
def c_266 := runCx S1 T0 (S1.thread 0) (en .wait 0 0 0 0) dd

theorem wit_RegisterRowsComplete :
    ((issued S1 T0 w_77).isSome = true ∧ d_79.row = CoreRow.shi ∧ d_79.b = true) ∧
    ((issued S1 T0 w_89).isSome = true ∧ d_91.row = CoreRow.movw ∧ BitVec.getLsbD w_89 16 = true) ∧
    ((issued S1 T0 w_81).isSome = true ∧ d_83.row = CoreRow.cmpi) ∧
    ((issued S1 T0 w_102).isSome = true ∧ d_104.row = CoreRow.plogic) ∧
    ((issued S1 T0 w_65).isSome = true ∧ d_67.row = CoreRow.ori) ∧
    ((issued S1 T0 w_57).isSome = true ∧ d_59.row = CoreRow.addi) ∧
    ((issued S1 T0 w_61).isSome = true ∧ d_63.row = CoreRow.andi) ∧
    ((issued S1 T0 w_69).isSome = true ∧ d_71.row = CoreRow.xori) ∧
    ((issued S1 T0 w_94).isSome = true ∧ d_96.row = CoreRow.cmpp) ∧
    ((issued S1 T0 w_127).isSome = true ∧ d_129.row = CoreRow.br) ∧
    ((issued S1 T0 w_98).isSome = true ∧ d_100.row = CoreRow.cmppi) ∧
    ((issued S1 T0 w_107).isSome = true ∧ d_109.row = CoreRow.mfs) ∧
    ((issued S1 T0 w_5).isSome = true ∧ d_7.row = CoreRow.alu ∧ d_7.b = true) ∧
    ((issued S1 T0 w_1).isSome = true ∧ d_3.row = CoreRow.alu ∧ d_3.b = false) ∧
    ((issued S1 T0 w_115).isSome = true ∧ d_117.row = CoreRow.crc ∧ d_117.fn = 0) ∧
    ((issued S1 T0 w_119).isSome = true ∧ d_121.row = CoreRow.crc ∧ d_121.fn = 1) ∧
    ((issued S1 T0 w_123).isSome = true ∧ d_125.row = CoreRow.crc ∧ d_125.fn = 2) ∧
    ((issued S1 T0 w_131).isSome = true ∧ d_133.row = CoreRow.jmp ∧ bf (th_132.reg d_133.ra) 0 2 = 0) ∧
    ((issued S1 T0 w_135).isSome = true ∧ d_137.row = CoreRow.jmp ∧ bf (th_136.reg d_137.ra) 0 2 ≠ 0) ∧
    ((issued S1 T0 w_73).isSome = true ∧ d_75.row = CoreRow.shi ∧ d_75.b = false) ∧
    ((issued S1 T0 w_85).isSome = true ∧ d_87.row = CoreRow.movw ∧ BitVec.getLsbD w_85 16 = false) :=
  by and_intros <;> decide
theorem wit_MulDivRows :
    (bf w_139 22 6 = 12 ∧ decodeOp w_139 = DecRes.ok d_141 ∧ bf w_139 0 7 ≤ 1) ∧
    ((issued S1 T0 w_149).isSome = true ∧ d_151.row = CoreRow.div ∧ th_150.reg d_151.rb ≠ 0#64) ∧
    ((issued S1 T0 w_159).isSome = true ∧ d_161.row = CoreRow.rem ∧ th_160.reg d_161.rb ≠ 0#64) ∧
    ((issued S1 T0 w_154).isSome = true ∧ d_156.row = CoreRow.divu ∧ th_155.reg d_156.rb ≠ 0#64) ∧
    ((issued S1 T0 w_164).isSome = true ∧ d_166.row = CoreRow.remu ∧ th_165.reg d_166.rb ≠ 0#64) ∧
    ((issued S1 T0 w_139).isSome = true ∧ d_141.row = CoreRow.mul) ∧
    ((issued S1 T0 w_144).isSome = true ∧ d_146.row = CoreRow.mulu) ∧
    ((issued S1 T0 w_169).isSome = true ∧ d_171.row = CoreRow.div ∧ th_170.reg d_171.rb = 0#64) ∧
    ((issued S1 T0 w_179).isSome = true ∧ d_181.row = CoreRow.rem ∧ th_180.reg d_181.rb = 0#64) ∧
    ((issued S1 T0 w_174).isSome = true ∧ d_176.row = CoreRow.divu ∧ th_175.reg d_176.rb = 0#64) ∧
    ((issued S1 T0 w_184).isSome = true ∧ d_186.row = CoreRow.remu ∧ th_185.reg d_186.rb = 0#64) :=
  by and_intros <;> decide
theorem wit_CompletionEffect :
    (th_205.near = none ∧ (¬(th_205.la = true ∧ th_205.pc = th_205.le))) ∧
    (th_209.near = some 5#128 ∧ old_208.la = true ∧ old_208.pc = old_208.le ∧ old_208.lc = 1#64) ∧
    (old_206.la = true ∧ old_206.pc = old_206.le ∧ 1 < BitVec.toNat old_206.lc) ∧
    (tgt_211 = some 64#64) ∧
    ((Wait.sync (en CoreRow.wait 0 0 0 0 0#64)).reads = [] ∧ unasked c_266.th ∧ unasked (S1.thread c_266.k)) :=
  by and_intros <;> decide
theorem wit_RegisterRowsFrame :
    ((issued S1 T0 w_127).isSome = true ∧ (d_129.row = CoreRow.br ∧ Instr.br T0 (en CoreRow.br 0 0 0 0 64#64) = Instr.br T0 w_127) ∧ isNext (exec (Instr.br T0 (en CoreRow.br 0 0 0 0 64#64)) S1) = true ∧ d_129.row ≠ CoreRow.alu ∧ d_129.row ≠ CoreRow.shi ∧ d_129.row ≠ CoreRow.cmpi ∧ d_129.row ≠ CoreRow.cmpp ∧ d_129.row ≠ CoreRow.cmppi ∧ d_129.row ≠ CoreRow.plogic ∧ 4 ≠ S1.tkey T0 ∧ 4 ≠ B.walk + WALK.WALK_CNT.off ∧ 4 ≠ d_129.rd) :=
  by decide
theorem wit_LoopAndCallRows :
    ((issued S1 T0 w_237).isSome = true ∧ d_239.row = CoreRow.loopi) ∧
    ((issued S1 T0 w_222).isSome = true ∧ d_224.row = CoreRow.loopReg) ∧
    ((issued MIS T0 w_259).isSome = true ∧ (d_264.row = CoreRow.callr ∧ Instr.callr T0 (en CoreRow.callr 11 1 12 1 0#64) = Instr.callr T0 w_259 ∧ 7#64 = th_263.reg d_264.ra) ∧ bf (th_263.reg 30) 0 4 ≠ 0) ∧
    ((issued S1 T0 w_259).isSome = true ∧ (d_261.row = CoreRow.callr ∧ Instr.callr T0 (en CoreRow.callr 11 1 12 1 0#64) = Instr.callr T0 w_259 ∧ 7#64 = th_260.reg d_261.ra) ∧ bf (th_260.reg 30) 0 4 = 0 ∧ bf (7#64) 0 2 ≠ 0) :=
  by and_intros <;> decide
end Core1

namespace Core2
def S6 := setT S2 T0 (fun th => R0 [(2,0x8877665544332211)] th)
def SR1 := S2.poke 0x80040100 (leBytes 8 0x80000400 ++ leBytes 8 0x80040110)
def SR2 := S2.poke 0x80040100 (leBytes 8 0x80000400 ++ leBytes 8 0x80040118)
def SR3 := S2.poke 0x80040100 (leBytes 8 0x80000402 ++ leBytes 8 0x80040110)
def X7 := setT S1 T0 (fun th => R0 [(12,0xFFFF)] th)
def X11 := setT S1 T0 (fun th => R0 [(12,0xFFFF)] th)
def X13 := setT S1 T0 (fun th => R0 [(12,0xFFFF)] th)
def X15 := setT S1 T0 (fun th => R0 [(12,0xFFFF)] th)
def X17 := setT S2 T0 (fun th => R0 [(12,0xFFFF)] th)
def X29 := setT (ring 1 S2) T0 (fun th => R0 [(12,0xFFFF)] th)
def X35 := setT (ring 1 S2) T0 (fun th => R0 [(12,0xFFFF)] th)
def B1 := setT S2 T0 (fun th => { R0 [(4,2147745841),(5,171),(6,100)] th with st := .stalled (.blk (en .blk 4 5 6 1) none) })
def cB1 : Cx := ⟨T0, 0, (B1.thread 0).awake, en .blk 4 5 6 1, (match decodeOp (en .blk 4 5 6 1) with | .ok d => d | _ => dd), [], none⟩
def B3 := setT S2 T0 (fun th => { R0 [(4,2147746304),(5,2147745827),(6,20)] th with st := .stalled (.blk (en .blk 4 5 6 0) none) })
def cB3 : Cx := ⟨T0, 0, (B3.thread 0).awake, en .blk 4 5 6 0, (match decodeOp (en .blk 4 5 6 0) with | .ok d => d | _ => dd), [], none⟩
def rd3 := gx ([], B3) (blkRead cB3 2147745827 20 .ok false B3)
def B5 := setT S2 T0 (fun th => { R0 [(4,2147745859),(5,2147745827),(6,96)] th with st := .stalled (.blk (en .blk 4 5 6 0) none) })
def cB5 : Cx := ⟨T0, 0, (B5.thread 0).awake, en .blk 4 5 6 0, (match decodeOp (en .blk 4 5 6 0) with | .ok d => d | _ => dd), [], none⟩
def rd5 := gx ([], B5) (blkRead cB5 2147745888 35 .ok false B5)
def B7 := setT S2 T0 (fun th => { R0 [(4,77),(5,2147745824),(6,100)] th with st := .stalled (.blk (en .blk 4 5 6 2) none) })
def cB7 : Cx := ⟨T0, 0, (B7.thread 0).awake, en .blk 4 5 6 2, (match decodeOp (en .blk 4 5 6 2) with | .ok d => d | _ => dd), [], none⟩
def S7 := setT S2 T0 (fun th => { th with tlbis := 2 })
def S8 := { S7 with fab := { S7.fab with tlbi := [⟨T0, 6, 1, 0⟩, ⟨T0, 4, 1, 0x5000⟩] } }
def T3 : ThreadId := ⟨0,0,3⟩
def SQ := S2.setThread 3 { S2.thread 0 with p := 1 }
def SIQ : State := (S2.setFld B.intd (irqBit 0x080 300) 1).wr (routeKey 300) 1
def w_1 := en .call 0 0 0 0 0x100
def th_2 := ith S2 T0 (en .call 0 0 0 0 0x100)
def d_3 := idec S2 T0 (en .call 0 0 0 0 0x100)
def s1_4 := ist S2 T0 (en .call 0 0 0 0 0x100)
def w_11 := en .ret 0 0 0 2
def th_12 := ith SR1 T0 (en .ret 0 0 0 2)
def d_13 := idec SR1 T0 (en .ret 0 0 0 2)
def s1_14 := ist SR1 T0 (en .ret 0 0 0 2)
def th_15 := ith SR3 T0 (en .ret 0 0 0 2)
def d_16 := idec SR3 T0 (en .ret 0 0 0 2)
def s1_17 := ist SR3 T0 (en .ret 0 0 0 2)
def th_18 := ith SR2 T0 (en .ret 0 0 0 2)
def d_19 := idec SR2 T0 (en .ret 0 0 0 2)
def s1_20 := ist SR2 T0 (en .ret 0 0 0 2)
def w_21 := en .mts 0 1 0 0 (b:=true)
def th_22 := ith X7 T0 (en .mts 0 1 0 0 (b:=true))
def d_23 := idec X7 T0 (en .mts 0 1 0 0 (b:=true))
def s1_24 := ist X7 T0 (en .mts 0 1 0 0 (b:=true))
def w_25 := en .mts 0 2 0 0 (b:=true)
def w_29 := en .mts 0 3 0 4 (b:=true)
def d_31 := idec X11 T0 (en .mts 0 3 0 4 (b:=true))
def w_33 := en .mts 0 8 0 0x21 (b:=true)
def th_34 := ith X13 T0 (en .mts 0 8 0 0x21 (b:=true))
def d_35 := idec X13 T0 (en .mts 0 8 0 0x21 (b:=true))
def w_37 := en .mts 0 12 0 0x22 (b:=true)
def th_38 := ith X15 T0 (en .mts 0 12 0 0x22 (b:=true))
def d_39 := idec X15 T0 (en .mts 0 12 0 0x22 (b:=true))
def th_41 := ith X17 T0 (en .mts 0 1 0 0 (b:=true))
def d_42 := idec X17 T0 (en .mts 0 1 0 0 (b:=true))
def s1_43 := ist X17 T0 (en .mts 0 1 0 0 (b:=true))
def th_59 := ith X29 T0 (en .mts 0 2 0 0 (b:=true))
def d_60 := idec X29 T0 (en .mts 0 2 0 0 (b:=true))
def th_68 := ith X35 T0 (en .mts 0 12 0 0x22 (b:=true))
def d_69 := idec X35 T0 (en .mts 0 12 0 0x22 (b:=true))
def w_117 := en .load 11 4 0 0 3 0 3 false
def th_118 := ith S2 T0 (en .load 11 4 0 0 3 0 3 false)
def d_119 := idec S2 T0 (en .load 11 4 0 0 3 0 3 false)
def s1_120 := ist S2 T0 (en .load 11 4 0 0 3 0 3 false)
def w_124 := en .load 11 4 0 0 3 0 3 true
def th_125 := ith S2 T0 (en .load 11 4 0 0 3 0 3 true)
def d_126 := idec S2 T0 (en .load 11 4 0 0 3 0 3 true)
def s1_127 := ist S2 T0 (en .load 11 4 0 0 3 0 3 true)
def w_131 := en .load 11 4 0 0 6 1 3 false
def th_132 := ith S2 T0 (en .load 11 4 0 0 6 1 3 false)
def d_133 := idec S2 T0 (en .load 11 4 0 0 6 1 3 false)
def s1_134 := ist S2 T0 (en .load 11 4 0 0 6 1 3 false)
def w_138 := en .load 11 4 0 0 6 1 3 true
def th_139 := ith S2 T0 (en .load 11 4 0 0 6 1 3 true)
def d_140 := idec S2 T0 (en .load 11 4 0 0 6 1 3 true)
def s1_141 := ist S2 T0 (en .load 11 4 0 0 6 1 3 true)
def w_145 := en .load 11 4 0 0 4 2 3 false
def th_146 := ith S2 T0 (en .load 11 4 0 0 4 2 3 false)
def d_147 := idec S2 T0 (en .load 11 4 0 0 4 2 3 false)
def s1_148 := ist S2 T0 (en .load 11 4 0 0 4 2 3 false)
def w_152 := en .load 11 4 0 0 4 2 3 true
def th_153 := ith S2 T0 (en .load 11 4 0 0 4 2 3 true)
def d_154 := idec S2 T0 (en .load 11 4 0 0 4 2 3 true)
def s1_155 := ist S2 T0 (en .load 11 4 0 0 4 2 3 true)
def w_159 := en .load 11 4 0 0 8 3 3 false
def th_160 := ith S2 T0 (en .load 11 4 0 0 8 3 3 false)
def d_161 := idec S2 T0 (en .load 11 4 0 0 8 3 3 false)
def s1_162 := ist S2 T0 (en .load 11 4 0 0 8 3 3 false)
def w_166 := en .loadx 11 4 7 0 0 0 3 true
def th_167 := ith S2 T0 (en .loadx 11 4 7 0 0 0 3 true)
def d_168 := idec S2 T0 (en .loadx 11 4 7 0 0 0 3 true)
def s1_169 := ist S2 T0 (en .loadx 11 4 7 0 0 0 3 true)
def w_182 := en .loadxu 11 4 7 0 0 0 3 false
def th_183 := ith S2 T0 (en .loadxu 11 4 7 0 0 0 3 false)
def d_184 := idec S2 T0 (en .loadxu 11 4 7 0 0 0 3 false)
def s1_185 := ist S2 T0 (en .loadxu 11 4 7 0 0 0 3 false)
def c_198 := ics S2 (en .load 11 4 0 0 0 2 3 false)
def w_202 := en .store 2 4 0 0 5 0 3
def th_203 := ith S3 T0 (en .store 2 4 0 0 5 0 3)
def d_204 := idec S3 T0 (en .store 2 4 0 0 5 0 3)
def s1_205 := ist S3 T0 (en .store 2 4 0 0 5 0 3)
def w_207 := en .store 2 4 0 0 6 1 3
def th_208 := ith S3 T0 (en .store 2 4 0 0 6 1 3)
def d_209 := idec S3 T0 (en .store 2 4 0 0 6 1 3)
def s1_210 := ist S3 T0 (en .store 2 4 0 0 6 1 3)
def w_212 := en .store 2 4 0 0 4 2 3
def th_213 := ith S3 T0 (en .store 2 4 0 0 4 2 3)
def d_214 := idec S3 T0 (en .store 2 4 0 0 4 2 3)
def s1_215 := ist S3 T0 (en .store 2 4 0 0 4 2 3)
def w_217 := en .store 2 4 0 0 8 3 3
def th_218 := ith S3 T0 (en .store 2 4 0 0 8 3 3)
def d_219 := idec S3 T0 (en .store 2 4 0 0 8 3 3)
def s1_220 := ist S3 T0 (en .store 2 4 0 0 8 3 3)
def w_222 := en .storex 2 4 7 0 0 3 3
def th_223 := ith S3 T0 (en .storex 2 4 7 0 0 3 3)
def d_224 := idec S3 T0 (en .storex 2 4 7 0 0 3 3)
def s1_225 := ist S3 T0 (en .storex 2 4 7 0 0 3 3)
def o_231 := ent 0x80040020 (leBytes 8 0x99AA)
def data_232 := leBytes 8 0x99AA
def w_241 := en .atom 2 4 3 0 0 3 1
def w_249 := en .atom 2 4 3 1 0 2 1
def th_250 := ith S6 T0 (en .atom 2 4 3 1 0 2 1)
def d_251 := idec S6 T0 (en .atom 2 4 3 1 0 2 1)
def s1_252 := ist S6 T0 (en .atom 2 4 3 1 0 2 1)
def w_265 := en .atom 2 4 3 2 0 2 1
def th_266 := ith S6 T0 (en .atom 2 4 3 2 0 2 1)
def d_267 := idec S6 T0 (en .atom 2 4 3 2 0 2 1)
def s1_268 := ist S6 T0 (en .atom 2 4 3 2 0 2 1)
def w_269 := en .atom 2 5 3 2 0 2 1
def th_270 := ith S2 T0 (en .atom 2 5 3 2 0 2 1)
def d_271 := idec S2 T0 (en .atom 2 5 3 2 0 2 1)
def w_281 := en .atom 2 4 3 3 0 2 1
def th_282 := ith S6 T0 (en .atom 2 4 3 3 0 2 1)
def d_283 := idec S6 T0 (en .atom 2 4 3 3 0 2 1)
def s1_284 := ist S6 T0 (en .atom 2 4 3 3 0 2 1)
def w_297 := en .blk 4 5 6 0
def w_305 := en .blk 4 5 6 1
def w_313 := en .blk 4 5 6 2
def th_314 := ith S2 T0 (en .blk 4 5 6 2)
def d_315 := idec S2 T0 (en .blk 4 5 6 2)
def w_317 := en .blk 4 5 8 2
def th_318 := ith S2 T0 (en .blk 4 5 8 2)
def d_319 := idec S2 T0 (en .blk 4 5 8 2)
def w_341 := en .syncTlb 0 0 0 1
def w_345 := en .ici 0 0 0 2
def d_347 := idec S2 T0 (en .ici 0 0 0 2)
def w_354 := en .tlbi 0 1 0 4
def th_355 := ith S2 T0 (en .tlbi 0 1 0 4)
def d_356 := idec S2 T0 (en .tlbi 0 1 0 4)
def th_407 := ith S4 T0 (en .tlbi 0 1 0 4)
def d_408 := idec S4 T0 (en .tlbi 0 1 0 4)
def d_420 := idec S7 T0 (en .syncTlb 0 0 0 1)
def s1_421 := ist S7 T0 (en .syncTlb 0 0 0 1)
def w_422 := en .wait 0 0 0 0
def th_423 := ith S2 T0 (en .wait 0 0 0 0)
def d_424 := idec S2 T0 (en .wait 0 0 0 0)
def s1_425 := ist S2 T0 (en .wait 0 0 0 0)
def w_426 := en .tstart 11 10 4 1
def th_427 := ith S2 T0 (en .tstart 11 10 4 1)
def d_428 := idec S2 T0 (en .tstart 11 10 4 1)
def w_430 := en .tstart 11 3 4 1
def th_431 := ith S2 T0 (en .tstart 11 3 4 1)
def d_432 := idec S2 T0 (en .tstart 11 3 4 1)
def s1_433 := ist S2 T0 (en .tstart 11 3 4 1)
def w_434 := en .tstart 11 3 5 1
def th_435 := ith S2 T0 (en .tstart 11 3 5 1)
def d_436 := idec S2 T0 (en .tstart 11 3 5 1)
def s1_437 := ist S2 T0 (en .tstart 11 3 5 1)
def w_438 := en .tstart 11 8 4 1
def th_439 := ith S2 T0 (en .tstart 11 8 4 1)
def d_440 := idec S2 T0 (en .tstart 11 8 4 1)
def s1_441 := ist S2 T0 (en .tstart 11 8 4 1)
def w_446 := en .tstop 11 10 4 2
def th_447 := ith S2 T0 (en .tstop 11 10 4 2)
def d_448 := idec S2 T0 (en .tstop 11 10 4 2)
def w_450 := en .tstop 11 3 4 2
def th_451 := ith S2 T0 (en .tstop 11 3 4 2)
def d_452 := idec S2 T0 (en .tstop 11 3 4 2)
def w_458 := en .tstop 11 8 4 2
def th_459 := ith S2 T0 (en .tstop 11 8 4 2)
def d_460 := idec S2 T0 (en .tstop 11 8 4 2)
def th_475 := ((S2).issuing T0).getD {}
def w_479 := en .endp 0 0 0 7
def th_484 := (((ring 3 S2)).issuing T0).getD {}
def w_486 := en .mts 0 1 0 0x10 (b:=true)
def th_488 := ith SQ T3 (en .tstop 11 3 4 2)
def d_489 := idec SQ T3 (en .tstop 11 3 4 2)
def th_491 := ith S3 T0 (en .atom 2 4 3 0 0 3 1)
def d_492 := idec S3 T0 (en .atom 2 4 3 0 0 3 1)
def s1_493 := ist S3 T0 (en .atom 2 4 3 0 0 3 1)
def w_494 := en .mts 0 8 0 3 (b:=true)
def d_496 := idec S1 T0 (en .mts 0 8 0 3 (b:=true))
def d_499 := idec SIQ T0 (en .wait 0 0 0 0)
def s1_500 := ist SIQ T0 (en .wait 0 0 0 0)

theorem wit_LoopAndCallRows_2 :
    ((issued S2 T0 w_1).isSome = true ∧ (d_3.row = CoreRow.call ∧ Instr.call T0 (en CoreRow.call 0 0 0 0 256#64) = Instr.call T0 w_1 ∧ 2147484160#64 = th_2.pc + d_3.imm) ∧ bf (th_2.reg 30) 0 4 = 0 ∧ bf (2147484160#64) 0 2 = 0 ∧ ({ seg := some 1, off := BitVec.toNat (th_2.reg 30 - 16#64), n := 16, access := 6, need := 2, atom := false, keys := true, ring := th_2.ring, kind := AccK.write, callf := some (th_2.reg 30, 0) : MAcc }.check (runCx S2 T0 th_2 w_1 d_3) s1_4).isOk = true ∧ th_2.buf.length < 4) ∧
    ((issued SR2 T0 w_11).isSome = true ∧ d_19.row = CoreRow.ret ∧ (List.take 8 (laS SR2 (ics SR2 (en CoreRow.ret 0 0 0 2 0#64)) { seg := some 1, off := 2147746048, n := 16, access := 6, need := 1, atom := false, keys := true, ring := 0, kind := AccK.read, callf := some (2147746048#64, 1) : MAcc }).fst).length = 8 ∧ (loadAcc (runCx SR2 T0 th_18 w_11 d_19) { seg := some 1, off := BitVec.toNat (th_18.reg 30), n := 16, access := 6, need := 1, atom := false, keys := true, ring := th_18.ring, kind := AccK.read, callf := some (th_18.reg 30, 1) : MAcc } s1_20).isOk = true ∧ 2147746072#64 ≠ th_18.reg 30 + 16#64) ∧
    ((issued SR1 T0 w_11).isSome = true ∧ d_13.row = CoreRow.ret ∧ (List.take 8 (laS SR1 (ics SR1 (en CoreRow.ret 0 0 0 2 0#64)) { seg := some 1, off := 2147746048, n := 16, access := 6, need := 1, atom := false, keys := true, ring := 0, kind := AccK.read, callf := some (2147746048#64, 1) : MAcc }).fst).length = 8 ∧ (loadAcc (runCx SR1 T0 th_12 w_11 d_13) { seg := some 1, off := BitVec.toNat (th_12.reg 30), n := 16, access := 6, need := 1, atom := false, keys := true, ring := th_12.ring, kind := AccK.read, callf := some (th_12.reg 30, 1) : MAcc } s1_14).isOk = true ∧ 2147746064#64 = th_12.reg 30 + 16#64 ∧ bf (2147484672#64) 0 2 = 0) ∧
    ((issued SR3 T0 w_11).isSome = true ∧ d_16.row = CoreRow.ret ∧ (List.take 8 (laS SR3 (ics SR3 (en CoreRow.ret 0 0 0 2 0#64)) { seg := some 1, off := 2147746048, n := 16, access := 6, need := 1, atom := false, keys := true, ring := 0, kind := AccK.read, callf := some (2147746048#64, 1) : MAcc }).fst).length = 8 ∧ (loadAcc (runCx SR3 T0 th_15 w_11 d_16) { seg := some 1, off := BitVec.toNat (th_15.reg 30), n := 16, access := 6, need := 1, atom := false, keys := true, ring := th_15.ring, kind := AccK.read, callf := some (th_15.reg 30, 1) : MAcc } s1_17).isOk = true ∧ 2147746064#64 = th_15.reg 30 + 16#64 ∧ bf (2147484674#64) 0 2 ≠ 0) :=
  by and_intros <;> decide
theorem wit_MtsRow :
    ((issued S1 T0 w_494).isSome = true ∧ d_496.row = CoreRow.mts ∧ d_496.fn = 3) ∧
    ((issued X11 T0 w_29).isSome = true ∧ d_31.row = CoreRow.mts ∧ 0 < d_31.fn ∧ d_31.fn < 32 ∧ d_31.fn ≠ 3) ∧
    ((issued X13 T0 w_33).isSome = true ∧ d_35.row = CoreRow.mts ∧ 32 ≤ d_35.fn ∧ BitVec.extractLsb' 0 16 (th_34.reg d_35.ra) = 0#16) ∧
    ((issued X15 T0 w_37).isSome = true ∧ d_39.row = CoreRow.mts ∧ 32 ≤ d_39.fn ∧ BitVec.extractLsb' 0 16 (th_38.reg d_39.ra) = 65535#16 ∧ th_38.ring = 0) ∧
    ((issued X35 T0 w_37).isSome = true ∧ d_69.row = CoreRow.mts ∧ 32 ≤ d_69.fn ∧ BitVec.extractLsb' 0 16 (th_68.reg d_69.ra) = 65535#16 ∧ th_68.ring ≠ 0) ∧
    ((issued X29 T0 w_25).isSome = true ∧ d_60.row = CoreRow.mts ∧ d_60.fn = 0 ∧ ((th_59.ring = 1 ∨ th_59.ring = 2) ∧ bf (th_59.reg d_60.ra) 1 2 < th_59.ring)) ∧
    ((issued X7 T0 w_21).isSome = true ∧ d_23.row = CoreRow.mts ∧ d_23.fn = 0 ∧ (¬(th_22.ring = 3 ∧ (bf (th_22.reg d_23.ra) 1 2 ≠ 3 ∨ BitVec.getLsbD (th_22.reg d_23.ra) 0 ≠ th_22.ie) ∨ (th_22.ring = 1 ∨ th_22.ring = 2) ∧ bf (th_22.reg d_23.ra) 1 2 < th_22.ring)) ∧ s1_24.ceHeld = true) ∧
    ((issued X17 T0 w_21).isSome = true ∧ d_42.row = CoreRow.mts ∧ d_42.fn = 0 ∧ (¬(th_41.ring = 3 ∧ (bf (th_41.reg d_42.ra) 1 2 ≠ 3 ∨ BitVec.getLsbD (th_41.reg d_42.ra) 0 ≠ th_41.ie) ∨ (th_41.ring = 1 ∨ th_41.ring = 2) ∧ bf (th_41.reg d_42.ra) 1 2 < th_41.ring)) ∧ s1_43.ceHeld = false) :=
  by and_intros <;> decide
theorem wit_LoadRows :
    ((issued S2 T0 w_182).isSome = true ∧ (loadAcc (runCx S2 T0 th_183 w_182 d_184) (rowAcc th_183 d_184 true false) s1_185).isOk = true ∧ d_184.row = CoreRow.loadxu) ∧
    ((issued S2 T0 w_159).isSome = true ∧ (loadAcc (runCx S2 T0 th_160 w_159 d_161) (rowAcc th_160 d_161 false false) s1_162).isOk = true ∧ d_161.row = CoreRow.load ∧ d_161.sz = 3) ∧
    ((issued S2 T0 w_117).isSome = true ∧ (loadAcc (runCx S2 T0 th_118 w_117 d_119) (rowAcc th_118 d_119 false false) s1_120).isOk = true ∧ d_119.row = CoreRow.load ∧ d_119.sz = 0 ∧ d_119.b = false) ∧
    ((issued S2 T0 w_131).isSome = true ∧ (loadAcc (runCx S2 T0 th_132 w_131 d_133) (rowAcc th_132 d_133 false false) s1_134).isOk = true ∧ d_133.row = CoreRow.load ∧ d_133.sz = 1 ∧ d_133.b = false) ∧
    ((issued S2 T0 w_145).isSome = true ∧ (loadAcc (runCx S2 T0 th_146 w_145 d_147) (rowAcc th_146 d_147 false false) s1_148).isOk = true ∧ d_147.row = CoreRow.load ∧ d_147.sz = 2 ∧ d_147.b = false) ∧
    ((issued S2 T0 w_166).isSome = true ∧ (loadAcc (runCx S2 T0 th_167 w_166 d_168) (rowAcc th_167 d_168 true false) s1_169).isOk = true ∧ d_168.row = CoreRow.loadx) ∧
    ((issued S2 T0 w_124).isSome = true ∧ (loadAcc (runCx S2 T0 th_125 w_124 d_126) (rowAcc th_125 d_126 false false) s1_127).isOk = true ∧ d_126.row = CoreRow.load ∧ d_126.sz = 0 ∧ d_126.b = true) ∧
    ((issued S2 T0 w_138).isSome = true ∧ (loadAcc (runCx S2 T0 th_139 w_138 d_140) (rowAcc th_139 d_140 false false) s1_141).isOk = true ∧ d_140.row = CoreRow.load ∧ d_140.sz = 1 ∧ d_140.b = true) ∧
    ((issued S2 T0 w_152).isSome = true ∧ (loadAcc (runCx S2 T0 th_153 w_152 d_154) (rowAcc th_153 d_154 false false) s1_155).isOk = true ∧ d_154.row = CoreRow.load ∧ d_154.sz = 2 ∧ d_154.b = true) ∧
    (c_198.ld = none ∧ ({ seg := some 3, off := 2147745826, n := 2, access := 0, need := 1, atom := false, keys := true, ring := 0, kind := AccK.read, callf := none : MAcc }.check c_198 S2).isOk = true ∧ ((ckS S2 (ics S2 (en CoreRow.load 11 4 0 0 (0#64) 2 3)) { seg := some 3, off := 2147745826, n := 2, access := 0, need := 1, atom := false, keys := true, ring := 0, kind := AccK.read, callf := none : MAcc }).snd.region 2147745826).trio? = some (↑c_198.t.trio : Nat) ∧ (∀ (o : OutEnt), o ∈ pendingStores (ckS S2 (ics S2 (en CoreRow.load 11 4 0 0 (0#64) 2 3)) { seg := some 3, off := 2147745826, n := 2, access := 0, need := 1, atom := false, keys := true, ring := 0, kind := AccK.read, callf := none : MAcc }).snd c_198.t c_198.k → touches o.what.pieces [(2147745826, 2)] = false) ∧ (ckS S2 (ics S2 (en CoreRow.load 11 4 0 0 (0#64) 2 3)) { seg := some 3, off := 2147745826, n := 2, access := 0, need := 1, atom := false, keys := true, ring := 0, kind := AccK.read, callf := none : MAcc }).snd.badAddr 2147745826 2 = none) :=
  by and_intros <;> decide
theorem wit_StoreRows :
    ((issued S3 T0 w_222).isSome = true ∧ ((rowAcc th_223 d_224 true true).check (runCx S3 T0 th_223 w_222 d_224) s1_225).isOk = true ∧ d_224.row = CoreRow.storex) ∧
    ((issued S3 T0 w_202).isSome = true ∧ ((rowAcc th_203 d_204 false true).check (runCx S3 T0 th_203 w_202 d_204) s1_205).isOk = true ∧ d_204.row = CoreRow.store ∧ d_204.sz = 0) ∧
    ((issued S3 T0 w_207).isSome = true ∧ ((rowAcc th_208 d_209 false true).check (runCx S3 T0 th_208 w_207 d_209) s1_210).isOk = true ∧ d_209.row = CoreRow.store ∧ d_209.sz = 1) ∧
    ((issued S3 T0 w_212).isSome = true ∧ ((rowAcc th_213 d_214 false true).check (runCx S3 T0 th_213 w_212 d_214) s1_215).isOk = true ∧ d_214.row = CoreRow.store ∧ d_214.sz = 2) ∧
    ((issued S3 T0 w_217).isSome = true ∧ ((rowAcc th_218 d_219 false true).check (runCx S3 T0 th_218 w_217 d_219) s1_220).isOk = true ∧ d_219.row = CoreRow.store ∧ d_219.sz = 3) :=
  by and_intros <;> decide
theorem wit_StorePerformedWritesItsBytes :
    ((S3.thread (S3.tkey T0)).st = TState.running ∧ (S3.thread (S3.tkey T0)).buf = [o_231, ent 2147745856 [1#8, 2#8, 3#8, 4#8, 5#8, 6#8, 7#8, 136#8]] ∧ o_231.tid = T0 ∧ (S3.trio (↑T0.trio : Nat)).lost = false ∧ o_231.what = OutWhat.store 2147745824 [(2147745824, data_232)] ∧ (S3.region 2147745824).trio? = some (↑T0.trio : Nat) ∧ S3.conf (↑T0.trio : Nat) ≠ 1 ∧ (S3.trio (↑T0.trio : Nat)).commit = [] ∧ 2147745823 ≠ S3.tkey T0) :=
  by decide
theorem wit_AtomicRows :
    ((issued S6 T0 w_249).isSome = true ∧ d_251.row = CoreRow.atom ∧ BitVec.toNat (th_250.reg d_251.ra) % 2 ^ d_251.sz = 0 ∧ ({ seg := some d_251.seg, off := BitVec.toNat (th_250.reg d_251.ra), n := 2 ^ d_251.sz, access := 3, need := 3, atom := true, keys := true, ring := th_250.ring, kind := AccK.atomic, callf := none : MAcc }.check (runCx S6 T0 th_250 w_249 d_251) s1_252).isOk = true ∧ ((ckS S6 (ics S6 (en CoreRow.atom 2 4 3 1 (0#64) 2 1)) { seg := some 1, off := BitVec.toNat ((ith S6 T0 (en CoreRow.atom 2 4 3 1 (0#64) 2 1)).reg 4), n := 4, access := 3, need := 3, atom := true, keys := true, ring := 0, kind := AccK.atomic, callf := none : MAcc }).snd.region 2147745824).trio? = some (↑T0.trio : Nat) ∧ limitCheckpoint (↑T0.trio : Nat) (ckS S6 (ics S6 (en CoreRow.atom 2 4 3 1 (0#64) 2 1)) { seg := some 1, off := BitVec.toNat ((ith S6 T0 (en CoreRow.atom 2 4 3 1 (0#64) 2 1)).reg 4), n := 4, access := 3, need := 3, atom := true, keys := true, ring := 0, kind := AccK.atomic, callf := none : MAcc }).snd = (ckS S6 (ics S6 (en CoreRow.atom 2 4 3 1 (0#64) 2 1)) { seg := some 1, off := BitVec.toNat ((ith S6 T0 (en CoreRow.atom 2 4 3 1 (0#64) 2 1)).reg 4), n := 4, access := 3, need := 3, atom := true, keys := true, ring := 0, kind := AccK.atomic, callf := none : MAcc }).snd ∧ th_250.buf = [] ∧ (ckS S6 (ics S6 (en CoreRow.atom 2 4 3 1 (0#64) 2 1)) { seg := some 1, off := BitVec.toNat ((ith S6 T0 (en CoreRow.atom 2 4 3 1 (0#64) 2 1)).reg 4), n := 4, access := 3, need := 3, atom := true, keys := true, ring := 0, kind := AccK.atomic, callf := none : MAcc }).snd.badAddr 2147745824 4 = none ∧ (ckS S6 (ics S6 (en CoreRow.atom 2 4 3 1 (0#64) 2 1)) { seg := some 1, off := BitVec.toNat ((ith S6 T0 (en CoreRow.atom 2 4 3 1 (0#64) 2 1)).reg 4), n := 4, access := 3, need := 3, atom := true, keys := true, ring := 0, kind := AccK.atomic, callf := none : MAcc }).snd.conf (↑T0.trio : Nat) ≠ 1 ∧ d_251.fn = 1) ∧
    ((issued S2 T0 w_269).isSome = true ∧ d_271.row = CoreRow.atom ∧ (d_271.fn = 2 ∧ Instr.atomCas T0 (en CoreRow.atom 2 5 3 2 (0#64) 2 1) = Instr.atomCas T0 w_269) ∧ BitVec.toNat (th_270.reg d_271.ra) % 2 ^ d_271.sz ≠ 0) ∧
    ((issued S3 T0 w_241).isSome = true ∧ d_492.row = CoreRow.atom ∧ (d_492.fn = 0 ∧ Instr.atomSwap T0 (en CoreRow.atom 2 4 3 0 (0#64) 3 1) = Instr.atomSwap T0 w_241) ∧ BitVec.toNat (th_491.reg d_492.ra) % 2 ^ d_492.sz = 0 ∧ ({ seg := some d_492.seg, off := BitVec.toNat (th_491.reg d_492.ra), n := 2 ^ d_492.sz, access := 3, need := 3, atom := true, keys := true, ring := th_491.ring, kind := AccK.atomic, callf := none : MAcc }.check (runCx S3 T0 th_491 w_241 d_492) s1_493).isOk = true ∧ (S3.region 2147745824).trio? = some (↑T0.trio : Nat) ∧ th_491.buf ≠ []) ∧
    ((issued S6 T0 w_265).isSome = true ∧ d_267.row = CoreRow.atom ∧ BitVec.toNat (th_266.reg d_267.ra) % 2 ^ d_267.sz = 0 ∧ ({ seg := some d_267.seg, off := BitVec.toNat (th_266.reg d_267.ra), n := 2 ^ d_267.sz, access := 3, need := 3, atom := true, keys := true, ring := th_266.ring, kind := AccK.atomic, callf := none : MAcc }.check (runCx S6 T0 th_266 w_265 d_267) s1_268).isOk = true ∧ ((ckS S6 (ics S6 (en CoreRow.atom 2 4 3 2 (0#64) 2 1)) { seg := some 1, off := BitVec.toNat ((ith S6 T0 (en CoreRow.atom 2 4 3 2 (0#64) 2 1)).reg 4), n := 4, access := 3, need := 3, atom := true, keys := true, ring := 0, kind := AccK.atomic, callf := none : MAcc }).snd.region 2147745824).trio? = some (↑T0.trio : Nat) ∧ limitCheckpoint (↑T0.trio : Nat) (ckS S6 (ics S6 (en CoreRow.atom 2 4 3 2 (0#64) 2 1)) { seg := some 1, off := BitVec.toNat ((ith S6 T0 (en CoreRow.atom 2 4 3 2 (0#64) 2 1)).reg 4), n := 4, access := 3, need := 3, atom := true, keys := true, ring := 0, kind := AccK.atomic, callf := none : MAcc }).snd = (ckS S6 (ics S6 (en CoreRow.atom 2 4 3 2 (0#64) 2 1)) { seg := some 1, off := BitVec.toNat ((ith S6 T0 (en CoreRow.atom 2 4 3 2 (0#64) 2 1)).reg 4), n := 4, access := 3, need := 3, atom := true, keys := true, ring := 0, kind := AccK.atomic, callf := none : MAcc }).snd ∧ th_266.buf = [] ∧ (ckS S6 (ics S6 (en CoreRow.atom 2 4 3 2 (0#64) 2 1)) { seg := some 1, off := BitVec.toNat ((ith S6 T0 (en CoreRow.atom 2 4 3 2 (0#64) 2 1)).reg 4), n := 4, access := 3, need := 3, atom := true, keys := true, ring := 0, kind := AccK.atomic, callf := none : MAcc }).snd.badAddr 2147745824 4 = none ∧ d_267.fn = 2) ∧
    ((issued S6 T0 w_281).isSome = true ∧ d_283.row = CoreRow.atom ∧ BitVec.toNat (th_282.reg d_283.ra) % 2 ^ d_283.sz = 0 ∧ ({ seg := some d_283.seg, off := BitVec.toNat (th_282.reg d_283.ra), n := 2 ^ d_283.sz, access := 3, need := 3, atom := true, keys := true, ring := th_282.ring, kind := AccK.atomic, callf := none : MAcc }.check (runCx S6 T0 th_282 w_281 d_283) s1_284).isOk = true ∧ ((ckS S6 (ics S6 (en CoreRow.atom 2 4 3 3 (0#64) 2 1)) { seg := some 1, off := BitVec.toNat ((ith S6 T0 (en CoreRow.atom 2 4 3 3 (0#64) 2 1)).reg 4), n := 4, access := 3, need := 3, atom := true, keys := true, ring := 0, kind := AccK.atomic, callf := none : MAcc }).snd.region 2147745824).trio? = some (↑T0.trio : Nat) ∧ limitCheckpoint (↑T0.trio : Nat) (ckS S6 (ics S6 (en CoreRow.atom 2 4 3 3 (0#64) 2 1)) { seg := some 1, off := BitVec.toNat ((ith S6 T0 (en CoreRow.atom 2 4 3 3 (0#64) 2 1)).reg 4), n := 4, access := 3, need := 3, atom := true, keys := true, ring := 0, kind := AccK.atomic, callf := none : MAcc }).snd = (ckS S6 (ics S6 (en CoreRow.atom 2 4 3 3 (0#64) 2 1)) { seg := some 1, off := BitVec.toNat ((ith S6 T0 (en CoreRow.atom 2 4 3 3 (0#64) 2 1)).reg 4), n := 4, access := 3, need := 3, atom := true, keys := true, ring := 0, kind := AccK.atomic, callf := none : MAcc }).snd ∧ th_282.buf = [] ∧ (ckS S6 (ics S6 (en CoreRow.atom 2 4 3 3 (0#64) 2 1)) { seg := some 1, off := BitVec.toNat ((ith S6 T0 (en CoreRow.atom 2 4 3 3 (0#64) 2 1)).reg 4), n := 4, access := 3, need := 3, atom := true, keys := true, ring := 0, kind := AccK.atomic, callf := none : MAcc }).snd.badAddr 2147745824 4 = none ∧ d_283.fn = 3) :=
  by and_intros <;> decide
theorem wit_BlockRows :
    ((issued S2 T0 w_313).isSome = true ∧ d_315.row = CoreRow.blk ∧ (d_315.fn = 2 ∧ Instr.crcr32 T0 (en CoreRow.blk 4 5 6 2 0#64) = Instr.crcr32 T0 w_313) ∧ th_314.reg d_315.rb ≠ 0#64) ∧
    ((issued S2 T0 w_317).isSome = true ∧ d_319.row = CoreRow.blk ∧ (d_319.fn = 2 ∧ Instr.crcr32 T0 (en CoreRow.blk 4 5 8 2 0#64) = Instr.crcr32 T0 w_317) ∧ th_318.reg d_319.rb = 0#64) ∧
    ((B7.thread (B7.tkey T0)).st = TState.stalled (Wait.blk w_313 none) ∧ decodeOp w_313 = DecRes.ok cB7.d ∧ cB7.d.row = CoreRow.blk ∧ goesOn B7 T0 ∧ 2 ≤ cB7.d.fn ∧ cB7.d.fn ≤ 4 ∧ (blkRead { t := T0, k := B7.tkey T0, th := (B7.thread (B7.tkey T0)).awake, w := w_313, d := cB7.d, got := [], ld := none : Cx } (BitVec.toNat ((B7.thread (B7.tkey T0)).awake.reg cB7.d.ra)) (min (BitVec.toNat ((B7.thread (B7.tkey T0)).awake.reg cB7.d.rb)) (64 - BitVec.toNat ((B7.thread (B7.tkey T0)).awake.reg cB7.d.ra) % 64)) BusResult.ok false B7).isOk = true) ∧
    ((B1.thread (B1.tkey T0)).st = TState.stalled (Wait.blk w_305 none) ∧ decodeOp w_305 = DecRes.ok cB1.d ∧ cB1.d.row = CoreRow.blk ∧ goesOn B1 T0 ∧ cB1.d.fn = 1 ∧ (blkWrite { t := T0, k := B1.tkey T0, th := (B1.thread (B1.tkey T0)).awake, w := w_305, d := cB1.d, got := [], ld := none : Cx } (BitVec.toNat ((B1.thread (B1.tkey T0)).awake.reg cB1.d.rd)) (fillBytes ((B1.thread (B1.tkey T0)).awake.reg cB1.d.ra) (BitVec.toNat ((B1.thread (B1.tkey T0)).awake.reg cB1.d.rd)) (min (BitVec.toNat ((B1.thread (B1.tkey T0)).awake.reg cB1.d.rb)) (64 - BitVec.toNat ((B1.thread (B1.tkey T0)).awake.reg cB1.d.rd) % 64))) B1).isOk = true) ∧
    ((B3.thread (B3.tkey T0)).st = TState.stalled (Wait.blk w_297 none) ∧ decodeOp w_297 = DecRes.ok cB3.d ∧ cB3.d.row = CoreRow.blk ∧ goesOn B3 T0 ∧ cB3.d.fn = 0 ∧ (¬(BitVec.toNat ((B3.thread (B3.tkey T0)).awake.reg cB3.d.ra) < BitVec.toNat ((B3.thread (B3.tkey T0)).awake.reg cB3.d.rd) ∧ BitVec.toNat ((B3.thread (B3.tkey T0)).awake.reg cB3.d.rd) < BitVec.toNat ((B3.thread (B3.tkey T0)).awake.reg cB3.d.ra) + BitVec.toNat ((B3.thread (B3.tkey T0)).awake.reg cB3.d.rb))) ∧ (blkRead { t := T0, k := B3.tkey T0, th := (B3.thread (B3.tkey T0)).awake, w := w_297, d := cB3.d, got := [], ld := none : Cx } (BitVec.toNat ((B3.thread (B3.tkey T0)).awake.reg cB3.d.ra)) (min (BitVec.toNat ((B3.thread (B3.tkey T0)).awake.reg cB3.d.rb)) (64 - BitVec.toNat ((B3.thread (B3.tkey T0)).awake.reg cB3.d.rd) % 64)) BusResult.ok false B3).isOk = true ∧ (blkWrite { t := T0, k := B3.tkey T0, th := (B3.thread (B3.tkey T0)).awake, w := w_297, d := cB3.d, got := [], ld := none : Cx } (BitVec.toNat ((B3.thread (B3.tkey T0)).awake.reg cB3.d.rd)) rd3.fst rd3.snd).isOk = true) ∧
    ((B5.thread (B5.tkey T0)).st = TState.stalled (Wait.blk w_297 none) ∧ decodeOp w_297 = DecRes.ok cB5.d ∧ cB5.d.row = CoreRow.blk ∧ goesOn B5 T0 ∧ cB5.d.fn = 0 ∧ BitVec.toNat ((B5.thread (B5.tkey T0)).awake.reg cB5.d.ra) < BitVec.toNat ((B5.thread (B5.tkey T0)).awake.reg cB5.d.rd) ∧ BitVec.toNat ((B5.thread (B5.tkey T0)).awake.reg cB5.d.rd) < BitVec.toNat ((B5.thread (B5.tkey T0)).awake.reg cB5.d.ra) + BitVec.toNat ((B5.thread (B5.tkey T0)).awake.reg cB5.d.rb) ∧ (blkRead { t := T0, k := B5.tkey T0, th := (B5.thread (B5.tkey T0)).awake, w := w_297, d := cB5.d, got := [], ld := none : Cx } (BitVec.toNat ((B5.thread (B5.tkey T0)).awake.reg cB5.d.ra) + (max (BitVec.toNat ((B5.thread (B5.tkey T0)).awake.reg cB5.d.rd)) ((BitVec.toNat ((B5.thread (B5.tkey T0)).awake.reg cB5.d.rd) + BitVec.toNat ((B5.thread (B5.tkey T0)).awake.reg cB5.d.rb) - 1) / 64 * 64) - BitVec.toNat ((B5.thread (B5.tkey T0)).awake.reg cB5.d.rd))) (BitVec.toNat ((B5.thread (B5.tkey T0)).awake.reg cB5.d.rd) + BitVec.toNat ((B5.thread (B5.tkey T0)).awake.reg cB5.d.rb) - max (BitVec.toNat ((B5.thread (B5.tkey T0)).awake.reg cB5.d.rd)) ((BitVec.toNat ((B5.thread (B5.tkey T0)).awake.reg cB5.d.rd) + BitVec.toNat ((B5.thread (B5.tkey T0)).awake.reg cB5.d.rb) - 1) / 64 * 64)) BusResult.ok false B5).isOk = true ∧ (blkWrite { t := T0, k := B5.tkey T0, th := (B5.thread (B5.tkey T0)).awake, w := w_297, d := cB5.d, got := [], ld := none : Cx } (max (BitVec.toNat ((B5.thread (B5.tkey T0)).awake.reg cB5.d.rd)) ((BitVec.toNat ((B5.thread (B5.tkey T0)).awake.reg cB5.d.rd) + BitVec.toNat ((B5.thread (B5.tkey T0)).awake.reg cB5.d.rb) - 1) / 64 * 64)) rd5.fst rd5.snd).isOk = true) :=
  by and_intros <;> decide
theorem wit_SyncAndTlbiRows :
    (S8.fab.tlbi = [{ tid := T0, kind := 6, part := 1, addr := 0#64 : TlbiOp }, { tid := T0, kind := 4, part := 1, addr := 20480#64 : TlbiOp }] ∧ { tid := T0, kind := 6, part := 1, addr := 0#64 : TlbiOp }.tid = T0 ∧ S8.tlbiClear { tid := T0, kind := 6, part := 1, addr := 0#64 : TlbiOp } = true ∧ (S8.thread (S8.tkey T0)).st = TState.running ∧ { tid := T0, kind := 6, part := 1, addr := 0#64 : TlbiOp }.kind = 6) ∧
    ((issued S2 T0 w_354).isSome = true ∧ (d_356.fn = 4 ∧ Instr.tlbiVa1 T0 (en CoreRow.tlbi 0 1 0 4 0#64) = Instr.tlbiVa1 T0 w_354) ∧ d_356.row = CoreRow.tlbi ∧ th_355.buf.length < 4) ∧
    ((issued S2 T0 w_345).isSome = true ∧ d_347.row = CoreRow.ici) ∧
    ((issued S7 T0 w_341).isSome = true ∧ (s1_421.conf (↑T0.trio : Nat) ≠ 1 ∧ s1_421 = s1_421) ∧ d_420.row = CoreRow.syncTlb ∧ (s1_421.thread (S7.tkey T0)).tlbis ≠ 0) ∧
    ((issued S4 T0 w_354).isSome = true ∧ (d_408.fn = 4 ∧ Instr.tlbiVa1 T0 (en CoreRow.tlbi 0 1 0 4 0#64) = Instr.tlbiVa1 T0 w_354) ∧ d_408.row = CoreRow.tlbi ∧ 4 ≤ th_407.buf.length) :=
  by and_intros <;> decide
theorem wit_ThreadRows :
    ((issued SIQ T0 w_422).isSome = true ∧ d_499.row = CoreRow.wait ∧ s1_500.irqForThread T0 = true) ∧
    ((issued S2 T0 w_446).isSome = true ∧ d_448.row = CoreRow.tstop ∧ 7 < BitVec.toNat (th_447.reg d_448.ra)) ∧
    ((issued S2 T0 w_458).isSome = true ∧ d_460.row = CoreRow.tstop ∧ BitVec.toNat (th_459.reg d_460.ra) = 0) ∧
    ((issued S2 T0 w_426).isSome = true ∧ d_428.row = CoreRow.tstart ∧ 7 < BitVec.toNat (th_427.reg d_428.ra)) ∧
    ((issued S2 T0 w_422).isSome = true ∧ d_424.row = CoreRow.wait ∧ s1_425.irqForThread T0 = false ∧ th_423.err = none) ∧
    ((issued SQ T3 w_450).isSome = true ∧ d_489.row = CoreRow.tstop ∧ BitVec.toNat (th_488.reg d_489.ra) = (↑T3.thr : Nat) ∧ BitVec.toNat (th_488.reg d_489.ra) ≠ 0) ∧
    ((issued S2 T0 w_450).isSome = true ∧ d_452.row = CoreRow.tstop ∧ BitVec.toNat (th_451.reg d_452.ra) ≠ (↑T0.thr : Nat) ∧ BitVec.toNat (th_451.reg d_452.ra) ≠ 0 ∧ BitVec.toNat (th_451.reg d_452.ra) ≤ 7) ∧
    ((issued S2 T0 w_438).isSome = true ∧ d_440.row = CoreRow.tstart ∧ BitVec.toNat (th_439.reg d_440.ra) ≤ 7 ∧ (s1_441.thread (peerKey s1_441 T0 (BitVec.toNat (th_439.reg d_440.ra)))).st ≠ TState.stopped) ∧
    ((issued S2 T0 w_430).isSome = true ∧ d_432.row = CoreRow.tstart ∧ BitVec.toNat (th_431.reg d_432.ra) ≤ 7 ∧ (s1_433.thread (peerKey s1_433 T0 (BitVec.toNat (th_431.reg d_432.ra)))).st = TState.stopped ∧ bf (th_431.reg d_432.rb) 0 2 = 0) ∧
    ((issued S2 T0 w_434).isSome = true ∧ d_436.row = CoreRow.tstart ∧ BitVec.toNat (th_435.reg d_436.ra) ≤ 7 ∧ (s1_437.thread (peerKey s1_437 T0 (BitVec.toNat (th_435.reg d_436.ra)))).st = TState.stopped ∧ bf (th_435.reg d_436.rb) 0 2 ≠ 0) :=
  by and_intros <;> decide
theorem wit_WordsThatDoNotRun :
    (S2.issuing T0 = some th_475 ∧ (fetchStop (fetchCx S2 T0 th_475 2147483648#32) S2).isOk = true ∧ decodeOp 2147483648#32 = DecRes.illegal) ∧
    (S2.issuing T0 = some th_475 ∧ (fetchStop (fetchCx S2 T0 th_475 247463936#32) S2).isOk = true ∧ decodeOp 247463936#32 = DecRes.absent ∧ th_475.executes 247463936#32 = true) ∧
    (S2.issuing T0 = some th_475 ∧ (fetchStop (fetchCx S2 T0 th_475 1052770304#32) S2).isOk = true ∧ decodeOp 1052770304#32 = DecRes.absent ∧ th_475.executes 1052770304#32 = false) ∧
    (S2.issuing T0 = some th_475 ∧ (fetchStop (fetchCx S2 T0 th_475 w_479) S2).isOk = true ∧ decodeOp w_479 = DecRes.ok (match decodeOp (en CoreRow.endp 0 0 0 7 0#64) with | DecRes.ok d => d | _ => dd) ∧ (match decodeOp (en CoreRow.endp 0 0 0 7 0#64) with | DecRes.ok d => d | _ => dd).row = CoreRow.endp) ∧
    ((ring 3 S2).issuing T0 = some th_484 ∧ (fetchStop (fetchCx (ring 3 S2) T0 th_484 w_345) (ring 3 S2)).isOk = true ∧ decodeOp w_345 = DecRes.ok (match decodeOp (en CoreRow.ici 0 0 0 2 0#64) with | DecRes.ok d => d | _ => dd) ∧ (match decodeOp (en CoreRow.ici 0 0 0 2 0#64) with | DecRes.ok d => d | _ => dd).row = CoreRow.ici ∧ th_484.executes w_345 = true ∧ 0 < th_484.ring) ∧
    (S2.issuing T0 = some th_475 ∧ (fetchStop (fetchCx S2 T0 th_475 (en CoreRow.alu 1 2 3 0 0#64 ||| 805306368#32)) S2).isOk = true ∧ decodeOp (en CoreRow.alu 1 2 3 0 0#64 ||| 805306368#32) = DecRes.ok (match decodeOp (en CoreRow.alu 1 2 3 0 0#64 ||| 805306368#32) with | DecRes.ok d => d | _ => dd) ∧ (match decodeOp (en CoreRow.alu 1 2 3 0 0#64 ||| 805306368#32) with | DecRes.ok d => d | _ => dd).row = CoreRow.alu ∧ th_475.executes (en CoreRow.alu 1 2 3 0 0#64 ||| 805306368#32) = false) ∧
    ((ring 3 S2).issuing T0 = some th_484 ∧ (fetchStop (fetchCx (ring 3 S2) T0 th_484 w_486) (ring 3 S2)).isOk = true ∧ decodeOp w_486 = DecRes.ok (match decodeOp (en CoreRow.mts 0 1 0 16 (0#64) 0 0 true) with | DecRes.ok d => d | _ => dd) ∧ (match decodeOp (en CoreRow.mts 0 1 0 16 (0#64) 0 0 true) with | DecRes.ok d => d | _ => dd).row = CoreRow.mts ∧ th_484.executes w_486 = true ∧ srRing true (match decodeOp (en CoreRow.mts 0 1 0 16 (0#64) 0 0 true) with | DecRes.ok d => d | _ => dd).fn < th_484.ring) ∧
    (S2.issuing T0 = some th_475 ∧ (fetchStop (fetchCx S2 T0 th_475 (en CoreRow.store 2 4 0 0 (8#64) 3 3 ||| 805306368#32)) S2).isOk = true ∧ decodeOp (en CoreRow.store 2 4 0 0 (8#64) 3 3 ||| 805306368#32) = DecRes.ok (match decodeOp (en CoreRow.store 2 4 0 0 (8#64) 3 3 ||| 805306368#32) with | DecRes.ok d => d | _ => dd) ∧ (match decodeOp (en CoreRow.store 2 4 0 0 (8#64) 3 3 ||| 805306368#32) with | DecRes.ok d => d | _ => dd).row = CoreRow.store ∧ (match decodeOp (en CoreRow.store 2 4 0 0 (8#64) 3 3 ||| 805306368#32) with | DecRes.ok d => d | _ => dd).sz = 3 ∧ th_475.executes (en CoreRow.store 2 4 0 0 (8#64) 3 3 ||| 805306368#32) = false) :=
  by and_intros <;> decide
end Core2

namespace Core4
def pr (s : State) : State := s.setFld (B.trio 0) TRIO.STAT_CONF_NOW 1
def lw : W32 := en .load 11 4 0 0 0 2 3 false
def mac (a n : Nat) : MAcc := ⟨some 3, a, n, 0, 1, false, true, 0, .read, none⟩
def bufd (l : List OutEnt) (s : State) : State := setT s T0 (fun th => { th with buf := l })
def L1 := bufd [ent 0x80040020 [1]] S2
def L3 := pr (bufd [ent 0x1000000020 [1]] S2)
def L4 := pr S2
def L5 := bufd [] S2
def wsy : W32 := en .sync 0 0 0
def wst : W32 := en .syncTlb 0 0 0 1
def o1 : OutEnt := ent 0x80040020 (leBytes 8 0x99AA)
def o2 : OutEnt := ent 0x80040040 [1,2,3,4,5,6,7,0x88]
def o3 : OutEnt := ent 0x1000000020 (leBytes 8 0x99AA)
def ta : OutEnt := ⟨T0, 0, 0, false, .append 5 ⟨1,2,3,4⟩⟩
def com (l : List OutEnt) (s : State) : State := s.setTrio 0 { s.trio 0 with commit := l }
def V1 := com [{ o2 with held := true }] S3
def V2 := pr S3
def V3 := pr (bufd [o3, o2] S2)
def V4 := pr (bufd [ta, o2] S2)
def wa : W32 := en .atom 2 4 3 0 0 3 1
def acA (s : State) (a : Nat) : MAcc := ⟨some 1, a, 8, 3, 3, true, true, 0, .atomic, none⟩
def A2 := setT S2 T0 (fun th => R0 [(4,0x1000000020)] th)
def A3 := pr A2
def A5 := pr S2
def c_1 := ics L1 lw
def a_2 := mac 0x80040020 4
def c_5 := ics L3 lw
def a_6 := mac 0x1000000020 4
def c_8 := ics L4 lw
def a_9 := mac 0x40010080 4
def c_10 := ics L5 lw
def d_12 := idec L5 T0 wsy
def s1_13 := ist L5 T0 wsy
def d_15 := idec L1 T0 wsy
def s1_16 := ist L1 T0 wsy
def d_22 := idec L5 T0 wst
def s1_23 := ist L5 T0 wst
def data_32 := leBytes 8 0x99AA
def th_36 := ith A2 T0 wa
def d_37 := idec A2 T0 wa
def s1_38 := ist A2 T0 wa
def th_39 := ith A3 T0 wa
def d_40 := idec A3 T0 wa
def s1_41 := ist A3 T0 wa
def th_45 := ith A5 T0 wa
def d_46 := idec A5 T0 wa
def s1_47 := ist A5 T0 wa

theorem wit_LoadRows_2 :
    (c_1.ld = none ∧ (a_9.check c_1 L1).isOk = true ∧ (ckS L1 (ics L1 lw) (mac 1073807488 4)).snd.region 1073807488 = Region.regs ∧ (ckS L1 (ics L1 lw) (mac 1073807488 4)).snd.conf (↑c_1.t.trio : Nat) ≠ 1 ∧ ((ckS L1 (ics L1 lw) (mac 1073807488 4)).snd.thread c_1.k).buf ≠ []) ∧
    (c_10.ld = none ∧ (a_9.check c_10 L5).isOk = true ∧ (ckS L5 (ics L5 lw) (mac 1073807488 4)).snd.region 1073807488 = Region.regs ∧ (ckS L5 (ics L5 lw) (mac 1073807488 4)).snd.conf (↑c_10.t.trio : Nat) ≠ 1 ∧ ((ckS L5 (ics L5 lw) (mac 1073807488 4)).snd.thread c_10.k).buf = []) ∧
    (c_1.ld = none ∧ (a_2.check c_1 L1).isOk = true ∧ (ckS L1 (ics L1 lw) (mac 2147745824 4)).snd.region 2147745824 ≠ Region.regs ∧ forward (pendingStores (ckS L1 (ics L1 lw) (mac 2147745824 4)).snd c_1.t c_1.k) [(2147745824, 4)] = Fwd.partialOverlap ∧ (ckS L1 (ics L1 lw) (mac 2147745824 4)).snd.conf (↑c_1.t.trio : Nat) ≠ 1) ∧
    (c_8.ld = none ∧ (a_9.check c_8 L4).isOk = true ∧ (ckS L4 (ics L4 lw) (mac 1073807488 4)).snd.region 1073807488 = Region.regs ∧ (ckS L4 (ics L4 lw) (mac 1073807488 4)).snd.conf (↑c_8.t.trio : Nat) = 1 ∧ (checkpoint (↑c_8.t.trio : Nat) true (ckS L4 (ics L4 lw) (mac 1073807488 4)).snd).sameRun (ckS L4 (ics L4 lw) (mac 1073807488 4)).snd = true) ∧
    (c_5.ld = none ∧ (a_6.check c_5 L3).isOk = true ∧ (ckS L3 (ics L3 lw) (mac 68719476768 4)).snd.region 68719476768 ≠ Region.regs ∧ forward (pendingStores (ckS L3 (ics L3 lw) (mac 68719476768 4)).snd c_5.t c_5.k) [(68719476768, 4)] = Fwd.partialOverlap ∧ (ckS L3 (ics L3 lw) (mac 68719476768 4)).snd.conf (↑c_5.t.trio : Nat) = 1 ∧ (∃ (o : OutEnt), o ∈ pendingStores (ckS L3 (ics L3 lw) (mac 68719476768 4)).snd c_5.t c_5.k ∧ touches o.what.pieces [(68719476768, 4)] = true ∧ OutEnt.isLocal (ckS L3 (ics L3 lw) (mac 68719476768 4)).snd o = false) ∧ (checkpoint (↑c_5.t.trio : Nat) true (ckS L3 (ics L3 lw) (mac 68719476768 4)).snd).sameRun (ckS L3 (ics L3 lw) (mac 68719476768 4)).snd = true) :=
  by and_intros <;> decide
theorem wit_StorePerformedWritesItsBytes_2 :
    ((V2.thread (V2.tkey T0)).st = TState.running ∧ (V2.thread (V2.tkey T0)).buf = [o1, o2] ∧ o1.tid = T0 ∧ (V2.trio (↑T0.trio : Nat)).lost = false ∧ o1.what = OutWhat.store 2147745824 [(2147745824, data_32)] ∧ (V2.region 2147745824).trio? = some (↑T0.trio : Nat) ∧ V2.conf (↑T0.trio : Nat) = 1 ∧ (V2.trio (↑T0.trio : Nat)).closed = 0 ∧ (V2.trio (↑T0.trio : Nat)).commit.length < 192 ∧ (V2.trio (↑T0.trio : Nat)).undo.length < 1536 ∧ 2147745823 ≠ V2.tkey T0 ∧ 5 ≠ B.trio (↑T0.trio : Nat) + TRIO.HWM_UNDO.off) ∧
    ((V4.thread (V4.tkey T0)).st = TState.running ∧ (V4.thread (V4.tkey T0)).buf = [ta, o2] ∧ ta.tid = T0 ∧ (V4.trio (↑T0.trio : Nat)).lost = false ∧ OutEnt.isLocal V4 ta = false ∧ ta.what.pieces = [] ∧ V4.conf (↑T0.trio : Nat) = 1 ∧ (V4.trio (↑T0.trio : Nat)).closed = 0 ∧ (V4.trio (↑T0.trio : Nat)).commit.length < 192 ∧ (V4.trio (↑T0.trio : Nat)).undo.length < 1536) ∧
    ((V3.thread (V3.tkey T0)).st = TState.running ∧ (V3.thread (V3.tkey T0)).buf = [o3, o2] ∧ o3.tid = T0 ∧ (V3.trio (↑T0.trio : Nat)).lost = false ∧ o3.what = OutWhat.store 68719476768 [(68719476768, data_32)] ∧ (V3.region 68719476768).trio? ≠ some (↑T0.trio : Nat) ∧ V3.conf (↑T0.trio : Nat) = 1 ∧ (V3.trio (↑T0.trio : Nat)).closed = 0 ∧ (V3.trio (↑T0.trio : Nat)).commit.length < 192 ∧ (V3.trio (↑T0.trio : Nat)).undo.length < 1536 ∧ 5 ≠ B.trio (↑T0.trio : Nat) + TRIO.HWM_COMMIT.off) ∧
    ((V1.thread (V1.tkey T0)).st = TState.running ∧ (V1.thread (V1.tkey T0)).buf = [o1, o2] ∧ o1.tid = T0 ∧ (V1.trio (↑T0.trio : Nat)).lost = false ∧ V1.conf (↑T0.trio : Nat) ≠ 1 ∧ (V1.trio (↑T0.trio : Nat)).commit = [let __src := o2; { tid := __src.tid, ring := __src.ring, part := __src.part, held := true, what := __src.what : OutEnt }] ∧ (let __src := o2; { tid := __src.tid, ring := __src.ring, part := __src.part, held := true, what := __src.what : OutEnt }).held = true) :=
  by and_intros <;> decide
theorem wit_AtomicRows_2 :
    ((issued A5 T0 wa).isSome = true ∧ d_46.row = CoreRow.atom ∧ BitVec.toNat (th_45.reg d_46.ra) % 2 ^ d_46.sz = 0 ∧ ({ seg := some d_46.seg, off := BitVec.toNat (th_45.reg d_46.ra), n := 2 ^ d_46.sz, access := 3, need := 3, atom := true, keys := true, ring := th_45.ring, kind := AccK.atomic, callf := none : MAcc }.check (runCx A5 T0 th_45 wa d_46) s1_47).isOk = true ∧ ((ckS A5 (ics A5 wa) (acA A5 2147745824)).snd.region 2147745824).trio? = some (↑T0.trio : Nat) ∧ limitCheckpoint (↑T0.trio : Nat) (ckS A5 (ics A5 wa) (acA A5 2147745824)).snd = (ckS A5 (ics A5 wa) (acA A5 2147745824)).snd ∧ th_45.buf = [] ∧ (ckS A5 (ics A5 wa) (acA A5 2147745824)).snd.badAddr 2147745824 8 = none ∧ (ckS A5 (ics A5 wa) (acA A5 2147745824)).snd.conf (↑T0.trio : Nat) = 1 ∧ d_46.fn = 0) ∧
    ((issued A3 T0 wa).isSome = true ∧ d_40.row = CoreRow.atom ∧ (d_40.fn = 0 ∧ Instr.atomSwap T0 wa = Instr.atomSwap T0 wa) ∧ BitVec.toNat (th_39.reg d_40.ra) % 2 ^ d_40.sz = 0 ∧ ({ seg := some d_40.seg, off := BitVec.toNat (th_39.reg d_40.ra), n := 2 ^ d_40.sz, access := 3, need := 3, atom := true, keys := true, ring := th_39.ring, kind := AccK.atomic, callf := none : MAcc }.check (runCx A3 T0 th_39 wa d_40) s1_41).isOk = true ∧ ((ckS A3 (ics A3 wa) (acA A3 68719476768)).snd.region 68719476768).trio? ≠ some (↑T0.trio : Nat) ∧ (ckS A3 (ics A3 wa) (acA A3 68719476768)).snd.conf (↑T0.trio : Nat) = 1 ∧ (checkpoint (↑T0.trio : Nat) true (ckS A3 (ics A3 wa) (acA A3 68719476768)).snd).sameRun (ckS A3 (ics A3 wa) (acA A3 68719476768)).snd = true) ∧
    ((issued A2 T0 wa).isSome = true ∧ d_37.row = CoreRow.atom ∧ (d_37.fn = 0 ∧ Instr.atomSwap T0 wa = Instr.atomSwap T0 wa) ∧ BitVec.toNat (th_36.reg d_37.ra) % 2 ^ d_37.sz = 0 ∧ ({ seg := some d_37.seg, off := BitVec.toNat (th_36.reg d_37.ra), n := 2 ^ d_37.sz, access := 3, need := 3, atom := true, keys := true, ring := th_36.ring, kind := AccK.atomic, callf := none : MAcc }.check (runCx A2 T0 th_36 wa d_37) s1_38).isOk = true ∧ ((ckS A2 (ics A2 wa) (acA A2 68719476768)).snd.region 68719476768).trio? ≠ some (↑T0.trio : Nat) ∧ (ckS A2 (ics A2 wa) (acA A2 68719476768)).snd.conf (↑T0.trio : Nat) ≠ 1 ∧ (∀ (o : OutEnt), o ∈ pendingStores (ckS A2 (ics A2 wa) (acA A2 68719476768)).snd T0 (A2.tkey T0) → touches o.what.pieces [(68719476768, 8)] = false)) :=
  by and_intros <;> decide
theorem wit_SyncAndTlbiRows_2 :
    ((issued L5 T0 wsy).isSome = true ∧ (s1_13.conf (↑T0.trio : Nat) ≠ 1 ∧ s1_13 = s1_13) ∧ d_12.row = CoreRow.sync ∧ pendingStores s1_13 T0 (L5.tkey T0) = []) ∧
    ((issued L1 T0 wsy).isSome = true ∧ (s1_16.conf (↑T0.trio : Nat) ≠ 1 ∧ s1_16 = s1_16) ∧ d_15.row = CoreRow.sync ∧ pendingStores s1_16 T0 (L1.tkey T0) ≠ []) ∧
    ((issued L5 T0 wst).isSome = true ∧ (s1_23.conf (↑T0.trio : Nat) ≠ 1 ∧ s1_23 = s1_23) ∧ d_22.row = CoreRow.syncTlb ∧ (s1_23.thread (L5.tkey T0)).tlbis = 0) :=
  by and_intros <;> decide
end Core4

namespace Core3
def wF (s : State) (th : Thread) (r : EntryReq) : Except (Option Nat × State) (List (Nat × Nat) × State) :=
  framePieces T0 r.ring th (splitLines 3 (bf (th.g30of r.ring - 64) 0 48) 64) s
def wFs (s : State) (th : Thread) (r : EntryReq) : State × List (Nat × Nat) := match wF s th r with | .ok (ps, s1) => (s1, ps) | .error (_, s1) => (s1, [])
def E2 : State := setT S2 T0 (fun th => { th with vbr := (th.vbr.set (fun _ => 0) 0 0x80000801).set (fun _ => 0) 1 0x80000C00, near := some 7, far := some (9 <<< 65), pl := 3, ph := 4, sr := 0x1F8, g30 := (th.g30.set (fun _ => 0) 0 0x80040140).set (fun _ => 0) 1 0x80040200 })
def E3 : State := setT E2 T0 (fun th => { (th.setReg 30 0x80040141) with g30 := th.g30.set (fun _ => 0) 0 0x80040141 })
def E4 : State := setT E2 T0 (fun th => { th with vbr := (th.vbr.set (fun _ => 0) 0 0x80000802) })
def E5 : State := setT E2 T0 (fun th => { (th.setReg 30 0x40000140) with g30 := th.g30.set (fun _ => 0) 0 0x40000140 })
def E6 : State := setT E5 T0 (fun th => { th with esp := 0x80040301 })
def RQ : EntryReq := ⟨0, 0x0C, 5, 6, 0x80000104, false, false⟩
def E7 : State := setT E2 T0 (fun th => { th with g30 := th.g30.set (fun _ => 0) 0 0x10000440, esp := 0x80040300 })
def eF : State × List (Nat × Nat) := match framePieces T0 0 (E7.thread 0) (splitLines 3 (bf ((E7.thread 0).esp - 64) 0 48) 64) E7 with | .ok (ps, s1) => (s1, ps) | .error (_, s1) => (s1, [])
def oldT : Thread := { pl := 11, ph := 12, near := some 13, far := none, sr := 0x1EE ||| 0x10 }
def RF (gate : Bool) : EntryReq := ⟨0, 0x0C, 5, 6, 0x80000204, gate, false⟩
def VF (gate : Bool) : State := (setT S2 T0 (fun th => { th with g30 := (th.g30.set (fun _ => 0) 0 0x80040200) }.setReg 30 0x80040100)).poke (S2.thread 0 |>.setReg 30 0 |> fun _ => ((setT S2 T0 (fun th => { th with g30 := (th.g30.set (fun _ => 0) 0 0x80040200) }.setReg 30 0x80040100)).thread 0).g30of 0).toNat (frameBytes oldT (RF gate))
def fa (s : State) (w : W32) : List Byte × State := laS s (ics s w) ⟨none, ((ith s T0 w).g30of (ith s T0 w).ring).toNat, 64, 0, 1, false, true, (ith s T0 w).ring, .read, none⟩
def badF (q0 q1 : W64) : State := S2.poke ((S2.thread 0).g30of 0).toNat (leBytes 8 q0.toNat ++ leBytes 8 q1.toNat)
def badR : State := (let s := ring 3 (badF 0 0); let s := setT s T0 (fun th => th.setReg 30 0x80040300); s.poke ((s.thread 0).g30of 3).toNat (leBytes 8 0x80000204 ++ leBytes 8 8))
def G1 : State := on S2 [(B.intd + INTD.GATE_LIMIT_N.off, 4), (B.intd + INTD.GATE_BASE_LO.off, 0x10000100)]
def G2 : State := md 5 { G1 with ycp := { G1.ycp with sess := G1.ycp.sess.ins 0 { num := 3, unlocked := true } } }
def G3 (hi : W64) : State := setT (ring 3 (G1.poke 0x10000130 (leBytes 8 0xABCD ++ leBytes 8 hi.toNat))) T0 (fun th => { th with st := .stalled (.load (en .gate 0 0 0 3) [(0x10000130, 16)] 0 0 none), vbr := th.vbr.set (fun _ => 0) 0 0x80000800 })
def I1 : State := setT ((on S2 [(routeKey 5, 1 + 3*16777216 + 0*0x100000)]).irq 5) T0 (fun th => th.setSr 0 1 1)
def I2 : State := setT I1 T0 (fun th => { th with err := some ⟨0x123, 4, 5⟩ })
def I3 : State := setT I1 T0 (fun th => { th with st := .waiting })
def F1 (w : W32) (pa n : Nat) : State := setT (S2.poke 0x10000100 [0x80,0x81,0x82,0x83,0x84,0x85,0x86,0x87]) T0 (fun th => { th with st := .stalled (.load w [(pa, n)] 0x10000100 7 none) })
def F2 (w : W32) : State := setT S3 T0 (fun th => { th with st := .stalled (.fill w 0x1000) })
def F3 (w : W32) : State := setT S3 T0 (fun th => { th with st := .stalled (.walk w 0x10000100 []) })
def CYR : State := setT S2 T0 (fun th => R0 [(4, 0x80040100), (5, 0x80040200)] th)
def C1 (w : W32) (fw : W64) (x y : Nat) : State := setT S2 T0 (fun th => { R0 [(1, x), (2, y)] th with st := .stalled (.cop w), aauFlags := fw })
def HF : AauCheck := ⟨[{ p1 := { bits := 1 }, p2 := { bits := 0x80000000 }, p3 := { bits := 0x400000000 } }]⟩
def HT : AauCheck := ⟨[{ p2 := { bits := 2 } }]⟩
def C2 (w : W32) : State := (C1 w 0 7 3).setFld (B.trio 0) TRIO.AAU_STAT_FAILED 1
def CY (w : W32) : State := setT (S2.poke 0x80040100 (leBytes 60 0x123456789ABCDEF)) T0 (fun th => { R0 [(4, 0x80040100), (5, 0x80040200)] th with st := .stalled (.cop w) })
def cx (w : W32) : Cx := ⟨T0, 0, ((CY w).thread 0).awake, w, idec S2 T0 w, [], none⟩
def cN (w : W32) := gx ([], [], CY w) (cryptoOps (cx w) true (CY w))
def CQ (w : W32) (q : Nat) : State := setT (on S2 [(B.qd 3 + QD.QSTATE.off, 0x00020001)]) T0 (fun th => { R0 [(10, q), (2, 0x1234), (3, 0x0001_0002_0003)] th with st := .stalled (.cop w) })
def th_1 := E7.thread 0
def th_8 := E3.thread 0
def th_13 := E4.thread 0
def th_23 := E6.thread 0
def w_31 := en .eret 0 0 0 3
def th_32 := ith (VF false) T0 (en .eret 0 0 0 3)
def d_33 := idec (VF false) T0 (en .eret 0 0 0 3)
def s1_34 := ist (VF false) T0 (en .eret 0 0 0 3)
def r_35 := RF false
def w_36 := en .gret 0 0 0 4
def th_37 := ith (VF true) T0 (en .gret 0 0 0 4)
def d_38 := idec (VF true) T0 (en .gret 0 0 0 4)
def s1_39 := ist (VF true) T0 (en .gret 0 0 0 4)
def th_46 := ith (badF 0x80000206 8) T0 (en .eret 0 0 0 3)
def d_47 := idec (badF 0x80000206 8) T0 (en .eret 0 0 0 3)
def s1_48 := ist (badF 0x80000206 8) T0 (en .eret 0 0 0 3)
def th_61 := ith (badF 0x80000204 8) T0 (en .gret 0 0 0 4)
def d_62 := idec (badF 0x80000204 8) T0 (en .gret 0 0 0 4)
def s1_63 := ist (badF 0x80000204 8) T0 (en .gret 0 0 0 4)
def th_76 := ith badR T0 (en .eret 0 0 0 3)
def d_77 := idec badR T0 (en .eret 0 0 0 3)
def s1_78 := ist badR T0 (en .eret 0 0 0 3)
def w_82 := en .gate 0 0 0 4
def d_84 := idec G1 T0 (en .gate 0 0 0 4)
def s1_85 := ist G1 T0 (en .gate 0 0 0 4)
def w_86 := en .gate 0 0 0 3
def d_88 := idec G1 T0 (en .gate 0 0 0 3)
def s1_89 := ist G1 T0 (en .gate 0 0 0 3)
def w_90 := en .brk 0 0 0 5
def d_92 := idec G1 T0 (en .brk 0 0 0 5)
def s1_93 := ist G1 T0 (en .brk 0 0 0 5)
def d_101 := idec G2 T0 (en .brk 0 0 0 5)
def s1_102 := ist G2 T0 (en .brk 0 0 0 5)
def d_103 := idec S2 T0 (en .gate 0 0 0 3)
def s_104 := F1 (en .load 11 4 0 0 0 0 3 true) 0x10000100 1
def d_105 := idec S2 T0 (en .load 11 4 0 0 0 0 3 true)
def s_107 := F1 (en .load 11 4 0 0 0 1 3 false) 0x10000100 2
def d_108 := idec S2 T0 (en .load 11 4 0 0 0 1 3 false)
def s_116 := F2 (en .load 11 4 0 0 0 2 3 false)
def s_117 := F3 (en .load 11 4 0 0 0 2 3 false)
def s_118 := F1 (en .load 11 4 0 0 0 2 3 false) 0x10000100 4
def w_119 := en .crypto 4 5 0 8
def th_120 := ith CYR T0 (en .crypto 4 5 0 8)
def d_121 := idec CYR T0 (en .crypto 4 5 0 8)
def s1_122 := ist CYR T0 (en .crypto 4 5 0 8)
def w_123 := en .crypto 4 5 0 9
def th_124 := ith CYR T0 (en .crypto 4 5 0 9)
def d_125 := idec CYR T0 (en .crypto 4 5 0 9)
def s1_126 := ist CYR T0 (en .crypto 4 5 0 9)
def w_127 := en .crypto 4 5 0 10
def th_128 := ith CYR T0 (en .crypto 4 5 0 10)
def d_129 := idec CYR T0 (en .crypto 4 5 0 10)
def s1_130 := ist CYR T0 (en .crypto 4 5 0 10)
def w_131 := en .aau 11 1 2 0
def d_133 := idec S2 T0 (en .aau 11 1 2 0)
def w_135 := en .aau 11 1 2 1
def d_137 := idec S2 T0 (en .aau 11 1 2 1)
def w_139 := en .aau 11 1 2 2
def d_141 := idec S2 T0 (en .aau 11 1 2 2)
def w_143 := en .aau 11 1 2 3
def d_145 := idec S2 T0 (en .aau 11 1 2 3)
def w_147 := en .aau 11 1 2 4
def d_149 := idec S2 T0 (en .aau 11 1 2 4)
def w_151 := en .aau 11 1 2 8
def d_153 := idec S2 T0 (en .aau 11 1 2 8)
def w_155 := en .aau 11 1 2 9
def d_157 := idec S2 T0 (en .aau 11 1 2 9)
def w_159 := en .aau 11 1 2 10
def d_161 := idec S2 T0 (en .aau 11 1 2 10)
def w_163 := en .aau 11 1 2 11
def d_165 := idec S2 T0 (en .aau 11 1 2 11)
def w_167 := en .aau 11 1 2 16
def d_169 := idec S2 T0 (en .aau 11 1 2 16)
def w_171 := en .aau 11 1 2 17
def d_173 := idec S2 T0 (en .aau 11 1 2 17)
def w_175 := en .aau 11 1 2 18
def d_177 := idec S2 T0 (en .aau 11 1 2 18)
def w_179 := en .aau 11 1 2 19
def d_181 := idec S2 T0 (en .aau 11 1 2 19)
def w_183 := en .aau 11 0 0 60
def d_185 := idec S2 T0 (en .aau 11 0 0 60)
def w_187 := en .aau 11 1 0 61
def d_189 := idec S2 T0 (en .aau 11 1 0 61)
def w_191 := en .aau 11 1 0 62
def d_193 := idec S2 T0 (en .aau 11 1 0 62)
def d_196 := idec S2 T0 (en .crypto 4 5 0 8)
def th_198 := ith S3 T0 (en .crypto 4 5 0 8)
def d_199 := idec S3 T0 (en .crypto 4 5 0 8)
def w_213 := en .appendS 11 10 2 1
def th_214 := ith S2 T0 (en .appendS 11 10 2 1)
def d_215 := idec S2 T0 (en .appendS 11 10 2 1)
def s1_216 := ist S2 T0 (en .appendS 11 10 2 1)
def th_217 := ith S3 T0 (en .appendS 11 10 2 1)
def d_218 := idec S3 T0 (en .appendS 11 10 2 1)
def s1_219 := ist S3 T0 (en .appendS 11 10 2 1)
def w_220 := en .qstat 11 10 0 2
def th_221 := ith S2 T0 (en .qstat 11 10 0 2)
def d_222 := idec S2 T0 (en .qstat 11 10 0 2)
def s1_223 := ist S2 T0 (en .qstat 11 10 0 2)
def th_224 := ith S3 T0 (en .qstat 11 10 0 2)
def d_225 := idec S3 T0 (en .qstat 11 10 0 2)
def s1_226 := ist S3 T0 (en .qstat 11 10 0 2)
def w_227 := en .qspace 11 10 0 3
def th_228 := ith S2 T0 (en .qspace 11 10 0 3)
def d_229 := idec S2 T0 (en .qspace 11 10 0 3)
def s1_230 := ist S2 T0 (en .qspace 11 10 0 3)
def th_231 := ith S3 T0 (en .qspace 11 10 0 3)
def d_232 := idec S3 T0 (en .qspace 11 10 0 3)
def s1_233 := ist S3 T0 (en .qspace 11 10 0 3)
def w_234 := en .append 0 10 2 0
def th_235 := ith S2 T0 (en .append 0 10 2 0)
def d_236 := idec S2 T0 (en .append 0 10 2 0)
def q_244 := aauOp 1 false 5 0 6 0 0
def d_260 := idec S2 T0 (en .aau 11 0 0 0x3C)
def d_264 := idec S2 T0 (en .aau 11 1 0 0x3D)
def d_274 := idec S2 T0 (en .aau 11 1 0 0x3E)

theorem wit_EntryEffect :
    (RQ.ring < 4 ∧ (framePieces T0 RQ.ring th_1 (splitLines 3 (bf (th_1.g30of RQ.ring - 64#64) 0 48) 64) E7).isOk = true ∧ (wFs E7 (E7.thread 0) RQ).fst.conf (↑T0.trio : Nat) ≠ 1 ∧ (¬∀ (q : Nat × Nat), q ∈ (wFs E7 (E7.thread 0) RQ).snd → (wFs E7 (E7.thread 0) RQ).fst.region q.fst = Region.locD (↑T0.trio : Nat)) ∧ BitVec.toNat (th_1.g30of RQ.ring - 64#64) % 16 = 0 ∧ vbrBad (th_1.vbrOf RQ.ring) = false ∧ (framePut T0 0 RQ.ring (bf (th_1.g30of RQ.ring - 64#64) 0 48) (wFs E7 (E7.thread 0) RQ).snd (frameBytes th_1 RQ) (wFs E7 (E7.thread 0) RQ).fst).ceHeld = false ∧ (framePut T0 0 RQ.ring (bf (th_1.g30of RQ.ring - 64#64) 0 48) (wFs E7 (E7.thread 0) RQ).snd (frameBytes th_1 RQ) (wFs E7 (E7.thread 0) RQ).fst).sameRun E7 = true ∧ th_1.stopReq = false ∧ ((framePut T0 0 RQ.ring (bf (th_1.g30of RQ.ring - 64#64) 0 48) (wFs E7 (E7.thread 0) RQ).snd (frameBytes th_1 RQ) (wFs E7 (E7.thread 0) RQ).fst).thread 0).stopReq = false ∧ ((framePut T0 0 RQ.ring (bf (th_1.g30of RQ.ring - 64#64) 0 48) (wFs E7 (E7.thread 0) RQ).snd (frameBytes th_1 RQ) (wFs E7 (E7.thread 0) RQ).fst).thread 0).st ≠ TState.stopped ∧ 1 ≠ RQ.ring) ∧
    (RQ.ring < 4 ∧ (framePieces T0 RQ.ring th_8 (splitLines 3 (bf (th_8.g30of RQ.ring - 64#64) 0 48) 64) E3).isOk = true ∧ (∀ (q : Nat × Nat), q ∈ (wFs E3 (E3.thread 0) RQ).snd → (wFs E3 (E3.thread 0) RQ).fst.region q.fst = Region.locD (↑T0.trio : Nat)) ∧ (¬∃ (o : OutEnt), o ∈ ((wFs E3 (E3.thread 0) RQ).fst.thread 0).buf ∧ touches o.what.pieces (wFs E3 (E3.thread 0) RQ).snd = true) ∧ limitCheckpoint (↑T0.trio : Nat) (wFs E3 (E3.thread 0) RQ).fst = (wFs E3 (E3.thread 0) RQ).fst) :=
  by and_intros <;> decide
theorem wit_EntryTargetAndEscalation :
    (BitVec.toNat th_1.esp % 16 = 0 ∧ vbrBad (th_1.vbrOf 0) = false ∧ (framePieces T0 0 th_1 (splitLines 3 (bf (th_1.esp - 64#64) 0 48) 64) E7).isOk = true ∧ (framePut T0 0 0 (bf (th_1.esp - 64#64) 0 48) eF.snd (frameBytes th_1 { ring := 0, cause := 255, faddr := 3#64, finfo := 268#64, ret := RQ.ret, gate := false, keepIe := false : EntryReq }) eF.fst).sameRun E7 = true) ∧
    ((framePieces T0 RQ.ring th_23 (splitLines 3 (bf (th_23.g30of RQ.ring - 64#64) 0 48) 64) E6).isOk = false ∧ ((BitVec.toNat th_23.esp % 16 ≠ 0 ∨ vbrBad (th_23.vbrOf 0) = true) ∧ (wFs E6 (E6.thread 0) RQ).fst = E6)) ∧
    ((framePieces T0 RQ.ring th_8 (splitLines 3 (bf (th_8.g30of RQ.ring - 64#64) 0 48) 64) E3).isOk = true ∧ BitVec.toNat (th_8.g30of RQ.ring - 64#64) % 16 ≠ 0) ∧
    ((framePieces T0 RQ.ring th_13 (splitLines 3 (bf (th_13.g30of RQ.ring - 64#64) 0 48) 64) E4).isOk = true ∧ BitVec.toNat (th_13.g30of RQ.ring - 64#64) % 16 = 0 ∧ vbrBad (th_13.vbrOf RQ.ring) = true) :=
  by and_intros <;> decide
theorem wit_ReturnRestoresFrame :
    ((issued (VF false) T0 w_31).isSome = true ∧ (fa (VF false) (en CoreRow.eret 0 0 0 3 0#64)).snd.ceHeld = false ∧ (loadAcc (runCx (VF false) T0 th_32 w_31 d_33) { seg := none, off := BitVec.toNat (th_32.g30of th_32.ring), n := 64, access := 0, need := 1, atom := false, keys := true, ring := th_32.ring, kind := AccK.read, callf := none : MAcc } s1_34).isOk = true ∧ bf r_35.ret 0 2 = 0 ∧ th_32.ring ≤ oldT.ring ∧ d_33.row = CoreRow.eret ∧ r_35.gate = false ∧ 1 ≠ th_32.ring) ∧
    ((issued (VF true) T0 w_36).isSome = true ∧ (fa (VF true) (en CoreRow.gret 0 0 0 4 0#64)).snd.ceHeld = false ∧ (loadAcc (runCx (VF true) T0 th_37 w_36 d_38) { seg := none, off := BitVec.toNat (th_37.g30of th_37.ring), n := 64, access := 0, need := 1, atom := false, keys := true, ring := th_37.ring, kind := AccK.read, callf := none : MAcc } s1_39).isOk = true ∧ bf (RF true).ret 0 2 = 0 ∧ th_37.ring ≤ oldT.ring ∧ d_38.row = CoreRow.gret ∧ (RF true).gate = true) :=
  by and_intros <;> decide
theorem wit_GateRows :
    ((issued G2 T0 w_90).isSome = true ∧ d_101.row = CoreRow.brk ∧ s1_102.haltRight = true ∧ s1_102.mode = mJersey) ∧
    ((issued G1 T0 w_82).isSome = true ∧ d_84.row = CoreRow.gate ∧ s1_85.fld B.intd INTD.GATE_LIMIT_N ≤ d_84.fn) ∧
    ((issued G1 T0 w_86).isSome = true ∧ d_88.row = CoreRow.gate ∧ d_88.fn < s1_89.fld B.intd INTD.GATE_LIMIT_N) ∧
    ((issued G1 T0 w_90).isSome = true ∧ d_92.row = CoreRow.brk ∧ (¬(s1_93.haltRight = true ∧ (s1_93.mode = mCalico ∨ s1_93.mode = mJersey)))) ∧
    ((issued badR T0 w_31).isSome = true ∧ (d_77.row = CoreRow.eret ∧ Instr.eret T0 (en CoreRow.eret 0 0 0 3 0#64) = Instr.eret T0 w_31 ∧ false = false) ∧ (loadAcc (runCx badR T0 th_76 w_31 d_77) { seg := none, off := BitVec.toNat (th_76.g30of th_76.ring), n := 64, access := 0, need := 1, atom := false, keys := true, ring := th_76.ring, kind := AccK.read, callf := none : MAcc } s1_78).isOk = true ∧ (8#64).getLsbD 16 = false ∧ bf (8#64) 1 2 < th_76.ring) ∧
    ((issued (badF 2147484164#64 8#64) T0 w_36).isSome = true ∧ (d_62.row = CoreRow.gret ∧ Instr.gret T0 (en CoreRow.gret 0 0 0 4 0#64) = Instr.gret T0 w_36 ∧ true = true) ∧ (loadAcc (runCx (badF 2147484164#64 8#64) T0 th_61 w_36 d_62) { seg := none, off := BitVec.toNat (th_61.g30of th_61.ring), n := 64, access := 0, need := 1, atom := false, keys := true, ring := th_61.ring, kind := AccK.read, callf := none : MAcc } s1_63).isOk = true ∧ (8#64).getLsbD 16 ≠ true) ∧
    ((issued (badF 2147484166#64 8#64) T0 w_31).isSome = true ∧ (d_47.row = CoreRow.eret ∧ Instr.eret T0 (en CoreRow.eret 0 0 0 3 0#64) = Instr.eret T0 w_31 ∧ false = false) ∧ (loadAcc (runCx (badF 2147484166#64 8#64) T0 th_46 w_31 d_47) { seg := none, off := BitVec.toNat (th_46.g30of th_46.ring), n := 64, access := 0, need := 1, atom := false, keys := true, ring := th_46.ring, kind := AccK.read, callf := none : MAcc } s1_48).isOk = true ∧ (8#64).getLsbD 16 = false ∧ th_46.ring ≤ bf (8#64) 1 2 ∧ bf (2147484166#64) 0 2 ≠ 0) ∧
    (((G3 25#64).thread ((G3 25#64).tkey T0)).st = TState.stalled (Wait.load w_86 [(268435760, 16)] (0#64) (0#64) none) ∧ decodeOp w_86 = DecRes.ok d_103 ∧ d_103.row = CoreRow.gate ∧ ((G3 25#64).thread ((G3 25#64).tkey T0)).awake.executes w_86 = true ∧ d_103.fn < (G3 25#64).fld B.intd INTD.GATE_LIMIT_N ∧ ((G3 25#64).region 268435760).isNormal = true ∧ ((G3 25#64).trio (↑T0.trio : Nat)).lost = false ∧ heldRead (G3 25#64) T0 = false ∧ storesAhead (G3 25#64) T0 w_86 [(268435760, 16)] = false ∧ (G3 25#64).badAddr 268435760 16 = none ∧ bytesFrom (G3 25#64).byteAt 268435760 16 = leBytes 8 43981 ++ leBytes 8 25 ∧ bf (25#64) 6 58 = 0 ∧ (25#64).getLsbD 0 = true ∧ ((G3 25#64).thread ((G3 25#64).tkey T0)).awake.ring ≤ bf (25#64) 3 2 ∧ bf (25#64) 1 2 < ((G3 25#64).thread ((G3 25#64).tkey T0)).awake.ring) :=
  by and_intros <;> decide
theorem wit_InterruptsAndStoreErrors :
    (I3.eligibleIrq T0 (I3.thread (I3.tkey T0)) = some 5 ∧ I3.atBoundary T0 (I3.thread (I3.tkey T0)) = true ∧ (I3.thread (I3.tkey T0)).err = none ∧ (I3.eligibleIrq T0 (I3.thread (I3.tkey T0))).isSome = true ∧ I3.gated = false ∧ (I3.trio (↑T0.trio : Nat)).lost = false ∧ (I3.thread (I3.tkey T0)).st = TState.waiting ∧ 4 ≠ I3.tkey T0) ∧
    ((I2.thread (I2.tkey T0)).err = some { addr := 291#40, info := 4#16, more := 5#16 : AsyncErr } ∧ I2.atBoundary T0 (I2.thread (I2.tkey T0)) = true ∧ I2.gated = false ∧ (I2.trio (↑T0.trio : Nat)).lost = false) :=
  by and_intros <;> decide
theorem wit_FabricAnswers :
    ((s_107.thread (s_107.tkey T0)).st = TState.stalled (Wait.load (en CoreRow.load 11 4 0 0 (0#64) 1 3) [(268435712, 2)] (268435712#64) (7#64) none) ∧ decodeOp (en CoreRow.load 11 4 0 0 (0#64) 1 3) = DecRes.ok d_108 ∧ d_108.row = CoreRow.load ∧ 2 = 2 ^ d_108.sz ∧ (s_107.region 268435712).isNormal = true ∧ (s_107.trio (↑T0.trio : Nat)).lost = false ∧ heldRead s_107 T0 = false ∧ storesAhead s_107 T0 (en CoreRow.load 11 4 0 0 (0#64) 1 3) [(268435712, 2)] = false ∧ s_107.badAddr 268435712 2 = none ∧ (s_107.thread (s_107.tkey T0)).awake.executes (en CoreRow.load 11 4 0 0 (0#64) 1 3) = true ∧ d_108.b = false ∧ busFails BusResult.data = true) ∧
    (goesOn s_116 T0 ∧ (s_116.thread (s_116.tkey T0)).awake.halted = false ∧ (s_116.thread (s_116.tkey T0)).st = TState.stalled (Wait.fill (en CoreRow.load 11 4 0 0 (0#64) 2 3) 4096) ∧ s_116.badAddr (4096 * 64) 64 = none ∧ s_116.gated = false ∧ (s_116.thread (s_116.tkey T0)).buf ≠ []) ∧
    (goesOn s_117 T0 ∧ (s_117.thread (s_117.tkey T0)).awake.halted = false ∧ (s_117.thread (s_117.tkey T0)).st = TState.stalled (Wait.walk (en CoreRow.load 11 4 0 0 (0#64) 2 3) 268435712 []) ∧ s_117.outOfService 268435712 = false ∧ s_117.badAddr 268435712 8 = none ∧ s_117.gated = false) ∧
    (s_118.gated = false ∧ (s_118.thread (s_118.tkey T0)).st = TState.stalled (Wait.load (en CoreRow.load 11 4 0 0 (0#64) 2 3) [(268435712, 4)] (268435712#64) (7#64) none)) ∧
    ((s_104.thread (s_104.tkey T0)).st = TState.stalled (Wait.load (en CoreRow.load 11 4 0 0 (0#64) 0 3 true) [(268435712, 1)] (268435712#64) (7#64) none) ∧ decodeOp (en CoreRow.load 11 4 0 0 (0#64) 0 3 true) = DecRes.ok d_105 ∧ d_105.row = CoreRow.load ∧ 1 = 2 ^ d_105.sz ∧ (s_104.region 268435712).isNormal = true ∧ (s_104.trio (↑T0.trio : Nat)).lost = false ∧ heldRead s_104 T0 = false ∧ storesAhead s_104 T0 (en CoreRow.load 11 4 0 0 (0#64) 0 3 true) [(268435712, 1)] = false ∧ s_104.badAddr 268435712 1 = none ∧ (s_104.thread (s_104.tkey T0)).awake.executes (en CoreRow.load 11 4 0 0 (0#64) 0 3 true) = true ∧ d_105.b = true) :=
  by and_intros <;> decide
theorem wit_CoprocessorRowsIssue :
    ((issued S2 T0 w_234).isSome = true ∧ d_236.row = CoreRow.append ∧ th_235.buf.length < 4) ∧
    ((issued S2 T0 w_131).isSome = true ∧ d_133.row = CoreRow.aau ∧ d_133.fn = 0) ∧
    ((issued S2 T0 w_135).isSome = true ∧ d_137.row = CoreRow.aau ∧ d_137.fn = 1) ∧
    ((issued S2 T0 w_139).isSome = true ∧ d_141.row = CoreRow.aau ∧ d_141.fn = 2) ∧
    ((issued S2 T0 w_143).isSome = true ∧ d_145.row = CoreRow.aau ∧ d_145.fn = 3) ∧
    ((issued S2 T0 w_147).isSome = true ∧ d_149.row = CoreRow.aau ∧ d_149.fn = 4) ∧
    ((issued S2 T0 w_151).isSome = true ∧ d_153.row = CoreRow.aau ∧ d_153.fn = 8) ∧
    ((issued S2 T0 w_155).isSome = true ∧ d_157.row = CoreRow.aau ∧ d_157.fn = 9) ∧
    ((issued S2 T0 w_159).isSome = true ∧ d_161.row = CoreRow.aau ∧ d_161.fn = 10) ∧
    ((issued S2 T0 w_163).isSome = true ∧ d_165.row = CoreRow.aau ∧ d_165.fn = 11) ∧
    ((issued S2 T0 w_167).isSome = true ∧ d_169.row = CoreRow.aau ∧ d_169.fn = 16) ∧
    ((issued S2 T0 w_171).isSome = true ∧ d_173.row = CoreRow.aau ∧ d_173.fn = 17) ∧
    ((issued S2 T0 w_175).isSome = true ∧ d_177.row = CoreRow.aau ∧ d_177.fn = 18) ∧
    ((issued S2 T0 w_179).isSome = true ∧ d_181.row = CoreRow.aau ∧ d_181.fn = 19) ∧
    ((issued S2 T0 w_183).isSome = true ∧ d_185.row = CoreRow.aau ∧ d_185.fn = 60) ∧
    ((issued S2 T0 w_187).isSome = true ∧ d_189.row = CoreRow.aau ∧ d_189.fn = 61) ∧
    ((issued S2 T0 w_191).isSome = true ∧ d_193.row = CoreRow.aau ∧ d_193.fn = 62) ∧
    ((issued S3 T0 w_119).isSome = true ∧ d_199.row = CoreRow.crypto ∧ th_198.buf ≠ [] ∧ d_199.fn = 8) ∧
    ((issued S2 T0 w_220).isSome = true ∧ s1_223.conf (↑T0.trio : Nat) ≠ 1 ∧ th_221.buf = [] ∧ d_222.row = CoreRow.qstat) ∧
    ((issued S3 T0 w_220).isSome = true ∧ s1_226.conf (↑T0.trio : Nat) ≠ 1 ∧ th_224.buf ≠ [] ∧ d_225.row = CoreRow.qstat) ∧
    ((issued S2 T0 w_227).isSome = true ∧ s1_230.conf (↑T0.trio : Nat) ≠ 1 ∧ th_228.buf = [] ∧ d_229.row = CoreRow.qspace) ∧
    ((issued S3 T0 w_227).isSome = true ∧ s1_233.conf (↑T0.trio : Nat) ≠ 1 ∧ th_231.buf ≠ [] ∧ d_232.row = CoreRow.qspace) ∧
    ((issued S2 T0 w_213).isSome = true ∧ s1_216.conf (↑T0.trio : Nat) ≠ 1 ∧ th_214.buf = [] ∧ d_215.row = CoreRow.appendS) ∧
    ((issued S3 T0 w_213).isSome = true ∧ s1_219.conf (↑T0.trio : Nat) ≠ 1 ∧ th_217.buf ≠ [] ∧ d_218.row = CoreRow.appendS) ∧
    ((issued CYR T0 w_119).isSome = true ∧ d_121.row = CoreRow.crypto ∧ th_120.buf = [] ∧ (cryptoOps (runCx CYR T0 th_120 w_119 d_121) false s1_122).isOk = true ∧ d_121.fn = 8) ∧
    ((issued CYR T0 w_123).isSome = true ∧ d_125.row = CoreRow.crypto ∧ th_124.buf = [] ∧ (cryptoOps (runCx CYR T0 th_124 w_123 d_125) false s1_126).isOk = true ∧ d_125.fn = 9) ∧
    ((issued CYR T0 w_127).isSome = true ∧ d_129.row = CoreRow.crypto ∧ th_128.buf = [] ∧ (cryptoOps (runCx CYR T0 th_128 w_127 d_129) false s1_130).isOk = true ∧ d_129.fn = 10) :=
  by and_intros <;> decide
theorem wit_AauResult :
    (((C1 (en CoreRow.aau 11 1 2 1 0#64) (0#64) 5 6).thread ((C1 (en CoreRow.aau 11 1 2 1 0#64) (0#64) 5 6).tkey T0)).st = TState.stalled (Wait.cop (en CoreRow.aau 11 1 2 1 0#64)) ∧ decodeOp (en CoreRow.aau 11 1 2 1 0#64) = DecRes.ok d_137 ∧ d_137.row = CoreRow.aau ∧ ((C1 (en CoreRow.aau 11 1 2 1 0#64) (0#64) 5 6).trio (↑T0.trio : Nat)).lost = false ∧ d_137.fn < 60 ∧ (C1 (en CoreRow.aau 11 1 2 1 0#64) (0#64) 5 6).flag (B.trio (↑T0.trio : Nat)) TRIO.AAU_STAT_FAILED = false ∧ (aauOp d_137.fn d_137.b (((C1 (en CoreRow.aau 11 1 2 1 0#64) (0#64) 5 6).thread ((C1 (en CoreRow.aau 11 1 2 1 0#64) (0#64) 5 6).tkey T0)).awake.reg d_137.ra) (((C1 (en CoreRow.aau 11 1 2 1 0#64) (0#64) 5 6).thread ((C1 (en CoreRow.aau 11 1 2 1 0#64) (0#64) 5 6).tkey T0)).awake.reg (d_137.ra + 1)) (((C1 (en CoreRow.aau 11 1 2 1 0#64) (0#64) 5 6).thread ((C1 (en CoreRow.aau 11 1 2 1 0#64) (0#64) 5 6).tkey T0)).awake.reg d_137.rb) (((C1 (en CoreRow.aau 11 1 2 1 0#64) (0#64) 5 6).thread ((C1 (en CoreRow.aau 11 1 2 1 0#64) (0#64) 5 6).tkey T0)).awake.reg (d_137.rb + 1)) (((C1 (en CoreRow.aau 11 1 2 1 0#64) (0#64) 5 6).thread ((C1 (en CoreRow.aau 11 1 2 1 0#64) (0#64) 5 6).tkey T0)).awake.reg (d_137.rb + 2))).flags &&& bf ((C1 (en CoreRow.aau 11 1 2 1 0#64) (0#64) 5 6).thread ((C1 (en CoreRow.aau 11 1 2 1 0#64) (0#64) 5 6).tkey T0)).awake.aauFlags 8 3 = 0 ∧ aauChecked d_137.fn d_137.b (aauArgs d_137.fn (((C1 (en CoreRow.aau 11 1 2 1 0#64) (0#64) 5 6).thread ((C1 (en CoreRow.aau 11 1 2 1 0#64) (0#64) 5 6).tkey T0)).awake.reg d_137.ra) (((C1 (en CoreRow.aau 11 1 2 1 0#64) (0#64) 5 6).thread ((C1 (en CoreRow.aau 11 1 2 1 0#64) (0#64) 5 6).tkey T0)).awake.reg (d_137.ra + 1)) (((C1 (en CoreRow.aau 11 1 2 1 0#64) (0#64) 5 6).thread ((C1 (en CoreRow.aau 11 1 2 1 0#64) (0#64) 5 6).tkey T0)).awake.reg d_137.rb) (((C1 (en CoreRow.aau 11 1 2 1 0#64) (0#64) 5 6).thread ((C1 (en CoreRow.aau 11 1 2 1 0#64) (0#64) 5 6).tkey T0)).awake.reg (d_137.rb + 1)) (((C1 (en CoreRow.aau 11 1 2 1 0#64) (0#64) 5 6).thread ((C1 (en CoreRow.aau 11 1 2 1 0#64) (0#64) 5 6).tkey T0)).awake.reg (d_137.rb + 2))) ((C1 (en CoreRow.aau 11 1 2 1 0#64) (0#64) 5 6).trio (↑T0.trio : Nat)).rot (aauNext HF).fst = AauEnd.failed) ∧
    (((C1 (en CoreRow.aau 11 1 2 1 0#64) (0#64) 5 6).thread ((C1 (en CoreRow.aau 11 1 2 1 0#64) (0#64) 5 6).tkey T0)).st = TState.stalled (Wait.cop (en CoreRow.aau 11 1 2 1 0#64)) ∧ decodeOp (en CoreRow.aau 11 1 2 1 0#64) = DecRes.ok d_137 ∧ d_137.row = CoreRow.aau ∧ ((C1 (en CoreRow.aau 11 1 2 1 0#64) (0#64) 5 6).trio (↑T0.trio : Nat)).lost = false ∧ d_137.fn < 60 ∧ (C1 (en CoreRow.aau 11 1 2 1 0#64) (0#64) 5 6).flag (B.trio (↑T0.trio : Nat)) TRIO.AAU_STAT_FAILED = false ∧ aauChecked d_137.fn d_137.b (aauArgs d_137.fn (((C1 (en CoreRow.aau 11 1 2 1 0#64) (0#64) 5 6).thread ((C1 (en CoreRow.aau 11 1 2 1 0#64) (0#64) 5 6).tkey T0)).awake.reg d_137.ra) (((C1 (en CoreRow.aau 11 1 2 1 0#64) (0#64) 5 6).thread ((C1 (en CoreRow.aau 11 1 2 1 0#64) (0#64) 5 6).tkey T0)).awake.reg (d_137.ra + 1)) (((C1 (en CoreRow.aau 11 1 2 1 0#64) (0#64) 5 6).thread ((C1 (en CoreRow.aau 11 1 2 1 0#64) (0#64) 5 6).tkey T0)).awake.reg d_137.rb) (((C1 (en CoreRow.aau 11 1 2 1 0#64) (0#64) 5 6).thread ((C1 (en CoreRow.aau 11 1 2 1 0#64) (0#64) 5 6).tkey T0)).awake.reg (d_137.rb + 1)) (((C1 (en CoreRow.aau 11 1 2 1 0#64) (0#64) 5 6).thread ((C1 (en CoreRow.aau 11 1 2 1 0#64) (0#64) 5 6).tkey T0)).awake.reg (d_137.rb + 2))) ((C1 (en CoreRow.aau 11 1 2 1 0#64) (0#64) 5 6).trio (↑T0.trio : Nat)).rot (aauNext HT).fst = AauEnd.ok q_244 true ∧ q_244.flags &&& bf ((C1 (en CoreRow.aau 11 1 2 1 0#64) (0#64) 5 6).thread ((C1 (en CoreRow.aau 11 1 2 1 0#64) (0#64) 5 6).tkey T0)).awake.aauFlags 8 3 = 0) ∧
    (((C1 (en CoreRow.aau 11 1 0 62 0#64) (1799#64) 1797 0).thread ((C1 (en CoreRow.aau 11 1 0 62 0#64) (1799#64) 1797 0).tkey T0)).st = TState.stalled (Wait.cop (en CoreRow.aau 11 1 0 62 0#64)) ∧ decodeOp (en CoreRow.aau 11 1 0 62 0#64) = DecRes.ok d_274 ∧ d_274.row = CoreRow.aau ∧ ((C1 (en CoreRow.aau 11 1 0 62 0#64) (1799#64) 1797 0).trio (↑T0.trio : Nat)).lost = false ∧ d_274.fn = 62) ∧
    (((C1 (en CoreRow.aau 11 0 0 60 0#64) (1797#64) 0 0).thread ((C1 (en CoreRow.aau 11 0 0 60 0#64) (1797#64) 0 0).tkey T0)).st = TState.stalled (Wait.cop (en CoreRow.aau 11 0 0 60 0#64)) ∧ decodeOp (en CoreRow.aau 11 0 0 60 0#64) = DecRes.ok d_260 ∧ d_260.row = CoreRow.aau ∧ ((C1 (en CoreRow.aau 11 0 0 60 0#64) (1797#64) 0 0).trio (↑T0.trio : Nat)).lost = false ∧ d_260.fn = 60) ∧
    (((C2 (en CoreRow.aau 11 1 2 1 0#64)).thread ((C2 (en CoreRow.aau 11 1 2 1 0#64)).tkey T0)).st = TState.stalled (Wait.cop (en CoreRow.aau 11 1 2 1 0#64)) ∧ decodeOp (en CoreRow.aau 11 1 2 1 0#64) = DecRes.ok d_137 ∧ d_137.row = CoreRow.aau ∧ ((C2 (en CoreRow.aau 11 1 2 1 0#64)).trio (↑T0.trio : Nat)).lost = false ∧ d_137.fn < 60 ∧ (C2 (en CoreRow.aau 11 1 2 1 0#64)).flag (B.trio (↑T0.trio : Nat)) TRIO.AAU_STAT_FAILED = true) ∧
    (((C1 (en CoreRow.aau 11 1 0 61 0#64) (1797#64) 1800 0).thread ((C1 (en CoreRow.aau 11 1 0 61 0#64) (1797#64) 1800 0).tkey T0)).st = TState.stalled (Wait.cop (en CoreRow.aau 11 1 0 61 0#64)) ∧ decodeOp (en CoreRow.aau 11 1 0 61 0#64) = DecRes.ok d_264 ∧ d_264.row = CoreRow.aau ∧ ((C1 (en CoreRow.aau 11 1 0 61 0#64) (1797#64) 1800 0).trio (↑T0.trio : Nat)).lost = false ∧ d_264.fn = 61 ∧ bf (((C1 (en CoreRow.aau 11 1 0 61 0#64) (1797#64) 1800 0).thread ((C1 (en CoreRow.aau 11 1 0 61 0#64) (1797#64) 1800 0).tkey T0)).awake.reg d_264.ra) 3 5 ≠ 0) ∧
    (((C1 (en CoreRow.aau 11 1 0 61 0#64) (1797#64) 1795 0).thread ((C1 (en CoreRow.aau 11 1 0 61 0#64) (1797#64) 1795 0).tkey T0)).st = TState.stalled (Wait.cop (en CoreRow.aau 11 1 0 61 0#64)) ∧ decodeOp (en CoreRow.aau 11 1 0 61 0#64) = DecRes.ok d_264 ∧ d_264.row = CoreRow.aau ∧ ((C1 (en CoreRow.aau 11 1 0 61 0#64) (1797#64) 1795 0).trio (↑T0.trio : Nat)).lost = false ∧ d_264.fn = 61 ∧ bf (((C1 (en CoreRow.aau 11 1 0 61 0#64) (1797#64) 1795 0).thread ((C1 (en CoreRow.aau 11 1 0 61 0#64) (1797#64) 1795 0).tkey T0)).awake.reg d_264.ra) 3 5 = 0 ∧ bf (((C1 (en CoreRow.aau 11 1 0 61 0#64) (1797#64) 1795 0).thread ((C1 (en CoreRow.aau 11 1 0 61 0#64) (1797#64) 1795 0).tkey T0)).awake.reg d_264.ra) 11 53 = 0) ∧
    (((C1 (en CoreRow.aau 11 1 2 11 0#64) (256#64) 6 0).thread ((C1 (en CoreRow.aau 11 1 2 11 0#64) (256#64) 6 0).tkey T0)).st = TState.stalled (Wait.cop (en CoreRow.aau 11 1 2 11 0#64)) ∧ decodeOp (en CoreRow.aau 11 1 2 11 0#64) = DecRes.ok d_165 ∧ d_165.row = CoreRow.aau ∧ ((C1 (en CoreRow.aau 11 1 2 11 0#64) (256#64) 6 0).trio (↑T0.trio : Nat)).lost = false ∧ d_165.fn < 60 ∧ (C1 (en CoreRow.aau 11 1 2 11 0#64) (256#64) 6 0).flag (B.trio (↑T0.trio : Nat)) TRIO.AAU_STAT_FAILED = false ∧ (aauOp d_165.fn d_165.b (((C1 (en CoreRow.aau 11 1 2 11 0#64) (256#64) 6 0).thread ((C1 (en CoreRow.aau 11 1 2 11 0#64) (256#64) 6 0).tkey T0)).awake.reg d_165.ra) (((C1 (en CoreRow.aau 11 1 2 11 0#64) (256#64) 6 0).thread ((C1 (en CoreRow.aau 11 1 2 11 0#64) (256#64) 6 0).tkey T0)).awake.reg (d_165.ra + 1)) (((C1 (en CoreRow.aau 11 1 2 11 0#64) (256#64) 6 0).thread ((C1 (en CoreRow.aau 11 1 2 11 0#64) (256#64) 6 0).tkey T0)).awake.reg d_165.rb) (((C1 (en CoreRow.aau 11 1 2 11 0#64) (256#64) 6 0).thread ((C1 (en CoreRow.aau 11 1 2 11 0#64) (256#64) 6 0).tkey T0)).awake.reg (d_165.rb + 1)) (((C1 (en CoreRow.aau 11 1 2 11 0#64) (256#64) 6 0).thread ((C1 (en CoreRow.aau 11 1 2 11 0#64) (256#64) 6 0).tkey T0)).awake.reg (d_165.rb + 2))).flags &&& bf ((C1 (en CoreRow.aau 11 1 2 11 0#64) (256#64) 6 0).thread ((C1 (en CoreRow.aau 11 1 2 11 0#64) (256#64) 6 0).tkey T0)).awake.aauFlags 8 3 ≠ 0) :=
  by and_intros <;> decide
theorem wit_Cp1Cp2Results :
    (((CQ (en CoreRow.appendS 11 10 2 1 0#64) 3).thread ((CQ (en CoreRow.appendS 11 10 2 1 0#64) 3).tkey T0)).st = TState.stalled (Wait.cop (en CoreRow.appendS 11 10 2 1 0#64)) ∧ decodeOp (en CoreRow.appendS 11 10 2 1 0#64) = DecRes.ok d_215 ∧ ((CQ (en CoreRow.appendS 11 10 2 1 0#64) 3).trio (↑T0.trio : Nat)).lost = false ∧ pendingStores (CQ (en CoreRow.appendS 11 10 2 1 0#64) 3) T0 ((CQ (en CoreRow.appendS 11 10 2 1 0#64) 3).tkey T0) = [] ∧ d_215.row = CoreRow.appendS ∧ BitVec.toNat (((CQ (en CoreRow.appendS 11 10 2 1 0#64) 3).thread ((CQ (en CoreRow.appendS 11 10 2 1 0#64) 3).tkey T0)).awake.reg d_215.ra) < 65536) ∧
    (((CQ (en CoreRow.qstat 11 10 0 2 0#64) 3).thread ((CQ (en CoreRow.qstat 11 10 0 2 0#64) 3).tkey T0)).st = TState.stalled (Wait.cop (en CoreRow.qstat 11 10 0 2 0#64)) ∧ decodeOp (en CoreRow.qstat 11 10 0 2 0#64) = DecRes.ok d_222 ∧ ((CQ (en CoreRow.qstat 11 10 0 2 0#64) 3).trio (↑T0.trio : Nat)).lost = false ∧ pendingStores (CQ (en CoreRow.qstat 11 10 0 2 0#64) 3) T0 ((CQ (en CoreRow.qstat 11 10 0 2 0#64) 3).tkey T0) = [] ∧ d_222.row = CoreRow.qstat ∧ BitVec.toNat (((CQ (en CoreRow.qstat 11 10 0 2 0#64) 3).thread ((CQ (en CoreRow.qstat 11 10 0 2 0#64) 3).tkey T0)).awake.reg d_222.ra) ≤ 16383) ∧
    (((CQ (en CoreRow.qspace 11 10 0 3 0#64) 3).thread ((CQ (en CoreRow.qspace 11 10 0 3 0#64) 3).tkey T0)).st = TState.stalled (Wait.cop (en CoreRow.qspace 11 10 0 3 0#64)) ∧ decodeOp (en CoreRow.qspace 11 10 0 3 0#64) = DecRes.ok d_229 ∧ ((CQ (en CoreRow.qspace 11 10 0 3 0#64) 3).trio (↑T0.trio : Nat)).lost = false ∧ pendingStores (CQ (en CoreRow.qspace 11 10 0 3 0#64) 3) T0 ((CQ (en CoreRow.qspace 11 10 0 3 0#64) 3).tkey T0) = [] ∧ d_229.row = CoreRow.qspace ∧ BitVec.toNat (((CQ (en CoreRow.qspace 11 10 0 3 0#64) 3).thread ((CQ (en CoreRow.qspace 11 10 0 3 0#64) 3).tkey T0)).awake.reg d_229.ra) ≤ 16383) ∧
    (((CY (en CoreRow.crypto 4 5 0 8 0#64)).thread ((CY (en CoreRow.crypto 4 5 0 8 0#64)).tkey T0)).st = TState.stalled (Wait.cop (en CoreRow.crypto 4 5 0 8 0#64)) ∧ decodeOp (en CoreRow.crypto 4 5 0 8 0#64) = DecRes.ok d_196 ∧ ((CY (en CoreRow.crypto 4 5 0 8 0#64)).trio (↑T0.trio : Nat)).lost = false ∧ d_196.row = CoreRow.crypto ∧ (cryptoOps { t := T0, k := (CY (en CoreRow.crypto 4 5 0 8 0#64)).tkey T0, th := ((CY (en CoreRow.crypto 4 5 0 8 0#64)).thread ((CY (en CoreRow.crypto 4 5 0 8 0#64)).tkey T0)).awake, w := en CoreRow.crypto 4 5 0 8 0#64, d := d_196, got := [], ld := none : Cx } true (CY (en CoreRow.crypto 4 5 0 8 0#64))).isOk = true ∧ limitCheckpoint (↑T0.trio : Nat) (cN (en CoreRow.crypto 4 5 0 8 0#64)).snd.snd = (cN (en CoreRow.crypto 4 5 0 8 0#64)).snd.snd ∧ (cN (en CoreRow.crypto 4 5 0 8 0#64)).snd.snd.badOf (cN (en CoreRow.crypto 4 5 0 8 0#64)).fst = none ∧ (cN (en CoreRow.crypto 4 5 0 8 0#64)).snd.snd.badOf (cN (en CoreRow.crypto 4 5 0 8 0#64)).snd.fst = none) :=
  by and_intros <;> decide
theorem wit_AauArithmetic :
    (2 * (rndRat false 7 2 * (↑2 : Int) - 7).natAbs = 2) :=
  by decide
end Core3

namespace Core5
def pr (s : State) : State := s.setFld (B.trio 0) TRIO.STAT_CONF_NOW 1
def bufd (l : List OutEnt) (s : State) : State := setT s T0 (fun th => { th with buf := l })
def o1 : OutEnt := ent 0x80040020 (leBytes 8 0x99AA)
def E2 : State := setT S2 T0 (fun th => { th with vbr := (th.vbr.set (fun _ => 0) 0 0x80000801).set (fun _ => 0) 1 0x80000C00, near := some 7, far := some (9 <<< 65), pl := 3, ph := 4, sr := 0x1F8, g30 := (th.g30.set (fun _ => 0) 0 0x80040140).set (fun _ => 0) 1 0x80040200 })
def RQ : EntryReq := ⟨0, 0x0C, 5, 6, 0x80000104, false, false⟩
def E7 : State := setT E2 T0 (fun th => { th with g30 := th.g30.set (fun _ => 0) 0 0x10000440, esp := 0x80040300 })
def I1 : State := setT ((on S2 [(routeKey 5, 1 + 3*16777216 + 0*0x100000)]).irq 5) T0 (fun th => th.setSr 0 1 1)
def I3 : State := setT I1 T0 (fun th => { th with st := .waiting })
def F1 (w : W32) (pa n : Nat) : State := setT (S2.poke 0x10000100 [0x80,0x81,0x82,0x83,0x84,0x85,0x86,0x87]) T0 (fun th => { th with st := .stalled (.load w [(pa, n)] 0x10000100 7 none) })
def CQ (w : W32) (q : Nat) : State := setT (on S2 [(B.qd 3 + QD.QSTATE.off, 0x00020001)]) T0 (fun th => { R0 [(10, q), (2, 0x1234), (3, 0x0001_0002_0003)] th with st := .stalled (.cop w) })
def EQ : State := (E7.setFld B.walk ⟨0x050, 0, 14⟩ 0).setFld (B.part (E7.partOf T0 RQ.ring)) PART.P_CTL_S1_EN 1
def FS : State := setT (F1 (en .load 11 4 0 0 0 2 3 false) 0x10000100 4) T0 (fun th => { th with buf := [ent 0x10000100 [1]] })
def was : W32 := en .appendS 11 10 2 1
def wqs : W32 := en .qstat 11 10 0 2
def wqp : W32 := en .qspace 11 10 0 3
def CP : State := bufd [o1] (CQ was 3)
def th_1 := EQ.thread 0
def w_3 := en .load 11 4 0 0 0 2 3 false
def d_5 := idec S2 T0 was
def s1_6 := ist (pr S2) T0 was
def d_8 := idec S2 T0 wqs
def s1_9 := ist (pr S2) T0 wqs
def d_11 := idec S2 T0 wqp
def s1_12 := ist (pr S2) T0 wqp

theorem wit_EntryTargetAndEscalation_2 :
    ((framePieces T0 RQ.ring th_1 (splitLines 3 (bf (th_1.g30of RQ.ring - 64#64) 0 48) 64) EQ).isOk = false) :=
  by decide
theorem wit_InterruptsAndStoreErrors_2 :
    ((gt I3).gated = true) :=
  by decide
theorem wit_FabricAnswers_2 :
    ((FS.thread (FS.tkey T0)).st = TState.stalled (Wait.load w_3 [(268435712, 4)] (268435712#64) (7#64) none) ∧ storesAhead FS T0 w_3 [(268435712, 4)] = true) :=
  by decide
theorem wit_CoprocessorRowsIssue_2 :
    ((issued (pr S2) T0 wqs).isSome = true ∧ s1_9.conf (↑T0.trio : Nat) = 1 ∧ (checkpoint (↑T0.trio : Nat) true s1_9).sameRun s1_9 = true ∧ d_8.row = CoreRow.qstat) ∧
    ((issued (pr S2) T0 was).isSome = true ∧ s1_6.conf (↑T0.trio : Nat) = 1 ∧ (checkpoint (↑T0.trio : Nat) true s1_6).sameRun s1_6 = true ∧ d_5.row = CoreRow.appendS) ∧
    ((issued (pr S2) T0 wqp).isSome = true ∧ s1_12.conf (↑T0.trio : Nat) = 1 ∧ (checkpoint (↑T0.trio : Nat) true s1_12).sameRun s1_12 = true ∧ d_11.row = CoreRow.qspace) :=
  by and_intros <;> decide
theorem wit_Cp1Cp2Results_2 :
    (S2.conf 0 ≠ 1) ∧
    ((pr S2).conf 0 = 1) ∧
    ((CP.thread (CP.tkey T0)).st = TState.stalled (Wait.cop was) ∧ decodeOp was = DecRes.ok d_5 ∧ (CP.trio (↑T0.trio : Nat)).lost = false ∧ d_5.row = CoreRow.appendS ∧ pendingStores CP T0 (CP.tkey T0) ≠ []) :=
  by and_intros <;> decide
end Core5

namespace Eth
def w0 : Writer := ⟨0,false,T0⟩
def enP (p : Nat) (s : State) : State := (s.setFld (page p) PG.CTL_EN 1).setFld (page p) PG.STAT_ENABLED 1
def Z : State := { S0 with dev := { S0.dev with fuses := { S0.dev.fuses with mac := 0x0A0B0C0D0E0F } } }
def E0 : State := enP 0x320 (enP 0x321 (enP 0x322 (md 2 Z)))
def e (p : Nat) (l : List (Fld × Nat)) (s : State) : State := l.foldl (fun s x => s.setFld (B.eth p) x.1 x.2) s
def n (l : List (Fld × Nat)) (s : State) : State := l.foldl (fun s x => s.setFld B.net x.1 x.2) s
def up (p : Nat) (s : State) : State := e p [(ETH.STAT_LINK,1)] s
def E1 : State := n [(NET.IP4_ADDR, 0xC0A80105)] (up 0 (up 1 E0))
def mac : List Byte := [0x0A,0x0B,0x0C,0x0D,0x0E,0x0F]
def m2 : List Byte := [2,0,0,0,0,9]
def pad (k : Nat) : List Byte := List.replicate k 0
def ip6f : List Byte := mac ++ m2 ++ [0x86,0xDD] ++ pad 46
def arp : List Byte := mac ++ m2 ++ [8,6,0,1,8,0,6,4,0,1] ++ m2 ++ [192,168,1,9] ++ pad 6 ++ E1.own4 ++ pad 18
def prpf (p : Nat) : List Byte := prpFrame (mac ++ m2 ++ [0x11,0x22] ++ pad 46) 7 p
def P1 : State := let s := n [(NET.PRP_CTL_EN,1),(NET.PRP_CTL_FORGET,400)] E1; { s with now := 1000, net := { s.net with nodes := [⟨0x020000000009, [(7, 5),(6,4)], 900⟩, ⟨0x55, [], 4⟩] } }
def sas (s : State) : State := s.setEthp 0 { (s.ethp 0) with sas := ((s.ethp 0).sas.set (fun _ => {}) 0 { key := pad 32, salt := pad 12, pn := 5, installed := true, enabled := true }).set (fun _ => {}) 17 { enabled := true } }
def keyd (s : State) : State := (e 0 [(ETH.SA_SSCI,77),(ETH.SA_SALT,9),(ETH.SA_KEY,5),(ETH.SA_PN_LO,99),(ETH.SA_PN_HI,1)] s)
def endw : Nat := (en .endp 0 0 0 7).toNat
def ld (l : List Nat) : State := let s := E1.poke 0x10000100 (l.flatMap (fun x => leBytes 4 x)); { s with net := { s.net with load := some ⟨0, 0x10000100⟩ } }
def T (l : List (Fld × Nat)) (s : State) : State := n ([(NET.PTP_CTL_EN,1)] ++ l) s
def pt (p : Nat) (x : PtpPort) (s : State) : State := s.setPtp p x
def mid : List Byte := [1,2,3,4,5,6,7,8,0,1]
def sl (l : List (Fld × Nat)) : State := pt 0 { master := some (4, mid), delay := 100, txSeq := 0xFFFF } (T ([(NET.PTP_STAT_STATE,ptpSlave)] ++ l) E1)
def sync : List Byte := [0, 2, 0, 44, 0, 0, 0, 0] ++ pad 12 ++ mid ++ pad 2 ++ pad 2 ++ beBytes 6 0 ++ beBytes 4 1000 ++ pad 4
def TG : State := T [(NET.PTP_STAT_STATE,ptpMaster),(NET.PTP_CTL_PROFILE,1)] E1
def s_1 := e 1 [(ETH.CFG_MEDIA,1),(ETH.CFG_TRAIN,1),(ETH.CFG_FEC,1)] E0
def s_5 := e 1 [(ETH.SEC_CTL_EN,1)] P1
def s_6 := keyd (sas E1)
def s_11 := n [(NET.PROG_LOAD_LO,0x10000100)] E1
def s_12 := ld [0x5A4D5301, 3 + 3*65536, 1 + 65536, 0, endw]
def s_14 := E1.setEthp 1 { txq := [ip6f, arp], txUntil := true }
def s_15 := T [(NET.PTP_STAT_STATE,ptpMaster)] E1
def s_21 := T [(NET.PTP_STAT_STATE,ptpMaster),(NET.PTP_CTL_ONE_STEP,1),(NET.PTP_CTL_PROFILE,1),(NET.PRP_CTL_EN,1)] E1
def s_27 := T [(NET.PTP_STAT_STATE,ptpMaster)] (e 0 [(ETH.SEC_CTL_EN,1)] E1)
def s_33 := T [(NET.PTP_STAT_STATE,ptpMaster)] (e 0 [(ETH.SEC_CTL_EN,1)] (sas E1))
def s_50 := T [(NET.PTP_CTL_GM_CAPABLE,1),(NET.PTP_STAT_STATE,ptpListening)] E1
def s_56 := sl [(NET.PTP_OFS_LIM,100),(NET.PTP_STEP_TH,10),(NET.PTP_SERVO_STEP_EN,1)]

theorem wit_EthernetRows :
    (s_5.gated = false ∧ s_5.pgEn (800 + 1) = true ∧ s_5.linkUp 1 = true ∧ s_5.flag (B.eth 1) ETH.SEC_CTL_EN = true ∧ s_5.flag (B.eth 1) ETH.SEC_CTL_ALLOW_PLAIN = false ∧ macTakes (prpf 1) s_5 ∧ isEapol (prpf 1) = false ∧ be16 (prpf 1) 12 ≠ 35045 ∧ (∃ (n : PrpNode), n ∈ s_5.net.nodes ∧ n.mac = 85) ∧ s_5.net.nodes.length ≤ 256 ∧ leNat (List.drop ((prpf 1).length - 4) (prpf 1)) ≠ crc32 (List.take ((prpf 1).length - 4) (prpf 1)) ∧ mayWrite w0 (800 + 1) s_5 ∧ s_5.saBusy 1 = false ∧ s_5.xpn 1 = false ∧ 1 ≠ s_5.saSel 1) ∧
    (((e 1 [(ETH.CFG_MEDIA, 1), (ETH.CFG_TRAIN, 1), (ETH.CFG_FEC, 1)] E0).setEthp 1 { train := true, echoAt := 0#64, icvAt := 0#64 : EthPort }).gated = false ∧ ((e 1 [(ETH.CFG_MEDIA, 1), (ETH.CFG_TRAIN, 1), (ETH.CFG_FEC, 1)] E0).setEthp 1 { train := true, echoAt := 0#64, icvAt := 0#64 : EthPort }).pgEn (800 + 1) = true ∧ ((e 1 [(ETH.CFG_MEDIA, 1), (ETH.CFG_TRAIN, 1), (ETH.CFG_FEC, 1)] E0).setEthp 1 { train := true, echoAt := 0#64, icvAt := 0#64 : EthPort }).linkUp 1 = false ∧ (((e 1 [(ETH.CFG_MEDIA, 1), (ETH.CFG_TRAIN, 1), (ETH.CFG_FEC, 1)] E0).setEthp 1 { train := true, echoAt := 0#64, icvAt := 0#64 : EthPort }).kr 1 = true → (((e 1 [(ETH.CFG_MEDIA, 1), (ETH.CFG_TRAIN, 1), (ETH.CFG_FEC, 1)] E0).setEthp 1 { train := true, echoAt := 0#64, icvAt := 0#64 : EthPort }).ethp 1).train = true) ∧ ((e 1 [(ETH.CFG_MEDIA, 1), (ETH.CFG_TRAIN, 1), (ETH.CFG_FEC, 1)] E0).setEthp 1 { train := true, echoAt := 0#64, icvAt := 0#64 : EthPort }).pgRunning 802 = true ∧ (((e 1 [(ETH.CFG_MEDIA, 1), (ETH.CFG_TRAIN, 1), (ETH.CFG_FEC, 1)] E0).setEthp 1 { train := true, echoAt := 0#64, icvAt := 0#64 : EthPort }).ethp 1).train = true ∧ ((e 1 [(ETH.CFG_MEDIA, 1), (ETH.CFG_TRAIN, 1), (ETH.CFG_FEC, 1)] E0).setEthp 1 { train := true, echoAt := 0#64, icvAt := 0#64 : EthPort }).kr 1 = true) ∧
    (s_14.gated = false ∧ (s_14.ethp 1).txUntil = true ∧ s_14.linkUp 1 = true) ∧
    (s_11.gated = false ∧ s_11.pgRunning 802 = true ∧ s_11.prpOn = true ∧ plainPort 0 s_11 ∧ plainPort 1 s_11 ∧ admits w0 (B.net + NET.RAWTX_HEAD.off) 0 s_11 ∧ s_11.fld B.net NET.RAWTX_CFG_SLOTS ≤ 12 ∧ s_11.rawWaits = false ∧ (∀ (m : Nat), m < 13 → s_11.conf m ≠ 1) ∧ admits w0 (B.net + NET.PROG_LOAD.off) 0 s_11) ∧
    (s_12.gated = false ∧ s_12.net.load = some { slot := 0, addr := 268435712 : ProgLoad }) ∧
    (mayWrite w0 (800 + 0) s_6 ∧ s_6.saBusy 0 = true) ∧
    (P1.gated = false ∧ P1.pgEn (800 + 1) = true ∧ P1.linkUp 1 = true ∧ P1.flag (B.eth 1) ETH.SEC_CTL_EN = false ∧ P1.prpOn = true ∧ macTakes (prpf 1) P1 ∧ isEapol (prpf 1) = false ∧ P1.otherTag (prpf 1) = false ∧ (etherAt (prpf 1)).fst ≠ 35067 ∧ prpTrailer (prpf 1) = some (7, 1) ∧ (7, 5#64) ∈ (P1.prpNode (beNat (List.take 6 (List.drop 6 (prpf 1))))).seqs ∧ P1.since 5#64 < P1.fld B.net NET.PRP_CTL_FORGET * 16000000) ∧
    (s_1.gated = false ∧ s_1.pgEn (800 + 1) = true ∧ s_1.linkUp 1 = false ∧ s_1.kr 1 = true ∧ (s_1.ethp 1).train = false) ∧
    (E0.gated = false ∧ E0.pgEn (800 + 0) = true ∧ E0.linkUp 0 = false ∧ (E0.kr 0 = true → (E0.ethp 0).train = true) ∧ E0.pgRunning 802 = true) :=
  by and_intros <;> decide
theorem wit_PtpRows :
    ((sl []).gated = false ∧ (sl []).ptpOn 0 = true ∧ (sl []).flag B.net NET.PTP_CTL_UDP = false ∧ plainPort 0 (sl []) ∧ (sl []).gptp = false ∧ ((sl []).ptp 0).master.isSome = true ∧ (sl []).ptpState ≠ ptpMaster ∧ ((sl []).ptpOn (1 - 0) = true → ((sl []).ptp (1 - 0)).master = none) ∧ (sl []).ptpState = ptpSlave ∧ m2.length = 6 ∧ macTakes ([1#8, 27#8, 25#8, 0#8, 0#8, 0#8] ++ m2 ++ [136#8, 247#8] ++ sync) (sl []) ∧ prpTrailer ([1#8, 27#8, 25#8, 0#8, 0#8, 0#8] ++ m2 ++ [136#8, 247#8] ++ sync) = none ∧ (sl []).ptpPort = 0 ∧ leNat (List.take 1 sync) = 16 * b2n (sl []).gptp ∧ leNat (List.take 1 (List.drop 1 sync)) % 16 = 2 ∧ leNat (List.take 1 (List.drop 4 sync)) = (sl []).ptpDomain ∧ nbit (leNat (List.take 1 (List.drop 6 sync))) 1 = false ∧ ((sl []).ptp 0).master = some (4, List.take 10 (List.drop 20 sync)) ∧ List.take 8 (List.drop 20 sync) ≠ (sl []).clockId ∧ (sl []).mayStep ((sl []).rxTime 0 20000#64 - ptpCorr (List.drop 8 sync) - ptpTime (List.drop 34 sync) (sl []) - ((sl []).ptp 0).delay) = false) ∧
    (s_21.gated = false ∧ s_21.ptpOn 1 = true ∧ s_21.flag B.net NET.PTP_CTL_UDP = false ∧ plainPort 1 s_21 ∧ s_21.ptpState = ptpMaster ∧ s_21.flag B.net NET.PTP_CTL_ONE_STEP = true) ∧
    (s_33.gated = false ∧ s_33.ptpOn 0 = true ∧ s_33.flag B.net NET.PTP_CTL_UDP = false ∧ s_33.pgEn (800 + 0) = true ∧ s_33.linkUp 0 = true ∧ (s_33.ethp 0).txq = [] ∧ s_33.flag (B.eth 0) ETH.SEC_CTL_EN = true ∧ s_33.ptpState = ptpMaster ∧ s_33.txSa 0 = some { key := pad 32, salt := pad 12, ssci := 0#32, pn := 5, installed := true, enabled := true : Sa } ∧ { key := pad 32, salt := pad 12, ssci := 0#32, pn := 5, installed := true, enabled := true : Sa }.pn < 2 ^ 32 - 1) ∧
    (s_21.gated = false ∧ s_21.ptpOn 1 = true ∧ s_21.flag B.net NET.PTP_CTL_UDP = false ∧ plainPort 1 s_21 ∧ s_21.gptp = true) ∧
    (s_15.gated = false ∧ s_15.ptpOn 0 = true ∧ s_15.flag B.net NET.PTP_CTL_UDP = false ∧ plainPort 0 s_15 ∧ s_15.ptpState = ptpMaster ∧ s_15.flag B.net NET.PTP_CTL_ONE_STEP = false) ∧
    (TG.gated = false ∧ TG.ptpOn 0 = true ∧ TG.flag B.net NET.PTP_CTL_UDP = false ∧ plainPort 0 TG ∧ TG.ptpState = ptpMaster ∧ TG.gptp = true) ∧
    (s_27.gated = false ∧ s_27.ptpOn 0 = true ∧ s_27.flag B.net NET.PTP_CTL_UDP = false ∧ s_27.pgEn (800 + 0) = true ∧ s_27.linkUp 0 = true ∧ (s_27.ethp 0).txq = [] ∧ s_27.flag (B.eth 0) ETH.SEC_CTL_EN = true ∧ s_27.ptpState = ptpMaster ∧ s_27.txSa 0 = none) ∧
    (s_56.gated = false ∧ s_56.ptpOn 0 = true ∧ s_56.flag B.net NET.PTP_CTL_UDP = false ∧ plainPort 0 s_56 ∧ m2.length = 6 ∧ macTakes ([1#8, 27#8, 25#8, 0#8, 0#8, 0#8] ++ m2 ++ [136#8, 247#8] ++ sync) s_56 ∧ prpTrailer ([1#8, 27#8, 25#8, 0#8, 0#8, 0#8] ++ m2 ++ [136#8, 247#8] ++ sync) = none ∧ s_56.ptpState = ptpSlave ∧ s_56.ptpPort = 0 ∧ leNat (List.take 1 sync) = 16 * b2n s_56.gptp ∧ leNat (List.take 1 (List.drop 1 sync)) % 16 = 2 ∧ leNat (List.take 1 (List.drop 4 sync)) = s_56.ptpDomain ∧ nbit (leNat (List.take 1 (List.drop 6 sync))) 1 = false ∧ (s_56.ptp 0).master = some (4, List.take 10 (List.drop 20 sync)) ∧ List.take 8 (List.drop 20 sync) ≠ s_56.clockId ∧ 16 * s_56.fld B.net NET.PTP_OFS_LIM < (s_56.rxTime 0 2000#64 - ptpCorr (List.drop 8 sync) - ptpTime (List.drop 34 sync) s_56 - (s_56.ptp 0).delay).natAbs ∧ s_56.mayStep (s_56.rxTime 0 2000#64 - ptpCorr (List.drop 8 sync) - ptpTime (List.drop 34 sync) s_56 - (s_56.ptp 0).delay) = true) ∧
    (s_50.gated = false ∧ s_50.ptpOn 0 = true ∧ (s_50.ptpOn (1 - 0) = true → (s_50.ptp (1 - 0)).master = none) ∧ s_50.ptpState = ptpListening ∧ s_50.flag B.net NET.PTP_CTL_GM_CAPABLE = true) ∧
    ((sl []).gated = false ∧ (sl []).ptpOn 0 = true ∧ (sl []).flag B.net NET.PTP_CTL_UDP = false ∧ plainPort 0 (sl []) ∧ (sl []).gptp = false ∧ ((sl []).ptp 0).master.isSome = true ∧ (sl []).ptpState ≠ ptpMaster) ∧
    (E0.gated = false ∧ E0.linkUp 0 = false) :=
  by and_intros <;> decide
end Eth

namespace Eth2
def enP (p : Nat) (s : State) : State := (s.setFld (page p) PG.CTL_EN 1).setFld (page p) PG.STAT_ENABLED 1
def Z : State := { S0 with dev := { S0.dev with fuses := { S0.dev.fuses with mac := 0x0A0B0C0D0E0F } } }
def E0 : State := enP 0x320 (enP 0x321 (enP 0x322 (md 2 Z)))
def e (p : Nat) (l : List (Fld × Nat)) (s : State) : State := l.foldl (fun s x => s.setFld (B.eth p) x.1 x.2) s
def n (l : List (Fld × Nat)) (s : State) : State := l.foldl (fun s x => s.setFld B.net x.1 x.2) s
def up (p : Nat) (s : State) : State := e p [(ETH.STAT_LINK,1)] s
def E1 : State := n [(NET.IP4_ADDR, 0xC0A80105)] (up 0 (up 1 E0))
def mac : List Byte := [0x0A,0x0B,0x0C,0x0D,0x0E,0x0F]
def m2 : List Byte := [2,0,0,0,0,9]
def pad (k : Nat) : List Byte := List.replicate k 0
def ip6f : List Byte := mac ++ m2 ++ [0x86,0xDD] ++ pad 46
def P1 : State := let s := n [(NET.PRP_CTL_EN,1),(NET.PRP_CTL_FORGET,400)] E1; { s with now := 1000, net := { s.net with nodes := [⟨0x020000000009, [(7, 5),(6,4)], 900⟩, ⟨0x55, [], 4⟩] } }
def E2 : State := n [(NET.PRP_CTL_EN,0)] E1
def f_1 := m2 ++ ip6f
def tha_2 := List.replicate 6 (0:Byte)
def pad_3 := List.replicate 18 (0:Byte)

theorem wit_EthernetRows_2 :
    (P1.gated = false ∧ P1.pgRunning 802 = true ∧ P1.prpOn = true ∧ plainPort 0 P1 ∧ plainPort 1 P1) ∧
    (E2.gated = false ∧ plainPort 0 E2 ∧ E2.prpOn = false ∧ E2.pgRunning 802 = true ∧ E2.has4 = true ∧ m2.length = 6 ∧ tha_2.length = 6 ∧ [192#8, 168#8, 1#8, 9#8].length = 4 ∧ macTakes (E2.macBytes ++ m2 ++ [8#8, 6#8, 0#8, 1#8, 8#8, 0#8, 6#8, 4#8, 0#8, 1#8] ++ m2 ++ [192#8, 168#8, 1#8, 9#8] ++ tha_2 ++ E2.own4 ++ pad_3) E2) ∧
    (E2.gated = false ∧ E2.macAccepts (List.take 6 f_1) = false ∧ 60 ≤ f_1.length ∧ f_1.length ≤ 1596) :=
  by and_intros <;> decide
end Eth2

namespace Queue
def w0 : Writer := ⟨0,false,T0⟩
def enP (p : Nat) (s : State) : State := (s.setFld (page p) PG.CTL_EN 1).setFld (page p) PG.STAT_ENABLED 1
def ctl : Nat := 1 + 2*16 + 2*8192 + 5*65536 + 3*2^20 + 2^23
def Q0 : State := on (enP 0x210 (enP 0x211 (enP 0x212 (md 4 S2)))) [(B.lane 0 + 0x40, 1), (B.lane 1 + 0x40, 1), (B.qd 70, ctl), (B.qd 70 + 4, 4 + 65536), (B.qd 70 + 8, 3 + 5*16 + 9*2048), (B.qd 70 + 0xC, 3000000), (B.qd 70 + 0x10, 160000)]
def e (t a p : Nat) : RawEntry := ⟨BitVec.ofNat 64 t, BitVec.ofNat 16 a, 0, BitVec.ofNat 32 p⟩
def fl (fire : Nat) (c : Bool := false) : Flight := ⟨BitVec.ofNat 64 fire, BitVec.ofNat 64 fire, 0, some 4, none, c, 1, 0⟩
def qs (st : Nat) (es : List QEnt) : State := (Q0.setFld (B.qd 70) QD.QSTATE_STATE st).putQueue 70 { ents := es, tail := es.length }
def E3 : List QEnt := [⟨0, e 100 1 7, none⟩, ⟨1, e 200 1 8, none⟩, ⟨2, e 300 1 9, none⟩]
def E3f : List QEnt := [⟨0, e 100 1 7, some (fl 999999)⟩, ⟨1, e 200 1 8, none⟩, ⟨2, e 300 1 9, none⟩]
def vq : W32 := BitVec.ofNat 32 (ctl - 1)
def cn (s : State) : State := on s [(B.eng + ENG.CANCEL_Q.off, 70), (B.eng + ENG.CANCEL_A_LO.off, 200)]
def cnr (n : Nat) (s : State) : State := { s with eng := { s.eng with cancel := some ⟨70, n, [0x00000005]⟩, marks := [⟨70, 8, 0x1_0000_0005⟩, ⟨71, 8, 6⟩] } }
def pl (s : State) : State := s.wr (B.eng + ENG.PROG_LOAD_LO.off) 0x10000100
def pl2 (b : List Nat) : State := let s := Q0.poke 0x10000100 (b.flatMap (fun x => leBytes 4 x)); { s with eng := { s.eng with load := some ⟨3, 0x10000100⟩ } }
def snap (s : State) : State := on s [(B.shaft 2 + SHAFT.SNAP_FLAGS.off, 0x202), (B.shaft 2 + SHAFT.SNAP_V_HI.off, 0x100), (B.shaft 2 + SHAFT.SNAP_A_LO.off, 0x0)]
def Em : List QEnt := [⟨0, e 0x100000 5 7, none⟩, ⟨1, e 0x200000 5 8, none⟩]
def far (n : Nat) : State := snap (qs 2 [⟨0, e n 5 7, none⟩, ⟨1, e n 5 8, none⟩])
def mk : Flight := ⟨55, 55, 0, none, none, false, 5, 7⟩
def gr (tol : Nat) (t f d now : Nat) : State := let s := (snap (qs 2 [⟨0, e 0x2000000000000 1 7, some { fl f with tag := some 7 }⟩])).wr (B.eng + ENG.RETIME_TOL.off) (BitVec.ofNat 32 tol); { s with now := BitVec.ofNat 64 now, eng := { s.eng with groups := ⟨[(7, ⟨2, 0x2000000000000, BitVec.ofNat 64 t, BitVec.ofNat 64 f, BitVec.ofNat 64 d, 8⟩)]⟩ } }
def tfg : Nat := (((far 0x2000000000000).predict 2 0x2000000000000).getD 0).toNat
def g1 : Group := ⟨2, 0x2000000000000, BitVec.ofNat 64 (tfg - 500), BitVec.ofNat 64 (tfg-700), BitVec.ofNat 64 (tfg - 800), 8⟩
def near : State := far 0x80000
def dirty : State := { near with bad := [(near.entAddr 70 0) / 8] }
def noid : Flight := { fl 999999 with id := none }
def E3n : List QEnt := [⟨0, e 100 1 7, some noid⟩, ⟨1, e 200 1 8, none⟩]
def E1f : List QEnt := [⟨0, e 100 1 7, some (fl 999999)⟩]
def f_1 := fl 999999
def s_2 := qs 2 E3f
def v_3 := vq ||| 2
def s_4 := qs 4 E3f
def s_5 := cn (qs 2 E3)
def s_6 := cnr 3 (qs 2 E3f)
def s_8 := pl2 [2, 0, 0]
def e_9 := e 300 1 5
def s_17 := qs 2 [⟨0, e 100 5 7, some mk⟩, ⟨1, e 200 1 8, some (fl 999999)⟩]
def s_18 := gr 400 (tfg-500) (tfg-700) (tfg-800) 0
def tf_19 := BitVec.ofNat 64 tfg
def s_20 := gr 400 (tfg-500) (tfg-700) (tfg-800) (tfg-799)
def tf_21 := ((near).predict 2 0x80000).getD 0
def e_22 := e 0x80000 5 7
def s_25 := qs 4 E3n
def s_27 := qs 5 E1f

theorem wit_QueueCommandRows :
    (mayWrite w0 (1024 + 70 / 64) s_4 ∧ s_4.qst 70 = qHalted ∧ s_4.runMode = true ∧ (s_4.queue 70).head = some { slot := 1, e := e 200 1 8, fly := none : QEnt } ∧ mayWrite w0 528 s_4 ∧ s_4.pgRunning 528 = true ∧ s_4.qst 70 ≠ qArmed) ∧
    (s_6.gated = false ∧ s_6.eng.cancel = some { q := 70, n := 3, ids := [5#32] : CancelRun } ∧ (s_6.queue 70).ents.all (fun e => e.fly.all (fun f => !f.cancel || f.id.all (fun i => !([5#32] : List W32).contains i))) = true ∧ mayRead w0 528 s_6 ∧ s_6.eng.marks = [{ q := 70, param := 8#32, t := 4294967301#64 : Mark }, { q := 71, param := 8#32, t := 6#64 : Mark }] ∧ s_6.snaps.find (B.eng + 160) = none ∧ mayWrite w0 (1024 + 70 / 64) s_6 ∧ s_6.qst 70 = qRunning) ∧
    (admits w0 (B.qd 70) (bit0 vq false) (qs 1 E3) ∧ (qs 1 E3).qst 70 = qArmed ∧ (∀ (e : QEnt), e ∈ ((qs 1 E3).queue 70).ents → e.fly = none) ∧ mayWrite w0 (1024 + 70 / 64) (qs 1 E3) ∧ (qs 1 E3).runMode = true ∧ (qs 1 E3).pgRunning 528 = true) ∧
    (mayWrite w0 528 s_5 ∧ s_5.fld B.eng ENG.CANCEL_Q = 70 ∧ s_5.qst 70 ≠ qIdle ∧ s_5.eng.cancel = none ∧ (∀ (e : QEnt), e ∈ (s_5.queue 70).ents → e.fly = none) ∧ admits w0 (B.qd 70) (bit0 vq false) s_5 ∧ s_5.qst 70 = qRunning ∧ BitVec.getLsbD vq 1 = false) ∧
    (admits w0 (B.qd 70) (bit0 vq true) ((qs 0 []).wr (B.qd 70) vq) ∧ ((qs 0 []).wr (B.qd 70) vq).flag (B.qd 70) QD.QCTL_EN = false) ∧
    (admits w0 (B.qd 70) (bit0 v_3 false) s_2 ∧ s_2.qst 70 = qRunning ∧ BitVec.getLsbD v_3 1 = true ∧ (s_2.queue 70).ents ≠ []) ∧
    (admits w0 (B.qd 70) (bit0 vq false) s_25 ∧ s_25.qst 70 = qHalted ∧ (∃ (e : QEnt), e ∈ (s_25.queue 70).ents ∧ e.fly.isSome = true) ∧ (s_25.queue 70).ents.all (fun e => e.fly.all (fun f => f.id.isNone || decide (diff64 f.fire s_25.now < notice))) = true) ∧
    (admits w0 (B.qd 70) (bit0 vq false) s_27 ∧ s_27.qst 70 = qFault ∧ (s_27.queue 70).ents = [{ slot := 0, e := e 100 1 7, fly := some (fl 999999) : QEnt }] ∧ { slot := 0, e := e 100 1 7, fly := some (fl 999999) : QEnt }.fly = some f_1 ∧ f_1.id = some 4#32 ∧ f_1.tag = none ∧ f_1.cancel = false ∧ notice ≤ diff64 f_1.fire s_27.now ∧ (∀ (c : TxCmd), c ∈ (s_27.ring (s_27.fld (B.qd 70) QD.QDEST_RING)).txq → c.id ≠ 4#32)) ∧
    (admits w0 (B.eng + ENG.PROG_LOAD.off) 196608 (pl Q0)) ∧
    (s_8.gated = false ∧ s_8.eng.load = some { slot := 3, addr := 268435712 : ProgLoad } ∧ { slot := 3, addr := 268435712 : ProgLoad }.slot < 64 ∧ (progRead smEngine { slot := 3, addr := 268435712 : ProgLoad }.addr s_8).fst ≠ Code.ok) :=
  by and_intros <;> decide
theorem wit_QueueEventRows :
    ((qs 2 E3).gated = false ∧ Code.lowest (appendCodes Appender.host 70 e_9 (qs 2 E3)) = Code.ok) ∧
    (s_20.gated = false ∧ s_20.eng.groups.cells = [(7, g1)] ∧ (s_20.serving 0).isSome = true ∧ s_20.snapFit g1.shaft = true ∧ s_20.predict g1.shaft g1.target = some tf_19 ∧ s_20.fld B.eng ENG.RETIME_TOL ≤ (BitVec.toInt (aauOp 3 false tf_19 (0#64) g1.t 0#64 0#64).val).natAbs ∧ 0 < diff64 s_20.now g1.d) ∧
    ((qs 2 Em).gated = false ∧ (qs 2 Em).qLive 70 = true ∧ ((qs 2 Em).queue 70).head = some { slot := 0, e := e 1048576 5 7, fly := none : QEnt } ∧ ((qs 2 Em).serving (70 / 4096)).isSome = true ∧ (qs 2 Em).badIn ((qs 2 Em).entAddr 70 { slot := 0, e := e 1048576 5 7, fly := none : QEnt }.slot) 16 = false ∧ (qs 2 Em).snapFit ((qs 2 Em).qShaft 70) = false ∧ (qs 2 Em).eng.groups = { : Tab Group }) ∧
    (near.gated = false ∧ near.qLive 70 = true ∧ (near.queue 70).head = some { slot := 0, e := e 524288 5 7, fly := none : QEnt } ∧ (near.serving (70 / 4096)).isSome = true ∧ near.badIn (near.entAddr 70 { slot := 0, e := e 524288 5 7, fly := none : QEnt }.slot) 16 = false ∧ near.snapFit (near.qShaft 70) = true ∧ near.predict (near.qShaft 70) { slot := 0, e := e 524288 5 7, fly := none : QEnt }.e.target = some tf_21 ∧ entAct { slot := 0, e := e 524288 5 7, fly := none : QEnt }.e = actMark ∧ near.canDispatch 70 = true ∧ 0 ≤ BitVec.toInt (tf_21 - near.now) ∧ BitVec.toInt (tf_21 - near.now) ≤ (↑(near.fld (B.qd 70) QD.HORIZON) : Int)) ∧
    (s_18.gated = false ∧ s_18.eng.groups.cells = [(7, g1)] ∧ (s_18.serving 0).isSome = true ∧ s_18.snapFit g1.shaft = true ∧ s_18.predict g1.shaft g1.target = some tf_19 ∧ s_18.fld B.eng ENG.RETIME_TOL ≤ (BitVec.toInt (aauOp 3 false tf_19 (0#64) g1.t 0#64 0#64).val).natAbs ∧ diff64 s_18.now g1.d ≤ 0 ∧ notice ≤ diff64 (g1.f + (aauOp 3 false tf_19 (0#64) g1.t 0#64 0#64).val) s_18.now) ∧
    (s_17.gated = false ∧ firstFlight (s_17.queue 70) = some ({ slot := 0, e := e 100 5 7, fly := some mk : QEnt }, mk) ∧ s_17.qst 70 ≠ qDraining ∧ mk.act = actMark ∧ { slot := 0, e := e 100 5 7, fly := some mk : QEnt }.fly = some mk ∧ s_17.eng.marks.length < 256) ∧
    ((gt near).gated = true ∧ Instr.entryRetire 70 ∈ [Instr.queueAppend Appender.host (70#16) e_22, Instr.queueCheck 70 { : AauCheck }, Instr.entryRetire 70, Instr.retimeUpdate { : AauCheck }, Instr.cancelComplete]) ∧
    (dirty.gated = false ∧ dirty.qLive 70 = true ∧ (dirty.queue 70).head = some { slot := 0, e := e 524288 5 7, fly := none : QEnt } ∧ (dirty.serving (70 / 4096)).isSome = true ∧ (¬dirty.badIn (dirty.entAddr 70 { slot := 0, e := e 524288 5 7, fly := none : QEnt }.slot) 16 = false)) :=
  by and_intros <;> decide
end Queue

namespace Seq
def w0 : Writer := ⟨0,false,T0⟩
def enP (p : Nat) (s : State) : State := (s.setFld (page p) PG.CTL_EN 1).setFld (page p) PG.STAT_ENABLED 1
def Q0 : State := on (enP 0x220 (enP 0x202 (enP 0x210 (md 4 S0)))) [(B.iot + 0x40 + 16, 3), (B.clk + CLK.CLK_STAT_DRAM_LOCK.off, 0xFFFFFFFF), (B.dram 0 + DRAM.DRAM_CFG_TRAINED.off, 0xFFFFFFFF), (B.dram 1 + DRAM.DRAM_CFG_TRAINED.off, 0xFFFFFFFF), (B.angle + ANGLE.MASTER.off, 2), (B.shaft 2 + SHAFT.SNAP_FLAGS.off, 0x202)]
def row (c o bm : Nat) : List Byte := leBytes 4 c ++ leBytes 4 0 ++ leBytes 8 o ++ leBytes 32 bm
def rows : List Byte := row 0 0x1000 3 ++ row 0 0x2000 1
def hdr0 : List Byte := leBytes 4 0x4B525450 ++ leBytes 2 1 ++ leBytes 2 0 ++ leBytes 4 2 ++ leBytes 2 8 ++ leBytes 2 48 ++ leBytes 2 70 ++ [0xFF, 1] ++ leBytes 4 1 ++ [2, 3] ++ leBytes 2 0 ++ leBytes 4 5 ++ leBytes 4 0 ++ leBytes 4 (crc32c rows) ++ zeros 20
def hdr : List Byte := hdr0 ++ leBytes 4 (crc32c hdr0)
def A0 : Nat := 0x1000000000
def QL : State := let s := Q0.poke A0 (hdr ++ rows); s.setSeq { s.seq with loading := some A0 }
def tr : Track := (trackCheck A0 QL).2.1
def Qb : State := Q0.poke A0 (hdr.take 63 ++ [0] ++ rows) |> fun s => s.setSeq { s.seq with loading := some A0 }
def st (n : Nat) (s : State) : State := s.setFld B.seq SEQ.STAT_STATE n
def ld : State := st seqLoaded (Q0.setSeq { Q0.seq with track := some tr, vec := Q0.seq.vec.set (fun _ => false) 70 true })
def run : State := st seqRunning (ld.poke A0 (hdr ++ rows))
def cur : SeqRow := ⟨leBytes 32 3, 0, 0, 0x1000, false, 0, [1], [(70, ⟨0x1000, 2, 0, 5⟩)], false, false⟩
def runc : State := run.setSeq { run.seq with cur := some cur }
def qon (full : Bool) (s : State) : State := let s := on s [(B.qd 70, 1 + 16 + 2*8192 + 3*2^20), (B.qd 70 + 4, 65536 * (1)), (B.qd 70 + 8, 3 + 5*16)]; (s.setFld (B.qd 70) QD.QSTATE_STATE 2).putQueue 70 { ents := if full then (List.range 8).map (fun i => ⟨i, ⟨0x100, 2, 0, 5⟩, none⟩) else [] }
def ld2 (b : List Nat) : State := let s := Q0.poke 0x10000100 (b.flatMap (fun x => leBytes 4 x)); s.setSeq { s.seq with load := some ⟨3, 0x10000100⟩ }
def endw : Nat := (en .endp 0 0 0 7).toNat
def vec2 (n : Nat) (p : Option (Nat × Nat)) (ah : Nat) (s : State) : State := (s.setSeq { s.seq with vec := (List.range n).foldl (fun v i => v.set (fun _ => false) (70 + i) true) {}, lastPos := p, fresh := false, cur := none }).wr (B.seq + SEQ.AHEAD.off) (BitVec.ofNat 32 ah)
def rr (s : State) (i : Nat) := seqRead (A0 + 64 + 48 * i) 48 s
def eng2 (b : List Nat) : State := let s := Q0.poke 0x10000100 (b.flatMap (fun x => leBytes 4 x)); { s with eng := { s.eng with load := some ⟨3, 0x10000100⟩ } }
def s_1 := Q0.wr (B.seq + 0x074) 0x10000100
def s_2 := qon true runc
def s_3 := qon false runc
def s_4 := st seqPaused runc
def s_7 := ld2 [0x5A4D5301, 1 + 2*65536, 1 + 65536, 0, endw]
def s_8 := ld2 [0x5A4D5301, 1 + 2*65536, 1 + 65536, 0, 0]
def s_9 := vec2 2 none 0x20 run
def s_10 := vec2 2 none 0x1 run
def s_11 := eng2 [0x5A4D5301, 1 + 1*65536, 1 + 65536, 0, endw]

theorem wit_QueueCommandRows_2 :
    (s_11.gated = false ∧ s_11.eng.load = some { slot := 3, addr := 268435712 : ProgLoad } ∧ { slot := 3, addr := 268435712 : ProgLoad }.slot < 64 ∧ (progRead smEngine { slot := 3, addr := 268435712 : ProgLoad }.addr s_11).fst = Code.ok) :=
  by decide
theorem wit_SequencerRows :
    (mayWrite w0 544 ld ∧ ld.pgRunning 544 = true ∧ ld.seq.loading = none ∧ ld.seqSt ∈ [seqIdle, seqLoaded, seqDone, seqError] ∧ ld.seqSt = seqLoaded ∧ ld.runMode = true ∧ ld.seqSt ≠ seqPaused) ∧
    (mayWrite w0 544 s_4 ∧ s_4.pgRunning 544 = true ∧ s_4.seq.loading = none ∧ s_4.seqSt = seqPaused) ∧
    (mayWrite w0 544 run ∧ run.pgRunning 544 = true ∧ run.seq.loading = none ∧ run.seqSt = seqRunning ∧ run.inSlice = false) ∧
    (s_2.gated = false ∧ s_2.seqSt = seqRunning ∧ s_2.seq.track = some tr ∧ s_2.seq.cur = some cur ∧ cur.out ≠ [] ∧ cur.left = [(70, { target := 4096#64, action := 2#16, flags := 0#16, param := 5#32 : RawEntry })] ∧ queueAppend Appender.seq 70#16 { target := 4096#64, action := 2#16, flags := 0#16, param := 5#32 : RawEntry } s_2 = ((queueAppend Appender.seq 70#16 { target := 4096#64, action := 2#16, flags := 0#16, param := 5#32 : RawEntry } (qon true runc)).fst, Code.full) ∧ mayWrite w0 544 s_2 ∧ s_2.pgRunning 544 = true ∧ s_2.seq.loading = none ∧ s_2.inSlice = true) ∧
    (QL.gated = false ∧ QL.seq.loading = some A0 ∧ QL.ycp.sess = { : Tab Session } ∧ (trackCheck A0 QL).fst = Code.ok) ∧
    (s_9.gated = false ∧ s_9.seqSt = seqRunning ∧ s_9.pgRunning 544 = true ∧ s_9.seq.track = some tr ∧ s_9.seq.cur = none ∧ s_9.seq.req = none ∧ s_9.seq.lastPos = none ∧ s_9.seq.fresh = false ∧ s_9.snapOk (s_9.fld B.angle ANGLE.MASTER) = true ∧ seqRead (tr.addr + 64 + s_9.fld B.seq SEQ.ROW * tr.rowB) tr.rowB s_9 = (some ((rr (vec2 2 none 32 run) 0).fst.getD []), (rr (vec2 2 none 32 run) 0).snd) ∧ ((rr (vec2 2 none 32 run) 0).fst.getD []).length = 48 ∧ nbit (fieldAt ((rr (vec2 2 none 32 run) 0).fst.getD []) 4 4) 0 = false ∧ tr.prog = 255 ∧ 0 < tr.width ∧ tr.width ≤ 256 ∧ (∀ (i : Nat), i < tr.width → nbit (leNat (List.drop 16 ((rr (vec2 2 none 32 run) 0).fst.getD []))) i = Tab.get (fun (_ : Nat) => false) s_9.seq.vec (tr.firstQ + i)) ∧ diff64 (rowTarget tr (s_9.rd64 (B.seq + SEQ.BASE_LO.off)) (0#64) (fieldAt ((rr (vec2 2 none 32 run) 0).fst.getD []) 0 4) 4096#64) (s_9.rd64 (B.shaft (s_9.fld B.angle ANGLE.MASTER) + SHAFT.SNAP_A_LO.off)) ≤ (↑(s_9.fld B.seq SEQ.AHEAD) : Int) * 256 ∧ s_9.fld B.seq SEQ.ROW + 1 < tr.rows ∧ s_9.fld B.seq SEQ.ROW + 1 < 2 ^ 32) ∧
    (s_7.gated = false ∧ s_7.seq.load = some { slot := 3, addr := 268435712 : ProgLoad } ∧ { slot := 3, addr := 268435712 : ProgLoad }.slot < 16 ∧ (progRead smSeq { slot := 3, addr := 268435712 : ProgLoad }.addr s_7).fst = Code.ok) ∧
    (s_3.gated = false ∧ s_3.seqSt = seqRunning ∧ s_3.seq.track = some tr ∧ s_3.seq.cur = some cur ∧ cur.out ≠ [] ∧ cur.left = [(70, { target := 4096#64, action := 2#16, flags := 0#16, param := 5#32 : RawEntry })] ∧ queueAppend Appender.seq 70#16 { target := 4096#64, action := 2#16, flags := 0#16, param := 5#32 : RawEntry } s_3 = ((queueAppend Appender.seq 70#16 { target := 4096#64, action := 2#16, flags := 0#16, param := 5#32 : RawEntry } (qon false runc)).fst, Code.ok) ∧ cur.bad = false ∧ s_3.seq.req = none ∧ tr.width ≤ 256 * (cur.slice + 1)) ∧
    (admits w0 (B.seq + SEQ.PROG_LOAD.off) 327680 s_1) ∧
    (Qb.gated = false ∧ Qb.seq.loading = some A0 ∧ Qb.ycp.sess = { : Tab Session } ∧ (trackCheck A0 Qb).fst ≠ Code.ok) ∧
    (s_8.gated = false ∧ s_8.seq.load = some { slot := 3, addr := 268435712 : ProgLoad } ∧ { slot := 3, addr := 268435712 : ProgLoad }.slot < 16 ∧ (progRead smSeq { slot := 3, addr := 268435712 : ProgLoad }.addr s_8).fst ≠ Code.ok) ∧
    (s_10.gated = false ∧ s_10.seqSt = seqRunning ∧ s_10.pgRunning 544 = true ∧ s_10.seq.track = some tr ∧ s_10.seq.cur = none ∧ s_10.seq.req = none ∧ s_10.seq.lastPos = none ∧ s_10.seq.fresh = false ∧ s_10.snapOk (s_10.fld B.angle ANGLE.MASTER) = true ∧ seqRead (tr.addr + 64 + s_10.fld B.seq SEQ.ROW * tr.rowB) tr.rowB s_10 = (some ((rr (vec2 2 none 1 run) 0).fst.getD []), (rr (vec2 2 none 1 run) 0).snd) ∧ ((rr (vec2 2 none 1 run) 0).fst.getD []).length = 48 ∧ nbit (fieldAt ((rr (vec2 2 none 1 run) 0).fst.getD []) 4 4) 0 = false ∧ tr.prog = 255 ∧ 0 < tr.width ∧ tr.width ≤ 256 ∧ (∀ (i : Nat), i < tr.width → nbit (leNat (List.drop 16 ((rr (vec2 2 none 1 run) 0).fst.getD []))) i = Tab.get (fun (_ : Nat) => false) s_10.seq.vec (tr.firstQ + i)) ∧ (↑(s_10.fld B.seq SEQ.AHEAD) : Int) * 256 < diff64 (rowTarget tr (s_10.rd64 (B.seq + SEQ.BASE_LO.off)) (0#64) (fieldAt ((rr (vec2 2 none 1 run) 0).fst.getD []) 0 4) 4096#64) (s_10.rd64 (B.shaft (s_10.fld B.angle ANGLE.MASTER) + SHAFT.SNAP_A_LO.off))) :=
  by and_intros <;> decide
end Seq

namespace Queue2
def enP (p : Nat) (s : State) : State := (s.setFld (page p) PG.CTL_EN 1).setFld (page p) PG.STAT_ENABLED 1
def ctl : Nat := 1 + 2*16 + 2*8192 + 5*65536 + 3*2^20 + 2^23
def Q0 : State := on (enP 0x210 (enP 0x211 (enP 0x212 (md 4 S2)))) [(B.lane 0 + 0x40, 1), (B.lane 1 + 0x40, 1), (B.qd 70, ctl), (B.qd 70 + 4, 4 + 65536), (B.qd 70 + 8, 3 + 5*16 + 9*2048), (B.qd 70 + 0xC, 3000000), (B.qd 70 + 0x10, 160000)]
def e (t a p : Nat) : RawEntry := ⟨BitVec.ofNat 64 t, BitVec.ofNat 16 a, 0, BitVec.ofNat 32 p⟩
def qs (st : Nat) (es : List QEnt) : State := (Q0.setFld (B.qd 70) QD.QSTATE_STATE st).putQueue 70 { ents := es, tail := es.length }
def E3 : List QEnt := [⟨0, e 100 1 7, none⟩, ⟨1, e 200 1 8, none⟩, ⟨2, e 300 1 9, none⟩]
def snap (s : State) : State := on s [(B.shaft 2 + SHAFT.SNAP_FLAGS.off, 0x202), (B.shaft 2 + SHAFT.SNAP_V_HI.off, 0x100), (B.shaft 2 + SHAFT.SNAP_A_LO.off, 0x0)]
def Em : List QEnt := [⟨0, e 0x100000 5 7, none⟩, ⟨1, e 0x200000 5 8, none⟩]
def e_3 := e 400 1 5
def s_5 := snap (qs 2 Em)
def tf_6 := ((snap (qs 2 Em)).predict 2 0x100000).getD 0

theorem wit_QueueEventRows_2 :
    ((qs 4 E3).gated = false ∧ Code.lowest (appendCodes Appender.seq 70 e_3 (qs 4 E3)) ≠ Code.ok) ∧
    (s_5.gated = false ∧ s_5.qLive 70 = true ∧ (s_5.queue 70).head = some { slot := 0, e := e 1048576 5 7, fly := none : QEnt } ∧ (s_5.serving (70 / 4096)).isSome = true ∧ s_5.badIn (s_5.entAddr 70 { slot := 0, e := e 1048576 5 7, fly := none : QEnt }.slot) 16 = false ∧ s_5.snapFit (s_5.qShaft 70) = true ∧ s_5.predict (s_5.qShaft 70) { slot := 0, e := e 1048576 5 7, fly := none : QEnt }.e.target = some tf_6 ∧ entAct { slot := 0, e := e 1048576 5 7, fly := none : QEnt }.e = actMark ∧ (↑(s_5.fld (B.qd 70) QD.HORIZON) : Int) < BitVec.toInt (tf_6 - s_5.now)) :=
  by and_intros <;> decide
end Queue2

namespace Ring
def w0 : Writer := ⟨0,false,T0⟩
def enP (p : Nat) (s : State) : State := (s.setFld (page p) PG.CTL_EN 1).setFld (page p) PG.STAT_ENABLED 1
def b5 : Nat := B.ring 5
def ln (n : Nat) (s : State) : State := s.setFld b5 RING.STAT_LINE n
def Rg : State := ((ln 2 (enP 0x305 (md 2 S0))).setFld b5 RING.STAT_NODES 3).setFld b5 RING.STAT_BREAK_AFTER 127
def rg (s : State) (f : Ring → Ring) : State := s.setRing 5 (f (s.ring 5))
def plr (s : State) : State := s.wr (b5 + RING.PROG_LOAD_LO.off) 0x10000100
def ld2 (b : List Nat) : State := let s := Rg.poke 0x10000100 (b.flatMap (fun x => leBytes 4 x)); rg s (fun x => { x with load := some ⟨0, 0x10000100⟩ })
def endw : Nat := (en .endp 0 0 0 7).toNat
def sfr (s : State) : State := s.setRing 5 { s.ring 5 with safe := true }
def fr : TxFrame := ⟨4, 3, [1,2,3], none⟩
def cm : TxCmd := ⟨77, 1000, 5, 2, 1, 1, some 9, false, 70, 0⟩
def run (slot : Nat) (ctl : List TxFrame) (tx : List TxCmd) : State := rg ((ln 3 (md 4 Rg)).setFld b5 (nstat RING.NSTAT_STATE 2) 2) (fun x => { x with slot, ctl, txq := tx, openN := 3, enumDone := true, nodes := x.nodes.set (fun _ => {}) 2 { desc := zeros 8 ++ [4, 0, 8, 15] ++ zeros 52 } })
def uf : UpFrame := ⟨0xC, false, 0, 2, 100, 0, false, 0x00190203, 0, {}⟩
def up (f : RingNode → RingNode) : State := rg ((ln 3 (md 4 Rg)).setFld b5 (lockFld true) 1) (fun x => { x with nodes := x.nodes.set (fun _ => {}) 2 (f {}) })
def sf4 : State := rg (ln 4 Rg) (fun x => { x with slot := 1, safe := true, mnt := [] })
def bads16 : State := rg (up (fun x => x)) (fun x => { x with bads := (List.range 16).map (fun i => BitVec.ofNat 64 i) })
def s_2 := ld2 [0x5A4D5301, 1 + 3*65536, 1 + 65536, 0, endw]
def s_6 := rg (ln 1 Rg) (fun x => { x with safe := true })
def s_7 := rg Rg (fun x => { x with job := some .enum0 })
def s_12 := rg (ln 3 (md 4 Rg)) (fun x => { x with todo := [(3, true), (1, false)], enumDone := true })
def s_15 := run 1 [fr] [cm]
def s_16 := run 1 [] [cm]
def s_18 := up (fun x => { x with seq := some 100, seen := [100] })
def s_19 := rg (ln 4 Rg) (fun x => { x with safe := true, cancels := [(7, 70, 0x105), (8, 71, 3)], reports := [(7, 3, 0)] })
def s_21 := rg Rg (fun x => { x with rxUntil := true })
def s_23 := up (fun x => x)

theorem wit_RingCommandRows :
    (mayWrite w0 (768 + 5) s_2 ∧ s_2.flag (B.ring 5) RING.CMD_RES_BUSY = false ∧ lnIdle ≤ s_2.line 5 ∧ s_2.ringUsed 5 = false ∧ s_2.gated = false ∧ (s_2.ring 5).load = some { slot := 0, addr := 268435712 : ProgLoad } ∧ 2 ≤ s_2.ringNodes 5 ∧ s_2.fld (B.ring 5) RING.STAT_BREAK_AFTER = 127 ∧ (s_2.ring 5).safe = false ∧ s_2.mode = mCalico) ∧
    (mayWrite w0 (768 + 5) (sfr Rg) ∧ (sfr Rg).flag (B.ring 5) RING.CMD_RES_BUSY = false ∧ lnIdle ≤ (sfr Rg).line 5 ∧ 0 ≤ (sfr Rg).ringNodes 5 ∧ ((sfr Rg).ring 5).safe = true) ∧
    (admits w0 (B.ring 5 + RING.PROG_LOAD.off) 0 (plr Rg)) :=
  by and_intros <;> decide
theorem wit_RingEventRows :
    (s_19.gated = false ∧ List.find? (fun (y : W32 × Nat × Nat) => y.fst == 7#32) (s_19.ring 5).cancels = some (7#32, 70, 261) ∧ lnIdle ≤ s_19.line 5 ∧ 1 ≤ s_19.ringNodes 5 ∧ (s_19.node 5 1).lost = false ∧ (s_19.ring 5).safe = true ∧ s_19.line 5 ≠ lnOff ∧ (s_19.ring 5).endOut = none ∧ (s_19.ring 5).slot % 2 ^ (s_19.fld (B.ring 5) RING.CFG_UP_SHARE + 1) = 0 ∧ s_19.ringNodes 5 ≠ 0) ∧
    (s_7.gated = false ∧ (s_7.ring 5).job = some RingJob.enum0 ∧ lnIdle ≤ s_7.line 5 ∧ (s_7.ring 5).endOut = none) ∧
    (s_23.gated = false ∧ s_23.flag (B.ring 5) (lockFld true) = true ∧ lnIdle ≤ s_23.line 5 ∧ (List.filter (fun (y : W64) => decide (diff64 s_23.now y < 16000000)) (s_23.ring 5).bads).length < 16 ∧ uf.typ = 12 ∧ uf.dest = 0#7 ∧ uf.rsvd0 = false ∧ 1 ≤ uf.src.toNat ∧ uf.src.toNat ≤ 126 ∧ (s_23.node 5 uf.src.toNat).seq = none ∧ bf uf.rec0 0 8 = 3 ∧ recClean uf.rec0 = true ∧ uf.rec1 = 0#96 ∧ s_23.flag (B.ring 5) RING.CFG_LOG_STATUS = false) ∧
    (s_6.gated = false ∧ s_6.line 5 = lnLink) ∧
    ((s_21.ring 5).rxUntil = true) ∧
    (s_15.gated = false ∧ lnIdle ≤ s_15.line 5 ∧ (¬((s_15.ring 5).slot % 2 ^ (s_15.fld (B.ring 5) RING.CFG_UP_SHARE + 1) = 0 ∧ s_15.ringNodes 5 ≠ 0)) ∧ s_15.line 5 = lnRun ∧ (s_15.ring 5).ctl = [fr] ∧ fr.dir = none ∧ (s_15.ring 5).endOut = none) ∧
    (sf4.gated = false ∧ lnIdle ≤ sf4.line 5 ∧ (¬((sf4.ring 5).slot % 2 ^ (sf4.fld (B.ring 5) RING.CFG_UP_SHARE + 1) = 0 ∧ sf4.ringNodes 5 ≠ 0)) ∧ sf4.line 5 = lnSafe ∧ (sf4.ring 5).txq = [] ∧ (Option.map RingJob.isEnum (sf4.ring 5).job).getD false = false) ∧
    (s_16.gated = false ∧ lnIdle ≤ s_16.line 5 ∧ (¬((s_16.ring 5).slot % 2 ^ (s_16.fld (B.ring 5) RING.CFG_UP_SHARE + 1) = 0 ∧ s_16.ringNodes 5 ≠ 0)) ∧ s_16.line 5 = lnRun ∧ (s_16.ring 5).ctl = [] ∧ (s_16.ring 5).txq = [cm] ∧ s_16.deliverable 5 cm = true ∧ cm.rep = false ∧ (s_16.ring 5).endOut = none) ∧
    (s_12.gated = false ∧ (s_12.ring 5).job = none ∧ s_12.line 5 = lnRun ∧ (s_12.ring 5).todo = [(3, true), (1, false)]) ∧
    (s_23.gated = false ∧ s_23.flag (B.ring 5) (lockFld true) = true ∧ lnIdle ≤ s_23.line 5 ∧ (let __src := uf; { typ := __src.typ, dir := __src.dir, dest := __src.dest, src := __src.src, seq := __src.seq, epoch := __src.epoch, rsvd0 := true, rec0 := __src.rec0, rec1 := __src.rec1, aau := __src.aau : UpFrame }).rsvd0 = true) ∧
    (bads16.gated = false ∧ bads16.flag (B.ring 5) (lockFld true) = true ∧ lnIdle ≤ bads16.line 5 ∧ (List.filter (fun (y : W64) => decide (diff64 bads16.now y < 16000000)) (bads16.ring 5).bads).length = 16) ∧
    (s_18.gated = false ∧ s_18.flag (B.ring 5) (lockFld true) = true ∧ lnIdle ≤ s_18.line 5 ∧ uf.typ = 12 ∧ uf.dest = 0#7 ∧ uf.rsvd0 = false ∧ recClean uf.rec0 = true ∧ recClean uf.rec1 = true ∧ 1 ≤ uf.src.toNat ∧ uf.src.toNat ≤ 126 ∧ (s_18.node 5 uf.src.toNat).seq = some 100#16 ∧ uf.seq = 100#16 ∧ 100#16 ∈ (s_18.node 5 uf.src.toNat).seen) :=
  by and_intros <;> decide
end Ring

namespace Shaft
def w0 : Writer := ⟨0,false,T0⟩
def enP (p : Nat) (s : State) : State := (s.setFld (page p) PG.CTL_EN 1).setFld (page p) PG.STAT_ENABLED 1
def I0 : State := (on S2 [(routeKey 3, 1), (routeKey 300, 1), (routeKey 130, 1), (routeKey 5, 1 + 256*3)]).irq 3
def M0 : State := on (enP 0x332 (enP 0x128 S2)) [(B.xspi + XSPI.ADDR.off, 0x10100), (B.xspi + XSPI.LEN.off, 256), (B.xspi + 0x100, 0x04030201), (B.iot + 0x440, 0x5000)]
def M1 : State := on M0 [(B.xspi + XSPI.ADDR.off, 0x7FF0000), (B.xspi + XSPI.LEN.off, 1)]
def M2 : State := { M0 with fab := { M0.fab with ioInv := [(20, false, 0x5000), (3, true, 0)], io := [⟨20, 5, 12, 0x9000, true, true⟩, ⟨20, 6, 12, 0x9000, true, true⟩,⟨3, 5, 12, 0x9000, true, true⟩], flash0 := some ⟨0x100, some [0xF0, 0x0F], 2⟩, flash1 := some ⟨0x1000, none, 4096⟩ } }.poke 0x30000100 [0xFF, 0xFF, 0xFF]
def H0 : State := on (enP 0x202 (enP 0x203 (md 2 S2))) [(B.shaft 2 + SHAFT.CPR.off, 4096), (B.shaft 3 + SHAFT.CPR.off, 16), (B.shaft 2 + SHAFT.CMD_ARG.off, 4095), (B.shaft 2 + SHAFT.STAT.off, 0x203), (B.shaft 3 + SHAFT.STAT.off, 0x203), (B.shaft 2 + SHAFT.CT_IDX.off, 4095), (B.shaft 3 + SHAFT.CT_IDX.off, 17)]
def Hct : State := let s := H0; let x := s.shaft 2; let x := { x with ct := (x.ct.set (fun _ => 0) 5 77).set (fun _ => 0) 4095 99, theta := 0x123456789ABCDEF0123456, rev := 7, k := 15, line := 99 }; s.setShaft 2 x
def Hlearn : State := H0.setShaft 2 { H0.shaft 2 with learn := some {} }
def Hs : State := let s := on H0 [(B.shaft 2 + SHAFT.CFG.off, 1), (B.shaft 2 + SHAFT.SSI_CFG.off, 25 + 2*256 + 12*65536), (B.shaft 2 + SHAFT.SSI_LATCH.off, 50)]; s.setShaft 2 { s.shaft 2 with failing := true, trans := [(.a, true, 5), (.b, false, 9)] }
def Hx : State := Hct.setShaft 2 { Hct.shaft 2 with k := 4095, rev := 0xFFFFFFFF }
def MH : State := M2.setTrio 3 { M2.trio 3 with held := [.write none [(0x80040000, [1])]] }
def HB (a b : Bool) (last : Option W64) : State := H0.setShaft 2 { H0.shaft 2 with lvA := a, lvB := b, lastAB := last, lastFwd := last.map (fun _ => true), k := 5 }
def HR (v : Nat) : State := (HB true true none).setFld (B.shaft 2) SHAFT.STAT_REFERENCED v
def s_1 := nxt (exec (.ack w0 3) I0)
def s_4 : State := { Hct with now := 123456, tickFrac := 0xFFFFFFFF }
def s_9 := HB false false none
def s_11 := HB true true none
def s_12 := HB true true (some 361)

theorem wit_InterruptRows :
    (mayWrite w0 272 I0 ∧ mayWrite w0 275 I0 ∧ irqReserved 3 = false ∧ w0.ycp = false ∧ I0.routesTo (I0.route 3) w0.tid = true ∧ I0.irqPending 3 = true ∧ I0.irqActive 3 = false ∧ (↑w0.ring : Nat) ≤ routeRing (I0.route 3) ∧ irqIsLevel 3 = false) ∧
    (mayWrite w0 275 s_1 ∧ irqReserved 3 = false ∧ w0.ycp = false ∧ s_1.routesTo (s_1.route 3) w0.tid = true ∧ s_1.irqActive 3 = true ∧ (↑w0.ring : Nat) ≤ routeRing (s_1.route 3) ∧ s_1.irqPending 3 = false) :=
  by and_intros <;> decide
theorem wit_MemorySystemRows :
    (admits w0 (B.iot + 1092) 0 M1 ∧ M1.gated = false ∧ mayWrite w0 818 M1 ∧ 1 ≤ M1.fld B.xspi XSPI.LEN ∧ M1.fld B.xspi XSPI.LEN ≤ 256 ∧ M1.flashCmd (b2n true) = none ∧ M1.burning (b2n true) = false ∧ BitVec.toNat (M1.rd (B.xspi + XSPI.ADDR.off)) % 256 + M1.fld B.xspi XSPI.LEN ≤ 256 ∧ BitVec.toNat (M1.rd (B.xspi + XSPI.ADDR.off)) % 4096 = 0 ∧ BitVec.toNat (M1.rd (B.xspi + XSPI.ADDR.off)) % 65536 = 0) ∧
    (M2.gated = false ∧ (∀ (m : Nat), m < 13 → (M2.trio m).held.any HeldAcc.streams = false) ∧ M2.fab.ioInv = [(20, false, 20480), (3, true, 0)] ∧ mayWrite w0 818 M2 ∧ 1 ≤ M2.fld B.xspi XSPI.LEN ∧ M2.fld B.xspi XSPI.LEN ≤ 256 ∧ BitVec.toNat (M2.rd (B.xspi + XSPI.ADDR.off)) % 4096 ≠ 0 ∧ M2.flashCmd (b2n false) = some { addr := 256, data := some [240#8, 15#8], len := 2 : FlashCmd } ∧ { addr := 256, data := some [240#8, 15#8], len := 2 : FlashCmd }.addr + { addr := 256, data := some [240#8, 15#8], len := 2 : FlashCmd }.len ≤ min (M2.flashSize (b2n false)) 134217728 ∧ { addr := 256, data := some [240#8, 15#8], len := 2 : FlashCmd }.data = some [240#8, 15#8] ∧ [240#8, 15#8].length = { addr := 256, data := some [240#8, 15#8], len := 2 : FlashCmd }.len) ∧
    (M2.gated = false) ∧
    ((gt M2).gated = true) ∧
    (M2.gated = false ∧ M2.flashCmd (b2n true) = some { addr := 4096, data := none, len := 4096 : FlashCmd } ∧ { addr := 4096, data := none, len := 4096 : FlashCmd }.addr + { addr := 4096, data := none, len := 4096 : FlashCmd }.len ≤ min (M2.flashSize (b2n true)) 134217728 ∧ { addr := 4096, data := none, len := 4096 : FlashCmd }.data = none) ∧
    (MH.gated = false ∧ (∃ (m : Nat), m < 13 ∧ (MH.trio m).held.any HeldAcc.streams = true)) :=
  by and_intros <;> decide
theorem wit_ShaftCommandRows :
    (mayWrite w0 (512 + 2) Hct ∧ Hct.shut (512 + 2) = false ∧ Hct.fld (B.shaft 2) SHAFT.CMD_ARG % 2 ^ 24 < Hct.cpr 2 ∧ Hct.shaftSsi 2 = false ∧ Hct.masterBusy 2 = false ∧ Hct.fld (B.shaft 2) SHAFT.CT_CTL_MODE ≠ 1 ∧ (Hct.shaft 2).learn = none ∧ 16 ≠ Hct.fld (B.shaft 2) SHAFT.CT_IDX % 4096 ∧ mayWrite w0 520 Hct ∧ (∀ (m : Nat), m < 8 → (0#32).getLsbD m = true → Hct.pgEnabled (512 + m) = true) ∧ Hct.mode = mCalico ∧ Hct.flag (B.shaft 2) SHAFT.STAT_VALID = true ∧ Hct.flag (B.shaft 2) SHAFT.STAT_SETTLED = true ∧ Hct.flag (B.shaft 2) SHAFT.STAT_REFERENCED = true ∧ Hct.flag (B.shaft (2 + 1)) SHAFT.STAT_VALID = true ∧ Hct.flag (B.shaft (2 + 1)) SHAFT.STAT_SETTLED = true ∧ Hct.flag (B.shaft (2 + 1)) SHAFT.STAT_REFERENCED = true ∧ 4096 ≤ Hct.cpr 2 ∧ mayRead w0 (512 + 2) Hct) ∧
    (mayWrite w0 (512 + 2) Hlearn ∧ Hlearn.shut (512 + 2) = false ∧ (Hlearn.shaft 2).learn = some { : Learn }) ∧
    (mayWrite w0 (512 + 3) H0 ∧ H0.shut (512 + 3) = false) :=
  by and_intros <;> decide
theorem wit_ShaftEventRows :
    (Hs.gated = false ∧ (¬(Hs.pgEnabled (512 + 2) = true ∧ Hs.shaftSsi 2 = false)) ∧ Hs.pgEnabled (512 + 2) = true ∧ Hs.pgEn (512 + 2) = true ∧ Hs.shaftSsi 2 = true ∧ (Hs.shaft 2).ssi = none ∧ Hs.flag (B.shaft 2) SHAFT.SSI_CFG_GRAY = false ∧ Hs.flag (B.shaft 2) SHAFT.STAT_VALID = true ∧ Hs.flag (B.shaft 2) SHAFT.STAT_STILL = false ∧ (Hs.shaft 2).failing = true ∧ (Hs.shaft 2).raised = false ∧ 0 < Hs.cpr 2 ∧ Hs.flag (B.shaft 2) SHAFT.STAT_REFERENCED = true ∧ (Hs.shaft 2).k < Hs.cpr 2 ∧ Hs.fld (B.shaft 2) SHAFT.INDEX_CNT_VALUE < Hs.cpr 2 ∧ min (((Hs.shaft 2).k + Hs.cpr 2 - Hs.fld (B.shaft 2) SHAFT.INDEX_CNT_VALUE) % Hs.cpr 2) (Hs.cpr 2 - ((Hs.shaft 2).k + Hs.cpr 2 - Hs.fld (B.shaft 2) SHAFT.INDEX_CNT_VALUE) % Hs.cpr 2) ≤ 1) ∧
    ((gt Hx).gated = true) ∧
    (0 < s_12.cpr 2 ∧ (false ≠ if true = true then (s_12.shaft 2).lvA else (s_12.shaft 2).lvB) ∧ (s_12.shaft 2).lastAB = some 361#64 ∧ diff64 1000#64 361#64 < 640 ∧ (s_12.shaft 2).lastFwd = some true) ∧
    (s_4.gated = false ∧ s_4.pgEnabled (512 + 2) = true ∧ s_4.shaftSsi 2 = false ∧ s_4.glitch 2 EncBall.b 900#64 = false ∧ s_4.flag (B.shaft 2) SHAFT.STAT_REFERENCED = true ∧ (s_4.shaft 2).k < s_4.cpr 2 ∧ s_4.fld (B.shaft 2) SHAFT.INDEX_CNT_VALUE < s_4.cpr 2 ∧ 1 < min (((s_4.shaft 2).k + s_4.cpr 2 - s_4.fld (B.shaft 2) SHAFT.INDEX_CNT_VALUE) % s_4.cpr 2) (s_4.cpr 2 - ((s_4.shaft 2).k + s_4.cpr 2 - s_4.fld (B.shaft 2) SHAFT.INDEX_CNT_VALUE) % s_4.cpr 2)) ∧
    ((HR 0).flag (B.shaft 2) SHAFT.STAT_REFERENCED = false ∧ (HR 0).fld (B.shaft 2) SHAFT.INDEX_CNT_VALUE < (HR 0).cpr 2) ∧
    (0 < s_9.cpr 2 ∧ (true ≠ if true = true then (s_9.shaft 2).lvA else (s_9.shaft 2).lvB) ∧ (s_9.shaft 2).lastAB = none) ∧
    (0 < s_11.cpr 2 ∧ (true = if true = true then (s_11.shaft 2).lvA else (s_11.shaft 2).lvB)) :=
  by and_intros <;> decide
end Shaft

namespace Timer
def w0 : Writer := ⟨0,false,T0⟩
def enP (p : Nat) (s : State) : State := (s.setFld (page p) PG.CTL_EN 1).setFld (page p) PG.STAT_ENABLED 1
def Tm : State := enP 0x203 (enP 0x240 (enP 0x241 (md 2 S0)))
def f (n : Nat) (l : List (Fld × Nat)) (s : State) : State := l.foldl (fun s p => s.setFld (B.timer n) p.1 p.2) s
def st (n k : Nat) (s : State) : State := tmGo n k s
def K (k : Int) (s : State) : State := s.setShaft 3 { s.shaft 3 with step := k }
def X : List (Fld × Nat) := [(TIMER.COUNT,5),(TIMER.UCOUNT,0xFFFFFFFF),(TIMER.TOP_ACT,9),(TIMER.TOP,12),(TIMER.CMPA,6),(TIMER.CMPB,7),(TIMER.CMPA_ACT,6),(TIMER.CMPB_ACT,8),(TIMER.CTL_ACT_A,3),(TIMER.CFG_WIDTH,8),(TIMER.CFG_SHAFT,3)]
def AO : List (Fld × Nat) := [(TIMER.CFG_PIN_OUT,1),(TIMER.CFG_IDLE,1)]
def LK : List (Fld × Nat) := [(TIMER.CFG_LINK,1)]
def s_2 := f 2 (X ++ AO ++ LK) Tm
def s_4 := st 2 2 (f 2 (X ++ AO) Tm)
def s_6 : State := { (st 2 2 (f 2 (X ++ LK) Tm)) with timers := { Tm.timers with latch := Tm.timers.latch.ins 1 44 } }
def s_8 := st 2 1 (f 2 (X++LK) Tm)
def s_11 := st 2 2 (f 2 (X ++ [(TIMER.COUNT,8),(TIMER.CFG_LOAD_AT,1)]) Tm)
def s_12 := st 2 2 (f 2 (X ++ [(TIMER.COUNT,1),(TIMER.STAT_DIR,1)]) Tm)
def s_15 := K (-7) (st 2 2 (f 2 (X ++ [(TIMER.CFG_MODE,1)]) Tm))
def s_19 := st 2 2 (f 2 (X ++ [(TIMER.CAP_STAT_R_NEW,1)]) Tm)

theorem wit_TimerRows :
    (s_12.gated = false ∧ s_12.tmLinked 2 = false ∧ s_12.tmHigh 2 = false ∧ s_12.tmSt 2 ≠ tmOff ∧ s_12.flag (B.timer 2) TIMER.CFG_PIN_OUT = false ∧ s_12.flag (B.timer 2) (if true = true then TIMER.CAP_STAT_R_NEW else TIMER.CAP_STAT_F_NEW) = false ∧ mayRead w0 (tmPage 2) s_12 ∧ mayWrite w0 (tmPage 2) s_12 ∧ s_12.tmNoStop 2 = false ∧ s_12.tmNoStart 2 = true ∧ mayWrite w0 576 s_12 ∧ (∀ (i : Nat), i < 64 → (0#32 ++ 4#32).getLsbD i = true → s_12.tmNoStop i = false) ∧ (0#32 ++ 4#32).getLsbD 2 = true ∧ s_12.tmSt 2 = tmRunning ∧ s_12.tmAngle 2 = false ∧ s_12.flag (B.timer 2) TIMER.STAT_DIR = true ∧ 0 < s_12.fld (B.timer 2) TIMER.COUNT ∧ s_12.fld (B.timer 2) TIMER.COUNT = 1) ∧
    (admits w0 (B.timer 2 + TIMER.CTL.off) (bit0 (0#32) true) s_2 ∧ s_2.tmSt 2 = tmOff ∧ mayRead w0 (tmPage 2) s_2 ∧ s_2.tmLinked 2 = true ∧ admits w0 (B.timer 2 + timerRegOff TimerReg.top) 0 s_2) ∧
    (admits w0 (B.timer 2 + timerRegOff TimerReg.top) 3 s_4 ∧ s_4.tmLinked 2 = false ∧ s_4.tmHigh 2 = false ∧ admits w0 (B.timer 2 + TIMER.CTL.off) (bit0 (3#32) false) s_4 ∧ s_4.tmSt 2 ≠ tmOff ∧ s_4.flag (B.timer 2) TIMER.CFG_PIN_OUT = true ∧ s_4.gated = false ∧ s_4.tmSt 2 = tmRunning ∧ s_4.tmAngle 2 = false ∧ s_4.flag (B.timer 2) TIMER.STAT_DIR = false ∧ s_4.fld (B.timer 2) TIMER.COUNT < s_4.fld (B.timer 2) TIMER.TOP_ACT ∧ s_4.fld (B.timer 2) TIMER.CMPA_ACT = s_4.fld (B.timer 2) TIMER.COUNT + 1 ∧ s_4.fld (B.timer 2) TIMER.CTL_DIRQ_A = 0) ∧
    (mayWrite w0 (tmPage 2) s_8 ∧ s_8.tmNoStart 2 = false ∧ mayWrite w0 576 s_8 ∧ (∀ (i : Nat), i < 64 → (0#32 ++ 4#32).getLsbD i = true → s_8.tmNoStart i = false)) ∧
    (s_15.gated = false ∧ s_15.tmLinked 2 = false ∧ s_15.tmHigh 2 = false ∧ s_15.tmSt 2 = tmRunning ∧ s_15.tmAngle 2 = true ∧ s_15.pgEnabled (512 + s_15.fld (B.timer 2) TIMER.CFG_SHAFT) = true ∧ (s_15.shaft (s_15.fld (B.timer 2) TIMER.CFG_SHAFT)).step ≠ 0 ∧ s_15.fld (B.timer 2) TIMER.CFG_WIDTH ≤ 32 ∧ s_15.fld (B.timer 2) TIMER.COUNT < 2 ^ s_15.fld (B.timer 2) TIMER.CFG_WIDTH ∧ (↑(s_15.fld (B.timer 2) TIMER.COUNT) : Int) + (s_15.shaft (s_15.fld (B.timer 2) TIMER.CFG_SHAFT)).step < 0) ∧
    (mayRead w0 (tmPage 3) s_6 ∧ s_6.tmHigh 3 = true ∧ s_6.timers.latch.find (3 / 2) = some 44#32) ∧
    (s_19.gated = false ∧ s_19.tmLinked 2 = false ∧ s_19.tmHigh 2 = false ∧ s_19.tmSt 2 ≠ tmOff ∧ s_19.flag (B.timer 2) TIMER.CFG_PIN_OUT = false ∧ s_19.flag (B.timer 2) (if true = true then TIMER.CAP_STAT_R_NEW else TIMER.CAP_STAT_F_NEW) = true) ∧
    ((gt Tm).gated = true ∧ Instr.timerBusStep 2 ∈ [Instr.timerBusStep 2, Instr.timerAngleStep 2, Instr.timerCapture 2 true, Instr.timerCapture 2 false]) ∧
    (s_11.gated = false ∧ s_11.tmLinked 2 = false ∧ s_11.tmHigh 2 = false ∧ s_11.tmSt 2 = tmRunning ∧ s_11.tmAngle 2 = false ∧ s_11.flag (B.timer 2) TIMER.STAT_DIR = false ∧ s_11.fld (B.timer 2) TIMER.COUNT < s_11.fld (B.timer 2) TIMER.TOP_ACT ∧ s_11.fld (B.timer 2) TIMER.COUNT + 1 = s_11.fld (B.timer 2) TIMER.TOP_ACT) :=
  by and_intros <;> decide
end Timer

namespace Trio
def enP (p : Nat) (s : State) : State := (s.setFld (page p) PG.CTL_EN 1).setFld (page p) PG.STAT_ENABLED 1
def conf (c : Nat) (s : State) : State := s.setFld (B.trio 3) TRIO.STAT_CONF_NOW c
def P0 : State := (md 2 (enP 0x103 S2)).setThread (threadKey 3 0 1) { (S2.thread 0) with buf := [] }
def P1 : State := conf 1 P0
def P2 : State := conf 2 (P0.setThread (threadKey 3 2 1) { (S2.thread 0) with pl := 77 })
def tg (c : Nat) (s : State) : State := s.setTrio 3 { s.trio 3 with target := some c }
def oc : OutEnt := ⟨⟨3,0,1⟩, 0, 0, false, .store 0x10000020 [(0x10000020, [1,2,3,4])]⟩
def P1c : State := P1.setTrio 3 { P1.trio 3 with commit := [oc] }
def P0o : State := P0.setTrio 3 { P0.trio 3 with odd := [(1, 0), (1, 0), (2, 0), (1,0), (1,0), (1,0), (1,0), (1,0), (1,0)] }
def P1b : State := (P1.poke 0x80340000 [9,9]).setTrio 3 { P1.trio 3 with bank := [(97, { pl := 5 }), (98, {pl := 6})], undo := [(0x83040000, [1,2]), (0x83040001, [7])], commit := [oc] }
def P0s : State := ((P0.setFld (B.trio 12) TRIO.SPARE_STATE spareCopying).setFld (B.trio 12) TRIO.SPARE_SERVES 3)
def P0rr : State := let s := (P0.setFld (B.trio 3) TRIO.STAT_REPLAY 1); s.setTrio 3 { s.trio 3 with resync := some 0 }
def s_1 := P0.setFld (B.trio 3) TRIO.STAT_REPLAY 1

theorem wit_TrioRows :
    (P0rr.gated = false ∧ (P0rr.trio 3).resync = some 0 ∧ (P0rr.trio 3).lost = false ∧ quiet 3 P0rr ∧ (∀ (j : Fin 3), j ≠ 0 → P0rr.flag (B.trio 3) (inSvcFld (↑j : Nat)) = true) ∧ P0rr.flag (B.trio 3) TRIO.STAT_REPLAY = true ∧ (P0rr.trio 3).target = none ∧ P0rr.fld (B.trio 3) TRIO.ROLES_LEAD = 0) ∧
    (P1b.gated = false ∧ P1b.pgEnabled (256 + 3) = true ∧ P1b.conf 3 = 1 ∧ (P1b.trio 3).lost = false ∧ P1b.flag (B.trio 3) TRIO.STAT_DEGRADED = false ∧ P1b.copying 3 = false ∧ (List.map (fun (x : Nat × Thread) => x.fst) (P1b.trio 3).bank).Nodup ∧ (97, { pc := 0#64, p := 1#8, sr := 8#64, pl := 5#64, ph := 0#64, lc := 0#64, ls := 0#64, le := 0#64, krr := 18446744073709551615#64, cause := 0#64, faddr := 0#64, finfo := 0#64, esp := 0#64, aauFlags := 0#64 : Thread }) ∈ (P1b.trio 3).bank) ∧
    (P0s.gated = false ∧ P0s.spare = spareCopying ∧ P0s.fld (B.trio 12) TRIO.SPARE_SERVES = 3 ∧ quiet 3 P0s) ∧
    ((tg 2 P0).gated = false ∧ ((tg 2 P0).trio 3).target = some 2 ∧ (tg 2 P0).trioIn 3 = true ∧ quiet 3 (tg 2 P0) ∧ ((tg 2 P0).conf 3 = 2 → (tg 2 P0).atRest 3 (otherKeys 3) = true) ∧ (2 = 2 → (tg 2 P0).atRest 3 (lockedKeys 3) = true) ∧ (tg 2 P0).conf 3 ≠ 2) ∧
    (P0o.gated = false ∧ P0o.pgEnabled (256 + 3) = true ∧ P0o.conf 3 = 0 ∧ (P0o.trio 3).lost = false ∧ P0o.fld (B.trio 3) TRIO.STAT_IN_SVC = 7 ∧ P0o.flag (B.trio 3) TRIO.STAT_DEGRADED = false ∧ P0o.fld (B.trio 3) TRIO.PERM_CTL_LIMIT ≤ (P0o.setTrio 3 (have __src := P0o.trio 3; { commit := __src.commit, closed := __src.closed, undo := __src.undo, bank := __src.bank, bank2 := __src.bank2, target := __src.target, odd := (1, P0o.now) :: (P0o.trio 3).odd, failed := __src.failed, lost := __src.lost, resync := __src.resync, held := __src.held, lines := __src.lines, rot := __src.rot, ckptAt := __src.ckptAt : Trio })).oddCount 3 1) ∧
    (P1.gated = false ∧ P1.trioIn 3 = true ∧ P1.conf 3 = 1 ∧ quiet 3 P1) ∧
    (s_1.gated = false ∧ s_1.flag (B.trio 3) TRIO.STAT_REPLAY = true ∧ (s_1.trio 3).resync = none ∧ (s_1.trio 3).target = none ∧ (s_1.trio 3).lost = false ∧ quiet 3 s_1) ∧
    ((P0.setFld (B.trio 3) TRIO.CFG_AUTO_REMAP 0).gated = false ∧ (P0.setFld (B.trio 3) TRIO.CFG_AUTO_REMAP 0).pgEnabled (256 + 3) = true ∧ (P0.setFld (B.trio 3) TRIO.CFG_AUTO_REMAP 0).conf 3 ≠ 2 ∧ ((P0.setFld (B.trio 3) TRIO.CFG_AUTO_REMAP 0).trio 3).lost = false ∧ (P0.setFld (B.trio 3) TRIO.CFG_AUTO_REMAP 0).copying 3 = false ∧ (P0.setFld (B.trio 3) TRIO.CFG_AUTO_REMAP 0).flag (B.trio 3) TRIO.STAT_DEGRADED = false ∧ (P0.setFld (B.trio 3) TRIO.CFG_AUTO_REMAP 0).flag (B.trio 3) TRIO.CFG_AUTO_REMAP = false) ∧
    (P1c.gated = false ∧ P1c.trioIn 3 = true ∧ P1c.conf 3 = 1 ∧ (∀ (k : Nat), k ∈ trioKeys 3 → (P1c.thread k).buf = []) ∧ (P1c.trio 3).held = [] ∧ ycpCalm P1c = true ∧ (P1c.trio 3).commit = [oc] ∧ oc.held = false ∧ P1c.atQuota 3 9999 = false ∧ oc.what = OutWhat.store 268435488 [(268435488, [1#8, 2#8, 3#8, 4#8])] ∧ P1c.region 268435488 = Region.sram) ∧
    ((P0o.setFld (B.trio 3) (inSvcFld 2) 0).gated = false ∧ (P0o.setFld (B.trio 3) (inSvcFld 2) 0).pgEnabled (256 + 3) = true ∧ (P0o.setFld (B.trio 3) (inSvcFld 2) 0).conf 3 = 0 ∧ ((P0o.setFld (B.trio 3) (inSvcFld 2) 0).trio 3).lost = false ∧ (P0o.setFld (B.trio 3) (inSvcFld 2) 0).flag (B.trio 3) (inSvcFld 1) = true ∧ (P0o.setFld (B.trio 3) (inSvcFld 2) 0).fld (B.trio 3) TRIO.STAT_IN_SVC ≠ 7) ∧
    (P0.gated = false ∧ P0.pgEnabled (256 + 3) = true ∧ P0.conf 3 ≠ 2 ∧ (P0.trio 3).lost = false ∧ P0.copying 3 = false ∧ P0.flag (B.trio 3) TRIO.STAT_DEGRADED = false ∧ P0.flag (B.trio 3) TRIO.CFG_AUTO_REMAP = true ∧ P0.spareReady = true) ∧
    ((tg 0 P2).gated = false ∧ ((tg 0 P2).trio 3).target = some 0 ∧ (tg 0 P2).trioIn 3 = true ∧ quiet 3 (tg 0 P2) ∧ ((tg 0 P2).conf 3 = 2 → (tg 0 P2).atRest 3 (otherKeys 3) = true) ∧ (0 = 2 → (tg 0 P2).atRest 3 (lockedKeys 3) = true) ∧ (tg 0 P2).conf 3 = 2) ∧
    (P0.gated = false ∧ P0.pgEnabled (256 + 3) = true ∧ P0.conf 3 = 0 ∧ (P0.trio 3).lost = false ∧ P0.fld (B.trio 3) TRIO.STAT_IN_SVC = 7 ∧ P0.flag (B.trio 3) TRIO.STAT_DEGRADED = false ∧ (P0.setTrio 3 (have __src := P0.trio 3; { commit := __src.commit, closed := __src.closed, undo := __src.undo, bank := __src.bank, bank2 := __src.bank2, target := __src.target, odd := (1, P0.now) :: (P0.trio 3).odd, failed := __src.failed, lost := __src.lost, resync := __src.resync, held := __src.held, lines := __src.lines, rot := __src.rot, ckptAt := __src.ckptAt : Trio })).oddCount 3 1 < P0.fld (B.trio 3) TRIO.PERM_CTL_LIMIT) :=
  by and_intros <;> decide
end Trio

namespace Trio2
def w0 : Writer := ⟨0,false,T0⟩
def enP (p : Nat) (s : State) : State := (s.setFld (page p) PG.CTL_EN 1).setFld (page p) PG.STAT_ENABLED 1
def P0 : State := (md 2 (enP 0x103 S2)).setThread (threadKey 3 0 1) { (S2.thread 0) with buf := [] }
def cv (c : Nat) : W32 := BitVec.ofNat 32 (setBits (P0.rd (B.trio 3 + TRIO.CFG.off)).toNat 0 2 c)

theorem wit_TrioRows_2 :
    (admits w0 (B.trio 3 + TRIO.CFG.off) (BitVec.toNat (cv 1)) P0 ∧ P0.trioIn 3 = true ∧ P0.mode ≠ mTwill ∧ P0.mode ≠ mDamask ∧ P0.confEff 3 ≠ nbits (BitVec.toNat (cv 1)) 0 2) ∧
    (admits w0 (B.trio 3 + TRIO.CFG.off) (BitVec.toNat (cv 0)) P0 ∧ P0.confEff 3 = nbits (BitVec.toNat (cv 0)) 0 2) :=
  by and_intros <;> decide
end Trio2

namespace Wcoll
def w0 : Writer := ⟨0,false,T0⟩
def cc (s : State) (l : List Nat) : State := { s with dev := { s.dev with conds := l } }
def K2 : State := md 2 S0
def KV : State := K2.setFld B.recd REC.REC_INFO_VALID 1
def a1 (n : Nat) : Assertion := ⟨BitVec.ofNat 9 n, some 0xFFFFFFFFFF, 5, 3, 77, false⟩
def sv (n v : Nat) (s : State) : State := s.setFld B.sev ⟨0x040 + 4 * (n / 16), 2 * (n % 16), 2⟩ v
def KS : State := (sv 0 3 K2).setFld B.coll COLL.STAT_STO_RUN 255 |>.setFld B.coll (COLL.STO_CFG_MODE.nth 4 7) 1
def stp (p : Phase) (s : State) : State := { s with coll := { s.coll with stop := true }, coll2 := { s.coll2 with stop := true }, dev := { s.dev with trans := some ⟨4, none⟩, phase := p } }
def rcv : State := let s := { md 7 S0 with coll := { S0.coll with recover := true }, coll2 := { S0.coll2 with recover := true } }; setT s T0 (fun th => { th with st := .stopped })
def cf (l : List (Fld × Nat)) (s : State) : State := l.foldl (fun s p => s.setFld B.coll p.1 p.2) s
def si (i : Nat) (x : SafeIn) (s : State) : State := s.setSafeIn i x
def G : State := cf [((COLL.SI_CFG_FUNC.nth 4 15), 1), ((COLL.SI_CFG_TP_EN.nth 4 15), 1), ((COLL.SI_CFG_PAIRS.nth 4 15), 0x80), (COLL.STAT_STO_RUN, 0x80), (COLL.SI_TP_EN, 8), ((COLL.SI_CFG_TPO_A.nth 4 15), 3), (COLL.STO_TP_EN, 1)] (md 4 S0)
def Gd : State := cf [(COLL.SI_STAT_DEMAND, 0x8000)] G
def s_2 := sv 471 0 K2
def s_3 := sv 471 2 KV
def s_4 := cc K2 [0]
def s_6 := sv 3 2 (sv 4 3 K2)
def s_8 := stp .running K2
def s_9 := stp .boot S0
def s_10 := si 15 { lvA := true, waitA := true } G
def s_12 := si 15 { clear := true, waitA := true, waitB := true } (cf [(COLL.SI_STAT_FAULT, 0x8000)] G)
def s_13 := cf [(COLL.STAT_SS1_RUN, 0x80), ((COLL.STO_CFG_MODE.nth 4 7), 2)] G
def s_14 := cf [((COLL.STO_CFG_RUN_EN.nth 4 7), 1)] G
def s_15 := si 15 { lvB := true } (Gd.setFld B.fsw (liveFld 431) 1)
def s_16 : State := { S0 with coll2 := { S0.coll2 with missed := 1 } }

theorem wit_CollectorRows :
    (collCalm KS ∧ sevOf (a1 0).src.toNat = some ((sevOf 0).getD (0, 0)) ∧ (¬(a1 0).src.toNat ∈ KS.dev.conds) ∧ srcIsCond (a1 0).src.toNat = true ∧ 1 ≤ KS.sev (a1 0).src.toNat ∧ KS.fld B.recd REC.REC_INFO_VALID = 0 ∧ KS.dev.rootLost = false ∧ 2 ≤ KS.sev (a1 0).src.toNat ∧ KS.sev (a1 0).src.toNat = 3 ∧ KS.stoCfg 0 COLL.STO_CFG_MODE = 0 ∧ KS.stoCfg 7 COLL.STO_CFG_MODE ≠ 0 ∧ KS.stoRun 7 = true) ∧
    (s_8.stopDue = true ∧ s_8.mode ≠ mVelvet ∧ s_8.mode ≠ mFelt ∧ s_8.ycp.sess = { : Tab Session } ∧ s_8.dev.trans = some { target := 4, ycp := none : Transition } ∧ s_8.dev.phase = Phase.running) ∧
    (mayWrite w0 17 K2) ∧
    (collCalm s_3 ∧ sevOf (a1 471).src.toNat = some ((sevOf 471).getD (0, 0)) ∧ srcIsCond (a1 471).src.toNat = false ∧ s_3.fld B.recd REC.REC_INFO_VALID = 1 ∧ s_3.sev (a1 471).src.toNat = 2) ∧
    (mayWrite w0 18 KV ∧ KV.fld B.recd REC.REC_INFO_VALID = 1) ∧
    (collCalm s_6 ∧ s_6.fld B.recd REC.REC_INFO_VALID = 0 ∧ srcIsCond (a1 4).src.toNat = false ∧ srcIsCond (a1 3).src.toNat = false ∧ (sevOf (a1 4).src.toNat).isSome = true ∧ (sevOf (a1 3).src.toNat).isSome = true ∧ 1 ≤ s_6.sev (a1 4).src.toNat ∧ s_6.sev (a1 3).src.toNat < s_6.sev (a1 4).src.toNat) ∧
    (s_16.coll ≠ s_16.coll2) ∧
    (collCalm K2 ∧ (¬11 ∈ K2.dev.conds)) ∧
    (mayWrite w0 16 K2 ∧ collCalm K2) ∧
    (collCalm s_4 ∧ sevOf (a1 511).src.toNat = none) ∧
    (collCalm s_2 ∧ sevOf (a1 471).src.toNat = some ((sevOf 471).getD (0, 0)) ∧ srcIsCond (a1 471).src.toNat = false ∧ s_2.sev (a1 471).src.toNat = 0 ∧ s_2.fld B.recd REC.REC_INFO_VALID = 0) ∧
    (collCalm K2) ∧
    (mayWrite w0 18 K2 ∧ K2.fld B.recd REC.REC_INFO_VALID = 0) ∧
    ((rcv.bothColl fun (x : Coll) => x.recover) = true ∧ rcv.mode = mFelt ∧ rcv.flag (B.trio 0) TRIO.STAT_CHANGING = false ∧ (rcv.thread (rcv.tkey { trio := 0, core := 0, thr := 0 : ThreadId })).st = TState.stopped) ∧
    (s_9.stopDue = true ∧ s_9.mode ≠ mVelvet ∧ s_9.mode ≠ mFelt ∧ s_9.ycp.sess = { : Tab Session } ∧ s_9.dev.phase ≠ Phase.running) :=
  by and_intros <;> decide
theorem wit_SafetyFunctionRows :
    (s_10.siCfg 15 COLL.SI_CFG_FUNC ≠ 0 ∧ s_10.siDemand 15 = false ∧ (¬416 + 15 ∈ s_10.dev.conds) ∧ s_10.siCfg 15 COLL.SI_CFG_FUNC = 1 ∧ nbit (s_10.siCfg 15 COLL.SI_CFG_PAIRS) 7 = true ∧ s_10.stoCfg 7 COLL.STO_CFG_MODE = 0 ∧ s_10.ss1Run 7 = false ∧ mayWrite w0 16 s_10 ∧ ((128#32).getLsbD 7 = true ∧ (s_10.stoCfg 7 COLL.STO_CFG_RUN_EN = 0 ∨ s_10.ss1Run 7 = true ∨ nbit s_10.siStops 7 = true)) ∧ (s_10.siShow 15).fst ≠ (s_10.siShow 15).snd ∧ s_10.siFault 15 = false ∧ (¬432 + 15 ∈ s_10.dev.conds) ∧ nbit (s_10.fld B.coll COLL.SI_TP_EN) 3 = true ∧ s_10.siCfg 15 COLL.SI_CFG_TP_EN = 1 ∧ s_10.siCfg 15 COLL.SI_CFG_TPO_A = 3 ∧ (s_10.safeIn 15).waitA = true ∧ s_10.flag B.coll COLL.STO_TP_EN = true ∧ s_10.stoNextPair = some 7 ∧ (¬448 + 7 ∈ s_10.dev.conds) ∧ (¬(false = s_10.stoRun 7 ∧ false = !s_10.stoRun 7))) ∧
    (s_13.ss1Run 7 = true ∧ s_13.stoRun 7 = true ∧ s_13.stoCfg 7 COLL.STO_CFG_MODE = 2 ∧ s_13.ss1Slow 7 = false) ∧
    (s_15.siDemand 15 = true ∧ (s_15.safeIn 15).lvB = decide (s_15.siCfg 15 COLL.SI_CFG_ANTIVALENT ≠ 1) ∧ s_15.live (416 + 15) = true) ∧
    (admits w0 (B.coll + 72) 128 s_14) ∧
    (s_12.siDemand 15 = false ∧ s_12.siFault 15 = true ∧ (s_12.safeIn 15).clear = true ∧ (s_12.safeIn 15).waitA = true ∧ (s_12.safeIn 15).waitB = true) :=
  by and_intros <;> decide
end Wcoll

namespace Wpage
def w0 : Writer := ⟨0,false,T0⟩
def w1 : Writer := ⟨1,false,T0⟩
def pgs (p : Nat) (en stat q qd : Nat) : State := (((((md 2 S0).setFld (page p) PG.CTL_EN en).setFld (page p) PG.STAT_ENABLED stat).setFld (page p) PG.CTL_QUIESCE q).setFld (page p) PG.STAT_QUIESCED qd).setFld (page p) ⟨0x018,0,32⟩ 0x303
def bsb : State := (pgs 0x340 0 1 0 0).setFld B.bist BIST.PER_STAT_ACTIVE 1
def s_2 := pgs 0x240 1 1 0 0
def s_5 := pgs 0x200 0 0 0 0
def s_9 := pgs 0x110 1 1 0 0
def s_10 := pgs 0x102 0 1 0 0
def s_12 := pgs 0x220 1 1 1 1
def s_13 := pgs 0x220 0 1 0 0

theorem wit_PageAndScanRows :
    (pageKind 544 = some (Kind.seq, 544, 1) ∧ mayWrite w0 544 s_12 ∧ Kind.seq.enFixed = false ∧ s_12.pgEn 544 = true ∧ leaveCodes 544 s_12 = [] ∧ s_12.flag (page 544) PG.CTL_QUIESCE = true ∧ s_12.flag (page 544) PG.STAT_QUIESCED = true ∧ Kind.seq.qcommon = true ∧ (544 = 268 → s_12.spare ≠ spareInUse) ∧ (↑w0.ring : Nat) = 0 ∧ nbits 771 8 2 ≤ nbits 771 0 2 ∧ 0 ≠ page 544 + 24 ∧ isTrioPage 544 = false ∧ isRingPage 544 = false ∧ isEthPage 544 = false ∧ (544 = 544 → s_12.inSlice = false ∧ s_12.seq.loading = none) ∧ (544 = 832 → s_12.flag B.bist BIST.PER_STAT_ACTIVE = false) ∧ s_12.pgEnabled 544 = true ∧ (TapInstr.extest = TapInstr.extest ∧ s_12.dev.porLow = true)) ∧
    (pageKind 258 = some (Kind.trio, 256, 13) ∧ mayWrite w1 258 s_10 ∧ Kind.trio.enFixed = false ∧ s_10.pgEn 258 = false ∧ s_10.pgEnabled 258 = true ∧ s_10.pgFaulted 258 = false ∧ (258 = 268 → s_10.spare ≠ spareInUse) ∧ nbits 770 0 2 < nbits 770 8 2 ∧ isTrioPage 258 = true ∧ (s_10.trio (258 - 256)).commit = [] ∧ (s_10.trio (258 - 256)).held = [] ∧ (∀ (j : Nat), j ∈ trioKeys (258 - 256) → (s_10.thread j).stopReq = false ∧ (s_10.thread j).buf = []) ∧ 64 ∈ trioKeys (258 - 256)) ∧
    (pageKind 512 = some (Kind.shaft, 512, 8) ∧ mayWrite w1 512 s_5 ∧ Kind.shaft.enFixed = false ∧ s_5.pgEn 512 = false ∧ s_5.pgEnabled 512 = false ∧ s_5.pgFaulted 512 = false ∧ (true = true → Kind.shaft.qcommon = true) ∧ (512 = 268 → s_5.spare ≠ spareInUse) ∧ (↑w1.ring : Nat) ≠ 0 ∧ nbits 771 8 2 ≤ nbits 771 0 2) ∧
    (isTrioPage 544 = false ∧ isRingPage 544 = false ∧ isEthPage 544 = false ∧ (544 = 544 → s_13.inSlice = false ∧ s_13.seq.loading = none) ∧ (544 = 832 → s_13.flag B.bist BIST.PER_STAT_ACTIVE = false) ∧ s_13.pgEnabled 544 = true ∧ s_13.pgEn 544 = false) ∧
    (pageKind 576 = some (Kind.timer, 576, 8) ∧ mayWrite w1 576 s_2 ∧ Kind.timer.enFixed = false ∧ s_2.pgEn 576 = true ∧ leaveCodes 576 s_2 = [] ∧ s_2.flag (page 576) PG.CTL_QUIESCE = false ∧ Kind.timer.qcommon = false) ∧
    ((832 = 832 ∧ bsb.flag B.bist BIST.PER_STAT_ACTIVE = true)) ∧
    (pageKind 272 = some (Kind.intd, 272, 1) ∧ mayWrite w1 272 s_9 ∧ Kind.intd.enFixed = true) :=
  by and_intros <;> decide
end Wpage

namespace Wreg
def w0 : Writer := ⟨0,false,T0⟩
def w3 : Writer := ⟨3,false,T0⟩
def sn (s : State) : State := { s with snaps := s.snaps.ins (page 0x011 + 0x7C) 9 }
def rr (p o : Nat) : Row := (regRow p o).getD ⟨0,0,0,.ro,0,0⟩
def E8 : State := S0
def v8 : W64 := 0x0000000200001000
def s_1 := S0.wr (page 0x011 + 0x018) 0
def s1_3 : State := { E8 with heldLo := E8.heldLo.ins (page 0x322 + 160) 0x1000 }
def r_4 := rr 0x121 0x40
def r_5 := rr 0x240 312
def q_7 := rr 0x121 0x44

theorem wit_RegisterWriteRow :
    (pageKind ((1074929660 - 1073741824) / 4096) = some (Kind.part, 289, 1) ∧ Code.lowest (regCodes w3 ((1074929660 - 1073741824) / 4096) (1074929660 % 4096) (BitVec.setWidth 32 3#64) (wakeWaiting S0)) ≠ Code.ok ∧ Kind.part ≠ Kind.shaft ∧ 0 ≠ page (headPage ((1074929660 - 1073741824) / 4096)) + PG.WSTAT.off ∧ S0.loOf Kind.part ((1074929660 - 1073741824) / 4096) (1074929660 % 4096) = none) ∧
    (pageKind ((1077026976 - 1073741824) / 4096) = some (Kind.net, 802, 1) ∧ ((∃ (r : Row), regRow ((1077026976 - 1073741824) / 4096) (1077026976 % 4096) = some r ∧ E8.isHeld Kind.net ((1077026976 - 1073741824) / 4096) (1077026976 % 4096) r = true) → s1_3 = { pending := (wakeWaiting E8).pending, freeCtr := (wakeWaiting E8).freeCtr, sent := (wakeWaiting E8).sent, now := (wakeWaiting E8).now, tickFrac := (wakeWaiting E8).tickFrac, regs := (wakeWaiting E8).regs, heldLo := (wakeWaiting E8).heldLo.ins (page ((1077026976 - 1073741824) / 4096) + 1077026976 % 4096) (BitVec.setWidth 32 v8), snaps := (wakeWaiting E8).snaps, mem := (wakeWaiting E8).mem, bad := (wakeWaiting E8).bad, raised := (wakeWaiting E8).raised, dev := (wakeWaiting E8).dev, threads := (wakeWaiting E8).threads, trios := (wakeWaiting E8).trios, fab := (wakeWaiting E8).fab, coll := (wakeWaiting E8).coll, coll2 := (wakeWaiting E8).coll2, shafts := (wakeWaiting E8).shafts, snapAll := (wakeWaiting E8).snapAll, eng := (wakeWaiting E8).eng, seq := (wakeWaiting E8).seq, rings := (wakeWaiting E8).rings, timers := (wakeWaiting E8).timers, net := (wakeWaiting E8).net, ycp := (wakeWaiting E8).ycp, tap := (wakeWaiting E8).tap : State }) ∧ ((¬∃ (r : Row), regRow ((1077026976 - 1073741824) / 4096) (1077026976 % 4096) = some r ∧ E8.isHeld Kind.net ((1077026976 - 1073741824) / 4096) (1077026976 % 4096) r = true) → s1_3 = wakeWaiting E8) ∧ Kind.net ≠ Kind.shaft ∧ Code.lowest (regCodes w3 ((1077026976 - 1073741824) / 4096) (1077026976 % 4096) (BitVec.setWidth 32 v8) (wakeWaiting E8)) ≠ Code.ok ∧ 0 ≠ page (headPage ((1077026976 - 1073741824) / 4096)) + PG.WSTAT.off ∧ (∃ (r : Row), regRow ((1077026976 - 1073741824) / 4096) (1077026976 % 4096) = some r ∧ E8.isHeld Kind.net ((1077026976 - 1073741824) / 4096) (1077026976 % 4096) r = true)) ∧
    (pageKind ((1074925636 - 1073741824) / 4096) = some (Kind.part, 289, 1) ∧ Code.lowest (regCodes w0 ((1074925636 - 1073741824) / 4096) (1074925636 % 4096) (BitVec.setWidth 32 3#64) (wakeWaiting S0)) = Code.ok ∧ (∃ (r : Row), regRow ((1074925636 - 1073741824) / 4096) (1074925636 % 4096) = some r ∧ S0.isHeld Kind.part ((1074925636 - 1073741824) / 4096) (1074925636 % 4096) r = true)) ∧
    (pageKind ((1074925632 - 1073741824) / 4096) = some (Kind.part, 289, 1) ∧ Kind.part ∈ [Kind.walk, Kind.part, Kind.thrp, Kind.xlate, Kind.lane, Kind.dram] ∧ regRow ((1074925632 - 1073741824) / 4096) (1074925632 % 4096) = some ((regRow 289 64).getD { off := 0, stride := 0, count := 0, acc := Acc.ro, reset := 0, mask := 0 : Row }) ∧ ((regRow 289 64).getD { off := 0, stride := 0, count := 0, acc := Acc.ro, reset := 0, mask := 0 : Row }).acc = Acc.rw ∧ S0.loOf Kind.part ((1074925632 - 1073741824) / 4096) (1074925632 % 4096) = none ∧ S0.isHeld Kind.part ((1074925632 - 1073741824) / 4096) (1074925632 % 4096) ((regRow 289 64).getD { off := 0, stride := 0, count := 0, acc := Acc.ro, reset := 0, mask := 0 : Row }) = false ∧ Code.lowest (regCodes w0 ((1074925632 - 1073741824) / 4096) (1074925632 % 4096) (BitVec.setWidth 32 3#64) (wakeWaiting S0)) = Code.ok ∧ 0 ≠ page ((1074925632 - 1073741824) / 4096) + 1074925632 % 4096) ∧
    (pageKind ((1077026976 - 1073741824) / 4096) = some (Kind.net, 802, 1) ∧ ((∃ (r : Row), regRow ((1077026976 - 1073741824) / 4096) (1077026976 % 4096) = some r ∧ E8.isHeld Kind.net ((1077026976 - 1073741824) / 4096) (1077026976 % 4096) r = true) → s1_3 = { pending := (wakeWaiting E8).pending, freeCtr := (wakeWaiting E8).freeCtr, sent := (wakeWaiting E8).sent, now := (wakeWaiting E8).now, tickFrac := (wakeWaiting E8).tickFrac, regs := (wakeWaiting E8).regs, heldLo := (wakeWaiting E8).heldLo.ins (page ((1077026976 - 1073741824) / 4096) + 1077026976 % 4096) (BitVec.setWidth 32 v8), snaps := (wakeWaiting E8).snaps, mem := (wakeWaiting E8).mem, bad := (wakeWaiting E8).bad, raised := (wakeWaiting E8).raised, dev := (wakeWaiting E8).dev, threads := (wakeWaiting E8).threads, trios := (wakeWaiting E8).trios, fab := (wakeWaiting E8).fab, coll := (wakeWaiting E8).coll, coll2 := (wakeWaiting E8).coll2, shafts := (wakeWaiting E8).shafts, snapAll := (wakeWaiting E8).snapAll, eng := (wakeWaiting E8).eng, seq := (wakeWaiting E8).seq, rings := (wakeWaiting E8).rings, timers := (wakeWaiting E8).timers, net := (wakeWaiting E8).net, ycp := (wakeWaiting E8).ycp, tap := (wakeWaiting E8).tap : State }) ∧ ((¬∃ (r : Row), regRow ((1077026976 - 1073741824) / 4096) (1077026976 % 4096) = some r ∧ E8.isHeld Kind.net ((1077026976 - 1073741824) / 4096) (1077026976 % 4096) r = true) → s1_3 = wakeWaiting E8) ∧ Code.lowest (regCodes w0 ((1077026976 - 1073741824) / 4096) (1077026976 % 4096) (BitVec.setWidth 32 v8) (wakeWaiting E8)) = Code.ok ∧ Code.lowest (regCodes w0 ((1077026976 - 1073741824) / 4096) (1077026976 % 4096 + 4) (BitVec.extractLsb' 32 32 v8) s1_3) = Code.ok) :=
  by and_intros <;> decide
theorem wit_RegisterReadRows :
    (pageKind ((1073815548 - 1073741824) / 4096) = some (Kind.fsw, 17, 1) ∧ (¬mayRead w3 ((1073815548 - 1073741824) / 4096) s_1) ∧ 0 ≠ page (headPage ((1073815548 - 1073741824) / 4096)) + PG.ERR.off) ∧
    (pageKind ((1076101432 - 1073741824) / 4096) = some (Kind.timer, 576, 8) ∧ mayRead w0 ((1076101432 - 1073741824) / 4096) S0 ∧ regRow ((1076101432 - 1073741824) / 4096) (1076101432 % 4096) = some r_5 ∧ r_5.acc = Acc.rs ∧ S0.snaps.find (page ((1076101432 - 1073741824) / 4096) + 1076101432 % 4096) = none ∧ 1076101432 % 4096 ∈ rsGroup Kind.timer ((1076101432 - 1073741824) / 4096) (1076101432 % 4096) (wakeWaiting S0) ∧ (rsGroup Kind.timer ((1076101432 - 1073741824) / 4096) (1076101432 % 4096) (wakeWaiting S0)).Nodup ∧ 0 ≠ B.timer (tmNum ((1076101432 - 1073741824) / 4096) ((rsGroup Kind.timer ((1076101432 - 1073741824) / 4096) (1076101432 % 4096) (wakeWaiting S0)).getLastD (1076101432 % 4096))) + TIMER.CAP_STAT.off) ∧
    (pageKind ((1073741908 - 1073741824) / 4096) = some (Kind.sys, 0, 1) ∧ mayRead w0 ((1073741908 - 1073741824) / 4096) S0 ∧ regRow ((1073741908 - 1073741824) / 4096) (1073741908 % 4096) = some ((regRow 0 84).getD { off := 0, stride := 0, count := 0, acc := Acc.ro, reset := 0, mask := 0 : Row }) ∧ ((regRow 0 84).getD { off := 0, stride := 0, count := 0, acc := Acc.ro, reset := 0, mask := 0 : Row }).acc = Acc.rc ∧ 0 ≠ page ((1073741908 - 1073741824) / 4096) + 1073741908 % 4096) ∧
    (pageKind ((1074925632 - 1073741824) / 4096) = some (Kind.part, 289, 1) ∧ mayRead w0 ((1074925632 - 1073741824) / 4096) S0 ∧ regRow ((1074925632 - 1073741824) / 4096) (1074925632 % 4096) = some r_4 ∧ regRow ((1074925632 - 1073741824) / 4096) (1074925632 % 4096 + 4) = some q_7 ∧ r_4.acc ∈ [Acc.ro, Acc.rw, Acc.rwh, Acc.w1c] ∧ q_7.acc ∈ [Acc.ro, Acc.rw, Acc.rwh, Acc.w1c] ∧ (¬Kind.part ∈ [Kind.shaft, Kind.timer])) ∧
    (pageKind ((1073811580 - 1073741824) / 4096) = some (Kind.fsw, 17, 1) ∧ mayRead w0 ((1073811580 - 1073741824) / 4096) (sn S0) ∧ regRow ((1073811580 - 1073741824) / 4096) (1073811580 % 4096) = some ((regRow 17 64).getD { off := 0, stride := 0, count := 0, acc := Acc.ro, reset := 0, mask := 0 : Row }) ∧ ((regRow 17 64).getD { off := 0, stride := 0, count := 0, acc := Acc.ro, reset := 0, mask := 0 : Row }).acc = Acc.rs ∧ (sn S0).snaps.find (page ((1073811580 - 1073741824) / 4096) + 1073811580 % 4096) = some 9#32) ∧
    (pageKind ((1073811520 - 1073741824) / 4096) = some (Kind.fsw, 17, 1) ∧ mayRead w0 ((1073811520 - 1073741824) / 4096) S0 ∧ regRow ((1073811520 - 1073741824) / 4096) (1073811520 % 4096) = some ((regRow 17 64).getD { off := 0, stride := 0, count := 0, acc := Acc.ro, reset := 0, mask := 0 : Row }) ∧ ((regRow 17 64).getD { off := 0, stride := 0, count := 0, acc := Acc.ro, reset := 0, mask := 0 : Row }).acc = Acc.rs ∧ S0.snaps.find (page ((1073811520 - 1073741824) / 4096) + 1073811520 % 4096) = none ∧ 1073811520 % 4096 ∈ rsGroup Kind.fsw ((1073811520 - 1073741824) / 4096) (1073811520 % 4096) (wakeWaiting S0) ∧ (rsGroup Kind.fsw ((1073811520 - 1073741824) / 4096) (1073811520 % 4096) (wakeWaiting S0)).Nodup ∧ (rsGroup Kind.fsw ((1073811520 - 1073741824) / 4096) (1073811520 % 4096) (wakeWaiting S0)).getLast? ≠ some (1073811520 % 4096) ∧ 64 ∈ rsGroup Kind.fsw ((1073811520 - 1073741824) / 4096) (1073811520 % 4096) (wakeWaiting S0) ∧ Kind.fsw ≠ Kind.timer) ∧
    (pageKind ((1073811580 - 1073741824) / 4096) = some (Kind.fsw, 17, 1) ∧ mayRead w0 ((1073811580 - 1073741824) / 4096) S0 ∧ regRow ((1073811580 - 1073741824) / 4096) (1073811580 % 4096) = some ((regRow 17 64).getD { off := 0, stride := 0, count := 0, acc := Acc.ro, reset := 0, mask := 0 : Row }) ∧ ((regRow 17 64).getD { off := 0, stride := 0, count := 0, acc := Acc.ro, reset := 0, mask := 0 : Row }).acc = Acc.rs ∧ S0.snaps.find (page ((1073811580 - 1073741824) / 4096) + 1073811580 % 4096) = none ∧ 1073811580 % 4096 ∈ rsGroup Kind.fsw ((1073811580 - 1073741824) / 4096) (1073811580 % 4096) (wakeWaiting S0) ∧ (rsGroup Kind.fsw ((1073811580 - 1073741824) / 4096) (1073811580 % 4096) (wakeWaiting S0)).Nodup ∧ (rsGroup Kind.fsw ((1073811580 - 1073741824) / 4096) (1073811580 % 4096) (wakeWaiting S0)).getLast? = some (1073811580 % 4096) ∧ 64 ∈ rsGroup Kind.fsw ((1073811580 - 1073741824) / 4096) (1073811580 % 4096) (wakeWaiting S0)) :=
  by and_intros <;> decide
end Wreg

namespace Wself
def w0 : Writer := ⟨0,false,T0⟩
def enP (p : Nat) (s : State) : State := (s.setFld (page p) PG.CTL_EN 1).setFld (page p) PG.STAT_ENABLED 1
def fl (l : List (Nat × Fld × Nat)) (s : State) : State := l.foldl (fun s p => s.setFld p.1 p.2.1 p.2.2) s
def dv (f : Dev → Dev) (s : State) : State := { s with dev := f s.dev }
def C2 : State := enP 0x340 (md 2 S0)
def SL : State := fl [(B.bist, BIST.PER_CTL, 0xE)] C2 |> fl ((List.range 4).map (fun k => (B.lane k, LANE.LSTAT_IN_SVC, 1)))
def IT (n nx : Nat) : State := fl [(B.bist, unitFld n BIST.UNIT_IN_TEST, 1), (B.bist, unitFld n BIST.UNIT_NEXT, nx), (B.bist, unitFld n BIST.UNIT_PASSES, 65535)] C2
def ML (v d slack : Nat) (q : Nat) : State := dv (fun x => { x with quiet := q }) (fl [(B.clk, CLK.CLK_STAT_DIV_NOW, d), (B.margin, MARGIN.CTL, 7),(B.margin, MARGIN.VSET, v),(B.margin,MARGIN.VLIM,700+65536*850),(B.margin,MARGIN.THRESH,20+256*100),(B.margin,MARGIN.SLACK,slack),(B.margin,MARGIN.YEARS,1),(B.margin,MARGIN.YEARS_LIM,1)] C2)
def z15 : List W32 := List.replicate 15 0
def okl : List W32 := z15 ++ [BitVec.ofNat 32 (crc32c (z15.flatMap (fun x => leBytes 4 x.toNat)))]
def ld (l : List W32) : State := dv (fun d => { d with ageLoad := l }) (C2.setFld B.margin MARGIN.STAT_LOADED 0)
def sv (s : State) : State := dv (fun d => { d with image := some ⟨List.replicate 256 7, []⟩ }) (s.wr (B.sys + SYS.SEC_VER_SET.off) 0x07070707)
def s_2 := IT 38 63
def a_3 := List.replicate 16 (0x7FFF : BitVec 16)
def b_4 := List.replicate 16 (0x8000 : BitVec 16)
def s_5 := ML 845 8 19 0
def s_6 := ML 850 9 0xFFFF 0
def s_7 := ML 705 9 101 999
def s_8 := ML 705 9 101 998
def s_9 := C2.setFld B.margin MARGIN.CTL 6
def s_10 := ML 850 10 19 0
def loss_11 := ((ML 800 9 3 0).wr (B.margin + 0xA0) 224999).lossRate
def s_12 := dv (fun d => { d with avsStop := true }) (C2.setFld B.margin MARGIN.CTL 6)
def s_13 := ld (z15 ++ [1])
def s_14 := dv (fun d => { d with burning := some 9 }) C2
def loss_15 := ((ML 850 9 19 0).wr (B.margin + 0x80) 3600).lossRate

theorem wit_SelfTestRows :
    (s_14.dev.burning = some 9#32) ∧
    ((IT 39 0).inTest (bistNum (BistUnit.lane 0)) = true) ∧
    (s_5.mode ≠ mVelvet ∧ s_5.flag B.margin MARGIN.CTL_AUTO = true ∧ s_5.slack < (↑(s_5.fld B.margin MARGIN.THRESH_RAISE_PS) : Int) ∧ s_5.flag B.margin MARGIN.CTL_VOLT_EN = true ∧ s_5.dev.avsStop = false ∧ s_5.volt < s_5.vMax) ∧
    (s_10.mode ≠ mVelvet ∧ s_10.divNow = 10 ∧ s_10.volt = s_10.vMax ∧ s_10.slack < (↑(s_10.fld B.margin MARGIN.THRESH_RAISE_PS) : Int) ∧ 0 < s_10.fld B.margin MARGIN.YEARS_LIM ∧ s_10.dev.low = false ∧ ((ML 850 10 19 0).lossRate = if s_10.eq16 < 57600000 then (4, 1) else ((s_10.dev.s0.getD s_10.slackRef - s_10.slackRef) * 8760 * 57600, s_10.eq16)) ∧ 0 ≤ rndRat false ((ML 850 10 19 0).lossRate.fst * 256) (ML 850 10 19 0).lossRate.snd ∧ rndRat false ((ML 850 10 19 0).lossRate.fst * 256) (ML 850 10 19 0).lossRate.snd < 65536) ∧
    (s_2.inTest (bistNum (BistUnit.core 12 2)) = true ∧ (s_2.fld B.bist (unitFld (bistNum (BistUnit.core 12 2)) BIST.UNIT_NEXT) + 1) % passLen (BistUnit.core 12 2) = 0) ∧
    (s_6.mode ≠ mVelvet ∧ s_6.flag B.margin MARGIN.CTL_AUTO = true ∧ s_6.slack < (↑(s_6.fld B.margin MARGIN.THRESH_RAISE_PS) : Int) ∧ s_6.vMax ≤ s_6.volt ∧ s_6.flag B.margin MARGIN.CTL_DIV_EN = true ∧ s_6.divNow < 10) ∧
    (C2.gated = false ∧ a_3.length = 16 ∧ b_4.length = 16 ∧ List.filter (fun (i : Nat) => decide (8 < ((a_3.getD i 0#16).toInt - (b_4.getD i 0#16).toInt).natAbs)) (List.range 16) ≠ []) ∧
    (mayWrite w0 3 (ld okl) ∧ (ld okl).dev.ageLoad.length = 16 ∧ crc32c (List.flatMap (fun (x : W32) => leBytes 4 (BitVec.toNat x)) (List.take 15 (ld okl).dev.ageLoad)) = BitVec.toNat ((ld okl).dev.ageLoad.getD 15 0#32) ∧ (ld okl).flag B.margin MARGIN.STAT_LOADED = false) ∧
    (s_9.mode ≠ mVelvet ∧ s_9.flag B.margin MARGIN.CTL_AUTO = false) ∧
    (mayWrite w0 0 (sv C2) ∧ (sv C2).mode = mCalico ∧ (sv C2).dev.burning = none ∧ BitVec.toNat (sv C2).dev.fuses.minSecVer < BitVec.toNat ((sv C2).rd (B.sys + SYS.SEC_VER_SET.off)) ∧ BitVec.toNat ((sv C2).rd (B.sys + SYS.SEC_VER_SET.off)) ≤ (sv C2).imgField 12 4) ∧
    (s_7.mode ≠ mVelvet ∧ s_7.flag B.margin MARGIN.CTL_AUTO = true ∧ (¬s_7.slack < (↑(s_7.fld B.margin MARGIN.THRESH_RAISE_PS) : Int)) ∧ (↑(s_7.fld B.margin MARGIN.THRESH_LOWER_PS) : Int) < s_7.slack ∧ s_7.flag B.margin MARGIN.CTL_VOLT_EN = true ∧ s_7.dev.avsStop = false ∧ s_7.vMin < s_7.volt ∧ s_7.dev.quiet = 999) ∧
    (s_8.mode ≠ mVelvet ∧ s_8.flag B.margin MARGIN.CTL_AUTO = true ∧ (¬s_8.slack < (↑(s_8.fld B.margin MARGIN.THRESH_RAISE_PS) : Int)) ∧ (↑(s_8.fld B.margin MARGIN.THRESH_LOWER_PS) : Int) < s_8.slack ∧ s_8.flag B.margin MARGIN.CTL_VOLT_EN = true ∧ s_8.dev.avsStop = false ∧ s_8.vMin < s_8.volt ∧ s_8.dev.quiet ≠ 999) ∧
    (mayWrite w0 3 (ld z15) ∧ (ld z15).dev.ageLoad.length < 16) ∧
    (admits w0 (B.margin + MARGIN.VSET_REQ.off) 850 s_9 ∧ s_9.dev.avsStop = false) ∧
    (admits w0 (B.margin + MARGIN.VSET_REQ.off) 850 s_12 ∧ s_12.dev.avsStop = true) ∧
    (SL.pgRunning 832 = true ∧ 2 ≤ SL.mode ∧ SL.mode ≤ 5 ∧ SL.sliceOk (BistUnit.lane 0) = true) ∧
    (mayWrite w0 3 s_13 ∧ s_13.dev.ageLoad.length = 16 ∧ (¬crc32c (List.flatMap (fun (x : W32) => leBytes 4 (BitVec.toNat x)) (List.take 15 s_13.dev.ageLoad)) = BitVec.toNat (s_13.dev.ageLoad.getD 15 0#32)) ∧ s_13.flag B.margin MARGIN.STAT_LOADED = false) ∧
    (mayWrite w0 3 C2) ∧
    ((md 6 C2).mode = mVelvet) ∧
    (C2.sliceOk (BistUnit.lane 3) = false) ∧
    ((¬10 ∈ C2.dev.conds)) ∧
    (((ML 850 9 19 0).wr (B.margin + 128) 3600#32).mode ≠ mVelvet ∧ (loss_15 = if ((ML 850 9 19 0).wr (B.margin + 128) 3600#32).eq16 < 57600000 then (4, 1) else ((((ML 850 9 19 0).wr (B.margin + 128) 3600#32).dev.s0.getD ((ML 850 9 19 0).wr (B.margin + 128) 3600#32).slackRef - ((ML 850 9 19 0).wr (B.margin + 128) 3600#32).slackRef) * 8760 * 57600, ((ML 850 9 19 0).wr (B.margin + 128) 3600#32).eq16)) ∧ (¬(((ML 850 9 19 0).wr (B.margin + 128) 3600#32).divNow = 10 ∧ ((ML 850 9 19 0).wr (B.margin + 128) 3600#32).volt = ((ML 850 9 19 0).wr (B.margin + 128) 3600#32).vMax ∧ ((ML 850 9 19 0).wr (B.margin + 128) 3600#32).slack < (↑(((ML 850 9 19 0).wr (B.margin + 128) 3600#32).fld B.margin MARGIN.THRESH_RAISE_PS) : Int))) ∧ 0 < ((ML 850 9 19 0).wr (B.margin + 128) 3600#32).eq16 ∧ 0 < loss_15.fst ∧ 65535 < rndRat false ((minRat ((262800 * 57600 - (↑((ML 850 9 19 0).wr (B.margin + 128) 3600#32).eq16 : Int)) * 16 * (↑((ML 850 9 19 0).wr (B.margin + 128) 3600#32).powSec : Int), 57600 * 8760 * ((ML 850 9 19 0).wr (B.margin + 128) 3600#32).eq16) ((5 * ((ML 850 9 19 0).wr (B.margin + 128) 3600#32).slack + 8 * ((↑((ML 850 9 19 0).wr (B.margin + 128) 3600#32).vMax : Int) - (↑((ML 850 9 19 0).wr (B.margin + 128) 3600#32).volt : Int)) + 1000 * (10 - (↑((ML 850 9 19 0).wr (B.margin + 128) 3600#32).divNow : Int))) * (↑loss_15.snd : Int) * 16 * (↑((ML 850 9 19 0).wr (B.margin + 128) 3600#32).powSec : Int), (5 * loss_15.fst * (↑((ML 850 9 19 0).wr (B.margin + 128) 3600#32).eq16 : Int)).toNat)).fst * 256) (minRat ((262800 * 57600 - (↑((ML 850 9 19 0).wr (B.margin + 128) 3600#32).eq16 : Int)) * 16 * (↑((ML 850 9 19 0).wr (B.margin + 128) 3600#32).powSec : Int), 57600 * 8760 * ((ML 850 9 19 0).wr (B.margin + 128) 3600#32).eq16) ((5 * ((ML 850 9 19 0).wr (B.margin + 128) 3600#32).slack + 8 * ((↑((ML 850 9 19 0).wr (B.margin + 128) 3600#32).vMax : Int) - (↑((ML 850 9 19 0).wr (B.margin + 128) 3600#32).volt : Int)) + 1000 * (10 - (↑((ML 850 9 19 0).wr (B.margin + 128) 3600#32).divNow : Int))) * (↑loss_15.snd : Int) * 16 * (↑((ML 850 9 19 0).wr (B.margin + 128) 3600#32).powSec : Int), (5 * loss_15.fst * (↑((ML 850 9 19 0).wr (B.margin + 128) 3600#32).eq16 : Int)).toNat)).snd) ∧
    (((ML 800 9 3 0).wr (B.margin + 160) 224999#32).mode ≠ mVelvet ∧ (loss_11 = if ((ML 800 9 3 0).wr (B.margin + 160) 224999#32).eq16 < 57600000 then (4, 1) else ((((ML 800 9 3 0).wr (B.margin + 160) 224999#32).dev.s0.getD ((ML 800 9 3 0).wr (B.margin + 160) 224999#32).slackRef - ((ML 800 9 3 0).wr (B.margin + 160) 224999#32).slackRef) * 8760 * 57600, ((ML 800 9 3 0).wr (B.margin + 160) 224999#32).eq16)) ∧ (¬(((ML 800 9 3 0).wr (B.margin + 160) 224999#32).divNow = 10 ∧ ((ML 800 9 3 0).wr (B.margin + 160) 224999#32).volt = ((ML 800 9 3 0).wr (B.margin + 160) 224999#32).vMax ∧ ((ML 800 9 3 0).wr (B.margin + 160) 224999#32).slack < (↑(((ML 800 9 3 0).wr (B.margin + 160) 224999#32).fld B.margin MARGIN.THRESH_RAISE_PS) : Int))) ∧ 0 < ((ML 800 9 3 0).wr (B.margin + 160) 224999#32).eq16 ∧ 0 < loss_11.fst ∧ 0 ≤ rndRat false ((minRat ((262800 * 57600 - (↑((ML 800 9 3 0).wr (B.margin + 160) 224999#32).eq16 : Int)) * 16 * (↑((ML 800 9 3 0).wr (B.margin + 160) 224999#32).powSec : Int), 57600 * 8760 * ((ML 800 9 3 0).wr (B.margin + 160) 224999#32).eq16) ((5 * ((ML 800 9 3 0).wr (B.margin + 160) 224999#32).slack + 8 * ((↑((ML 800 9 3 0).wr (B.margin + 160) 224999#32).vMax : Int) - (↑((ML 800 9 3 0).wr (B.margin + 160) 224999#32).volt : Int)) + 1000 * (10 - (↑((ML 800 9 3 0).wr (B.margin + 160) 224999#32).divNow : Int))) * (↑loss_11.snd : Int) * 16 * (↑((ML 800 9 3 0).wr (B.margin + 160) 224999#32).powSec : Int), (5 * loss_11.fst * (↑((ML 800 9 3 0).wr (B.margin + 160) 224999#32).eq16 : Int)).toNat)).fst * 256) (minRat ((262800 * 57600 - (↑((ML 800 9 3 0).wr (B.margin + 160) 224999#32).eq16 : Int)) * 16 * (↑((ML 800 9 3 0).wr (B.margin + 160) 224999#32).powSec : Int), 57600 * 8760 * ((ML 800 9 3 0).wr (B.margin + 160) 224999#32).eq16) ((5 * ((ML 800 9 3 0).wr (B.margin + 160) 224999#32).slack + 8 * ((↑((ML 800 9 3 0).wr (B.margin + 160) 224999#32).vMax : Int) - (↑((ML 800 9 3 0).wr (B.margin + 160) 224999#32).volt : Int)) + 1000 * (10 - (↑((ML 800 9 3 0).wr (B.margin + 160) 224999#32).divNow : Int))) * (↑loss_11.snd : Int) * 16 * (↑((ML 800 9 3 0).wr (B.margin + 160) 224999#32).powSec : Int), (5 * loss_11.fst * (↑((ML 800 9 3 0).wr (B.margin + 160) 224999#32).eq16 : Int)).toNat)).snd ∧ rndRat false ((minRat ((262800 * 57600 - (↑((ML 800 9 3 0).wr (B.margin + 160) 224999#32).eq16 : Int)) * 16 * (↑((ML 800 9 3 0).wr (B.margin + 160) 224999#32).powSec : Int), 57600 * 8760 * ((ML 800 9 3 0).wr (B.margin + 160) 224999#32).eq16) ((5 * ((ML 800 9 3 0).wr (B.margin + 160) 224999#32).slack + 8 * ((↑((ML 800 9 3 0).wr (B.margin + 160) 224999#32).vMax : Int) - (↑((ML 800 9 3 0).wr (B.margin + 160) 224999#32).volt : Int)) + 1000 * (10 - (↑((ML 800 9 3 0).wr (B.margin + 160) 224999#32).divNow : Int))) * (↑loss_11.snd : Int) * 16 * (↑((ML 800 9 3 0).wr (B.margin + 160) 224999#32).powSec : Int), (5 * loss_11.fst * (↑((ML 800 9 3 0).wr (B.margin + 160) 224999#32).eq16 : Int)).toNat)).fst * 256) (minRat ((262800 * 57600 - (↑((ML 800 9 3 0).wr (B.margin + 160) 224999#32).eq16 : Int)) * 16 * (↑((ML 800 9 3 0).wr (B.margin + 160) 224999#32).powSec : Int), 57600 * 8760 * ((ML 800 9 3 0).wr (B.margin + 160) 224999#32).eq16) ((5 * ((ML 800 9 3 0).wr (B.margin + 160) 224999#32).slack + 8 * ((↑((ML 800 9 3 0).wr (B.margin + 160) 224999#32).vMax : Int) - (↑((ML 800 9 3 0).wr (B.margin + 160) 224999#32).volt : Int)) + 1000 * (10 - (↑((ML 800 9 3 0).wr (B.margin + 160) 224999#32).divNow : Int))) * (↑loss_11.snd : Int) * 16 * (↑((ML 800 9 3 0).wr (B.margin + 160) 224999#32).powSec : Int), (5 * loss_11.fst * (↑((ML 800 9 3 0).wr (B.margin + 160) 224999#32).eq16 : Int)).toNat)).snd ≤ 65535) :=
  by and_intros <;> decide
end Wself

namespace Ycp
def enP (p : Nat) (s : State) : State := (s.setFld (page p) PG.CTL_EN 1).setFld (page p) PG.STAT_ENABLED 1
def y (l : List (Fld × Nat)) (s : State) : State := l.foldl (fun s x => s.setFld B.ycp x.1 x.2) s
def Y0 : State := ({ (enP 0x323 (md 2 S0)) with now := 0x1234567 }.wr (B.iot + 0x40 + 16 * 20) 3)
def X0 : Session := { num := 9, ring := 0, rights := 0x1FF, key := List.replicate 32 3, next := 5, resps := [⟨4, [1,2,3]⟩] }
def yx (f : Ycp → Ycp) (s : State) : State := { s with ycp := f s.ycp }
def se (x : Session) (s : State) : State := s.putSess 2 x
def Y1 : State := se X0 Y0
def H (ss sq : Nat) : YcpHdr := ⟨BitVec.ofNat 32 ss, BitVec.ofNat 32 sq, true, true, true, true⟩
def H1 : YcpHdr := H 9 5
def key0 : KeySlot := ⟨0x00001F705, List.replicate 32 7⟩
def YK : State := Y1.setKeySlot 3 key0
def XP : Session := { num := 9, pending := true, next := 1 }
def XH : Session := { X0 with held := [⟨8, .ping, true, false, none⟩] }
def h_1 : YcpHdr := { H1 with wellFormed := false }
def h_2 : YcpHdr := { H1 with auth := false }
def s_3 := se XP Y0
def s_4 := se XH Y0
def s_5 := yx (fun y => { y with lockout := true }) Y0
def s_7 : State := { Y1 with bad := [0x1000000010 / 8 + 2] }

theorem wit_YcpSessionRows :
    (YK.ycpOn = true ∧ romServes YK = false ∧ (H 0 77).wellFormed = true ∧ (H 0 77).session = 0#32 ∧ (H 0 77).lenFits = true ∧ BitVec.getLsbD (YK.keySlot 3).ctl 0 = true ∧ YK.sessList.length < 8 ∧ YK.freePlace = some 0 ∧ YK.pendingCount < 4) ∧
    (takesNow H1 2 X0 none Y1) ∧
    (Y1.ycpOn = true ∧ romServes Y1 = false ∧ h_2.wellFormed = true ∧ h_2.auth = false ∧ h_2.session ≠ 0#32 ∧ List.find? (fun (p : Nat × Session) => p.snd.num == h_2.session) Y1.sessList = some (2, X0)) ∧
    (Y1.ycpOn = true ∧ h_1.wellFormed = false) ∧
    (Y1.ycpOn = true ∧ romServes Y1 = false ∧ (H 10 1).wellFormed = true ∧ (H 10 1).session ≠ 0#32 ∧ (∀ (p : Nat × Session), p ∈ Y1.sessList → p.snd.num ≠ (H 10 1).session)) ∧
    (Y1.ycpOn = true ∧ romServes Y1 = false ∧ (H 9 21).wellFormed = true ∧ (H 9 21).auth = true ∧ (H 9 21).session = X0.num ∧ X0.num ≠ 0#32 ∧ List.find? (fun (p : Nat × Session) => p.snd.num == (H 9 21).session) Y1.sessList = some (2, X0) ∧ Y1.ycp.sess.find 2 = some X0 ∧ X0.pending = false ∧ X0.next + 15 < BitVec.toNat (H 9 21).seq) ∧
    (s_3.ycpOn = true ∧ romServes s_3 = false ∧ (H 9 2).wellFormed = true ∧ (H 9 2).auth = true ∧ (H 9 2).lenFits = true ∧ (H 9 2).session = XP.num ∧ XP.num ≠ 0#32 ∧ List.find? (fun (p : Nat × Session) => p.snd.num == (H 9 2).session) s_3.sessList = some (2, XP) ∧ s_3.ycp.sess.find 2 = some XP ∧ XP.pending = true ∧ XP.exec = none ∧ XP.held = [] ∧ XP.next = 1 ∧ BitVec.toNat (H 9 2).seq ≠ 1) ∧
    (s_3.gated = false ∧ s_3.ycp.sess.find 2 = some XP ∧ XP.pending = true) ∧
    (s_3.ycpOn = true ∧ romServes s_3 = false ∧ (H 9 1).wellFormed = true ∧ (H 9 1).auth = true ∧ (H 9 1).lenFits = true ∧ (H 9 1).session = XP.num ∧ XP.num ≠ 0#32 ∧ List.find? (fun (p : Nat × Session) => p.snd.num == (H 9 1).session) s_3.sessList = some (2, XP) ∧ s_3.ycp.sess.find 2 = some XP ∧ XP.pending = true ∧ XP.exec = none ∧ XP.held = [] ∧ XP.next = 1 ∧ BitVec.toNat (H 9 1).seq = 1 ∧ s_3.ycpBusy = false) ∧
    (Y1.ycpOn = true ∧ romServes Y1 = false ∧ (H 9 20).wellFormed = true ∧ (H 9 20).auth = true ∧ (H 9 20).session = X0.num ∧ X0.num ≠ 0#32 ∧ List.find? (fun (p : Nat × Session) => p.snd.num == (H 9 20).session) Y1.sessList = some (2, X0) ∧ Y1.ycp.sess.find 2 = some X0 ∧ X0.pending = false ∧ (X0.next < BitVec.toNat (H 9 20).seq ∧ BitVec.toNat (H 9 20).seq ≤ X0.next + 15) ∧ (∀ (r : YReq), r ∈ X0.held → r.seq ≠ BitVec.toNat (H 9 20).seq)) ∧
    (s_4.gated = false ∧ s_4.ycp.sess.find (if romServes s_4 = true then 8 else 2) = some XH ∧ (∃ (r : YReq), r ∈ XH.held ∧ r.seq = 8)) ∧
    (s_5.ycp.lockout = true) ∧
    (S0.ycpOn = false ∧ romServes S0 = false) ∧
    (Y1.ycpOn = true ∧ (H 0 77).wellFormed = true ∧ (H 0 77).session = 0#32 ∧ (H 0 77).lenFits = true) ∧
    (Y1.ycpOn = true ∧ romServes Y1 = false ∧ (H 0 77).wellFormed = true ∧ (H 0 77).session = 0#32 ∧ (H 0 77).lenFits = true ∧ BitVec.getLsbD (Y1.keySlot 3).ctl 0 = false ∧ Y1.freePlace.isSome = true ∧ Y1.pendingCount < 4) ∧
    (Y1.ycpOn = true ∧ romServes Y1 = false ∧ (H 9 4).wellFormed = true ∧ (H 9 4).auth = true ∧ (H 9 4).session = X0.num ∧ X0.num ≠ 0#32 ∧ List.find? (fun (p : Nat × Session) => p.snd.num == (H 9 4).session) Y1.sessList = some (2, X0) ∧ Y1.ycp.sess.find 2 = some X0 ∧ X0.pending = false ∧ BitVec.toNat (H 9 4).seq < X0.next ∧ X0.next ≤ BitVec.toNat (H 9 4).seq + 16 ∧ List.find? (fun (r : YResp) => r.seq == BitVec.toNat (H 9 4).seq) X0.resps = some { seq := 4, packet := [1#8, 2#8, 3#8] : YResp }) :=
  by and_intros <;> decide
theorem wit_YcpCommandRows :
    (takesNow H1 2 X0 (some 2) s_7 ∧ plainDram 68719476752 40 s_7 ∧ s_7.badIn 68719476752 40 = true) ∧
    (takesNow H1 2 X0 (some 3) Y1 ∧ Code.lowest (appendCodes Appender.host 3 { target := 0#64, action := 0#16, flags := 0#16, param := 0#32 : RawEntry } Y1) ≠ Code.ok) ∧
    (takesNow H1 2 X0 (some 2) Y1 ∧ plainDram 68719476797 [1#8, 2#8, 3#8].length Y1 ∧ Y1.badPart (68719476797, [1#8, 2#8, 3#8].length) = none) ∧
    (takesNow H1 2 X0 (some 2) Y1) ∧
    (takesNow H1 2 X0 (some 2) Y1 ∧ plainDram 68719476752 40 Y1 ∧ Y1.badIn 68719476752 40 = false) :=
  by and_intros <;> decide
end Ycp

namespace Ycp2
def enP (p : Nat) (s : State) : State := (s.setFld (page p) PG.CTL_EN 1).setFld (page p) PG.STAT_ENABLED 1
def y (l : List (Fld × Nat)) (s : State) : State := l.foldl (fun s x => s.setFld B.ycp x.1 x.2) s
def Y0 : State := ({ (enP 0x323 (md 2 S0)) with now := 0x1234567 }.wr (B.iot + 0x40 + 16 * 20) 3)
def X0 : Session := { num := 9, ring := 0, rights := 0x1FF, key := List.replicate 32 3, next := 5, resps := [⟨4, [1,2,3]⟩] }
def yx (f : Ycp → Ycp) (s : State) : State := { s with ycp := f s.ycp }
def se (x : Session) (s : State) : State := s.putSess 2 x
def Y1 : State := se X0 Y0
def H (ss sq : Nat) : YcpHdr := ⟨BitVec.ofNat 32 ss, BitVec.ofNat 32 sq, true, true, true, true⟩
def H1 : YcpHdr := H 9 5
def cc (p o : Nat) : Row := match regRow p o with | some r => r | none => ⟨0,1,0,.rw,0,0⟩
def Q5 : State := se X0 (y [] (((on (enP 0x323 (enP 0x210 (enP 0x211 (enP 0x212 (md 4 S2))))) [(B.lane 0 + 0x40, 1), (B.lane 1 + 0x40, 1), (B.qd 70, 1 + 2*16 + 2*8192 + 5*65536 + 3*2^20 + 2^23), (B.qd 70 + 4, 4 + 65536), (B.qd 70 + 8, 3 + 5*16 + 9*2048), (B.qd 70 + 0xC, 3000000), (B.qd 70 + 0x10, 160000)]).wr (B.iot + 0x40 + 16 * 20) 3).setFld (B.qd 70) QD.QSTATE_STATE 2))
def PW : State := y [(YCP.PAT_BASE_LO, 0x40),(YCP.PAT_BASE_HI, 0x10),(YCP.PAT_SIZE, 0x100)] Y1
def hdr (len load : Nat) : List Byte := leBytes 4 imageMagic ++ leBytes 2 1 ++ leBytes 2 1 ++ leBytes 4 len ++ leBytes 4 0 ++ leBytes 8 load ++ leBytes 8 load ++ zeros 8 ++ zeros 24 ++ List.replicate 96 9 ++ List.replicate 96 1
def IM : State := y [(YCP.IMG_BUF_LO, 0x0),(YCP.IMG_BUF_HI, 0x10),(YCP.IMG_BUF_SIZE, 0x100)] Y1
def hh : List Byte := hdr 64 0x10000000
def upl (u : Upload) (s : State) : State := yx (fun y => { y with upload := some u }) s
def NW : State := { S0 with dev := { S0.dev with phase := .netWait } }
def U1 : State := upl ⟨2, 2, hh, 64, false, []⟩ IM
def hz : List Byte := zeros 8 ++ hh.drop 8
def U2 : State := upl ⟨2, 2, hz, 64, false, []⟩ IM
def rd (s : State) : List (Nat × Nat) × State := match (s.putSess 2 (taken H1 X0 .imageEnd)).ioPieces 20 false (splitLines (lineCount 64) s.imgBuf 64) with | .ok x => x | .error e => ([], e.2.2.2)
def UB : Upload := ⟨2, 2, hh, 64, true, List.replicate 64 8⟩
def XB : Session := { X0 with exec := some ⟨4, .imageEnd, true, false, none⟩ }
def FL : State := se XB (upl UB { IM with dev := { IM.dev with board := { IM.dev.board with flash1 := 0x10000 } } })
def U3 : State := { U1 with bad := [68719476736 / 8] }
def U4 : State := U1.wr (B.iot + 0x40 + 16 * 20) 0
def U5 : State := (y [(YCP.IMG_BUF_LO, 0x83040020),(YCP.IMG_BUF_HI, 0)] U1).setFld (B.trio 3) TRIO.STAT_CONF_NOW 1
def bd (a : Nat) (s : State) : State := { s with bad := [a / 8] }
def d_2 := List.replicate 16 (5:Byte)
def s_3 := enP 0x220 PW
def s_4 := upl ⟨3, 2, hh, 0, false, []⟩ IM
def s_5 := upl ⟨2, 2, hh, 32, false, []⟩ IM
def d_6 := List.replicate 32 (6:Byte)
def r_7 := cc 0x121 0x40
def a_10 := ((rd U5).1.headD (0,0)).1
def d_13 := List.replicate 15 (5:Byte)
def s_14 := bd 0x1000000138 PW
def s_15 := bd 0x1000000020 (upl ⟨2, 2, hh, 32, false, []⟩ IM)
def d_16 := List.replicate 3 (6:Byte)
def s_18 := bd 0x1000000100 Y1

theorem wit_YcpCommandRows_2 :
    (FL.gated = false ∧ FL.ycp.upload = some UB ∧ UB.burn = true ∧ UB.owner = 2 ∧ 1 ≤ UB.target ∧ UB.target ≤ 2 ∧ FL.ycp.sess.cells = [(2, XB)] ∧ XB.exec = some { seq := 4, cmd := YCmd.imageEnd, fits := true, enc := false, src := none : YReq } ∧ { seq := 4, cmd := YCmd.imageEnd, fits := true, enc := false, src := none : YReq }.cmd = YCmd.imageEnd ∧ { seq := 4, cmd := YCmd.imageEnd, fits := true, enc := false, src := none : YReq }.src = none ∧ XB.held = [] ∧ XB.next < 2 ^ 32 ∧ 0 < (UB.header ++ UB.data).length ∧ 0 < min (FL.flashSize (UB.target - 1)) 134217728) ∧
    (Y1.region 1074925632 = Region.regs ∧ pageKind ((1074925632 - 1073741824) / 4096) = some (Kind.part, 289, 1) ∧ regRow ((1074925632 - 1073741824) / 4096) (1074925632 % 4096) = some r_7 ∧ takesNow H1 2 X0 (some 0) Y1 ∧ r_7.acc = Acc.rw ∧ Kind.part ∈ [Kind.walk, Kind.part, Kind.eth, Kind.net, Kind.ring, Kind.iot, Kind.seq, Kind.xspi] ∧ mayRead { ring := X0.ring, ycp := true, tid := { trio := 0, core := 0, thr := 0 : ThreadId } : Writer } ((1074925632 - 1073741824) / 4096) Y1 ∧ takesNow H1 2 X0 (some 1) Y1 ∧ Kind.part ∈ [Kind.walk, Kind.part, Kind.thrp, Kind.lane] ∧ Y1.loOf Kind.part ((1074925632 - 1073741824) / 4096) (1074925632 % 4096) = none ∧ Y1.isHeld Kind.part ((1074925632 - 1073741824) / 4096) (1074925632 % 4096) r_7 = false ∧ Code.lowest (regCodes { ring := X0.ring, ycp := true, tid := { trio := 0, core := 0, thr := 0 : ThreadId } : Writer } ((1074925632 - 1073741824) / 4096) (1074925632 % 4096) (4294967295#32) (wakeWaiting Y1)) ≠ Code.ok) ∧
    (takesNow H1 2 X0 (some 6) IM ∧ hh.length = 256 ∧ IM.mode = mCalico ∧ IM.runsFrom 1 = false ∧ fieldAt hh 8 4 ≤ IM.fld B.ycp YCP.IMG_BUF_SIZE ∧ IM.ycp.upload = none) ∧
    (takesNow H1 2 X0 (some 6) U5 ∧ U5.ycp.upload = some { owner := 2, target := 2, header := hh, got := 64 : Upload } ∧ { owner := 2, target := 2, header := hh, got := 64 : Upload }.owner = 2 ∧ { owner := 2, target := 2, header := hh, got := 64 : Upload }.burn = false ∧ { owner := 2, target := 2, header := hh, got := 64 : Upload }.target ≠ 0 ∧ fieldAt { owner := 2, target := 2, header := hh, got := 64 : Upload }.header 8 4 ≤ { owner := 2, target := 2, header := hh, got := 64 : Upload }.got ∧ ((U5.putSess 2 (taken H1 X0 YCmd.imageEnd)).ioPieces 20 false (splitLines (lineCount (fieldAt { owner := 2, target := 2, header := hh, got := 64 : Upload }.header 8 4)) U5.imgBuf (fieldAt { owner := 2, target := 2, header := hh, got := 64 : Upload }.header 8 4))).isOk = true ∧ (rd U5).snd.region a_10 ≠ Region.regs ∧ (rd U5).snd.holder none a_10 = some 3) ∧
    (takesNow H1 2 X0 (some 6) U2 ∧ U2.ycp.upload = some { owner := 2, target := 2, header := hz, got := 64 : Upload } ∧ { owner := 2, target := 2, header := hz, got := 64 : Upload }.owner = 2 ∧ { owner := 2, target := 2, header := hz, got := 64 : Upload }.burn = false ∧ { owner := 2, target := 2, header := hz, got := 64 : Upload }.target ≠ 0 ∧ fieldAt { owner := 2, target := 2, header := hz, got := 64 : Upload }.header 8 4 ≤ { owner := 2, target := 2, header := hz, got := 64 : Upload }.got ∧ ((U2.putSess 2 (taken H1 X0 YCmd.imageEnd)).ioPieces 20 false (splitLines (lineCount (fieldAt { owner := 2, target := 2, header := hz, got := 64 : Upload }.header 8 4)) U2.imgBuf (fieldAt { owner := 2, target := 2, header := hz, got := 64 : Upload }.header 8 4))).isOk = true ∧ (∀ (p : Nat × Nat), p ∈ (rd U2).fst → (rd U2).snd.region p.fst = Region.dram ∧ (rd U2).snd.badAddr p.fst p.snd = none) ∧ imageCode { owner := 2, target := 2, header := hz, got := 64 : Upload }.header (List.flatMap (fun (p : Nat × Nat) => bytesFrom (rd U2).snd.byteAt p.fst p.snd) (rd U2).fst) (rd U2).snd ≠ Code.ok) ∧
    (takesNow H1 2 X0 (some 5) PW ∧ 2 = PW.mode) ∧
    (takesNow H1 2 X0 (some 5) PW ∧ Code.lowest (modeCodes 1 PW) = Code.ok ∧ 1 ≠ PW.mode ∧ (mTwill ≤ 1 ∧ 1 ≤ mJersey → PW.safeCrc = PW.rd (B.coll + COLL.SAFE_CRC_EXP.off))) ∧
    (takesNow H1 2 X0 (some 3) Q5 ∧ Code.lowest (appendCodes Appender.host 70 { target := 100#64, action := 1#16, flags := 0#16, param := 7#32 : RawEntry } Q5) = Code.ok) ∧
    (takesNow H1 2 X0 (some 4) s_3 ∧ mayWrite { ring := X0.ring, ycp := true, tid := { trio := 0, core := 0, thr := 0 : ThreadId } : Writer } 544 s_3 ∧ s_3.pgRunning 544 = true ∧ s_3.seq.loading = none ∧ s_3.seqSt ∈ [seqIdle, seqLoaded, seqDone, seqError] ∧ 255 < s_3.patSize ∧ s_3.patBase + 255 < 2 ^ 40) ∧
    (takesNow H1 2 X0 (some 6) s_15 ∧ s_15.ycp.upload = some { owner := 2, target := 2, header := hh, got := 32 : Upload } ∧ { owner := 2, target := 2, header := hh, got := 32 : Upload }.owner = 2 ∧ { owner := 2, target := 2, header := hh, got := 32 : Upload }.burn = false ∧ { owner := 2, target := 2, header := hh, got := 32 : Upload }.target ≠ 0 ∧ 1 ≤ d_16.length ∧ d_16.length ≤ 1024 ∧ 32 + d_16.length ≤ fieldAt { owner := 2, target := 2, header := hh, got := 32 : Upload }.header 8 4 ∧ plainDram (s_15.imgBuf + 32) d_16.length s_15 ∧ 32 = { owner := 2, target := 2, header := hh, got := 32 : Upload }.got ∧ s_15.badPart (s_15.imgBuf + 32, d_16.length) ≠ none) ∧
    (takesNow H1 2 X0 (some 6) s_5 ∧ s_5.ycp.upload = some { owner := 2, target := 2, header := hh, got := 32 : Upload } ∧ { owner := 2, target := 2, header := hh, got := 32 : Upload }.owner = 2 ∧ { owner := 2, target := 2, header := hh, got := 32 : Upload }.burn = false ∧ { owner := 2, target := 2, header := hh, got := 32 : Upload }.target ≠ 0 ∧ 1 ≤ d_6.length ∧ d_6.length ≤ 1024 ∧ 32 + d_6.length ≤ fieldAt { owner := 2, target := 2, header := hh, got := 32 : Upload }.header 8 4 ∧ plainDram (s_5.imgBuf + 32) d_6.length s_5 ∧ 32 = { owner := 2, target := 2, header := hh, got := 32 : Upload }.got ∧ s_5.badPart (s_5.imgBuf + 32, d_6.length) = none ∧ 0 < d_6.length) ∧
    (takesNow H1 2 X0 (some 4) PW ∧ 1 ≤ d_2.length ∧ d_2.length ≤ 1024 ∧ PW.patRuns = false ∧ PW.patSize < 241 + d_2.length) ∧
    (takesNow H1 2 X0 (some 2) s_18 ∧ plainDram 68719476993 [1#8, 2#8, 3#8].length s_18 ∧ s_18.badPart (68719476993, [1#8, 2#8, 3#8].length) ≠ none) ∧
    (romServes NW = true ∧ (H 0 5).wellFormed = true ∧ (H 0 5).session = 0#32 ∧ (H 0 5).lenFits = true ∧ hh.length = 256 ∧ headerRange hh NW = [] ∧ NW.ycp.sess.find 8 = none) ∧
    (takesNow H1 2 X0 (some 6) s_4 ∧ hh.length = 256 ∧ s_4.mode = mCalico ∧ s_4.runsFrom 2 = false ∧ fieldAt hh 8 4 ≤ s_4.fld B.ycp YCP.IMG_BUF_SIZE ∧ s_4.ycp.upload.isSome = true) ∧
    (takesNow H1 2 X0 (some 4) s_14 ∧ 1 ≤ d_13.length ∧ d_13.length ≤ 1024 ∧ s_14.patRuns = false ∧ 240 + d_13.length ≤ s_14.patSize ∧ plainDram (s_14.patBase + 240) d_13.length s_14 ∧ s_14.badPart (s_14.patBase + 240, d_13.length) ≠ none) ∧
    (takesNow H1 2 X0 (some 4) PW ∧ 1 ≤ d_2.length ∧ d_2.length ≤ 1024 ∧ PW.patRuns = false ∧ 240 + d_2.length ≤ PW.patSize ∧ plainDram (PW.patBase + 240) d_2.length PW ∧ PW.badPart (PW.patBase + 240, d_2.length) = none ∧ 0 < d_2.length) ∧
    (takesNow H1 2 X0 (some 6) s_5 ∧ s_5.ycp.upload = some { owner := 2, target := 2, header := hh, got := 32 : Upload } ∧ { owner := 2, target := 2, header := hh, got := 32 : Upload }.owner = 2 ∧ { owner := 2, target := 2, header := hh, got := 32 : Upload }.burn = false ∧ { owner := 2, target := 2, header := hh, got := 32 : Upload }.target ≠ 0 ∧ { owner := 2, target := 2, header := hh, got := 32 : Upload }.got < fieldAt { owner := 2, target := 2, header := hh, got := 32 : Upload }.header 8 4) ∧
    (takesNow H1 2 X0 (some 6) s_5 ∧ s_5.ycp.upload = some { owner := 2, target := 2, header := hh, got := 32 : Upload } ∧ { owner := 2, target := 2, header := hh, got := 32 : Upload }.owner = 2 ∧ { owner := 2, target := 2, header := hh, got := 32 : Upload }.burn = false ∧ { owner := 2, target := 2, header := hh, got := 32 : Upload }.target ≠ 0 ∧ 1 ≤ d_6.length ∧ d_6.length ≤ 1024 ∧ 31 + d_6.length ≤ fieldAt { owner := 2, target := 2, header := hh, got := 32 : Upload }.header 8 4 ∧ plainDram (s_5.imgBuf + 31) d_6.length s_5 ∧ 31 ≠ { owner := 2, target := 2, header := hh, got := 32 : Upload }.got) ∧
    (takesNow H1 2 X0 (some 6) U4 ∧ U4.ycp.upload = some { owner := 2, target := 2, header := hh, got := 64 : Upload } ∧ { owner := 2, target := 2, header := hh, got := 64 : Upload }.owner = 2 ∧ { owner := 2, target := 2, header := hh, got := 64 : Upload }.burn = false ∧ { owner := 2, target := 2, header := hh, got := 64 : Upload }.target ≠ 0 ∧ fieldAt { owner := 2, target := 2, header := hh, got := 64 : Upload }.header 8 4 ≤ { owner := 2, target := 2, header := hh, got := 64 : Upload }.got ∧ ((U4.putSess 2 (taken H1 X0 YCmd.imageEnd)).ioPieces 20 false (splitLines (lineCount (fieldAt { owner := 2, target := 2, header := hh, got := 64 : Upload }.header 8 4)) U4.imgBuf (fieldAt { owner := 2, target := 2, header := hh, got := 64 : Upload }.header 8 4))).isOk = false) ∧
    (takesNow H1 2 X0 (some 6) U3 ∧ U3.ycp.upload = some { owner := 2, target := 2, header := hh, got := 64 : Upload } ∧ { owner := 2, target := 2, header := hh, got := 64 : Upload }.owner = 2 ∧ { owner := 2, target := 2, header := hh, got := 64 : Upload }.burn = false ∧ { owner := 2, target := 2, header := hh, got := 64 : Upload }.target ≠ 0 ∧ fieldAt { owner := 2, target := 2, header := hh, got := 64 : Upload }.header 8 4 ≤ { owner := 2, target := 2, header := hh, got := 64 : Upload }.got ∧ ((U3.putSess 2 (taken H1 X0 YCmd.imageEnd)).ioPieces 20 false (splitLines (lineCount (fieldAt { owner := 2, target := 2, header := hh, got := 64 : Upload }.header 8 4)) U3.imgBuf (fieldAt { owner := 2, target := 2, header := hh, got := 64 : Upload }.header 8 4))).isOk = true ∧ (∀ (p : Nat × Nat), p ∈ (rd U3).fst → (rd U3).snd.region p.fst = Region.dram) ∧ (∃ (p : Nat × Nat), p ∈ (rd U3).fst ∧ (rd U3).snd.badAddr p.fst p.snd ≠ none)) ∧
    (Y1.region 1074925632 = Region.regs ∧ pageKind ((1074925632 - 1073741824) / 4096) = some (Kind.part, 289, 1) ∧ regRow ((1074925632 - 1073741824) / 4096) (1074925632 % 4096) = some r_7 ∧ takesNow H1 2 X0 (some 1) Y1 ∧ r_7.acc = Acc.rw ∧ Kind.part ∈ [Kind.walk, Kind.part, Kind.thrp, Kind.lane] ∧ Y1.loOf Kind.part ((1074925632 - 1073741824) / 4096) (1074925632 % 4096) = none ∧ Y1.isHeld Kind.part ((1074925632 - 1073741824) / 4096) (1074925632 % 4096) r_7 = false ∧ Code.lowest (regCodes { ring := X0.ring, ycp := true, tid := { trio := 0, core := 0, thr := 0 : ThreadId } : Writer } ((1074925632 - 1073741824) / 4096) (1074925632 % 4096) (3#32) (wakeWaiting Y1)) = Code.ok) :=
  by and_intros <;> decide
end Ycp2

namespace Ycp4
def enP (p : Nat) (s : State) : State := (s.setFld (page p) PG.CTL_EN 1).setFld (page p) PG.STAT_ENABLED 1
def y (l : List (Fld × Nat)) (s : State) : State := l.foldl (fun s x => s.setFld B.ycp x.1 x.2) s
def X0 : Session := { num := 9, ring := 0, rights := 0x1FF, key := List.replicate 32 3, next := 5, resps := [⟨4, [1,2,3]⟩] }
def yx (f : Ycp → Ycp) (s : State) : State := { s with ycp := f s.ycp }
def se (x : Session) (s : State) : State := s.putSess 2 x
def H (ss sq : Nat) : YcpHdr := ⟨BitVec.ofNat 32 ss, BitVec.ofNat 32 sq, true, true, true, true⟩
def H1 : YcpHdr := H 9 5
def trio0 (s : State) : State := enP 0x100 s
def D0 : State := se X0 ((trio0 S2).wr (B.iot + 0x40 + 16 * 20) 3 |> enP 0x323)
def Dcal : State := md 2 D0
def XU : Session := { X0 with unlocked := true }
def off (s : State) : State := { s with dev := { s.dev with fuses := { s.dev.fuses with debugOff := true } } }
def X7 : Session := { X0 with rights := 0x17F }
def kk : List Byte := List.replicate 96 9
def XC : Session := { X0 with chal := some (List.replicate 48 2) }
def Hlt : State := haltCore (se XU Dcal) 0 0
def pdu (conn cnt : Nat) (stop : Nat) (ok : Bool) : BitVec 128 :=
  let b := leBytes 4 conn ++ leBytes 4 cnt ++ leBytes 4 stop
  BitVec.ofNat 128 (leNat (b ++ leBytes 4 (crc32c b + (if ok then 0 else 1))))
def SF (f : Ycp → Ycp) : State := yx f (y [(YCP.SAFE_CTL_EN,1),(YCP.SAFE_CONN,0xABCD)] Dcal)
def SG := SF (fun y => { y with first := false, cnt := 7, ownCnt := 0xFFFFFFFF })
def s_1 := off Dcal
def s_2 := se X7 Dcal
def ch_4 := List.replicate 48 (2:Byte)
def s_5 := yx (fun y => { y with tries := 3 }) (se XC Dcal)
def s_6 := se XU Dcal
def pdu_9 := pdu 0xABCD 7 1 true
def pdu_13 := pdu 0xABCD 7 2 true
def pdu_15 := pdu 0xABCD 9 0 true

theorem wit_YcpDebugAndSafetyRows :
    (takesNow H1 2 X0 (some 8) (SF id) ∧ (SF id).flag B.ycp YCP.SAFE_CTL_EN = true ∧ fieldAt (leBytes 16 pdu_9.toNat) 12 4 = crc32c (List.take 12 (leBytes 16 pdu_9.toNat)) ∧ BitVec.extractLsb' 0 32 pdu_9 = (SF id).rd (B.ycp + YCP.SAFE_CONN.off) ∧ bf pdu_9 65 31 = 0 ∧ (SF id).ycp.first = true ∧ pdu_9.getLsbD 64 = true) ∧
    (takesNow H1 2 XU (some 7) Hlt ∧ XU.unlocked = true ∧ Hlt.coreHalted 0 0 = true ∧ Hlt.mode = mCalico) ∧
    (SG.gated = false ∧ SG.flag B.ycp YCP.SAFE_CTL_EN = true) ∧
    (takesNow H1 2 XU (some 7) s_6 ∧ XU.unlocked = true ∧ s_6.mode = mCalico ∧ s_6.trioIn 0 = true ∧ 0 ∈ dbgKeys 0 2 s_6) ∧
    (takesNow H1 2 XC (some 7) s_5 ∧ kk.length = 96 ∧ s_5.dev.fuses.debugOff = false ∧ XC.chal = some ch_4 ∧ sha384 kk ≠ s_5.dev.fuses.debugKey ∧ s_5.ycp.tries = 3) ∧
    (takesNow H1 2 XU (some 7) Hlt ∧ XU.unlocked = true ∧ Hlt.coreHalted 0 0 = true ∧ 0 ∈ dbgKeys 0 0 Hlt) ∧
    (takesNow H1 2 X0 (some 8) (SF id) ∧ (SF id).flag B.ycp YCP.SAFE_CTL_EN = true ∧ (¬(fieldAt (leBytes 16 pdu_13.toNat) 12 4 = crc32c (List.take 12 (leBytes 16 pdu_13.toNat)) ∧ BitVec.extractLsb' 0 32 pdu_13 = (SF id).rd (B.ycp + YCP.SAFE_CONN.off) ∧ bf pdu_13 65 31 = 0))) ∧
    (takesNow H1 2 X0 (some 8) SG ∧ SG.flag B.ycp YCP.SAFE_CTL_EN = true ∧ fieldAt (leBytes 16 pdu_15.toNat) 12 4 = crc32c (List.take 12 (leBytes 16 pdu_15.toNat)) ∧ BitVec.extractLsb' 0 32 pdu_15 = SG.rd (B.ycp + YCP.SAFE_CONN.off) ∧ bf pdu_15 65 31 = 0 ∧ SG.ycp.first = false ∧ BitVec.extractLsb' 32 32 pdu_15 ≠ SG.ycp.cnt + 1#32 ∧ BitVec.extractLsb' 32 32 pdu_15 ≠ SG.ycp.cnt) ∧
    (takesNow H1 2 XU (some 7) Hlt ∧ XU.unlocked = true ∧ Hlt.coreHalted 0 0 = true ∧ ((dbgSettle (dbgThread 0 0 0) 1024 (if (Hlt.thread (Hlt.tkey (dbgThread 0 0 0))).st = TState.running then coreRun ((Hlt.putSess 2 (taken H1 XU (YCmd.debugStep 0#8 0#8 0#8))).setThread (Hlt.tkey (dbgThread 0 0 0)) (have __src := (Hlt.putSess 2 (taken H1 XU (YCmd.debugStep 0#8 0#8 0#8))).thread (Hlt.tkey (dbgThread 0 0 0)); { st := __src.st, stopReq := __src.stopReq, pc := __src.pc, g := __src.g, g30 := __src.g30, p := __src.p, sr := __src.sr, pl := __src.pl, ph := __src.ph, near := __src.near, far := __src.far, lc := __src.lc, ls := __src.ls, le := __src.le, krr := __src.krr, cause := __src.cause, faddr := __src.faddr, finfo := __src.finfo, vbr := __src.vbr, esp := __src.esp, seg := __src.seg, buf := __src.buf, tlbis := __src.tlbis, err := __src.err, part := __src.part, aauFlags := __src.aauFlags : Thread })) (dbgThread 0 0 0) (Hlt.tkey (dbgThread 0 0 0)) { st := (Hlt.thread (Hlt.tkey (dbgThread 0 0 0))).st, stopReq := (Hlt.thread (Hlt.tkey (dbgThread 0 0 0))).stopReq, pc := (Hlt.thread (Hlt.tkey (dbgThread 0 0 0))).pc, g := (Hlt.thread (Hlt.tkey (dbgThread 0 0 0))).g, g30 := (Hlt.thread (Hlt.tkey (dbgThread 0 0 0))).g30, p := (Hlt.thread (Hlt.tkey (dbgThread 0 0 0))).p, sr := (Hlt.thread (Hlt.tkey (dbgThread 0 0 0))).sr, pl := (Hlt.thread (Hlt.tkey (dbgThread 0 0 0))).pl, ph := (Hlt.thread (Hlt.tkey (dbgThread 0 0 0))).ph, near := (Hlt.thread (Hlt.tkey (dbgThread 0 0 0))).near, far := (Hlt.thread (Hlt.tkey (dbgThread 0 0 0))).far, lc := (Hlt.thread (Hlt.tkey (dbgThread 0 0 0))).lc, ls := (Hlt.thread (Hlt.tkey (dbgThread 0 0 0))).ls, le := (Hlt.thread (Hlt.tkey (dbgThread 0 0 0))).le, krr := (Hlt.thread (Hlt.tkey (dbgThread 0 0 0))).krr, cause := (Hlt.thread (Hlt.tkey (dbgThread 0 0 0))).cause, faddr := (Hlt.thread (Hlt.tkey (dbgThread 0 0 0))).faddr, finfo := (Hlt.thread (Hlt.tkey (dbgThread 0 0 0))).finfo, vbr := (Hlt.thread (Hlt.tkey (dbgThread 0 0 0))).vbr, esp := (Hlt.thread (Hlt.tkey (dbgThread 0 0 0))).esp, seg := (Hlt.thread (Hlt.tkey (dbgThread 0 0 0))).seg, buf := (Hlt.thread (Hlt.tkey (dbgThread 0 0 0))).buf, tlbis := (Hlt.thread (Hlt.tkey (dbgThread 0 0 0))).tlbis, err := (Hlt.thread (Hlt.tkey (dbgThread 0 0 0))).err, part := (Hlt.thread (Hlt.tkey (dbgThread 0 0 0))).part, aauFlags := (Hlt.thread (Hlt.tkey (dbgThread 0 0 0))).aauFlags : Thread } (dbgWord (dbgThread 0 0 0) (Hlt.tkey (dbgThread 0 0 0)) (Hlt.thread (Hlt.tkey (dbgThread 0 0 0))) (Hlt.putSess 2 (taken H1 XU (YCmd.debugStep 0#8 0#8 0#8)))) [] none else (Hlt.putSess 2 (taken H1 XU (YCmd.debugStep 0#8 0#8 0#8))).setThread (Hlt.tkey (dbgThread 0 0 0)) (have __src := (Hlt.putSess 2 (taken H1 XU (YCmd.debugStep 0#8 0#8 0#8))).thread (Hlt.tkey (dbgThread 0 0 0)); { st := __src.st, stopReq := __src.stopReq, pc := __src.pc, g := __src.g, g30 := __src.g30, p := __src.p, sr := __src.sr, pl := __src.pl, ph := __src.ph, near := __src.near, far := __src.far, lc := __src.lc, ls := __src.ls, le := __src.le, krr := __src.krr, cause := __src.cause, faddr := __src.faddr, finfo := __src.finfo, vbr := __src.vbr, esp := __src.esp, seg := __src.seg, buf := __src.buf, tlbis := __src.tlbis, err := __src.err, part := __src.part, aauFlags := __src.aauFlags : Thread }))).setThread (Hlt.tkey (dbgThread 0 0 0)) (have __src := (dbgSettle (dbgThread 0 0 0) 1024 (if (Hlt.thread (Hlt.tkey (dbgThread 0 0 0))).st = TState.running then coreRun ((Hlt.putSess 2 (taken H1 XU (YCmd.debugStep 0#8 0#8 0#8))).setThread (Hlt.tkey (dbgThread 0 0 0)) (have __src := (Hlt.putSess 2 (taken H1 XU (YCmd.debugStep 0#8 0#8 0#8))).thread (Hlt.tkey (dbgThread 0 0 0)); { st := __src.st, stopReq := __src.stopReq, pc := __src.pc, g := __src.g, g30 := __src.g30, p := __src.p, sr := __src.sr, pl := __src.pl, ph := __src.ph, near := __src.near, far := __src.far, lc := __src.lc, ls := __src.ls, le := __src.le, krr := __src.krr, cause := __src.cause, faddr := __src.faddr, finfo := __src.finfo, vbr := __src.vbr, esp := __src.esp, seg := __src.seg, buf := __src.buf, tlbis := __src.tlbis, err := __src.err, part := __src.part, aauFlags := __src.aauFlags : Thread })) (dbgThread 0 0 0) (Hlt.tkey (dbgThread 0 0 0)) { st := (Hlt.thread (Hlt.tkey (dbgThread 0 0 0))).st, stopReq := (Hlt.thread (Hlt.tkey (dbgThread 0 0 0))).stopReq, pc := (Hlt.thread (Hlt.tkey (dbgThread 0 0 0))).pc, g := (Hlt.thread (Hlt.tkey (dbgThread 0 0 0))).g, g30 := (Hlt.thread (Hlt.tkey (dbgThread 0 0 0))).g30, p := (Hlt.thread (Hlt.tkey (dbgThread 0 0 0))).p, sr := (Hlt.thread (Hlt.tkey (dbgThread 0 0 0))).sr, pl := (Hlt.thread (Hlt.tkey (dbgThread 0 0 0))).pl, ph := (Hlt.thread (Hlt.tkey (dbgThread 0 0 0))).ph, near := (Hlt.thread (Hlt.tkey (dbgThread 0 0 0))).near, far := (Hlt.thread (Hlt.tkey (dbgThread 0 0 0))).far, lc := (Hlt.thread (Hlt.tkey (dbgThread 0 0 0))).lc, ls := (Hlt.thread (Hlt.tkey (dbgThread 0 0 0))).ls, le := (Hlt.thread (Hlt.tkey (dbgThread 0 0 0))).le, krr := (Hlt.thread (Hlt.tkey (dbgThread 0 0 0))).krr, cause := (Hlt.thread (Hlt.tkey (dbgThread 0 0 0))).cause, faddr := (Hlt.thread (Hlt.tkey (dbgThread 0 0 0))).faddr, finfo := (Hlt.thread (Hlt.tkey (dbgThread 0 0 0))).finfo, vbr := (Hlt.thread (Hlt.tkey (dbgThread 0 0 0))).vbr, esp := (Hlt.thread (Hlt.tkey (dbgThread 0 0 0))).esp, seg := (Hlt.thread (Hlt.tkey (dbgThread 0 0 0))).seg, buf := (Hlt.thread (Hlt.tkey (dbgThread 0 0 0))).buf, tlbis := (Hlt.thread (Hlt.tkey (dbgThread 0 0 0))).tlbis, err := (Hlt.thread (Hlt.tkey (dbgThread 0 0 0))).err, part := (Hlt.thread (Hlt.tkey (dbgThread 0 0 0))).part, aauFlags := (Hlt.thread (Hlt.tkey (dbgThread 0 0 0))).aauFlags : Thread } (dbgWord (dbgThread 0 0 0) (Hlt.tkey (dbgThread 0 0 0)) (Hlt.thread (Hlt.tkey (dbgThread 0 0 0))) (Hlt.putSess 2 (taken H1 XU (YCmd.debugStep 0#8 0#8 0#8)))) [] none else (Hlt.putSess 2 (taken H1 XU (YCmd.debugStep 0#8 0#8 0#8))).setThread (Hlt.tkey (dbgThread 0 0 0)) (have __src := (Hlt.putSess 2 (taken H1 XU (YCmd.debugStep 0#8 0#8 0#8))).thread (Hlt.tkey (dbgThread 0 0 0)); { st := __src.st, stopReq := __src.stopReq, pc := __src.pc, g := __src.g, g30 := __src.g30, p := __src.p, sr := __src.sr, pl := __src.pl, ph := __src.ph, near := __src.near, far := __src.far, lc := __src.lc, ls := __src.ls, le := __src.le, krr := __src.krr, cause := __src.cause, faddr := __src.faddr, finfo := __src.finfo, vbr := __src.vbr, esp := __src.esp, seg := __src.seg, buf := __src.buf, tlbis := __src.tlbis, err := __src.err, part := __src.part, aauFlags := __src.aauFlags : Thread }))).thread (Hlt.tkey (dbgThread 0 0 0)); { st := __src.st, halted := true, stopReq := __src.stopReq, pc := __src.pc, g := __src.g, g30 := __src.g30, p := __src.p, sr := __src.sr, pl := __src.pl, ph := __src.ph, near := __src.near, far := __src.far, lc := __src.lc, ls := __src.ls, le := __src.le, krr := __src.krr, cause := __src.cause, faddr := __src.faddr, finfo := __src.finfo, vbr := __src.vbr, esp := __src.esp, seg := __src.seg, buf := __src.buf, tlbis := __src.tlbis, err := __src.err, part := __src.part, aauFlags := __src.aauFlags : Thread })).ycp.sess = (Hlt.putSess 2 (taken H1 XU (YCmd.debugStep 0#8 0#8 0#8))).ycp.sess) ∧
    (takesNow H1 2 X0 (some 8) Dcal ∧ Dcal.flag B.ycp YCP.SAFE_CTL_EN = false) ∧
    (takesNow H1 2 XU (some 7) s_6 ∧ XU.unlocked = true ∧ s_6.coreHalted 0 0 = false) ∧
    (takesNow H1 2 X0 (some 7) Dcal ∧ Dcal.ycp.lockout = false ∧ Dcal.dev.fuses.debugOff = false) ∧
    (takesNow H1 2 X0 (some 7) Dcal ∧ X0.unlocked = false ∧ Dcal.mode = mCalico ∧ Dcal.trioIn 0 = true) ∧
    (takesNow H1 2 X0 (some 7) s_1 ∧ s_1.dev.fuses.debugOff = true ∧ s_1.ycp.lockout = false) ∧
    (takesNow H1 2 X7 none s_2 ∧ nbit X7.rights 7 = false ∧ s_2.dev.fuses.debugOff = false ∧ s_2.ycp.lockout = false) ∧
    (takesNow H1 2 XU (some 7) Hlt ∧ XU.unlocked = true ∧ Hlt.coreHalted 0 0 = true) :=
  by and_intros <;> decide
end Ycp4

end Sys2Proof.Tests
end

section
/-! Pages and their registers: where a register lies in the table of registers and in the address map, and its reset value (R4, R467,
R472, R473, R481, R482). -/
namespace Sys2Proof.Machine

variable {k : Kind} {p o ty n : Nat}

/-! ### Addresses and keys -/

theorem page_add_div (ho : o < 4096) : (page p + o) / 4096 = p := by unfold page; omega

theorem page_add_mod (ho : o < 4096) : (page p + o) % 4096 = o := by unfold page; omega

/-- A page that a layout stands for lies below 0x500, and the first page of its TYPE is not behind it. -/
theorem pageKind_bounds (h : pageKind p = some (k, ty, n)) : p < 0x500 ∧ ty ≤ p := by
  unfold pageKind at h
  simp only [ite_eq_iff, Option.some.injEq, Prod.mk.injEq, reduceCtorEq, and_false, or_false] at h
  omega

theorem pageKind_lt (h : pageKind p = some (k, ty, n)) : p < 0x40000 := by
  have hb := pageKind_bounds h
  omega

/-- An address of the register space, split into page and offset as an access splits it. -/
theorem regs_addr_split {a : Nat} (ha : regsBase ≤ a) :
    a = regsBase + (page ((a - 0x40000000) / 4096) + a % 4096) := by
  unfold regsBase page at *; omega

theorem regs_addr_page (hp : p < 0x40000) (ho : o < 4096) : (regsBase + (page p + o)) / 4096 % 0x40000 = p := by
  unfold regsBase page; omega

theorem regs_addr_offset (ho : o < 4096) : (regsBase + (page p + o)) % 4096 = o := by unfold regsBase page; omega

theorem regs_addr_base (hp : p < 0x40000) (ho : o < 4096) : (regsBase + (page p + o)) / regsBase = 1 := by
  unfold regsBase page; omega

/-! ### Reset values -/

theorem State.rd_reset (key : Nat) : State.reset.rd key = regReset key := rfl

/-- A header register stands in the rows of the common header, on every page but the descriptor pages (R472). -/
theorem regRow_header (h : pageKind p = some (k, ty, n)) (hk : k ≠ .qd) (ho : o < 0x40) : regRow p o = rowIn rowsHeader o := by
  unfold regRow
  rw [h]
  split <;> simp_all

/-- A header register of a page holds its header value at reset. -/
theorem regReset_header {r : Row} (h : pageKind p = some (k, ty, n)) (hk : k ≠ .qd) (ho : o < 0x40) (hr : rowIn rowsHeader o = some r) :
    regReset (page p + o) = BitVec.ofNat 32 (headerReset p o k ty n) := by
  unfold regReset
  dsimp only
  rw [page_add_div (by omega), page_add_mod (by omega), h, regRow_header h hk ho, hr]
  exact if_pos ⟨ho, hk⟩

/-- A register of a block holds at reset what its row says, or what `specialReset` says for its page. -/
theorem regReset_block {r : Row} (h : pageKind p = some (k, ty, n)) (hr : regRow p o = some r) (ho : o < 4096) (hb : 0x40 ≤ o ∨ k = .qd) :
    regReset (page p + o) = BitVec.ofNat 32 (specialReset k p o r) := by
  unfold regReset
  dsimp only
  rw [page_add_div ho, page_add_mod ho, h, hr]
  refine if_neg fun hh => ?_
  obtain ⟨hlt, hk⟩ := hh
  rcases hb with hb | hb
  · omega
  · exact hk hb

/-- On all other layouts every register has the reset value of its row. -/
theorem specialReset_row {r : Row} (hk : k ∉ [Kind.sys, .trio, .sev, .route, .margin]) : specialReset k p o r = r.reset := by
  unfold specialReset
  split <;> simp_all

theorem pgId_reset (h : pageKind p = some (k, ty, n)) (hk : k ≠ .qd) : (State.reset.rd (page p)).toNat = p + 4096 + ty * 65536 := by
  obtain ⟨hp, hty⟩ := pageKind_bounds h
  have e : State.reset.rd (page p + 0) = BitVec.ofNat 32 (p + 4096 + ty * 65536) := regReset_header h hk (by decide) rfl
  rw [Nat.add_zero] at e
  rw [e, BitVec.toNat_ofNat, Nat.mod_eq_of_lt (by omega)]

/-- EN at reset: fixed at 1 by the layout, or trio 0. -/
theorem pgEn_reset (h : pageKind p = some (k, ty, n)) (hk : k ≠ .qd) : State.reset.pgEn p = (k.enFixed || p == 0x100) := by
  have e : State.reset.rd (page p + PG.CTL_EN.off) = BitVec.ofNat 32 (b2n (k.enFixed || p == 0x100)) :=
    regReset_header h hk (by decide) rfl
  unfold State.pgEn State.flag State.fld
  rw [e]
  cases k.enFixed || p == 0x100 <;> rfl

/-- ENABLED at reset agrees with EN: no page is under way from one to the other. -/
theorem pgEnabled_reset (h : pageKind p = some (k, ty, n)) (hk : k ≠ .qd) : State.reset.pgEnabled p = State.reset.pgEn p := by
  have e : State.reset.rd (page p + PG.STAT_ENABLED.off) = BitVec.ofNat 32 (if k.enFixed || p == 0x100 then 1 else 2) :=
    regReset_header h hk (by decide) rfl
  rw [pgEn_reset h hk]
  unfold State.pgEnabled State.flag State.fld
  rw [e]
  cases k.enFixed || p == 0x100 <;> rfl

/-- Every thread but thread 0 of trio 0 is one that no cell lists. -/
theorem thread_reset_other {j : Nat} (h : j ≠ 0) : State.reset.thread j = {} := by
  unfold State.thread State.reset Tab.get cellGet cellFind
  rw [if_neg (Ne.symm h)]
  rfl

end Sys2Proof.Machine
end

section
/-! What power-on reset leaves. -/
namespace Sys2Proof.Machine

/-- Settles O5, register by register from `regReset`: the header by `headerReset`, the blocks by their rows. -/
theorem resetLeaves : Obligations.ResetLeaves := by
  unfold Obligations.ResetLeaves
  refine ⟨by decide, by decide, ⟨rfl, rfl, rfl⟩, fun j hj => ?stopped, fun p o k ty n r hp hr ho hb hk => ?block,
    fun p k ty n hp hk => ?header, rfl, rfl, rfl, rfl, rfl, rfl, rfl⟩
  case stopped => rw [thread_reset_other hj]
  case block =>
    have hrow : specialReset k p o r = r.reset := specialReset_row (by revert hk; cases k <;> decide)
    rw [State.rd_reset, regReset_block hp hr ho hb, hrow]
  case header => exact ⟨pgId_reset hp hk, pgEn_reset hp hk, pgEnabled_reset hp hk⟩

end Sys2Proof.Machine
end

section
/-! Runs of keys put into a sparse table and taken out of it. -/
namespace Sys2Proof.Machine

variable {α : Type}

/-- After a run of entries at `b + x` was put in: the entry of the run, or as before. -/
theorem Tab.find_foldl_ins (b : Nat) (f : Nat → α) (x : Nat) : ∀ (l : List Nat) (t : Tab α),
    (l.foldl (fun u y => u.ins (b + y) (f y)) t).find (b + x) = if x ∈ l then some (f x) else t.find (b + x)
  | [], _ => by simp
  | y :: l, t => by
    rw [List.foldl_cons, Tab.find_foldl_ins b f x l]
    by_cases hl : x ∈ l
    · simp [hl]
    · by_cases hy : x = y
      · subst hy; simp
      · simp [hl, hy, Tab.find_ins_other t (show b + x ≠ b + y by omega)]

/-- After a run of entries at `b + x` was taken out: none of the run, any other as before. -/
theorem Tab.find_foldl_del (b x : Nat) : ∀ (l : List Nat) (t : Tab α),
    (l.foldl (fun u y => u.del (b + y)) t).find (b + x) = if x ∈ l then none else t.find (b + x)
  | [], _ => by simp
  | y :: l, t => by
    rw [List.foldl_cons, Tab.find_foldl_del b x l]
    by_cases hl : x ∈ l
    · simp [hl]
    · by_cases hy : x = y
      · subst hy; simp
      · simp [hl, hy, Tab.find_del_other t (show b + x ≠ b + y by omega)]

end Sys2Proof.Machine
end

section
/-! Reads of register pages: what ends waits, what a page admits, what a refusal leaves in PG_ERR (R468, R473, R474). -/
namespace Sys2Proof.Machine

variable {s : State} {w : Writer} {k : Kind} {p o ty n : Nat}

/-- A field written in place: its register. -/
theorem State.rd_setFld_same (b : Nat) (f : Fld) (v : Nat) (h : f.lo + f.wd ≤ 32) :
    ((s.setFld b f v).rd (b + f.off)).toNat = setBits (s.rd (b + f.off)).toNat f.lo f.wd v := by
  unfold State.setFld
  rw [State.rd_wr_same, BitVec.toNat_ofNat, Nat.mod_eq_of_lt (setBits_lt v (BitVec.isLt _) h)]

/-! ### The end of waits -/

@[simp] theorem wakeWaiting_regs (s : State) : (wakeWaiting s).regs = s.regs := by rw [wakeWaiting_eq]
@[simp] theorem wakeWaiting_snaps (s : State) : (wakeWaiting s).snaps = s.snaps := by rw [wakeWaiting_eq]
@[simp] theorem wakeWaiting_sent (s : State) : (wakeWaiting s).sent = s.sent := by rw [wakeWaiting_eq]
@[simp] theorem wakeWaiting_mem (s : State) : (wakeWaiting s).mem = s.mem := by rw [wakeWaiting_eq]
@[simp] theorem wakeWaiting_rd (s : State) (key : Nat) : (wakeWaiting s).rd key = s.rd key := State.rd_congr (wakeWaiting_regs s) key

/-! ### What a page admits -/

theorem readAdmits_wakeWaiting : readAdmits w p o (wakeWaiting s) = readAdmits w p o s := by
  unfold readAdmits State.rdRing
  rw [State.fld_congr (wakeWaiting_regs s)]

theorem readAdmits_of_mayRead (h : mayRead w p s) : readAdmits w p o s = true := by simp [readAdmits, h]

/-- A ring that the page does not admit reads PG_ID, PG_CAP and PG_STAT alone, and no descriptor page has these. -/
theorem readAdmits_of_not_mayRead (h : ¬ mayRead w p s) (ho : 0x400 ≤ p ∨ (o ≠ 0x000 ∧ o ≠ 0x004 ∧ o ≠ 0x00C)) :
    readAdmits w p o s = false := by
  have hr : decide (w.ring.val ≤ s.rdRing p) = false := decide_eq_false h
  unfold readAdmits
  rcases ho with hp | ⟨h0, h4, hc⟩
  · simp [hr, hp]
  · simp [hr, h0, h4, hc]

/-! ### PG_ERR -/

theorem rerr_rd_same (ho : o < 4096) (width : Bool) :
    ((rerr w p o width s).rd (page (headPage p) + PG.ERR.off)).toNat =
      min 255 (bf (s.rd (page (headPage p) + PG.ERR.off)) 0 8 + 1) + o * 2 ^ 8 + w.ring.val * 2 ^ 20 + b2n width * 2 ^ 22 := by
  have hring := w.ring.isLt
  have hwidth : b2n width ≤ 1 := by cases width <;> decide
  have hsat (x : Nat) : satInc 8 x = min 255 (x + 1) := by unfold satInc; split <;> omega
  unfold rerr
  rw [State.rd_wr_same, hsat, BitVec.toNat_ofNat, Nat.mod_eq_of_lt (by omega)]
  rfl

theorem rerr_rd_other {j : Nat} (h : j ≠ page (headPage p) + PG.ERR.off) (width : Bool) : (rerr w p o width s).rd j = s.rd j :=
  State.rd_wr_other s h _

@[simp] theorem rerr_sent (width : Bool) : (rerr w p o width s).sent = s.sent := by unfold rerr; rw [State.wr_sent]
@[simp] theorem rerr_mem (width : Bool) : (rerr w p o width s).mem = s.mem := by unfold rerr; rw [State.wr_mem]
@[simp] theorem rerr_snaps (width : Bool) : (rerr w p o width s).snaps = s.snaps := by unfold rerr; rw [State.wr_snaps]

/-! ### One access of a page that exists -/

theorem pageRead_word (hk : pageKind p = some (k, ty, n)) (ho : o < 4096) (h4 : o % 4 = 0) (hr : readAdmits w p o s = true) :
    pageRead w (regsBase + (page p + o)) .b4 s =
      ((regGet w p o (wakeWaiting s)).1.setWidth 64, (regGet w p o (wakeWaiting s)).2) := by
  have hp := pageKind_lt hk
  simp [pageRead, regs_addr_page hp ho, regs_addr_offset ho, regs_addr_base hp ho, hk, h4, readAdmits_wakeWaiting, hr]

theorem pageRead_word_refused (hk : pageKind p = some (k, ty, n)) (ho : o < 4096) (h4 : o % 4 = 0) (hr : readAdmits w p o s = false) :
    pageRead w (regsBase + (page p + o)) .b4 s = (0, rerr w p o false (wakeWaiting s)) := by
  have hp := pageKind_lt hk
  simp [pageRead, regs_addr_page hp ho, regs_addr_offset ho, regs_addr_base hp ho, hk, h4, readAdmits_wakeWaiting, hr]

theorem pageRead_width_refused {wd : AccWidth} (hk : pageKind p = some (k, ty, n)) (ho : o < 4096)
    (hw : wd = .b1 ∨ wd = .b2 ∨ (wd = .b4 ∧ o % 4 ≠ 0) ∨ (wd = .b8 ∧ o % 8 ≠ 0)) :
    pageRead w (regsBase + (page p + o)) wd s = (0, rerr w p o true (wakeWaiting s)) := by
  have hp := pageKind_lt hk
  rcases hw with rfl | rfl | ⟨rfl, hm⟩ | ⟨rfl, hm⟩ <;>
    simp_all [pageRead, regs_addr_page, regs_addr_offset, regs_addr_base]

theorem pageRead_double (hk : pageKind p = some (k, ty, n)) (ho : o < 4096) (h8 : o % 8 = 0)
    (hl : readAdmits w p o s = true) (hh : readAdmits w p (o + 4) s = true) {lo hi : W32}
    (glo : regGet w p o (wakeWaiting s) = (lo, wakeWaiting s)) (ghi : regGet w p (o + 4) (wakeWaiting s) = (hi, wakeWaiting s)) :
    pageRead w (regsBase + (page p + o)) .b8 s = (hi ++ lo, wakeWaiting s) := by
  have hp := pageKind_lt hk
  simp [pageRead, regs_addr_page hp ho, regs_addr_offset ho, regs_addr_base hp ho, hk, h8, readAdmits_wakeWaiting, hl, hh, glo, ghi]

/-! ### One register -/

theorem regGet_rc {r : Row} (hk : pageKind p = some (k, ty, n)) (hr : regRow p o = some r) (ha : r.acc = .rc) :
    regGet w p o s = (regView w k p o s, s.wr (page p + o) 0) := by
  simp [regGet, hk, hr, ha]

theorem regGet_rs {r : Row} (hk : pageKind p = some (k, ty, n)) (hr : regRow p o = some r) (ha : r.acc = .rs) :
    regGet w p o s = snapRead w k p o s := by
  simp [regGet, hk, hr, ha]

/-- A register whose reads leave everything as it is. -/
theorem regGet_view {r : Row} (hk : pageKind p = some (k, ty, n)) (hr : regRow p o = some r)
    (ha : r.acc ∈ [Acc.ro, .rw, .rwh, .w1c]) (hs : k ∉ [Kind.shaft, .timer]) :
    regGet w p o s = (regView w k p o s, s) := by
  simp only [List.mem_cons, List.not_mem_nil, or_false, not_or] at ha hs
  rcases ha with ha | ha | ha | ha <;> simp [regGet, hk, hr, ha, hs]

end Sys2Proof.Machine
end

section
/-! Snapshots of RS groups (R470): what taking one leaves, and what a read of a taken one does. -/
namespace Sys2Proof.Machine

variable {s : State} {w : Writer} {k : Kind} {p o : Nat}

/-- The state that a snapshot shows: the oldest mark has left its FIFO for the registers of MARK_INFO. -/
def snapSource (k : Kind) (o : Nat) (s : State) : State := if k = .eng ∧ 0x0A0 ≤ o then markRead s else s

/-- The state once the snapshot of a group is taken, before its last register re-arms it. -/
def snapTaken (w : Writer) (k : Kind) (p o : Nat) (s : State) : State :=
  let g := rsGroup k p o s
  let s2 := snapSource k o s
  let s3 := { s2 with snaps := g.foldl (fun t x => t.ins (page p + x) (regView w k p x s2)) s2.snaps }
  if k = .timer then tmCapTaken (tmNum p (g.getLastD o)) s3 else s3

/-- The first read of a group takes its snapshot; that of the last register re-arms it. -/
theorem snapRead_first (h : s.snaps.find (page p + o) = none) :
    snapRead w k p o s =
      (((snapTaken w k p o s).snaps.find (page p + o)).getD 0,
        if (rsGroup k p o s).getLast? = some o then
          { snapTaken w k p o s with snaps := (rsGroup k p o s).foldl (fun t x => t.del (page p + x)) (snapTaken w k p o s).snaps }
        else snapTaken w k p o s) := by
  unfold snapRead
  rw [h]
  rfl

/-- A later read answers from the snapshot and leaves the registers. -/
theorem snapRead_later {v : W32} (h : s.snaps.find (page p + o) = some v) :
    (snapRead w k p o s).1 = v ∧ (snapRead w k p o s).2.regs = s.regs ∧ (snapRead w k p o s).2.sent = s.sent := by
  unfold snapRead
  simp only [h, Option.getD_some, true_and]
  split <;> exact ⟨rfl, rfl⟩

@[simp] theorem markRead_snaps (s : State) : (markRead s).snaps = s.snaps := by
  unfold markRead
  split
  · rw [State.wr_snaps, State.wr_snaps, State.wr_snaps, State.wr_snaps]
  · rw [State.wr64_snaps, State.wr_snaps, State.wr_snaps]

@[simp] theorem markRead_sent (s : State) : (markRead s).sent = s.sent := by
  unfold markRead
  split
  · rw [State.wr_sent, State.wr_sent, State.wr_sent, State.wr_sent]
  · rw [State.wr64_sent, State.wr_sent, State.wr_sent]

@[simp] theorem snapSource_snaps (k : Kind) (o : Nat) (s : State) : (snapSource k o s).snaps = s.snaps := by
  unfold snapSource; split <;> simp
@[simp] theorem snapSource_sent (k : Kind) (o : Nat) (s : State) : (snapSource k o s).sent = s.sent := by
  unfold snapSource; split <;> simp

theorem snapTaken_sent : (snapTaken w k p o s).sent = s.sent := by
  rw [← snapSource_sent k o s]; unfold snapTaken; dsimp only; split <;> rfl

theorem snapTaken_eng : (snapTaken w k p o s).eng = (snapSource k o s).eng := by
  unfold snapTaken; dsimp only; split <;> rfl

theorem snapTaken_regs (hk : k ≠ .timer) : (snapTaken w k p o s).regs = (snapSource k o s).regs := by
  unfold snapTaken; rw [if_neg hk]

/-- Each register of the group has in its snapshot what it showed. -/
theorem snapTaken_find {x : Nat} (hx : x ∈ rsGroup k p o s) :
    (snapTaken w k p o s).snaps.find (page p + x) = some (regView w k p x (snapSource k o s)) := by
  have e : (snapTaken w k p o s).snaps =
      (rsGroup k p o s).foldl (fun t y => t.ins (page p + y) (regView w k p y (snapSource k o s))) (snapSource k o s).snaps := by
    unfold snapTaken; dsimp only; split <;> rfl
  rw [e, Tab.find_foldl_ins _ (fun y => regView w k p y (snapSource k o s)), if_pos hx]

/-- A snapshot of captures clears the four capture flags of the channel, and changes no other register (R351). -/
theorem snapTaken_timer_rd (hk : k = .timer) :
    let cap := B.timer (tmNum p ((rsGroup k p o s).getLastD o)) + TIMER.CAP_STAT.off
    (∀ j, j ≠ cap → (snapTaken w k p o s).rd j = s.rd j) ∧ ((snapTaken w k p o s).rd cap).toNat = setBits (s.rd cap).toNat 0 4 0 := by
  subst hk
  exact ⟨fun j hj => State.rd_wr_other _ hj _, State.rd_setFld_same _ ⟨0x040, 0, 4⟩ 0 (by decide)⟩

end Sys2Proof.Machine
end

section
/-! What each kind of read command does, over a register at page `p`, offset `o` (R468, R470, R473, R474). -/
namespace Sys2Proof.Machine

variable {s : State} {w : Writer} {k : Kind} {p o ty n : Nat}

theorem exec_readClear (w : Writer) (addr : BitVec 40) (s : State) :
    exec (.readClear w addr) s = .next (regOut w addr.toNat .b4 s) := rfl

theorem exec_snapshotRead (w : Writer) (addr : BitVec 40) (s : State) :
    exec (.snapshotRead w addr) s = .next (regOut w addr.toNat .b4 s) := rfl

theorem exec_pageReadRefused (w : Writer) (addr : BitVec 40) (wd : AccWidth) (s : State) :
    exec (.pageReadRefused w addr wd) s = .next (regOut w addr.toNat wd s) := rfl

theorem readClear_effect {r : Row} (hk : pageKind p = some (k, ty, n)) (ho : o < 4096) (h4 : o % 4 = 0) (hm : mayRead w p s)
    (hr : regRow p o = some r) (ha : r.acc = .rc) :
    regOut w (regsBase + (page p + o)) .b4 s =
      ((wakeWaiting s).wr (page p + o) 0).emit
        (.read (regsBase + (page p + o)) ((regView w k p o (wakeWaiting s)).setWidth 64)) := by
  unfold regOut
  rw [pageRead_word hk ho h4 (readAdmits_of_mayRead hm), regGet_rc hk hr ha]

theorem snapshotRead_effect {r : Row} (hk : pageKind p = some (k, ty, n)) (ho : o < 4096) (h4 : o % 4 = 0) (hm : mayRead w p s)
    (hr : regRow p o = some r) (ha : r.acc = .rs) :
    regOut w (regsBase + (page p + o)) .b4 s =
      (snapRead w k p o (wakeWaiting s)).2.emit
        (.read (regsBase + (page p + o)) ((snapRead w k p o (wakeWaiting s)).1.setWidth 64)) := by
  unfold regOut
  rw [pageRead_word hk ho h4 (readAdmits_of_mayRead hm), regGet_rs hk hr ha]

theorem doubleRead_effect {r q : Row} (hk : pageKind p = some (k, ty, n)) (ho : o < 4096) (h8 : o % 8 = 0) (hm : mayRead w p s)
    (hr : regRow p o = some r) (hq : regRow p (o + 4) = some q) (har : r.acc ∈ [Acc.ro, .rw, .rwh, .w1c])
    (haq : q.acc ∈ [Acc.ro, .rw, .rwh, .w1c]) (hs : k ∉ [Kind.shaft, .timer]) :
    regOut w (regsBase + (page p + o)) .b8 s =
      (wakeWaiting s).emit (.read (regsBase + (page p + o))
        (regView w k p (o + 4) (wakeWaiting s) ++ regView w k p o (wakeWaiting s))) := by
  unfold regOut
  rw [pageRead_double hk ho h8 (readAdmits_of_mayRead hm) (readAdmits_of_mayRead hm) (regGet_view hk hr har hs)
    (regGet_view hk hq haq hs)]

/-- A refused read answers 0 and leaves PG_ERR of the head page alone. -/
theorem refusedRead_effect {wd : AccWidth} {width : Bool} {m : Nat} (ho : o < 4096) (hw : b2n width = m)
    (h : pageRead w (regsBase + (page p + o)) wd s = (0, rerr w p o width (wakeWaiting s))) :
    let st := page (headPage p) + PG.ERR.off
    let t := regOut w (regsBase + (page p + o)) wd s
    t.sent = .read (regsBase + (page p + o)) 0 :: s.sent ∧
      (t.rd st).toNat = min 255 (bf (s.rd st) 0 8 + 1) + o * 2 ^ 8 + w.ring.val * 2 ^ 20 + m * 2 ^ 22 ∧
      (∀ j, j ≠ st → t.rd j = s.rd j) ∧ t.mem = s.mem ∧ t.snaps = s.snaps := by
  have e : regOut w (regsBase + (page p + o)) wd s =
      (rerr w p o width (wakeWaiting s)).emit (.read (regsBase + (page p + o)) 0) := by
    unfold regOut; rw [h]
  dsimp only
  rw [e]
  refine ⟨?_, ?_, fun j hj => ?_, ?_, ?_⟩
  · rw [State.emit_sent, rerr_sent, wakeWaiting_sent]
  · rw [State.emit_rd, rerr_rd_same ho, wakeWaiting_rd, hw]
  · rw [State.emit_rd, rerr_rd_other hj, wakeWaiting_rd]
  · rw [State.emit_mem, rerr_mem, wakeWaiting_mem]
  · rw [State.emit_snaps, rerr_snaps, wakeWaiting_snaps]

/-- The first read of an RS register answers what it shows and takes the snapshot of its group, which the read of the last register of
the group gives up again. -/
theorem firstRead_effect {r : Row} (hk : pageKind p = some (k, ty, n)) (ho : o < 4096) (h4 : o % 4 = 0) (hm : mayRead w p s)
    (hr : regRow p o = some r) (ha : r.acc = .rs) (hf : s.snaps.find (page p + o) = none) (hg : o ∈ rsGroup k p o (wakeWaiting s)) :
    let s1 := snapSource k o (wakeWaiting s)
    let g := rsGroup k p o (wakeWaiting s)
    let t := regOut w (regsBase + (page p + o)) .b4 s
    t.sent = .read (regsBase + (page p + o)) ((regView w k p o s1).setWidth 64) :: s.sent ∧
      (g.getLast? ≠ some o → ∀ x, x ∈ g → t.snaps.find (page p + x) = some (regView w k p x s1)) ∧
      (g.getLast? = some o → ∀ x, x ∈ g → t.snaps.find (page p + x) = none) ∧ t.eng = s1.eng ∧
      t.regs = (snapTaken w k p o (wakeWaiting s)).regs := by
  have hf' : (wakeWaiting s).snaps.find (page p + o) = none := by rw [wakeWaiting_snaps, hf]
  have hv : (snapRead w k p o (wakeWaiting s)).1 = regView w k p o (snapSource k o (wakeWaiting s)) := by
    rw [snapRead_first hf', snapTaken_find hg, Option.getD_some]
  dsimp only
  rw [snapshotRead_effect hk ho h4 hm hr ha, hv, snapRead_first hf']
  dsimp only
  split
  case isTrue hl =>
    refine ⟨?_, fun h => absurd hl h, fun _ x hx => ?_, snapTaken_eng, rfl⟩
    · rw [State.emit_sent, snapTaken_sent, wakeWaiting_sent]
    · rw [State.emit_snaps, Tab.find_foldl_del, if_pos hx]
  case isFalse hl =>
    refine ⟨?_, fun _ x hx => snapTaken_find hx, fun h => absurd h hl, snapTaken_eng, rfl⟩
    rw [State.emit_sent, snapTaken_sent, wakeWaiting_sent]

end Sys2Proof.Machine
end

section
/-! Reads that clear, snapshots and refused reads. -/
namespace Sys2Proof.Machine

/-- Settles O35: a lemma on the read per clause, over the page and the offset that the address splits into. -/
theorem registerReadRows : Obligations.RegisterReadRows := by
  unfold Obligations.RegisterReadRows
  intro s w addr k ty n
  dsimp only
  generalize hp : (addr.toNat - 0x40000000) / 4096 = p
  generalize hoff : addr.toNat % 4096 = o
  intro ha hk
  have ho : o < 4096 := by omega
  have haddr : addr.toNat = regsBase + (page p + o) := by rw [← hp, ← hoff]; exact regs_addr_split ha
  simp only [exec_readClear, exec_snapshotRead, exec_pageReadRefused, haddr]
  refine ⟨fun r h4 hm hr hrc => ?clear, fun r h4 hm hr hrs hf hg _ => ?first, fun r v h4 hm hr hrs hf => ?later,
    fun r q h8 hm hr hq har haq hs => ?double, fun h4 hm hn => ?ring, fun wd hw => ?width⟩
  case clear =>
    rw [readClear_effect hk ho h4 hm hr hrc]
    refine ⟨_, rfl, ?_, ?_, fun j hj => ?_⟩
    · rw [State.emit_sent, State.wr_sent, wakeWaiting_sent]
    · rw [State.emit_rd, State.rd_wr_same]
    · rw [State.emit_rd, State.rd_wr_other _ hj, wakeWaiting_rd]
  case first =>
    obtain ⟨hsent, hkeep, hdrop, heng, hregs⟩ := firstRead_effect hk ho h4 hm hr hrs hf hg
    refine ⟨_, rfl, hsent, hkeep, hdrop, heng, fun ht => hregs.trans (snapTaken_regs ht), fun ht => ?_⟩
    obtain ⟨hother, hcap⟩ := snapTaken_timer_rd (s := wakeWaiting s) (w := w) (p := p) (o := o) ht
    refine ⟨fun j hj => ?_, ?_⟩
    · rw [State.rd_congr hregs, hother j hj, wakeWaiting_rd]
    · rw [State.rd_congr hregs, hcap, wakeWaiting_rd]
  case later =>
    obtain ⟨hv, hregs, hsent⟩ := snapRead_later (w := w) (k := k) (s := wakeWaiting s) ((wakeWaiting_snaps s).symm ▸ hf)
    rw [snapshotRead_effect hk ho h4 hm hr hrs, hv]
    refine ⟨_, rfl, ?_, ?_⟩
    · rw [State.emit_sent, hsent, wakeWaiting_sent]
    · rw [State.emit_regs, hregs, wakeWaiting_regs]
  case double =>
    rw [doubleRead_effect hk ho h8 hm hr hq har haq hs]
    refine ⟨_, rfl, ?_, ?_⟩
    · rw [State.emit_sent, wakeWaiting_sent]
    · rw [State.emit_regs, wakeWaiting_regs]
  case ring =>
    exact ⟨_, rfl, refusedRead_effect ho rfl
      (pageRead_word_refused hk ho h4 (readAdmits_of_not_mayRead hm hn))⟩
  case width => exact ⟨_, rfl, refusedRead_effect ho rfl (pageRead_width_refused hk ho hw)⟩

end Sys2Proof.Machine
end

section
/-! What the operations of the collector, the ring ports, the trios, the lanes and the self-test leave alone: the registers of clocks,
resets, modes and severities, memory, and the device's own state. -/
namespace Sys2Proof.Machine

/-- A key that these operations may write: a register from page 0x003 on but for fault word, fault record and severities. In a collector
cycle (`c`) they also write the record. -/
def Open (c : Bool) (k : Nat) : Prop := (0x3000 ≤ k ∧ k < 0x11000) ∨ 0x14000 ≤ k ∨ (c = true ∧ 0x12000 ≤ k ∧ k < 0x13000)

/-- A key whose register they keep. -/
def Shut (c : Bool) (k : Nat) : Prop := k < 0x3000 ∨ k / 4096 = 0x13 ∨ (c = false ∧ (k / 4096 = 0x11 ∨ k / 4096 = 0x12))

/-- `t` is what such operations leave of `s`. A waiting PER_CTL is the one thing of the device's own state that they take. -/
structure Keeps (c : Bool) (s t : State) : Prop where
  rd : ∀ k, Shut c k → t.rd k = s.rd k
  live : ∀ n, n < 512 → s.live n = true → t.live n = true
  mem : t.mem = s.mem
  dev : t.dev = { s.dev with perCtl := t.dev.perCtl }
  now : t.now = s.now
  ycp : t.ycp = s.ycp
  avs : ∀ mv, .avs mv ∈ t.sent → .avs mv ∈ s.sent
  stop : s.stopDue = true → t.stopDue = true

/-- The same where they leave the threads alone, and no trio is lost or comes back. -/
structure Runs (c : Bool) (s t : State) : Prop extends Keeps c s t where
  threads : t.threads = s.threads
  lost : ∀ n, (t.trio n).lost = (s.trio n).lost

variable {c : Bool} {s t u : State}

theorem Keeps.refl (s : State) : Keeps c s s := ⟨fun _ _ => rfl, fun _ _ h => h, rfl, rfl, rfl, rfl, fun _ h => h, id⟩
theorem Runs.refl (s : State) : Runs c s s := ⟨Keeps.refl s, rfl, fun _ => rfl⟩

theorem Keeps.trans (h : Keeps c s t) (k : Keeps c t u) : Keeps c s u where
  rd j hj := (k.rd j hj).trans (h.rd j hj)
  live n hn hl := k.live n hn (h.live n hn hl)
  mem := k.mem.trans h.mem
  dev := by rw [k.dev, h.dev]
  now := k.now.trans h.now
  ycp := k.ycp.trans h.ycp
  avs mv hm := h.avs mv (k.avs mv hm)
  stop hs := k.stop (h.stop hs)

theorem Runs.trans (h : Runs c s t) (k : Runs c t u) : Runs c s u :=
  ⟨h.toKeeps.trans k.toKeeps, k.threads.trans h.threads, fun n => (k.lost n).trans (h.lost n)⟩

/-- What such operations keep of the device's own state. -/
theorem Keeps.devEq {α : Type} (h : Keeps c s t) (f : Dev → α) (hf : ∀ d p, f { d with perCtl := p } = f d) : f t.dev = f s.dev := by
  rw [h.dev, hf]

theorem Keeps.fld {b : Nat} {f : Fld} (h : Keeps c s t) (hk : Shut c (b + f.off)) : t.fld b f = s.fld b f := by
  unfold State.fld; rw [h.rd _ hk]

theorem Keeps.flag {b : Nat} {f : Fld} (h : Keeps c s t) (hk : Shut c (b + f.off)) : t.flag b f = s.flag b f := by
  unfold State.flag; rw [h.fld hk]

theorem Keeps.mode (h : Keeps c s t) : t.mode = s.mode := h.fld (.inl (by decide))

theorem Runs.thread (h : Runs c s t) (k : Nat) : t.thread k = s.thread k := State.thread_congr h.threads k

/-- Outside a collector cycle more is kept. -/
theorem Keeps.weaken (h : Keeps false s t) : Keeps c s t where
  rd k hk := h.rd k (by
    rcases hk with hk | hk | ⟨_, hk⟩
    exacts [.inl hk, .inr (.inl hk), .inr (.inr ⟨rfl, hk⟩)])
  live := h.live
  mem := h.mem
  dev := h.dev
  now := h.now
  ycp := h.ycp
  avs := h.avs
  stop := h.stop

theorem Runs.weaken (h : Runs false s t) : Runs c s t := ⟨h.toKeeps.weaken, h.threads, h.lost⟩

/-! ### The keys of the blocks -/

theorem open_high {b o : Nat} (h : 0x14000 ≤ b) : Open c (b + o) := .inr (.inl (by omega))
theorem open_coll {o : Nat} (h : o < 4096 := by decide) : Open c (B.coll + o) := .inl (by unfold B.coll page; omega)
theorem open_recd {o : Nat} (h : o < 4096 := by decide) : Open true (B.recd + o) := .inr (.inr ⟨rfl, by unfold B.recd page; omega⟩)

theorem high_page {p : Nat} (h : 0x14 ≤ p) : 0x14000 ≤ page p := by unfold page; omega
theorem high_ring (r : Nat) : 0x14000 ≤ B.ring r := by unfold B.ring page; omega
theorem high_trio (n : Nat) : 0x14000 ≤ B.trio n := by unfold B.trio page; omega
theorem high_lane (l : Nat) : 0x14000 ≤ B.lane l := by unfold B.lane page; omega
theorem high_qd (q : Nat) : 0x14000 ≤ B.qd q := by unfold B.qd page; omega
theorem high_eth (p : Nat) : 0x14000 ≤ B.eth p := by unfold B.eth page; omega
theorem high_bist : 0x14000 ≤ B.bist := by decide
theorem high_intd : 0x14000 ≤ B.intd := by decide
theorem high_eng : 0x14000 ≤ B.eng := by decide
theorem high_net : 0x14000 ≤ B.net := by decide

/-! ### Writes -/

theorem shut_ne_open {k j : Nat} (hk : Open c k) (hj : Shut c j) : j ≠ k := by
  rintro rfl
  rcases hk with hk | hk | ⟨hc, hk⟩ <;> rcases hj with hj | hj | ⟨hd, hj⟩ <;> first | omega | simp_all

theorem liveFld_key {n : Nat} (hn : n < 512) : 0x11000 ≤ B.fsw + (liveFld n).off ∧ B.fsw + (liveFld n).off < 0x12000 := by
  unfold B.fsw page liveFld; dsimp only; omega

theorem live_wr {k n : Nat} {v : W32} (hk : k < 0x11000 ∨ 0x12000 ≤ k) (hn : n < 512) : (s.wr k v).live n = s.live n := by
  obtain ⟨h1, h2⟩ := liveFld_key hn
  unfold State.live State.flag
  rw [State.fld_wr_off s (b := B.fsw) (f := liveFld n) v (by omega)]

theorem Keeps.wr {k : Nat} {v : W32} (h : Keeps c s t) (hk : Open c k) : Keeps c s (t.wr k v) :=
  h.trans {
    rd := fun j hj => State.rd_wr_other t (shut_ne_open hk hj) v
    live := fun n hn hl => by rw [live_wr (by unfold Open at hk; omega) hn, hl]
    mem := rfl, dev := rfl, now := rfl, ycp := rfl, avs := fun _ hm => hm, stop := id }

theorem Runs.wr {k : Nat} {v : W32} (h : Runs c s t) (hk : Open c k) : Runs c s (t.wr k v) :=
  ⟨h.toKeeps.wr hk, h.threads, h.lost⟩

theorem Runs.setFld {b v : Nat} {f : Fld} (h : Runs c s t) (hk : Open c (b + f.off)) : Runs c s (t.setFld b f v) := h.wr hk
theorem Runs.high {b v : Nat} {f : Fld} (h : Runs c s t) (hb : 0x14000 ≤ b) : Runs c s (t.setFld b f v) := h.wr (open_high hb)
theorem Runs.collFld {v : Nat} {f : Fld} (h : Runs c s t) (ho : f.off < 4096 := by decide) : Runs c s (t.setFld B.coll f v) :=
  h.wr (open_coll ho)
/-- A field of COLL.STAT, whatever pair it belongs to. -/
theorem Runs.pairFld {v lo wd : Nat} (h : Runs c s t) : Runs c s (t.setFld B.coll ⟨0x040, lo, wd⟩ v) :=
  h.wr (open_coll (o := 0x040))
theorem Runs.recdFld {v : Nat} {f : Fld} (h : Runs true s t) (ho : f.off < 4096 := by decide) : Runs true s (t.setFld B.recd f v) :=
  h.wr (open_recd ho)
theorem Runs.recdWr {o : Nat} {v : W32} (h : Runs true s t) (ho : o < 4096 := by decide) : Runs true s (t.wr (B.recd + o) v) :=
  h.wr (open_recd ho)

theorem Runs.recd64 {o : Nat} {v : W64} (h : Runs true s t) (ho : o + 4 < 4096 := by decide) : Runs true s (t.wr64 (B.recd + o) v) :=
  (h.recdWr (by omega)).recdWr ho

theorem Runs.irq {n : Nat} (h : Runs c s t) : Runs c s (t.irq n) := by
  unfold State.irq
  split
  · exact h
  · exact h.high high_intd

/-! ### Updates of other fields -/

/-- An update of fields that the relation does not speak of. -/
theorem Runs.other (h : Runs c s t) (hu : u = { t with freeCtr := u.freeCtr, raised := u.raised, fab := u.fab, eng := u.eng, seq := u.seq, rings := u.rings, timers := u.timers, net := u.net } := by rfl) :
    Runs c s u := by
  rw [hu]
  exact h.trans ⟨⟨fun _ _ => rfl, fun _ _ hl => hl, rfl, rfl, rfl, rfl, fun _ hm => hm, id⟩, rfl, fun _ => rfl⟩

theorem Runs.setRing {r : Nat} {x : Ring} (h : Runs c s t) : Runs c s (t.setRing r x) := h.other
theorem Runs.raiseA {a : Assertion} (h : Runs c s t) : Runs c s (t.raiseA a) := h.other
theorem Runs.raise {n : Nat} (h : Runs c s t) : Runs c s (t.raise n) := h.other
theorem Runs.raiseUnit {n k v : Nat} (h : Runs c s t) : Runs c s (t.raiseUnit n k v) := h.other
theorem Runs.free (h : Runs c s t) : Runs c s t.free.2 := h.other
theorem Runs.setQueue {q : Nat} {x : Queue} (h : Runs c s t) : Runs c s (t.setQueue q x) := h.other

/-- What leaves the device is no voltage. -/
theorem Runs.emit {o : Output} (h : Runs c s t) (ho : ∀ mv, o ≠ .avs mv) : Runs c s (t.emit o) :=
  h.trans ⟨⟨fun _ _ => rfl, fun _ _ hl => hl, rfl, rfl, rfl, rfl,
    fun mv hm => (List.mem_cons.1 hm).resolve_left (fun e => ho mv e.symm), id⟩, rfl, fun _ => rfl⟩

theorem Runs.setTrio {n : Nat} {x : Trio} (h : Runs c s t) (hx : x.lost = (t.trio n).lost) : Runs c s (t.setTrio n x) := by
  refine h.trans ⟨⟨fun _ _ => rfl, fun _ _ hl => hl, rfl, rfl, rfl, rfl, fun _ hm => hm, id⟩, rfl, fun m => ?_⟩
  by_cases hm : m = n
  · rw [hm, State.setTrio_same, hx]
  · rw [State.setTrio_other _ hm]

theorem Runs.perCtl {p : Option W32} (h : Runs c s t) : Runs c s { t with dev := { t.dev with perCtl := p } } :=
  h.trans ⟨⟨fun _ _ => rfl, fun _ _ hl => hl, rfl, rfl, rfl, rfl, fun _ hm => hm, id⟩, rfl, fun _ => rfl⟩

theorem stopDue_modColl {f : Coll → Coll} (hf : ∀ x : Coll, x.stop = true → (f x).stop = true) (h : s.stopDue = true) :
    (s.modColl f).stopDue = true := by
  unfold State.stopDue State.bothColl State.modColl at *
  simp only [Bool.and_eq_true] at *
  exact ⟨hf _ h.1, hf _ h.2⟩

theorem Runs.modColl {f : Coll → Coll} (h : Runs c s t) (hf : ∀ x : Coll, x.stop = true → (f x).stop = true) : Runs c s (t.modColl f) :=
  h.trans ⟨⟨fun _ _ => rfl, fun _ _ hl => hl, rfl, rfl, rfl, rfl, fun _ hm => hm, stopDue_modColl hf⟩, rfl, fun _ => rfl⟩

/-! ### Folds -/

theorem Runs.foldl {α : Type} {f : State → α → State} (hf : ∀ {a : State} (x : α), Runs c s a → Runs c s (f a x)) :
    ∀ {l : List α} {t : State}, Runs c s t → Runs c s (l.foldl f t)
  | [], _, h => h
  | x :: l, _, h => Runs.foldl hf (l := l) (hf x h)

theorem Keeps.foldl {α : Type} {f : State → α → State} (hf : ∀ {a : State} (x : α), Keeps c s a → Keeps c s (f a x)) :
    ∀ {l : List α} {t : State}, Keeps c s t → Keeps c s (l.foldl f t)
  | [], _, h => h
  | x :: l, _, h => Keeps.foldl hf (l := l) (hf x h)

theorem Runs.ite {p : Prop} [Decidable p] {a b : State} (ha : Runs c s a) (hb : Runs c s b) : Runs c s (if p then a else b) := by
  split <;> assumption

end Sys2Proof.Machine
end

section
/-! Ring ports and queues keep what `Runs` says (R253, R309 to R332). -/
namespace Sys2Proof.Machine

variable {c : Bool} {s t : State}

theorem lineRefresh_runs {r : Nat} (h : Runs c s t) : Runs c s (lineRefresh r t) := .ite h (h.high (high_ring r))

theorem ringsMode_runs (h : Runs c s t) : Runs c s (ringsMode t) := Runs.foldl (fun _ => lineRefresh_runs) h

theorem safePattern_runs {r : Nat} (h : Runs c s t) : Runs c s (safePattern r t) := .ite (h.emit (by rintro _ ⟨⟩)) h

theorem ringFinish_runs {r : Nat} {e : Bool} {k : Code} (h : Runs c s t) : Runs c s (ringFinish r e k t) :=
  have h2 : Runs c s _ := ((h.setRing.high (high_ring r)).high (high_ring r)).irq
  lineRefresh_runs (.ite h2.raiseUnit h2)

theorem safeAsserts_runs {r : Nat} (h : Runs c s t) : Runs c s (safeAsserts r t) := by
  unfold safeAsserts
  dsimp only
  have h1 {x : Ring} {p : Prop} [Decidable p] {l : List Bool} : Runs c s ((if p then t.emit (.ringCut r l) else t).setRing r x) :=
    (Runs.ite (h.emit (by rintro _ ⟨⟩)) h).setRing
  split
  · exact ringFinish_runs h1
  · exact h1

theorem safeLines_runs {on : Bool} (h : Runs c s t) : Runs c s (safeLines on t) :=
  Runs.foldl (fun _ ha => .ite ha (.ite (safePattern_runs (lineRefresh_runs (safeAsserts_runs ha))) (lineRefresh_runs ha.setRing))) h

theorem ringEndOut_runs {r : Nat} (h : Runs c s t) : Runs c s (ringEndOut r t) := .ite h (.ite h.setRing (.ite h.setRing h))

theorem putQueue_runs {q : Nat} {x : Queue} (h : Runs c s t) : Runs c s (t.putQueue q x) :=
  (h.setQueue.high (high_qd q)).high (high_qd q)

theorem putEnts_runs {q : Nat} {l : List QEnt} (h : Runs c s t) : Runs c s (t.putEnts q l) :=
  .ite (putQueue_runs h) ((putQueue_runs h).high (high_qd q))

theorem returnFlights_runs (h : Runs c s t) : Runs c s (returnFlights t) :=
  Runs.foldl (fun _ ha => ha.setRing) (Runs.foldl (fun _ => putEnts_runs) h).other

end Sys2Proof.Machine
end

section
/-! The collector keeps what `Runs` says (R403 to R428), and its cycles make every waiting source live. -/
namespace Sys2Proof.Machine

variable {c : Bool} {s t : State}

theorem faultBalls_runs (h : Runs c s t) : Runs c s (faultBalls t) := by
  unfold faultBalls
  exact Runs.collFld (f := COLL.STAT_FAULT_RUN) (h.modColl (fun _ hx => hx))

theorem collRefresh_runs (h : Runs c s t) : Runs c s (collRefresh t) :=
  have h1 : Runs c s _ := (h.collFld.collFld).collFld
  faultBalls_runs (.ite (safeLines_runs h1) h1)

theorem pairStop_runs {n : Nat} (h : Runs c s t) : Runs c s (pairStop n t) := .ite h.pairFld.pairFld.irq h.pairFld
theorem pairRun_runs {n : Nat} (h : Runs c s t) : Runs c s (pairRun n t) := .ite h h.pairFld.irq
theorem pairBegin_runs {n : Nat} (h : Runs c s t) : Runs c s (pairBegin n t) := .ite h (.ite (pairStop_runs h) h.pairFld)
theorem pairsBegin_runs {m : Nat} (h : Runs c s t) : Runs c s (pairsBegin m t) := Runs.foldl (fun _ ha => .ite (pairBegin_runs ha) ha) h
theorem ss1Check_runs (h : Runs c s t) : Runs c s (ss1Check t) := Runs.foldl (fun _ ha => .ite (pairStop_runs ha) ha) h

theorem collMode_runs {b : Bool} (h : Runs c s t) : Runs c s (collMode b t) :=
  faultBalls_runs (.ite h (.ite (Runs.foldl (fun _ ha => .ite ha (pairStop_runs ha)) h)
    (Runs.foldl (fun _ ha => .ite (pairRun_runs ha) ha) h)))

theorem degradeUnit_runs {a : Assertion} (h : Runs c s t) : Runs c s (degradeUnit a t) := by
  unfold degradeUnit
  refine .ite ?_ (.ite (ringEndOut_runs h) h)
  split
  · exact .ite h.other h
  · exact h

theorem safeStop_runs (h : Runs c s t) : Runs c s (safeStop t) :=
  safeLines_runs (pairsBegin_runs (h.collFld.modColl (fun _ _ => rfl)))

theorem recOpen_runs {a : Raised} (h : Runs true s t) : Runs true s (recOpen a t) := by
  unfold recOpen
  extract_lets n info s1 s2 s3
  have h3 : Runs true s s3 := h.recdWr.recdWr.recd64
  have htime : Runs true s (if t.dev.rootLost then (t.now + 800 * s3.free.1, s3.free.2) else (a.time, s3)).2 := by
    split
    · exact h3.free
    · exact h3
  generalize (if t.dev.rootLost then (t.now + 800 * s3.free.1, s3.free.2) else (a.time, s3)) = x at htime
  obtain ⟨tm, s4⟩ := x
  exact (Runs.recdFld (htime.recd64.recdWr.recdWr)).irq

theorem recMerge_runs {n : Nat} (h : Runs true s t) : Runs true s (recMerge n t) := by
  unfold recMerge State.incSat
  exact ((h.recdFld.recdFld).recdFld).irq

theorem recordAll_runs {as : List Raised} (h : Runs true s t) : Runs true s (recordAll t as) := by
  have merge {l : List Raised} {u : State} (hu : Runs true s u) : Runs true s (l.foldl (fun c a => recMerge a.src.toNat c) u) :=
    Runs.foldl (fun _ => recMerge_runs) hu
  unfold recordAll
  split
  · exact merge h
  · split
    · exact merge (recOpen_runs h)
    · exact Runs.foldl (fun _ ha => ha.collFld) h

theorem liveFld_wide (n : Nat) : (liveFld n).lo + (liveFld n).wd ≤ 32 := by unfold liveFld; dsimp only; omega

theorem live_set_same (n : Nat) : (s.setFld B.fsw (liveFld n) 1).live n = true := by
  unfold State.live State.flag
  rw [State.fld_setFld_same _ _ _ _ (liveFld_wide n)]
  rfl

theorem live_set_other {n m : Nat} (hm : m ≠ n) : (s.setFld B.fsw (liveFld n) 1).live m = s.live m := by
  unfold State.live State.flag
  by_cases ho : (liveFld m).off = (liveFld n).off
  · rw [State.fld_setFld_apart _ _ _ ho (liveFld_wide n) (by unfold liveFld at *; dsimp only at *; omega)]
  · rw [State.fld_setFld_off _ _ (by omega)]

/-- A source becomes live: of the fault word nothing else changes, and no other register does. -/
theorem setLive_runs {n : Nat} (hn : n < 512) (h : Runs true s t) : Runs true s (t.setFld B.fsw (liveFld n) 1) := by
  refine h.trans ⟨⟨fun j hj => ?_, fun m _ hl => ?_, rfl, rfl, rfl, rfl, fun _ hm => hm, id⟩, rfl, fun _ => rfl⟩
  · obtain ⟨h1, h2⟩ := liveFld_key hn
    refine State.rd_setFld_off _ _ (fun e => ?_)
    rcases hj with hj | hj | ⟨hj, _⟩
    · omega
    · omega
    · cases hj
  · by_cases hm : m = n
    · rw [hm, live_set_same]
    · rw [live_set_other hm, hl]

theorem src_lt (a : Assertion) : a.src.toNat < 512 := a.src.isLt

/-- A reaction once its source is live. -/
theorem react_live_runs {a : Assertion} (h : Runs true s (t.setFld B.fsw (liveFld a.src.toNat) 1)) : Runs true s (react a t) :=
  have h2 : Runs true s (if 2 ≤ t.sev a.src.toNat then (degradeUnit a (t.setFld B.fsw (liveFld a.src.toNat) 1)).irq 498
      else t.setFld B.fsw (liveFld a.src.toNat) 1) := .ite (degradeUnit_runs h).irq h
  .ite (safeStop_runs h2) h2

theorem react_runs {a : Assertion} (h : Runs true s t) : Runs true s (react a t) := react_live_runs (setLive_runs (src_lt a) h)

/-- The reaction to a source leaves it live. -/
theorem react_live (a : Assertion) (s : State) : (react a s).live a.src.toNat = true :=
  (react_live_runs (t := s) (Runs.refl _)).live _ (src_lt a) (live_set_same _)

theorem safeStop_stop (s : State) : (safeStop s).stopDue = true := by
  have h : Runs false _ (safeStop s) := safeLines_runs (pairsBegin_runs (Runs.refl _))
  exact h.stop rfl

/-- A source of severity 3 makes both copies of the collector decide a Safe stop (R418). -/
theorem react_stop {a : Assertion} (h : s.sev a.src.toNat = 3) : (react a s).stopDue = true := by
  unfold react
  dsimp only
  rw [if_pos h]
  exact safeStop_stop _

/-- Severities are read, never written, in a cycle. -/
theorem Keeps.sev (h : Keeps c s t) {n : Nat} (hn : n < 512) : t.sev n = s.sev n :=
  h.fld (.inr (.inl (by unfold B.sev page; dsimp only; omega)))

theorem reacts_runs {as : List Raised} (h : Runs true s t) : Runs true s (as.foldl (fun c a => react a.toAssertion c) t) :=
  Runs.foldl (fun _ => react_runs) h

/-- After the reactions every source taken is live, and one of severity 3 has decided a Safe stop. -/
theorem reacts_effect {x : Raised} {as : List Raised} (hx : x ∈ as) (s : State) :
    (as.foldl (fun c a => react a.toAssertion c) s).live x.src.toNat = true ∧
      (s.sev x.src.toNat = 3 → (as.foldl (fun c a => react a.toAssertion c) s).stopDue = true) := by
  induction as generalizing s with
  | nil => cases hx
  | cons a as ih =>
    rw [List.foldl_cons]
    rcases List.mem_cons.1 hx with rfl | hx
    · have hrest : Runs true _ _ := reacts_runs (as := as) (Runs.refl (react x.toAssertion s))
      exact ⟨hrest.live _ (src_lt _) (react_live _ _), fun h3 => hrest.stop (react_stop h3)⟩
    · obtain ⟨hl, hs⟩ := ih hx (react a.toAssertion s)
      refine ⟨hl, fun h3 => hs ?_⟩
      rw [(react_runs (Runs.refl s)).toKeeps.sev (src_lt _), h3]

theorem mem_insSource {a x : Raised} : ∀ {l : List Raised}, x ∈ insSource a l ↔ x = a ∨ x ∈ l
  | [] => by simp [insSource]
  | b :: t => by
    unfold insSource
    split
    · simp
    · rw [List.mem_cons, mem_insSource, List.mem_cons]; tauto

theorem mem_sortSources {x : Raised} : ∀ {l : List Raised}, x ∈ l.foldr insSource [] ↔ x ∈ l
  | [] => Iff.rfl
  | a :: l => by rw [List.foldr_cons, mem_insSource, mem_sortSources, List.mem_cons]

/-- The waiting sources as a cycle begins. -/
def cycleStart (s : State) : State := if s.coll = s.coll2 then s else s.raise 5

/-- The sources that a cycle takes, in order. -/
def cycleSources (s : State) : List Raised :=
  ((cycleStart s).raised.filter (fun a => (sevOf a.src.toNat).isSome)).foldr insSource []

/-- A cycle's state before the reactions. -/
def cycleRecorded (s : State) : State := recordAll (ss1Check { cycleStart s with raised := [] }) (cycleSources s)

theorem collCycle_eq (s : State) :
    collCycle s = collRefresh ((cycleSources s).foldl (fun c a => react a.toAssertion c) (cycleRecorded s)) := rfl

theorem cycleStart_runs (h : Runs c s t) : Runs c s (cycleStart t) := .ite h h.raise

theorem cycleRecorded_runs (h : Runs true s t) : Runs true s (cycleRecorded t) :=
  recordAll_runs (ss1Check_runs (cycleStart_runs h).other)

theorem collCycle_runs (h : Runs true s t) : Runs true s (collCycle t) :=
  collRefresh_runs (reacts_runs (cycleRecorded_runs h))

/-- Every source that waits is live after the cycle; one of severity 3 decides a Safe stop (R403, R413, R418). -/
theorem collCycle_effect {x : Raised} (hx : x ∈ s.raised) (hn : (sevOf x.src.toNat).isSome) :
    (collCycle s).live x.src.toNat = true ∧ (s.sev x.src.toNat = 3 → (collCycle s).stopDue = true) := by
  have hmem : x ∈ cycleSources s := by
    unfold cycleSources
    rw [mem_sortSources, List.mem_filter]
    refine ⟨?_, hn⟩
    unfold cycleStart
    split
    · exact hx
    · exact List.mem_append_left _ hx
  obtain ⟨hl, hs⟩ := reacts_effect hmem (cycleRecorded s)
  have hend : Runs true _ (collCycle s) := collRefresh_runs (Runs.refl _)
  refine ⟨hend.live _ (src_lt _) hl, fun h3 => hend.stop (hs ?_)⟩
  rw [(cycleRecorded_runs (Runs.refl s)).toKeeps.sev (src_lt _), h3]

end Sys2Proof.Machine
end

section
/-! Slices, lanes, hand-overs and units that fail keep what `Runs` or `Keeps` says (R35, R70 to R73, R278, R444, R445). -/
namespace Sys2Proof.Machine

variable {c : Bool} {s t : State}

theorem Runs.bistFld {v : Nat} {f : Fld} (h : Runs c s t) : Runs c s (t.setFld B.bist f v) := h.high high_bist
theorem Runs.trioFld {n v : Nat} {f : Fld} (h : Runs c s t) : Runs c s (t.setFld (B.trio n) f v) := h.high (high_trio n)
theorem Runs.laneFld {l v : Nat} {f : Fld} (h : Runs c s t) : Runs c s (t.setFld (B.lane l) f v) := h.high (high_lane l)

theorem lanesShow_runs (h : Runs c s t) : Runs c s (lanesShow t) := h.bistFld

theorem activeRefresh_runs (h : Runs c s t) : Runs c s (activeRefresh t) := by
  unfold activeRefresh
  dsimp only
  split
  · exact h.bistFld
  · exact .ite h.bistFld (lanesShow_runs (h.bistFld.perCtl.wr (open_high high_bist)))

theorem sliceAbort_runs {u : Nat} (h : Runs c s t) : Runs c s (sliceAbort u t) := .ite (activeRefresh_runs h.bistFld) h
theorem abortAll_runs (h : Runs c s t) : Runs c s (abortAll t) := Runs.foldl (fun _ => sliceAbort_runs) h
theorem abortCores_runs {n : Nat} (h : Runs c s t) : Runs c s (abortCores n t) := Runs.foldl (fun _ => sliceAbort_runs) h

theorem fewCheck_runs (h : Runs c s t) : Runs c s (fewCheck t) := .ite (Runs.raise h.other) h.other

theorem lanesTestRefresh_runs (h : Runs c s t) : Runs c s (lanesTestRefresh t) := .ite h (lanesShow_runs h).irq

theorem lanesRefresh_runs (h : Runs c s t) : Runs c s (lanesRefresh t) := by
  unfold lanesRefresh
  exact fewCheck_runs (lanesTestRefresh_runs (Runs.foldl (fun _ ha => ha.laneFld)
    (Runs.foldl (fun _ ha => .ite ha (.ite ha.laneFld.irq ha.laneFld.irq.raiseUnit)) h)))

theorem slicesEnd_runs (h : Runs c s t) : Runs c s (slicesEnd t) :=
  lanesRefresh_runs (Runs.foldl (fun _ ha => ha.laneFld) (abortAll_runs h))

theorem Runs.target {n : Nat} {g : Option Nat} (h : Runs c s t) : Runs c s (t.setTrio n { t.trio n with target := g }) := h.setTrio rfl

theorem handTo_runs {n k : Nat} (h : Runs c s t) : Runs c s (handTo n k t) :=
  .ite (.ite h h.target.trioFld) (abortCores_runs h.target.trioFld)

theorem handAll_runs {m : Nat} (h : Runs c s t) : Runs c s (handAll m t) := by
  refine Runs.foldl (fun _ ha => .ite ?_ ha) h
  split
  · exact handTo_runs ha.trioFld
  · exact ha

theorem laneFails_runs {l src : Nat} (h : Runs c s t) : Runs c s (laneFails l src t) :=
  lanesRefresh_runs h.laneFld.laneFld.raiseUnit

theorem trioEvt_runs {n k e src : Nat} (h : Runs c s t) : Runs c s (trioEvt n k e src t) :=
  Runs.raiseUnit (((h.wr (open_high (high_trio n))).wr (by unfold Open B.trio page; omega)).wr (open_high (high_trio n)))

theorem setStat_runs {p e q : Nat} (hp : 0x14 ≤ p) (h : Runs c s t) : Runs c s (setStat p e q t) :=
  (h.high (high_page hp)).high (high_page hp)

/-! ### Threads that take SR.CE -/

theorem Keeps.threads {x : Tab Thread} (h : Keeps c s t) : Keeps c s { t with threads := x } :=
  h.trans ⟨fun _ _ => rfl, fun _ _ hl => hl, rfl, rfl, rfl, rfl, fun _ hm => hm, id⟩

theorem setCe_keeps (h : Keeps c s t) : Keeps c s (setCe t) := by
  refine Keeps.foldl (fun x ha => ?_) h
  split
  · exact ha
  all_goals exact ha.threads

/-! ### Units that fail at boot -/

theorem Keeps.setTrio {n : Nat} {x : Trio} (h : Keeps c s t) : Keeps c s (t.setTrio n x) :=
  h.trans ⟨fun _ _ => rfl, fun _ _ hl => hl, rfl, rfl, rfl, rfl, fun _ hm => hm, id⟩

theorem Runs.after (h : Keeps c s t) {u : State} (k : Runs c t t → Runs c t u) : Keeps c s u := h.trans (k (Runs.refl t)).toKeeps

theorem identityLost_keeps {n : Nat} (h : Keeps c s t) : Keeps c s (identityLost n t) := by
  unfold identityLost
  split
  · exact h
  · exact Runs.after h.setTrio (fun r => trioEvt_runs r.trioFld)

theorem bootTrioFails_keeps {n : Nat} {ok : Bool} (h : Keeps c s t) : Keeps c s (bootTrioFails n ok t) := by
  unfold bootTrioFails
  split
  · have h1 : Keeps c s (t.setFld B.bist BIST.SPARE_STAT_FAILED 1) := Runs.after h (fun r => r.bistFld)
    dsimp only
    split
    · exact identityLost_keeps h1
    · exact h1
  · split
    · exact h
    · split
      · exact Runs.after h (fun r => trioEvt_runs r.trioFld.trioFld.trioFld.trioFld)
      · exact identityLost_keeps h

theorem bootAauFails_keeps {u : Nat} {ok : Bool} (h : Keeps c s t) : Keeps c s (bootAauFails u ok t) := by
  unfold bootAauFails
  split
  · have h1 : Keeps c s _ := bootTrioFails_keeps (n := u) (ok := ok)
      (Runs.after h (fun r => r.raiseUnit (n := 16 + 12 * u + 8) (k := 1) (v := u)))
    dsimp only
    split
    · exact h1
    · exact Runs.after h1 (fun r => r.trioFld.trioFld)
  · exact Runs.after h laneFails_runs

theorem unitPage_open {u p : Nat} (h : unitPage u = some p) : Open c (page p + PG.STAT_FAULTED.off) := by
  have hp : p = 3 ∨ 0x14 ≤ p := by
    unfold unitPage at h
    simp only [ite_eq_iff, Option.some.injEq, reduceCtorEq, and_false, or_false] at h
    omega
  rcases hp with rfl | hp
  · exact .inl (by decide)
  · exact open_high (high_page hp)

theorem bootUnitFails_keeps {ok : Bool} {u : Nat} (h : Keeps c s t) : Keeps c s (bootUnitFails ok u t) := by
  unfold bootUnitFails
  extract_lets s1 s2
  have h1 : Keeps c s s1 := Runs.after h (fun r => .ite r.bistFld r)
  have h2 : Keeps c s s2 := Runs.after h1 Runs.raise
  split
  · exact bootTrioFails_keeps h1
  split
  · exact Runs.after h1 laneFails_runs
  split
  · exact bootAauFails_keeps h1
  split
  · exact h2.wr (unitPage_open (by assumption))
  · exact h2

theorem arrayFails_keeps {ok : Bool} {i : Nat} (h : Keeps c s t) : Keeps c s (arrayFails ok i t) := by
  have h1 : Keeps c s (t.raise 466) := Runs.after h Runs.raise
  unfold arrayFails
  dsimp only
  split
  · exact bootTrioFails_keeps h1
  split
  · exact Runs.after h1 Runs.other
  split
  · exact Runs.after h1 Runs.other
  · exact h1

theorem bootUnits_keeps {ok : Bool} {units arrays : List Nat} (h : Keeps c s t) : Keeps c s (bootUnits ok units arrays t) :=
  Keeps.foldl (fun _ => arrayFails_keeps) (Keeps.foldl (fun _ => bootUnitFails_keeps) h)

/-- Where no unit and no array fails, nothing happens. -/
theorem bootUnits_nil (ok : Bool) (s : State) : bootUnits ok [] [] s = s := rfl

end Sys2Proof.Machine
end

section
/-! The device in another mode, and the pages that the Canvas ROM serves on (R33, R38, R395). -/
namespace Sys2Proof.Machine

variable {c : Bool} {s t : State}

/-- The state that the blocks find when the device has entered a mode: SYS.MODE written. -/
def modeWritten (m cause : Nat) (s : State) : State := s.wr (B.sys + SYS.MODE.off) (BitVec.ofNat 32 (m + s.mode * 16 + cause * 256))

theorem modeWritten_mode {m : Nat} (hm : m < 8) (cause : Nat) (s : State) : (modeWritten m cause s).mode = m := by
  have e : (modeWritten m cause s).mode = bf (BitVec.ofNat 32 (m + s.mode * 16 + cause * 256)) 0 3 :=
    State.fld_wr_same s B.sys SYS.MODE_CUR _
  rw [e]
  unfold bf nbits
  rw [BitVec.toNat_ofNat]
  omega

theorem modeWritten_rd {k : Nat} (hk : k ≠ B.sys + SYS.MODE.off) (m cause : Nat) (s : State) : (modeWritten m cause s).rd k = s.rd k :=
  State.rd_wr_other s hk _

/-- What collector, ring ports and slices do of the change of mode; SR.CE comes after it. -/
def blocksFollow (m cause : Nat) (s : State) : State :=
  let s0 := if m = mGauze then s else s.modColl (fun c => { c with gauzeHold := false })
  let s1 := ringsMode (collMode s.runMode (s0.wr (B.sys + SYS.MODE.off) (BitVec.ofNat 32 (m + s.mode * 16 + cause * 256))))
  if inRange mCalico mJersey m then s1 else slicesEnd s1

theorem enterMode_eq (m cause : Nat) (s : State) :
    enterMode m cause s = if m = mMuslin ∨ m = mGauze ∨ m = mFelt then setCe (blocksFollow m cause s) else blocksFollow m cause s := rfl

theorem blocksFollow_runs (m cause : Nat) (s : State) : Runs c (modeWritten m cause s) (blocksFollow m cause s) := by
  unfold blocksFollow
  extract_lets s0 s1
  have h0 : Runs c (modeWritten m cause s) (s0.wr (B.sys + SYS.MODE.off) (BitVec.ofNat 32 (m + s.mode * 16 + cause * 256))) := by
    unfold s0
    split
    · exact Runs.refl _
    · exact Runs.modColl (f := fun c => { c with gauzeHold := false }) (Runs.refl (modeWritten m cause s)) (fun _ hx => hx)
  exact .ite (ringsMode_runs (collMode_runs h0)) (slicesEnd_runs (ringsMode_runs (collMode_runs h0)))

theorem enterMode_keeps (m cause : Nat) (s : State) : Keeps c (modeWritten m cause s) (enterMode m cause s) := by
  rw [enterMode_eq]
  split
  · exact setCe_keeps (blocksFollow_runs m cause s).toKeeps
  · exact (blocksFollow_runs m cause s).toKeeps

/-- The modes in which software runs leave the threads alone. -/
theorem enterMode_runs {m : Nat} (hm : 2 ≤ m ∧ m ≤ 5) (cause : Nat) (s : State) : Runs c (modeWritten m cause s) (enterMode m cause s) := by
  rw [enterMode_eq, if_neg (by unfold mMuslin mGauze mFelt; omega)]
  exact blocksFollow_runs m cause s

theorem enterMode_mode {m : Nat} (hm : m < 8) (cause : Nat) (s : State) : (enterMode m cause s).mode = m :=
  (enterMode_keeps (c := false) m cause s).mode.trans (modeWritten_mode hm cause s)

/-- The ROM enables a page on which it serves. -/
theorem romPage_runs {p : Nat} (hp : 0x14 ≤ p) (h : Runs c s t) :
    Runs c s (if t.flag (page p) PG.STAT_FAULTED then t else setStat p 1 0 (t.setFld (page p) PG.CTL_EN 1)) :=
  .ite h (setStat_runs hp (h.high (high_page hp)))

theorem romUp_runs (h : Runs c s t) : Runs c s (romUp t) :=
  .ite h (romPage_runs (by decide) (romPage_runs (by decide) (romPage_runs (by decide) (romPage_runs (by decide) h))))

end Sys2Proof.Machine
end

section
/-! Memory and registers that a reset filters, and what the regions of memory depend on. -/
namespace Sys2Proof.Machine

variable {s t : State}

/-- Registers alone were written. -/
def OnlyRegs (s t : State) : Prop := ∃ r, t = { s with regs := r }

theorem OnlyRegs.refl (s : State) : OnlyRegs s s := ⟨_, rfl⟩

theorem OnlyRegs.wr {k : Nat} {v : W32} (h : OnlyRegs s t) : OnlyRegs s (t.wr k v) := by
  obtain ⟨r, rfl⟩ := h
  exact ⟨_, rfl⟩

theorem OnlyRegs.ite {p : Prop} [Decidable p] {a b : State} (ha : OnlyRegs s a) (hb : OnlyRegs s b) : OnlyRegs s (if p then a else b) := by
  split <;> assumption

theorem OnlyRegs.mem (h : OnlyRegs s t) : t.mem = s.mem := by obtain ⟨r, rfl⟩ := h; rfl
theorem OnlyRegs.dev (h : OnlyRegs s t) : t.dev = s.dev := by obtain ⟨r, rfl⟩ := h; rfl
theorem OnlyRegs.threads (h : OnlyRegs s t) : t.threads = s.threads := by obtain ⟨r, rfl⟩ := h; rfl
theorem OnlyRegs.trios (h : OnlyRegs s t) : t.trios = s.trios := by obtain ⟨r, rfl⟩ := h; rfl
theorem OnlyRegs.raised (h : OnlyRegs s t) : t.raised = s.raised := by obtain ⟨r, rfl⟩ := h; rfl

theorem cellFind_filter {α : Type} (p : Nat → Bool) (k : Nat) : ∀ l : List (Nat × α),
    cellFind k (l.filter (fun c => p c.1)) = if p k then cellFind k l else none
  | [] => by simp [cellFind]
  | (j, v) :: l => by
    have ih := cellFind_filter p k l
    by_cases hjk : j = k
    · subst hjk
      by_cases hp : p j = true
      · simp [cellFind, hp]
      · rw [List.filter_cons, if_neg hp, ih, if_neg hp, if_neg hp]
    · rw [cellFind, if_neg hjk, List.filter_cons]
      by_cases hp : p j = true
      · rw [if_pos hp, cellFind, if_neg hjk, ih]
      · rw [if_neg hp, ih]

theorem cellGet_filter {α : Type} (d : Nat → α) (p : Nat → Bool) (k : Nat) (l : List (Nat × α)) :
    cellGet d (l.filter (fun c => p c.1)) k = if p k then cellGet d l k else d k := by
  unfold cellGet
  rw [cellFind_filter]
  by_cases h : p k = true
  · rw [if_pos h, if_pos h]
  · rw [if_neg h, if_neg h]

/-- Memory of which the cells that `p` covers are left. -/
theorem memRead_filter (p : Nat → Bool) (m : List Host.Cell) (a : Nat) :
    memRead (m.filter (fun c => p c.1)) a = if p a then memRead m a else 0 := cellGet_filter _ p a m

theorem region_congr (h : t.dev.board = s.dev.board) (a : Nat) : t.region a = s.region a := by
  unfold State.region State.flashSize State.usableDram
  rw [h]

end Sys2Proof.Machine
end

section
/-! Resets (R29, R435). -/
namespace Sys2Proof.Machine

variable {c : Bool} {s t : State}

theorem fuseRegs_runs (h : Runs c s t) : Runs c s (fuseRegs t) := by
  unfold fuseRegs
  extract_lets s1 s2
  have h2 : Runs c s s2 := (h.wr (open_high high_net)).wr (open_high high_bist)
  split
  · exact h2
  · exact h2.trioFld.trioFld.trioFld.trioFld

/-- The device's own state after a reset other than power-on. -/
def restartDev (d : Dev) : Dev :=
  { fuses := d.fuses, board := d.board, conds := d.conds.filter keptCond, rootLost := d.rootLost, s0 := d.s0, recSeq := d.recSeq, porLow := d.porLow, aonOk := d.aonOk, ioOk := d.ioOk, remapOn := d.remapOn, resets := d.resets + 1 }

/-- The state after a reset before fuses and collector show in registers and lines. -/
def restartBare (regs : Tab W32) (mem : List Host.Cell) (s : State) : State :=
  { State.reset with
    pending := s.pending
    freeCtr := s.freeCtr
    sent := s.sent
    shafts := s.keptBalls
    regs := regs
    mem := mem
    raised := s.raised
    tap := s.tap
    dev := restartDev s.dev
    coll := { ins := s.coll.ins, missed := s.coll.missed }
    coll2 := { ins := s.coll2.ins, missed := s.coll2.missed } }

theorem restart_runs (regs : Tab W32) (mem : List Host.Cell) (s : State) : Runs false (restartBare regs mem s) (restart regs mem s) :=
  have h2 : Runs false (restartBare regs mem s) (collRefresh (fuseRegs (restartBare regs mem s))) :=
    collRefresh_runs (fuseRegs_runs (Runs.refl _))
  .ite (safeLines_runs h2) h2

/-- The registers that outlast a reset. -/
def keptRegs (s : State) : Tab W32 := ⟨s.regs.cells.filter (fun c => keptReg c.1)⟩

theorem restartBare_rd (mem : List Host.Cell) (x : State) (k : Nat) :
    (restartBare (keptRegs s) mem x).rd k = if keptReg k then s.rd k else regReset k := cellGet_filter regReset keptReg k s.regs.cells

/-- Whether a reset of a kind is one through which DRAM keeps its content. -/
def ResetKind.isWarm (k : ResetKind) : Bool := k == .warm || k == .gauze

/-- What stands once a reset other than power-on has cleared the device. -/
def resetBase (k : ResetKind) (s : State) : State :=
  restart (keptRegs s) (s.mem.filter (fun c => keepsMem s k.isWarm c.1)) (if k.isWarm then s else fuseLoad s)

/-- The registers that such a reset then writes: cause, count, clocks, and the mode that a Gauze comes from. -/
def resetMarks (k : ResetKind) (s : State) : State :=
  let s2 := s.wr (B.rst + RST.CAUSE.off) (BitVec.ofNat 32 k.bit)
  let s4 := if k.isWarm then (s2.incWrap B.rst RST.WARM_CNT).setFld B.clk CLK.CLK_STAT_ROOT_LOCK 1 else s2
  if k = .gauze then s4.wr (B.sys + SYS.MODE.off) (BitVec.ofNat 32 (mGauze * 16 + 7 * 256)) else s4

theorem voltBack_frame (old s : State) :
    (voltBack old s).regs = s.regs ∧ (voltBack old s).mem = s.mem ∧ (voltBack old s).dev = s.dev ∧ (voltBack old s).threads = s.threads := by
  unfold voltBack
  split <;> exact ⟨rfl, rfl, rfl, rfl⟩

theorem deviceReset_marks {k : ResetKind} (hk : k ≠ .powerOn) (s : State) : ∃ x, deviceReset k s = resetMarks k x ∧
    x.regs = (resetBase k s).regs ∧ x.mem = (resetBase k s).mem ∧ x.dev = (resetBase k s).dev ∧ x.threads = (resetBase k s).threads := by
  unfold deviceReset
  rw [if_neg hk]
  exact ⟨_, rfl, voltBack_frame s _⟩

/-- Registers that the marks of a reset are not among. -/
theorem resetMarks_rd {k : ResetKind} {key : Nat} (h : 0x3000 ≤ key) (s : State) : (resetMarks k s).rd key = s.rd key := by
  have h1 : key ≠ B.rst + RST.CAUSE.off := by unfold B.rst page RST.CAUSE; dsimp only; omega
  have h2 : key ≠ B.rst + RST.WARM_CNT.off := by unfold B.rst page RST.WARM_CNT; dsimp only; omega
  have h3 : key ≠ B.clk + CLK.CLK_STAT_ROOT_LOCK.off := by unfold B.clk page CLK.CLK_STAT_ROOT_LOCK; dsimp only; omega
  have h4 : key ≠ B.sys + SYS.MODE.off := by unfold B.sys page SYS.MODE; dsimp only; omega
  unfold resetMarks State.incWrap
  dsimp only
  repeat' split
  all_goals simp only [State.rd_wr_other _ h1, State.rd_setFld_off _ _ h2, State.rd_setFld_off _ _ h3, State.rd_wr_other _ h4]

theorem resetMarks_onlyRegs (k : ResetKind) (s : State) : OnlyRegs s (resetMarks k s) := by
  have h2 : OnlyRegs s (s.wr (B.rst + RST.CAUSE.off) (BitVec.ofNat 32 k.bit)) := (OnlyRegs.refl s).wr
  have h4 : OnlyRegs s (if k.isWarm then ((s.wr (B.rst + RST.CAUSE.off) (BitVec.ofNat 32 k.bit)).incWrap B.rst RST.WARM_CNT).setFld
      B.clk CLK.CLK_STAT_ROOT_LOCK 1 else s.wr (B.rst + RST.CAUSE.off) (BitVec.ofNat 32 k.bit)) := .ite h2.wr.wr h2
  exact .ite h4.wr h4

theorem rd_incWrap_word (s : State) (b o : Nat) : (s.incWrap b ⟨o, 0, 32⟩).rd (b + o) = s.rd (b + o) + 1 := by
  unfold State.incWrap State.setFld
  rw [State.rd_wr_same]
  apply BitVec.eq_of_toNat_eq
  have := (s.rd (b + o)).isLt
  simp [State.fld, bf, nbits, setBits]
  omega

theorem resetMarks_cause (k : ResetKind) (s : State) : (resetMarks k s).rd (B.rst + RST.CAUSE.off) = BitVec.ofNat 32 k.bit := by
  have h2 : B.rst + RST.CAUSE.off ≠ B.rst + RST.WARM_CNT.off := by decide
  have h3 : B.rst + RST.CAUSE.off ≠ B.clk + CLK.CLK_STAT_ROOT_LOCK.off := by decide
  have h4 : B.rst + RST.CAUSE.off ≠ B.sys + SYS.MODE.off := by decide
  unfold resetMarks State.incWrap
  dsimp only
  repeat' split
  all_goals simp only [State.rd_wr_same, State.rd_setFld_off _ _ h2, State.rd_setFld_off _ _ h3, State.rd_wr_other _ h4]

theorem resetMarks_warmCnt (k : ResetKind) (s : State) : (resetMarks k s).rd (B.rst + RST.WARM_CNT.off) =
    if k.isWarm then s.rd (B.rst + RST.WARM_CNT.off) + 1 else s.rd (B.rst + RST.WARM_CNT.off) := by
  have h1 : B.rst + RST.WARM_CNT.off ≠ B.rst + RST.CAUSE.off := by decide
  have h3 : B.rst + RST.WARM_CNT.off ≠ B.clk + CLK.CLK_STAT_ROOT_LOCK.off := by decide
  have h4 : B.rst + RST.WARM_CNT.off ≠ B.sys + SYS.MODE.off := by decide
  have hinc (x : State) : (x.incWrap B.rst RST.WARM_CNT).rd (B.rst + RST.WARM_CNT.off) = x.rd (B.rst + RST.WARM_CNT.off) + 1 :=
    rd_incWrap_word x B.rst 0x050
  unfold resetMarks
  dsimp only
  repeat' split
  all_goals simp only [State.rd_wr_other _ h1, State.rd_setFld_off _ _ h3, State.rd_wr_other _ h4, hinc]

/-- The mode is Muslin: MODE at its reset value, or the word that tells of the Gauze before. -/
theorem resetMarks_mode (k : ResetKind) {s : State} (h : s.mode = mMuslin) : (resetMarks k s).mode = mMuslin := by
  have h1 : B.sys + SYS.MODE_CUR.off ≠ B.rst + RST.CAUSE.off := by decide
  have h2 : B.sys + SYS.MODE_CUR.off ≠ B.rst + RST.WARM_CNT.off := by decide
  have h3 : B.sys + SYS.MODE_CUR.off ≠ B.clk + CLK.CLK_STAT_ROOT_LOCK.off := by decide
  unfold resetMarks State.mode State.incWrap at *
  dsimp only
  split
  · exact State.fld_wr_same _ B.sys SYS.MODE_CUR _
  · split
    · rw [State.fld_setFld_off _ _ h3, State.fld_setFld_off _ _ h2, State.fld_wr_off _ _ h1, h]
    · rw [State.fld_wr_off _ _ h1, h]

/-! ### What is left -/

theorem resetBase_runs (k : ResetKind) (s : State) :
    Runs false (restartBare (keptRegs s) (s.mem.filter (fun c => keepsMem s k.isWarm c.1)) (if k.isWarm then s else fuseLoad s)) (resetBase k s) :=
  restart_runs _ _ _

theorem resetBase_rd {k : ResetKind} {key : Nat} (h : Shut false key) :
    (resetBase k s).rd key = if keptReg key then s.rd key else regReset key := by
  rw [(resetBase_runs k s).rd _ h, restartBare_rd]

theorem resetBase_mode (k : ResetKind) (s : State) : (resetBase k s).mode = mMuslin := by
  unfold State.mode State.fld
  rw [resetBase_rd (.inl (by decide)), if_neg (by decide)]
  decide

theorem resetBase_dev (k : ResetKind) (s : State) :
    (resetBase k s).dev.fuses = s.dev.fuses ∧ (resetBase k s).dev.board = s.dev.board := by
  have h := (resetBase_runs k s).toKeeps
  rw [h.devEq (·.fuses) (fun _ _ => rfl), h.devEq (·.board) (fun _ _ => rfl)]
  split <;> exact ⟨rfl, rfl⟩

theorem keepsMem_flash {a n : Nat} {w : Bool} (h : s.region a = .flash n) : keepsMem s w a = true := by
  unfold keepsMem; rw [h]

theorem keepsMem_dram {a : Nat} {w : Bool} (h : s.region a = .dram) : keepsMem s w a = w := by
  unfold keepsMem; rw [h]

theorem resetBase_mem (k : ResetKind) (s : State) (a : Nat) :
    memRead (resetBase k s).mem a = if keepsMem s k.isWarm a then memRead s.mem a else 0 := by
  rw [(resetBase_runs k s).mem]
  exact memRead_filter _ _ _

theorem isWarm_iff (k : ResetKind) : k.isWarm = true ↔ k = .warm ∨ k = .gauze := by cases k <;> decide

theorem keptReg_record {key : Nat} (hp : key / 4096 = 0x012) (h1 : 0x040 ≤ key % 4096) (h2 : key % 4096 ≤ 0x067) : keptReg key = true := by
  simp [keptReg, inRange, hp, h1, h2]

theorem keptReg_live {key : Nat} (hp : key / 4096 = 0x011) (h1 : 0x080 ≤ key % 4096) (h2 : key % 4096 ≤ 0x0BF) : keptReg key = true := by
  simp [keptReg, inRange, hp, h1, h2]

theorem deviceReset_after {k : ResetKind} (hk : k ≠ .powerOn) (s : State) : afterReset k s (deviceReset k s) := by
  obtain ⟨x, hx, hregs, hmem, hdev, hthreads⟩ := deviceReset_marks hk s
  have hmarks := resetMarks_onlyRegs k x
  have hrd (key : Nat) : x.rd key = (resetBase k s).rd key := State.rd_congr hregs key
  have hkept {key : Nat} (h : 0x3000 ≤ key) (hs : Shut false key) (hr : keptReg key = true) : (resetMarks k x).rd key = s.rd key := by
    rw [resetMarks_rd h, hrd, resetBase_rd hs, if_pos hr]
  have hcell (a : Nat) : memRead (resetMarks k x).mem a = if keepsMem s k.isWarm a then memRead s.mem a else 0 := by
    rw [hmarks.mem, hmem, resetBase_mem]
  rw [hx]
  refine ⟨resetMarks_mode k ?mode, resetMarks_cause k x, ?threads, ?fuses, ?board, fun a n ha => ?flash, fun hw a ha => ?dram,
    fun _ key hp h1 h2 => hkept ?_ (.inr (.inr ⟨rfl, .inr hp⟩)) (keptReg_record hp h1 h2),
    fun _ key hp h1 h2 => hkept ?_ (.inr (.inr ⟨rfl, .inl hp⟩)) (keptReg_live hp h1 h2), fun _ => ?count⟩
  case mode => exact (State.fld_congr hregs _ _).trans (resetBase_mode k s)
  case threads => rw [hmarks.threads, hthreads, (resetBase_runs k s).threads]; rfl
  case fuses => rw [hmarks.dev, hdev, (resetBase_dev k s).1]
  case board => rw [hmarks.dev, hdev, (resetBase_dev k s).2]
  case flash => rw [hcell, keepsMem_flash ha, if_pos rfl]
  case dram => rw [hcell, keepsMem_dram ha, if_pos ((isWarm_iff k).2 hw)]
  case count =>
    rw [resetMarks_warmCnt, hrd, resetBase_rd (.inl (by decide)), if_pos (show keptReg (B.rst + RST.WARM_CNT.off) = true by decide)]
    simp only [isWarm_iff]
  all_goals omega

theorem powerOn_after (s : State) : afterReset .powerOn s (deviceReset .powerOn s) := by
  have h : Runs false _ (deviceReset .powerOn s) := fuseRegs_runs (Runs.refl _)
  refine ⟨?mode, ?cause, h.threads, ?fuses, ?board, fun a n ha => ?flash, ?_, ?_, ?_, ?_⟩
  case mode => exact h.mode.trans (show State.reset.mode = mMuslin by decide)
  case cause => exact (h.rd _ (.inl (by decide))).trans (show State.reset.rd (B.rst + RST.CAUSE.off) = 1 by decide)
  case fuses => exact h.devEq (·.fuses) (fun _ _ => rfl)
  case board => exact h.devEq (·.board) (fun _ _ => rfl)
  case flash =>
    rw [h.mem, memRead_filter, keepsMem_flash ha, if_pos rfl]
  all_goals simp

end Sys2Proof.Machine
end

section
/-! A word written to a register that holds nothing back: what its page's checks leave to the block (R468, R474, R476). -/
namespace Sys2Proof.Machine

variable {s : State} {w : Writer} {k : Kind} {p o mask v : Nat}

/-- A register that software writes whole, with its defined bits: no page rule refuses it and no half of it is held. -/
structure PlainReg (k : Kind) (p o mask : Nat) : Prop where
  kind : ∃ ty n, pageKind p = some (k, ty, n)
  row : ∃ r, regRow p o = some r ∧ (r.acc = .rw ∨ r.acc = .wo) ∧ r.mask = mask ∧ ∀ s : State, s.isHeld k p o r = false
  off : o < 4096
  word : o % 4 = 0
  lo : ∀ s : State, s.loOf k p o = none
  codes : ∀ s, pageCodes k p o s = []
  shaft : k ≠ .shaft

theorem modeReq_plain : PlainReg .sys 0x000 SYS.MODE_REQ.off 7 :=
  ⟨⟨_, _, rfl⟩, ⟨_, rfl, .inr rfl, rfl, fun _ => rfl⟩, by decide, by decide, fun _ => rfl, fun _ => rfl, by decide⟩

theorem coreDiv_plain : PlainReg .clk 0x001 CLK.CORE_DIV.off 0xF :=
  ⟨⟨_, _, rfl⟩, ⟨_, rfl, .inl rfl, rfl, fun _ => rfl⟩, by decide, by decide, fun _ => rfl, fun _ => rfl, by decide⟩

theorem resetReq_plain : PlainReg .rst 0x002 RST.REQ.off 0xFF03 :=
  ⟨⟨_, _, rfl⟩, ⟨_, rfl, .inr rfl, rfl, fun _ => rfl⟩, by decide, by decide, fun _ => rfl, fun _ => rfl, by decide⟩

theorem regPut_word (hk : ∃ ty n, pageKind p = some (k, ty, n)) (ho : o < 4096) (h4 : o % 4 = 0) (w : Writer) (v : Nat) (s : State) :
    regPut w (page p + o) v s =
      let c := Code.lowest (regCodes w p o (BitVec.ofNat 32 v) (wakeWaiting s))
      if c = .ok then regApply p o (BitVec.ofNat 32 v) (wakeWaiting s) else regRefuse w p o (BitVec.ofNat 32 v) c (wakeWaiting s) := by
  obtain ⟨ty, n, hk⟩ := hk
  have hp := pageKind_lt hk
  have hv : (BitVec.ofNat 64 v).setWidth 32 = BitVec.ofNat 32 v := BitVec.setWidth_ofNat_of_le (by decide) v
  unfold regPut pageWrite
  simp only [regs_addr_page hp ho, regs_addr_offset ho, regs_addr_base hp ho, hk, h4, hv]
  simp only [Option.isNone_some, ne_eq, not_true_eq_false, or_self, Bool.false_eq_true, if_false]
  split <;> rfl

theorem regCodes_plain (hr : PlainReg k p o mask) (w : Writer) (v : W32) (s : State) :
    regCodes w p o v s = refuseIf (v &&& ~~~(BitVec.ofNat 32 mask) != 0) .rsvdBit ++ refuseIf (decide (s.wrRing p < w.ring.val)) .priv
      ++ blockCodes w k p o v.toNat s := by
  obtain ⟨ty, n, hk⟩ := hr.kind
  obtain ⟨r, hrow, hacc, hmask, hheld⟩ := hr.row
  unfold regCodes
  rw [hk, hrow]
  simp only [hheld, hr.lo, hr.codes, hmask, List.append_nil]
  rcases hacc with h | h <;> simp [h]

theorem wrRing_wakeWaiting (s : State) (p : Nat) : (wakeWaiting s).wrRing p = s.wrRing p := by
  unfold State.wrRing
  rw [State.fld_congr (wakeWaiting_regs s)]

/-- Written by a ring that its page admits, with no undefined bit: the block alone decides. -/
theorem regCodes_plain_admitted (hr : PlainReg k p o mask) (hw : mayWrite w p s)
    (hm : BitVec.ofNat 32 v &&& ~~~(BitVec.ofNat 32 mask) = 0) (hv : v < 2 ^ 32) :
    regCodes w p o (BitVec.ofNat 32 v) (wakeWaiting s) = blockCodes w k p o v (wakeWaiting s) := by
  rw [regCodes_plain hr, hm, wrRing_wakeWaiting, BitVec.toNat_ofNat, Nat.mod_eq_of_lt hv]
  simp [refuseIf, Nat.not_lt.2 hw]

/-- The block takes the value. -/
theorem regPut_admitted (hr : PlainReg k p o mask) (hw : mayWrite w p s)
    (hm : BitVec.ofNat 32 v &&& ~~~(BitVec.ofNat 32 mask) = 0) (hv : v < 2 ^ 32)
    (hc : Code.lowest (blockCodes w k p o v (wakeWaiting s)) = .ok) :
    regPut w (page p + o) v s = blockDo k p o v (wakeWaiting s) := by
  rw [regPut_word hr.kind hr.off hr.word, regCodes_plain_admitted hr hw hm hv]
  dsimp only
  rw [if_pos hc]
  obtain ⟨ty, n, hk⟩ := hr.kind
  obtain ⟨r, hrow, hacc, hmask, hheld⟩ := hr.row
  unfold regApply
  rw [hk, hrow]
  simp only [hheld, hr.lo, BitVec.toNat_ofNat, Nat.mod_eq_of_lt hv]
  rcases hacc with h | h <;> simp [h]

/-- The block refuses it: PG_WSTAT alone is written. -/
theorem regPut_refused (hr : PlainReg k p o mask) (hw : mayWrite w p s)
    (hm : BitVec.ofNat 32 v &&& ~~~(BitVec.ofNat 32 mask) = 0) (hv : v < 2 ^ 32)
    (hc : Code.lowest (blockCodes w k p o v (wakeWaiting s)) ≠ .ok) :
    regPut w (page p + o) v s = wstat w p o (Code.lowest (blockCodes w k p o v (wakeWaiting s))) (wakeWaiting s) := by
  rw [regPut_word hr.kind hr.off hr.word, regCodes_plain_admitted hr hw hm hv]
  dsimp only
  rw [if_neg hc]
  obtain ⟨ty, n, hk⟩ := hr.kind
  unfold regRefuse blockRefused
  rw [hk]
  simp only [hr.lo, if_neg hr.shaft]

/-- PG_WSTAT shows the code of the refusal. -/
theorem wstat_code (w : Writer) {p : Nat} (hp : p < 0x400) (o : Nat) (c : Code) (s : State) :
    (wstat w p o c s).fld (page p) PG.WSTAT_CODE = c.num := by
  have hc : c.num < 16 := by cases c <;> decide
  unfold wstat headPage
  rw [if_neg (by omega)]
  dsimp only
  refine (State.fld_wr_same s (page p) PG.WSTAT_CODE _).trans ?_
  unfold bf nbits
  rw [BitVec.toNat_ofNat]
  show _ / 2 ^ 0 % 2 ^ 8 = _
  omega

theorem wstat_onlyRegs (w : Writer) (p o : Nat) (c : Code) (s : State) : OnlyRegs s (wstat w p o c s) := (OnlyRegs.refl s).wr

theorem wstat_rd {j : Nat} (hj : j ≠ page (headPage p) + PG.WSTAT.off) (w : Writer) (o : Nat) (c : Code) (s : State) :
    (wstat w p o c s).rd j = s.rd j := State.rd_wr_other s hj _

/-- A value below `2 ^ n` has no bit that a mask of `n` bits lacks. -/
theorem and_not_mask {v n : Nat} (hv : v < 2 ^ n) : BitVec.ofNat 32 v &&& ~~~(BitVec.ofNat 32 (2 ^ n - 1)) = 0 := by
  refine BitVec.eq_of_getLsbD_eq fun i hi => ?_
  simp only [BitVec.getLsbD_and, BitVec.getLsbD_not, BitVec.getLsbD_ofNat, Nat.testBit_two_pow_sub_one]
  by_cases h : i < n
  · simp [h]
  · have : v.testBit i = false := Nat.testBit_lt_two_pow (lt_of_lt_of_le hv (Nat.pow_le_pow_right (by decide) (by omega)))
    simp [this]

end Sys2Proof.Machine
end

section
/-! The rows of reset. -/
namespace Sys2Proof.Machine

variable {s : State} {w : Writer}

/-- The end of waits that comes with a register access leaves all that a reset looks at. -/
theorem afterReset_wakeWaiting {k : ResetKind} {t : State} (h : afterReset k (wakeWaiting s) t) : afterReset k s t := by
  have e : ∃ x, wakeWaiting s = { s with threads := x } := ⟨_, wakeWaiting_eq s⟩
  obtain ⟨x, hx⟩ := e
  rw [hx] at h
  exact h

theorem resetReq_bits (key : Byte) (n : Nat) (hn : n = 1 ∨ n = 2) :
    BitVec.ofNat 32 (n + 256 * key.toNat) &&& ~~~(BitVec.ofNat 32 0xFF03) = 0 := by
  rcases hn with rfl | rfl <;> revert key <;> decide

theorem resetReq_codes (key : Byte) (n : Nat) (hn : n = 1 ∨ n = 2) :
    Code.lowest (rstCodes 0x044 (n + 256 * key.toNat)) = if key = 0xC3 then .ok else .key := by
  rcases hn with rfl | rfl <;> revert key <;> decide

/-- RST.REQ with its key: the reset that its low bits name. -/
theorem resetReq_effect {n : Nat} (hn : n = 1 ∨ n = 2) (hw : mayWrite w 0x002 s) :
    regPut w (B.rst + RST.REQ.off) (n + 256 * (0xC3 : Byte).toNat) s =
      deviceReset (if n = 1 then .warm else .system) (wakeWaiting s) := by
  have h := regPut_admitted resetReq_plain hw (resetReq_bits 0xC3 n hn) (by rcases hn with rfl | rfl <;> decide)
    ((resetReq_codes 0xC3 n hn).trans (if_pos rfl))
  have hdo (v : Nat) (x : State) : blockDo .rst 0x002 RST.REQ.off v x = rstDo 0x044 v x := rfl
  have hkind : nbits (n + 256 * (0xC3 : Byte).toNat) 0 2 = n := by rcases hn with rfl | rfl <;> decide
  refine h.trans ?_
  rw [hdo, rstDo, if_pos rfl, hkind]

/-- With another key nothing is reset. -/
theorem resetReq_refused {n : Nat} {key : Byte} (hn : n = 1 ∨ n = 2) (hw : mayWrite w 0x002 s) (hk : key ≠ 0xC3) :
    regPut w (B.rst + RST.REQ.off) (n + 256 * key.toNat) s = wstat w 0x002 RST.REQ.off .key (wakeWaiting s) := by
  have hc : Code.lowest (blockCodes w .rst 0x002 RST.REQ.off (n + 256 * key.toNat) (wakeWaiting s)) = .key :=
    (resetReq_codes key n hn).trans (if_neg hk)
  have h := regPut_refused resetReq_plain hw (resetReq_bits key n hn) (by have := key.isLt; omega) (by rw [hc]; decide)
  rw [hc] at h
  exact h

theorem faultBalls_dev (s : State) : (faultBalls s).dev = s.dev := by
  unfold faultBalls
  rw [State.setFld_dev, State.modColl_dev]

/-- A Gauze that is held goes on with its waves back. -/
theorem gauzeHeld_effect {f : Coll → Coll} (hm : s.mode = mGauze) :
    let t := faultBalls ((s.modColl f).setFld B.sys SYS.MODE_HELD 1)
    t.fld B.sys SYS.MODE_HELD = 1 ∧ t.mode = mGauze ∧ t.dev = s.dev := by
  have h := (faultBalls_runs (c := false) (Runs.refl ((s.modColl f).setFld B.sys SYS.MODE_HELD 1))).toKeeps
  refine ⟨?_, ?_, ?_⟩
  · rw [h.fld (.inl (by decide)), State.fld_setFld_same _ _ _ _ (by decide)]
    rfl
  · rw [h.mode]
    unfold State.mode
    rw [State.fld_setFld_apart (s.modColl f) B.sys (f := SYS.MODE_HELD) (f' := SYS.MODE_CUR) 1 rfl (by decide) (by decide),
      State.modColl_fld]
    exact hm
  · rw [faultBalls_dev, State.setFld_dev, State.modColl_dev]

/-- Settles O36: what each kind leaves is one statement about `deviceReset`; the requests come down to it by the register write. -/
theorem resetRows : Obligations.ResetRows := by
  unfold Obligations.ResetRows
  intro s w
  refine ⟨⟨_, rfl, powerOn_after s⟩, ⟨_, rfl, deviceReset_after (by decide) s⟩, fun hw => ⟨_, rfl, ?warm⟩, fun hw => ⟨_, rfl, ?system⟩,
    fun key hw hk => ⟨_, rfl, ?refused⟩, fun hm hg he => ⟨_, rfl, ?gauze⟩, fun hm hg he => ⟨_, rfl, ?held⟩⟩
  case warm =>
    exact afterReset_wakeWaiting ((resetReq_effect (.inl rfl) hw).symm ▸ deviceReset_after (by decide) _)
  case system => exact afterReset_wakeWaiting ((resetReq_effect (.inr rfl) hw).symm ▸ deviceReset_after (by decide) _)
  case refused =>
    rw [resetReq_refused (.inl rfl) hw hk]
    have h := wstat_onlyRegs w 0x002 RST.REQ.off .key (wakeWaiting s)
    refine ⟨wstat_code w (by decide) _ _ _, ?_, h.threads, h.mem.trans (wakeWaiting_mem s)⟩
    exact (State.fld_wr_off _ _ (by decide)).trans (State.fld_congr (wakeWaiting_regs s) _ _)
  case gauze =>
    unfold gauzeDone
    rw [if_neg (by simp [hm, hg]), if_neg (by simp [he])]
    exact deviceReset_after (by decide) s
  case held =>
    unfold gauzeDone
    rw [if_neg (by simp [hm, hg]), if_pos he]
    exact gauzeHeld_effect hm

end Sys2Proof.Machine
end

section
/-! Conditions that begin, and what the collector's cycle makes of them (R403, R405). -/
namespace Sys2Proof.Machine

variable {s : State} {n : Nat} {d : W32}

/-- A condition that does not hold yet asserts its source once and holds from then on. -/
theorem raiseCond_begins (h : n ∉ s.dev.conds) (d : W32) :
    s.raiseCond n d = ({ s with dev := { s.dev with conds := n :: s.dev.conds } } : State).raiseA ⟨BitVec.ofNat 9 n, none, 0, 0, d, false⟩ := by
  unfold State.raiseCond
  rw [if_neg (by simpa using h)]

theorem raiseCond_holds (s : State) (n : Nat) (d : W32) : n ∈ (s.raiseCond n d).dev.conds := by
  by_cases h : n ∈ s.dev.conds
  · unfold State.raiseCond
    rw [if_pos (by simpa using h)]
    exact h
  · rw [raiseCond_begins h]
    exact List.mem_cons_self

theorem raiseCond_mono {m : Nat} (h : m ∈ s.dev.conds) (n : Nat) (d : W32) : m ∈ (s.raiseCond n d).dev.conds := by
  unfold State.raiseCond
  split
  · exact h
  · exact List.mem_cons_of_mem _ h

theorem raiseCond_waits {x : Raised} (h : x ∈ s.raised) (n : Nat) (d : W32) : x ∈ (s.raiseCond n d).raised := by
  unfold State.raiseCond
  split
  · exact h
  · exact List.mem_append_left _ h

theorem raiseCond_source (h : n ∉ s.dev.conds) (hn : n < 512) (d : W32) : ∃ x, x ∈ (s.raiseCond n d).raised ∧ x.src.toNat = n := by
  rw [raiseCond_begins h]
  refine ⟨_, List.mem_append_right _ (List.mem_singleton.2 rfl), ?_⟩
  exact Nat.mod_eq_of_lt hn

/-- Of a condition that another begins nothing changes. -/
theorem raiseCond_other {m : Nat} (h : m ∉ s.dev.conds) (hm : m ≠ n) : m ∉ (s.raiseCond n d).dev.conds := by
  unfold State.raiseCond
  split
  · exact h
  · exact fun hc => (List.mem_cons.1 hc).elim hm h

theorem collCycle_conds (s : State) : (collCycle s).dev.conds = s.dev.conds :=
  (collCycle_runs (Runs.refl s)).devEq (·.conds) (fun _ _ => rfl)

/-- What waits at the collector and has a severity is live after its cycle. -/
theorem collCycle_takes (h : ∃ x, x ∈ s.raised ∧ x.src.toNat = n) (hn : (sevOf n).isSome) : (collCycle s).live n = true := by
  obtain ⟨x, hx, rfl⟩ := h
  exact (collCycle_effect hx hn).1

/-- A condition is live once the collector has taken it. -/
theorem condCycle_effect (h : n ∉ s.dev.conds) (hn : (sevOf n).isSome) (h9 : n < 512) (d : W32) :
    (collCycle (s.raiseCond n d)).live n = true ∧ n ∈ (collCycle (s.raiseCond n d)).dev.conds := by
  rw [collCycle_conds]
  exact ⟨collCycle_takes (raiseCond_source h h9 d) hn, raiseCond_holds _ _ _⟩

theorem raise_source (h9 : n < 512) (s : State) : ∃ x, x ∈ (s.raise n).raised ∧ x.src.toNat = n :=
  ⟨_, List.mem_append_right _ (List.mem_singleton.2 rfl), Nat.mod_eq_of_lt h9⟩

/-! ### STO pairs that read back wrong -/

/-- The read-back of a pair in the run state differs. -/
def pairReadsWrong (a : State) (n : Nat) : State := if a.stoRun n then a.raiseCond (448 + n) (BitVec.ofNat 32 (1 + 8)) else a

theorem pairReadsWrong_stoRun (a : State) (m n : Nat) : (pairReadsWrong a m).stoRun n = a.stoRun n := by
  unfold pairReadsWrong
  split
  · unfold State.stoRun
    rw [State.raiseCond_fld]
  · rfl

theorem pairsWrong_mono {l : List Nat} {a : State} :
    (∀ x, x ∈ a.raised → x ∈ (l.foldl pairReadsWrong a).raised) ∧ ∀ m, m ∈ a.dev.conds → m ∈ (l.foldl pairReadsWrong a).dev.conds := by
  induction l generalizing a with
  | nil => exact ⟨fun _ h => h, fun _ h => h⟩
  | cons n l ih =>
    rw [List.foldl_cons]
    refine ⟨fun x hx => ih.1 x ?_, fun m hm => ih.2 m ?_⟩
    · unfold pairReadsWrong; split
      · exact raiseCond_waits hx _ _
      · exact hx
    · unfold pairReadsWrong; split
      · exact raiseCond_mono hm _ _
      · exact hm

/-- Every pair of the list that is in the run state asserts its source. -/
theorem pairsWrong_source {l : List Nat} {a : State} (hl : n ∈ l) (hrun : a.stoRun n = true) (h : 448 + n ∉ a.dev.conds) (hn : 448 + n < 512) :
    (∃ x, x ∈ (l.foldl pairReadsWrong a).raised ∧ x.src.toNat = 448 + n) ∧ 448 + n ∈ (l.foldl pairReadsWrong a).dev.conds := by
  induction l generalizing a with
  | nil => cases hl
  | cons m l ih =>
    rw [List.foldl_cons]
    by_cases hm : m = n
    · subst hm
      have e : pairReadsWrong a m = a.raiseCond (448 + m) (BitVec.ofNat 32 (1 + 8)) := if_pos hrun
      obtain ⟨x, hx, hs⟩ := raiseCond_source h hn (BitVec.ofNat 32 (1 + 8))
      rw [e]
      exact ⟨⟨x, pairsWrong_mono.1 x hx, hs⟩, pairsWrong_mono.2 _ (raiseCond_holds _ _ _)⟩
    · refine ih ((List.mem_cons.1 hl).resolve_left (Ne.symm hm)) ((pairReadsWrong_stoRun a m n).trans hrun) ?_
      unfold pairReadsWrong
      split
      · exact raiseCond_other h (by omega)
      · exact h

/-- The fault waves, where they run, read back wrong. -/
def wavesWrong (s : State) : State := if s.flag B.coll COLL.STAT_FAULT_RUN then s.raise 7 else s

theorem io33Lost_eq (s : State) : io33Lost s = collCycle ((List.range 8).foldl pairReadsWrong (wavesWrong s)) := rfl

theorem wavesWrong_stoRun (s : State) (n : Nat) : (wavesWrong s).stoRun n = s.stoRun n := by unfold wavesWrong; split <;> rfl

theorem wavesWrong_conds (s : State) : (wavesWrong s).dev.conds = s.dev.conds := by unfold wavesWrong; split <;> rfl

theorem wavesWrong_source (h : s.flag B.coll COLL.STAT_FAULT_RUN = true) : ∃ x, x ∈ (wavesWrong s).raised ∧ x.src.toNat = 7 := by
  unfold wavesWrong
  rw [if_pos h]
  exact raise_source (by decide) s

theorem sevOf_sto : ∀ n, n < 8 → (sevOf (448 + n)).isSome = true := by decide

/-- Without VDD_IO33 running waves read back wrong (R422, R488). -/
theorem io33Lost_waves (h : s.flag B.coll COLL.STAT_FAULT_RUN = true) : (io33Lost s).live 7 = true := by
  obtain ⟨x, hx, hs⟩ := wavesWrong_source h
  rw [io33Lost_eq]
  exact collCycle_takes ⟨x, pairsWrong_mono.1 x hx, hs⟩ (by decide)

/-- Without VDD_IO33 every pair in the run state reads back wrong (R427, R488). -/
theorem io33Lost_pair (hn : n < 8) (hrun : s.stoRun n = true) (hc : 448 + n ∉ s.dev.conds) :
    (io33Lost s).live (448 + n) = true ∧ 448 + n ∈ (io33Lost s).dev.conds := by
  obtain ⟨hx, hm⟩ := pairsWrong_source (List.mem_range.2 hn) ((wavesWrong_stoRun s n).trans hrun) (by rwa [wavesWrong_conds]) (by omega)
  rw [io33Lost_eq, collCycle_conds]
  exact ⟨collCycle_takes hx (sevOf_sto n hn), hm⟩

end Sys2Proof.Machine
end

section
/-! Clocks and supplies (R20, R22, R24 to R28). -/
namespace Sys2Proof.Machine

variable {s : State} {w : Writer}

theorem coreDiv_codes {v : Nat} (ha : s.flag B.margin MARGIN.CTL_AUTO = false) :
    Code.lowest (blockCodes w .clk 0x001 CLK.CORE_DIV.off v (wakeWaiting s)) = if 8 ≤ v ∧ v ≤ 10 then .ok else .range := by
  have e : blockCodes w .clk 0x001 CLK.CORE_DIV.off v (wakeWaiting s) =
      refuseIf (!inRange 8 10 v) .range ++ refuseIf ((wakeWaiting s).flag B.margin MARGIN.CTL_AUTO) .busy := rfl
  have hf : (wakeWaiting s).flag B.margin MARGIN.CTL_AUTO = false := by
    unfold State.flag at *
    rw [State.fld_congr (wakeWaiting_regs s), ha]
  rw [e, hf]
  split
  · rw [show inRange 8 10 v = true by unfold inRange; simp; omega]
    rfl
  · rw [show inRange 8 10 v = false by unfold inRange; simp; omega]
    rfl

/-- CLK.CORE_DIV within its range takes effect at once (R20). -/
theorem setDiv_effect {v : Nat} (hv : v < 16) (s : State) :
    (setDiv v s).fld B.clk CLK.CORE_DIV_DIV = v ∧ (setDiv v s).fld B.clk CLK.CLK_STAT_DIV_NOW = v ∧ OnlyRegs s (setDiv v s) := by
  unfold setDiv
  refine ⟨?_, ?_, (OnlyRegs.refl s).wr.wr⟩
  · rw [State.fld_setFld_off _ _ (by decide), State.fld_setFld_same _ _ _ _ (by decide)]
    exact Nat.mod_eq_of_lt hv
  · rw [State.fld_setFld_same _ _ _ _ (by decide)]
    exact Nat.mod_eq_of_lt hv

theorem coreDivWrite_effect {v : Nat} (hw : mayWrite w 0x001 s) (h : 8 ≤ v ∧ v ≤ 10) (ha : s.flag B.margin MARGIN.CTL_AUTO = false) :
    regPut w (B.clk + CLK.CORE_DIV.off) v s = setDiv v (wakeWaiting s) :=
  regPut_admitted coreDiv_plain hw (and_not_mask (n := 4) (by omega)) (by omega) ((coreDiv_codes ha).trans (if_pos h))

theorem coreDivWrite_refused {v : Nat} (hw : mayWrite w 0x001 s) (h16 : v < 16) (h : ¬ (8 ≤ v ∧ v ≤ 10))
    (ha : s.flag B.margin MARGIN.CTL_AUTO = false) :
    regPut w (B.clk + CLK.CORE_DIV.off) v s = wstat w 0x001 CLK.CORE_DIV.off .range (wakeWaiting s) := by
  have hc := (coreDiv_codes (w := w) (v := v) ha).trans (if_neg h)
  have e := regPut_refused coreDiv_plain hw (and_not_mask (n := 4) (by omega)) (by omega) (by rw [hc]; decide)
  rwa [hc] at e

/-! ### The root clock -/

theorem incSat_word (b o : Nat) (s : State) : (s.incSat b ⟨o, 0, 32⟩).fld b ⟨o, 0, 32⟩ = min (2 ^ 32 - 1) (s.fld b ⟨o, 0, 32⟩ + 1) := by
  unfold State.incSat
  rw [State.fld_setFld_same _ _ _ _ (show 0 + 32 ≤ 32 by decide)]
  unfold satInc
  dsimp only
  split <;> omega

/-- What a cycle of the collector leaves of a field of the clock page. -/
theorem collCycle_clk (f : Fld) (hf : f.off < 4096) (s : State) : (collCycle s).fld B.clk f = s.fld B.clk f :=
  (collCycle_runs (Runs.refl s)).fld (.inl (by unfold B.clk page; omega))

/-- What a lost root clock leaves to the collector (R22). -/
def rootLostAt (s : State) : State := (s.setDev { s.dev with rootLost := true }).raiseCond 0 0

theorem rootLostAt_lost (s : State) : (rootLostAt s).dev.rootLost = true := by
  unfold rootLostAt State.raiseCond
  split <;> rfl

theorem rootLostAt_fld (s : State) (f : Fld) : (rootLostAt s).fld B.clk f = s.fld B.clk f := by
  unfold rootLostAt
  rw [State.raiseCond_fld]
  rfl

theorem rootLost_dev (s : State) : (collCycle (rootLostAt s)).dev.rootLost = true :=
  ((collCycle_runs (Runs.refl (rootLostAt s))).devEq (·.rootLost) (fun _ _ => rfl)).trans (rootLostAt_lost s)

theorem rootLost_clk {f : Fld} (hf : f.off < 4096) (s : State) : (collCycle (rootLostAt s)).fld B.clk f = s.fld B.clk f :=
  (collCycle_clk f hf _).trans (rootLostAt_fld s f)

theorem rootLost_holds (s : State) : 0 ∈ (collCycle (rootLostAt s)).dev.conds := by
  rw [collCycle_conds]
  exact raiseCond_holds _ _ _

theorem rootLost_live (h : 0 ∉ s.dev.conds) : (collCycle (rootLostAt s)).live 0 = true :=
  (condCycle_effect (s := s.setDev { s.dev with rootLost := true }) h (by decide) (by decide) 0).1

/-- The root PLL out of lock. -/
def rootUnlocked (s : State) : State := (s.setFld B.clk CLK.CLK_STAT_ROOT_LOCK 0).incSat B.clk CLK.LOSS_CNT

theorem rootUnlocked_lock (s : State) : (rootUnlocked s).fld B.clk CLK.CLK_STAT_ROOT_LOCK = 0 := by
  unfold rootUnlocked State.incSat
  rw [State.fld_setFld_off _ _ (by decide), State.fld_setFld_same _ _ _ _ (by decide)]
  rfl

theorem rootUnlocked_count (s : State) :
    (rootUnlocked s).fld B.clk CLK.LOSS_CNT = min (2 ^ 32 - 1) (s.fld B.clk CLK.LOSS_CNT + 1) := by
  unfold rootUnlocked
  rw [show CLK.LOSS_CNT = ⟨CLK.LOSS_CNT.off, 0, 32⟩ from rfl, incSat_word, State.fld_setFld_off _ _ (by decide)]

theorem rootUnlocked_dev (s : State) : (rootUnlocked s).dev = s.dev := by
  unfold rootUnlocked
  rw [State.incSat_dev, State.setFld_dev]

theorem rootLoss_unlock (h : s.flag B.clk CLK.CLK_STAT_ROOT_LOCK = true) : rootLoss .pllUnlock s = collCycle (rootLostAt (rootUnlocked s)) := by
  have hc : s.clockFails .pllUnlock = true := h
  unfold rootLoss
  rw [hc]
  rfl

theorem rootLoss_unlocked (h : s.flag B.clk CLK.CLK_STAT_ROOT_LOCK = false) : rootLoss .pllUnlock s = s := by
  have hc : s.clockFails .pllUnlock = false := h
  unfold rootLoss
  rw [hc]
  rfl

theorem rootLoss_crystal (s : State) : rootLoss .crystal s = collCycle (rootLostAt (s.setFld B.clk CLK.CLK_STAT_XTAL_OK 0)) := rfl

/-! ### The DRAM PLL -/

/-- The DRAM PLL out of lock (R22). -/
def dramUnlocked (s : State) : State := (s.setFld B.clk CLK.CLK_STAT_DRAM_LOCK 0).incSat B.clk CLK.LOSS_CNT

theorem dramUnlocked_mem (s : State) : (dramUnlocked s).mem = s.mem := by
  unfold dramUnlocked
  rw [State.incSat_mem, State.setFld_mem]

theorem dramUnlocked_lock (s : State) : (dramUnlocked s).fld B.clk CLK.CLK_STAT_DRAM_LOCK = 0 := by
  unfold dramUnlocked State.incSat
  rw [State.fld_setFld_off _ _ (by decide), State.fld_setFld_same _ _ _ _ (by decide)]
  rfl

theorem dramUnlocked_count (s : State) :
    (dramUnlocked s).fld B.clk CLK.LOSS_CNT = min (2 ^ 32 - 1) (s.fld B.clk CLK.LOSS_CNT + 1) := by
  unfold dramUnlocked
  rw [show CLK.LOSS_CNT = ⟨CLK.LOSS_CNT.off, 0, 32⟩ from rfl, incSat_word, State.fld_setFld_off _ _ (by decide)]

/-! ### Rails -/

theorem inRange_false {lo hi v : Nat} (h : v < lo ∨ hi < v) : inRange lo hi v = false := by
  unfold inRange
  simp only [Bool.and_eq_false_iff, decide_eq_false_iff_not]
  omega

theorem inRange_true {lo hi v : Nat} (h : lo ≤ v) (h' : v ≤ hi) : inRange lo hi v = true := by
  unfold inRange
  simp only [Bool.and_eq_true, decide_eq_true_eq]
  exact ⟨h, h'⟩

/-- While PORn is low the rails VDD_AON and VDD_IO33 are only taken note of (R25). -/
theorem railOut_por (h : s.dev.porLow = true) (mv : Nat) : railOut .core mv s = s ∧
    railOut .aon mv s = { s with dev := { s.dev with aonOk := inRange 760 840 mv } } ∧
    railOut .io33 mv s = { s with dev := { s.dev with ioOk := inRange 3135 3465 mv } } := by
  unfold railOut State.railBad State.setDev
  simp [h]

theorem railOut_io33Bad {mv : Nat} (hp : s.dev.porLow = false) (hv : mv < 3135 ∨ 3465 < mv) (ho : s.dev.ioOk = true) :
    railOut .io33 mv s = io33Lost (s.setDev { s.dev with ioOk := false }) := by
  unfold railOut State.railBad
  rw [inRange_false hv]
  simp [hp, ho]

theorem railOut_io33Good {mv : Nat} (h : 3135 ≤ mv) (h' : mv ≤ 3465) :
    railOut .io33 mv s = { s with dev := { s.dev with ioOk := true } } := by
  unfold railOut State.railBad State.setDev
  rw [inRange_true h h']
  simp

theorem railOut_aonBad {mv : Nat} (hp : s.dev.porLow = false) (hv : mv < 760 ∨ 840 < mv) :
    railOut .aon mv s = collCycle ((s.setDev { s.dev with aonOk := false }).raiseCond 2 0) := by
  unfold railOut State.railBad
  rw [inRange_false hv]
  simp [hp]

theorem railOut_coreBad {mv : Nat} (hp : s.dev.porLow = false) (hv : mv < 720 ∨ 900 < mv) (hm : s.mode ≠ mVelvet) :
    railOut .core mv s = collCycle (s.raiseCond 1 0) := by
  unfold railOut State.railBad
  rw [inRange_false hv]
  simp [hp, hm]

/-- A condition that holds before the collector's cycle leaves the rail's own flag alone. -/
theorem condCycle_aon (s : State) (n : Nat) (d : W32) : (collCycle (s.raiseCond n d)).dev.aonOk = s.dev.aonOk := by
  rw [(collCycle_runs (Runs.refl (s.raiseCond n d))).devEq (·.aonOk) (fun _ _ => rfl)]
  unfold State.raiseCond
  split <;> rfl

theorem pairReadsWrong_ioOk (a : State) (n : Nat) : (pairReadsWrong a n).dev.ioOk = a.dev.ioOk := by
  unfold pairReadsWrong State.raiseCond
  split
  · split <;> rfl
  · rfl

theorem pairsWrong_ioOk (l : List Nat) (a : State) : (l.foldl pairReadsWrong a).dev.ioOk = a.dev.ioOk := by
  induction l generalizing a with
  | nil => rfl
  | cons n l ih => rw [List.foldl_cons, ih, pairReadsWrong_ioOk]

theorem io33Lost_ioOk (s : State) : (io33Lost s).dev.ioOk = s.dev.ioOk := by
  rw [io33Lost_eq, (collCycle_runs (Runs.refl _)).devEq (·.ioOk) (fun _ _ => rfl), pairsWrong_ioOk]
  unfold wavesWrong
  split <;> rfl

/-! ### AVSBus (R27, R28) -/

theorem avsRead_none_counts (h : s.dev.avsFails < 2) :
    avsRead none s = s.setDev { s.dev with avsFails := s.dev.avsFails + 1 } := by
  unfold avsRead
  simp only [if_neg (show ¬ 3 ≤ s.dev.avsFails + 1 by omega)]

/-- The AVSBus interface reports a fault and stops its transactions. -/
def avsFault (s : State) : State := (s.setDev { s.dev with avsFails := 0, avsBad := 0, avsStop := true }).raise 3

theorem avsRead_none_faults (h : 2 ≤ s.dev.avsFails) : avsRead none s = avsFault s := by
  unfold avsRead
  simp only [if_pos (show 3 ≤ s.dev.avsFails + 1 by omega)]
  rfl

theorem avsRead_onTarget {mv : Nat} (h : mv ≤ s.fld B.margin MARGIN.VSET + 15) (h' : s.fld B.margin MARGIN.VSET ≤ mv + 15) :
    avsRead (some mv) s = s.setDev { s.dev with avsFails := 0, avsBad := 0 } := by
  unfold avsRead
  simp only [decide_eq_false (show ¬ 15 < mv - s.fld B.margin MARGIN.VSET by omega),
    decide_eq_false (show ¬ 15 < s.fld B.margin MARGIN.VSET - mv by omega)]
  rfl

theorem avsRead_offTarget {mv : Nat} (h : s.fld B.margin MARGIN.VSET + 15 < mv ∨ mv + 15 < s.fld B.margin MARGIN.VSET) (hb : 9 ≤ s.dev.avsBad) :
    avsRead (some mv) s = avsFault s := by
  have hoff : (decide (15 < mv - s.fld B.margin MARGIN.VSET) || decide (15 < s.fld B.margin MARGIN.VSET - mv)) = true := by
    rw [Bool.or_eq_true, decide_eq_true_eq, decide_eq_true_eq]
    omega
  unfold avsRead
  simp only [hoff, if_pos (show True ∧ 10 ≤ s.dev.avsBad + 1 from ⟨trivial, by omega⟩)]
  rfl

theorem avsFault_report (s : State) : ∃ a, (avsFault s).raised = s.raised ++ [a] ∧ a.src = 3 ∧ (avsFault s).dev.avsStop = true :=
  ⟨_, rfl, rfl, rfl⟩

/-- The root PLL's loss of lock is reported and counted (R22). -/
theorem rootUnlocked_effect (s : State) :
    let t := collCycle (rootLostAt (rootUnlocked s))
    t.fld B.clk CLK.CLK_STAT_ROOT_LOCK = 0 ∧ t.dev.rootLost = true ∧ 0 ∈ t.dev.conds ∧ (0 ∉ s.dev.conds → t.live 0 = true) ∧
      t.fld B.clk CLK.LOSS_CNT = min (2 ^ 32 - 1) (s.fld B.clk CLK.LOSS_CNT + 1) := by
  refine ⟨?_, rootLost_dev _, rootLost_holds _, fun h => rootLost_live (by rwa [rootUnlocked_dev]), ?_⟩
  · rw [rootLost_clk (by decide), rootUnlocked_lock]
  · rw [rootLost_clk (by decide), rootUnlocked_count]

theorem crystalLost_effect (s : State) :
    let t := collCycle (rootLostAt (s.setFld B.clk CLK.CLK_STAT_XTAL_OK 0))
    t.fld B.clk CLK.CLK_STAT_XTAL_OK = 0 ∧ t.dev.rootLost = true := by
  refine ⟨?_, rootLost_dev _⟩
  rw [rootLost_clk (by decide), State.fld_setFld_same _ _ _ _ (by decide)]
  rfl

/-- Without VDD_IO33 what it drives reads back wrong (R488). -/
theorem io33Off_effect (s : State) :
    let t := io33Lost (s.setDev { s.dev with ioOk := false })
    t.dev.ioOk = false ∧ (s.flag B.coll COLL.STAT_FAULT_RUN = true → t.live 7 = true) ∧
      ∀ n, n < 8 → s.stoRun n = true → 448 + n ∉ s.dev.conds → t.live (448 + n) = true ∧ 448 + n ∈ t.dev.conds :=
  ⟨io33Lost_ioOk _, fun h => io33Lost_waves (s := s.setDev { s.dev with ioOk := false }) h,
    fun _ hn hr hc => io33Lost_pair (s := s.setDev { s.dev with ioOk := false }) hn hr hc⟩

/-- Settles O38: each event's handler is one of the operations above, and a cycle of the collector takes what it reports. -/
theorem clockAndSupplyRows : Obligations.ClockAndSupplyRows := by
  unfold Obligations.ClockAndSupplyRows
  intro s w
  refine ⟨fun v hw h8 h10 ha => ?_, fun v hw h16 hv ha => ?_, fun hl => ?_, fun hl => congrArg Host.Outcome.next (rootLoss_unlocked hl), ?_, fun mv hp => ?_,
    fun mv hp hv ho => ?_, fun mv _ hlo hhi => congrArg Host.Outcome.next (railOut_io33Good hlo hhi), fun mv hp hv hc => ?_, fun mv hp hv hm hc => ?_,
    fun mv hm hv => ?_, fun hf => ?_, fun hf => ?_, ?_, ?_, fun hl => ?_⟩
  · obtain ⟨hdiv, hnow, ho⟩ := setDiv_effect (show v.toNat < 16 by omega) (wakeWaiting s)
    exact ⟨_, congrArg Host.Outcome.next (coreDivWrite_effect hw ⟨h8, h10⟩ ha), hdiv, hnow, ho.mem.trans (wakeWaiting_mem s), ho.threads⟩
  · refine ⟨_, congrArg Host.Outcome.next (coreDivWrite_refused hw h16 (by omega) ha), wstat_code w (by decide) _ _ _, ?_⟩
    rw [wstat_rd (by decide)]
    exact wakeWaiting_rd s _
  · exact ⟨_, congrArg Host.Outcome.next (rootLoss_unlock hl), rootUnlocked_effect s⟩
  · exact ⟨_, congrArg Host.Outcome.next (rootLoss_crystal s), crystalLost_effect s⟩
  · obtain ⟨hc, ha, hi⟩ := railOut_por hp mv
    exact ⟨congrArg Host.Outcome.next hc, congrArg Host.Outcome.next ha, congrArg Host.Outcome.next hi⟩
  · exact ⟨_, congrArg Host.Outcome.next (railOut_io33Bad hp hv ho), io33Off_effect s⟩
  · obtain ⟨hlive, hcond⟩ := condCycle_effect (s := s.setDev { s.dev with aonOk := false }) (n := 2) hc (by decide) (by decide) 0
    exact ⟨_, congrArg Host.Outcome.next (railOut_aonBad hp hv), hlive, hcond, condCycle_aon _ _ _⟩
  · obtain ⟨hlive, hcond⟩ := condCycle_effect (s := s) (n := 1) hc (by decide) (by decide) 0
    exact ⟨_, congrArg Host.Outcome.next (railOut_coreBad hp hv hm), hlive, hcond⟩
  · exact ⟨_, congrArg Host.Outcome.next (if_pos ⟨hm, hv⟩), rfl, rfl, rfl⟩
  · exact ⟨_, congrArg Host.Outcome.next (avsRead_none_counts hf), rfl, rfl⟩
  · obtain ⟨a, hr, hs, hstop⟩ := avsFault_report s
    exact ⟨_, a, congrArg Host.Outcome.next (avsRead_none_faults hf), hr, hs, hstop⟩
  · intro mv set h h'
    exact ⟨_, congrArg Host.Outcome.next (avsRead_onTarget h h'), rfl, rfl, rfl⟩
  · intro mv set h hb
    obtain ⟨a, hr, hs, -⟩ := avsFault_report s
    exact ⟨_, a, congrArg Host.Outcome.next (avsRead_offTarget h hb), hr, hs⟩
  · exact ⟨_, congrArg Host.Outcome.next (if_pos hl), dramUnlocked_lock s, dramUnlocked_count s, dramUnlocked_mem s⟩

end Sys2Proof.Machine
end

section
/-! Requests that wait for the YCP engine (R387). -/
namespace Sys2Proof.Machine

variable {s t : State}

theorem cellFind_mem {α : Type} {k : Nat} {x : α} : ∀ {l : List (Nat × α)}, cellFind k l = some x → (k, x) ∈ l
  | [], h => by cases h
  | (j, v) :: l, h => by
    unfold cellFind at h
    split at h
    next hj => cases h; subst hj; exact List.mem_cons_self
    next => exact List.mem_cons_of_mem _ (cellFind_mem h)

/-- A session whose request the engine executes keeps the engine busy. -/
theorem ycpBusy_of_exec {p : Nat} {x : Session} (h : s.ycp.sess.find p = some x) (he : x.exec.isSome) : s.ycpBusy = true := by
  have hb : s.ycp.sess.cells.any (fun c => c.2.exec.isSome) = true := List.any_eq_true.2 ⟨_, cellFind_mem h, he⟩
  unfold State.ycpBusy
  rw [hb]
  rfl

/-- Where no held request can go on, the engine leaves the state alone. -/
theorem ycpDrain_calm (hc : ycpCalm s = true) {p : Nat} (hp : p < 8) (n : Nat) : ycpDrain p n s = s := by
  cases n with
  | zero => rfl
  | succ n =>
    have hx := List.all_eq_true.1 hc p (List.mem_range.2 hp)
    unfold ycpDrain
    split
    · rfl
    · rename_i x hf
      rw [hf, Option.all_some, Bool.or_eq_true, Bool.and_eq_true, decide_eq_true_eq, Option.isNone_iff_eq_none] at hx
      rcases hx with he | ⟨hlt, hnone⟩
      · rw [if_pos (ycpBusy_of_exec hf he)]
      · rw [if_neg (Nat.not_le.2 hlt), hnone]
        simp

theorem ycpDrainAll_calm (hc : ycpCalm s = true) : ycpDrainAll s = s := by
  have h : ∀ l : List Nat, (∀ p ∈ l, p < 8) → l.foldl (fun a p => ycpDrain p drainFuel a) s = s := by
    intro l
    induction l with
    | nil => intro _; rfl
    | cons p l ih =>
      intro hl
      rw [List.foldl_cons, ycpDrain_calm hc (hl p List.mem_cons_self), ih (fun q hq => hl q (List.mem_cons_of_mem _ hq))]
  exact h _ (fun p hp => List.mem_range.1 hp)

theorem ycpCalm_congr (h : t.ycp = s.ycp) : ycpCalm t = ycpCalm s := by unfold ycpCalm; rw [h]

theorem ycpCalm_noSession (h : s.ycp.sess = {}) : ycpCalm s = true := by
  unfold ycpCalm
  rw [h]
  rfl

end Sys2Proof.Machine
end

section
/-! What becomes of a mode request (R37, R38, R434). -/
namespace Sys2Proof.Machine

variable {s : State} {w : Writer} {t v : Nat}

/-- SYS.MODE_RES shows a result that answers no session and gives nothing up. -/
theorem modeResult_fields (c : Code) (ht : t < 8) (s : State) :
    (modeResult c t false none s).fld B.sys SYS.MODE_RES_CODE = c.num ∧ (modeResult c t false none s).fld B.sys SYS.MODE_RES_TARGET = t ∧
      (modeResult c t false none s).fld B.sys SYS.MODE_RES_ABANDONED = 0 ∧
      (modeResult c t false none s).fld B.sys SYS.MODE_RES_SEQ = (s.fld B.sys SYS.MODE_RES_SEQ + 1) % 65536 := by
  have hc : c.num < 16 := by cases c <;> decide
  have hn : (s.fld B.sys SYS.MODE_RES_SEQ + 1) % 65536 < 65536 := Nat.mod_lt _ (by decide)
  generalize hseq : (s.fld B.sys SYS.MODE_RES_SEQ + 1) % 65536 = n at hn
  have e (f : Fld) (hf : f.off = SYS.MODE_RES.off) : (modeResult c t false none s).fld B.sys f =
      nbits ((c.num + t * 256 + n * 65536) % 2 ^ 32) f.lo f.wd := by
    unfold modeResult
    rw [hseq, ← hf]
    refine (State.fld_wr_same s B.sys f _).trans ?_
    unfold bf
    rw [BitVec.toNat_ofNat]
    rfl
  refine ⟨(e SYS.MODE_RES_CODE rfl).trans ?_, (e SYS.MODE_RES_TARGET rfl).trans ?_, (e SYS.MODE_RES_ABANDONED rfl).trans ?_,
    (e SYS.MODE_RES_SEQ rfl).trans ?_⟩ <;> unfold nbits
  · show _ / 2 ^ 0 % 2 ^ 8 = _; omega
  · show _ / 2 ^ 8 % 2 ^ 3 = _; omega
  · show _ / 2 ^ 11 % 2 ^ 1 = _; omega
  · show _ / 2 ^ 16 % 2 ^ 16 = _; omega

theorem modeResult_onlyRegs (c : Code) (t : Nat) (s : State) : OnlyRegs s (modeResult c t false none s) := (OnlyRegs.refl s).wr

theorem modeResult_fld {b : Nat} {f : Fld} (h : b + f.off ≠ B.sys + SYS.MODE_RES.off) (c : Code) (t : Nat) (s : State) :
    (modeResult c t false none s).fld b f = s.fld b f := State.fld_wr_off s _ h

theorem modeResult_mode (c : Code) (t : Nat) (s : State) : (modeResult c t false none s).mode = s.mode := modeResult_fld (by decide) c t s

/-- A transition has been requested (R37). -/
def transBegun (t : Nat) (s : State) : State := (s.setDev { s.dev with trans := some ⟨t, none⟩ }).setFld B.sys SYS.MODE_BUSY 1

theorem transBegun_rd {k : Nat} (hk : k ≠ B.sys + SYS.MODE_BUSY.off) (t : Nat) (s : State) : (transBegun t s).rd k = s.rd k :=
  State.rd_setFld_off (s.setDev { s.dev with trans := some ⟨t, none⟩ }) _ hk

theorem transBegun_mode (t : Nat) (s : State) : (transBegun t s).mode = s.mode := by
  unfold transBegun State.mode
  rw [State.fld_setFld_apart (f := SYS.MODE_BUSY) (f' := SYS.MODE_CUR) _ _ _ rfl (by decide) (by decide)]
  rfl

theorem transBegun_busy (t : Nat) (s : State) : (transBegun t s).fld B.sys SYS.MODE_BUSY = 1 := by
  unfold transBegun
  rw [State.fld_setFld_same _ _ _ _ (by decide)]
  rfl

theorem transBegun_sev {n : Nat} (t : Nat) (s : State) : (transBegun t s).sev n = s.sev n := by
  unfold State.sev State.fld
  rw [transBegun_rd (by unfold B.sev B.sys page SYS.MODE_BUSY; dsimp only; omega)]

theorem safeCrc_congr {x : State} (h : ∀ k, k ∈ safeKeys → x.rd k = s.rd k) : x.safeCrc = s.safeCrc := by
  unfold State.safeCrc
  rw [List.flatMap_congr (fun k hk => by rw [h k hk])]

theorem modeBusy_not_safeKey : B.sys + SYS.MODE_BUSY.off ∉ safeKeys := by decide

/-- The check of the safety configuration does not look at SYS.MODE (R434). -/
theorem transBegun_safeCrc (t : Nat) (s : State) : (transBegun t s).safeCrc = s.safeCrc :=
  safeCrc_congr fun _ hk => transBegun_rd (fun h => modeBusy_not_safeKey (h ▸ hk)) t s

theorem modeRequest_result (h : Code.lowest (modeCodes t s) ≠ .ok ∨ t = s.mode) :
    modeRequest t none s = modeResult (Code.lowest (modeCodes t s)) t false none s := if_pos h

/-- What a request does that starts a transition. -/
theorem modeRequest_begins (hc : Code.lowest (modeCodes t s) = .ok) (ht : t ≠ s.mode) : modeRequest t none s =
    if inRange mTwill mJersey t ∧ s.safeCrc ≠ s.rd (B.coll + COLL.SAFE_CRC_EXP.off) then collCycle ((transBegun t s).raise 461)
    else handAll t (transBegun t s) := by
  rw [← transBegun_safeCrc t s, ← transBegun_rd (k := B.coll + COLL.SAFE_CRC_EXP.off) (by decide) t s]
  unfold modeRequest
  dsimp only
  rw [if_neg (by simp [hc, ht])]
  rfl

theorem handBegun_effect (t : Nat) (s : State) :
    (handAll t (transBegun t s)).dev.trans = some ⟨t, none⟩ ∧ (handAll t (transBegun t s)).fld B.sys SYS.MODE_BUSY = 1 ∧
      (handAll t (transBegun t s)).mode = s.mode ∧
      (handAll t (transBegun t s)).rd (B.sys + SYS.MODE_RES.off) = s.rd (B.sys + SYS.MODE_RES.off) := by
  have h : Runs false (transBegun t s) (handAll t (transBegun t s)) := handAll_runs (Runs.refl _)
  exact ⟨h.devEq (·.trans) (fun _ _ => rfl), (h.fld (.inl (by decide))).trans (transBegun_busy t s), h.mode.trans (transBegun_mode t s),
    (h.rd _ (.inl (by decide))).trans (transBegun_rd (by decide) t s)⟩

/-- Where the safety configuration fails its check, source 461 is asserted, at its severity of reset a Safe stop (R434). -/
theorem safeBad_effect (h : s.sev 461 = 3) (t : Nat) :
    (collCycle ((transBegun t s).raise 461)).live 461 = true ∧ (collCycle ((transBegun t s).raise 461)).stopDue = true := by
  obtain ⟨x, hx, hs⟩ := raise_source (n := 461) (by decide) (transBegun t s)
  have he := collCycle_effect hx (by rw [hs]; decide)
  rw [hs] at he
  exact ⟨he.1, he.2 ((transBegun_sev t s).trans h)⟩

/-- What a write to SYS.MODE_REQ asks for (R37). -/
theorem modeReqWrite (hw : mayWrite w 0x000 s) (hv : v < 8) : regPut w (B.sys + SYS.MODE_REQ.off) v s = modeRequest v none (wakeWaiting s) := by
  have hdo : blockDo .sys 0x000 SYS.MODE_REQ.off v (wakeWaiting s) = modeRequest (v % 8) none (wakeWaiting s) := rfl
  rw [← Nat.mod_eq_of_lt hv, ← hdo, Nat.mod_eq_of_lt hv]
  exact regPut_admitted modeReq_plain hw (and_not_mask (n := 3) hv) (by omega) rfl

/-- The end of waits that comes with a register access leaves all that a mode request looks at. -/
theorem modeCodes_wakeWaiting (t : Nat) (s : State) : modeCodes t (wakeWaiting s) = modeCodes t s := by
  rw [wakeWaiting_eq]
  rfl

theorem wakeWaiting_fld (s : State) (b : Nat) (f : Fld) : (wakeWaiting s).fld b f = s.fld b f := State.fld_congr (wakeWaiting_regs s) b f

theorem wakeWaiting_dev (s : State) : (wakeWaiting s).dev = s.dev := by rw [wakeWaiting_eq]

theorem wakeWaiting_safeCrc (s : State) : (wakeWaiting s).safeCrc = s.safeCrc := safeCrc_congr fun k _ => wakeWaiting_rd s k

theorem wakeWaiting_mode (s : State) : (wakeWaiting s).mode = s.mode := wakeWaiting_fld s _ _

end Sys2Proof.Machine
end

section
/-! The end of a transition (R37, R73). -/
namespace Sys2Proof.Machine

variable {s : State} {tg : Nat}

theorem transitionEnds_waits (ht : s.dev.trans = some ⟨tg, none⟩) (hs : s.stopDue = false) (hh : s.handing = false)
    (ha : (handAll tg s).handing = true) : transitionEnds s = handAll tg s := by
  unfold transitionEnds
  rw [ht]
  simp [hs, hh, ha]

/-- The hand-overs are done: no transition is in progress any more. -/
def transOver (tg : Nat) (s : State) : State := (handAll tg s).setDev { (handAll tg s).dev with trans := none }

theorem transOver_runs (tg : Nat) (s : State) : Runs false (s.setDev { s.dev with trans := none }) (transOver tg s) := by
  have h : Runs false s (handAll tg s) := handAll_runs (Runs.refl s)
  refine ⟨⟨h.rd, h.live, h.mem, ?_, h.now, h.ycp, h.avs, h.stop⟩, h.threads, h.lost⟩
  unfold transOver
  rw [State.setDev_dev, h.dev]
  rfl

theorem transitionEnds_enters (ht : s.dev.trans = some ⟨tg, none⟩) (hs : s.stopDue = false) (hh : s.handing = false)
    (ha : (handAll tg s).handing = false) (hg : 2 ≤ tg ∧ tg ≤ 5) :
    transitionEnds s = modeResult .ok tg false none (enterMode tg 1 (transOver tg s)) := by
  unfold transitionEnds
  rw [ht]
  simp only [hs, hh, ha, Bool.false_eq_true, or_self, if_false, Option.isSome_none]
  rw [if_neg (by unfold mGauze; omega), if_neg (by unfold mFelt; omega), if_neg (by unfold mVelvet; omega)]
  rfl

theorem modeWritten_fld {m cause b : Nat} {f : Fld} (h : b + f.off ≠ B.sys + SYS.MODE.off) (s : State) :
    (modeWritten m cause s).fld b f = s.fld b f := State.fld_wr_off s _ h

theorem modeWritten_prev {m cause : Nat} (hm : m < 8) (s : State) : (modeWritten m cause s).fld B.sys SYS.MODE_PREV = s.mode := by
  have hs : s.mode < 8 := Nat.mod_lt _ (by decide)
  refine (State.fld_wr_same s B.sys SYS.MODE_PREV _).trans ?_
  unfold bf nbits
  rw [BitVec.toNat_ofNat]
  show _ / 2 ^ 4 % 2 ^ 3 = _
  omega

theorem modeWritten_busy {m cause : Nat} (hm : m < 8) (hc : cause < 8) (s : State) : (modeWritten m cause s).fld B.sys SYS.MODE_BUSY = 0 := by
  have hs : s.mode < 8 := Nat.mod_lt _ (by decide)
  refine (State.fld_wr_same s B.sys SYS.MODE_BUSY _).trans ?_
  unfold bf nbits
  rw [BitVec.toNat_ofNat]
  show _ / 2 ^ 16 % 2 ^ 1 = _
  omega

/-- SYS.MODE after a transition into a mode in which software runs, its result, and what nobody else of the transition touches. -/
theorem entered_effect (hg : 2 ≤ tg ∧ tg ≤ 5) (s : State) :
    let t := modeResult .ok tg false none (enterMode tg 1 (transOver tg s))
    t.mode = tg ∧ t.fld B.sys SYS.MODE_PREV = s.mode ∧ t.fld B.sys SYS.MODE_BUSY = 0 ∧ t.dev.trans = none ∧ t.ycp = s.ycp ∧
      t.fld B.sys SYS.MODE_RES_CODE = Code.ok.num ∧ t.fld B.sys SYS.MODE_RES_TARGET = tg ∧ t.fld B.sys SYS.MODE_RES_ABANDONED = 0 ∧
      t.fld B.sys SYS.MODE_RES_SEQ = (s.fld B.sys SYS.MODE_RES_SEQ + 1) % 65536 := by
  intro t
  have h : Runs false (modeWritten tg 1 (transOver tg s)) (enterMode tg 1 (transOver tg s)) := enterMode_runs hg 1 _
  have ho := transOver_runs tg s
  have hmode : (transOver tg s).mode = s.mode := ho.mode
  have hseq : (enterMode tg 1 (transOver tg s)).fld B.sys SYS.MODE_RES_SEQ = s.fld B.sys SYS.MODE_RES_SEQ := by
    rw [h.fld (.inl (by decide)), modeWritten_fld (by decide), ho.fld (.inl (by decide))]
    rfl
  have hfields := modeResult_fields .ok (show tg < 8 by omega) (enterMode tg 1 (transOver tg s))
  rw [hseq] at hfields
  refine ⟨?_, ?_, ?_, ?_, ?_, hfields⟩
  · exact (modeResult_mode _ _ _).trans (enterMode_mode (by omega) _ _)
  · rw [modeResult_fld (by decide), h.fld (.inl (by decide)), modeWritten_prev (by omega), hmode]
  · rw [modeResult_fld (by decide), h.fld (.inl (by decide)), modeWritten_busy (by omega) (by decide)]
  · rw [(modeResult_onlyRegs _ _ _).dev, h.devEq (·.trans) (fun _ _ => rfl)]
    rfl
  · show (enterMode tg 1 (transOver tg s)).ycp = s.ycp
    exact h.ycp.trans ho.ycp

end Sys2Proof.Machine
end

section
/-! The table of R38, and the rows of mode requests. -/
namespace Sys2Proof.Machine

variable {s : State} {t : Nat}

theorem modeCodes_muslin (h : s.mode = mMuslin) : Code.lowest (modeCodes t s) = .state := by
  unfold modeCodes
  rw [if_pos h]
  rfl

/-- Outside Muslin and Gauze, with no transition in progress, the table decides. -/
theorem modeCodes_table (h0 : s.mode ≠ mMuslin) (h1 : s.mode ≠ mGauze) (hn : s.dev.trans = none) (ht : t ≠ s.mode) :
    modeCodes t s = modeTable s.mode t s := by
  unfold modeCodes
  dsimp only
  rw [if_neg h0, if_neg h1, if_neg ht, hn]
  rfl

theorem modeCodes_busy (h0 : s.mode ≠ mMuslin) (h1 : s.mode ≠ mGauze) (hs : s.dev.trans.isSome = true) (ht : t = s.mode) :
    Code.lowest (modeCodes t s) = .busy := by
  unfold modeCodes
  dsimp only
  rw [if_neg h0, if_neg h1, if_pos ht, hs]
  rfl

theorem lowest_refuseIf (b : Bool) (c : Code) : Code.lowest (refuseIf b c) = if b then c else .ok := by
  cases b with
  | false => rfl
  | true =>
    show (if c = .ok then Code.ok else if Code.ok = .ok then c else _) = c
    split
    next h => exact h.symm
    next => rfl

/-- Calico admits Jersey while no stop is latched and no input reports a discrepancy. -/
theorem modeCodes_jersey (hm : s.mode = mCalico) (hn : s.dev.trans = none) (ht : t = mJersey) :
    Code.lowest (modeCodes t s) = .ok ↔ s.ssLatched = false ∧ s.siBad = false := by
  subst ht
  rw [modeCodes_table (by rw [hm]; decide) (by rw [hm]; decide) hn (by rw [hm]; decide), hm,
    show modeTable mCalico mJersey s = refuseIf (s.ssLatched || s.siBad) .state from rfl, lowest_refuseIf, ← Bool.or_eq_false_iff]
  cases s.ssLatched || s.siBad <;> decide

theorem modeCodes_felt (hm : s.mode = mCalico) (hn : s.dev.trans = none) (ht : t = mGauze ∨ t = mFelt) : Code.lowest (modeCodes t s) = .ok := by
  rw [modeCodes_table (by rw [hm]; decide) (by rw [hm]; decide) hn (by rw [hm]; rcases ht with rfl | rfl <;> decide), hm]
  rcases ht with rfl | rfl <;> rfl

theorem modeCodes_calico (hm : s.mode = mTwill ∨ s.mode = mDamask ∨ s.mode = mJersey) (hn : s.dev.trans = none) (ht : t = mCalico) :
    Code.lowest (modeCodes t s) = if s.queueActive then .busy else .ok := by
  subst ht
  have e : modeCodes mCalico s = refuseIf s.queueActive .busy := by
    rcases hm with h | h | h <;>
      rw [modeCodes_table (by rw [h]; decide) (by rw [h]; decide) hn (by rw [h]; decide), h] <;> rfl
  rw [e, lowest_refuseIf]

theorem modeCodes_damask (hm : s.mode = mTwill) (hn : s.dev.trans = none) (ht : t = mDamask) :
    Code.lowest (modeCodes t s) = if s.tainted then .taint else .ok := by
  subst ht
  rw [modeCodes_table (by rw [hm]; decide) (by rw [hm]; decide) hn (by rw [hm]; decide), hm,
    show modeTable mTwill mDamask s = refuseIf s.tainted .taint from rfl, lowest_refuseIf]

/-- A request that starts no transition: its result, and nothing else (R37). -/
theorem modeRequest_refused_effect {x : State} (hx : ∀ b f, x.fld b f = s.fld b f) (hd : x.dev = s.dev) {c : Code} (ht : t < 8) :
    let y := modeResult c t false none x
    (y.fld B.sys SYS.MODE_RES_CODE = c.num ∧ y.fld B.sys SYS.MODE_RES_TARGET = t ∧ y.fld B.sys SYS.MODE_RES_ABANDONED = 0 ∧
      y.fld B.sys SYS.MODE_RES_SEQ = (s.fld B.sys SYS.MODE_RES_SEQ + 1) % 65536) ∧ y.mode = s.mode ∧ y.dev = s.dev := by
  intro y
  have h := modeResult_fields c ht x
  rw [hx] at h
  exact ⟨h, (modeResult_mode c t x).trans (hx _ _), (modeResult_onlyRegs c t x).dev.trans hd⟩

theorem modeReq_refused {w : Writer} (hw : mayWrite w 0x000 s) (ht : t < 8) (h : Code.lowest (modeCodes t s) ≠ .ok ∨ t = s.mode) :
    regPut w (B.sys + SYS.MODE_REQ.off) t s = modeResult (Code.lowest (modeCodes t s)) t false none (wakeWaiting s) := by
  rw [modeReqWrite hw ht, modeRequest_result (by rwa [modeCodes_wakeWaiting, wakeWaiting_mode]), modeCodes_wakeWaiting]

theorem modeReq_begins {w : Writer} (hw : mayWrite w 0x000 s) (ht : t < 8) (hc : Code.lowest (modeCodes t s) = .ok) (hm : t ≠ s.mode) :
    regPut w (B.sys + SYS.MODE_REQ.off) t s =
      if inRange mTwill mJersey t ∧ s.safeCrc ≠ s.rd (B.coll + COLL.SAFE_CRC_EXP.off) then collCycle ((transBegun t (wakeWaiting s)).raise 461)
      else handAll t (transBegun t (wakeWaiting s)) := by
  rw [modeReqWrite hw ht, modeRequest_begins (by rwa [modeCodes_wakeWaiting]) (by rwa [wakeWaiting_mode]), wakeWaiting_safeCrc, wakeWaiting_rd]

theorem inRange_iff {lo hi v : Nat} : inRange lo hi v = true ↔ lo ≤ v ∧ v ≤ hi := by
  unfold inRange
  rw [Bool.and_eq_true, decide_eq_true_eq, decide_eq_true_eq]

/-- Settles O39: a request is answered, refused by its check or starts the hand-overs; a transition ends once they have. -/
theorem modeRows : Obligations.ModeRows := by
  unfold Obligations.ModeRows
  intro s w v c checked result
  refine ⟨fun hw hv h => ?_, fun hw hv hc hm hk => ?_, fun hw hv hc hm hk hcrc hsev => ?_, fun tg ht hs hh ha hy => ?_,
    fun tg h2 h5 ht hs hh ha hy => ?_, modeCodes_muslin, modeCodes_jersey, modeCodes_felt, modeCodes_calico, modeCodes_damask, modeCodes_busy⟩
  · exact ⟨_, congrArg Host.Outcome.next (modeReq_refused hw hv h), modeRequest_refused_effect (wakeWaiting_fld s) (wakeWaiting_dev s) hv⟩
  · have e := modeReq_begins hw hv hc hm
    rw [if_neg (fun h => h.2 (hk (inRange_iff.1 h.1)))] at e
    obtain ⟨htr, hb, hmode, hres⟩ := handBegun_effect v.toNat (wakeWaiting s)
    exact ⟨_, congrArg Host.Outcome.next e, htr, hb, hmode.trans (wakeWaiting_mode s), hres.trans (wakeWaiting_rd s _)⟩
  · have e := modeReq_begins hw hv hc hm
    rw [if_pos ⟨inRange_iff.2 hk, hcrc⟩] at e
    exact ⟨_, congrArg Host.Outcome.next e, safeBad_effect ((wakeWaiting_fld s _ _).trans hsev) _⟩
  · have hk : Runs false s (handAll tg s) := handAll_runs (Runs.refl s)
    refine congrArg Host.Outcome.next ?_
    rw [transitionEnds_waits ht hs hh ha, ycpDrainAll_calm ((ycpCalm_congr hk.ycp).trans hy)]
  · obtain ⟨hmode, hprev, hbusy, htr, hycp, hres⟩ := entered_effect ⟨h2, h5⟩ s
    refine ⟨_, congrArg Host.Outcome.next ?_, hmode, hprev, hbusy, htr, hres⟩
    rw [transitionEnds_enters ht hs hh ha ⟨h2, h5⟩]
    exact ycpDrainAll_calm ((ycpCalm_congr hycp).trans (ycpCalm_noSession hy))

end Sys2Proof.Machine
end

section
/-! The first steps of boot and wake: clocks, fuses, collector, comparators (R35, R44, R488). -/
namespace Sys2Proof.Machine

variable {c : Bool} {s t : State} {e : BootEnv}

theorem Keeps.setDev {d : Dev} (h : Keeps c s t) (hd : d = { t.dev with perCtl := d.perCtl }) : Keeps c s (t.setDev d) :=
  h.trans ⟨fun _ _ => rfl, fun _ _ hl => hl, rfl, hd, rfl, rfl, fun _ hm => hm, id⟩

/-- The root clock runs (R35 step 1). -/
def clocked (s : State) : State := (s.setFld B.clk CLK.CLK_STAT_ROOT_LOCK 1).setFld B.clk CLK.CLK_STAT_XTAL_OK 1

theorem clocked_onlyRegs (s : State) : OnlyRegs s (clocked s) := (OnlyRegs.refl s).wr.wr

theorem clocked_rd {k : Nat} (hk : k ≠ B.clk + CLK.CLK_STAT_ROOT_LOCK.off) (s : State) : (clocked s).rd k = s.rd k := by
  unfold clocked
  rw [State.rd_setFld_off _ _ (show k ≠ B.clk + CLK.CLK_STAT_XTAL_OK.off from hk), State.rd_setFld_off _ _ hk]

/-- The note of a burn that failed is cleared. -/
def unburnt (s : State) : State := s.setDev { s.dev with fuses := { s.dev.fuses with burnFailed := false } }

theorem unburnt_clean (h : s.dev.fuses.burnFailed = false) : unburnt s = s := by
  have hf : { s.dev.fuses with burnFailed := false } = s.dev.fuses := by rw [← h]
  unfold unburnt
  rw [hf]
  rfl

/-- Steps 1 and 2 of R35. -/
def bootFuses (e : BootEnv) (s : State) : State :=
  let s2 := if e.fuseError then (clocked s).raise 12 else clocked s
  if s2.dev.fuses.burnFailed then (unburnt s2).raise 471 else s2

theorem unburnt_raise_runs (x : State) (n m : Nat) : Runs c (unburnt x) ((unburnt (x.raise n)).raise m) := Runs.other (Runs.refl _) rfl

theorem fusesLoaded_runs (x : State) : Runs c (unburnt x) (if x.dev.fuses.burnFailed then (unburnt x).raise 471 else x) := by
  split
  · exact Runs.raise (Runs.refl _)
  · rename_i h
    rw [unburnt_clean (Bool.eq_false_iff.2 h)]
    exact Runs.refl x

theorem bootFuses_runs (e : BootEnv) (s : State) : Runs c (unburnt (clocked s)) (bootFuses e s) := by
  unfold bootFuses
  generalize clocked s = x
  dsimp only
  by_cases he : e.fuseError = true
  · rw [if_pos he]
    exact (Runs.other (Runs.refl (unburnt x)) (show unburnt (x.raise 12) = _ from rfl)).trans (fusesLoaded_runs (x.raise 12))
  · rw [if_neg he]
    exact fusesLoaded_runs x

/-- With no error in the fuses only the clocks change. -/
theorem bootFuses_clean (he : e.fuseError = false) (hb : s.dev.fuses.burnFailed = false) : bootFuses e s = clocked s := by
  have hc : (clocked s).dev.fuses.burnFailed = false := by rw [(clocked_onlyRegs s).dev]; exact hb
  unfold bootFuses
  simp only [he, Bool.false_eq_true, if_false, hc]

/-- The device in Muslin for good. -/
def stuckAt (s : State) : State := s.setDev { s.dev with phase := .stuck }

theorem bootStops_runs (s : State) : Runs c (stuckAt s) (bootStops s) :=
  faultBalls_runs (Runs.modColl (f := fun c => { c with started := false }) (Runs.refl (stuckAt s)) (fun _ hx => hx))

theorem bootStops_phase (s : State) : (bootStops s).dev.phase = .stuck := (bootStops_runs (c := false) s).devEq (·.phase) (fun _ _ => rfl)

theorem bootStops_mode (s : State) : (bootStops s).mode = s.mode := (bootStops_runs (c := false) s).mode

/-- A copy of the collector that has not started keeps FAULT_A and FAULT_B stopped. -/
theorem faultBalls_stopped (h : s.coll.started = false) : (faultBalls s).fld B.coll COLL.STAT_FAULT_RUN = 0 := by
  unfold faultBalls State.bothColl State.modColl
  dsimp only
  rw [State.fld_setFld_same _ _ _ _ (by decide), h]
  rfl

theorem bootStops_faultRun (s : State) : (bootStops s).fld B.coll COLL.STAT_FAULT_RUN = 0 := faultBalls_stopped rfl

/-- The collector runs and its comparators pass (R35 steps 3 and 4). -/
def bootUp (e : BootEnv) (s : State) : State := faultBalls ((bootFuses e s).modColl (fun c => { c with started := true }))

theorem bootUp_runs (e : BootEnv) (s : State) : Runs c (unburnt (clocked s)) (bootUp e s) :=
  faultBalls_runs (Runs.modColl (f := fun c => { c with started := true }) (bootFuses_runs e s) (fun _ hx => hx))

theorem bootUp_lost (e : BootEnv) (s : State) (n : Nat) : ((bootUp e s).trio n).lost = (s.trio n).lost := (bootUp_runs (c := false) e s).lost n

/-- With TESTEN high, or without the collector, the device stays in Muslin. -/
theorem bootStart_stops (h : e.collectorOk = false ∨ e.testEn = true) : bootStart e s = (false, bootStops (bootFuses e s)) := by
  unfold bootStart
  rw [if_pos (by rcases h with h | h <;> simp [h])]
  rfl

/-- With all good, what decides is whether trio 0's identity has a trio. -/
theorem bootStart_allGood (h : allGood e) :
    bootStart e s = if (s.trio 0).lost then (false, bootStops (bootUp e s)) else (true, bootUp e s) := by
  obtain ⟨ht, hk, htrio, haau⟩ := h
  rw [← bootUp_lost e s 0]
  unfold bootStart
  rw [if_neg (by simp [ht, hk]), htrio, haau]
  rfl

theorem bootStart_up (h : allGood e) (hl : (s.trio 0).lost = false) : bootStart e s = (true, bootUp e s) := by
  rw [bootStart_allGood h, hl]
  rfl

theorem bootBase_rd {k : Nat} (hk : k ≠ B.clk + CLK.CLK_STAT_ROOT_LOCK.off) (s : State) : (unburnt (clocked s)).rd k = s.rd k :=
  clocked_rd hk s

theorem bootBase_mode (s : State) : (unburnt (clocked s)).mode = s.mode := by
  unfold State.mode State.fld
  rw [bootBase_rd (by decide)]

theorem bootFuses_mode (e : BootEnv) (s : State) : (bootFuses e s).mode = s.mode := (bootFuses_runs (c := false) e s).mode.trans (bootBase_mode s)

theorem bootUp_mode (e : BootEnv) (s : State) : (bootUp e s).mode = s.mode := (bootUp_runs (c := false) e s).mode.trans (bootBase_mode s)

theorem bootUp_mem (e : BootEnv) (s : State) : (bootUp e s).mem = s.mem :=
  (bootUp_runs (c := false) e s).mem.trans (clocked_onlyRegs s).mem

/-- What steps 1 to 4 leave of the device's own state. -/
theorem bootUp_devEq {α : Type} (f : Dev → α) (hf : ∀ d p, f { d with perCtl := p } = f d) (e : BootEnv) (s : State) :
    f (bootUp e s).dev = f { s.dev with fuses := { s.dev.fuses with burnFailed := false } } := by
  rw [(bootUp_runs (c := false) e s).devEq f hf, ← (clocked_onlyRegs s).dev]
  rfl

theorem dramUp_runs (s : State) : Runs c (s.setFld B.clk CLK.CLK_STAT_DRAM_LOCK 1) (dramUp s) :=
  ((Runs.refl _).wr (by unfold Open B.dram page; omega)).wr (by unfold Open B.dram page; omega)

theorem dramUp_onlyRegs (s : State) : OnlyRegs s (dramUp s) := (OnlyRegs.refl s).wr.wr.wr

theorem dramUp_mode (s : State) : (dramUp s).mode = s.mode := (dramUp_runs (c := false) s).mode.trans (State.fld_setFld_off _ _ (by decide))

end Sys2Proof.Machine
end

section
/-! The wake out of Velvet (R42 to R45). -/
namespace Sys2Proof.Machine

variable {c : Bool} {s t : State} {e : BootEnv}

/-! ### The pages over a wake -/

/-- What the wake loads: fuses, and flights that have come back. -/
def wakeLoaded (s : State) : State := fuseLoad (returnFlights s)

/-- The registers that Velvet keeps. -/
def wakeRegs (s : State) : Tab W32 := ⟨s.regs.cells.filter (fun c => keptReg c.1 || decide (0x400 ≤ c.1 / 4096))⟩

/-- The cores and pages as after a reset, with what Velvet retains. -/
def wakeRestart (s : State) : State := restart (wakeRegs (wakeLoaded s)) (wakeLoaded s).mem (wakeLoaded s)

/-- Restarted pages with what is retained of the device before: image, queues, notes of the fabric. -/
def retained (s l x : State) : State :=
  let s2 := { x with
    bad := l.bad
    eng := { x.eng with queues := l.awokenQueues }
    fab := { x.fab with badBanks := l.fab.badBanks, badQueue := l.fab.badQueue } }
  s2.setDev { s2.dev with image := s.dev.image, lost := s.dev.lost, avsStop := s.dev.avsStop }

def wakeCore (s : State) : State := retained s (wakeLoaded s) (wakeRestart s)

theorem wakePages_eq (s : State) : wakePages s =
    if s.dev.avsStop then (wakeCore s).wr (B.margin + MARGIN.VSET.off) (s.rd (B.margin + MARGIN.VSET.off)) else voltBack s (wakeCore s) := rfl

theorem wakeRestart_runs (s : State) :
    Runs false (restartBare (wakeRegs (wakeLoaded s)) (wakeLoaded s).mem (wakeLoaded s)) (wakeRestart s) := restart_runs _ _ _

theorem fuseLoad_mem (x : State) : (fuseLoad x).mem = x.mem := rfl
theorem fuseLoad_sent (x : State) : (fuseLoad x).sent = x.sent := rfl

theorem wakeLoaded_mem (s : State) : (wakeLoaded s).mem = s.mem := by
  have h : Runs false s (returnFlights s) := returnFlights_runs (Runs.refl s)
  rw [wakeLoaded, fuseLoad_mem, h.mem]

theorem wakeLoaded_sent {mv : Nat} (h : .avs mv ∈ (wakeLoaded s).sent) : .avs mv ∈ s.sent := by
  have hr : Runs false s (returnFlights s) := returnFlights_runs (Runs.refl s)
  rw [wakeLoaded, fuseLoad_sent] at h
  exact hr.avs mv h

theorem restartBare_mem (regs : Tab W32) (mem : List Host.Cell) (x : State) : (restartBare regs mem x).mem = mem := rfl
theorem restartBare_sent (regs : Tab W32) (mem : List Host.Cell) (x : State) : (restartBare regs mem x).sent = x.sent := rfl
theorem restartBare_lost (regs : Tab W32) (mem : List Host.Cell) (x : State) (n : Nat) : ((restartBare regs mem x).trio n).lost = false := rfl

theorem retained_mem (s l x : State) : (retained s l x).mem = x.mem := rfl
theorem retained_sent (s l x : State) : (retained s l x).sent = x.sent := rfl
theorem retained_trios (s l x : State) : (retained s l x).trios = x.trios := rfl

theorem wakeCore_mem (s : State) : (wakeCore s).mem = s.mem := by
  unfold wakeCore
  rw [retained_mem, (wakeRestart_runs s).mem, restartBare_mem, wakeLoaded_mem]

theorem wakeCore_sent {mv : Nat} (h : .avs mv ∈ (wakeCore s).sent) : .avs mv ∈ s.sent := by
  unfold wakeCore at h
  rw [retained_sent] at h
  have hb := (wakeRestart_runs s).avs mv h
  rw [restartBare_sent] at hb
  exact wakeLoaded_sent hb

theorem wakeCore_lost (s : State) (n : Nat) : ((wakeCore s).trio n).lost = false := by
  unfold wakeCore
  rw [State.trio_congr (retained_trios _ _ _), (wakeRestart_runs s).lost n, restartBare_lost]

theorem wakePages_mem (s : State) : (wakePages s).mem = s.mem := by
  rw [wakePages_eq]
  split
  · exact wakeCore_mem s
  · exact (voltBack_frame s _).2.1.trans (wakeCore_mem s)

theorem wakePages_dev (s : State) : (wakePages s).dev = (wakeCore s).dev := by
  rw [wakePages_eq]
  split
  · rfl
  · exact (voltBack_frame s _).2.2.1

theorem wakePages_image (s : State) : (wakePages s).dev.image = s.dev.image := by rw [wakePages_dev]; rfl

theorem wakePages_avsStop (s : State) : (wakePages s).dev.avsStop = s.dev.avsStop := by rw [wakePages_dev]; rfl

theorem wakePages_lost (s : State) (n : Nat) : ((wakePages s).trio n).lost = false := by
  have h : (wakePages s).trios = (wakeCore s).trios := by
    rw [wakePages_eq]
    split
    · rfl
    · unfold voltBack
      split <;> rfl
  rw [State.trio_congr h]
  exact wakeCore_lost s n

/-- After an AVSBus fault the wake asks for no voltage (R28). -/
theorem wakePages_sent (h : s.dev.avsStop = true) {mv : Nat} (hm : .avs mv ∈ (wakePages s).sent) : .avs mv ∈ s.sent := by
  rw [wakePages_eq, if_pos h] at hm
  exact wakeCore_sent hm

/-! ### A wake source -/

/-- The state that a wake source leaves: Muslin, entered from Velvet, with the source's bit. -/
def wokenUp (bit : Fld) (s : State) : State :=
  let x := ((wakePages s).setFld B.sys bit 1).wr (B.sys + SYS.MODE.off) (BitVec.ofNat 32 (mVelvet * 16 + 6 * 256))
  x.setDev { x.dev with phase := .wake, wakeAt := x.now }

theorem wakes_velvet (hm : s.mode = mVelvet) (hs : s.stopDue = false) (bit : Fld) : wakes bit s = wokenUp bit s := by
  unfold wakes
  rw [if_pos ⟨hm, by simp [hs]⟩]
  rfl

theorem wokenUp_mode (bit : Fld) (s : State) :
    (wokenUp bit s).mode = mMuslin ∧ (wokenUp bit s).fld B.sys SYS.MODE_PREV = mVelvet :=
  ⟨(State.fld_wr_same ((wakePages s).setFld B.sys bit 1) B.sys SYS.MODE_CUR _).trans (by decide),
    (State.fld_wr_same ((wakePages s).setFld B.sys bit 1) B.sys SYS.MODE_PREV _).trans (by decide)⟩

theorem wokenUp_bit {lo : Nat} (hl : lo < 32) (s : State) : (wokenUp ⟨0x054, lo, 1⟩ s).fld B.sys ⟨0x054, lo, 1⟩ = 1 := by
  refine (State.fld_wr_off (b := B.sys) (f := ⟨0x054, lo, 1⟩) _ _ (show B.sys + 0x054 ≠ B.sys + SYS.MODE.off by decide)).trans ?_
  rw [State.fld_setFld_same _ _ _ _ (show lo + 1 ≤ 32 from hl)]
  rfl

theorem wokenUp_phase (bit : Fld) (s : State) : (wokenUp bit s).dev.phase = .wake := rfl

theorem wokenUp_mem (bit : Fld) (s : State) : (wokenUp bit s).mem = s.mem := wakePages_mem s

theorem wokenUp_avs (h : s.dev.avsStop = true) (bit : Fld) :
    (wokenUp bit s).dev.avsStop = true ∧ ∀ mv, .avs mv ∈ (wokenUp bit s).sent → .avs mv ∈ s.sent :=
  ⟨(wakePages_avsStop s).trans h, fun _ hm => wakePages_sent h hm⟩

/-! ### The wake path -/

theorem ring_of_sr {x : Thread} (h : x.sr = 8) : x.ring = 0 := by
  unfold Thread.ring
  rw [h]
  decide

theorem jumpWake_thread (s : State) : ((jumpWake s).thread 0).st = .running ∧ ((jumpWake s).thread 0).pc = BitVec.ofNat 64 (s.imgField 0x020 8) ∧
    ((jumpWake s).thread 0).ring = 0 := by
  unfold jumpWake
  dsimp only
  rw [State.setThread_same]
  exact ⟨rfl, rfl, ring_of_sr rfl⟩

theorem jumpWake_phase (s : State) : (jumpWake s).dev.phase = .running := rfl

theorem jumpWake_mem (s : State) : (jumpWake s).mem = s.mem := rfl

theorem jumpWake_mode (s : State) : (jumpWake s).mode = s.mode := State.fld_wr_off _ _ (by decide)

theorem imgField_congr (h : t.dev.image = s.dev.image) (o n : Nat) : t.imgField o n = s.imgField o n := by
  unfold State.imgField
  rw [h]

theorem modeWritten_thread (m cause : Nat) (s : State) (k : Nat) : (modeWritten m cause s).thread k = s.thread k := rfl

/-- Software stands at its WAKE entry, in ring 0 of trio 0's thread 0. -/
def atWake (s t : State) (m : Nat) : Prop :=
  t.mode = m ∧ t.dev.phase = .running ∧ (t.thread 0).st = .running ∧ (t.thread 0).pc = BitVec.ofNat 64 (s.imgField 0x020 8) ∧ (t.thread 0).ring = 0

/-- The retained content is good: WAKE in Calico (R44). -/
theorem wakeCalico (hi : t.dev.image = s.dev.image) : atWake s (enterMode mCalico 3 (jumpWake t)) mCalico := by
  have h : Runs false (modeWritten mCalico 3 (jumpWake t)) (enterMode mCalico 3 (jumpWake t)) := enterMode_runs (by decide) 3 _
  obtain ⟨hst, hpc, hring⟩ := jumpWake_thread t
  have hth : (enterMode mCalico 3 (jumpWake t)).thread 0 = (jumpWake t).thread 0 := (h.thread 0).trans (modeWritten_thread _ _ _ _)
  refine ⟨enterMode_mode (by decide) _ _, h.devEq (·.phase) (fun _ _ => rfl), (congrArg (·.st) hth).trans hst, ?_,
    (congrArg Thread.ring hth).trans hring⟩
  exact (congrArg (·.pc) hth).trans (hpc.trans (by rw [imgField_congr hi]))

theorem modeWritten_mem (m cause : Nat) (s : State) : (modeWritten m cause s).mem = s.mem := rfl

theorem enterMode_mem (m cause : Nat) (s : State) : (enterMode m cause s).mem = s.mem :=
  ((enterMode_keeps (c := false) m cause s).mem).trans (modeWritten_mem m cause s)

theorem wakeCalico_mem (t : State) : (enterMode mCalico 3 (jumpWake t)).mem = t.mem := by rw [enterMode_mem, jumpWake_mem]

theorem bootUp_image (e : BootEnv) (s : State) : (dramUp (bootUp e s)).dev.image = s.dev.image := by
  exact (congrArg (·.image) (dramUp_onlyRegs _).dev).trans (bootUp_devEq (·.image) (fun _ _ => rfl) e s)

theorem wakePath_calico (hp : s.dev.phase = .wake) (he : allGood e) (hl : (s.trio 0).lost = false) (hg : s.wakeGood = true) :
    wakePath e s = enterMode mCalico 3 (jumpWake (dramUp (bootUp e s))) := by
  unfold wakePath
  rw [if_neg (by simp [hp]), if_pos hg, bootStart_up he hl]
  rfl

/-- Without the collector the wake path, warm or cold, ends in Muslin. -/
theorem wakePath_stuck (hp : s.dev.phase = .wake) (he : e.collectorOk = false) : (wakePath e s).dev.phase = .stuck := by
  unfold wakePath
  rw [if_neg (by simp [hp])]
  split
  · rw [bootStart_stops (.inl he)]
    exact bootStops_phase _
  · unfold boots
    rw [bootStart_stops (.inl he)]
    exact bootStops_phase _

/-! ### The exit of a Safe stop in Velvet (R45) -/

/-- The pages of the wake, with the Safe stop taken. -/
def stopAwake (s : State) : State :=
  ((wakePages s).modColl (fun c => { c with stop := false })).wr (B.sys + SYS.MODE.off) (BitVec.ofNat 32 mVelvet)

/-- Felt, entered with every check of the wake passed. -/
def stopFelt (e : BootEnv) (s : State) : State := enterMode mFelt 5 (dramUp (bootUp e (stopAwake s)))

theorem velvetExit_felt (hm : s.mode = mVelvet) (hs : s.stopDue = true) (he : allGood e) :
    velvetExit e s = if s.wakeGood then jumpWake (stopFelt e s)
      else (romUp ((stopFelt e s).setDev { (stopFelt e s).dev with phase := .felt, image := none })).setFld B.sys SYS.WAKE_CAUSE_RETAIN_LOST 1 := by
  have hb : bootStart e (stopAwake s) = (true, bootUp e (stopAwake s)) := bootStart_up he (wakePages_lost s 0)
  unfold velvetExit
  rw [if_pos ⟨hm, hs⟩]
  extract_lets good w w1
  rw [show bootStart e w1 = _ from hb]
  rfl

theorem stopFelt_mode (e : BootEnv) (s : State) : (stopFelt e s).mode = mFelt := enterMode_mode (by decide) _ _

theorem stopFelt_image (e : BootEnv) (s : State) : (stopFelt e s).dev.image = s.dev.image :=
  ((enterMode_keeps (c := false) mFelt 5 _).devEq (·.image) (fun _ _ => rfl)).trans ((bootUp_image e (stopAwake s)).trans (wakePages_image s))

theorem stopFelt_awake (e : BootEnv) (s : State) : atWake s (jumpWake (stopFelt e s)) mFelt := by
  obtain ⟨hst, hpc, hring⟩ := jumpWake_thread (stopFelt e s)
  exact ⟨(jumpWake_mode _).trans (stopFelt_mode e s), jumpWake_phase _, hst, by rw [hpc, imgField_congr (stopFelt_image e s)], hring⟩

/-- Where the content is lost the ROM serves in Felt. -/
theorem stopFelt_lost (e : BootEnv) (s : State) :
    let t := (romUp ((stopFelt e s).setDev { (stopFelt e s).dev with phase := .felt, image := none })).setFld B.sys SYS.WAKE_CAUSE_RETAIN_LOST 1
    t.mode = mFelt ∧ t.dev.phase = .felt ∧ t.fld B.sys SYS.WAKE_CAUSE_RETAIN_LOST = 1 := by
  have h : Runs false ((stopFelt e s).setDev { (stopFelt e s).dev with phase := .felt, image := none })
    (romUp ((stopFelt e s).setDev { (stopFelt e s).dev with phase := .felt, image := none })) := romUp_runs (Runs.refl _)
  refine ⟨?_, h.devEq (·.phase) (fun _ _ => rfl), State.fld_setFld_same _ _ _ _ (by decide)⟩
  exact (State.fld_setFld_off _ _ (by decide)).trans (h.mode.trans (stopFelt_mode e s))

end Sys2Proof.Machine
end

section
/-! The phases of Gauze (R448, R449, R452, R453). -/
namespace Sys2Proof.Machine

variable {c : Bool} {s t : State} {g : GauzeEnv}

/-- The next phase has begun. -/
def gauzeNext (s : State) : State := s.setDev { s.dev with gauze := s.dev.gauze + 1 }

/-! ### What a test phase finds -/

theorem gauzeFinds_dev (units : List Nat) (cells : List ArrCell) (tested : List Nat) (s : State) :
    (gauzeFinds units cells tested s).dev = { s.dev with
      tested := s.dev.tested ++ tested
      failed := s.dev.failed ++ (units ++ (mbistFails s.dev.fuses.repairs cells).map arrayUnit)
      cells := s.dev.cells ++ cells } := rfl

theorem gauzeFinds_mode (units : List Nat) (cells : List ArrCell) (tested : List Nat) (s : State) :
    (gauzeFinds units cells tested s).mode = s.mode := by
  have h : Runs false s ((mbistFails s.dev.fuses.repairs cells).foldl (fun a _ => a.raise 466) s) :=
    Runs.foldl (fun _ => Runs.raise) (Runs.refl s)
  rw [← h.mode]
  rfl

/-- The units and cells that phase A tests: none of trio 0's. -/
def phaseA (g : GauzeEnv) (s : State) : State :=
  gauzeFinds ((g.unitFail.map (·.val)).filter (fun u => !(trioUnits 0).contains u)) (g.cells.filter (fun x => decide (0x40 ≤ x.inst.toNat)))
    ((List.range 107).filter (fun u => !(trioUnits 0).contains u)) (gauzeNext s)

/-- The supervisor moves to a trio that passed, where there is one. -/
def superviseFrom (x : State) : State :=
  match passedTrio x.dev with
  | some n => (if x.trioIn n then handTo n cVoted x else x).setDev { (if x.trioIn n then handTo n cVoted x else x).dev with superv := n }
  | none => x

theorem superviseFrom_mode (x : State) : (superviseFrom x).mode = x.mode := by
  unfold superviseFrom
  split
  · exact (Runs.ite (c := false) (handTo_runs (Runs.refl x)) (Runs.refl x)).mode
  · rfl

theorem superviseFrom_devEq {α : Type} (f : Dev → α) (hf : ∀ d p n, f { d with perCtl := p, superv := n } = f d) (x : State) :
    f (superviseFrom x).dev = f x.dev := by
  unfold superviseFrom
  split
  · rename_i n _
    have h := (Runs.ite (p := x.trioIn n = true) (c := false) (handTo_runs (n := n) (k := cVoted) (Runs.refl x)) (Runs.refl x)).dev
    rw [State.setDev_dev, h]
    exact hf x.dev _ _
  · rfl

theorem mem_nonzero {u : Nat} {l : List Nat} : u ∈ l.filter (fun u => !(trioUnits 0).contains u) ↔ u ∈ l ∧ u ∉ [0, 1, 2, 43] := by
  rw [List.mem_filter, Bool.not_eq_true', List.contains_eq_mem, decide_eq_false_iff_not]
  rfl

theorem phaseA_tested {u : Nat} (h : s.dev.tested = []) : u ∈ (superviseFrom (phaseA g s)).dev.tested ↔ u < 107 ∧ u ∉ [0, 1, 2, 43] := by
  rw [superviseFrom_devEq (·.tested) (fun _ _ _ => rfl), phaseA, gauzeFinds_dev]
  show u ∈ s.dev.tested ++ _ ↔ _
  rw [h, List.nil_append, mem_nonzero, List.mem_range]

theorem phaseA_failed {u : Fin 107} (h : u ∈ g.unitFail) (hu : u.val ∉ [0, 1, 2, 43]) : u.val ∈ (superviseFrom (phaseA g s)).dev.failed := by
  rw [superviseFrom_devEq (·.failed) (fun _ _ _ => rfl), phaseA, gauzeFinds_dev]
  exact List.mem_append_right _ (List.mem_append_left _ (mem_nonzero.2 ⟨List.mem_map_of_mem h, hu⟩))

theorem phaseA_gauze (g : GauzeEnv) (s : State) : (superviseFrom (phaseA g s)).dev.gauze = s.dev.gauze + 1 := by
  rw [superviseFrom_devEq (·.gauze) (fun _ _ _ => rfl), phaseA, gauzeFinds_dev]
  rfl

theorem phaseA_mode (g : GauzeEnv) (s : State) : (superviseFrom (phaseA g s)).mode = s.mode := by
  rw [superviseFrom_mode, phaseA, gauzeFinds_mode]
  rfl

/-! ### The burn -/

theorem burnSplit_all (l : List RepEnt) : ∀ i, burnSplit [] i l = (l, []) := by
  induction l with
  | nil => exact fun _ => rfl
  | cons x l ih =>
    intro i
    unfold burnSplit
    rw [ih]
    rfl

/-- Every entry that fits and reads back right is burnt, and is no soft repair any more. -/
theorem burn_repairs (h : g.burnBad = []) (s : State) :
    (burn g s).dev.fuses.repairs = s.dev.fuses.repairs ++ s.dev.repairs.take (768 - s.dev.fuses.repairs.length) ∧
      (burn g s).dev.repairs = s.dev.repairs.drop (768 - s.dev.fuses.repairs.length) := by
  unfold burn
  simp only [h, burnSplit_all, List.nil_append, State.setFld_dev, State.setDev_dev, and_self]

theorem burn_gauze (g : GauzeEnv) (s : State) : (burn g s).dev.gauze = s.dev.gauze := by
  unfold burn
  dsimp only
  rw [State.setFld_dev, State.setDev_dev]

theorem burn_mode (g : GauzeEnv) (s : State) : (burn g s).mode = s.mode := by
  unfold burn
  exact State.fld_setFld_off (b := B.bist) (b' := B.sys) (f' := SYS.MODE_CUR) _ _ (by decide)

/-! ### The record -/

theorem writeRecord_keeps (p : Nat) (ok : Bool) (r : List Byte) (s : State) :
    (writeRecord p ok r s).regs = s.regs ∧ (writeRecord p ok r s).dev = s.dev := by
  unfold writeRecord
  split
  · exact ⟨rfl, rfl⟩
  split
  · exact ⟨rfl, rfl⟩
  · exact ⟨rfl, rfl⟩

/-- The record written on both ports. -/
def recordsWritten (g : GauzeEnv) (s : State) : State :=
  writeRecord 1 g.flash1Ok s.record.1 (writeRecord 0 g.flash0Ok s.record.1 s.record.2)

theorem recordsWritten_keeps (g : GauzeEnv) (s : State) :
    (recordsWritten g s).regs = s.regs ∧ (recordsWritten g s).dev = s.dev := by
  have h1 := writeRecord_keeps 1 g.flash1Ok s.record.1 (writeRecord 0 g.flash0Ok s.record.1 s.record.2)
  have h0 := writeRecord_keeps 0 g.flash0Ok s.record.1 s.record.2
  exact ⟨h1.1.trans h0.1, h1.2.trans h0.2⟩

/-! ### One phase after another -/

/-- Phase B, which tests trio 0 where another trio can supervise. -/
def phaseB (g : GauzeEnv) (s : State) : State :=
  if (passedTrio s.dev).isSome then
    gauzeFinds ((g.unitFail.map (·.val)).filter (trioUnits 0).contains) (g.cells.filter (fun x => decide (x.inst.toNat < 0x40)))
      (trioUnits 0) (gauzeNext s)
  else gauzeNext s

/-- The repairs that fit, and the time and age of the record to come. -/
def repairsFound (s : State) : State :=
  ((gauzeNext s).setDev { (gauzeNext s).dev with
    repairs := (mbistRepairs s.dev.fuses.repairs s.dev.cells).take 980
    recTime := s.now
    recAge := (gauzeNext s).ageBytes ++ leBytes 4 ((gauzeNext s).ageState 15).toNat }).setFld B.bist BIST.REPAIR_SOFT
      ((mbistRepairs s.dev.fuses.repairs s.dev.cells).take 980).length

def recordMade (g : GauzeEnv) (s : State) : State :=
  (recordsWritten g (gauzeNext s)).setDev { (recordsWritten g (gauzeNext s)).dev with recSeq := s.dev.recSeq + 1 }

theorem gauzeStep_eq (hm : s.mode = mGauze) (h1 : 1 ≤ s.dev.gauze) (h6 : s.dev.gauze ≤ 6) : gauzeStep g s =
    match s.dev.gauze with
    | 1 => faultBalls ((gauzeNext s).modColl (fun c => { c with gauzeHold := true }))
    | 2 => superviseFrom (phaseA g s)
    | 3 => phaseB g s
    | 4 => repairsFound s
    | 5 => if s.flag B.sys SYS.GAUZE_CTL_BURN then burn g (gauzeNext s) else gauzeNext s
    | _ => recordMade g s := by
  unfold gauzeStep
  dsimp only
  rw [if_neg (by simp [hm]; omega)]
  rfl

theorem gauzeStep_two (hm : s.mode = mGauze) (h : s.dev.gauze = 2) : gauzeStep g s = superviseFrom (phaseA g s) := by
  rw [gauzeStep_eq hm (by omega) (by omega), h]
  rfl

theorem gauzeStep_four (hm : s.mode = mGauze) (h : s.dev.gauze = 4) : gauzeStep g s = repairsFound s := by
  rw [gauzeStep_eq hm (by omega) (by omega), h]
  rfl

theorem gauzeStep_five (hm : s.mode = mGauze) (h : s.dev.gauze = 5) :
    gauzeStep g s = if s.flag B.sys SYS.GAUZE_CTL_BURN then burn g (gauzeNext s) else gauzeNext s := by
  rw [gauzeStep_eq hm (by omega) (by omega), h]
  rfl

theorem gauzeStep_six (hm : s.mode = mGauze) (h : s.dev.gauze = 6) : gauzeStep g s = recordMade g s := by
  rw [gauzeStep_eq hm (by omega) (by omega), h]
  rfl

/-- A phase of Gauze keeps the mode and counts on. -/
def nextPhase (s t : State) : Prop := t.dev.gauze = s.dev.gauze + 1 ∧ t.mode = s.mode

theorem nextPhase_held (s : State) : nextPhase s (faultBalls ((gauzeNext s).modColl (fun c => { c with gauzeHold := true }))) := by
  have h : Runs false (gauzeNext s) (faultBalls ((gauzeNext s).modColl (fun c => { c with gauzeHold := true }))) :=
    faultBalls_runs (Runs.modColl (f := fun c => { c with gauzeHold := true }) (Runs.refl _) (fun _ hx => hx))
  exact ⟨h.devEq (·.gauze) (fun _ _ => rfl), h.mode⟩

theorem nextPhase_gauzeNext (s : State) : nextPhase s (gauzeNext s) := ⟨rfl, rfl⟩

theorem nextPhase_phaseB (g : GauzeEnv) (s : State) : nextPhase s (phaseB g s) := by
  unfold phaseB
  split
  · exact ⟨by rw [gauzeFinds_dev]; rfl, (gauzeFinds_mode _ _ _ _).trans rfl⟩
  · exact nextPhase_gauzeNext s

theorem nextPhase_repairs (s : State) : nextPhase s (repairsFound s) := by
  unfold repairsFound
  exact ⟨by rw [State.setFld_dev, State.setDev_dev]; rfl, State.fld_setFld_off (b := B.bist) (b' := B.sys) (f' := SYS.MODE_CUR) _ _ (by decide)⟩

theorem nextPhase_burn (g : GauzeEnv) (s : State) : nextPhase s (burn g (gauzeNext s)) :=
  ⟨(burn_gauze g _).trans rfl, (burn_mode g _).trans rfl⟩

theorem nextPhase_record (g : GauzeEnv) (s : State) : nextPhase s (recordMade g s) := by
  obtain ⟨hr, hd⟩ := recordsWritten_keeps g (gauzeNext s)
  refine ⟨?_, ?_⟩
  · unfold recordMade
    rw [State.setDev_dev, hd]
    rfl
  · exact State.fld_congr (s := s) hr _ _

theorem gauzeStep_nextPhase (hm : s.mode = mGauze) (h1 : 1 ≤ s.dev.gauze) (h6 : s.dev.gauze ≤ 6) : nextPhase s (gauzeStep g s) := by
  rw [gauzeStep_eq hm h1 h6]
  split
  · exact nextPhase_held s
  · exact ⟨phaseA_gauze g s, phaseA_mode g s⟩
  · exact nextPhase_phaseB g s
  · exact nextPhase_repairs s
  · split
    · exact nextPhase_burn g s
    · exact nextPhase_gauzeNext s
  · exact nextPhase_record g s

theorem repairsFound_effect (s : State) :
    (repairsFound s).dev.repairs = (mbistRepairs s.dev.fuses.repairs s.dev.cells).take 980 ∧ (repairsFound s).dev.recTime = s.now := by
  unfold repairsFound
  rw [State.setFld_dev, State.setDev_dev]
  exact ⟨rfl, rfl⟩

/-- What one phase of Gauze does to units, repairs, fuses and record. -/
theorem gauzeStep_effect (hm : s.mode = mGauze) (h1 : 1 ≤ s.dev.gauze) (h6 : s.dev.gauze ≤ 6) :
    let t := gauzeStep g s
    t.dev.gauze = s.dev.gauze + 1 ∧ t.mode = mGauze ∧
      (s.dev.gauze = 2 → s.dev.tested = [] → ∀ u, u ∈ t.dev.tested ↔ (u < 107 ∧ u ∉ [0, 1, 2, 43])) ∧
      (s.dev.gauze = 2 → ∀ u : Fin 107, u ∈ g.unitFail → u.val ∉ [0, 1, 2, 43] → u.val ∈ t.dev.failed) ∧
      (s.dev.gauze = 4 → t.dev.repairs = (mbistRepairs s.dev.fuses.repairs s.dev.cells).take 980 ∧ t.dev.recTime = s.now) ∧
      (s.dev.gauze = 5 → s.flag B.sys SYS.GAUZE_CTL_BURN = false → t.dev.fuses = s.dev.fuses ∧ t.dev.repairs = s.dev.repairs) ∧
      (s.dev.gauze = 5 → s.flag B.sys SYS.GAUZE_CTL_BURN = true → g.burnBad = [] →
        t.dev.fuses.repairs = s.dev.fuses.repairs ++ s.dev.repairs.take (768 - s.dev.fuses.repairs.length) ∧
        t.dev.repairs = s.dev.repairs.drop (768 - s.dev.fuses.repairs.length)) ∧
      (s.dev.gauze = 6 → t.dev.recSeq = s.dev.recSeq + 1) := by
  obtain ⟨hg, hmode⟩ := gauzeStep_nextPhase (g := g) hm h1 h6
  refine ⟨hg, hmode.trans hm, fun h ht u => ?_, fun h u hu hz => ?_, fun h => ?_, fun h hb => ?_, fun h hb hbad => ?_, fun h => ?_⟩
  · rw [gauzeStep_two hm h]
    exact phaseA_tested ht
  · rw [gauzeStep_two hm h]
    exact phaseA_failed hu hz
  · rw [gauzeStep_four hm h]
    exact repairsFound_effect s
  · rw [gauzeStep_five hm h, hb]
    exact ⟨rfl, rfl⟩
  · rw [gauzeStep_five hm h, if_pos hb]
    exact burn_repairs hbad (gauzeNext s)
  · rw [gauzeStep_six hm h]
    rfl

/-- Settles O40: scrubber and wake sources act in Velvet alone, the wake is the boot's first steps on retained pages, and each phase of Gauze
is one of the operations above. -/
theorem velvetAndGauzeRows : Obligations.VelvetAndGauzeRows := by
  unfold Obligations.VelvetAndGauzeRows
  intro s e g wakeAt
  refine ⟨fun hm => ?_, ?_, fun level hm hs hen hlev => ?_, fun hm hs hen => ?_, fun hp he => ⟨_, rfl, wakePath_stuck hp he⟩,
    fun hp he hl hg => ?_, fun hm hs he => ?_, fun hm h1 h6 => ⟨_, rfl, gauzeStep_effect hm h1 h6⟩⟩
  · exact ⟨_, _, congrArg Host.Outcome.next (if_pos ⟨hm, rfl⟩), rfl, rfl, rfl⟩
  · exact congrArg Host.Outcome.next (if_neg (fun h => by simp at h))
  · obtain ⟨hmode, hprev⟩ := wokenUp_mode SYS.WAKE_CAUSE_PIN s
    exact ⟨_, congrArg Host.Outcome.next ((if_pos ⟨hen, hlev⟩).trans (wakes_velvet hm hs _)), hmode, hprev, wokenUp_bit (by decide) s,
      wokenUp_phase _ s, wokenUp_mem _ s, fun h => wokenUp_avs h _⟩
  · exact ⟨_, congrArg Host.Outcome.next ((if_pos hen).trans (wakes_velvet hm hs _)), (wokenUp_mode _ s).1, wokenUp_bit (by decide) s,
      wokenUp_phase _ s⟩
  · refine ⟨_, congrArg Host.Outcome.next (wakePath_calico hp he hl hg), wakeCalico (bootUp_image e s), ?_⟩
    rw [wakeCalico_mem, (dramUp_onlyRegs _).mem, bootUp_mem]
  · refine ⟨_, congrArg Host.Outcome.next (velvetExit_felt hm hs he), ?_⟩
    obtain ⟨hmode, hphase, hlost⟩ := stopFelt_lost e s
    cases hg : s.wakeGood with
    | true => exact ⟨(stopFelt_awake e s).1, fun _ => stopFelt_awake e s, nofun⟩
    | false => exact ⟨hmode, nofun, fun _ => ⟨hphase, hlost⟩⟩

end Sys2Proof.Machine
end

section
/-! What the boot reads of the flash: the test records (R34, R449, R450). -/
namespace Sys2Proof.Machine

variable {s t : State} {p : Nat}

theorem bytesFrom_congr {f g : Nat → Byte} : ∀ {n a : Nat}, (∀ x, a ≤ x → x < a + n → f x = g x) → bytesFrom f a n = bytesFrom g a n
  | 0, _, _ => rfl
  | n + 1, a, h => by
    unfold bytesFrom
    rw [h a (Nat.le_refl a) (by omega), bytesFrom_congr (n := n) (fun x hx hn => h x (by omega) (by omega))]

theorem readMem_congr {a n : Nat} (h : ∀ x, a ≤ x → x < a + n → memRead t.mem x = memRead s.mem x) : t.readMem a n = s.readMem a n :=
  bytesFrom_congr fun x hx hn => by unfold State.byteAt; rw [h x hx hn]

theorem readMem_same (h : t.mem = s.mem) (a n : Nat) : t.readMem a n = s.readMem a n := readMem_congr fun _ _ _ => by rw [h]

theorem flashSize_congr (h : t.dev.board = s.dev.board) (p : Nat) : t.flashSize p = s.flashSize p := by unfold State.flashSize; rw [h]

theorem recBase_congr (h : t.dev.board = s.dev.board) (p : Nat) : t.recBase p = s.recBase p := by
  unfold State.recBase; rw [flashSize_congr h]

/-- Two states whose records read the same: memory, board and fuses agree, but for the note of a burn that failed. -/
structure SameRecords (s t : State) : Prop where
  mem : t.mem = s.mem
  board : t.dev.board = s.dev.board
  fuses : t.dev.fuses = { s.dev.fuses with burnFailed := t.dev.fuses.burnFailed }

theorem SameRecords.fuseHash (h : SameRecords s t) : t.fuseHash = s.fuseHash := by
  unfold State.fuseHash
  rw [h.fuses]

theorem SameRecords.recUses (h : SameRecords s t) (a : Nat) : recUses t a = recUses s a := by
  unfold Machine.recUses
  rw [readMem_same h.mem]

theorem SameRecords.recCode (h : SameRecords s t) (p : Nat) : recCode t p = recCode s p := by
  unfold Machine.recCode
  dsimp only
  rw [flashSize_congr h.board, recBase_congr h.board, readMem_same h.mem, h.fuseHash, h.recUses, h.fuses]

theorem SameRecords.bestRec (h : SameRecords s t) : t.bestRec = s.bestRec := by
  unfold State.bestRec
  simp only [h.recCode, recBase_congr h.board, readMem_same h.mem]

theorem SameRecords.recTested (h : SameRecords s t) (p : Nat) : recTested p t = recTested p s := by
  unfold Machine.recTested
  rw [recBase_congr h.board, readMem_same h.mem]

theorem SameRecords.quickRec (h : SameRecords s t) : t.quickRec = s.quickRec := by
  have ht : (fun p => Machine.recTested p t) = fun p => Machine.recTested p s := funext h.recTested
  unfold State.quickRec
  rw [h.bestRec, ht]

/-- What a record says of the units stands in its first 0x70 bytes. -/
theorem recFailed_congr (hb : t.dev.board = s.dev.board)
    (h : ∀ x, s.recBase p ≤ x → x < s.recBase p + 0x70 → memRead t.mem x = memRead s.mem x) : recFailed p t = recFailed p s := by
  unfold recFailed
  rw [recBase_congr hb, readMem_congr h]

theorem SameRecords.recFailed (h : SameRecords s t) (p : Nat) : recFailed p t = recFailed p s :=
  recFailed_congr h.board fun _ _ _ => by rw [h.mem]

/-- Marking a record used writes one byte of its use counter. -/
theorem recUse_frame (a : Nat) (s : State) : ∃ m b, recUse a s = { s with mem := m, bad := b } ∧ ∀ x, x < a + 0x2000 → memRead m x = memRead s.mem x := by
  unfold recUse
  split
  · exact ⟨_, _, rfl, fun x hx => memRead_memWriteL_other (.inl (by omega))⟩
  · exact ⟨_, _, rfl, fun _ _ => rfl⟩

end Sys2Proof.Machine
end

section
/-! The tests of the boot (R35). -/
namespace Sys2Proof.Machine

variable {s t : State} {p : Nat} {e : BootEnv} {ok : Bool}

/-- SEQ of the records found is noted for the next one (R450). -/
def seqNoted (s : State) : State := s.setDev { s.dev with recSeq := s.seqFound }

theorem bootTests_quick (h : (seqNoted s).quickRec = some p) (e : BootEnv) (ok : Bool) : bootTests e ok s = bootQuick p e ok (seqNoted s) := by
  unfold bootTests
  show (match (seqNoted s).quickRec with | some p => bootQuick p e ok (seqNoted s) | none => bootFull e ok (seqNoted s)) = _
  rw [h]

theorem bootTests_full (h : (seqNoted s).quickRec = none) (e : BootEnv) (ok : Bool) : bootTests e ok s = bootFull e ok (seqNoted s) := by
  unfold bootTests
  show (match (seqNoted s).quickRec with | some p => bootQuick p e ok (seqNoted s) | none => bootFull e ok (seqNoted s)) = _
  rw [h]

/-- The soft repairs that a record lists. -/
def recRepairs (p : Nat) (s : State) : List RepEnt :=
  (List.range (fieldAt (s.readMem (s.recBase p) 0x2000) 0xB0 2)).map
    (fun i => RepEnt.ofWord (BitVec.ofNat 64 (fieldAt (s.readMem (s.recBase p) 0x2000) (0x100 + 8 * i) 8)))

/-- The registers that show a record in use. -/
def recordShown (n : Nat) (w : W32) (s : State) : State :=
  ((s.setFld B.rst RST.BOOT_STAT_RECORD 1).wr (B.bist + BIST.REC_STAT.off) w).setFld B.bist BIST.REPAIR_SOFT n

theorem recordShown_onlyRegs (n : Nat) (w : W32) (s : State) : OnlyRegs s (recordShown n w s) := (OnlyRegs.refl s).wr.wr.wr

theorem recordShown_mode (n : Nat) (w : W32) (s : State) : (recordShown n w s).mode = s.mode := by
  unfold State.mode recordShown
  rw [State.fld_setFld_off _ _ (by decide), State.fld_wr_off _ _ (by decide), State.fld_setFld_off _ _ (by decide)]

theorem recordShown_record (n : Nat) (w : W32) (s : State) : (recordShown n w s).flag B.rst RST.BOOT_STAT_RECORD = true := by
  unfold State.flag recordShown
  rw [State.fld_setFld_off _ _ (by decide), State.fld_wr_off _ _ (by decide), State.fld_setFld_same _ _ _ _ (by decide)]
  rfl

/-- The quick path before any unit is taken out: the record's use, and its repairs, stand in the registers. -/
def recordUsed (p : Nat) (s : State) : State :=
  let r := s.readMem (s.recBase p) 0x2000
  let s1 := recUse (s.recBase p) s
  let s3 := recordShown (fieldAt r 0xB0 2) (BitVec.ofNat 32 (256 + 65536 * recUses s1 (s.recBase p) + 2 ^ 24 * (fieldAt r 8 4 % 256))) s1
  s3.setDev { s3.dev with repairs := recRepairs p s }

theorem bootQuick_eq (p : Nat) (e : BootEnv) (ok : Bool) (s : State) : bootQuick p e ok s =
    bootUnits ok (recFailed p s) (cellArrays ((quickCells e).filter (fun x => !(s.dev.fuses.repairs ++ recRepairs p s).any (·.covers x))))
      (recordUsed p s) := rfl

/-- The registers of the quick path over a state whose record has been marked used. -/
theorem recordUsed_frame (p : Nat) (s : State) : (recordUsed p s).mode = s.mode ∧ (recordUsed p s).flag B.rst RST.BOOT_STAT_RECORD = true ∧
    (recordUsed p s).raised = s.raised ∧ (recordUsed p s).trios = s.trios ∧ (recordUsed p s).dev = { s.dev with repairs := recRepairs p s } ∧
    ∀ x, x < s.recBase p + 0x2000 → memRead (recordUsed p s).mem x = memRead s.mem x := by
  obtain ⟨m, b, hu, hm⟩ := recUse_frame (s.recBase p) s
  unfold recordUsed
  dsimp only
  generalize BitVec.ofNat 32 _ = w
  generalize fieldAt _ 0xB0 2 = n
  rw [hu]
  have ho := recordShown_onlyRegs n w { s with mem := m, bad := b }
  have hmode : ({ s with mem := m, bad := b } : State).mode = s.mode := State.fld_congr (s := s) rfl _ _
  have hrec := recordShown_record n w { s with mem := m, bad := b }
  unfold State.flag at hrec ⊢
  unfold State.mode
  rw [State.setDev_fld, State.setDev_fld, State.setDev_raised, State.setDev_trios]
  refine ⟨(recordShown_mode n w _).trans hmode, hrec, ho.raised, ho.trios, ?_, fun x hx => ?_⟩
  · rw [State.setDev_dev, ho.dev]
  · rw [State.setDev_mem, ho.mem]
    exact hm x hx

/-- The full path before any unit is taken out. -/
def fullTested (e : BootEnv) (s : State) : State :=
  let reps := mbistRepairs s.dev.fuses.repairs e.cells
  let s0 := s.wr (B.bist + BIST.REC_STAT.off) (BitVec.ofNat 32 (Code.lowest [recCode s 0, recCode s 1]).num)
  let s1 := if s.bestRec.isNone then s0.raise 465 else s0
  (s1.setFld B.bist BIST.REPAIR_SOFT reps.length).setDev { s1.dev with repairs := reps }

theorem bootFull_eq (e : BootEnv) (ok : Bool) (s : State) :
    bootFull e ok s = bootUnits ok (e.unitFail.map (·.val)) (mbistFails s.dev.fuses.repairs e.cells) (fullTested e s) := rfl

/-- Without a valid record source 465 is asserted (R449). -/
theorem fullTested_frame (h : s.bestRec = none) (e : BootEnv) : (∃ a, a ∈ (fullTested e s).raised ∧ a.src = 465) ∧
    (fullTested e s).mem = s.mem ∧ (fullTested e s).trios = s.trios ∧
    (fullTested e s).dev = { s.dev with repairs := mbistRepairs s.dev.fuses.repairs e.cells } := by
  unfold fullTested
  rw [h]
  exact ⟨⟨_, List.mem_append_right _ (List.mem_singleton.2 rfl), rfl⟩, rfl, rfl, rfl⟩

end Sys2Proof.Machine
end

section
/-! The boot sequence (R35, R36, R488). -/
namespace Sys2Proof.Machine

variable {s t : State} {p : Nat} {e : BootEnv} {ok : Bool}

/-- PORn is high, so the rails have been in range (R25). -/
def railsUp (s : State) : State := s.setDev { s.dev with porLow := false, aonOk := true, ioOk := true }

theorem bootSequence_boots (hp : s.dev.phase = .boot) (hm : s.mode = mMuslin) (e : BootEnv) : bootSequence e s = boots e (railsUp s) :=
  if_pos ⟨hp, hm⟩

/-- On-chip SRAM cleared and the DRAM trained: the sources can be tried. -/
def bootReady (s : State) : State := dramUp (clearSram s)

/-- Whether trio 12 can take over another trio's identity. -/
def spareGood (e : BootEnv) : Bool := !e.trioCmpFail.contains 12 && !e.aauCmpFail.contains 12

theorem boots_stops (h : e.collectorOk = false ∨ e.testEn = true) (s : State) : boots e s = bootStops (bootFuses e s) := by
  unfold boots
  rw [bootStart_stops h]
  rfl

theorem boots_lost (he : allGood e) (hl : (s.trio 0).lost = true) : boots e s = bootStops (bootUp e s) := by
  unfold boots
  rw [bootStart_allGood he, hl]
  rfl

theorem boots_up (he : allGood e) (hl : (s.trio 0).lost = false) : boots e s =
    if bootStuck e (bootUp e s).quickRec (bootTests e (spareGood e) (bootUp e s)) then bootStops (bootTests e (spareGood e) (bootUp e s))
    else trySources (bootReady (bootTests e (spareGood e) (bootUp e s))).dev.fuses.bootOrder
      (bootReady (bootTests e (spareGood e) (bootUp e s))) := by
  unfold boots
  rw [bootStart_up he hl]
  rfl

/-! ### What steps 1 to 4 leave -/

/-- The state in which the tests of the boot find the device. -/
def bootFound (e : BootEnv) (s : State) : State := seqNoted (bootUp e (railsUp s))

theorem bootUp_fuses (e : BootEnv) (s : State) : (bootUp e (railsUp s)).dev.fuses = { s.dev.fuses with burnFailed := false } :=
  bootUp_devEq (·.fuses) (fun _ _ => rfl) e (railsUp s)

theorem bootUp_board (e : BootEnv) (s : State) : (bootUp e (railsUp s)).dev.board = s.dev.board :=
  bootUp_devEq (·.board) (fun _ _ => rfl) e (railsUp s)

theorem bootUp_records (e : BootEnv) (s : State) : SameRecords s (bootUp e (railsUp s)) :=
  ⟨bootUp_mem e (railsUp s), bootUp_board e s, by rw [bootUp_fuses]⟩

theorem bootFound_records (e : BootEnv) (s : State) : SameRecords s (bootFound e s) := by
  obtain ⟨hm, hb, hf⟩ := bootUp_records e s
  exact ⟨hm, hb, hf⟩

theorem bootFound_mode (e : BootEnv) (s : State) : (bootFound e s).mode = s.mode := bootUp_mode e (railsUp s)

theorem bootFound_lost (e : BootEnv) (s : State) (n : Nat) : ((bootFound e s).trio n).lost = (s.trio n).lost := bootUp_lost e (railsUp s) n

theorem faultBalls_raised (s : State) : (faultBalls s).raised = s.raised := by
  unfold faultBalls
  rw [State.setFld_raised]
  rfl

/-- With no error in the fuses steps 1 to 4 raise nothing. -/
theorem bootFound_raised (he : e.fuseError = false) (hb : s.dev.fuses.burnFailed = false) : (bootFound e s).raised = s.raised := by
  have h : (bootUp e (railsUp s)).raised = s.raised := by
    unfold bootUp
    rw [faultBalls_raised, bootFuses_clean he (s := railsUp s) hb]
    exact (clocked_onlyRegs (railsUp s)).raised
  exact h

/-! ### The memory in which the sources are tried -/

theorem bootReady_onlyRegs (s : State) : OnlyRegs (clearSram s) (bootReady s) := dramUp_onlyRegs _

theorem bootReady_dev (s : State) : (bootReady s).dev = s.dev := (bootReady_onlyRegs s).dev

theorem bootReady_raised (s : State) : (bootReady s).raised = s.raised := (bootReady_onlyRegs s).raised

theorem bootReady_memRead (s : State) (a : Nat) : memRead (bootReady s).mem a = if keepsMem s true a then memRead s.mem a else 0 := by
  rw [(bootReady_onlyRegs s).mem]
  exact memRead_filter _ _ _

/-- All on-chip SRAM is clear. -/
theorem bootReady_sram {x : State} (hb : x.dev.board = s.dev.board) {a : Nat} (h : s.region a = .sram) : memRead (bootReady x).mem a = 0 := by
  have hk : keepsMem x true a = false := by
    unfold keepsMem
    rw [region_congr hb, h]
  rw [bootReady_memRead, hk]
  rfl

theorem bootReady_flash {x : State} (hb : x.dev.board = s.dev.board) {a n : Nat} (h : s.region a = .flash n) :
    memRead (bootReady x).mem a = memRead x.mem a := by
  rw [bootReady_memRead, keepsMem_flash ((region_congr hb a).trans h)]
  rfl

theorem bootReady_record (x : State) : (bootReady x).flag B.rst RST.BOOT_STAT_RECORD = x.flag B.rst RST.BOOT_STAT_RECORD := by
  unfold State.flag bootReady dramUp
  dsimp only
  rw [State.fld_wr_off _ _ (by decide), State.fld_wr_off _ _ (by decide), State.fld_setFld_off _ _ (by decide)]
  rfl

theorem cfg_trained (n r : Nat) (hn : n < 16) (hr : r < 4) : bf (BitVec.ofNat 32 (n + r * 16 + 256)) 8 1 = 1 := by
  unfold bf nbits
  rw [BitVec.toNat_ofNat]
  omega

/-- The DRAM PLL is locked and both controllers are trained (R36). -/
theorem dramUp_effect (s : State) : (dramUp s).fld B.clk CLK.CLK_STAT_DRAM_LOCK = 1 ∧
    (dramUp s).fld (B.dram 0) DRAM.DRAM_CFG_TRAINED = 1 ∧ (dramUp s).fld (B.dram 1) DRAM.DRAM_CFG_TRAINED = 1 := by
  have hg : s.dev.board.dramGiB % 16 < 16 := Nat.mod_lt _ (by decide)
  have hr : s.dev.board.ranks % 4 < 4 := Nat.mod_lt _ (by decide)
  unfold dramUp
  dsimp only
  refine ⟨?_, ?_, ?_⟩
  · rw [State.fld_wr_off _ _ (by decide), State.fld_wr_off _ _ (by decide), State.fld_setFld_same _ _ _ _ (by decide)]
    rfl
  · rw [State.fld_wr_off _ _ (by decide)]
    exact (State.fld_wr_same _ (B.dram 0) DRAM.DRAM_CFG_TRAINED _).trans (cfg_trained _ _ hg hr)
  · exact (State.fld_wr_same _ (B.dram 1) DRAM.DRAM_CFG_TRAINED _).trans (cfg_trained _ _ hg hr)

/-! ### The device that stays in Muslin -/

/-- The device stays in Muslin with the fault waves stopped (R35, R488). -/
def staysMuslin (t : State) : Prop := t.dev.phase = .stuck ∧ t.mode = mMuslin ∧ t.fld B.coll COLL.STAT_FAULT_RUN = 0

theorem bootStops_stays (h : s.mode = mMuslin) : staysMuslin (bootStops s) :=
  ⟨bootStops_phase s, (bootStops_mode s).trans h, bootStops_faultRun s⟩

theorem bootSequence_stops (hp : s.dev.phase = .boot) (hm : s.mode = mMuslin) (h : e.collectorOk = false ∨ e.testEn = true) :
    staysMuslin (bootSequence e s) := by
  rw [bootSequence_boots hp hm, boots_stops h]
  exact bootStops_stays ((bootFuses_mode e _).trans hm)

/-- What the quick path leaves of mode and record: no unit that fails touches them. -/
theorem bootQuick_keeps (p : Nat) (e : BootEnv) (ok : Bool) (s : State) : Keeps false (recordUsed p s) (bootQuick p e ok s) := by
  rw [bootQuick_eq]
  exact bootUnits_keeps (Keeps.refl _)

theorem bootQuick_mode (p : Nat) (e : BootEnv) (ok : Bool) (s : State) : (bootQuick p e ok s).mode = s.mode :=
  (bootQuick_keeps p e ok s).mode.trans (recordUsed_frame p s).1

theorem recordUsed_board (p : Nat) (s : State) : (recordUsed p s).dev.board = s.dev.board := by
  obtain ⟨-, -, -, -, hd, -⟩ := recordUsed_frame p s
  rw [hd]

theorem recordUsed_failed (p : Nat) (s : State) : recFailed p (recordUsed p s) = recFailed p s := by
  obtain ⟨-, -, -, -, -, hmem⟩ := recordUsed_frame p s
  exact recFailed_congr (recordUsed_board p s) fun x _ hx => hmem x (by omega)

theorem bootQuick_failed (p : Nat) (e : BootEnv) (ok : Bool) (s : State) : recFailed p (bootQuick p e ok s) = recFailed p s := by
  have h := bootQuick_keeps p e ok s
  rw [recFailed_congr (h.devEq (·.board) (fun _ _ => rfl)) (fun _ _ _ => by rw [h.mem]), recordUsed_failed]

/-- A record that marks a copy of the collector failed keeps the device in Muslin (R35). -/
theorem bootStuck_collector (h : 94 ∈ recFailed p s ∨ 95 ∈ recFailed p s) : bootStuck e (some p) s = true := by
  have ha : (recFailed p s).any (fun u => inRange 94 95 u || u == 91) = true := by
    rw [List.any_eq_true]
    rcases h with h | h
    · exact ⟨94, h, by decide⟩
    · exact ⟨95, h, by decide⟩
  unfold bootStuck
  rw [Bool.or_eq_true]
  exact .inr ha

theorem bootSequence_collector (hp : s.dev.phase = .boot) (hm : s.mode = mMuslin) (he : allGood e) (hq : s.quickRec = some p)
    (hf : 94 ∈ recFailed p s ∨ 95 ∈ recFailed p s) : staysMuslin (bootSequence e s) := by
  rw [bootSequence_boots hp hm]
  cases hl : ((railsUp s).trio 0).lost with
  | true =>
    rw [boots_lost he hl]
    exact bootStops_stays ((bootUp_mode e _).trans hm)
  | false =>
    have hr := bootFound_records e s
    have ht : bootTests e (spareGood e) (bootUp e (railsUp s)) = bootQuick p e (spareGood e) (bootFound e s) :=
      bootTests_quick (hr.quickRec.trans hq) e _
    rw [boots_up he hl, ht, (bootUp_records e s).quickRec, hq,
      if_pos (bootStuck_collector (by rwa [bootQuick_failed, hr.recFailed]))]
    exact bootStops_stays ((bootQuick_mode p e _ _).trans ((bootFound_mode e s).trans hm))

/-! ### The quick path and the full path -/

/-- With no unit failed and no cell the quick path ends as the record's use left it. -/
theorem bootQuick_clean (hf : recFailed p s = []) (hc : e.cells = []) (ok : Bool) : bootQuick p e ok s = recordUsed p s := by
  have hq : quickCells e = [] := by unfold quickCells; rw [hc]; rfl
  rw [bootQuick_eq, hf, hq]
  rfl

theorem bootStuck_quick (hl : (s.trio 0).lost = false) (hf : recFailed p s = []) : bootStuck e (some p) s = false := by
  unfold bootStuck
  rw [hl]
  dsimp only
  rw [hf]
  rfl

theorem bootSequence_quick (hp : s.dev.phase = .boot) (hm : s.mode = mMuslin) (he : allGood e) (hl : (s.trio 0).lost = false)
    (hq : s.quickRec = some p) (hf : recFailed p s = []) (hc : e.cells = []) :
    bootSequence e s = trySources s.dev.fuses.bootOrder (bootReady (recordUsed p (bootFound e s))) := by
  have hr := bootFound_records e s
  obtain ⟨-, -, -, htrios, hdev, -⟩ := recordUsed_frame p (bootFound e s)
  have ht : bootTests e (spareGood e) (bootUp e (railsUp s)) = recordUsed p (bootFound e s) :=
    (bootTests_quick (hr.quickRec.trans hq) e _).trans (bootQuick_clean ((hr.recFailed p).trans hf) hc _)
  have hlost : ((recordUsed p (bootFound e s)).trio 0).lost = false := by
    rw [State.trio_congr htrios, bootFound_lost, hl]
  have ho : (bootReady (recordUsed p (bootFound e s))).dev.fuses.bootOrder = s.dev.fuses.bootOrder := by
    rw [bootReady_dev, hdev]
    show (bootFound e s).dev.fuses.bootOrder = _
    rw [hr.fuses]
  rw [bootSequence_boots hp hm, boots_up (s := railsUp s) he hl, ht, (bootUp_records e s).quickRec, hq,
    if_neg (by rw [bootStuck_quick hlost (by rw [recordUsed_failed, hr.recFailed, hf])]; decide), ho]

theorem recRepairs_length (p : Nat) (s : State) : (recRepairs p s).length = fieldAt (s.readMem (s.recBase p) 0x2000) 0xB0 2 := by
  unfold recRepairs
  rw [List.length_map, List.length_range]

theorem recRepairs_get {i : Nat} (p : Nat) (s : State) (h : i < (recRepairs p s).length) :
    (recRepairs p s)[i]? = some (RepEnt.ofWord (BitVec.ofNat 64 (fieldAt (s.readMem (s.recBase p) 0x2000) (0x100 + 8 * i) 8))) := by
  rw [recRepairs_length] at h
  unfold recRepairs
  rw [List.getElem?_map, List.getElem?_range h]
  rfl

theorem SameRecords.recRepairs (h : SameRecords s t) (p : Nat) : recRepairs p t = recRepairs p s := by
  unfold Machine.recRepairs
  rw [recBase_congr h.board, readMem_same h.mem]

theorem recordUsed_repairs (p : Nat) (s : State) : (recordUsed p s).dev.repairs = recRepairs p s := by
  obtain ⟨-, -, -, -, hdev, -⟩ := recordUsed_frame p s
  rw [hdev]

/-- What the quick path leaves: no source, the record's repairs, clear SRAM. -/
theorem quickReady_effect (e : BootEnv) (s : State) (p : Nat) (hfe : e.fuseError = false) (hb : s.dev.fuses.burnFailed = false) :
    let x := bootReady (recordUsed p (bootFound e s))
    x.raised = s.raised ∧ x.flag B.rst RST.BOOT_STAT_RECORD = true ∧ x.dev.repairs = recRepairs p s ∧
      ∀ a, s.region a = .sram → memRead x.mem a = 0 := by
  have hr := bootFound_records e s
  obtain ⟨-, hrec, hraised, -, -, -⟩ := recordUsed_frame p (bootFound e s)
  refine ⟨?_, ?_, ?_, fun a ha => ?_⟩
  · rw [bootReady_raised, hraised, bootFound_raised hfe hb]
  · rw [bootReady_record, hrec]
  · rw [bootReady_dev, recordUsed_repairs, hr.recRepairs]
  · exact bootReady_sram ((recordUsed_board p _).trans hr.board) ha

theorem mbistFails_nil (held : List RepEnt) : mbistFails held [] = [] := rfl

theorem bootFull_clean (hu : e.unitFail = []) (hc : e.cells = []) (ok : Bool) : bootFull e ok s = fullTested e s := by
  rw [bootFull_eq, hu, hc]
  rfl

theorem bootStuck_full (hl : (s.trio 0).lost = false) (hu : e.unitFail = []) (hc : e.cells = []) : bootStuck e none s = false := by
  unfold bootStuck
  rw [hl, hu, hc]
  rfl

theorem quickRec_none (h : s.bestRec = none) : s.quickRec = none := by
  unfold State.quickRec
  rw [h]
  rfl

theorem bootSequence_full (hp : s.dev.phase = .boot) (hm : s.mode = mMuslin) (he : allGood e) (hl : (s.trio 0).lost = false)
    (hu : e.unitFail = []) (hc : e.cells = []) (hb : s.bestRec = none) :
    bootSequence e s = trySources s.dev.fuses.bootOrder (bootReady (fullTested e (bootFound e s))) ∧
      (bootReady (fullTested e (bootFound e s))).dev.fuses.bootOrder = s.dev.fuses.bootOrder := by
  have hr := bootFound_records e s
  obtain ⟨-, -, htrios, hdev⟩ := fullTested_frame (hr.bestRec.trans hb) e
  have ht : bootTests e (spareGood e) (bootUp e (railsUp s)) = fullTested e (bootFound e s) :=
    (bootTests_full (hr.quickRec.trans (quickRec_none hb)) e _).trans (bootFull_clean hu hc _)
  have hlost : ((fullTested e (bootFound e s)).trio 0).lost = false := by
    rw [State.trio_congr htrios, bootFound_lost, hl]
  have ho : (bootReady (fullTested e (bootFound e s))).dev.fuses.bootOrder = s.dev.fuses.bootOrder := by
    rw [bootReady_dev, hdev]
    show (bootFound e s).dev.fuses.bootOrder = _
    rw [hr.fuses]
  refine ⟨?_, ho⟩
  rw [bootSequence_boots hp hm, boots_up (s := railsUp s) he hl, ht, (bootUp_records e s).quickRec, quickRec_none hb,
    if_neg (by rw [bootStuck_full hlost hu hc]; decide), ho]

/-- What the full path without a record leaves: source 465, clear SRAM, the flash as it was, the DRAM trained. -/
theorem fullReady_effect (hb : s.bestRec = none) (e : BootEnv) :
    let x := bootReady (fullTested e (bootFound e s))
    (∃ a, a ∈ x.raised ∧ a.src = 465) ∧ (∀ a, s.region a = .sram → memRead x.mem a = 0) ∧
      (∀ a n, s.region a = .flash n → memRead x.mem a = memRead s.mem a) ∧ x.fld B.clk CLK.CLK_STAT_DRAM_LOCK = 1 ∧
      x.fld (B.dram 0) DRAM.DRAM_CFG_TRAINED = 1 ∧ x.fld (B.dram 1) DRAM.DRAM_CFG_TRAINED = 1 := by
  have hr := bootFound_records e s
  obtain ⟨hsrc, hmem, -, hdev⟩ := fullTested_frame (hr.bestRec.trans hb) e
  have hboard : (fullTested e (bootFound e s)).dev.board = s.dev.board := by
    rw [hdev]
    exact hr.board
  refine ⟨by rw [bootReady_raised]; exact hsrc, fun a ha => bootReady_sram hboard ha, fun a n ha => ?_, dramUp_effect _⟩
  rw [bootReady_flash hboard ha, hmem, hr.mem]

end Sys2Proof.Machine
end

section
/-! Images in flash, the Canvas ROM, and the sources one after another (R32, R33, R395). -/
namespace Sys2Proof.Machine

variable {c : Bool} {s t : State}

/-! ### The lowest of several codes -/

theorem lowest_cons (d : Code) (cs : List Code) : Code.lowest (d :: cs) =
    if d = .ok then Code.lowest cs else if Code.lowest cs = .ok then d else if d.num ≤ (Code.lowest cs).num then d else Code.lowest cs := rfl

theorem Code.eq_of_num_eq {a b : Code} (h : a.num = b.num) : a = b := by
  revert h
  cases a <;> cases b <;> decide

theorem lowest_ge {x : Code} {cs : List Code} (hl : ∀ d ∈ cs, x.num ≤ d.num) : Code.lowest cs = .ok ∨ x.num ≤ (Code.lowest cs).num := by
  induction cs with
  | nil => exact .inl rfl
  | cons d l ih =>
    have hd := hl d List.mem_cons_self
    have hrest := ih fun y hy => hl y (List.mem_cons_of_mem _ hy)
    rw [lowest_cons]
    split
    · exact hrest
    split
    · exact .inr hd
    split
    · exact .inr hd
    · exact hrest

/-- Among codes none of which is OK the least is reported. -/
theorem lowest_eq {x : Code} {cs : List Code} (hx : x ∈ cs) (hne : ∀ d ∈ cs, d ≠ .ok) (hl : ∀ d ∈ cs, x.num ≤ d.num) :
    Code.lowest cs = x := by
  induction cs with
  | nil => cases hx
  | cons d l ih =>
    have hn := fun y hy => hne y (List.mem_cons_of_mem d hy)
    have hm := fun y hy => hl y (List.mem_cons_of_mem d hy)
    rw [lowest_cons, if_neg (hne d List.mem_cons_self)]
    rcases List.mem_cons.1 hx with rfl | hmem
    · rcases lowest_ge hm with h | h
      · rw [if_pos h]
      · rw [if_pos h, ite_self]
    · rw [ih hmem hn hm, if_neg (hne x hx)]
      split
      next hle => exact Code.eq_of_num_eq (Nat.le_antisymm hle (hl d List.mem_cons_self))
      next => rfl

theorem mem_refuseIf {b : Bool} {c d : Code} : d ∈ refuseIf b c ↔ b = true ∧ d = c := by
  cases b <;> simp [refuseIf]

/-! ### The code of an image -/

theorem headerRange_codes {h : List Byte} {d : Code} (hd : d ∈ headerRange h s) : d = .range ∨ d = .align := by
  unfold headerRange at hd
  simp only [List.mem_append, mem_refuseIf] at hd
  rcases hd with (⟨-, rfl⟩ | ⟨-, rfl⟩) | ⟨-, rfl⟩
  · exact .inl rfl
  · exact .inl rfl
  · exact .inr rfl

theorem headerTrust_codes {h dig : List Byte} {d : Code} (hd : d ∈ headerTrust h dig s) : d = .key ∨ d = .edition ∨ d = .integrity := by
  unfold headerTrust at hd
  simp only [List.mem_append, mem_refuseIf] at hd
  rcases hd with (⟨-, rfl⟩ | ⟨-, rfl⟩) | ⟨-, rfl⟩
  · exact .inl rfl
  · exact .inr (.inl rfl)
  · exact .inr (.inr rfl)

theorem imageCode_absent {h : List Byte} (hm : fieldAt h 0 4 ≠ imageMagic) (pl : List Byte) (s : State) : imageCode h pl s = .absent := if_pos hm

theorem imageCode_magic {h : List Byte} (hm : fieldAt h 0 4 = imageMagic) (pl : List Byte) (s : State) :
    imageCode h pl s = Code.lowest (headerRange h s ++ headerTrust h (imageDigest h pl) s) := if_neg (not_not.2 hm)

/-- A security version below the fuses' is out of range. -/
theorem imageCode_range {h : List Byte} (hm : fieldAt h 0 4 = imageMagic) (hv : fieldAt h 0x00C 4 < s.dev.fuses.minSecVer.toNat) (pl : List Byte) :
    imageCode h pl s = .range := by
  rw [imageCode_magic hm]
  have hr : Code.range ∈ headerRange h s := by
    unfold headerRange
    simp only [List.mem_append, mem_refuseIf]
    exact .inl (.inr ⟨decide_eq_true hv, trivial⟩)
  have hcodes : ∀ d ∈ headerRange h s ++ headerTrust h (imageDigest h pl) s, d ≠ .ok ∧ Code.range.num ≤ d.num := by
    intro d hd
    rcases List.mem_append.1 hd with hd | hd
    · rcases headerRange_codes hd with rfl | rfl <;> decide
    · rcases headerTrust_codes hd with rfl | rfl | rfl <;> decide
  exact lowest_eq (List.mem_append_left _ hr) (fun d hd => (hcodes d hd).1) (fun d hd => (hcodes d hd).2)

/-- No fuse holds the key, or all that do revoke it. -/
theorem imageCode_key {h : List Byte} (hm : fieldAt h 0 4 = imageMagic) (hr : headerRange h s = [])
    (hk : ∀ k, k ∈ s.dev.fuses.keys → k.1 = sha384 ((h.drop 0x040).take 96) → k.2 = true) (pl : List Byte) : imageCode h pl s = .key := by
  rw [imageCode_magic hm, hr, List.nil_append]
  have hkey : s.dev.fuses.keys.any (fun k => k.1 == sha384 ((h.drop 0x040).take 96) && !k.2) = false := by
    rw [List.any_eq_false]
    intro k hmem he
    rw [Bool.and_eq_true, beq_iff_eq, Bool.not_eq_true'] at he
    exact Bool.false_ne_true (he.2.symm.trans (hk k hmem he.1))
  have hmem : Code.key ∈ headerTrust h (imageDigest h pl) s := by
    unfold headerTrust
    simp only [List.mem_append, mem_refuseIf]
    exact .inl (.inl ⟨by rw [hkey]; rfl, trivial⟩)
  have hcodes : ∀ d ∈ headerTrust h (imageDigest h pl) s, d ≠ .ok ∧ Code.key.num ≤ d.num := by
    intro d hd
    rcases headerTrust_codes hd with rfl | rfl | rfl <;> decide
  exact lowest_eq hmem (fun d hd => (hcodes d hd).1) (fun d hd => (hcodes d hd).2)

/-- The key is in force and the edition right, but the signature does not verify. -/
theorem imageCode_integrity {h : List Byte} (hm : fieldAt h 0 4 = imageMagic) (hr : headerRange h s = [])
    (hk : ∃ k, k ∈ s.dev.fuses.keys ∧ k.1 = sha384 ((h.drop 0x040).take 96) ∧ k.2 = false) (he : fieldAt h 0x006 2 = 1) {pl : List Byte}
    (hv : Config.ecdsaVerify ((h.drop 0x040).take 96) (imageDigest h pl) ((h.drop 0x0A0).take 96) = false) : imageCode h pl s = .integrity := by
  obtain ⟨k, hmem, hsha, hlive⟩ := hk
  have hkey : s.dev.fuses.keys.any (fun k => k.1 == sha384 ((h.drop 0x040).take 96) && !k.2) = true :=
    List.any_eq_true.2 ⟨k, hmem, by rw [hsha, hlive]; simp⟩
  rw [imageCode_magic hm, hr, List.nil_append]
  unfold headerTrust
  dsimp only
  rw [hkey, hv, he]
  rfl

/-! ### The Canvas ROM -/

theorem linkGone_runs {p : Nat} (h : Runs c s t) : Runs c s (linkGone p t) :=
  .ite (h.wr (open_high (high_eth p))).irq (h.wr (open_high (high_eth p)))

theorem Runs.setEthp {p : Nat} {x : EthPort} (h : Runs c s t) : Runs c s (t.setEthp p x) := h.other

theorem romPageOff_runs {p : Nat} (hp : 0x14 ≤ p) (h : Runs c s t) : Runs c s (setStat p 0 1 (t.setFld (page p) PG.CTL_EN 0)) :=
  setStat_runs hp (h.high (high_page hp))

theorem ethOff_runs {p : Nat} (h : Runs c s t) : Runs c s (ethOff p t) :=
  Runs.setEthp (linkGone_runs (romPageOff_runs (show 0x14 ≤ 0x320 + p by omega) h))

/-- The Ethernet pages that the ROM had enabled are off. -/
def romPagesOff (s : State) : State :=
  [0x322, 0x323].foldl (fun a p => setStat p 0 1 (a.setFld (page p) PG.CTL_EN 0)) (ethOff 1 (ethOff 0 s))

theorem romPagesOff_runs (s : State) : Runs c s (romPagesOff s) := by
  unfold romPagesOff
  rw [List.foldl_cons, List.foldl_cons, List.foldl_nil]
  exact romPageOff_runs (by decide) (romPageOff_runs (by decide) (ethOff_runs (ethOff_runs (Runs.refl s))))

theorem romDown_eq (s : State) :
    romDown s = (romPagesOff s).setYcp { (romPagesOff s).ycp with sess := (romPagesOff s).ycp.sess.del 8, upload := none } := rfl

/-- Taking the ROM's pages down leaves memory alone. -/
theorem romDown_mem (s : State) : (romDown s).mem = s.mem := by
  rw [romDown_eq, State.setYcp_mem, (romPagesOff_runs (c := false) s).mem]

/-! ### An image that starts -/

/-- The device's own state and registers as the image finds them, before the jump to ENTRY. -/
def imageSet (src : Nat) (h payload : List Byte) (s : State) : State :=
  let s1 := s.setDev { s.dev with image := some ⟨h.take 256, imageDigest h payload⟩, phase := .running, bootLeft := [] }
  let s2 := (s1.setFld B.rst RST.BOOT_STAT_SOURCE src).wr (B.sys + SYS.ACTIVE_ED.off) (BitVec.ofNat 32 (fieldAt h 0x006 2))
  s2.free.2.wr (B.rst + RST.BOOT_TIME.off) (s2.free.1.extractLsb' 0 32)

/-- Trio 0 at ENTRY, in ring 0. -/
def atEntry (h : List Byte) (s : State) : State :=
  s.setThread 0 { s.thread 0 with st := .running, pc := BitVec.ofNat 64 (fieldAt h 0x018 8), sr := 8 }

theorem imageStarts_eq (src : Nat) (h payload : List Byte) (s : State) : imageStarts src h payload s =
    enterMode mCalico 3 (atEntry h (imageSet src h payload (if s.dev.phase = .netWait ∨ s.dev.phase = .felt then romDown s else s))) := rfl

theorem imageSet_phase (src : Nat) (h payload : List Byte) (s : State) : (imageSet src h payload s).dev.phase = .running := rfl

theorem imageSet_mem (src : Nat) (h payload : List Byte) (s : State) : (imageSet src h payload s).mem = s.mem := rfl

theorem imageSet_source {src : Nat} (hs : src < 4) (h payload : List Byte) (s : State) :
    (imageSet src h payload s).fld B.rst RST.BOOT_STAT_SOURCE = src := by
  have hfree (x : State) (b : Nat) (f : Fld) : x.free.2.fld b f = x.fld b f := rfl
  unfold imageSet
  dsimp only
  rw [State.fld_wr_off _ _ (by decide), hfree, State.fld_wr_off _ _ (by decide), State.fld_setFld_same _ _ _ _ (by decide)]
  exact Nat.mod_eq_of_lt hs

theorem atEntry_thread (h : List Byte) (s : State) : ((atEntry h s).thread 0).st = .running ∧
    ((atEntry h s).thread 0).pc = BitVec.ofNat 64 (fieldAt h 0x018 8) ∧ ((atEntry h s).thread 0).ring = 0 := by
  unfold atEntry
  rw [State.setThread_same]
  exact ⟨rfl, rfl, ring_of_sr rfl⟩

/-- In Calico, trio 0 runs at ENTRY of the image. -/
theorem entered_image {src : Nat} (hs : src < 4) (h payload : List Byte) (s : State) :
    let t := enterMode mCalico 3 (atEntry h (imageSet src h payload s))
    t.mode = mCalico ∧ t.dev.phase = .running ∧ t.fld B.rst RST.BOOT_STAT_SOURCE = src ∧ (t.thread 0).st = .running ∧
      (t.thread 0).pc = BitVec.ofNat 64 (fieldAt h 0x018 8) ∧ (t.thread 0).ring = 0 ∧ t.mem = s.mem := by
  intro t
  have hr : Runs false (modeWritten mCalico 3 (atEntry h (imageSet src h payload s))) t := enterMode_runs (by decide) 3 _
  have hth : t.thread 0 = (atEntry h (imageSet src h payload s)).thread 0 := (hr.thread 0).trans (modeWritten_thread _ _ _ _)
  obtain ⟨hst, hpc, hring⟩ := atEntry_thread h (imageSet src h payload s)
  refine ⟨enterMode_mode (by decide) _ _, hr.devEq (·.phase) (fun _ _ => rfl), ?_, (congrArg (·.st) hth).trans hst,
    (congrArg (·.pc) hth).trans hpc, (congrArg Thread.ring hth).trans hring, ?_⟩
  · rw [hr.fld (.inl (by decide)), modeWritten_fld (by decide)]
    exact imageSet_source hs h payload s
  · exact (enterMode_mem _ _ _).trans (imageSet_mem src h payload s)

/-! ### One source after another -/

/-- The payload that a source's header announces, no more than 64 MiB of it (R32). -/
def srcPayload (b : Nat) (s : State) : List Byte := s.readMem (b + 256) (min (fieldAt (s.readMem b 256) 0x008 4) 0x4000000)

/-- The code of a source stands in BOOT_STAT. -/
def srcCoded (x : Nat) (c : Code) (s : State) : State := s.setFld B.rst ⟨0x048, 8 + 8 * x, 8⟩ c.num

theorem trySources_magic {x : Fin 3} (hx : x ≠ 2) (hm : fieldAt (s.readMem (flashBase x.val) 256) 0 4 = imageMagic) (rest : List (Fin 3)) :
    trySources (x :: rest) s =
      if imageCode (s.readMem (flashBase x.val) 256) (srcPayload (flashBase x.val) s) s = .ok then
        imageStarts x.val (s.readMem (flashBase x.val) 256) (srcPayload (flashBase x.val) s)
          ((srcCoded x.val (imageCode (s.readMem (flashBase x.val) 256) (srcPayload (flashBase x.val) s) s) s).poke
            (fieldAt (s.readMem (flashBase x.val) 256) 0x010 8) (srcPayload (flashBase x.val) s))
      else trySources rest (srcCoded x.val (imageCode (s.readMem (flashBase x.val) 256) (srcPayload (flashBase x.val) s) s) s) := by
  rw [trySources, if_neg hx]
  dsimp only
  rw [if_pos hm]
  rfl

theorem trySources_absent {x : Fin 3} (hx : x ≠ 2) (hm : fieldAt (s.readMem (flashBase x.val) 256) 0 4 ≠ imageMagic) (rest : List (Fin 3)) :
    trySources (x :: rest) s = trySources rest (srcCoded x.val .absent s) := by
  rw [trySources, if_neg hx]
  dsimp only
  rw [imageCode_absent hm, if_neg (by decide)]
  rfl

/-- A source that does not start leaves its code, and nothing else. -/
theorem srcCoded_effect (x : Fin 3) (c : Code) (s : State) :
    (srcCoded x.val c s).mem = s.mem ∧ (srcCoded x.val c s).dev = s.dev ∧ (srcCoded x.val c s).fld B.rst ⟨0x048, 8 + 8 * x.val, 8⟩ = c.num := by
  have hc : c.num < 16 := by cases c <;> decide
  have hx := x.isLt
  unfold srcCoded
  refine ⟨State.setFld_mem _ _ _ _, State.setFld_dev _ _ _ _, ?_⟩
  rw [State.fld_setFld_same _ _ _ _ (by dsimp only; omega)]
  exact Nat.mod_eq_of_lt (by dsimp only; omega)

/-- An image that passes R32 starts: payload at LOAD, Calico, trio 0 at ENTRY. -/
theorem imageStarts_effect {src : Nat} (hs : src < 4) (h payload : List Byte) (load : Nat) (s : State) :
    let t := imageStarts src h payload (s.poke load payload)
    t.mode = mCalico ∧ t.dev.phase = .running ∧ t.fld B.rst RST.BOOT_STAT_SOURCE = src ∧ (t.thread 0).st = .running ∧
      (t.thread 0).pc = BitVec.ofNat 64 (fieldAt h 0x018 8) ∧ (t.thread 0).ring = 0 ∧
      ∀ i, i < payload.length → memRead t.mem (load + i) = payload.getD i 0 := by
  intro t
  have hmem : (if (s.poke load payload).dev.phase = .netWait ∨ (s.poke load payload).dev.phase = .felt then romDown (s.poke load payload)
      else s.poke load payload).mem = memWriteL s.mem load payload := by
    split
    · exact (romDown_mem _).trans (State.poke_mem _ _ _)
    · exact State.poke_mem _ _ _
  have ht : t = _ := imageStarts_eq src h payload (s.poke load payload)
  obtain ⟨hmode, hphase, hsrc, hst, hpc, hring, hm⟩ := entered_image hs h payload
    (if (s.poke load payload).dev.phase = .netWait ∨ (s.poke load payload).dev.phase = .felt then romDown (s.poke load payload)
      else s.poke load payload)
  rw [ht]
  refine ⟨hmode, hphase, hsrc, hst, hpc, hring, fun i hi => ?_⟩
  rw [hm, hmem, memRead_memWriteL, if_pos (by omega), Nat.add_sub_cancel_left]

/-! ### No source starts an image (R33) -/

theorem noImage_mode (s : State) : (noImage s).mode = mFelt := enterMode_mode (by decide) _ _

/-- The ROM serves in Felt; what the sources left in BOOT_STAT stands. -/
theorem noImage_keeps (s : State) : (noImage s).dev.phase = .felt ∧ ∀ o lo wd, o < 4096 → (noImage s).fld B.rst ⟨o, lo, wd⟩ = s.fld B.rst ⟨o, lo, wd⟩ := by
  have h := enterMode_keeps (c := false) mFelt 4 (romUp (s.setDev { s.dev with phase := .felt, bootLeft := [] }))
  have hr : Runs false (s.setDev { s.dev with phase := .felt, bootLeft := [] }) (romUp (s.setDev { s.dev with phase := .felt, bootLeft := [] })) :=
    romUp_runs (Runs.refl _)
  refine ⟨?_, fun o lo wd ho => ?_⟩
  · exact (h.devEq (·.phase) (fun _ _ => rfl)).trans (hr.devEq (·.phase) (fun _ _ => rfl))
  · have hk : B.rst + o < 0x3000 := by unfold B.rst page; omega
    refine (h.fld (.inl hk)).trans ((modeWritten_fld ?_ _).trans ((hr.fld (.inl hk)).trans (State.setDev_fld _ _ _ _)))
    show B.rst + o ≠ _
    unfold B.rst B.sys page SYS.MODE
    dsimp only
    omega

/-- The network source has timed out. -/
def netTimedOut (s : State) : State :=
  ({ uploadDrop s with ycp := { (uploadDrop s).ycp with sess := (uploadDrop s).ycp.sess.del 8 } } : State).setFld B.rst RST.BOOT_STAT_CODE_NET
    Code.timeout.num

theorem netTimeout_last (hp : s.dev.phase = .netWait) (hl : s.dev.bootLeft = []) : netTimeout s = noImage (netTimedOut s) := by
  unfold netTimeout
  rw [if_pos hp, hl]
  rfl

theorem netTimedOut_code (s : State) : (netTimedOut s).fld B.rst RST.BOOT_STAT_CODE_NET = Code.timeout.num := by
  unfold netTimedOut
  rw [State.fld_setFld_same _ _ _ _ (by decide)]
  rfl

/-- The ROM announces itself over IPv6, and over IPv4 where it has an address. -/
theorem announce_six (hd : s.net.dup = false) (h4 : s.has4 = false) : announce s =
    netSend 0 ([0x33, 0x33, 0, 0, 0, 1] ++ s.macBytes ++ udpPacket s.linkLocal ([0xFF, 0x02] ++ zeros 13 ++ [1])
      (s.fld B.ycp YCP.CTL_PORT) 21340 (ycpHead 5 0 0 1 0 (identity s).length ++ identity s)) true s := by
  unfold announce
  simp only [hd, h4, Bool.false_eq_true, if_false]

theorem romServes_waiting (hp : s.dev.phase = .netWait) (hn : s.dev.fuses.netOff = false) : romServes s = true := by
  unfold romServes
  rw [hp, hn]
  rfl

theorem dramInit_effect (hp : s.dev.phase = .running) : (dramInit s).fld B.rst RST.BOOT_STAT_DRAM_INIT = 1 := by
  unfold dramInit
  rw [if_pos hp, State.fld_setFld_same _ _ _ _ (by decide)]
  rfl

/-- What becomes of a flash source (R32, R33): its image starts, or its code says why not. -/
theorem flashSource_rows (s : State) {x : Fin 3} (hx : x ≠ 2) (rest : List (Fin 3)) :
    let h := s.readMem (flashBase x.val) 256
    let payload := s.readMem (flashBase x.val + 256) (min (fieldAt h 0x008 4) 0x4000000)
    let tried (c : Code) : Prop := ∃ s1, trySources (x :: rest) s = trySources rest s1 ∧ s1.mem = s.mem ∧ s1.dev = s.dev ∧
      s1.fld B.rst ⟨0x048, 8 + 8 * x.val, 8⟩ = c.num
    (fieldAt h 0 4 ≠ imageMagic → tried .absent) ∧
      (fieldAt h 0 4 = imageMagic → imageCode h payload s ≠ .ok → tried (imageCode h payload s)) := by
  intro h payload tried
  refine ⟨fun hm => ⟨_, trySources_absent hx hm rest, srcCoded_effect x _ s⟩, fun hm hc => ⟨_, ?_, srcCoded_effect x _ s⟩⟩
  exact (trySources_magic hx hm rest).trans (if_neg hc)

/-- Settles O37: the sequence is its first steps, the tests on one of two paths, and the sources in order; each source's code is the lowest of
its refusals. -/
theorem bootRows : Obligations.BootRows := by
  unfold Obligations.BootRows
  intro s e stays
  refine ⟨fun hp hm h => ⟨_, rfl, bootSequence_stops hp hm h⟩, fun p hp hm he hq hf => ⟨_, rfl, bootSequence_collector hp hm he hq hf⟩,
    fun p hp hm he hfe hb hl hq hf hc => ?_, fun hp hm he hu hc hl hb => ?_, fun x rest hx => ?_, fun hp hl => ?_, fun hp => ⟨_, rfl, dramInit_effect hp⟩,
    fun hp hn hd h4 => ?_⟩
  · obtain ⟨hraised, hrec, hreps, hsram⟩ := quickReady_effect e s p hfe hb
    refine ⟨_, congrArg Host.Outcome.next (bootSequence_quick hp hm he hl hq hf hc), hraised, hrec, ?_, fun i hi => ?_, hsram⟩
    · rw [hreps, recRepairs_length]
    · rw [hreps] at hi ⊢
      exact recRepairs_get p s hi
  · obtain ⟨heq, horder⟩ := bootSequence_full hp hm he hl hu hc hb
    obtain ⟨hsrc, hsram, hflash, hlock, h0, h1⟩ := fullReady_effect hb e
    exact ⟨_, congrArg Host.Outcome.next heq, hsrc, hsram, hflash, hlock, h0, h1, horder⟩
  · intro h payload tried
    obtain ⟨habsent, hrefused⟩ := flashSource_rows s hx rest
    have hcode {c : Code} (hm : fieldAt h 0 4 = imageMagic) (hc : imageCode h payload s = c) (hne : c ≠ .ok) : tried c := by
      subst hc
      exact hrefused hm hne
    refine ⟨fun hm hok => ?_, habsent, hrefused, fun hm hv => hcode hm (imageCode_range hm hv _) (by decide),
      fun hm hr hk => hcode hm (imageCode_key hm hr hk _) (by decide),
      fun hm hr hk he hv => hcode hm (imageCode_integrity hm hr hk he hv) (by decide)⟩
    intro t
    have ht : t = _ := (trySources_magic hx hm rest).trans (if_pos hok)
    rw [ht]
    exact imageStarts_effect (by omega) _ _ _ _
  · obtain ⟨hphase, hfld⟩ := noImage_keeps (netTimedOut s)
    exact ⟨_, congrArg Host.Outcome.next (netTimeout_last hp hl), noImage_mode _, hphase, (hfld _ _ _ (by decide)).trans (netTimedOut_code s)⟩
  · exact congrArg Host.Outcome.next ((if_pos (romServes_waiting hp hn)).trans (announce_six hd h4))

end Sys2Proof.Machine
end

section
/-! The end of a resync while a YCP request that waits asks for a reset (R65, R67, R387). -/
namespace Sys2Proof.Machine

/-- REG_WRITE of RST.REQ with the key of a system reset (R29, R388). -/
def resetRequest : YReq := ⟨1, .regWrite 0x40002044 0xC302, true, false, none⟩

/-- Core 0 of trio 0 is in a resync, and a session with the right to write registers holds its next request, which asks for a system reset.
No request executes, so the next row that lets the YCP engine go on starts it. -/
def resyncBeforeReset : State :=
  { State.reset with
    trios := ⟨[(0, { resync := some 0 })]⟩
    ycp := { sess := ⟨[(0, { num := 1, rights := 2, held := [resetRequest] })]⟩ } }

/-- The row declares core 0 failed, and then the request runs and resets the device, which forgets that. -/
theorem resyncComplete_forgets_failed {t : State} (h : exec (.resyncComplete 0 false) resyncBeforeReset = .next t) :
    t.dev.resets = 1 ∧ (t.trio 0).failed.getLsbD 0 = false := by
  cases h
  decide

/-- Refutes O41: the clause on a failed resync asks nothing of the YCP requests that wait (its neighbours do, with `quiet`), and RESYNC_COMPLETE
lets them go on; from `resyncBeforeReset` one of them resets the device within the row, and the core it declared failed is failed no more. -/
theorem not_trioRows : ¬ Obligations.TrioRows := by
  unfold Obligations.TrioRows
  intro h
  obtain ⟨-, -, -, -, -, -, -, -, -, hresync, -⟩ := h resyncBeforeReset ⟨0, false, ⟨0, 0, 0⟩⟩ 0
  obtain ⟨t, hrow, -, -, hfailed, -⟩ := (hresync 0 (by decide) rfl rfl).2
  obtain ⟨-, hforgot⟩ := resyncComplete_forgets_failed hrow
  exact absurd (hfailed.symm.trans hforgot) (by decide)

end Sys2Proof.Machine
end

section
/-! A request that its session takes and the engine answers at once (R383, R386, R387). -/
namespace Sys2Proof.Machine

variable {s t : State} {h : YcpHdr} {place n : Nat} {x y : Session} {right : Option Nat} {c : YCmd} {code : Code} {d : List Byte}

/-- A request from a session that takes it is the one that starts. -/
theorem ycpRequest_starts (ht : takesNow h place x right s) :
    ycpRequest none h c s = ycpDrain place drainFuel (ycpStart place x (ycpReq h c) s) := by
  obtain ⟨hon, hrom, hwf, hauth, -, hnum, hnz, hlist, -, hpend, -, hbusy, -, hseq, -⟩ := ht
  have hses : h.session ≠ 0 := hnum ▸ hnz
  unfold ycpRequest
  simp only [hon, hrom, hwf, hauth, hses, hlist, hpend, not_true_eq_false, and_false, if_false, Bool.false_eq_true]
  unfold ycpWindow
  simp only [hseq, hbusy, if_true, Bool.false_eq_true, if_false]
  unfold ycpReq
  rw [hseq]

/-- With nothing held, the engine starts nothing more for a session. -/
theorem ycpDrain_idle (hf : t.ycp.sess.find place = some y) (hh : y.held = []) (hn : y.next < 2 ^ 32) (k : Nat) : ycpDrain place k t = t := by
  cases k with
  | zero => rfl
  | succ k =>
    unfold ycpDrain
    simp only [hf, hh, List.find?_nil, if_neg (Nat.not_le.2 hn), ite_self]

/-- The state `t`, in which a request of session `y` has run, once its answer is out and stored for a repeat. -/
def ycpReplied (h : YcpHdr) (place : Nat) (y : Session) (c : YCmd) (code : Code) (d : List Byte) (t : State) : State :=
  let k := ycpPacket y (ycpReq h c) code d
  (t.putSess place { y with next := y.next + 1, resps := (⟨h.seq.toNat, k⟩ :: y.resps).take 16, exec := none }).emit (.ycp k)

section
variable (h : YcpHdr) (place : Nat) (y : Session) (c : YCmd) (code : Code) (d : List Byte) (t : State)

theorem ycpReplied_threads : (ycpReplied h place y c code d t).threads = t.threads := rfl
theorem ycpReplied_regs : (ycpReplied h place y c code d t).regs = t.regs := rfl
theorem ycpReplied_mem : (ycpReplied h place y c code d t).mem = t.mem := rfl
theorem ycpReplied_thread (k : Nat) : (ycpReplied h place y c code d t).thread k = t.thread k := rfl
theorem ycpReplied_flag (b : Nat) (f : Fld) : (ycpReplied h place y c code d t).flag b f = t.flag b f := rfl
theorem ycpReplied_irqPending (m : Nat) : (ycpReplied h place y c code d t).irqPending m = t.irqPending m := rfl
theorem ycpReplied_tries : (ycpReplied h place y c code d t).ycp.tries = t.ycp.tries := rfl
theorem ycpReplied_lockout : (ycpReplied h place y c code d t).ycp.lockout = t.ycp.lockout := rfl

end

theorem ycpAnswer_replied (hf : t.ycp.sess.find place = some (taken h y c)) :
    ycpAnswer place h.seq.toNat c.num code d t = ycpReplied h place y c code d t := by
  unfold ycpAnswer
  rw [hf]
  exact if_pos ⟨rfl, rfl⟩

/-- The state in which a request of session `x` runs. -/
abbrev ycpTaken (h : YcpHdr) (place : Nat) (x : Session) (c : YCmd) (s : State) : State := s.putSess place (taken h x c)

/-- How the request ends. -/
def ycpOutcome (h : YcpHdr) (place : Nat) (x : Session) (c : YCmd) (s : State) : YEnd :=
  ycpRun place (taken h x c) (ycpReq h c) (ycpTaken h place x c s)

/-- What a command leaves of its session: the challenge and the lock of debug alone may be others. -/
abbrev debugOf (x y : Session) : Prop := y = { x with chal := y.chal, unlocked := y.unlocked }

theorem answered_replied (hy : debugOf x y) : answered h place x y c code d (ycpReplied h place y c code d t) := by
  rw [hy]
  exact ⟨rfl, Tab.find_ins_same _ _ _⟩

/-- A command that the engine runs to its end at once is answered, and nothing else follows. -/
theorem ycpRequest_replied (ht : takesNow h place x right s) (hc : c.num ≠ 3) (hy : debugOf x y)
    (hrun : ycpOutcome h place x c s = .done code d t)
    (hf : t.ycp.sess.find place = some (taken h y c)) : ycpRequest none h c s = ycpReplied h place y c code d t := by
  rw [ycpRequest_starts ht]
  obtain ⟨-, -, -, -, -, -, -, -, -, -, -, -, hheld, hseq, hnext, -⟩ := ht
  have hx : { x with next := (ycpReq h c).seq + 1, exec := some (ycpReq h c) } = taken h x c := by
    unfold taken ycpReq
    rw [hseq]
  have hstart : ycpStart place x (ycpReq h c) s = ycpReplied h place y c code d t := by
    unfold ycpOutcome at hrun
    unfold ycpStart
    simp only [hx, hrun]
    exact (if_neg (fun e => hc e.1)).trans (ycpAnswer_replied hf)
  rw [hstart]
  refine ycpDrain_idle (Tab.find_ins_same _ _ _) ?_ ?_ _
  · rw [hy]; exact hheld
  · rw [hy]; show x.next + 1 < 2 ^ 32; omega

/-- CLOSE alone ends its session with its answer, and it needs no right (R388). -/
theorem YCmd.num_ne_close (hr : c.right = some n) : c.num ≠ 3 := by
  intro h3
  cases c with
  | closeS => cases hr
  | unknown m => cases hr
  | _ => cases h3

/-- Of a known command whose payload fits, the session's right and lock alone decide (R384, R388). -/
theorem yCodes_taken (hf : h.lenFits = true) (hr : c.right = some n) :
    yCodes (taken h x c) (ycpReq h c) = refuseIf (!(nbit x.rights n && (!c.needsUnlock || x.unlocked))) .priv := by
  unfold yCodes
  simp only [ycpReq, taken, hf, hr]
  cases c with
  | unknown m => cases hr
  | _ => rfl

theorem yCodes_admitted (ht : takesNow h place x (some n) s) (hr : c.right = some n) (hu : c.needsUnlock = false ∨ x.unlocked = true) :
    yCodes (taken h x c) (ycpReq h c) = [] := by
  obtain ⟨-, -, -, -, hfits, -, -, -, -, -, -, -, -, -, -, hright⟩ := ht
  rw [yCodes_taken hfits hr, show nbit x.rights n = true from hright]
  rcases hu with hu | hu <;> simp [hu, refuseIf]

theorem yCodes_locked (ht : takesNow h place x right s) (hr : c.right = some n)
    (hu : nbit x.rights n = false ∨ (c.needsUnlock = true ∧ x.unlocked = false)) :
    yCodes (taken h x c) (ycpReq h c) = [.priv] := by
  obtain ⟨-, -, -, -, hfits, -⟩ := ht
  rw [yCodes_taken hfits hr]
  rcases hu with h | ⟨h1, h2⟩
  · rw [h]; rfl
  · rw [h1, h2, Bool.not_true, Bool.or_false, Bool.and_false]; rfl

end Sys2Proof.Machine
end

section
/-! The debug commands: what each leaves and when it is refused (R76, R77, R388, R391). -/
namespace Sys2Proof.Machine

variable {s : State} {place n core thr reg : Nat} {x : Session} {key sig : List Byte}

/-! ### Flags and interrupts -/

theorem State.flag_setFld_one (s : State) (b : Nat) {f : Fld} (h : f.lo + f.wd ≤ 32) (hw : 0 < f.wd) : (s.setFld b f 1).flag b f = true := by
  unfold State.flag
  rw [State.fld_setFld_same _ _ _ _ h, Nat.mod_eq_of_lt (Nat.one_lt_two_pow hw.ne')]
  rfl

theorem State.flag_setFld_off (s : State) {b b' : Nat} {f f' : Fld} (v : Nat) (h : b' + f'.off ≠ b + f.off) :
    (s.setFld b f v).flag b' f' = s.flag b' f' := by
  unfold State.flag
  rw [State.fld_setFld_off _ _ h]

/-- An edge source that has asserted is pending (R161). -/
theorem irqPending_irq {m : Nat} (hr : irqReserved m = false) (hl : irqIsLevel m = false) : (s.irq m).irqPending m = true := by
  unfold State.irqPending State.irq
  simp only [hr, hl, Bool.false_eq_true, if_false]
  exact State.flag_setFld_one s B.intd (by dsimp only [irqBit]; omega) Nat.one_pos

/-! ### Challenge and unlock (R391) -/

theorem freeBytes_length (ctr : Nat) : ∀ m, (freeBytes ctr m).length = m
  | 0 => rfl
  | m + 1 => by rw [freeBytes, List.length_append, freeBytes_length ctr m]; rfl

theorem yChal_grants (hoff : s.dev.fuses.debugOff = false) (hl : s.ycp.lockout = false) :
    yChal place x [] s = .done .ok (s.freeList 48).1 ((s.freeList 48).2.putSess place { x with chal := some (s.freeList 48).1 }) := by
  unfold yChal
  rw [hoff, hl]
  rfl

theorem yChal_absent (hoff : s.dev.fuses.debugOff = true) (hl : s.ycp.lockout = false) : yChal place x [] s = .refuse .absent s := by
  unfold yChal
  rw [hoff, hl]
  rfl

theorem yChal_priv (hoff : s.dev.fuses.debugOff = false) (hl : s.ycp.lockout = false) : yChal place x [.priv] s = .refuse .priv s := by
  unfold yChal
  rw [hoff, hl]
  rfl

/-- The session after an attempt that its challenge served. -/
def Session.attempted (x : Session) (ok : Bool) : Session := { x with chal := none, unlocked := x.unlocked || ok }

theorem attempted_true (x : Session) : x.attempted true = { x with chal := none, unlocked := true } := by
  unfold Session.attempted
  rw [Bool.or_true]

theorem attempted_false (x : Session) : x.attempted false = { x with chal := none } := by
  unfold Session.attempted
  rw [Bool.or_false]

theorem yUnlock_codes {ch : List Byte} (hk : key.length = 96) (hg : sig.length = 96) (hoff : s.dev.fuses.debugOff = false) (hc : x.chal = some ch) :
    [] ++ refuseIf (key.length != 96 || sig.length != 96) .range ++ refuseIf s.dev.fuses.debugOff .absent ++ refuseIf x.chal.isNone .state = [] := by
  rw [hk, hg, hoff, hc]
  rfl

/-- The key and its signature of the challenge unlock debug. -/
theorem yUnlock_opens {ch : List Byte} (hk : key.length = 96) (hg : sig.length = 96) (hoff : s.dev.fuses.debugOff = false) (hc : x.chal = some ch)
    (hkey : sha384 key = s.dev.fuses.debugKey) (hsig : Config.ecdsaVerify key (sha384 ch) sig = true) :
    yUnlock place x key sig [] s = .done .ok [] ((s.putSess place (x.attempted true)).irq 459) := by
  unfold yUnlock
  rw [yUnlock_codes hk hg hoff hc, hc]
  dsimp only [Code.lowest, List.foldr_nil, Option.getD_some]
  rw [hkey, hsig, bne_self_eq_false]
  rfl

/-- An attempt that fails is counted, and the fourth locks (R391). -/
def unlockFails (s : State) : State := s.setYcp { s.ycp with tries := s.ycp.tries + 1, lockout := s.ycp.lockout || decide (4 ≤ s.ycp.tries + 1) }

theorem yUnlock_wrongKey {ch : List Byte} (hk : key.length = 96) (hg : sig.length = 96) (hoff : s.dev.fuses.debugOff = false) (hc : x.chal = some ch)
    (hkey : sha384 key ≠ s.dev.fuses.debugKey) :
    yUnlock place x key sig [] s = .refuse .key (unlockFails (s.putSess place (x.attempted false))) := by
  unfold yUnlock
  rw [yUnlock_codes hk hg hoff hc, hc]
  dsimp only [Code.lowest, List.foldr_nil, Option.getD_some]
  rw [bne_iff_ne.2 hkey]
  cases Config.ecdsaVerify key (sha384 ch) sig <;> rfl

/-! ### Halt and resume -/

/-- A number of a trio and of a core in it (R388). -/
abbrev isCore (n core : Nat) : Prop := n ≤ 12 ∧ core ≤ 2

theorem coreRange_nil (h : isCore n core) : refuseIf (decide (12 < n) || decide (2 < core)) .range = [] := by
  obtain ⟨hn, hc⟩ := h
  rw [decide_eq_false (Nat.not_lt.2 hn), decide_eq_false (Nat.not_lt.2 hc)]
  rfl

theorem dbgModes_nil (h : s.mode = mCalico ∨ s.mode = mJersey) : dbgModes s = [] := by
  unfold dbgModes
  rcases h with h | h <;> rw [h] <;> rfl

theorem yHalt_halts (hc : isCore n core) (hm : s.mode = mCalico ∨ s.mode = mJersey) (ht : s.trioIn n = true) :
    yHalt n core [] s = .done .ok [] (haltCore s n core) := by
  unfold yHalt
  rw [coreRange_nil hc, dbgModes_nil hm, ht]
  rfl

theorem yHalt_locked (hc : isCore n core) (hm : s.mode = mCalico ∨ s.mode = mJersey) (ht : s.trioIn n = true) :
    yHalt n core [.priv] s = .refuse .priv s := by
  unfold yHalt
  rw [coreRange_nil hc, dbgModes_nil hm, ht]
  rfl

/-- The threads of given keys are halted, or go on. -/
def setHalted (b : Bool) (keys : List Nat) (s : State) : State := keys.foldl (fun a k => a.setThread k { a.thread k with halted := b }) s

theorem haltCore_eq (s : State) (n core : Nat) : haltCore s n core =
    ((setHalted true (dbgKeys n core s) s).setFld (B.trio n) TRIO.STAT_TAINT 1).setFld (B.trio n) TRIO.TAINT_CAUSE_DEBUG_HALT 1 := rfl

theorem setHalted_onlyThreads (b : Bool) (keys : List Nat) (s : State) : ∃ x, setHalted b keys s = { s with threads := x } := by
  induction keys generalizing s with
  | nil => exact ⟨_, rfl⟩
  | cons k keys ih => exact ih _

theorem setHalted_mem (b : Bool) (keys : List Nat) (s : State) : (setHalted b keys s).mem = s.mem := by
  obtain ⟨x, hx⟩ := setHalted_onlyThreads b keys s
  rw [hx]

theorem setHalted_ycp (b : Bool) (keys : List Nat) (s : State) : (setHalted b keys s).ycp = s.ycp := by
  obtain ⟨x, hx⟩ := setHalted_onlyThreads b keys s
  rw [hx]

theorem setHalted_thread {b : Bool} {keys : List Nat} {k : Nat} (h : k ∈ keys ∨ (s.thread k).halted = b) :
    ((setHalted b keys s).thread k).halted = b := by
  induction keys generalizing s with
  | nil => exact h.resolve_left List.not_mem_nil
  | cons j keys ih =>
    refine ih ?_
    by_cases hj : k = j
    · subst hj
      rw [State.setThread_same]
      exact .inr rfl
    · rw [State.setThread_other _ hj]
      exact h.imp_left (List.mem_of_ne_of_mem hj)

/-- A halt taints the trio (R77). -/
theorem haltCore_taint (s : State) (n core : Nat) : (haltCore s n core).flag (B.trio n) TRIO.STAT_TAINT = true := by
  rw [haltCore_eq, State.flag_setFld_off _ _ (by simp [TRIO.STAT_TAINT, TRIO.TAINT_CAUSE_DEBUG_HALT])]
  exact State.flag_setFld_one _ _ (by decide) (by decide)

theorem yResume_resumes (hc : isCore n core) (hh : s.coreHalted n core = true) :
    yResume n core [] s = .done .ok [] (setHalted false (dbgKeys n core s) s) := by
  unfold yResume
  rw [coreRange_nil hc, hh]
  rfl

theorem yResume_notHalted (hc : isCore n core) (hh : s.coreHalted n core = false) : yResume n core [] s = .refuse .state s := by
  unfold yResume
  rw [coreRange_nil hc, hh]
  rfl

/-! ### Step and registers -/

/-- A thread of a halted core (R76). -/
abbrev isHalted (n core thr : Nat) (s : State) : Prop := isCore n core ∧ thr ≤ 7 ∧ s.coreHalted n core = true

theorem dbgCodes_nil (h : isHalted n core thr s) : dbgCodes n core thr s = [] := by
  obtain ⟨⟨hn, hc⟩, ht, hh⟩ := h
  unfold dbgCodes
  rw [decide_eq_false (Nat.not_lt.2 hn), decide_eq_false (Nat.not_lt.2 hc), decide_eq_false (Nat.not_lt.2 ht), hh]
  rfl

/-- The state once a halted thread has run its next instruction to its end (log entry 43). -/
def debugStepped (t : ThreadId) (s : State) : State :=
  let k := s.tkey t
  let th := s.thread k
  let go (b : Bool) (y : State) : State := y.setThread k { y.thread k with halted := b }
  go true (dbgSettle t 1024 (if th.st = .running
    then coreRun (go false s) t k { th with halted := false } (dbgWord t k th s) [] none else go false s))

theorem yStep_steps (h : isHalted n core thr s) : yStep n core thr [] s =
    .done .ok (leBytes 8 ((debugStepped (dbgThread n core thr) s).thread (s.tkey (dbgThread n core thr))).pc.toNat)
      (debugStepped (dbgThread n core thr) s) := by
  unfold yStep
  rw [dbgCodes_nil h]
  rfl

theorem dbgRegRange_general (hr : reg < 32) : dbgRegRange reg = [] := by
  unfold dbgRegRange
  rw [decide_eq_true hr]
  rfl

theorem yDbgRead_general (h : isHalted n core thr s) (hr : reg < 32) : yDbgRead n core thr reg [] s =
    .done .ok (leBytes 8 ((s.thread (s.tkey (dbgThread n core thr))).reg reg).toNat) s := by
  unfold yDbgRead
  rw [dbgCodes_nil h, dbgRegRange_general hr]
  exact congrArg (fun g : W64 => YEnd.done .ok (leBytes 8 g.toNat) s) (if_pos hr)

theorem yDbgRead_range (h : isHalted n core thr s) (h1 : 32 ≤ reg) (h2 : reg < 0x40) : yDbgRead n core thr reg [] s = .refuse .range s := by
  have hrange : dbgRegRange reg = [.range] := by
    unfold dbgRegRange
    rw [decide_eq_false (Nat.not_lt.2 h1), decide_eq_false (Nat.not_le.2 h2)]
    rfl
  unfold yDbgRead
  rw [dbgCodes_nil h, hrange]
  rfl

theorem yDbgWrite_general (h : isHalted n core thr s) (hr : reg < 32) (hm : s.mode = mCalico ∨ s.mode = mJersey) {v : W64} :
    yDbgWrite n core thr reg v [] s = .done .ok [] (debugTaint n (s.setThread (s.tkey (dbgThread n core thr))
      ((s.thread (s.tkey (dbgThread n core thr))).setReg reg v))) := by
  unfold yDbgWrite
  rw [dbgCodes_nil h, dbgRegRange_general hr, dbgModes_nil hm, decide_eq_false (show ¬ 0x70 ≤ reg by omega),
    decide_eq_false (show ¬ 0x60 ≤ reg by omega)]
  exact if_pos hr

theorem debugTaint_thread (n k : Nat) (s : State) : (debugTaint n s).thread k = s.thread k := rfl

theorem debugTaint_mem (n : Nat) (s : State) : (debugTaint n s).mem = s.mem := rfl

theorem debugTaint_ycp (n : Nat) (s : State) : (debugTaint n s).ycp = s.ycp := by
  unfold debugTaint
  rw [State.setFld_ycp, State.setFld_ycp]

/-- A debug write taints the trio (R77). -/
theorem debugTaint_taint (n : Nat) (s : State) : (debugTaint n s).flag (B.trio n) TRIO.STAT_TAINT = true := by
  unfold debugTaint
  rw [State.flag_setFld_off _ _ (by simp [TRIO.STAT_TAINT, TRIO.TAINT_CAUSE_DEBUG_WRITE])]
  exact State.flag_setFld_one _ _ (by decide) (by decide)

end Sys2Proof.Machine
end

section
/-! The safety layer: the checker, its failures and the device's own PDU (R392, R393). -/
namespace Sys2Proof.Machine

variable {s t u : State} {pdu : BitVec 128} {agree : Bool} {why : Nat}

/-! ### Bytes and their CRC -/

theorem leNat_leBytes (n x : Nat) : leNat (leBytes n x) = x % 256 ^ n := by
  induction n generalizing x with
  | zero => rw [Nat.pow_zero, Nat.mod_one]; rfl
  | succ n ih =>
    rw [leBytes, leNat, ih, BitVec.toNat_ofNat]
    exact ((congrArg (x % ·) Nat.pow_succ').trans Nat.mod_mul).symm

theorem leNat_leBytes_word {x : Nat} (h : x < 2 ^ 32) : leNat (leBytes 4 x) = x :=
  (leNat_leBytes 4 x).trans (Nat.mod_eq_of_lt h)

theorem crcBit_lt {poly c : Nat} (hp : poly < 2 ^ 32) (hc : c < 2 ^ 32) : crcBit poly c < 2 ^ 32 := by
  unfold crcBit
  split
  · exact Nat.xor_lt_two_pow (by omega) hp
  · omega

theorem crcByte_lt {poly c : Nat} (hp : poly < 2 ^ 32) (hc : c < 2 ^ 32) (b : Byte) : crcByte poly c b < 2 ^ 32 := by
  have h0 : c ^^^ b.toNat < 2 ^ 32 := Nat.xor_lt_two_pow hc (by have := b.isLt; omega)
  have hbit {x : Nat} : x < 2 ^ 32 → crcBit poly x < 2 ^ 32 := crcBit_lt hp
  exact hbit (hbit (hbit (hbit (hbit (hbit (hbit (hbit h0)))))))

theorem crc32c_lt (l : List Byte) : crc32c l < 2 ^ 32 := by
  have h : ∀ (l : List Byte) (c : Nat), c < 2 ^ 32 → l.foldl (crcByte (crcPoly 1)) c < 2 ^ 32 := by
    intro l
    induction l with
    | nil => exact fun _ hc => hc
    | cons b l ih => exact fun c hc => ih _ (crcByte_lt (by decide) hc b)
  exact Nat.xor_lt_two_pow (h l _ (by decide)) (by decide)

/-- The device's PDU carries its connection, its own counter, the echo and the CRC of these (R392). -/
theorem devicePdu_fields {echo : Nat} (he : echo < 2 ^ 32) (s : State) :
    (devicePdu echo s).length = 20 ∧ fieldAt (devicePdu echo s) 16 4 = crc32c ((devicePdu echo s).take 16) ∧
      fieldAt (devicePdu echo s) 0 4 = (s.rd (B.ycp + YCP.SAFE_CONN.off)).toNat ∧ fieldAt (devicePdu echo s) 4 4 = s.ycp.ownCnt.toNat ∧
      fieldAt (devicePdu echo s) 8 4 = echo :=
  ⟨rfl, leNat_leBytes_word (crc32c_lt _), leNat_leBytes_word (BitVec.isLt _), leNat_leBytes_word (BitVec.isLt _), leNat_leBytes_word he⟩

/-! ### What every step of the check keeps -/

/-- The connection, the device's counter, the sessions and the asserted sources stand. -/
structure SafeKeeps (s t : State) : Prop where
  conn : t.rd (B.ycp + YCP.SAFE_CONN.off) = s.rd (B.ycp + YCP.SAFE_CONN.off)
  own : t.ycp.ownCnt = s.ycp.ownCnt
  sess : t.ycp.sess = s.ycp.sess
  raised : ∀ a, a ∈ s.raised → a ∈ t.raised

theorem SafeKeeps.refl (s : State) : SafeKeeps s s := ⟨rfl, rfl, rfl, fun _ h => h⟩

theorem SafeKeeps.trans (h : SafeKeeps s t) (k : SafeKeeps t u) : SafeKeeps s u :=
  ⟨k.conn.trans h.conn, k.own.trans h.own, k.sess.trans h.sess, fun a ha => k.raised a (h.raised a ha)⟩

theorem irq_rd {n key : Nat} (h : key ≠ B.intd + (0x080 + 4 * (n / 32))) (s : State) : (s.irq n).rd key = s.rd key := by
  unfold State.irq
  split
  · rfl
  · exact State.rd_setFld_off _ _ h

theorem irq_fld {n b : Nat} {f : Fld} (h : b + f.off ≠ B.intd + (0x080 + 4 * (n / 32))) (s : State) : (s.irq n).fld b f = s.fld b f := by
  unfold State.fld
  rw [irq_rd h]

/-- A source that asserts is told by interrupt 460 (R393). -/
def safeTold (n : Nat) (s : State) : State := (s.raise n).irq 460

theorem safeTold_keeps (n : Nat) (s : State) : SafeKeeps s (safeTold n s) where
  conn := irq_rd (by decide) _
  own := by unfold safeTold; rw [State.irq_ycp, State.raise_ycp]
  sess := by unfold safeTold; rw [State.irq_ycp, State.raise_ycp]
  raised a ha := by
    unfold safeTold
    rw [State.irq_raised]
    exact List.mem_append_left _ ha

theorem safeTold_raised {n : Nat} (hn : n < 512) (s : State) : ∃ a, a ∈ (safeTold n s).raised ∧ a.src.toNat = n := by
  unfold safeTold
  rw [State.irq_raised]
  exact ⟨_, List.mem_append_right _ (List.mem_singleton.2 rfl), by rw [BitVec.toNat_ofNat, Nat.mod_eq_of_lt hn]⟩

theorem safeTold_fld {n : Nat} {f : Fld} (h : B.ycp + f.off ≠ B.intd + 0x0B8) (s : State) : (safeTold n s).fld B.ycp f = s.fld B.ycp f :=
  irq_fld h _

theorem setFld_keeps {f : Fld} (h : f.off ≠ YCP.SAFE_CONN.off) (v : Nat) (s : State) : SafeKeeps s (s.setFld B.ycp f v) :=
  ⟨State.rd_setFld_off _ _ (fun e => h (Nat.add_left_cancel e).symm), rfl, rfl, fun _ ha => ha⟩

/-! ### A failure -/

/-- What a supervision failure leaves: its reason, one more in the count, source 409 and interrupt 460. -/
def supervisionFailed (s t : State) (why : Nat) : Prop :=
  t.fld B.ycp YCP.SAFE_STAT_FAIL = why ∧ t.irqPending 460 = true ∧
    t.fld B.ycp YCP.SAFE_FAIL = min (2 ^ 32 - 1) (s.fld B.ycp YCP.SAFE_FAIL + 1) ∧ ∃ a, a ∈ t.raised ∧ a.src.toNat = 409

theorem safeFail_eq (why : Nat) (s : State) :
    safeFail why s = safeTold 409 ((s.setFld B.ycp YCP.SAFE_STAT_FAIL why).incSat B.ycp YCP.SAFE_FAIL) := rfl

theorem safeFail_reason (hw : why < 4) (s : State) : (safeFail why s).fld B.ycp YCP.SAFE_STAT_FAIL = why := by
  rw [safeFail_eq, safeTold_fld (by decide)]
  unfold State.incSat
  rw [State.fld_setFld_off _ _ (by decide), State.fld_setFld_same _ _ _ _ (by decide)]
  exact Nat.mod_eq_of_lt hw

theorem safeFail_count (why : Nat) (s : State) :
    (safeFail why s).fld B.ycp YCP.SAFE_FAIL = min (2 ^ 32 - 1) (s.fld B.ycp YCP.SAFE_FAIL + 1) := by
  rw [safeFail_eq, safeTold_fld (by decide), show YCP.SAFE_FAIL = ⟨YCP.SAFE_FAIL.off, 0, 32⟩ from rfl, incSat_word,
    State.fld_setFld_off _ _ (by decide)]

theorem safeFail_pending (why : Nat) (s : State) : (safeFail why s).irqPending 460 = true :=
  irqPending_irq (by decide) (by decide)

theorem safeFail_failed (hw : why < 4) (s : State) : supervisionFailed s (safeFail why s) why :=
  ⟨safeFail_reason hw s, safeFail_pending why s, safeFail_count why s, safeTold_raised (by decide) _⟩

theorem safeFail_keeps (why : Nat) (s : State) : SafeKeeps s (safeFail why s) :=
  ((setFld_keeps (by decide) _ s).trans (setFld_keeps (by decide) _ _)).trans (safeTold_keeps 409 _)

theorem safeFail_ycp (why : Nat) (s : State) : (safeFail why s).ycp = s.ycp := by
  rw [safeFail_eq]
  unfold safeTold
  rw [State.irq_ycp, State.raise_ycp, State.incSat_ycp, State.setFld_ycp]

/-- The count of failures before it may be read off an earlier state. -/
theorem supervisionFailed.of_count (h : supervisionFailed t u why) (hc : t.fld B.ycp YCP.SAFE_FAIL = s.fld B.ycp YCP.SAFE_FAIL) :
    supervisionFailed s u why := by
  unfold supervisionFailed at h ⊢
  rwa [hc] at h

/-! ### The check of a PDU -/

/-- CRC, connection and reserved bits of a host PDU are right. -/
def pduGood (pdu : BitVec 128) (s : State) : Prop :=
  fieldAt (leBytes 16 pdu.toNat) 12 4 = crc32c ((leBytes 16 pdu.toNat).take 12) ∧
    pdu.extractLsb' 0 32 = s.rd (B.ycp + YCP.SAFE_CONN.off) ∧ bf pdu 65 31 = 0

/-- The counter of a host PDU. -/
def pduCnt (pdu : BitVec 128) : W32 := pdu.extractLsb' 32 32

/-- Copies of a PDU that disagree are told (R393). -/
def copiesTold (agree : Bool) (s : State) : State := if agree then s else safeTold 411 s

/-- A good PDU's stop bit is shown, and one that is set is told. -/
def stopTold (pdu : BitVec 128) (s : State) : State :=
  let s1 := s.setFld B.ycp YCP.SAFE_STAT_STOP (b2n (pdu.getLsbD 64))
  if pdu.getLsbD 64 then safeTold 410 s1 else s1

/-- The next PDU arms the watchdog. -/
def pduTaken (cnt : W32) (s : State) : State :=
  ((s.setYcp { s.ycp with first := false, cnt := cnt }).setFld B.ycp YCP.SAFE_STAT_ARMED 1).wr (B.ycp + YCP.SAFE_CNT.off) cnt

/-- A good PDU once its stop bit has been seen. -/
def goodTold (pdu : BitVec 128) (agree : Bool) (s : State) : State := stopTold pdu (copiesTold agree s)

theorem safeCheck_bad (h : ¬ pduGood pdu s) : safeCheck pdu agree s = safeFail 1 (copiesTold agree s) := by
  unfold pduGood at h
  exact if_pos (by tauto)

theorem safeCheck_ofGood (h : pduGood pdu s) : safeCheck pdu agree s =
    if s.ycp.first ∨ pduCnt pdu = s.ycp.cnt + 1 then pduTaken (pduCnt pdu) (goodTold pdu agree s)
    else if pduCnt pdu = s.ycp.cnt then goodTold pdu agree s else safeFail 2 (goodTold pdu agree s) := by
  unfold pduGood at h
  exact if_neg (by tauto)

theorem copiesTold_keeps (agree : Bool) (s : State) : SafeKeeps s (copiesTold agree s) := by
  unfold copiesTold
  split
  · exact .refl s
  · exact safeTold_keeps 411 s

theorem stopTold_keeps (pdu : BitVec 128) (s : State) : SafeKeeps s (stopTold pdu s) := by
  have h := setFld_keeps (f := YCP.SAFE_STAT_STOP) (by decide) (b2n (pdu.getLsbD 64)) s
  unfold stopTold
  split
  · exact h.trans (safeTold_keeps 410 _)
  · exact h

theorem copiesTold_failCount (agree : Bool) (s : State) : (copiesTold agree s).fld B.ycp YCP.SAFE_FAIL = s.fld B.ycp YCP.SAFE_FAIL := by
  unfold copiesTold
  split
  · rfl
  · exact safeTold_fld (by decide) s

theorem goodTold_failCount (pdu : BitVec 128) (agree : Bool) (s : State) :
    (goodTold pdu agree s).fld B.ycp YCP.SAFE_FAIL = s.fld B.ycp YCP.SAFE_FAIL := by
  rw [← copiesTold_failCount agree s]
  have h := State.fld_setFld_off (copiesTold agree s) (b := B.ycp) (b' := B.ycp) (f := YCP.SAFE_STAT_STOP) (f' := YCP.SAFE_FAIL)
    (b2n (pdu.getLsbD 64)) (by decide)
  unfold goodTold stopTold
  split
  · exact (safeTold_fld (by decide) _).trans h
  · exact h

theorem pduTaken_keeps (cnt : W32) (s : State) : SafeKeeps s (pduTaken cnt s) :=
  ⟨(State.rd_wr_other _ (by decide) _).trans (State.rd_setFld_off _ _ (by decide)), rfl, rfl, fun _ ha => ha⟩

theorem pduTaken_effect (cnt : W32) (s : State) : (pduTaken cnt s).flag B.ycp YCP.SAFE_STAT_ARMED = true ∧
    (pduTaken cnt s).rd (B.ycp + YCP.SAFE_CNT.off) = cnt ∧ (pduTaken cnt s).ycp.cnt = cnt ∧ (pduTaken cnt s).ycp.first = false := by
  refine ⟨?_, State.rd_wr_same _ _ _, rfl, rfl⟩
  unfold State.flag
  rw [pduTaken, State.fld_wr_off _ _ (by decide)]
  exact State.flag_setFld_one _ _ (by decide) (by decide)

/-- A good PDU, whatever its counter, has its stop bit and its copies told. -/
theorem safeCheck_afterGood (h : pduGood pdu s) (agree : Bool) : SafeKeeps (goodTold pdu agree s) (safeCheck pdu agree s) := by
  rw [safeCheck_ofGood h]
  split
  · exact pduTaken_keeps _ _
  · split
    · exact .refl _
    · exact safeFail_keeps 2 _

theorem safeCheck_afterCopies (pdu : BitVec 128) (agree : Bool) (s : State) : SafeKeeps (copiesTold agree s) (safeCheck pdu agree s) := by
  by_cases h : pduGood pdu s
  · exact (stopTold_keeps pdu _).trans (safeCheck_afterGood h agree)
  · rw [safeCheck_bad h]
    exact safeFail_keeps 1 _

theorem safeCheck_keeps (pdu : BitVec 128) (agree : Bool) (s : State) : SafeKeeps s (safeCheck pdu agree s) :=
  (copiesTold_keeps agree s).trans (safeCheck_afterCopies pdu agree s)

theorem safeCheck_disagree (pdu : BitVec 128) (s : State) : ∃ a, a ∈ (safeCheck pdu false s).raised ∧ a.src.toNat = 411 := by
  obtain ⟨a, ha, hsrc⟩ := safeTold_raised (n := 411) (by decide) s
  exact ⟨a, (safeCheck_afterCopies pdu false s).raised a ha, hsrc⟩

theorem safeCheck_stop (h : pduGood pdu s) (hstop : pdu.getLsbD 64 = true) : ∃ a, a ∈ (safeCheck pdu agree s).raised ∧ a.src.toNat = 410 := by
  have hgood : goodTold pdu agree s = safeTold 410 ((copiesTold agree s).setFld B.ycp YCP.SAFE_STAT_STOP (b2n (pdu.getLsbD 64))) :=
    if_pos hstop
  obtain ⟨a, ha, hsrc⟩ := safeTold_raised (n := 410) (by decide) ((copiesTold agree s).setFld B.ycp YCP.SAFE_STAT_STOP (b2n (pdu.getLsbD 64)))
  exact ⟨a, (safeCheck_afterGood h agree).raised a (hgood ▸ ha), hsrc⟩

theorem safeCheck_bad_failed (h : ¬ pduGood pdu s) (agree : Bool) : supervisionFailed s (safeCheck pdu agree s) 1 := by
  rw [safeCheck_bad h]
  exact (safeFail_failed (by decide) _).of_count (copiesTold_failCount agree s)

theorem safeCheck_next (h : pduGood pdu s) (hc : s.ycp.first = true ∨ pduCnt pdu = s.ycp.cnt + 1) (agree : Bool) :
    (safeCheck pdu agree s).flag B.ycp YCP.SAFE_STAT_ARMED = true ∧ (safeCheck pdu agree s).rd (B.ycp + YCP.SAFE_CNT.off) = pduCnt pdu ∧
      (safeCheck pdu agree s).ycp.cnt = pduCnt pdu ∧ (safeCheck pdu agree s).ycp.first = false := by
  rw [safeCheck_ofGood h, if_pos hc]
  exact pduTaken_effect _ _

theorem safeCheck_skipped (h : pduGood pdu s) (hf : s.ycp.first = false) (hn : pduCnt pdu ≠ s.ycp.cnt + 1) (hs : pduCnt pdu ≠ s.ycp.cnt)
    (agree : Bool) : supervisionFailed s (safeCheck pdu agree s) 2 := by
  rw [safeCheck_ofGood h, if_neg (not_or.2 ⟨Bool.eq_false_iff.1 hf, hn⟩), if_neg hs]
  exact (safeFail_failed (by decide) _).of_count (goodTold_failCount pdu agree s)

/-- What a checked PDU leaves: the device's own counter is one on (R392). -/
def safeChecked (pdu : BitVec 128) (agree : Bool) (s : State) : State :=
  let t := safeCheck pdu agree s
  t.setYcp { t.ycp with ownCnt := t.ycp.ownCnt + 1 }

/-- The PDU that answers it. -/
def safeAnswer (pdu : BitVec 128) (agree : Bool) (s : State) : List Byte := devicePdu (pduCnt pdu).toNat (safeCheck pdu agree s)

theorem ySafe_checks (he : s.flag B.ycp YCP.SAFE_CTL_EN = true) :
    ySafe pdu agree [] s = .done .ok (safeAnswer pdu agree s) (safeChecked pdu agree s) := by
  unfold ySafe
  rw [he]
  rfl

theorem safeChecked_sess (pdu : BitVec 128) (agree : Bool) (s : State) : (safeChecked pdu agree s).ycp.sess = s.ycp.sess := by
  unfold safeChecked
  rw [State.setYcp_ycp]
  exact (safeCheck_keeps pdu agree s).sess

theorem safeAnswer_fields (pdu : BitVec 128) (agree : Bool) (s : State) :
    let d := safeAnswer pdu agree s
    d.length = 20 ∧ fieldAt d 16 4 = crc32c (d.take 16) ∧ fieldAt d 0 4 = (s.rd (B.ycp + YCP.SAFE_CONN.off)).toNat ∧
      fieldAt d 4 4 = s.ycp.ownCnt.toNat ∧ fieldAt d 8 4 = (pduCnt pdu).toNat := by
  have hkeeps := safeCheck_keeps pdu agree s
  rw [← hkeeps.conn, ← hkeeps.own]
  exact devicePdu_fields (pduCnt pdu).isLt _

theorem ySafe_off (he : s.flag B.ycp YCP.SAFE_CTL_EN = false) : ySafe pdu agree [] s = .refuse .state s := by
  unfold ySafe
  rw [he]
  rfl

end Sys2Proof.Machine
end

section
/-! The rows of the debug commands and of the safety PDU (R76, R77, R388, R391 to R393). -/
namespace Sys2Proof.Machine

variable {s t : State} {h : YcpHdr} {place : Nat} {x : Session} {right : Option Nat} {n c th : Byte}

/-! ### A row that a command answers -/

section
variable {m : Nat} {code : Code} {d : List Byte} (i : Instr) (cmd : YCmd)

/-- A row whose command the engine runs to its end: it is answered, and what the command left stands. -/
theorem exec_replied (y : Session) (hi : exec i s = .next (ycpRequest none h cmd s)) (ht : takesNow h place x right s) (hr : cmd.right = some m)
    (hy : debugOf x y) (hrun : ycpOutcome h place x cmd s = .done code d t) (hf : t.ycp.sess.find place = some (taken h y cmd)) :
    exec i s = .next (ycpReplied h place y cmd code d t) ∧ answered h place x y cmd code d (ycpReplied h place y cmd code d t) :=
  ⟨hi.trans (congrArg Host.Outcome.next (ycpRequest_replied ht (YCmd.num_ne_close hr) hy hrun hf)), answered_replied hy⟩

/-- A row whose command is refused: it is answered with the code, and nothing else changes. -/
theorem exec_refused (hi : exec i s = .next (ycpRequest none h cmd s)) (ht : takesNow h place x right s) (hr : cmd.right = some m)
    (hrun : ycpOutcome h place x cmd s = .refuse code (ycpTaken h place x cmd s)) :
    ∃ t, exec i s = .next t ∧ answered h place x x cmd code [] t ∧ t.threads = s.threads ∧ t.regs = s.regs := by
  obtain ⟨hexec, hans⟩ := exec_replied i cmd x hi ht hr rfl hrun (Tab.find_ins_same _ _ _)
  exact ⟨_, hexec, hans, ycpReplied_threads .., ycpReplied_regs ..⟩

end

/-! ### What the engine runs for each command, on the refusals that the request has of itself -/

section
variable {cs : List Code}

theorem outcome_debugChal (hcs : yCodes (taken h x .debugChal) (ycpReq h .debugChal) = cs) (s : State) :
    ycpOutcome h place x .debugChal s = yChal place (taken h x .debugChal) cs (ycpTaken h place x .debugChal s) := hcs ▸ rfl

theorem outcome_debugUnlock {k g : List Byte} (hcs : yCodes (taken h x (.debugUnlock k g)) (ycpReq h (.debugUnlock k g)) = cs) (s : State) :
    ycpOutcome h place x (.debugUnlock k g) s =
      yUnlock place (taken h x (.debugUnlock k g)) k g cs (ycpTaken h place x (.debugUnlock k g) s) := hcs ▸ rfl

theorem outcome_debugHalt (hcs : yCodes (taken h x (.debugHalt n c)) (ycpReq h (.debugHalt n c)) = cs) (s : State) :
    ycpOutcome h place x (.debugHalt n c) s = yHalt n.toNat c.toNat cs (ycpTaken h place x (.debugHalt n c) s) := hcs ▸ rfl

theorem outcome_debugResume (hcs : yCodes (taken h x (.debugResume n c)) (ycpReq h (.debugResume n c)) = cs) (s : State) :
    ycpOutcome h place x (.debugResume n c) s = yResume n.toNat c.toNat cs (ycpTaken h place x (.debugResume n c) s) := hcs ▸ rfl

theorem outcome_debugStep (hcs : yCodes (taken h x (.debugStep n c th)) (ycpReq h (.debugStep n c th)) = cs) (s : State) :
    ycpOutcome h place x (.debugStep n c th) s =
      yStep n.toNat c.toNat th.toNat cs (ycpTaken h place x (.debugStep n c th) s) := hcs ▸ rfl

theorem outcome_debugRegRead {g : BitVec 16} (hcs : yCodes (taken h x (.debugRegRead n c th g)) (ycpReq h (.debugRegRead n c th g)) = cs)
    (s : State) : ycpOutcome h place x (.debugRegRead n c th g) s =
      yDbgRead n.toNat c.toNat th.toNat g.toNat cs (ycpTaken h place x (.debugRegRead n c th g) s) := hcs ▸ rfl

theorem outcome_debugRegWrite {g : BitVec 16} {v : W64}
    (hcs : yCodes (taken h x (.debugRegWrite n c th g v)) (ycpReq h (.debugRegWrite n c th g v)) = cs) (s : State) :
    ycpOutcome h place x (.debugRegWrite n c th g v) s =
      yDbgWrite n.toNat c.toNat th.toNat g.toNat v cs (ycpTaken h place x (.debugRegWrite n c th g v) s) := hcs ▸ rfl

theorem outcome_safe {pdu : BitVec 128} {agree : Bool} (hcs : yCodes (taken h x (.safe pdu agree)) (ycpReq h (.safe pdu agree)) = cs)
    (s : State) : ycpOutcome h place x (.safe pdu agree) s = ySafe pdu agree cs (ycpTaken h place x (.safe pdu agree) s) := hcs ▸ rfl

end

/-! ### Challenge and unlock -/

theorem debugChal_grants (ht : takesNow h place x (some 7) s) (hl : s.ycp.lockout = false) (hoff : s.dev.fuses.debugOff = false) :
    ∃ t d, exec (.debugChal h) s = .next t ∧ d.length = 48 ∧ answered h place x { x with chal := some d } .debugChal .ok d t := by
  obtain ⟨hexec, hans⟩ := exec_replied (.debugChal h) .debugChal { x with chal := some (freeBytes s.freeCtr 48) } rfl ht rfl rfl
    ((outcome_debugChal (yCodes_admitted ht rfl (.inl rfl)) s).trans (yChal_grants hoff hl)) (Tab.find_ins_same _ _ _)
  exact ⟨_, _, hexec, freeBytes_length _ _, hans⟩

theorem debugChal_fusedOff (ht : takesNow h place x (some 7) s) (hoff : s.dev.fuses.debugOff = true) (hl : s.ycp.lockout = false) :
    ∃ t, exec (.debugChal h) s = .next t ∧ answered h place x x .debugChal .absent [] t := by
  obtain ⟨t, hexec, hans, -⟩ := exec_refused (.debugChal h) .debugChal rfl ht rfl
    ((outcome_debugChal (yCodes_admitted ht rfl (.inl rfl)) s).trans (yChal_absent hoff hl))
  exact ⟨t, hexec, hans⟩

theorem debugChal_withoutRight (ht : takesNow h place x none s) (hr : nbit x.rights 7 = false) (hoff : s.dev.fuses.debugOff = false)
    (hl : s.ycp.lockout = false) : ∃ t, exec (.debugChal h) s = .next t ∧ answered h place x x .debugChal .priv [] t := by
  obtain ⟨t, hexec, hans, -⟩ := exec_refused (.debugChal h) .debugChal rfl ht rfl
    ((outcome_debugChal (yCodes_locked ht rfl (.inl hr)) s).trans (yChal_priv hoff hl))
  exact ⟨t, hexec, hans⟩

section
variable {k g ch : List Byte} (ht : takesNow h place x (some 7) s) (hk : k.length = 96) (hg : g.length = 96)
  (hoff : s.dev.fuses.debugOff = false) (hch : x.chal = some ch)
include ht hk hg hoff hch

theorem debugUnlock_opens (hkey : sha384 k = s.dev.fuses.debugKey) (hsig : Config.ecdsaVerify k (sha384 ch) g = true) :
    ∃ t, exec (.debugUnlock h k g) s = .next t ∧ t.irqPending 459 = true ∧
      answered h place x { x with chal := none, unlocked := true } (.debugUnlock k g) .ok [] t := by
  obtain ⟨hexec, hans⟩ := exec_replied (.debugUnlock h k g) (.debugUnlock k g) (x.attempted true) rfl ht rfl rfl
    ((outcome_debugUnlock (yCodes_admitted ht rfl (.inl rfl)) s).trans (yUnlock_opens hk hg hoff hch hkey hsig))
    (by rw [State.irq_ycp]; exact Tab.find_ins_same _ _ _)
  rw [attempted_true] at hexec hans
  exact ⟨_, hexec, (ycpReplied_irqPending ..).trans (irqPending_irq (by decide) (by decide)), hans⟩

theorem debugUnlock_wrongKey (hkey : sha384 k ≠ s.dev.fuses.debugKey) :
    ∃ t, exec (.debugUnlock h k g) s = .next t ∧ t.ycp.tries = s.ycp.tries + 1 ∧ (s.ycp.tries = 3 → t.ycp.lockout = true) ∧
      ∃ code, answered h place x { x with chal := none } (.debugUnlock k g) code [] t ∧ code ≠ .ok := by
  obtain ⟨hexec, hans⟩ := exec_replied (.debugUnlock h k g) (.debugUnlock k g) (x.attempted false) rfl ht rfl rfl
    ((outcome_debugUnlock (yCodes_admitted ht rfl (.inl rfl)) s).trans (yUnlock_wrongKey hk hg hoff hch hkey)) (Tab.find_ins_same _ _ _)
  rw [attempted_false] at hexec hans
  refine ⟨_, hexec, ycpReplied_tries .., fun h3 => ?_, .key, hans, by decide⟩
  rw [ycpReplied_lockout]
  show (s.ycp.lockout || decide (4 ≤ s.ycp.tries + 1)) = true
  rw [h3]
  exact Bool.or_true _

end

/-! ### Halt and resume -/

section
variable (ht : takesNow h place x (some 7) s)
include ht

theorem debugHalt_locked (hu : x.unlocked = false) (hc : isCore n.toNat c.toNat) (hm : s.mode = mCalico ∨ s.mode = mJersey)
    (hin : s.trioIn n.toNat = true) :
    ∃ t, exec (.debugHalt h n c) s = .next t ∧ answered h place x x (.debugHalt n c) .priv [] t ∧ t.threads = s.threads := by
  obtain ⟨t, hexec, hans, hthreads, -⟩ := exec_refused (.debugHalt h n c) (.debugHalt n c) rfl ht rfl
    ((outcome_debugHalt (yCodes_locked ht rfl (.inr ⟨rfl, hu⟩)) s).trans (yHalt_locked hc hm hin))
  exact ⟨t, hexec, hans, hthreads⟩

theorem debugHalt_halts (hu : x.unlocked = true) (hc : isCore n.toNat c.toNat) (hm : s.mode = mCalico ∨ s.mode = mJersey)
    (hin : s.trioIn n.toNat = true) :
    ∃ t, exec (.debugHalt h n c) s = .next t ∧ answered h place x x (.debugHalt n c) .ok [] t ∧
      (∀ k, k ∈ dbgKeys n.toNat c.toNat s → (t.thread k).halted = true) ∧ t.flag (B.trio n.toNat) TRIO.STAT_TAINT = true ∧
      t.mem = s.mem := by
  obtain ⟨hexec, hans⟩ := exec_replied (.debugHalt h n c) (.debugHalt n c) x rfl ht rfl rfl
    ((outcome_debugHalt (yCodes_admitted ht rfl (.inr hu)) s).trans (yHalt_halts hc hm hin))
    (by rw [haltCore_eq, State.setFld_ycp, State.setFld_ycp, setHalted_ycp]; exact Tab.find_ins_same _ _ _)
  refine ⟨_, hexec, hans, fun k hk => ?_, ?_, ?_⟩
  · rw [ycpReplied_thread, haltCore_eq, State.setFld_thread, State.setFld_thread]
    exact setHalted_thread (.inl hk)
  · rw [ycpReplied_flag, haltCore_taint]
  · rw [ycpReplied_mem, haltCore_eq, State.setFld_mem, State.setFld_mem, setHalted_mem, State.putSess_mem]

theorem debugResume_resumes (hu : x.unlocked = true) (hc : isCore n.toNat c.toNat) (hh : s.coreHalted n.toNat c.toNat = true) :
    ∃ t, exec (.debugResume h n c) s = .next t ∧ answered h place x x (.debugResume n c) .ok [] t ∧
      (∀ k, k ∈ dbgKeys n.toNat c.toNat s → (t.thread k).halted = false) ∧ t.mem = s.mem := by
  obtain ⟨hexec, hans⟩ := exec_replied (.debugResume h n c) (.debugResume n c) x rfl ht rfl rfl
    ((outcome_debugResume (yCodes_admitted ht rfl (.inr hu)) s).trans (yResume_resumes hc hh))
    (by rw [setHalted_ycp]; exact Tab.find_ins_same _ _ _)
  refine ⟨_, hexec, hans, fun k hk => ?_, ?_⟩
  · rw [ycpReplied_thread]
    exact setHalted_thread (.inl hk)
  · rw [ycpReplied_mem, setHalted_mem, State.putSess_mem]

theorem debugResume_notHalted (hu : x.unlocked = true) (hc : isCore n.toNat c.toNat) (hh : s.coreHalted n.toNat c.toNat = false) :
    ∃ t, exec (.debugResume h n c) s = .next t ∧ answered h place x x (.debugResume n c) .state [] t ∧ t.threads = s.threads := by
  obtain ⟨t, hexec, hans, hthreads, -⟩ := exec_refused (.debugResume h n c) (.debugResume n c) rfl ht rfl
    ((outcome_debugResume (yCodes_admitted ht rfl (.inr hu)) s).trans (yResume_notHalted hc hh))
  exact ⟨t, hexec, hans, hthreads⟩

end

/-! ### Step and registers -/

section
variable (ht : takesNow h place x (some 7) s) (hu : x.unlocked = true) (hh : isHalted n.toNat c.toNat th.toNat s)
include ht hu hh

theorem debugStep_steps
    (hsess : (debugStepped (dbgThread n.toNat c.toNat th.toNat) (ycpTaken h place x (.debugStep n c th) s)).ycp.sess =
      (ycpTaken h place x (.debugStep n c th) s).ycp.sess) :
    let s2 := debugStepped (dbgThread n.toNat c.toNat th.toNat) (ycpTaken h place x (.debugStep n c th) s)
    ∃ t, exec (.debugStep h n c th) s = .next t ∧ answered h place x x (.debugStep n c th) .ok
      (leBytes 8 (s2.thread (s.tkey (dbgThread n.toNat c.toNat th.toNat))).pc.toNat) t ∧ t.threads = s2.threads ∧ t.mem = s2.mem := by
  obtain ⟨hexec, hans⟩ := exec_replied (.debugStep h n c th) (.debugStep n c th) x rfl ht rfl rfl
    ((outcome_debugStep (yCodes_admitted ht rfl (.inr hu)) s).trans (yStep_steps hh)) (by rw [hsess]; exact Tab.find_ins_same _ _ _)
  exact ⟨_, hexec, hans, ycpReplied_threads .., ycpReplied_mem ..⟩

theorem debugRegRead_reads {g : BitVec 16} (hg : g.toNat < 32) :
    ∃ t, exec (.debugRegRead h n c th g) s = .next t ∧ t.threads = s.threads ∧ answered h place x x (.debugRegRead n c th g) .ok
      (leBytes 8 ((s.thread (s.tkey (dbgThread n.toNat c.toNat th.toNat))).reg g.toNat).toNat) t := by
  obtain ⟨hexec, hans⟩ := exec_replied (.debugRegRead h n c th g) (.debugRegRead n c th g) x rfl ht rfl rfl
    ((outcome_debugRegRead (yCodes_admitted ht rfl (.inr hu)) s).trans (yDbgRead_general hh hg)) (Tab.find_ins_same _ _ _)
  exact ⟨_, hexec, ycpReplied_threads .., hans⟩

theorem debugRegRead_range {g : BitVec 16} (h1 : 32 ≤ g.toNat) (h2 : g.toNat < 0x40) :
    ∃ t, exec (.debugRegRead h n c th g) s = .next t ∧ answered h place x x (.debugRegRead n c th g) .range [] t := by
  obtain ⟨t, hexec, hans, -⟩ := exec_refused (.debugRegRead h n c th g) (.debugRegRead n c th g) rfl ht rfl
    ((outcome_debugRegRead (yCodes_admitted ht rfl (.inr hu)) s).trans (yDbgRead_range hh h1 h2))
  exact ⟨t, hexec, hans⟩

theorem debugRegWrite_writes {g : BitVec 16} (hg : g.toNat < 32) (v : W64) (hm : s.mode = mCalico ∨ s.mode = mJersey) :
    let key := s.tkey (dbgThread n.toNat c.toNat th.toNat)
    ∃ t, exec (.debugRegWrite h n c th g v) s = .next t ∧ answered h place x x (.debugRegWrite n c th g v) .ok [] t ∧
      t.thread key = (s.thread key).setReg g.toNat v ∧ t.flag (B.trio n.toNat) TRIO.STAT_TAINT = true ∧ t.mem = s.mem := by
  have hwrite := yDbgWrite_general (s := ycpTaken h place x (.debugRegWrite n c th g v) s) (v := v) hh hg hm
  have hout := (outcome_debugRegWrite (place := place) (yCodes_admitted (c := .debugRegWrite n c th g v) ht rfl (.inr hu)) s).trans hwrite
  obtain ⟨hexec, hans⟩ := exec_replied (.debugRegWrite h n c th g v) (.debugRegWrite n c th g v) x rfl ht rfl rfl hout
    (by rw [debugTaint_ycp, State.setThread_ycp]; exact Tab.find_ins_same _ _ _)
  refine ⟨_, hexec, hans, ?_, ?_, ?_⟩
  · rw [ycpReplied_thread, debugTaint_thread]
    exact State.setThread_same _ _ _
  · rw [ycpReplied_flag, debugTaint_taint]
  · rw [ycpReplied_mem, debugTaint_mem, State.setThread_mem, State.putSess_mem]

end

/-! ### The safety PDU -/

section
variable {pdu : BitVec 128} {agree : Bool} (ht : takesNow h place x (some 8) s)
include ht

theorem ycpSafe_off (he : s.flag B.ycp YCP.SAFE_CTL_EN = false) :
    ∃ t, exec (.ycpSafe h pdu agree) s = .next t ∧ answered h place x x (.safe pdu agree) .state [] t ∧ t.regs = s.regs := by
  obtain ⟨t, hexec, hans, -, hregs⟩ := exec_refused (.ycpSafe h pdu agree) (.safe pdu agree) rfl ht rfl
    ((outcome_safe (yCodes_admitted ht rfl (.inl rfl)) s).trans (ySafe_off he))
  exact ⟨t, hexec, hans, hregs⟩

theorem ycpSafe_checks (he : s.flag B.ycp YCP.SAFE_CTL_EN = true) :
    let s1 := ycpTaken h place x (.safe pdu agree) s
    let t := ycpReplied h place x (.safe pdu agree) .ok (safeAnswer pdu agree s1) (safeChecked pdu agree s1)
    exec (.ycpSafe h pdu agree) s = .next t ∧ answered h place x x (.safe pdu agree) .ok (safeAnswer pdu agree s1) t :=
  exec_replied (.ycpSafe h pdu agree) (.safe pdu agree) x rfl ht rfl rfl
    ((outcome_safe (yCodes_admitted ht rfl (.inl rfl)) s).trans (ySafe_checks he))
    (by rw [safeChecked_sess]; exact Tab.find_ins_same _ _ _)

end

theorem safeWatchdog_fails (hg : s.gated = false) (he : s.flag B.ycp YCP.SAFE_CTL_EN = true) :
    exec .safeWatchdog s = .next (safeFail 3 s) :=
  congrArg Host.Outcome.next ((if_neg (by rw [hg]; exact Bool.false_ne_true)).trans (if_pos he))

end Sys2Proof.Machine
end

section
/-! What the row of a safety PDU leaves, and the debug and safety rows as one statement (R76, R77, R388, R391 to R393). -/
namespace Sys2Proof.Machine

variable {s t : State} {h : YcpHdr} {place : Nat} {x : Session} {pdu : BitVec 128} {agree : Bool} {why : Nat}

/-! ### The check as it stands behind the answer -/

theorem pduGood_taken (c : YCmd) : pduGood pdu (ycpTaken h place x c s) ↔ pduGood pdu s := by
  unfold pduGood
  rw [State.putSess_rd]

theorem taken_failed {c : YCmd} (hf : supervisionFailed (ycpTaken h place x c s) t why) : supervisionFailed s t why :=
  hf.of_count (State.putSess_fld s place (taken h x c) B.ycp YCP.SAFE_FAIL)

section
variable {c : YCmd} {code : Code} {d : List Byte} (t : State) (y : Ycp)

theorem replied_raised : (ycpReplied h place x c code d (t.setYcp y)).raised = t.raised := rfl
theorem replied_rd (key : Nat) : (ycpReplied h place x c code d (t.setYcp y)).rd key = t.rd key := rfl
theorem replied_flag (b : Nat) (f : Fld) : (ycpReplied h place x c code d (t.setYcp y)).flag b f = t.flag b f := rfl
theorem replied_cnt : (ycpReplied h place x c code d (t.setYcp y)).ycp.cnt = y.cnt := rfl
theorem replied_first : (ycpReplied h place x c code d (t.setYcp y)).ycp.first = y.first := rfl
theorem replied_ownCnt : (ycpReplied h place x c code d (t.setYcp y)).ycp.ownCnt = y.ownCnt := rfl

theorem replied_failed (hf : supervisionFailed s t why) : supervisionFailed s (ycpReplied h place x c code d (t.setYcp y)) why := hf

end

/-- What the row of a safety PDU leaves of the checker (R392, R393). -/
theorem ycpSafe_effect (ht : takesNow h place x (some 8) s) (he : s.flag B.ycp YCP.SAFE_CTL_EN = true) (pdu : BitVec 128) (agree : Bool) :
    ∃ t d, exec (.ycpSafe h pdu agree) s = .next t ∧ answered h place x x (.safe pdu agree) .ok d t ∧ t.ycp.ownCnt = s.ycp.ownCnt + 1 ∧
      d.length = 20 ∧ fieldAt d 16 4 = crc32c (d.take 16) ∧ fieldAt d 0 4 = (s.rd (B.ycp + YCP.SAFE_CONN.off)).toNat ∧
      fieldAt d 4 4 = s.ycp.ownCnt.toNat ∧ fieldAt d 8 4 = (pduCnt pdu).toNat ∧
      (¬ pduGood pdu s → supervisionFailed s t 1) ∧
      (pduGood pdu s → (s.ycp.first = true ∨ pduCnt pdu = s.ycp.cnt + 1) → t.flag B.ycp YCP.SAFE_STAT_ARMED = true ∧
        t.rd (B.ycp + YCP.SAFE_CNT.off) = pduCnt pdu ∧ t.ycp.cnt = pduCnt pdu ∧ t.ycp.first = false) ∧
      (pduGood pdu s → s.ycp.first = false → pduCnt pdu ≠ s.ycp.cnt + 1 → pduCnt pdu ≠ s.ycp.cnt → supervisionFailed s t 2) ∧
      (pduGood pdu s → pdu.getLsbD 64 = true → ∃ a, a ∈ t.raised ∧ a.src.toNat = 410) ∧
      (agree = false → ∃ a, a ∈ t.raised ∧ a.src.toNat = 411) := by
  obtain ⟨hexec, hans⟩ := ycpSafe_checks (pdu := pdu) (agree := agree) ht he
  have hgood := pduGood_taken (pdu := pdu) (s := s) (h := h) (place := place) (x := x) (.safe pdu agree)
  obtain ⟨hlen, hcrc, hconn, hown, hecho⟩ := safeAnswer_fields pdu agree (ycpTaken h place x (.safe pdu agree) s)
  have hcount := (safeCheck_keeps pdu agree (ycpTaken h place x (.safe pdu agree) s)).own
  rw [State.putSess_rd] at hconn
  unfold safeChecked at hexec hans
  refine ⟨_, _, hexec, hans, ?own, hlen, hcrc, hconn, hown, hecho, fun hbad => ?bad, fun hg hc => ?next, fun hg hf hn hs => ?skipped,
    fun hg hstop => ?stop, fun hagree => ?copies⟩
  case own => rw [replied_ownCnt, hcount]; rfl
  case bad => exact replied_failed _ _ (taken_failed (safeCheck_bad_failed (mt hgood.1 hbad) agree))
  case skipped => exact replied_failed _ _ (taken_failed (safeCheck_skipped (hgood.2 hg) hf hn hs agree))
  case next =>
    obtain ⟨harmed, hcnt, hlast, hfirst⟩ := safeCheck_next (hgood.2 hg) hc agree
    rw [replied_flag, replied_rd, replied_cnt, replied_first]
    exact ⟨harmed, hcnt, hlast, hfirst⟩
  case stop => rw [replied_raised]; exact safeCheck_stop (hgood.2 hg) hstop
  case copies => rw [replied_raised, hagree]; exact safeCheck_disagree pdu _

/-- Settles O56: a request that its session takes is answered with what its command's own function says, and what that leaves stands. -/
theorem ycpDebugAndSafetyRows : Obligations.YcpDebugAndSafetyRows := by
  unfold Obligations.YcpDebugAndSafetyRows
  intro s h place x n c th
  exact ⟨debugChal_grants, debugChal_fusedOff, debugChal_withoutRight,
    fun k g ch ht hk hg hoff hch => ⟨debugUnlock_opens ht hk hg hoff hch, debugUnlock_wrongKey ht hk hg hoff hch⟩,
    debugHalt_locked, debugHalt_halts, debugResume_resumes, debugResume_notHalted, debugStep_steps,
    fun g ht hu hh hg => ⟨debugRegRead_reads ht hu hh hg, debugRegWrite_writes ht hu hh hg⟩,
    fun g ht hu hh => debugRegRead_range ht hu hh, fun pdu agree ht he => ycpSafe_effect ht he pdu agree,
    fun pdu agree ht he => ycpSafe_off ht he,
    fun hg he => ⟨_, safeWatchdog_fails hg he, safeFail_failed (by decide) s, safeFail_ycp 3 s⟩⟩

end Sys2Proof.Machine
end

section
/-! The rows of the core (R109): what the command of a row does with an issued word, said once for every row. -/
namespace Sys2Proof.Machine

variable {s s1 : State} {t : ThreadId} {w : W32} {th : Thread} {d : Dec} {i : Instr}

/-- The command of a row runs its operation on an issued word that the row takes. -/
theorem exec_issued (h : issued s t w = some (th, d, s1)) {p : Dec → Bool} (hi : exec i s = .next (coreRow p t w s)) (hp : p d = true)
    (hr : d.row ≠ .endp) : exec i s = .next (settle (fetchCx s t th w) (opExec (runCx s t th w d) s1)) := by
  rw [hi, coreRow_issued h p hp hr]

/-- The same with the operation `f` of the row. -/
theorem exec_part (h : issued s t w = some (th, d, s1)) {r : CoreRow} (hr : d.row = r) (f : Cx → State → OpEnd) {p : Dec → Bool}
    (hi : exec i s = .next (coreRow p t w s)) (hp : p d = true) (hne : r ≠ .endp := by decide)
    (hf : ∀ c s, c.d.row = r → opExec c s = f c s := by intro c s hc; simp only [opExec, hc]) :
    exec i s = .next (settle (fetchCx s t th w) (f (runCx s t th w d) s1)) := by
  rw [exec_issued h hi hp (hr ▸ hne), hf _ _ hr]

/-- The same for a command that takes every word of its row. -/
theorem exec_row (h : issued s t w = some (th, d, s1)) {r : CoreRow} (hr : d.row = r) (f : Cx → State → OpEnd)
    (hi : exec i s = .next (coreRow (fun d => d.row == r) t w s) := by rfl) (hne : r ≠ .endp := by decide)
    (hf : ∀ c s, c.d.row = r → opExec c s = f c s := by intro c s hc; simp only [opExec, hc]) :
    exec i s = .next (settle (fetchCx s t th w) (f (runCx s t th w d) s1)) :=
  exec_part h hr f hi (beq_iff_eq.2 hr) hne hf

/-- The operation's outcome, known, is what the thread takes. -/
theorem exec_settles {c : Cx} {o o' : OpEnd} (hx : exec i s = .next (settle c o)) (ho : o = o') : exec i s = .next (settle c o') := ho ▸ hx

end Sys2Proof.Machine
end

section
/-! Multiply and divide (R87, R89, R116). -/
namespace Sys2Proof.Machine

variable {s s1 : State} {t : ThreadId} {w : W32} {th : Thread} {d : Dec} {i : Instr} {a b : W64}

/-! ### Quotients and remainders -/

theorem i64_eq_ofInt (x : Int) : i64 x = BitVec.ofInt 64 x :=
  BitVec.eq_of_toNat_eq (by simp [i64, wrapInt]; omega)

theorem i64_toInt (x : Int) : (i64 x).toInt = x.bmod (2 ^ 64) := by rw [i64_eq_ofInt, BitVec.toInt_ofInt]

/-- A remainder is smaller than its divisor, so it fits. -/
theorem tmod_bmod_word (x : Int) (hb : b ≠ 0) : (x.tmod b.toInt).bmod (2 ^ 64) = x.tmod b.toInt := by
  have hlt : (x.tmod b.toInt).natAbs < b.toInt.natAbs := by
    rw [Int.natAbs_tmod]
    exact Nat.mod_lt _ (Int.natAbs_pos.2 (fun h0 => hb (BitVec.eq_of_toInt_eq h0)))
  have := @BitVec.le_toInt 64 b
  have := @BitVec.toInt_lt 64 b
  exact Int.bmod_eq_of_le (by omega) (by omega)

theorem divRes_quot (a b : W64) : (divRes true false a b).toInt = (a.toInt.tdiv b.toInt).bmod (2 ^ 64) := i64_toInt _

theorem divRes_rem (hb : b ≠ 0) : (divRes true true a b).toInt = a.toInt - a.toInt.tdiv b.toInt * b.toInt := by
  rw [show divRes true true a b = i64 (a.toInt.tmod b.toInt) from rfl, i64_toInt, tmod_bmod_word _ hb, Int.tmod_def, Int.mul_comm]

theorem divRes_quotU (a b : W64) : (divRes false false a b).toNat = a.toNat / b.toNat := by
  show (BitVec.ofNat 64 (a.toNat / b.toNat)).toNat = _
  rw [BitVec.toNat_ofNat, Nat.mod_eq_of_lt (Nat.lt_of_le_of_lt (Nat.div_le_self _ _) a.isLt)]

theorem divRes_remU (a b : W64) : (divRes false true a b).toNat = a.toNat - a.toNat / b.toNat * b.toNat := by
  show (BitVec.ofNat 64 (a.toNat % b.toNat)).toNat = _
  rw [BitVec.toNat_ofNat, Nat.mod_eq_of_lt (Nat.lt_of_le_of_lt (Nat.mod_le _ _) a.isLt), Nat.mod_eq_sub_div_mul]

/-! ### The rows -/

/-- A divide with a divisor other than 0 writes rd. -/
theorem opDiv_done {c : Cx} {sgn rem : Bool} (hb : c.b ≠ 0) : opDiv sgn rem c s = c.put s (divRes sgn rem c.a c.b) := if_neg hb

/-- A divisor of 0 raises divide by zero (R89). -/
theorem opDiv_zero {c : Cx} {sgn rem : Bool} (hb : c.b = 0) : opDiv sgn rem c s = .exc s ⟨0x0C, c.th.pc, 0⟩ := if_pos hb

/-- What an issued word of a divide row does. -/
theorem div_row {sgn rem : Bool} (hx : exec i s = .next (settle (fetchCx s t th w) (opDiv sgn rem (runCx s t th w d) s1))) :
    (th.reg d.rb ≠ 0 → exec i s =
      .next (complete s1 (s.tkey t) th (th.setReg d.rd (divRes sgn rem (th.reg d.ra) (th.reg d.rb))) none none)) ∧
    (th.reg d.rb = 0 → exec i s = .next (takeExc s1 t (s.tkey t) th ⟨0x0C, th.pc, 0⟩)) := by
  refine ⟨fun hb => ?_, fun hb => ?_⟩
  · exact exec_settles hx (opDiv_done (c := runCx s t th w d) hb)
  · exact exec_settles hx (opDiv_zero (c := runCx s t th w d) hb)

/-- The words of MULDIV (R116). -/
theorem decodeOp_muldiv (hw : bf w 22 6 = 0x0C) (hd : decodeOp w = .ok d) : decMuldiv w = .ok d := by
  unfold decodeOp at hd
  split at hd
  · cases hd
  · simpa only [hw] using hd

theorem okIf_ok {c : Bool} {x : Dec} (h : okIf c x = .ok d) : c = true ∧ x = d := by
  cases c
  · cases h
  · exact ⟨rfl, DecRes.ok.inj h⟩

theorem decMuldiv_rows (h : decMuldiv w = .ok d) :
    d.rd = bf w 17 5 ∧ d.ra = bf w 12 5 ∧ d.rb = bf w 7 5 ∧ (bf w 0 7 ≤ 0x01 → bf w 17 5 = 0) ∧
      (bf w 0 7, d.row) ∈ [(0x00, CoreRow.mul), (0x01, .mulu), (0x08, .div), (0x09, .divu), (0x0A, .rem), (0x0B, .remu)] := by
  have hrd {b : Bool} (hb : b = (fRd w == 0)) (ht : b = true) : bf w 17 5 = 0 := beq_iff_eq.1 (hb ▸ ht)
  unfold decMuldiv fFn at h
  split at h
  case h_1 e | h_2 e =>
    obtain ⟨h0, rfl⟩ := okIf_ok h
    exact ⟨rfl, rfl, rfl, fun _ => hrd rfl h0, by rw [e]; simp [decR]⟩
  case h_3 e | h_4 e | h_5 e | h_6 e =>
    obtain rfl := DecRes.ok.inj h
    exact ⟨rfl, rfl, rfl, fun hle => absurd hle (by rw [e]; decide), by rw [e]; simp [decR]⟩
  case h_7 => cases h

/-! ### Products on their way (R87) -/

/-- The product that lands stands in PH:PL. -/
theorem shiftProducts_lands {th : Thread} {p : Product} (h : th.near = some p) (q : Option Product) :
    (th.shiftProducts q).ph ++ (th.shiftProducts q).pl = p := by
  unfold Thread.shiftProducts
  rw [h]
  exact BitVec.extractLsb'_append_extractLsb'

/-- What a completion leaves of the products in PH and PL looks neither at the product in FAR nor at the one that enters. -/
theorem shiftProducts_landed (th : Thread) (p q r : Option Product) :
    ({ th with far := p }.shiftProducts q).pl = (th.shiftProducts r).pl ∧ ({ th with far := p }.shiftProducts q).ph = (th.shiftProducts r).ph := by
  unfold Thread.shiftProducts
  cases th.near <;> exact ⟨rfl, rfl⟩

/-- The third completion after a multiply finds its product in PH:PL. -/
theorem product_lands_third (th : Thread) (p : Product) (q1 q2 : Option Product) :
    let t2 := ((th.shiftProducts (some p)).shiftProducts q1).shiftProducts q2
    t2.ph ++ t2.pl = p := shiftProducts_lands rfl q2

/-- Settles O9: the rows from `opMul` and `opDiv`, the words from `decMuldiv`, and the products from what each completion moves. -/
theorem mulDivRows : Obligations.MulDivRows := by
  unfold Obligations.MulDivRows
  refine ⟨fun s s1 t w th d h => ?rows, fun w d hw hd => decMuldiv_rows (decodeOp_muldiv hw hd), fun th p q1 q2 => ?products⟩
  case rows =>
    have hdiv (hr : d.row = .div) := div_row (exec_row (i := .div t w) h hr (opDiv true false))
    have hdivu (hr : d.row = .divu) := div_row (exec_row (i := .divu t w) h hr (opDiv false false))
    have hrem (hr : d.row = .rem) := div_row (exec_row (i := .rem t w) h hr (opDiv true true))
    have hremu (hr : d.row = .remu) := div_row (exec_row (i := .remu t w) h hr (opDiv false true))
    exact ⟨fun hr => exec_row h hr (opMul true), fun hr => exec_row h hr (opMul false),
      fun hr hb => ⟨_, (hdiv hr).1 hb, divRes_quot _ _⟩, fun hr hb => ⟨_, (hdivu hr).1 hb, divRes_quotU _ _⟩,
      fun hr hb => ⟨_, (hrem hr).1 hb, divRes_rem hb⟩, fun hr hb => ⟨_, (hremu hr).1 hb, divRes_remU _ _⟩,
      fun hr => (hdiv hr).2, fun hr => (hdivu hr).2, fun hr => (hrem hr).2, fun hr => (hremu hr).2⟩
  case products =>
    exact ⟨shiftProducts_landed th th.far _ _, shiftProducts_landed (th.shiftProducts none) (some p) q1 q1, product_lands_third th p q1 q2⟩

end Sys2Proof.Machine
end

section
/-! Bits of SR, and what its fields read after another field is written (R141). -/
namespace Sys2Proof.Machine

variable (th : Thread) {lo wd v : Nat}

theorem setSr_sr_toNat (h : lo + wd ≤ 64) : (th.setSr lo wd v).sr.toNat = setBits th.sr.toNat lo wd v := by
  show (BitVec.ofNat 64 (setBits th.sr.toNat lo wd v)).toNat = _
  rw [BitVec.toNat_ofNat, Nat.mod_eq_of_lt (setBits_lt v th.sr.isLt h)]

/-- A bit of SR after a field is written. -/
theorem setSr_sr_bit (h : lo + wd ≤ 64) (i : Nat) : (th.setSr lo wd v).sr.getLsbD i =
    if i < lo then th.sr.getLsbD i else if i < lo + wd then v.testBit (i - lo) else th.sr.getLsbD i := by
  rw [← BitVec.testBit_toNat, setSr_sr_toNat th h, setBits_testBit, BitVec.testBit_toNat]

/-- A write of SR apart from RING leaves the ring. -/
theorem setSr_ring (h : lo + wd ≤ 64) (ha : 3 ≤ lo ∨ lo + wd ≤ 1) : (th.setSr lo wd v).ring = th.ring := by
  unfold Thread.ring bf
  rw [setSr_sr_toNat th h, nbits_setBits_other _ _ _ _ _ _ (by omega)]

/-- A write of SR apart from the flags leaves the flags. -/
theorem setSr_flags (h : lo + wd ≤ 64) (ha : 8 ≤ lo ∨ lo + wd ≤ 4) : (th.setSr lo wd v).flags = th.flags := by
  have hb {i : Nat} (h4 : 4 ≤ i) (h8 : i < 8) : (th.setSr lo wd v).sr.getLsbD i = th.sr.getLsbD i := by
    rw [setSr_sr_bit th h]; split_ifs <;> first | rfl | omega
  unfold Thread.flags
  rw [hb (by decide) (by decide), hb (by decide) (by decide), hb (by decide) (by decide), hb (by decide) (by decide)]

theorem setSr_la_off : (th.setSr 8 1 0).la = false := setSr_sr_bit th (by decide) 8

end Sys2Proof.Machine
end

section
/-! The completion of an instruction: products, the loop step, and the landing of the thread (R82, R86, R87, R90, R91, R129, R130). -/
namespace Sys2Proof.Machine

variable (s : State) (k : Nat) (old new th cur : Thread) (prod : Option Product) (tgt : Option W64) (lc la : Bool)

/-! ### The loop step -/

/-- The thread behind the loop step, at the next address. -/
def looped : Thread := { (loopStep old new lc la).1 with pc := (loopStep old new lc la).2 }

/-- A thread stands at the end of its armed loop (R90). -/
abbrev Thread.atLoopEnd : Prop := old.la = true ∧ old.pc = old.le

section
variable {old}

/-- The passes left: none, the last one, or more. -/
theorem passes_cases (old : Thread) : old.lc.toNat = 0 ∨ old.lc = 1 ∨ 1 < old.lc.toNat := by
  rcases Nat.lt_trichotomy old.lc.toNat 1 with h | h | h
  · exact .inl (by omega)
  · exact .inr (.inl (BitVec.eq_of_toNat_eq h))
  · exact .inr (.inr h)

theorem looped_outside (h : ¬ old.atLoopEnd) : looped old new lc la = { new with pc := old.pc + 4 } := by
  unfold looped
  rw [show loopStep old new lc la = (new, old.pc + 4) from if_neg h]

theorem looped_again (h : old.atLoopEnd) (hp : 1 < old.lc.toNat) :
    looped old new lc la = { new with lc := if lc then new.lc else old.lc - 1, pc := old.ls } := by
  have hs : loopStep old new lc la = (if lc then new else { new with lc := old.lc - 1 }, old.ls) := (if_pos h).trans (if_pos hp)
  unfold looped
  rw [hs]
  cases lc <;> rfl

theorem looped_last (h : old.atLoopEnd) (hp : old.lc = 1) : looped old new lc la =
    { new with lc := if lc then new.lc else 0, sr := if la then new.sr else (new.setSr 8 1 0).sr, pc := old.pc + 4 } := by
  have hn : ¬ 1 < old.lc.toNat := by rw [hp]; decide
  have hs : loopStep old new lc la = (if la then if lc then new else { new with lc := 0 }
      else (if lc then new else { new with lc := 0 }).setSr 8 1 0, old.pc + 4) := (if_pos h).trans ((if_neg hn).trans (if_pos hp))
  unfold looped
  rw [hs]
  cases lc <;> cases la <;> rfl

/-- With the loop armed and LC 0 the thread goes on. -/
theorem looped_spent (h : old.atLoopEnd) (hp : old.lc.toNat = 0) : looped old new lc la = { new with pc := old.pc + 4 } := by
  have h1 : ¬ old.lc = 1 := by intro e; rw [e] at hp; exact absurd hp (by decide)
  have hs : loopStep old new lc la = (new, old.pc + 4) := (if_pos h).trans ((if_neg (by omega)).trans (if_neg h1))
  unfold looped
  rw [hs]

end

/-- The loop step writes LC and SR alone, and neither where the instruction wrote it. -/
theorem looped_keeps : ∃ c r a, looped old new lc la = { new with lc := c, sr := r, pc := a } ∧ (lc = true → c = new.lc) ∧
    (la = true → r = new.sr) := by
  by_cases he : old.atLoopEnd
  · rcases passes_cases old with hp | hp | hp
    · exact ⟨_, _, _, looped_spent _ _ _ he hp, fun _ => rfl, fun _ => rfl⟩
    · exact ⟨_, _, _, looped_last _ _ _ he hp, fun h => if_pos h, fun h => if_pos h⟩
    · exact ⟨_, _, _, looped_again _ _ _ he hp, fun h => if_pos h, fun _ => rfl⟩
  · exact ⟨_, _, _, looped_outside _ _ _ he, fun _ => rfl, fun _ => rfl⟩

theorem looped_pc : (looped old new lc la).pc = if old.atLoopEnd ∧ 1 < old.lc.toNat then old.ls else old.pc + 4 := by
  by_cases he : old.atLoopEnd
  · rcases passes_cases old with hp | hp | hp
    · rw [looped_spent _ _ _ he hp]
      exact (if_neg (by omega)).symm
    · rw [looped_last _ _ _ he hp]
      exact (if_neg (by rw [hp]; exact fun h => absurd h.2 (by decide))).symm
    · rw [looped_again _ _ _ he hp]
      exact (if_pos ⟨he, hp⟩).symm
  · rw [looped_outside _ _ _ he]
    exact (if_neg (fun h => he h.1)).symm

/-! ### Products -/

/-- A completion moves products into PL and PH and out of NEAR and FAR, and changes no other register. -/
theorem shiftProducts_keeps : ∃ l u, th.shiftProducts prod = { th with pl := l, ph := u, near := th.far, far := prod } ∧
    (th.near = none → l = th.pl ∧ u = th.ph) ∧ ∀ p, th.near = some p → u ++ l = p := by
  refine ⟨(th.shiftProducts prod).pl, (th.shiftProducts prod).ph, ?_, ?_, fun p => shiftProducts_lands (q := prod)⟩
  all_goals unfold Thread.shiftProducts
  · split <;> rfl
  · intro h; rw [h]; exact ⟨rfl, rfl⟩

/-! ### The thread that lands -/

theorem complete_branch (a : W64) : complete s k old th prod (some a) = goOn s k { th.shiftProducts prod with pc := a } := rfl

theorem complete_next : complete s k old th prod none = goOn s k (looped old (th.shiftProducts prod) false false) := rfl

theorem completeWrite_eq : completeWrite s k old th lc la = goOn s k (looped old (th.shiftProducts none) lc la) := rfl

@[simp] theorem goOn_thread : (goOn s k th).thread k = th.land (s.thread k) := State.setThread_same s k _

variable {k} in
theorem goOn_other {j : Nat} (h : j ≠ k) : (goOn s k th).thread j = s.thread j := State.setThread_other s h _

/-- What a completed instruction leaves of its thread before that lands: its own work but for the products, LC, SR and the next address. -/
theorem complete_lands : ∃ l u c r a, complete s k old th prod tgt =
    goOn s k { th with pl := l, ph := u, near := th.far, far := prod, lc := c, sr := r, pc := a } := by
  obtain ⟨l, u, hs, -, -⟩ := shiftProducts_keeps th prod
  cases tgt with
  | some a => exact ⟨l, u, th.lc, th.sr, a, by rw [complete_branch, hs]⟩
  | none =>
    obtain ⟨c, r, a, hl, -, -⟩ := looped_keeps old (th.shiftProducts prod) false false
    exact ⟨l, u, c, r, a, by rw [complete_next, hl, hs]⟩


/-! ### The whole effect -/

/-- A thread that lands stops where that was asked for (R129). -/
theorem land_st : (th.land cur).st = if th.stopReq ∨ cur.stopReq ∨ cur.st = .stopped then .stopped else th.st := by
  simp [Thread.land, or_assoc]

/-- The registers that every completion leaves as the instruction's own work left them. -/
theorem complete_registers : let n := (complete s k old th prod tgt).thread k
    n.g = th.g ∧ n.g30 = th.g30 ∧ n.p = th.p ∧ n.seg = th.seg ∧ n.vbr = th.vbr ∧ n.esp = th.esp ∧ n.krr = th.krr ∧
      n.ls = th.ls ∧ n.le = th.le ∧ n.cause = th.cause ∧ n.faddr = th.faddr ∧ n.finfo = th.finfo ∧ n.aauFlags = th.aauFlags := by
  obtain ⟨l, u, c, r, a, h⟩ := complete_lands s k old th prod tgt
  simp only [h, goOn_thread]
  exact ⟨rfl, rfl, rfl, rfl, rfl, rfl, rfl, rfl, rfl, rfl, rfl, rfl, rfl⟩

/-- Products behind a completion (R87). -/
theorem complete_products : let n := (complete s k old th prod tgt).thread k
    (n.far = prod ∧ n.near = th.far) ∧ (∀ p, th.near = some p → n.ph ++ n.pl = p) ∧ (th.near = none → n.pl = th.pl ∧ n.ph = th.ph) := by
  obtain ⟨l, u, hs, hnone, hsome⟩ := shiftProducts_keeps th prod
  have hn : ∃ c r a, (complete s k old th prod tgt).thread k = { th.shiftProducts prod with lc := c, sr := r, pc := a }.land (s.thread k) := by
    cases tgt with
    | some a => exact ⟨th.lc, th.sr, a, by rw [complete_branch, goOn_thread, hs]⟩
    | none =>
      obtain ⟨c, r, a, hl, -, -⟩ := looped_keeps old (th.shiftProducts prod) false false
      exact ⟨c, r, a, by rw [complete_next, goOn_thread, hl]⟩
  obtain ⟨c, r, a, hn⟩ := hn
  simp only [hn, hs]
  exact ⟨⟨rfl, rfl⟩, hsome, hnone⟩

/-- A taken branch takes no loop step; else the pc goes to LS, or 4 on. -/
theorem complete_pc : let n := (complete s k old th prod tgt).thread k
    (∀ a, tgt = some a → n.pc = a ∧ n.lc = th.lc ∧ n.sr = th.sr) ∧
    (tgt = none → ¬ old.atLoopEnd → n.pc = old.pc + 4 ∧ n.lc = th.lc ∧ n.sr = th.sr) ∧
    (tgt = none → old.atLoopEnd → 1 < old.lc.toNat → n.pc = old.ls ∧ n.lc = old.lc - 1 ∧ n.sr = th.sr) ∧
    (tgt = none → old.atLoopEnd → old.lc = 1 → n.pc = old.pc + 4 ∧ n.lc = 0 ∧ n.la = false) := by
  obtain ⟨l, u, hs, -, -⟩ := shiftProducts_keeps th prod
  refine ⟨fun a h => ?_, fun h he => ?_, fun h he hp => ?_, fun h he hp => ?_⟩ <;> subst h
  · rw [complete_branch, goOn_thread, hs]
    exact ⟨rfl, rfl, rfl⟩
  · rw [complete_next, goOn_thread, hs, looped_outside _ _ _ he]
    exact ⟨rfl, rfl, rfl⟩
  · rw [complete_next, goOn_thread, hs, looped_again _ _ _ he hp]
    exact ⟨rfl, rfl, rfl⟩
  · rw [complete_next, goOn_thread, hs, looped_last _ _ _ he hp]
    exact ⟨rfl, rfl, setSr_la_off _⟩

/-- A completion leaves all but its thread. -/
theorem complete_frame : let t := complete s k old th prod tgt
    (∀ j, j ≠ k → t.thread j = s.thread j) ∧ t.mem = s.mem ∧ t.regs = s.regs ∧ t.trios = s.trios ∧ t.fab = s.fab ∧
    t.sent = s.sent ∧ t.raised = s.raised ∧ t.pending = s.pending := by
  obtain ⟨l, u, c, r, a, h⟩ := complete_lands s k old th prod tgt
  simp only [h]
  exact ⟨fun j hj => goOn_other s _ hj, rfl, rfl, rfl, rfl, rfl, rfl, rfl⟩

/-- The machine's own work on the thread, and a stop that was asked for, take effect as it lands. -/
theorem complete_landing : let n := (complete s k old th prod tgt).thread k
    let cur := s.thread k
    (n.buf = cur.buf ∧ n.tlbis = cur.tlbis ∧ n.err = cur.err ∧ n.halted = cur.halted) ∧
    (n.st = if th.stopReq ∨ cur.stopReq ∨ cur.st = .stopped then .stopped else th.st) ∧ n.stopReq = false := by
  obtain ⟨l, u, c, r, a, h⟩ := complete_lands s k old th prod tgt
  simp only [h, goOn_thread]
  exact ⟨⟨rfl, rfl, rfl, rfl⟩, land_st _ _, rfl⟩

/-- A write of LC or SR holds from the next instruction on, at the end of a loop too (R130). -/
theorem completeWrite_effect : let t := completeWrite s k old th lc la
    let n := t.thread k
    (n.g = th.g ∧ n.g30 = th.g30 ∧ n.p = th.p ∧ n.seg = th.seg ∧ n.ls = th.ls ∧ n.le = th.le) ∧
    (n.pc = if old.atLoopEnd ∧ 1 < old.lc.toNat then old.ls else old.pc + 4) ∧
    (lc = true → n.lc = th.lc) ∧ (la = true → n.sr = th.sr) ∧ (¬ old.atLoopEnd → n.lc = th.lc ∧ n.sr = th.sr) ∧
    (lc = false → old.atLoopEnd → 1 < old.lc.toNat → n.lc = old.lc - 1) ∧ (lc = false → old.atLoopEnd → old.lc = 1 → n.lc = 0) ∧
    (la = false → old.atLoopEnd → old.lc = 1 → n.la = false) ∧
    (∀ j, j ≠ k → t.thread j = s.thread j) ∧ t.mem = s.mem ∧ t.regs = s.regs ∧ t.trios = s.trios := by
  obtain ⟨l, u, hs, -, -⟩ := shiftProducts_keeps th none
  obtain ⟨c, r, a, hl, hlc, hsr⟩ := looped_keeps old (th.shiftProducts none) lc la
  have hpc := looped_pc old (th.shiftProducts none) lc la
  simp only [completeWrite_eq, goOn_thread]
  refine ⟨?regs, hpc, fun h => ?lcKept, fun h => ?srKept, fun he => ?outside, fun h he hp => ?again, fun h he hp => ?last,
    fun h he hp => ?off, fun j hj => goOn_other s _ hj, rfl, rfl, rfl⟩
  case regs => rw [hl, hs]; exact ⟨rfl, rfl, rfl, rfl, rfl, rfl⟩
  case lcKept => rw [hl, hlc h, hs]; rfl
  case srKept => rw [hl, hsr h, hs]; rfl
  case outside => rw [looped_outside _ _ _ he, hs]; exact ⟨rfl, rfl⟩
  case again => rw [looped_again _ _ _ he hp, h]; rfl
  case last => rw [looped_last _ _ _ he hp, h]; rfl
  case off => rw [looped_last _ _ _ he hp, h]; exact setSr_la_off _

/-- A wait that needs no read of the fabric stalls the thread and changes nothing else (R82). -/
theorem stall_unread {c : Cx} {w : Wait} (hw : Wait.reads w = []) (hc : unasked c.th) (hk : unasked (s.thread c.k)) :
    stall c s w = s.setThread c.k (stalledThread c s w) := by
  have hst : (c.th.land (s.thread c.k)).st ≠ .stopped := by
    rw [land_st, if_neg (by simp [hc.1, hk.1, hk.2])]
    exact hc.2
  unfold stall
  rw [hw]
  exact congrArg (s.setThread c.k) (if_neg hst)

/-- Settles O10: a completion from the products, the loop step and the landing; a stall from `stall_unread`. -/
theorem completionEffect : Obligations.CompletionEffect := by
  unfold Obligations.CompletionEffect
  refine ⟨fun s k old th prod tgt => ?done, fun s k old th lc la => completeWrite_effect s k old th lc la,
    fun c s w hw hc hk => stall_unread s hw hc hk⟩
  obtain ⟨hbuf, hst, hreq⟩ := complete_landing s k old th prod tgt
  obtain ⟨hfar, hnear, hnone⟩ := complete_products s k old th prod tgt
  obtain ⟨hbr, hout, hagain, hlast⟩ := complete_pc s k old th prod tgt
  exact ⟨complete_registers s k old th prod tgt, hbuf, hfar, hnear, hnone, hbr, hout, hagain, hlast, hst, hreq,
    complete_frame s k old th prod tgt⟩

end Sys2Proof.Machine
end

section
/-! The frame of the register rows (R85, R100, R109): what the fetch leaves, and what a row that writes registers alone leaves. -/
namespace Sys2Proof.Machine

variable {s s1 : State} {t : ThreadId} {w : W32} {th th' : Thread} {d : Dec} {i : Instr}

/-! ### The fetch -/

/-- What a translation leaves: everything but the translation caches and WALK_CNT. -/
structure Translated (s s1 : State) : Prop where
  mem : s1.mem = s.mem
  threads : s1.threads = s.threads
  trios : s1.trios = s.trios
  sent : s1.sent = s.sent
  raised : s1.raised = s.raised
  pending : s1.pending = s.pending
  rd : ∀ key, key ≠ B.walk + WALK.WALK_CNT.off → s1.rd key = s.rd key

theorem XlStep.translated (h : XlStep s s1) : Translated s s1 := by
  rcases h with rfl | ⟨k, x, rfl⟩ | ⟨k, x, rfl⟩
  · exact ⟨rfl, rfl, rfl, rfl, rfl, rfl, fun _ _ => rfl⟩
  · exact ⟨rfl, rfl, rfl, rfl, rfl, rfl, fun _ _ => rfl⟩
  · let s0 := s.setTlbs k x
    exact ⟨s0.incWrap_mem _ _, s0.incWrap_threads _ _, s0.incWrap_trios _ _, s0.incWrap_sent _ _, s0.incWrap_raised _ _,
      s0.incWrap_pending _ _, fun _ hk => State.rd_setFld_off s0 _ hk⟩

theorem Translated.trans {s2 : State} (h : Translated s s1) (g : Translated s1 s2) : Translated s s2 :=
  ⟨g.mem.trans h.mem, g.threads.trans h.threads, g.trios.trans h.trios, g.sent.trans h.sent, g.raised.trans h.raised,
    g.pending.trans h.pending, fun key hk => (g.rd key hk).trans (h.rd key hk)⟩

/-- What the fetch of an issued word leaves: of the trios it may reorder the instruction lines of one (R100). -/
structure Fetched (s s1 : State) : Prop where
  mem : s1.mem = s.mem
  threads : s1.threads = s.threads
  sent : s1.sent = s.sent
  raised : s1.raised = s.raised
  pending : s1.pending = s.pending
  rd : ∀ key, key ≠ B.walk + WALK.WALK_CNT.off → s1.rd key = s.rd key
  trio : ∀ m, s1.trio m = { s.trio m with lines := (s1.trio m).lines }

theorem setLines_trio (s : State) (n : Nat) (l : List Nat) (m : Nat) :
    (s.setLines n l).trio m = { s.trio m with lines := ((s.setLines n l).trio m).lines } := by
  unfold State.setLines
  by_cases hm : m = n
  · rw [hm, State.setTrio_same]
  · rw [State.setTrio_other s hm]

theorem issued_fetched (h : issued s t w = some (th, d, s1)) : Fetched s s1 := by
  obtain ⟨s0, hx, rfl | ⟨n, l, rfl⟩⟩ := issued_frame h
  · have hs := hx.translated
    exact ⟨hs.mem, hs.threads, hs.sent, hs.raised, hs.pending, hs.rd, fun m => by rw [State.trio_congr hs.trios]⟩
  · have hs := hx.translated
    exact ⟨hs.mem, hs.threads, hs.sent, hs.raised, hs.pending, hs.rd,
      fun m => by rw [setLines_trio, State.trio_congr hs.trios]⟩

/-! ### What a row writes -/

/-- What a row of registers may write before its completion: rd, the flags where its row is ALU, SHI or CMPI, and the predicates where it is
CMPP, CMPPI or PLOGIC. -/
structure RegWrite (d : Dec) (th th' : Thread) : Prop where
  ring : th'.ring = th.ring
  reg : ∀ r, r ≠ d.rd → th'.reg r = th.reg r
  flags : d.row ≠ .alu → d.row ≠ .shi → d.row ≠ .cmpi → th'.flags = th.flags
  p : d.row ≠ .cmpp → d.row ≠ .cmppi → d.row ≠ .plogic → th'.p = th.p
  seg : th'.seg = th.seg
  krr : th'.krr = th.krr
  vbr : th'.vbr = th.vbr
  esp : th'.esp = th.esp
  cause : th'.cause = th.cause

theorem RegWrite.refl (d : Dec) (th : Thread) : RegWrite d th th :=
  ⟨rfl, fun _ _ => rfl, fun _ _ _ => rfl, fun _ _ _ => rfl, rfl, rfl, rfl, rfl, rfl⟩

/-- A write of a general register changes no other one. -/
theorem setReg_reg_other (th : Thread) {n r : Nat} (h : r ≠ n) (v : W64) : (th.setReg n v).reg r = th.reg r := by
  unfold Thread.setReg
  split_ifs with h0 h30
  · rfl
  · unfold Thread.reg
    rw [if_neg (by omega : ¬ r = 30), if_neg (by omega : ¬ r = 30)]
  · unfold Thread.reg
    dsimp only
    rw [Tab.get_set_other _ _ h]
    rfl

theorem RegWrite.setReg (d : Dec) (th : Thread) (v : W64) : RegWrite d th (th.setReg d.rd v) := by
  refine ⟨?_, fun r hr => setReg_reg_other th hr v, ?_, ?_, ?_, ?_, ?_, ?_, ?_⟩ <;> unfold Thread.setReg <;> split_ifs <;>
    intros <;> rfl

/-- A general register does not depend on SR but for its ring. -/
theorem setSr_reg (th : Thread) {lo wd v : Nat} (h : lo + wd ≤ 64) (ha : 3 ≤ lo ∨ lo + wd ≤ 1) (r : Nat) :
    (th.setSr lo wd v).reg r = th.reg r := by
  unfold Thread.reg
  rw [setSr_ring th h ha]
  rfl

theorem RegWrite.setFlags (h : RegWrite d th th') (hr : d.row = .alu ∨ d.row = .shi ∨ d.row = .cmpi) (f : NZCV) :
    RegWrite d th (th'.setFlags f) where
  ring := (setSr_ring th' (by decide) (by decide)).trans h.ring
  reg r hn := (setSr_reg th' (by decide) (by decide) r).trans (h.reg r hn)
  flags h1 h2 h3 := by simp_all
  p := h.p
  seg := h.seg
  krr := h.krr
  vbr := h.vbr
  esp := h.esp
  cause := h.cause

theorem RegWrite.setPred (h : RegWrite d th th') (hr : d.row = .cmpp ∨ d.row = .cmppi ∨ d.row = .plogic) (n : Nat) (v : Bool) :
    RegWrite d th (th'.setPred n v) := by
  unfold Thread.setPred
  split
  · exact h
  · exact ⟨h.ring, h.reg, h.flags, fun h1 h2 h3 => by simp_all, h.seg, h.krr, h.vbr, h.esp, h.cause⟩

/-- LOOP and LOOPI write the loop registers and SR.LA, and none of the others. -/
theorem RegWrite.loop (d : Dec) (th : Thread) (ls le lc : W64) (v : Nat) :
    RegWrite d th ({ th with ls := ls, le := le, lc := lc }.setSr 8 1 v) where
  ring := setSr_ring _ (by decide) (by decide)
  reg r _ := setSr_reg _ (by decide) (by decide) r
  flags _ _ _ := setSr_flags _ (by decide) (by decide)
  p _ _ _ := rfl
  seg := rfl
  krr := rfl
  vbr := rfl
  esp := rfl
  cause := rfl

/-! ### The completion behind it -/

/-- The loop step leaves SR, or clears its LA. -/
theorem looped_sr (old new : Thread) (lc la : Bool) :
    (looped old new lc la).sr = new.sr ∨ (looped old new lc la).sr = (new.setSr 8 1 0).sr := by
  by_cases he : old.atLoopEnd
  · rcases passes_cases old with hp | hp | hp
    · rw [looped_spent _ _ _ he hp]; exact .inl rfl
    · rw [looped_last _ _ _ he hp]
      cases la
      · exact .inr rfl
      · exact .inl rfl
    · rw [looped_again _ _ _ he hp]; exact .inl rfl
  · rw [looped_outside _ _ _ he]; exact .inl rfl

/-- The completion leaves SR as the instruction left it, but for LA. -/
theorem complete_sr (s : State) (k : Nat) (old th : Thread) (prod : Option Product) (tgt : Option W64) :
    ((complete s k old th prod tgt).thread k).sr = th.sr ∨ ((complete s k old th prod tgt).thread k).sr = (th.setSr 8 1 0).sr := by
  obtain ⟨l, u, hs, -, -⟩ := shiftProducts_keeps th prod
  cases tgt with
  | some a => rw [complete_branch, goOn_thread, hs]; exact .inl rfl
  | none =>
    have h := looped_sr old (th.shiftProducts prod) false false
    rw [hs] at h
    rw [complete_next, goOn_thread, hs]
    exact h

theorem complete_ring (s : State) (k : Nat) (old th : Thread) (prod : Option Product) (tgt : Option W64) :
    ((complete s k old th prod tgt).thread k).ring = th.ring := by
  unfold Thread.ring
  rcases complete_sr s k old th prod tgt with h | h <;> rw [h]
  exact setSr_ring th (by decide) (by decide)

theorem complete_flags (s : State) (k : Nat) (old th : Thread) (prod : Option Product) (tgt : Option W64) :
    ((complete s k old th prod tgt).thread k).flags = th.flags := by
  unfold Thread.flags
  rcases complete_sr s k old th prod tgt with h | h <;> rw [h]
  exact setSr_flags th (by decide) (by decide)

/-- General registers pass a completion as the instruction left them. -/
theorem complete_reg (s : State) (k : Nat) (old th : Thread) (prod : Option Product) (tgt : Option W64) (r : Nat) :
    ((complete s k old th prod tgt).thread k).reg r = th.reg r := by
  obtain ⟨hg, hg30, -⟩ := complete_registers s k old th prod tgt
  unfold Thread.reg
  rw [complete_ring, hg, hg30]

/-! ### The rows -/

/-- A row whose operation writes registers alone completes with them. -/
theorem writes_complete (h : issued s t w = some (th, d, s1)) {r : CoreRow} (hr : d.row = r) (f : Cx → State → OpEnd) {x : Thread}
    {prod : Option Product} {tgt : Option W64} (hd : f (runCx s t th w d) s1 = .done s1 x prod tgt) (hw : RegWrite d th x)
    (hi : exec i s = .next (coreRow (fun d => d.row == r) t w s) := by rfl) (hne : r ≠ .endp := by decide)
    (hf : ∀ c s, c.d.row = r → opExec c s = f c s := by intro c s hc; simp only [opExec, hc]) :
    ∃ th' prod tgt, exec i s = .next (complete s1 (s.tkey t) th th' prod tgt) ∧ RegWrite d th th' :=
  ⟨x, prod, tgt, by rw [exec_row h hr f hi hne hf, hd]; rfl, hw⟩

theorem RegWrite.ite {c : Prop} [Decidable c] {a b : Thread} (ha : RegWrite d th a) (hb : RegWrite d th b) :
    RegWrite d th (if c then a else b) := by
  split <;> assumption

/-- LOOP and LOOPI disarm the loop for a count of 0 and go on behind it, and arm it for any other (R90, R121). -/
theorem opLoop_done (cnt : W64) (c : Cx) (s : State) : opLoop cnt c s =
    .done s ({ c.th with ls := c.th.pc + 4, le := c.th.pc + 4 + 4 * c.d.imm, lc := cnt }.setSr 8 1 (if cnt = 0 then 0 else 1)) none
      (some (if cnt = 0 then c.th.pc + 4 + 4 * c.d.imm + 4 else c.th.pc + 4)) := by
  unfold opLoop
  split <;> rfl

/-- The rows whose operation writes registers of its thread alone, and their commands. -/
def registerRow (d : Dec) (i : Instr) (t : ThreadId) (w : W32) : Prop :=
  d.row = .alu ∧ i = .alu t w ∨ d.row = .addi ∧ i = .addi t w ∨ d.row = .andi ∧ i = .andi t w ∨ d.row = .ori ∧ i = .ori t w ∨
    d.row = .xori ∧ i = .xori t w ∨ d.row = .shi ∧ i = .shi t w ∨ d.row = .cmpi ∧ i = .cmpi t w ∨ d.row = .movw ∧ i = .movw t w ∨
    d.row = .mul ∧ i = .mul t w ∨ d.row = .mulu ∧ i = .mulu t w ∨ d.row = .cmpp ∧ i = .cmpp t w ∨ d.row = .cmppi ∧ i = .cmppi t w ∨
    d.row = .plogic ∧ i = .plogic t w ∨ d.row = .mfs ∧ i = .mfs t w ∨ d.row = .br ∧ i = .br t w ∨ d.row = .loopReg ∧ i = .loopReg t w ∨
    d.row = .loopi ∧ i = .loopi t w

/-- A register row completes with what it wrote. -/
theorem registerRow_completes (h : issued s t w = some (th, d, s1)) (hi : registerRow d i t w) :
    ∃ th' prod tgt, exec i s = .next (complete s1 (s.tkey t) th th' prod tgt) ∧ RegWrite d th th' := by
  have hput := RegWrite.setReg d th
  have hsame := RegWrite.refl d th
  rcases hi with ⟨hr, rfl⟩ | ⟨hr, rfl⟩ | ⟨hr, rfl⟩ | ⟨hr, rfl⟩ | ⟨hr, rfl⟩ | ⟨hr, rfl⟩ | ⟨hr, rfl⟩ | ⟨hr, rfl⟩ | ⟨hr, rfl⟩ | ⟨hr, rfl⟩ | ⟨hr, rfl⟩ |
    ⟨hr, rfl⟩ | ⟨hr, rfl⟩ | ⟨hr, rfl⟩ | ⟨hr, rfl⟩ | ⟨hr, rfl⟩ | ⟨hr, rfl⟩
  · exact writes_complete h hr opAlu rfl (((hput _).setFlags (.inl hr) _).ite (hput _))
  · exact writes_complete h hr (opImm 0x00) rfl (hput _)
  · exact writes_complete h hr (opImm 0x04) rfl (hput _)
  · exact writes_complete h hr (opImm 0x05) rfl (hput _)
  · exact writes_complete h hr (opImm 0x06) rfl (hput _)
  · exact writes_complete h hr opShi rfl (((hput _).setFlags (.inr (.inl hr)) _).ite (hput _))
  · exact writes_complete h hr opCmpi rfl (hsame.setFlags (.inr (.inr hr)) _)
  · exact writes_complete h hr opMovw rfl (hput _)
  · exact writes_complete h hr (opMul true) rfl hsame
  · exact writes_complete h hr (opMul false) rfl hsame
  · exact writes_complete h hr (fun c => opCmp c.b c) rfl ((hsame.setPred (.inl hr) _ _).setPred (.inl hr) _ _)
  · exact writes_complete h hr (fun c => opCmp c.d.imm c) rfl ((hsame.setPred (.inr (.inl hr)) _ _).setPred (.inr (.inl hr)) _ _)
  · exact writes_complete h hr opPlogic rfl (hsame.setPred (.inr (.inr hr)) _ _)
  · exact writes_complete h hr opMfs rfl (hput _)
  · exact writes_complete h hr opBr rfl hsame
  · exact writes_complete h hr (fun c => opLoop c.a c) (opLoop_done _ _ _) (RegWrite.loop ..)
  · exact writes_complete h hr (fun c => opLoop (BitVec.ofNat 64 c.d.fn) c) (opLoop_done _ _ _) (RegWrite.loop ..)

/-- Settles O11: the fetch leaves what `Fetched` says, and a completion behind it what `complete_frame` and `RegWrite` say. -/
theorem registerRowsFrame : Obligations.RegisterRowsFrame := by
  unfold Obligations.RegisterRowsFrame
  intro s s1 s' t w th d i h hi hs'
  obtain ⟨x, prod, tgt, hx, hw⟩ := registerRow_completes h hi
  obtain rfl : complete s1 (s.tkey t) th x prod tgt = s' := Host.Outcome.next.inj (hx.symm.trans hs')
  have hf := issued_fetched h
  obtain ⟨hother, hmem, hregs, htrios, -, hsent, hraised, hpending⟩ := complete_frame s1 (s.tkey t) th x prod tgt
  obtain ⟨-, -, hp, hseg, hvbr, hesp, hkrr, -, -, hcause, -⟩ := complete_registers s1 (s.tkey t) th x prod tgt
  obtain ⟨⟨hbuf, -⟩, -⟩ := complete_landing s1 (s.tkey t) th x prod tgt
  exact ⟨fun a => by rw [hmem, hf.mem], fun j hj => (hother j hj).trans (State.thread_congr hf.threads j),
    fun key hk => (State.rd_congr hregs key).trans (hf.rd key hk), fun m => by rw [State.trio_congr htrios, ← hf.trio],
    hsent.trans hf.sent, hraised.trans hf.raised, hpending.trans hf.pending,
    fun r hr => (complete_reg _ _ _ _ _ _ r).trans (hw.reg r hr), rfl,
    fun h1 h2 h3 => (complete_flags _ _ _ _ _ _).trans (hw.flags h1 h2 h3), fun h1 h2 h3 => hp.trans (hw.p h1 h2 h3),
    hseg.trans hw.seg, hbuf.trans (issued_buf h), hkrr.trans hw.krr, hvbr.trans hw.vbr, hesp.trans hw.esp, hcause.trans hw.cause⟩

end Sys2Proof.Machine
end

section
/-! Checked accesses and stores into the store buffer (R99, R122, R181). -/
namespace Sys2Proof.Machine

variable {s s1 s2 : State} {t : ThreadId} {w : W32} {th : Thread} {d : Dec} {i : Instr} {a : MAcc} {c : Cx} {ps : List (Nat × Nat)}

/-! ### Checks -/

theorem Translated.refl (s : State) : Translated s s := ⟨rfl, rfl, rfl, rfl, rfl, rfl, fun _ _ => rfl⟩

theorem pieces_translated : ∀ {l ps : List (Nat × Nat)} {s s2 : State}, a.pieces c l s = .ok (ps, s2) → Translated s s2
  | [], _, s, _, h => by
    obtain ⟨rfl, rfl⟩ := Prod.mk.inj (Except.ok.inj h)
    exact .refl s
  | (la, n) :: l, _, s, _, h => by
    unfold MAcc.pieces at h
    split at h
    · cases h
    · next pa s1 hp =>
      split at h
      · cases h
      · next qs s2' hl =>
        obtain ⟨rfl, rfl⟩ := Prod.mk.inj (Except.ok.inj h)
        exact (piece_ok_cases hp).translated.trans (pieces_translated hl)

/-- A check that passes leaves everything but the translation caches and WALK_CNT. -/
theorem check_translated (h : a.check c s = .ok (ps, s1)) : Translated s s1 := pieces_translated h

/-- Behind the fetch and a check the thread's share of the store buffer is as it was. -/
theorem checked_buf (h : issued s t w = some (th, d, s1)) (hc : a.check c s1 = .ok (ps, s2)) : (s2.thread (s.tkey t)).buf = th.buf := by
  rw [State.thread_congr (check_translated hc).threads, issued_buf h]

theorem checked_mem (h : issued s t w = some (th, d, s1)) (hc : a.check c s1 = .ok (ps, s2)) : s2.mem = s.mem :=
  (check_translated hc).mem.trans (issued_fetched h).mem

theorem Thread.ring_lt (th : Thread) : th.ring < 4 := Nat.mod_lt _ (by decide)

theorem fin4_ring (th : Thread) : (fin4 th.ring).val = th.ring := Nat.mod_eq_of_lt th.ring_lt

/-! ### The store buffer -/

@[simp] theorem pushBuf_thread (s : State) (k : Nat) (o : OutEnt) : (s.pushBuf k o).thread k =
    { s.thread k with buf := (s.thread k).buf ++ [o], tlbis := (s.thread k).tlbis + b2n o.what.isTlbi } := State.setThread_same s k _

/-- The entry of a checked store. -/
def storeEnt (c : Cx) (a : MAcc) (ps : List (Nat × Nat)) (data : List Byte) (s : State) : OutEnt :=
  ⟨c.t, fin4 a.ring, c.part s a.ring, false, .store (a.la c.th) (cutData ps data)⟩

/-- A checked store finds room in its thread's share, or waits for it (R99). -/
theorem storeAcc_checked (hc : a.check c s = .ok (ps, s1)) (data : List Byte) : storeAcc c a data s =
    if (s1.thread c.k).buf.length < 4 then .ok (s1.pushBuf c.k (storeEnt c a ps data s1)) else .error (.wait s1 (.space c.w)) := by
  unfold storeAcc
  rw [hc]
  by_cases hn : (s1.thread c.k).buf.length < 4
  · rw [if_pos hn]
    exact if_neg (by omega)
  · rw [if_neg hn]
    exact if_pos (by omega)

/-! ### The rows -/

theorem rowAcc_store (s : State) (t : ThreadId) (th : Thread) (w : W32) (d : Dec) (x : Bool) :
    (runCx s t th w d).acc d.seg ((runCx s t th w d).off x) (2 ^ d.sz) 1 2 .write = rowAcc th d x true := by
  cases x <;> rfl

/-- The bytes that a store puts out (R122). -/
def storeBytes (th : Thread) (d : Dec) : List Byte := leBytes (2 ^ d.sz) (th.reg d.rd).toNat

/-- A store whose entry finds room completes. -/
theorem opStore_puts {x : Bool} (ha : storeAcc c (c.acc c.d.seg (c.off x) (2 ^ c.d.sz) 1 2 .write) (storeBytes c.th c.d) s = .ok s1) :
    opStore x c s = .done s1 c.th none none := by
  unfold storeBytes at ha
  simp only [opStore, ha]

/-- A store whose access stops goes on as the access says. -/
theorem opStore_stops {x : Bool} {f : OpEnd}
    (ha : storeAcc c (c.acc c.d.seg (c.off x) (2 ^ c.d.sz) 1 2 .write) (storeBytes c.th c.d) s = .error f) : opStore x c s = f := by
  unfold storeBytes at ha
  simp only [opStore, ha]

/-- A store row with its access checked completes with its entry in the store buffer, or waits for space. -/
theorem store_row (h : issued s t w = some (th, d, s1)) {x : Bool} (hc : (rowAcc th d x true).check (runCx s t th w d) s1 = .ok (ps, s2))
    (hx : exec i s = .next (settle (fetchCx s t th w) (opStore x (runCx s t th w d) s1))) :
    exec i s = if th.buf.length < 4 then
        .next (complete (s2.pushBuf (s.tkey t) (storeEnt (runCx s t th w d) (rowAcc th d x true) ps (storeBytes th d) s2)) (s.tkey t) th th
          none none)
      else .next (stall (fetchCx s t th w) s2 (.space w)) := by
  have hb : (s2.thread (runCx s t th w d).k).buf = th.buf := checked_buf h hc
  have ha := storeAcc_checked hc (storeBytes th d)
  rw [hb] at ha
  rw [← rowAcc_store s t th w d x] at ha
  by_cases hn : th.buf.length < 4
  · rw [if_pos hn] at ha
    rw [if_pos hn, ← rowAcc_store s t th w d x]
    exact exec_settles hx (opStore_puts ha)
  · rw [if_neg hn] at ha
    rw [if_neg hn]
    exact exec_settles hx (opStore_stops ha)

/-- Settles O15: every store row is `opStore`, whose check changes no memory. -/
theorem storeRows : Obligations.StoreRows := by
  unfold Obligations.StoreRows
  intro s s1 t w th d h k c x ps s2 hc
  have hpart {i : Instr} {n : Nat} (hx : x = false) (hr : d.row = .store) (hz : d.sz = n)
      (hi : exec i s = .next (coreRow (fun d => d.row == .store && d.sz == n) t w s)) :=
    store_row h hc (hx ▸ exec_part h hr (opStore false) hi (by simp [hr, hz]))
  refine ⟨storeEnt c (rowAcc th d x true) ps (storeBytes th d) s2, rfl, fin4_ring th, rfl, rfl, ?buf, ?rows, fun a => ?mem⟩
  case buf => rw [pushBuf_thread, ← checked_buf h hc]
  case rows =>
    exact ⟨fun hx hr hz => hpart hx hr hz rfl, fun hx hr hz => hpart hx hr hz rfl, fun hx hr hz => hpart hx hr hz rfl,
      fun hx hr hz => hpart hx hr hz rfl, fun hx hr => store_row h hc (hx ▸ exec_row h hr (opStore true))⟩
  case mem => rw [checked_mem h hc]

end Sys2Proof.Machine
end

section
/-! Loops, calls and returns (R90, R120, R121). -/
namespace Sys2Proof.Machine

variable {s s1 s2 : State} {t : ThreadId} {w : W32} {th : Thread} {d : Dec} {i : Instr} {c : Cx} {tgt : W64}

theorem loop_row (cnt : W64) (hx : exec i s = .next (settle (fetchCx s t th w) (opLoop cnt (runCx s t th w d) s1))) : exec i s =
    if cnt = 0 then
      .next (complete s1 (s.tkey t) th ({ th with ls := th.pc + 4, le := th.pc + 4 + 4 * d.imm, lc := 0 }.setSr 8 1 0) none
        (some (th.pc + 4 + 4 * d.imm + 4)))
    else
      .next (complete s1 (s.tkey t) th ({ th with ls := th.pc + 4, le := th.pc + 4 + 4 * d.imm, lc := cnt }.setSr 8 1 1) none
        (some (th.pc + 4))) := by
  rw [hx, opLoop_done]
  split
  · subst cnt; rfl
  · rfl

/-! ### Calls -/

/-- The frame access of a call (R120). -/
def callAcc (th : Thread) : MAcc := ⟨some 1, (th.reg 30 - 16).toNat, 16, 6, 2, false, true, th.ring, .write, some (th.reg 30, 0)⟩

/-- The frame that a call pushes: return address and link. -/
def callFrame (th : Thread) : List Byte := leBytes 8 (th.pc + 4).toNat ++ leBytes 8 (th.reg 30).toNat

/-- A call off the alignment of its stack. -/
theorem opCall_stack (hs : bf (c.th.reg 30) 0 4 ≠ 0) : opCall tgt c s = .exc s ⟨0x05, c.th.reg 30 - 16, segFinfo 6 1 3 c.th.ring⟩ := by
  refine (if_pos hs).trans ?_
  rw [BitVec.ofNat_toNat, BitVec.setWidth_eq]

/-- A call to a target off its alignment. -/
theorem opCall_target (hs : bf (c.th.reg 30) 0 4 = 0) (ht : bf tgt 0 2 ≠ 0) :
    opCall tgt c s = .exc s ⟨0x05, tgt, segFinfo 2 0 4 c.th.ring⟩ := (if_neg (not_not.2 hs)).trans (if_pos ht)

/-- A call with room in the store buffer. -/
theorem opCall_pushes (hs : bf (c.th.reg 30) 0 4 = 0) (ht : bf tgt 0 2 = 0) (ha : storeAcc c (callAcc c.th) (callFrame c.th) s = .ok s1) :
    opCall tgt c s = .done s1 (c.th.setReg 30 (c.th.reg 30 - 16)) none (some tgt) := by
  unfold callAcc callFrame at ha
  unfold opCall
  rw [if_neg (not_not.2 hs), if_neg (not_not.2 ht)]
  simp only [ha]

theorem call_row (h : issued s t w = some (th, d, s1)) (hx : exec i s = .next (settle (fetchCx s t th w) (opCall tgt (runCx s t th w d) s1))) :
    (bf (th.reg 30) 0 4 = 0 → bf tgt 0 2 = 0 → ∀ ps s2, (callAcc th).check (runCx s t th w d) s1 = .ok (ps, s2) → th.buf.length < 4 →
      ∃ o : OutEnt, o.tid = t ∧ o.ring.val = th.ring ∧ o.what = .store ((callAcc th).la th) (cutData ps (callFrame th)) ∧
        exec i s = .next (complete (s2.pushBuf (s.tkey t) o) (s.tkey t) th (th.setReg 30 (th.reg 30 - 16)) none (some tgt))) ∧
    (bf (th.reg 30) 0 4 ≠ 0 → exec i s = .next (takeExc s1 t (s.tkey t) th ⟨0x05, th.reg 30 - 16, segFinfo 6 1 3 th.ring⟩)) ∧
    (bf (th.reg 30) 0 4 = 0 → bf tgt 0 2 ≠ 0 → exec i s = .next (takeExc s1 t (s.tkey t) th ⟨0x05, tgt, segFinfo 2 0 4 th.ring⟩)) := by
  refine ⟨fun hs ht ps s2 hc hn => ?_, fun hs => ?_, fun hs ht => ?_⟩
  · refine ⟨storeEnt (runCx s t th w d) (callAcc th) ps (callFrame th) s2, rfl, fin4_ring th, rfl, ?_⟩
    have hb : (s2.thread (runCx s t th w d).k).buf.length < 4 := by rw [show (runCx s t th w d).k = s.tkey t from rfl, checked_buf h hc]; exact hn
    have ha := (storeAcc_checked hc (callFrame th)).trans (if_pos hb)
    exact exec_settles hx (opCall_pushes (c := runCx s t th w d) hs ht ha)
  · exact exec_settles hx (opCall_stack (c := runCx s t th w d) hs)
  · exact exec_settles hx (opCall_target (c := runCx s t th w d) hs ht)

/-! ### Returns -/

/-- The frame access of RET (R120). -/
def retAcc (th : Thread) : MAcc := ⟨some 1, (th.reg 30).toNat, 16, 6, 1, false, true, th.ring, .read, some (th.reg 30, 1)⟩

/-- RET by the return address and the link of the frame it reads. -/
theorem opRet_read {d1 d2 : List Byte} (hl : d1.length = 8) (ha : loadAcc c (retAcc c.th) s = .ok (d1 ++ d2, s1)) : opRet c s =
    if BitVec.ofNat 64 (leNat d2) ≠ c.th.reg 30 + 16 then .exc s1 ⟨0x0D, c.th.reg 30, 1⟩
    else if bf (BitVec.ofNat 64 (leNat d1)) 0 2 ≠ 0 then .exc s1 ⟨0x05, BitVec.ofNat 64 (leNat d1), segFinfo 2 0 4 c.th.ring⟩
    else .done s1 (c.th.setReg 30 (c.th.reg 30 + 16)) none (some (BitVec.ofNat 64 (leNat d1))) := by
  unfold retAcc at ha
  simp only [opRet, ha, List.take_left' hl, List.drop_left' hl, targetExc]

/-- Settles O12: LOOP and LOOPI by `opLoop_done`, the calls by `call_row`, RET by `opRet_read`. -/
theorem loopAndCallRows : Obligations.LoopAndCallRows := by
  unfold Obligations.LoopAndCallRows
  refine ⟨fun s s1 t w th d h => ⟨fun hr => ?loop, fun hr => ?loopi⟩, fun s s1 t w th d h => ⟨fun i tgt hi => ?call, fun hr d1 d2 s2 hl ha => ?ret⟩⟩
  case loop => exact loop_row _ (exec_row h hr (fun c => opLoop c.a c))
  case loopi => exact loop_row _ (exec_row h hr (fun c => opLoop (BitVec.ofNat 64 c.d.fn) c))
  case call =>
    rcases hi with ⟨hr, rfl, rfl⟩ | ⟨hr, rfl, rfl⟩
    · exact call_row h (exec_row h hr (fun c => opCall (c.th.pc + c.d.imm) c))
    · exact call_row h (exec_row h hr (fun c => opCall c.a c))
  case ret =>
    have hx := exec_settles (exec_row (i := .ret t w) h hr opRet) (opRet_read hl ha)
    exact ⟨fun hk hb => exec_settles hx ((if_neg (not_not.2 hk)).trans (if_neg (not_not.2 hb))),
      fun hk hb => exec_settles hx ((if_neg (not_not.2 hk)).trans (if_pos hb)), fun hk => exec_settles hx (if_pos hk)⟩

end Sys2Proof.Machine
end

section
/-! Block instructions and their chunks (R93 to R97). -/
namespace Sys2Proof.Machine

variable {s s1 s2 : State} {t : ThreadId} {w : W32} {th : Thread} {d : Dec} {i : Instr} {c : Cx} {e : BusResult} {data : List Byte}

/-- The issue of a block instruction: one with nothing left completes, any other waits for the block unit. -/
theorem block_row (h : issued s t w = some (th, d, s1)) (hr : d.row = .blk) {p : Dec → Bool} (hi : exec i s = .next (coreRow p t w s))
    (hp : p d = true) :
    (th.reg d.rb = 0 → exec i s = .next (complete s1 (s.tkey t) th th none none)) ∧
    (th.reg d.rb ≠ 0 → exec i s = .next (stall (fetchCx s t th w) s1 (.blk w none))) :=
  have hx := exec_part h hr (fun c s => if c.b = 0 then .done s c.th none none else .wait s (.blk c.w none)) hi hp
  ⟨fun hn => exec_settles hx (if_pos hn), fun hn => exec_settles hx (if_neg hn)⟩

theorem goesOn_entryFirst (h : goesOn s t) : s.entryFirst t (s.thread (s.tkey t)).awake = false := by
  obtain ⟨-, herr, hirq⟩ := h
  unfold State.entryFirst
  rw [hirq, show (s.thread (s.tkey t)).awake.err = none from herr]
  rfl

/-- The instruction in hand of a thread that the block unit serves. -/
def chunkCx (s : State) (t : ThreadId) (w : W32) (d : Dec) : Cx := ⟨t, s.tkey t, (s.thread (s.tkey t)).awake, w, d, [], none⟩

/-- A chunk of an instruction that goes on is `opChunk`. -/
theorem blockChunk_runs (hst : (s.thread (s.tkey t)).st = .stalled (.blk w none)) (hd : decodeOp w = .ok d) (hg : goesOn s t) :
    exec (.blockChunk t e) s = .next (ceEnd (s.tkey t) (settle (chunkCx s t w d) (opChunk e false (chunkCx s t w d) s))) := by
  have hb : blockChunk t e s = ceEnd (s.tkey t) (settle (chunkCx s t w d) (opChunk e false (chunkCx s t w d) s)) := by
    unfold blockChunk
    simp only [hst, hd, hg.1, goesOn_entryFirst hg, Option.isSome_none, Bool.false_eq_true, false_and, or_self, if_false]
    rfl
  exact congrArg Host.Outcome.next hb

/-- What a chunk leaves: the instruction completes when its count reaches 0, else it waits for the next chunk. -/
theorem blkEnd_settles (c : Cx) (x : Thread) (s : State) : (Host.Outcome.next (ceEnd c.k (settle c (blkEnd c x s))) : Res) =
    if x.reg c.d.rb = 0 then .next (ceEnd c.k (complete s c.k c.th x none none))
    else .next (ceEnd c.k (s.setThread c.k { x.land (s.thread c.k) with st := .stalled (.blk c.w none), part := c.th.part })) := by
  unfold blkEnd
  split <;> rfl

/-! ### Chunks -/

theorem opChunk_fill (hf : c.d.fn = 1) {n : Nat} (hn : n = upTo64 (c.th.reg c.d.rd).toNat c.b.toNat)
    (hw : blkWrite c (c.th.reg c.d.rd).toNat (fillBytes c.a (c.th.reg c.d.rd).toNat n) s = .ok s1) :
    opChunk e false c s = blkEnd c (blkAdvance c false false n) s1 := by
  subst hn
  simp only [opChunk, hf, hw]

theorem opChunk_up (hf : c.d.fn = 0) (hu : ¬ (c.a.toNat < (c.th.reg c.d.rd).toNat ∧ (c.th.reg c.d.rd).toNat < c.a.toNat + c.b.toNat))
    {n : Nat} (hn : n = upTo64 (c.th.reg c.d.rd).toNat c.b.toNat) (hr : blkRead c c.a.toNat n e false s = .ok (data, s1))
    (hw : blkWrite c (c.th.reg c.d.rd).toNat data s1 = .ok s2) : opChunk e false c s = blkEnd c (blkAdvance c true false n) s2 := by
  subst hn
  have hdown : (decide (c.a.toNat < (c.th.reg c.d.rd).toNat) && decide ((c.th.reg c.d.rd).toNat < c.a.toNat + c.b.toNat)) = false := by
    simpa only [Bool.and_eq_false_iff, decide_eq_false_iff_not, ← not_and_or] using hu
  simp only [opChunk, hf, hdown, Bool.false_eq_true, if_false, Nat.sub_self, Nat.add_zero, hr, hw]

theorem opChunk_down (hf : c.d.fn = 0) (h1 : c.a.toNat < (c.th.reg c.d.rd).toNat) (h2 : (c.th.reg c.d.rd).toNat < c.a.toNat + c.b.toNat)
    {b n : Nat} (hb : chunkDown (c.th.reg c.d.rd).toNat c.b.toNat = (b, n))
    (hr : blkRead c (c.a.toNat + (b - (c.th.reg c.d.rd).toNat)) n e false s = .ok (data, s1)) (hw : blkWrite c b data s1 = .ok s2) :
    opChunk e false c s = blkEnd c (blkAdvance c true true n) s2 := by
  have hdown : (decide (c.a.toNat < (c.th.reg c.d.rd).toNat) && decide ((c.th.reg c.d.rd).toNat < c.a.toNat + c.b.toNat)) = true := by
    rw [decide_eq_true h1, decide_eq_true h2]; rfl
  simp only [opChunk, hf, hdown, if_true, hb, hr, hw]

theorem opChunk_crc (hf : 2 ≤ c.d.fn) {n : Nat} (hn : n = upTo64 c.a.toNat c.b.toNat) (hr : blkRead c c.a.toNat n e false s = .ok (data, s1)) :
    opChunk e false c s =
      blkEnd c ((blkAdvance c true false n).setReg c.d.rd (crcBytes (c.d.fn - 2) (c.th.reg c.d.rd) data)) s1 := by
  subst hn
  unfold opChunk
  split
  case h_1 h0 => omega
  case h_2 h1 => omega
  case h_3 => simp only [hr]

/-! ### The operands behind a chunk -/

theorem blkAdvance_fill (hf : c.d.fn = 1) (n : Nat) : blkAdvance c false false n =
    (c.th.setReg c.d.rb (c.b - BitVec.ofNat 64 n)).setReg c.d.rd (c.th.reg c.d.rd + BitVec.ofNat 64 n) := by
  simp only [blkAdvance, hf, Bool.false_eq_true, if_false, Nat.le_refl, if_true]

theorem blkAdvance_up (hf : c.d.fn = 0) (n : Nat) : blkAdvance c true false n =
    ((c.th.setReg c.d.rb (c.b - BitVec.ofNat 64 n)).setReg c.d.rd (c.th.reg c.d.rd + BitVec.ofNat 64 n)).setReg c.d.ra
      (c.a + BitVec.ofNat 64 n) := by
  simp only [blkAdvance, hf, Bool.false_eq_true, if_false, Nat.zero_le, if_true]

theorem blkAdvance_down (n : Nat) : blkAdvance c true true n = c.th.setReg c.d.rb (c.b - BitVec.ofNat 64 n) := rfl

theorem blkAdvance_crc (hf : 2 ≤ c.d.fn) (n : Nat) : blkAdvance c true false n =
    ((c.th.setReg c.d.rb (c.b - BitVec.ofNat 64 n)).setReg c.d.rd (c.th.reg c.d.rd)).setReg c.d.ra (c.a + BitVec.ofNat 64 n) := by
  simp only [blkAdvance, Bool.false_eq_true, if_false, if_neg (show ¬ c.d.fn ≤ 1 by omega), if_true, BitVec.ofNat_eq_ofNat, BitVec.add_zero]

/-- Settles O18: the issue by `block_row`, each chunk by its case of `opChunk`. -/
theorem blockRows : Obligations.BlockRows := by
  unfold Obligations.BlockRows
  refine ⟨fun s s1 t w th d i h hr hi => ?issue, ?chunk⟩
  case issue =>
    rcases hi with ⟨hf, rfl⟩ | ⟨hf, rfl⟩ | ⟨hf, rfl⟩ | ⟨hf, rfl⟩ | ⟨hf, rfl⟩
    all_goals exact block_row h hr rfl (by simp [hr, hf])
  case chunk =>
    intro s s1 s2 t w d e data k th c gd gs gn after hst hd _ hg
    have hx {o : OpEnd} (ho : opChunk e false (chunkCx s t w d) s = o) :
        exec (.blockChunk t e) s = .next (ceEnd k (settle c o)) := ho ▸ blockChunk_runs hst hd hg
    refine ⟨fun hf hw => ?fill, fun hf hu hr hw => ?up, fun hf h1 h2 hr hw => ?down, fun hf _ hr => ?crc⟩
    case fill =>
      rw [hx (opChunk_fill (c := chunkCx s t w d) hf rfl hw), blkAdvance_fill (c := chunkCx s t w d) hf]
      exact blkEnd_settles c _ s2
    case up =>
      rw [hx (opChunk_up (c := chunkCx s t w d) hf hu rfl hr hw), blkAdvance_up (c := chunkCx s t w d) hf]
      exact blkEnd_settles c _ s2
    case down =>
      rw [hx (opChunk_down (c := chunkCx s t w d) hf h1 h2 rfl hr hw)]
      exact blkEnd_settles c _ s2
    case crc =>
      rw [hx (opChunk_crc (c := chunkCx s t w d) hf rfl hr), blkAdvance_crc (c := chunkCx s t w d) hf]
      exact blkEnd_settles c _ s1

end Sys2Proof.Machine
end

section
/-! SYNC, SYNC.TLB, ICI and TLBI, and the end of an invalidation (R59, R100, R126, R188, R189). -/
namespace Sys2Proof.Machine

variable {s s1 s2 : State} {t : ThreadId} {w : W32} {th : Thread} {d : Dec} {i : Instr} {c : Cx}

/-! ### SYNC -/

/-- In PAIR a checkpoint stands before SYNC; it must not have ended in a reset. -/
abbrev syncedTo (n : Nat) (s s' : State) : Prop := (s.conf n ≠ 1 ∧ s' = s) ∨ (s.conf n = 1 ∧ s' = checkpoint n true s ∧ s'.sameRun s = true)

theorem syncedTo_eq {n : Nat} (h : syncedTo n s s1) : earlyCheckpoint n s = s1 ∧ s1.sameRun s = true := by
  unfold earlyCheckpoint
  rcases h with ⟨hc, rfl⟩ | ⟨hc, rfl, hr⟩
  · exact ⟨if_neg hc, beq_self_eq_true _⟩
  · exact ⟨if_pos hc, hr⟩

/-- SYNC by the stores that are left. -/
theorem opSync_synced (hl : c.ld = none) (h : syncedTo c.t.trio.val s s1) : opSync c s =
    if pendingStores s1 c.t c.k = [] then .done s1 c.th none none else .wait s1 (.sync c.w) := by
  obtain ⟨he, hr⟩ := syncedTo_eq h
  simp only [opSync, hl, he, hr, Option.isSome_none, Bool.false_eq_true, if_false, not_true_eq_false, List.isEmpty_iff]

/-- SYNC.TLB by the invalidations under way. -/
theorem opSyncTlb_synced (hl : c.ld = none) (h : syncedTo c.t.trio.val s s1) : opSyncTlb c s =
    if (s1.thread c.k).tlbis = 0 then .done s1 c.th none none else .wait s1 (.syncTlb c.w) := by
  obtain ⟨he, hr⟩ := syncedTo_eq h
  simp only [opSyncTlb, hl, he, hr, Option.isSome_none, Bool.false_eq_true, if_false, not_true_eq_false]

/-! ### TLBI -/

theorem issued_tlbis (h : issued s t w = some (th, d, s1)) : (s1.thread (s.tkey t)).tlbis = th.tlbis := by
  rw [issued_threads h]
  rcases issuing_thread (issued_parts h).1 with rfl | rfl <;> rfl

/-- A TLBI takes an entry of the store buffer, or waits for one. -/
theorem opTlbi_cases (c : Cx) (s : State) : opTlbi c s = if 4 ≤ (s.thread c.k).buf.length then .wait s (.space c.w)
    else .done (s.pushBuf c.k (c.out s (.tlbi c.d.fn (c.part s c.th.ring) c.a))) c.th none none := rfl

theorem tlbi_row (h : issued s t w = some (th, d, s1)) (hr : d.row = .tlbi) {p : Dec → Bool} (hi : exec i s = .next (coreRow p t w s))
    (hp : p d = true) :
    (th.buf.length < 4 → ∃ o : OutEnt, o.tid = t ∧ o.what = .tlbi d.fn ((runCx s t th w d).part s1 th.ring) (th.reg d.ra) ∧
      ((s1.pushBuf (s.tkey t) o).thread (s.tkey t)).buf = th.buf ++ [o] ∧
      ((s1.pushBuf (s.tkey t) o).thread (s.tkey t)).tlbis = th.tlbis + 1 ∧
      exec i s = .next (complete (s1.pushBuf (s.tkey t) o) (s.tkey t) th th none none)) ∧
    (4 ≤ th.buf.length → exec i s = .next (stall (fetchCx s t th w) s1 (.space w))) := by
  have hx := exec_settles (exec_part h hr opTlbi hi hp) (opTlbi_cases _ _)
  have hb : (s1.thread (runCx s t th w d).k).buf = th.buf := issued_buf h
  rw [hb] at hx
  refine ⟨fun hn => ?_, fun hn => exec_settles hx (if_pos hn)⟩
  refine ⟨_, rfl, rfl, ?_, ?_, exec_settles hx (if_neg (by omega))⟩
  · rw [← hb]; exact congrArg Thread.buf (pushBuf_thread s1 _ _)
  · rw [← issued_tlbis h]; exact congrArg Thread.tlbis (pushBuf_thread s1 _ _)

/-! ### The end of an invalidation -/

theorem setTlbs_tlbs_same (s : State) (k : Nat) (x : Tlbs) : (s.setTlbs k x).tlbs k = x := Tab.get_set_same _ _ _ _

theorem setTlbs_tlbs_other (s : State) {k j : Nat} (h : j ≠ k) (x : Tlbs) : (s.setTlbs k x).tlbs j = s.tlbs j := Tab.get_set_other _ _ h _

/-- The translation caches of the first `n` cores without what an invalidation covers. -/
def invalFirst (o : TlbiOp) (n : Nat) (s : State) : State :=
  (List.range n).foldl (fun a k => a.setTlbs k ((a.tlbs k).inval o.kind o.part o.addr)) s

theorem invalFirst_succ (o : TlbiOp) (n : Nat) (s : State) : invalFirst o (n + 1) s =
    (invalFirst o n s).setTlbs n (((invalFirst o n s).tlbs n).inval o.kind o.part o.addr) := by
  unfold invalFirst
  rw [List.range_succ, List.foldl_append]
  rfl

theorem invalFirst_tlbs (o : TlbiOp) (n : Nat) (s : State) (c : Nat) :
    (invalFirst o n s).tlbs c = if c < n then (s.tlbs c).inval o.kind o.part o.addr else s.tlbs c := by
  induction n with
  | zero => rfl
  | succ n ih =>
    rw [invalFirst_succ]
    by_cases hc : c = n
    · subst hc
      rw [setTlbs_tlbs_same, ih, if_neg (Nat.lt_irrefl c), if_pos (Nat.lt_succ_self c)]
    · rw [setTlbs_tlbs_other _ hc, ih]
      exact if_congr (by omega) rfl rfl

/-- It changes the translation caches alone. -/
theorem invalFirst_eq (o : TlbiOp) (n : Nat) (s : State) : ∃ x, invalFirst o n s = { s with fab := { s.fab with tlbs := x } } := by
  induction n with
  | zero => exact ⟨s.fab.tlbs, rfl⟩
  | succ n ih =>
    obtain ⟨x, hx⟩ := ih
    rw [invalFirst_succ, hx]
    exact ⟨_, rfl⟩

/-- Walks begin again (R189). -/
def restartStep (s : State) (k : Nat) : State := if s.thread k = (s.thread k).restartWalk then s else s.setThread k (s.thread k).restartWalk

theorem restartAll_eq (l : List Nat) (s : State) : l.foldl restartStep s = { s with threads := (l.foldl restartStep s).threads } := by
  refine foldl_threads_only restartStep (fun a k => ?_) l s
  unfold restartStep
  split <;> rfl

/-- A thread without a walk stays as it is. -/
theorem restartAll_thread {k : Nat} (l : List Nat) {s : State} (h : (s.thread k).restartWalk = s.thread k) :
    (l.foldl restartStep s).thread k = s.thread k := by
  induction l generalizing s with
  | nil => rfl
  | cons j l ih =>
    have hs : (restartStep s j).thread k = s.thread k := by
      unfold restartStep
      split
      · rfl
      · next hj => exact State.setThread_other s (by rintro rfl; exact hj h.symm) _
    rw [List.foldl_cons, ih (by rw [hs]; exact h), hs]

theorem restartWalk_running (h : th.st = .running) : th.restartWalk = th := by
  unfold Thread.restartWalk
  rw [h]

/-- The I/O translation entries behind an invalidation: TLBI.ALL alone removes them (R188). -/
def dropIo (o : TlbiOp) (s : State) : State := if o.kind = 6 then { s with fab := { s.fab with io := [] } } else s

theorem tlbiEverywhere_eq (o : TlbiOp) (s : State) : tlbiEverywhere o s = allKeys.foldl restartStep (dropIo o (invalFirst o 39 s)) := rfl

/-- What a completed invalidation leaves (R188, R189). -/
structure Invalidated (o : TlbiOp) (s s' : State) : Prop where
  tlbi : s'.fab.tlbi = s.fab.tlbi
  tlbs : ∀ c, c < 39 → s'.tlbs c = (s.tlbs c).inval o.kind o.part o.addr
  io : o.kind = 6 → s'.fab.io = []
  regs : s'.regs = s.regs
  mem : s'.mem = s.mem
  thread : ∀ k, (s.thread k).restartWalk = s.thread k → s'.thread k = s.thread k

theorem dropIo_invalidated {o : TlbiOp} {u : State} (hu : ∃ x, u = { s with fab := { s.fab with tlbs := x } })
    (ht : ∀ c, c < 39 → u.tlbs c = (s.tlbs c).inval o.kind o.part o.addr) : Invalidated o s (dropIo o u) := by
  obtain ⟨x, rfl⟩ := hu
  unfold dropIo
  split
  · exact ⟨rfl, ht, fun _ => rfl, rfl, rfl, fun _ _ => rfl⟩
  · next h6 => exact ⟨rfl, ht, fun h => absurd h h6, rfl, rfl, fun _ _ => rfl⟩

theorem restartAll_invalidated {o : TlbiOp} {u : State} (h : Invalidated o s u) (l : List Nat) : Invalidated o s (l.foldl restartStep u) := by
  have hw (k : Nat) := restartAll_thread (k := k) l (s := u)
  rw [restartAll_eq] at hw ⊢
  exact ⟨h.tlbi, h.tlbs, h.io, h.regs, h.mem, fun k hk => (hw k (by rw [h.thread k hk]; exact hk)).trans (h.thread k hk)⟩

theorem tlbiEverywhere_invalidated (o : TlbiOp) (s : State) : Invalidated o s (tlbiEverywhere o s) := by
  have hio := dropIo_invalidated (invalFirst_eq o 39 s) (fun c hc => (invalFirst_tlbs o 39 s c).trans (if_pos hc))
  rw [tlbiEverywhere_eq]
  exact restartAll_invalidated hio allKeys

/-- The oldest invalidation of a running thread ends once the accesses it covers are performed. -/
theorem tlbiCompletes_oldest {o : TlbiOp} {rest : List TlbiOp} (hf : s.fab.tlbi = o :: rest) (ht : o.tid = t) (hc : s.tlbiClear o = true)
    (hst : (s.thread (s.tkey t)).st = .running) :
    ∃ s1, Invalidated o { s with fab := { s.fab with tlbi := rest } } s1 ∧
      tlbiCompletes t s = s1.setThread (s.tkey t) { s.thread (s.tkey t) with tlbis := (s.thread (s.tkey t)).tlbis - 1 } := by
  have hinv := tlbiEverywhere_invalidated o { s with fab := { s.fab with tlbi := rest } }
  refine ⟨_, hinv, ?_⟩
  have hth := hinv.thread (s.tkey t) (restartWalk_running hst)
  have hfind : s.fab.tlbi.find? (fun o => s.tkey o.tid == s.tkey t) = some o := by
    rw [hf, List.find?_cons_of_pos (by rw [ht]; exact beq_self_eq_true _)]
  have herase : s.fab.tlbi.erase o = rest := by rw [hf, List.erase_cons_head]
  unfold tlbiCompletes
  simp only [hfind, hc, herase, hth, not_true_eq_false, if_false]
  rw [show (({ s with fab := { s.fab with tlbi := rest } } : State).thread (s.tkey t)) = s.thread (s.tkey t) from rfl, hst]

/-- Settles O19: the rows from their operations, the end of an invalidation from `tlbiEverywhere_invalidated`. -/
theorem syncAndTlbiRows : Obligations.SyncAndTlbiRows := by
  unfold Obligations.SyncAndTlbiRows
  refine ⟨fun s s1 t w th d h => ⟨fun s2 hs => ?sync, fun hr => exec_row h hr opIci, fun i hi hr => ?tlbi⟩, fun s t o rest hf ht hc hst => ?done⟩
  case sync =>
    have hsync (hr : d.row = .sync) := exec_settles (exec_row (i := .sync t w) h hr opSync) (opSync_synced rfl hs)
    have htlb (hr : d.row = .syncTlb) := exec_settles (exec_row (i := .syncTlb t w) h hr opSyncTlb) (opSyncTlb_synced rfl hs)
    exact ⟨fun hr hp => exec_settles (hsync hr) (if_pos hp), fun hr hp => exec_settles (hsync hr) (if_neg hp),
      fun hr hp => exec_settles (htlb hr) (if_pos hp), fun hr hp => exec_settles (htlb hr) (if_neg hp)⟩
  case tlbi =>
    rcases hi with ⟨hf, rfl⟩ | ⟨hf, rfl⟩ | ⟨hf, rfl⟩ | ⟨hf, rfl⟩
    all_goals exact tlbi_row h hr rfl (by simp [hr, hf])
  case done =>
    obtain ⟨s1, hinv, hs1⟩ := tlbiCompletes_oldest hf ht hc hst
    exact ⟨_, congrArg Host.Outcome.next hs1, hinv.tlbi, hinv.tlbs, congrArg Thread.tlbis (State.setThread_same s1 _ _), hinv.io, hinv.regs,
      fun a => congrArg (memRead · a) hinv.mem⟩

end Sys2Proof.Machine
end

section
/-! The frame of an entry as ERET and GRET read it (R144). -/
namespace Sys2Proof.Machine

variable {th old : Thread} {r : EntryReq}

/-! ### Words of a byte string -/

/-- The doubleword `i` of a byte string. -/
def wordAt (l : List Byte) (i : Nat) : Nat := leNat ((l.drop (8 * i)).take 8)

@[simp] theorem leBytes_length (n x : Nat) : (leBytes n x).length = n := by
  induction n generalizing x with
  | zero => rfl
  | succ n ih => rw [leBytes, List.length_cons, ih]

theorem leBytes_append (m n x : Nat) : leBytes (m + n) x = leBytes m x ++ leBytes n (x / 256 ^ m) := by
  induction m generalizing x with
  | zero => rw [Nat.zero_add, Nat.pow_zero, Nat.div_one]; rfl
  | succ m ih =>
    rw [Nat.succ_add, leBytes, ih, leBytes, List.cons_append, Nat.div_div_eq_div_mul, Nat.pow_succ, Nat.mul_comm 256]

theorem wordAt_first (x : Nat) (l : List Byte) : wordAt (leBytes 8 x ++ l) 0 = x % 2 ^ 64 := by
  unfold wordAt
  rw [Nat.mul_zero, List.drop_zero, List.take_left' (leBytes_length 8 x), leNat_leBytes, show 256 ^ 8 = 2 ^ 64 by decide]

theorem wordAt_next (x i : Nat) (l : List Byte) : wordAt (leBytes 8 x ++ l) (i + 1) = wordAt l i := by
  unfold wordAt
  rw [List.drop_append, leBytes_length, List.drop_eq_nil_of_le (by rw [leBytes_length]; omega), List.nil_append,
    show 8 * (i + 1) - 8 = 8 * i by omega]

/-! ### The frame -/

/-- A product slot as a number. -/
def prodNat (p : Option Product) : Nat := match p with
  | some p => p.toNat
  | none => 0

theorem prodBytes_eq (p : Option Product) : prodBytes p = leBytes 8 (prodNat p) ++ leBytes 8 (prodNat p / 2 ^ 64) := by
  cases p <;> exact leBytes_append 8 8 _

theorem prodNat_lt (p : Option Product) : prodNat p < 2 ^ 128 := by
  cases p with
  | none => decide
  | some p => exact p.isLt

/-- The frame as its eight doublewords. -/
theorem frameBytes_words (th : Thread) (r : EntryReq) : frameBytes th r =
    leBytes 8 r.ret.toNat ++ (leBytes 8 (srImage th r.gate) ++ (leBytes 8 th.pl.toNat ++ (leBytes 8 th.ph.toNat ++
      (leBytes 8 (prodNat th.near) ++ (leBytes 8 (prodNat th.near / 2 ^ 64) ++ (leBytes 8 (prodNat th.far) ++
        (leBytes 8 (prodNat th.far / 2 ^ 64) ++ []))))))) := by
  unfold frameBytes
  rw [prodBytes_eq, prodBytes_eq]
  simp only [List.append_assoc, List.append_nil]

theorem srImage_lt (th : Thread) (gate : Bool) : srImage th gate < 2 ^ 19 := by
  have hsr : bf th.sr 0 9 < 2 ^ 9 := Nat.mod_lt _ (by decide)
  unfold srImage b2n
  split_ifs <;> omega

theorem frame_ret (th : Thread) (r : EntryReq) : wordAt (frameBytes th r) 0 = r.ret.toNat := by
  rw [frameBytes_words, wordAt_first, Nat.mod_eq_of_lt r.ret.isLt]

theorem frame_image (th : Thread) (r : EntryReq) : wordAt (frameBytes th r) 1 = srImage th r.gate := by
  rw [frameBytes_words, wordAt_next, wordAt_first, Nat.mod_eq_of_lt (Nat.lt_trans (srImage_lt th r.gate) (by decide))]

theorem frame_pl (th : Thread) (r : EntryReq) : wordAt (frameBytes th r) 2 = th.pl.toNat := by
  rw [frameBytes_words, wordAt_next, wordAt_next, wordAt_first, Nat.mod_eq_of_lt th.pl.isLt]

theorem frame_ph (th : Thread) (r : EntryReq) : wordAt (frameBytes th r) 3 = th.ph.toNat := by
  rw [frameBytes_words, wordAt_next, wordAt_next, wordAt_next, wordAt_first, Nat.mod_eq_of_lt th.ph.isLt]

/-- A number of 128 bits from its two doublewords. -/
theorem halves_eq {x : Nat} (h : x < 2 ^ 128) : x % 2 ^ 64 + x / 2 ^ 64 % 2 ^ 64 * 2 ^ 64 = x := by omega

theorem frame_near (th : Thread) (r : EntryReq) :
    wordAt (frameBytes th r) 4 + wordAt (frameBytes th r) 5 * 2 ^ 64 = prodNat th.near := by
  rw [frameBytes_words]
  simp only [wordAt_next, wordAt_first]
  exact halves_eq (prodNat_lt _)

theorem frame_far (th : Thread) (r : EntryReq) :
    wordAt (frameBytes th r) 6 + wordAt (frameBytes th r) 7 * 2 ^ 64 = prodNat th.far := by
  rw [frameBytes_words]
  simp only [wordAt_next, wordAt_first]
  exact halves_eq (prodNat_lt _)

/-! ### The saved image of SR -/

/-- The image holds SR below bit 9, then the gate and the two slots from bit 16 on, and 0 elsewhere. -/
theorem srImage_split (th : Thread) (gate : Bool) : srImage th gate =
    th.sr.toNat % 512 + 65536 * (b2n gate + 2 * b2n th.near.isSome + 4 * b2n th.far.isSome) := by
  unfold srImage bf nbits
  omega

theorem b2n_le (b : Bool) : b2n b ≤ 1 := by cases b <;> decide

theorem srImage_sr (th : Thread) (gate : Bool) : nbits (srImage th gate) 0 9 = bf th.sr 0 9 := by
  rw [srImage_split]
  unfold bf nbits
  omega

theorem srImage_ring (th : Thread) (gate : Bool) : nbits (srImage th gate) 1 2 = th.ring := by
  rw [srImage_split]
  unfold Thread.ring bf nbits
  omega

theorem srImage_zeros (th : Thread) (gate : Bool) : nbits (srImage th gate) 9 7 = 0 ∧ nbits (srImage th gate) 19 45 = 0 := by
  have hlt := srImage_lt th gate
  refine ⟨?_, ?_⟩
  · rw [srImage_split]
    unfold nbits
    omega
  · unfold nbits
    omega

/-- A bit of the image from bit 16 on. -/
theorem srImage_high (th : Thread) (gate : Bool) (j : Nat) :
    nbit (srImage th gate) (16 + j) = nbit (b2n gate + 2 * b2n th.near.isSome + 4 * b2n th.far.isSome) j := by
  rw [srImage_split]
  generalize b2n gate + 2 * b2n th.near.isSome + 4 * b2n th.far.isSome = m
  have hm : (th.sr.toNat % 512 + 65536 * m) / 2 ^ 16 = m := by omega
  unfold nbit
  rw [Nat.pow_add, ← Nat.div_div_eq_div_mul, hm]

theorem srImage_gate (th : Thread) (gate : Bool) : nbit (srImage th gate) 16 = gate := by
  rw [srImage_high th gate 0]
  cases gate <;> cases th.near.isSome <;> cases th.far.isSome <;> rfl

theorem srImage_near (th : Thread) (gate : Bool) : nbit (srImage th gate) 17 = th.near.isSome := by
  rw [srImage_high th gate 1]
  cases gate <;> cases th.near.isSome <;> cases th.far.isSome <;> rfl

theorem srImage_far (th : Thread) (gate : Bool) : nbit (srImage th gate) 18 = th.far.isSome := by
  rw [srImage_high th gate 2]
  cases gate <;> cases th.near.isSome <;> cases th.far.isSome <;> rfl

/-- A slot comes back from its bit and its number. -/
theorem slot_restored (p : Option Product) : (if p.isSome then some (BitVec.ofNat 128 (prodNat p)) else none) = p := by
  cases p with
  | none => rfl
  | some p => exact congrArg some (BitVec.ofNat_toNat 128 p)

end Sys2Proof.Machine
end

section
/-! ERET and GRET (R88, R105, R146, R147). -/
namespace Sys2Proof.Machine

variable {s s1 s2 : State} {t : ThreadId} {w : W32} {th old : Thread} {d : Dec} {r : EntryReq} {c : Cx}

/-- SR as a return restores it: the saved one but for LA. -/
def returnedSr (th old : Thread) : W64 := BitVec.ofNat 64 (setBits (bf old.sr 0 9) 8 1 (b2n th.la))

/-- The thread behind a return to what an entry saved. -/
def returned (th old : Thread) (r : EntryReq) : Thread :=
  { th.setG30 th.ring (th.g30of th.ring + 64) with
    sr := returnedSr th old, pl := old.pl, ph := old.ph, near := old.near, far := old.far, pc := r.ret }

theorem holdCe_off (h : s.ceHeld = false) (th : Thread) : s.holdCe th = th := by
  unfold State.holdCe
  rw [h]
  rfl

/-- The frame access of a return. -/
def returnAcc (th : Thread) : MAcc := ⟨none, (th.g30of th.ring).toNat, 64, 0, 1, false, true, th.ring, .read, none⟩

/-- A return on a frame of its kind, to a ring that it may reach, restores what the entry saved. -/
theorem opReturn_restores (ha : loadAcc c (returnAcc c.th) s = .ok (frameBytes old r, s1)) (hce : s1.ceHeld = false)
    (hret : bf r.ret 0 2 = 0) (hring : c.th.ring ≤ old.ring) : opReturn r.gate c s = .goto s1 (returned c.th old r) := by
  have hretq : r.ret.toNat % 4 = 0 := by unfold bf nbits at hret; omega
  obtain ⟨hz1, hz2⟩ := srImage_zeros old r.gate
  have hw (i : Nat) : leNat (((frameBytes old r).drop (8 * i)).take 8) = wordAt (frameBytes old r) i := rfl
  unfold returnAcc at ha
  simp only [opReturn, ha, hw, frame_ret, frame_image, frame_pl, frame_ph, frame_near, frame_far, srImage_gate, srImage_ring, srImage_sr,
    srImage_near, srImage_far, hz1, hz2, hretq, slot_restored, holdCe_off hce, ne_eq, not_true_eq_false, or_self, if_false,
    if_neg (Nat.not_lt.2 hring), BitVec.ofNat_toNat, BitVec.setWidth_eq]
  rfl

/-! ### What the restored SR says -/

theorem returnedSr_toNat (th old : Thread) : (returnedSr th old).toNat = setBits (bf old.sr 0 9) 8 1 (b2n th.la) := by
  have hlt : bf old.sr 0 9 < 2 ^ 64 := Nat.lt_of_lt_of_le (Nat.mod_lt _ (by decide)) (by decide : 2 ^ 9 ≤ 2 ^ 64)
  exact Nat.mod_eq_of_lt (setBits_lt _ hlt (by decide))

/-- Below LA the restored SR is the saved one. -/
theorem returnedSr_saved (th old : Thread) {i : Nat} (hi : i < 8) : (returnedSr th old).getLsbD i = old.sr.getLsbD i := by
  rw [← BitVec.testBit_toNat, returnedSr_toNat, setBits_testBit, if_pos hi, bf, nbits_testBit, Nat.zero_add, decide_eq_true (by omega),
    Bool.true_and, BitVec.testBit_toNat]

theorem returnedSr_la (th old : Thread) : (returnedSr th old).getLsbD 8 = th.la := by
  rw [← BitVec.testBit_toNat, returnedSr_toNat, setBits_testBit]
  cases th.la <;> rfl

theorem returned_ring (th old : Thread) (r : EntryReq) : (returned th old r).ring = old.ring := by
  show nbits (returnedSr th old).toNat 1 2 = _
  rw [returnedSr_toNat, nbits_setBits_other _ _ _ _ _ _ (by decide)]
  unfold Thread.ring bf nbits
  omega

theorem returned_flags (th old : Thread) (r : EntryReq) : (returned th old r).flags = old.flags := by
  show NZCV.mk ((returnedSr th old).getLsbD 4) ((returnedSr th old).getLsbD 5) ((returnedSr th old).getLsbD 6)
    ((returnedSr th old).getLsbD 7) = _
  rw [returnedSr_saved _ _ (by decide), returnedSr_saved _ _ (by decide), returnedSr_saved _ _ (by decide),
    returnedSr_saved _ _ (by decide)]
  rfl

theorem setG30_same (th : Thread) (q : Nat) (v : W64) : (th.setG30 q v).g30of q = v := Tab.get_set_same _ _ _ _

theorem setG30_other (th : Thread) {q n : Nat} (h : n ≠ q) (v : W64) : (th.setG30 q v).g30of n = th.g30of n := Tab.get_set_other _ _ h _

/-- A thread that issues runs. -/
theorem issuing_running (h : s.issuing t = some th) : th.st = .running := by
  unfold State.issuing at h
  simp only at h
  split at h
  · cases h
  · split at h
    · next hst => cases h; exact hst
    · split at h
      · cases h; rfl
      · cases h
    · cases h
    · cases h

/-- Settles O24, by `opReturn_restores` and what the restored SR says. -/
theorem returnRestoresFrame : Obligations.ReturnRestoresFrame := by
  unfold Obligations.ReturnRestoresFrame
  intro s s1 s2 t w th old d r h hce ha hret hring
  have hop := opReturn_restores (c := runCx s t th w d) ha hce hret hring
  refine ⟨returned th old r, fun hr hg => ?eret, fun hr hg => ?gret, rfl, rfl, rfl, rfl, rfl, returned_ring th old r,
    returnedSr_saved th old (by decide), returnedSr_saved th old (by decide), returned_flags th old r, returnedSr_la th old,
    setG30_same th _ _, fun q hq => setG30_other th hq _, rfl, rfl, rfl, rfl, rfl, issuing_running (th := th) (issued_parts h).1⟩
  case eret => exact exec_settles (exec_row (i := .eret t w) h hr (opReturn false)) ((congrArg (opReturn · _ _) hg).symm.trans hop)
  case gret => exact exec_settles (exec_row (i := .gret t w) h hr (opReturn true)) ((congrArg (opReturn · _ _) hg).symm.trans hop)

end Sys2Proof.Machine
end


section
/-! PROOF of O27, FabricAnswers: load data, failures, lines, table entries and time-outs (R100, R101, R122, R149, R183 to R185). -/
namespace Sys2Proof.Machine
variable {s s1 s2 : State} {t : ThreadId} {th : Thread} {w : W32} {d : Dec} {k pa n line : Nat} {la fin : W64} {e : BusResult}

/-! ### The size and the sign of a load -/

/-- Two's complement of `wd` bits is the balanced remainder. -/
theorem sextNat_eq_bmod {wd : Nat} (h : 0 < wd) (x : Nat) : sextNat wd x = (x : Int).bmod (2 ^ wd) := by
  obtain ⟨k, rfl⟩ : ∃ k, wd = k + 1 := ⟨wd - 1, by omega⟩
  have hp : 2 ^ (k + 1) = 2 * 2 ^ k := Nat.pow_succ'
  have hpos : 0 < 2 ^ k := Nat.two_pow_pos k
  have hcast : ((2 ^ k : Nat) : Int) = 2 ^ k := by push_cast; rfl
  unfold sextNat Int.bmod
  simp only [Nat.add_sub_cancel]
  rw [hp, Int.pow_succ', ← hcast]
  split_ifs <;> omega

/-- Where a decoded word is a load, its size is one of the four. -/
def DecRes.loadFits : DecRes → Prop
  | .ok d => d.row = .load → d.sz ≤ 3
  | .illegal => True
  | .absent => True

@[simp] theorem loadFits_ok (x : Dec) : (DecRes.ok x).loadFits ↔ (x.row = .load → x.sz ≤ 3) := Iff.rfl

@[simp] theorem loadFits_illegal : DecRes.illegal.loadFits := trivial

@[simp] theorem loadFits_absent : DecRes.absent.loadFits := trivial

@[simp] theorem loadFits_okIf (c : Bool) (x : Dec) : (okIf c x).loadFits ↔ (c = true → x.row = .load → x.sz ≤ 3) := by
  cases c <;> simp [okIf]

/-- No format but M gives a load, and its rows name four sizes (R111, R122). -/
theorem decodeOp_loadFits (w : W32) : (decodeOp w).loadFits := by
  unfold decodeOp decAlu decImm decShi decMuldiv decS decCmpp decCmppi decPlogic decX decAtom decJr decLoop decLoopi decBlk decSync decSys decAau decCp1
    decCp2
  repeat' split
  all_goals simp [decR, decM]

theorem decodeOp_load_size (hd : decodeOp w = .ok d) (hr : d.row = .load) : d.sz ≤ 3 := (hd ▸ decodeOp_loadFits w : (DecRes.ok d).loadFits) hr

/-! ### What the report of an access leaves alone -/

/-- Memory, the threads and the registers below the interrupt pages, so those of the trios, are as they were. -/
structure CoresKept (s s' : State) : Prop where
  mem : s'.mem = s.mem
  threads : s'.threads = s.threads
  rd : ∀ k, k < page 0x110 → s'.rd k = s.rd k

theorem CoresKept.refl (s : State) : CoresKept s s := ⟨rfl, rfl, fun _ _ => rfl⟩

theorem CoresKept.trans (h : CoresKept s s1) (g : CoresKept s1 s2) : CoresKept s s2 :=
  ⟨g.mem.trans h.mem, g.threads.trans h.threads, fun k hk => (g.rd k hk).trans (h.rd k hk)⟩

theorem CoresKept.setFld {b : Nat} (hb : page 0x110 ≤ b) (f : Fld) (v : Nat) : CoresKept s (s.setFld b f v) :=
  ⟨State.setFld_mem .., State.setFld_threads .., fun _ hk => State.rd_setFld_off s v (by omega)⟩

theorem CoresKept.incSat {b : Nat} (hb : page 0x110 ≤ b) (f : Fld) : CoresKept s (s.incSat b f) := .setFld hb f _

theorem CoresKept.irq (n : Nat) : CoresKept s (s.irq n) := by
  unfold State.irq
  split
  · exact .refl s
  · exact .setFld (Nat.le_refl _) _ _

theorem CoresKept.raiseA (a : Assertion) : CoresKept s (s.raiseA a) := ⟨rfl, rfl, fun _ _ => rfl⟩

theorem CoresKept.markBad (a : Nat) : CoresKept s (s.markBad a) := by
  unfold State.markBad
  split
  · exact .refl s
  · exact ⟨rfl, rfl, fun _ _ => rfl⟩

theorem dram_above (c : Nat) : page 0x110 ≤ B.dram c := Nat.mul_le_mul_right _ (by omega)

theorem CoresKept.dramErr (a : Nat) (unc : Bool) : CoresKept s (dramErr s a unc) := by
  have hb := dram_above (dramCtl a)
  unfold Machine.dramErr
  simp only
  split
  · exact (((CoresKept.incSat hb _).trans (.setFld hb _ _)).trans (.setFld hb _ _)).trans (.irq _)
  · exact .incSat hb _

theorem CoresKept.dataErr (a : Nat) {rep : Nat → State → State} (hrep : ∀ n u, CoresKept u (rep n u)) : CoresKept s (s.dataErr a rep) := by
  have hmark : CoresKept s (if (s.region a).keepsBad then s.markBad a else s) := by
    split
    · exact .markBad a
    · exact .refl s
  unfold State.dataErr
  simp only
  generalize (if (s.region a).keepsBad then s.markBad a else s) = u at hmark ⊢
  split
  · split
    · exact (hmark.trans (hrep _ _)).trans (.dramErr a true)
    · exact hmark.trans (hrep _ _)
  · exact hmark

theorem CoresKept.busErr (a : Nat) (m : W32) (x : Nat) (e : BusResult) : CoresKept s (s.busErr a m x e) := by
  cases e with
  | ok => exact .refl s
  | corrected =>
    unfold State.busErr
    simp only
    split
    · split
      · exact (CoresKept.raiseA _).trans (.dramErr a false)
      · exact .raiseA _
    · exact .refl s
  | data => exact .dataErr a (fun _ _ => .raiseA _)
  | mismatch => exact .dataErr a (fun _ _ => .raiseA _)
  | parity => exact .raiseA _
  | timeout => exact .raiseA _
  | outOfService => exact .refl s
  | upper e =>
    cases e with
    | data => exact .dataErr a (fun _ _ => .raiseA _)
    | mismatch => exact .dataErr a (fun _ _ => .raiseA _)
    | parity => exact .raiseA _
    | timeout => exact .raiseA _
    | outOfService => exact .refl s

theorem CoresKept.dropReads (p : Nat → Bool) : CoresKept s (dropReads p s) := by
  refine List.foldlRecOn (motive := CoresKept s) _ _ (.refl s) (fun u hu m _ => ?_)
  split
  · exact ⟨hu.mem, hu.threads, hu.rd⟩
  · exact hu

/-- The key of a thread stands where the registers of its trio do. -/
theorem CoresKept.tkey (h : CoresKept s s1) (t : ThreadId) : s1.tkey t = s.tkey t := by
  have hk : B.trio t.trio.val + TRIO.STAT_CONF_NOW.off < page 0x110 := by
    have := t.trio.isLt
    simp only [B.trio, page, TRIO.STAT_CONF_NOW]
    omega
  unfold State.tkey State.conf State.fld
  rw [h.rd _ hk]

theorem CoresKept.thread (h : CoresKept s s1) (k : Nat) : s1.thread k = s.thread k := State.thread_congr h.threads k

/-! ### Words without a bad code -/

theorem withBad_good (hb : s.badAddr pa n = none) (e : BusResult) : withBad s [(pa, n)] e = e := by
  have h1 : s.badOf ([(pa, n)].take 1) = none := by simp [State.badOf, hb]
  have h2 : s.badOf ([(pa, n)].drop 1) = none := rfl
  unfold withBad
  simp only [h1, h2, Option.isSome_none, Bool.false_eq_true, if_false]
  split_ifs <;> rfl

theorem failAddr_good (hb : s.badAddr pa n = none) (e : BusResult) : failAddr s [(pa, n)] e = pa := by
  have h1 : s.badOf ([(pa, n)].take 1) = none := by simp [State.badOf, hb]
  cases e with
  | data => simp only [failAddr, h1]; rfl
  | mismatch => simp only [failAddr, h1]; rfl
  | upper e => cases e <;> rfl
  | ok | corrected | parity | outOfService | timeout => rfl

/-- An error at the first byte of an access lies at its own address. -/
theorem errAt_first (hn : 0 < n) : errAt la fin [(pa, n)] pa = (la, BitVec.ofNat 64 (bf fin 0 24 + pa * 2 ^ 24)) := by
  have ho : offsetIn [(pa, n)] pa = 0 := (if_pos ⟨Nat.le_refl _, by omega⟩).trans (Nat.sub_self pa)
  unfold errAt
  rw [ho]
  exact congrArg (·, _) (BitVec.add_zero la)

/-! ### Load data -/

/-- A load with its data completes: it writes the bytes, extended by its row (R101, R122). -/
theorem coreRun_loaded (hd : decodeOp w = .ok d) (hr : d.row = .load) (hx : th.executes w = true) (data : List Byte) :
    coreRun s t k th w [] (some data) = complete s k th (th.setReg d.rd (extLoad d.b (2 ^ d.sz) data)) none none := by
  have hring : ¬ d.ringMax < th.ring := by
    have := th.ring_lt
    simp only [Dec.ringMax, hr]
    omega
  unfold coreRun
  simp only [Option.isSome_some, if_true, hd, hr, hx, hring, reduceCtorEq, not_true_eq_false, if_false, opExec]
  rfl

/-- The data of a load from normal memory are the bytes memory holds. -/
theorem loadData_normal (hd : decodeOp w = .ok d) (hr : d.row = .load) (hn : (s.region pa).isNormal = true) :
    loadData s t th w [(pa, n)] none = (bytesFrom s.byteAt pa n, s) := by
  have hreg : s.region pa ≠ .regs := by
    intro h
    rw [h] at hn
    cases hn
  unfold loadData performLoad
  simp only [List.headD_cons, hreg, if_false, hd, hr, reduceCtorEq, false_and, readPieces, List.flatMap_cons, List.flatMap_nil, List.append_nil]

theorem wantsCheckpoint_normal (hd : decodeOp w = .ok d) (hr : d.row = .load) (hn : (s.region pa).isNormal = true) :
    wantsCheckpoint s t w pa = false := by
  have hreg : (s.region pa == .regs) = false := by
    rw [beq_eq_false_iff_ne]
    intro h
    rw [h] at hn
    cases hn
  have hrow : (CoreRow.load == CoreRow.atom) = false := rfl
  unfold wantsCheckpoint
  simp only [hreg, hd, hr, hrow, Bool.false_and, Bool.or_false]

section
variable (hst : (s.thread (s.tkey t)).st = .stalled (.load w [(pa, n)] la fin none)) (hl : (s.trio t.trio.val).lost = false)
  (hh : heldRead s t = false) (ha : storesAhead s t w [(pa, n)] = false) (hb : s.badAddr pa n = none)
include hst hl hh ha hb

/-- The answer to a load ends its stall where the access fails. -/
theorem loadArrives_fails (hn : 0 < n) (hf : busFails e = true) : loadArrives t e s =
    stallExc t (loadFails w la (BitVec.ofNat 64 (bf fin 0 24 + pa * 2 ^ 24)) e)
      (unhold t (s.busErr pa (masterOf t (s.thread (s.tkey t)).ring) (recAccess (bf fin 0 3)) e)) := by
  unfold loadArrives
  simp only [hst, hl, hh, ha, withBad_good hb, failAddr_good hb, hf, errAt_first hn, Bool.false_eq_true, false_and, or_self, and_false,
    if_false, if_true]

theorem loadArrives_ok (hd : decodeOp w = .ok d) (hr : d.row = .load) (hn : (s.region pa).isNormal = true) : loadArrives t .ok s =
    ceEnd (s.tkey t) (coreRun s t (s.tkey t) (s.thread (s.tkey t)).awake w [] (some (bytesFrom s.byteAt pa n))) := by
  have hg : busFails .ok = false := rfl
  have hs (m : W32) (x : Nat) : s.busErr pa m x .ok = s := rfl
  unfold loadArrives
  simp only [hst, hl, hh, ha, withBad_good hb, failAddr_good hb, hg, hs, loadData_normal hd hr hn, List.headD_cons,
    wantsCheckpoint_normal hd hr hn, Bool.false_eq_true, false_and, or_self, and_false, if_false]

end

theorem loadFails_load (hd : decodeOp w = .ok d) (hr : d.row = .load) (la fin : W64) (e : BusResult) : loadFails w la fin e = busExc la fin e := by
  unfold loadFails
  simp only [hd, hr, reduceCtorEq, if_false]

/-- The end of a stall by an exception, in a state with the same threads. -/
theorem CoresKept.stallExc (h : CoresKept s s1) (t : ThreadId) (x : Exc) : stallExc t x s1 =
    let k := s.tkey t
    let th := (s.thread k).awake
    ceEnd k (if s1.entryFirst t th then goOn s1 k th else takeExc s1 t k th x) := by
  unfold Machine.stallExc
  simp only [h.tkey, h.thread]

theorem extLoad_unsigned (n : Nat) (l : List Byte) : (extLoad false n l).toNat = leNat l % 2 ^ 64 := BitVec.toNat_ofNat _ _

theorem extLoad_signed (hn : 0 < n) (h8 : n ≤ 8) (l : List Byte) : (extLoad true n l).toInt = (leNat l : Int).bmod (2 ^ (8 * n)) := by
  have hle : 2 ^ (8 * n) ≤ 2 ^ 64 := Nat.pow_le_pow_right (by decide) (by omega)
  have hpos : 0 < 2 ^ (8 * n) := Nat.two_pow_pos _
  have hlo := Int.le_bmod (x := (leNat l : Int)) hpos
  have hhi := Int.bmod_lt (x := (leNat l : Int)) hpos
  have hx : (extLoad true n l).toInt = (sextNat (8 * n) (leNat l)).bmod (2 ^ 64) := i64_toInt _
  rw [hx, sextNat_eq_bmod (by omega)]
  generalize 2 ^ (8 * n) = m at hle hpos hlo hhi ⊢
  exact Int.bmod_eq_of_le (by omega) (by omega)

/-! ### Lines and table entries -/

theorem CoresKept.setTrio (s : State) (n : Nat) (x : Trio) : CoresKept s (s.setTrio n x) := ⟨rfl, rfl, fun _ _ => rfl⟩

/-- The instruction issues again where nothing is to be taken first. -/
theorem reRun_runs (h : CoresKept s s1) (hh : (s.thread (s.tkey t)).awake.halted = false)
    (he : s1.entryFirst t (s.thread (s.tkey t)).awake = false) (w : W32) (got : List (Nat × Option W64)) :
    reRun t w got s1 = ceEnd (s.tkey t) (coreRun s1 t (s.tkey t) (s.thread (s.tkey t)).awake w got none) := by
  unfold reRun reIssue
  simp only [h.tkey, h.thread, hh, he, Bool.false_eq_true, or_self, if_false]

/-- A halted thread stands before its instruction (R82). -/
theorem reRun_halted (h : CoresKept s s1) (hh : (s.thread (s.tkey t)).awake.halted = true) (w : W32) (got : List (Nat × Option W64)) :
    reRun t w got s1 = ceEnd (s.tkey t) (goOn s1 (s.tkey t) (s.thread (s.tkey t)).awake) := by
  unfold reRun reIssue
  simp only [h.tkey, h.thread, hh, true_or, if_true]

/-- What a trio holds decides nothing about interrupts. -/
theorem setTrio_entryFirst (s : State) (n : Nat) (x : Trio) (t : ThreadId) (th : Thread) :
    (s.setTrio n x).entryFirst t th = s.entryFirst t th := by
  have hroute (m : Nat) : (s.setTrio n x).route m = s.route m := rfl
  have hto (r : W32) : (s.setTrio n x).routesTo r t = s.routesTo r t := rfl
  have hactive (m : Nat) : (s.setTrio n x).irqActive m = s.irqActive m := rfl
  have hrun : (s.setTrio n x).runPrio t = s.runPrio t := by
    unfold State.runPrio
    simp only [hroute, hto, hactive]
  have hshow (m : Nat) (run : Option Nat) : (s.setTrio n x).presents t run m = s.presents t run m := rfl
  have hbefore (a b : Nat) : irqBefore (s.setTrio n x) a b = irqBefore s a b := rfl
  unfold State.entryFirst State.eligibleIrq State.topIrq
  simp only [hroute, hrun, hshow, hbefore]

theorem icacheFills_ok (hst : (s.thread (s.tkey t)).st = .stalled (.fill w line)) (hl : (s.trio t.trio.val).lost = false)
    (hb : s.badAddr (line * 64) 64 = none) : icacheFills t .ok s =
      reRun t w [] (s.setTrio t.trio.val { s.trio t.trio.val with lines := fillLine (s.trio t.trio.val).lines line }) := by
  have hg : busFails .ok = false := rfl
  have hs (a : Nat) (m : W32) (x : Nat) : s.busErr a m x .ok = s := rfl
  unfold icacheFills
  simp only [hst, hl, withBad_good hb, hg, hs, Bool.false_eq_true, if_false, State.setLines]

theorem walkReads_ok {got : List (Nat × Option W64)} (hst : (s.thread (s.tkey t)).st = .stalled (.walk w pa got))
    (hl : (s.trio t.trio.val).lost = false) (ho : s.outOfService pa = false) (hb : s.badAddr pa 8 = none) : walkReads t .ok s =
      reRun t w (got ++ [(pa, some (BitVec.ofNat 64 (leNat (s.readMem pa 8))))]) s := by
  have hg : busFails .ok = false := rfl
  have hs (a : Nat) (m : W32) (x : Nat) : s.busErr a m x .ok = s := rfl
  unfold walkReads
  simp only [hst, hl, withBad_good hb, hg, hs, ho, Bool.false_eq_true, Bool.or_self, if_false]

/-! ### Time-outs -/

theorem fabricTimeout_gated (h : s.gated = true) (x : FabricTxn) : exec (.fabricTimeout x) s = .next s :=
  congrArg Host.Outcome.next (if_pos h)

theorem fabricTimeout_fill (h : s.gated = false) (hst : (s.thread (s.tkey t)).st = .stalled (.fill w line)) :
    exec (.fabricTimeout (.load t)) s = exec (.icacheFill t .timeout) s := by
  show execFabricTimeout (.load t) s = execIcacheFill t .timeout s
  simp only [execFabricTimeout, execIcacheFill, State.unlessGated, h, hst, Bool.false_eq_true, if_false]

theorem fabricTimeout_walk {got : List (Nat × Option W64)} (h : s.gated = false) (hst : (s.thread (s.tkey t)).st = .stalled (.walk w pa got)) :
    exec (.fabricTimeout (.load t)) s = exec (.tableWalkRead t .timeout) s := by
  show execFabricTimeout (.load t) s = execTableWalkRead t .timeout s
  simp only [execFabricTimeout, execTableWalkRead, State.unlessGated, h, hst, Bool.false_eq_true, if_false]

theorem fabricTimeout_load {ps : List (Nat × Nat)} {data : Option (List Byte)} (h : s.gated = false)
    (hst : (s.thread (s.tkey t)).st = .stalled (.load w ps la fin data)) :
    exec (.fabricTimeout (.load t)) s = exec (.loadDataArrival t .timeout) s := by
  show execFabricTimeout (.load t) s = execLoadDataArrival t .timeout s
  simp only [execFabricTimeout, execLoadDataArrival, State.unlessGated, h, hst, Bool.false_eq_true, if_false]

theorem fabricTimeout_store (h : s.gated = false) (hb : (s.thread (s.tkey t)).buf ≠ []) :
    exec (.fabricTimeout (.store t)) s = exec (.storePerformed t .timeout) s := by
  show execFabricTimeout (.store t) s = execStorePerformed t .timeout s
  simp only [execFabricTimeout, execStorePerformed, State.unlessGated, h, List.isEmpty_iff, hb, Bool.false_eq_true, if_false]

/-! ### The statement -/

/-- A load waits for an earlier store of its thread that it overlaps (R195, R196). -/
theorem loadArrives_waits {ps : List (Nat × Nat)} (hst : (s.thread (s.tkey t)).st = .stalled (.load w ps la fin none))
    (ha : storesAhead s t w ps = true) (e : BusResult) : loadArrives t e s = s := by
  unfold loadArrives
  simp only [hst, ha, Option.isNone_none, or_true, and_self, if_true]

/-- Settles O27: the load by `loadArrives_ok` and `loadArrives_fails`, lines and table entries by what their arrival runs again. -/
theorem fabricAnswers : Obligations.FabricAnswers := by
  unfold Obligations.FabricAnswers
  refine ⟨fun s t w d pa n la fin => ?load, fun s t w ps la fin hst ha => congrArg Host.Outcome.next (loadArrives_waits hst ha .ok),
    fun s t w => ⟨fun hg hh line hst hb => ?fill, fun hl hh line hst hb => ?stands, fabricTimeout_gated,
      fun h line hst => fabricTimeout_fill h hst, fun hg hh pa got hst ho hb => ?walk, fun h pa got hst => fabricTimeout_walk h hst,
      fun h ps la fin data hst => fabricTimeout_load h hst, fabricTimeout_store⟩⟩
  case load =>
    intro k th hst hd hr hn hreg hl hh ha hb
    have hpos : 0 < n := hn ▸ Nat.two_pow_pos d.sz
    have h8 : n ≤ 8 := hn ▸ Nat.pow_le_pow_right (by decide) (decodeOp_load_size hd hr)
    refine ⟨fun hx => ⟨extLoad d.b n (bytesFrom s.byteAt pa n), congrArg Host.Outcome.next ?_, fun hs => ?_, fun hs => ?_⟩, fun e hf => ?_⟩
    · rw [loadArrives_ok hst hl hh ha hb hd hr hreg, coreRun_loaded hd hr hx, ← hn]
    · rw [hs, extLoad_unsigned]
    · rw [hs, extLoad_signed hpos h8]
    · have hk : CoresKept s (unhold t (s.busErr pa (masterOf t (s.thread k).ring) (recAccess (bf fin 0 3)) e)) :=
        (CoresKept.busErr ..).trans (.dropReads _)
      refine ⟨_, hk.mem, hk.threads, congrArg Host.Outcome.next ?_⟩
      rw [loadArrives_fails hst hl hh ha hb hpos hf, hk.stallExc, loadFails_load hd hr]
      rfl
  case fill =>
    refine ⟨congrArg Host.Outcome.next ?_, List.mem_cons_self⟩
    rw [icacheFills_ok hst hg.1 hb,
      reRun_runs (.setTrio ..) hh ((setTrio_entryFirst ..).trans (goesOn_entryFirst hg))]
  case stands =>
    refine congrArg Host.Outcome.next ?_
    rw [icacheFills_ok hst hl hb, reRun_halted (.setTrio ..) hh]
  case walk =>
    refine congrArg Host.Outcome.next ?_
    rw [walkReads_ok hst hg.1 ho hb, reRun_runs (.refl s) hh (goesOn_entryFirst hg)]

end Sys2Proof.Machine
end

section
/-! The bits of interrupt sources, and the writes that pend, clear, acknowledge and end them (R161, R163). -/
namespace Sys2Proof.Machine

variable {s : State} {w : Writer} {n m : Nat}

/-! ### Pending and active bits -/

/-- The bit of another source in the same words reads as before. -/
theorem flag_irqBit_other (s : State) (b : Nat) (v : Nat) (h : m ≠ n) :
    (s.setFld B.intd (irqBit b n) v).flag B.intd (irqBit b m) = s.flag B.intd (irqBit b m) := by
  unfold State.flag
  by_cases hw : m / 32 = n / 32
  · rw [State.fld_setFld_apart s B.intd v (by simp only [irqBit, hw]) (by simp only [irqBit]; omega) (by simp only [irqBit]; omega)]
  · rw [State.fld_setFld_off s v (by simp only [irqBit]; omega)]

/-- A bit of the pending or active words holds what was written. -/
theorem flag_irqBit_same (s : State) (b : Nat) (v : Bool) : (s.setFld B.intd (irqBit b n) (b2n v)).flag B.intd (irqBit b n) = v := by
  unfold State.flag
  rw [State.fld_setFld_same _ _ _ _ (by simp only [irqBit]; omega)]
  cases v <;> rfl

/-- The active words stand behind the pending ones. -/
theorem flag_active_pending (s : State) (v : Nat) (h : m < 1024) :
    (s.setFld B.intd (irqBit 0x080 m) v).flag B.intd (irqBit 0x100 n) = s.flag B.intd (irqBit 0x100 n) :=
  State.flag_setFld_off s v (by simp only [irqBit]; omega)

theorem irqPending_edge (hr : irqReserved n = false) (hl : irqIsLevel n = false) (s : State) :
    s.irqPending n = s.flag B.intd (irqBit 0x080 n) := by
  unfold State.irqPending
  simp only [hr, hl, Bool.false_eq_true, if_false]

/-- The lowest sources, those of software and of the trios among them, are edge sources that every device has (R159, R163). -/
theorem low_edge (h : n ≤ 115) : irqReserved n = false ∧ irqIsLevel n = false := by
  simp only [irqReserved, irqIsLevel, inRange, Bool.or_eq_false_iff, Bool.and_eq_false_iff, decide_eq_false_iff_not, beq_eq_false_iff_ne]
  omega

/-! ### What the end of waits leaves of the sources -/

@[simp] theorem irqPending_wakeWaiting (s : State) (n : Nat) : (wakeWaiting s).irqPending n = s.irqPending n := by rw [wakeWaiting_eq]; rfl
@[simp] theorem irqActive_wakeWaiting (s : State) (n : Nat) : (wakeWaiting s).irqActive n = s.irqActive n := by rw [wakeWaiting_eq]; rfl
@[simp] theorem route_wakeWaiting (s : State) (n : Nat) : (wakeWaiting s).route n = s.route n := by rw [wakeWaiting_eq]; rfl
@[simp] theorem routesTo_wakeWaiting (s : State) (r : W32) (t : ThreadId) : (wakeWaiting s).routesTo r t = s.routesTo r t := by
  rw [wakeWaiting_eq]; rfl

/-! ### The four registers -/

theorem swiSet_plain : PlainReg .intd 0x110 0x040 (2 ^ 32 - 1) :=
  ⟨⟨_, _, rfl⟩, ⟨_, rfl, .inr rfl, rfl, fun _ => rfl⟩, by decide, by decide, fun _ => rfl, fun _ => rfl, by decide⟩

theorem swiClr_plain : PlainReg .intd 0x110 0x044 (2 ^ 32 - 1) :=
  ⟨⟨_, _, rfl⟩, ⟨_, rfl, .inr rfl, rfl, fun _ => rfl⟩, by decide, by decide, fun _ => rfl, fun _ => rfl, by decide⟩

theorem ack_plain : PlainReg .intt 0x113 0x040 (2 ^ 32 - 1) :=
  ⟨⟨_, _, rfl⟩, ⟨_, rfl, .inr rfl, rfl, fun _ => rfl⟩, by decide, by decide, fun _ => rfl, fun _ => rfl, by decide⟩

theorem eoi_plain : PlainReg .intt 0x113 0x044 (2 ^ 32 - 1) :=
  ⟨⟨_, _, rfl⟩, ⟨_, rfl, .inr rfl, rfl, fun _ => rfl⟩, by decide, by decide, fun _ => rfl, fun _ => rfl, by decide⟩

/-- A write of 32 bits that the block admits takes effect. -/
theorem word_admitted {k : Kind} {p o : Nat} (hr : PlainReg k p o (2 ^ 32 - 1)) (hw : mayWrite w p s) (v : W32)
    (hc : Code.lowest (blockCodes w k p o v.toNat (wakeWaiting s)) = .ok) :
    regPut w (page p + o) v.toNat s = blockDo k p o v.toNat (wakeWaiting s) :=
  regPut_admitted hr hw (and_not_mask v.isLt) v.isLt hc

/-- One that it refuses leaves its code in PG_WSTAT. -/
theorem word_refused {k : Kind} {p o : Nat} {c : Code} (hr : PlainReg k p o (2 ^ 32 - 1)) (hw : mayWrite w p s) (v : W32)
    (hc : Code.lowest (blockCodes w k p o v.toNat (wakeWaiting s)) = c) (hne : c ≠ .ok) :
    regPut w (page p + o) v.toNat s = wstat w p o c (wakeWaiting s) := by
  subst hc
  exact regPut_refused hr hw (and_not_mask v.isLt) v.isLt hne

/-- SWI_SET and SWI_CLR take the number of a software source. -/
theorem swi_codes {k : Nat} (ho : k = 0x040 ∨ k = 0x044) (h : n ≤ 63) (s : State) : intdCodes k n s = [] := by
  have hn : refuseIf (decide (63 < n)) .range = [] := if_neg (by simp; omega)
  rcases ho with rfl | rfl <;> exact hn

/-- Why ACK or EOI of a source that the device has is refused: it is not `ready` for this writer, or its route names a more privileged
ring. -/
theorem ackEoi_codes {ready : Bool} {low : Bool} (h : n < 800) (hr : irqReserved n = false) :
    Code.lowest (refuseIf (decide (1023 < n)) .range ++ (if 1023 < n then [] else
      refuseIf (irqReserved n) .absent ++ refuseIf (!ready) .state ++ refuseIf low .priv)) =
    if ready then (if low then .priv else .ok) else .state := by
  have hn : ¬ 1023 < n := by omega
  rw [decide_eq_false hn, if_neg hn, hr]
  cases ready <;> cases low <;> rfl

theorem ack_codes (h : n < 800) (hr : irqReserved n = false) (w : Writer) (s : State) : Code.lowest (ackCodes w n s) =
    if !w.ycp && s.routesTo (s.route n) w.tid && s.irqPending n && !s.irqActive n then
      (if decide (routeRing (s.route n) < w.ring.val) then .priv else .ok) else .state := by
  rw [← ackEoi_codes h hr]
  unfold ackCodes
  simp only [Bool.not_and, Bool.not_not]

theorem eoi_codes (h : n < 800) (hr : irqReserved n = false) (w : Writer) (s : State) : Code.lowest (eoiCodes w n s) =
    if !w.ycp && s.routesTo (s.route n) w.tid && s.irqActive n then
      (if decide (routeRing (s.route n) < w.ring.val) then .priv else .ok) else .state := by
  rw [← ackEoi_codes h hr]
  unfold eoiCodes
  simp only [Bool.not_and, Bool.not_not]

/-- A refused ACK or EOI leaves its source active or not, as it was. -/
theorem irqActive_wstat (w : Writer) (o : Nat) (c : Code) (h : n < 800) (s : State) : (wstat w 0x113 o c s).irqActive n = s.irqActive n := by
  unfold State.irqActive State.flag State.fld
  rw [wstat_rd (by simp only [irqBit, B.intd, page, headPage, PG.WSTAT]; omega)]

/-- ACK makes its source active, and an edge is pending no more. -/
theorem ackDo_effect (h : n < 1024) (s : State) : (ackDo n s).irqActive n = true ∧
    (irqReserved n = false → irqIsLevel n = false → (ackDo n s).irqPending n = false) ∧ OnlyRegs s (ackDo n s) := by
  have hact : (s.setFld B.intd (irqBit 0x100 n) 1).irqActive n = true := flag_irqBit_same s 0x100 true
  unfold ackDo
  cases hl : irqIsLevel n with
  | true => exact ⟨hact, fun _ h => (nomatch h), (OnlyRegs.refl s).wr⟩
  | false =>
    refine ⟨(flag_active_pending _ 0 h).trans hact, fun hr _ => ?_, (OnlyRegs.refl s).wr.wr⟩
    rw [irqPending_edge hr hl]
    exact flag_irqBit_same _ 0x080 false

/-- Settles O42: each write by the codes of its register and what the block makes of it. -/
theorem interruptRows : Obligations.InterruptRows := by
  unfold Obligations.InterruptRows
  intro s w v n refused
  refine ⟨fun hw hn => ⟨⟨_, rfl, ?set⟩, ⟨_, rfl, ?clr⟩⟩, fun hw hn hr => ⟨fun hy hto hp ha hring => ⟨_, rfl, ?ack⟩,
    fun hy hto ha hring => ⟨_, rfl, ?eoi⟩, fun h => ⟨_, rfl, ?ackRefused⟩, fun h => ⟨_, rfl, ?eoiRefused⟩⟩⟩
  case set =>
    obtain ⟨hr, hl⟩ := low_edge (n := n) (by omega)
    have hc : Code.lowest (intdCodes 0x040 n (wakeWaiting s)) = .ok := congrArg _ (swi_codes (.inl rfl) hn _)
    rw [show B.intd = page 0x110 from rfl, word_admitted swiSet_plain hw v hc, irqPending_edge hr hl]
    refine ⟨flag_irqBit_same (wakeWaiting s) 0x080 true, fun m hm _ => (flag_irqBit_other (wakeWaiting s) 0x080 1 hm).trans ?_⟩
    exact congrArg (· != 0) (wakeWaiting_fld s _ _)
  case clr =>
    obtain ⟨hr, hl⟩ := low_edge (n := n) (by omega)
    have hc : Code.lowest (intdCodes 0x044 n (wakeWaiting s)) = .ok := congrArg _ (swi_codes (.inr rfl) hn _)
    rw [show B.intd = page 0x110 from rfl, word_admitted swiClr_plain hw v hc, irqPending_edge hr hl]
    exact ⟨flag_irqBit_same (wakeWaiting s) 0x080 false,
      (flag_active_pending (wakeWaiting s) 0 (by omega)).trans (irqActive_wakeWaiting s n)⟩
  case ack =>
    have hc : Code.lowest (ackCodes w n (wakeWaiting s)) = .ok := by
      rw [ack_codes hn hr]
      simp [hy, hto, hp, ha, Nat.not_lt.2 hring]
    rw [show B.intt = page 0x113 from rfl, word_admitted ack_plain hw v hc]
    obtain ⟨hact, hpend, hregs⟩ := ackDo_effect (by omega : n < 1024) (wakeWaiting s)
    exact ⟨hact, hpend hr, hregs.mem.trans (wakeWaiting_mem s), hregs.threads⟩
  case eoi =>
    have hc : Code.lowest (eoiCodes w n (wakeWaiting s)) = .ok := by
      rw [eoi_codes hn hr]
      simp [hy, hto, ha, Nat.not_lt.2 hring]
    have hregs : OnlyRegs (wakeWaiting s) (eoiDo n (wakeWaiting s)) := (OnlyRegs.refl _).wr
    rw [show B.intt = page 0x113 from rfl, word_admitted eoi_plain hw v hc]
    exact ⟨flag_irqBit_same (wakeWaiting s) 0x100 false, hregs.mem.trans (wakeWaiting_mem s), hregs.threads⟩
  case ackRefused =>
    have hc : Code.lowest (ackCodes w n (wakeWaiting s)) = .state := by
      rw [ack_codes hn hr]
      rcases h with h | h | h | h <;> simp [h]
    rw [show B.intt = page 0x113 from rfl, word_refused ack_plain hw v hc (by decide)]
    exact ⟨wstat_code w (by decide) _ _ _, (irqActive_wstat w _ _ hn _).trans (irqActive_wakeWaiting s n)⟩
  case eoiRefused =>
    have hc : Code.lowest (eoiCodes w n (wakeWaiting s)) = .state := by
      rw [eoi_codes hn hr]
      rcases h with h | h | h <;> simp [h]
    rw [show B.intt = page 0x113 from rfl, word_refused eoi_plain hw v hc (by decide)]
    exact ⟨wstat_code w (by decide) _ _ _, (irqActive_wstat w _ _ hn _).trans (irqActive_wakeWaiting s n)⟩

end Sys2Proof.Machine
end

section
/-! What an entry leaves: the frame that goes first, and the thread in the ring it enters (R143 to R145). -/
namespace Sys2Proof.Machine

variable {s s1 : State} {t : ThreadId} {k : Nat} {th : Thread} {r : EntryReq} {vbr : W64} {ps : List (Nat × Nat)}

/-! ### The frame in the trio's own SRAM -/

theorem pushUndo_mem (s : State) (n a len : Nat) : (s.pushUndo n a len).mem = s.mem := by
  unfold State.pushUndo
  dsimp only
  split
  · rw [State.setFld_mem, State.setTrio_mem]
  · rw [State.setTrio_mem]

/-- The undo log apart, a local write is a write (R58). -/
theorem pokeLocal_mem (s : State) (n a : Nat) (d : List Byte) : (s.pokeLocal n a d).mem = memWriteL s.mem a d := by
  unfold State.pokeLocal
  split
  · exact congrArg (memWriteL · a d) (pushUndo_mem s n a d.length)
  · rfl

theorem pokeLocal_unpaired {n : Nat} (h : s.conf n ≠ 1) (a : Nat) (d : List Byte) : s.pokeLocal n a d = s.poke a d := by
  unfold State.pokeLocal
  rw [if_neg h]

theorem pokeLocals_mem (n : Nat) (l : List (Nat × List Byte)) {s u : State} (h : s.mem = u.mem) :
    (l.foldl (fun a x => a.pokeLocal n x.1 x.2) s).mem = (l.foldl (fun a x => a.poke x.1 x.2) u).mem := by
  induction l generalizing s u with
  | nil => exact h
  | cons x l ih => exact ih ((pokeLocal_mem s n x.1 x.2).trans (congrArg (memWriteL · x.1 x.2) h))

theorem pokeLocals_unpaired {n : Nat} (l : List (Nat × List Byte)) (h : s.conf n ≠ 1) :
    l.foldl (fun a x => a.pokeLocal n x.1 x.2) s = l.foldl (fun a x => a.poke x.1 x.2) s := by
  induction l generalizing s with
  | nil => rfl
  | cons x l ih =>
    rw [List.foldl_cons, List.foldl_cons, pokeLocal_unpaired h]
    exact ih (fun hc => h ((State.poke_fld s x.1 x.2 _ _).symm.trans hc))

/-! ### Where the frame goes -/

/-- All pieces of a frame lie in the trio's own data half. -/
abbrev ownFrame (t : ThreadId) (ps : List (Nat × Nat)) (s : State) : Prop := ∀ q, q ∈ ps → s.region q.1 = .locD t.trio.val

/-- A buffered store of the thread touches the frame. -/
abbrev behindStore (k : Nat) (ps : List (Nat × Nat)) (s : State) : Prop :=
  ∃ o, o ∈ (s.thread k).buf ∧ touches o.what.pieces ps = true

/-- The test of `framePut`: own, and behind no store. -/
theorem writtenAtOnce_iff (t : ThreadId) (k : Nat) (ps : List (Nat × Nat)) (s : State) :
    ((ps.all (fun p => s.region p.1 == .locD t.trio.val) = true) ∧ ¬ ((s.thread k).buf.any (fun o => touches o.what.pieces ps) = true)) ↔
      (ownFrame t ps s ∧ ¬ behindStore k ps s) := by
  simp only [List.all_eq_true, List.any_eq_true, beq_iff_eq]

theorem framePut_own (h : ownFrame t ps s) (hb : ¬ behindStore k ps s) (hl : limitCheckpoint t.trio.val s = s) (ring la : Nat)
    (d : List Byte) : framePut t k ring la ps d s = (cutData ps d).foldl (fun a x => a.pokeLocal t.trio.val x.1 x.2) s := by
  have hrun : s.sameRun s = true := beq_self_eq_true s.dev.resets
  unfold framePut
  dsimp only
  rw [if_pos ((writtenAtOnce_iff t k ps s).2 ⟨h, hb⟩), hl, if_pos hrun]

theorem framePut_buffered (h : ¬ ownFrame t ps s ∨ behindStore k ps s) (ring la : Nat) (d : List Byte) :
    framePut t k ring la ps d s = s.pushBuf k ⟨t, fin4 ring, s.partOf t ring, false, .store la (cutData ps d)⟩ := by
  unfold framePut
  dsimp only
  rw [if_neg (fun hc => ?_)]
  obtain ⟨ho, hb⟩ := (writtenAtOnce_iff t k ps s).1 hc
  exact h.elim (fun hn => hn ho) hb

/-! ### SR behind an entry -/

theorem setSr_bit_other (th : Thread) {lo wd i : Nat} (h : lo + wd ≤ 64) (v : Nat) (ha : i < lo ∨ lo + wd ≤ i) :
    (th.setSr lo wd v).sr.getLsbD i = th.sr.getLsbD i := by
  rw [setSr_sr_bit th h]
  split_ifs <;> first | rfl | omega

theorem setSr_bit_own (th : Thread) {lo wd i : Nat} (h : lo + wd ≤ 64) (v : Nat) (hi : i < wd) :
    (th.setSr lo wd v).sr.getLsbD (lo + i) = v.testBit i := by
  rw [setSr_sr_bit th h, if_neg (by omega), if_pos (by omega), Nat.add_sub_cancel_left]

theorem holdCe_bit_other (s : State) (th : Thread) {i : Nat} (hi : i ≠ 3) : (s.holdCe th).sr.getLsbD i = th.sr.getLsbD i := by
  unfold State.holdCe
  split
  · exact setSr_bit_other th (by decide) 1 (by omega)
  · rfl

theorem holdCe_ce (s : State) (th : Thread) : (s.holdCe th).sr.getLsbD 3 = (s.ceHeld || th.sr.getLsbD 3) := by
  unfold State.holdCe
  cases s.ceHeld
  · rfl
  · exact setSr_bit_own th (lo := 3) (i := 0) (by decide) 1 (by decide)

theorem clearIe_bit_other (th : Thread) (keep : Bool) {i : Nat} (hi : i ≠ 0) :
    (if keep then th else th.setSr 0 1 0).sr.getLsbD i = th.sr.getLsbD i := by
  cases keep with
  | true => rfl
  | false => exact setSr_bit_other th (by decide) 0 (by omega)

/-- The thread with RING, CE and IE as the entry sets them (R145). -/
def ringSet (th : Thread) (r : EntryReq) (vbr : W64) : Thread :=
  let th1 := (th.setSr 1 2 r.ring).setSr 3 1 (b2n (vbr.getLsbD 0))
  if r.keepIe then th1 else th1.setSr 0 1 0

/-- SR in the ring entered, with CE where the mode holds it (R108). -/
def enteredSr (s : State) (th : Thread) (r : EntryReq) (vbr : W64) : W64 := (s.holdCe (ringSet th r vbr)).sr

/-- A thread at the entry's address, with its cause and no product under way, as it lands. -/
def atVector (s : State) (k : Nat) (r : EntryReq) (vbr : W64) (x : Thread) : Thread :=
  { x with
    st := .running, pc := BitVec.ofNat 64 (bf vbr 2 46 * 4), near := none, far := none
    cause := BitVec.ofNat 64 r.cause, faddr := r.faddr, finfo := r.finfo }.land (s.thread k)

/-- The thread behind an entry. -/
def entered (s : State) (k : Nat) (th : Thread) (r : EntryReq) (vbr : W64) : Thread :=
  let n := atVector s k r vbr { th with sr := enteredSr s th r vbr }
  { n with err := if r.cause = 0x10 then none else n.err }

/-- An entry writes SR of the thread and nothing else before the thread goes to the vector. -/
theorem ringSet_sr (th : Thread) (r : EntryReq) (vbr : W64) : ∃ v, ringSet th r vbr = { th with sr := v } := by
  unfold ringSet
  cases r.keepIe <;> exact ⟨_, rfl⟩

/-- Where a mode holds CE, SR alone changes. -/
theorem holdCe_eq (s : State) {x y : Thread} (h : x.sr = y.sr) : s.holdCe x = { x with sr := (s.holdCe y).sr } := by
  unfold State.holdCe Thread.setSr
  rw [h]
  split
  · rfl
  · rw [← h]

theorem enterThread_eq (s : State) (k : Nat) (th : Thread) (r : EntryReq) (vbr : W64) : enterThread s k th r vbr = entered s k th r vbr := by
  have hland : s.holdCe (atVector s k r vbr (ringSet th r vbr)) = atVector s k r vbr { th with sr := enteredSr s th r vbr } := by
    obtain ⟨v, hv⟩ := ringSet_sr th r vbr
    rw [holdCe_eq s (x := atVector s k r vbr (ringSet th r vbr)) (y := ringSet th r vbr) rfl, enteredSr, hv]
    rfl
  have hstep : enterThread s k th r vbr =
    let n := s.holdCe (atVector s k r vbr (ringSet th r vbr))
    if r.cause = 0x10 then { n with err := none } else n := rfl
  rw [hstep, hland, entered]
  dsimp only
  split <;> rfl

theorem enteredSr_ie : (enteredSr s th r vbr).getLsbD 0 = (r.keepIe && th.ie) := by
  unfold enteredSr ringSet
  rw [holdCe_bit_other s _ (by decide)]
  cases r.keepIe with
  | true =>
    exact (setSr_bit_other _ (by decide) _ (by decide)).trans ((setSr_bit_other th (by decide) _ (by decide)).trans (Bool.true_and _).symm)
  | false => exact setSr_bit_own _ (lo := 0) (i := 0) (by decide) 0 (by decide)

theorem enteredSr_ring_bit {i : Nat} (hi : i < 2) : (enteredSr s th r vbr).getLsbD (1 + i) = r.ring.testBit i := by
  unfold enteredSr ringSet
  rw [holdCe_bit_other s _ (by omega), clearIe_bit_other _ _ (by omega), setSr_bit_other _ (by decide) _ (by omega),
    setSr_bit_own _ (by decide) _ hi]

theorem enteredSr_ce : (enteredSr s th r vbr).getLsbD 3 = (s.ceHeld || vbr.getLsbD 0) := by
  unfold enteredSr ringSet
  rw [holdCe_ce, clearIe_bit_other _ _ (by decide), setSr_bit_own _ (lo := 3) (i := 0) (by decide) _ (by decide)]
  cases vbr.getLsbD 0 <;> rfl

/-- Flags and LA stay as they were. -/
theorem enteredSr_high {i : Nat} (hi : 4 ≤ i) : (enteredSr s th r vbr).getLsbD i = th.sr.getLsbD i := by
  unfold enteredSr ringSet
  rw [holdCe_bit_other s _ (by omega), clearIe_bit_other _ _ (by omega), setSr_bit_other _ (by decide) _ (by omega),
    setSr_bit_other _ (by decide) _ (by omega)]

theorem entered_ring (k : Nat) (h : r.ring < 4) : (entered s k th r vbr).ring = r.ring := by
  refine Nat.eq_of_testBit_eq fun i => ?_
  show (nbits (enteredSr s th r vbr).toNat 1 2).testBit i = _
  rw [nbits_testBit, BitVec.testBit_toNat]
  by_cases hi : i < 2
  · rw [decide_eq_true hi, Bool.true_and, enteredSr_ring_bit hi]
  · have hlt : r.ring < 2 ^ i := Nat.lt_of_lt_of_le h (Nat.pow_le_pow_right (by decide : 0 < 2) (by omega : 2 ≤ i))
    rw [decide_eq_false hi, Bool.false_and, Nat.testBit_lt_two_pow hlt]

theorem entered_flags (k : Nat) : (entered s k th r vbr).flags = th.flags := by
  show NZCV.mk ((enteredSr s th r vbr).getLsbD 4) ((enteredSr s th r vbr).getLsbD 5) ((enteredSr s th r vbr).getLsbD 6)
    ((enteredSr s th r vbr).getLsbD 7) = _
  rw [enteredSr_high (by decide), enteredSr_high (by decide), enteredSr_high (by decide), enteredSr_high (by decide)]
  rfl

/-- A thread that nobody has asked to stop runs on in the ring it entered. -/
theorem entered_runs (h : th.stopReq = false) (hk : unasked (s.thread k)) : (entered s k th r vbr).st = .running := by
  refine (land_st ..).trans (if_neg ?_)
  simp [h, hk.1, hk.2]

/-! ### The entry -/

/-- An entry with its frame placed and its stack and VBR well formed takes place, unless a reset came with the frame (R143 to R145). -/
theorem enterRing_enters (hp : framePieces t r.ring th (splitLines 3 (bf (th.g30of r.ring - 64) 0 48) 64) s = .ok (ps, s1))
    (hsp : (th.g30of r.ring - 64).toNat % 16 = 0) (hv : vbrBad (th.vbrOf r.ring) = false)
    (hrun : (framePut t k r.ring (bf (th.g30of r.ring - 64) 0 48) ps (frameBytes th r) s1).sameRun s = true) :
    let s2 := framePut t k r.ring (bf (th.g30of r.ring - 64) 0 48) ps (frameBytes th r) s1
    enterRing s t k th r = s2.setThread k ((entered s2 k th r (th.vbrOf r.ring)).setG30 r.ring (th.g30of r.ring - 64)) := by
  unfold enterRing
  simp only [hp, hsp, hv, hrun, ne_eq, not_true_eq_false, Bool.false_eq_true, if_false, if_true, enterThread_eq]

/-- Settles O22: the frame by where it goes, the thread by `entered` and the bits of its SR. -/
theorem entryEffect : Obligations.EntryEffect := by
  unfold Obligations.EntryEffect
  intro s s1 t k th r ps hring sp vbr own s2 hp behind put
  refine ⟨fun ho hb hl => framePut_own ho hb hl _ _ _, pokeLocals_mem _ _ rfl, fun hc => pokeLocals_unpaired _ hc, fun h => ?buffered,
    fun hsp hv hce hrun => ⟨_, enterRing_enters hp hsp hv hrun, ?thread⟩⟩
  case buffered =>
    exact ⟨_, framePut_buffered h _ _ _, rfl, Nat.mod_eq_of_lt hring, rfl⟩
  case thread =>
    refine ⟨entered_ring k hring, enteredSr_ce.trans (by rw [hce, Bool.false_or]), enteredSr_ie, entered_flags k, enteredSr_high (by decide),
      rfl, setG30_same (entered s2 k th r vbr) _ _, fun q hq => setG30_other (entered s2 k th r vbr) hq _,
      rfl, rfl, rfl, rfl, rfl, rfl, rfl, rfl, rfl, rfl, rfl, rfl, rfl, rfl, rfl, rfl, rfl, fun h h2 h3 => entered_runs h ⟨h2, h3⟩⟩

end Sys2Proof.Machine
end

section
/-! Escalation and double escalation, and where a synchronous exception enters (R148, R149, R153, R154). -/
namespace Sys2Proof.Machine

variable {s s1 : State} {t : ThreadId} {k : Nat} {th : Thread} {r : EntryReq} {reason : Nat} {addr : W64} {ps : List (Nat × Nat)}

/-! ### Which way an entry goes -/

section
variable (hp : framePieces t r.ring th (splitLines 3 (bf (th.g30of r.ring - 64) 0 48) 64) s = .ok (ps, s1))
include hp

theorem enterRing_misaligned (hsp : (th.g30of r.ring - 64).toNat % 16 ≠ 0) :
    enterRing s t k th r = escalate s1 t k th r 2 (th.g30of r.ring - 64) := by
  unfold enterRing
  simp only [hp]
  exact if_pos hsp

theorem enterRing_badVector (hsp : (th.g30of r.ring - 64).toNat % 16 = 0) (hv : vbrBad (th.vbrOf r.ring) = true) :
    enterRing s t k th r = escalate s1 t k th r 3 (th.vbrOf r.ring) := by
  unfold enterRing
  simp only [hp]
  rw [if_neg (not_not.2 hsp), if_pos hv]

end

/-- A frame that cannot be written escalates with the address that faults. -/
theorem enterRing_unframed {la : Nat}
    (hp : framePieces t r.ring th (splitLines 3 (bf (th.g30of r.ring - 64) 0 48) 64) s = .error (some la, s1)) :
    enterRing s t k th r = escalate s1 t k th r 1 (BitVec.ofNat 64 la) := by
  unfold enterRing
  simp only [hp]

/-- A frame whose table read waits for the trio's quota leaves the thread to try again (R199). -/
theorem enterRing_waits (hp : framePieces t r.ring th (splitLines 3 (bf (th.g30of r.ring - 64) 0 48) 64) s = .error (none, s1)) :
    enterRing s t k th r = s1 := by
  unfold enterRing
  simp only [hp]

/-! ### Escalation -/

/-- The entry that an entry escalates to (R153). -/
def escalation (r : EntryReq) (reason : Nat) (addr : W64) : EntryReq :=
  ⟨0, 0xFF, addr, BitVec.ofNat 64 (r.cause % 256 + reason * 256 + r.ring * 65536), r.ret, false, false⟩

/-- ESP or VBR0 is malformed (R154). -/
abbrev escMalformed (th : Thread) : Prop := th.esp.toNat % 16 ≠ 0 ∨ vbrBad (th.vbrOf 0) = true

/-- The state with the frame of an escalation placed. -/
def escFramed (t : ThreadId) (k : Nat) (th : Thread) (r : EntryReq) (reason : Nat) (addr : W64) (ps : List (Nat × Nat)) (s : State) : State :=
  framePut t k 0 (bf (th.esp - 64) 0 48) ps (frameBytes th (escalation r reason addr)) s

/-- The thread behind an escalation: it takes its frame from ESP, and an entry for a store error has taken that error (R153, R158). -/
def escalated (s : State) (k : Nat) (th : Thread) (r : EntryReq) (reason : Nat) (addr : W64) : Thread :=
  let n := entered s k th (escalation r reason addr) (th.vbrOf 0)
  { n with esp := th.esp - 64, err := if r.cause = 0x10 then none else n.err }

theorem escalate_enters (hm : ¬ escMalformed th) (hp : framePieces t 0 th (splitLines 3 (bf (th.esp - 64) 0 48) 64) s = .ok (ps, s1))
    (hrun : (escFramed t k th r reason addr ps s1).sameRun s = true) :
    let s2 := escFramed t k th r reason addr ps s1
    escalate s t k th r reason addr = (s2.setThread k (escalated s2 k th r reason addr)).incSat B.intd INTD.ESC_CNT := by
  unfold escalate
  simp only [hp]
  rw [if_neg hm]
  exact (if_pos hrun).trans (by rw [enterThread_eq]; rfl)

/-- What the entry of an escalation leaves of its thread. -/
theorem escalated_thread (s : State) (k : Nat) (th : Thread) (r : EntryReq) (reason : Nat) (addr : W64) :
    let n := escalated s k th r reason addr
    n.ring = 0 ∧ n.cause = 0xFF ∧ n.faddr = addr ∧ n.finfo = (escalation r reason addr).finfo ∧ n.esp = th.esp - 64 ∧ n.ie = false ∧
      n.pc = BitVec.ofNat 64 (bf (th.vbrOf 0) 2 46 * 4) ∧ ∀ q, n.g30of q = th.g30of q :=
  ⟨entered_ring k (r := escalation r reason addr) (by decide : 0 < 4), rfl, rfl, rfl, rfl,
    enteredSr_ie (r := escalation r reason addr), rfl, fun _ => rfl⟩

/-- A counter field behind an event: one more, up to its largest value. -/
theorem fld_incSat_same (s : State) (b : Nat) {f : Fld} (h : f.lo + f.wd ≤ 32) : (s.incSat b f).fld b f = satInc f.wd (s.fld b f) := by
  have hlt : satInc f.wd (s.fld b f) < 2 ^ f.wd := by
    have := Nat.two_pow_pos f.wd
    unfold satInc
    split <;> omega
  unfold State.incSat
  rw [State.fld_setFld_same _ _ _ _ h, Nat.mod_eq_of_lt hlt]

/-! ### Double escalation -/

theorem escalate_malformed (hm : escMalformed th) : escalate s t k th r reason addr = doubleEscalation s t k th := by
  unfold escalate
  exact if_pos hm

theorem escalate_unframed (hm : ¬ escMalformed th) {la : Nat}
    (hp : framePieces t 0 th (splitLines 3 (bf (th.esp - 64) 0 48) 64) s = .error (some la, s1)) :
    escalate s t k th r reason addr = doubleEscalation s1 t k th := by
  unfold escalate
  simp only [hp]
  exact if_neg hm

/-- A double escalation stops its thread with its registers kept, makes the trio's source pending and counts (R154). -/
theorem doubleEscalation_effect (s : State) (t : ThreadId) (k : Nat) (th : Thread) :
    let s' := doubleEscalation s t k th
    s'.thread k = { th.land (s.thread k) with st := .stopped } ∧ (∀ j, j ≠ k → s'.thread j = s.thread j) ∧
      s'.irqPending (64 + 4 * t.trio.val) = true ∧ s'.fld B.intd INTD.DESC_CNT = satInc INTD.DESC_CNT.wd (s.fld B.intd INTD.DESC_CNT) ∧
      s'.mem = s.mem := by
  have ht := t.trio.isLt
  obtain ⟨hr, hl⟩ := low_edge (n := 64 + 4 * t.trio.val) (by omega)
  unfold doubleEscalation
  generalize hu : s.setThread k { th.land (s.thread k) with st := .stopped } = u
  have hcnt : (u.irq (64 + 4 * t.trio.val)).fld B.intd INTD.DESC_CNT = s.fld B.intd INTD.DESC_CNT := by
    unfold State.irq
    rw [hr, if_neg Bool.false_ne_true, State.fld_setFld_off _ _ (by simp only [INTD.DESC_CNT]; omega), ← hu, State.setThread_fld]
  refine ⟨?stops, fun j hj => ?other, ?pends, (fld_incSat_same _ _ (by decide)).trans (congrArg _ hcnt), ?mem⟩
  case stops => rw [State.incSat_thread, State.irq_thread, ← hu, State.setThread_same]
  case other => rw [State.incSat_thread, State.irq_thread, ← hu, State.setThread_other _ hj]
  case pends =>
    rw [irqPending_edge hr hl]
    refine (State.flag_setFld_off _ _ (by simp only [irqBit, INTD.DESC_CNT]; omega)).trans ?_
    exact (irqPending_edge hr hl _).symm.trans (irqPending_irq hr hl)
  case mem => rw [State.incSat_mem, State.irq_mem, ← hu, State.setThread_mem]

/-- Settles O23: an exception is an entry by definition; an entry takes place, escalates or waits by its frame, its stack and its VBR. -/
theorem entryTargetAndEscalation : Obligations.EntryTargetAndEscalation := by
  unfold Obligations.EntryTargetAndEscalation
  refine ⟨fun s t k th e => ⟨_, rfl, rfl, rfl, rfl, rfl, rfl, rfl, rfl⟩, fun s t k th r =>
    ⟨fun ps s1 hp => ⟨enterRing_misaligned hp, enterRing_badVector hp⟩, fun la s1 hp => enterRing_unframed hp,
      fun s1 hp => enterRing_waits hp, ?escalates, ?stops⟩⟩
  case escalates =>
    intro reason addr ps s1 hesp hv r0 s2 hp hrun
    have hm : ¬ escMalformed th := fun h => h.elim (fun hn => hn hesp) (fun hb => Bool.false_ne_true (hv.symm.trans hb))
    have he : escalate s t k th r reason addr = (s2.setThread k (escalated s2 k th r reason addr)).incSat B.intd INTD.ESC_CNT :=
      escalate_enters hm hp hrun
    obtain ⟨hring, hcause, hfaddr, hfinfo, hsp, hie, hpc, hg30⟩ := escalated_thread s2 k th r reason addr
    simp only [he, State.incSat_thread, State.setThread_same]
    exact ⟨hring, hcause, hfaddr, hfinfo, hsp, hie, hpc, hg30,
      (fld_incSat_same _ _ (by decide)).trans (congrArg _ (State.setThread_fld ..))⟩
  case stops =>
    intro reason addr s1 malformed h
    have hd : escalate s t k th r reason addr = doubleEscalation s1 t k th := by
      rcases h with ⟨hm, rfl⟩ | ⟨hm, la, hp⟩
      · exact escalate_malformed hm
      · exact escalate_unframed hm hp
    rw [hd]
    exact doubleEscalation_effect s1 t k th

end Sys2Proof.Machine
end

section
/-! GATE, BRK and the returns that are refused (R76, R147, R151, R152). -/
namespace Sys2Proof.Machine

variable {s s1 s2 : State} {t : ThreadId} {w : W32} {th : Thread} {d : Dec} {c : Cx} {pa n : Nat} {la fin : W64}

/-! ### Doublewords -/

theorem nbit_toNat {n : Nat} (x : BitVec n) (i : Nat) : nbit x.toNat i = x.getLsbD i := by
  rw [← BitVec.testBit_toNat, Nat.testBit_eq_decide_div_mod_eq]
  rfl

/-- A doubleword comes back from its bytes. -/
theorem leNat_leBytes_double (x : W64) : leNat (leBytes 8 x.toNat) = x.toNat :=
  (leNat_leBytes 8 x.toNat).trans (Nat.mod_eq_of_lt x.isLt)

/-! ### BRK -/

/-- Software holds the right to halt, in a mode that lets it (R76, R127). -/
abbrev mayHalt (s : State) : Prop := s.haltRight = true ∧ (s.mode = mCalico ∨ s.mode = mJersey)

theorem opBrk_halts (h : mayHalt s) : opBrk c s = .done (haltCore s c.t.trio.val c.t.core.val) c.th none none := if_pos h

theorem opBrk_refused (h : ¬ mayHalt s) : opBrk c s = c.wordExc s 0x01 := if_neg h

/-- The thread of an issued word is one of those that a halt of its core halts. -/
theorem issued_halted (h : issued s t w = some (th, d, s1)) :
    ((haltCore s1 t.trio.val t.core.val).thread (s.tkey t)).halted = true := by
  have hkey : s.tkey t ∈ dbgKeys t.trio.val t.core.val s1 := by
    have hconf : s1.conf t.trio.val = s.conf t.trio.val := by
      have ht := t.trio.isLt
      unfold State.conf State.fld
      rw [(issued_fetched h).rd _ (by simp only [B.trio, B.walk, page, TRIO.STAT_CONF_NOW, WALK.WALK_CNT]; omega)]
    unfold dbgKeys State.tkey
    rw [hconf]
    exact List.mem_map_of_mem (List.mem_range.2 t.thr.isLt)
  rw [haltCore_eq, State.setFld_thread, State.setFld_thread]
  exact setHalted_thread (.inl hkey)

/-! ### The read of a gate's entry -/

/-- Where a gate's entry lies (R150). -/
abbrev gateAddr (s : State) (i : Nat) : Nat := s.fld B.intd INTD.GATE_BASE_LO + s.fld B.intd INTD.GATE_BASE_HI * 2 ^ 32 + 16 * i

theorem opGate_beyond (h : s.fld B.intd INTD.GATE_LIMIT_N ≤ c.d.fn) : opGate c s = .exc s ⟨0x09, BitVec.ofNat 64 c.d.fn, 1⟩ := if_pos h

theorem opGate_reads (h : c.d.fn < s.fld B.intd INTD.GATE_LIMIT_N) (hl : c.ld = none) :
    opGate c s = .wait s (.load c.w [(gateAddr s c.d.fn, 16)] 0 0 none) := by
  unfold opGate
  rw [hl]
  exact if_neg (Nat.not_le.2 h)

/-- A valid entry that admits the caller enters its ring (R152). -/
theorem opGate_enters {arg hi : W64} (h : c.d.fn < s.fld B.intd INTD.GATE_LIMIT_N)
    (hl : c.ld = some (leBytes 8 arg.toNat ++ leBytes 8 hi.toNat)) (hz : bf hi 6 58 = 0) (hv : hi.getLsbD 0 = true)
    (hfrom : c.th.ring ≤ bf hi 3 2) (hto : bf hi 1 2 < c.th.ring) :
    opGate c s = .enter s (c.th.shiftProducts none)
      ⟨bf hi 1 2, 0x40, arg, BitVec.ofNat 64 (c.d.fn + c.th.ring * 65536), c.th.pc + 4, true, hi.getLsbD 5⟩ := by
  have hlow : (leBytes 8 arg.toNat ++ leBytes 8 hi.toNat).take 8 = leBytes 8 arg.toNat := List.take_left' (leBytes_length 8 _)
  have hhigh : (leBytes 8 arg.toNat ++ leBytes 8 hi.toNat).drop 8 = leBytes 8 hi.toNat := List.drop_left' (leBytes_length 8 _)
  unfold bf at hz hfrom hto
  unfold opGate
  simp only [hl, hlow, hhigh, leNat_leBytes_double, nbit_toNat, hz, hv, BitVec.ofNat_toNat, BitVec.setWidth_eq, ne_eq,
    not_true_eq_false, if_false]
  rw [if_neg (Nat.not_le.2 h), if_neg (by omega)]
  rfl

/-! ### Data that arrives for a read -/

theorem normal_not_regs (hn : (s.region pa).isNormal = true) : s.region pa ≠ .regs := by
  intro h
  rw [h] at hn
  cases hn

section
variable (hd : decodeOp w = .ok d) (hr : d.row ≠ .atom) (hn : (s.region pa).isNormal = true)
include hd hr hn

/-- A read of normal memory gives the bytes memory holds. -/
theorem loadData_read : loadData s t th w [(pa, n)] none = (bytesFrom s.byteAt pa n, s) := by
  unfold loadData performLoad
  simp only [List.headD_cons, normal_not_regs hn, if_false, hd, hr, false_and, readPieces, List.flatMap_cons, List.flatMap_nil,
    List.append_nil]

theorem wantsCheckpoint_read : wantsCheckpoint s t w pa = false := by
  unfold wantsCheckpoint
  simp only [hd, beq_eq_false_iff_ne.2 (normal_not_regs hn), beq_eq_false_iff_ne.2 hr, Bool.false_and, Bool.or_false]

/-- The instruction of a read goes on with the bytes that memory holds. -/
theorem loadArrives_read (hst : (s.thread (s.tkey t)).st = .stalled (.load w [(pa, n)] la fin none)) (hl : (s.trio t.trio.val).lost = false)
    (hh : heldRead s t = false) (ha : storesAhead s t w [(pa, n)] = false) (hb : s.badAddr pa n = none) : loadArrives t .ok s =
      ceEnd (s.tkey t) (coreRun s t (s.tkey t) (s.thread (s.tkey t)).awake w [] (some (bytesFrom s.byteAt pa n))) := by
  have hg : busFails .ok = false := rfl
  have hs (m : W32) (x : Nat) : s.busErr pa m x .ok = s := rfl
  unfold loadArrives
  simp only [hst, hl, hh, ha, withBad_good hb, failAddr_good hb, hg, hs, loadData_read hd hr hn, List.headD_cons,
    wantsCheckpoint_read hd hr hn, Bool.false_eq_true, false_and, or_self, and_false, if_false]

end

/-- GATE with its entry read goes on in its operation. -/
theorem coreRun_gate {k : Nat} (hd : decodeOp w = .ok d) (hr : d.row = .gate) (hx : th.executes w = true) (data : List Byte) :
    coreRun s t k th w [] (some data) = settleLate ⟨t, k, th, w, ⟨.endp, 0, 0, 0, 0, 0, 0, 0, false⟩, [], some data⟩
      (opGate ⟨t, k, th, w, d, [], some data⟩ s) := by
  have hring : ¬ d.ringMax < th.ring := by
    have := th.ring_lt
    simp only [Dec.ringMax, hr]
    omega
  unfold coreRun
  simp only [Option.isSome_some, if_true, hd, hr, hx, hring, reduceCtorEq, not_true_eq_false, if_false, opExec]

/-! ### Refused returns -/

/-- The checks of a return on a frame that it could read, in their order (R147). -/
theorem opReturn_checks {gate : Bool} {q0 q1 : W64} {rest : List Byte}
    (ha : loadAcc c (returnAcc c.th) s = .ok (leBytes 8 q0.toNat ++ leBytes 8 q1.toNat ++ rest, s1)) :
    let exc (reason : Nat) : OpEnd := .exc s1 ⟨0x09, c.th.g30of c.th.ring, BitVec.ofNat 64 reason⟩
    (q1.getLsbD 16 ≠ gate → opReturn gate c s = exc 8) ∧
    (q1.getLsbD 16 = gate → bf q1 1 2 < c.th.ring → opReturn gate c s = exc 9) ∧
    (q1.getLsbD 16 = gate → c.th.ring ≤ bf q1 1 2 → (bf q1 9 7 ≠ 0 ∨ bf q1 19 45 ≠ 0 ∨ bf q0 0 2 ≠ 0) → opReturn gate c s = exc 10) := by
  have hw (i : Nat) (l : List Byte) : leNat ((l.drop (8 * i)).take 8) = wordAt l i := rfl
  have h0 : wordAt (leBytes 8 q0.toNat ++ (leBytes 8 q1.toNat ++ rest)) 0 = q0.toNat := by
    rw [wordAt_first, Nat.mod_eq_of_lt q0.isLt]
  have h1 : wordAt (leBytes 8 q0.toNat ++ (leBytes 8 q1.toNat ++ rest)) 1 = q1.toNat := by
    rw [wordAt_next, wordAt_first, Nat.mod_eq_of_lt q1.isLt]
  rw [List.append_assoc] at ha
  unfold returnAcc at ha
  unfold bf opReturn
  simp only [ha, hw, h0, h1, nbit_toNat]
  refine ⟨fun hk => if_pos hk, fun hk hring => ?_, fun hk hring hbad => ?_⟩
  · rw [if_neg (not_not.2 hk), if_pos hring]
  · have hbad' : nbits q1.toNat 9 7 ≠ 0 ∨ nbits q1.toNat 19 45 ≠ 0 ∨ q0.toNat % 4 ≠ 0 := by
      unfold nbits at hbad ⊢
      omega
    rw [if_neg (not_not.2 hk), if_neg (Nat.not_lt.2 hring), if_pos hbad']

/-- Settles O25: each row by its operation's own cases, the valid gate by the data that arrives for it. -/
theorem gateRows : Obligations.GateRows := by
  unfold Obligations.GateRows
  refine ⟨fun s s1 t w th d h => ⟨fun hr hi => ?beyond, fun hr hi => ?reads, fun hr hm => ?illegal, fun hr hm hmode => ?halts, ?returns⟩,
    ?enters⟩
  case beyond => exact exec_settles (exec_row (i := .gate t w) h hr opGate) (opGate_beyond hi)
  case reads => exact exec_settles (exec_row (i := .gate t w) h hr opGate) (opGate_reads hi rfl)
  case illegal => exact exec_settles (exec_row (i := .brk t w) h hr opBrk) (opBrk_refused hm)
  case halts => exact ⟨exec_settles (exec_row (i := .brk t w) h hr opBrk) (opBrk_halts ⟨hm, hmode⟩), issued_halted h⟩
  case returns =>
    intro q0 q1 rest s2 i gate hrow ha exc
    have hx : exec i s = .next (settle (fetchCx s t th w) (opReturn gate (runCx s t th w d) s1)) := by
      rcases hrow with ⟨hr, rfl, rfl⟩ | ⟨hr, rfl, rfl⟩
      · exact exec_row h hr (opReturn false)
      · exact exec_row h hr (opReturn true)
    obtain ⟨hkind, hring, himage⟩ := opReturn_checks (c := runCx s t th w d) (gate := gate) ha
    exact ⟨fun hk => exec_settles hx (hkind hk), fun hk hq => exec_settles hx (hring hk hq),
      fun hk hq hb => exec_settles hx (himage hk hq hb)⟩
  case enters =>
    intro s t w d pa la fin arg hi k th hst hd hr hx hlim hn hl hh ha hb hdata hz hv hfrom hto
    refine congrArg Host.Outcome.next ?_
    rw [loadArrives_read hd (by rw [hr]; decide) hn hst hl hh ha hb, hdata, coreRun_gate hd hr hx, opGate_enters hlim rfl hz hv hfrom hto]
    rfl

end Sys2Proof.Machine
end

section
/-! What a thread takes at an instruction boundary, and the late errors of its stores (R149, R158, R160). -/
namespace Sys2Proof.Machine

variable {s : State} {t : ThreadId} {th : Thread}

/-! ### The boundary -/

theorem interruptEntry_takes {n : Nat} (hi : s.eligibleIrq t (s.thread (s.tkey t)) = some n)
    (hb : s.atBoundary t (s.thread (s.tkey t)) = true) (he : (s.thread (s.tkey t)).err = none) :
    exec (.interruptEntry t) s = .next (takeIrq s t (s.tkey t) (s.thread (s.tkey t)).awake n) := by
  show execInterruptEntry t s = _
  unfold execInterruptEntry
  simp only [hi, hb, he, Option.isNone_none, Bool.and_self, if_true]

/-- A store error goes before an interrupt (R149). -/
theorem interruptEntry_waits {e : AsyncErr} (he : (s.thread (s.tkey t)).err = some e) : exec (.interruptEntry t) s = .next s := by
  show execInterruptEntry t s = _
  unfold execInterruptEntry
  simp only [he, Option.isNone_some, Bool.and_false, Bool.false_eq_true, if_false]
  split <;> rfl

/-- The entry of a late store error (R158). -/
def storeErrorEntry (th : Thread) (e : AsyncErr) : EntryReq :=
  ⟨0, 0x10, BitVec.ofNat 64 e.addr.toNat, BitVec.ofNat 64 (e.info.toNat + e.more.toNat * 65536), th.pc, false, false⟩

theorem asyncStoreErrorEntry_takes {e : AsyncErr} (he : (s.thread (s.tkey t)).err = some e)
    (hb : s.atBoundary t (s.thread (s.tkey t)) = true) : exec (.asyncStoreErrorEntry t) s =
      .next (enterRing s t (s.tkey t) (s.thread (s.tkey t)).awake (storeErrorEntry (s.thread (s.tkey t)) e)) := by
  show execAsyncStoreErrorEntry t s = _
  unfold execAsyncStoreErrorEntry
  simp only [he, hb, if_true]
  rfl

/-- While there is an entry to take the thread issues nothing. -/
theorem issuing_entryFirst (h : s.entryFirst t (s.thread (s.tkey t)) = true) : s.issuing t = none := by
  unfold State.entryFirst at h
  rw [Bool.or_eq_true] at h
  refine if_pos ?_
  rcases h with h | h
  · exact .inr (.inr (.inl h))
  · exact .inr (.inr (.inr (.inl h)))

/-! ### Late store errors -/

theorem storeError_first (h : th.err = none) (pa kind lg : Nat) : th.storeError pa kind lg =
    { th with err := some ⟨BitVec.ofNat 40 pa, BitVec.ofNat 16 (kind + 16 * lg), 0⟩, st := if th.st = .waiting then .running else th.st } := by
  unfold Thread.storeError
  rw [h]

theorem storeError_counts {e : AsyncErr} (h : th.err = some e) (pa kind lg : Nat) : th.storeError pa kind lg =
    { th with err := some { e with more := BitVec.ofNat 16 (satInc 16 e.more.toNat) } } := by
  unfold Thread.storeError
  rw [h]

theorem storeErrorReport_gated (h : s.gated = true) (a : BitVec 40) (x : StoreErr) (lg : Fin 4) :
    exec (.storeErrorReport t a x lg) s = .next s := congrArg Host.Outcome.next (if_pos (.inr h))

/-- The report reaches the thread, and of the rest of the cores and of memory it changes nothing. -/
theorem storeErrorReport_reaches (hg : s.gated = false) (hl : (s.trio t.trio.val).lost = false) (a : BitVec 40) (x : StoreErr)
    (lg : Fin 4) : ∃ s1, CoresKept s s1 ∧ exec (.storeErrorReport t a x lg) s =
      .next (s1.setThread (s.tkey t) ((s.thread (s.tkey t)).storeError a.toNat (storeKind (StoreErr.bus x)) lg.val)) := by
  have hk : CoresKept s (s.busErr a.toNat (masterOf t (s.thread (s.tkey t)).ring) 2 (StoreErr.bus x)) := .busErr ..
  refine ⟨_, hk, congrArg Host.Outcome.next ((if_neg ?_).trans ?_)⟩
  · rw [hg, hl]
    decide
  · rw [hk.thread]

/-- Settles O26: the entries by their conditions, a report by what it makes of the thread's error. -/
theorem interruptsAndStoreErrors : Obligations.InterruptsAndStoreErrors := by
  unfold Obligations.InterruptsAndStoreErrors
  intro s t k th
  refine ⟨fun n hi hb he => ⟨_, interruptEntry_takes hi hb he, rfl, rfl, rfl, rfl, rfl, rfl⟩,
    fun e he hb => ⟨⟨_, asyncStoreErrorEntry_takes he hb, rfl, rfl, rfl, rfl, rfl⟩, interruptEntry_waits he⟩,
    fun h => issuing_entryFirst ?first, storeErrorReport_gated, fun a x lg hg hl => ?report⟩
  case first =>
    show (th.err.isSome || (s.eligibleIrq t th).isSome) = true
    rw [Bool.or_eq_true]
    rcases h with ⟨n, hn⟩ | he
    · exact .inr (Option.isSome_iff_exists.2 ⟨n, hn⟩)
    · exact .inl (Option.isSome_iff_ne_none.2 he)
  case report =>
    obtain ⟨s1, hk, hx⟩ := storeErrorReport_reaches hg hl a x lg
    refine ⟨_, hx, fun he => ?_, fun e he => ?_, fun hw he => ?_, fun j hj => ?_, fun b => ?_⟩
    · rw [State.setThread_same, storeError_first he, BitVec.ofNat_toNat, BitVec.setWidth_eq]
    · rw [State.setThread_same, storeError_counts he]
    · rw [State.setThread_same, storeError_first he]
      exact if_pos hw
    · rw [State.setThread_other _ hj, hk.thread]
    · rw [State.setThread_mem, hk.mem]

end Sys2Proof.Machine
end

section
/-! The canonical form through every step (R166, R473): each row keeps it, since every operation that a row calls does. -/
namespace Sys2Proof.Machine

variable {p : List Instr} {s : State} {t : ThreadId}

/-- A row that answers a next state leaves the queue `p`, and memory and registers in their canonical form. -/
def GoodRes (p : List Instr) (r : Res) : Prop := ∀ t, r = .next t → Good p t

theorem goodRes_next {a : State} (h : Good p a) : GoodRes p (.next a) := fun _ e => Host.Outcome.next.inj e ▸ h

/-! ### Rows that look into the state before they act -/

theorem execInterruptEntry_good (h : Good p s) : GoodRes p (execInterruptEntry t s) := by
  refine goodRes_next ?_
  split
  · exact good_ite (takeIrq_good h) h
  · exact h

theorem execAsyncStoreErrorEntry_good (h : Good p s) : GoodRes p (execAsyncStoreErrorEntry t s) := by
  refine goodRes_next ?_
  split
  · exact good_ite (enterRing_good h) h
  · exact h

/-- A time-out of the fabric is an answer to what its thread waits for, or a report (R100). -/
theorem execFabricTimeout_good {x : FabricTxn} (h : Good p s) : GoodRes p (execFabricTimeout x s) := by
  refine goodRes_next (State.unlessGated_good h ?_)
  cases x with
  | load t =>
    dsimp only
    split
    · exact loadArrives_good h
    · exact icacheFills_good h
    · exact walkReads_good h
    · exact blockChunk_good h
    all_goals exact h
  | store t => exact good_ite h (storePerforms_good h)
  | io => exact State.ioRefuse_good (State.busErr_good h)

theorem execProgramLoadDone_good {x : ProgHost} (h : Good p s) : GoodRes p (execProgramLoadDone x s) := by
  refine goodRes_next (State.unlessGated_good h ?_)
  cases x with
  | engine => exact engLoadDone_good h
  | sequencer => exact seqProgDone_good h
  | ring => exact ringProgDone_good h
  | classifier => exact netProgDone_good h

theorem execSeqLoadDone_good (h : Good p s) : GoodRes p (execSeqLoadDone s) := by
  refine goodRes_next (State.unlessGated_good h ?_)
  split
  · exact h
  · refine ycpDrainAll_good (good_foldl (fun a x h => ?_) (State.setYcp_good (seqLoadDone_good h)))
    dsimp only
    split
    · exact ycpAnswer_good h
    · exact h

/-- The burn ends with its answer to the session that asked for it (R390). -/
theorem execImageFlashComplete_good {ok : Bool} (h : Good p s) : GoodRes p (execImageFlashComplete ok s) := by
  refine goodRes_next (State.unlessGated_good h ?_)
  split
  · exact h
  · refine good_ite h (ycpDrainAll_good ?_)
    have k : ∀ {c} {u : Upload}, Good p (flashShow (u.target - 1) (imageOver c (imageBurn u ok s))) :=
      flashShow_good (imageOver_good (imageBurn_good h))
    split
    · exact ycpAnswer_good k
    · exact k

theorem execSessionPendingTimeout_good {n : Fin 8} (h : Good p s) : GoodRes p (execSessionPendingTimeout n s) := by
  refine goodRes_next (State.unlessGated_good h ?_)
  split
  · exact good_ite (sessClose_good h) h
  · exact h

theorem execSessionIdleTimeout_good {n : Fin 8} (h : Good p s) : GoodRes p (execSessionIdleTimeout n s) := by
  refine goodRes_next (State.unlessGated_good h ?_)
  split
  · exact good_ite h (ycpDrainAll_good (sessClose_good h))
  · exact h

theorem execHeldRequestTimeout_good {n : Fin 8} {q : W32} (h : Good p s) : GoodRes p (execHeldRequestTimeout n q s) := by
  refine goodRes_next (State.unlessGated_good h ?_)
  split
  · exact good_ite (State.putSess_good h) h
  · exact h

/-! ### Every row -/

theorem exec_good {i : Instr} (h : Good p s) : GoodRes p (exec i s) := by
  cases i with
  | alu | addi | andi | ori | xori | shi | cmpi | movw | mul | mulu | div | divu | rem | remu | mfs | mts | cmpp | cmppi | plogic | br
  | call | jmp | callr | ret | loopReg | loopi | ldb | ldbu | ldh | ldhu | ldw | ldwu | ldd | ldx | ldxu | stb | sth | stw | std | stx
  | atomSwap | atomFadd | atomCas | atomFor | blkcopy | blkfill | crcr32 | crcr32c | crcr64 | sync | syncTlb | ici | tlbiAll1 | tlbiVa1
  | tlbiIpa2 | tlbiAll | waitIntr | tstart | tstop | eret | gret | brk | endProgram | gate | adiff | aadd | tadd | tdiff | tsubl
  | mulsh | muluh | divsh | divuh | pred | invpred | latm | ageupd | flgrd | flgwr | flgclr | crc32 | crc32c | crc64 | sha384Blk
  | aes256Enc | ghashMul | append | appendS | qstat | qspace =>
    exact goodRes_next (coreRow_good h)
  | warmResetReq | systemResetReq | coreDivWrite | modeReq | ack | eoi | swiSet | swiClr | iotInv | xspiProgram | xspiErase4k
  | xspiErase64k | refNow | clrRef | shaftAlign | learnStart | learnAbort | ctApply | ctDataWrite | revSet | snapAll | queueEnable
  | queueDisable | queueStart | queueHalt | queueResume | queueFlush | queueSkipHead | groupStart | cancelCmd | engProgLoad
  | seqProgLoad | ringProgLoad | netProgLoad | seqLoad | seqStart | seqPause | seqContinue | seqStop | enumerate | measure | ringArm
  | ringRelease | descRead | timerChEnable | timerChDisable | timerStart | timerStop | timerPreloadWrite | saInstall | saEnable
  | saDisable | rawtxHeadWrite | stoAck | swStop | recClose | fswLiveClear | vsetReq | marginLoadData | marginLoadGo | secVerCmd =>
    exact goodRes_next (regPut_good h)
  | pgEnSet | pgEnClear | pgQuiesceSet | pgQuiesceClear | pgProtWrite =>
    exact goodRes_next (pgPut_good h)
  | ctDataRead | markInfoRead | timerCountRead | readClear | snapshotRead | pageReadRefused =>
    exact goodRes_next (regOut_good h)
  | ycpIdentify | ycpOpen | ycpClose | ycpPing | regRead | regWrite | memRead | memWrite | qappend | patWrite | patLoad | ycpModeReq
  | imageBegin | imageData | imageEnd | debugChal | debugUnlock | debugHalt | debugResume | debugStep | debugRegRead | debugRegWrite
  | ycpSafe => exact goodRes_next (ycpRequest_good h)
  | trioCfgWrite | gstart | gstop | registerWrite => exact goodRes_next (pageWrite_good h)
  | powerOnReset => exact goodRes_next (deviceReset_good h)
  | systemResetPin => exact goodRes_next (deviceReset_good h)
  | bootSequence => exact goodRes_next (bootSequence_good h)
  | netBootTimeout => exact goodRes_next (netTimeout_good h)
  | romAnnounce => exact goodRes_next (good_ite (announce_good h) h)
  | dramInitComplete => exact goodRes_next (dramInit_good h)
  | rootClockLoss => exact goodRes_next (rootLoss_good h)
  | railOutOfRange => exact goodRes_next (railOut_good h)
  | velvetSupplyDip => exact goodRes_next (good_ite (State.setDev_good h) h)
  | avsReadback => exact goodRes_next (avsRead_good h)
  | modeTransitionComplete => exact goodRes_next (ycpDrainAll_good (transitionEnds_good h))
  | velvetScrub => exact goodRes_next (good_ite (State.raise_good (State.setDev_good h)) h)
  | wakePin => exact goodRes_next (good_ite (wakes_good h) h)
  | retentionTimerExpiry => exact goodRes_next (good_ite (wakes_good h) h)
  | wakePath => exact goodRes_next (wakePath_good h)
  | velvetSafeStopExit => exact goodRes_next (velvetExit_good h)
  | gauzeStepEnd => exact goodRes_next (gauzeStep_good h)
  | gauzeComplete => exact goodRes_next (gauzeDone_good h)
  | handoverComplete => exact goodRes_next (State.unlessGated_good h (ycpDrainAll_good (handOver_good h)))
  | checkpoint => exact goodRes_next (State.unlessGated_good h (ycpDrainAll_good (intervalEnds_good h)))
  | votedDisagreement => exact goodRes_next (votedOdd_good h)
  | pairMismatch => exact goodRes_next (pairFails_good h)
  | failoverReturn => exact goodRes_next (State.unlessGated_good h (ycpDrainAll_good (failoverBack_good h)))
  | resyncComplete => exact goodRes_next (State.unlessGated_good h (ycpDrainAll_good (resyncEnds_good h)))
  | softRemapSwitch => exact goodRes_next (State.unlessGated_good h (ycpDrainAll_good (remapSwitch_good h)))
  | voterCopyDisagree => exact goodRes_next (voterSplit_good h)
  | loadDataArrival => exact goodRes_next (loadArrives_good h)
  | storePerformed => exact goodRes_next (storePerforms_good h)
  | icacheFill => exact goodRes_next (icacheFills_good h)
  | coprocessorResult => exact goodRes_next (copResult_good h)
  | blockChunk => exact goodRes_next (blockChunk_good h)
  | interruptEntry => exact execInterruptEntry_good h
  | storeErrorReport => exact goodRes_next (good_ite h (State.setThread_good (State.busErr_good h)))
  | asyncStoreErrorEntry => exact execAsyncStoreErrorEntry_good h
  | tlbiComplete => exact goodRes_next (tlbiCompletes_good h)
  | tableWalkRead => exact goodRes_next (walkReads_good h)
  | iotInvComplete => exact goodRes_next (State.unlessGated_good h (ioInvDone_good h))
  | fabricTimeout => exact execFabricTimeout_good h
  | xspiCmdComplete => exact goodRes_next (State.unlessGated_good h (flashDone_good h))
  | patrolScrub =>
    exact goodRes_next (State.unlessGated_good h (good_foldl (fun _ _ => patrolHit_good) (good_foldl (fun _ _ => patrolHit_good) h)))
  | shaftTick => exact goodRes_next (State.unlessGated_good h (slsAll_good (ss1Check_good (shaftLoss_good (shaftTick_good h)))))
  | encoderTransition => exact goodRes_next (encTransition_good h)
  | safeSpeedDiscrepancy => exact goodRes_next (State.unlessGated_good h (safeSpeedDisc_good h))
  | standstill => exact goodRes_next (State.unlessGated_good h (standstill_good h))
  | ssiFrameStart => exact goodRes_next (State.unlessGated_good h (good_ite (State.emit_good h) h))
  | ssiFrameComplete => exact goodRes_next (State.unlessGated_good h (ssiFrame_good h))
  | queueAppend => exact goodRes_next (State.unlessGated_good h (queueAppend_good h))
  | queueCheck => exact goodRes_next (State.unlessGated_good h (queueCheck_good h))
  | entryRetire => exact goodRes_next (State.unlessGated_good h (entryRetires_good h))
  | retimeUpdate => exact goodRes_next (State.unlessGated_good h (retimeUpdate_good h))
  | cancelComplete => exact goodRes_next (State.unlessGated_good h (cancelDone_good h))
  | programLoadDone => exact execProgramLoadDone_good h
  | seqLoadDone => exact execSeqLoadDone_good h
  | seqRowTake => exact goodRes_next (State.unlessGated_good h (seqTake_good h))
  | seqAppendRetry => exact goodRes_next (State.unlessGated_good h (seqRetry_good h))
  | rxLock => exact goodRes_next (State.unlessGated_good h (rxLocks_good h))
  | linkLoss => exact goodRes_next (State.unlessGated_good h (linkLost_good h))
  | lockRetry => exact goodRes_next h
  | enumReturn => exact goodRes_next (State.unlessGated_good h (enumReturns_good h))
  | enumTimeout => exact goodRes_next (State.unlessGated_good h (enumTimesOut_good h))
  | timeSend => exact goodRes_next (State.unlessGated_good h (timeSends_good h))
  | bgMeasure => exact goodRes_next (State.unlessGated_good h (bgMeasures_good h))
  | ringSlot => exact goodRes_next (State.unlessGated_good h (ringSlots_good h))
  | upFrame => exact goodRes_next (unlessPortGated_good h (good_ite (upFrames_good h) h))
  | cancelRepeat => exact goodRes_next (State.unlessGated_good h (cancelAgain_good h))
  | cancelNoack => exact goodRes_next (State.unlessGated_good h (cancelGivesUp_good h))
  | reportWaitExpiry => exact goodRes_next (State.unlessGated_good h (State.setRing_good h))
  | nodeLost => exact goodRes_next (State.unlessGated_good h (nodeLoses_good h))
  | safePatternRepeat => exact goodRes_next (State.unlessGated_good h (safePattern_good h))
  | ringDisableEnd => exact goodRes_next (unlessPortGated_good h (good_ite (setStat_good (ringOffEnd_good h)) h))
  | timerBusStep => exact goodRes_next (State.unlessGated_good h (tmBusStep_good h))
  | timerAngleStep => exact goodRes_next (State.unlessGated_good h (tmAngleStep_good h))
  | timerCapture => exact goodRes_next (State.unlessGated_good h (tmCapture_good h))
  | linkChange => exact goodRes_next (State.unlessGated_good h (linkChange_good h))
  | trainTimeout => exact goodRes_next (State.unlessGated_good h (trainFails_good h))
  | trainRestart => exact goodRes_next (State.unlessGated_good h (trainAgain_good h))
  | ethFrameRx => exact goodRes_next (State.unlessGated_good h (ethReceive_good h))
  | prpSupervisionTx => exact goodRes_next (State.unlessGated_good h (supervision_good h))
  | prpNodeForget => exact goodRes_next (State.unlessGated_good h (nodeForget_good h))
  | announceTimeout => exact goodRes_next (State.unlessGated_good h (announceTimeout_good h))
  | imageFlashComplete => exact execImageFlashComplete_good h
  | safeWatchdog => exact goodRes_next (State.unlessGated_good h (good_ite (safeFail_good h) h))
  | sessionPendingTimeout => exact execSessionPendingTimeout_good h
  | sessionIdleTimeout => exact execSessionIdleTimeout_good h
  | heldRequestTimeout => exact execHeldRequestTimeout_good h
  | debugLockoutEnd => exact goodRes_next (good_ite (State.setYcp_good h) h)
  | faultSourceAssert => exact goodRes_next (collCycle_good (good_foldl (fun _ _ h => offer_good (arrayHit_good h)) h))
  | feltEntry => exact goodRes_next (ycpDrainAll_good (feltEntry_good h))
  | recoveryEntry => exact goodRes_next (recovery_good h)
  | safetyInputAccept => exact goodRes_next (siAccept_good h)
  | safetyDiscrepancy => exact goodRes_next (siDiscrepant_good h)
  | testPulse => exact goodRes_next (tpPulse_good h)
  | testPulseCheck => exact goodRes_next (tpCheck_good h)
  | stoTestPulse => exact goodRes_next (stoPulse_good h)
  | stoReadbackMismatch => exact goodRes_next (stoMismatch_good h)
  | faultReadbackMismatch => exact goodRes_next (collCycle_good (State.raise_good h))
  | ss1DelayEnd => exact goodRes_next (ss1End_good h)
  | junctionOvertemp => exact goodRes_next (collCycle_good (State.raiseCond_good h))
  | bistSliceStart => exact goodRes_next (sliceStart_good h)
  | bistSliceEnd => exact goodRes_next (bistEnd_good h)
  | monitorMeasure => exact goodRes_next (State.unlessGated_good h (monitors_good h))
  | tempSample => exact goodRes_next (tempSample_good h)
  | marginEvaluate => exact goodRes_next (planEval_good h)
  | marginYears => exact goodRes_next (planYears_good h)
  | secVerBurnDone => exact goodRes_next (secVerDone_good h)
  | drainComplete => exact goodRes_next (good_ite (trioStopped_good h) (pgDrained_good h))
  | rxLaneLockLost => exact goodRes_next (State.unlessGated_good h (laneLost_good h))
  | rxLaneLockRegained => exact goodRes_next (State.unlessGated_good h (laneLock_good h))
  | dramPllLockLoss => exact goodRes_next (good_ite (State.incSat_good (State.setFld_good h)) h)
  | conditionCeased => exact goodRes_next (good_ite (rootBack_good (condCeases_good h)) (condCeases_good h))
  | ptpMessageTx => exact goodRes_next (State.unlessGated_good h (ptpOriginate_good h))
  | ethDisableTxEnd => exact goodRes_next (State.unlessGated_good h (ethOffEnd_good h))
  | tapOperation => exact goodRes_next (tapOp_good h)

theorem step_good {s t : State} (h : Good s.pending s) (e : step s = .next t) : Good t.pending t := by
  unfold step at e
  split at e
  · exact Host.Outcome.next.inj e ▸ h
  · rename_i rest _
    have k : Good rest t := exec_good (s := { s with pending := rest }) ⟨rfl, h.mem, h.regs⟩ t e
    exact ⟨rfl, k.mem, k.regs⟩

/-- Settles O3: an empty queue leaves the state, and the command in front keeps `Good`. -/
theorem canonicalFormKept : Obligations.CanonicalFormKept := by
  unfold Obligations.CanonicalFormKept
  intro s t hm hr e
  have k := step_good ⟨rfl, hm, hr⟩ e
  exact ⟨k.mem, k.regs⟩

/-- Settles O4: after reset neither memory nor the register table lists a cell. -/
theorem canonicalFormAtReset : Obligations.CanonicalFormAtReset := by
  unfold Obligations.CanonicalFormAtReset
  exact ⟨reset_mem_wf, rfl⟩

end Sys2Proof.Machine
end

section
/-! The oldest output of a thread: what goes before it, where it goes, and what that leaves (R58, R72, R196). -/
namespace Sys2Proof.Machine

variable {s : State} {t : ThreadId} {o : OutEnt} {rest : List OutEnt} {la pa n : Nat} {data : List Byte}

/-! ### High-water marks -/

/-- Between two states at most the register at `k` changed, of everything a store or an output touches. -/
structure Marked (k : Nat) (s u : State) : Prop where
  mem : u.mem = s.mem
  threads : u.threads = s.threads
  trios : u.trios = s.trios
  raised : u.raised = s.raised
  fab : u.fab = s.fab
  eng : u.eng = s.eng
  rd : ∀ key, key ≠ k → u.rd key = s.rd key

theorem marked {c : Prop} [Decidable c] (b : Nat) (f : Fld) (v : Nat) : Marked (b + f.off) s (if c then s.setFld b f v else s) := by
  split
  · exact ⟨rfl, rfl, rfl, rfl, rfl, rfl, fun _ h => State.rd_setFld_off s v h⟩
  · exact ⟨rfl, rfl, rfl, rfl, rfl, rfl, fun _ _ => rfl⟩

theorem pushUndo_marked (s : State) (n a len : Nat) :
    Marked (B.trio n + TRIO.HWM_UNDO.off) (s.setTrio n { s.trio n with undo := undoOf s a len ++ (s.trio n).undo }) (s.pushUndo n a len) :=
  marked ..

theorem pushCommit_marked (s : State) (n : Nat) (o : OutEnt) :
    Marked (B.trio n + TRIO.HWM_COMMIT.off) (s.setTrio n { s.trio n with commit := (s.trio n).commit ++ [o] }) (s.pushCommit n o) :=
  marked ..

/-- The marks stand apart from the register that shows a trio's configuration. -/
theorem Marked.tkey {f : Fld} {u : State} (h : Marked (B.trio n + f.off) s u) (hf : f.off = 0x07C) (t : ThreadId) :
    u.tkey t = s.tkey t := by
  have hk : B.trio t.trio.val + TRIO.STAT_CONF_NOW.off ≠ B.trio n + f.off := by
    simp only [B.trio, page, TRIO.STAT_CONF_NOW, hf]
    omega
  unfold State.tkey State.conf State.fld
  rw [h.rd _ hk]

/-! ### Before the oldest output -/

/-- With nothing committed, and behind an output that another trio holds, nothing is released (R72). -/
theorem releaseCommit_stays (k : Nat) (h : ∀ y r, (s.trio n).commit = y :: r → (s.trio n).closed = 0 ∨ y.held = true) :
    releaseCommit k n s = s := by
  cases k with
  | zero => rfl
  | succ k =>
    unfold releaseCommit
    split
    · rfl
    · next y r hc =>
      rw [if_pos]
      exact (h y r hc).imp id .inl

/-- No limit of R59 forces a checkpoint. -/
theorem limitCheckpoint_stays (h : s.conf n = 1 → (s.trio n).commit.length < 192 ∧ (s.trio n).undo.length < 1536) :
    limitCheckpoint n s = s := by
  refine if_neg fun ⟨hc, hl⟩ => ?_
  obtain ⟨h1, h2⟩ := h hc
  omega

theorem wakeStores_running (h : (s.thread (s.tkey t)).st = .running) : wakeStores t s = s := by
  unfold wakeStores
  simp only [h]

/-- Whether a store of one piece is local hangs on that piece. -/
theorem isLocal_own (hw : o.what = .store la [(pa, data)]) (ht : o.tid = t) :
    o.isLocal s = decide ((s.region pa).trio? = some t.trio.val) := by
  unfold OutEnt.isLocal
  simp only [hw, ht, List.all_cons, List.all_nil, Bool.and_true, beq_eq_decide]

theorem holdingTrio_own (hw : o.what = .store la [(pa, data)]) (hr : (s.region pa).trio? = some t.trio.val) : holdingTrio s t o = none := by
  unfold holdingTrio State.holder
  simp [hw, hr, OutWhat.pieces]

/-! ### Where it goes -/

/-- The state with the oldest output taken from the thread's share of the store buffer. -/
def taking (s : State) (t : ThreadId) (rest : List OutEnt) : State :=
  s.setThread (s.tkey t) { s.thread (s.tkey t) with buf := rest }

theorem taking_region (a : Nat) : (taking s t rest).region a = s.region a := region_congr rfl a

/-- No committed output leaves first and no limit is reached, so that `storePerforms` comes to the oldest output in the state as it is. -/
abbrev nothingFirst (n : Nat) (s : State) : Prop :=
  releaseCommit (s.trio n).commit.length n s = s ∧ limitCheckpoint n s = s ∧ (s.trio n).lost = false

theorem nothingFirst_pair (hc : (s.trio n).closed = 0) (hl : (s.trio n).commit.length < 192) (hu : (s.trio n).undo.length < 1536)
    (h : (s.trio n).lost = false) : nothingFirst n s :=
  ⟨releaseCommit_stays _ fun _ _ _ => .inl hc, limitCheckpoint_stays fun _ => ⟨hl, hu⟩, h⟩

theorem storePerforms_behindCommit (h : nothingFirst t.trio.val s) (hc : s.conf t.trio.val ≠ 1) (hy : (s.trio t.trio.val).commit ≠ [])
    (e : BusResult) : storePerforms t e s = wakeStores t s := by
  obtain ⟨hr, hl, hlost⟩ := h
  unfold storePerforms
  simp only [hr, hl, hlost, State.sameRun]
  simp [hc, hy]

theorem storePerforms_own (h : nothingFirst t.trio.val s) (hc : s.conf t.trio.val ≠ 1 → (s.trio t.trio.val).commit = [])
    (hb : (s.thread (s.tkey t)).buf = o :: rest) (ht : o.tid = t) (hw : o.what = .store la [(pa, data)])
    (hp : (s.region pa).trio? = some t.trio.val) :
    storePerforms t .ok s = wakeStores t ((taking s t rest).pokeLocal t.trio.val pa data) := by
  obtain ⟨hr, hl, hlost⟩ := h
  have hloc : o.isLocal s = true := by rw [isLocal_own hw ht, decide_eq_true hp]
  have hperf : performOut (taking s t rest) o = (taking s t rest).pokeLocal t.trio.val pa data := by
    have hq : ((taking s t rest).region pa).trio? = some t.trio.val := by rwa [taking_region]
    simp [performOut, performPiece, hw, ht, hq]
  unfold storePerforms
  simp only [hr, hl, hlost, State.sameRun, hb, holdingTrio_own hw hp, hloc]
  rw [← hperf]
  by_cases h1 : s.conf t.trio.val = 1
  · simp [h1, busFails, State.busErr, taking]
  · simp [hc h1, busFails, State.busErr, taking]

theorem storePerforms_committed (h : nothingFirst t.trio.val s) (hc : s.conf t.trio.val = 1)
    (hb : (s.thread (s.tkey t)).buf = o :: rest) (hloc : o.isLocal s = false) (e : BusResult) :
    storePerforms t e s = wakeStores t (pairOut (taking s t rest) t.trio.val o) := by
  obtain ⟨hr, hl, hlost⟩ := h
  unfold storePerforms
  simp only [hr, hl, hlost, State.sameRun, hb, hloc, hc]
  simp [taking]

/-- An output that goes nowhere in the own window goes to the commit buffer whole (R58). -/
theorem pairOut_elsewhere (hw : o.what = .store la [(pa, data)]) (hp : (s.region pa).trio? ≠ some n) :
    pairOut s n o = s.pushCommit n o := by
  have ho : { o with what := .store la [(pa, data)] } = o := by rw [← hw]
  simp [pairOut, hw, hp, ho]

theorem pairOut_noPieces (hw : o.what.pieces = []) (hloc : o.isLocal s = false) (u : State) : pairOut u n o = u.pushCommit n o := by
  unfold pairOut
  split
  · next ps hs =>
    rw [hs] at hw
    simp [OutEnt.isLocal, hs, show ps = [] from hw] at hloc
  · rfl
  · rfl

/-! ### What it leaves -/

/-- The thread that `s'` holds is the one of `s` without its oldest output, which runs on. -/
theorem wakeStores_taken {s' : State} (hst : (s.thread (s.tkey t)).st = .running) (hth : s'.threads = (taking s t rest).threads)
    (hk : s'.tkey t = s.tkey t) :
    wakeStores t s' = s' ∧ s'.thread (s.tkey t) = { s.thread (s.tkey t) with buf := rest } ∧
      ∀ j, j ≠ s.tkey t → s'.thread j = s.thread j := by
  have hsame : s'.thread (s.tkey t) = { s.thread (s.tkey t) with buf := rest } :=
    (State.thread_congr hth _).trans (State.setThread_same ..)
  refine ⟨wakeStores_running ?_, hsame, fun j hj => (State.thread_congr hth j).trans (State.setThread_other s hj _)⟩
  rw [hk, hsame]
  exact hst

/-- In PAIR the output is in the commit buffer, and but for the mark that is all (R58). -/
theorem pushCommit_taken (hst : (s.thread (s.tkey t)).st = .running) (n : Nat) :
    let s' := (taking s t rest).pushCommit n o
    wakeStores t s' = s' ∧ s'.mem = s.mem ∧ s'.fab = s.fab ∧ s'.eng = s.eng ∧
      s'.trio n = { s.trio n with commit := (s.trio n).commit ++ [o] } ∧
      s'.thread (s.tkey t) = { s.thread (s.tkey t) with buf := rest } ∧
      ∀ key, key ≠ B.trio n + TRIO.HWM_COMMIT.off → s'.rd key = s.rd key := by
  have hm := pushCommit_marked (taking s t rest) n o
  obtain ⟨hwake, hth, _⟩ := wakeStores_taken hst hm.threads (hm.tkey rfl t)
  exact ⟨hwake, hm.mem, hm.fab, hm.eng, (State.trio_congr hm.trios n).trans (State.setTrio_same ..), hth, hm.rd⟩

theorem pokeLocal_taken_unpaired (hst : (s.thread (s.tkey t)).st = .running) (hc : s.conf n ≠ 1) :
    let s' := (taking s t rest).pokeLocal n pa data
    wakeStores t s' = s' ∧ s'.mem = memWriteL s.mem pa data ∧ s'.raised = s.raised ∧ s'.regs = s.regs ∧ s'.trios = s.trios ∧
      s'.thread (s.tkey t) = { s.thread (s.tkey t) with buf := rest } ∧ ∀ j, j ≠ s.tkey t → s'.thread j = s.thread j := by
  rw [pokeLocal_unpaired (s := taking s t rest) hc]
  obtain ⟨hwake, hth, hoth⟩ := wakeStores_taken (s' := (taking s t rest).poke pa data) hst rfl rfl
  exact ⟨hwake, rfl, rfl, rfl, rfl, hth, hoth⟩

/-- In PAIR the undo log takes the old doublewords first (R58). -/
theorem pokeLocal_taken_paired (hst : (s.thread (s.tkey t)).st = .running) (hc : s.conf n = 1) :
    let s' := (taking s t rest).pokeLocal n pa data
    wakeStores t s' = s' ∧ s'.mem = memWriteL s.mem pa data ∧ s'.raised = s.raised ∧
      s'.trio n = { s.trio n with undo := undoOf s pa data.length ++ (s.trio n).undo } ∧
      (∀ key, key ≠ B.trio n + TRIO.HWM_UNDO.off → s'.rd key = s.rd key) ∧
      s'.thread (s.tkey t) = { s.thread (s.tkey t) with buf := rest } ∧ ∀ j, j ≠ s.tkey t → s'.thread j = s.thread j := by
  have hm := pushUndo_marked (taking s t rest) n pa data.length
  rw [show (taking s t rest).pokeLocal n pa data = ((taking s t rest).pushUndo n pa data.length).poke pa data from
    congrArg (State.poke · pa data) (if_pos hc)]
  obtain ⟨hwake, hth, hoth⟩ := wakeStores_taken (s' := ((taking s t rest).pushUndo n pa data.length).poke pa data) hst hm.threads
    (hm.tkey rfl t)
  have htr := (State.trio_congr hm.trios n).trans (State.setTrio_same ..)
  exact ⟨hwake, congrArg (memWriteL · pa data) hm.mem, hm.raised, htr, hm.rd, hth, hoth⟩

/-- Settles O16: the oldest output is taken, and performed in the own window or committed; what goes first leaves the state in each case. -/
theorem storePerformedWritesItsBytes : Obligations.StorePerformedWritesItsBytes := by
  unfold Obligations.StorePerformedWritesItsBytes
  intro s t o rest la pa data hst hb ht hlost n x store writes pair
  refine ⟨fun hw hp hc he => ?alone, fun y r hc hy hh => ?behind, fun hw hp ⟨hc, hcl, hl, hu⟩ => ?paired,
    fun hw hp ⟨hc, hcl, hl, hu⟩ => ?elsewhere, fun hloc hw ⟨hc, hcl, hl, hu⟩ => ?noPieces⟩
  case alone =>
    have hf : nothingFirst n s := ⟨releaseCommit_stays _ fun y r hy => absurd (he.symm.trans hy) nofun,
      limitCheckpoint_stays fun h => absurd h hc, hlost⟩
    obtain ⟨hwake, hm, hr, hg, htr, hth, hoth⟩ := pokeLocal_taken_unpaired (rest := rest) (pa := pa) (data := data) hst hc
    have hx := (storePerforms_own hf (fun _ => he) hb ht hw hp).trans hwake
    refine ⟨_, congrArg Host.Outcome.next hx, ⟨fun a => ?_, hth, hoth, hr⟩, hg, htr⟩
    rw [hm, memRead_memWriteL]
  case behind =>
    have hf : nothingFirst n s := ⟨releaseCommit_stays _ fun z r' hz => .inr (by cases hy.symm.trans hz; exact hh),
      limitCheckpoint_stays fun h => absurd h hc, hlost⟩
    have hne : (s.trio n).commit ≠ [] := fun h => absurd (hy.symm.trans h) nofun
    exact congrArg Host.Outcome.next ((storePerforms_behindCommit hf hc hne _).trans (wakeStores_running hst))
  case paired =>
    obtain ⟨hwake, hm, hr, htr, hrd, hth, hoth⟩ := pokeLocal_taken_paired (rest := rest) (pa := pa) (data := data) hst hc
    have hx := (storePerforms_own (nothingFirst_pair hcl hl hu hlost) (absurd hc) hb ht hw hp).trans hwake
    refine ⟨_, congrArg Host.Outcome.next hx, ⟨fun a => ?_, hth, hoth, hr⟩, htr, hrd⟩
    rw [hm, memRead_memWriteL]
  case elsewhere =>
    have hloc : o.isLocal s = false := by rw [isLocal_own hw ht, decide_eq_false hp]
    have hq : ((taking s t rest).region pa).trio? ≠ some n := by rwa [taking_region]
    obtain ⟨hwake, hm, _, _, htr, hth, hrd⟩ := pushCommit_taken (o := o) (rest := rest) hst n
    have hx := storePerforms_committed (nothingFirst_pair hcl hl hu hlost) hc hb hloc .ok
    rw [pairOut_elsewhere hw hq, hwake] at hx
    exact ⟨_, congrArg Host.Outcome.next hx, hm, htr, hth, hrd⟩
  case noPieces =>
    obtain ⟨hwake, hm, hf, he, htr, _, _⟩ := pushCommit_taken (o := o) (rest := rest) hst n
    have hx := storePerforms_committed (nothingFirst_pair hcl hl hu hlost) hc hb hloc .ok
    rw [pairOut_noPieces hw hloc, hwake] at hx
    exact ⟨_, congrArg Host.Outcome.next hx, hm, hf, he, htr⟩

end Sys2Proof.Machine
end

section
/-! Invalidations of I/O translation and accesses of I/O units that get no response (R183, R194, R206). -/
namespace Sys2Proof.Machine

variable {s : State} {w : Writer} {x : BitVec 40}

theorem unlessGated_runs (h : s.gated = false) (r : State) : s.unlessGated r = r := if_neg (by rw [h]; decide)

theorem unlessGated_stands (h : s.gated = true) (r : State) : s.unlessGated r = s := if_pos h

/-- A register word is its field of 32 bits. -/
theorem rd_toNat (s : State) (b o : Nat) : (s.rd (b + o)).toNat = s.fld b ⟨o, 0, 32⟩ := by
  have := (s.rd (b + o)).isLt
  unfold State.fld bf nbits
  dsimp only
  omega

/-- A flag reads the bit written to it. -/
theorem flag_setFld_bit (s : State) (b o i : Nat) (h : i < 32) (v : Bool) : (s.setFld b ⟨o, i, 1⟩ (b2n v)).flag b ⟨o, i, 1⟩ = v := by
  unfold State.flag
  rw [State.fld_setFld_same s b _ _ (show i + 1 ≤ 32 by omega)]
  cases v <;> rfl

/-! ### Invalidations -/

theorem iotInv_plain : PlainReg .iot 0x128 0x444 0xFF013F :=
  ⟨⟨_, _, rfl⟩, ⟨_, rfl, .inr rfl, rfl, fun _ => rfl⟩, by decide, by decide, fun _ => rfl, fun _ => rfl, by decide⟩

/-- Every check passed, the block takes the value. -/
theorem regPut_admits {k : Kind} {p o mask v : Nat} (hr : PlainReg k p o mask) (hv : v < 2 ^ 32) (h : admits w (page p + o) v s) :
    regPut w (page p + o) v s = blockDo k p o v (wakeWaiting s) := by
  have ho := hr.off
  unfold admits page at h
  rw [show (p * 4096 + o) / 4096 = p by omega, show (p * 4096 + o) % 4096 = o by omega] at h
  rw [regPut_word hr.kind hr.off hr.word]
  dsimp only
  rw [if_pos h]
  obtain ⟨ty, n, hk⟩ := hr.kind
  obtain ⟨r, hrow, hacc, -, hheld⟩ := hr.row
  unfold regApply
  rw [hk, hrow]
  simp only [hheld, hr.lo, BitVec.toNat_ofNat, Nat.mod_eq_of_lt hv]
  rcases hacc with h | h <;> simp [h]

theorem iotInv_accepted (v : W32) (h : admits w (B.iot + 0x444) v.toNat s) :
    ∃ t, exec (.iotInv w v) s = .next t ∧
      t.fab.ioInv = s.fab.ioInv ++ [(nbits v.toNat 0 6, nbit v.toNat 8, (s.rd (B.iot + 0x440)).toNat + nbits v.toNat 16 8 * 2 ^ 32)] ∧
      t.flag B.iot ⟨0x448, 0, 1⟩ = true := by
  refine ⟨_, congrArg Host.Outcome.next (regPut_admits iotInv_plain v.isLt h), ?_, State.flag_setFld_one _ B.iot (by decide) (by decide)⟩
  rw [← wakeWaiting_rd s (B.iot + 0x440), show s.fab = (wakeWaiting s).fab by rw [wakeWaiting_eq]]
  rfl

/-- While an access of an engine waits at a trio the invalidation does (R189). -/
theorem ioInvDone_waits (h : ∃ m, m < 13 ∧ (s.trio m).held.any HeldAcc.streams = true) : ioInvDone s = s := by
  unfold ioInvDone
  split
  · rfl
  · exact if_pos (List.any_eq_true.2 (h.imp fun m hm => ⟨List.mem_range.2 hm.1, hm.2⟩))

theorem ioInvDone_oldest {st ad : Nat} {whole : Bool} {rest : List (Nat × Bool × Nat)}
    (h : ∀ m, m < 13 → (s.trio m).held.any HeldAcc.streams = false) (hi : s.fab.ioInv = (st, whole, ad) :: rest) :
    ioInvDone s = ({ s with fab := { s.fab with ioInv := rest } }.ioInval st whole ad).setFld B.iot ⟨0x448, 0, 1⟩ (b2n (!rest.isEmpty)) := by
  have hany : ¬ (List.range 13).any (fun m => (s.trio m).held.any HeldAcc.streams) = true := by
    rw [List.any_eq_true]
    rintro ⟨m, hm, hs⟩
    rw [h m (List.mem_range.1 hm)] at hs
    cases hs
  unfold ioInvDone
  rw [hi]
  exact if_neg hany

/-- What stays of the cached translations (R194). -/
theorem mem_ioInval (s : State) (st : Nat) (whole : Bool) (ad : Nat) (e : IoEnt) :
    e ∈ (s.ioInval st whole ad).fab.io ↔ e ∈ s.fab.io ∧ ¬ (e.stream = st ∧ (whole = true ∨ e.base = ad / 2 ^ e.lg)) := by
  unfold State.ioInval
  rw [List.mem_filter]
  simp only [Bool.not_eq_true', ← Bool.not_eq_true, Bool.and_eq_true, Bool.or_eq_true, beq_iff_eq]

/-! ### Accesses without a response -/

theorem rd_incSat_off {b o : Nat} (f : Fld) (h : b + o ≠ b + f.off) (s : State) : (s.incSat b f).rd (b + o) = s.rd (b + o) :=
  State.rd_setFld_off s _ h

/-- The unit records the access that it gave up, with its address (R206). -/
theorem ioRefuse_records (s : State) (st : Fin 21) (write : Bool) (reason : Nat) (hr : reason < 16) (x : BitVec 40) :
    let t := s.ioRefuse st.val x.toNat write 0 reason
    let u := B.iot + 16 * ioUnit st.val
    (t.rd (u + 0x454)).toNat + (t.rd (u + 0x458)).toNat * 2 ^ 32 = x.toNat ∧ nbits (t.rd (u + 0x450)).toNat 12 4 = reason := by
  have hst := st.isLt
  have hx := x.isLt
  have hb := b2n_le write
  intro t u
  have hkeep (v : W32) (lo hi : W32) (a : Assertion) (o : Nat) (ho : o ≠ 0x45C) :
      (((((s.wr (u + 0x450) v).wr (u + 0x454) lo).wr (u + 0x458) hi).incSat u ⟨0x45C, 0, 32⟩).raiseA a).rd (u + o) =
        (((s.wr (u + 0x450) v).wr (u + 0x454) lo).wr (u + 0x458) hi).rd (u + o) := by
    rw [State.raiseA_rd, rd_incSat_off _ (by dsimp only; omega)]
  have h0 : t.rd (u + 0x450) = BitVec.ofNat 32 (st.val + b2n write * 256 + 0 * 1024 + reason * 4096 + 2 ^ 31) := by
    refine (hkeep _ _ _ _ 0x450 (by decide)).trans ?_
    rw [State.rd_wr_other _ (by omega), State.rd_wr_other _ (by omega), State.rd_wr_same]
  have h1 : t.rd (u + 0x454) = BitVec.ofNat 32 x.toNat := by
    refine (hkeep _ _ _ _ 0x454 (by decide)).trans ?_
    rw [State.rd_wr_other _ (by omega), State.rd_wr_same]
  have h2 : t.rd (u + 0x458) = BitVec.ofNat 32 (x.toNat / 2 ^ 32 % 256) := by
    refine (hkeep _ _ _ _ 0x458 (by decide)).trans ?_
    rw [State.rd_wr_same]
  rw [h0, h1, h2]
  simp only [BitVec.toNat_ofNat, nbits]
  omega

theorem ioRefuse_mem (s : State) (stream addr : Nat) (write : Bool) (level reason : Nat) :
    (s.ioRefuse stream addr write level reason).mem = s.mem := by
  unfold State.ioRefuse
  rw [State.raiseA_mem, State.incSat_mem, State.wr_mem, State.wr_mem, State.wr_mem]

/-- What the unit reports of an access that it refuses (R440). -/
def ioReport (stream addr : Nat) (write : Bool) : Assertion :=
  ⟨BitVec.ofNat 9 (246 + ioUnit stream), some (BitVec.ofNat 40 addr), ioMaster stream,
    BitVec.ofNat 4 (if write then recDmaWrite else recDmaRead), 0, false⟩

theorem ioRefuse_raised (s : State) (stream addr : Nat) (write : Bool) (level reason : Nat) :
    (s.ioRefuse stream addr write level reason).raised = s.raised ++ [⟨ioReport stream addr write, s.now⟩] := by
  unfold State.ioRefuse ioReport
  rw [State.raiseA_raised, State.incSat_raised, State.incSat_now, State.wr_raised, State.wr_raised, State.wr_raised, State.wr_now,
    State.wr_now, State.wr_now]

theorem ioTimeout_reports (h : s.gated = false) (st : Fin 21) (write : Bool) (x : BitVec 40) :
    ∃ t q r, exec (.fabricTimeout (.io st write x)) s = .next t ∧ t.raised = s.raised ++ [q, r] ∧ q.src.toNat = 245 ∧ q.addr = some x ∧
      r.src.toNat = 246 + ioUnit st.val ∧ r.addr = some x ∧
      (t.rd (B.iot + 16 * ioUnit st.val + 0x454)).toNat + (t.rd (B.iot + 16 * ioUnit st.val + 0x458)).toNat * 2 ^ 32 = x.toNat ∧
      nbits (t.rd (B.iot + 16 * ioUnit st.val + 0x450)).toNat 12 4 = 12 ∧ t.mem = s.mem := by
  have hu : ioUnit st.val ≤ 3 := by
    unfold ioUnit
    split
    · omega
    split
    · omega
    split <;> omega
  have hx : BitVec.ofNat 40 x.toNat = x := by rw [BitVec.ofNat_toNat, BitVec.setWidth_eq]
  obtain ⟨haddr, hreason⟩ := ioRefuse_records (s.busErr x.toNat (ioMaster st.val) (if write then recDmaWrite else recDmaRead) .timeout)
    st write 12 (by decide) x
  refine ⟨_, _, _, congrArg Host.Outcome.next (unlessGated_runs h _), (ioRefuse_raised ..).trans (List.append_assoc ..), rfl,
    congrArg some hx, ?_, congrArg some hx, haddr, hreason, ?_⟩
  · show (246 + ioUnit st.val) % 2 ^ 9 = _
    omega
  · exact (ioRefuse_mem ..).trans (CoresKept.busErr ..).mem

end Sys2Proof.Machine
end

section
/-! Flash commands: which start, and what a command that ends leaves in the window (R201, R202). -/
namespace Sys2Proof.Machine

variable {s : State} {w : Writer} {port : Bool} {p op : Nat} {c : FlashCmd}

/-! ### The command on a port -/

theorem flashCmd_setFlashCmd (s : State) (p : Nat) (c : Option FlashCmd) : (s.setFlashCmd p c).flashCmd p = c := by
  unfold State.flashCmd State.setFlashCmd
  split <;> rfl

theorem flashCmd_wakeWaiting (s : State) (p : Nat) : (wakeWaiting s).flashCmd p = s.flashCmd p := by rw [wakeWaiting_eq]; rfl

theorem flashCmd_wstat (w : Writer) (q o : Nat) (e : Code) (s : State) (p : Nat) : (wstat w q o e s).flashCmd p = s.flashCmd p := by
  obtain ⟨r, h⟩ := wstat_onlyRegs w q o e s
  rw [h]
  rfl

theorem burning_wakeWaiting (s : State) (p : Nat) : (wakeWaiting s).burning p = s.burning p := by rw [wakeWaiting_eq]; rfl

/-- The port shows the command that it runs. -/
theorem flashStart_starts (hp : p ≤ 1) (c : FlashCmd) (s : State) :
    (flashStart p c s).flashCmd p = some c ∧ (flashStart p c s).flag B.xspi (busyFld p) = true ∧ (flashStart p c s).mem = s.mem :=
  ⟨flashCmd_setFlashCmd s p _, State.flag_setFld_one _ B.xspi (by dsimp only [busyFld]; omega) Nat.one_pos, rfl⟩

/-! ### CMD -/

theorem xspiCmd_plain : PlainReg .xspi 0x332 XSPI.CMD.off (2 ^ 4 - 1) :=
  ⟨⟨_, _, rfl⟩, ⟨_, rfl, .inr rfl, rfl, fun _ => rfl⟩, by decide, by decide, fun _ => rfl, fun _ => rfl, by decide⟩

theorem xspiCmd_fields (port : Bool) (h : op ≤ 3) : nbits (b2n port + 2 * op) 0 1 = b2n port ∧ nbits (b2n port + 2 * op) 1 3 = op := by
  have := b2n_le port
  unfold nbits
  omega

/-- The address does not stand where command `op` needs it: inside a page that holds all bytes, or at a block's start (R202). -/
def flashMisaligned (op a n : Nat) : Bool :=
  (op == 2 && a % 4096 != 0) || (op == 3 && a % 65536 != 0) || (op == 1 && decide (256 < a % 256 + n))

/-- Of a command with a length within its bounds, the alignment and the port decide. -/
theorem xspiCodes_cmd (h1 : 1 ≤ op) (h3 : op ≤ 3) (hn : 1 ≤ s.fld B.xspi XSPI.LEN ∧ s.fld B.xspi XSPI.LEN ≤ 256) :
    xspiCodes XSPI.CMD.off (b2n port + 2 * op) (wakeWaiting s) =
      refuseIf (flashMisaligned op (s.rd (B.xspi + XSPI.ADDR.off)).toNat (s.fld B.xspi XSPI.LEN)) .align ++
        refuseIf ((s.flashCmd (b2n port)).isSome || s.burning (b2n port)) .busy := by
  obtain ⟨hport, hop⟩ := xspiCmd_fields port h3
  have hrange : (op == 0 || decide (3 < op) || s.fld B.xspi XSPI.LEN == 0 || decide (256 < s.fld B.xspi XSPI.LEN)) = false := by
    simp only [Bool.or_eq_false_iff, beq_eq_false_iff_ne, decide_eq_false_iff_not]
    omega
  unfold xspiCodes
  simp only [hport, hop, wakeWaiting_fld, wakeWaiting_rd, flashCmd_wakeWaiting, burning_wakeWaiting, hrange]
  rfl

/-- A command that nothing refuses reaches the port. -/
theorem xspiCmd_admitted (h1 : 1 ≤ op) (h3 : op ≤ 3) (hw : mayWrite w 0x332 s)
    (hn : 1 ≤ s.fld B.xspi XSPI.LEN ∧ s.fld B.xspi XSPI.LEN ≤ 256) (hc : s.flashCmd (b2n port) = none) (hb : s.burning (b2n port) = false)
    (ha : flashMisaligned op (s.rd (B.xspi + XSPI.ADDR.off)).toNat (s.fld B.xspi XSPI.LEN) = false) :
    regPut w (B.xspi + XSPI.CMD.off) (b2n port + 2 * op) s = xspiDo XSPI.CMD.off (b2n port + 2 * op) (wakeWaiting s) := by
  have hport := b2n_le port
  refine regPut_admitted xspiCmd_plain hw (and_not_mask (by omega)) (by omega) ?_
  show Code.lowest (xspiCodes XSPI.CMD.off (b2n port + 2 * op) (wakeWaiting s)) = .ok
  rw [xspiCodes_cmd h1 h3 hn, ha, hc, hb]
  rfl

/-- A misaligned one leaves ALIGN in PG_WSTAT, also on a port that is busy. -/
theorem xspiCmd_misaligned (h1 : 1 ≤ op) (h3 : op ≤ 3) (hw : mayWrite w 0x332 s)
    (hn : 1 ≤ s.fld B.xspi XSPI.LEN ∧ s.fld B.xspi XSPI.LEN ≤ 256)
    (ha : flashMisaligned op (s.rd (B.xspi + XSPI.ADDR.off)).toNat (s.fld B.xspi XSPI.LEN) = true) :
    regPut w (B.xspi + XSPI.CMD.off) (b2n port + 2 * op) s = wstat w 0x332 XSPI.CMD.off .align (wakeWaiting s) := by
  have hport := b2n_le port
  have hc : Code.lowest (blockCodes w .xspi 0x332 XSPI.CMD.off (b2n port + 2 * op) (wakeWaiting s)) = .align := by
    show Code.lowest (xspiCodes XSPI.CMD.off (b2n port + 2 * op) (wakeWaiting s)) = .align
    rw [xspiCodes_cmd h1 h3 hn, ha]
    cases (s.flashCmd (b2n port)).isSome || s.burning (b2n port) <;> rfl
  have e := regPut_refused xspiCmd_plain hw (and_not_mask (n := 4) (v := b2n port + 2 * op) (by omega)) (by omega) (by rw [hc]; decide)
  rwa [hc] at e

/-- The bytes of the port's buffer that LEN covers. -/
abbrev flashBuf (s : State) : List Byte :=
  ((List.range 64).flatMap (fun i => leBytes 4 (s.rd (B.xspi + 0x100 + 4 * i)).toNat)).take (s.fld B.xspi XSPI.LEN)

/-- What a command runs as: a program of the buffer's bytes, or the erase of a block (R202). -/
def flashCmdOf (op : Nat) (s : State) : FlashCmd :=
  let a := (s.rd (B.xspi + XSPI.ADDR.off)).toNat
  if op = 1 then ⟨a, some (flashBuf s), s.fld B.xspi XSPI.LEN⟩ else ⟨a, none, if op = 2 then 4096 else 65536⟩

theorem xspiDo_cmd (h1 : 1 ≤ op) (h3 : op ≤ 3) :
    xspiDo XSPI.CMD.off (b2n port + 2 * op) (wakeWaiting s) = flashStart (b2n port) (flashCmdOf op s) (wakeWaiting s) := by
  obtain ⟨hport, hop⟩ := xspiCmd_fields port h3
  unfold xspiDo
  simp only [hport, hop, wakeWaiting_fld, wakeWaiting_rd]
  obtain rfl | rfl | rfl : op = 1 ∨ op = 2 ∨ op = 3 := by omega
  all_goals rfl

/-- A command that nothing refuses runs on its port, which shows it. -/
theorem xspiCmd_starts (h1 : 1 ≤ op) (h3 : op ≤ 3) (hw : mayWrite w 0x332 s)
    (hn : 1 ≤ s.fld B.xspi XSPI.LEN ∧ s.fld B.xspi XSPI.LEN ≤ 256) (hc : s.flashCmd (b2n port) = none) (hb : s.burning (b2n port) = false)
    (ha : flashMisaligned op (s.rd (B.xspi + XSPI.ADDR.off)).toNat (s.fld B.xspi XSPI.LEN) = false) :
    let t := regPut w (B.xspi + XSPI.CMD.off) (b2n port + 2 * op) s
    t.flashCmd (b2n port) = some (flashCmdOf op s) ∧ t.flag B.xspi (busyFld (b2n port)) = true ∧ t.mem = s.mem := by
  rw [xspiCmd_admitted h1 h3 hw hn hc hb ha, xspiDo_cmd h1 h3]
  obtain ⟨hcmd, hbusy, hmem⟩ := flashStart_starts (b2n_le port) (flashCmdOf op s) (wakeWaiting s)
  exact ⟨hcmd, hbusy, hmem.trans (wakeWaiting_mem s)⟩

/-! ### The end of a command -/

theorem memReadN_getElem (m : List Host.Cell) : ∀ (n a i : Nat) (h : i < (memReadN m a n).length), (memReadN m a n)[i] = memRead m (a + i)
  | 0, _, _, h => absurd h (Nat.not_lt_zero _)
  | n + 1, a, 0, _ => rfl
  | n + 1, a, i + 1, h => (memReadN_getElem m n (a + 1) i (by simpa [memReadN] using h)).trans (by rw [Nat.add_right_comm, Nat.add_assoc])

/-- Where the bytes that a command covers begin in the physical map (R201). -/
abbrev flashAt (p : Nat) (c : FlashCmd) : Nat := 0x30000000 + p * 0x8000000 + c.addr

/-- The bytes that a command leaves: the old ones with bits cleared, or all ones. -/
def flashNew (p : Nat) (c : FlashCmd) (s : State) : List Byte :=
  match c.data with
  | some d => ((s.peek (flashAt p c) c.len).zip d).map (fun x => x.1 &&& x.2)
  | none => List.replicate c.len 0xFF

theorem flashNew_length (hd : ∀ d, c.data = some d → d.length = c.len) : (flashNew p c s).length = c.len := by
  unfold flashNew
  split
  · next d h => rw [List.length_map, List.length_zip, hd d h, State.peek, memReadN_length, Nat.min_self]
  · exact List.length_replicate

/-- A command that ends well frees its port and leaves its bytes, all of which the window shows. -/
theorem flashDone_ok (hc : s.flashCmd p = some c) (hfit : c.addr + c.len ≤ min (s.flashSize p) 0x8000000)
    (hd : ∀ d, c.data = some d → d.length = c.len) :
    let t := flashDone p true s
    t.flashCmd p = none ∧ t.fld B.xspi XSPI.STAT_CODE = 0 ∧ t.mem = memWriteL s.mem (flashAt p c) (flashNew p c s) := by
  have hnew : (flashNew p c s).take (min (s.flashSize p) 0x8000000 - c.addr) = flashNew p c s :=
    List.take_of_length_le (by rw [flashNew_length hd]; omega)
  have hdone : flashDone p true s =
      (((((s.setFlashCmd p none).setFld B.xspi (busyFld p) (b2n (s.burning p))).poke (flashAt p c)
        ((flashNew p c s).take (min (s.flashSize p) 0x8000000 - c.addr))).setFld B.xspi XSPI.STAT_CODE 0).irq 482) := by
    unfold flashDone
    simp only [hc]
    rfl
  rw [hdone, hnew]
  refine ⟨?_, ?_, ?_⟩
  · unfold State.flashCmd
    rw [State.irq_fab]
    exact flashCmd_setFlashCmd s p none
  · rw [irq_fld (by decide), State.fld_setFld_same _ _ _ _ (by decide)]
    rfl
  · rw [State.irq_mem]
    rfl

theorem flashNew_programs {d : List Byte} (hdata : c.data = some d) (hd : d.length = c.len) {i : Nat} (hi : i < c.len) :
    (flashNew p c s).getD i 0 = memRead s.mem (flashAt p c + i) &&& d.getD i 0 := by
  have hlen : i < (s.peek (flashAt p c) c.len).length := by rwa [State.peek, memReadN_length]
  unfold flashNew
  simp only [hdata]
  rw [List.getD_eq_getElem _ _ (by rw [List.length_map, List.length_zip]; omega), List.getD_eq_getElem _ _ (by omega), List.getElem_map,
    List.getElem_zip]
  exact congrArg (· &&& _) (memReadN_getElem _ _ _ _ hlen)

theorem flashNew_erases (hdata : c.data = none) {i : Nat} (hi : i < c.len) : (flashNew p c s).getD i 0 = 0xFF := by
  unfold flashNew
  simp only [hdata]
  rw [List.getD_eq_getElem _ _ (by rwa [List.length_replicate]), List.getElem_replicate]

/-- Every byte of memory once the command has left its bytes. -/
theorem flashNew_memRead (hd : ∀ d, c.data = some d → d.length = c.len) (y : Nat) :
    memRead (memWriteL s.mem (flashAt p c) (flashNew p c s)) y =
      if flashAt p c ≤ y ∧ y < flashAt p c + c.len then (flashNew p c s).getD (y - flashAt p c) 0 else memRead s.mem y := by
  rw [memRead_memWriteL, flashNew_length hd]

theorem flashDone_programs {d : List Byte} (hc : s.flashCmd p = some c) (hfit : c.addr + c.len ≤ min (s.flashSize p) 0x8000000)
    (hdata : c.data = some d) (hd : d.length = c.len) :
    let t := flashDone p true s
    t.flashCmd p = none ∧ t.fld B.xspi XSPI.STAT_CODE = 0 ∧ ∀ y, memRead t.mem y =
      if flashAt p c ≤ y ∧ y < flashAt p c + c.len then memRead s.mem y &&& d.getD (y - flashAt p c) 0 else memRead s.mem y := by
  have hlen : ∀ e, c.data = some e → e.length = c.len := fun e he => by
    rw [hdata] at he
    exact Option.some.inj he ▸ hd
  obtain ⟨hfree, hcode, hm⟩ := flashDone_ok hc hfit hlen
  refine ⟨hfree, hcode, fun y => ?_⟩
  rw [hm, flashNew_memRead hlen]
  refine ite_congr rfl (fun hy => ?_) fun _ => rfl
  rw [flashNew_programs hdata hd (by omega), Nat.add_sub_cancel' hy.1]

theorem flashDone_erases (hc : s.flashCmd p = some c) (hfit : c.addr + c.len ≤ min (s.flashSize p) 0x8000000) (hdata : c.data = none) :
    let t := flashDone p true s
    t.flashCmd p = none ∧ ∀ y, memRead t.mem y = if flashAt p c ≤ y ∧ y < flashAt p c + c.len then 0xFF else memRead s.mem y := by
  have hlen : ∀ e, c.data = some e → e.length = c.len := fun e he => absurd (hdata.symm.trans he) nofun
  obtain ⟨hfree, -, hm⟩ := flashDone_ok hc hfit hlen
  refine ⟨hfree, fun y => ?_⟩
  rw [hm, flashNew_memRead hlen]
  exact ite_congr rfl (fun hy => flashNew_erases hdata (by omega)) fun _ => rfl

end Sys2Proof.Machine
end

section
/-! What the patrol scrubber meets (R198, R200, R207). -/
namespace Sys2Proof.Machine

variable {s : State}

/-! ### Words that keep an error -/

theorem lowestWord_isSome {l : List Nat} (h : l ≠ []) : (lowestWord l).isSome = true := by
  have hfold : ∀ (l : List Nat) (o : Option Nat), o.isSome = true →
      (l.foldl (fun o w => match o with | some v => some (min v w) | none => some w) o).isSome = true := by
    intro l
    induction l with
    | nil => exact fun _ h => h
    | cons x l ih => exact fun o _ => ih _ (by cases o <;> rfl)
  cases l with
  | nil => exact absurd rfl h
  | cons x l => exact hfold l (some x) rfl

theorem mem_markBad (s : State) (a : Nat) : a / 8 ∈ (s.markBad a).bad := by
  unfold State.markBad
  split
  · next h => exact List.contains_iff_mem.1 h
  · exact List.mem_cons_self

/-- An access of a word that keeps an error meets it (R198). -/
theorem badAddr_word {a : Nat} (h : a ∈ s.bad) : (s.badAddr (8 * a) 8).isSome = true := by
  unfold State.badAddr
  rw [Option.isSome_map]
  refine lowestWord_isSome (List.ne_nil_of_mem (List.mem_filter.2 ⟨h, ?_⟩))
  simp only [Bool.and_eq_true, decide_eq_true_eq]
  omega

/-! ### One address -/

/-- What the scrubber reports. -/
def scrubReport (d unc : Bool) (x : BitVec 40) : Assertion :=
  ⟨BitVec.ofNat 9 (239 + 2 * b2n d + b2n unc), some x, BitVec.ofNat 32 (6 + 16 * b2n d), BitVec.ofNat 4 recScrub, 0, false⟩

theorem scrubReport_src (d unc : Bool) (x : BitVec 40) : (scrubReport d unc x).src.toNat = 239 + b2n unc + 2 * b2n d := by
  cases d <;> cases unc <;> rfl

theorem patrolHit_corrected (d : Bool) (x : BitVec 40) (s : State) :
    patrolHit d false x s = (s.raiseA (scrubReport d false x)).incSat (B.dram (b2n d)) DRAM.CE_CNT := by
  unfold patrolHit scrubReport
  exact if_neg Bool.false_ne_true

theorem patrolHit_uncorrectable (d : Bool) (x : BitVec 40) (s : State) :
    patrolHit d true x s = (((((s.raiseA (scrubReport d true x)).markBad x.toNat).incSat (B.dram (b2n d)) DRAM.UE_CNT).setFld
      (B.dram (b2n d)) DRAM.UE_ADDR_LO x.toNat).setFld (B.dram (b2n d)) DRAM.UE_ADDR_HI (x.toNat / 2 ^ 32)).irq (480 + b2n d) := by
  unfold patrolHit scrubReport
  exact if_pos rfl

/-- The registers of a controller stand behind those of the interrupt distributor. -/
theorem irq_dram (d : Bool) (o : Nat) (s : State) :
    (s.irq (480 + b2n d)).fld (B.dram (b2n d)) ⟨o, 0, 32⟩ = s.fld (B.dram (b2n d)) ⟨o, 0, 32⟩ := by
  refine irq_fld ?_ s
  have := b2n_le d
  simp only [B.dram, B.intd, page]
  omega

/-- A word of 32 bits holds a value that fits. -/
theorem setFld_word (s : State) (b o : Nat) {v : Nat} (h : v < 2 ^ 32) : (s.setFld b ⟨o, 0, 32⟩ v).fld b ⟨o, 0, 32⟩ = v := by
  rw [State.fld_setFld_same s b _ v (show 0 + 32 ≤ 32 by decide), Nat.mod_eq_of_lt h]

theorem setFld_word_other (s : State) (b v : Nat) {o o' : Nat} (h : o' ≠ o) :
    (s.setFld b ⟨o, 0, 32⟩ v).fld b ⟨o', 0, 32⟩ = s.fld b ⟨o', 0, 32⟩ :=
  State.fld_setFld_off s v (by dsimp only; omega)

/-- A corrected error is counted and reported (R207). -/
theorem scrub_corrected (d : Bool) (x : BitVec 40) (s : State) :
    let t := patrolHit d false x s
    t.raised = s.raised ++ [⟨scrubReport d false x, s.now⟩] ∧
      t.fld (B.dram (b2n d)) DRAM.CE_CNT = min (2 ^ 32 - 1) (s.fld (B.dram (b2n d)) DRAM.CE_CNT + 1) ∧ t.mem = s.mem := by
  rw [patrolHit_corrected]
  refine ⟨?_, (incSat_word ..).trans ?_, ?_⟩
  · rw [State.incSat_raised]
    rfl
  · rw [State.raiseA_fld, DRAM.CE_CNT]
  · rw [State.incSat_mem]
    rfl

/-- The controller's registers behind an uncorrectable error: its count and the address (R207). -/
theorem uncorrectable_recorded (d : Bool) (x : BitVec 40) (s : State) :
    let b := B.dram (b2n d)
    (patrolHit d true x s).fld b DRAM.UE_CNT = min (2 ^ 32 - 1) (s.fld b DRAM.UE_CNT + 1) ∧
      ((patrolHit d true x s).rd (b + DRAM.UE_ADDR_LO.off)).toNat = x.toNat % 2 ^ 32 ∧
      (patrolHit d true x s).fld b DRAM.UE_ADDR_HI = x.toNat / 2 ^ 32 := by
  have hx := x.isLt
  rw [patrolHit_uncorrectable]
  unfold DRAM.UE_CNT DRAM.UE_ADDR_LO DRAM.UE_ADDR_HI
  refine ⟨?_, ?_, ?_⟩
  · rw [irq_dram, setFld_word_other _ _ _ (by decide), setFld_word_other _ _ _ (by decide), incSat_word, State.markBad_fld, State.raiseA_fld]
  · rw [rd_toNat, irq_dram, setFld_word_other _ _ _ (by decide), State.fld_setFld_same _ _ _ _ (show 0 + 32 ≤ 32 by decide)]
  · rw [irq_dram, setFld_word _ _ _ (by omega)]

/-- An uncorrectable error is counted, recorded and reported, its interrupt is raised, and its word keeps it (R198, R207). -/
theorem scrub_uncorrectable (d : Bool) (x : BitVec 40) (s : State) :
    let t := patrolHit d true x s
    let b := B.dram (b2n d)
    t.raised = s.raised ++ [⟨scrubReport d true x, s.now⟩] ∧ t.fld b DRAM.UE_CNT = min (2 ^ 32 - 1) (s.fld b DRAM.UE_CNT + 1) ∧
      (t.rd (b + DRAM.UE_ADDR_LO.off)).toNat + t.fld b DRAM.UE_ADDR_HI * 2 ^ 32 = x.toNat ∧ t.irqPending (480 + b2n d) = true ∧
      t.mem = s.mem ∧ (t.badAddr (8 * (x.toNat / 8)) 8).isSome = true := by
  obtain ⟨hcnt, hlo, hhi⟩ := uncorrectable_recorded d x s
  have hs : irqReserved (480 + b2n d) = false ∧ irqIsLevel (480 + b2n d) = false := by cases d <;> decide
  refine ⟨?_, hcnt, ?_, ?_, ?_, badAddr_word ?_⟩
  · rw [patrolHit_uncorrectable, State.irq_raised, State.setFld_raised, State.setFld_raised, State.incSat_raised, State.markBad_raised]
    rfl
  · rw [hlo, hhi]
    omega
  · rw [patrolHit_uncorrectable]
    exact irqPending_irq hs.1 hs.2
  · rw [patrolHit_uncorrectable, State.irq_mem, State.setFld_mem, State.setFld_mem, State.incSat_mem, State.markBad_mem]
    rfl
  · rw [patrolHit_uncorrectable, State.irq_bad, State.setFld_bad, State.setFld_bad, State.incSat_bad]
    exact mem_markBad _ _

theorem patrolScrub_one (hg : s.gated = false) (d : Bool) (x : BitVec 40) :
    exec (.patrolScrub d [x] []) s = .next (patrolHit d false x s) ∧ exec (.patrolScrub d [] [x]) s = .next (patrolHit d true x s) := by
  have hx (ce ue : List (BitVec 40)) : exec (.patrolScrub d ce ue) s =
      .next (ue.foldl (fun a x => patrolHit d true x a) (ce.foldl (fun a x => patrolHit d false x a) s)) :=
    congrArg Host.Outcome.next (unlessGated_runs hg _)
  rw [hx, hx]
  exact ⟨rfl, rfl⟩

/-! ### The statement -/

/-- Settles O43: an invalidation, a flash command and the scrubber by what each leaves; an unanswered access by what its unit records. -/
theorem memorySystemRows : Obligations.MemorySystemRows := by
  unfold Obligations.MemorySystemRows
  intro s w port d x p a n idle starts b
  refine ⟨fun v h => iotInv_accepted v h, fun hg h => congrArg Host.Outcome.next ((unlessGated_runs hg _).trans (ioInvDone_waits h)),
    fun st whole ad rest hg h hi => ?ends, fun st write hg => ioTimeout_reports hg st write x, fun ⟨hw, h1, h256, hc, hb⟩ ha => ?program,
    fun ⟨hw, h1, h256, hc, hb⟩ ha => ?erase4k, fun ⟨hw, h1, h256, hc, hb⟩ ha => ?erase64k, fun hw h1 h256 ha => ?misaligned,
    fun c hg hc hfit => ⟨fun data hdata hlen => ?programmed, fun hdata => ?erased⟩,
    fun hg => ⟨congrArg Host.Outcome.next (unlessGated_stands hg _), fun _ => congrArg Host.Outcome.next (unlessGated_stands hg _),
      fun _ _ => congrArg Host.Outcome.next (unlessGated_stands hg _)⟩, fun hg => ?corrected, fun hg => ?uncorrectable⟩
  case ends =>
    refine ⟨_, congrArg Host.Outcome.next ((unlessGated_runs hg _).trans (ioInvDone_oldest h hi)), ?_, fun e => ?_, ?_⟩
    · rw [State.setFld_fab]
      rfl
    · rw [State.setFld_fab]
      exact mem_ioInval ..
    · rw [flag_setFld_bit _ _ _ _ (by decide), Bool.not_eq_true', List.isEmpty_eq_false_iff]
  case program =>
    exact ⟨_, rfl, xspiCmd_starts (op := 1) (by decide) (by decide) hw ⟨h1, h256⟩ hc hb (by simpa [flashMisaligned] using ha)⟩
  case erase4k =>
    exact ⟨_, rfl, xspiCmd_starts (op := 2) (by decide) (by decide) hw ⟨h1, h256⟩ hc hb (by simpa [flashMisaligned] using ha)⟩
  case erase64k =>
    exact ⟨_, rfl, xspiCmd_starts (op := 3) (by decide) (by decide) hw ⟨h1, h256⟩ hc hb (by simpa [flashMisaligned] using ha)⟩
  case misaligned =>
    have hx := xspiCmd_misaligned (port := port) (op := 2) (by decide) (by decide) hw ⟨h1, h256⟩ (by simpa [flashMisaligned] using ha)
    exact ⟨_, congrArg Host.Outcome.next hx, wstat_code w (by decide) _ _ _, (flashCmd_wstat ..).trans (flashCmd_wakeWaiting s p)⟩
  case programmed =>
    exact ⟨_, congrArg Host.Outcome.next (unlessGated_runs hg _), flashDone_programs hc hfit hdata hlen⟩
  case erased =>
    exact ⟨_, congrArg Host.Outcome.next (unlessGated_runs hg _), flashDone_erases hc hfit hdata⟩
  case corrected =>
    obtain ⟨hr, hcnt, hm⟩ := scrub_corrected d x s
    exact ⟨_, _, (patrolScrub_one hg d x).1, hr, scrubReport_src d false x, rfl, hcnt, hm⟩
  case uncorrectable =>
    obtain ⟨hr, hcnt, ha, hi, hm, hb⟩ := scrub_uncorrectable d x s
    exact ⟨_, _, (patrolScrub_one hg d x).2, hr, scrubReport_src d true x, rfl, hcnt, ha, hi, hm, hb⟩

end Sys2Proof.Machine
end

section
/-! The state of a shaft beside its registers: what the operations of the block leave of it (R209 to R245). -/
namespace Sys2Proof.Machine

variable {s t : State} {n m : Nat}

@[simp] theorem State.setShaft_shaft_same (s : State) (n : Nat) (x : Shaft) : (s.setShaft n x).shaft n = x := Tab.get_set_same _ _ _ _

theorem State.setShaft_shaft_other (s : State) (h : m ≠ n) (x : Shaft) : (s.setShaft n x).shaft m = s.shaft m := Tab.get_set_other _ _ h _

theorem State.shaft_congr (h : t.shafts = s.shafts) (n : Nat) : t.shaft n = s.shaft n := by unfold State.shaft; rw [h]

@[simp] theorem State.wr_shaft (s : State) (k : Nat) (v : W32) (n : Nat) : (s.wr k v).shaft n = s.shaft n :=
  State.shaft_congr (State.wr_shafts s k v) n
@[simp] theorem State.setFld_shaft (s : State) (b : Nat) (f : Fld) (v n : Nat) : (s.setFld b f v).shaft n = s.shaft n :=
  State.shaft_congr (State.setFld_shafts s b f v) n
@[simp] theorem State.incWrap_shaft (s : State) (b : Nat) (f : Fld) (n : Nat) : (s.incWrap b f).shaft n = s.shaft n :=
  State.shaft_congr (State.incWrap_shafts s b f) n
@[simp] theorem State.incSat_shaft (s : State) (b : Nat) (f : Fld) (n : Nat) : (s.incSat b f).shaft n = s.shaft n :=
  State.shaft_congr (State.incSat_shafts s b f) n
@[simp] theorem State.irq_shaft (s : State) (i n : Nat) : (s.irq i).shaft n = s.shaft n := State.shaft_congr (State.irq_shafts s i) n
@[simp] theorem State.shaftIrq_shaft (s : State) (m i n : Nat) : (s.shaftIrq m i).shaft n = s.shaft n := State.irq_shaft s _ n
@[simp] theorem State.shaftFault_shaft (s : State) (m i n : Nat) : (s.shaftFault m i).shaft n = s.shaft n :=
  State.shaft_congr (State.raise_shafts s _) n
@[simp] theorem wakeWaiting_shaft (s : State) (n : Nat) : (wakeWaiting s).shaft n = s.shaft n := by rw [wakeWaiting_eq]; rfl

/-- The keys of a shaft's page stand apart from those of the interrupt distributor. -/
theorem shaft_key_ne_intd (n o i : Nat) (hi : i < 1024) : B.shaft n + o ≠ B.intd + (0x080 + 4 * (i / 32)) := by
  simp only [B.shaft, B.intd, page]; omega

/-- An interrupt of a shaft leaves the registers of every shaft. -/
theorem shaftIrq_rd (hn : n < 8) {i : Nat} (hi : i < 8) (s : State) (m o : Nat) : (s.shaftIrq n i).rd (B.shaft m + o) = s.rd (B.shaft m + o) :=
  irq_rd (n := 128 + 8 * n + i) (shaft_key_ne_intd m o _ (by omega)) s

theorem shaftIrq_fld (hn : n < 8) {i : Nat} (hi : i < 8) (s : State) (m : Nat) (f : Fld) :
    (s.shaftIrq n i).fld (B.shaft m) f = s.fld (B.shaft m) f := by
  unfold State.fld
  rw [shaftIrq_rd hn hi]

theorem shaftIrq_flag (hn : n < 8) {i : Nat} (hi : i < 8) (s : State) (m : Nat) (f : Fld) :
    (s.shaftIrq n i).flag (B.shaft m) f = s.flag (B.shaft m) f := by
  unfold State.flag
  rw [shaftIrq_fld hn hi]

/-- The interrupts of a shaft are edge sources; the odd ones have no sixth. -/
theorem shaft_edge (hn : n < 8) {i : Nat} (hi : i < 6) :
    irqReserved (128 + 8 * n + i) = false ∧ irqIsLevel (128 + 8 * n + i) = false := by
  simp only [irqReserved, irqIsLevel, inRange, Bool.or_eq_false_iff, Bool.and_eq_false_iff, decide_eq_false_iff_not, beq_eq_false_iff_ne]
  omega

theorem irqPending_shaftIrq (hn : n < 8) {i : Nat} (hi : i < 6) (s : State) : (s.shaftIrq n i).irqPending (128 + 8 * n + i) = true :=
  irqPending_irq (shaft_edge hn hi).1 (shaft_edge hn hi).2

/-- A flag of one bit that is cleared. -/
theorem State.flag_setFld_zero (s : State) (b : Nat) {f : Fld} (h : f.lo + f.wd ≤ 32) : (s.setFld b f 0).flag b f = false := by
  unfold State.flag
  rw [State.fld_setFld_same _ _ _ _ h, Nat.zero_mod]
  rfl

/-- Another flag of the same register. -/
theorem State.flag_setFld_apart (s : State) (b : Nat) {f f' : Fld} (v : Nat) (ho : f'.off = f.off) (h : f.lo + f.wd ≤ 32)
    (hd : f'.lo + f'.wd ≤ f.lo ∨ f.lo + f.wd ≤ f'.lo) : (s.setFld b f v).flag b f' = s.flag b f' := by
  unfold State.flag
  rw [State.fld_setFld_apart _ _ _ ho h hd]

/-! ### Learning ends, and the reference is lost (R213, R232, R233) -/

@[simp] theorem learnEnd_shaft (n : Nat) (c : Code) (k : Nat) (s : State) : (learnEnd n c k s).shaft n = { s.shaft n with learn := none } := by
  unfold learnEnd
  rw [State.shaftIrq_shaft, State.setFld_shaft, State.setFld_shaft, State.setFld_shaft, State.setShaft_shaft_same]

/-- What the end of learning writes: LEARNING and the result. -/
theorem learnEnd_rd (hn : n < 8) (c : Code) (k : Nat) (s : State) {o : Nat} (h1 : o ≠ 0x06C) (h2 : o ≠ 0x084) :
    (learnEnd n c k s).rd (B.shaft n + o) = s.rd (B.shaft n + o) := by
  unfold learnEnd
  rw [shaftIrq_rd hn (by decide), State.rd_setFld_off _ _ (by simp only [SHAFT.CT_RES_TURNS]; omega),
    State.rd_setFld_off _ _ (by simp only [SHAFT.CT_RES_CODE]; omega), State.rd_setFld_off _ _ (by simp only [SHAFT.STAT_LEARNING]; omega),
    State.setShaft_rd]

theorem learnEnd_learning (hn : n < 8) (c : Code) (k : Nat) (s : State) : (learnEnd n c k s).flag (B.shaft n) SHAFT.STAT_LEARNING = false := by
  unfold learnEnd
  rw [shaftIrq_flag hn (by decide), State.flag_setFld_off _ _ (by simp only [SHAFT.STAT_LEARNING, SHAFT.CT_RES_TURNS]; omega),
    State.flag_setFld_off _ _ (by simp only [SHAFT.STAT_LEARNING, SHAFT.CT_RES_CODE]; omega)]
  exact State.flag_setFld_zero _ _ (by decide)

theorem learnEnd_referenced (hn : n < 8) (c : Code) (k : Nat) (s : State) :
    (learnEnd n c k s).flag (B.shaft n) SHAFT.STAT_REFERENCED = s.flag (B.shaft n) SHAFT.STAT_REFERENCED := by
  unfold learnEnd
  rw [shaftIrq_flag hn (by decide), State.flag_setFld_off _ _ (by simp only [SHAFT.STAT_REFERENCED, SHAFT.CT_RES_TURNS]; omega),
    State.flag_setFld_off _ _ (by simp only [SHAFT.STAT_REFERENCED, SHAFT.CT_RES_CODE]; omega),
    State.flag_setFld_apart _ _ _ (by rfl) (by decide) (by decide)]
  rfl

theorem learnEnd_code (hn : n < 8) (c : Code) (k : Nat) (s : State) : (learnEnd n c k s).fld (B.shaft n) SHAFT.CT_RES_CODE = c.num := by
  unfold learnEnd
  rw [shaftIrq_fld hn (by decide), State.fld_setFld_apart _ _ _ (by rfl) (by decide) (by decide), State.fld_setFld_same _ _ _ _ (by decide)]
  exact Nat.mod_eq_of_lt (by cases c <;> decide)

theorem learnEnd_told (hn : n < 8) (c : Code) (k : Nat) (s : State) : (learnEnd n c k s).irqPending (128 + 8 * n + 5) = true :=
  irqPending_shaftIrq hn (by decide) _

theorem learnStop_runs {l : Learn} (h : (s.shaft n).learn = some l) : learnStop n s = learnEnd n .state l.taken s := by
  unfold learnStop
  rw [h]

theorem learnStop_idle (h : (s.shaft n).learn = none) : learnStop n s = s := by
  unfold learnStop
  rw [h]

end Sys2Proof.Machine
end

section
/-! A word written to a register of a shaft's page, and the read of its table (R231, R468, R476). -/
namespace Sys2Proof.Machine

variable {s : State} {w : Writer} {n : Fin 8} {o mask v : Nat}

/-- A register of a shaft's page that software writes whole, with its defined bits. -/
structure ShaftReg (o mask : Nat) : Prop where
  row : ∃ r, rowIn rowsShaft o = some r ∧ (r.acc = .rw ∨ r.acc = .wo) ∧ r.mask = mask
  word : o % 4 = 0
  first : 0x44 ≤ o
  last : o < 0x0C4

theorem pageKind_shaft (n : Fin 8) : pageKind (0x200 + n.val) = some (.shaft, 0x200, 8) := by
  fin_cases n <;> rfl

theorem regRow_shaft (n : Fin 8) (ho : 0x40 ≤ o) : regRow (0x200 + n.val) o = rowIn rowsShaft o := by
  unfold regRow
  rw [pageKind_shaft]
  exact if_neg (Nat.not_lt.2 ho)

/-- The halves that a shaft's page holds back stand behind the registers that all shafts have. -/
theorem loOf_shaft (hr : ShaftReg o mask) (n : Fin 8) (s : State) : s.loOf .shaft (0x200 + n.val) o = none := by
  have h1 := hr.first
  have h2 := hr.last
  have h3 := hr.word
  have hlow : ∀ i : Fin 32, (rowIn rowsShaft (0x40 + 4 * i.val)).all (fun r => r.acc ≠ .rwh ∧ r.acc ≠ .woh) = true := by decide
  have hi := hlow ⟨(o - 0x44) / 4, by omega⟩
  rw [show 0x40 + 4 * ((⟨(o - 0x44) / 4, by omega⟩ : Fin 32) : Nat) = o - 4 by dsimp only; omega] at hi
  unfold State.loOf
  rw [if_neg (by simp), if_neg (by omega), regRow_shaft n (by omega)]
  cases hrow : rowIn rowsShaft (o - 4) with
  | none => rfl
  | some r =>
    rw [hrow] at hi
    simp only [Option.all_some, decide_eq_true_eq] at hi
    dsimp only
    rw [if_neg hi.1, if_neg hi.2]

/-- What refuses a write: an undefined bit, the ring of the writer, the shaft. -/
theorem regCodes_shaft (hr : ShaftReg o mask) (n : Fin 8) (w : Writer) (v : W32) (s : State) :
    regCodes w (0x200 + n.val) o v s = refuseIf (v &&& ~~~(BitVec.ofNat 32 mask) != 0) .rsvdBit
      ++ refuseIf (decide (s.wrRing (0x200 + n.val) < w.ring.val)) .priv ++ shaftCodes n.val o v.toNat s := by
  obtain ⟨r, hrow, hacc, hmask⟩ := hr.row
  have h1 := hr.first
  have h2 := hr.last
  have hpage : pageCodes .shaft (0x200 + n.val) o s = [] := by
    have : inRange 0x0C4 0x0DB o = false := by simp [inRange]; omega
    simp [pageCodes, refuseIf, this]
  have hheld : s.isHeld .shaft (0x200 + n.val) o r = false := by
    rcases hacc with h | h <;> simp [State.isHeld, h]
  have hblock : blockCodes w .shaft (0x200 + n.val) o v.toNat s = shaftCodes n.val o v.toNat s := by
    unfold blockCodes
    rw [if_neg (by omega), Nat.add_sub_cancel_left]
  unfold regCodes
  rw [pageKind_shaft, regRow_shaft n (by omega), hrow]
  dsimp only
  rw [hheld, loOf_shaft hr, hpage, hmask, ← hblock, List.append_nil]
  rcases hacc with h | h <;> simp [h]

/-- A write either takes effect on the shaft or leaves its code in PG_WSTAT, with the CRC that a refused APPLY computed. -/
theorem regPut_shaft (hr : ShaftReg o mask) (n : Fin 8) (hv : v < 2 ^ 32) (w : Writer) (s : State) :
    regPut w (B.shaft n.val + o) v s =
      let c := Code.lowest (regCodes w (0x200 + n.val) o (BitVec.ofNat 32 v) (wakeWaiting s))
      if c = .ok then shaftDo n.val o v (wakeWaiting s)
      else wstat w (0x200 + n.val) o c (shaftRefused n.val o v c (wakeWaiting s)) := by
  obtain ⟨r, hrow, hacc, -⟩ := hr.row
  have h1 := hr.first
  have h2 := hr.last
  have hv' : (BitVec.ofNat 32 v).toNat = v := by rw [BitVec.toNat_ofNat, Nat.mod_eq_of_lt hv]
  have hheld (s : State) : s.isHeld .shaft (0x200 + n.val) o r = false := by
    rcases hacc with h | h <;> simp [State.isHeld, h]
  have hdo (s : State) : blockDo .shaft (0x200 + n.val) o v s = shaftDo n.val o v s := by
    unfold blockDo
    dsimp only
    rw [if_neg (by omega), Nat.add_sub_cancel_left]
  rw [B.shaft, regPut_word ⟨_, _, pageKind_shaft n⟩ (by omega) hr.word]
  dsimp only
  refine ite_congr rfl (fun _ => ?_) fun _ => ?_
  · unfold regApply
    rw [pageKind_shaft, regRow_shaft n (by omega), hrow]
    dsimp only
    rw [hheld, loOf_shaft hr, hv']
    rcases hacc with h | h <;> simp [h, hdo]
  · unfold regRefuse
    rw [pageKind_shaft]
    dsimp only
    rw [loOf_shaft hr, blockRefused, if_pos rfl, Nat.add_sub_cancel_left, hv']

/-- Written by a ring that the page admits, with no undefined bit: the shaft alone decides. -/
theorem regCodes_shaft_admitted (hr : ShaftReg o mask) (hw : mayWrite w (0x200 + n.val) s)
    (hm : BitVec.ofNat 32 v &&& ~~~(BitVec.ofNat 32 mask) = 0) (hv : v < 2 ^ 32) :
    regCodes w (0x200 + n.val) o (BitVec.ofNat 32 v) (wakeWaiting s) = shaftCodes n.val o v s := by
  have hwake : shaftCodes n.val o v (wakeWaiting s) = shaftCodes n.val o v s := by rw [wakeWaiting_eq]; rfl
  rw [regCodes_shaft hr, hm, wrRing_wakeWaiting, BitVec.toNat_ofNat, Nat.mod_eq_of_lt hv, hwake]
  simp [refuseIf, Nat.not_lt.2 hw]

theorem regPut_shaft_taken (hr : ShaftReg o mask) (hw : mayWrite w (0x200 + n.val) s)
    (hm : BitVec.ofNat 32 v &&& ~~~(BitVec.ofNat 32 mask) = 0) (hv : v < 2 ^ 32) (hc : shaftCodes n.val o v s = []) :
    regPut w (B.shaft n.val + o) v s = shaftDo n.val o v (wakeWaiting s) := by
  rw [regPut_shaft hr n hv, regCodes_shaft_admitted hr hw hm hv, hc]
  exact if_pos rfl

end Sys2Proof.Machine
end

section
/-! The commands of a shaft: what each leaves (R213, R231 to R233, R235, R238, R243, R470). -/
namespace Sys2Proof.Machine

variable {s : State} {w : Writer} {n : Fin 8} {op : Nat}

/-! ### CMD -/

theorem cmd_shaftReg : ShaftReg SHAFT.CMD.off 0xF := ⟨⟨_, rfl, .inr rfl, rfl⟩, by decide, by decide, by decide⟩
theorem revSet_shaftReg : ShaftReg SHAFT.REV_SET.off (2 ^ 32 - 1) := ⟨⟨_, rfl, .inr rfl, rfl⟩, by decide, by decide, by decide⟩
theorem ctCtl_shaftReg : ShaftReg SHAFT.CT_CTL.off 0xFF7 := ⟨⟨_, rfl, .inl rfl, rfl⟩, by decide, by decide, by decide⟩
theorem ctData_shaftReg : ShaftReg SHAFT.CT_DATA.off (2 ^ 32 - 1) := ⟨⟨_, rfl, .inl rfl, rfl⟩, by decide, by decide, by decide⟩

/-- An operation written to CMD: the shaft takes it, or PG_WSTAT shows why not. -/
theorem shaftCmd_taken (hop : op < 16) (hw : mayWrite w (0x200 + n.val) s) (hc : shaftCmdCodes n.val op s = []) :
    regPut w (B.shaft n.val + SHAFT.CMD.off) op s = shaftCmdDo n.val op (wakeWaiting s) := by
  have he : nbits op 0 4 = op := by unfold nbits; omega
  have hcodes : shaftCodes n.val SHAFT.CMD.off op s = [] := (congrArg (shaftCmdCodes n.val · s) he).trans hc
  rw [regPut_shaft_taken cmd_shaftReg hw (and_not_mask (n := 4) hop) (by omega) hcodes]
  exact congrArg (shaftCmdDo n.val · (wakeWaiting s)) he

theorem shaftCmd_refused (hop : op < 16) (hw : mayWrite w (0x200 + n.val) s) {c : Code} (hc : Code.lowest (shaftCmdCodes n.val op s) = c)
    (hne : c ≠ .ok) :
    regPut w (B.shaft n.val + SHAFT.CMD.off) op s = wstat w (0x200 + n.val) SHAFT.CMD.off c (wakeWaiting s) := by
  have he : nbits op 0 4 = op := by unfold nbits; omega
  have hcodes : shaftCodes n.val SHAFT.CMD.off op s = shaftCmdCodes n.val op s := congrArg (shaftCmdCodes n.val · s) he
  rw [regPut_shaft cmd_shaftReg n (by omega), regCodes_shaft_admitted cmd_shaftReg hw (and_not_mask (n := 4) hop) (by omega), hcodes, hc]
  exact if_neg hne

/-- A command joins those that wait for the next tick (R224). -/
theorem cmds_append (c : ShaftCmd) (n : Nat) (s : State) : let x := s.shaft n
    let t := (wakeWaiting s).setShaft n { (wakeWaiting s).shaft n with cmds := ((wakeWaiting s).shaft n).cmds ++ [c] }
    t.shaft n = { x with cmds := x.cmds ++ [c] } ∧ t.regs = s.regs ∧ t.mem = s.mem := by
  intro x t
  refine ⟨?_, wakeWaiting_regs s, wakeWaiting_mem s⟩
  rw [State.setShaft_shaft_same, wakeWaiting_shaft]

theorem refuseIf_false (c : Code) : refuseIf false c = [] := rfl

theorem refNow_codes (hs : s.shut (0x200 + n.val) = false) (ha : s.fld (B.shaft n.val) SHAFT.CMD_ARG % 2 ^ 24 < s.cpr n.val)
    (hq : s.shaftSsi n.val = false) (hb : s.masterBusy n.val = false) : shaftCmdCodes n.val 1 s = [] := by
  have hr : decide (s.cpr n.val ≤ s.fld (B.shaft n.val) SHAFT.CMD_ARG % 2 ^ 24) = false := decide_eq_false (Nat.not_le.2 ha)
  simp only [shaftCmdCodes, hs, hr, hq, hb, refuseIf_false, List.append_nil]

theorem clrRef_codes (hs : s.shut (0x200 + n.val) = false) (hb : s.masterBusy n.val = false) : shaftCmdCodes n.val 2 s = [] := by
  simp [shaftCmdCodes, hs, hb, refuseIf_false]

/-- Both shafts of a pair are VALID, SETTLED and REFERENCED. -/
abbrev shaftReady (m : Nat) (s : State) : Prop := s.flag (B.shaft m) SHAFT.STAT_VALID = true ∧
  s.flag (B.shaft m) SHAFT.STAT_SETTLED = true ∧ s.flag (B.shaft m) SHAFT.STAT_REFERENCED = true

theorem align_codes (hs : s.shut (0x200 + n.val) = false) (hn : n.val % 2 = 0) (hm : s.mode = mCalico) (h0 : shaftReady n.val s)
    (h1 : shaftReady (n.val + 1) s) : shaftCmdCodes n.val 3 s = [] := by
  obtain ⟨hv0, he0, hr0⟩ := h0
  obtain ⟨hv1, he1, hr1⟩ := h1
  simp [shaftCmdCodes, hs, hn, hm, hv0, he0, hr0, hv1, he1, hr1, refuseIf_false]

theorem align_codes_odd (hs : s.shut (0x200 + n.val) = false) (hn : n.val % 2 = 1) : shaftCmdCodes n.val 3 s = [.absent] := by
  simp [shaftCmdCodes, hs, hn, refuseIf_false]

theorem learnStart_codes (hs : s.shut (0x200 + n.val) = false) (hc : 4096 ≤ s.cpr n.val)
    (hr : s.flag (B.shaft n.val) SHAFT.STAT_REFERENCED = true) (hl : (s.shaft n.val).learn = none) : shaftCmdCodes n.val 4 s = [] := by
  simp [shaftCmdCodes, hs, hr, hl, Nat.not_lt.2 hc, refuseIf_false]

theorem learnAbort_codes (hs : s.shut (0x200 + n.val) = false) : shaftCmdCodes n.val 5 s = [] := by
  simp [shaftCmdCodes, hs, refuseIf_false]

theorem revSet_codes (v : Nat) (hs : s.shut (0x200 + n.val) = false) (hb : s.masterBusy n.val = false) :
    shaftCodes n.val SHAFT.REV_SET.off v s = [] := by
  show refuseIf (s.shut (0x200 + n.val) || s.masterBusy n.val) .busy = []
  rw [hs, hb]
  rfl

/-- An odd shaft has no ALIGN: PG_WSTAT shows ABSENT, the shaft stays (R243). -/
theorem align_absent (hw : mayWrite w (0x200 + n.val) s) (hs : s.shut (0x200 + n.val) = false) (hn : n.val % 2 = 1) :
    let t := regPut w (B.shaft n.val + SHAFT.CMD.off) 3 s
    t.fld (page (0x200 + n.val)) PG.WSTAT_CODE = Code.absent.num ∧ t.shaft n.val = s.shaft n.val := by
  intro t
  have ht : t = wstat w (0x200 + n.val) SHAFT.CMD.off .absent (wakeWaiting s) :=
    shaftCmd_refused (by decide) hw (by rw [align_codes_odd hs hn]; rfl) (by decide)
  rw [ht]
  refine ⟨wstat_code w (by omega) _ _ _, ?_⟩
  rw [wstat, State.wr_shaft, wakeWaiting_shaft]

theorem learnStart_effect (hw : mayWrite w (0x200 + n.val) s) (hs : s.shut (0x200 + n.val) = false) (hc : 4096 ≤ s.cpr n.val)
    (hr : s.flag (B.shaft n.val) SHAFT.STAT_REFERENCED = true) (hl : (s.shaft n.val).learn = none) :
    let t := regPut w (B.shaft n.val + SHAFT.CMD.off) 4 s
    t.shaft n.val = { s.shaft n.val with learn := some {} } ∧ t.flag (B.shaft n.val) SHAFT.STAT_LEARNING = true := by
  intro t
  have ht : t = ((wakeWaiting s).setShaft n.val { (wakeWaiting s).shaft n.val with learn := some {} }).setFld (B.shaft n.val)
      SHAFT.STAT_LEARNING 1 := shaftCmd_taken (by decide) hw (learnStart_codes hs hc hr hl)
  rw [ht]
  refine ⟨?_, State.flag_setFld_one _ _ (by decide) (by decide)⟩
  rw [State.setFld_shaft, State.setShaft_shaft_same, wakeWaiting_shaft]

theorem learnAbort_effect {l : Learn} (hw : mayWrite w (0x200 + n.val) s) (hs : s.shut (0x200 + n.val) = false)
    (hl : (s.shaft n.val).learn = some l) : let t := regPut w (B.shaft n.val + SHAFT.CMD.off) 5 s
    t.shaft n.val = { s.shaft n.val with learn := none } ∧ t.flag (B.shaft n.val) SHAFT.STAT_LEARNING = false ∧
      t.fld (B.shaft n.val) SHAFT.CT_RES_CODE = Code.state.num ∧ t.irqPending (128 + 8 * n.val + 5) = true := by
  intro t
  have ht : t = learnEnd n.val .state l.taken (wakeWaiting s) :=
    (shaftCmd_taken (by decide) hw (learnAbort_codes hs)).trans (learnStop_runs (by rw [wakeWaiting_shaft, hl]))
  rw [ht]
  refine ⟨?_, learnEnd_learning n.isLt _ _ _, learnEnd_code n.isLt _ _ _, learnEnd_told n.isLt _ _ _⟩
  rw [learnEnd_shaft, wakeWaiting_shaft]

/-! ### The correction table (R231) -/

/-- No code is reported where every code is OK. -/
theorem lowest_ok {cs : List Code} (h : Code.lowest cs = .ok) : ∀ c ∈ cs, c = .ok := by
  induction cs with
  | nil => exact fun c hc => nomatch hc
  | cons d l ih =>
    rw [lowest_cons] at h
    have hd : d = .ok := by
      by_contra hne
      rw [if_neg hne] at h
      split at h
      · exact hne h
      · split at h
        · exact hne h
        · contradiction
    rw [if_pos hd] at h
    exact fun c hc => (List.mem_cons.1 hc).elim (·.trans hd) (ih h c)

theorem refuseIf_ok {b : Bool} {c : Code} (h : ∀ d ∈ refuseIf b c, d = .ok) (hc : c ≠ .ok) : b = false := by
  cases b with
  | false => rfl
  | true => exact absurd (h c (List.mem_cons_self ..)) hc

/-- APPLY is admitted when the CRC of the table is the expected one. -/
theorem apply_codes {u : Nat} (hu : nbits u 0 2 = 1) (h : ∀ d ∈ shaftCodes n.val SHAFT.CT_CTL.off u s, d = .ok) :
    ctCrc (s.shaft n.val).ct = s.rd (B.shaft n.val + SHAFT.CT_CRC_EXP.off) := by
  let other := refuseIf (decide (2 ≤ nbits u 0 2)) .range ++ outside 4 12 (nbits u 4 4) ++ outside 6 15 (nbits u 8 4)
    ++ refuseIf (s.shaft n.val).learn.isSome .busy
  have hcodes : shaftCodes n.val SHAFT.CT_CTL.off u s = other ++ (if other.isEmpty ∧ nbits u 0 2 = 1 then
      refuseIf (ctCrc (s.shaft n.val).ct != s.rd (B.shaft n.val + SHAFT.CT_CRC_EXP.off)) .integrity else []) := rfl
  rw [hcodes] at h
  have hnone : ∀ d ∈ other, d ≠ .ok := by
    intro d hd
    simp only [other, outside, List.mem_append, mem_refuseIf] at hd
    rcases hd with ((⟨_, rfl⟩ | ⟨_, rfl⟩) | ⟨_, rfl⟩) | ⟨_, rfl⟩ <;> decide
  have hempty : other = [] := List.eq_nil_iff_forall_not_mem.2 fun d hd => hnone d hd (h d (List.mem_append_left _ hd))
  rw [hempty, if_pos ⟨rfl, hu⟩, List.nil_append] at h
  simpa using refuseIf_ok h (by decide)

theorem ctFlags_shaft (n m : Nat) (s : State) : (ctFlags n s).shaft m = s.shaft m := by
  unfold ctFlags
  rw [State.setFld_shaft, State.setFld_shaft]

theorem ctFlags_rd {o : Nat} (ho : o ≠ 0x06C) (n : Nat) (s : State) : (ctFlags n s).rd (B.shaft n + o) = s.rd (B.shaft n + o) := by
  unfold ctFlags
  rw [State.rd_setFld_off _ _ (by simp only [SHAFT.STAT_CT_SUSPENDED]; omega), State.rd_setFld_off _ _ (by simp only [SHAFT.STAT_CT_ACTIVE]; omega)]

/-- What the row of CT_APPLY writes: the value with MODE = APPLY. -/
theorem apply_word (v : W32) : setBits v.toNat 0 2 1 < 2 ^ 32 ∧ nbits (setBits v.toNat 0 2 1) 0 2 = 1 :=
  ⟨setBits_lt _ v.isLt (by decide), nbits_setBits_same _ _ _ _⟩

theorem ctApply_admitted (v : W32) (h : admits w (B.shaft n.val + SHAFT.CT_CTL.off) (setBits v.toNat 0 2 1) s) :
    let t := regPut w (B.shaft n.val + SHAFT.CT_CTL.off) (setBits v.toNat 0 2 1) s
    t.fld (B.shaft n.val) SHAFT.CT_CTL_MODE = 1 ∧ t.rd (B.shaft n.val + SHAFT.CT_CRC.off) = ctCrc (s.shaft n.val).ct ∧
      ctCrc (s.shaft n.val).ct = s.rd (B.shaft n.val + SHAFT.CT_CRC_EXP.off) ∧ t.shaft n.val = s.shaft n.val := by
  obtain ⟨hlt, hmode⟩ := apply_word v
  generalize setBits v.toNat 0 2 1 = u at *
  intro t
  unfold admits at h
  rw [B.shaft, page_add_div (by decide), page_add_mod (by decide)] at h
  have hcrc : ctCrc (s.shaft n.val).ct = s.rd (B.shaft n.val + SHAFT.CT_CRC_EXP.off) := by
    rw [← wakeWaiting_shaft, ← wakeWaiting_rd]
    have hok := lowest_ok h
    rw [regCodes_shaft ctCtl_shaftReg, BitVec.toNat_ofNat, Nat.mod_eq_of_lt hlt] at hok
    exact apply_codes hmode fun d hd => hok d (List.mem_append_right _ hd)
  have ht : t = ctFlags n.val (((if nbits u 0 2 = 1 then (wakeWaiting s).wr (B.shaft n.val + SHAFT.CT_CRC.off)
      (ctCrc ((wakeWaiting s).shaft n.val).ct) else wakeWaiting s)).wr (B.shaft n.val + SHAFT.CT_CTL.off) (BitVec.ofNat 32 u)) :=
    (regPut_shaft ctCtl_shaftReg n hlt w s).trans (if_pos h)
  rw [if_pos hmode, wakeWaiting_shaft] at ht
  rw [ht]
  refine ⟨?_, ?_, hcrc, ?_⟩
  · unfold State.fld
    rw [ctFlags_rd (by decide)]
    refine (State.fld_wr_same _ (B.shaft n.val) SHAFT.CT_CTL_MODE _).trans ?_
    rw [bf, BitVec.toNat_ofNat, Nat.mod_eq_of_lt hlt]
    exact hmode
  · rw [ctFlags_rd (by decide), State.rd_wr_other _ (by simp only [SHAFT.CT_CRC, SHAFT.CT_CTL]; omega), State.rd_wr_same]
  · rw [ctFlags_shaft, State.wr_shaft, State.wr_shaft, wakeWaiting_shaft]

/-- A refused APPLY shows the CRC that it computed and changes nothing else of the table. -/
theorem ctApply_mismatch (v : W32) (h : Code.lowest (regCodes w (0x200 + n.val) SHAFT.CT_CTL.off
      (BitVec.ofNat 32 (setBits v.toNat 0 2 1)) (wakeWaiting s)) = .integrity) :
    let t := regPut w (B.shaft n.val + SHAFT.CT_CTL.off) (setBits v.toNat 0 2 1) s
    t.rd (B.shaft n.val + SHAFT.CT_CRC.off) = ctCrc (s.shaft n.val).ct ∧
      t.fld (B.shaft n.val) SHAFT.CT_CTL_MODE = s.fld (B.shaft n.val) SHAFT.CT_CTL_MODE ∧
      t.fld (page (0x200 + n.val)) PG.WSTAT_CODE = Code.integrity.num := by
  obtain ⟨hlt, hmode⟩ := apply_word v
  generalize setBits v.toNat 0 2 1 = u at *
  intro t
  have hp : headPage (0x200 + n.val) = 0x200 + n.val := if_neg (by omega)
  have hrefused : shaftRefused n.val SHAFT.CT_CTL.off u .integrity (wakeWaiting s) =
      (wakeWaiting s).wr (B.shaft n.val + SHAFT.CT_CRC.off) (ctCrc (s.shaft n.val).ct) := by
    unfold shaftRefused
    rw [if_pos ⟨rfl, hmode, rfl⟩, wakeWaiting_shaft]
  have ht : t = wstat w (0x200 + n.val) SHAFT.CT_CTL.off .integrity
      ((wakeWaiting s).wr (B.shaft n.val + SHAFT.CT_CRC.off) (ctCrc (s.shaft n.val).ct)) := by
    refine (regPut_shaft ctCtl_shaftReg n hlt w s).trans ?_
    dsimp only
    rw [h, if_neg (by decide), hrefused]
  rw [ht]
  refine ⟨?_, ?_, wstat_code w (by omega) _ _ _⟩
  · rw [wstat_rd (by rw [hp]; simp only [B.shaft, SHAFT.CT_CRC, PG.WSTAT]; omega), State.rd_wr_same]
  · unfold State.fld
    rw [wstat_rd (by rw [hp]; simp only [B.shaft, SHAFT.CT_CTL_MODE, PG.WSTAT]; omega),
      State.rd_wr_other _ (by simp only [SHAFT.CT_CTL_MODE, SHAFT.CT_CRC]; omega), wakeWaiting_rd]

/-- The index moves on by one, around the table. -/
theorem ctIdx_next (s : State) (n i : Nat) : (s.setFld (B.shaft n) SHAFT.CT_IDX ((i % 4096 + 1) % 4096)).fld (B.shaft n) SHAFT.CT_IDX =
    (i % 4096 + 1) % 4096 := by
  rw [State.fld_setFld_same _ _ _ _ (by decide)]
  exact Nat.mod_eq_of_lt (show _ < 2 ^ 32 by omega)

theorem ctDataRead_effect (hr : mayRead w (0x200 + n.val) s) : let i := s.fld (B.shaft n.val) SHAFT.CT_IDX % 4096
    let t := regOut w (regsBase + B.shaft n.val + SHAFT.CT_DATA.off) .b4 s
    t.sent = .read (0x40000000 + B.shaft n.val + SHAFT.CT_DATA.off) (((s.shaft n.val).ct.get (fun _ => 0) i).setWidth 64) :: s.sent ∧
      t.fld (B.shaft n.val) SHAFT.CT_IDX = (i + 1) % 4096 ∧ t.shaft n.val = s.shaft n.val := by
  intro i t
  have hget : regGet w (0x200 + n.val) SHAFT.CT_DATA.off (wakeWaiting s) = ctDataRead n.val (wakeWaiting s) := by
    unfold regGet
    rw [pageKind_shaft, regRow_shaft n (by decide), show rowIn rowsShaft SHAFT.CT_DATA.off = some ⟨0x078, 0, 1, .rw, 0x0, 0xFFFFFFFF⟩ from rfl]
    dsimp only
    rw [if_pos ⟨rfl, rfl⟩, Nat.add_sub_cancel_left]
  have ht : t = ((wakeWaiting s).setFld (B.shaft n.val) SHAFT.CT_IDX ((i + 1) % 4096)).emit
      (.read (regsBase + B.shaft n.val + SHAFT.CT_DATA.off) (((s.shaft n.val).ct.get (fun _ => 0) i).setWidth 64)) := by
    show regOut w (regsBase + B.shaft n.val + SHAFT.CT_DATA.off) .b4 s = _
    unfold regOut
    rw [Nat.add_assoc, B.shaft, pageRead_word (pageKind_shaft n) (by decide) (by decide) (readAdmits_of_mayRead hr), hget, ctDataRead,
      wakeWaiting_shaft, wakeWaiting_fld]
    rfl
  rw [ht]
  refine ⟨?_, ?_, ?_⟩
  · rw [State.emit_sent, State.setFld_sent, wakeWaiting_sent]
    rfl
  · rw [State.emit_fld, ctIdx_next]
  · rw [State.shaft_congr (State.emit_shafts _ _), State.setFld_shaft, wakeWaiting_shaft]

theorem shaftDo_ctData (n v : Nat) (s : State) : let i := s.fld (B.shaft n) SHAFT.CT_IDX % 4096
    shaftDo n SHAFT.CT_DATA.off v s = (s.setShaft n { s.shaft n with ct := (s.shaft n).ct.set (fun _ => 0) i (BitVec.ofNat 32 v) }).setFld
      (B.shaft n) SHAFT.CT_IDX ((i + 1) % 4096) := rfl

theorem ctDataWrite_effect (v : W32) (hw : mayWrite w (0x200 + n.val) s) (hm : s.fld (B.shaft n.val) SHAFT.CT_CTL_MODE ≠ 1)
    (hl : (s.shaft n.val).learn = none) : let i := s.fld (B.shaft n.val) SHAFT.CT_IDX % 4096
    let t := regPut w (B.shaft n.val + SHAFT.CT_DATA.off) v.toNat s
    (t.shaft n.val).ct.get (fun _ => 0) i = v ∧
      (∀ j, j ≠ i → (t.shaft n.val).ct.get (fun _ => 0) j = (s.shaft n.val).ct.get (fun _ => 0) j) ∧
      t.fld (B.shaft n.val) SHAFT.CT_IDX = (i + 1) % 4096 := by
  intro i t
  have hcodes : shaftCodes n.val SHAFT.CT_DATA.off v.toNat s = [] := by
    show refuseIf (s.fld (B.shaft n.val) SHAFT.CT_CTL_MODE == 1 || (s.shaft n.val).learn.isSome) .state = []
    rw [beq_false_of_ne hm, hl]
    rfl
  have ht : t = ((wakeWaiting s).setShaft n.val { (wakeWaiting s).shaft n.val with
      ct := ((wakeWaiting s).shaft n.val).ct.set (fun _ => 0) i v }).setFld (B.shaft n.val) SHAFT.CT_IDX ((i + 1) % 4096) := by
    refine (regPut_shaft_taken ctData_shaftReg hw (and_not_mask v.isLt) v.isLt hcodes).trans ((shaftDo_ctData ..).trans ?_)
    rw [wakeWaiting_fld, BitVec.ofNat_toNat, BitVec.setWidth_eq]
  rw [ht, State.setFld_shaft, State.setShaft_shaft_same, wakeWaiting_shaft]
  exact ⟨Tab.get_set_same _ _ _ _, fun j hj => Tab.get_set_other _ _ hj _, ctIdx_next _ _ _⟩

/-! ### SNAP_ALL (R470) -/

theorem snapAll_plain : PlainReg .angle 0x208 ANGLE.SNAP_ALL.off 0xFF :=
  ⟨⟨_, _, rfl⟩, ⟨_, rfl, .inr rfl, rfl, fun _ => rfl⟩, by decide, by decide, fun _ => rfl, fun _ => rfl, by decide⟩

theorem snapAll_effect (v : W32) (hw : mayWrite w 0x208 s) (hv : v.toNat < 256)
    (he : ∀ m, m < 8 → v.getLsbD m = true → s.pgEnabled (0x200 + m) = true) : let t := regPut w (B.angle + ANGLE.SNAP_ALL.off) v.toNat s
    t.snapAll = s.snapAll ||| v.setWidth 8 ∧ t.regs = s.regs := by
  intro t
  have hbit (m : Nat) : nbit v.toNat m = v.getLsbD m := by
    unfold nbit
    rw [BitVec.getLsbD, Nat.testBit_eq_decide_div_mod_eq]
    rfl
  have hall : (List.range 8).any (fun m => nbit v.toNat m && !(wakeWaiting s).pgEnabled (0x200 + m)) = false := by
    rw [List.any_eq_false]
    intro m hm
    have hwake : (wakeWaiting s).pgEnabled (0x200 + m) = s.pgEnabled (0x200 + m) := congrArg (· != 0) (wakeWaiting_fld s _ _)
    rw [hbit, hwake]
    cases hvm : v.getLsbD m with
    | false => simp
    | true => simp [he m (List.mem_range.1 hm) hvm]
  have hcodes : Code.lowest (blockCodes w .angle 0x208 ANGLE.SNAP_ALL.off v.toNat (wakeWaiting s)) = .ok := by
    show Code.lowest (refuseIf ((List.range 8).any _) .absent) = .ok
    rw [hall]
    rfl
  have ht : t = { wakeWaiting s with snapAll := (wakeWaiting s).snapAll ||| BitVec.ofNat 8 v.toNat } :=
    regPut_admitted snapAll_plain hw (and_not_mask (n := 8) hv) v.isLt hcodes
  rw [ht]
  refine ⟨?_, wakeWaiting_regs s⟩
  show (wakeWaiting s).snapAll ||| BitVec.ofNat 8 v.toNat = _
  rw [show (wakeWaiting s).snapAll = s.snapAll by rw [wakeWaiting_eq], BitVec.ofNat_toNat]

/-! ### The statement -/

/-- Settles O44: each command by the codes that its register asks for and by what the shaft makes of it. -/
theorem shaftCommandRows : Obligations.ShaftCommandRows := by
  unfold Obligations.ShaftCommandRows
  intro s w n b p x free i ready queues
  refine ⟨fun ⟨hw, hs⟩ ha hq hb => ?refNow, fun ⟨hw, hs⟩ hb => ?clrRef, fun ⟨hw, hs⟩ hn hm h0 h1 => ?align,
    fun ⟨hw, hs⟩ hn => ⟨_, rfl, align_absent hw hs hn⟩, fun v ⟨hw, hs⟩ hb => ?rev,
    fun ⟨hw, hs⟩ hc hr hl => ⟨_, rfl, learnStart_effect hw hs hc hr hl⟩, fun l ⟨hw, hs⟩ hl => ⟨_, rfl, learnAbort_effect hw hs hl⟩,
    fun v => ⟨fun h => ⟨_, rfl, ctApply_admitted v h⟩, fun h => ⟨_, rfl, ctApply_mismatch v h⟩⟩,
    fun hr => ⟨_, rfl, ctDataRead_effect hr⟩, fun v hw hm hl => ⟨_, rfl, ctDataWrite_effect v hw hm hl⟩,
    fun v hw hv he => ⟨_, rfl, snapAll_effect v hw hv he⟩⟩
  case refNow =>
    have ht := shaftCmd_taken (by decide) hw (refNow_codes hs ha hq hb)
    refine ⟨_, congrArg Host.Outcome.next ht, ?_⟩
    rw [← wakeWaiting_fld]
    exact cmds_append _ n.val s
  case clrRef => exact ⟨_, congrArg Host.Outcome.next (shaftCmd_taken (by decide) hw (clrRef_codes hs hb)), cmds_append _ n.val s⟩
  case align => exact ⟨_, congrArg Host.Outcome.next (shaftCmd_taken (by decide) hw (align_codes hs hn hm h0 h1)), cmds_append _ n.val s⟩
  case rev =>
    have ht := regPut_shaft_taken revSet_shaftReg hw (and_not_mask v.isLt) v.isLt (revSet_codes v.toNat hs hb)
    exact ⟨_, congrArg Host.Outcome.next ht, cmds_append _ n.val s⟩

end Sys2Proof.Machine
end

section
/-! What decoding does to a shaft: counts, quadrature errors, index events, levels of the balls and frames (R210 to R217, R243). -/
namespace Sys2Proof.Machine

variable {s : State} {n : Nat}

/-! ### The reference -/

theorem loseRef_shaft (n : Nat) (s : State) : (loseRef n s).shaft n = { s.shaft n with learn := none } := by
  unfold loseRef
  cases h : (s.shaft n).learn with
  | none => rw [learnStop_idle (by rw [State.setFld_shaft, h]), State.setFld_shaft, ← h]
  | some l => rw [learnStop_runs (by rw [State.setFld_shaft, h]), learnEnd_shaft, State.setFld_shaft]

theorem loseRef_referenced (hn : n < 8) (s : State) : (loseRef n s).flag (B.shaft n) SHAFT.STAT_REFERENCED = false := by
  have hclear := State.flag_setFld_zero s (B.shaft n) (f := SHAFT.STAT_REFERENCED) (by decide)
  unfold loseRef learnStop
  split
  · rw [learnEnd_referenced hn, hclear]
  · exact hclear

/-- Registers other than STAT and CT_RES stay. -/
theorem loseRef_rd (hn : n < 8) (s : State) {o : Nat} (h1 : o ≠ 0x06C) (h2 : o ≠ 0x084) :
    (loseRef n s).rd (B.shaft n + o) = s.rd (B.shaft n + o) := by
  have hclear : (s.setFld (B.shaft n) SHAFT.STAT_REFERENCED 0).rd (B.shaft n + o) = s.rd (B.shaft n + o) :=
    State.rd_setFld_off _ _ (by simp only [SHAFT.STAT_REFERENCED]; omega)
  unfold loseRef learnStop
  split
  · rw [learnEnd_rd hn _ _ _ h1 h2, hclear]
  · exact hclear

theorem shaftFault_rd (s : State) (n e key : Nat) : (s.shaftFault n e).rd key = s.rd key := State.raise_rd s _ key

theorem shaftFault_flag (s : State) (n e b : Nat) (f : Fld) : (s.shaftFault n e).flag b f = s.flag b f :=
  congrArg (· != 0) (State.raise_fld s _ b f)

theorem shaftIrq_raised (s : State) (n i : Nat) : (s.shaftIrq n i).raised = s.raised := State.irq_raised s _

theorem learnEnd_raised (n : Nat) (c : Code) (k : Nat) (s : State) : (learnEnd n c k s).raised = s.raised := by
  unfold learnEnd
  rw [shaftIrq_raised, State.setFld_raised, State.setFld_raised, State.setFld_raised, State.setShaft_raised]

theorem loseRef_raised (n : Nat) (s : State) : (loseRef n s).raised = s.raised := by
  unfold loseRef learnStop
  split
  · rw [learnEnd_raised, State.setFld_raised]
  · exact State.setFld_raised ..

/-- The fault source `e` of shaft `n` has asserted once, and no other. -/
abbrev ShaftReports (n e : Nat) (s t : State) : Prop := ∃ a, t.raised = s.raised ++ [a] ∧ a.src.toNat = 172 + 6 * n + e

theorem shaftFault_reports (hn : n < 8) {e i : Nat} (he : e < 6) (s : State) : ShaftReports n e s ((s.shaftFault n e).shaftIrq n i) := by
  refine ⟨_, shaftIrq_raised _ n i, ?_⟩
  rw [BitVec.toNat_ofNat]
  omega

/-- What was raised before the fault counts. -/
theorem ShaftReports.of_raised {e : Nat} {s t u : State} (h : ShaftReports n e t u) (hr : t.raised = s.raised) : ShaftReports n e s u := by
  obtain ⟨a, ha, hsrc⟩ := h
  exact ⟨a, by rw [ha, hr], hsrc⟩

/-! ### Counts (R211, R213) -/

theorem Shaft.pos_setPos {cpr p : Nat} (x : Shaft) (hp : p < cpr * 2 ^ 32) : (x.setPos cpr p).pos cpr = p := by
  have hrev : p / cpr < 2 ^ 32 := Nat.div_lt_of_lt_mul hp
  unfold Shaft.pos Shaft.setPos
  dsimp only
  rw [BitVec.toNat_ofNat, Nat.mod_eq_of_lt hrev, Nat.mod_mod, Nat.mul_comm, Nat.div_add_mod]

theorem countStep_shaft (n : Nat) (fwd : Bool) (te : W64) (s : State) : let x := s.shaft n
    let m := s.cpr n * 2 ^ 32
    let old := x.pos (s.cpr n)
    (countStep n fwd te s).shaft n = { x.setPos (s.cpr n) (if fwd then (old + 1) % m else (old + m - 1) % m) with
      meas := some (if fwd then (old + 1) % m else old, te, !fwd), step := x.step + (if fwd then 1 else -1), lastFwd := some fwd } :=
  State.setShaft_shaft_same ..

/-- A counted transition moves the unwrapped count by one. -/
theorem countStep_pos (hc : 0 < s.cpr n) (fwd : Bool) (te : W64) : let m := s.cpr n * 2 ^ 32
    ((countStep n fwd te s).shaft n).pos (s.cpr n) =
      (if fwd then (s.shaft n).pos (s.cpr n) + 1 else (s.shaft n).pos (s.cpr n) + m - 1) % m := by
  intro m
  have hm : 0 < m := Nat.mul_pos hc (by decide)
  rw [countStep_shaft]
  refine (Shaft.pos_setPos (s.shaft n) ?_).trans ?_
  · split <;> exact Nat.mod_lt _ hm
  · split <;> rfl

theorem countStep_meas (n : Nat) (fwd : Bool) (te : W64) (s : State) : ((countStep n fwd te s).shaft n).meas.map (·.2.1) = some te := by
  rw [countStep_shaft]
  rfl

theorem uncount_shaft {back : Bool} (h : (s.shaft n).lastFwd = some back) : let x := s.shaft n
    let m := s.cpr n * 2 ^ 32
    let old := x.pos (s.cpr n)
    (uncount n s).shaft n = { x.setPos (s.cpr n) (if back then (old + m - 1) % m else (old + 1) % m) with
      step := x.step - (if back then 1 else -1), lastFwd := none } := by
  unfold uncount
  dsimp only
  rw [h]
  exact State.setShaft_shaft_same ..

theorem uncount_pos (hc : 0 < s.cpr n) {back : Bool} (h : (s.shaft n).lastFwd = some back) : let m := s.cpr n * 2 ^ 32
    ((uncount n s).shaft n).pos (s.cpr n) =
      (if back then (s.shaft n).pos (s.cpr n) + m - 1 else (s.shaft n).pos (s.cpr n) + 1) % m := by
  intro m
  have hm : 0 < m := Nat.mul_pos hc (by decide)
  rw [uncount_shaft h]
  refine (Shaft.pos_setPos (s.shaft n) ?_).trans ?_
  · split <;> exact Nat.mod_lt _ hm
  · split <;> rfl

theorem uncount_regs (n : Nat) (s : State) : (uncount n s).regs = s.regs := by
  unfold uncount
  dsimp only
  split <;> rfl

theorem uncount_raised (n : Nat) (s : State) : (uncount n s).raised = s.raised := by
  unfold uncount
  dsimp only
  split <;> rfl

/-- A count shifted by the difference of two values of k, whichever way round, arrives at the new one. -/
theorem shift_count {cpr k newk r : Nat} (hn : newk < cpr) {delta : Int}
    (hd : delta = ((newk + cpr - k % cpr) % cpr : Nat) ∨ delta = ((newk + cpr - k % cpr) % cpr : Nat) - (cpr : Int)) :
    ((((r * cpr + k % cpr : Nat) : Int) + delta) % ((cpr : Int) * 2 ^ 32)).toNat % cpr = newk := by
  have hc : 0 < cpr := by omega
  have hk : k % cpr < cpr := Nat.mod_lt _ hc
  generalize k % cpr = i at *
  have hmod := Nat.div_add_mod (newk + cpr - i) cpr
  generalize (newk + cpr - i) / cpr = q at hmod
  generalize (newk + cpr - i) % cpr = up at *
  have hq : ∃ z : Int, ((r * cpr + i : Nat) : Int) + delta = newk + cpr * z := by
    have hup : (up : Int) = newk + cpr - i - cpr * q := by
      have h : ((cpr * q + up : Nat) : Int) = ((newk + cpr - i : Nat) : Int) := congrArg _ hmod
      push_cast [Nat.cast_sub (show i ≤ newk + cpr by omega)] at h
      linarith
    rcases hd with rfl | rfl
    · exact ⟨r + 1 - q, by push_cast; rw [hup]; ring⟩
    · exact ⟨r - q, by push_cast; rw [hup]; ring⟩
  obtain ⟨z, hz⟩ := hq
  have hm : (0 : Int) < cpr * 2 ^ 32 := by positivity
  have hpos := Int.emod_nonneg ((newk : Int) + cpr * z) hm.ne'
  rw [hz]
  apply Int.natCast_inj.1
  rw [Int.natCast_mod, Int.toNat_of_nonneg hpos, Int.emod_emod_of_dvd _ (Dvd.intro _ rfl), Int.add_mul_emod_self_left]
  exact Int.emod_eq_of_lt (by omega) (by omega)

/-- A reference set at `newk`: the count stands there (R213). -/
theorem setCount_effect (hn : n < 8) {newk : Nat} (h : newk < s.cpr n) :
    ((setCount n newk s).shaft n).k = newk ∧ (setCount n newk s).flag (B.shaft n) SHAFT.STAT_REFERENCED = true := by
  unfold setCount
  dsimp only
  refine ⟨?_, ?_⟩
  · rw [State.shaftIrq_shaft, State.setFld_shaft, State.setShaft_shaft_same]
    refine shift_count (k := (s.shaft n).k) (r := (s.shaft n).rev.toNat) h ?_
    split
    · exact .inr rfl
    · exact .inl rfl
  · rw [shaftIrq_flag hn (by decide)]
    exact State.flag_setFld_one _ _ (by decide) (by decide)

/-- REV_SET gives θ̂ the turn and keeps the angle within it (R238). -/
theorem revCmd_effect {v : Nat} (hv : v < 2 ^ 32) (n : Nat) (s : State) : let t := shaftCmd n (.rev v) s
    (t.shaft n).rev.toNat = v ∧ (t.shaft n).theta.toNat % 2 ^ 64 = (s.shaft n).theta.toNat % 2 ^ 64 := by
  intro t
  have ht : (t.shaft n).rev = BitVec.ofNat 32 v ∧ (t.shaft n).theta = theta96 ((v : Int) * 2 ^ 64 + (s.shaft n).theta.toNat % 2 ^ 64) := by
    have h : t.shaft n = _ := State.setShaft_shaft_same ..
    rw [h]
    exact ⟨rfl, rfl⟩
  rw [ht.1, ht.2, theta96, BitVec.toNat_ofNat, BitVec.toNat_ofInt]
  omega

/-! ### Transitions of A and B (R211, R212, R243) -/

/-- An accepted transition: its level, its time, and one more in EDGE_CNT. -/
def edgeTaken (n : Nat) (isA lvl : Bool) (ts : W64) (s : State) : State :=
  (s.setShaft n { (s.shaft n).level (if isA then .a else .b) lvl with lastAB := some ts }).incWrap (B.shaft n) SHAFT.EDGE_CNT

/-- The level that the ball of a transition has shown. -/
def Shaft.quadLevel (x : Shaft) (isA : Bool) : Bool := if isA then x.lvA else x.lvB

/-- The direction of a transition, before CFG.DIR. -/
def Shaft.quadFwd (x : Shaft) (isA lvl : Bool) : Bool := if isA then lvl != x.lvB else lvl == x.lvA

variable {isA lvl : Bool} {ts te : W64} {rest : List (EncBall × Bool × W64)}

theorem quadStep_same (h : lvl = (s.shaft n).quadLevel isA) : quadStep n isA lvl ts te rest s = s := if_pos h

/-- Too close to the one before it, which is counted no more (R212). -/
theorem quadStep_close (h : lvl ≠ (s.shaft n).quadLevel isA) {o : W64} (ho : (s.shaft n).lastAB = some o) (hd : diff64 ts o < quadGap) :
    quadStep n isA lvl ts te rest s = quadError n (uncount n (edgeTaken n isA lvl ts s)) := by
  unfold quadStep
  dsimp only
  rw [ho]
  exact (if_neg h).trans (if_pos (decide_eq_true hd))

/-- Apart from the one before it: left out for the one after it, or counted. -/
theorem quadStep_apart (h : lvl ≠ (s.shaft n).quadLevel isA) (hfar : ∀ o, (s.shaft n).lastAB = some o → ¬ diff64 ts o < quadGap) :
    let s1 := edgeTaken n isA lvl ts s
    let t := quadStep n isA lvl ts te rest s
    rest ≠ [] ∧ t = s1.setShaft n { s1.shaft n with lastFwd := none } ∨
      t = countStep n ((s.shaft n).quadFwd isA lvl != s.flag (B.shaft n) SHAFT.CFG_DIR) te s1 := by
  intro s1 t
  obtain ⟨near, hnone, ht⟩ : ∃ near : Bool, (rest = [] → near = false) ∧ t = if near = true then
      s1.setShaft n { s1.shaft n with lastFwd := none }
      else countStep n ((s.shaft n).quadFwd isA lvl != s.flag (B.shaft n) SHAFT.CFG_DIR) te s1 := by
    refine ⟨match (rest.find? (fun r => r.1 != EncBall.z)).map (fun r => r.2.2) with
      | some o => decide (diff64 o ts < quadGap) | none => false, fun hr => by rw [hr]; rfl, ?_⟩
    show quadStep n isA lvl ts te rest s = _
    unfold quadStep
    dsimp only
    refine (if_neg h).trans ((if_neg ?_).trans rfl)
    split
    · next o ho => exact fun hd => hfar o ho (of_decide_eq_true hd)
    · exact Bool.false_ne_true
  cases near with
  | false => exact .inr ht
  | true => exact .inl ⟨fun hr => Bool.noConfusion (hnone hr), ht⟩

theorem Shaft.level_pos (x : Shaft) (ball : EncBall) (l : Bool) (cpr : Nat) : (x.level ball l).pos cpr = x.pos cpr := by
  cases ball <;> rfl

theorem Shaft.level_lastFwd (x : Shaft) (ball : EncBall) (l : Bool) : (x.level ball l).lastFwd = x.lastFwd := by
  cases ball <;> rfl

theorem edgeTaken_shaft (n : Nat) (isA lvl : Bool) (ts : W64) (s : State) : (edgeTaken n isA lvl ts s).shaft n =
    { (s.shaft n).level (if isA then .a else .b) lvl with lastAB := some ts } := by
  unfold edgeTaken
  rw [State.incWrap_shaft, State.setShaft_shaft_same]

theorem edgeTaken_pos (n : Nat) (isA lvl : Bool) (ts : W64) (s : State) (cpr : Nat) :
    ((edgeTaken n isA lvl ts s).shaft n).pos cpr = (s.shaft n).pos cpr := by
  rw [edgeTaken_shaft]
  exact Shaft.level_pos ..

theorem edgeTaken_lastFwd (n : Nat) (isA lvl : Bool) (ts : W64) (s : State) :
    ((edgeTaken n isA lvl ts s).shaft n).lastFwd = (s.shaft n).lastFwd := by
  rw [edgeTaken_shaft]
  exact Shaft.level_lastFwd ..

theorem edgeTaken_raised (n : Nat) (isA lvl : Bool) (ts : W64) (s : State) : (edgeTaken n isA lvl ts s).raised = s.raised := by
  unfold edgeTaken
  rw [State.incWrap_raised, State.setShaft_raised]

theorem edgeTaken_edges (n : Nat) (isA lvl : Bool) (ts : W64) (s : State) :
    (edgeTaken n isA lvl ts s).rd (B.shaft n + SHAFT.EDGE_CNT.off) = s.rd (B.shaft n + SHAFT.EDGE_CNT.off) + 1 := by
  unfold edgeTaken
  exact (rd_incWrap_word _ (B.shaft n) 0x0B4).trans (congrArg (· + 1) (State.setShaft_rd s n _ _))

theorem edgeTaken_rd {o : Nat} (ho : o ≠ 0x0B4) (n : Nat) (isA lvl : Bool) (ts : W64) (s : State) :
    (edgeTaken n isA lvl ts s).rd (B.shaft n + o) = s.rd (B.shaft n + o) := by
  unfold edgeTaken State.incWrap
  rw [State.rd_setFld_off _ _ (by simp only [SHAFT.EDGE_CNT]; omega), State.setShaft_rd]

/-- The counts of a turn are set up by CFG, CPR and SSI_CFG. -/
theorem edgeTaken_cpr (n : Nat) (isA lvl : Bool) (ts : W64) (s : State) : (edgeTaken n isA lvl ts s).cpr n = s.cpr n := by
  unfold State.cpr State.shaftSsi State.fld
  rw [edgeTaken_rd (by decide), edgeTaken_rd (by decide), edgeTaken_rd (by decide)]

/-- What a quadrature error leaves: no reference, one more in QERR_CNT, the fault, and the count as it was (R212). -/
theorem quadError_effect (hn : n < 8) (s : State) : let t := quadError n s
    t.flag (B.shaft n) SHAFT.STAT_REFERENCED = false ∧
      t.rd (B.shaft n + SHAFT.QERR_CNT.off) = BitVec.ofNat 32 (min (2 ^ 32 - 1) ((s.rd (B.shaft n + SHAFT.QERR_CNT.off)).toNat + 1)) ∧
      t.rd (B.shaft n + SHAFT.EDGE_CNT.off) = s.rd (B.shaft n + SHAFT.EDGE_CNT.off) ∧ ShaftReports n 0 s t ∧
      ∀ cpr, (t.shaft n).pos cpr = (s.shaft n).pos cpr := by
  intro t
  have ht : t = ((((loseRef n s).incSat (B.shaft n) SHAFT.QERR_CNT).shaftFault n 0).shaftIrq n 2) := rfl
  rw [ht]
  refine ⟨?_, ?_, ?_, (shaftFault_reports hn (by decide) _).of_raised ((State.incSat_raised ..).trans (loseRef_raised n s)), fun cpr => ?_⟩
  · rw [shaftIrq_flag hn (by decide), shaftFault_flag, State.incSat,
      State.flag_setFld_off _ _ (by simp only [SHAFT.STAT_REFERENCED, SHAFT.QERR_CNT]; omega), loseRef_referenced hn s]
  · rw [shaftIrq_rd hn (by decide), shaftFault_rd]
    apply BitVec.eq_of_toNat_eq
    rw [rd_toNat]
    refine (incSat_word (B.shaft n) 0x0B8 _).trans ?_
    rw [← rd_toNat, loseRef_rd hn _ (by decide) (by decide), BitVec.toNat_ofNat, Nat.mod_eq_of_lt (by omega)]
    rfl
  · rw [shaftIrq_rd hn (by decide), shaftFault_rd, State.incSat,
      State.rd_setFld_off _ _ (by simp only [SHAFT.EDGE_CNT, SHAFT.QERR_CNT]; omega), loseRef_rd hn s (by decide) (by decide)]
  · rw [State.shaftIrq_shaft, State.shaftFault_shaft, State.incSat_shaft, loseRef_shaft]
    rfl

theorem countStep_rd (n : Nat) (fwd : Bool) (te : W64) (s : State) (key : Nat) : (countStep n fwd te s).rd key = s.rd key :=
  State.setShaft_rd s n _ key

/-- Every accepted transition counts in EDGE_CNT (R243). -/
theorem quadStep_edges (hn : n < 8) (h : lvl ≠ (s.shaft n).quadLevel isA) :
    (quadStep n isA lvl ts te rest s).rd (B.shaft n + SHAFT.EDGE_CNT.off) = s.rd (B.shaft n + SHAFT.EDGE_CNT.off) + 1 := by
  rw [← edgeTaken_edges n isA lvl ts s]
  by_cases hclose : ∃ o, (s.shaft n).lastAB = some o ∧ diff64 ts o < quadGap
  · obtain ⟨o, ho, hd⟩ := hclose
    obtain ⟨-, -, hedge, -⟩ := quadError_effect hn (uncount n (edgeTaken n isA lvl ts s))
    rw [quadStep_close h ho hd, hedge, State.rd_congr (uncount_regs ..)]
  · rcases quadStep_apart h (te := te) (rest := rest) fun o ho hd => hclose ⟨o, ho, hd⟩ with ⟨-, ht⟩ | ht
    · rw [ht, State.setShaft_rd]
    · rw [ht, countStep_rd]

/-- A lone transition is counted and measured at its time (R211). -/
theorem quadStep_counts (hc : 0 < s.cpr n) (h : lvl ≠ (s.shaft n).quadLevel isA) (hl : (s.shaft n).lastAB = none) :
    let t := quadStep n isA lvl ts te [] s
    let m := s.cpr n * 2 ^ 32
    let fwd := (s.shaft n).quadFwd isA lvl != s.flag (B.shaft n) SHAFT.CFG_DIR
    (t.shaft n).meas.map (·.2.1) = some te ∧ (t.shaft n).pos (s.cpr n) =
      (if fwd then (s.shaft n).pos (s.cpr n) + 1 else (s.shaft n).pos (s.cpr n) + m - 1) % m := by
  intro t m fwd
  have ht : t = countStep n fwd te (edgeTaken n isA lvl ts s) :=
    (quadStep_apart h (te := te) fun o ho => nomatch hl.symm.trans ho).resolve_left fun hr => hr.1 rfl
  have hcpr := edgeTaken_cpr n isA lvl ts s
  have hpos := countStep_pos (s := edgeTaken n isA lvl ts s) (n := n) (by rwa [hcpr]) fwd te
  rw [hcpr, edgeTaken_pos] at hpos
  rw [ht]
  exact ⟨countStep_meas .., hpos⟩

/-- A quadrature error takes an earlier counted transition out of the count again (R212). -/
theorem quadStep_error (hn : n < 8) (hc : 0 < s.cpr n) (h : lvl ≠ (s.shaft n).quadLevel isA) {o : W64}
    (ho : (s.shaft n).lastAB = some o) (hd : diff64 ts o < quadGap) : let t := quadStep n isA lvl ts te rest s
    let m := s.cpr n * 2 ^ 32
    t.flag (B.shaft n) SHAFT.STAT_REFERENCED = false ∧
      t.rd (B.shaft n + SHAFT.QERR_CNT.off) = BitVec.ofNat 32 (min (2 ^ 32 - 1) ((s.rd (B.shaft n + SHAFT.QERR_CNT.off)).toNat + 1)) ∧
      ShaftReports n 0 s t ∧ ∀ back, (s.shaft n).lastFwd = some back → (t.shaft n).pos (s.cpr n) =
        (if back then (s.shaft n).pos (s.cpr n) + m - 1 else (s.shaft n).pos (s.cpr n) + 1) % m := by
  intro t m
  obtain ⟨href, hq, -, hrep, hpos⟩ := quadError_effect hn (uncount n (edgeTaken n isA lvl ts s))
  rw [← quadStep_close (te := te) (rest := rest) h ho hd] at href hq hrep hpos
  rw [State.rd_congr (uncount_regs ..), edgeTaken_rd (by decide)] at hq
  refine ⟨href, hq, hrep.of_raised ((uncount_raised ..).trans (edgeTaken_raised ..)), fun back hb => ?_⟩
  have hcpr := edgeTaken_cpr n isA lvl ts s
  have hback := uncount_pos (s := edgeTaken n isA lvl ts s) (n := n) (by rwa [hcpr]) ((edgeTaken_lastFwd ..).trans hb)
  rw [hcpr, edgeTaken_pos] at hback
  exact (hpos _).trans hback

/-! ### The index (R213, R214) -/

/-- Without a reference the index sets the count. -/
theorem indexEvent_sets (hn : n < 8) (hr : s.flag (B.shaft n) SHAFT.STAT_REFERENCED = false)
    (hi : s.fld (B.shaft n) SHAFT.INDEX_CNT_VALUE < s.cpr n) : let t := indexEvent n 0 s
    (t.shaft n).k = s.fld (B.shaft n) SHAFT.INDEX_CNT_VALUE ∧ t.flag (B.shaft n) SHAFT.STAT_REFERENCED = true := by
  have hk : (((s.fld (B.shaft n) SHAFT.INDEX_CNT_VALUE : Int) + 0) % s.cpr n).toNat = s.fld (B.shaft n) SHAFT.INDEX_CNT_VALUE := by
    rw [Int.add_zero, Int.emod_eq_of_lt (by omega) (by omega), Int.toNat_natCast]
  have ht : indexEvent n 0 s = setCount n (s.fld (B.shaft n) SHAFT.INDEX_CNT_VALUE) s := by
    unfold indexEvent
    dsimp only
    rw [hk, hr]
    exact if_pos Bool.false_ne_true
  rw [ht]
  exact setCount_effect hn hi

/-- With one it finds the count within a step of where it should be, or the reference is lost. -/
theorem indexEvent_checks (hr : s.flag (B.shaft n) SHAFT.STAT_REFERENCED = true) (hk : (s.shaft n).k < s.cpr n)
    (hi : s.fld (B.shaft n) SHAFT.INDEX_CNT_VALUE < s.cpr n) :
    let d := ((s.shaft n).k + s.cpr n - s.fld (B.shaft n) SHAFT.INDEX_CNT_VALUE) % s.cpr n
    indexEvent n 0 s = if 1 < min d (s.cpr n - d) then ((loseRef n s).shaftFault n 1).shaftIrq n 1 else s := by
  have hk0 : ((((s.shaft n).k : Int) - 0) % s.cpr n).toNat = (s.shaft n).k := by
    rw [Int.sub_zero, Int.emod_eq_of_lt (by omega) (by omega), Int.toNat_natCast]
  unfold indexEvent
  dsimp only
  rw [hk0, Nat.mod_eq_of_lt hi, hr]
  exact if_neg (not_not.2 rfl)

theorem index_lost (hn : n < 8) (s : State) : let t := ((loseRef n s).shaftFault n 1).shaftIrq n 1
    t.flag (B.shaft n) SHAFT.STAT_REFERENCED = false ∧ ShaftReports n 1 s t := by
  intro t
  refine ⟨?_, (shaftFault_reports hn (by decide) _).of_raised (loseRef_raised n s)⟩
  rw [shaftIrq_flag hn (by decide), shaftFault_flag, loseRef_referenced hn s]

end Sys2Proof.Machine
end

section
/-! What the operations of collector, ring ports, queues and resets leave of the shafts (R29, R265, R428, R429). -/
namespace Sys2Proof.Machine

variable {s t u : State}

/-- `t` is what operations in which no shaft takes part leave of `s`: the shafts, the registers of their pages, device time and the
snapshots ordered. -/
structure ShaftsStand (s t : State) : Prop where
  shafts : t.shafts = s.shafts
  now : t.now = s.now
  snapAll : t.snapAll = s.snapAll
  rd : ∀ k, 0x200000 ≤ k → k < 0x208000 → t.rd k = s.rd k

theorem ShaftsStand.refl (s : State) : ShaftsStand s s := ⟨rfl, rfl, rfl, fun _ _ _ => rfl⟩

theorem ShaftsStand.trans (h : ShaftsStand s t) (k : ShaftsStand t u) : ShaftsStand s u :=
  ⟨k.shafts.trans h.shafts, k.now.trans h.now, k.snapAll.trans h.snapAll, fun j h1 h2 => (k.rd j h1 h2).trans (h.rd j h1 h2)⟩

theorem ShaftsStand.wr {k : Nat} {v : W32} (h : ShaftsStand s t) (hk : k < 0x200000 ∨ 0x208000 ≤ k) : ShaftsStand s (t.wr k v) :=
  h.trans ⟨rfl, rfl, rfl, fun _ _ _ => State.rd_wr_other t (by omega) v⟩

/-- A register of the queues, the engine, the ring ports or the network. -/
theorem ShaftsStand.high {b v : Nat} {f : Fld} (h : ShaftsStand s t) (hb : 0x208000 ≤ b) : ShaftsStand s (t.setFld b f v) :=
  h.wr (.inr (Nat.le_add_right_of_le hb))

/-- A register of the collector. -/
theorem ShaftsStand.collFld {v : Nat} {f : Fld} (h : ShaftsStand s t) (hf : f.off < 4096) : ShaftsStand s (t.setFld B.coll f v) :=
  h.wr (.inl (by unfold B.coll page; omega))

/-- An update of fields that the relation does not speak of. -/
theorem ShaftsStand.other (h : ShaftsStand s t) (hu : u = { t with
    freeCtr := u.freeCtr, sent := u.sent, raised := u.raised, dev := u.dev, coll := u.coll, coll2 := u.coll2, eng := u.eng,
    rings := u.rings } := by rfl) :
    ShaftsStand s u := by
  rw [hu]
  exact h.trans ⟨rfl, rfl, rfl, fun _ _ _ => rfl⟩

theorem ShaftsStand.irq {n : Nat} (h : ShaftsStand s t) : ShaftsStand s (t.irq n) := by
  unfold State.irq
  split
  · exact h
  · next hr =>
    have hn : n < 800 := by
      by_contra hge
      exact hr (by simp [irqReserved, Nat.not_lt.1 hge])
    exact h.wr (.inl (by simp only [B.intd, page]; omega))

theorem ShaftsStand.ite {p : Prop} [Decidable p] {a b : State} (ha : ShaftsStand s a) (hb : ShaftsStand s b) :
    ShaftsStand s (if p then a else b) := by
  split <;> assumption

theorem ShaftsStand.foldl {α : Type} {f : State → α → State} (hf : ∀ {a : State} (x : α), ShaftsStand s a → ShaftsStand s (f a x)) :
    ∀ {l : List α} {t : State}, ShaftsStand s t → ShaftsStand s (l.foldl f t)
  | [], _, h => h
  | x :: l, _, h => ShaftsStand.foldl hf (l := l) (hf x h)

/-- The same where the steps hand on a value beside the state. -/
theorem ShaftsStand.foldl_snd {α β : Type} {f : β × State → α → β × State}
    (hf : ∀ {a : β × State} (x : α), ShaftsStand s a.2 → ShaftsStand s (f a x).2) :
    ∀ {l : List α} {a : β × State}, ShaftsStand s a.2 → ShaftsStand s (l.foldl f a).2
  | [], _, h => h
  | x :: l, _, h => ShaftsStand.foldl_snd hf (l := l) (hf x h)

theorem ShaftsStand.setRing {r : Nat} {x : Ring} (h : ShaftsStand s t) : ShaftsStand s (t.setRing r x) := h.other
theorem ShaftsStand.setQueue {q : Nat} {x : Queue} (h : ShaftsStand s t) : ShaftsStand s (t.setQueue q x) := h.other

theorem ShaftsStand.shaft (h : ShaftsStand s t) (n : Nat) : t.shaft n = s.shaft n := State.shaft_congr h.shafts n

theorem above_ring (r : Nat) : 0x208000 ≤ B.ring r := by unfold B.ring page; omega
theorem above_qd (q : Nat) : 0x208000 ≤ B.qd q := by unfold B.qd page; omega
theorem above_eng : 0x208000 ≤ B.eng := by decide

/-! ### Ring ports -/

theorem lineRefresh_stand {r : Nat} (h : ShaftsStand s t) : ShaftsStand s (lineRefresh r t) := .ite h (h.high (above_ring r))

theorem safePattern_stand {r : Nat} (h : ShaftsStand s t) : ShaftsStand s (safePattern r t) := .ite h.other h

theorem ringFinish_stand {r : Nat} {e : Bool} {k : Code} (h : ShaftsStand s t) : ShaftsStand s (ringFinish r e k t) :=
  have h2 : ShaftsStand s _ := ((h.setRing.high (above_ring r)).high (above_ring r)).irq
  lineRefresh_stand (.ite h2.other h2)

theorem safeAsserts_stand {r : Nat} (h : ShaftsStand s t) : ShaftsStand s (safeAsserts r t) := by
  have h1 {x : Ring} {p : Prop} [Decidable p] {l : List Bool} : ShaftsStand s ((if p then t.emit (.ringCut r l) else t).setRing r x) :=
    (ShaftsStand.ite h.other h).setRing
  unfold safeAsserts
  dsimp only
  split
  · exact ringFinish_stand h1
  · exact h1

theorem safeLines_stand {on : Bool} (h : ShaftsStand s t) : ShaftsStand s (safeLines on t) :=
  ShaftsStand.foldl (fun _ ha => .ite ha (.ite (safePattern_stand (lineRefresh_stand (safeAsserts_stand ha))) (lineRefresh_stand ha.setRing))) h

/-! ### The collector -/

theorem collRefresh_stand (h : ShaftsStand s t) : ShaftsStand s (collRefresh t) :=
  have h1 : ShaftsStand s _ := ((h.collFld (f := COLL.STAT_SS_LATCHED) (by decide)).collFld (f := COLL.STAT_DEGRADED) (by decide)).collFld
    (f := COLL.STAT_ROOT_LOST) (by decide)
  have h2 {x : State} (hx : ShaftsStand s x) : ShaftsStand s (faultBalls x) := hx.other.collFld (f := COLL.STAT_FAULT_RUN) (by decide)
  h2 (.ite (safeLines_stand h1) h1)

theorem pairStop_stand {n : Nat} (h : ShaftsStand s t) : ShaftsStand s (pairStop n t) :=
  have h1 : ShaftsStand s _ := h.collFld (f := ss1Fld n) (show 0x040 < 4096 by decide)
  .ite (h1.collFld (f := runFld n) (show 0x040 < 4096 by decide)).irq h1

theorem ss1Check_stand (h : ShaftsStand s t) : ShaftsStand s (ss1Check t) := ShaftsStand.foldl (fun _ ha => .ite (pairStop_stand ha) ha) h

theorem raiseCond_stand {n : Nat} {d : W32} (h : ShaftsStand s t) : ShaftsStand s (t.raiseCond n d) := .ite h h.other

theorem slsPair_stand {p : Nat} (h : ShaftsStand s t) : ShaftsStand s (slsPair p t) :=
  have h1 : ShaftsStand s _ := .ite h (h.collFld (f := ⟨0x040, 16 + p, 1⟩) (show 0x040 < 4096 by decide)).irq
  .ite (raiseCond_stand h1) h1.other

theorem slsAll_stand (h : ShaftsStand s t) : ShaftsStand s (slsAll t) := ShaftsStand.foldl (fun _ => slsPair_stand) h

/-! ### Queues -/

theorem putQueue_stand {q : Nat} {x : Queue} (h : ShaftsStand s t) : ShaftsStand s (t.putQueue q x) :=
  (h.setQueue.high (above_qd q)).high (above_qd q)

theorem putEnts_stand {q : Nat} {l : List QEnt} (h : ShaftsStand s t) : ShaftsStand s (t.putEnts q l) :=
  .ite (putQueue_stand h) ((putQueue_stand h).high (above_qd q))

theorem groupSync_stand {tag : Nat} (h : ShaftsStand s t) : ShaftsStand s (groupSync tag t) := by
  unfold groupSync
  split
  · exact h
  · split <;> exact h.other

theorem qNotify_stand {q : Nat} (h : ShaftsStand s t) : ShaftsStand s (qNotify q t) := .ite (h.high above_eng) h

theorem fewCheck_stand (h : ShaftsStand s t) : ShaftsStand s (fewCheck t) := .ite h.other h.other

theorem qGo_stand {q st c : Nat} (h : ShaftsStand s t) : ShaftsStand s (qGo q st c t) := by
  have h1 : ShaftsStand s ((t.setFld (B.qd q) QD.QSTATE_STATE st).setFld (B.qd q) QD.QSTATE_CAUSE c) :=
    (h.high (above_qd q)).high (above_qd q)
  unfold qGo
  extract_lets b old s1 x s2
  have h2 : ShaftsStand s s2 := .ite h1 (h1.setQueue.high (above_qd q))
  exact fewCheck_stand (.ite (qNotify_stand h2) h2)

theorem drainCheck_stand {q : Nat} (h : ShaftsStand s t) : ShaftsStand s (drainCheck q t) := .ite (qGo_stand h.other) h

theorem pushMark_stand {m : Mark} (h : ShaftsStand s t) : ShaftsStand s (pushMark m t) :=
  .ite h.other (ShaftsStand.irq (h.high above_eng))

theorem retireEnt_stand {q : Nat} {e : QEnt} {fired : Bool} (h : ShaftsStand s t) : ShaftsStand s (retireEnt q e fired t) := by
  have h1 {l : List QEnt} : ShaftsStand s (t.putEnts q l) := putEnts_stand h
  have h3 {f : Flight} {l : List QEnt} : ShaftsStand s (match f.tag with | some g => groupSync g (t.putEnts q l) | none => t.putEnts q l) := by
    split
    · exact groupSync_stand h1
    · exact h1
  have h4 {x : State} (hx : ShaftsStand s x) : ShaftsStand s (drainCheck q (if fired ∧ e.e.flags.getLsbD 0 then qNotify q x else x)) :=
    drainCheck_stand (.ite (qNotify_stand hx) hx)
  unfold retireEnt
  refine h4 ?_
  split
  · exact .ite (qNotify_stand (pushMark_stand h3)) h3
  · exact h1

theorem ringCancel_stand {r node chan q : Nat} {id : W32} (h : ShaftsStand s t) : ShaftsStand s (ringCancel r id node chan q t).2 := by
  unfold ringCancel
  dsimp only
  split <;> exact h.other

theorem cancelFlight_stand {q : Nat} {e : QEnt} {f : Flight} {id : W32} {back : Bool} (h : ShaftsStand s t) :
    ShaftsStand s (cancelFlight q e f id back t) := by
  have h1 {o : Option Flight} : ShaftsStand s (setFly q e.slot o t) := putEnts_stand h
  unfold cancelFlight
  extract_lets b s1 s2
  have h2 : ShaftsStand s s2 := by
    show ShaftsStand s (match f.tag with | some g => groupSync g s1 | none => s1)
    split
    · exact groupSync_stand h1
    · exact h1
  exact .ite (retireEnt_stand (ringCancel_stand h2)) (ringCancel_stand h2)

theorem cancelFlights_stand {q : Nat} {p : QEnt → Bool} {back : Bool} (h : ShaftsStand s t) : ShaftsStand s (cancelFlights q p back t).2 := by
  refine ShaftsStand.foldl_snd (fun e ha => ?_) h
  split
  · split
    · split
      · exact cancelFlight_stand ha
      · exact ha
    · exact ha
  · exact ha

theorem shaftLoss_stand (h : ShaftsStand s t) : ShaftsStand s (shaftLoss t) :=
  ShaftsStand.foldl (fun q ha => .ite ha
    (.ite (ShaftsStand.high (cancelFlights_stand ha) (above_qd q)) (cancelFlights_stand ha))) h

/-! ### Resets -/

theorem fuseRegs_stand (h : ShaftsStand s t) : ShaftsStand s (fuseRegs t) := by
  unfold fuseRegs
  extract_lets s1 s2
  have h2 : ShaftsStand s s2 := (h.wr (.inr (by decide))).wr (.inr (by decide))
  have hlow {m v : Nat} {f : Fld} (hm : m < 13) (hf : f.off < 4096) {x : State} (hx : ShaftsStand s x) :
      ShaftsStand s (x.setFld (B.trio m) f v) := hx.wr (.inl (by unfold B.trio page; omega))
  split
  · exact h2
  · next n _ =>
    have hn : n.val < 13 := by omega
    exact hlow hn (by decide) (hlow hn (by decide) (hlow (by decide) (by decide) (hlow (by decide) (by decide) h2)))

theorem restart_shafts (regs : Tab W32) (mem : List Host.Cell) (s : State) : (restart regs mem s).shafts = s.keptBalls := by
  have h : ShaftsStand (restartBare regs mem s) (collRefresh (fuseRegs (restartBare regs mem s))) :=
    collRefresh_stand (fuseRegs_stand (ShaftsStand.refl _))
  have hr : ShaftsStand (restartBare regs mem s) (restart regs mem s) := .ite (safeLines_stand h) h
  exact hr.shafts

theorem Tab.get_foldl_set {α : Type} [DecidableEq α] (d : Nat → α) (g : Nat → α) (k : Nat) : ∀ (l : List Nat) (t : Tab α),
    (l.foldl (fun t n => t.set d n (g n)) t).get d k = if k ∈ l then g k else t.get d k
  | [], _ => by simp
  | n :: l, t => by
    rw [List.foldl_cons, Tab.get_foldl_set d g k l]
    by_cases hk : k = n
    · subst hk
      simp
    · simp [hk, Tab.get_set_other d t hk]

/-- The levels of the balls are all that a pin reset leaves of a shaft (R29). -/
theorem deviceReset_pin_shaft (s : State) (n : Fin 8) : (deviceReset .pin s).shaft n.val = (s.shaft n.val).balls := by
  have hvolt (x : State) : (voltBack s x).shafts = x.shafts := by
    unfold voltBack
    split <;> rfl
  have hpin : (deviceReset .pin s).shafts = s.keptBalls := by
    show ((voltBack s { restart (keptRegs s) (s.mem.filter (fun c => keepsMem s false c.1)) (fuseLoad s) with
      bad := s.bad.filter (fun w => keepsMem s false (8 * w)) }).wr _ _).shafts = _
    rw [State.wr_shafts, hvolt]
    exact restart_shafts ..
  unfold State.shaft
  rw [hpin]
  exact (Tab.get_foldl_set (fun _ => {}) (fun n => (s.shaft n).balls) n.val (List.range 8) {}).trans (if_pos (List.mem_range.2 n.isLt))

end Sys2Proof.Machine
end

section
/-! The tick: device time, and what it publishes of every shaft (R221 to R227). -/
namespace Sys2Proof.Machine

variable {s t : State} {n : Nat}

/-! ### Device time -/

/-- `t` stands at the device time of `s`: the tick alone moves it, no step of a shaft does. -/
structure SameTime (s t : State) : Prop where
  now : t.now = s.now

theorem SameTime.refl (s : State) : SameTime s s := ⟨rfl⟩
theorem SameTime.setShaft {m : Nat} {x : Shaft} (h : SameTime s t) : SameTime s (t.setShaft m x) := ⟨h.now⟩
theorem SameTime.setFld {b v : Nat} {f : Fld} (h : SameTime s t) : SameTime s (t.setFld b f v) := ⟨h.now⟩
theorem SameTime.incSat {b : Nat} {f : Fld} (h : SameTime s t) : SameTime s (t.incSat b f) := ⟨h.now⟩
theorem SameTime.incWrap {b : Nat} {f : Fld} (h : SameTime s t) : SameTime s (t.incWrap b f) := ⟨h.now⟩
theorem SameTime.wr {k : Nat} {v : W32} (h : SameTime s t) : SameTime s (t.wr k v) := ⟨h.now⟩
theorem SameTime.wr64 {k : Nat} {v : W64} (h : SameTime s t) : SameTime s (t.wr64 k v) := ⟨h.now⟩
theorem SameTime.free {c : Nat} (h : SameTime s t) : SameTime s { t with freeCtr := c } := ⟨h.now⟩
theorem SameTime.shaftFault {m e : Nat} (h : SameTime s t) : SameTime s (t.shaftFault m e) := ⟨h.now⟩
theorem SameTime.shaftIrq {m i : Nat} (h : SameTime s t) : SameTime s (t.shaftIrq m i) := ⟨(State.irq_now t _).trans h.now⟩

theorem SameTime.ite {p : Prop} [Decidable p] {a b : State} (ha : SameTime s a) (hb : SameTime s b) : SameTime s (if p then a else b) := by
  split <;> assumption

theorem SameTime.foldl {α : Type} {f : State → α → State} (hf : ∀ {a : State} (x : α), SameTime s a → SameTime s (f a x)) :
    ∀ {l : List α} {t : State}, SameTime s t → SameTime s (l.foldl f t)
  | [], _, h => h
  | x :: l, _, h => SameTime.foldl hf (l := l) (hf x h)

theorem learnEnd_time {c : Code} {k : Nat} (h : SameTime s t) : SameTime s (learnEnd n c k t) := h.setShaft.setFld.setFld.setFld.shaftIrq

theorem learnStop_time (h : SameTime s t) : SameTime s (learnStop n t) := by
  unfold learnStop
  split
  · exact learnEnd_time h
  · exact h

theorem loseRef_time (h : SameTime s t) : SameTime s (loseRef n t) := learnStop_time h.setFld

theorem setCount_time {k : Nat} (h : SameTime s t) : SameTime s (setCount n k t) := h.setShaft.setFld.shaftIrq

theorem shaftCmd_time (c : ShaftCmd) (h : SameTime s t) : SameTime s (shaftCmd n c t) := by
  cases c with
  | refNow => exact setCount_time h
  | clrRef => exact loseRef_time h
  | align => exact h
  | rev => exact h.setShaft

theorem indexEvent_time {after : Int} (h : SameTime s t) : SameTime s (indexEvent n after t) :=
  .ite (setCount_time h) (.ite (loseRef_time h).shaftFault.shaftIrq h)

theorem quadStep_time {isA lvl : Bool} {ts te : W64} {rest : List (EncBall × Bool × W64)} (h : SameTime s t) :
    SameTime s (quadStep n isA lvl ts te rest t) := by
  have h1 : SameTime s (edgeTaken n isA lvl ts t) := h.setShaft.incWrap
  have hu {a : State} (ha : SameTime s a) : SameTime s (uncount n a) := by
    unfold uncount
    dsimp only
    split
    · exact ha
    · exact ha.setShaft
  exact .ite h (.ite (loseRef_time (hu h1)).incSat.shaftFault.shaftIrq (.ite h1.setShaft h1.setShaft))

theorem decodeTrans_time : ∀ (l : List (EncBall × Bool × W64)) (idx : List (Option W64 × Int)) {t : State}, SameTime s t →
    SameTime s (decodeTrans n l idx t).2
  | [], _, _, h => h
  | (ball, _, _) :: l, _, _, h => by
    unfold decodeTrans
    cases ball with
    | z => exact decodeTrans_time l _ h.setShaft
    | a => exact decodeTrans_time l _ (quadStep_time h)
    | b => exact decodeTrans_time l _ (quadStep_time h)

theorem decode_time {l : List (EncBall × Bool × W64)} (h : SameTime s t) : SameTime s (decode n l t) :=
  SameTime.foldl (fun _ => indexEvent_time) (decodeTrans_time l [] h)

theorem learnMeas_time {line : Nat} {te : W64} {back : Bool} (h : SameTime s t) : SameTime s (learnMeas n line te back t) := by
  have hdone {l : Learn} : SameTime s (learnDone n l t) := learnEnd_time (.ite h.free.setShaft.wr.setFld h.free.setShaft.wr)
  unfold learnMeas
  split
  · exact h
  · dsimp only
    split
    · split
      · exact h.setShaft
      · exact .ite hdone (.ite (learnEnd_time h) h.setShaft)
    · exact h.setShaft

theorem observe_time {tau : Int} {t0 : W64} (h : SameTime s t) : SameTime s (observe n tau t0 t) := by
  have hstart {line : Nat} {te : W64} {a : State} (ha : SameTime s a) : SameTime s (obsStart n line te a) :=
    ha.setShaft.setFld.setFld.setFld.setFld
  have hclamp {a : State} (ha : SameTime s a) : SameTime s (obsClamp n t0 a) := .ite ha.setShaft (.ite ha.setShaft ha)
  have hsettle {a : State} (ha : SameTime s a) {p : Prop} [Decidable p] :
      SameTime s (if p then (a.setFld (B.shaft n) SHAFT.STAT_SETTLED 1).shaftIrq n 4 else a) := .ite ha.setFld.shaftIrq ha
  have h1 : SameTime s (if t.flag (B.shaft n) SHAFT.STAT_VALID && !t.flag (B.shaft n) SHAFT.STAT_STILL
      then t.setShaft n ((t.shaft n).tick tau) else t) := .ite h.setShaft h
  unfold observe
  refine hsettle ?_
  split
  · exact learnMeas_time (SameTime.setFld (SameTime.setShaft (.ite h1.setShaft.setFld (hstart h1))))
  · exact .ite (hclamp h1) h1

theorem shaftFront_time {tau : Int} {t0 : W64} {dup : Bool} (h : SameTime s t) : SameTime s (shaftFront n tau t0 dup t) := by
  have hflags {a : State} (ha : SameTime s a) : SameTime s (ctFlags n a) := ha.setFld.setFld
  have hdup {a : State} (ha : SameTime s a) : SameTime s (copiesDiffer n a) := ha.shaftFault.setFld.setShaft.incSat
  have hoff {a : State} (ha : SameTime s a) : SameTime s (shaftDisable n a) := (learnStop_time ha).setFld.setFld.setShaft
  unfold shaftFront
  extract_lets x s1 en y ripe s2 s3
  have h1 : SameTime s s1 := SameTime.foldl shaftCmd_time h.setShaft
  have h2 : SameTime s s2 := h1.setShaft
  have h3 : SameTime s s3 := .ite (observe_time (.ite h2 (decode_time h2))) (.ite (hoff h1) h1)
  exact hflags (.ite (hdup h3) h3)

theorem pairStep_time {p : Nat} {t0 : W64} (h : SameTime s t) : SameTime s (pairStep p t0 t) := by
  unfold pairStep
  extract_lets n b x s1 y z spd dth fail en gone s2 since s3
  have h1 : SameTime s s1 := .ite h.setShaft.wr64 h
  have h2 : SameTime s s2 := .ite h1.setFld h1
  have h3 : SameTime s s3 := h2.setShaft
  exact .ite h1.setShaft (.ite h2.setShaft (.ite h3.setFld h3))

theorem angleSteps_time (h : SameTime s t) : SameTime s (angleSteps n t) := .ite h.setShaft.shaftFault.shaftIrq h.setShaft

theorem publish_time {t0 : W64} (h : SameTime s t) : SameTime s (publish n t0 t) := h.wr64.wr.wr64.wr64.wr64.setFld.setFld

/-! ### What is published -/

theorem State.rd64_wr64_same (s : State) (k : Nat) (v : W64) : (s.wr64 k v).rd64 k = v := by
  unfold State.rd64 State.wr64
  rw [State.rd_wr_same, State.rd_wr_other _ (by omega), State.rd_wr_same]
  refine BitVec.eq_of_getLsbD_eq fun i hi => ?_
  rw [BitVec.getLsbD_append]
  by_cases h : i < 32
  · simp [h]
  · simp [h, show i - 32 < 32 by omega, show 32 + (i - 32) = i by omega]

theorem State.rd_wr64_other (s : State) {k j : Nat} (h : j ≠ k) (h4 : j ≠ k + 4) (v : W64) : (s.wr64 k v).rd j = s.rd j := by
  unfold State.wr64
  rw [State.rd_wr_other _ h4, State.rd_wr_other _ h]

theorem State.rd64_congr {k : Nat} (h : t.rd k = s.rd k) (h4 : t.rd (k + 4) = s.rd (k + 4)) : t.rd64 k = s.rd64 k := by
  unfold State.rd64
  rw [h, h4]

theorem State.rd64_wr64_other (s : State) {k j : Nat} (h : j + 4 < k ∨ k + 4 < j) (v : W64) : (s.wr64 k v).rd64 j = s.rd64 j :=
  State.rd64_congr (State.rd_wr64_other s (by omega) (by omega) v) (State.rd_wr64_other s (by omega) (by omega) v)

theorem State.rd64_wr_other (s : State) {k j : Nat} (h : j + 4 < k ∨ k < j) (v : W32) : (s.wr k v).rd64 j = s.rd64 j :=
  State.rd64_congr (State.rd_wr_other s (by omega) v) (State.rd_wr_other s (by omega) v)

/-- The snapshot registers before SNAP_FLAGS and COUNT are written. -/
def snapWritten (n : Nat) (t0 : W64) (s : State) : State :=
  let b := B.shaft n
  let x := s.shaft n
  ((((s.wr64 (b + 0x088) t0).wr (b + 0x090) (x.theta.extractLsb' 0 32)).wr64 (b + 0x094) (x.theta.extractLsb' 32 64)).wr64 (b + 0x09C)
    (i64 (clampInt s64lo s64hi (rne x.omega (2 ^ 32))))).wr64 (b + 0x0A4) (i64 (clampInt s64lo s64hi (rne x.acc (2 ^ 32))))

theorem publish_eq (n : Nat) (t0 : W64) (s : State) : publish n t0 s =
    ((snapWritten n t0 s).setFld (B.shaft n) SHAFT.SNAP_FLAGS (bf (s.rd (B.shaft n + SHAFT.STAT.off)) 0 11)).setFld (B.shaft n) SHAFT.COUNT
      ((s.shaft n).k % s.cpr n) := rfl

/-- SNAP_FLAGS and COUNT are the last registers of the group. -/
theorem publish_rd_snap {t0 : W64} {k : Nat} (h : k < B.shaft n + 0x0AC ∨ B.shaft n + 0x0B0 < k) (s : State) :
    (publish n t0 s).rd k = (snapWritten n t0 s).rd k := by
  rw [publish_eq, State.rd_setFld_off _ _ (by simp only [SHAFT.COUNT]; omega), State.rd_setFld_off _ _ (by simp only [SHAFT.SNAP_FLAGS]; omega)]

theorem publish_rd_other {t0 : W64} {k : Nat} (h : k < B.shaft n + 0x088 ∨ B.shaft n + 0x0B0 < k) (s : State) :
    (publish n t0 s).rd k = s.rd k := by
  rw [publish_rd_snap (by omega)]
  unfold snapWritten
  dsimp only
  rw [State.rd_wr64_other _ (by omega) (by omega), State.rd_wr64_other _ (by omega) (by omega), State.rd_wr64_other _ (by omega) (by omega),
    State.rd_wr_other _ (by omega), State.rd_wr64_other _ (by omega) (by omega)]

theorem publish_shafts (n : Nat) (t0 : W64) (s : State) : (publish n t0 s).shafts = s.shafts := by
  unfold publish
  rw [State.setFld_shafts, State.setFld_shafts, State.wr64_shafts, State.wr64_shafts, State.wr64_shafts, State.wr_shafts, State.wr64_shafts]

/-- The registers of a shaft's page show the snapshot of time `t0` (R227). -/
structure Published (n : Nat) (t0 : W64) (s : State) : Prop where
  time : s.rd64 (B.shaft n + 0x088) = t0
  angle : s.rd64 (B.shaft n + 0x094) = (s.shaft n).theta.extractLsb' 32 64
  ext : s.rd (B.shaft n + 0x090) = (s.shaft n).theta.extractLsb' 0 32

theorem Published.congr {t0 : W64} (h : Published n t0 s) (hr : ∀ o < 4096, t.rd (B.shaft n + o) = s.rd (B.shaft n + o))
    (hs : t.shafts = s.shafts) : Published n t0 t where
  time := (State.rd64_congr (hr _ (by decide)) (hr 0x08C (by decide))).trans h.time
  angle := by rw [State.rd64_congr (hr _ (by decide)) (hr 0x098 (by decide)), State.shaft_congr hs, h.angle]
  ext := by rw [hr _ (by decide), State.shaft_congr hs, h.ext]

/-- The same where neither registers nor shafts changed. -/
theorem Published.congr_regs {t0 : W64} (h : Published n t0 s) (hr : t.regs = s.regs) (hs : t.shafts = s.shafts) : Published n t0 t :=
  h.congr (fun _ _ => State.rd_congr hr _) hs

theorem publish_published (n : Nat) (t0 : W64) (s : State) : Published n t0 (publish n t0 s) := by
  have hx : (publish n t0 s).shaft n = s.shaft n := State.shaft_congr (publish_shafts ..) n
  have hrd64 {k : Nat} (h : k < B.shaft n + 0x0A8) : (publish n t0 s).rd64 k = (snapWritten n t0 s).rd64 k :=
    State.rd64_congr (publish_rd_snap (by omega) s) (publish_rd_snap (by omega) s)
  refine ⟨?_, ?_, ?_⟩
  · rw [hrd64 (by omega), snapWritten, State.rd64_wr64_other _ (by omega), State.rd64_wr64_other _ (by omega),
      State.rd64_wr64_other _ (by omega), State.rd64_wr_other _ (by omega), State.rd64_wr64_same]
  · rw [hx, hrd64 (by omega), snapWritten, State.rd64_wr64_other _ (by omega), State.rd64_wr64_other _ (by omega), State.rd64_wr64_same]
  · rw [hx, publish_rd_snap (by omega), snapWritten, State.rd_wr64_other _ (by omega) (by omega),
      State.rd_wr64_other _ (by omega) (by omega), State.rd_wr64_other _ (by omega) (by omega), State.rd_wr_same]

/-- Once a shaft is published, publishing the others leaves its snapshot. -/
theorem Published.kept {t0 : W64} (h : Published n t0 s) (m : Nat) : Published n t0 (publish m t0 s) := by
  by_cases hm : m = n
  · rw [hm]
    exact publish_published n t0 s
  · exact h.congr (fun o ho => publish_rd_other (by simp only [B.shaft, page]; omega) s) (publish_shafts m t0 s)

theorem publishAll_published {t0 : W64} : ∀ {l : List Nat} (s : State), n ∈ l ∨ Published n t0 s →
    Published n t0 (l.foldl (fun a m => publish m t0 a) s)
  | [], _, h => h.resolve_left List.not_mem_nil
  | m :: l, s, h => by
    rw [List.foldl_cons]
    refine publishAll_published (publish m t0 s) ?_
    rcases h with h | h
    · rcases List.mem_cons.1 h with rfl | h
      · exact .inr (publish_published n t0 s)
      · exact .inl h
    · exact .inr (h.kept m)

/-- The snapshots that SNAP_ALL ordered leave registers and shafts. -/
theorem takeSnaps_eq (g : Nat → Bool) : ∀ (l : List Nat) (s : State), ∃ x,
    l.foldl (fun a n => if g n then a.takeSnap (snapKeys n) else a) s = { s with snaps := x }
  | [], s => ⟨s.snaps, rfl⟩
  | n :: l, s => by
    obtain ⟨x, hx⟩ := takeSnaps_eq g l (if g n then s.takeSnap (snapKeys n) else s)
    refine ⟨x, hx.trans ?_⟩
    split <;> rfl

/-- What a tick leaves: the next device time, and the snapshot of every shaft at it (R221, R227). -/
theorem shaftTick_effect (d : List (Fin 8)) (s : State) (n : Fin 8) : let t := shaftTick d s
    t.now = s.now + BitVec.ofInt 64 (160 + ((s.tickFrac.toNat : Int) + (s.rd (B.net + NET.PTP_ADJ.off)).toInt) / 2 ^ 32) ∧
      t.snapAll = 0 ∧ Published n.val t.now t := by
  unfold shaftTick
  extract_lets adj sum t0 tau s0 ns s1 s2 s3 s4 s5 t
  have h1 : SameTime s0 s1 := SameTime.foldl (fun _ => shaftFront_time) (SameTime.refl s0)
  have h2 : SameTime s0 s2 := SameTime.foldl (fun _ => pairStep_time) h1
  have h3 : SameTime s0 s3 := SameTime.foldl (fun _ ha => .ite (angleSteps_time ha) ha) h2
  have h4 : SameTime s0 s4 := SameTime.foldl (fun _ => publish_time) h3
  have hp : Published n.val t0 s4 := publishAll_published s3 (.inl (List.mem_range.2 n.isLt))
  obtain ⟨x, hx⟩ : ∃ x, s5 = { s4 with snaps := x } := takeSnaps_eq (fun m => s4.snapAll.getLsbD m) ns s4
  clear_value s4
  have h5 : SameTime s0 s5 := by
    rw [hx]
    exact ⟨h4.now⟩
  have hp5 : Published n.val t0 s5 := by
    rw [hx]
    exact hp.congr_regs rfl rfl
  clear_value s5
  have hnow : t.now = t0 := h5.now
  refine ⟨hnow, rfl, ?_⟩
  rw [hnow]
  exact hp5.congr_regs rfl rfl

end Sys2Proof.Machine
end

section
/-! The balls of a shaft, its SSI frames, standstill and the safe speed, and the events of a shaft as one statement (R210 to R227, R236). -/
namespace Sys2Proof.Machine

variable {s : State} {n : Nat} {ball : EncBall} {level : Bool} {ts : W64}

/-! ### The balls (R210) -/

theorem Shaft.level_trans (x : Shaft) (ball : EncBall) (l : Bool) : (x.level ball l).trans = x.trans := by
  cases ball <;> rfl

theorem insTrans_perm (x : EncBall × Bool × W64) : ∀ l, (insTrans x l).Perm (x :: l)
  | [] => .refl _
  | y :: l => by
    unfold insTrans
    split
    · exact .refl _
    · exact ((insTrans_perm x l).cons y).trans (.swap x y l)

/-- A shaft that captures nothing follows the levels alone. -/
theorem encTransition_level (h : s.gated = true ∨ ¬ (s.pgEnabled (0x200 + n) = true ∧ s.shaftSsi n = false)) :
    encTransition n ball level ts s = s.setShaft n ((s.shaft n).level ball level) := by
  refine if_pos ?_
  rcases h with h | h
  · exact .inl h
  · by_cases he : s.pgEnabled (0x200 + n) = true
    · exact .inr (.inr (by simpa [he] using h))
    · exact .inr (.inl he)

/-- One that captures keeps the transition for its tick, or leaves out the one whose level it ends. -/
theorem encTransition_captures (hg : s.gated = false) (he : s.pgEnabled (0x200 + n) = true) (hq : s.shaftSsi n = false) :
    encTransition n ball level ts s =
      if s.glitch n ball ts then s.setShaft n { s.shaft n with
        trans := (s.shaft n).trans.filter (fun y => !(y.1 == ball && some y.2.2 == (s.shaft n).waiting ball)) }
      else s.setShaft n { s.shaft n with trans := insTrans (ball, level, ts) (s.shaft n).trans } :=
  if_neg (by simp [hg, he, hq])

/-- Whatever a transition does, it does to its own shaft. -/
theorem encTransition_own (n : Nat) (ball : EncBall) (level : Bool) (ts : W64) (s : State) :
    ∃ y, encTransition n ball level ts s = s.setShaft n y := by
  unfold encTransition
  dsimp only
  split
  · exact ⟨_, rfl⟩
  · split <;> exact ⟨_, rfl⟩

theorem encTransition_waits (hg : s.gated = false) (he : s.pgEnabled (0x200 + n) = true) (hq : s.shaftSsi n = false)
    (hf : s.glitch n ball ts = false) : ((encTransition n ball level ts s).shaft n).trans.Perm ((ball, level, ts) :: (s.shaft n).trans) := by
  rw [encTransition_captures hg he hq, hf, if_neg Bool.false_ne_true, State.setShaft_shaft_same]
  exact insTrans_perm _ _

/-- A glitch adds no transition to those that wait. -/
theorem encTransition_glitch (hf : s.glitch n ball ts = true) : ∀ y ∈ ((encTransition n ball level ts s).shaft n).trans,
    y ∈ (s.shaft n).trans := by
  intro y hy
  by_cases h : s.gated = true ∨ ¬ (s.pgEnabled (0x200 + n) = true ∧ s.shaftSsi n = false)
  · rwa [encTransition_level h, State.setShaft_shaft_same, Shaft.level_trans] at hy
  · obtain ⟨hg, he⟩ := not_or.1 h
    obtain ⟨he, hq⟩ := not_not.1 he
    rw [encTransition_captures (Bool.not_eq_true _ ▸ hg) he hq, hf, if_pos rfl, State.setShaft_shaft_same] at hy
    exact List.mem_of_mem_filter hy

/-! ### SSI (R215 to R217) -/

/-- A frame that an enabled SSI shaft receives. -/
theorem ssiFrame_low (he : s.pgEnabled (0x200 + n) = true) (hr : s.pgEn (0x200 + n) = true) (hq : s.shaftSsi n = true)
    (frame : BitVec 40) : ssiFrame n false frame ts s = (s.shaftFault n 2).shaftIrq n 7 := by
  unfold ssiFrame
  dsimp only
  exact (if_neg (by simp [he, hr, hq])).trans (if_pos Bool.false_ne_true)

/-- The single-turn position that a frame carries, in plain binary. -/
def ssiPos (n : Nat) (frame : BitVec 40) (s : State) : Nat :=
  frame.toNat % 2 ^ s.fld (B.shaft n) SHAFT.SSI_CFG_BITS / 2 ^ s.fld (B.shaft n) SHAFT.SSI_CFG_ST_LSB %
    2 ^ s.fld (B.shaft n) SHAFT.SSI_CFG_ST_BITS

/-- The first frame gives the position and the reference, and moves no revolution. -/
theorem ssiFrame_first (he : s.pgEnabled (0x200 + n) = true) (hr : s.pgEn (0x200 + n) = true) (hq : s.shaftSsi n = true)
    (hx : (s.shaft n).ssi = none) (hg : s.flag (B.shaft n) SHAFT.SSI_CFG_GRAY = false) (frame : BitVec 40) :
    let p := ssiPos n frame s
    let x := s.shaft n
    let te := ts + (s.rd (B.shaft n + SHAFT.SSI_LATCH.off)).setWidth 64
    ssiFrame n true frame ts s =
      ((s.setShaft n { x with ssi := some p, k := p, meas := some (x.rev.toNat * s.cpr n + p, te, false) }).incWrap
        (B.shaft n) SHAFT.EDGE_CNT).setFld (B.shaft n) SHAFT.STAT_REFERENCED 1 := by
  intro p x te
  have hp : nbits (bf frame 0 (s.fld (B.shaft n) SHAFT.SSI_CFG_BITS)) (s.fld (B.shaft n) SHAFT.SSI_CFG_ST_LSB)
      (s.fld (B.shaft n) SHAFT.SSI_CFG_ST_BITS) = p := by
    simp only [p, ssiPos, bf, nbits, pow_zero, Nat.div_one]
  have hd : (if s.cpr n / 2 < 0 then ((0 : Nat) : Int) - s.cpr n else ((0 : Nat) : Int)) = 0 := if_neg (Nat.not_lt_zero _)
  have hrev : BitVec.ofInt 32 (((s.shaft n).rev.toNat : Int) + 0) = (s.shaft n).rev := by
    rw [Int.add_zero, BitVec.ofInt_natCast, BitVec.ofNat_toNat, BitVec.setWidth_eq]
  unfold ssiFrame
  dsimp only
  refine (if_neg (by simp [he, hr, hq])).trans ((if_neg (by simp)).trans ?_)
  rw [hp, hg, hx]
  dsimp only
  rw [if_neg Bool.false_ne_true, hd, hrev, Int.add_zero, BitVec.ofNat_toNat]
  exact if_neg (by simp)

/-! ### Standstill and the safe speed (R225, R236) -/

theorem standstill_effect (hn : n < 8) (he : s.pgEnabled (0x200 + n) = true) (hv : s.flag (B.shaft n) SHAFT.STAT_VALID = true)
    (hs : s.flag (B.shaft n) SHAFT.STAT_STILL = false) : let t := standstill n s
    let x := s.shaft n
    t.shaft n = { x with theta := theta96 (s.lineAngle n x.line), omega := 0, acc := 0 } ∧ t.flag (B.shaft n) SHAFT.STAT_STILL = true ∧
      t.irqPending (128 + 8 * n + 3) = true := by
  intro t x
  have ht : t = ((s.setShaft n { x with theta := theta96 (s.lineAngle n x.line), omega := 0, acc := 0 }).setFld (B.shaft n)
      SHAFT.STAT_STILL 1).shaftIrq n 3 := if_pos ⟨he, hv, by simp [hs]⟩
  rw [ht]
  refine ⟨?_, ?_, irqPending_shaftIrq hn (by decide) _⟩
  · rw [State.shaftIrq_shaft, State.setFld_shaft, State.setShaft_shaft_same]
  · rw [shaftIrq_flag hn (by decide)]
    exact State.flag_setFld_one _ _ (by decide) (by decide)

theorem safeSpeedDisc_effect {p : Nat} (hn : n < 8) (hp : n = 2 * p) (hf : (s.shaft n).failing = true) (hr : (s.shaft n).raised = false) :
    let t := safeSpeedDisc p s
    t.flag (B.shaft n) SHAFT.STAT_PAIR_OK = false ∧ ShaftReports n 4 s t ∧ (t.shaft n).raised = true := by
  subst hp
  intro t
  have ht : t = (((s.setShaft (2 * p) { s.shaft (2 * p) with raised := true }).setFld (B.shaft (2 * p)) SHAFT.STAT_PAIR_OK 0).shaftFault
      (2 * p) 4).shaftIrq (2 * p) 6 := if_pos ⟨hf, by simp [hr]⟩
  rw [ht]
  refine ⟨?_, (shaftFault_reports hn (by decide) _).of_raised ((State.setFld_raised ..).trans (State.setShaft_raised ..)), ?_⟩
  · rw [shaftIrq_flag hn (by decide), shaftFault_flag]
    exact State.flag_setFld_zero _ _ (by decide)
  · rw [State.shaftIrq_shaft, State.shaftFault_shaft, State.setFld_shaft, State.setShaft_shaft_same]

/-! ### The rows -/

/-- With the blocks stopped or without power no block acts (R40, R42). -/
theorem shaftRows_stand (hg : s.gated = true) (n : Fin 8) : (∀ d, exec (.shaftTick d) s = .next s) ∧ exec (.ssiFrameStart n) s = .next s ∧
    (∀ h f ts, exec (.ssiFrameComplete n h f ts) s = .next s) ∧ exec (.standstill n) s = .next s ∧
    ∀ p, exec (.safeSpeedDiscrepancy p) s = .next s := by
  have h (x : State) : (.next (s.unlessGated x) : Res) = .next s := congrArg Host.Outcome.next (unlessGated_stands hg x)
  exact ⟨fun _ => h _, h _, fun _ _ _ => h _, h _, fun _ => h _⟩

/-- The row of a tick: what engine and collector take from the snapshots leaves the shafts (R224). -/
theorem exec_shaftTick (hg : s.gated = false) (d : List (Fin 8)) (n : Fin 8) : ∃ t, exec (.shaftTick d) s = .next t ∧
    t.now = s.now + BitVec.ofInt 64 (160 + ((s.tickFrac.toNat : Int) + (s.rd (B.net + NET.PTP_ADJ.off)).toInt) / 2 ^ 32) ∧
    t.snapAll = 0 ∧ Published n.val t.now t := by
  obtain ⟨hnow, hsnap, hpub⟩ := shaftTick_effect d s n
  have hst : ShaftsStand (shaftTick d s) (slsAll (ss1Check (shaftLoss (shaftTick d s)))) :=
    slsAll_stand (ss1Check_stand (shaftLoss_stand (ShaftsStand.refl _)))
  have hrd : ∀ o < 4096, (slsAll (ss1Check (shaftLoss (shaftTick d s)))).rd (B.shaft n.val + o) = (shaftTick d s).rd (B.shaft n.val + o) :=
    fun o ho => hst.rd _ (by simp only [B.shaft, page]; omega) (by simp only [B.shaft, page]; omega)
  refine ⟨_, congrArg Host.Outcome.next (unlessGated_runs hg _), hst.now.trans hnow, hst.snapAll.trans hsnap, ?_⟩
  rw [hst.now]
  exact hpub.congr hrd hst.shafts

theorem exec_ssiFrameStart (hg : s.gated = false) (n : Fin 8) (he : s.pgEnabled (0x200 + n.val) = true) (hq : s.shaftSsi n.val = true) :
    exec (.ssiFrameStart n) s = .next (s.emit (.ssiClock n.val (s.fld (B.shaft n.val) SHAFT.SSI_CFG_BITS + 1))) :=
  congrArg Host.Outcome.next ((unlessGated_runs hg _).trans (if_pos ⟨he, hq⟩))

theorem exec_ssiFrame_low (hg : s.gated = false) (n : Fin 8) (he : s.pgEnabled (0x200 + n.val) = true) (hr : s.pgEn (0x200 + n.val) = true)
    (hq : s.shaftSsi n.val = true) (frame : BitVec 40) (ts : W64) : ∃ t, exec (.ssiFrameComplete n false frame ts) s = .next t ∧
      ShaftReports n.val 2 s t ∧ t.shaft n.val = s.shaft n.val := by
  refine ⟨_, congrArg Host.Outcome.next ((unlessGated_runs hg _).trans (ssiFrame_low he hr hq frame)),
    shaftFault_reports n.isLt (by decide) s, ?_⟩
  rw [State.shaftIrq_shaft, State.shaftFault_shaft]

theorem exec_ssiFrame_first (hg : s.gated = false) (n : Fin 8) (he : s.pgEnabled (0x200 + n.val) = true) (hr : s.pgEn (0x200 + n.val) = true)
    (hq : s.shaftSsi n.val = true) (frame : BitVec 40) (ts : W64) (hx : (s.shaft n.val).ssi = none)
    (hy : s.flag (B.shaft n.val) SHAFT.SSI_CFG_GRAY = false) : let p := ssiPos n.val frame s
    let x := s.shaft n.val
    ∃ t, exec (.ssiFrameComplete n true frame ts) s = .next t ∧ (t.shaft n.val).k = p ∧ (t.shaft n.val).ssi = some p ∧
      (t.shaft n.val).rev = x.rev ∧ t.flag (B.shaft n.val) SHAFT.STAT_REFERENCED = true ∧
      (t.shaft n.val).meas = some (x.rev.toNat * s.cpr n.val + p, ts + (s.rd (B.shaft n.val + SHAFT.SSI_LATCH.off)).setWidth 64, false) := by
  intro p x
  refine ⟨_, congrArg Host.Outcome.next ((unlessGated_runs hg _).trans (ssiFrame_first he hr hq hx hy frame)), ?_⟩
  rw [State.setFld_shaft, State.incWrap_shaft, State.setShaft_shaft_same]
  exact ⟨rfl, rfl, rfl, State.flag_setFld_one _ _ (by decide) (by decide), rfl⟩

/-- Settles O45: each event by what it leaves of its shaft; the tick by device time, which no step of a shaft moves, and by the snapshot,
which publishing the other shafts and the rows behind it leave. -/
theorem shaftEventRows : Obligations.ShaftEventRows := by
  unfold Obligations.ShaftEventRows
  intro s n b x on reports
  refine ⟨fun hg => ?gated, fun d hg => ?tick, fun a ha _ => setCount_effect n.isLt ha, ?clrRef, fun v hv => revCmd_effect hv n.val s,
    fun fwd te hc => countStep_pos hc fwd te,
    fun isA lvl ts te rest hc => ⟨quadStep_same, fun h => ⟨quadStep_edges n.isLt h, fun hl hr => ?counts,
      fun o ho hd => quadStep_error n.isLt hc h ho hd⟩⟩,
    fun hr hi => indexEvent_sets n.isLt hr hi, fun hr hk hi => ?index, ⟨_, rfl, deviceReset_pin_shaft s n⟩,
    fun ball level ts hg => ⟨_, rfl, fun he hq hf => encTransition_waits hg he hq hf, encTransition_glitch, fun h => ?level, ?own⟩,
    fun hg he hr hq => ⟨exec_ssiFrameStart hg n he hq, fun frame ts => exec_ssiFrame_low hg n he hr hq frame ts,
      fun frame ts hx hy => exec_ssiFrame_first hg n he hr hq frame ts hx hy⟩,
    fun hg he hv hs => ⟨_, congrArg Host.Outcome.next (unlessGated_runs hg _), standstill_effect n.isLt he hv hs⟩,
    fun p hg hp hf hr => ⟨_, congrArg Host.Outcome.next (unlessGated_runs hg _), safeSpeedDisc_effect n.isLt hp hf hr⟩⟩
  case gated =>
    obtain ⟨htick, hstart, hframe, hstill, hsafe⟩ := shaftRows_stand hg n
    exact ⟨htick, fun ball l ts => congrArg Host.Outcome.next (encTransition_level (.inl hg)), hstart, hframe, hstill, hsafe⟩
  case tick =>
    obtain ⟨t, ht, hnow, hsnap, hpub⟩ := exec_shaftTick hg d n
    exact ⟨t, ht, hnow, hsnap, hpub.time, hpub.angle, hpub.ext⟩
  case clrRef =>
    refine ⟨loseRef_referenced n.isLt s, ?_⟩
    show ((loseRef n.val s).shaft n.val).learn = none
    rw [loseRef_shaft]
  case counts =>
    subst hr
    exact quadStep_counts hc h hl
  case index =>
    have ht := indexEvent_checks hr hk hi
    refine ⟨fun hd => ht.trans (if_neg (Nat.not_lt.2 hd)), fun hd => ?_⟩
    show State.flag (indexEvent n.val 0 s) _ _ = false ∧ ShaftReports n.val 1 s (indexEvent n.val 0 s)
    rw [ht, if_pos hd]
    exact index_lost n.isLt s
  case level =>
    rw [encTransition_level (.inr h), State.setShaft_shaft_same]
  case own =>
    obtain ⟨y, hy⟩ := encTransition_own n.val ball level ts s
    rw [hy]
    exact ⟨fun m hm => State.setShaft_shaft_other s hm y, State.setShaft_regs s n.val y⟩

end Sys2Proof.Machine
end

section
/-! Queues: what each operation on one leaves of the machine, and what it makes of the queue's state and entries (R252 to R254, R258, R261). -/
namespace Sys2Proof.Machine

variable {s t u : State} {p q st c k : Nat}

/-! ### The state of a queue beside its registers -/

@[simp] theorem State.setQueue_queue_same (s : State) (q : Nat) (x : Queue) : (s.setQueue q x).queue q = x := Tab.get_set_same _ _ _ _

theorem State.setQueue_queue_other (s : State) (h : p ≠ q) (x : Queue) : (s.setQueue q x).queue p = s.queue p := Tab.get_set_other _ _ h _

theorem State.queue_congr (h : t.eng.queues = s.eng.queues) (q : Nat) : t.queue q = s.queue q := by unfold State.queue; rw [h]

@[simp] theorem State.setRing_ring_same (s : State) (r : Nat) (x : Ring) : (s.setRing r x).ring r = x := Tab.get_set_same _ _ _ _
@[simp] theorem State.setRing_queue (s : State) (r : Nat) (x : Ring) (q : Nat) : (s.setRing r x).queue q = s.queue q := rfl
@[simp] theorem State.setRing_qst (s : State) (r : Nat) (x : Ring) (q : Nat) : (s.setRing r x).qst q = s.qst q := State.setRing_fld s r x _ _
@[simp] theorem State.setFld_queue (s : State) (b : Nat) (f : Fld) (v q : Nat) : (s.setFld b f v).queue q = s.queue q := rfl
@[simp] theorem State.wr_queue (s : State) (k : Nat) (v : W32) (q : Nat) : (s.wr k v).queue q = s.queue q := rfl
@[simp] theorem wakeWaiting_queue (s : State) (q : Nat) : (wakeWaiting s).queue q = s.queue q := by rw [wakeWaiting_eq]; rfl
@[simp] theorem wakeWaiting_qst (s : State) (q : Nat) : (wakeWaiting s).qst q = s.qst q := wakeWaiting_fld s _ _
@[simp] theorem State.setQueue_qst (s : State) (q : Nat) (x : Queue) (p : Nat) : (s.setQueue q x).qst p = s.qst p := State.setQueue_fld s q x _ _

/-- Another field of QSTATE than the state. -/
theorem State.setFld_qst (s : State) (q v : Nat) {f : Fld} (ho : f.off = QD.QSTATE.off) (h : f.lo + f.wd ≤ 32) (hl : 3 ≤ f.lo) :
    (s.setFld (B.qd q) f v).qst q = s.qst q := State.fld_setFld_apart s _ v ho.symm h (.inl hl)

/-! ### What an operation on queue `q` leaves -/

/-- A key that the operations on queue `q` write: its QSTATE, or a word of the notifications (R277). -/
def QueueKey (q k : Nat) : Prop := k = B.qd q + QD.QSTATE.off ∨ (B.eng + 0x800 ≤ k ∧ k < B.eng + 0x1000)

/-- `t` is what operations on queue `q` alone leave of `s`. -/
structure QueueStep (q : Nat) (s t : State) : Prop where
  mem : t.mem = s.mem
  now : t.now = s.now
  seq : t.seq = s.seq
  rings : t.rings = s.rings
  eng : t.eng = { s.eng with queues := t.eng.queues, few := t.eng.few }
  other : ∀ p, p ≠ q → t.queue p = s.queue p
  rd : ∀ k, ¬ QueueKey q k → t.rd k = s.rd k

theorem QueueStep.refl (q : Nat) (s : State) : QueueStep q s s := ⟨rfl, rfl, rfl, rfl, rfl, fun _ _ => rfl, fun _ _ => rfl⟩

theorem QueueStep.trans (h : QueueStep q s t) (g : QueueStep q t u) : QueueStep q s u where
  mem := g.mem.trans h.mem
  now := g.now.trans h.now
  seq := g.seq.trans h.seq
  rings := g.rings.trans h.rings
  eng := by rw [g.eng, h.eng]
  other p hp := (g.other p hp).trans (h.other p hp)
  rd k hk := (g.rd k hk).trans (h.rd k hk)

/-- A part of the engine's own state that is neither a queue nor the lane count. -/
theorem QueueStep.engPart {α : Type} (h : QueueStep q s t) (f : Engine → α) (hf : ∀ e x y, f { e with queues := x, few := y } = f e) :
    f t.eng = f s.eng := by rw [h.eng, hf]

theorem QueueStep.fld (h : QueueStep q s t) {b : Nat} {f : Fld} (hk : ¬ QueueKey q (b + f.off)) : t.fld b f = s.fld b f := by
  unfold State.fld
  rw [h.rd _ hk]

/-- A field of a descriptor that stands in another register than the queue's QSTATE. -/
theorem QueueStep.qdFld (h : QueueStep q s t) {f : Fld} (ho : f.off < 64) (hf : p ≠ q ∨ f.off ≠ 0x030) :
    t.fld (B.qd p) f = s.fld (B.qd p) f := by
  refine h.fld ?_
  unfold QueueKey
  simp only [B.qd, B.eng, page, QD.QSTATE]
  omega

theorem QueueStep.qst_other (h : QueueStep q s t) (hp : p ≠ q) : t.qst p = s.qst p :=
  h.qdFld (f := QD.QSTATE_STATE) (by decide) (.inl hp)

theorem QueueStep.wr {v : W32} (hk : QueueKey q k) : QueueStep q s (s.wr k v) :=
  ⟨rfl, rfl, rfl, rfl, rfl, fun _ _ => rfl, fun _ hj => State.rd_wr_other s (fun e => hj (by rwa [e])) v⟩

/-- A field of the queue's QSTATE. -/
theorem QueueStep.setFld {f : Fld} {v : Nat} (hf : f.off = QD.QSTATE.off) : QueueStep q s (s.setFld (B.qd q) f v) :=
  .wr (.inl (by rw [hf]))

theorem QueueStep.setQueue {x : Queue} : QueueStep q s (s.setQueue q x) :=
  ⟨rfl, rfl, rfl, rfl, rfl, fun _ hp => State.setQueue_queue_other s hp x, fun _ _ => rfl⟩

theorem QueueStep.ite {P : Prop} [Decidable P] {a b : State} (ha : QueueStep q s a) (hb : QueueStep q s b) :
    QueueStep q s (if P then a else b) := by split <;> assumption

/-- Where no fewer than two lanes are in service, or no work runs, only the engine's note of it changes. -/
theorem fewCheck_eq (s : State) : ∃ r b, fewCheck s = { s with raised := s.raised ++ r, eng := { s.eng with few := b } } := by
  unfold fewCheck
  extract_lets bad s1
  split
  · exact ⟨[_], _, rfl⟩
  · exact ⟨[], bad, by rw [List.append_nil]⟩

theorem fewCheck_step : QueueStep q s (fewCheck s) := by
  obtain ⟨r, b, e⟩ := fewCheck_eq s
  rw [e]
  exact ⟨rfl, rfl, rfl, rfl, rfl, fun _ _ => rfl, fun _ _ => rfl⟩

@[simp] theorem fewCheck_regs (s : State) : (fewCheck s).regs = s.regs := by
  obtain ⟨r, b, e⟩ := fewCheck_eq s
  rw [e]

@[simp] theorem fewCheck_fld (s : State) (b : Nat) (f : Fld) : (fewCheck s).fld b f = s.fld b f := State.fld_congr (fewCheck_regs s) b f

@[simp] theorem fewCheck_queues (s : State) : (fewCheck s).eng.queues = s.eng.queues := by
  obtain ⟨r, b, e⟩ := fewCheck_eq s
  rw [e]

@[simp] theorem fewCheck_queue (s : State) (q : Nat) : (fewCheck s).queue q = s.queue q := State.queue_congr (fewCheck_queues s) q

/-- The notifications of a queue stand in the page of the engine. -/
theorem qNotify_step (hq : q < 16384) : QueueStep p s (qNotify q s) := by
  unfold qNotify
  refine .ite (.wr (.inr ?_)) (.refl p s)
  dsimp only
  omega

@[simp] theorem qNotify_queue (q : Nat) (s : State) (p : Nat) : (qNotify q s).queue p = s.queue p := by
  unfold qNotify; split <;> rfl

theorem qNotify_qdFld (hq : q < 16384) {f : Fld} : (qNotify q s).fld (B.qd p) f = s.fld (B.qd p) f := by
  unfold qNotify
  split
  · refine State.fld_setFld_off _ _ ?_
    simp only [B.qd, B.eng, page]
    omega
  · rfl

/-! ### Moving to a state -/

/-- What `qGo` makes of the queue before it looks at notifications and lanes. -/
def qMoved (q st c : Nat) (s : State) : State :=
  let b := B.qd q
  let s1 := (s.setFld b QD.QSTATE_STATE st).setFld b QD.QSTATE_CAUSE c
  if s.qst q = qRunning ∧ st = qDraining then s1
  else (s1.setQueue q { s1.queue q with due := s.now }).setFld b QD.QSTATE_PARKED 0

theorem qGo_eq (q st c : Nat) (s : State) : qGo q st c s = fewCheck
    (if st ≠ s.qst q ∧ (st = qHalted ∨ st = qFault ∨ (st = qIdle ∧ s.qst q = qDraining))
    then qNotify q (qMoved q st c s) else qMoved q st c s) := rfl

theorem qMoved_step : QueueStep q s (qMoved q st c s) :=
  have h1 : QueueStep q s ((s.setFld (B.qd q) QD.QSTATE_STATE st).setFld (B.qd q) QD.QSTATE_CAUSE c) :=
    (QueueStep.setFld (by rfl)).trans (.setFld (by rfl))
  .ite h1 ((h1.trans .setQueue).trans (.setFld (by rfl)))

theorem qGo_step (hq : q < 16384) : QueueStep q s (qGo q st c s) := by
  rw [qGo_eq]
  exact (QueueStep.ite (qMoved_step.trans (qNotify_step hq)) qMoved_step).trans fewCheck_step

theorem qMoved_fld {f : Fld} (hp : f.off = 0x030) (hl : f.lo + f.wd ≤ 11 ∨ 12 ≤ f.lo) :
    (qMoved q st c s).fld (B.qd q) f = ((s.setFld (B.qd q) QD.QSTATE_STATE st).setFld (B.qd q) QD.QSTATE_CAUSE c).fld (B.qd q) f := by
  unfold qMoved
  extract_lets b s1
  split
  · rfl
  · rw [State.fld_setFld_apart _ _ _ hp (by decide) hl, State.setQueue_fld]

theorem qGo_fld (hq : q < 16384) {f : Fld} (hp : f.off = 0x030) (hl : f.lo + f.wd ≤ 11 ∨ 12 ≤ f.lo) :
    (qGo q st c s).fld (B.qd q) f = ((s.setFld (B.qd q) QD.QSTATE_STATE st).setFld (B.qd q) QD.QSTATE_CAUSE c).fld (B.qd q) f := by
  rw [qGo_eq, fewCheck_fld, ← qMoved_fld hp hl]
  split
  · exact qNotify_qdFld hq
  · rfl

theorem qGo_qst (hq : q < 16384) (hst : st < 8) : (qGo q st c s).qst q = st := by
  refine (qGo_fld hq rfl (.inl (by decide))).trans ?_
  rw [State.fld_setFld_apart _ _ _ (by rfl) (by decide) (.inl (by decide)), State.fld_setFld_same _ _ _ _ (by decide)]
  exact Nat.mod_eq_of_lt hst

theorem qGo_cause (hq : q < 16384) (hc : c < 16) : (qGo q st c s).fld (B.qd q) QD.QSTATE_CAUSE = c := by
  rw [qGo_fld hq rfl (.inl (by decide)), State.fld_setFld_same _ _ _ _ (by decide)]
  exact Nat.mod_eq_of_lt hc

theorem qGo_count (hq : q < 16384) : (qGo q st c s).fld (B.qd q) QD.QSTATE_COUNT = s.fld (B.qd q) QD.QSTATE_COUNT := by
  rw [qGo_fld hq rfl (.inr (by decide)), State.fld_setFld_apart _ _ _ (by rfl) (by decide) (.inr (by decide)),
    State.fld_setFld_apart _ _ _ (by rfl) (by decide) (.inr (by decide))]

/-- Of the queue itself the time of its next check changes alone. -/
theorem qGo_queue (q st c : Nat) (s : State) : ∃ d, (qGo q st c s).queue q = { s.queue q with due := d } := by
  have hm : ∃ d, (qMoved q st c s).queue q = { s.queue q with due := d } := by
    unfold qMoved
    extract_lets b s1
    split
    · exact ⟨_, rfl⟩
    · exact ⟨s.now, by rw [State.setFld_queue, State.setQueue_queue_same]; rfl⟩
  rw [qGo_eq, fewCheck_queue]
  split
  · rwa [qNotify_queue]
  · exact hm

theorem qGo_ents (q st c : Nat) (s : State) : ((qGo q st c s).queue q).ents = (s.queue q).ents := by
  obtain ⟨d, h⟩ := qGo_queue q st c s
  rw [h]

theorem qGo_cancel (q st c : Nat) (s : State) : ((qGo q st c s).queue q).cancel = (s.queue q).cancel := by
  obtain ⟨d, h⟩ := qGo_queue q st c s
  rw [h]

/-! ### Entries -/

theorem putQueue_step {x : Queue} : QueueStep q s (s.putQueue q x) := (QueueStep.setQueue.trans (.setFld (by rfl))).trans (.setFld (by rfl))

@[simp] theorem State.putQueue_queue (s : State) (q : Nat) (x : Queue) : (s.putQueue q x).queue q = x := by
  unfold State.putQueue
  rw [State.setFld_queue, State.setFld_queue, State.setQueue_queue_same]

theorem State.putQueue_qst (s : State) (q : Nat) (x : Queue) : (s.putQueue q x).qst q = s.qst q := by
  unfold State.putQueue
  rw [State.setFld_qst _ _ _ (by rfl) (by decide) (by decide), State.setFld_qst _ _ _ (by rfl) (by decide) (by decide), State.setQueue_qst]

theorem State.putQueue_count (s : State) (q : Nat) (x : Queue) : (s.putQueue q x).fld (B.qd q) QD.QSTATE_COUNT = x.ents.length % 2 ^ 16 := by
  unfold State.putQueue
  rw [State.fld_setFld_apart _ _ _ (by rfl) (by decide) (.inr (by decide)), State.fld_setFld_same _ _ _ _ (by decide)]
  rfl

/-- The entries put into a queue; of the rest of the queue only its check may change. -/
theorem State.putEnts_queue (s : State) (q : Nat) (l : List QEnt) :
    ∃ n d, (s.putEnts q l).queue q = { s.queue q with ents := l, counted := n, due := d } := by
  unfold State.putEnts
  extract_lets x y
  split
  · exact ⟨_, _, State.putQueue_queue s q y⟩
  · exact ⟨false, s.now, by rw [State.setFld_queue, State.putQueue_queue]⟩

@[simp] theorem State.putEnts_ents (s : State) (q : Nat) (l : List QEnt) : ((s.putEnts q l).queue q).ents = l := by
  obtain ⟨n, d, h⟩ := s.putEnts_queue q l
  rw [h]

theorem putEnts_step {l : List QEnt} : QueueStep q s (s.putEnts q l) := .ite putQueue_step (putQueue_step.trans (.setFld (by rfl)))

theorem State.putEnts_qst (s : State) (q : Nat) (l : List QEnt) : (s.putEnts q l).qst q = s.qst q := by
  unfold State.putEnts
  extract_lets x y
  split
  · exact s.putQueue_qst q y
  · rw [State.setFld_qst _ _ _ (by rfl) (by decide) (by decide), State.putQueue_qst]

theorem setFly_step {n : Nat} {f : Option Flight} : QueueStep q s (setFly q n f s) := putEnts_step

theorem setFly_qst (q n : Nat) (f : Option Flight) (s : State) : (setFly q n f s).qst q = s.qst q := s.putEnts_qst q _

theorem setFly_ents (q n : Nat) (f : Option Flight) (s : State) :
    ((setFly q n f s).queue q).ents = (s.queue q).ents.map (fun e => if e.slot = n then { e with fly := f } else e) := s.putEnts_ents q _

/-- Discarding leaves the flights and what it does not cover. -/
theorem discard_ents (q : Nat) (f : QEnt → Bool) (s : State) :
    ((discard q f s).2.queue q).ents = (s.queue q).ents.filter (fun e => e.fly.isSome || !f e) := by
  unfold discard
  extract_lets x keep
  split
  case isTrue h => exact (List.filter_sublist.eq_of_length h).symm
  case isFalse h => exact State.putEnts_ents s q keep

theorem discard_count (q : Nat) (f : QEnt → Bool) (s : State) :
    (discard q f s).1 = (s.queue q).ents.length - ((s.queue q).ents.filter (fun e => e.fly.isSome || !f e)).length := by
  unfold discard
  extract_lets x keep
  split
  case isTrue h => rw [h, Nat.sub_self]
  case isFalse h => rfl

theorem discard_step {f : QEnt → Bool} : QueueStep q s (discard q f s).2 := by
  unfold discard
  extract_lets x keep
  split
  · exact .refl q s
  · exact putEnts_step

theorem discard_qst (q : Nat) (f : QEnt → Bool) (s : State) : (discard q f s).2.qst q = s.qst q := by
  unfold discard
  extract_lets x keep
  split
  · rfl
  · exact s.putEnts_qst q keep

theorem discardHead_some {h : QEnt} (hh : (s.queue q).head = some h) : discardHead q s = (discard q (fun e => e.slot == h.slot) s).2 := by
  unfold discardHead
  rw [hh]

/-! ### Draining -/

theorem drainCheck_stays (h : s.qst q ≠ qDraining ∨ (s.queue q).ents ≠ []) : drainCheck q s = s := by
  refine if_neg ?_
  rw [List.isEmpty_iff]
  tauto

theorem drainCheck_ends (h : s.qst q = qDraining) (he : (s.queue q).ents = []) :
    drainCheck q s = qGo q qIdle (if (s.queue q).cancel then 6 else 5) (s.setQueue q { s.queue q with cancel := false }) :=
  if_pos ⟨h, by rw [he]; rfl⟩

theorem drainCheck_step (hq : q < 16384) : QueueStep q s (drainCheck q s) := .ite (QueueStep.setQueue.trans (qGo_step hq)) (.refl q s)

theorem drainCheck_ents (q : Nat) (s : State) : ((drainCheck q s).queue q).ents = (s.queue q).ents := by
  unfold drainCheck
  split
  · rw [qGo_ents, State.setQueue_queue_same]
  · rfl

end Sys2Proof.Machine
end

section
/-! The registers of queue descriptors and of the engine that commands write (R248 to R250, R264, R280). -/
namespace Sys2Proof.Machine

variable {s : State} {w : Writer} {q : Fin 16384} {o mask v op : Nat}

/-! ### Descriptors -/

/-- The page of a descriptor, and the descriptor's place in it. -/
abbrev qdPage (q : Fin 16384) : Nat := 0x400 + q.val / 64
abbrev qdOff (q : Fin 16384) (o : Nat) : Nat := 64 * (q.val % 64) + o

theorem qd_key (q : Fin 16384) (o : Nat) : B.qd q.val + o = page (qdPage q) + qdOff q o := by
  simp only [B.qd, page, qdPage, qdOff]; omega

theorem qdOff_mod (q : Fin 16384) (ho : o < 64) : qdOff q o % 64 = o := by unfold qdOff; omega

theorem qdPage_bounds (q : Fin 16384) : 0x400 ≤ qdPage q ∧ qdPage q ≤ 0x4FF := by
  have := q.isLt
  unfold qdPage
  omega

theorem pageKind_qd (q : Fin 16384) : pageKind (qdPage q) = some (.qd, 0x400, 256) := by
  obtain ⟨hl, hh⟩ := qdPage_bounds q
  unfold pageKind
  rw [if_neg (by omega), if_neg (by omega), if_neg (by omega), if_neg (by omega), if_pos (by omega)]

theorem regRow_qd (q : Fin 16384) (o : Nat) : regRow (qdPage q) o = rowIn rowsQd (o % 64) := by
  unfold regRow
  rw [pageKind_qd]

theorem qdNum_qd (q : Fin 16384) (ho : o < 64) : qdNum (qdPage q) (qdOff q o) = q.val := by
  unfold qdNum qdPage qdOff; omega

/-- A register of a descriptor that software writes whole: none before it is a low half. -/
theorem qd_plain {r : Row} (hr : rowIn rowsQd o = some r) (ha : r.acc = .rw ∨ r.acc = .wo) (ho : o < 64) (h4 : o % 4 = 0)
    (hl : (rowIn rowsQd ((o + 60) % 64)).all (fun x => x.acc ≠ .rwh ∧ x.acc ≠ .woh) = true) (q : Fin 16384) :
    PlainReg .qd (qdPage q) (qdOff q o) r.mask where
  kind := ⟨_, _, pageKind_qd q⟩
  row := by
    refine ⟨r, ?_, ha, rfl, fun s => ?_⟩
    · rw [regRow_qd, qdOff_mod q ho, hr]
    · rcases ha with h | h <;> simp [State.isHeld, h]
  off := by unfold qdOff; omega
  word := by unfold qdOff; omega
  lo s := by
    unfold State.loOf
    rw [if_neg (by simp)]
    split
    · rfl
    · rw [regRow_qd, show (qdOff q o - 4) % 64 = (o + 60) % 64 by unfold qdOff at *; omega]
      cases hrow : rowIn rowsQd ((o + 60) % 64) with
      | none => rfl
      | some x =>
        rw [hrow] at hl
        simp only [Option.all_some, decide_eq_true_eq] at hl
        dsimp only
        rw [if_neg hl.1, if_neg hl.2]
  codes _ := rfl
  shaft := by decide

theorem qctl_plain (q : Fin 16384) : PlainReg .qd (qdPage q) (qdOff q QD.QCTL.off) 0x1FFFFFF :=
  qd_plain (r := ⟨0x000, 0, 1, .rw, 0x1400002, 0x1FFFFFF⟩) (by rfl) (.inl rfl) (by decide) (by decide) (by decide) q

theorem qcmd_plain (q : Fin 16384) : PlainReg .qd (qdPage q) (qdOff q QD.QCMD.off) 0xF :=
  qd_plain (r := ⟨0x03C, 0, 1, .wo, 0x0, 0xF⟩) (by rfl) (.inr rfl) (by decide) (by decide) (by decide) q

/-- QCTL written with no check against it. -/
theorem regPut_qctl (hv : v < 2 ^ 32) (h : admits w (B.qd q.val) v s) :
    regPut w (B.qd q.val + QD.QCTL.off) v s = qdDo q.val QD.QCTL.off v (wakeWaiting s) := by
  have h' : admits w (page (qdPage q) + qdOff q QD.QCTL.off) v s := by rwa [← qd_key]
  rw [qd_key, regPut_admits (qctl_plain q) hv h']
  unfold blockDo
  rw [if_neg (by simp), qdNum_qd q (by decide), qdOff_mod q (by decide)]

theorem nbits_op (hop : op < 16) : nbits op 0 4 = op := by unfold nbits; omega

theorem qcmdCodes_wakeWaiting (q op : Nat) (s : State) : qcmdCodes q op (wakeWaiting s) = qcmdCodes q op s := by rw [wakeWaiting_eq]; rfl

theorem blockCodes_qcmd (hop : op < 16) (s : State) :
    blockCodes w .qd (qdPage q) (qdOff q QD.QCMD.off) op s = qcmdCodes q.val op s := by
  unfold blockCodes
  rw [if_neg (by simp), qdNum_qd q (by decide), qdOff_mod q (by decide)]
  exact congrArg (qcmdCodes q.val · s) (nbits_op hop)

/-- A command that the queue's state allows. -/
theorem regPut_qcmd (hop : op < 16) (hw : mayWrite w (qdPage q) s) (hc : qcmdCodes q.val op s = []) :
    regPut w (B.qd q.val + QD.QCMD.off) op s = qcmdDo q.val op (wakeWaiting s) := by
  rw [qd_key, regPut_admitted (qcmd_plain q) hw (and_not_mask (n := 4) hop) (lt_trans hop (by decide))
    (by rw [blockCodes_qcmd hop, qcmdCodes_wakeWaiting, hc]; rfl)]
  unfold blockDo
  rw [if_neg (by simp), qdNum_qd q (by decide), qdOff_mod q (by decide)]
  exact congrArg (qcmdDo q.val · (wakeWaiting s)) (nbits_op hop)

/-- A command that the state refuses leaves its code in PG_WSTAT of the engine's page. -/
theorem regPut_qcmd_refused {c : Code} (hop : op < 16) (hw : mayWrite w (qdPage q) s) (hc : Code.lowest (qcmdCodes q.val op s) = c)
    (hne : c ≠ .ok) :
    regPut w (B.qd q.val + QD.QCMD.off) op s = wstat w (qdPage q) (qdOff q QD.QCMD.off) c (wakeWaiting s) := by
  have he : Code.lowest (blockCodes w .qd (qdPage q) (qdOff q QD.QCMD.off) op (wakeWaiting s)) = c := by
    rw [blockCodes_qcmd hop, qcmdCodes_wakeWaiting, hc]
  rw [qd_key, regPut_refused (qcmd_plain q) hw (and_not_mask (n := 4) hop) (lt_trans hop (by decide)) (by rwa [he]), he]

/-- PG_WSTAT of the head page shows the code of a refusal. -/
theorem wstat_head_code (w : Writer) (p o : Nat) (c : Code) (s : State) :
    (wstat w p o c s).fld (page (headPage p)) PG.WSTAT_CODE = c.num := by
  have hc : c.num < 16 := by cases c <;> decide
  unfold wstat
  dsimp only
  refine (State.fld_wr_same s (page (headPage p)) PG.WSTAT_CODE _).trans ?_
  unfold bf nbits
  rw [BitVec.toNat_ofNat]
  show _ / 2 ^ 0 % 2 ^ 8 = _
  omega

/-! ### The engine's page -/

theorem start_plain : PlainReg .eng 0x210 ENG.START.off 0xF :=
  ⟨⟨_, _, rfl⟩, ⟨_, rfl, .inr rfl, rfl, fun _ => rfl⟩, by decide, by decide, fun _ => rfl, fun _ => rfl, by decide⟩

theorem cancelCmd_plain : PlainReg .eng 0x210 ENG.CANCEL_CMD.off 0x1 :=
  ⟨⟨_, _, rfl⟩, ⟨_, rfl, .inr rfl, rfl, fun _ => rfl⟩, by decide, by decide, fun _ => rfl, fun _ => rfl, by decide⟩

theorem engProgLoad_plain : PlainReg .eng 0x210 ENG.PROG_LOAD.off 0x3F00FF :=
  ⟨⟨_, _, rfl⟩, ⟨_, rfl, .inr rfl, rfl, fun _ => rfl⟩, by decide, by decide, fun _ => rfl, fun _ => rfl, by decide⟩

end Sys2Proof.Machine
end

section
/-! The commands that disable a queue: what they discard, cancel and leave to drain (R252, R254, R264). -/
namespace Sys2Proof.Machine

variable {s t : State} {q st v : Nat} {keep : Bool} {f : Flight} {e : QEnt}

/-! ### Bit 0 of a word -/

theorem bit0_lt (v : W32) (b : Bool) : bit0 v b < 2 ^ 32 := setBits_lt _ v.isLt (by decide)

theorem nbit_bit0 (v : W32) (b : Bool) (i : Nat) : nbit (bit0 v b) i = if i = 0 then b else v.getLsbD i := by
  have hb : nbit (bit0 v b) i = (bit0 v b).testBit i := (Nat.testBit_eq_decide_div_mod_eq ..).symm ▸ rfl
  rw [hb, bit0, setBits_testBit]
  by_cases hi : i = 0
  · subst hi
    cases b <;> rfl
  · rw [if_neg hi]
    simp [show ¬ i < 0 + 1 by omega, show ¬ i < 0 by omega, BitVec.getLsbD]

/-! ### QCTL written -/

/-- The state once a descriptor's QCTL holds a value. -/
def ctlWritten (q v : Nat) (s : State) : State := (wakeWaiting s).wr (B.qd q) (BitVec.ofNat 32 v)

@[simp] theorem ctlWritten_queue (q v : Nat) (s : State) (p : Nat) : (ctlWritten q v s).queue p = s.queue p := by
  rw [ctlWritten, State.wr_queue, wakeWaiting_queue]

theorem ctlWritten_qdFld {g : Fld} (ho : g.off ≠ 0) : (ctlWritten q v s).fld (B.qd q) g = s.fld (B.qd q) g := by
  rw [ctlWritten, State.fld_wr_off _ _ (by omega), wakeWaiting_fld]

theorem ctlWritten_qst (q v : Nat) (s : State) : (ctlWritten q v s).qst q = s.qst q := ctlWritten_qdFld (by decide)

@[simp] theorem ctlWritten_mem (q v : Nat) (s : State) : (ctlWritten q v s).mem = s.mem := wakeWaiting_mem s

theorem ctlWritten_now (q v : Nat) (s : State) : (ctlWritten q v s).now = s.now := by rw [ctlWritten, wakeWaiting_eq]; rfl

theorem ctlWritten_ring (q v : Nat) (s : State) (r : Nat) : (ctlWritten q v s).ring r = s.ring r := by rw [ctlWritten, wakeWaiting_eq]; rfl

theorem qdDo_enable (hv : nbit v 0 = true) (he : s.flag (B.qd q) QD.QCTL_EN = false) : qdDo q QD.QCTL.off v (wakeWaiting s) =
    qGo q qArmed 1 ((ctlWritten q v s).putQueue q { last := ((ctlWritten q v s).queue q).last }) := by
  have he' : (wakeWaiting s).flag (B.qd q) QD.QCTL_EN = false := (congrArg (· != 0) (wakeWaiting_fld s _ _)).trans he
  show (if nbit v 0 = true then if (wakeWaiting s).flag (B.qd q) QD.QCTL_EN = true then _ else _ else _) = _
  rw [if_pos hv, if_neg (by rw [he']; decide)]
  rfl

theorem qdDo_disable (hv : nbit v 0 = false) : qdDo q QD.QCTL.off v (wakeWaiting s) = qDisable q (nbit v 1) (ctlWritten q v s) := by
  show (if nbit v 0 = true then _ else _) = _
  rw [if_neg (by rw [hv]; decide)]
  rfl

/-- A queue enabled from IDLE is ARMED and empty (R252). -/
theorem enabled_effect (hq : q < 16384) (x : State) : let t := qGo q qArmed 1 (x.putQueue q { last := (x.queue q).last })
    t.qst q = qArmed ∧ (t.queue q).ents = [] ∧ t.fld (B.qd q) QD.QSTATE_COUNT = 0 ∧ t.rd (B.qd q) = x.rd (B.qd q) ∧ t.mem = x.mem := by
  have hs : QueueStep q x (qGo q qArmed 1 (x.putQueue q { last := (x.queue q).last })) := putQueue_step.trans (qGo_step hq)
  refine ⟨qGo_qst hq (by decide), ?_, ?_, hs.rd _ ?_, hs.mem⟩
  · rw [qGo_ents, State.putQueue_queue]
  · rw [qGo_count hq, State.putQueue_count]
    rfl
  · simp only [QueueKey, B.qd, B.eng, page, QD.QSTATE]
    omega

/-! ### The undispatched entries are discarded -/

/-- A queue whose undispatched entries are discarded and that drains by CANCEL. -/
def qCleared (q : Nat) (s : State) : State :=
  let s1 := (discard q (fun _ => true) s).2
  s1.setQueue q { s1.queue q with cancel := true }

theorem qCleared_step : QueueStep q s (qCleared q s) := discard_step.trans .setQueue

theorem qCleared_ents (q : Nat) (s : State) : ((qCleared q s).queue q).ents = (s.queue q).ents.filter (fun e => e.fly.isSome) := by
  rw [qCleared, State.setQueue_queue_same]
  simp only [discard_ents, Bool.not_true, Bool.or_false]

theorem qCleared_cancel (q : Nat) (s : State) : ((qCleared q s).queue q).cancel = true := by
  rw [qCleared, State.setQueue_queue_same]

/-- The same in state DRAINING. -/
def qDrains (q : Nat) (s : State) : State := qGo q qDraining 1 (qCleared q s)

theorem qDrains_step (hq : q < 16384) : QueueStep q s (qDrains q s) := qCleared_step.trans (qGo_step hq)

theorem qDrains_ents (q : Nat) (s : State) : ((qDrains q s).queue q).ents = (s.queue q).ents.filter (fun e => e.fly.isSome) := by
  rw [qDrains, qGo_ents, qCleared_ents]

theorem qDrains_qst (hq : q < 16384) : (qDrains q s).qst q = qDraining := qGo_qst hq (by decide)

/-- The states of a queue in which a disable discards (R254): RUNNING without KEEP, ARMED, HALTED, FAULT. -/
def Discards (st : Nat) (keep : Bool) : Prop := st = qRunning ∧ keep = false ∨ st = qArmed ∨ st = qHalted ∨ st = qFault

theorem qDisable_discards (h : Discards (s.qst q) keep) : qDisable q keep s =
    if s.qst q = qRunning ∨ (s.queue q).ents.filter (fun e => e.fly.isSome) ≠ [] then
      drainCheck q (cancelFlights q (fun _ => true) false (qDrains q s)).2
    else qGo q qIdle 6 ((qCleared q s).setQueue q { (qCleared q s).queue q with cancel := false }) := by
  have h1 : ¬ (s.qst q = qIdle ∨ s.qst q = qDraining) := by
    rcases h with ⟨h, -⟩ | h | h | h <;> rw [h] <;> decide
  have h2 : ¬ (s.qst q = qRunning ∧ keep = true) := by
    rintro ⟨hr, hk⟩
    rcases h with ⟨-, h⟩ | h | h | h
    · rw [h] at hk
      cases hk
    all_goals rw [h] at hr; revert hr; decide
  have h3 : ¬ ((qCleared q s).queue q).ents.isEmpty ↔ (s.queue q).ents.filter (fun e => e.fly.isSome) ≠ [] := by
    rw [qCleared_ents, List.isEmpty_iff]
  unfold qDisable
  dsimp only
  rw [if_neg h1, if_neg h2]
  exact if_congr (or_congr_right h3) rfl rfl

theorem filter_isSome_nil {l : List QEnt} (h : ∀ e ∈ l, e.fly = none) : l.filter (fun e => e.fly.isSome) = [] :=
  List.filter_eq_nil_iff.2 fun e he => by rw [h e he]; decide

/-- A stopped queue without flights is IDLE at once. -/
theorem qDisable_stopped (hq : q < 16384) (hs : s.qst q = qArmed ∨ s.qst q = qHalted ∨ s.qst q = qFault)
    (hn : ∀ e ∈ (s.queue q).ents, e.fly = none) : let t := qDisable q keep s
    t.qst q = qIdle ∧ (t.queue q).ents = [] ∧ t.mem = s.mem := by
  have hf := filter_isSome_nil hn
  have hr : s.qst q ≠ qRunning := by rcases hs with h | h | h <;> rw [h] <;> decide
  intro t
  have ht : t = qGo q qIdle 6 ((qCleared q s).setQueue q { (qCleared q s).queue q with cancel := false }) :=
    (qDisable_discards (.inr hs)).trans (if_neg (by tauto))
  rw [ht]
  refine ⟨qGo_qst hq (by decide), ?_, ((qCleared_step.trans .setQueue).trans (qGo_step hq)).mem⟩
  rw [qGo_ents, State.setQueue_queue_same]
  exact (qCleared_ents q s).trans hf

/-- With KEEP a running queue goes on until its entries have retired. -/
theorem qDisable_keep (hq : q < 16384) (hs : s.qst q = qRunning) (he : (s.queue q).ents ≠ []) : let t := qDisable q true s
    t.qst q = qDraining ∧ (t.queue q).ents = (s.queue q).ents ∧ t.mem = s.mem := by
  let x := s.setQueue q { s.queue q with cancel := false }
  have hx : ((qGo q qDraining 1 x).queue q).ents = (s.queue q).ents := by rw [qGo_ents, State.setQueue_queue_same]
  intro t
  have ht : t = qGo q qDraining 1 x := by
    refine Eq.trans ?_ (drainCheck_stays (.inr (by rwa [hx])))
    show qDisable q true s = _
    unfold qDisable
    dsimp only
    rw [if_neg (by rw [hs]; decide), if_pos ⟨hs, rfl⟩]
  rw [ht]
  exact ⟨qGo_qst hq (by decide), hx, (QueueStep.setQueue.trans (qGo_step hq)).mem⟩

/-! ### Flights -/

/-- A flight that a cancel leaves alone: it is at no node, already cancelled, or less than NOTICE ahead. -/
def flightStays (now : W64) (f : Flight) : Prop := f.id = none ∨ f.cancel = true ∨ diff64 f.fire now < notice

/-- Where no flight may be cancelled nothing happens. -/
theorem cancelFlights_none {p : QEnt → Bool} {back : Bool} (h : ∀ e ∈ (s.queue q).ents, ∀ f, e.fly = some f → flightStays s.now f) :
    cancelFlights q p back s = ([], s) := by
  refine List.foldlRecOn (motive := fun a => a = ([], s)) _ _ rfl fun a ha e he => ?_
  subst ha
  split
  · next f hf =>
    split
    · next i hi =>
      refine if_neg ?_
      rintro ⟨-, hc, hn⟩
      rcases h e he f hf with h1 | h1 | h1
      · rw [h1] at hi
        cases hi
      · exact hc h1
      · omega
    · rfl
  · rfl

/-- Without any flight a running queue that is to cancel is IDLE at once. -/
theorem qDisable_running (hq : q < 16384) (hs : s.qst q = qRunning) (hn : ∀ e ∈ (s.queue q).ents, e.fly = none) : let t := qDisable q false s
    t.qst q = qIdle ∧ (t.queue q).ents = [] ∧ t.fld (B.qd q) QD.QSTATE_CAUSE = 6 ∧ t.mem = s.mem := by
  have he : ((qDrains q s).queue q).ents = [] := (qDrains_ents q s).trans (filter_isSome_nil hn)
  have hc : ((qDrains q s).queue q).cancel = true := by rw [qDrains, qGo_cancel, qCleared_cancel]
  intro t
  have ht : t = qGo q qIdle 6 ((qDrains q s).setQueue q { (qDrains q s).queue q with cancel := false }) := by
    refine (qDisable_discards (.inl ⟨hs, rfl⟩)).trans ((if_pos (.inl hs)).trans ?_)
    rw [cancelFlights_none (by rw [he]; simp), drainCheck_ends (qDrains_qst hq) he, hc]
    rfl
  rw [ht]
  refine ⟨qGo_qst hq (by decide), ?_, qGo_cause hq (by decide), (((qDrains_step hq).trans .setQueue).trans (qGo_step hq)).mem⟩
  rw [qGo_ents, State.setQueue_queue_same]
  exact he

/-- Flights too near to be cancelled are left to retire. -/
theorem qDisable_near (hq : q < 16384) (hs : Discards (s.qst q) keep) (he : ∃ e ∈ (s.queue q).ents, e.fly.isSome = true)
    (hn : ∀ e ∈ (s.queue q).ents, ∀ f, e.fly = some f → flightStays s.now f) : let t := qDisable q keep s
    t.qst q = qDraining ∧ (t.queue q).ents = (s.queue q).ents.filter (fun e => e.fly.isSome) ∧ t.mem = s.mem := by
  have hf : (s.queue q).ents.filter (fun e => e.fly.isSome) ≠ [] := by
    obtain ⟨e, hm, hsome⟩ := he
    exact List.ne_nil_of_mem (List.mem_filter.2 ⟨hm, hsome⟩)
  intro t
  have ht : t = qDrains q s := by
    refine (qDisable_discards hs).trans ((if_pos (.inr hf)).trans ?_)
    have hstay : ∀ e ∈ ((qDrains q s).queue q).ents, ∀ f, e.fly = some f → flightStays (qDrains q s).now f := by
      rw [qDrains_ents, (qDrains_step hq).now]
      exact fun e hm => hn e (List.mem_filter.1 hm).1
    rw [cancelFlights_none hstay]
    exact drainCheck_stays (.inr (by rwa [qDrains_ents]))
  rw [ht]
  exact ⟨qDrains_qst hq, qDrains_ents q s, (qDrains_step hq).mem⟩

/-- A cancel for a command that has left its port: the CANCEL goes out and waits for its ACK. -/
theorem cancelFlight_sent {i : W32} (ht : f.tag = none)
    (hi : ∀ c ∈ (s.ring (s.fld (B.qd q) QD.QDEST_RING)).txq, c.id ≠ i) : let r := s.fld (B.qd q) QD.QDEST_RING
    ∃ x, cancelFlight q e f i false s = (setFly q e.slot (some { f with cancel := true }) s).setRing r x ∧
      ∃ n, (i, q, n) ∈ x.cancels := by
  intro r
  have hstep : QueueStep q s (setFly q e.slot (some { f with cancel := true }) s) := setFly_step
  have hr : (setFly q e.slot (some { f with cancel := true }) s).fld (B.qd q) QD.QDEST_RING = r := hstep.qdFld (by decide) (.inr (by decide))
  have hg : (setFly q e.slot (some { f with cancel := true }) s).ring r = s.ring r := by unfold State.ring; rw [hstep.rings]
  have hany : (s.ring r).txq.any (fun c => c.id == i) = false := List.any_eq_false.2 fun c hc => by simpa using hi c hc
  have hf : ({ f with tag := none, cancel := true } : Flight) = { f with cancel := true } := by rw [← ht]
  unfold cancelFlight
  dsimp only
  rw [ht]
  simp only [Bool.false_eq_true, if_false, hf, hr, ringCancel, hg, hany, false_and]
  exact ⟨_, rfl, _, List.mem_append_right _ (List.mem_singleton.2 rfl)⟩

/-- A flight far enough ahead is cancelled at its node, and its queue drains until the ACK. -/
theorem qDisable_one {i : W32} (hq : q < 16384) (hs : Discards (s.qst q) keep) (he : (s.queue q).ents = [e]) (hf : e.fly = some f)
    (hid : f.id = some i) (ht : f.tag = none) (hc : f.cancel = false) (hn : notice ≤ diff64 f.fire s.now)
    (hi : ∀ c ∈ (s.ring (s.fld (B.qd q) QD.QDEST_RING)).txq, c.id ≠ i) : let t := qDisable q keep s
    t.qst q = qDraining ∧ (t.queue q).ents = [{ e with fly := some { f with cancel := true } }] ∧
      ∃ n, (i, q, n) ∈ (t.ring (s.fld (B.qd q) QD.QDEST_RING)).cancels := by
  have hstep := qDrains_step (s := s) hq
  have hents : ((qDrains q s).queue q).ents = [e] := by rw [qDrains_ents, he, List.filter_cons_of_pos (by rw [hf]; rfl)]; rfl
  have hring : (qDrains q s).fld (B.qd q) QD.QDEST_RING = s.fld (B.qd q) QD.QDEST_RING := hstep.qdFld (by decide) (.inr (by decide))
  have htxq : (qDrains q s).ring (s.fld (B.qd q) QD.QDEST_RING) = s.ring (s.fld (B.qd q) QD.QDEST_RING) := by
    unfold State.ring; rw [hstep.rings]
  obtain ⟨x, hx, n, hcan⟩ := cancelFlight_sent (s := qDrains q s) (q := q) (e := e) ht (by rwa [hring, htxq])
  rw [hring] at hx
  let y := setFly q e.slot (some { f with cancel := true }) (qDrains q s)
  have hset : (y.queue q).ents = [{ e with fly := some { f with cancel := true } }] := by
    rw [setFly_ents, hents, List.map_singleton, if_pos rfl]
  have hone : (cancelFlights q (fun _ => true) false (qDrains q s)).2 = cancelFlight q e f i false (qDrains q s) := by
    unfold cancelFlights
    rw [hents, List.foldl_cons, List.foldl_nil]
    simp only [hf, hid, hc, hstep.now, hn, Bool.false_eq_true, not_false_eq_true, and_self, if_true]
  intro t
  have htt : t = y.setRing (s.fld (B.qd q) QD.QDEST_RING) x := by
    have hne : (s.queue q).ents.filter (fun e => e.fly.isSome) ≠ [] := by rw [← qDrains_ents, hents]; exact List.cons_ne_nil _ _
    refine (qDisable_discards hs).trans ((if_pos (.inr hne)).trans ?_)
    rw [hone, hx]
    exact drainCheck_stays (.inr (by rw [State.setRing_queue, hset]; exact List.cons_ne_nil _ _))
  rw [htt, State.setRing_qst, State.setRing_queue, State.setRing_ring_same]
  exact ⟨(setFly_qst ..).trans (qDrains_qst hq), hset, n, hcan⟩

end Sys2Proof.Machine
end

section
/-! The other commands of queues, groups and the engine (R250, R253, R264, R277, R280). -/
namespace Sys2Proof.Machine

variable {s t : State} {w : Writer} {q v : Nat}

/-! ### QCMD -/

theorem start_codes (hs : s.qst q = qArmed) (hr : s.runMode = true) (hp : s.pgRunning 0x210 = true) : qcmdCodes q 1 s = [] := by
  simp [qcmdCodes, hs, hr, hp, refuseIf_false]

theorem start_codes_refused (hs : s.qst q ≠ qArmed) : qcmdCodes q 1 s = [.state] := by
  simp [qcmdCodes, hs, refuseIf]

theorem halt_codes (hs : s.qst q = qRunning) : qcmdCodes q 2 s = [] := by simp [qcmdCodes, hs, refuseIf_false]

theorem resume_codes (hs : s.qst q = qHalted) (hr : s.runMode = true) : qcmdCodes q 3 s = [] := by
  simp [qcmdCodes, hs, hr, refuseIf_false]

theorem flush_codes (hs : s.qst q = qArmed ∨ s.qst q = qHalted ∨ s.qst q = qFault) : qcmdCodes q 4 s = [] := by
  rcases hs with h | h | h <;> simp [qcmdCodes, h, refuseIf_false]

theorem skip_codes {h : QEnt} (hs : s.qst q = qHalted) (hh : (s.queue q).head = some h) : qcmdCodes q 5 s = [] := by
  simp [qcmdCodes, hs, hh, refuseIf_false]

/-- A queue that moves to a state keeps its entries, and memory stays. -/
theorem goes_effect (hq : q < 16384) {st : Nat} (hst : st < 8) (c : Nat) (s : State) : let t := qGo q st c (wakeWaiting s)
    t.qst q = st ∧ (t.queue q).ents = (s.queue q).ents ∧ t.mem = s.mem :=
  ⟨qGo_qst hq hst, by rw [qGo_ents, wakeWaiting_queue], (qGo_step hq).mem.trans (wakeWaiting_mem s)⟩

/-- FLUSH: the undispatched entries go, and the queue is ARMED with cause COMMAND. -/
theorem flush_effect (hq : q < 16384) (s : State) : let t := qcmdDo q 4 (wakeWaiting s)
    t.qst q = qArmed ∧ (t.queue q).ents = (s.queue q).ents.filter (fun e => e.fly.isSome) ∧ t.fld (B.qd q) QD.QSTATE_CAUSE = 1 ∧
      t.mem = s.mem := by
  intro t
  have ht : t = qGo q qArmed 1 (discard q (fun _ => true) (wakeWaiting s)).2 := rfl
  rw [ht]
  refine ⟨qGo_qst hq (by decide), ?_, qGo_cause hq (by decide), (discard_step.trans (qGo_step hq)).mem.trans (wakeWaiting_mem s)⟩
  rw [qGo_ents, discard_ents, wakeWaiting_queue]
  simp only [Bool.not_true, Bool.or_false]

/-- SKIP_HEAD: the first undispatched entry goes. -/
theorem skip_effect {h : QEnt} (hs : s.qst q = qHalted) (hh : (s.queue q).head = some h) : let t := qcmdDo q 5 (wakeWaiting s)
    t.qst q = qHalted ∧ (t.queue q).ents = (s.queue q).ents.filter (fun e => e.fly.isSome || e.slot != h.slot) ∧ t.mem = s.mem := by
  intro t
  have ht : t = (discard q (fun e => e.slot == h.slot) (wakeWaiting s)).2 := discardHead_some (by rwa [wakeWaiting_queue])
  rw [ht]
  refine ⟨?_, ?_, discard_step.mem.trans (wakeWaiting_mem s)⟩
  · rw [discard_qst, wakeWaiting_qst, hs]
  · rw [discard_ents, wakeWaiting_queue]
    rfl

/-- A START that the state refuses. -/
theorem start_refused (q : Fin 16384) (hw : mayWrite w (qdPage q) s) (hs : s.qst q.val ≠ qArmed) :
    let t := regPut w (B.qd q.val + QD.QCMD.off) 1 s
    t.fld (page 0x210) PG.WSTAT_CODE = Code.state.num ∧ t.qst q.val = s.qst q.val := by
  have hh : headPage (qdPage q) = 0x210 := if_pos (qdPage_bounds q).1
  intro t
  have ht : t = wstat w (qdPage q) (qdOff q QD.QCMD.off) .state (wakeWaiting s) :=
    regPut_qcmd_refused (by decide) hw (by rw [start_codes_refused hs]; rfl) (by decide)
  rw [ht, ← hh]
  refine ⟨wstat_head_code .., ?_⟩
  rw [← wakeWaiting_qst s]
  refine State.fld_wr_off _ _ ?_
  rw [hh]
  simp only [B.qd, page, QD.QSTATE_STATE, PG.WSTAT]
  omega

/-! ### Groups -/

theorem regReset_qstate (q : Fin 16384) : regReset (B.qd q.val + QD.QSTATE.off) = 0 := by
  have hrow : regRow (qdPage q) (qdOff q QD.QSTATE.off) = some ⟨0x030, 0, 1, .ro, 0x0, 0xFFFF0FF7⟩ := by
    rw [regRow_qd, qdOff_mod q (by decide)]
    rfl
  rw [qd_key, regReset_block (pageKind_qd q) hrow (by unfold qdOff; simp only [QD.QSTATE]; omega) (.inr rfl), specialReset_row (by decide)]
  rfl

theorem qnums_lt (h : q ∈ s.qnums) : q < 16384 := by
  unfold State.qnums at h
  obtain ⟨c, -, hc⟩ := List.mem_filterMap.1 h
  split at hc
  · cases hc
    omega
  · cases hc

/-- A queue in another state than IDLE is among those in use (R252). -/
theorem mem_qnums {q : Fin 16384} (h : s.qst q.val ≠ 0) : q.val ∈ s.qnums := by
  have hcell : ∃ x, cellFind (B.qd q.val + QD.QSTATE.off) s.regs.cells = some x := by
    by_contra hno
    refine h ?_
    have hnone := Option.eq_none_iff_forall_ne_some.2 (not_exists.1 hno)
    have hrd : s.rd (B.qd q.val + QD.QSTATE.off) = 0 := by
      unfold State.rd Tab.get cellGet
      rw [hnone]
      exact regReset_qstate q
    show bf (s.rd (B.qd q.val + QD.QSTATE.off)) 0 3 = 0
    rw [hrd]
    rfl
  obtain ⟨x, hx⟩ := hcell
  refine List.mem_filterMap.2 ⟨_, cellFind_mem hx, ?_⟩
  have hk : B.qd q.val + QD.QSTATE.off = 4194304 + 64 * q.val + 48 := rfl
  have hlt := q.isLt
  have hoff : QD.QSTATE.off = 48 := rfl
  exact (if_pos ⟨by omega, by omega, by omega⟩).trans (congrArg some (by omega))

/-- Queues that all start: each of the list that `P` names is RUNNING, and no queue's entries change. -/
theorem foldl_starts {P : Nat → Prop} [DecidablePred P] (q : Nat) : ∀ {l : List Nat} (s : State), (∀ p ∈ l, p < 16384) →
    let t := l.foldl (fun a p => if P p then qGo p qRunning 1 a else a) s
    t.qst q = (if q ∈ l ∧ P q then qRunning else s.qst q) ∧ (t.queue q).ents = (s.queue q).ents
  | [], s, _ => ⟨by simp, rfl⟩
  | p :: l, s, hl => by
    obtain ⟨hst, hents⟩ := foldl_starts (P := P) q (l := l) (if P p then qGo p qRunning 1 s else s) fun x hx => hl x (List.mem_cons_of_mem p hx)
    have hp := hl p List.mem_cons_self
    rw [List.foldl_cons]
    refine ⟨hst.trans ?_, hents.trans ?_⟩
    · by_cases hqp : q = p
      · subst hqp
        by_cases hP : P q
        · simp only [hP, if_true, and_true, List.mem_cons, true_or]
          rw [qGo_qst hp (by decide), ite_self]
        · simp [hP]
      · have hkeep : (if P p then qGo p qRunning 1 s else s).qst q = s.qst q := by
          split
          · exact (qGo_step hp).qst_other hqp
          · rfl
        rw [hkeep]
        simp only [List.mem_cons, hqp, false_or]
    · split
      · by_cases hqp : q = p
        · subst hqp
          exact qGo_ents ..
        · rw [(qGo_step hp).other q hqp]
      · rfl

theorem groupStart_codes (v : Nat) (hr : s.runMode = true) (hp : s.pgRunning 0x210 = true) : engCodes 0x058 v (wakeWaiting s) = [] := by
  show refuseIf (!(wakeWaiting s).runMode || !(wakeWaiting s).pgRunning 0x210) .state = []
  rw [wakeWaiting_eq]
  show refuseIf (!s.runMode || !s.pgRunning 0x210) .state = []
  rw [hr, hp]
  rfl

/-- START of a group: its ARMED queues run. -/
theorem groupStart_effect (q : Fin 16384) (g : Fin 16) (hw : mayWrite w 0x210 s) (hr : s.runMode = true) (hp : s.pgRunning 0x210 = true) :
    let t := regPut w (B.eng + ENG.START.off) g.val s
    t.qst q.val = (if s.qst q.val = qArmed ∧ s.fld (B.qd q.val) QD.QCTL_GROUP = g.val then qRunning else s.qst q.val) ∧
      (t.queue q.val).ents = (s.queue q.val).ents := by
  let x := wakeWaiting s
  let P (p : Nat) : Prop := x.qst p = qArmed ∧ x.fld (B.qd p) QD.QCTL_GROUP = nbits g.val 0 4
  have hput : regPut w (page 0x210 + ENG.START.off) g.val s = x.qnums.foldl (fun a p => if P p then qGo p qRunning 1 a else a) x :=
    regPut_admitted start_plain hw (and_not_mask (n := 4) g.isLt) (lt_trans g.isLt (by decide))
      (by rw [show blockCodes w .eng 0x210 ENG.START.off g.val (wakeWaiting s) = engCodes 0x058 g.val (wakeWaiting s) from rfl,
        groupStart_codes g.val hr hp]; rfl)
  obtain ⟨hst, hents⟩ := foldl_starts (P := P) q.val x fun p h => qnums_lt h
  have hP : q.val ∈ x.qnums ∧ P q.val ↔ s.qst q.val = qArmed ∧ s.fld (B.qd q.val) QD.QCTL_GROUP = g.val := by
    have hx : P q.val ↔ s.qst q.val = qArmed ∧ s.fld (B.qd q.val) QD.QCTL_GROUP = g.val := by
      simp only [P, x, wakeWaiting_qst, wakeWaiting_fld, nbits_op g.isLt]
    rw [hx]
    refine ⟨And.right, fun h => ⟨mem_qnums ?_, h⟩⟩
    rw [wakeWaiting_qst, h.1]
    decide
  intro t
  have ht : t = x.qnums.foldl (fun a p => if P p then qGo p qRunning 1 a else a) x := hput
  rw [ht]
  refine ⟨hst.trans ?_, hents.trans (by rw [wakeWaiting_queue])⟩
  simp only [hP, x, wakeWaiting_qst]

/-! ### CANCEL_CMD -/

theorem cancelCmd_codes (h : s.qst (s.fld B.eng ENG.CANCEL_Q) ≠ qIdle) (hc : s.eng.cancel = none) :
    engCodes 0x068 1 (wakeWaiting s) = [] := by
  show refuseIf ((wakeWaiting s).qst ((wakeWaiting s).fld B.eng ENG.CANCEL_Q) == qIdle) .state
    ++ refuseIf (wakeWaiting s).eng.cancel.isSome .busy = []
  rw [wakeWaiting_eq]
  show refuseIf (s.qst (s.fld B.eng ENG.CANCEL_Q) == qIdle) .state ++ refuseIf s.eng.cancel.isSome .busy = []
  rw [hc, beq_eq_false_iff_ne.2 h]
  rfl

/-- What a cancel from target `a` covers. -/
def cancelCovers (a : W64) (e : QEnt) : Bool := decide (0 ≤ diff64 e.e.target a)

/-- The state with the engine's cancel register set. -/
def State.setCancel (c : Option CancelRun) (s : State) : State := { s with eng := { s.eng with cancel := c } }

theorem State.setCancel_queue (c : Option CancelRun) (s : State) (q : Nat) : (s.setCancel c).queue q = s.queue q := rfl

theorem State.setCancel_cancel (c : Option CancelRun) (s : State) : (s.setCancel c).eng.cancel = c := rfl

theorem cancelStart_eq {a : W64} (hq : s.fld B.eng ENG.CANCEL_Q = q) (ha : s.rd64 (B.eng + ENG.CANCEL_A_LO.off) = a) :
    cancelStart s = drainCheck q ((cancelFlights q (cancelCovers a) false (discard q (cancelCovers a) s).2).2.setCancel
      (some ⟨q, (discard q (cancelCovers a) s).1 + (cancelFlights q (cancelCovers a) false (discard q (cancelCovers a) s).2).1.length,
        (cancelFlights q (cancelCovers a) false (discard q (cancelCovers a) s).2).1⟩)) := by
  subst hq ha
  rfl

/-- A cancel of a queue without flights discards what lies at or behind the given target, and nothing is left to wait for (R264). -/
theorem cancelStart_effect {a : W64} (hq : s.fld B.eng ENG.CANCEL_Q = q) (hlt : q < 16384) (ha : s.rd64 (B.eng + ENG.CANCEL_A_LO.off) = a)
    (hn : ∀ e ∈ (s.queue q).ents, e.fly = none) :
    let keep := (s.queue q).ents.filter (fun e => decide ((e.e.target - a).toInt < 0))
    ((cancelStart s).queue q).ents = keep ∧ (cancelStart s).eng.cancel = some ⟨q, (s.queue q).ents.length - keep.length, []⟩ := by
  intro keep
  have hkeep : (s.queue q).ents.filter (fun e => e.fly.isSome || !cancelCovers a e) = keep := by
    refine List.filter_congr fun e he => ?_
    rw [hn e he, Option.isSome_none, Bool.false_or]
    exact decide_not.symm.trans (decide_eq_decide.2 not_le)
  have hd : ((discard q (cancelCovers a) s).2.queue q).ents = keep := (discard_ents ..).trans hkeep
  have hcount : (discard q (cancelCovers a) s).1 = (s.queue q).ents.length - keep.length := by rw [discard_count, hkeep]
  have hfl : cancelFlights q (cancelCovers a) false (discard q (cancelCovers a) s).2 = ([], (discard q (cancelCovers a) s).2) := by
    refine cancelFlights_none fun e he f hf => ?_
    rw [hd] at he
    rw [hn e (List.mem_filter.1 he).1] at hf
    cases hf
  rw [cancelStart_eq hq ha, hfl, hcount, drainCheck_ents, State.setCancel_queue, List.length_nil, Nat.add_zero]
  exact ⟨hd, ((drainCheck_step hlt).engPart (·.cancel) fun _ _ _ => rfl).trans (State.setCancel_cancel ..)⟩

theorem cancelCmd_effect (hw : mayWrite w 0x210 s) (hq : s.fld B.eng ENG.CANCEL_Q = q) (hlt : q < 16384) (hs : s.qst q ≠ qIdle)
    (hc : s.eng.cancel = none) (hn : ∀ e ∈ (s.queue q).ents, e.fly = none) :
    let keep := (s.queue q).ents.filter (fun e => decide ((e.e.target - s.rd64 (B.eng + ENG.CANCEL_A_LO.off)).toInt < 0))
    let t := regPut w (B.eng + ENG.CANCEL_CMD.off) 1 s
    (t.queue q).ents = keep ∧ t.eng.cancel = some ⟨q, (s.queue q).ents.length - keep.length, []⟩ := by
  intro keep t
  have ht : t = cancelStart (wakeWaiting s) :=
    regPut_admitted cancelCmd_plain hw (by decide) (by decide)
      (by rw [show blockCodes w .eng 0x210 ENG.CANCEL_CMD.off 1 (wakeWaiting s) = engCodes 0x068 1 (wakeWaiting s) from rfl,
        cancelCmd_codes (hq ▸ hs) hc]; rfl)
  have hrd : (wakeWaiting s).rd64 (B.eng + ENG.CANCEL_A_LO.off) = s.rd64 (B.eng + ENG.CANCEL_A_LO.off) := by
    unfold State.rd64
    rw [wakeWaiting_rd, wakeWaiting_rd]
  have he := cancelStart_effect (s := wakeWaiting s) ((wakeWaiting_fld ..).trans hq) hlt hrd (by rwa [wakeWaiting_queue])
  rw [wakeWaiting_queue] at he
  rw [ht]
  exact he

/-- A cancel whose own entries have all retired is complete (R264). -/
theorem cancelDone_effect {n : Nat} {ids : List W32} (hc : s.eng.cancel = some ⟨q, n, ids⟩)
    (hn : ∀ e f i, e ∈ (s.queue q).ents → e.fly = some f → f.cancel = true → f.id = some i → i ∉ ids) : let t := cancelDone s
    t.eng.cancel = none ∧ (t.rd (B.eng + ENG.CANCEL_RES.off)).toNat = min n 65535 * 65536 ∧ t.irqPending 198 = true := by
  intro t
  have ht : t = ((s.setCancel none).wr (B.eng + ENG.CANCEL_RES.off) (BitVec.ofNat 32 (min n 65535 * 65536))).irq 198 := by
    unfold t cancelDone
    rw [hc]
    refine if_neg ?_
    rw [List.any_eq_true]
    rintro ⟨e, he, hm⟩
    split at hm
    · next f hf =>
      rw [Bool.and_eq_true] at hm
      obtain ⟨hcan, hid⟩ := hm
      split at hid
      · next i hi => exact hn e f i he hf hcan hi (List.contains_iff_mem.1 hid)
      · cases hid
    · cases hm
  rw [ht]
  refine ⟨by rw [State.irq_eng, State.wr_eng, State.setCancel_cancel], ?_, irqPending_irq rfl rfl⟩
  rw [irq_rd (by decide), State.rd_wr_same, BitVec.toNat_ofNat]
  omega

/-! ### Programs (R138, R280) -/

/-- PROG_LOAD notes the slot and the address and shows itself BUSY. -/
theorem engProgLoad_eng (v : Nat) (s : State) :
    (engDo 0x098 v s).eng = { s.eng with load := some ⟨nbits v 16 6, progAddr s B.eng ENG.PROG_LOAD_LO v⟩ } := State.wr_eng ..

theorem engProgLoad_effect (v : W32) (h : admits w (B.eng + ENG.PROG_LOAD.off) v.toNat s) :
    let t := regPut w (B.eng + ENG.PROG_LOAD.off) v.toNat s
    t.eng.load = some ⟨nbits v.toNat 16 6, s.fld B.eng ENG.PROG_LOAD_LO + v.toNat % 256 * 2 ^ 32⟩ ∧ t.eng.progs = s.eng.progs := by
  intro t
  have ht : t.eng = _ := (congrArg State.eng (regPut_admits engProgLoad_plain v.isLt h)).trans (engProgLoad_eng ..)
  have ha : progAddr (wakeWaiting s) B.eng ENG.PROG_LOAD_LO v.toNat = s.fld B.eng ENG.PROG_LOAD_LO + v.toNat % 256 * 2 ^ 32 := by
    unfold progAddr nbits
    rw [wakeWaiting_fld, Nat.pow_zero, Nat.div_one, show 2 ^ 8 = 256 from rfl]
  rw [ht, ha]
  refine ⟨rfl, ?_⟩
  rw [wakeWaiting_eq]

theorem codeNum_lt (c : Code) : c.num < 16 := by cases c <;> decide

/-- The result of a load as its register shows it. -/
theorem progRes_toNat (c : Code) {slot : Nat} (h : slot < 64) : (BitVec.ofNat 32 (c.num + slot * 65536)).toNat = c.num + slot * 65536 := by
  have := codeNum_lt c
  rw [BitVec.toNat_ofNat]
  omega

/-- The state with a load done: a program that passed stands in its slot. -/
def State.setLoaded (slot : Nat) (r : Code × List W32) (s : State) : State :=
  { s with eng := { s.eng with load := none, progs := if r.1 = .ok then s.eng.progs.ins slot r.2 else s.eng.progs } }

theorem State.setLoaded_load (slot : Nat) (r : Code × List W32) (s : State) : (s.setLoaded slot r).eng.load = none := rfl

theorem State.setLoaded_progs (slot : Nat) (r : Code × List W32) (s : State) :
    (s.setLoaded slot r).eng.progs = if r.1 = .ok then s.eng.progs.ins slot r.2 else s.eng.progs := rfl

theorem engLoadDone_eq {l : ProgLoad} {r : Code × List W32} (hl : s.eng.load = some l) (hr : progRead smEngine l.addr s = r) :
    engLoadDone s = ((s.setLoaded l.slot r).wr (B.eng + ENG.PROG_RES.off) (BitVec.ofNat 32 (r.1.num + l.slot * 65536))).irq 199 := by
  unfold engLoadDone
  rw [hl]
  simp only [hr]
  rfl

theorem engLoadDone_effect {l : ProgLoad} {r : Code × List W32} (hl : s.eng.load = some l) (h64 : l.slot < 64)
    (hr : progRead smEngine l.addr s = r) : let t := engLoadDone s
    t.eng.load = none ∧ (t.rd (B.eng + ENG.PROG_RES.off)).toNat = r.1.num + l.slot * 65536 ∧
      (r.1 = .ok → t.eng.progs.find l.slot = some r.2) ∧ (r.1 ≠ .ok → t.eng.progs = s.eng.progs) := by
  simp only [engLoadDone_eq hl hr, State.irq_eng, State.wr_eng, State.setLoaded_load, State.setLoaded_progs]
  refine ⟨trivial, ?_, fun hok => ?_, fun hno => if_neg hno⟩
  · rw [irq_rd (by decide), State.rd_wr_same, progRes_toNat _ h64]
  · rw [if_pos hok, Tab.find_ins_same]

/-! ### MARK_INFO (R277) -/

theorem markRead_some {m : Mark} {rest : List Mark} (hm : s.eng.marks = m :: rest) : markRead s =
    (((({ s with eng := { s.eng with marks := rest } } : State).wr (B.eng + 0x0A0) (BitVec.ofNat 32 (m.q + 2 ^ 31))).wr
      (B.eng + 0x0A4) m.param).wr64
      (B.eng + 0x0A8) m.t) := by
  unfold markRead
  rw [hm]

/-- The first read of MARK_INFO takes the oldest mark from the FIFO and shows it. -/
theorem markInfoRead_effect {m : Mark} {rest : List Mark} (hr : mayRead w 0x210 s) (hm : s.eng.marks = m :: rest)
    (hs : s.snaps.find (B.eng + 0x0A0) = none) : let t := regOut w (regsBase + B.eng + 0x0A0) .b4 s
    t.eng.marks = rest ∧
      t.sent = .read (0x40000000 + B.eng + 0x0A0) ((BitVec.ofNat 32 (m.q + 2 ^ 31)).setWidth 64) :: s.sent ∧
      t.snaps.find (B.eng + 0x0A4) = some m.param ∧ t.snaps.find (B.eng + 0x0A8) = some (m.t.extractLsb' 0 32) := by
  have hx : markRead (wakeWaiting s) = _ := markRead_some (m := m) (rest := rest) (by rw [wakeWaiting_eq]; exact hm)
  have hg : rsGroup .eng 0x210 0x0A0 (wakeWaiting s) = [0x0A0, 0x0A4, 0x0A8, 0x0AC] := rfl
  obtain ⟨hsent, hkeep, -, heng, -⟩ := firstRead_effect (w := w) (k := .eng) (p := 0x210) (o := 0x0A0) (s := s)
    (r := ⟨0x0A0, 0, 1, .rs, 0x0, 0x80003FFF⟩) (by rfl) (by decide) (by decide) hr (by rfl) rfl hs (by rw [hg]; decide)
  have hsrc : snapSource .eng 0x0A0 (wakeWaiting s) = markRead (wakeWaiting s) := rfl
  have hview (x : Nat) (hx : 0x40 ≤ x) (y : State) : regView w .eng 0x210 x y = y.rd (B.eng + x) := if_neg (by omega)
  rw [hsrc] at hsent hkeep heng
  rw [hg] at hkeep
  intro t
  refine ⟨?_, ?_, ?_, ?_⟩
  · rw [show t.eng = _ from heng, hx]
    rfl
  · refine hsent.trans ?_
    rw [hview _ (by decide), hx, State.rd_wr64_other _ (by decide) (by decide), State.rd_wr_other _ (by decide), State.rd_wr_same]
    rfl
  · refine (hkeep (by decide) 0x0A4 (by decide)).trans ?_
    rw [hview _ (by decide), hx, State.rd_wr64_other _ (by decide) (by decide), State.rd_wr_same]
  · refine (hkeep (by decide) 0x0A8 (by decide)).trans ?_
    rw [hview _ (by decide), hx, State.wr64, State.rd_wr_other _ (by decide), State.rd_wr_same]

/-! ### The statement -/

/-- The flights of a disable that has nothing to cancel, as the statement has them. -/
theorem flightStays_of {now : W64} {l : List QEnt} (h : ∀ e f, e ∈ l → e.fly = some f → f.id = none ∨ diff64 f.fire now < notice) :
    ∀ e ∈ l, ∀ f, e.fly = some f → flightStays now f := fun e he f hf => (h e f he hf).elim .inl fun hd => .inr (.inr hd)

/-- Settles O46: a disable by the state in which it finds the queue, the other commands by the register each writes. -/
theorem queueCommandRows : Obligations.QueueCommandRows := by
  unfold Obligations.QueueCommandRows
  intro s w q b mayQ ents goes ready
  have hq := q.isLt
  have hn0 (v : W32) : nbit (bit0 v false) 0 = false := nbit_bit0 v false 0
  have hn1 (v : W32) : nbit (bit0 v false) 1 = v.getLsbD 1 := nbit_bit0 v false 1
  /- A disable, and what it finds. -/
  have hdis (v : W32) (h : admits w b (bit0 v false) s) :
      exec (.queueDisable w q v) s = .next (qDisable q.val (v.getLsbD 1) (ctlWritten q.val (bit0 v false) s)) := by
    refine congrArg Host.Outcome.next ((regPut_qctl (bit0_lt v false) h).trans ?_)
    rw [qdDo_disable (hn0 v), hn1]
  have hqcmd {op : Nat} (hop : op < 16) (hw : mayQ) (hc : qcmdCodes q.val op s = []) :
      regPut w (B.qd q.val + QD.QCMD.off) op s = qcmdDo q.val op (wakeWaiting s) := regPut_qcmd hop hw hc
  have hst (v : Nat) := ctlWritten_qst q.val v s
  have hqu (v : Nat) := ctlWritten_queue q.val v s q.val
  have hkeeps (v : W32)
    (h : s.qst q.val = qRunning ∧ v.getLsbD 1 = false ∨ s.qst q.val = qArmed ∨ s.qst q.val = qHalted ∨ s.qst q.val = qFault) :
      Discards ((ctlWritten q.val (bit0 v false) s).qst q.val) (v.getLsbD 1) := by rwa [hst]
  refine ⟨fun v h he => ?enable, fun v h hs hn => ?stopped, fun v h hs hk hne => ?keep, fun v h hs hk hn => ?running,
    fun v h hs he hn => ?near, fun v e f i h hs he hf hid ht hc hn hi => ?cancel, fun hw hs hr => ?start,
      fun hw hs => ⟨_, rfl, start_refused q hw hs⟩,
    fun hw hs => ?halt, fun hw hs hr => ?resume, fun hw hs => ?flush, fun h hw hs hh => ?skip,
    fun g hw hr => ⟨_, rfl, groupStart_effect q g hw hr.1 hr.2⟩, fun hw hcq hs hc hn => ⟨_, rfl, cancelCmd_effect hw hcq hq hs hc hn⟩,
    fun n ids hg hc hn => ⟨_, congrArg Host.Outcome.next (unlessGated_runs hg _), cancelDone_effect hc hn⟩,
    fun v h => ⟨_, rfl, engProgLoad_effect v h⟩,
    fun l hg hl h64 => ⟨_, congrArg Host.Outcome.next (unlessGated_runs hg _), engLoadDone_effect hl h64 rfl⟩,
    fun m rest hr hm hs => ⟨_, rfl, markInfoRead_effect hr hm hs⟩⟩
  case enable =>
    refine ⟨_, congrArg Host.Outcome.next ((regPut_qctl (bit0_lt v true) h).trans (qdDo_enable (nbit_bit0 v true 0) he)), ?_⟩
    obtain ⟨h1, h2, h3, h4, h5⟩ := enabled_effect hq (ctlWritten q.val (bit0 v true) s)
    exact ⟨h1, h2, h3, h4.trans (State.rd_wr_same ..), h5.trans (ctlWritten_mem ..)⟩
  case stopped =>
    obtain ⟨h1, h2, h3⟩ := qDisable_stopped (keep := v.getLsbD 1) hq (by rwa [hst (bit0 v false)]) (by rwa [hqu])
    exact ⟨_, hdis v h, h1, h2, h3.trans (ctlWritten_mem ..)⟩
  case keep =>
    obtain ⟨h1, h2, h3⟩ := qDisable_keep hq ((hst (bit0 v false)).trans hs) (by rwa [hqu])
    exact ⟨_, (hdis v h).trans (by rw [hk]), h1, h2.trans (by rw [hqu]), h3.trans (ctlWritten_mem ..)⟩
  case running =>
    obtain ⟨h1, h2, h3, h4⟩ := qDisable_running hq ((hst (bit0 v false)).trans hs) (by rwa [hqu])
    exact ⟨_, (hdis v h).trans (by rw [hk]), h1, h2, h3, h4.trans (ctlWritten_mem ..)⟩
  case near =>
    obtain ⟨h1, h2, h3⟩ := qDisable_near hq (hkeeps v hs) (by rwa [hqu]) (by rw [hqu, ctlWritten_now]; exact flightStays_of hn)
    exact ⟨_, hdis v h, h1, h2.trans (by rw [hqu]), h3.trans (ctlWritten_mem ..)⟩
  case cancel =>
    have hdest : (ctlWritten q.val (bit0 v false) s).fld (B.qd q.val) QD.QDEST_RING = s.fld b QD.QDEST_RING := ctlWritten_qdFld (by decide)
    obtain ⟨h1, h2, n, h3⟩ := qDisable_one hq (hkeeps v hs) ((congrArg Queue.ents (hqu _)).trans he) hf hid ht hc (by rwa [ctlWritten_now])
      (by rwa [hdest, ctlWritten_ring])
    exact ⟨_, hdis v h, h1, h2, _, hdest ▸ h3, rfl, rfl⟩
  case start => exact ⟨_, congrArg Host.Outcome.next (hqcmd (by decide) hw (start_codes hs hr.1 hr.2)), goes_effect hq (by decide) 1 s⟩
  case halt => exact ⟨_, congrArg Host.Outcome.next (hqcmd (by decide) hw (halt_codes hs)), goes_effect hq (by decide) 1 s⟩
  case resume => exact ⟨_, congrArg Host.Outcome.next (hqcmd (by decide) hw (resume_codes hs hr)), goes_effect hq (by decide) 1 s⟩
  case flush => exact ⟨_, congrArg Host.Outcome.next (hqcmd (by decide) hw (flush_codes hs)), flush_effect hq s⟩
  case skip => exact ⟨_, congrArg Host.Outcome.next (hqcmd (by decide) hw (skip_codes hs hh)), skip_effect hs hh⟩

end Sys2Proof.Machine
end

section
/-! Appends to a queue (R247, R255 to R257). -/
namespace Sys2Proof.Machine

variable {s : State} {a : Appender} {q : Nat} {e : RawEntry}

/-! ### An accepted append -/

/-- What an append finds where no refusal of R256 stands against it. -/
theorem appendCodes_ok (hq : q < 16384) (h : Code.lowest (appendCodes a q e s) = .ok) :
    s.qst q ≠ qIdle ∧ s.qst q ≠ qDraining ∧ s.qst q ≠ qFault ∧ (s.queue q).ents.length < s.qCap q ∧
      ∀ l, (s.queue q).ents.getLast? = some l → 0 ≤ (e.target - l.e.target).toInt := by
  have hall := lowest_ok h
  unfold appendCodes at hall
  extract_lets b act rsvd range first st src priv order at hall
  rw [if_neg (by omega)] at hall
  simp only [List.mem_append, or_imp, forall_and] at hall
  obtain ⟨⟨⟨⟨⟨-, hstate⟩, -⟩, horder⟩, hfull⟩, -⟩ := hall
  have hst := refuseIf_ok hstate (by decide)
  simp only [Bool.or_eq_false_iff, beq_eq_false_iff_ne] at hst
  obtain ⟨⟨hidle, hdrain⟩, hfault⟩ := hst
  refine ⟨hidle, hdrain, hfault, not_le.1 (of_decide_eq_false (refuseIf_ok hfull (by decide))), fun l hl => ?_⟩
  have ho := refuseIf_ok horder (by decide)
  simp only [order, hl] at ho
  exact not_lt.1 (of_decide_eq_false ho)

theorem queueAppend_ok (hc : Code.lowest (appendCodes a q e s) = .ok) {n : BitVec 16} (hn : n.toNat = q) :
    (queueAppend a n e s).1 = appendDo q e s := by
  subst hn
  unfold queueAppend
  rw [hc]

theorem entBytes_length (e : RawEntry) : (entBytes e).length = 16 := by
  simp only [entBytes, List.length_append, leBytes_length]

@[simp] theorem State.poke_queue (s : State) (a : Nat) (l : List Byte) (q : Nat) : (s.poke a l).queue q = s.queue q := rfl

/-- An accepted entry stands behind the queue's others, and its bytes in queue memory. -/
theorem appendDo_effect (q : Nat) (e : RawEntry) (s : State) : ∃ slot, ((appendDo q e s).queue q).ents = (s.queue q).ents ++ [⟨slot, e, none⟩] ∧
    (appendDo q e s).qst q = s.qst q ∧ ∀ y, memRead (appendDo q e s).mem y =
      if s.entAddr q slot ≤ y ∧ y < s.entAddr q slot + 16 then (entBytes e).getD (y - s.entAddr q slot) 0 else memRead s.mem y := by
  unfold appendDo
  extract_lets x cap slot fresh s1
  have h1 : QueueStep q s s1 := putQueue_step
  have hqueue : s1.queue q = { x with ents := x.ents ++ [⟨slot, e, none⟩], tail := (slot + 1) % cap, due := if fresh then s.now else x.due } :=
    State.putQueue_queue s q _
  have hst : s1.qst q = s.qst q := State.putQueue_qst s q _
  refine ⟨slot, by rw [State.poke_queue, hqueue], (State.poke_fld ..).trans hst, fun y => ?_⟩
  · rw [State.poke_mem, memRead_memWriteL, entBytes_length, h1.mem]

@[simp] theorem State.irq_queue (s : State) (n q : Nat) : (s.irq n).queue q = s.queue q := State.queue_congr (by rw [State.irq_eng]) q
@[simp] theorem State.incSat_queue (s : State) (b : Nat) (f : Fld) (q : Nat) : (s.incSat b f).queue q = s.queue q := rfl
@[simp] theorem State.incWrap_queue (s : State) (b : Nat) (f : Fld) (q : Nat) : (s.incWrap b f).queue q = s.queue q := rfl

/-! ### A refused append (R257) -/

theorem queueAppend_refused {c : Code} (hc : Code.lowest (appendCodes a q e s) = c) (hne : c ≠ .ok) {n : BitVec 16} (hn : n.toNat = q) :
    (queueAppend a n e s).1 = appendReject a q c s := by
  subst hn
  unfold queueAppend
  rw [hc]
  cases c with
  | ok => exact absurd rfl hne
  | _ => rfl

theorem codeNum_wide (c : Code) : c.num < 2 ^ 8 := lt_trans (codeNum_lt c) (by decide)

/-- REJ_INFO as it reads after a refused append. -/
theorem rejInfo_toNat (hq : q < 16384) (c : Code) (a : Appender) :
    (BitVec.ofNat 32 (q % 16384 + c.num * 65536 + appenderNum a * 2 ^ 24 + 2 ^ 31)).toNat =
      q + c.num * 65536 + appenderNum a * 2 ^ 24 + 2 ^ 31 := by
  have hc := codeNum_lt c
  have ha : appenderNum a ≤ 2 := by cases a <;> simp [appenderNum]
  rw [BitVec.toNat_ofNat]
  omega

theorem appendReject_eq (hq : q < 16384) (a : Appender) (c : Code) (s : State) : ∃ src,
    appendReject a q c s = (((((s.setFld (B.qd q) QD.QREJ_CODE c.num).incSat (B.qd q) QD.QREJ_COUNT).wr (B.eng + ENG.REJ_INFO.off)
      (BitVec.ofNat 32 (q % 16384 + c.num * 65536 + appenderNum a * 2 ^ 24 + 2 ^ 31))).wr (B.eng + ENG.REJ_SRC.off) src).irq 192) := by
  unfold appendReject
  rw [if_pos (by omega)]
  exact ⟨_, rfl⟩

/-- A refusal is recorded in the queue's descriptor and in the engine, and leaves the queue and memory. -/
theorem appendReject_effect (hq : q < 16384) (a : Appender) (c : Code) (s : State) : let t := appendReject a q c s
    t.queue q = s.queue q ∧ t.mem = s.mem ∧ t.fld (B.qd q) QD.QREJ_CODE = c.num ∧
      (t.rd (B.eng + ENG.REJ_INFO.off)).toNat = q + c.num * 65536 + appenderNum a * 2 ^ 24 + 2 ^ 31 ∧ t.irqPending 192 = true := by
  obtain ⟨src, h⟩ := appendReject_eq hq a c s
  have hoff : B.qd q + QD.QREJ_CODE.off ≠ B.eng + ENG.REJ_SRC.off ∧ B.qd q + QD.QREJ_CODE.off ≠ B.eng + ENG.REJ_INFO.off ∧
      B.qd q + QD.QREJ_CODE.off ≠ B.intd + (0x080 + 4 * (192 / 32)) := by
    simp only [B.qd, B.eng, B.intd, page, QD.QREJ_CODE, ENG.REJ_SRC, ENG.REJ_INFO]
    omega
  obtain ⟨hsrc, hinfo, hint⟩ := hoff
  rw [h]
  refine ⟨?_, ?_, ?_, ?_, irqPending_irq (by rfl) (by rfl)⟩
  · rw [State.irq_queue, State.wr_queue, State.wr_queue, State.incSat_queue, State.setFld_queue]
  · rw [State.irq_mem, State.wr_mem, State.wr_mem, State.incSat_mem, State.setFld_mem]
  · rw [irq_fld hint, State.fld_wr_off _ _ hsrc, State.fld_wr_off _ _ hinfo, State.incSat,
      State.fld_setFld_apart _ _ _ (by rfl) (by decide) (.inl (by decide)), State.fld_setFld_same _ _ _ _ (by decide)]
    exact Nat.mod_eq_of_lt (codeNum_wide c)
  · rw [irq_rd (by decide), State.rd_wr_other _ (by decide), State.rd_wr_same]
    exact rejInfo_toNat hq c a

theorem queueNum_toNat (q : Fin 16384) : (BitVec.ofNat 16 q.val).toNat = q.val := by
  have := q.isLt
  rw [BitVec.toNat_ofNat]
  omega

end Sys2Proof.Machine
end

section
/-! What the lanes make of a prediction, and what a conversion leaves of the machine (R258, R263, R267, R300). -/
namespace Sys2Proof.Machine

variable {s t u : State} {q l k n : Nat}

/-! ### Operations on times (R287) -/

theorem clampInt_eq {lo hi : Int} (h : lo ≤ hi) (x : Int) : clampInt lo hi x = max lo (min hi x) := by
  unfold clampInt
  split_ifs <;> omega

/-- The band of a pass is wider than any sum or difference of two 64-bit operands. -/
theorem bandLimit_narrow {x : Int} (h : -(2 ^ 65) ≤ x) (h' : x ≤ 2 ^ 65) : bandLimit 0 x = x := by
  unfold bandLimit
  rw [clampInt_eq (by decide)]
  omega

/-- ADDTH: a time and a signed shift, saturated. -/
theorem addth_toNat (a b : W64) : ((aauOp 0x02 false a 0 b 0 0).val.toNat : Int) = max 0 (min (2 ^ 64 - 1) (a.toNat + b.toInt)) := by
  have ha := a.isLt
  have hb := BitVec.toInt_lt (x := b)
  have hb' := BitVec.le_toInt (x := b)
  have e : (aauOp 0x02 false a 0 b 0 0).val = i64 (clampInt 0 (2 ^ 64 - 1) (bandLimit 0 (a.toNat + b.toInt))) := rfl
  rw [e, bandLimit_narrow (by omega) (by omega), clampInt_eq (by decide)]
  unfold i64 wrapInt
  rw [BitVec.toNat_ofNat]
  omega

/-- SUBTH: the signed difference of two times, saturated. -/
theorem subth_toInt (a b : W64) : (aauOp 0x03 false a 0 b 0 0).val.toInt = max (-(2 ^ 63)) (min (2 ^ 63 - 1) ((a.toNat : Int) - b.toNat)) := by
  have ha := a.isLt
  have hb := b.isLt
  have e : (aauOp 0x03 false a 0 b 0 0).val = i64 (clampInt (-(2 ^ 63)) (2 ^ 63 - 1) (bandLimit 0 (a.toNat - b.toNat))) := rfl
  rw [e, bandLimit_narrow (by omega) (by omega), clampInt_eq (by decide), i64_toInt]
  apply Int.bmod_eq_of_le <;> omega

/-- A time less no latency is that time. -/
theorem subtl_zero (a : W64) : (aauOp 0x04 false a 0 0 0 0).val = a := by
  have ha := a.isLt
  have e : (aauOp 0x04 false a 0 0 0 0).val = i64 (clampInt 0 (2 ^ 64 - 1) (bandLimit 0 (a.toNat - (0 : Nat)))) := rfl
  rw [e, bandLimit_narrow (by omega) (by omega), clampInt_eq (by decide)]
  apply BitVec.eq_of_toNat_eq
  unfold i64 wrapInt
  rw [BitVec.toNat_ofNat]
  omega

/-- The shift that SUBTH finds leads from the old time to the new one or stops short of it: added to the old time it stays in range. -/
theorem addth_subth (a b : W64) : let d := (aauOp 0x03 false a 0 b 0 0).val
    (aauOp 0x02 false b 0 d 0 0).val = b + d := by
  intro d
  have hd : d.toInt = max (-(2 ^ 63)) (min (2 ^ 63 - 1) ((a.toNat : Int) - b.toNat)) := subth_toInt a b
  have hs := addth_toNat b d
  have ha := a.isLt
  have hb := b.isLt
  have hdn := BitVec.toInt_eq_toNat_cond d
  have hdl := d.isLt
  apply BitVec.eq_of_toNat_eq
  rw [BitVec.toNat_add]
  split at hdn <;> omega

/-! ### What a conversion leaves -/

/-- A key that the check of queue `q` may write before it decides: its QSTATE, the counters of the engine's load and of the lanes, and
the interrupt distributor. -/
def ConvKey (q k : Nat) : Prop :=
  k = B.qd q + QD.QSTATE.off ∨ k = B.eng + ENG.BACKLOG_MAX.off ∨ k = B.eng + ENG.CONV_CNT.off ∨
    (B.lane 0 ≤ k ∧ k < B.lane 4 ∧ k % 4096 ≠ LANE.LSTAT.off) ∨
    (B.intd ≤ k ∧ k < B.intd + 4096)

/-- `t` is what conversions for queue `q` leave of `s`. -/
structure ConvStep (q : Nat) (s t : State) : Prop where
  mem : t.mem = s.mem
  now : t.now = s.now
  seq : t.seq = s.seq
  rings : t.rings = s.rings
  eng : t.eng = { s.eng with rots := t.eng.rots }
  rd : ∀ k, ¬ ConvKey q k → t.rd k = s.rd k

theorem ConvStep.refl (q : Nat) (s : State) : ConvStep q s s := ⟨rfl, rfl, rfl, rfl, rfl, fun _ _ => rfl⟩

theorem ConvStep.trans (h : ConvStep q s t) (g : ConvStep q t u) : ConvStep q s u where
  mem := g.mem.trans h.mem
  now := g.now.trans h.now
  seq := g.seq.trans h.seq
  rings := g.rings.trans h.rings
  eng := by rw [g.eng, h.eng]
  rd k hk := (g.rd k hk).trans (h.rd k hk)

theorem ConvStep.fld (h : ConvStep q s t) {b : Nat} {f : Fld} (hk : ¬ ConvKey q (b + f.off)) : t.fld b f = s.fld b f := by
  unfold State.fld
  rw [h.rd _ hk]

theorem ConvStep.queues (h : ConvStep q s t) : t.eng.queues = s.eng.queues := by rw [h.eng]

theorem ConvStep.groups (h : ConvStep q s t) : t.eng.groups = s.eng.groups := by rw [h.eng]

theorem ConvStep.queue (h : ConvStep q s t) (p : Nat) : t.queue p = s.queue p := State.queue_congr h.queues p

theorem ConvStep.wr {v : W32} (hk : ConvKey q k) : ConvStep q s (s.wr k v) :=
  ⟨rfl, rfl, rfl, rfl, rfl, fun _ hj => State.rd_wr_other s (fun e => hj (by rwa [e])) v⟩

theorem ConvStep.setFld {b v : Nat} {f : Fld} (hk : ConvKey q (b + f.off)) : ConvStep q s (s.setFld b f v) := .wr hk

theorem ConvStep.raise {i : Nat} : ConvStep q s (s.raise i) := ⟨rfl, rfl, rfl, rfl, rfl, fun _ _ => rfl⟩

theorem ConvStep.irq {i : Nat} (hi : i < 800) : ConvStep q s (s.irq i) := by
  unfold State.irq
  split
  · exact .refl q s
  · exact .setFld (.inr (.inr (.inr (.inr ⟨by dsimp only; omega, by dsimp only; omega⟩))))

theorem ConvStep.ite {P : Prop} [Decidable P] {a b : State} (ha : ConvStep q s a) (hb : ConvStep q s b) :
    ConvStep q s (if P then a else b) := by split <;> assumption

/-- A counter of lane `l`. -/
theorem convKey_lane (hl : l < 4) {o : Nat} (ho : o < 4096) (hne : o ≠ LANE.LSTAT.off) : ConvKey q (B.lane l + o) := by
  refine .inr (.inr (.inr (.inl ?_)))
  simp only [B.lane, page, LANE.LSTAT] at hne ⊢
  omega

/-- Registers of the shafts' pages, of the system's and of the engine's settings. -/
theorem convKey_low {b : Nat} (hb : b < 0x110000 ∨ 0x200000 ≤ b ∧ b < 0x210078 ∨ 0x210080 ≤ b ∧ b < 0x211000) : ¬ ConvKey q b := by
  unfold ConvKey
  simp only [B.qd, B.eng, B.lane, B.intd, page, QD.QSTATE, ENG.BACKLOG_MAX, ENG.CONV_CNT, LANE.LSTAT]
  omega

/-- Registers of a descriptor that stand beside its QSTATE. -/
theorem convKey_qd {p o : Nat} (ho : o < 0x030) : ¬ ConvKey q (B.qd p + o) := by
  unfold ConvKey
  simp only [B.qd, B.eng, B.lane, B.intd, page, QD.QSTATE, ENG.BACKLOG_MAX, ENG.CONV_CNT, LANE.LSTAT]
  omega

theorem ConvStep.laneCount (hl : l < 4) : ConvStep q s (laneCount l s) := by
  have hfree : ConvStep q s s.free.2 := ⟨rfl, rfl, rfl, rfl, rfl, fun _ _ => rfl⟩
  have hcnt : ConvStep q s ((s.free.2.incWrap B.eng ENG.CONV_CNT).incWrap (B.lane l) LANE.CONV) :=
    (hfree.trans (.setFld (.inr (.inr (.inl rfl))))).trans (.setFld (convKey_lane hl (by decide) (by decide)))
  exact hcnt.trans (.wr (convKey_lane hl (by decide) (by decide)))

theorem ConvStep.backlog : ConvStep q s (backlog q s) := by
  unfold Machine.backlog
  extract_lets w ns s1
  have h1 : ConvStep q s s1 := .ite (.setFld (.inr (.inl rfl))) (.refl q s)
  exact .ite (.refl q s) (.ite ((h1.trans (.irq (by decide))).trans .raise) h1)

/-- Conversions by lanes whose AAUs have no fault: nothing is raised. -/
structure LaneStep (q : Nat) (s t : State) : Prop extends ConvStep q s t where
  raised : t.raised = s.raised

theorem LaneStep.trans (h : LaneStep q s t) (g : LaneStep q t u) : LaneStep q s u := ⟨h.toConvStep.trans g.toConvStep, g.raised.trans h.raised⟩

/-! ### What a conversion finds -/

section
variable (h : ConvStep q s t)
include h

theorem ConvStep.qdFld {p : Nat} {f : Fld} (hf : f.off < 0x030) : t.fld (B.qd p) f = s.fld (B.qd p) f := h.fld (convKey_qd hf)

theorem ConvStep.shaftRd (n : Nat) (hn : n < 8) {o : Nat} (ho : o < 4096) : t.rd (B.shaft n + o) = s.rd (B.shaft n + o) := by
  refine h.rd _ (convKey_low ?_)
  unfold B.shaft page
  omega

theorem ConvStep.laneIn (hl : l < 4) : t.laneIn l = s.laneIn l := by
  unfold State.laneIn State.flag
  rw [h.fld]
  unfold ConvKey
  simp only [B.qd, B.eng, B.lane, B.intd, page, QD.QSTATE, ENG.BACKLOG_MAX, ENG.CONV_CNT, LANE.LSTAT, LANE.LSTAT_IN_SVC]
  omega

/-- The same lane serves a bank. -/
theorem ConvStep.serving (b : Nat) : t.serving b = s.serving b := by
  have hmod (i : Nat) : t.laneIn (i % 4) = s.laneIn (i % 4) := h.laneIn (Nat.mod_lt i (by decide))
  unfold State.serving
  simp only [List.map, List.find?, hmod]

theorem ConvStep.snapFit (hn : n < 8) : t.snapFit n = s.snapFit n := by
  unfold State.snapFit State.snapOk State.snapValid State.snapV State.rd64
  rw [Nat.add_assoc, h.shaftRd n hn (by decide), h.shaftRd n hn (by decide), h.shaftRd n hn (by decide),
    h.fld (b := B.eng) (f := ENG.MIN_SPEED) (convKey_low (by decide))]

theorem ConvStep.predict (hn : n < 8) (x : W64) : t.predict n x = s.predict n x := by
  unfold State.predict State.snapV State.snapT State.rd64
  simp only [Nat.add_assoc]
  repeat rw [h.shaftRd n hn (by decide)]

theorem ConvStep.canDispatch : t.canDispatch q = s.canDispatch q := by
  unfold State.canDispatch State.spaced State.gap State.mode
  rw [h.queue, h.qdFld (by decide), h.now, h.fld (b := B.eng) (convKey_low (by decide)), h.fld (b := B.sys) (convKey_low (by decide))]

end

/-! ### The operations of an AAU without a fault -/

theorem laneOp_clean (l op : Nat) (a a1 b b1 b2 : W64) (s : State) : ∃ t, LaneStep q s t ∧
    laneOp l op (aauArgs op a a1 b b1 b2) {} s = (some (aauOp op false a a1 b b1 b2), {}, t) := by
  refine ⟨{ s with eng := { s.eng with rots := s.eng.rots.set (fun _ => 0) l (s.laneRot l + 1) } },
    ⟨⟨rfl, rfl, rfl, rfl, rfl, fun _ _ => rfl⟩, rfl⟩, ?_⟩
  have hc : aauChecked op false (aauArgs op a a1 b b1 b2) (s.laneRot l) (aauNext {}).1 = .ok (aauOp op false a a1 b b1 b2) false :=
    aauChecked_args op false a a1 b b1 b2 _
  unfold laneOp
  rw [hc]
  rfl

/-- The prediction that a lane makes is the one that stands in the registers. -/
theorem convPredict_clean (q : Nat) {n : Nat} {x tf : W64} (hp : s.predict n x = some tf) (l : Nat) : ∃ t, LaneStep q s t ∧
    convPredict n x l {} s = (some (some tf), {}, t) := by
  unfold State.predict at hp
  extract_lets b d h at hp
  obtain ⟨s1, h1, e1⟩ := laneOp_clean (q := q) l 0x00 x 0 (s.rd64 (b + SHAFT.SNAP_A_LO.off)) 0 0 s
  obtain ⟨s2, h2, e2⟩ := laneOp_clean (q := q) l 0x11 d ((s.rd (b + SHAFT.SNAP_A_EXT.off)).setWidth 64) (s.snapV n)
    (s.rd64 (b + SHAFT.SNAP_C_LO.off)) 0 s1
  obtain ⟨s3, h3, e3⟩ := laneOp_clean (q := q) l 0x02 (s.snapT n) 0 h 0 0 s2
  refine ⟨s3, (h1.trans h2).trans h3, ?_⟩
  split at hp
  · cases hp
  · next hroot =>
    cases hp
    simp only [h, d, b] at e1 e2 e3 hroot
    simp only [convPredict, e1, e2, e3, if_neg hroot, Option.map_some, h, d, b]

theorem serving_lt {b l : Nat} (h : s.serving b = some l) : l < 4 := by
  obtain ⟨i, -, rfl⟩ := List.mem_map.1 (List.mem_of_find?_eq_some h)
  exact Nat.mod_lt i (by decide)

/-- A conversion whose operations all pass their checks gives its result in the first lane. -/
theorem laneConvert_clean {α : Type} {b : Nat} {r : α} {conv : Conv α} (hs : (s.serving b).isSome = true)
    (hc : ∀ l, ∃ t, LaneStep q s t ∧ conv l {} s = (some r, {}, t)) : ∃ t, LaneStep q s t ∧ laneConvert b conv {} s = (some r, {}, t) := by
  obtain ⟨l, hl⟩ := Option.isSome_iff_exists.1 hs
  obtain ⟨t, ht, e⟩ := hc l
  refine ⟨laneCount l t, ht.trans ⟨.laneCount (serving_lt hl), rfl⟩, ?_⟩
  unfold laneConvert laneTry
  rw [hl]
  simp only [e]

end Sys2Proof.Machine
end

section
/-! The check of a queue with a MARK at its head, and the retirement of an entry (R252, R258, R261, R277). -/
namespace Sys2Proof.Machine

variable {s t : State} {q : Nat} {h : QEnt} {tt tf : W64} {lat : W32}

/-! ### The check -/

/-- A MARK takes its prediction as target time and as fire time, and no latency. -/
theorem convCheck_mark (hp : s.predict (s.qShaft q) h.e.target = some tf) (hm : entAct h.e = actMark) (l : Nat) :
    ∃ t, LaneStep q s t ∧ convCheck q h l {} s = (some (some (tf, tf, 0)), {}, t) := by
  obtain ⟨s1, h1, e1⟩ := convPredict_clean q hp l
  obtain ⟨s2, h2, e2⟩ := laneOp_clean (q := q) l 0x04 tf 0 ((0 : W32).setWidth 64) 0 0 s1
  have hg : groupTime q h.e tf s1 = (tf, s1) := by
    unfold groupTime State.joinable
    rw [hm]
    rfl
  refine ⟨s2, h1.trans h2, ?_⟩
  simp only [convCheck, e1, hg, if_pos hm, e2, Option.map_some]
  rw [show (0 : W32).setWidth 64 = (0 : W64) from rfl, subtl_zero]

theorem qShaft_lt (s : State) (q : Nat) : s.qShaft q < 8 := Nat.mod_lt _ (by decide)

theorem ConvStep.qShaft (h : ConvStep q s t) : t.qShaft q = s.qShaft q := h.qdFld (by decide)

/-- The backlog counted and the wait of a parked head over: where a conversion of queue `q` begins. -/
theorem backlog_unparked : ConvStep q s ((backlog q s).setFld (B.qd q) QD.QSTATE_PARKED 0) := ConvStep.backlog.trans (.setFld (.inl rfl))

section
variable {a : AauCheck} (hl : s.qLive q = true) (hh : (s.queue q).head = some h) (hs : (s.serving (q / 4096)).isSome = true)
include hl hh hs

/-- An entry that reads with an uncorrectable error. -/
theorem queueCheck_bad (hc : s.badIn (s.entAddr q h.slot) 16 = true) :
    queueCheck q a s = qGo q qFault 4 (s.raiseAt 220 (s.entAddr q h.slot)) := by
  simp only [queueCheck, hl, hh, Option.isNone_eq_false_iff.2 hs, hc, Bool.false_eq_true, if_false, if_true]
  exact if_pos hl

/-- A queue whose shaft is not fit. -/
theorem queueCheck_unfit (hc : s.badIn (s.entAddr q h.slot) 16 = false) (hf : s.snapFit (s.qShaft q) = false) :
    queueCheck q a s = park q (backlog q s) := by
  have hb : (backlog q s).snapFit (s.qShaft q) = false := by rw [ConvStep.backlog.snapFit (q := q) (qShaft_lt s q), hf]
  simp only [queueCheck, hl, hh, Option.isNone_eq_false_iff.2 hs, hc, hb, Bool.false_eq_true, if_false, if_true, not_false_eq_true]

/-- A queue whose shaft is fit, once the lane has its times. -/
theorem queueCheck_fit (hc : s.badIn (s.entAddr q h.slot) 16 = false) (hf : s.snapFit (s.qShaft q) = true) {c : AauCheck}
    (hconv : laneConvert (q / 4096) (convCheck q h) a ((backlog q s).setFld (B.qd q) QD.QSTATE_PARKED 0) = (some (some (tt, tf, lat)), c, t)) :
    queueCheck q a s = checkEntry q h tt tf lat t := by
  have hb : (backlog q s).snapFit (s.qShaft q) = true := by rw [ConvStep.backlog.snapFit (q := q) (qShaft_lt s q), hf]
  simp only [queueCheck, hl, hh, Option.isNone_eq_false_iff.2 hs, hc, hb, hconv, Bool.false_eq_true, if_false, not_true_eq_false]

/-- The check of a MARK in an AAU without a fault comes to its decision with the predicted time. -/
theorem queueCheck_mark (hc : s.badIn (s.entAddr q h.slot) 16 = false) (hf : s.snapFit (s.qShaft q) = true)
    (hp : s.predict (s.qShaft q) h.e.target = some tf) (hm : entAct h.e = actMark) :
    ∃ t, ConvStep q s t ∧ queueCheck q {} s = checkEntry q h tf tf 0 t := by
  have h1 : ConvStep q s ((backlog q s).setFld (B.qd q) QD.QSTATE_PARKED 0) := backlog_unparked
  obtain ⟨t, h2, e⟩ := laneConvert_clean (q := q) (conv := convCheck q h) (by rwa [h1.serving])
    (convCheck_mark (by rwa [h1.qShaft, h1.predict (qShaft_lt s q)]) hm)
  exact ⟨t, h1.trans h2.toConvStep, queueCheck_fit hl hh hs hc hf e⟩

end

/-! ### What the check decides -/

theorem park_parked (q : Nat) (s : State) : (park q s).flag (B.qd q) QD.QSTATE_PARKED = true := State.flag_setFld_one _ _ (by decide) (by decide)

theorem park_queue (q : Nat) (s : State) (p : Nat) : (park q s).queue p = s.queue p := rfl

theorem recheck_ents (q : Nat) (d : W64) (s : State) : ((recheck q d s).queue q).ents = (s.queue q).ents := by
  rw [recheck, State.setQueue_queue_same]

theorem checkEntry_later (hx : (s.fld (B.qd q) QD.HORIZON : Int) < (tf - s.now).toInt) : ∃ d, checkEntry q h tt tf lat s = recheck q d s := by
  unfold checkEntry
  exact ⟨_, if_pos hx⟩

theorem checkEntry_due (hm : entAct h.e = actMark) (hlo : 0 ≤ (tf - s.now).toInt) (hhi : (tf - s.now).toInt ≤ s.fld (B.qd q) QD.HORIZON)
    (hd : s.canDispatch q = true) : checkEntry q h tt tf lat s = dispatch q h tf tt lat true s := by
  unfold checkEntry diff64
  extract_lets b x lead hor
  have hlead : lead = 0 := if_pos hm
  rw [if_neg (not_lt.2 hhi), hlead, if_neg (not_lt.2 hlo), if_pos hd]

/-- The flight of a MARK. -/
def markFly (h : QEnt) (tf : W64) (lat : W32) : Option Flight := some ⟨tf, tf, lat, none, none, false, actMark, h.e.param⟩

/-- A MARK goes to nobody; its entry is in flight. -/
theorem dispatch_mark (hm : entAct h.e = actMark) : dispatch q h tf tt lat true s =
    ((setFly q h.slot (markFly h tf lat) s).setQueue q { (setFly q h.slot (markFly h tf lat) s).queue q with last := some s.now }).incWrap
      B.eng ENG.DISP_CNT := by
  simp [dispatch, dispatchAs, markFly, hm, actMark, actCall]

theorem fld_incWrap_word (s : State) (b o : Nat) : (s.incWrap b ⟨o, 0, 32⟩).fld b ⟨o, 0, 32⟩ = (s.fld b ⟨o, 0, 32⟩ + 1) % 2 ^ 32 :=
  State.fld_setFld_same _ _ _ _ (show 0 + 32 ≤ 32 by decide)

theorem dispatch_mark_effect (hm : entAct h.e = actMark) : let t := dispatch q h tf tt lat true s
    (t.queue q).ents = (s.queue q).ents.map (fun e => if e.slot = h.slot then { e with fly := markFly h tf lat } else e) ∧
    (t.queue q).last = some s.now ∧ t.fld B.eng ENG.DISP_CNT = (s.fld B.eng ENG.DISP_CNT + 1) % 2 ^ 32 := by
  have hcnt : (setFly q h.slot (markFly h tf lat) s).fld B.eng ENG.DISP_CNT = s.fld B.eng ENG.DISP_CNT := by
    refine (setFly_step (q := q)).fld ?_
    unfold QueueKey
    simp only [B.qd, B.eng, page, QD.QSTATE, ENG.DISP_CNT]
    omega
  rw [dispatch_mark hm]
  dsimp only
  rw [State.incWrap_queue, State.setQueue_queue_same]
  exact ⟨setFly_ents .., rfl, (fld_incWrap_word ..).trans (by rw [State.setQueue_fld]; exact congrArg (fun n => (n + 1) % 2 ^ 32) hcnt)⟩

/-! ### A data error -/

theorem qNotify_raised (q : Nat) (s : State) : (qNotify q s).raised = s.raised := by
  unfold qNotify
  split <;> rfl

theorem qMoved_raised (q st c : Nat) (s : State) : (qMoved q st c s).raised = s.raised := by
  unfold qMoved
  extract_lets b s1
  have h1 : s1.raised = s.raised := by rw [State.setFld_raised, State.setFld_raised]
  split
  · exact h1
  · rw [State.setFld_raised, State.setQueue_raised, h1]

theorem fewCheck_raised (s : State) : ∃ r, (fewCheck s).raised = s.raised ++ r := by
  obtain ⟨r, b, e⟩ := fewCheck_eq s
  exact ⟨r, by rw [e]⟩

/-- What had been raised before a queue moves waits still. -/
theorem qGo_raised (q st c : Nat) (s : State) : ∃ r, (qGo q st c s).raised = s.raised ++ r := by
  rw [qGo_eq, ← qMoved_raised q st c s]
  split
  · rw [← qNotify_raised q (qMoved q st c s)]
    exact fewCheck_raised _
  · exact fewCheck_raised _

/-- The queue halts in FAULT and source 220 asserts. -/
theorem faulted_effect (hq : q < 16384) (a : Nat) (s : State) : let t := qGo q qFault 4 (s.raiseAt 220 a)
    ∃ r, t.qst q = qFault ∧ t.fld (B.qd q) QD.QSTATE_CAUSE = 4 ∧ r ∈ t.raised ∧ r.src = 220 := by
  intro t
  obtain ⟨r, hr⟩ := qGo_raised q qFault 4 (s.raiseAt 220 a)
  refine ⟨⟨⟨BitVec.ofNat 9 220, some (BitVec.ofNat 40 a), 0, 0, 0, false⟩, s.now⟩, qGo_qst hq (by decide), qGo_cause hq (by decide), ?_, rfl⟩
  rw [show t.raised = _ from hr]
  exact List.mem_append_left _ (List.mem_append_right _ List.mem_cons_self)

/-! ### Retirement -/

/-- Recounting a group changes the groups alone. -/
theorem groupSync_eq (tag : Nat) (s : State) : ∃ g, groupSync tag s = s.setGroups g := by
  unfold groupSync
  split
  · exact ⟨s.eng.groups, rfl⟩
  · split
    · exact ⟨_, rfl⟩
    · exact ⟨_, rfl⟩

theorem pushMark_queue (m : Mark) (s : State) (q : Nat) : (pushMark m s).queue q = s.queue q := by
  unfold pushMark
  split
  · rfl
  · rw [State.irq_queue, State.incSat_queue]

theorem pushMark_marks {m : Mark} (h : s.eng.marks.length < 256) : (pushMark m s).eng.marks = s.eng.marks ++ [m] := by
  unfold pushMark
  rw [if_pos h]

/-- The group of a flight, where it has one, recounted. -/
def groupLeft (f : Flight) (s : State) : State := match f.tag with | some t => groupSync t s | none => s

theorem groupLeft_eq (f : Flight) (s : State) : ∃ g, groupLeft f s = s.setGroups g := by
  unfold groupLeft
  split
  · exact groupSync_eq ..
  · exact ⟨s.eng.groups, rfl⟩

/-- What the flight of an entry leaves as it ends: its group counted anew, and the mark of a MARK that fired. -/
def flightEnded (q : Nat) (o : Option Flight) (fired : Bool) (s : State) : State :=
  match o with
  | some f => if fired ∧ f.act = actMark then qNotify q (pushMark ⟨q, f.param, f.fire⟩ (groupLeft f s)) else groupLeft f s
  | none => s

theorem flightEnded_queue (q : Nat) (o : Option Flight) (fired : Bool) (s : State) (p : Nat) :
    (flightEnded q o fired s).queue p = s.queue p := by
  unfold flightEnded
  split
  · next f =>
    obtain ⟨g, e⟩ := groupLeft_eq f s
    rw [e]
    split
    · rw [qNotify_queue, pushMark_queue]
      rfl
    · rfl
  · rfl

theorem qNotify_eng (q : Nat) (s : State) : (qNotify q s).eng = s.eng := by
  unfold qNotify
  split <;> rfl

theorem flightEnded_marks {f : Flight} (ha : f.act = actMark) (hm : s.eng.marks.length < 256) :
    (flightEnded q (some f) true s).eng.marks = s.eng.marks ++ [⟨q, f.param, f.fire⟩] := by
  obtain ⟨g, e⟩ := groupLeft_eq f s
  simp only [flightEnded, ha, e, and_self, if_true, qNotify_eng]
  exact pushMark_marks hm

theorem retireEnt_eq (q : Nat) (e : QEnt) (fired : Bool) (s : State) : ∃ t, retireEnt q e fired s = drainCheck q t ∧
    (t = flightEnded q e.fly fired (s.putEnts q ((s.queue q).ents.filter (fun y => y.slot != e.slot))) ∨
      t = qNotify q (flightEnded q e.fly fired (s.putEnts q ((s.queue q).ents.filter (fun y => y.slot != e.slot))))) := by
  refine ⟨_, rfl, ?_⟩
  split
  · exact .inr rfl
  · exact .inl rfl

/-- An entry that retires leaves its queue. -/
theorem retireEnt_ents (q : Nat) (e : QEnt) (fired : Bool) (s : State) :
    ((retireEnt q e fired s).queue q).ents = (s.queue q).ents.filter (fun y => y.slot != e.slot) := by
  obtain ⟨t, h, ht⟩ := retireEnt_eq q e fired s
  rw [h, drainCheck_ents]
  rcases ht with rfl | rfl
  · rw [flightEnded_queue, State.putEnts_ents]
  · rw [qNotify_queue, flightEnded_queue, State.putEnts_ents]

/-- The mark of a MARK that fired goes to the end of the FIFO. -/
theorem retireEnt_marks (hq : q < 16384) {e : QEnt} {f : Flight} (hf : e.fly = some f) (ha : f.act = actMark) (hm : s.eng.marks.length < 256) :
    (retireEnt q e true s).eng.marks = s.eng.marks ++ [⟨q, f.param, f.fire⟩] := by
  obtain ⟨t, h, ht⟩ := retireEnt_eq q e true s
  have hput : (s.putEnts q ((s.queue q).ents.filter (fun y => y.slot != e.slot))).eng.marks = s.eng.marks :=
    putEnts_step.engPart (·.marks) fun _ _ _ => rfl
  rw [h, (drainCheck_step hq).engPart (·.marks) fun _ _ _ => rfl]
  rw [hf] at ht
  rcases ht with rfl | rfl
  · rw [flightEnded_marks ha (by rwa [hput]), hput]
  · rw [qNotify_eng, flightEnded_marks ha (by rwa [hput]), hput]

theorem entryRetires_first {e : QEnt} {f : Flight} (h : firstFlight (s.queue q) = some (e, f)) : entryRetires q s = retireEnt q e true s := by
  unfold entryRetires
  rw [h]

end Sys2Proof.Machine
end

section
/-! The retime of an open group, and the events of the queues (R247, R252, R255 to R263, R279). -/
namespace Sys2Proof.Machine

variable {s t : State} {q tag : Nat} {g : Group} {tf : W64}

/-! ### Retime (R263) -/

/-- The shift of a group whose shaft now reaches the target at `tf` (SUBTH). -/
def shiftOf (g : Group) (tf : W64) : W64 := (aauOp 0x03 false tf 0 g.t 0 0).val

theorem ConvStep.mayRetime (h : ConvStep q s t) {d : W64} : t.mayRetime g d = s.mayRetime g d := by
  unfold State.mayRetime
  rw [h.now]

/-- The target time of a group that moves by that shift; it stands where no retime may be sent. -/
theorem convGroup_clean (q : Nat) (hp : s.predict g.shaft g.target = some tf)
    (ht : s.fld B.eng ENG.RETIME_TOL ≤ (shiftOf g tf).toInt.natAbs) (l : Nat) :
    ∃ t, LaneStep q s t ∧
      convGroup g l {} s = (some (some (shiftOf g tf, if s.mayRetime g (shiftOf g tf) then g.t + shiftOf g tf else g.t)), {}, t) := by
  obtain ⟨s1, h1, e1⟩ := convPredict_clean q hp l
  obtain ⟨s2, h2, e2⟩ := laneOp_clean (q := q) l 0x03 tf 0 g.t 0 0 s1
  obtain ⟨s3, h3, e3⟩ := laneOp_clean (q := q) l 0x02 g.t 0 (shiftOf g tf) 0 0 s2
  have h12 : LaneStep q s s2 := h1.trans h2
  have htol : s2.fld B.eng ENG.RETIME_TOL = s.fld B.eng ENG.RETIME_TOL := h12.fld (convKey_low (by decide))
  have hmay : s2.mayRetime g (shiftOf g tf) = s.mayRetime g (shiftOf g tf) := h12.mayRetime
  have hshift : (aauOp 0x03 false tf 0 g.t 0 0).val = shiftOf g tf := rfl
  have hadd : (aauOp 0x02 false g.t 0 (shiftOf g tf) 0 0).val = g.t + shiftOf g tf := addth_subth tf g.t
  by_cases hm : s.mayRetime g (shiftOf g tf) = true
  · refine ⟨s3, h12.trans h3, ?_⟩
    simp only [convGroup, e1, e2, hshift, htol, ht, hmay, hm, and_self, if_true, e3, Option.map_some, hadd]
  · refine ⟨s2, h12, ?_⟩
    simp only [convGroup, e1, e2, hshift, hmay, hm, and_false, Bool.false_eq_true, if_false]

/-- The update of the one open group, up to the retime itself. -/
theorem retimeUpdate_one (hg : s.eng.groups.cells = [(tag, g)]) (hs : (s.serving 0).isSome = true) (hf : s.snapFit g.shaft = true)
    (hp : s.predict g.shaft g.target = some tf) (ht : s.fld B.eng ENG.RETIME_TOL ≤ (shiftOf g tf).toInt.natAbs) :
    ∃ t, LaneStep 0 s t ∧ retimeUpdate {} s =
      groupRetime tag g (shiftOf g tf) (if s.mayRetime g (shiftOf g tf) then g.t + shiftOf g tf else g.t) t := by
  obtain ⟨t, h, e⟩ := laneConvert_clean (q := 0) hs (convGroup_clean 0 hp ht)
  have hfind : s.eng.groups.find tag = some g := by
    unfold Tab.find
    rw [hg]
    exact if_pos rfl
  have htol : t.fld B.eng ENG.RETIME_TOL = s.fld B.eng ENG.RETIME_TOL := h.fld (convKey_low (by decide))
  refine ⟨t, h, ?_⟩
  unfold retimeUpdate
  rw [hg]
  simp only [List.foldl, groupUpdate, hfind, hf, e, not_true_eq_false, if_false]
  exact if_pos (htol ▸ ht)

theorem ringRetimes_regs (P : Nat → Bool) (tag : Nat) (d : W64) : ∀ (l : List Nat) (s : State),
    (l.foldl (fun a r => if P r then ringRetime r tag d a else a) s).regs = s.regs
  | [], _ => rfl
  | r :: l, s => by
    rw [List.foldl_cons, ringRetimes_regs P tag d l]
    split <;> rfl

theorem State.mapFlights_regs (s : State) (f : Flight → Flight) : (s.mapFlights f).regs = s.regs := rfl

theorem State.setGroups_fld (s : State) (x : Tab Group) (b : Nat) (f : Fld) : (s.setGroups x).fld b f = s.fld b f := rfl

/-- A retime moves the group, and is counted. -/
theorem groupRetime_moves {d x : W64} (h : s.mayRetime g d = true) :
    (groupRetime tag g d x s).eng.groups.find tag = some { g with t := x, f := g.f + d, d := g.d + d } ∧
      (groupRetime tag g d x s).fld B.eng ENG.RETIME_CNT = (s.fld B.eng ENG.RETIME_CNT + 1) % 2 ^ 32 := by
  unfold groupRetime
  rw [if_pos h]
  extract_lets s1 s2
  have h1 : s1.regs = s.regs := ringRetimes_regs (fun r => g.rings.getLsbD r) tag d (List.range 16) s
  have h2 : s2.regs = s.regs := by rw [State.mapFlights_regs, h1]
  refine ⟨?_, (fld_incWrap_word _ B.eng ENG.RETIME_CNT.off).trans ?_⟩
  · rw [State.incWrap_eng]
    exact Tab.find_ins_same ..
  · rw [State.setGroups_fld, State.fld_congr h2]
    rfl

/-- A retime that comes too late is counted as missed: source 224 asserts, and the group stands. -/
theorem groupRetime_late {d x : W64} (h : s.mayRetime g d ≠ true) : ∃ a, (groupRetime tag g d x s).raised = s.raised ++ [a] ∧ a.src = 224 ∧
    (groupRetime tag g d x s).eng.groups = s.eng.groups := by
  unfold groupRetime
  rw [if_neg h]
  refine ⟨⟨⟨BitVec.ofNat 9 224, none, 0, 0, 0, false⟩, (s.irq 197).now⟩, ?_, rfl, ?_⟩
  · exact congrArg (· ++ _) (State.irq_raised ..)
  · exact congrArg Engine.groups (State.irq_eng ..)

theorem mayRetime_iff {d : W64} : s.mayRetime g d = true ↔ diff64 s.now g.d ≤ 0 ∧ notice ≤ diff64 (g.f + d) s.now := by
  unfold State.mayRetime
  rw [Bool.and_eq_true, decide_eq_true_eq, decide_eq_true_eq]

theorem retimeUpdate_none (h : s.eng.groups = {}) (a : AauCheck) : retimeUpdate a s = s := by
  unfold retimeUpdate
  rw [h]
  rfl

/-! ### The statement -/

/-- Settles O47, event by event: the gate, the two ends of an append, the four of a check, the retirement, and the two of a retime. -/
theorem queueEventRows : Obligations.QueueEventRows := by
  unfold Obligations.QueueEventRows
  intro s q b x clean
  have hq := q.isLt
  refine ⟨fun hg a e h i hi => ?gated, fun hg => ?_⟩
  case gated =>
    simp only [List.mem_cons, List.not_mem_nil, or_false] at hi
    rcases hi with rfl | rfl | rfl | rfl | rfl <;> exact congrArg Host.Outcome.next (unlessGated_stands hg _)
  have hrun (r : State) : (.next (s.unlessGated r) : Res) = .next r := congrArg _ (unlessGated_runs hg r)
  refine ⟨fun a e => ⟨fun hc => ?append, fun hc => ?reject⟩, fun a h hl hh hs hc hf => ?park, fun a h hl hh hs hc => ?bad,
    fun h tf hl hh hs hc hf hp hm hd hlo hhi => ?due, fun h tf hl hh hs hc hf hp hm hx => ?later, fun e f hf _ => ?retire,
    fun tag g tf hg1 hs hf hp ht => ⟨fun hd hn => ?moves, fun hd => ?late⟩, fun h0 a => (hrun _).trans (by rw [retimeUpdate_none h0])⟩
  case append =>
    obtain ⟨hidle, hdrain, hfault, hcap, horder⟩ := appendCodes_ok hq hc
    obtain ⟨slot, hents, hst, hmem⟩ := appendDo_effect q.val e s
    exact ⟨hidle, hdrain, hfault, hcap, horder, _, slot, (hrun _).trans (by rw [queueAppend_ok hc (queueNum_toNat q)]), hents, hst, hmem⟩
  case reject =>
    exact ⟨_, (hrun _).trans (by rw [queueAppend_refused rfl hc (queueNum_toNat q)]), appendReject_effect hq a _ s⟩
  case park =>
    exact ⟨_, (hrun _).trans (by rw [queueCheck_unfit hl hh hs hc hf]), park_parked .., (park_queue ..).trans (ConvStep.backlog.queue q.val)⟩
  case bad =>
    obtain ⟨r, hr⟩ := faulted_effect hq (s.entAddr q.val h.slot) s
    exact ⟨_, r, (hrun _).trans (by rw [queueCheck_bad hl hh hs (Bool.not_eq_false _ ▸ hc)]), hr⟩
  case due =>
    obtain ⟨t, h1, he⟩ := queueCheck_mark hl hh hs hc hf hp hm
    have hhor : t.fld b QD.HORIZON = s.fld b QD.HORIZON := h1.qdFld (by decide)
    have hgo : checkEntry q.val h tf tf 0 t = dispatch q.val h tf tf 0 true t :=
      checkEntry_due hm (by rwa [h1.now]) (by rwa [h1.now, hhor]) (h1.canDispatch.trans hd)
    obtain ⟨h2, h3, h4⟩ := dispatch_mark_effect (s := t) (q := q.val) (tt := tf) (tf := tf) (lat := 0) hm
    have hcnt : t.fld B.eng ENG.DISP_CNT = s.fld B.eng ENG.DISP_CNT := h1.fld (convKey_low (by decide))
    exact ⟨_, (hrun _).trans (by rw [he, hgo]), h2.trans (by rw [h1.queue]; rfl), h3.trans (by rw [h1.now]), h4.trans (by rw [hcnt])⟩
  case later =>
    obtain ⟨t, h1, he⟩ := queueCheck_mark hl hh hs hc hf hp hm
    have hhor : t.fld b QD.HORIZON = s.fld b QD.HORIZON := h1.qdFld (by decide)
    obtain ⟨d, hgo⟩ := checkEntry_later (s := t) (q := q.val) (h := h) (tt := tf) (tf := tf) (lat := 0) (by rwa [hhor, h1.now])
    exact ⟨_, (hrun _).trans (by rw [he, hgo]), (recheck_ents ..).trans (by rw [h1.queue])⟩
  case retire =>
    exact ⟨_, (hrun _).trans (by rw [entryRetires_first hf]), retireEnt_ents .., fun ha hfly hm => retireEnt_marks hq hfly ha hm⟩
  case moves =>
    obtain ⟨t, h, he⟩ := retimeUpdate_one hg1 hs hf hp ht
    have hm : s.mayRetime g (shiftOf g tf) = true := mayRetime_iff.2 ⟨hd, hn⟩
    obtain ⟨h1, h2⟩ := groupRetime_moves (s := t) (tag := tag) (x := g.t + shiftOf g tf) (h.toConvStep.mayRetime.trans hm)
    have hcnt : t.fld B.eng ENG.RETIME_CNT = s.fld B.eng ENG.RETIME_CNT := h.fld (convKey_low (by decide))
    exact ⟨_, (hrun _).trans (by rw [he, if_pos hm]), h1, h2.trans (by rw [hcnt])⟩
  case late =>
    obtain ⟨t, h, he⟩ := retimeUpdate_one hg1 hs hf hp ht
    have hm : ¬ s.mayRetime g (shiftOf g tf) = true := fun h => not_lt.2 (mayRetime_iff.1 h).1 hd
    obtain ⟨a, h1, h2, h3⟩ := groupRetime_late (s := t) (tag := tag) (x := g.t) (fun hn => hm (h.toConvStep.mayRetime.symm.trans hn))
    exact ⟨_, a, (hrun _).trans (by rw [he, if_neg hm]), h1.trans (by rw [h.raised]), h2, h3.trans h.groups⟩

end Sys2Proof.Machine
end

section
/-! What the reads of a track through stream 1 leave of the machine (R192, R193, R273). -/
namespace Sys2Proof.Machine

variable {s t u : State} {k m : Nat}

/-- `t` is what reads of memory through an I/O unit leave of `s`: the registers from `lo` up to the DRAM controllers stand. -/
structure IoStep (lo : Nat) (s t : State) : Prop where
  mem : t.mem = s.mem
  dev : t.dev = s.dev
  seq : t.seq = s.seq
  eng : t.eng = s.eng
  ycp : t.ycp = s.ycp
  rd : ∀ k, lo ≤ k → k < page 0x330 → t.rd k = s.rd k

variable {lo : Nat}

theorem IoStep.refl (lo : Nat) (s : State) : IoStep lo s s := ⟨rfl, rfl, rfl, rfl, rfl, fun _ _ _ => rfl⟩

theorem IoStep.trans (h : IoStep lo s t) (g : IoStep lo t u) : IoStep lo s u :=
  ⟨g.mem.trans h.mem, g.dev.trans h.dev, g.seq.trans h.seq, g.eng.trans h.eng, g.ycp.trans h.ycp,
    fun k hk hk' => (g.rd k hk hk').trans (h.rd k hk hk')⟩

theorem IoStep.fld (h : IoStep lo s t) {b : Nat} {f : Fld} (hk : lo ≤ b + f.off) (hk' : b + f.off < page 0x330) : t.fld b f = s.fld b f := by
  unfold State.fld
  rw [h.rd _ hk hk']

theorem IoStep.wr {v : W32} (hk : k < lo ∨ page 0x330 ≤ k) : IoStep lo s (s.wr k v) :=
  ⟨rfl, rfl, rfl, rfl, rfl, fun j hj hj' => State.rd_wr_other s (by omega) v⟩

theorem IoStep.setFld {b v : Nat} {f : Fld} (hk : b + f.off < lo ∨ page 0x330 ≤ b + f.off) : IoStep lo s (s.setFld b f v) := .wr hk

theorem IoStep.raiseA {a : Assertion} : IoStep lo s (s.raiseA a) := ⟨rfl, rfl, rfl, rfl, rfl, fun _ _ _ => rfl⟩

theorem IoStep.ite {P : Prop} [Decidable P] {a b : State} (ha : IoStep lo s a) (hb : IoStep lo s b) : IoStep lo s (if P then a else b) := by
  split <;> assumption

/-! ### Errors of memory -/

theorem IoStep.markBad {a : Nat} : IoStep lo s (s.markBad a) := .ite (.refl lo s) ⟨rfl, rfl, rfl, rfl, rfl, fun _ _ _ => rfl⟩

theorem dram_reg {c o : Nat} : page 0x330 ≤ B.dram c + o := by
  unfold B.dram page
  omega

section
variable (hlo : page 0x111 ≤ lo)
include hlo

theorem IoStep.irq {i : Nat} (hi : i < 800) : IoStep lo s (s.irq i) := by
  unfold State.irq
  split
  · exact .refl lo s
  · refine .setFld (.inl (lt_of_lt_of_le ?_ hlo))
    simp only [B.intd, page]
    omega

theorem IoStep.dramErr {pa : Nat} {unc : Bool} : IoStep lo s (dramErr s pa unc) := by
  unfold Machine.dramErr
  split
  · refine (((IoStep.setFld (.inr dram_reg)).trans (.setFld (.inr dram_reg))).trans (.setFld (.inr dram_reg))).trans (.irq hlo ?_)
    unfold dramCtl
    omega
  · exact .setFld (.inr dram_reg)

theorem IoStep.dataErr {pa : Nat} {rep : Nat → State → State} (hrep : ∀ n x, IoStep lo x (rep n x)) : IoStep lo s (s.dataErr pa rep) := by
  have h1 : IoStep lo s (if (s.region pa).keepsBad then s.markBad pa else s) := .ite .markBad (.refl lo s)
  unfold State.dataErr
  extract_lets s1
  split
  · exact .ite ((h1.trans (hrep _ _)).trans (.dramErr hlo)) (h1.trans (hrep _ _))
  · exact h1

/-- The report of an uncorrectable error. -/
theorem IoStep.busErr {pa access : Nat} {master : W32} : IoStep lo s (s.busErr pa master access .data) := IoStep.dataErr hlo fun _ _ => .raiseA

theorem IoStep.ioTable {pa : Nat} : IoStep lo s (s.ioTable m pa).2 := by
  unfold State.ioTable
  split
  · exact .refl lo s
  · split
    · exact .busErr hlo
    · exact .refl lo s

end

/-! ### Translation -/

theorem IoStep.ioWalk {look : State → List (Nat × Option W64) → Except XStop (Leaf × WalkLog)} :
    ∀ (k : Nat) (got : List (Nat × Option W64)) {s : State},
    IoStep (page 0x200) s (s.ioWalk m look k got).2
  | 0, _, s => .refl _ s
  | k + 1, got, s => by
    unfold State.ioWalk
    split
    · exact (IoStep.ioTable (by decide)).trans (IoStep.ioWalk k _)
    · exact .refl _ s
    · exact .refl _ s

/-- The state in which a translation ends. -/
def xlateEnd : Except (Nat × Nat × State) (Nat × State) → State
  | .error (_, _, s) => s
  | .ok (_, s) => s

theorem IoStep.ioFill {addr : Nat} {l : Leaf} {g : WalkLog} : IoStep (page 0x200) s (s.ioFill m addr l g) :=
    ⟨rfl, rfl, rfl, rfl, rfl, fun _ _ _ => rfl⟩

theorem IoStep.ioLeaf {addr : Nat} {wr : Bool} {r : Except (Nat × Nat) (Leaf × WalkLog) × State} (h : IoStep (page 0x200) s r.2) :
    IoStep (page 0x200) s (xlateEnd (ioLeaf m addr wr r)) := by
  obtain ⟨⟨lv, rs⟩ | ⟨l, g⟩, t⟩ := r
  · exact h
  · unfold Machine.ioLeaf
    dsimp only
    by_cases hg : grants l.rights (if wr then 2 else 1) = true
    · rw [if_pos hg]
      exact h.trans .ioFill
    · rw [if_neg hg]
      exact h

theorem IoStep.ioXlate {addr : Nat} {wr : Bool} : IoStep (page 0x200) s (xlateEnd (s.ioXlate m addr wr)) := by
  unfold State.ioXlate
  extract_lets b
  split
  · exact .refl _ s
  split
  · exact .refl _ s
  split
  · split <;> exact .refl _ s
  · exact .ioLeaf (.ioWalk 5 [])

/-- The state in which the translation of an access's lines ends. -/
def piecesEnd : Except (Nat × Nat × Nat × State) (List (Nat × Nat) × State) → State
  | .error (_, _, _, s) => s
  | .ok (_, s) => s

theorem IoStep.ioPieces {wr : Bool} : ∀ (l : List (Nat × Nat)) {s : State}, IoStep (page 0x200) s (piecesEnd (s.ioPieces m wr l))
  | [], s => .refl _ s
  | (a, n) :: l, s => by
    have h1 : IoStep (page 0x200) s (xlateEnd (s.ioXlate m a wr)) := .ioXlate
    unfold State.ioPieces
    split
    · next lv r s1 e =>
      rw [e] at h1
      exact h1
    · next pa s1 e =>
      rw [e] at h1
      by_cases ha : ¬ (s1.region pa).allows (if wr then .write else .read) 99 = true ∨ 2 ^ 40 < a + n
      · rw [if_pos ha]
        exact h1
      by_cases ho : s1.outOfService pa = true
      · rw [if_neg ha, if_pos ho]
        exact h1
      have h2 : IoStep (page 0x200) s1 (piecesEnd (s1.ioPieces m wr l)) := IoStep.ioPieces l
      rw [if_neg ha, if_neg ho]
      split
      · next x e2 =>
        rw [e2] at h2
        exact h1.trans h2
      · next ps s2 e2 =>
        rw [e2] at h2
        exact h1.trans h2

/-! ### Reads of memory -/

theorem IoStep.region (h : IoStep lo s t) (a : Nat) : t.region a = s.region a := by
  unfold State.region State.flashSize State.usableDram
  rw [h.dev]

theorem IoStep.ioPiece {p : Nat × Nat} (hp : s.region p.1 ≠ .regs) : IoStep (page 0x200) s (s.ioPiece m p).2 := by
  unfold State.ioPiece
  rw [if_neg hp]
  split
  · exact .busErr (by decide)
  · exact .refl _ s

theorem IoStep.ioBytes : ∀ (l : List (Nat × Nat)) {s : State}, (∀ p ∈ l, s.region p.1 ≠ .regs) → IoStep (page 0x200) s (s.ioBytes m l).2
  | [], s, _ => .refl _ s
  | p :: l, s, h => by
    have h1 : IoStep (page 0x200) s (s.ioPiece m p).2 := .ioPiece (h p List.mem_cons_self)
    unfold State.ioBytes
    split
    · next s1 e =>
      rw [e] at h1
      exact h1
    · next d s1 e =>
      rw [e] at h1
      have h2 : IoStep (page 0x200) s1 (s1.ioBytes m l).2 := .ioBytes l fun p hp => by
        rw [h1.region]
        exact h p (List.mem_cons_of_mem _ hp)
      split
      · next s2 e2 =>
        rw [e2] at h2
        exact h1.trans h2
      · next s2 e2 =>
        rw [e2] at h2
        exact h1.trans h2

theorem IoStep.ioRefuse {addr lv r : Nat} {wr : Bool} (hm : m < 2) : IoStep (page 0x200) s (s.ioRefuse m addr wr lv r) := by
  have hu : ioUnit m = 0 := if_pos hm
  unfold State.ioRefuse
  rw [hu]
  exact ((((IoStep.wr (.inl (by decide))).trans (.wr (.inl (by decide)))).trans (.wr (.inl (by decide)))).trans
    (.setFld (.inl (by decide)))).trans .raiseA

theorem IoStep.seqRead {a n : Nat} : IoStep (page 0x200) s (seqRead a n s).2 := by
  have h1 : IoStep (page 0x200) s (piecesEnd (s.ioPieces 1 false (splitLines (lineCount n) a n))) := .ioPieces _
  unfold Machine.seqRead
  split
  · next x lv r s1 e =>
    rw [e] at h1
    exact h1.trans (.ioRefuse (by decide))
  · next ps s1 e =>
    rw [e] at h1
    split
    · next hall =>
      refine h1.trans (.ioBytes ps fun p hp => ?_)
      have hd := List.all_eq_true.1 hall p hp
      rw [Bool.and_eq_true, beq_iff_eq] at hd
      exact fun hr => absurd (hd.1.symm.trans hr) (by decide)
    · exact h1

/-! ### The check of a track (R273) -/

theorem IoStep.rowsCheck {tr : Track} : ∀ (k i : Nat) (prev : Option (Nat × Nat)) (crc : Nat) (cs : List Code) {s : State},
    IoStep (page 0x200) s (rowsCheck tr k i prev crc cs s).2.2
  | 0, _, _, _, _, s => .refl _ s
  | k + 1, i, prev, crc, cs, s => by
    have h1 : IoStep (page 0x200) s (Machine.seqRead (tr.addr + 64 + i * tr.rowB) tr.rowB s).2 := .seqRead
    unfold Machine.rowsCheck
    split
    · next s1 e =>
      rw [e] at h1
      exact h1
    · next r s1 e =>
      rw [e] at h1
      exact h1.trans (.rowsCheck k ..)

theorem IoStep.trackCheck {a : Nat} : IoStep (page 0x200) s (trackCheck a s).2.2 := by
  have h1 : IoStep (page 0x200) s (Machine.seqRead a 64 s).2 := .seqRead
  unfold Machine.trackCheck
  split
  · next s1 e =>
    rw [e] at h1
    exact h1
  · next h s1 e =>
    rw [e] at h1
    extract_lets tr hc
    split
    · exact h1
    · exact h1.trans (.rowsCheck ..)

end Sys2Proof.Machine
end

section
/-! The commands of the pattern sequencer and the loads of its programs (R273, R276, R282). -/
namespace Sys2Proof.Machine

variable {s : State} {w : Writer} {st v : Nat}

/-! ### Entering a state -/

@[simp] theorem State.setSeq_seqSt (s : State) (x : Seq) : (s.setSeq x).seqSt = s.seqSt := rfl

@[simp] theorem fewCheck_seq (s : State) : (fewCheck s).seq = s.seq := by
  obtain ⟨r, b, e⟩ := fewCheck_eq s
  rw [e]

@[simp] theorem fewCheck_mem (s : State) : (fewCheck s).mem = s.mem := by
  obtain ⟨r, b, e⟩ := fewCheck_eq s
  rw [e]

theorem seqGo_st (hst : st < 8) (s : State) : (seqGo st s).seqSt = st := by
  unfold seqGo State.seqSt
  rw [fewCheck_fld, State.fld_setFld_same _ _ _ _ (by decide)]
  exact Nat.mod_eq_of_lt hst

theorem seqGo_fld {f : Fld} (hf : f.off ≠ 0x058) : (seqGo st s).fld B.seq f = s.fld B.seq f := by
  unfold seqGo
  rw [fewCheck_fld]
  exact State.fld_setFld_off _ _ fun h => hf (Nat.add_left_cancel h)

@[simp] theorem seqGo_seq (st : Nat) (s : State) : (seqGo st s).seq = s.seq := by rw [seqGo, fewCheck_seq, State.setFld_seq]
@[simp] theorem seqGo_mem (st : Nat) (s : State) : (seqGo st s).mem = s.mem := by rw [seqGo, fewCheck_mem, State.setFld_mem]
@[simp] theorem seqGo_queues (st : Nat) (s : State) : (seqGo st s).eng.queues = s.eng.queues := by rw [seqGo, fewCheck_queues, State.setFld_eng]

/-- The sequencer as it enters a state: memory and the queues stand. -/
theorem seqGo_goes (hst : st < 8) (x : Seq) (s : State) : let t := seqGo st ((wakeWaiting s).setSeq x)
    t.seqSt = st ∧ t.mem = s.mem ∧ t.eng.queues = s.eng.queues := by
  refine ⟨seqGo_st hst _, ?_, ?_⟩
  · rw [seqGo_mem, State.setSeq_mem, wakeWaiting_mem]
  · rw [seqGo_queues, State.setSeq_eng, wakeWaiting_eq]

/-! ### Writes of CMD -/

theorem seqCmd_plain : PlainReg .seq 0x220 SEQ.CMD.off 0x10F :=
  ⟨⟨_, _, rfl⟩, ⟨_, rfl, .inr rfl, rfl, fun _ => rfl⟩, by decide, by decide, fun _ => rfl, fun _ => rfl, by decide⟩

@[simp] theorem wakeWaiting_seq (s : State) : (wakeWaiting s).seq = s.seq := by rw [wakeWaiting_eq]
@[simp] theorem wakeWaiting_seqSt (s : State) : (wakeWaiting s).seqSt = s.seqSt := wakeWaiting_fld ..
@[simp] theorem wakeWaiting_inSlice (s : State) : (wakeWaiting s).inSlice = s.inSlice := by unfold State.inSlice; rw [wakeWaiting_seq]

theorem seqCmdCodes_wakeWaiting (op : Nat) (s : State) : seqCmdCodes op (wakeWaiting s) = seqCmdCodes op s := by rw [wakeWaiting_eq]; rfl

/-- A command that the sequencer's state allows. -/
theorem regPut_seqCmd (hm : BitVec.ofNat 32 v &&& ~~~(BitVec.ofNat 32 0x10F) = 0) (hv : v < 2 ^ 32) (hw : mayWrite w 0x220 s)
    (hc : seqCmdCodes (nbits v 0 4) s = []) :
    regPut w (B.seq + SEQ.CMD.off) v s = seqCmdDo (nbits v 0 4) (nbit v 8) (wakeWaiting s) :=
  regPut_admitted seqCmd_plain hw hm hv (by
    rw [show blockCodes w .seq 0x220 SEQ.CMD.off v (wakeWaiting s) =
      seqCmdCodes (nbits v 0 4) (wakeWaiting s) from rfl, seqCmdCodes_wakeWaiting, hc]
    rfl)

section
variable (hp : s.pgRunning 0x220 = true) (hl : s.seq.loading = none)
include hp hl

theorem seqLoad_codes (h : s.seqSt ∈ [seqIdle, seqLoaded, seqDone, seqError]) : seqCmdCodes 1 s = [] := by
  simp only [List.mem_cons, List.not_mem_nil, or_false] at h
  rcases h with h | h | h | h <;> simp [seqCmdCodes, hp, hl, h, inRange, refuseIf]

theorem seqStart_codes (h : s.seqSt = seqLoaded ∨ s.seqSt = seqDone) (hm : s.mode = mCalico ∨ s.runMode = true) : seqCmdCodes 2 s = [] := by
  rcases h with h | h <;> rcases hm with hm | hm <;> simp [seqCmdCodes, hp, hl, h, hm, inRange, refuseIf]

theorem seqPause_codes (h : s.seqSt = seqRunning) : seqCmdCodes 3 s = [] := by
  simp [seqCmdCodes, hp, hl, h, inRange, refuseIf]

theorem seqContinue_codes (h : s.seqSt = seqPaused) : seqCmdCodes 4 s = [] := by
  simp [seqCmdCodes, hp, hl, h, inRange, refuseIf]

theorem seqContinue_codes_refused (h : s.seqSt ≠ seqPaused) : seqCmdCodes 4 s = [.state] := by
  simp [seqCmdCodes, hp, hl, h, inRange, refuseIf]

theorem seqStop_codes (h : s.seqSt = seqRunning ∨ s.seqSt = seqPaused ∨ s.seqSt = seqError) : seqCmdCodes 5 s = [] := by
  rcases h with h | h | h <;> simp [seqCmdCodes, hp, hl, h, inRange, refuseIf]

end

/-! ### What the commands do -/

/-- PAUSE and STOP between slices act at once. -/
theorem seqRequest_now (h : s.inSlice = false) (stop : Bool) : seqRequest stop s = seqTakeReq (s.setSeq { s.seq with req := some stop }) := by
  unfold seqRequest
  extract_lets s1
  exact if_neg (by rw [h]; decide)

/-- In a slice the request waits. -/
theorem seqRequest_waits (h : s.inSlice = true) (stop : Bool) : seqRequest stop s = s.setSeq { s.seq with req := some stop } := if_pos h

theorem seqLoad_eq (keep : Bool) (s : State) : seqCmdDo 1 keep s =
    s.setSeq { s.seq with loading := some (s.fld B.seq SEQ.TRK_LO + s.fld B.seq SEQ.TRK_HI * 2 ^ 32) } := rfl

theorem seqPause_eq (keep : Bool) (s : State) : seqCmdDo 3 keep s = seqRequest false s := rfl

theorem seqPause_now (h : s.inSlice = false) (keep : Bool) : ∃ x, seqCmdDo 3 keep s = seqGo seqPaused (s.setSeq x) := ⟨_, seqRequest_now h false⟩

theorem seqContinue_now (keep : Bool) (s : State) : ∃ x, seqCmdDo 4 keep s = seqGo seqRunning (s.setSeq x) := ⟨s.seq, rfl⟩

theorem seqStop_now (h : s.seqSt = seqRunning → s.inSlice = false) (keep : Bool) : ∃ x, seqCmdDo 5 keep s = seqGo seqLoaded (s.setSeq x) := by
  by_cases hr : s.seqSt = seqRunning
  · exact ⟨_, (if_pos hr).trans (seqRequest_now (h hr) true)⟩
  · exact ⟨_, if_neg hr⟩

/-- The sequencer as START leaves it: the state vector of before or a fresh one, and no row begun. -/
def seqStarted (keep : Bool) (x : Seq) : Seq :=
  { x with vec := if keep then x.vec else {}, fresh := !keep, lastCyc := none, lastPos := none, cur := none, req := none }

theorem seqStart_eq {op : Nat} (h : op = 2) (keep : Bool) (s : State) : seqCmdDo op keep s =
    seqGo seqRunning (((s.setSeq (seqStarted keep s.seq)).setFld B.seq SEQ.ROW 0).setFld B.seq SEQ.PASS 0) := by
  unfold seqCmdDo
  split
  case h_2 => rfl
  case h_5 => contradiction
  all_goals omega

/-- START: from row 0 of pass 0. -/
theorem seqStart_effect {op : Nat} (h : op = 2) (keep : Bool) (s : State) : let t := seqCmdDo op keep s
    t.seqSt = seqRunning ∧ t.fld B.seq SEQ.ROW = 0 ∧ t.fld B.seq SEQ.PASS = 0 ∧ t.seq = seqStarted keep s.seq := by
  rw [seqStart_eq h]
  refine ⟨seqGo_st (by decide) _, (seqGo_fld (by decide)).trans ?_, (seqGo_fld (by decide)).trans ?_, ?_⟩
  · rw [State.fld_setFld_off _ _ (by decide), State.fld_setFld_same _ _ _ _ (by decide)]
    rfl
  · rw [State.fld_setFld_same _ _ _ _ (by decide)]
    rfl
  · rw [seqGo_seq, State.setFld_seq, State.setFld_seq, State.setSeq_seq]

theorem wstat_seq (w : Writer) (p o : Nat) (c : Code) (s : State) : (wstat w p o c s).seq = s.seq := State.wr_seq ..

/-- A CONTINUE that the state refuses. -/
theorem seqContinue_refused (hw : mayWrite w 0x220 s) (hp : s.pgRunning 0x220 = true) (hl : s.seq.loading = none) (h : s.seqSt ≠ seqPaused) :
    let t := regPut w (B.seq + SEQ.CMD.off) 4 s
    t.fld (page 0x220) PG.WSTAT_CODE = Code.state.num ∧ t.seq = s.seq := by
  have hc : Code.lowest (blockCodes w .seq 0x220 SEQ.CMD.off 4 (wakeWaiting s)) = .state := by
    rw [show blockCodes w .seq 0x220 SEQ.CMD.off 4 (wakeWaiting s) = seqCmdCodes 4 (wakeWaiting s) from rfl, seqCmdCodes_wakeWaiting,
      seqContinue_codes_refused hp hl h]
    rfl
  intro t
  have ht : t = wstat w 0x220 SEQ.CMD.off .state (wakeWaiting s) :=
    (regPut_refused seqCmd_plain hw (by decide) (by decide) (by rw [hc]; decide)).trans (by rw [hc])
  rw [ht]
  exact ⟨wstat_code w (by decide) .., (wstat_seq ..).trans (wakeWaiting_seq s)⟩

/-! ### Program loads (R138, R282) -/

theorem regPut_seqProgLoad (hv : v < 2 ^ 32) (h : admits w (B.seq + SEQ.PROG_LOAD.off) v s) :
    regPut w (B.seq + SEQ.PROG_LOAD.off) v s = seqDo 0x078 v (wakeWaiting s) := by
  refine (regPut_word (p := 0x220) (o := 0x078) (k := .seq) ⟨_, _, rfl⟩ (by decide) (by decide) w v s).trans ?_
  refine (if_pos h).trans ?_
  show seqDo 0x078 (BitVec.ofNat 32 v).toNat (wakeWaiting s) = _
  rw [BitVec.toNat_ofNat, Nat.mod_eq_of_lt hv]

theorem seqProgLoad_effect (v : W32) (h : admits w (B.seq + SEQ.PROG_LOAD.off) v.toNat s) :
    (regPut w (B.seq + SEQ.PROG_LOAD.off) v.toNat s).seq =
      { s.seq with load := some ⟨nbits v.toNat 16 4, s.fld B.seq SEQ.PROG_LOAD_LO + v.toNat % 256 * 2 ^ 32⟩ } := by
  have ha : progAddr (wakeWaiting s) B.seq SEQ.PROG_LOAD_LO v.toNat = s.fld B.seq SEQ.PROG_LOAD_LO + v.toNat % 256 * 2 ^ 32 := by
    unfold progAddr nbits
    rw [wakeWaiting_fld, Nat.pow_zero, Nat.div_one, show 2 ^ 8 = 256 from rfl]
  rw [regPut_seqProgLoad v.isLt h, ← ha, ← wakeWaiting_seq s]
  exact State.wr_seq ..

theorem seqProgDone_eq {l : ProgLoad} {r : Code × List W32} (hl : s.seq.load = some l) (hr : progRead smSeq l.addr s = r) :
    seqProgDone s = ((s.setSeq { s.seq with load := none, progs := if r.1 = .ok then s.seq.progs.ins l.slot r.2 else s.seq.progs }).wr
      (B.seq + SEQ.PROG_RES.off) (BitVec.ofNat 32 (r.1.num + l.slot * 65536))).irq 213 := by
  unfold seqProgDone
  rw [hl]
  simp only [hr]

theorem seqProgDone_effect {l : ProgLoad} {r : Code × List W32} (hl : s.seq.load = some l) (h16 : l.slot < 16)
    (hr : progRead smSeq l.addr s = r) : let t := seqProgDone s
    t.seq.load = none ∧ (t.rd (B.seq + SEQ.PROG_RES.off)).toNat = r.1.num + l.slot * 65536 ∧
      (r.1 = .ok → t.seq.progs.find l.slot = some r.2) ∧ (r.1 ≠ .ok → t.seq.progs = s.seq.progs) := by
  simp only [seqProgDone_eq hl hr, State.irq_seq, State.wr_seq, State.setSeq_seq]
  refine ⟨trivial, ?_, fun hok => ?_, fun hno => if_neg hno⟩
  · rw [irq_rd (by decide), State.rd_wr_same, progRes_toNat _ (by omega)]
  · rw [if_pos hok, Tab.find_ins_same]

/-! ### The end of a LOAD (R273) -/

theorem seqGo_statCode (st : Nat) (s : State) : (seqGo st s).fld B.seq SEQ.STAT_CODE = s.fld B.seq SEQ.STAT_CODE := by
  unfold seqGo
  rw [fewCheck_fld, State.fld_setFld_apart _ _ _ (by rfl) (by decide) (.inr (by decide))]

theorem seqGo_ycp (st : Nat) (s : State) : (seqGo st s).ycp = s.ycp := by
  obtain ⟨r, b, e⟩ := fewCheck_eq (s.setFld B.seq SEQ.STAT_STATE st)
  rw [seqGo, e]
  rfl

/-- The state with the track's check over: its code shows, and no LOAD runs. -/
def State.checked (c : Code) (s : State) : State := (s.setSeq { s.seq with loading := none }).setFld B.seq SEQ.STAT_CODE c.num

/-- What the end of a LOAD makes of the state in which its check ended. -/
def loadEnded (c : Code) (tr : Track) (s : State) : State :=
  if c = .ok then seqGo seqLoaded ((s.checked c).setSeq { s.seq with loading := none, track := some tr, cur := none, req := none })
  else s.checked c

theorem seqLoadDone_eq {a : Nat} {r : Code × Track × State} (hl : s.seq.loading = some a) (hr : trackCheck a s = r) :
    seqLoadDone s = (loadEnded r.1 r.2.1 r.2.2).irq 208 := by
  unfold seqLoadDone
  rw [hl]
  simp only [hr]
  rfl

theorem checked_statCode (c : Code) (s : State) : (s.checked c).fld B.seq SEQ.STAT_CODE = c.num := by
  unfold State.checked
  rw [State.fld_setFld_same _ _ _ _ (by decide)]
  exact Nat.mod_eq_of_lt (codeNum_wide c)

theorem checked_seqSt (c : Code) (s : State) : (s.checked c).seqSt = s.seqSt := by
  unfold State.checked State.seqSt
  rw [State.fld_setFld_apart _ _ _ (by rfl) (by decide) (.inl (by decide)), State.setSeq_fld]

theorem checked_seq (c : Code) (s : State) : (s.checked c).seq = { s.seq with loading := none } := by
  rw [State.checked, State.setFld_seq, State.setSeq_seq]

theorem checked_ycp (c : Code) (s : State) : (s.checked c).ycp = s.ycp := by rw [State.checked, State.setFld_ycp, State.setSeq_ycp]

/-- A track that passed its check is LOADED; under another code the sequencer's state and its track stand. -/
theorem loadEnded_effect (c : Code) (tr : Track) (s : State) : let t := loadEnded c tr s
    t.seq.loading = none ∧ t.fld B.seq SEQ.STAT_CODE = c.num ∧ (c = .ok → t.seqSt = seqLoaded ∧ t.seq.track = some tr) ∧
      (c ≠ .ok → t.seqSt = s.seqSt ∧ t.seq.track = s.seq.track) ∧ t.ycp = s.ycp := by
  unfold loadEnded
  by_cases hc : c = .ok
  · rw [if_pos hc]
    refine ⟨by rw [seqGo_seq, State.setSeq_seq], ?_, fun _ => ⟨seqGo_st (by decide) _, by rw [seqGo_seq, State.setSeq_seq]⟩,
      fun h => absurd hc h, ?_⟩
    · rw [seqGo_statCode, State.setSeq_fld, checked_statCode]
    · rw [seqGo_ycp, State.setSeq_ycp, checked_ycp]
  · rw [if_neg hc]
    dsimp only
    rw [checked_seq]
    exact ⟨rfl, checked_statCode c s, fun h => absurd h hc, fun _ => ⟨checked_seqSt c s, rfl⟩, checked_ycp c s⟩

/-- Without a session of the YCP nobody waits for the end of a LOAD. -/
theorem execSeqLoadDone_quiet {a : Nat} (hg : s.gated = false) (hl : s.seq.loading = some a) (hy : (seqLoadDone s).ycp.sess = {}) :
    exec .seqLoadDone s = .next ((seqLoadDone s).setYcp { (seqLoadDone s).ycp with patLate := false }) := by
  have hsess : ((seqLoadDone s).setYcp { (seqLoadDone s).ycp with patLate := false }).sessList = [] := by
    unfold State.sessList
    rw [State.setYcp_ycp]
    dsimp only
    rw [hy]
    rfl
  refine congrArg Host.Outcome.next ((unlessGated_runs hg _).trans ?_)
  rw [hl]
  dsimp only
  rw [hsess]
  exact ycpDrainAll_calm (ycpCalm_noSession hy)

theorem seqLoadDone_effect {a : Nat} {r : Code × Track × State} (hl : s.seq.loading = some a) (hr : trackCheck a s = r) :
    let t := seqLoadDone s
    t.seq.loading = none ∧ t.fld B.seq SEQ.STAT_CODE = r.1.num ∧ t.irqPending 208 = true ∧
      (r.1 = .ok → t.seqSt = seqLoaded ∧ t.seq.track = some r.2.1) ∧ (r.1 ≠ .ok → t.seqSt = s.seqSt ∧ t.seq.track = s.seq.track) ∧
      t.ycp = s.ycp := by
  have hio : IoStep (page 0x200) s r.2.2 := hr ▸ .trackCheck
  obtain ⟨h1, h2, h3, h4, h5⟩ := loadEnded_effect r.1 r.2.1 r.2.2
  have hst : r.2.2.seqSt = s.seqSt := hio.fld (by decide) (by decide)
  have hirq (f : Fld) (hf : B.seq + f.off ≠ B.intd + (0x080 + 4 * (208 / 32))) :
      ((loadEnded r.1 r.2.1 r.2.2).irq 208).fld B.seq f = (loadEnded r.1 r.2.1 r.2.2).fld B.seq f := irq_fld hf _
  rw [hst, hio.seq] at h4
  rw [seqLoadDone_eq hl hr]
  dsimp only
  rw [State.irq_seq, State.irq_ycp, State.seqSt, hirq _ (by decide), hirq _ (by decide)]
  exact ⟨h1, h2, irqPending_irq (by rfl) (by rfl), h3, h4, h5.trans hio.ycp⟩

end Sys2Proof.Machine
end

section
/-! Reads through an I/O unit that succeed: they leave an entry in the unit and nothing else (R192, R193). -/
namespace Sys2Proof.Machine

variable {s t u : State} {m pa : Nat}

/-! ### A walk that reads an entry in error -/

/-- `v'` walks as `v` does, with one more entry read: that at `pa`, which is in error. -/
structure EntryLost (pa : Nat) (v v' : WalkEnv) : Prop where
  st : v'.st = v.st
  look : v'.look = v.look
  loc : v'.loc = v.loc
  flt : v'.flt = v.flt
  got : ∀ a x, v.rd a = some x → v'.rd a = some x
  lost : v.rd pa = none → v'.rd pa = some none
  locGives : ∀ lv a p, v.loc lv a ≠ .error (.need p)
  fltEnds : ∀ lv r p, v.flt lv r ≠ .need p

section
variable {v v' : WalkEnv} (h : EntryLost pa v v')
include h

theorem EntryLost.entry_need {level node input : Nat} (he : v.entry level node input = .error (.need pa)) :
    v'.entry level node input = .error (v.flt level 7) := by
  unfold WalkEnv.entry at he ⊢
  rw [h.look, h.loc, h.flt]
  extract_lets at he ⊢
  split at he
  · cases he
  · split at he
    · next x hx =>
      cases he
      exact absurd hx (h.locGives _ _ _)
    · next a ha =>
      split at he
      · next hrd =>
        cases he
        rw [h.lost hrd]
      · exact absurd (Except.error.inj he) (h.fltEnds _ _ _)
      · cases he

theorem EntryLost.entry_ok {level node input : Nat} {r : W64 × Bool} (he : v.entry level node input = .ok r) :
    v'.entry level node input = .ok r := by
  unfold WalkEnv.entry at he ⊢
  rw [h.look, h.loc]
  extract_lets at he ⊢
  split at he
  · exact he
  · split at he
    · cases he
    · next a ha =>
      split at he
      · cases he
      · cases he
      · next e hrd =>
        rw [h.got _ _ hrd]
        exact he

/-- Where the walk had to wait for that entry, it now ends in a fault. -/
theorem EntryLost.walk_need {input : Nat} : ∀ {k level node : Nat} {acc : WalkLog}, v.walk input k level node acc = .error (.need pa) →
    ∃ lv r, v'.walk input k level node acc = .error (v.flt lv r)
  | 0, level, node, acc, hw => ⟨level, 2, by unfold WalkEnv.walk; rw [h.flt]⟩
  | k + 1, level, node, acc, hw => by
    unfold WalkEnv.walk at hw ⊢
    split at hw
    · next x hx =>
      cases hw
      rw [h.entry_need hx]
      exact ⟨level, 7, rfl⟩
    · next e cached hx =>
      rw [h.entry_ok hx, h.st, h.flt]
      extract_lets at hw ⊢
      split at hw
      · exact absurd (Except.error.inj hw) (h.fltEnds _ _ _)
      · exact absurd (Except.error.inj hw) (h.fltEnds _ _ _)
      · next next' hk =>
        dsimp only
        rw [hk]
        exact EntryLost.walk_need hw
      · cases hw

end

/-! ### The walk of an I/O unit -/

theorem lookupGot_append_some {got : List (Nat × Option W64)} {a : Nat} {x : Option W64} (h : lookupGot got a = some x)
    (l : List (Nat × Option W64)) :
    lookupGot (got ++ l) a = some x := by
  obtain ⟨y, hy, hx⟩ := Option.map_eq_some_iff.1 h
  unfold lookupGot
  rw [List.find?_append, hy]
  exact congrArg some hx

theorem lookupGot_append_new {got : List (Nat × Option W64)} (h : lookupGot got pa = none) (x : Option W64) :
    lookupGot (got ++ [(pa, x)]) pa = some x := by
  unfold lookupGot at h ⊢
  rw [List.find?_append, Option.map_eq_none_iff.1 h]
  simp

theorem entryLost_io (h : IoStep (page 0x111) s t) (got : List (Nat × Option W64)) :
    EntryLost pa (s.ioEnv got) (t.ioEnv (got ++ [(pa, none)])) where
  st := rfl
  look := rfl
  loc := by
    unfold State.ioEnv
    dsimp only
    funext lv a
    rw [h.region]
  flt := rfl
  got _ _ hx := lookupGot_append_some hx _
  lost hx := lookupGot_append_new hx none
  locGives lv a p := by
    unfold State.ioEnv
    dsimp only
    split <;> simp
  fltEnds lv r p := by simp [State.ioEnv]

/-- An entry that is read leaves nothing behind. -/
theorem ioTable_some {e : W64} (h : s.ioTable m pa = (some e, t)) : t = s := by
  unfold State.ioTable at h
  split at h
  · cases (Prod.mk.inj h).1
  · split at h
    · cases (Prod.mk.inj h).1
    · exact (Prod.mk.inj h).2.symm

/-- The walk of a stream's table as `ioXlate` makes it. -/
def ioLook (m addr : Nat) (x : State) (got : List (Nat × Option W64)) : Except XStop (Leaf × WalkLog) :=
  (x.ioEnv got).walk addr 4 0 (x.ioRoot m) {}

theorem ioRoot_congr (h : IoStep (page 0x111) s t) (hm : m < 2) : t.ioRoot m = s.ioRoot m := by
  have hreg (o : Nat) (ho : o < 64) : t.rd (B.iot + 0x40 + 16 * m + o) = s.rd (B.iot + 0x40 + 16 * m + o) := by
    refine h.rd _ ?_ ?_ <;> simp only [B.iot, page] <;> omega
  unfold State.ioRoot
  dsimp only
  rw [hreg 4 (by decide), hreg 8 (by decide)]

theorem ioLook_lost {addr : Nat} {got : List (Nat × Option W64)} (h : IoStep (page 0x111) s t) (hm : m < 2)
    (hn : ioLook m addr s got = .error (.need pa)) : ∃ lv r, ioLook m addr t (got ++ [(pa, none)]) = .error (.flt 7 lv r false false 0 0) := by
  obtain ⟨lv, r, hw⟩ := (entryLost_io (pa := pa) h got).walk_need hn
  refine ⟨lv, r, ?_⟩
  unfold ioLook
  rw [ioRoot_congr h hm, hw]
  rfl

/-- An attempt that ends in a fault ends the walk. -/
theorem ioWalk_flt {look : State → List (Nat × Option W64) → Except XStop (Leaf × WalkLog)} {k c lv r key x : Nat} {a b : Bool}
    {got : List (Nat × Option W64)} (h : look s got = .error (.flt c lv r a b key x)) : ∃ e, (s.ioWalk m look k got).1 = .error e := by
  cases k with
  | zero => exact ⟨(0, 7), rfl⟩
  | succ k =>
    unfold State.ioWalk
    rw [h]
    exact ⟨(lv, r), rfl⟩

/-- A walk that finds a leaf leaves the state as it was, where an entry in error ends it. -/
theorem ioWalk_found {look : State → List (Nat × Option W64) → Except XStop (Leaf × WalkLog)}
    (hlost : ∀ got pa t, IoStep (page 0x111) s t → look s got = .error (.need pa) →
      ∃ lv r, look t (got ++ [(pa, none)]) = .error (.flt 7 lv r false false 0 0)) {r : Leaf × WalkLog} :
    ∀ {k : Nat} {got : List (Nat × Option W64)}, (s.ioWalk m look k got).1 = .ok r → (s.ioWalk m look k got).2 = s
  | 0, _, _ => rfl
  | k + 1, got, h => by
    unfold State.ioWalk at h ⊢
    split at h
    · next pa hn =>
      have hstep : IoStep (page 0x111) s (s.ioTable m pa).2 := .ioTable le_rfl
      rcases hr : s.ioTable m pa with ⟨e, t⟩
      rw [hr] at h hstep
      cases e with
      | none =>
        obtain ⟨lv, rs, hl⟩ := hlost got pa t hstep hn
        obtain ⟨e, he⟩ := ioWalk_flt (m := m) (k := k) hl
        cases he.symm.trans h
      | some e =>
        have ht : t = s := ioTable_some hr
        rw [ht] at h ⊢
        exact ioWalk_found hlost h
    · cases h
    · rfl

/-! ### Reads that succeed -/

/-- `t` is `s` but for the entries of the fabric's units. -/
def FabOnly (s t : State) : Prop := ∃ f, t = { s with fab := f }

theorem FabOnly.refl (s : State) : FabOnly s s := ⟨s.fab, rfl⟩

theorem FabOnly.trans (h : FabOnly s t) (g : FabOnly t u) : FabOnly s u := by
  obtain ⟨f, rfl⟩ := h
  obtain ⟨f', rfl⟩ := g
  exact ⟨f', rfl⟩

/-- A line that the unit translates. -/
theorem ioXlate_ok {addr x : Nat} {wr : Bool} (hm : m < 2) (h : s.ioXlate m addr wr = .ok (x, t)) : FabOnly s t := by
  unfold State.ioXlate at h
  extract_lets b at h
  split at h
  · cases h
  split at h
  · cases h
    exact .refl s
  split at h
  · split at h <;> cases h
    exact .refl s
  · change ioLeaf m addr wr (s.ioWalk m (ioLook m addr) 5 []) = _ at h
    rcases hr : s.ioWalk m (ioLook m addr) 5 [] with ⟨res, y⟩
    rw [hr] at h
    cases res with
    | error e => cases h
    | ok r =>
      have hy : y = s := by
        have hw := ioWalk_found (s := s) (m := m) (look := ioLook m addr) (r := r) (fun got pa t h hn => ioLook_lost h hm hn) (k := 5)
          (got := [])
        rw [hr] at hw
        exact hw rfl
      unfold ioLeaf at h
      dsimp only at h
      split at h
      · split at h <;> cases h
        all_goals rw [hy]; exact ⟨_, rfl⟩
      · split at h <;> cases h
        all_goals rw [hy]; exact ⟨_, rfl⟩

theorem ioPieces_ok {wr : Bool} (hm : m < 2) : ∀ {l ps : List (Nat × Nat)} {s t : State}, s.ioPieces m wr l = .ok (ps, t) → FabOnly s t
  | [], ps, s, t, h => by
    cases h
    exact .refl s
  | (a, n) :: l, ps, s, t, h => by
    unfold State.ioPieces at h
    split at h
    · cases h
    · next pa s1 e =>
      have h1 : FabOnly s s1 := ioXlate_ok hm e
      by_cases ha : ¬ (s1.region pa).allows (if wr then .write else .read) 99 = true ∨ 2 ^ 40 < a + n
      · rw [if_pos ha] at h
        cases h
      by_cases ho : s1.outOfService pa = true
      · rw [if_neg ha, if_pos ho] at h
        cases h
      rw [if_neg ha, if_neg ho] at h
      split at h
      · cases h
      · next e2 =>
        cases h
        exact h1.trans (ioPieces_ok hm e2)

theorem ioPiece_some {p : Nat × Nat} {d : List Byte} (hp : s.region p.1 ≠ .regs) (h : s.ioPiece m p = (some d, t)) : t = s := by
  unfold State.ioPiece at h
  rw [if_neg hp] at h
  split at h
  · cases (Prod.mk.inj h).1
  · exact (Prod.mk.inj h).2.symm

theorem ioBytes_some : ∀ {l : List (Nat × Nat)} {d : List Byte} {t : State}, (∀ p ∈ l, s.region p.1 ≠ .regs) →
    s.ioBytes m l = (some d, t) → t = s
  | [], _, _, _, h => (Prod.mk.inj h).2.symm
  | p :: l, d, t, hl, h => by
    unfold State.ioBytes at h
    split at h
    · cases (Prod.mk.inj h).1
    · next e =>
      rw [ioPiece_some (hl p List.mem_cons_self) e] at h
      split at h
      · cases (Prod.mk.inj h).1
      · next e2 =>
        exact (Prod.mk.inj h).2.symm.trans (ioBytes_some (fun p hp => hl p (List.mem_cons_of_mem _ hp)) e2)

/-- Track bytes that are read leave an entry in the I/O unit alone. -/
theorem seqRead_some {a n : Nat} {d : List Byte} (h : seqRead a n s = (some d, t)) : FabOnly s t := by
  unfold seqRead at h
  split at h
  · cases (Prod.mk.inj h).1
  · next ps s1 e =>
    have h1 : FabOnly s s1 := ioPieces_ok (by decide) e
    split at h
    · next hall =>
      have ht : t = s1 := ioBytes_some (fun p hp => by
        have hd := List.all_eq_true.1 hall p hp
        rw [Bool.and_eq_true, beq_iff_eq] at hd
        exact fun hr => absurd (hd.1.symm.trans hr) (by decide)) h
      rwa [ht]
    · cases (Prod.mk.inj h).1

end Sys2Proof.Machine
end

section
/-! The rows of the pattern sequencer (R272, R274, R275), and its statement. -/
namespace Sys2Proof.Machine

variable {s : State} {tr : Track} {c : SeqRow} {q k : Nat} {e : RawEntry} {rest : List (Nat × RawEntry)} {w : Writer}

/-! ### The emitter, step by step -/

/-- Between rows there is nothing to emit. -/
theorem seqEmit_idle (hc : s.seq.cur = none) : ∀ k, seqEmit k s = s
  | 0 => rfl
  | k + 1 => by
    unfold seqEmit
    split
    · next h => cases h.symm.trans hc
    · rfl

section
variable (hr : s.seqSt = seqRunning) (ht : s.seq.track = some tr) (hc : s.seq.cur = some c)
include hr ht hc

theorem seqEmit_begins (ho : c.out = []) (hp : s.pgRunning 0x220 = true) : seqEmit (k + 1) s = seqEmit k (sliceBegin tr c s) := by
  have hr' : (s.seqSt == seqRunning) = true := beq_iff_eq.2 hr
  conv_lhs => unfold seqEmit
  simp only [hr', ht, hc, ho, hp, if_true]

theorem seqEmit_ends (ho : c.out ≠ []) (hl : c.left = []) : seqEmit (k + 1) s = seqEmit k (sliceEnd tr c s) := by
  have hr' : (s.seqSt == seqRunning) = true := beq_iff_eq.2 hr
  conv_lhs => unfold seqEmit
  simp only [hr', ht, hc]
  split
  · next hout => exact absurd hout ho
  · rfl
  · next hleft _ => cases hl.symm.trans hleft

theorem seqEmit_appends (ho : c.out ≠ []) (hl : c.left = (q, e) :: rest) :
    seqEmit (k + 1) s = if (sliceAppend c q e rest s).2 then seqEmit k (sliceAppend c q e rest s).1 else (sliceAppend c q e rest s).1 := by
  have hr' : (s.seqSt == seqRunning) = true := beq_iff_eq.2 hr
  conv_lhs => unfold seqEmit
  simp only [hr', ht, hc]
  split
  · next hout => exact absurd hout ho
  · next hleft _ => cases hl.symm.trans hleft
  · next hleft _ =>
    cases hl.symm.trans hleft
    rfl

end

/-! ### The end of a slice that ends its row -/

theorem seqTakeReq_none (h : s.seq.req = none) : seqTakeReq s = s := by
  unfold seqTakeReq
  rw [h]

/-- The row given up. -/
def rowLeft (c : SeqRow) (s : State) : State :=
  if c.first then (s.setSeq { s.seq with cur := none }).irq 209 else s.setSeq { s.seq with cur := none }

/-- The pass counted behind its last row. -/
def passCounted (tr : Track) (s : State) : State :=
  (s.incWrap B.seq SEQ.PASS).setFld B.seq SEQ.ROW (if tr.loop then 0 else s.fld B.seq SEQ.ROW + 1)

/-- The pass ended: from the start again in a loop, else DONE. -/
def passEnded (tr : Track) (s : State) : State :=
  if tr.loop then (passCounted tr s).setSeq { (passCounted tr s).seq with lastPos := none }
  else (seqGo seqDone ((passCounted tr s).setSeq { (passCounted tr s).seq with req := none })).irq 211

theorem rowEnd_eq (tr : Track) (c : SeqRow) (s : State) : rowEnd tr c s =
    if (rowLeft c s).fld B.seq SEQ.ROW + 1 < tr.rows then (rowLeft c s).setFld B.seq SEQ.ROW ((rowLeft c s).fld B.seq SEQ.ROW + 1)
    else passEnded tr (rowLeft c s) := rfl

theorem irq_seqFld {n : Nat} (hn : n < 256) (f : Fld) (s : State) : (s.irq n).fld B.seq f = s.fld B.seq f := by
  refine irq_fld ?_ s
  simp only [B.seq, B.intd, page]
  omega

theorem setFld_seqFld {f f' : Fld} (hf : f'.off ≠ f.off) (v : Nat) (s : State) : (s.setFld B.seq f v).fld B.seq f' = s.fld B.seq f' :=
  State.fld_setFld_off _ _ fun h => hf (Nat.add_left_cancel h)

theorem rowLeft_seq (c : SeqRow) (s : State) : (rowLeft c s).seq = { s.seq with cur := none } := by
  unfold rowLeft
  split
  · rw [State.irq_seq, State.setSeq_seq]
  · rw [State.setSeq_seq]

theorem rowLeft_eng (c : SeqRow) (s : State) : (rowLeft c s).eng = s.eng := by
  unfold rowLeft
  split
  · rw [State.irq_eng, State.setSeq_eng]
  · rw [State.setSeq_eng]

theorem rowLeft_fld (c : SeqRow) (s : State) (f : Fld) : (rowLeft c s).fld B.seq f = s.fld B.seq f := by
  unfold rowLeft
  split
  · rw [irq_seqFld (by decide), State.setSeq_fld]
  · rw [State.setSeq_fld]

theorem passCounted_seq (tr : Track) (s : State) : (passCounted tr s).seq = s.seq := by rw [passCounted, State.setFld_seq, State.incWrap_seq]

theorem passCounted_eng (tr : Track) (s : State) : (passCounted tr s).eng = s.eng := by rw [passCounted, State.setFld_eng, State.incWrap_eng]

theorem passCounted_emitCnt (tr : Track) (s : State) : (passCounted tr s).fld B.seq SEQ.EMIT_CNT = s.fld B.seq SEQ.EMIT_CNT :=
  (setFld_seqFld (by decide) ..).trans (setFld_seqFld (by decide) ..)

theorem passEnded_keeps (tr : Track) (s : State) : let t := passEnded tr s
    t.seq.cur = s.seq.cur ∧ (s.seq.req = none → t.seq.req = none) ∧ t.eng.queues = s.eng.queues ∧
      t.fld B.seq SEQ.EMIT_CNT = s.fld B.seq SEQ.EMIT_CNT := by
  unfold passEnded
  by_cases hl : tr.loop = true
  · rw [if_pos hl]
    dsimp only
    rw [State.setSeq_seq, State.setSeq_eng, State.setSeq_fld, passCounted_seq, passCounted_eng, passCounted_emitCnt]
    exact ⟨rfl, id, rfl, rfl⟩
  · rw [if_neg hl]
    dsimp only
    rw [State.irq_seq, seqGo_seq, State.setSeq_seq, State.irq_eng, seqGo_queues, State.setSeq_eng, irq_seqFld (by decide), seqGo_fld (by decide),
      State.setSeq_fld, passCounted_seq, passCounted_eng, passCounted_emitCnt]
    exact ⟨rfl, fun _ => rfl, rfl, rfl⟩

/-- The row register and the pass move, the state may; nothing is begun, and neither the queues nor what was emitted change. -/
theorem rowEnd_keeps (tr : Track) (c : SeqRow) (s : State) : let t := rowEnd tr c s
    t.seq.cur = none ∧ (s.seq.req = none → t.seq.req = none) ∧ t.eng.queues = s.eng.queues ∧
      t.fld B.seq SEQ.EMIT_CNT = s.fld B.seq SEQ.EMIT_CNT := by
  rw [rowEnd_eq]
  by_cases h : (rowLeft c s).fld B.seq SEQ.ROW + 1 < tr.rows
  · rw [if_pos h]
    dsimp only
    rw [State.setFld_seq, State.setFld_eng, setFld_seqFld (by decide), rowLeft_seq, rowLeft_eng, rowLeft_fld]
    exact ⟨rfl, id, rfl, rfl⟩
  · rw [if_neg h]
    obtain ⟨h1, h2, h3, h4⟩ := passEnded_keeps tr (rowLeft c s)
    rw [rowLeft_seq] at h1 h2
    rw [rowLeft_eng] at h3
    rw [rowLeft_fld] at h4
    exact ⟨h1, h2, h3, h4⟩

/-- Before the last row of a pass the next one follows. -/
theorem rowEnd_next (h : s.fld B.seq SEQ.ROW + 1 < tr.rows) (h32 : s.fld B.seq SEQ.ROW + 1 < 2 ^ 32) : let t := rowEnd tr c s
    t.seqSt = s.seqSt ∧ t.fld B.seq SEQ.ROW = s.fld B.seq SEQ.ROW + 1 ∧ t.seq = { s.seq with cur := none } := by
  rw [rowEnd_eq, rowLeft_fld, if_pos h]
  dsimp only
  rw [State.setFld_seq, State.fld_setFld_same _ _ _ _ (by decide), State.seqSt, setFld_seqFld (by decide), rowLeft_fld, rowLeft_seq]
  exact ⟨rfl, Nat.mod_eq_of_lt h32, rfl⟩

/-- The state vector after a slice. -/
def sliceVec (tr : Track) (c : SeqRow) (vec : Tab Bool) : Tab Bool :=
  (List.range 256).foldl (fun v i =>
    if 256 * c.slice + i < tr.width then v.set (fun _ => false) (tr.firstQ + (256 * c.slice + i)) (nbit (leNat c.out) i) else v) vec

/-- Setting what stands already changes nothing that is read. -/
theorem foldl_set_get {P : Nat → Prop} [DecidablePred P] {k : Nat → Nat} {b : Nat → Bool} {vec : Tab Bool} (q : Nat) :
    ∀ {l : List Nat} {v : Tab Bool}, (∀ i ∈ l, P i → b i = vec.get (fun _ => false) (k i)) →
      v.get (fun _ => false) q = vec.get (fun _ => false) q →
      (l.foldl (fun v i => if P i then v.set (fun _ => false) (k i) (b i) else v) v).get (fun _ => false) q = vec.get (fun _ => false) q
  | [], _, _, hv => hv
  | i :: l, v, h, hv => by
    refine foldl_set_get (l := l) q (fun j hj => h j (List.mem_cons_of_mem i hj)) ?_
    dsimp only
    split
    · next hp =>
      by_cases hq : q = k i
      · rw [hq, Tab.get_set_same, h i List.mem_cons_self hp]
      · rw [Tab.get_set_other _ _ hq, hv]
    · exact hv

/-- The slice done: its bits stand in the state vector. -/
def sliceDone (tr : Track) (c : SeqRow) (s : State) : State :=
  s.setSeq { s.seq with vec := sliceVec tr c s.seq.vec, cur := some { c with slice := c.slice + 1, out := [], left := [] } }

/-- A slice that its row ends with, when nothing was requested meanwhile. -/
theorem sliceEnd_row (hb : c.bad = false) (hw : tr.width ≤ 256 * (c.slice + 1)) (hq : s.seq.req = none) :
    sliceEnd tr c s = rowEnd tr c (sliceDone tr c s) := by
  have hend : sliceEnd tr c s = if c.bad then seqFail none false (sliceDone tr c s)
    else seqTakeReq (if tr.width ≤ 256 * (c.slice + 1) then rowEnd tr c (sliceDone tr c s) else sliceDone tr c s) := rfl
  obtain ⟨-, hreq, -, -⟩ := rowEnd_keeps tr c (sliceDone tr c s)
  rw [hend, if_neg (by rw [hb]; decide), if_pos hw, seqTakeReq_none (hreq hq)]

/-- The last slice of a row without an append left: the row ends, and nothing more is emitted. -/
theorem seqEmit_last (hr : s.seqSt = seqRunning) (ht : s.seq.track = some tr) (hc : s.seq.cur = some c) (ho : c.out ≠ []) (hl : c.left = [])
    (hb : c.bad = false) (hw : tr.width ≤ 256 * (c.slice + 1)) (hq : s.seq.req = none) :
    seqEmit (k + 1) s = rowEnd tr c (sliceDone tr c s) := by
  obtain ⟨hcur, -, -, -⟩ := rowEnd_keeps tr c (sliceDone tr c s)
  rw [seqEmit_ends hr ht hc ho hl, sliceEnd_row hb hw hq, seqEmit_idle hcur]

/-- The emitter has steps enough for what a single slice needs. -/
theorem seqFuel_steps : ∃ k, seqFuel = k + 1 + 1 := ⟨16511, rfl⟩

/-! ### An append that is retried (R274) -/

theorem queueAppend_ok_state {a : Appender} {n : BitVec 16} {t : State} (hn : n.toNat = q) (h : queueAppend a n e s = (t, .ok)) :
    t = appendDo q e s := by
  subst hn
  unfold queueAppend at h
  split at h
  · exact (Prod.mk.inj h).1.symm
  · next hne => exact absurd (Prod.mk.inj h).2 hne

theorem queueAppend_full_state {a : Appender} {n : BitVec 16} {t : State} (hn : n.toNat = q) (h : queueAppend a n e s = (t, .full)) :
    t = appendReject a q .full s := by
  subst hn
  unfold queueAppend at h
  split at h
  · cases (Prod.mk.inj h).2
  · next c hne =>
    obtain ⟨h1, h2⟩ := Prod.mk.inj h
    rw [← h1, h2]

/-- An append leaves the sequencer and its registers. -/
theorem appendDo_seq (q : Nat) (e : RawEntry) (s : State) : (appendDo q e s).seq = s.seq ∧ ∀ f : Fld, f.off < 4096 →
    (appendDo q e s).fld B.seq f = s.fld B.seq f := by
  unfold appendDo
  extract_lets x cap slot fresh s1
  have h1 : QueueStep q s s1 := putQueue_step
  refine ⟨(State.poke_seq ..).trans h1.seq, fun f hf => (State.poke_fld ..).trans (h1.fld ?_)⟩
  unfold QueueKey
  simp only [B.qd, B.eng, B.seq, page, QD.QSTATE]
  omega

theorem appendReject_seq (hq : q < 16384) (a : Appender) (c : Code) (s : State) : (appendReject a q c s).seq = s.seq ∧ ∀ f : Fld, f.off < 4096 →
    (appendReject a q c s).fld B.seq f = s.fld B.seq f := by
  obtain ⟨src, h⟩ := appendReject_eq hq a c s
  rw [h]
  refine ⟨by rw [State.irq_seq, State.wr_seq, State.wr_seq, State.incSat_seq, State.setFld_seq], fun f hf => ?_⟩
  have hoff : B.seq + f.off ≠ B.eng + ENG.REJ_SRC.off ∧ B.seq + f.off ≠ B.eng + ENG.REJ_INFO.off ∧ B.seq + f.off ≠ B.qd q + 0x034 := by
    simp only [B.seq, B.eng, B.qd, page, ENG.REJ_SRC, ENG.REJ_INFO]
    omega
  obtain ⟨hsrc, hinfo, hrej⟩ := hoff
  rw [irq_seqFld (by decide), State.fld_wr_off _ _ hsrc, State.fld_wr_off _ _ hinfo, State.incSat, State.fld_setFld_off _ _ hrej,
    State.fld_setFld_off _ _ hrej]

theorem seqRetry_emits (hc : s.seq.cur = some c) (hl : c.left ≠ []) : seqRetry s = seqEmit seqFuel s := by
  unfold seqRetry
  rw [hc]
  exact if_neg (by rwa [List.isEmpty_iff])

theorem seqPort_toNat (hq : q < 16384) : (BitVec.ofNat 16 q).toNat = q := queueNum_toNat ⟨q, hq⟩

theorem sliceAppend_full {t : State} (h : queueAppend .seq (BitVec.ofNat 16 q) e s = (t, .full)) : ∃ u, sliceAppend c q e rest s = (u, false) ∧
    u.seq.cur = t.seq.cur ∧ ∀ f : Fld, u.fld B.seq f = (t.incSat B.seq SEQ.WAIT_CNT).fld B.seq f := by
  unfold sliceAppend
  rw [h]
  refine ⟨_, rfl, ?_⟩
  split
  · exact ⟨congrArg Seq.cur (State.incSat_seq ..), fun _ => rfl⟩
  · refine ⟨?_, fun f => ?_⟩
    · rw [State.irq_seq, State.setSeq_seq, State.incSat_seq]
    · rw [irq_seqFld (by decide), State.setSeq_fld]

theorem State.setSeq_queue (s : State) (x : Seq) (q : Nat) : (s.setSeq x).queue q = s.queue q := rfl

/-- The state with an append of the slice made. -/
def appendMade (c : SeqRow) (rest : List (Nat × RawEntry)) (s : State) : State :=
  (s.setSeq { s.seq with cur := some { c with left := rest }, waited := false }).incWrap B.seq SEQ.EMIT_CNT

theorem sliceAppend_ok {t : State} (h : queueAppend .seq (BitVec.ofNat 16 q) e s = (t, .ok)) :
    sliceAppend c q e rest s = (appendMade c rest t, true) := by
  unfold sliceAppend
  rw [h]
  rfl

theorem appendMade_seqSt (c : SeqRow) (rest : List (Nat × RawEntry)) (s : State) : (appendMade c rest s).seqSt = s.seqSt :=
  (setFld_seqFld (by decide) ..).trans (State.setSeq_fld ..)

theorem appendMade_emitCnt (c : SeqRow) (rest : List (Nat × RawEntry)) (s : State) :
    (appendMade c rest s).fld B.seq SEQ.EMIT_CNT = (s.fld B.seq SEQ.EMIT_CNT + 1) % 2 ^ 32 :=
  (fld_incWrap_word _ B.seq SEQ.EMIT_CNT.off).trans (by rw [State.setSeq_fld]; rfl)

theorem appendMade_seq (c : SeqRow) (rest : List (Nat × RawEntry)) (s : State) :
    (appendMade c rest s).seq = { s.seq with cur := some { c with left := rest }, waited := false } := by
  rw [appendMade, State.incWrap_seq, State.setSeq_seq]

section
variable {t : State} (hr : s.seqSt = seqRunning) (ht : s.seq.track = some tr) (hc : s.seq.cur = some c) (ho : c.out ≠ [])
  (hl : c.left = (q, e) :: rest) (hq : q < 16384)
include hr ht hc ho hl hq

/-- While the queue is full the row waits where it is. -/
theorem seqRetry_full (h : queueAppend .seq (BitVec.ofNat 16 q) e s = (t, .full)) : let u := seqRetry s
    u.seq.cur = some c ∧ u.fld B.seq SEQ.WAIT_CNT = min (2 ^ 32 - 1) (s.fld B.seq SEQ.WAIT_CNT + 1) ∧ u.seqSt = seqRunning := by
  obtain ⟨u, hu, hcur, hfld⟩ := sliceAppend_full (c := c) (rest := rest) h
  have hstop : seqRetry s = u := by
    obtain ⟨k, hk⟩ := seqFuel_steps
    rw [seqRetry_emits hc (by rw [hl]; simp), hk, seqEmit_appends hr ht hc ho hl, hu]
    exact if_neg Bool.false_ne_true
  rw [queueAppend_full_state (seqPort_toNat hq) h] at hcur hfld
  obtain ⟨hseq, hregs⟩ := appendReject_seq hq .seq .full s
  rw [hstop]
  refine ⟨hcur.trans (by rw [hseq, hc]), ?_, ?_⟩
  · rw [hfld, ← hregs SEQ.WAIT_CNT (by decide)]
    exact incSat_word ..
  · rw [State.seqSt, hfld, State.incSat, setFld_seqFld (by decide), hregs _ (by decide)]
    exact hr

/-- The last append of a row's last slice ends the row. -/
theorem seqRetry_ok (h : queueAppend .seq (BitVec.ofNat 16 q) e s = (t, .ok)) (hrest : rest = []) (hb : c.bad = false) (hreq : s.seq.req = none)
    (hw : tr.width ≤ 256 * (c.slice + 1)) : let u := seqRetry s
    u.seq.cur = none ∧ (u.queue q).ents = (t.queue q).ents ∧ u.fld B.seq SEQ.EMIT_CNT = (s.fld B.seq SEQ.EMIT_CNT + 1) % 2 ^ 32 := by
  subst hrest
  obtain ⟨hseq, hregs⟩ := appendDo_seq q e s
  rw [← queueAppend_ok_state (seqPort_toNat hq) h] at hseq hregs
  obtain ⟨c', hc'⟩ : ∃ c', c' = { c with left := [] } := ⟨_, rfl⟩
  have hyseq : (appendMade c [] t).seq = { s.seq with cur := some c', waited := false } := by rw [appendMade_seq, hseq, hc']
  have hyst : (appendMade c [] t).seqSt = seqRunning := (appendMade_seqSt ..).trans ((hregs _ (by decide)).trans hr)
  obtain ⟨hcur, -, hqs, hcnt⟩ := rowEnd_keeps tr c' (sliceDone tr c' (appendMade c [] t))
  have hstop : seqRetry s = rowEnd tr c' (sliceDone tr c' (appendMade c [] t)) := by
    obtain ⟨k, hk⟩ := seqFuel_steps
    rw [seqRetry_emits hc (by rw [hl]; simp), hk, seqEmit_appends hr ht hc ho hl, sliceAppend_ok h]
    refine (if_pos rfl).trans (seqEmit_last hyst ?_ ?_ ?_ ?_ ?_ ?_ ?_)
    · rw [hyseq]
      exact ht
    · rw [hyseq]
    · rwa [hc']
    · rw [hc']
    · rwa [hc']
    · rwa [hc']
    · rw [hyseq]
      exact hreq
  rw [hstop]
  refine ⟨hcur, ?_, hcnt.trans ?_⟩
  · rw [State.queue_congr hqs, sliceDone, State.setSeq_queue, appendMade, State.incWrap_queue, State.setSeq_queue]
  · rw [sliceDone, State.setSeq_fld, appendMade_emitCnt, hregs SEQ.EMIT_CNT (by decide)]

end

/-! ### A row that is taken (R272, R275) -/

/-- A slice of a track without a program whose bits all stand in the state vector appends nothing. -/
theorem sliceBegin_same (hp : tr.prog = 0xFF) (hf : c.full = false) (h0 : c.slice = 0) (hlen : c.bytes.length = 32)
    (hbits : ∀ i, i < tr.width → nbit (leNat c.bytes) i = s.seq.vec.get (fun _ => false) (tr.firstQ + i)) :
    sliceBegin tr c s = s.setSeq { s.seq with cur := some { c with out := c.bytes, left := [], bad := false } } := by
  have hin : (c.bytes.drop (32 * c.slice)).take 32 = c.bytes := by
    rw [h0, Nat.mul_zero, List.drop_zero, List.take_of_length_le hlen.le]
  have hleft (g : Nat → Nat × RawEntry) : (List.range 256).filterMap (fun i =>
      if 256 * c.slice + i < tr.width ∧
        (c.full = true ∨ nbit (leNat c.bytes) i ≠ s.seq.vec.get (fun _ => false) (tr.firstQ + (256 * c.slice + i))) then
        some (g i) else none) = [] := by
    refine List.filterMap_eq_nil_iff.2 fun i _ => if_neg ?_
    rw [h0, hf, Nat.mul_zero, Nat.zero_add]
    rintro ⟨hw, hne⟩
    exact hne.elim (by decide) fun h => h (hbits i hw)
  unfold sliceBegin
  simp only [hin, hp, if_true]
  rw [hleft]

end Sys2Proof.Machine
end

section
/-! A row that is taken and needs no append (R274, R275), and what the sequencer does (R273 to R276, R282). -/
namespace Sys2Proof.Machine

variable {s t : State} {tr : Track} {r : List Byte} {target : W64} {w : Writer}

/-! ### A row that is taken -/

theorem FabOnly.keeps (h : FabOnly s t) : t.seq = s.seq ∧ t.regs = s.regs ∧ t.eng = s.eng := by
  obtain ⟨f, rfl⟩ := h
  exact ⟨rfl, rfl, rfl⟩

theorem pgRunning_congr (h : t.regs = s.regs) (p : Nat) : t.pgRunning p = s.pgRunning p := by
  simp only [State.pgRunning, State.pgEn, State.flag, State.fld_congr h]

/-- The row that the record `r` describes, which appends only where a bit differs. -/
def rowOf (r : List Byte) (target : W64) (s : State) : SeqRow :=
  ⟨r.drop 16, fieldAt r 0 4, BitVec.ofNat 64 (fieldAt r 8 8), target, false, 0, [], [], false,
    s.seq.lastCyc != some (fieldAt r 0 4, s.fld B.seq SEQ.PASS)⟩

/-- The state with that row begun. -/
def rowTaken (r : List Byte) (target : W64) (s : State) : State :=
  (s.setSeq { s.seq with
    cur := some (rowOf r target s), fresh := false, lastCyc := some (fieldAt r 0 4, s.fld B.seq SEQ.PASS)
    lastPos := some (fieldAt r 0 4, (BitVec.ofNat 64 (fieldAt r 8 8)).toNat) }).setFld B.seq SEQ.ROW_SUM 0

/-- The target of the row that `r` describes. -/
def State.rowTarget (s : State) (tr : Track) (r : List Byte) : W64 :=
  Machine.rowTarget tr (s.rd64 (B.seq + SEQ.BASE_LO.off)) (BitVec.ofNat 64 (s.fld B.seq SEQ.PASS)) (fieldAt r 0 4)
    (BitVec.ofNat 64 (fieldAt r 8 8))

/-- A row is taken once it comes within AHEAD of the master shaft. -/
theorem seqTake_row (hr : s.seqSt = seqRunning) (hp : s.pgRunning 0x220 = true) (ht : s.seq.track = some tr) (hc : s.seq.cur = none)
    (hpos : s.seq.lastPos = none) (hf : s.seq.fresh = false) (ho : s.snapOk (s.fld B.angle ANGLE.MASTER) = true)
    (hread : seqRead (tr.addr + 64 + s.fld B.seq SEQ.ROW * tr.rowB) tr.rowB s = (some r, t)) (hfull : nbit (fieldAt r 4 4) 0 = false) :
    seqTake s = if (s.fld B.seq SEQ.AHEAD : Int) * 256 <
        diff64 (s.rowTarget tr r) (s.rd64 (B.shaft (s.fld B.angle ANGLE.MASTER) + SHAFT.SNAP_A_LO.off)) then t
      else seqEmit seqFuel (rowTaken r (s.rowTarget tr r) t) := by
  obtain ⟨hseq, hregs, -⟩ := (seqRead_some hread).keeps
  have hrun : (s.seqSt == seqRunning && s.pgRunning 0x220) = true := by rw [hp, Bool.and_true, beq_iff_eq, hr]
  have hpos' : t.seq.lastPos = none := by rw [hseq, hpos]
  have hfresh : t.seq.fresh = false := by rw [hseq, hf]
  have hrd (k : Nat) : t.rd64 k = s.rd64 k := by rw [State.rd64, State.rd_congr hregs, State.rd_congr hregs, State.rd64]
  have htarget : s.rowTarget tr r = t.rowTarget tr r := by rw [State.rowTarget, State.rowTarget, hrd, State.fld_congr hregs]
  rw [htarget, ← hrd, ← State.fld_congr hregs B.seq SEQ.AHEAD]
  unfold seqTake
  simp only [hrun, ht, hc]
  rw [if_neg (not_not.2 ho)]
  simp only [hread, hpos', hfull, hfresh, Bool.or_false, Bool.false_eq_true, if_false]
  rfl

theorem rowTaken_seq (r : List Byte) (target : W64) (s : State) : (rowTaken r target s).seq = { s.seq with
    cur := some (rowOf r target s), fresh := false, lastCyc := some (fieldAt r 0 4, s.fld B.seq SEQ.PASS)
    lastPos := some (fieldAt r 0 4, (BitVec.ofNat 64 (fieldAt r 8 8)).toNat) } := by
  rw [rowTaken, State.setFld_seq, State.setSeq_seq]

theorem rowTaken_fld {f : Fld} (hf : f.off ≠ 0x064) : (rowTaken r target s).fld B.seq f = s.fld B.seq f := by
  rw [rowTaken, setFld_seqFld hf, State.setSeq_fld]

theorem rowTaken_pgRunning (r : List Byte) (target : W64) (s : State) : (rowTaken r target s).pgRunning 0x220 = s.pgRunning 0x220 := by
  unfold State.pgRunning State.pgEn State.flag
  rw [show page 0x220 = B.seq from rfl, rowTaken_fld (by decide), rowTaken_fld (by decide)]

theorem rowTaken_eng (r : List Byte) (target : W64) (s : State) : (rowTaken r target s).eng = s.eng := by
  rw [rowTaken, State.setFld_eng, State.setSeq_eng]

/-- The slice of a row that is emitted as it came from the track. -/
def SeqRow.plain (c : SeqRow) : SeqRow := { c with out := c.bytes, left := [], bad := false }

/-- The state with that slice begun. -/
def slicePlain (c : SeqRow) (s : State) : State := s.setSeq { s.seq with cur := some c.plain }

section
variable (hst : s.seqSt = seqRunning) (hp : s.pgRunning 0x220 = true) (ht : s.seq.track = some tr) (hq : s.seq.req = none) (hlen : r.length = 48)
  (hprog : tr.prog = 0xFF) (hw : tr.width ≤ 256)
  (hbits : ∀ i, i < tr.width → nbit (leNat (r.drop 16)) i = s.seq.vec.get (fun _ => false) (tr.firstQ + i))
include hst hp ht hq hlen hprog hw hbits

/-- A row of one slice whose bits all stand in the state vector ends at once. -/
theorem rowTaken_emits (target : W64) : seqEmit seqFuel (rowTaken r target s) =
    rowEnd tr (rowOf r target s).plain (sliceDone tr (rowOf r target s).plain (slicePlain (rowOf r target s) (rowTaken r target s))) := by
  have hbytes : (rowOf r target s).bytes.length = 32 := by
    rw [rowOf, List.length_drop, hlen]
  have hslice : sliceBegin tr (rowOf r target s) (rowTaken r target s) = slicePlain (rowOf r target s) (rowTaken r target s) :=
    sliceBegin_same hprog rfl rfl hbytes fun i hi => by
      rw [rowTaken_seq]
      exact hbits i hi
  have hyst : (rowTaken r target s).seqSt = seqRunning := (rowTaken_fld (by decide)).trans hst
  obtain ⟨k, hk⟩ := seqFuel_steps
  rw [hk, seqEmit_begins (c := rowOf r target s) hyst (by rw [rowTaken_seq]; exact ht) (by rw [rowTaken_seq]) rfl
    (by rw [rowTaken_pgRunning, hp]), hslice]
  refine seqEmit_last ((State.setSeq_fld ..).trans hyst) ?_ ?_ ?_ rfl rfl hw ?_
  · rw [slicePlain, State.setSeq_seq, rowTaken_seq]
    exact ht
  · rw [slicePlain, State.setSeq_seq]
  · exact List.ne_nil_of_length_pos (by rw [SeqRow.plain, hbytes]; decide)
  · rw [slicePlain, State.setSeq_seq, rowTaken_seq]
    exact hq

/-- It appends nothing, and the next row follows. -/
theorem rowTaken_effect (target : W64) (hn : s.fld B.seq SEQ.ROW + 1 < tr.rows) (h32 : s.fld B.seq SEQ.ROW + 1 < 2 ^ 32) :
    let u := seqEmit seqFuel (rowTaken r target s)
    u.seqSt = seqRunning ∧ u.seq.cur = none ∧ u.fld B.seq SEQ.ROW = s.fld B.seq SEQ.ROW + 1 ∧ u.eng.queues = s.eng.queues ∧
      ∀ q, u.seq.vec.get (fun _ => false) q = s.seq.vec.get (fun _ => false) q := by
  rw [rowTaken_emits hst hp ht hq hlen hprog hw hbits]
  obtain ⟨c, hc⟩ : ∃ c, c = (rowOf r target s).plain := ⟨_, rfl⟩
  have hfld {f : Fld} (hf : f.off ≠ 0x064) :
      (sliceDone tr c (slicePlain (rowOf r target s) (rowTaken r target s))).fld B.seq f = s.fld B.seq f := by
    rw [sliceDone, State.setSeq_fld, slicePlain, State.setSeq_fld, rowTaken_fld hf]
  rw [← hc]
  obtain ⟨h1, h2, h3⟩ := rowEnd_next (tr := tr) (c := c) (s := sliceDone tr c (slicePlain (rowOf r target s) (rowTaken r target s)))
    (by rwa [hfld (by decide)]) (by rwa [hfld (by decide)])
  obtain ⟨-, -, h4, -⟩ := rowEnd_keeps tr c (sliceDone tr c (slicePlain (rowOf r target s) (rowTaken r target s)))
  have hvec : (sliceDone tr c (slicePlain (rowOf r target s) (rowTaken r target s))).seq.vec = sliceVec tr c s.seq.vec := by
    rw [sliceDone, State.setSeq_seq, slicePlain, State.setSeq_seq, rowTaken_seq]
  refine ⟨h1.trans ((hfld (by decide)).trans hst), by rw [h3], by rw [h2, hfld (by decide)], ?_, fun q => ?_⟩
  · rw [h4, sliceDone, State.setSeq_eng, slicePlain, State.setSeq_eng, rowTaken_eng]
  · have hout : c.out = r.drop 16 := by rw [hc, SeqRow.plain, rowOf]
    have hzero : c.slice = 0 := by rw [hc, SeqRow.plain, rowOf]
    rw [h3]
    dsimp only
    rw [hvec, sliceVec, hout, hzero]
    refine foldl_set_get (P := fun i => 256 * 0 + i < tr.width) q (fun i _ hi => ?_) rfl
    rw [Nat.mul_zero, Nat.zero_add] at hi ⊢
    exact hbits i hi

end

/-! ### The statement -/

/-- Settles O48: each command by what its write of CMD does, the LOAD by what its reads leave, a row and an append by the steps of the
emitter. -/
theorem sequencerRows : Obligations.SequencerRows := by
  unfold Obligations.SequencerRows
  intro s w x may goes
  have hrun (hg : s.gated = false) (r : State) : (.next (s.unlessGated r) : Res) = .next r := congrArg _ (unlessGated_runs hg r)
  have hput {v op : Nat} (hm : BitVec.ofNat 32 v &&& ~~~(BitVec.ofNat 32 0x10F) = 0) (hv : v < 2 ^ 32) (hop : nbits v 0 4 = op) (h : may)
      (hc : seqCmdCodes op s = []) : regPut w (B.seq + SEQ.CMD.off) v s = seqCmdDo op (nbit v 8) (wakeWaiting s) := by
    subst hop
    exact regPut_seqCmd hm hv h.1 hc
  have hgo {st : Nat} {r : State} (hst : st < 8) (h : ∃ y, r = seqGo st ((wakeWaiting s).setSeq y)) : goes (.next r) st := by
    obtain ⟨y, rfl⟩ := h
    exact ⟨_, rfl, seqGo_goes hst y s⟩
  refine ⟨fun h hs => ?load, fun a hg hl hy => ?loadDone, fun keep h hs hm => ?start, fun h hs hi => ?pause, fun h hs hi => ?pauseWaits,
    fun h hs => ?continue_, fun h hs hi => ?stop, fun h hs => ?stopHeld, fun h hs => ⟨_, rfl, seqContinue_refused h.1 h.2.1 h.2.2 hs⟩,
    fun v h => ⟨_, rfl, seqProgLoad_effect v h⟩, fun l hg hl h16 => ⟨_, hrun hg _, seqProgDone_effect hl h16 rfl⟩,
    fun tr r s1 hg hr hp ht hc hq hpos hf ho hread hlen hfull hprog _ hw hbits => ?row,
    fun tr c q e rest s1 hg hr ht hc ho hl hq => ⟨fun h => ?full, fun h hrest hb hreq hw => ?appended⟩⟩
  case load =>
    have e := hput (v := 1) (op := 1) (by decide) (by decide) rfl h (seqLoad_codes h.2.1 h.2.2 hs)
    refine ⟨_, congrArg Host.Outcome.next (e.trans (seqLoad_eq ..)), ?_, (State.setSeq_regs ..).trans (wakeWaiting_regs s)⟩
    rw [State.setSeq_seq, wakeWaiting_seq, wakeWaiting_fld, wakeWaiting_fld]
  case loadDone =>
    obtain ⟨h1, h2, h3, h4, h5, h6⟩ := seqLoadDone_effect hl rfl
    exact ⟨_, execSeqLoadDone_quiet hg hl (by rw [h6, hy]), h1, h2, h3, h4, h5⟩
  case start =>
    have hbit : nbit (2 + 256 * b2n keep) 8 = keep := by cases keep <;> decide
    have e := hput (v := 2 + 256 * b2n keep) (op := 2) (by cases keep <;> decide) (by cases keep <;> decide) (by cases keep <;> decide) h
      (seqStart_codes h.2.1 h.2.2 hs hm)
    obtain ⟨h1, h2, h3, h4⟩ := seqStart_effect rfl keep (wakeWaiting s)
    rw [wakeWaiting_seq] at h4
    refine ⟨_, congrArg Host.Outcome.next (e.trans (by rw [hbit])), h1, h2, h3, ?_⟩
    rw [h4]
    exact ⟨rfl, rfl, rfl, rfl⟩
  case pause =>
    have e := hput (v := 3) (op := 3) (by decide) (by decide) rfl h (seqPause_codes h.2.1 h.2.2 hs)
    exact hgo (by decide) (e ▸ seqPause_now ((wakeWaiting_inSlice s).trans hi) _)
  case pauseWaits =>
    have e := hput (v := 3) (op := 3) (by decide) (by decide) rfl h (seqPause_codes h.2.1 h.2.2 hs)
    rw [seqPause_eq, seqRequest_waits ((wakeWaiting_inSlice s).trans hi)] at e
    exact ⟨_, congrArg Host.Outcome.next e, (State.setSeq_seqSt ..).trans ((wakeWaiting_seqSt s).trans hs),
      by rw [State.setSeq_seq, wakeWaiting_seq]⟩
  case continue_ =>
    have e := hput (v := 4) (op := 4) (by decide) (by decide) rfl h (seqContinue_codes h.2.1 h.2.2 hs)
    exact hgo (by decide) (e ▸ seqContinue_now _ _)
  case stop =>
    have e := hput (v := 5) (op := 5) (by decide) (by decide) rfl h (seqStop_codes h.2.1 h.2.2 (.inl hs))
    exact hgo (by decide) (e ▸ seqStop_now (fun _ => (wakeWaiting_inSlice s).trans hi) _)
  case stopHeld =>
    have e := hput (v := 5) (op := 5) (by decide) (by decide) rfl h (seqStop_codes h.2.1 h.2.2 (.inr hs))
    have hnot : (wakeWaiting s).seqSt ≠ seqRunning := by
      rw [wakeWaiting_seqSt]
      rcases hs with hs | hs <;> rw [hs] <;> decide
    exact hgo (by decide) (e ▸ seqStop_now (fun hs => absurd hs hnot) _)
  case row =>
    intro target ahead
    obtain ⟨hseq, hregs, heng⟩ := (seqRead_some hread).keeps
    have htake := seqTake_row hr hp ht hc hpos hf ho hread hfull
    have hfld (f : Fld) : s1.fld B.seq f = s.fld B.seq f := State.fld_congr hregs _ _
    refine ⟨fun hin hn h32 => ?_, fun hout => (hrun hg _).trans (by rw [htake]; exact congrArg _ (if_pos hout))⟩
    obtain ⟨h1, h2, h3, h4, h5⟩ :=
      rowTaken_effect (s := s1) (tr := tr) (r := r) ((hfld _).trans hr) (by rwa [pgRunning_congr hregs]) (by rw [hseq]; exact ht)
      (by rw [hseq]; exact hq) hlen hprog hw (by rw [hseq]; exact hbits) target (by rwa [hfld]) (by rwa [hfld])
    refine ⟨_, (hrun hg _).trans (by rw [htake]; exact congrArg _ (if_neg (not_lt.2 hin))), h1, h2, h3.trans (by rw [hfld]),
      h4.trans (by rw [heng]), ?_⟩
    rw [hseq] at h5
    exact h5
  case full =>
    exact ⟨_, hrun hg _, seqRetry_full hr ht hc ho hl hq h⟩
  case appended =>
    exact ⟨_, hrun hg _, seqRetry_ok hr ht hc ho hl hq h hrest hb hreq hw⟩

end Sys2Proof.Machine
end
